-- ==== Sys2Proof/Word.lean ====
section
/-!
DEFINITION. The word types of the model and the shape of its sparse tables: bytes, the 64-bit registers of the
scalar lane, 256-bit control words, and lists of (key, value) pairs in one canonical form. Their operations stand in
Machine/Maps.lean and Machine/Bits.lean.
-/
namespace Sys2Proof

/-- One byte of a memory (R5, R6). -/
abbrev Byte := BitVec 8

/-- A scalar register of a core (R71). -/
abbrev Word64 := BitVec 64

/-- A control word (R75). -/
abbrev Word256 := BitVec 256

/-- A string of bytes, the byte at the lowest offset first (R5, R6). -/
abbrev Bytes := List Byte

/-- A sparse table: pairs of a key and a value, keys strictly rising, no value equal to what an unlisted key holds. -/
abbrev SMap (α : Type) := List (Nat × α)

/-- A byte memory: a sparse table of bytes, each pair a `Host.Cell`. -/
abbrev Memory := SMap Byte

/-- A finite set of numbers, as a strictly rising list. -/
abbrev NatSet := List Nat

end Sys2Proof
end

