-- ==== Sys2Proof/Syntax.lean ====
section
/-!
DEFINITION. The commands of the module: one constructor per row of the opcode table, with the row's operands.
A word command is one whole beat of the named core, whose word at pc holds the row's operation; `upset` says whether an
uncorrectable error is met at that beat (R198). `host` operands are what the host answered to the module's read: none where
it refused (R301). `lost` is the level at which the verification of a counter block fails on its way up the tree: 0 the block, 1 and 2 a node
(R400, R403); `first` and `second` whether the line's tag verifies (R402).
-/
namespace Sys2Proof

/-- What a panel's sensors and fit give at a window boundary (R352 to R358): junction readings in 1/16 °C, the measured beat
rate in M beats/s, and the fitted coolant temperature in 1/16 °C, thermal resistance in 1/1,000 °C/W, and the share
1 − exp(−1 ms / tau) in 1/65,536; `supply` is the supply monitor's reading in mV (R365). -/
structure PanelSense where
  junctions : List Int
  supply : Nat
  rate : Nat
  coolant : Int
  resistance : Nat
  share : Nat
  deriving DecidableEq, Repr, Inhabited

/-- A layer that a job marks escalable (R63, R64): its identifier, its threshold, its persistence where one is given, and its compiled
variants, by mode 0, 1 and 2, each as the words it lays over the image's: (stage, word address, word). -/
structure LayerEntry where
  layer : Nat
  threshold : Nat
  persist : Option Nat
  variants : List (List (Nat × Nat × BitVec 256))
  deriving DecidableEq, Repr, Inhabited

/-- What raises an environmental tamper event (R433): a rail out of its window for some ns, a light detector, a security sensor's
reading in 1/16 °C. -/
inductive TamperSource where
  | rail (ns : Nat)
  | light
  | sensor (temp : Int)
  deriving DecidableEq, Repr

/-- What the module's own sensors give at a window boundary (R352, R486): the non-panel energy of the previous window in
drops, and the power stages' and temperature readings; `watch` is what the security processor's detectors report (R433). -/
structure ModuleSense where
  other : Nat
  vin : Nat
  iin : Nat
  pin : Nat
  tstage : Int
  thub : Int
  tport : Int
  watch : List TamperSource
  deriving DecidableEq, Repr, Inhabited

/-- A rise of the input to 48 V (R473, R475): whether RESET_N is already released, and for how many milliseconds the input had been below
5 V before it rose. -/
structure PowerRise where
  released : Bool
  low : Nat
  deriving DecidableEq, Repr, Inhabited

/-- A release of a port's PERST_N (R470, R476): the port, and whether its REFCLK is present. -/
structure PerstRelease where
  port : Nat
  refclk : Bool
  deriving DecidableEq, Repr, Inhabited

/-- What a SETDASA carries (R482): the static address it names, and the dynamic address it gives. -/
structure StaticCall where
  static : Nat
  address : Nat
  deriving DecidableEq, Repr, Inhabited

/-- What takes a thermal trip (R480), with the readings in 1/16 °C. -/
inductive TripSource where
  | junctions (panel : Nat) (a b : Int)
  | hubOrPort (t : Int)
  | gddr (channel : Nat) (t : Int)
  | stage (t : Int)
  deriving DecidableEq, Repr, Inhabited

/-- The run of a scatter-add unit's oldest request (R170, R402): the unit's quadrant, and the lines of its rows that fail
verification at their reads. -/
structure ScatterRun where
  quadrant : Nat
  fails : List Nat
  deriving DecidableEq, Repr, Inhabited

/-- A whole protected line to write (R404, R406): its bytes, and the lines of its group that fail verification where the write
re-encrypts the group. -/
structure LineData where
  bytes : Bytes
  bad : List Nat
  deriving DecidableEq, Repr, Inhabited

/-- A layer or job whose weight routine runs (R210, R221), and the core at which an uncorrectable error is met, where one is (R198). -/
structure RoutineRun where
  of : Nat
  upset : Option Nat
  deriving DecidableEq, Repr, Inhabited

/-- The layers of a job that JOB_CREATE marks escalable (R63), and its members that are AZF-2 modules (R280). -/
structure JobForms where
  escalable : List LayerEntry
  azf2 : List Nat
  deriving DecidableEq, Repr, Inhabited

/-- A queue entry as the host answered its read, and what the checks made at the fetch read beside it (R313): the object list and the member
list of a JOB_CREATE (R331), with its forms, and the image of an IMAGE_LOAD (R329); none where the host refused the read (R301). -/
structure EntryRead where
  entry : Option Bytes
  list : Option Bytes
  members : Option Bytes
  forms : JobForms
  image : Option Bytes
  deriving DecidableEq, Repr, Inhabited

/-- Which function's CTRL_CMD a driver writes, whether it writes go, and, where it writes a cmd that names no command (0 and 5 to 15, R307) in
place of the row's own, that value: such a write, and one without go, starts nothing. -/
structure CtrlGo where
  fn : Nat
  go : Bool
  idle : Option Nat
  deriving DecidableEq, Repr, Inhabited

/-- A write of CTRL_CMD with the fields that only ATTACH acts on (R307). -/
structure CtrlWrite where
  at_ : CtrlGo
  takeover : Bool
  vmin : Nat
  vmax : Nat
  deriving DecidableEq, Repr, Inhabited

/-- What the host answered to the module's read, none where it refused, and whether it refuses the module's write (R301). -/
structure HostAnswer where
  read : Option Bytes
  refused : Bool
  deriving DecidableEq, Repr, Inhabited

/-- A started command that only writes to the host, and whether the host refuses that write (R301). -/
structure HostWrite where
  cmd : Nat
  refused : Bool
  deriving DecidableEq, Repr, Inhabited

/-- What a debugger with core scope asks of a core (R435): to read or write a scalar register, a run of local bytes or of
tile-register bytes, a word of the word store or the program counter, or to let a core stopped at BREAK go on. -/
inductive CoreAccess where
  | readSreg (k : Nat)
  | writeSreg (k : Nat) (v : Word64)
  | readLocal (addr len : Nat)
  | writeLocal (addr : Nat) (bytes : Bytes)
  | readTile (addr len : Nat)
  | writeTile (addr : Nat) (bytes : Bytes)
  | readWord (addr : Nat)
  | writeWord (addr : Nat) (w : Word256)
  | readPc
  | writePc (addr : Nat)
  | goOn
  deriving DecidableEq, Repr, Inhabited

/-- A command. -/
inductive Instr where
  /-- STREAM_ACCUMULATE (R134): A compute word with aop 1 issues a token that adds its column sums into the addressed accumulator region. -/
  | streamAccumulate (core : Nat) (upset : Bool)
  /-- STREAM_INITIALISE (R134): A compute word with aop 2 issues a token whose column sums overwrite the addressed accumulator region. -/
  | streamInitialise (core : Nat) (upset : Bool)
  /-- WASH (R141): A compute word with aop 3 issues one line access of a natural weight block into the weight register of the next parity. -/
  | wash (core : Nat) (upset : Bool)
  /-- WASH_TRANSPOSED (R123): A compute word with aop 4 issues one transposed slot-column access of a weight block into the next-parity register. -/
  | washTransposed (core : Nat) (upset : Bool)
  /-- HELD_WEIGHT_ROW_WRITE (R141): A held weight row is written into its cell row once that row's register of its parity is released by the passing last token. -/
  | heldWeightRowWrite (core : Nat)
  /-- TOKEN_LANDING (R133): An accumulator line of a token's output region lands at its fixed beat and clears its pending-write bit. -/
  | tokenLanding (core : Nat)
  /-- OPERATION_LANDING (R94): A scalar, vector, load, store or readout result lands at its fixed landing beat and clears the pending-write bits it set. -/
  | operationLanding (core : Nat)
  /-- READOUT (R78): A compute word with ro_en set reads one accumulator row, converts it and writes it with any scale codes to the destination line. -/
  | readout (core : Nat) (upset : Bool)
  /-- COLLECTIVE_TRIGGER (R111): A compute word with coll set reports the core's contribution to the collective bound in cslot at the landing beat of its last write. -/
  | collectiveTrigger (core : Nat) (upset : Bool)
  /-- LOOP_CLOSE (R88): A word's close bits decrement loop levels, branch to the body start with generator increments, or deactivate the level. -/
  | loopClose (core : Nat) (upset : Bool)
  /-- CONDITIONAL_EXIT (R88): A word with exit_en set and a non-zero tested register deactivates levels up to exit_lvl and jumps to that level's exit target. -/
  | conditionalExit (core : Nat) (upset : Bool)
  /-- SET_LEVEL (R84): A loop set-up word of kind 0 activates a loop level with its count, body start, exit target and generator increments. -/
  | setLevel (core : Nat) (upset : Bool)
  /-- SET_BASE (R84): A loop set-up word of kind 1 sets a generator's space, base and current address. -/
  | setBase (core : Nat) (upset : Bool)
  /-- SET_STRIDES (R84): A loop set-up word of kind 2 sets a generator's four strides. -/
  | setStrides (core : Nat) (upset : Bool)
  /-- SET_STREAM (R84): A loop set-up word of kind 3 writes a stream identifier into a stream register. -/
  | setStream (core : Nat) (upset : Bool)
  /-- LOAD_IMM (R84): A loop set-up word of kind 4 writes a 64-bit immediate into a scalar register. -/
  | loadImm (core : Nat) (upset : Bool)
  /-- SEND (R105): A message-and-sync word sends one 64 B line on a channel to the core and expected epoch named by a route register. -/
  | sendMessage (core : Nat) (upset : Bool)
  /-- POST (R98): A message-and-sync word opens a receive window of n scratch lines on a channel and sets their pending-write bits. -/
  | postWindow (core : Nat) (upset : Bool)
  /-- WAIT_RECV (R108): A message-and-sync word issues once n messages have filled the window and writes the last sender's number. -/
  | waitRecv (core : Nat) (upset : Bool)
  /-- WAIT_SEND (R108): A message-and-sync word issues once no send on its channel is outstanding and writes the count of failed sends. -/
  | waitSend (core : Nat) (upset : Bool)
  /-- MESSAGE_ARRIVAL (R107): A message reaches its destination port, is epoch-checked and goes to the window or holding register, or is dropped as stale. -/
  | messageArrival (index : Nat)
  /-- SEND_COMPLETION (R105): The delivered or failed outcome of a send reaches the sending core and updates its outstanding and failed counts. -/
  | sendCompletion (index : Nat)
  /-- COLLECTIVE_BIND (R111): A collective-bind word binds a binding slot to a collective descriptor. -/
  | collectiveBind (core : Nat) (upset : Bool)
  /-- UNBIND (R86): A collective-bind word with unbind set releases a binding slot. -/
  | unbind (core : Nat) (upset : Bool)
  /-- END (R87): A halt/debug word with hop 0 ends the program once every issued operation has landed and produces a halt record with reason 0x00. -/
  | endProgram (core : Nat) (upset : Bool)
  /-- BREAK (R87): A halt/debug word with hop 1 stops the core for the debugger when a debug session is active, and otherwise does nothing. -/
  | breakPoint (core : Nat) (upset : Bool)
  /-- CHECK (R87): A halt/debug word with hop 2 halts the core with reason 0x0E when the named scalar register is non-zero. -/
  | checkRegister (core : Nat) (upset : Bool)
  /-- RUN_AHEAD_FETCH (R101): A far-space generator fetches a line up to 64 beats ahead of issue into the staging buffer, recording any bounds or poison fault. -/
  | runAheadFetch (core gen : Nat)
  /-- STAGED_LINE_ARRIVAL (R183): A far line fetched ahead arrives in the staging buffer. -/
  | stagedLineArrival (core gen : Nat) (bad : Bool)
  /-- CHUNK_PACKER (R237): After a packing trigger lands, the packer reads accumulator rows, encodes G16 chunks and hands them to retention, reduction or the reduced array. -/
  | chunkPacker (core : Nat)
  /-- VECTOR_NOP (R155): Vector opcode 0x00 issues no vector operation. -/
  | vectorNop (core : Nat) (upset : Bool)
  /-- VECTOR_LD (R154): Loads one 64 B line into half of a tile-register row. -/
  | vectorLd (core : Nat) (upset : Bool)
  /-- VECTOR_ST (R154): Stores half of a tile-register row to one 64 B line. -/
  | vectorSt (core : Nat) (upset : Bool)
  /-- LDB (R154): Writes one line into the chosen half of all 32 rows of a tile register. -/
  | ldb (core : Nat) (upset : Bool)
  /-- LDS (R160): Moves a scale strip from a line into the scale bytes of every row of a tile register. -/
  | lds (core : Nat) (upset : Bool)
  /-- STS (R160): Moves the scale bytes of every row of a tile register into a scale-strip line. -/
  | sts (core : Nat) (upset : Bool)
  /-- TREQ (R166): Sends a 64 B table request line to the quadrant's gather or scatter-add unit, capturing the core number and epoch. -/
  | treq (core : Nat) (upset : Bool)
  /-- VECTOR_ADD (R156): Element-wise A + B in FP32 or INT32. -/
  | vectorAdd (core : Nat) (upset : Bool)
  /-- VECTOR_SUB (R156): Element-wise A − B in FP32 or INT32. -/
  | vectorSub (core : Nat) (upset : Bool)
  /-- VECTOR_MUL (R156): Element-wise A × B in FP32 or INT32. -/
  | vectorMul (core : Nat) (upset : Bool)
  /-- VECTOR_FMA (R156): Element-wise A × B + D with one rounding. -/
  | vectorFma (core : Nat) (upset : Bool)
  /-- FNMA (R156): Element-wise D − A × B with one rounding. -/
  | fnma (core : Nat) (upset : Bool)
  /-- VECTOR_MIN (R156): Element-wise smaller of A and B. -/
  | vectorMin (core : Nat) (upset : Bool)
  /-- VECTOR_MAX (R156): Element-wise larger of A and B. -/
  | vectorMax (core : Nat) (upset : Bool)
  /-- ABS (R156): Element-wise absolute value of A. -/
  | abs (core : Nat) (upset : Bool)
  /-- NEG (R156): Element-wise negation of A. -/
  | neg (core : Nat) (upset : Bool)
  /-- VECTOR_MOV (R155): Element-wise copy of A. -/
  | vectorMov (core : Nat) (upset : Bool)
  /-- VECTOR_CEQ (R156): Element-wise INT32 1 where A equals B, else 0. -/
  | vectorCeq (core : Nat) (upset : Bool)
  /-- CLT (R156): Element-wise INT32 1 where A is less than B, else 0. -/
  | clt (core : Nat) (upset : Bool)
  /-- CLE (R156): Element-wise INT32 1 where A is at most B, else 0. -/
  | cle (core : Nat) (upset : Bool)
  /-- VECTOR_SEL (R155): Element-wise selection of A where D is non-zero, else B, as 32-bit patterns. -/
  | vectorSel (core : Nat) (upset : Bool)
  /-- VECTOR_AND (R155): Bitwise AND of 32-bit patterns. -/
  | vectorAnd (core : Nat) (upset : Bool)
  /-- VECTOR_OR (R155): Bitwise OR of 32-bit patterns. -/
  | vectorOr (core : Nat) (upset : Bool)
  /-- VECTOR_XOR (R155): Bitwise XOR of 32-bit patterns. -/
  | vectorXor (core : Nat) (upset : Bool)
  /-- VECTOR_SHL (R156): Element-wise left shift of A by B mod 32. -/
  | vectorShl (core : Nat) (upset : Bool)
  /-- VECTOR_SHR (R156): Element-wise logical right shift of A by B mod 32. -/
  | vectorShr (core : Nat) (upset : Bool)
  /-- VECTOR_ASR (R156): Element-wise arithmetic right shift of A by B mod 32. -/
  | vectorAsr (core : Nat) (upset : Bool)
  /-- LDEXP (R155): Element-wise A × 2^B with B as INT32. -/
  | ldexp (core : Nat) (upset : Bool)
  /-- SGN (R156): Element-wise sign of A as −1.0, ±0.0 or +1.0. -/
  | sgn (core : Nat) (upset : Bool)
  /-- PADD (R155): Packed 16-bit element-wise addition. -/
  | padd (core : Nat) (upset : Bool)
  /-- PSUB (R155): Packed 16-bit element-wise subtraction. -/
  | psub (core : Nat) (upset : Bool)
  /-- PMUL (R155): Packed 16-bit element-wise multiplication. -/
  | pmul (core : Nat) (upset : Bool)
  /-- PFMA (R155): Packed 16-bit element-wise fused multiply-add. -/
  | pfma (core : Nat) (upset : Bool)
  /-- PMIN (R155): Packed 16-bit element-wise minimum. -/
  | pmin (core : Nat) (upset : Bool)
  /-- PMAX (R155): Packed 16-bit element-wise maximum. -/
  | pmax (core : Nat) (upset : Bool)
  /-- CVT (R159): Converts a tile from an unscaled source format to the target format and variant. -/
  | cvt (core : Nat) (upset : Bool)
  /-- CVT32 (R159): Converts a tile from a B32E8-scaled source to the target format and variant. -/
  | cvt32 (core : Nat) (upset : Bool)
  /-- CVT16 (R159): Converts a tile from a B16F8-scaled source to the target format and variant. -/
  | cvt16 (core : Nat) (upset : Bool)
  /-- SCL (R159): Computes the block scales a conversion would choose and writes them to the scale bytes of the destination. -/
  | scl (core : Nat) (upset : Bool)
  /-- RSUM (R157): Per-row sum of a tile into row 0 of the destination. -/
  | rsum (core : Nat) (upset : Bool)
  /-- RMAX (R157): Per-row maximum of a tile into row 0 of the destination. -/
  | rmax (core : Nat) (upset : Bool)
  /-- RMIN (R157): Per-row minimum of a tile into row 0 of the destination. -/
  | rmin (core : Nat) (upset : Bool)
  /-- RAMAX (R157): Per-row maximum magnitude of a tile into row 0 of the destination. -/
  | ramax (core : Nat) (upset : Bool)
  /-- RSSQ (R157): Per-row sum of squares of a tile into row 0 of the destination. -/
  | rssq (core : Nat) (upset : Bool)
  /-- CSUM (R157): Per-column sum of a tile into row 0 of the destination. -/
  | csum (core : Nat) (upset : Bool)
  /-- CMAX (R157): Per-column maximum of a tile into row 0 of the destination. -/
  | cmax (core : Nat) (upset : Bool)
  /-- CMIN (R157): Per-column minimum of a tile into row 0 of the destination. -/
  | cmin (core : Nat) (upset : Bool)
  /-- CAMAX (R157): Per-column maximum magnitude of a tile into row 0 of the destination. -/
  | camax (core : Nat) (upset : Bool)
  /-- CSSQ (R157): Per-column sum of squares of a tile into row 0 of the destination. -/
  | cssq (core : Nat) (upset : Bool)
  /-- TRN (R155): Transposes a 32-bit tile into the destination. -/
  | trn (core : Nat) (upset : Bool)
  /-- EXP (R161): Correctly rounded element-wise e^x. -/
  | exp (core : Nat) (upset : Bool)
  /-- LOG (R161): Correctly rounded element-wise natural logarithm. -/
  | log (core : Nat) (upset : Bool)
  /-- RSQRT (R161): Correctly rounded element-wise reciprocal square root. -/
  | rsqrt (core : Nat) (upset : Bool)
  /-- SIN (R161): Correctly rounded element-wise sine. -/
  | sin (core : Nat) (upset : Bool)
  /-- COS (R161): Correctly rounded element-wise cosine. -/
  | cos (core : Nat) (upset : Bool)
  /-- RCP (R161): Correctly rounded element-wise reciprocal. -/
  | rcp (core : Nat) (upset : Bool)
  /-- HAD (R162): Walsh–Hadamard transform of length 2^m with no sign diagonal. -/
  | had (core : Nat) (upset : Bool)
  /-- HADF (R162): Walsh–Hadamard transform with the sign diagonal applied first. -/
  | hadf (core : Nat) (upset : Bool)
  /-- HADL (R162): Walsh–Hadamard transform with the sign diagonal applied last. -/
  | hadl (core : Nat) (upset : Bool)
  /-- SCALAR_NOP (R163): Scalar opcode 0x00 issues no scalar operation. -/
  | scalarNop (core : Nat) (upset : Bool)
  /-- SCALAR_ADD (R163): 64-bit wrapping addition. -/
  | scalarAdd (core : Nat) (upset : Bool)
  /-- SCALAR_SUB (R163): 64-bit wrapping subtraction. -/
  | scalarSub (core : Nat) (upset : Bool)
  /-- SCALAR_AND (R163): 64-bit bitwise AND. -/
  | scalarAnd (core : Nat) (upset : Bool)
  /-- SCALAR_OR (R163): 64-bit bitwise OR. -/
  | scalarOr (core : Nat) (upset : Bool)
  /-- SCALAR_XOR (R163): 64-bit bitwise XOR. -/
  | scalarXor (core : Nat) (upset : Bool)
  /-- SCALAR_SHL (R163): 64-bit left shift by b mod 64. -/
  | scalarShl (core : Nat) (upset : Bool)
  /-- SCALAR_SHR (R163): 64-bit logical right shift by b mod 64. -/
  | scalarShr (core : Nat) (upset : Bool)
  /-- SCALAR_ASR (R163): 64-bit arithmetic right shift by b mod 64. -/
  | scalarAsr (core : Nat) (upset : Bool)
  /-- SCALAR_CEQ (R163): 1 if sa equals b, else 0. -/
  | scalarCeq (core : Nat) (upset : Bool)
  /-- CLTU (R163): 1 if sa is below b unsigned, else 0. -/
  | cltu (core : Nat) (upset : Bool)
  /-- CLTS (R163): 1 if sa is below b signed, else 0. -/
  | clts (core : Nat) (upset : Bool)
  /-- SCALAR_MIN (R163): Signed minimum. -/
  | scalarMin (core : Nat) (upset : Bool)
  /-- SCALAR_MAX (R163): Signed maximum. -/
  | scalarMax (core : Nat) (upset : Bool)
  /-- SCALAR_SEL (R163): sa if s[sd] is non-zero, else b. -/
  | scalarSel (core : Nat) (upset : Bool)
  /-- SCALAR_MOV (R163): Moves b into the destination register. -/
  | scalarMov (core : Nat) (upset : Bool)
  /-- SCALAR_MUL (R163): Low 64 bits of sa × b. -/
  | scalarMul (core : Nat) (upset : Bool)
  /-- MULHU (R163): High 64 bits of the unsigned product. -/
  | mulhu (core : Nat) (upset : Bool)
  /-- MULHS (R163): High 64 bits of the signed product. -/
  | mulhs (core : Nat) (upset : Bool)
  /-- SCALAR_LD (R164): Loads 8 B from local address s[sa] + imm18 into s[sd]. -/
  | scalarLd (core : Nat) (upset : Bool)
  /-- SCALAR_ST (R164): Stores s[sd] to local address s[sa] + imm18. -/
  | scalarSt (core : Nat) (upset : Bool)
  /-- MVG (R165): Moves b into a generator's base, current address or stride, pausing that generator's run-ahead. -/
  | mvg (core : Nat) (upset : Bool)
  /-- FADD (R164): FP64 addition. -/
  | fadd (core : Nat) (upset : Bool)
  /-- FSUB (R164): FP64 subtraction. -/
  | fsub (core : Nat) (upset : Bool)
  /-- FMUL (R164): FP64 multiplication. -/
  | fmul (core : Nat) (upset : Bool)
  /-- SCALAR_FMA (R164): FP64 fused multiply-add with one rounding. -/
  | scalarFma (core : Nat) (upset : Bool)
  /-- FMIN (R163): FP64 minimum. -/
  | fmin (core : Nat) (upset : Bool)
  /-- FMAX (R163): FP64 maximum. -/
  | fmax (core : Nat) (upset : Bool)
  /-- FCLT (R163): 1 if sa is below sb as FP64, else 0. -/
  | fclt (core : Nat) (upset : Bool)
  /-- F64TO32 (R163): Converts FP64 to FP32 in the low 32 bits. -/
  | f64to32 (core : Nat) (upset : Bool)
  /-- F32TO64 (R163): Converts the FP32 in the low 32 bits to FP64. -/
  | f32to64 (core : Nat) (upset : Bool)
  /-- GATHER_TO_WINDOW (R169): A gather unit runs a request of op 0, delivering merged table rows and a completion as messages into the requester's window. -/
  | gatherToWindow (quadrant : Nat)
  /-- GATHER_TO_FAR_MEMORY (R169): A gather unit runs a request of op 1, writing merged table rows to addr2 and sending a completion message. -/
  | gatherToFarMemory (quadrant : Nat)
  /-- SCATTER_ADD (R170): A scatter-add unit merges contributions per row and updates each named table row indivisibly, then sends a completion. -/
  | scatterAdd (run : ScatterRun)
  /-- CORE_LAUNCH (R114): The queue engine loads a core's word store and launches its program with the initial core state. -/
  | coreLaunch (core job : Nat)
  /-- RESERVOIR_PATROL_SCRUB (R197): Each panel reads every reservoir line once every 10 s and corrects single-bit errors in place. -/
  | reservoirPatrolScrub (panel : Nat) (bad : List Nat) (corrected : Nat)
  /-- SRAM_CORRECTED_ERROR_RATE (R197): A panel correcting more than 1,000 errors in 1 s raises a degraded entry. -/
  | sramCorrectedErrorRate (panel count : Nat)
  /-- GDDR7_REFRESH (R190): A channel issues per-bank refresh commands at the base or doubled rate set by device temperature. -/
  | gddr7Refresh (channel : Nat)
  /-- GDDR7_TEMPERATURE_READOUT (R190): The controller reads device temperature, sets the refresh rate and reports devices above 95 °C. -/
  | gddr7TemperatureReadout (channel : Nat) (temp : Int)
  /-- GDDR7_ECC_COUNT_READ (R191): Each second the controller reads on-die ECC counts and logs any non-zero count. -/
  | gddr7EccCountRead (channel count : Nat)
  /-- GDDR7_RETRIES_EXHAUSTED (R191): A channel exhausting its retries 16 times within 1 s raises a module fault. -/
  | gddr7RetriesExhausted (channel region line : Nat) (write : Bool)
  /-- PROTECTED_LINE_READ (R402): A port die reads a GDDR7 line, verifying its counter block up the tree and its tag, poisoning it on a double failure. -/
  | protectedLineRead (region line : Nat) (lost : Option Nat) (first second : Bool)
  /-- PROTECTED_LINE_WRITE (R404): A whole-line write seals the line under a new minor counter, initialising an unwritten group first. -/
  | protectedLineWrite (region line : Nat) (data : LineData)
  /-- PARTIAL_LINE_WRITE (R405): A partial write reads and verifies the line, merges the new bytes and writes the whole line, or poisons it and faults the atelier. -/
  | partialLineWrite (region line off : Nat) (data : Bytes) (lost : Option Nat) (good : Bool)
  /-- REGION_REKEY (R407): A region whose major counter would overflow is resealed line by line under a new key epoch. -/
  | regionRekey (region lines : Nat) (bad : List Nat)
  /-- MODULE_AREA_PATROL (R494): Each port die verifies every written line of its module area once a second. -/
  | moduleAreaPatrol (die : Nat) (lines : List (Nat × Nat)) (nodes : List (Nat × Nat × Nat))
  /-- DMA_SEGMENT_ISSUE (R193): A DMA engine takes the next segment of a started command under priority order. -/
  | dmaSegmentIssue (die : Nat) (host : Option Bytes)
  /-- TRANSFER_TAG_GRANT (R195): A segment waiting on an exhausted atelier quota receives a freed transfer tag in request order. -/
  | transferTagGrant (atelier : Nat) (host : Option Bytes)
  /-- DMA_SEGMENT_COMPLETE (R195): A segment completes per its destination and frees its tag; the last one completes its command. -/
  | dmaSegmentComplete (tag : Nat)
  /-- STEP_LAUNCH (R229): Before a step's programs launch, the hub computes step keys and the queue engine writes the step block. -/
  | stepLaunch (job : Nat)
  /-- LAYER_COUNT_GATHER (R60): At the end of each pass, the queue engine sums every core's counter slots into layer count records. -/
  | layerCountGather (job : Nat)
  /-- UPDATE_ROUTINE_LAUNCH (R212): Once a layer's reduced chunks have all passed, the optimistic update routine journals and writes new weights and copies. -/
  | updateRoutineLaunch (job : Nat) (layer : RoutineRun)
  /-- SEAL_RECORD_BUILD (R216): When a step's programs, collectives, chunks and updates have ended, the member builds its seal record and starts the exchange. -/
  | sealRecordBuild (job : Nat)
  /-- SEAL_DECISION (R220): With every record and the count vector held, each member decides the step's outcome from the records. -/
  | sealDecision (job : Nat)
  /-- SEAL_ACTIONS (R221): After every update routine has ended, the members perform the actions of the decided outcome. -/
  | sealActions (job : RoutineRun)
  /-- SEAL_TIMEOUT (R296): A seal missing a record or count vector 500 ms after the record was built gives the outcome fault. -/
  | sealTimeout (job : Nat)
  /-- CHUNK_RECEIVE (R247): A chunk entering a reduction engine or being written to the reduced array undergoes the receive check. -/
  | chunkReceive (die : Nat)
  /-- ADDER (R244): Once all inputs of a chunk are present, the adder sums them, checks residues and forwards or writes the result. -/
  | adder (die : Nat)
  /-- PORT_BRING_UP (R275): A port with an expected peer starts the lanes and sends training frames to detect the peer. -/
  | portBringUp (port : Nat)
  /-- PEER_DETECT_TIMEOUT (R275): Peer detection not done within 5 ms fails the bring-up attempt. -/
  | peerDetectTimeout (port : Nat)
  /-- EQUALISATION_ATTEMPT (R275): An equalisation attempt succeeds below the error-ratio target or is abandoned after 100 ms for the next preset. -/
  | equalisationAttempt (port : Nat) (success : Bool)
  /-- BRING_UP_RETRY (R275): A port whose four presets all failed raises a degraded entry and restarts bring-up each second. -/
  | bringUpRetry (port : Nat)
  /-- HELLO (R278): A received hello flit negotiates the version and checks the peer against the ground image. -/
  | helloFlit (port : Nat)
  /-- RETRAIN (R277): A port seeing too many decode failures or replays within 1 ms retrains from its present taps. -/
  | retrain (port : Nat)
  /-- RETRAIN_REQUEST (R277): A received retrain request flit makes the port retrain. -/
  | retrainRequest (port : Nat)
  /-- PORT_LOST (R298): A port not up within 50 ms of going down is lost; collectives abort, packets are discarded and bring-up restarts. -/
  | portLost (port : Nat)
  /-- CODEWORD_RECEIVE (R266): A received codeword is accepted in sequence or discarded with a nak, and acks are sent every 16 accepted.
  `errors` counts the symbols that arrived wrong (R263); the fields are those sent. -/
  | codewordReceive (port errors cseq lcmap : Nat) (flits : List Bytes)
  /-- ACK_AND_CREDIT (R265): A received ack-and-credit flit releases acknowledged codewords, triggers replay on nak and returns credits. -/
  | ackAndCredit (port : Nat)
  /-- PACKET_SEND (R272): A port schedules the next packet by priority and credits and assigns its ctr. -/
  | packetSend (port : Nat)
  /-- BULK_WRITE (R268): A received bulk write packet lands in a peer-writable object of its lease or is refused, and is answered with a bulk response. -/
  | bulkWrite (port : Nat)
  /-- CHUNKS (R289): A received chunk packet is matched to its collective, fingerprint-checked and handed to the reduction engines. -/
  | chunksPacket (port : Nat)
  /-- SPARSE_PAIRS (R295): A received sparse-pair packet contributes index and row pairs to a sparse exchange. -/
  | sparsePairs (port : Nat)
  /-- GATHER (R294): A received gather packet delivers seal records, count vectors or all-gather data. -/
  | gatherPacket (port : Nat)
  /-- ABORT (R291): A received abort packet aborts the collective and every later collective of the step. -/
  | abortPacket (port : Nat)
  /-- END_TO_END_ACK (R284): A received end-to-end ack releases gallery-store packets and adjusts the window. -/
  | endToEndAck (port : Nat)
  /-- SESSION_KIND_1 (R282): Handshake message 1 with certificate, ephemeral key and nonce opens a session. -/
  | sessionKind1 (port : Nat)
  /-- SESSION_KIND_2 (R282): Handshake message 2 with certificate, ephemeral key, nonce and signature answers message 1. -/
  | sessionKind2 (port : Nat)
  /-- SESSION_KIND_3 (R282): Handshake message 3 with the final signature completes the session. -/
  | sessionKind3 (port : Nat)
  /-- SESSION_RETRY (R282): A failed handshake is retried after 1 s. -/
  | sessionRetry (peer : Nat)
  /-- SESSION_REKEY (R281): A session is rekeyed by a new handshake before either ctr reaches 2^48. -/
  | sessionRekey (peer : Nat)
  /-- REAL_TIME_PARCEL (R377): A received real-time parcel packet carries one query to a slot of an atelier, or is dropped. -/
  | realTimeParcel (port : Nat)
  /-- BULK_RESPONSE (R269): A received bulk response completes the DMA segment of its bulk write. -/
  | bulkResponse (port : Nat)
  /-- GALLERY_RETRANSMISSION (R284): After 16 µs without ack progress, the source resends every unacknowledged packet. -/
  | galleryRetransmission (peer : Nat)
  /-- END_TO_END_ACK_TIMER (R284): A destination sends an ack at least every 2 µs while any packet is unacknowledged. -/
  | endToEndAckTimer (peer : Nat)
  /-- RAIL_DESTINATION_LOST (R298): A destination showing no progress over 8 consecutive resends is lost and its collectives abort. -/
  | railDestinationLost (peer : Nat)
  /-- COLLECTIVE_LAUNCH (R290): When every contributor has reported, the collective launches, computes its fingerprint and releases held packets. -/
  | collectiveLaunch (job desc : Nat)
  /-- COLLECTIVE_TIMEOUT (R296): A collective not completed within its timeout aborts with reason 0x0401. -/
  | collectiveTimeout (job desc : Nat)
  /-- COLLECTIVE_COMPLETION (R292): A completed collective with notify set sends a message to every local contributing core. -/
  | collectiveCompletion (job desc : Nat)
  /-- ATTACH (R309): Attaches an atelier through a virtual function, negotiating the version and creating its admin queue. -/
  | attach (port : Nat) (fn : CtrlGo) (vmin vmax : Nat) (takeover : Bool) (ring cq shadow args : Word64)
  /-- DETACH (R310): Detaches the function's atelier. -/
  | detach (port : Nat) (fn : CtrlWrite)
  /-- SILLAGE (R460): Writes a one-moment summary of everything the function may see. -/
  | sillage (port : Nat) (fn : CtrlWrite) (addr len : Word64)
  /-- ATELIER_RESET (R452): Resets an atelier's cores and returns it from the faulted state. -/
  | atelierReset (port : Nat) (fn : CtrlWrite) (arg : Word64)
  /-- SQ_TAIL (R316): A doorbell write of the submission count lets the queue engine fetch new commands. -/
  | sqTail (port fn queue : Nat) (value : BitVec 32)
  /-- CQ_HEAD (R316): A doorbell write of the consumed completion count frees completion-ring room and releases held completions. -/
  | cqHead (port fn queue : Nat) (value : BitVec 32)
  /-- PERST_N (R303): Assertion of a port's PERST_N resets the port and detaches every atelier attached through it. -/
  | perstAssert (port : Nat)
  /-- HOT_RESET (R303): A hot reset of a port detaches every atelier attached through it. -/
  | hotReset (port : Nat)
  /-- PCIE_LINK_LOSS (R303): Loss of a port's link detaches every atelier attached through it. -/
  | pcieLinkLoss (port : Nat)
  /-- FUNCTION_LEVEL_RESET (R303): A function-level reset of a physical function resets the port, and of a virtual function detaches its atelier. -/
  | functionLevelReset (port fn : Nat)
  /-- DETACHMENT_QUEUE_DESTROY (R304): After detachment, the atelier's queues are destroyed once no accepted command of theirs remains. -/
  | detachmentQueueDestroy (queue : Nat)
  /-- ATS_INVALIDATION (R301): An ATS invalidation removes cached translations before its completion is sent. -/
  | atsInvalidation (port : Nat) (pasid : Option Nat) (page : Nat)
  /-- COMMAND_FETCH (R313): The queue engine fetches a command, checks it, accepts or rejects it and writes the shadow count. -/
  | commandFetch (queue : Nat) (entry : EntryRead)
  /-- COMMAND_START (R326): An accepted command starts once its predecessor has started and its fence wait is satisfied. -/
  | commandStart (queue : Nat)
  /-- CTX_CREATE (R315): Creates a context and returns its number. -/
  | ctxCreate (cmd : Nat)
  /-- CTX_BIND (R322): Changes a context's PASID and port. -/
  | ctxBind (cmd : Nat)
  /-- CTX_DESTROY (R322): Destroys a context with no remaining objects. -/
  | ctxDestroy (cmd : Nat)
  /-- QUEUE_CREATE (R314): Creates a work or real-time queue and returns its global number. -/
  | queueCreate (cmd : Nat)
  /-- QUEUE_DESTROY (R312): Destroys a queue. -/
  | queueDestroy (cmd : Nat)
  /-- MOBJ_CREATE (R318): Allocates and maps a zeroed memory object and returns its slot. -/
  | mobjCreate (cmd : Nat)
  /-- MOBJ_FREE (R319): Condemns a memory object and completes when it is released. -/
  | mobjFree (cmd : Nat)
  /-- FENCE_CREATE (R323): Creates a fence with its initial value. -/
  | fenceCreate (cmd : Nat)
  /-- FENCE_DESTROY (R319): Condemns a fence and completes at its release. -/
  | fenceDestroy (cmd : Nat)
  /-- IMAGE_LOAD (R329): Reads, checks and keeps a program image on package and returns its slot. -/
  | imageLoad (cmd : Nat) (host : Option Bytes)
  /-- IMAGE_FREE (R319): Condemns a program image and completes at its release. -/
  | imageFree (cmd : Nat)
  /-- COLL_CREATE (R495): Checks a collective descriptor, copies its contributor table on package and creates it. -/
  | collCreate (cmd : Nat)
  /-- COLL_FREE (R319): Condemns a collective descriptor and completes at its release. -/
  | collFree (cmd : Nat)
  /-- JOB_CREATE (R332): Checks a job descriptor and creates a training or serving job from an image. -/
  | jobCreate (cmd : Nat) (members objs : Option Bytes) (forms : JobForms)
  /-- JOB_RUN (R332): Launches a job's steps until the given number reach non-fault outcomes. -/
  | jobRun (cmd : Nat)
  /-- JOB_STOP (R332): Ends a job's steps at the next step boundary or a serving job after its running pass. -/
  | jobStop (cmd : Nat)
  /-- DMA (R333): Moves data between host, device and peer in segments, opening parcels under a lease. -/
  | dmaCommand (cmd : Nat)
  /-- SIGNAL (R312): Does nothing but signal its fence through sig_en. -/
  | signal (cmd : Nat)
  /-- NOP (R312): Does nothing. -/
  | queueNop (cmd : Nat)
  /-- SNAPSHOT (R231): Writes an FP8 or FP4 copy of the last committed weights of a job into a destination object. -/
  | snapshot (cmd : Nat)
  /-- FENCE_SIGNAL (R324): The fence unit applies one signal, updating the value, shadow and vector, and re-evaluates waits. -/
  | fenceSignal
  /-- OBJECT_RELEASE (R319): A condemned object whose references reach zero is unmapped, zeroed and freed, completing its free command. -/
  | objectRelease (kind : Nat) (slot : Nat)
  /-- RECOVERY_WRITE (R444): A go on the recovery function reads, verifies and writes a bank image to bank A and boots from it. -/
  | recoveryWrite (port : Nat) (addr len : Word64) (image : Option Bytes) (success : Bool)
  /-- WINDOW_BOUNDARY (R352): At each 8 µs window the flacon reads sensors, divides the budget, sets classes and voltages and dispatches. -/
  | windowBoundary (senses : List PanelSense) (sense : ModuleSense)
  /-- ENERGY_METERING (R354): Every 250 ns each panel meters its energy and withholds launch tokens near its budget. -/
  | energyMetering (panel drops draw : Nat)
  /-- CORE_COMMAND_DISPATCH (R359): When a core command ends, ready core commands are started in priority order where they fit. -/
  | coreCommandDispatch
  /-- RESERVATION (R360): A core command passed over in 64 consecutive windows takes a reservation and lowers panel voltage to fit. -/
  | reservation (cmd : Nat)
  /-- SLICE_END (R342): A job's time slice ends while a contender is ready, so the job is switched out at its next tile boundary. -/
  | sliceEnd (job : Nat)
  /-- STOP_AT_TILE_BOUNDARY (R340): A core stopped at its next tile boundary drains its tokens, sends and table requests. -/
  | stopAtTileBoundary (core : Nat)
  /-- DECANT (R344): The outgoing job's cores are saved as decant records and the incoming job is restored or launched. -/
  | decant (outgoing incoming : Nat)
  /-- COLD_START_END (R362): After 25,000 loaded windows on every active panel, the flacon uses its fitted values and the full cap. -/
  | coldStartEnd
  /-- CLASS_FALLBACK (R358): A panel below its class bound less 3 °C for 1 ms falls back to the lower class. -/
  | classFallback (panel : Nat)
  /-- CLAMP_RELEASE (R365): A clamp ends after the difference has stayed within 100 mV and 20 °C for 1 ms. -/
  | clampRelease (panel other : Nat)
  /-- PWR_CURB_N_ASSERT (R366): Assertion of PWR_CURB_N cuts token rates to the curb fractions within 250 ns and halves the budget. -/
  | pwrCurbNAssert
  /-- PWR_CURB_N_RELEASE (R367): Release of PWR_CURB_N restores the budget and logs the assertion. -/
  | pwrCurbNRelease
  /-- PERIOD_BOUNDARY (R386): At a period boundary a pending snapshot goes into service and a clean start follows any dropped pass. -/
  | periodBoundary (atelier : Nat)
  /-- OCCURRENCE_OPENING (R380): At a slot opening, leaves, joins and steps are processed, records written and the pass launched. -/
  | occurrenceOpening (atelier slot : Nat)
  /-- QUERY_ARRIVAL (R379): An opened query is held in the module area and bound to its occurrence. -/
  | queryArrival (cmd : Nat) (parcel : Option Bytes)
  /-- PASS_END (R388): After a pass reaches END, the replies of its outbox are sealed and sent and host commands complete. -/
  | passEnd (atelier cls : Nat)
  /-- SLOT_DEADLINE (R384): A pass not at END by its deadline is dropped, its queries reported late and its sequences broken. -/
  | slotDeadline (atelier cls : Nat)
  /-- PROPOSE (R411): LEASE_BEGIN act 0 checks a commission, draws a wrapping key pair and writes a provenance record. -/
  | leasePropose (cmd : Nat) (host : HostAnswer)
  /-- SHARE (R414): LEASE_BEGIN act 1 accepts a patron's wrapped share, activating the lease at the last share. -/
  | leaseShare (cmd : Nat) (host : Option Bytes)
  /-- REPORT (R414): LEASE_BEGIN act 2 writes a fresh provenance record carrying the caller's nonce. -/
  | leaseReport (cmd : HostWrite)
  /-- LEASE_END (R431): Stops the atelier's work, erases lease keys, drains tags, clears memory and closes the lease. -/
  | leaseEnd (cmd : Nat)
  /-- TAG_DRAIN_BOUND (R431): Tags still held 10 ms into a drain are freed and their engines reset. -/
  | tagDrainBound (atelier : Nat)
  /-- EXHIBIT (R428): Checks an exhibit order and writes the committed weights as a sealed stream under a wrapped export key. -/
  | exhibitCommand (cmd : Nat) (host : HostAnswer)
  /-- CHECKPOINT_SAVE (R425): Writes the job's committed state as a sealed stream under the checkpoint key. -/
  | checkpointSave (cmd : HostWrite)
  /-- CHECKPOINT_RESTORE (R426): Verifies a sealed checkpoint and writes the job's arrays from it. -/
  | checkpointRestore (cmd : Nat) (host : Option Bytes)
  /-- ENVIRONMENTAL_TAMPER_EVENT (R433): A rail, light or temperature tamper erases keys, resets the module and burns a tamper fuse. -/
  | environmentalTamperEvent
  /-- MESH_BREAK (R434): A broken active mesh blows the tamper fuse. -/
  | meshBreak
  /-- DEBUG_CHALLENGE (R435): The test port returns a fresh 16-byte challenge. -/
  | debugChallenge
  /-- DEBUG_TOKEN (R436): A valid debug token ends all leases, burns a debug fuse and reboots with the granted scopes open. -/
  | debugToken (token : Bytes)
  /-- POWER_UP (R475): The input rising to 48 V brings the rails up in order and starts the I3C target. -/
  | powerUp (released : PowerRise)
  /-- MODULE_BOOT (R438): Release of RESET_N or power-up starts a boot: mesh check, bank selection, firmware load, self-test and training. -/
  | moduleBoot (meshWhole : Bool) (failed : Option (Nat × Nat))
  /-- GDDR7_TRAINING_COMPLETE (R455): At the end of GDDR7 training the early ring is copied into the blotter in the module area. -/
  | gddr7TrainingComplete (success : Bool)
  /-- MODULE_READY (R438): The module becomes ready and waiting ATTACH commands proceed. -/
  | moduleReady
  /-- RESET_N_ASSERTION (R477): A recognised RESET_N assertion stops all work, erases keys and holds the module in reset. -/
  | resetNAssertion
  /-- POWER_LOSS_SHUTDOWN (R473): An undervoltage or overvoltage stops all work, erases keys and brings the rails down in order. -/
  | powerLossShutdown
  /-- THERMAL_TRIP (R480): A sensor at its trip limit shuts the module down and latches THERM_TRIP_N and FAULT_N. -/
  | thermalTrip (source : TripSource)
  /-- TRIP_LATCH_RELEASE (R474): The input falling below 5 V releases a latched thermal trip. -/
  | tripLatchRelease
  /-- LREF_LOCK (R471): LREF locking switches the timestamp source and lets Darval ports begin bring-up. -/
  | lrefLock
  /-- LREF_LOSS (R471): Loss of LREF moves the counter to the internal oscillator and takes Darval ports down. -/
  | lrefLoss
  /-- FIRMWARE_WATCHDOG (R459): Expiry of a die's firmware watchdog raises module fault 0x0880. -/
  | firmwareWatchdog (die : Nat)
  /-- ERASE_BANK (R487): The flash window erases the unselected bank. -/
  | eraseBank (success : Bool)
  /-- PROGRAM_PAGE (R487): The flash window programs one 4 KiB page from FW_BUF. -/
  | programPage (success : Bool)
  /-- VERIFY_BANK (R487): The flash window verifies a bank and reports its first failing check. -/
  | verifyBank
  /-- I3C_PRIVATE_WRITE (R483): A private write sets the sideband offset and writes any following bytes into the flash window or buffer. -/
  | i3cPrivateWrite (bytes : Bytes)
  /-- ENEC (R482): Enables the target's in-band interrupts. -/
  | enec (events : Byte)
  /-- DISEC (R482): Disables the target's in-band interrupts. -/
  | disec (events : Byte)
  /-- RSTDAA (R482): Resets the dynamic address. -/
  | rstdaa
  /-- ENTDAA (R482): Enters dynamic address assignment. -/
  | entdaa (address : Nat)
  /-- SETDASA (R482): Sets the dynamic address from the static address. -/
  | setdasa (address : StaticCall)
  /-- SETNEWDA (R482): Sets a new dynamic address. -/
  | setnewda (address : Nat)
  /-- GETMWL (R483): Returns the maximum write length. -/
  | getmwl
  /-- GETMRL (R483): Returns the maximum read length. -/
  | getmrl
  /-- GETPID (R482): Returns the provisioned identifier. -/
  | getpid
  /-- GETBCR (R482): Returns the bus characteristics register. -/
  | getbcr
  /-- GETDCR (R482): Returns the device characteristics register. -/
  | getdcr
  /-- GETSTATUS (R482): Returns the target status. -/
  | getstatus
  /-- GETMXDS (R482): Returns the maximum data speed. -/
  | getmxds
  /-- ILLEGAL_FORMAT_WORD (R76): A word whose format value is illegal, including an unloaded all-ones word, or whose opcode, mode or kind value is reserved, issues nothing and halts the core. -/
  | illegalFormatWord (core : Nat) (upset : Bool)
  /-- PERST_N_RELEASE (R476): Release of a port's PERST_N lets that port begin link training, and its configuration space answers in full within 100 ms. -/
  | perstRelease (port : PerstRelease)
  /-- PCIE_LINK_UP (R300): A PCI Express port finishes training and comes up, raising a degraded entry when below 64 GT/s by 8 lanes. -/
  | pcieLinkUp (port rate width : Nat)
  /-- PORT_UP_AGAIN (R277): A retraining Darval port returns to up with its replay store, credits and sessions kept. -/
  | portUpAgain (port : Nat)
  /-- CORE_STATE_ACCESS (R435): Through an unlocked test port with core scope, the debugger reads or changes core state and lets a core stopped at BREAK go on. -/
  | coreStateAccess (core : Nat) (access : CoreAccess)
  deriving DecidableEq, Repr

end Sys2Proof
end

