-- ==== Sys2Proof/Machine/Bits.lean ====
section
/-!
DEFINITION. Bit fields, sign extension and byte order (R4 to R6, R12): the helpers every layout of the model is read
and written with.
-/
namespace Sys2Proof

/-- The unsigned value of bits [lo + len - 1 : lo] of a word (R4). -/
def field {n : Nat} (w : BitVec n) (lo len : Nat) : Nat := (w.extractLsb' lo len).toNat

/-- Bit [i] of a word (R4). -/
def flag {n : Nat} (w : BitVec n) (i : Nat) : Bool := w.getLsbD i

/-- Bits [lo + len - 1 : lo] of a number. -/
def bitsAt (x lo len : Nat) : Nat := x / 2 ^ lo % 2 ^ len

/-- Bit [i] of a number. -/
def bitAt (x i : Nat) : Bool := x.testBit i

/-- A boolean as one bit. -/
def bit (b : Bool) : Nat := if b then 1 else 0

/-- A number below 2^w read as two's complement. -/
def signedOf (w x : Nat) : Int := if x % 2 ^ w < 2 ^ (w - 1) then ((x % 2 ^ w : Nat) : Int) else ((x % 2 ^ w : Nat) : Int) - (2 ^ w : Nat)

/-- An integer as a w-bit two's complement number. -/
def unsignedOf (w : Nat) (x : Int) : Nat := (x % ((2 ^ w : Nat) : Int)).toNat

/-- Clamp an integer to [lo, hi]. -/
def clampInt (lo hi x : Int) : Int := if x < lo then lo else if hi < x then hi else x

/-- The n lowest bytes of a number, little-endian (R5). -/
def leBytes : Nat → Nat → Bytes
  | 0, _ => []
  | n + 1, x => BitVec.ofNat 8 x :: leBytes n (x / 256)

/-- The number a little-endian byte string holds (R5). -/
def ofLe : Bytes → Nat
  | [] => 0
  | b :: bs => b.toNat + 256 * ofLe bs

/-- The n lowest bytes of a number, big-endian (R393). -/
def beBytes (n x : Nat) : Bytes := (leBytes n x).reverse

/-- The number a big-endian byte string holds (R393). -/
def ofBe (bs : Bytes) : Nat := ofLe bs.reverse

/-- `n` bytes from offset `off` of a byte string, zeros past its end (R6). -/
def slice (bs : Bytes) (off n : Nat) : Bytes :=
  let t := (bs.drop off).take n
  t ++ List.replicate (n - t.length) 0#8

/-- The little-endian field of `n` bytes at byte offset `off`. -/
def leAt (bs : Bytes) (off n : Nat) : Nat := ofLe (slice bs off n)

/-- Bits [lo + len - 1 : lo] of a structure held in a byte string (R4 to R6). -/
def bitsIn (bs : Bytes) (lo len : Nat) : Nat := bitsAt (leAt bs (lo / 8) ((lo % 8 + len + 7) / 8)) (lo % 8) len

/-- A byte string cut or zero-padded to `n` bytes. -/
def padTo (n : Nat) (bs : Bytes) : Bytes := slice bs 0 n

/-- The number `n` lines up to a multiple of `m`. -/
def roundUp (n m : Nat) : Nat := (n + m - 1) / m * m

/-- A record's number from fields given as (lowest bit, width, value): each value cut to its width (R4, R11). -/
def packFields (fs : List (Nat × Nat × Nat)) : Nat := fs.foldl (fun a f => a + f.2.2 % 2 ^ f.2.1 * 2 ^ f.1) 0

/-- The bytes of a record of `n` bytes from its fields (R5). -/
def record (n : Nat) (fs : List (Nat × Nat × Nat)) : Bytes := leBytes n (packFields fs)

/-- Left rotation of a w-bit value by k places (R12). -/
def rotlNat (w x k : Nat) : Nat := x * 2 ^ (k % w) % 2 ^ w + x % 2 ^ w / 2 ^ (w - k % w)

/-- A number list from `lo`, `n` long. -/
def upFrom (lo n : Nat) : List Nat := (List.range n).map (lo + ·)

/-- Cut a list into runs of `n` (the last may be shorter), `fuel` runs at most. -/
def chunksOf {α : Type} (n : Nat) : Nat → List α → List (List α)
  | 0, _ => []
  | _ + 1, [] => []
  | fuel + 1, xs => xs.take n :: chunksOf n fuel (xs.drop n)

/-- Exclusive or of two byte strings, to the shorter. -/
def xorBytes (a b : Bytes) : Bytes := List.zipWith (· ^^^ ·) a b

/-- The smallest value of a list, `d` where it is empty. -/
def listMin (d : Nat) : List Nat → Nat
  | [] => d
  | x :: xs => xs.foldl min x

/-- The largest value of a list, 0 where it is empty. -/
def listMax (xs : List Nat) : Nat := xs.foldl max 0

/-- Whether no entry of a list occurs twice. -/
def distinct {α : Type} [DecidableEq α] : List α → Bool
  | [] => true
  | x :: xs => !xs.contains x && distinct xs

end Sys2Proof
end

