-- ==== Sys2Proof/Machine/Formats.lean ====
section
/-!
DEFINITION. Number formats (R30 to R36), exact values, and the one rounding everything else is built from (R46 to R50,
R57). A finite value is held exactly, as a sign, a natural number and a power of two; a quotient keeps its denominator
until it is rounded, so every result is rounded once from its exact value (R53).
-/
namespace Sys2Proof

/-- The element formats (R30). -/
inductive Fmt where
  | fp32 | bf16 | fp16 | e4m3 | e5m2 | e3m2 | e2m3 | e2m1 | int8 | int4 | ternary | int32 | fp64 | g16
  deriving DecidableEq, Repr, Inhabited

/-- The format a 4-bit code names; none for a reserved code (R30). -/
def Fmt.ofCode : Nat → Option Fmt
  | 0x0 => some .fp32 | 0x1 => some .bf16 | 0x2 => some .fp16 | 0x3 => some .e4m3 | 0x4 => some .e5m2
  | 0x5 => some .e3m2 | 0x6 => some .e2m3 | 0x7 => some .e2m1 | 0x8 => some .int8 | 0x9 => some .int4
  | 0xA => some .ternary | 0xB => some .int32 | 0xC => some .fp64 | 0xD => some .g16 | _ => none

/-- The code of a format (R30). -/
def Fmt.code : Fmt → Nat
  | .fp32 => 0x0 | .bf16 => 0x1 | .fp16 => 0x2 | .e4m3 => 0x3 | .e5m2 => 0x4 | .e3m2 => 0x5 | .e2m3 => 0x6
  | .e2m1 => 0x7 | .int8 => 0x8 | .int4 => 0x9 | .ternary => 0xA | .int32 => 0xB | .fp64 => 0xC | .g16 => 0xD

/-- Bits per element (R30); a G16 element is a 16-bit mantissa (R233). -/
def Fmt.width : Fmt → Nat
  | .fp32 | .int32 => 32 | .bf16 | .fp16 | .g16 => 16 | .e4m3 | .e5m2 | .int8 => 8 | .e3m2 | .e2m3 => 6
  | .e2m1 | .int4 => 4 | .ternary => 2 | .fp64 => 64

/-- The block-scale variants (R31). -/
inductive Variant where
  | none | b32 | b16
  deriving DecidableEq, Repr, Inhabited

/-- The variant a 2-bit field names; none where it is reserved (R31). -/
def Variant.ofCode : Nat → Option Variant
  | 0 => some .none | 1 => some .b32 | 2 => some .b16 | _ => Option.none

/-- Whether a format may carry a variant: required, optional or never (R30, R31). G16, which has its own chunk scale, carries none (DESIGN
CHOICE, notes/assumptions/109.md). -/
def Fmt.takes (f : Fmt) (v : Variant) : Bool :=
  match f with
  | .e4m3 | .e5m2 | .int8 => true
  | .e3m2 | .e2m3 | .e2m1 | .int4 | .ternary => v ≠ .none
  | _ => v = .none

/-- The format and variant of a code pair, none where R30 or R31 makes it reserved. -/
def fmtVar (code var : Nat) : Option (Fmt × Variant) :=
  match Fmt.ofCode code, Variant.ofCode var with
  | some f, some v => if f.takes v then some (f, v) else none
  | _, _ => none

/-- Exponent width, mantissa width and bias of a floating-point format (R32); zeros for the others. -/
def Fmt.params : Fmt → Nat × Nat × Nat
  | .fp32 => (8, 23, 127) | .bf16 => (8, 7, 127) | .fp16 => (5, 10, 15) | .e4m3 => (4, 3, 7) | .e5m2 => (5, 2, 15)
  | .e3m2 => (3, 2, 3) | .e2m3 => (2, 3, 1) | .e2m1 => (2, 1, 1) | .fp64 => (11, 52, 1023) | _ => (0, 0, 0)

/-- Whether a format is floating point (R32). -/
def Fmt.isFloat : Fmt → Bool
  | .int8 | .int4 | .ternary | .int32 | .g16 => false
  | _ => true

/-- Whether a format has infinities and the IEEE form of NaN (R32). -/
def Fmt.hasInf : Fmt → Bool
  | .fp32 | .bf16 | .fp16 | .e5m2 | .fp64 => true
  | _ => false

/-- The magnitude code of the largest finite value of a floating-point format (R32). -/
def Fmt.maxCode (f : Fmt) : Nat :=
  let (e, m, _) := f.params
  if f.hasInf then (2 ^ e - 1) * 2 ^ m - 1 else if f = .e4m3 then 0x7E else 2 ^ (e + m) - 1

/-- The canonical NaN of a format (R33); zero where the format has none. -/
def Fmt.nanCode : Fmt → Nat
  | .fp32 => 0x7FC00000 | .bf16 => 0x7FC0 | .fp16 => 0x7E00 | .e4m3 => 0x7F | .e5m2 => 0x7E
  | .fp64 => 0x7FF8000000000000 | _ => 0

/-- The magnitude code of infinity (R32). -/
def Fmt.infCode (f : Fmt) : Nat := let (e, m, _) := f.params; (2 ^ e - 1) * 2 ^ m

/-- The exponent of the last place of the subnormals of a floating-point format (R32). -/
def Fmt.qmin (f : Fmt) : Int := let (_, m, b) := f.params; 1 - (b : Int) - (m : Int)

/-- A value an engine holds: a NaN, a signed infinity, or exactly (-1)^neg * n * 2^e (R32, R34). -/
inductive XReal where
  | nan
  | inf (neg : Bool)
  | fin (neg : Bool) (n : Nat) (e : Int)
  deriving DecidableEq, Repr, Inhabited

/-- Decode a floating-point code (R32). -/
def decodeFloat (f : Fmt) (code : Nat) : XReal :=
  let (e, m, _) := f.params
  let neg := bitAt code (e + m)
  let ex := bitsAt code m e
  let ma := bitsAt code 0 m
  if f.hasInf && ex = 2 ^ e - 1 then (if ma = 0 then .inf neg else .nan)
  else if f = .e4m3 && ex = 15 && ma = 7 then .nan
  else if ex = 0 then .fin neg ma f.qmin
  else .fin neg (2 ^ m + ma) (f.qmin + ex - 1)

/-- The exact value of an integer. -/
def XReal.ofInt (x : Int) : XReal := .fin (decide (x < 0)) x.natAbs 0

/-- Decode an element code of any format (R32, R35, R36). -/
def decode (f : Fmt) (code : Nat) : XReal :=
  match f with
  | .int8 => .ofInt (signedOf 8 code)
  | .int4 => .ofInt (signedOf 4 code)
  | .int32 => .ofInt (signedOf 32 code)
  | .g16 => .ofInt (signedOf 16 code)
  | .ternary => if code % 4 = 1 then .fin false 1 0 else if code % 4 = 3 then .fin true 1 0 else .fin false 0 0
  | f => decodeFloat f code

/-- Whether a value is a NaN or an infinity. -/
def XReal.nonfinite : XReal → Bool
  | .fin _ _ _ => false
  | _ => true

/-- Whether a value is a zero of either sign. -/
def XReal.isZero : XReal → Bool
  | .fin _ 0 _ => true
  | _ => false

/-- The sign of a value (a NaN has sign 0, R33). -/
def XReal.neg? : XReal → Bool
  | .nan => false
  | .inf s => s
  | .fin s _ _ => s

/-- A magnitude n / d * 2^e, with d above zero. -/
structure Mag where
  n : Nat
  d : Nat
  e : Int
  deriving DecidableEq, Repr

/-- The magnitude of a finite value. -/
def XReal.mag : XReal → Mag
  | .fin _ n e => ⟨n, 1, e⟩
  | _ => ⟨0, 1, 0⟩

/-- A magnitude as the fraction of naturals that `2^q` goes into: numerator and denominator of x / 2^q. -/
def Mag.over (x : Mag) (q : Int) : Nat × Nat :=
  if q ≤ x.e then (x.n * 2 ^ (x.e - q).toNat, x.d) else (x.n, x.d * 2 ^ (q - x.e).toNat)

/-- x is at most y. -/
def Mag.le (x y : Mag) : Bool :=
  let q := min x.e y.e
  let (a, b) := x.over q
  let (c, d) := y.over q
  decide (a * d ≤ c * b)

/-- x is below y. -/
def Mag.lt (x y : Mag) : Bool := !y.le x

/-- floor(log2 x) of a magnitude above zero. -/
def Mag.log2 (x : Mag) : Int :=
  let k : Int := (x.n.log2 : Int) - (x.d.log2 : Int)
  let up := if 0 ≤ k then decide (x.d * 2 ^ k.toNat ≤ x.n) else decide (x.d ≤ x.n * 2 ^ (-k).toNat)
  (if up then k else k - 1) + x.e

/-- The rounding of a magnitude: to nearest even, toward zero, stochastic with the 24 random bits r(c)[63:40] (R46,
R57), and upward for the scale of the cover rule (R43). -/
inductive Rnd where
  | near | zero | stoch (r : Nat) | up
  deriving DecidableEq, Repr, Inhabited

/-- Round `fl + rem / den` to a natural number (R46, R57). -/
def roundNat (mode : Rnd) (fl rem den : Nat) : Nat :=
  match mode with
  | .near => if 2 * rem < den then fl else if den < 2 * rem then fl + 1 else fl + fl % 2
  | .zero => fl
  | .stoch r => if 2 ^ 24 ≤ rem * 2 ^ 24 / den + r then fl + 1 else fl
  | .up => if rem = 0 then fl else fl + 1

/-- A magnitude rounded to a multiple of 2^q, counted in 2^q. -/
def Mag.roundAt (mode : Rnd) (x : Mag) (q : Int) : Nat :=
  let (a, b) := x.over q
  roundNat mode (a / b) (a % b) b

/-- The magnitude code of a magnitude in a floating-point format, as though the exponent had no upper bound. -/
def Fmt.roundCode (f : Fmt) (mode : Rnd) (x : Mag) : Nat :=
  if x.n = 0 then 0
  else
    let (_, m, _) := f.params
    let q := max f.qmin (x.log2 - (m : Int))
    (q - f.qmin).toNat * 2 ^ m + x.roundAt mode q

/-- The sign bit of a floating-point format, set where `neg`. -/
def Fmt.signBit (f : Fmt) (neg : Bool) : Nat :=
  let (e, m, _) := f.params
  if neg then 2 ^ (e + m) else 0

/-- The largest finite magnitude of a target (R32, R49, R50): 127, 7 and 1 for INT8, INT4 and ternary. -/
def Fmt.maxMag (f : Fmt) : Mag :=
  match f with
  | .int8 => ⟨127, 1, 0⟩
  | .int4 => ⟨7, 1, 0⟩
  | .ternary => ⟨1, 1, 0⟩
  | .int32 => ⟨2 ^ 31 - 1, 1, 0⟩
  | f => (decodeFloat f f.maxCode).mag

/-- Round a signed magnitude into FP32, BF16, FP16 or FP64 (R48): the code. Past the largest finite value stochastic rounding gives
infinity where it rounds up there, and the largest finite value where it does not. -/
def Fmt.packMag (f : Fmt) (mode : Rnd) (neg : Bool) (x : Mag) : Nat :=
  let c := f.roundCode mode x
  let c := if f.maxCode < c then (match mode with
    | .zero => f.maxCode
    | .stoch _ => if c = f.roundCode .zero x then f.maxCode else f.infCode
    | _ => f.infCode) else c
  f.signBit neg + c

/-- Round an exact value into FP32, BF16, FP16 or FP64 (R33, R48). -/
def Fmt.pack (f : Fmt) (mode : Rnd) (x : XReal) : Nat :=
  match x with
  | .nan => f.nanCode
  | .inf s => f.signBit s + f.infCode
  | .fin s n e => f.packMag mode s ⟨n, 1, e⟩

/-- An element code with the events it counts (R49, R59). -/
structure Coded where
  code : Nat
  sat : Bool
  under : Bool
  deriving DecidableEq, Repr

/-- The code of a signed integer magnitude in an integer or ternary target. -/
def Fmt.intCode (f : Fmt) (neg : Bool) (k : Nat) : Nat := unsignedOf f.width (if neg then -(k : Int) else k)

/-- Round a signed magnitude into a narrow target, or into INT32 (R49, R50). Ternary stands in R50 alone; that an element that
rounds to its 0 counts as underflowed is the model's choice (DESIGN CHOICE, notes/assumptions/56.md). -/
def Fmt.packNarrow (f : Fmt) (mode : Rnd) (neg : Bool) (x : Mag) : Coded :=
  if f.isFloat then
    if x.n = 0 then ⟨f.signBit neg, false, false⟩
    else if f.maxMag.lt x then ⟨f.signBit neg + f.maxCode, true, false⟩
    else
      let c := f.roundCode mode x
      ⟨f.signBit neg + c, false, decide (c = 0)⟩
  else
    if x.n = 0 then ⟨0, false, false⟩
    else
      let top : Mag := if f = .int32 && neg then ⟨2 ^ 31, 1, 0⟩ else f.maxMag
      if top.lt x then ⟨f.intCode neg top.n, true, false⟩
      else
        let k := x.roundAt mode 0
        ⟨f.intCode neg k, false, decide (k = 0)⟩

/-- Convert one value into an unscaled target (R48, R49). -/
def Fmt.convert (f : Fmt) (mode : Rnd) (x : XReal) : Coded :=
  match f with
  | .fp32 | .bf16 | .fp16 | .fp64 => ⟨f.pack mode x, false, false⟩
  | _ =>
    match x with
    | .nan => ⟨f.nanCode, false, false⟩
    | .inf s => ⟨if f = .e5m2 then f.signBit s + f.infCode else f.nanCode, false, false⟩
    | .fin s n e => f.packNarrow mode s ⟨n, 1, e⟩

/-- Exact product (R51, R53): infinity times zero is a NaN. -/
def XReal.mul (x y : XReal) : XReal :=
  match x, y with
  | .nan, _ => .nan
  | _, .nan => .nan
  | .inf s, y => if y.isZero then .nan else .inf (xor s y.neg?)
  | x, .inf s => if x.isZero then .nan else .inf (xor s x.neg?)
  | .fin s n e, .fin t k g => .fin (xor s t) (n * k) (e + g)

/-- Exact sum (R51, R53): infinities of opposite sign give a NaN, an exact zero is +0 unless both terms are negative. -/
def XReal.add (x y : XReal) : XReal :=
  match x, y with
  | .nan, _ => .nan
  | _, .nan => .nan
  | .inf s, .inf t => if s = t then .inf s else .nan
  | .inf s, _ => .inf s
  | _, .inf t => .inf t
  | .fin s n e, .fin t k g =>
    let q := min e g
    let a : Int := ((n * 2 ^ (e - q).toNat : Nat) : Int)
    let b : Int := ((k * 2 ^ (g - q).toNat : Nat) : Int)
    let r := (if s then -a else a) + (if t then -b else b)
    if r = 0 then .fin (s && t) 0 0 else .fin (decide (r < 0)) r.natAbs q

/-- Negation. -/
def XReal.negate : XReal → XReal
  | .nan => .nan
  | .inf s => .inf (!s)
  | .fin s n e => .fin (!s) n e

/-- Magnitude. -/
def XReal.abs : XReal → XReal
  | .nan => .nan
  | .inf _ => .inf false
  | .fin _ n e => .fin false n e

/-- x times 2^k. -/
def XReal.scale (x : XReal) (k : Int) : XReal :=
  match x with
  | .fin s n e => .fin s n (e + k)
  | x => x

/-- x is below y, neither being a NaN; the zeros are equal (R34). -/
def XReal.lt (x y : XReal) : Bool :=
  match x, y with
  | .nan, _ => false
  | _, .nan => false
  | .inf s, .inf t => s && !t
  | .inf s, _ => s
  | _, .inf t => !t
  | .fin s n e, .fin t k g =>
    if n = 0 && k = 0 then false
    else if s && !t then true
    else if !s && t then false
    else if s then Mag.lt ⟨k, 1, g⟩ ⟨n, 1, e⟩ else Mag.lt ⟨n, 1, e⟩ ⟨k, 1, g⟩

/-- x equals y, neither being a NaN; the zeros are equal (R34). -/
def XReal.eqv (x y : XReal) : Bool :=
  match x, y with
  | .nan, _ => false
  | _, .nan => false
  | x, y => !x.lt y && !y.lt x

/-- The order of MIN and MAX: -0 below +0 (R156). -/
def XReal.below (x y : XReal) : Bool := x.lt y || (x.isZero && y.isZero && x.neg? && !y.neg?)

/-- The smaller of two values, a NaN where either is one (R156). -/
def XReal.min (x y : XReal) : XReal := if x = .nan ∨ y = .nan then .nan else if y.below x then y else x

/-- The larger of two values, a NaN where either is one (R156). -/
def XReal.max (x y : XReal) : XReal := if x = .nan ∨ y = .nan then .nan else if x.below y then y else x

/-- FP32 operations of one rounding to nearest even, on codes (R207, R208). -/
def f32 (code : Nat) : XReal := decodeFloat .fp32 code
/-- rn of R207: round to FP32, to nearest even. -/
def rn (x : XReal) : Nat := Fmt.pack .fp32 .near x
/-- rn of a product of FP32 values. -/
def mul32 (a b : Nat) : Nat := rn ((f32 a).mul (f32 b))
/-- fma of R207. -/
def fma32 (a b c : Nat) : Nat := rn (((f32 a).mul (f32 b)).add (f32 c))
/-- rn of a sum of FP32 values. -/
def add32 (a b : Nat) : Nat := rn ((f32 a).add (f32 b))
/-- Negation of an FP32 code. -/
def neg32 (a : Nat) : Nat := rn (f32 a).negate
/-- The FP64 value of a code. -/
def f64 (code : Nat) : XReal := decodeFloat .fp64 code
/-- Round to FP64, to nearest even (R164, R217). -/
def rn64 (x : XReal) : Nat := Fmt.pack .fp64 .near x

/-- The largest natural number whose square is at most n: one bit of the root per step, from the top. -/
def isqrtFrom : Nat → Nat → Nat → Nat
  | 0, _, r => r
  | k + 1, n, r => if (r + 2 ^ k) * (r + 2 ^ k) ≤ n then isqrtFrom k n (r + 2 ^ k) else isqrtFrom k n r

/-- floor of the square root. -/
def isqrt (n : Nat) : Nat := isqrtFrom (n.log2 / 2 + 1) n 0

/-- A magnitude that rounds as the square root of x rounds: the root to 300 bits, and a half place where inexact. -/
def Mag.sqrt (x : Mag) : Mag :=
  let (n, e) := if x.e % 2 = 0 then (x.n, x.e) else (2 * x.n, x.e - 1)
  let t := n * 2 ^ 600 / x.d
  let y := isqrt t
  if y * y * x.d = n * 2 ^ 600 then ⟨y, 1, e / 2 - 300⟩ else ⟨2 * y + 1, 1, e / 2 - 301⟩

/-- The square root rounded to FP64 (R207, R220). -/
def sqrt64 (code : Nat) : Nat :=
  match f64 code with
  | .nan => Fmt.nanCode .fp64
  | .inf s => if s then Fmt.nanCode .fp64 else Fmt.infCode .fp64
  | .fin s n e => if n = 0 then code else if s then Fmt.nanCode .fp64 else Fmt.packMag .fp64 .near false (Mag.sqrt ⟨n, 1, e⟩)

/-- The quotient of two FP64 values rounded to FP64, to nearest even (R207). -/
def div64 (a b : Nat) : Nat :=
  match f64 a, f64 b with
  | .nan, _ => Fmt.nanCode .fp64
  | _, .nan => Fmt.nanCode .fp64
  | .inf s, .fin t _ _ => Fmt.signBit .fp64 (xor s t) + Fmt.infCode .fp64
  | .inf _, .inf _ => Fmt.nanCode .fp64
  | .fin s _ _, .inf t => Fmt.signBit .fp64 (xor s t)
  | .fin s n e, .fin t k g =>
    if k = 0 then (if n = 0 then Fmt.nanCode .fp64 else Fmt.signBit .fp64 (xor s t) + Fmt.infCode .fp64)
    else Fmt.packMag .fp64 .near (xor s t) ⟨n, k, e - g⟩

end Sys2Proof
end

