-- ==== Sys2Proof/Machine/Sm3.lean ====
section
/-!
DEFINITION. SM3 (GB/T 32905) and HMAC-SM3 (RFC 2104), which the spec names for fingerprints (R290), step keys (R55),
key derivation (R395), tree entries (R400) and every digest. PRESUMED: the algorithms are the standards', whose text
the spec does not hold.
-/
namespace Sys2Proof

/-- The eight chaining words of SM3. -/
structure Sm3State where
  a : BitVec 32
  b : BitVec 32
  c : BitVec 32
  d : BitVec 32
  e : BitVec 32
  f : BitVec 32
  g : BitVec 32
  h : BitVec 32
  deriving DecidableEq, Repr

/-- The initial value of SM3. -/
def Sm3State.start : Sm3State :=
  ⟨0x7380166F#32, 0x4914B2B9#32, 0x172442D7#32, 0xDA8A0600#32, 0xA96F30BC#32, 0x163138AA#32, 0xE38DEE4D#32, 0xB0FB0E4E#32⟩

/-- The permutation P0. -/
def sm3P0 (x : BitVec 32) : BitVec 32 := x ^^^ x.rotateLeft 9 ^^^ x.rotateLeft 17
/-- The permutation P1. -/
def sm3P1 (x : BitVec 32) : BitVec 32 := x ^^^ x.rotateLeft 15 ^^^ x.rotateLeft 23

/-- The message words of a block, newest first, extended by `n` words. -/
def sm3Expand : Nat → List (BitVec 32) → List (BitVec 32)
  | 0, w => w
  | n + 1, w =>
    let at' := fun i => w.getD i 0#32
    let x := sm3P1 (at' 15 ^^^ at' 8 ^^^ (at' 2).rotateLeft 15) ^^^ (at' 12).rotateLeft 7 ^^^ at' 5
    sm3Expand n (x :: w)

/-- One round of the compression function. -/
def sm3Round (s : Sm3State) (j : Nat) (w w' : BitVec 32) : Sm3State :=
  let t : BitVec 32 := if j < 16 then 0x79CC4519#32 else 0x7A879D8A#32
  let ss1 := (s.a.rotateLeft 12 + s.e + t.rotateLeft (j % 32)).rotateLeft 7
  let ss2 := ss1 ^^^ s.a.rotateLeft 12
  let ff := if j < 16 then s.a ^^^ s.b ^^^ s.c else (s.a &&& s.b) ||| (s.a &&& s.c) ||| (s.b &&& s.c)
  let gg := if j < 16 then s.e ^^^ s.f ^^^ s.g else (s.e &&& s.f) ||| (~~~s.e &&& s.g)
  let tt1 := ff + s.d + ss2 + w'
  let tt2 := gg + s.h + ss1 + w
  ⟨tt1, s.a, s.b.rotateLeft 9, s.c, sm3P0 tt2, s.e, s.f.rotateLeft 19, s.g⟩

/-- The rounds from number `j` over the words still to come. -/
def sm3Rounds : Nat → Sm3State → List (BitVec 32) → Sm3State
  | j, s, w0 :: w1 :: w2 :: w3 :: w4 :: ws =>
    if j < 64 then sm3Rounds (j + 1) (sm3Round s j w0 (w0 ^^^ w4)) (w1 :: w2 :: w3 :: w4 :: ws) else s
  | _, s, _ => s

/-- The compression of one 64-byte block. -/
def sm3Block (s : Sm3State) (blk : Bytes) : Sm3State :=
  let w := (List.range 16).map fun i => BitVec.ofNat 32 (ofBe (slice blk (4 * i) 4))
  let t := sm3Rounds 0 s (sm3Expand 52 w.reverse).reverse
  ⟨t.a ^^^ s.a, t.b ^^^ s.b, t.c ^^^ s.c, t.d ^^^ s.d, t.e ^^^ s.e, t.f ^^^ s.f, t.g ^^^ s.g, t.h ^^^ s.h⟩

/-- A message padded to whole blocks. -/
def sm3Pad (m : Bytes) : Bytes :=
  let k := (119 - m.length % 64) % 64
  m ++ [0x80#8] ++ List.replicate k 0#8 ++ beBytes 8 (8 * m.length)

/-- The SM3 digest of a byte string, 32 bytes in the standard's order. -/
def sm3 (m : Bytes) : Bytes :=
  let p := sm3Pad m
  let s := (chunksOf 64 (p.length / 64) p).foldl sm3Block Sm3State.start
  [s.a, s.b, s.c, s.d, s.e, s.f, s.g, s.h].flatMap fun w => beBytes 4 w.toNat

/-- The SM3 digest as the little-endian number its stored bytes hold (R5, R393). -/
def sm3Num (m : Bytes) : Nat := ofLe (sm3 m)

/-- HMAC-SM3 under key `k` (R395). -/
def hmacSm3 (k m : Bytes) : Bytes :=
  let k := if 64 < k.length then sm3 k else k
  let k := padTo 64 k
  sm3 (k.map (· ^^^ 0x5C#8) ++ sm3 (k.map (· ^^^ 0x36#8) ++ m))

/-- The bytes of an ASCII label (R395). -/
def asciiBytes (s : String) : Bytes := s.toList.map fun c => BitVec.ofNat 8 c.toNat

/-- DK(K, label, ctx, n) (R395). -/
def deriveKey (k : Bytes) (label : String) (ctx : Bytes) (n : Nat) : Bytes :=
  let l := asciiBytes label
  (hmacSm3 k (leBytes 2 l.length ++ l ++ leBytes 2 ctx.length ++ ctx)).take n

end Sys2Proof
end

