-- ==== Sys2Proof/Machine/Convert.lean ====
section
/-!
DEFINITION. Packing of elements (R37), block scaling (R38 to R45), conversions with their counts (R46 to R50, R59),
and the reproducible random values of stochastic rounding (R55 to R57).
-/
namespace Sys2Proof

/-- The bytes of a run of element codes of width `w` bits, packed from bit 0 of the lowest byte (R37). -/
def packElems (w : Nat) (codes : List Nat) : Bytes :=
  let n := codes.foldr (fun c a => c % 2 ^ w + 2 ^ w * a) 0
  leBytes ((w * codes.length + 7) / 8) n

/-- `n` element codes of width `w` bits from bit 0 of a byte string upward (R37). -/
def unpackElems (w n : Nat) (bs : Bytes) : List Nat :=
  let x := ofLe bs
  (List.range n).map fun i => bitsAt x (w * i) w

/-- The 64-bit random value r(c) of R56. -/
def randomValue (key : Nat) (c : Nat) : Nat :=
  let m := 2 ^ 64
  let z := (key + (c + 1) * 0x9E3779B97F4A7C15) % m
  let z := (z ^^^ (z / 2 ^ 30)) * 0xBF58476D1CE4E5B9 % m
  let z := (z ^^^ (z / 2 ^ 27)) * 0x94D049BB133111EB % m
  z ^^^ (z / 2 ^ 31)

/-- c of R56: stream and element base plus position. -/
def streamCount (stream base i : Nat) : Nat := stream * 2 ^ 40 + (base + i) % 2 ^ 40

/-- A step key (R55): bytes 0 to 7 of the SM3 digest of seed, step and member field, read little-endian. -/
def stepKey (seed step member : Nat) : Nat :=
  leAt (sm3 (leBytes 8 seed ++ leBytes 8 step ++ leBytes 2 member ++ List.replicate 6 0#8)) 0 8

/-- Where the stochastic rounding of one operation draws from (R56): key, stream and element base. -/
structure Draw where
  key : Nat
  stream : Nat
  base : Nat
  deriving DecidableEq, Repr, Inhabited

/-- r(c) for element i of a draw. -/
def Draw.at (d : Draw) (i : Nat) : Nat := randomValue d.key (streamCount d.stream d.base i)

/-- The rounding of element i under a 2-bit mode code (R46); mode 0b11 never reaches here (R77). -/
def rndOf (mode : Nat) (d : Draw) (i : Nat) : Rnd :=
  match mode with
  | 0 => .near
  | 1 => .zero
  | _ => .stoch (d.at i / 2 ^ 40)

/-- What a conversion adds to a counter slot (R59). -/
structure Events where
  blocks : Nat
  satBlocks : Nat
  sat : Nat
  under : Nat
  nonfinite : Nat
  deriving DecidableEq, Repr, Inhabited

/-- No events. -/
def Events.zero : Events := ⟨0, 0, 0, 0, 0⟩

/-- The sum of two event counts. -/
def Events.add (a b : Events) : Events :=
  ⟨a.blocks + b.blocks, a.satBlocks + b.satBlocks, a.sat + b.sat, a.under + b.under, a.nonfinite + b.nonfinite⟩

/-- The sum with each count saturated at the top of `w` bits (R59, R62). -/
def Events.addSat (w : Nat) (a b : Events) : Events :=
  let t := 2 ^ w - 1
  ⟨min t (a.blocks + b.blocks), min t (a.satBlocks + b.satBlocks), min t (a.sat + b.sat), min t (a.under + b.under),
   min t (a.nonfinite + b.nonfinite)⟩

/-- The scale rules of a conversion (R42, R43, R78). -/
inductive Rule where
  | floor | cover | supplied
  deriving DecidableEq, Repr, Inhabited

/-- The rule a 2-bit field names; none where it is reserved. -/
def Rule.ofCode : Nat → Option Rule
  | 0 => some .floor | 1 => some .cover | 2 => some .supplied | _ => none

/-- The largest magnitude among the finite values of a block. -/
def blockMax (xs : List XReal) : Mag :=
  xs.foldl (fun a x => if x.nonfinite then a else if a.lt x.mag then x.mag else a) ⟨0, 1, 0⟩

/-- The B32E8 code of the floor rule (R42). -/
def floorScale (t : Fmt) (amax : Mag) : Nat :=
  if amax.n = 0 then 0 else (clampInt 0 254 (amax.log2 - t.maxMag.log2 + 127)).toNat

/-- The B32E8 code of the cover rule (R42). -/
def coverScale (t : Fmt) (amax : Mag) : Nat :=
  if amax.n = 0 then 0
  else
    let k := amax.log2 - t.maxMag.log2 + 127
    let fits := Mag.le ⟨amax.n, amax.d, amax.e - (k - 127)⟩ t.maxMag
    (clampInt 0 254 (if fits then k else k + 1)).toNat

/-- The B16F8 code of the cover rule (R43). -/
def coverScale16 (t : Fmt) (amax : Mag) : Nat :=
  if amax.n = 0 then 0
  else
    let m := t.maxMag
    min 0x7E (Fmt.roundCode .e4m3 .up ⟨amax.n * m.d, amax.d * m.n, amax.e - m.e⟩)

/-- The code a non-finite block carries (R38, R39, R44). -/
def nonfiniteScale (v : Variant) : Nat := if v = .b32 then 0xFF else 0x7F

/-- The scale code a conversion computes for a block (R42, R43). B16F8 has the cover rule alone: where an update descriptor names
the floor rule with it, the copy takes the cover rule (DESIGN CHOICE, notes/assumptions/57.md). -/
def chooseScale (t : Fmt) (v : Variant) (r : Rule) (amax : Mag) : Nat :=
  if v = .b16 then coverScale16 t amax else if r = .floor then floorScale t amax else coverScale t amax

/-- The exact quotient of a finite value by a scale (R45): the sign and the magnitude. -/
def quotient (v : Variant) (scale : Nat) (x : XReal) : Mag :=
  let m := x.mag
  if v = .b32 then ⟨m.n, m.d, m.e - ((scale : Int) - 127)⟩
  else
    let s := (decodeFloat .e4m3 scale).mag
    ⟨m.n * s.d, m.d * s.n, m.e - s.e⟩

/-- The sign of an element code, a NaN's included. -/
def Fmt.negative (f : Fmt) (code : Nat) : Bool :=
  let (e, m, _) := f.params
  if f.isFloat then bitAt code (e + m) else (decode f code).neg?

/-- A decoded element times its block's scale (R38, R39, R48): exact. -/
def applyScale (v : Variant) (scale : Nat) (x : XReal) : XReal :=
  match v with
  | .none => x
  | .b32 => if scale = 0xFF then .nan else x.scale ((scale : Int) - 127)
  | .b16 =>
    let s := scale % 128
    if s = 0x7F then .nan else if s = 0 then .fin x.neg? 0 0 else x.mul (decodeFloat .e4m3 s)

/-- The value of an element code under its block's scale code (R38, R39, R41): under a B16F8 scale of zero, the zero of the code's
own sign. -/
def elemValue (f : Fmt) (v : Variant) (code scale : Nat) : XReal :=
  if v = .b16 && scale % 128 = 0 then .fin (f.negative code) 0 0 else applyScale v scale (decode f code)

/-- A converted block: its scale code, its element codes and its counts. -/
structure Block where
  scale : Nat
  codes : List Nat
  ev : Events
  deriving DecidableEq, Repr

/-- Number the elements of a list from `i`. -/
def enumFrom' {α : Type} : Nat → List α → List (Nat × α)
  | _, [] => []
  | i, x :: xs => (i, x) :: enumFrom' (i + 1) xs

/-- Fold the events of a block's coded elements. -/
def codedEvents (cs : List Coded) (nonfin : Nat) : Events :=
  let s := (cs.filter (·.sat)).length
  ⟨1, if s = 0 then 0 else 1, s, (cs.filter (·.under)).length, nonfin⟩

/-- Convert one block (R44, R45, R49, R50): `supplied` is the strip's code where the program supplies it, `i0` the
position of the block's first element in its tile. -/
def convertBlock (t : Fmt) (v : Variant) (r : Rule) (supplied : Nat) (mode : Nat) (d : Draw) (i0 : Nat) (xs : List XReal) : Block :=
  let nonfin := (xs.filter (·.nonfinite)).length
  if v = .none then
    let cs := (enumFrom' i0 xs).map fun p => t.convert (rndOf mode d p.1) p.2
    ⟨0, cs.map (·.code), codedEvents cs nonfin⟩
  else if 0 < nonfin then ⟨nonfiniteScale v, xs.map fun _ => 0, ⟨1, 0, 0, 0, nonfin⟩⟩
  else
    let given := if v = .b16 then supplied % 128 else supplied
    let scale := if r = .supplied then given else chooseScale t v r (blockMax xs)
    if scale = nonfiniteScale v then ⟨scale, xs.map fun _ => 0, ⟨1, 0, 0, 0, 0⟩⟩
    else if v = .b16 && scale = 0 then
      ⟨0, xs.map fun x => if t.isFloat then t.signBit x.neg? else 0,
       ⟨1, 0, 0, (xs.filter fun x => !x.isZero).length, 0⟩⟩
    else
      let cs := (enumFrom' i0 xs).map fun p => t.packNarrow (rndOf mode d p.1) p.2.neg? (quotient v scale p.2)
      ⟨scale, cs.map (·.code), codedEvents cs nonfin⟩

/-- Elements per block of a variant; an unscaled conversion counts 32 as one block (R38, R39, R59). -/
def Variant.blockLen : Variant → Nat
  | .b16 => 16
  | _ => 32

/-- Scale codes per tile row of a variant (R40). -/
def Variant.scalesPerRow : Variant → Nat
  | .none => 0 | .b32 => 1 | .b16 => 2

/-- A converted run of elements: scale codes, element codes and counts. -/
structure Converted where
  scales : List Nat
  codes : List Nat
  ev : Events
  deriving DecidableEq, Repr

/-- Convert a run of elements block by block (R44, R45). -/
def convertRun (t : Fmt) (v : Variant) (r : Rule) (supplied : List Nat) (mode : Nat) (d : Draw) (i0 : Nat) (xs : List XReal) : Converted :=
  let n := v.blockLen
  let bs := (enumFrom' 0 (chunksOf n (xs.length / n + 1) xs)).map fun p =>
    convertBlock t v r (supplied.getD p.1 0) mode d (i0 + n * p.1) p.2
  ⟨if v = .none then [] else bs.map (·.scale), bs.flatMap (·.codes), bs.foldl (fun a b => a.add b.ev) Events.zero⟩

/-- The conversion pairs of R47 that the vector engine and the readout path carry out. -/
def convPair (src dst : Fmt) : Bool :=
  match src with
  | .fp32 | .bf16 | .fp16 | .int32 => dst ≠ .g16 && dst ≠ .fp64
  | .e4m3 | .e5m2 | .e3m2 | .e2m3 | .e2m1 | .int8 | .int4 | .ternary => dst = .fp32 || dst = .bf16 || dst = .fp16
  | _ => false

/-- Decode a run of element codes under a variant and its scale codes (R38, R39, R48). -/
def decodeRun (f : Fmt) (v : Variant) (scales : List Nat) (codes : List Nat) : List XReal :=
  (enumFrom' 0 codes).map fun p => elemValue f v p.2 (scales.getD (p.1 / v.blockLen) 0)

end Sys2Proof
end

