-- ==== Sys2Proof/Machine/Chunks.lean ====
section
/-!
DEFINITION. G16 chunks (R233 to R238, R244 to R249, R256, R290): layout, residue, the packer's encoding, the receive check,
the adder, the ssq term and the step fingerprint.
-/
namespace Sys2Proof.Machine

/-- A G16 chunk (R233): 128 signed mantissas, exponent field, residue, flags and the reserved bits as they stand. -/
structure Chunk where
  mant : List Int
  scale : Nat
  residue : Nat
  nonfinite : Bool
  saturated : Bool
  suspect : Bool
  reserved : Nat
  deriving DecidableEq, Repr, Inhabited

/-- A chunk read from its 260 bytes (R233). -/
def Chunk.ofBytes (bs : Bytes) : Chunk :=
  let flags := leAt bs 258 1
  ⟨(List.range 128).map fun j => signedOf 16 (leAt bs (2 * j) 2), leAt bs 256 1, leAt bs 257 1, flags.testBit 0, flags.testBit 1,
   flags.testBit 2, flags / 8 + 32 * leAt bs 259 1⟩

/-- A chunk's 260 bytes (R233). -/
def Chunk.bytes (c : Chunk) : Bytes :=
  padTo 256 (c.mant.flatMap fun m => leBytes 2 (unsignedOf 16 m)) ++
  leBytes 4 (c.scale % 256 + 256 * (c.residue % 256) + 65536 * (bit c.nonfinite + 2 * bit c.saturated + 4 * bit c.suspect + 8 * c.reserved))

/-- The residue weight of an exponent field (R235). -/
def residueWeight (e : Nat) : Nat := 2 ^ ((e + 2) % 8)

/-- The residue of an integer vector's sum held at exponent field e (R235). -/
def residueOf (e : Nat) (sum : Int) : Nat := (((residueWeight e : Nat) : Int) * sum % 255).toNat

/-- A non-finite chunk (R234). -/
def Chunk.notFinite : Chunk := ⟨List.replicate 128 0, 0, 0, true, false, false, 0⟩

/-- The largest mantissa (R234) as a magnitude. -/
def mantMax : Mag := ⟨32767, 1, 0⟩

/-- The packer's exponent field for a largest magnitude (R238): the smallest that fits, and whether any does. -/
def packScale (amax : Mag) : Nat × Bool :=
  if amax.n = 0 then (0, true)
  else
    let k := amax.log2 - 14 + 142
    let k := if Mag.le ⟨amax.n, amax.d, amax.e - (k - 142)⟩ mantMax then k else k + 1
    if k < 0 then (0, true) else if 254 < k then (254, false) else (k.toNat, true)

/-- A value's mantissa at an exponent field (R238): rounded to nearest even, held within ±32,767. -/
def packMant (e : Nat) (x : XReal) : Int :=
  let m := x.mag
  let k := min 32767 (Mag.roundAt .near ⟨m.n, m.d, m.e - ((e : Int) - 142)⟩ 0)
  if x.neg? then -(k : Int) else k

/-- The packer's encoding of 128 FP32 values, of which the first `valid` lie within the layer (R238). -/
def packChunk (vals : List Nat) (valid : Nat) : Chunk :=
  let xs := (vals.take valid).map f32
  if xs.any (·.nonfinite) then Chunk.notFinite
  else
    let (e, fits) := packScale (blockMax xs)
    let ms := xs.map (packMant e)
    let mant := ms ++ List.replicate (128 - ms.length) 0
    ⟨mant, e, residueOf e mant.sum, false, !fits, false, 0⟩

/-- The receive check (R247): true where the chunk passes. -/
def Chunk.passes (c : Chunk) : Bool :=
  c.residue = residueOf c.scale c.mant.sum && c.scale ≠ 0xFF && !c.mant.contains (-32768) && c.reserved = 0 &&
  !(c.nonfinite && (c.mant.any (· ≠ 0) || c.scale ≠ 0 || c.residue ≠ 0))

/-- The FP64 ssq term of a result (R217): Σ m² × 2^(2s); a non-finite result adds zero. -/
def Chunk.ssq (c : Chunk) : Nat :=
  if c.nonfinite then 0
  else rn64 (.fin false (c.mant.foldl (fun a m => a + m.natAbs * m.natAbs) 0) (2 * ((c.scale : Int) - 142)))

/-- Element j's value (R234). -/
def Chunk.value (c : Chunk) (j : Nat) : XReal :=
  if c.nonfinite then .nan else let m := c.mant.getD j 0; .fin (m < 0) m.natAbs ((c.scale : Int) - 142)

/-- Division rounded to nearest, ties to even (R244). -/
def rneDiv (s : Int) (t : Nat) : Int :=
  let d : Int := ((2 ^ t : Nat) : Int)
  let q := s / d
  let r := 2 * (s % d)
  if r < d then q else if d < r then q + 1 else if q % 2 = 0 then q else q + 1

/-- The smallest shift from `t` on at which every sum's quotient fits a mantissa (R244). -/
def fitShift (ss : List Int) : Nat → Nat → Nat
  | 0, t => t
  | fuel + 1, t => if ss.all fun s => (rneDiv s t).natAbs ≤ 32767 then t else fitShift ss fuel (t + 1)

/-- What an adder gives (R244, R245): the result, and whether each of its two checks passed. -/
structure Added where
  chunk : Chunk
  alignment : Bool
  rounding : Bool
  deriving DecidableEq, Repr, Inhabited

/-- The adder over a chunk's inputs in ascending member rank (R244 to R246); `bad` says whether an input failed its receive
check. -/
def addChunks (ins : List Chunk) (bad : Bool) : Added :=
  if ins.any (·.nonfinite) then ⟨{ Chunk.notFinite with suspect := bad || ins.any (·.suspect) }, true, true⟩
  else
    let emax := listMax (ins.map (·.scale))
    let wide := ins.map fun c =>
      let d := emax - c.scale
      c.mant.map fun m => (m * 256 / ((2 ^ d : Nat) : Int), m * 256 % ((2 ^ d : Nat) : Int))
    let ss := (List.range 128).map fun j => (wide.map fun ws => (ws.getD j (0, 0)).1).sum
    let t0 := fitShift ss 40 (8 - emax)
    let beyond := 262 < emax + t0
    let t := if beyond then 262 - emax else t0
    let os := ss.map fun s => clampInt (-32767) 32767 (rneDiv s t)
    let rems := List.zipWith (fun s o => s - o * ((2 ^ t : Nat) : Int)) ss os
    let eOut := emax + t - 8
    let rIn : Int := (ins.map fun c => ((c.residue : Nat) : Int)).sum
    let rDis : Int := (List.zipWith (fun c ws => ((residueWeight c.scale : Nat) : Int) * (ws.map Prod.snd).sum) ins wide).sum
    let rS : Int := ((residueWeight emax : Nat) : Int) * ss.sum
    let rRem : Int := ((residueWeight emax : Nat) : Int) * rems.sum
    let rO : Int := ((residueWeight eOut : Nat) : Int) * os.sum
    let align := (rIn - rDis - rS) % 255 = 0
    let round := (rS - rRem - rO) % 255 = 0
    ⟨⟨os, eOut, ((rIn - rDis - rRem) % 255).toNat, false, beyond || ins.any (·.saturated),
      bad || ins.any (·.suspect) || !align || !round, 0⟩, align, round⟩

/-- The step fingerprint of a collective (R290): bytes 0 to 7 of the SM3 digest of its 32-byte input. -/
def fingerprint (count fmt op layer seq step : Nat) : Nat :=
  leAt (sm3 (leBytes 8 count ++ leBytes 1 fmt ++ leBytes 1 op ++ leBytes 2 0 ++ leBytes 4 layer ++ leBytes 4 seq ++ leBytes 4 0 ++ leBytes 8 step)) 0 8

/-- A first-use chunk of Q (R256): ±1.0 by the sign of each element's random value. -/
def firstUseChunk (key stream total f : Nat) : Chunk :=
  let mant := (List.range 128).map fun j =>
    let i := 128 * f + j
    if i < total then (if (randomValue key (streamCount stream 0 i)).testBit 63 then (-16384 : Int) else 16384) else 0
  ⟨mant, 128, residueOf 128 mant.sum, false, false, false, 0⟩

end Sys2Proof.Machine
end

