-- ==== Sys2Proof/Machine/Maps.lean ====
section
/-!
DEFINITION. The operations over sparse tables, byte memories and number sets: read, write, clear, and byte runs. Every
write keeps the canonical form (Laws/Maps.lean proves it), so equal tables are equal data.
-/
namespace Sys2Proof

/-- The value at key `k`: `d` where the table does not list it. -/
def SMap.get {α : Type} (d : α) : SMap α → Nat → α
  | [], _ => d
  | (j, v) :: m, k => if j = k then v else SMap.get d m k

/-- The table without key `k`. -/
def SMap.del {α : Type} (m : SMap α) (k : Nat) : SMap α := m.filter fun p => !decide (p.1 = k)

/-- The table with `v` listed at key `k`. -/
def SMap.put {α : Type} : SMap α → Nat → α → SMap α
  | [], k, v => [(k, v)]
  | (j, w) :: m, k, v =>
    if j = k then (k, v) :: m else if k < j then (k, v) :: (j, w) :: m else (j, w) :: SMap.put m k v

/-- The table after writing `v` at `k`: a value equal to what an unlisted key holds removes the entry. -/
def SMap.set {α : Type} [DecidableEq α] (d : α) (m : SMap α) (k : Nat) (v : α) : SMap α :=
  if v = d then SMap.del m k else SMap.put m k v

/-- The entry at key `k`, where the table lists one (for tables whose unlisted keys hold nothing). -/
def SMap.find? {α : Type} : SMap α → Nat → Option α
  | [], _ => none
  | (j, v) :: m, k => if j = k then some v else SMap.find? m k

/-- The entry at `k` changed by `f`, where there is one. -/
def SMap.adjust {α : Type} (m : SMap α) (k : Nat) (f : α → α) : SMap α :=
  m.map fun p => if p.1 = k then (p.1, f p.2) else p

/-- The smallest key at or above `n` that the table does not list, looking at most `fuel` keys ahead. -/
def SMap.freeKey {α : Type} (m : SMap α) : Nat → Nat → Nat
  | 0, n => n
  | fuel + 1, n => if (SMap.find? m n).isSome then SMap.freeKey m fuel (n + 1) else n

/-- The values of a table in key order. -/
def SMap.values {α : Type} (m : SMap α) : List α := m.map Prod.snd

/-- Keys strictly rising from `lo`, no listed value equal to `d`: the canonical form. -/
def SMap.wfFrom {α : Type} [DecidableEq α] (d : α) : Nat → SMap α → Bool
  | _, [] => true
  | lo, (k, v) :: m => decide (lo ≤ k) && decide (v ≠ d) && SMap.wfFrom d (k + 1) m

/-- The canonical form of a table. -/
def SMap.wf {α : Type} [DecidableEq α] (d : α) (m : SMap α) : Bool := SMap.wfFrom d 0 m

/-- What an unlisted byte of the module's memories reads as (R199, R402). -/
def Memory.blank : Byte := 0#8

/-- One byte of a memory. -/
def Memory.read (m : Memory) (a : Nat) : Byte := SMap.get Memory.blank m a

/-- A memory after writing one byte. -/
def Memory.write (m : Memory) (a : Nat) (b : Byte) : Memory := SMap.set Memory.blank m a b

/-- The canonical form of a byte memory. -/
def Memory.wf (m : Memory) : Bool := SMap.wf Memory.blank m

/-- The first `n` bytes from address `a` of a memory whose entries below `a` are gone. -/
def Memory.run : Memory → Nat → Nat → Bytes
  | _, _, 0 => []
  | [], a, n + 1 => Memory.blank :: Memory.run [] (a + 1) n
  | (k, v) :: m, a, n + 1 => if k = a then v :: Memory.run m (a + 1) n else Memory.blank :: Memory.run ((k, v) :: m) (a + 1) n

/-- `n` bytes from address `a` upward, in one pass over the entries (Laws/Maps.lean: each is what `read` gives). -/
def Memory.readBytes (m : Memory) (a n : Nat) : Bytes := Memory.run (m.dropWhile fun p => p.1 < a) a n

/-- The entries of a run of bytes from address `a`: the blank ones are not listed. -/
def Memory.entries : Nat → Bytes → Memory
  | _, [] => []
  | a, b :: bs => if b = Memory.blank then Memory.entries (a + 1) bs else (a, b) :: Memory.entries (a + 1) bs

/-- A memory after writing a run of bytes from address `a` upward, in one pass. -/
def Memory.writeBytes (m : Memory) (a : Nat) (bs : Bytes) : Memory :=
  (m.filter fun p => decide (p.1 < a)) ++ Memory.entries a bs ++ m.filter fun p => decide (a + bs.length ≤ p.1)

/-- A memory with `n` bytes from `a` upward cleared: whole runs are dropped, so the cost is one pass. -/
def Memory.clear (m : Memory) (a n : Nat) : Memory := m.filter fun p => !(decide (a ≤ p.1) && decide (p.1 < a + n))

/-- Membership in a number set. -/
def NatSet.has (s : NatSet) (k : Nat) : Bool := s.contains k

/-- A number set with `k` in it. -/
def NatSet.add : NatSet → Nat → NatSet
  | [], k => [k]
  | j :: s, k => if j = k then j :: s else if k < j then k :: j :: s else j :: NatSet.add s k

/-- A number set without `k`. -/
def NatSet.drop (s : NatSet) (k : Nat) : NatSet := s.filter (· ≠ k)

/-- A number set with every number of a list in it. -/
def NatSet.addAll (s : NatSet) (ks : List Nat) : NatSet := ks.foldl NatSet.add s

/-- A number set without any number of a list. -/
def NatSet.dropAll (s : NatSet) (ks : List Nat) : NatSet := s.filter fun k => !ks.contains k

end Sys2Proof
end

