-- ==== Sys2Proof/Machine/CoreState.lean ====
section
/-!
DEFINITION. The state of one core as plain data (R71 to R118, R119 to R144): the types State.lean's table of cores is
made of. The meanings are in the family files; a type stands here so that no definition stands beside it.
-/
namespace Sys2Proof.Machine

/-- An address generator (R71, R90): its space, base, current address and four 24-bit strides. -/
structure Gen where
  /-- The space: far, or local (R72). Launch: local (R114). -/
  far : Bool
  /-- Base address (R84). Launch: 0 (R114). -/
  base : BitVec 48
  /-- Current address (R90). Launch: 0 (R114). -/
  cur : BitVec 48
  /-- Strides 0 to 3, two's complement (R84). Launch: 0 (R114). -/
  strides : SMap (BitVec 24)
  deriving DecidableEq, Repr, Inhabited

/-- A loop level (R88): its active flag, counts, addresses and one increment for each generator. -/
structure Level where
  active : Bool
  /-- Count set by SET_LEVEL, from which completed iterations are told (R154). -/
  count : Nat
  remaining : Nat
  start : Nat
  target : Nat
  incs : SMap (BitVec 24)
  deriving DecidableEq, Repr, Inhabited

/-- One weight register of a cell (R121): its elements' codes, each with the scale code of the block that holds it. -/
structure Cell where
  codes : List Nat
  scales : List Nat
  deriving DecidableEq, Repr, Inhabited

/-- What a block in a weight register is (R121, R140): the fields every access of it shares. -/
structure BlockKind where
  shape : Nat
  sfmt : Nat
  svar : Nat
  transposed : Bool
  deriving DecidableEq, Repr, Inhabited

/-- The block being loaded: its kind and how many of its 32 accesses have been issued (R124). -/
structure Loading where
  kind : BlockKind
  accesses : Nat
  deriving DecidableEq, Repr, Inhabited

/-- The kind of the tokens in the array and the beat at which the array is empty of them (R96, R140). -/
structure Occupied where
  shape : Nat
  tfmt : Nat
  tvar : Nat
  transposed : Bool
  clear : Nat
  deriving DecidableEq, Repr, Inhabited

/-- A weight row on its way down the grid (R141): when it reaches its cell row, when that row takes it, what it writes. -/
structure WeightRow where
  parity : Nat
  reach : Nat
  due : Nat
  cells : List (Nat × Cell)
  deriving DecidableEq, Repr, Inhabited

/-- The matrix array's state (R121, R139 to R144). Cells are keyed by 128 × cell row + cell column. -/
structure ArrayState where
  /-- Weight register 0 of every loaded cell. -/
  reg0 : SMap Cell
  /-- Weight register 1 of every loaded cell. -/
  reg1 : SMap Cell
  /-- Parity of the current pass. -/
  parity : Nat
  /-- b: complete blocks whose pass has not issued its pass_last (R139). -/
  blocks : Nat
  /-- Parity of the register the next block fills: block m fills register m mod 2. -/
  nextReg : Nat
  /-- The kind of the block in register 0, and in register 1, once complete. -/
  kind0 : BlockKind
  kind1 : BlockKind
  /-- The block in progress. -/
  loading : Option Loading
  /-- Position of the next token within its row (R127). -/
  token : Nat
  /-- Position of the next row within its pass (R129). -/
  row : Nat
  /-- The tokens in the array. -/
  occupied : Option Occupied
  /-- For each parity, the issue beat of the last token of the last ended pass that read it, and its grid's width B. -/
  last0 : Option (Nat × Nat)
  last1 : Option (Nat × Nat)
  /-- Weight rows issued and not yet written (R141, R143). -/
  rows : List WeightRow
  deriving DecidableEq, Repr, Inhabited

/-- What an operation in flight does when it lands (R94, R98). -/
inductive Effect where
  /-- A scalar register takes a value. -/
  | sreg (k : Nat) (v : Word64)
  /-- Runs of bytes written in the local space: (address, bytes). -/
  | locals (ws : List (Nat × Bytes))
  /-- Runs of bytes written in the tile registers: (byte number 4096t + 128r + offset, bytes); `rows` are the rows 32t + r. -/
  | rows (rows : List Nat) (ws : List (Nat × Bytes))
  /-- A token's values for one accumulator line (R134): `init` overwrites, `int` reads INT32; the counter slot, if counted,
  and the events the token carries with its last line. -/
  | acc (line : Nat) (init int : Bool) (vals : List (Nat × Nat)) (slot : Option Nat) (ev : Events)
  /-- MVG's write of a generator field (R165). -/
  | gen (g field : Nat) (b : Word64)
  /-- The report of a collective trigger (R111): slot, the binding triggered, the trigger word's address. -/
  | report (slot desc : Nat) (keep : Bool) (since addr : Nat)
  deriving DecidableEq, Repr, Inhabited

/-- An operation in flight: the beat it lands at and what it does. -/
structure Landing where
  due : Nat
  effect : Effect
  deriving DecidableEq, Repr, Inhabited

/-- A collective binding slot in use (R86). -/
structure Bind where
  desc : Nat
  keep : Bool
  /-- The beat it was bound at, by which a trigger's report tells its own binding from a later one of the slot (R86, R111). -/
  since : Nat
  deriving DecidableEq, Repr, Inhabited

/-- A receive window of a channel (R98, R105): its first local line number, its length, and the senders of the
messages that have filled it, in order of arrival (R108). -/
structure Window where
  line : Nat
  len : Nat
  senders : List Nat
  deriving DecidableEq, Repr, Inhabited

/-- A message (R105): sender number, destination core, channel, expected epoch and its 64 B line. -/
structure Msg where
  sender : Nat
  dest : Nat
  chan : Nat
  epoch : BitVec 16
  data : Bytes
  deriving DecidableEq, Repr, Inhabited

/-- A channel's sends (R105, R108): outstanding, and failed since the last WAIT_SEND. -/
structure Sends where
  outstanding : Nat
  failed : Nat
  deriving DecidableEq, Repr, Inhabited

/-- A line in the staging buffer (R101, R103): the generator and beat it is for, the far address of its first byte, its
width (64, or 2,048 for a slot column of a frame), whether it has arrived, the faults met at its fetch (line address, code), its
64 bytes as the engine receives them before any skew, and the strip lines fetched with it (tile number, bytes). -/
structure Staged where
  gen : Nat
  beat : Nat
  addr : Nat
  span : Nat
  slot : Nat
  arrived : Bool
  faults : List (Nat × Nat)
  line : Bytes
  /-- Whether strips were fetched with it, and its strip area. -/
  stripped : Bool
  stripAddr : Nat
  strips : SMap Bytes
  /-- The fault of a strip line that is not listed (R103, R181). -/
  stripFault : Nat
  deriving DecidableEq, Repr, Inhabited

/-- A chunk packer run (R236, R237): the beat of its first row read, the descriptor, the trigger word's address, its first
accumulator row, its chunk count and first chunk number, the rows read so far and their values, and the chunks already
encoded. -/
structure Packer where
  start : Nat
  desc : Nat
  addr : Nat
  base : Nat
  count : Nat
  first : Nat
  read : Nat
  vals : List Nat
  encoded : Nat
  /-- The job and the step the trigger word ran for. -/
  job : Option Nat
  step : Option Nat
  deriving DecidableEq, Repr, Inhabited

/-- The run state of a core (R87, R113, R116). -/
inductive RunState where
  /-- No program running: before launch, after END, after a halt or after decant. -/
  | idle
  /-- A program running. -/
  | running
  /-- Stopped at BREAK for the debugger (R87). -/
  | broken
  /-- Stopped at a tile boundary for a decant or a discard (R340). -/
  | stopped
  deriving DecidableEq, Repr, Inhabited

/-- One core (R71). Tile bytes are keyed 4096t + 128r + byte; local bytes by local address (R72). -/
structure Core where
  run : RunState
  /-- Whether the word store has been loaded since power-up: words an image does not give are then all ones (R113). -/
  loaded : Bool
  /-- The words loaded, by word address. -/
  words : SMap Word256
  pc : Nat
  /-- Beats since launch: the clock of its landings (R94); the 48-bit beat counter shows it saturated (R74). -/
  beat : Nat
  /-- The role epoch (R106). Reset: 0. -/
  epoch : BitVec 16
  sregs : SMap Word64
  gens : SMap Gen
  levels : SMap Level
  /-- Stream registers st0 to st3 (R71). -/
  streams : SMap (BitVec 24)
  /-- The 16 counter slots (R59): what the core's own words have added, and what the conversions of compute copies have, which no
  record takes (R61); a slot holds the sum. -/
  counters : SMap Events
  copyCounts : SMap Events
  /-- Scratch and accumulator buffer, by local address (R72). -/
  mem : Memory
  /-- Tile registers T0 to T7. -/
  tiles : Memory
  /-- Pending-write bits of local lines, tile-register rows (32t + r) and scalar registers (R98). -/
  pendLines : NatSet
  pendRows : NatSet
  pendSregs : NatSet
  /-- Operations issued and not yet landed, in issue order. -/
  flight : List Landing
  /-- The beat from which the vector engine accepts the next tile operation (R95). -/
  vectorFree : Nat
  array : ArrayState
  /-- Binding slots in use (R86). -/
  binds : SMap Bind
  /-- Windows, holding registers and send counts, by channel (R105). -/
  windows : SMap Window
  holding : SMap Msg
  sends : SMap Sends
  staged : List Staged
  packers : List Packer
  /-- The last halt record (R117): 64 bits. -/
  record : Word64
  /-- The job the core is assigned to, with its stage, context and atelier; the strip bases of its image (R180). -/
  job : Option Nat
  stage : Nat
  ctx : Nat
  atelier : Nat
  localStrip : BitVec 20
  farStrip : BitVec 48
  /-- The step of the job its program was launched for (R213, R229). -/
  step : Option Nat
  /-- The word of its last beat leaves it at a tile boundary (R340). -/
  boundary : Bool
  deriving DecidableEq, Repr, Inhabited

/-- A generator as launch leaves it (R114). -/
def Gen.zero : Gen := ⟨false, 0, 0, []⟩
/-- A loop level as launch leaves it (R114). -/
def Level.zero : Level := ⟨false, 0, 0, 0, 0, []⟩
/-- An array as launch leaves it: every register empty, b zero, parity zero (R121, R139). -/
def ArrayState.empty : ArrayState := ⟨[], [], 0, 0, 0, ⟨0, 0, 0, false⟩, ⟨0, 0, 0, false⟩, none, 0, 0, none, none, none, []⟩
/-- The beat counter (R74): 48 bits, saturating. -/
def Core.counter (c : Core) : Nat := min c.beat (2 ^ 48 - 1)
/-- A core after module reset: nothing loaded, every SRAM word cleared (R199), epoch 0 (R106). -/
def Core.reset : Core :=
  ⟨.idle, false, [], 0, 0, 0, [], [], [], [], [], [], [], [], [], [], [], [], 0, ArrayState.empty, [], [], [], [], [], [], 0, none, 0, 0, 0, 0, 0, none, false⟩

end Sys2Proof.Machine
end

