-- ==== Sys2Proof/Machine/Operands.lean ====
section
/-!
DEFINITION. The operand forms: the fields of a control word (R75 to R87), which of them each operation reads (R493), the
generator accesses (R90, R91, R176, R179) and the strip addresses (R180).
-/
namespace Sys2Proof.Machine

/-- The step select of one generator (R81). -/
structure Select where
  mode : Nat
  skew : Bool
  step : Bool
  stride : Nat
  reserved : Nat
  deriving DecidableEq, Repr, Inhabited

/-- The step select of generator `a` (R75: a0 at [175:160], a1 at [191:176], a2 at [207:192], a3 at [223:208]). -/
def wordSelect (w : Word256) (a : Nat) : Select :=
  let b := 160 + 16 * a
  ⟨field w b 2, flag w (b + 2), flag w (b + 3), field w (b + 4) 2, field w (b + 6) 10⟩

/-- The format of a word (R76). -/
def wordFormat (w : Word256) : Nat := field w 0 8

/-- The array field of a compute word (R78). -/
structure ArrayField where
  aop : Nat
  shape : Nat
  sfmt : Nat
  svar : Nat
  tfmt : Nat
  tvar : Nat
  srcAg : Nat
  accAg : Nat
  passLast : Bool
  reserved : Nat
  slot : Nat
  count : Bool
  roEn : Bool
  roSrc : Nat
  roDst : Nat
  roFmt : Nat
  roVar : Nat
  roRnd : Nat
  roRule : Nat
  roSt : Nat
  roShare : Bool
  roInt : Bool
  deriving DecidableEq, Repr, Inhabited

/-- The array field's map (R78). -/
def arrayField (w : Word256) : ArrayField :=
  { aop := field w 8 3, shape := field w 11 3, sfmt := field w 14 4, svar := field w 18 2, tfmt := field w 20 4,
    tvar := field w 24 2, srcAg := field w 26 2, accAg := field w 28 2, passLast := flag w 30, reserved := field w 31 1,
    slot := field w 32 4, count := flag w 36, roEn := flag w 37, roSrc := field w 38 2, roDst := field w 40 2,
    roFmt := field w 42 4, roVar := field w 46 2, roRnd := field w 48 2, roRule := field w 50 2, roSt := field w 52 2,
    roShare := flag w 54, roInt := flag w 55 }

/-- The vector field of a compute word (R79). -/
structure VectorField where
  vop : Nat
  ta : Nat
  tb : Nat
  td : Nat
  ma : Nat
  mb : Nat
  md : Nat
  agA : Nat
  agB : Nat
  agD : Nat
  sreg : Nat
  fmt : Nat
  var : Nat
  rnd : Nat
  rule : Nat
  st : Nat
  share : Bool
  slot : Nat
  count : Bool
  row : Nat
  half : Nat
  aux : Nat
  reserved : Nat
  deriving DecidableEq, Repr, Inhabited

/-- The vector field's map (R79). -/
def vectorField (w : Word256) : VectorField :=
  { vop := field w 56 8, ta := field w 64 3, tb := field w 67 3, td := field w 70 3, ma := field w 73 2, mb := field w 75 2,
    md := field w 77 2, agA := field w 79 2, agB := field w 81 2, agD := field w 83 2, sreg := field w 85 5, fmt := field w 90 4,
    var := field w 94 2, rnd := field w 96 2, rule := field w 98 2, st := field w 100 2, share := flag w 102,
    slot := field w 103 4, count := flag w 107, row := field w 108 5, half := field w 113 1, aux := field w 114 4,
    reserved := field w 118 2 }

/-- The scalar field of a compute word (R80). -/
structure ScalarField where
  sop : Nat
  sd : Nat
  sa : Nat
  sb : Nat
  imm : Bool
  imm18 : BitVec 18
  deriving DecidableEq, Repr, Inhabited

/-- The scalar field's map (R80). -/
def scalarField (w : Word256) : ScalarField :=
  { sop := field w 120 6, sd := field w 126 5, sa := field w 131 5, sb := field w 136 5, imm := flag w 141,
    imm18 := w.extractLsb' 142 18 }

/-- The loop and sync field (R83). -/
structure LoopField where
  close : Nat
  exitEn : Bool
  exitLvl : Nat
  exitReg : Nat
  coll : Bool
  cslot : Nat
  reserved : Nat
  deriving DecidableEq, Repr, Inhabited

/-- The loop and sync field's map (R83). -/
def loopField (w : Word256) : LoopField :=
  { close := field w 224 6, exitEn := flag w 230, exitLvl := field w 231 3, exitReg := field w 234 5, coll := flag w 239,
    cslot := field w 240 4, reserved := field w 244 12 }

/-- Whether the word closes level `k`. -/
def closes (w : Word256) (k : Nat) : Bool := (loopField w).close.testBit k

/-- Whether a word is a compute word whose array field issues operation `a` (R76, R78). -/
def isArray (a : Nat) (w : Word256) : Bool := wordFormat w = 0 && (arrayField w).aop = a
/-- Whether a word is a compute word with a readout. -/
def isReadout (w : Word256) : Bool := wordFormat w = 0 && (arrayField w).roEn
/-- Whether a word is a compute word that triggers a collective. -/
def isTrigger (w : Word256) : Bool := wordFormat w = 0 && (loopField w).coll
/-- Whether a word is a compute word with vector opcode `v`. -/
def isVector (v : Nat) (w : Word256) : Bool := wordFormat w = 0 && (vectorField w).vop = v
/-- Whether a word is a compute word with scalar opcode `x`. -/
def isScalar (x : Nat) (w : Word256) : Bool := wordFormat w = 0 && (scalarField w).sop = x
/-- Whether a word is a loop set-up word of kind `k` (R84). -/
def isSetup (k : Nat) (w : Word256) : Bool := wordFormat w = 1 && field w 8 4 = k
/-- Whether a word is a message-and-sync word with operation `m` (R85). -/
def isMessage (m : Nat) (w : Word256) : Bool := wordFormat w = 2 && field w 8 3 = m
/-- Whether a word is a collective-bind word that binds, or one that unbinds (R86). -/
def isBind (unbind : Bool) (w : Word256) : Bool := wordFormat w = 3 && flag w 26 = unbind
/-- Whether a word is a halt/debug word with operation `h` (R87). -/
def isHalt (h : Nat) (w : Word256) : Bool := wordFormat w = 4 && field w 8 3 = h
/-- Whether a word closes a level. -/
def isClose (w : Word256) : Bool := wordFormat w ≤ 4 && (loopField w).close ≠ 0
/-- Whether a word is a conditional exit. -/
def isExit (w : Word256) : Bool := wordFormat w ≤ 4 && (loopField w).exitEn

/-- The vector classes of R155. -/
inductive VClass where
  | line | e | c | r | k | x | s | h
  deriving DecidableEq, Repr, Inhabited

/-- The class of a vector opcode (R155); none for NOP and for values the table does not list. -/
def vclass (v : Nat) : Option VClass :=
  if 0x01 ≤ v && v ≤ 0x06 then some .line
  else if (0x10 ≤ v && v ≤ 0x25) || (0x28 ≤ v && v ≤ 0x2D) then some .e
  else if 0x30 ≤ v && v ≤ 0x33 then some .c
  else if 0x38 ≤ v && v ≤ 0x3C then some .r
  else if 0x40 ≤ v && v ≤ 0x44 then some .k
  else if v = 0x48 then some .x
  else if 0x50 ≤ v && v ≤ 0x55 then some .s
  else if 0x58 ≤ v && v ≤ 0x5A then some .h
  else none

/-- Whether a class E operation is a packed 16-bit one. -/
def vpacked (v : Nat) : Bool := 0x28 ≤ v && v ≤ 0x2D

/-- Whether a vector opcode reads operand B (R155). -/
def vusesB (v : Nat) : Bool :=
  vclass v = some .e && !(v = 0x17 || v = 0x18 || v = 0x19 || v = 0x25)

/-- Whether a vector opcode reads the prior contents of td (R155). -/
def vusesD (v : Nat) : Bool := v = 0x13 || v = 0x14 || v = 0x1D || v = 0x2B

/-- The fmt codes a vector opcode accepts (R155); none where fmt is ignored. -/
def vfmts (v : Nat) : Option (List Nat) :=
  if v ≤ 0x06 || v = 0x48 then none
  else if 0x1D ≤ v && v ≤ 0x20 then none
  else if 0x21 ≤ v && v ≤ 0x23 then some [0xB]
  else if v = 0x24 || v = 0x25 then some [0x0]
  else if vpacked v then some [0x1, 0x2]
  else if 0x30 ≤ v && v ≤ 0x33 then some (List.range 14)
  else if v = 0x3C || v = 0x44 then some [0x0]
  else if 0x50 ≤ v && v ≤ 0x55 then some [0x0]
  else if 0x58 ≤ v && v ≤ 0x5A then some [0x0, 0x1, 0x2]
  else some [0x0, 0xB]

/-- The scalar opcodes R163 lists. -/
def sopListed (x : Nat) : Bool :=
  (x ≤ 0x0F) || (0x11 ≤ x && x ≤ 0x13) || x = 0x18 || x = 0x19 || x = 0x1C || (0x20 ≤ x && x ≤ 0x28)

/-- The scalar registers a scalar operation reads at issue, besides the immediate's absence (R163 to R165). -/
def sopReads (f : ScalarField) : List Nat :=
  let x := f.sop
  if x = 0 || !sopListed x then []
  else
    let sa := if x = 0x0F || x = 0x1C then [] else [f.sa]
    let sb := if x = 0x18 || x = 0x19 then [] else if 0x20 ≤ x then (if x = 0x27 || x = 0x28 then [] else [f.sb])
              else if f.imm then [] else [f.sb]
    let sd := if x = 0x0E || x = 0x23 || x = 0x19 then [f.sd] else []
    sa ++ sb ++ sd

/-- The scalar register a scalar operation writes. -/
def sopWrites (f : ScalarField) : List Nat :=
  if f.sop = 0 || f.sop = 0x19 || f.sop = 0x1C || !sopListed f.sop then [] else [f.sd]

/-- The ports of a word that name a generator (R82, R493), in the word's order. -/
def namedGens (w : Word256) : List Nat :=
  match wordFormat w with
  | 0 =>
    let a := arrayField w
    let v := vectorField w
    (if a.aop = 1 || a.aop = 2 then [a.srcAg, a.accAg] else if a.aop = 3 || a.aop = 4 then [a.srcAg] else []) ++
    (if a.roEn then [a.roSrc, a.roDst] else []) ++
    (if vclass v.vop = some .line then
      (if v.vop = 0x02 || v.vop = 0x05 then (if v.md = 1 then [v.agD] else []) else (if v.ma = 1 then [v.agA] else []))
     else [])
  | 2 =>
    let mop := field w 8 3
    if mop = 0 || mop = 1 then [field w 20 2] else []
  | _ => []

/-- The address space's mask: far addresses wrap modulo 2^48, local ones modulo 2^20 (R90). -/
def Gen.wrap (g : Gen) (x : BitVec 48) : BitVec 48 := if g.far then x else x &&& 0xFFFFF#48

/-- A generator's current address moved by a stride or increment (R88, R90). -/
def Gen.move (g : Gen) (d : BitVec 24) : Gen := { g with cur := g.wrap (g.cur + d.signExtend 48) }

/-- The stride a step select names. -/
def Gen.stride (g : Gen) (k : Nat) : BitVec 24 := SMap.get 0 g.strides k

/-- A resolved access of a generator: its space, its first byte, how many bytes it spans (64, or a frame of 2,048), the
skew of a line access in slots, and the slot column of a transposed one (R90, R91, R179). -/
structure Access where
  far : Bool
  addr : Nat
  span : Nat
  rot : Nat
  column : Nat
  cur : Nat
  deriving DecidableEq, Repr, Inhabited

/-- The access a generator makes under a step select. -/
def access (g : Gen) (sel : Select) : Access :=
  let a := g.cur.toNat
  if sel.mode = 2 then ⟨g.far, a / 2048 * 2048, 2048, 0, a / 2 % 32, a⟩
  else ⟨g.far, a / 64 * 64, 64, if sel.skew then a / 64 % 32 else 0, 0, a⟩

/-- The generators of a core. -/
def Core.gen (c : Core) (a : Nat) : Gen := SMap.get Gen.zero c.gens a

/-- The access generator `a` makes in word `w`. -/
def Core.access (c : Core) (w : Word256) (a : Nat) : Access := Machine.access (c.gen a) (wordSelect w a)

/-- Where engine slot `s` of an access lies: the byte address of its 2-byte slot (R91). On an accumulator port skew and mode 2 move
nothing: a token's region and a readout's row begin at the line or row of cur (DESIGN CHOICE, notes/assumptions/60.md). -/
def Access.slot (x : Access) (s : Nat) : Nat :=
  if x.span = 64 then x.addr + 2 * ((s + x.rot) % 32) else x.addr + 64 * s + 2 * ((s + x.column) % 32)

/-- The strip area of an access's frame (R180). -/
def stripArea (c : Core) (x : Access) : Nat :=
  let f := x.cur / 2048 * 2048
  if x.far then (c.farStrip.toNat + f / 4) % 2 ^ 48 else (c.localStrip.toNat + f / 4) % 2 ^ 20

/-- A scalar register's value. -/
def Core.sreg (c : Core) (k : Nat) : Word64 := SMap.get 0 c.sregs k

/-- A stream register's value. -/
def Core.stream (c : Core) (k : Nat) : BitVec 24 := SMap.get 0 c.streams k

/-- A loop level's values. -/
def Core.level (c : Core) (k : Nat) : Level := SMap.get Level.zero c.levels k

/-- The word at a word address: words an image does not give are all ones once a load has been made (R113), zero before
(R199). -/
def Core.word (c : Core) (a : Nat) : Word256 := SMap.get (if c.loaded then BitVec.allOnes 256 else 0) c.words a

/-- The capacity c of a stationary format (R119). -/
def capacity : Fmt → Nat
  | .bf16 | .fp16 => 1
  | .e4m3 | .e5m2 | .int8 | .e3m2 | .e2m3 => 2
  | .e2m1 | .int4 => 4
  | .ternary => 8
  | _ => 1

/-- The formats the array takes (R120). -/
def arrayFmt (code : Nat) : Bool := 1 ≤ code && code ≤ 0xA

/-- The pair class r (R52). -/
def pairClass (s t : Fmt) : Nat :=
  if s = .ternary && (t = .int4 || t = .e2m1 || t = .ternary) then 8 else min (capacity s) (capacity t)

/-- The cell grid A × B of a shape (R124). -/
def grid : Nat → Nat × Nat
  | 1 => (16, 64)
  | 2 => (64, 16)
  | 3 => (8, 128)
  | _ => (32, 32)

/-- How a row of the streamed operand is cut into tokens (R127): elements per cell row, splits n, phases P. -/
def tokenPlan (shape : Nat) (transposed : Bool) (s t : Fmt) : Nat × Nat × Nat :=
  let r := pairClass s t
  let e := if shape = 4 then 2 else if transposed then r else 1
  (e, ((grid shape).1 * e * t.width + 511) / 512, capacity s / r)

/-- Output values per cell column (R132). -/
def outputs (shape : Nat) (transposed : Bool) (s : Fmt) : Nat :=
  if shape = 4 then 4 else if transposed then 1 else capacity s

/-- The size of an output region in bytes (R132). -/
def regionBytes (shape : Nat) (transposed : Bool) (s : Fmt) : Nat := 4 * (grid shape).2 * outputs shape transposed s

/-- The completed iterations of a loop level (R154). -/
def Level.index (l : Level) : Nat := l.count - l.remaining

/-- The tile row LD and ST address (R154); none where the level named is inactive or reserved. -/
def Core.lineRow (c : Core) (v : VectorField) : Option Nat :=
  if v.aux < 8 then some v.row
  else
    let l := c.level (v.aux % 8)
    if v.aux % 8 ≤ 5 && l.active then some ((v.row + l.index) % 32) else none

/-- Operand b of a scalar operation (R163): s[sb], or the sign-extended immediate. -/
def Core.scalarB (c : Core) (f : ScalarField) : Word64 := if f.imm then f.imm18.signExtend 64 else c.sreg f.sb

/-- The address of a scalar load or store (R164). -/
def Core.scalarAddr (c : Core) (f : ScalarField) : Nat := (c.sreg f.sa + f.imm18.signExtend 64).toNat

end Sys2Proof.Machine
end

