-- ==== Sys2Proof/Machine/Flags.lean ====
section
/-!
DEFINITION. The flags and halt conditions of a core: pending-write bits (R98, R99), the halt reasons a word meets (R77,
R82, R84 to R89, R92, R99, R109, R112, R116, R118, R120, R125, R126, R129, R130, R140, R151 to R160) and the counts added to
a counter slot (R59). The reasons are a list; a core records the lowest (R116).
-/
namespace Sys2Proof.Machine

/-- A far line as a reader meets it (R92): the fault (0, 0x23 or 0x24) and the 64 bytes. -/
structure FarLine where
  fault : Nat
  bytes : Bytes

/-- A core's part in a collective (R287): what its packer starts from, if the operation packs. -/
structure Contribution where
  packs : Bool
  base : Nat
  count : Nat
  first : Nat

/-- What a core sees of the rest of the module while a word issues. -/
structure Env where
  /-- A 64 B line of the far space (R72), as a read meets it. -/
  read : Nat → FarLine
  /-- The fault a far write of the line at an address meets: 0, 0x23 or 0x25. -/
  writeFault : Nat → Nat
  /-- Whether the far line at an address is a poisoned line of the reservoir, which takes no write of part of it (R198). -/
  poisoned : Nat → Bool
  /-- The step keys of the core's job (R55). -/
  sharedKey : Nat
  privateKey : Nat
  /-- Whether a descriptor is owned by the job's context (R112). -/
  owned : Nat → Bool
  /-- The core's entry in a descriptor's contributor table (R112). -/
  entry : Nat → Option Contribution
  /-- Whether a core lies in the job's atelier (R109). -/
  inAtelier : Nat → Bool
  /-- Whether a debug session is active (R87). -/
  debugging : Bool
  /-- Whether the quadrant's table unit for an operation code has room (R166). -/
  tableRoom : Nat → Bool
  /-- The parameters of the layer a descriptor packs: how many of chunk c's 128 elements lie within the layer (R238). -/
  within : Nat → Nat → Nat
  /-- Whether the core's program is run-ahead: the step before it has not ended its actions (R213). -/
  ahead : Bool

/-- One reason where a condition holds. -/
def reasonIf (b : Bool) (r : Nat) : List Nat := if b then [r] else []

/-- Whether a local line's pending-write bit is set; `n` is the line number. -/
def Core.pendLine (c : Core) (n : Nat) : Bool := c.pendLines.has n
/-- Whether a tile row's pending-write bit is set. -/
def Core.pendRow (c : Core) (t r : Nat) : Bool := c.pendRows.has (32 * t + r)
/-- Whether a scalar register's pending-write bit is set. -/
def Core.pendSreg (c : Core) (k : Nat) : Bool := c.pendSregs.has k
/-- Whether any of the 32 rows of a tile register is pending. -/
def Core.pendTile (c : Core) (t : Nat) : Bool := c.pendRows.any fun k => k / 32 = t
/-- Whether any local line of a byte span is pending. -/
def Core.pendSpan (c : Core) (a n : Nat) : Bool := c.pendLines.any fun k => a / 64 ≤ k && k < (a + n) / 64

/-- The first byte of the accumulator buffer, and the end of the local contents (R72). -/
def accBase : Nat := 0x40000
def localEnd : Nat := 0x50000

/-- The staged line generator `a` uses at the current beat (R101). -/
def Core.stagedNow (c : Core) (a : Nat) : Option Staged := c.staged.find? fun x => x.gen = a && x.beat = c.beat

/-- The fault of a staged line (R92, R103): the lowest met at its fetch, 0 for none. -/
def Staged.fault (g : Staged) : Nat := listMin 0 (g.faults.map Prod.snd)

/-- The reasons of a local access (R72, R90, R92): `acc` for an accumulator port, else a scratch port. -/
def localReasons (acc : Bool) (x : Access) : List Nat :=
  reasonIf (x.span = 64 && x.cur % 64 ≠ 0) 0x21 ++
  (if localEnd < x.addr + x.span then [0x20] else reasonIf (acc != decide (accBase ≤ x.addr)) 0x22)

/-- The reasons of a scratch-port read through generator `a` (R92, R99, R103). -/
def readReasons (c : Core) (w : Word256) (a : Nat) : List Nat :=
  let x := c.access w a
  if x.far then
    match c.stagedNow a with
    | some g => reasonIf (g.fault ≠ 0) g.fault
    | none => []
  else localReasons false x ++ reasonIf (c.pendSpan x.addr x.span) 0x10

/-- The reasons of a write of `n` bytes through generator `a` (R92, R99, R198): local lines pending, far lines outside, read-only, or
poisoned and written in part. -/
def writeReasons (env : Env) (c : Core) (w : Word256) (a n : Nat) : List Nat :=
  let x := c.access w a
  if x.far then
    let lines := (List.range (x.span / 64)).map fun i => x.addr + 64 * i
    ((lines.map env.writeFault).filter (· ≠ 0)) ++ reasonIf ((n < 64 || x.span ≠ 64) && lines.any env.poisoned) 0x24
  else localReasons false x ++ reasonIf (c.pendSpan x.addr x.span) 0x12

/-- The reasons of an accumulator port (R92): a far generator there addresses the wrong region; the access is of a line whatever its
mode (notes/assumptions/60.md). -/
def accReasons (c : Core) (w : Word256) (a : Nat) : List Nat :=
  let x := c.access w a
  if x.far then [0x22] else reasonIf (x.cur % 64 ≠ 0) 0x21 ++ localReasons true x

/-- The reasons of a local strip line (R181): bounds, region and pending bit, for a read or a write. -/
def localStripReasons (c : Core) (write : Bool) (a : Nat) : List Nat :=
  (if localEnd ≤ a then [0x20] else reasonIf (accBase ≤ a) 0x22) ++
  reasonIf (c.pendLine (a / 64)) (if write then 0x12 else 0x10)

/-- The tiles of a frame whose strips an access of a block-scaled operand needs (R176, R180): by the element columns it
reads. -/
def stripTiles (var : Nat) (cols : List Nat) : List Nat :=
  if var = 1 || var = 2 then (cols.map (· / 32)).foldl NatSet.add [] else []

/-- The reasons of the strip lines of a read access (R103, R181). -/
def stripReasons (c : Core) (w : Word256) (a : Nat) (tiles : List Nat) : List Nat :=
  let x := c.access w a
  if x.far then
    match c.stagedNow a with
    | some g => reasonIf (tiles.any fun u => (SMap.find? g.strips u).isNone) g.stripFault
    | none => []
  else tiles.flatMap fun u => localStripReasons c false ((stripArea c x + 64 * u) % 2 ^ 20)

/-- Whether a format and variant pair is reserved (R30, R31). -/
def fvBad (code var : Nat) : Bool := (fmtVar code var).isNone

/-- The reasons of a rounding, scale rule and variant (R46, R77, R493, R43). -/
def ruleReasons (var rule : Nat) : List Nat := reasonIf (rule = 3) 0x09 ++ reasonIf (rule = 0 && var = 2) 0x36

/-! ### Reasons read from the word alone -/

/-- Reserved bits outside the formats' payloads, and the step selects (R76, R81, R82, R83). -/
def commonReasons (w : Word256) : List Nat :=
  let l := loopField w
  let fmt := wordFormat w
  reasonIf (l.reserved ≠ 0) 0x03 ++
  reasonIf (fmt ≠ 0 && (l.coll || l.cslot ≠ 0)) 0x03 ++
  reasonIf (l.exitEn && 5 < l.exitLvl) 0x02 ++
  (if fmt = 0 || fmt = 2 then
    let named := namedGens w
    (List.range 4).flatMap fun a =>
      let sel := wordSelect w a
      let n := named.count a
      let active := sel.mode = 1 || sel.mode = 2
      reasonIf (sel.reserved ≠ 0) 0x03 ++ reasonIf (sel.mode = 3) 0x02 ++ reasonIf (sel.mode = 2 && !sel.skew) 0x0C ++
      reasonIf ((0 < n && !active) || (n = 0 && active)) 0x0A ++ reasonIf (1 < n) 0x0B
  else reasonIf (field w 160 64 ≠ 0) 0x03)

/-- The array field's reasons (R77, R78, R120, R125, R126). -/
def arrayReasons (w : Word256) : List Nat :=
  let a := arrayField w
  let smode := (wordSelect w a.srcAg).mode
  let tok := a.aop = 1 || a.aop = 2
  reasonIf (a.reserved ≠ 0) 0x03 ++
  (if 4 < a.aop then [0x02]
   else if a.aop = 0 then []
   else
    reasonIf (4 < a.shape) 0x02 ++
    reasonIf (fvBad a.sfmt a.svar || (tok && fvBad a.tfmt a.tvar)) 0x09 ++
    reasonIf ((a.sfmt < 14 && !arrayFmt a.sfmt) || (tok && a.tfmt < 14 && !arrayFmt a.tfmt)) 0x30 ++
    reasonIf ((a.aop = 3 && smode ≠ 1) || (a.aop = 4 && smode ≠ 2)) 0x32 ++
    reasonIf (a.shape = 4 && (a.sfmt ≠ 0xA || a.aop = 4 || (tok && !(a.tfmt = 0x7 || a.tfmt = 0x9 || a.tfmt = 0xA)))) 0x32 ++
    reasonIf (a.shape ≠ 0 && (a.sfmt = 5 || a.sfmt = 6 || (tok && (a.tfmt = 5 || a.tfmt = 6)))) 0x32 ++
    reasonIf ((a.aop = 4 && (a.sfmt = 5 || a.sfmt = 6)) || (tok && smode = 2 && (a.tfmt = 5 || a.tfmt = 6))) 0x32) ++
  (if a.roEn then
    reasonIf (fvBad a.roFmt a.roVar) 0x09 ++
    reasonIf (a.roFmt < 14 && !arrayFmt a.roFmt) 0x35 ++
    reasonIf (a.roRnd = 3) 0x09 ++ ruleReasons a.roVar a.roRule
   else [])

/-- The source variant of a conversion opcode (R159). -/
def convVariant (vop : Nat) : Nat := if vop = 0x31 then 1 else if vop = 0x32 then 2 else 0

/-- The conversion fields' reasons (R77, R159). -/
def convReasons (v : VectorField) : List Nat :=
  reasonIf (fvBad v.aux (convVariant v.vop) || fvBad v.fmt v.var) 0x09 ++
  (match Fmt.ofCode v.aux, Fmt.ofCode v.fmt with
   | some s, some t => reasonIf (!convPair s t) 0x31
   | _, _ => []) ++
  ruleReasons v.var v.rule ++
  reasonIf (v.vop = 0x33 && !(v.var = 1 || v.var = 2)) 0x33

/-- The source and destination reasons of R151 and R152. -/
def sourceReasons (v : VectorField) (cl : VClass) : List Nat :=
  let ok := match cl with
    | .line => if v.vop = 0x02 || v.vop = 0x05 then v.ma = 0 && v.mb = 0 && v.md = 1 else v.ma = 1 && v.mb = 0 && v.md = 0
    | _ => (v.ma = 0 || v.ma = 2) && (v.mb = 0 || (v.mb = 2 && vusesB v.vop)) && v.md = 0
  reasonIf (!ok) 0x33 ++
  reasonIf (v.ma = 2 && ((cl = .c && v.aux ≠ 0x0 && v.aux ≠ 0xB) || (cl = .h && (v.fmt = 1 || v.fmt = 2)))) 0x33

/-- The vector field's reasons (R77, R79, R151 to R160, R162). -/
def vectorReasons (w : Word256) : List Nat :=
  let v := vectorField w
  reasonIf (v.reserved ≠ 0) 0x03 ++
  (if v.vop = 0 then []
   else match vclass v.vop with
    | none => [0x02]
    | some cl =>
      sourceReasons v cl ++
      (match vfmts v.vop with
       | none => []
       | some fs => if 14 ≤ v.fmt then [0x09] else reasonIf (!fs.contains v.fmt) 0x33) ++
      (match cl with
       | .line => []
       | .c | .e => reasonIf (v.rnd = 3) 0x09
       | _ => reasonIf (v.rnd = 3) 0x09 ++ reasonIf (v.rnd ≠ 0) 0x33) ++
      (match cl with
       | .e =>
         let fa := v.aux / 4
         let fb := v.aux % 4
         reasonIf (fa = 3 || (vusesB v.vop && fb = 3)) 0x02 ++
         reasonIf ((fa ≠ 0 && v.ma = 2) || (vusesB v.vop && fb ≠ 0 && v.mb = 2)) 0x33
       | .line =>
         if v.vop = 0x01 || v.vop = 0x02 then reasonIf (8 ≤ v.aux && 5 < v.aux % 8) 0x02
         else if v.vop = 0x04 || v.vop = 0x05 then reasonIf (v.var = 0 || v.var = 3) 0x09 else []
       | .h => reasonIf (v.aux = 0 || 10 < v.aux) 0x34
       | .c => convReasons v
       | _ => []))

/-- The scalar field's reasons (R163, R165). -/
def scalarReasons (w : Word256) : List Nat :=
  let f := scalarField w
  reasonIf (!sopListed f.sop) 0x02 ++ reasonIf (f.sop = 0x1C && f.sd / 4 = 7) 0x02

/-- A loop set-up word's reasons (R77, R84). -/
def setupReasons (w : Word256) : List Nat :=
  match field w 8 4 with
  | 0 => reasonIf (flag w 15 || field w 58 6 ≠ 0) 0x03 ++ reasonIf (field w 16 20 = 0) 0x05 ++ reasonIf (5 < field w 12 3) 0x02
  | 1 => reasonIf (flag w 15 || field w 64 96 ≠ 0) 0x03 ++ reasonIf (!flag w 14 && field w 36 28 ≠ 0) 0x03
  | 2 => reasonIf (field w 14 2 ≠ 0 || field w 112 48 ≠ 0) 0x03
  | 3 => reasonIf (field w 14 2 ≠ 0 || field w 40 120 ≠ 0) 0x03
  | 4 => reasonIf (field w 17 3 ≠ 0 || field w 84 76 ≠ 0) 0x03
  | _ => [0x02]

/-- A message-and-sync word's reasons (R77, R85, R109). -/
def messageReasons (w : Word256) : List Nat :=
  let mop := field w 8 3
  let n := field w 22 7
  reasonIf (field w 29 131 ≠ 0) 0x03 ++ reasonIf (3 < mop) 0x02 ++
  reasonIf (mop = 1 && (n = 0 || 64 < n)) 0x42 ++ reasonIf (mop = 2 && n = 0) 0x45 ++
  reasonIf (((mop = 0 || mop = 3) && n ≠ 0) || (mop = 1 && field w 15 5 ≠ 0) || ((mop = 2 || mop = 3) && field w 20 2 ≠ 0)) 0x03

/-- A collective-bind word's reasons (R77, R86). -/
def bindReasons (w : Word256) : List Nat :=
  reasonIf (field w 28 132 ≠ 0) 0x03 ++ reasonIf (flag w 26 && field w 12 14 ≠ 0) 0x03

/-- A halt/debug word's reasons (R77, R87). -/
def haltReasons (w : Word256) : List Nat := reasonIf (field w 16 144 ≠ 0) 0x03 ++ reasonIf (2 < field w 8 3) 0x02

/-- Every reason a word meets by itself. -/
def staticReasons (w : Word256) : List Nat :=
  match wordFormat w with
  | 0 => commonReasons w ++ arrayReasons w ++ vectorReasons w ++ scalarReasons w
  | 1 => commonReasons w ++ setupReasons w
  | 2 => commonReasons w ++ messageReasons w
  | 3 => commonReasons w ++ bindReasons w
  | 4 => commonReasons w ++ haltReasons w
  | _ => [0x01]

/-! ### The loop unit's choice (R88) -/

/-- The lowest level at or above `k` that the word closes and that repeats; none where every closed level ends. -/
def repeats (c : Core) (w : Word256) : Nat → Nat → Option Nat
  | 0, _ => none
  | n + 1, k => if closes w k && 1 < (c.level k).remaining then some k else repeats c w n (k + 1)

/-- Whether the word's exit is taken. -/
def exitTaken (c : Core) (w : Word256) : Bool := (loopField w).exitEn && c.sreg (loopField w).exitReg != 0

/-- The next word address under R88. -/
def nextPc (c : Core) (w : Word256) : Nat :=
  if exitTaken c w then (c.level (loopField w).exitLvl).target
  else match repeats c w 6 0 with
    | some k => (c.level k).start
    | none => c.pc + 1

/-- The loop unit's reasons (R77, R89, R99): closing or leaving an inactive level, nesting, falling through word 2,047, and the
exit register read at issue. END falls through nothing (R87). Every close bit is checked at every issue (DESIGN CHOICE,
notes/assumptions/112.md), against the levels as they stand before the word's own set-up (DESIGN CHOICE, notes/assumptions/113.md). -/
def loopReasons (c : Core) (w : Word256) : List Nat :=
  let l := loopField w
  (List.range 6).flatMap (fun k =>
    if closes w k then
      reasonIf (!(c.level k).active) 0x06 ++
      reasonIf ((List.range k).any fun i => (c.level i).active && !closes w i) 0x08
    else []) ++
  reasonIf (l.exitEn && l.exitLvl ≤ 5 && !(c.level l.exitLvl).active) 0x06 ++
  reasonIf (l.exitEn && c.pendSreg l.exitReg) 0x10 ++
  reasonIf (nextPc c w = 2048 && !isHalt 0 w) 0x04

/-! ### Reasons of the engines -/

/-- Whether a word names stochastic rounding or a sign stream of stream register k (R115, R118, R162). -/
def drawStreams (w : Word256) : List Nat :=
  if wordFormat w = 0 then
    let a := arrayField w
    let v := vectorField w
    (if a.roEn && a.roRnd = 2 then [a.roSt] else []) ++
    (match vclass v.vop with
     | some .e | some .c => if v.rnd = 2 then [v.st] else []
     | some .h => if v.vop = 0x58 then [] else [v.st]
     | _ => [])
  else []

/-- The kind of the block the current pass reads. -/
def ArrayState.kind (x : ArrayState) : BlockKind := if x.parity = 0 then x.kind0 else x.kind1

/-- The element columns of its frame that a wash access reads (R123, R176). -/
def washColumns (aop : Nat) (s : Fmt) (x : Access) : List Nat :=
  let cap := capacity s
  if aop = 3 then List.range (32 * cap) else upFrom (cap * x.column) cap

/-- The element columns that a token reads, and how many elements it takes (R128, R129). -/
def tokenColumns (kind : BlockKind) (row : Nat) (s t : Fmt) (x : Access) : List Nat :=
  let (e, n, _) := tokenPlan kind.shape kind.transposed s t
  if x.span = 64 then List.range ((grid kind.shape).1 / n * e)
  else [16 / t.width * x.column + row % (16 / t.width)]

/-- A wash word's reasons (R92, R99, R140, R181). -/
def washReasons (c : Core) (w : Word256) : List Nat :=
  let a := arrayField w
  let kind : BlockKind := ⟨a.shape, a.sfmt, a.svar, a.aop = 4⟩
  (match c.array.loading with
   | none => reasonIf (c.array.blocks = 2) 0x11
   | some l => reasonIf (l.kind ≠ kind) 0x13) ++
  readReasons c w a.srcAg ++
  (match fmtVar a.sfmt a.svar with
   | some (s, _) => stripReasons c w a.srcAg (stripTiles a.svar (washColumns a.aop s (c.access w a.srcAg)))
   | none => [])

/-- A token word's reasons (R92, R96, R99, R129, R130, R132, R140, R181). -/
def tokenReasons (c : Core) (w : Word256) : List Nat :=
  let a := arrayField w
  let st := c.array
  let kind := st.kind
  readReasons c w a.srcAg ++ accReasons c w a.accAg ++
  (if st.blocks = 0 then [0x11]
   else if kind.shape ≠ a.shape || kind.sfmt ≠ a.sfmt || kind.svar ≠ a.svar then [0x13]
   else
    (match st.occupied with
     | some o => reasonIf (c.beat < o.clear && (o.shape ≠ a.shape || o.tfmt ≠ a.tfmt || o.tvar ≠ a.tvar || o.transposed ≠ kind.transposed)) 0x13
     | none => []) ++
    (match fmtVar a.sfmt a.svar, fmtVar a.tfmt a.tvar with
     | some (s, _), some (t, _) =>
       let x := c.access w a.srcAg
       let (_, n, p) := tokenPlan kind.shape kind.transposed s t
       reasonIf ((c.access w a.accAg).cur / 64 * 64 + regionBytes kind.shape kind.transposed s > localEnd) 0x22 ++
       reasonIf (x.span ≠ 64 && kind.transposed && 1 < pairClass s t) 0x32 ++
       reasonIf (x.span ≠ 64 && 32 < (grid kind.shape).1 / n) 0x32 ++
       reasonIf (a.passLast && st.token + 1 ≠ p * n) 0x32 ++
       stripReasons c w a.srcAg (stripTiles a.tvar (tokenColumns kind st.row s t x))
     | _, _ => []))

/-- Whether a packer reads an accumulator row at the current beat (R237). -/
def packerBusy (c : Core) : Bool := c.packers.any fun p => p.start ≤ c.beat && c.beat < p.start + 4 * p.count

/-- Where a readout's scale codes lie (R181): the strip line and the offset of its first code in it. -/
def readoutStrip (c : Core) (w : Word256) : Nat × Nat :=
  let a := arrayField w
  let x := c.access w a.roDst
  (stripArea c x, x.cur / 64 % 32 * (if a.roVar = 2 then 2 else 1))

/-- The step key a draw uses (R55, R56). -/
def Env.key (env : Env) (share : Bool) : Nat := if share then env.sharedKey else env.privateKey

/-- The draw of stream register `k` (R56, R115). -/
def Core.draw (c : Core) (env : Env) (k : Nat) (share : Bool) : Draw :=
  ⟨env.key share, (c.stream k).toNat, field (c.sreg (28 + k)) 0 40⟩

/-- The strip line of a readout as it stands. -/
def readoutGiven (env : Env) (c : Core) (w : Word256) : Bytes :=
  let strip := (readoutStrip c w).1
  if (c.access w (arrayField w).roDst).far then (env.read strip).bytes else c.mem.readBytes strip 64

/-- The row of its result tile that a readout fills (R56, R91): the frame row of the line it writes, or, where the destination is a slot
column, the row that the column is before the transposed write. -/
def Access.tileRow (x : Access) : Nat := if x.span = 64 then x.cur / 64 % 32 else x.column

/-- The conversion of one accumulator row (R78, R135): its 32 values, read as FP32 or INT32. -/
def readoutRow (env : Env) (c : Core) (w : Word256) : Converted :=
  let a := arrayField w
  match fmtVar a.roFmt a.roVar with
  | none => ⟨[], [], Events.zero⟩
  | some (t, v) =>
    let src := c.access w a.roSrc
    let dst := c.access w a.roDst
    let raw := unpackElems 32 32 (c.mem.readBytes (src.cur / 128 * 128) 128)
    let xs := raw.map fun x => decode (if a.roInt then .int32 else .fp32) x
    let given := readoutGiven env c w
    let supplied := (upFrom (readoutStrip c w).2 2).map fun i => (given.getD i 0).toNat
    let rule := match Rule.ofCode a.roRule with | some r => r | none => .floor
    convertRun t v rule supplied a.roRnd (c.draw env a.roSt a.roShare) (32 * dst.tileRow) xs

/-- The scale codes a block-scaled readout writes (R181): none where the program supplies them and they stay as they are. -/
def readoutCodes (env : Env) (c : Core) (w : Word256) : Option Bytes :=
  let a := arrayField w
  let codes : Bytes := (readoutRow env c w).scales.map (BitVec.ofNat 8)
  if !(a.roVar = 1 || a.roVar = 2) || (a.roRule = 2 && slice (readoutGiven env c w) (readoutStrip c w).2 codes.length = codes) then none else some codes

/-- How many bytes of its line a readout writes (R78). -/
def readoutBytes (w : Word256) : Nat :=
  match Fmt.ofCode (arrayField w).roFmt with
  | some t => 4 * t.width
  | none => 64

/-- The reasons of a block-scaled readout's strip line (R92, R181): read where the program supplies the codes, written where they
change; a far one must be readable either way, since its other bytes stay. -/
def readoutStripReasons (env : Env) (c : Core) (w : Word256) : List Nat :=
  let a := arrayField w
  let s := (readoutStrip c w).1
  let writes := (readoutCodes env c w).isSome
  if (c.access w a.roDst).far then reasonIf ((env.read s).fault ≠ 0) (env.read s).fault ++ reasonIf (writes && env.writeFault s ≠ 0) (env.writeFault s)
  else (if a.roRule = 2 then localStripReasons c false s else []) ++ (if writes then localStripReasons c true s else [])

/-- A readout's reasons (R78, R92, R99, R181, R237). -/
def readoutReasons (env : Env) (c : Core) (w : Word256) : List Nat :=
  let a := arrayField w
  let src := c.access w a.roSrc
  reasonIf (src.cur % 128 ≠ 0) 0x21 ++ accReasons c w a.roSrc ++
  reasonIf (!src.far && c.pendSpan (src.cur / 128 * 128) 128) 0x10 ++
  writeReasons env c w a.roDst (readoutBytes w) ++
  (if a.roVar = 1 || a.roVar = 2 then readoutStripReasons env c w else []) ++
  reasonIf (packerBusy c) 0x11

/-- A line transfer's reasons (R92, R99, R149, R154, R166): its access's, where its fields name a line at all (R152), and its row's. -/
def lineReasons (env : Env) (c : Core) (w : Word256) : List Nat :=
  let v := vectorField w
  (if v.vop = 0x02 || v.vop = 0x05 then (if v.md = 1 then writeReasons env c w v.agD 64 else [])
   else if v.ma ≠ 1 then []
   else if v.vop = 0x06 && (c.gen v.agA).far then [0x44] else readReasons c w v.agA) ++
  (match v.vop with
   | 0x01 => (match c.lineRow v with
     | some r => reasonIf (c.pendRow v.td r) 0x12
     | none => reasonIf (v.aux % 8 ≤ 5) 0x06)
   | 0x02 => (match c.lineRow v with
     | some r => reasonIf (c.pendRow v.ta r) 0x10
     | none => reasonIf (v.aux % 8 ≤ 5) 0x06)
   | 0x03 | 0x04 => reasonIf (c.pendTile v.td) 0x12
   | 0x05 => reasonIf (c.pendTile v.ta) 0x10
   | _ => [])

/-- Whether an operand source of a tile operation is pending (R149, R152, R153): the broadcast register, row 0 for a row
broadcast, else all 32 rows. -/
def sourcePending (c : Core) (v : VectorField) (source tile mode : Nat) : Bool :=
  if source = 2 then c.pendSreg v.sreg
  else if mode = 0 then c.pendTile tile else c.pendRow tile 0

/-- A tile operation's reasons (R95, R99, R149, R153, R159). -/
def tileReasons (c : Core) (v : VectorField) (cl : VClass) : List Nat :=
  reasonIf (c.beat < c.vectorFree) 0x11 ++
  reasonIf (sourcePending c v v.ma v.ta (if cl = .e then v.aux / 4 else 0) ||
    (vusesB v.vop && sourcePending c v v.mb v.tb (v.aux % 4)) || (vusesD v.vop && c.pendTile v.td) ||
    (cl = .c && v.rule = 2 && (v.var = 1 || v.var = 2) && c.pendTile v.tb)) 0x10 ++
  reasonIf (if cl = .r || cl = .k then c.pendRow v.td 0 else c.pendTile v.td) 0x12

/-- The vector operation's reasons that depend on the core. -/
def vectorStateReasons (env : Env) (c : Core) (w : Word256) : List Nat :=
  let v := vectorField w
  match vclass v.vop with
  | none => []
  | some .line => lineReasons env c w
  | some cl => tileReasons c v cl

/-- The scalar operation's reasons that depend on the core (R99, R164). -/
def scalarStateReasons (c : Core) (w : Word256) : List Nat :=
  let f := scalarField w
  let a := c.scalarAddr f
  reasonIf ((sopReads f).any c.pendSreg) 0x10 ++ reasonIf ((sopWrites f).any c.pendSreg) 0x12 ++
  (if f.sop = 0x18 || f.sop = 0x19 then
    reasonIf (a % 8 ≠ 0) 0x21 ++
    (if localEnd ≤ a then [0x20] else if accBase ≤ a then [0x22]
     else reasonIf (c.pendLine (a / 64)) (if f.sop = 0x18 then 0x10 else 0x12))
   else [])

/-- Whether a compute word issues a write that lands (R94, R112, R141): a wash, a token, a readout, a vector operation other than TREQ, a
scalar operation (notes/assumptions/64.md). -/
def issuesWrite (w : Word256) : Bool :=
  let a := arrayField w
  (1 ≤ a.aop && a.aop ≤ 4) || a.roEn || ((vectorField w).vop ≠ 0 && (vectorField w).vop ≠ 6) ||
  (scalarField w).sop ≠ 0

/-- A collective trigger's reasons (R112). -/
def triggerReasons (env : Env) (c : Core) (w : Word256) : List Nat :=
  if isTrigger w then
    match SMap.find? c.binds (loopField w).cslot with
    | none => [0x53]
    | some b => reasonIf (!issuesWrite w) 0x54 ++ reasonIf (env.entry b.desc).isNone 0x55
  else []

/-- A loop set-up word's reasons that depend on the core (R89, R99). -/
def setupStateReasons (c : Core) (w : Word256) : List Nat :=
  match field w 8 4 with
  | 0 =>
    let k := field w 12 3
    reasonIf (k ≤ 5 && (c.level k).active) 0x07 ++ reasonIf (k ≤ 5 && (List.range k).any fun i => (c.level i).active) 0x08
  | 4 => reasonIf (c.pendSreg (field w 12 5)) 0x12
  | _ => []

/-- The destination core a route register names (R105). -/
def routeDest (r : Word64) : Nat := field r 0 14

/-- A message-and-sync word's reasons that depend on the core (R92, R99, R109). -/
def messageStateReasons (env : Env) (c : Core) (w : Word256) : List Nat :=
  let chan := field w 11 4
  let reg := field w 15 5
  let ag := field w 20 2
  let n := field w 22 7
  match field w 8 3 with
  | 0 =>
    let d := routeDest (c.sreg reg)
    reasonIf (c.pendSreg reg) 0x10 ++ (if (c.gen ag).far then [0x44] else readReasons c w ag) ++
    (if 10367 < d then [0x40] else reasonIf (!env.inAtelier d) 0x41)
  | 1 =>
    let x := c.access w ag
    (if x.far then [0x44]
     else localReasons false x ++ reasonIf (accBase < x.addr + 64 * n) 0x42 ++ reasonIf (c.pendSpan x.addr (64 * n)) 0x12) ++
    (match SMap.find? c.windows chan with
     | some v => reasonIf (v.senders.length < v.len) 0x43
     | none => [])
  | 2 =>
    (match SMap.find? c.windows chan with
     | some v => reasonIf (v.len < n) 0x45
     | none => [0x45]) ++ reasonIf (c.pendSreg reg) 0x12
  | 3 => reasonIf (c.pendSreg reg) 0x12
  | _ => []

/-- A collective-bind word's reasons that depend on the core (R112). Reason 0x50 cannot arise: desc has 14 bits. -/
def bindStateReasons (env : Env) (c : Core) (w : Word256) : List Nat :=
  let bound := (SMap.find? c.binds (field w 8 4)).isSome
  if flag w 26 then reasonIf (!bound) 0x56
  else reasonIf bound 0x52 ++ reasonIf (!env.owned (field w 12 14)) 0x51

/-- A halt/debug word's reasons that depend on the core (R87, R99). -/
def haltStateReasons (c : Core) (w : Word256) : List Nat :=
  if field w 8 3 = 2 then
    let r := field w 11 5
    if c.pendSreg r then [0x10] else reasonIf (c.sreg r != 0) 0x0E
  else []

/-- The reasons a compute word's engines meet. -/
def computeStateReasons (env : Env) (c : Core) (w : Word256) : List Nat :=
  let a := arrayField w
  (if a.aop = 3 || a.aop = 4 then washReasons c w else if a.aop = 1 || a.aop = 2 then tokenReasons c w else []) ++
  (if a.roEn then readoutReasons env c w else []) ++
  vectorStateReasons env c w ++ scalarStateReasons c w ++ triggerReasons env c w ++
  reasonIf ((drawStreams w).any fun k => c.pendSreg (28 + k)) 0x10

/-- Every halt reason the word at the core's pc meets (R116). `upset` says that SECDED found an uncorrectable error in the
word or in something it reads (R198). -/
def reasons (env : Env) (c : Core) (upset : Bool) : List Nat :=
  let w := c.word c.pc
  reasonIf upset 0x26 ++ staticReasons w ++
  (if 4 < wordFormat w then [] else loopReasons c w) ++
  (match wordFormat w with
   | 0 => computeStateReasons env c w
   | 1 => setupStateReasons c w
   | 2 => messageStateReasons env c w
   | 3 => bindStateReasons env c w
   | 4 => haltStateReasons c w
   | _ => [])

/-- The generators through which the word at pc reads far lines (R101). -/
def farReads (c : Core) (w : Word256) : List Nat :=
  let a := arrayField w
  let v := vectorField w
  if wordFormat w = 0 then
    ((if 1 ≤ a.aop && a.aop ≤ 4 then [a.srcAg] else []) ++
     (if vclass v.vop = some .line && v.ma = 1 && v.vop ≠ 0x06 then [v.agA] else [])).filter fun g => (c.gen g).far
  else []

/-- Whether every far line the word consumes is in the staging buffer (R73). -/
def linesPresent (c : Core) : Bool :=
  (farReads c (c.word c.pc)).all fun g => match c.stagedNow g with
    | some x => x.arrived
    | none => false

/-- Two bytes of a line's slot. -/
def slotOf (line : Bytes) (s : Nat) : Bytes := slice line (2 * s) 2

/-- The 64 bytes an engine receives through generator `a` (R91, R179): a skewed line is rotated back, a slot column comes in
row order. -/
def lineIn (c : Core) (w : Word256) (a : Nat) : Bytes :=
  let x := c.access w a
  if x.far then
    match c.stagedNow a with
    | some g => if x.span = 64 then (List.range 32).flatMap fun s => slotOf g.line ((s + x.rot) % 32) else g.line
    | none => List.replicate 64 0#8
  else if x.span = 64 && x.rot = 0 then c.mem.readBytes x.addr 64
  else (List.range 32).flatMap fun s => c.mem.readBytes (x.slot s) 2

/-- Whether a word is backward work as a program shows it (R145, R213; DEDUCED, notes/assumptions/71.md): an access to a weight block with aop 4
in place of aop 3, or a collective trigger. -/
def isBackward (w : Word256) : Bool := isTrigger w || isArray 4 w

/-- Whether every wait the word names is satisfied (R73, R105, R108, R166); backward work of a run-ahead program waits for the actions of the
step before (R213). -/
def waitsOver (env : Env) (c : Core) : Bool :=
  let w := c.word c.pc
  let chan := field w 11 4
  if isBackward w && env.ahead then false
  else if isMessage 0 w then (c.sends.foldl (fun n p => n + p.2.outstanding) 0) < 16
  else if isMessage 2 w then
    match SMap.find? c.windows chan with
    | some v => decide (field w 22 7 ≤ v.senders.length)
    | none => false
  else if isMessage 3 w then (SMap.get ⟨0, 0⟩ c.sends chan).outstanding = 0
  else if isVector 6 w then env.tableRoom (bitsIn (lineIn c w (vectorField w).agA) 176 2)
  else true

/-- Events added to a counter slot, where the word counts (R59). -/
def Core.addEvents (c : Core) (count : Bool) (slot : Nat) (e : Events) : Core :=
  if count then { c with counters := SMap.set Events.zero c.counters slot ((SMap.get Events.zero c.counters slot).addSat 32 e) } else c

end Sys2Proof.Machine
end

