-- ==== Sys2Proof/Machine/ArrayEngine.lean ====
section
/-!
DEFINITION. The matrix array, the weight wash and the accumulator's two paths (R51, R52, R78, R119 to R144, R181): what a
wash word, a token word and a readout do at issue, and what lands later.
-/
namespace Sys2Proof.Machine

/-- What a word sends out of its core. -/
inductive Out where
  /-- A 64 B far line written whole (R184). -/
  | farWrite (addr : Nat) (line : Bytes)
  /-- A message on its way (R105). -/
  | send (m : Msg)
  /-- A table request line (R166). -/
  | table (line : Bytes)
  /-- A contribution to a collective (R111). -/
  | report (desc : Nat)
  /-- The program has ended or halted with a reason (R116, R117); 0 for END. -/
  | stop (reason : Nat)
  /-- A chunk the packer has encoded (R239): descriptor, chunk number, bytes. -/
  | chunk (desc num : Nat) (bytes : Bytes)
  deriving DecidableEq, Repr, Inhabited

/-- A core together with what it has sent out so far. -/
structure Issued where
  core : Core
  outs : List Out
  deriving DecidableEq, Repr, Inhabited

/-- A core with operations put in flight. -/
def Core.fly (c : Core) (ls : List Landing) : Core := { c with flight := c.flight ++ ls }

/-- A core with pending-write bits set on local lines, tile rows and scalar registers (R98). -/
def Core.mark (c : Core) (lines rows sregs : List Nat) : Core :=
  { c with pendLines := c.pendLines.addAll lines, pendRows := c.pendRows.addAll rows, pendSregs := c.pendSregs.addAll sregs }

/-- The strip slot of tile `u` of an access's frame (R180, R181). -/
def stripOf (c : Core) (w : Word256) (a u : Nat) : Bytes :=
  let x := c.access w a
  if x.far then
    match c.stagedNow a with
    | some g => SMap.get (List.replicate 64 0#8) g.strips u
    | none => List.replicate 64 0#8
  else c.mem.readBytes ((stripArea c x + 64 * u) % 2 ^ 20) 64

/-- The scale code of element column `col` in stored row `row` of a frame (R40, R41, R176). -/
def scaleIn (c : Core) (w : Word256) (a var row col : Nat) : Nat :=
  let strip := stripOf c w a (col / 32)
  if var = 1 then (strip.getD row 0).toNat else if var = 2 then (strip.getD (2 * row + col % 32 / 16) 0).toNat else 0

/-- The strips an access needs, read once: tile number and strip bytes. -/
def stripsOf (c : Core) (w : Word256) (a : Nat) (tiles : List Nat) : SMap Bytes := tiles.map fun u => (u, stripOf c w a u)

/-- The scale code of an element column, from strips read once. -/
def scaleFrom (strips : SMap Bytes) (var row col : Nat) : Nat :=
  let strip := SMap.get [] strips (col / 32)
  if var = 1 then (strip.getD row 0).toNat else if var = 2 then (strip.getD (2 * row + col % 32 / 16) 0).toNat else 0

/-- How many of some values are NaN or infinite (R138). -/
def countNonfinite (xs : List XReal) : Nat := (xs.filter (·.nonfinite)).length

/-! ### The weight wash -/

/-- The cell, as 128 × row + column, that access `h` fills with slot `s` (R124). -/
def cellKey (shape h s : Nat) : Nat :=
  match shape with
  | 1 => 128 * (h % 16) + (32 * (h / 16) + s)
  | 2 => 128 * (h + 32 * (s / 16)) + s % 16
  | 3 => 128 * (h % 8) + (32 * (h / 8) + s)
  | _ => 128 * h + s

/-- The element numbers of a line or slot column that go to slot `s` (R123, R125). -/
def slotElems (shape cap s : Nat) : List Nat :=
  if shape = 4 then upFrom (4 * s) 4 ++ upFrom (128 + 4 * s) 4 else upFrom (cap * s) cap

/-- The cell of slot `s` of a wash access (R121, R123): codes and the scale code of each element's stored block (R41). -/
def washCell (kind : BlockKind) (f : Fmt) (x : Access) (codes : List Nat) (strips : SMap Bytes) (s : Nat) : Cell :=
  let cap := capacity f
  let es := slotElems kind.shape cap s
  let scale := fun e =>
    if kind.transposed then scaleFrom strips kind.svar s (cap * x.column + (e - cap * s))
    else scaleFrom strips kind.svar (x.cur / 64 % 32) e
  ⟨es.map fun e => codes.getD e 0, es.map scale⟩

/-- When a weight row reaches its cell row and when the row takes it (R141): not before the last token of the last pass that
read the register has passed, and not before a held row of its block ahead of it. R141 gives the beat t_L + ρ + B + 1 for shapes 0
and 4; the model takes it for every shape, with the grid width of the pass that ended, and orders rows behind held rows alone (DESIGN CHOICE,
notes/assumptions/65.md). -/
def rowDue (c : Core) (parity row : Nat) : Nat × Nat :=
  let reach := c.beat + 1 + row
  let free := match (if parity = 0 then c.array.last0 else c.array.last1) with
    | some (t, b) => t + row + b + 1
    | none => 0
  let ahead := c.array.rows.foldl (fun n r => if r.parity = parity && r.reach < r.due then max n r.due else n) 0
  (reach, max reach (max free (if ahead ≤ c.beat then 0 else ahead)))

/-- The weight rows of one access: its cells grouped by cell row. -/
def weightRows (c : Core) (parity shape h : Nat) (cells : List Cell) : List WeightRow :=
  let keyed := (enumFrom' 0 cells).map fun p => (cellKey shape h p.1, p.2)
  let rowNums := (keyed.map (·.1 / 128)).foldl NatSet.add []
  rowNums.map fun r =>
    let (reach, due) := rowDue c parity r
    ⟨parity, reach, due, keyed.filter fun p => p.1 / 128 = r⟩

/-- A wash word's access (R123, R124, R138, R139, R141). -/
def issueWash (c0 : Core) (w : Word256) (c : Core) : Core :=
  let a := arrayField w
  match fmtVar a.sfmt a.svar with
  | none => c
  | some (f, v) =>
    let kind : BlockKind := ⟨a.shape, a.sfmt, a.svar, a.aop = 4⟩
    let x := c0.access w a.srcAg
    let h := match c0.array.loading with | some l => l.accesses | none => 0
    let n := if a.shape = 4 then 256 else 32 * capacity f
    let codes := unpackElems f.width n (lineIn c0 w a.srcAg)
    let strips := stripsOf c0 w a.srcAg (stripTiles a.svar (washColumns a.aop f x))
    let cells := (List.range 32).map (washCell kind f x codes strips)
    let values := cells.flatMap fun q => (q.codes.zip q.scales).map fun p => elemValue f v p.1 p.2
    let q := c0.array.nextReg
    let rows := weightRows c0 q a.shape h cells
    let done := h + 1 = 32
    let arr := { c.array with
      rows := c.array.rows ++ rows
      loading := if done then none else some ⟨kind, h + 1⟩
      blocks := if done then c.array.blocks + 1 else c.array.blocks
      nextReg := if done then 1 - q else q
      kind0 := if done && q = 0 then kind else c.array.kind0
      kind1 := if done && q = 1 then kind else c.array.kind1 }
    ({ c with array := arr }).addEvents a.count a.slot { Events.zero with nonfinite := countNonfinite values }

/-- A weight row written into its register (R141). -/
def ArrayState.takeRow (x : ArrayState) (r : WeightRow) : ArrayState :=
  let put := fun m => r.cells.foldl (fun m p => SMap.put m p.1 p.2) m
  if r.parity = 0 then { x with reg0 := put x.reg0 } else { x with reg1 := put x.reg1 }

/-- Every weight row due by beat `t` written, in order. -/
def landRows (t : Nat) (x : ArrayState) : ArrayState :=
  let due := x.rows.filter fun r => r.due ≤ t
  due.foldl ArrayState.takeRow { x with rows := x.rows.filter fun r => !decide (r.due ≤ t) }

/-- The register a pass's tokens meet (R142): the rows still on their way belong to the same block, and a token waits for
them at their cells. -/
def ArrayState.weights (x : ArrayState) : SMap Cell :=
  let y := (x.rows.filter fun r => r.parity = x.parity).foldl ArrayState.takeRow x
  if x.parity = 0 then y.reg0 else y.reg1

/-! ### Tokens -/

/-- The elements of a token (R128, R129), each with the scale of its own stored block. A transposed access supplies 32 elements; where
the block is of shape 4, whose tokens take elements i and 32 + i, those above 31 are zero (DESIGN CHOICE, notes/assumptions/66.md). -/
def tokenElems (c : Core) (w : Word256) (kind : BlockKind) (row : Nat) (s t : Fmt) (v : Variant) : List XReal :=
  let a := arrayField w
  let x := c.access w a.srcAg
  let (e, n, _) := tokenPlan kind.shape kind.transposed s t
  let line := lineIn c w a.srcAg
  let strips := stripsOf c w a.srcAg (stripTiles a.tvar (tokenColumns kind row s t x))
  if x.span = 64 then
    let take := (grid kind.shape).1 / n * e
    (enumFrom' 0 (unpackElems t.width take line)).map fun p => elemValue t v p.2 (scaleFrom strips a.tvar (x.cur / 64 % 32) p.1)
  else
    let ct := 16 / t.width
    let sub := row % ct
    (List.range ((grid kind.shape).1 / n * e)).map fun i =>
      if i < 32 then elemValue t v (leAt line (2 * i) 2 / 2 ^ (t.width * sub) % 2 ^ t.width) (scaleFrom strips a.tvar i (ct * x.column + sub))
      else .fin false 0 0

/-- A partial sum as it passes a cell (R51, R122): a floating-point sum is rounded once, an integer sum saturates. -/
structure Partial where
  bits : Nat
  sats : Nat
  deriving DecidableEq, Repr, Inhabited

/-- An INT32 sum saturated, with its saturation counted (R51, R134). -/
def addSat32 (p : Partial) (x : Int) : Partial :=
  let y := signedOf 32 p.bits + x
  let z := clampInt (-(2 ^ 31 : Int)) (2 ^ 31 - 1) y
  ⟨unsignedOf 32 z, if z = y then p.sats else p.sats + 1⟩

/-- An exact value rounded to an integer, ties to even (R51). -/
def roundInt (x : XReal) : Int :=
  let k : Int := (Mag.roundAt .near x.mag 0 : Nat)
  if x.neg? then -k else k

/-- A cell's products for one output column added to the incoming partial sum (R51, R122). -/
def cellStep (int : Bool) (pairs : List (XReal × XReal)) (p : Partial) : Partial :=
  match pairs.map fun q => let m := q.1.mul q.2; if int && m.nonfinite then .fin false 0 0 else m with
  | [] => p
  | m :: ms =>
    let term := ms.foldl XReal.add m
    if int then addSat32 p (roundInt term) else { p with bits := rn ((f32 p.bits).add term) }

/-- What a token meets on its way through the array: grid, pair class, phase, the cell rows its split feeds, the block. -/
structure TokenRun where
  kind : BlockKind
  s : Fmt
  sv : Variant
  r : Nat
  phase : Nat
  lo : Nat
  hi : Nat
  int : Bool

/-- The element pairs that cell (i, j) multiplies for the output of register position `u` (R122, R128). -/
def TokenRun.pairs (k : TokenRun) (elems : List XReal) (cell : Cell) (i u : Nat) : List (XReal × XReal) :=
  let weight := fun p => elemValue k.s k.sv (cell.codes.getD p 0) (cell.scales.getD p 0)
  let elem := fun n => elems.getD n (.fin false 0 0)
  if k.kind.shape = 4 then [(elem i, weight u), (elem (32 + i), weight (4 + u))]
  else if k.kind.transposed then (List.range k.r).map fun t => (elem ((i - k.lo) * k.r + t), weight (k.phase * k.r + t))
  else [(elem (i - k.lo), weight u)]

/-- A column's sum, cell row by cell row from the first the split feeds (R134). -/
def TokenRun.column (k : TokenRun) (weights : SMap Cell) (elems : List XReal) (j u : Nat) : Partial :=
  (upFrom k.lo (k.hi - k.lo)).foldl (fun p i =>
    match SMap.find? weights (128 * i + j) with
    | some cell => cellStep k.int (k.pairs elems cell i u) p
    | none => p) ⟨0, 0⟩

/-- The values a token produces (R132, R134): (value number, cell column, register position). -/
def TokenRun.values (k : TokenRun) : List (Nat × Nat × Nat) :=
  let b := (grid k.kind.shape).2
  (List.range b).flatMap fun j =>
    if k.kind.shape = 4 then (List.range 4).map fun u => (4 * j + u, j, u)
    else if k.kind.transposed then [(j, j, 0)]
    else (upFrom (k.phase * k.r) k.r).map fun u => (capacity k.s * j + u, j, u)

/-- Whether a pair accumulates in INT32 (R52). -/
def integerPair (s t : Fmt) : Bool :=
  (s = .int8 || s = .int4 || s = .ternary) && (t = .int8 || t = .int4 || t = .ternary)

/-- The landings of a token's values (R133, R97): one for each accumulator line, no earlier than a landing already due on the
same line; the token's own events go with its last line (R138). -/
def tokenLandings (c : Core) (a : ArrayField) (base : Nat) (k : TokenRun) (o rows : Nat) (vals : List (Nat × Nat)) (ev : Events) : List Landing :=
  let lines := (vals.map (·.1 / 16)).foldl NatSet.add []
  let last := listMax lines
  lines.map fun n =>
    let own := vals.filter fun p => p.1 / 16 = n
    let jmax := listMax (own.map (·.1 / o))
    let line := base / 64 + n
    let earlier := c.flight.foldl (fun m l => match l.effect with | .acc q _ _ _ _ _ => if q = line then max m l.due else m | _ => m) 0
    ⟨max earlier (c.beat + rows + 3 + jmax),
     .acc line (a.aop = 2) k.int (own.map fun p => (p.1 % 16, p.2)) (if a.count then some a.slot else none) (if n = last then ev else Events.zero)⟩

/-- A token word (R127 to R134, R138 to R140). A token of another pair than the row's earlier ones that are no longer in the array keeps
the row's position k and takes n, P and r of its own pair (DESIGN CHOICE, notes/assumptions/103.md). -/
def issueToken (c0 : Core) (w : Word256) (c : Core) : Core :=
  let a := arrayField w
  match fmtVar a.sfmt a.svar, fmtVar a.tfmt a.tvar with
  | some (s, sv), some (t, tv) =>
    let st := c0.array
    let kind := st.kind
    let (_, n, p) := tokenPlan kind.shape kind.transposed s t
    let (rows, cols) := grid kind.shape
    let q := st.token % n
    let k : TokenRun := ⟨kind, s, sv, pairClass s t, st.token / n, q * rows / n, (q + 1) * rows / n, integerPair s t⟩
    let elems := tokenElems c0 w kind st.row s t tv
    let weights := st.weights
    let sums := k.values.map fun x => (x.1, k.column weights elems x.2.1 x.2.2)
    let ev : Events := { Events.zero with sat := (sums.map fun x => x.2.sats).sum, nonfinite := countNonfinite elems }
    let base := (c0.access w a.accAg).cur / 64 * 64
    let o := outputs kind.shape kind.transposed s
    let ls := tokenLandings c0 a base k o rows (sums.map fun x => (x.1, x.2.bits)) ev
    let marked := (c.fly ls).mark (ls.filterMap fun l => match l.effect with | .acc q _ _ _ _ _ => some q | _ => none) [] []
    let rowDone := st.token + 1 = p * n
    let clear := c0.beat + rows + cols + 2
    let beyond := if a.passLast then some (c0.beat, cols) else none
    let arr := { marked.array with
      token := if a.passLast || rowDone then 0 else st.token + 1
      row := if a.passLast then 0 else if rowDone then st.row + 1 else st.row
      parity := if a.passLast then 1 - st.parity else st.parity
      blocks := if a.passLast then st.blocks - 1 else st.blocks
      occupied := some ⟨a.shape, a.tfmt, a.tvar, kind.transposed, max clear (match st.occupied with | some x => x.clear | none => 0)⟩
      last0 := if st.parity = 0 && a.passLast then beyond else st.last0
      last1 := if st.parity = 1 && a.passLast then beyond else st.last1 }
    { marked with array := arr }
  | _, _ => c

/-- An accumulator value after a token's value lands (R134), with a saturation counted. -/
def accumulate (init int : Bool) (old new : Nat) : Partial :=
  if init then ⟨new, 0⟩
  else if int then addSat32 ⟨old, 0⟩ (signedOf 32 new)
  else ⟨add32 old new, 0⟩

/-- A token's values for one line written into the accumulator buffer (R134, R138). -/
def landAcc (c : Core) (line : Nat) (init int : Bool) (vals : List (Nat × Nat)) (slot : Option Nat) (ev : Events) : Core :=
  let res := vals.map fun p =>
    let a := 64 * line + 4 * p.1
    (a, accumulate init int (ofLe (c.mem.readBytes a 4)) p.2)
  let mem := res.foldl (fun m p => m.writeBytes p.1 (leBytes 4 p.2.bits)) c.mem
  let sats := (res.map fun p => p.2.sats).sum
  let c' := { c with mem := mem, pendLines := c.pendLines.drop line }
  match slot with
  | some k => c'.addEvents true k (ev.add { Events.zero with sat := sats })
  | none => c'

/-! ### Readout -/

/-- The merged lines of a write of `data` through an access, from its first slot on (R78, R91): slots not written keep their
bytes. For a far access, each line is (address, 64 bytes). -/
def farLines (env : Env) (x : Access) (data : Bytes) : List (Nat × Bytes) :=
  let slots := (List.range (data.length / 2)).map fun s => (x.slot s, slotOf data s)
  let lines := (slots.map (·.1 / 64)).foldl NatSet.add []
  lines.flatMap fun n =>
    let mine := slots.filter fun p => p.1 / 64 = n
    if mine.length < 32 && (env.read (64 * n)).fault ≠ 0 then mine
    else
      let m := mine.foldl (fun (m : Memory) p => m.writeBytes p.1 p.2) (Memory.writeBytes [] (64 * n) (env.read (64 * n)).bytes)
      [(64 * n, m.readBytes (64 * n) 64)]

/-- A staged line after the core's own far write of a 64 B line (R104). -/
def Staged.replace (g : Staged) (addr : Nat) (line : Bytes) : Staged :=
  let g1 :=
    if g.span = 64 then (if g.addr = addr then { g with line := line, faults := [] } else g)
    else if g.addr ≤ addr && addr < g.addr + 2048 then
      let i := (addr - g.addr) / 64
      { g with line := slice g.line 0 (2 * i) ++ slotOf line ((i + g.slot) % 32) ++ slice g.line (2 * i + 2) (62 - 2 * i)
               faults := g.faults.filter fun p => p.1 ≠ addr }
    else g
  if g1.stripped && g1.stripAddr ≤ addr && addr < g1.stripAddr + 512 then { g1 with strips := SMap.put g1.strips ((addr - g1.stripAddr) / 64) line }
  else g1

/-- Far writes of a core: they leave at once (R104, R184) and replace its own staged copies. A piece shorter than a line, met
on a line that cannot be verified, leaves as it is (R198, R405). -/
def Issued.farStore (i : Issued) (ls : List (Nat × Bytes)) : Issued :=
  ⟨{ i.core with staged := i.core.staged.map fun g => (ls.filter fun p => p.2.length = 64).foldl (fun g p => g.replace p.1 p.2) g },
   i.outs ++ ls.map fun p => .farWrite p.1 p.2⟩

/-- A write of `data` through generator `a` that lands at beat `due` (R78, R91, R94): a local write goes in flight with its
lines' pending-write bits set, a far one leaves at once. -/
def Issued.lineOut (env : Env) (c0 : Core) (w : Word256) (a due : Nat) (data : Bytes) (i : Issued) : Issued :=
  let x := c0.access w a
  if x.far then i.farStore (farLines env x data)
  else
    let ws := (List.range (data.length / 2)).map fun s => (x.slot s, slotOf data s)
    let lines := (ws.map (·.1 / 64)).foldl NatSet.add []
    { i with core := (i.core.fly [⟨due, .locals ws⟩]).mark lines [] [] }

/-- A readout word (R78, R94, R181). -/
def issueReadout (env : Env) (c0 : Core) (w : Word256) (i : Issued) : Issued :=
  let a := arrayField w
  match fmtVar a.roFmt a.roVar with
  | none => i
  | some (t, v) =>
    let r := readoutRow env c0 w
    let due := c0.beat + (if v = .none then 3 else 4)
    let i1 := Issued.lineOut env c0 w a.roDst due (packElems t.width r.codes) { i with core := i.core.addEvents a.count a.slot r.ev }
    match readoutCodes env c0 w with
    | none => i1
    | some codes =>
      let (strip, off) := readoutStrip c0 w
      if (c0.access w a.roDst).far then
        let line := env.read strip
        i1.farStore [(strip, slice line.bytes 0 off ++ codes ++ slice line.bytes (off + codes.length) (64 - off - codes.length))]
      else { i1 with core := (i1.core.fly [⟨due, .locals [(strip + off, codes)]⟩]).mark [strip / 64] [] [] }

end Sys2Proof.Machine
end

