-- ==== Sys2Proof/Machine/Special.lean ====
section
/-!
DEFINITION. The special functions of class S (R161): each returns the exact value of the function rounded once to FP32.
The value is computed in fixed point far beyond the distance at which any FP32 input could lie from a rounding
boundary, and exact cases are taken apart first; DEDUCED that this precision always decides the rounding.
-/
namespace Sys2Proof

/-- Fraction bits of the fixed-point values below. -/
def fixBits : Nat := 512

/-- The fixed-point product. -/
def fixMul (a b : Int) : Int := a * b / ((2 ^ fixBits : Nat) : Int)

/-- A finite value in fixed point, with places below the last cut off. -/
def fixOf (n : Nat) (e : Int) : Int :=
  let k := e + fixBits
  if 0 ≤ k then ((n * 2 ^ k.toNat : Nat) : Int) else ((n / 2 ^ (-k).toNat : Nat) : Int)

/-- arctan(1/k) in fixed point: the alternating series, `fuel` terms at most. -/
def atanInv (k : Nat) : Nat → Nat → Int → Int → Int
  | 0, _, _, acc => acc
  | fuel + 1, i, p, acc =>
    let t := p / ((2 * i + 1 : Nat) : Int)
    atanInv k fuel (i + 1) (p / ((k * k : Nat) : Int)) (if i % 2 = 0 then acc + t else acc - t)

/-- Pi in fixed point (Machin). -/
def fixPi : Int :=
  let one : Int := ((2 ^ fixBits : Nat) : Int)
  16 * atanInv 5 240 0 (one / 5) 0 - 4 * atanInv 239 80 0 (one / 239) 0

/-- 2 * artanh(z) for 0 ≤ z in fixed point: the series, `fuel` terms at most. -/
def artanh2 (zz : Int) : Nat → Nat → Int → Int → Int
  | 0, _, _, acc => 2 * acc
  | fuel + 1, i, p, acc => artanh2 zz fuel (i + 1) (fixMul p zz) (acc + p / ((2 * i + 1 : Nat) : Int))

/-- ln 2 in fixed point: 2 artanh(1/3). -/
def fixLn2 : Int :=
  let z : Int := ((2 ^ fixBits : Nat) : Int) / 3
  artanh2 (fixMul z z) 180 0 z 0

/-- e^r for a fixed-point r of magnitude below 1: the series, `fuel` terms at most. -/
def expSeries (r : Int) : Nat → Nat → Int → Int → Int
  | 0, _, _, acc => acc
  | fuel + 1, i, t, acc => expSeries r fuel (i + 1) (fixMul t r / ((i + 1 : Nat) : Int)) (acc + t)

/-- sin and cos series: terms t from index i on, signs alternating. -/
def trigSeries (zz : Int) : Nat → Nat → Int → Int → Int
  | 0, _, _, acc => acc
  | fuel + 1, i, t, acc => trigSeries zz fuel (i + 2) (-(fixMul t zz) / (((i + 1) * (i + 2) : Nat) : Int)) (acc + t)

/-- Round a fixed-point value times 2^k to FP32, to nearest even. -/
def roundFix (v : Int) (k : Int) : Nat := Fmt.packMag .fp32 .near (decide (v < 0)) ⟨v.natAbs, 1, k - fixBits⟩

/-- EXP (R161). -/
def exp32 (a : Nat) : Nat :=
  match f32 a with
  | .nan => Fmt.nanCode .fp32
  | .inf s => if s then 0 else Fmt.infCode .fp32
  | .fin s n e =>
    if n = 0 then 0x3F800000
    else if Mag.le ⟨256, 1, 0⟩ ⟨n, 1, e⟩ then (if s then 0 else Fmt.infCode .fp32)
    else
      let x := if s then -(fixOf n e) else fixOf n e
      let k := x / fixLn2
      roundFix (expSeries (x - k * fixLn2) 120 0 ((2 ^ fixBits : Nat) : Int) 0) k

/-- LOG (R161). -/
def log32 (a : Nat) : Nat :=
  match f32 a with
  | .nan => Fmt.nanCode .fp32
  | .inf s => if s then Fmt.nanCode .fp32 else Fmt.infCode .fp32
  | .fin s n e =>
    if n = 0 then Fmt.signBit .fp32 true + Fmt.infCode .fp32
    else if s then Fmt.nanCode .fp32
    else
      let k := Mag.log2 ⟨n, 1, e⟩
      let one : Int := ((2 ^ fixBits : Nat) : Int)
      let m := fixOf n (e - k)
      let z := (m - one) * one / (m + one)
      let v := k * fixLn2 + artanh2 (fixMul z z) 180 0 z 0
      if a = 0x3F800000 then 0 else roundFix v 0

/-- RSQRT (R161). -/
def rsqrt32 (a : Nat) : Nat :=
  match f32 a with
  | .nan => Fmt.nanCode .fp32
  | .inf s => if s then Fmt.nanCode .fp32 else 0
  | .fin s n e =>
    if n = 0 then Fmt.signBit .fp32 s + Fmt.infCode .fp32
    else if s then Fmt.nanCode .fp32
    else Fmt.packMag .fp32 .near false (Mag.sqrt ⟨1, n, -e⟩)

/-- RCP (R161). -/
def rcp32 (a : Nat) : Nat :=
  match f32 a with
  | .nan => Fmt.nanCode .fp32
  | .inf s => Fmt.signBit .fp32 s
  | .fin s n e =>
    if n = 0 then Fmt.signBit .fp32 s + Fmt.infCode .fp32 else Fmt.packMag .fp32 .near s ⟨1, n, -e⟩

/-- sin of a fixed-point quadrant count and remainder; `q` 1 takes the cosine. -/
def sinQuad (q : Int) (r : Int) : Int :=
  let one : Int := ((2 ^ fixBits : Nat) : Int)
  let zz := fixMul r r
  let v := if q % 2 = 0 then trigSeries zz 60 1 r 0 else trigSeries zz 60 0 one 0
  if q % 4 < 2 then v else -v

/-- Sine of a finite value plus `q` quarter turns (R161): the argument is reduced exactly for every finite input. -/
def trig32 (s : Bool) (n : Nat) (e : Int) (q : Int) : Nat :=
  let x := if s then -(fixOf n e) else fixOf n e
  let half := fixPi / 2
  let k := (2 * x + half) / (2 * half)
  roundFix (sinQuad (k + q) (x - k * half)) 0

/-- SIN (R161). -/
def sin32 (a : Nat) : Nat :=
  match f32 a with
  | .fin s n e => if n = 0 then a else trig32 s n e 0
  | _ => Fmt.nanCode .fp32

/-- COS (R161). -/
def cos32 (a : Nat) : Nat :=
  match f32 a with
  | .fin s n e => if n = 0 then 0x3F800000 else trig32 s n e 1
  | _ => Fmt.nanCode .fp32

end Sys2Proof
end

