-- ==== Sys2Proof/Machine/VectorEngine.lean ====
section
/-!
DEFINITION. The vector engine (R148 to R162, R53, R69): the arithmetic of every vector opcode, one definition each, and what a
vector operation does at issue and lands.
-/
namespace Sys2Proof.Machine

/-- A result element: its bits, and whether it saturated (R156). -/
structure ElemOut where
  bits : Nat
  sat : Bool
  deriving DecidableEq, Repr, Inhabited

/-- An exact integer result saturated to INT32 (R156). -/
def satInt (x : Int) : ElemOut :=
  let z := clampInt (-(2 ^ 31 : Int)) (2 ^ 31 - 1) x
  ⟨unsignedOf 32 z, z ≠ x⟩

/-- A result that never saturates. -/
def plain (n : Nat) : ElemOut := ⟨n, false⟩

/-- A 32-bit pattern read as INT32. -/
def int32 (x : Nat) : Int := signedOf 32 x

/-- The operands of one element: format, rounding, A, B and the prior contents of td as bit patterns (R149, R155). -/
structure Operand where
  fmt : Fmt
  rnd : Rnd
  a : Nat
  b : Nat
  d : Nat

/-- A, B and D decoded. -/
def Operand.x (o : Operand) : XReal := decode o.fmt o.a
def Operand.y (o : Operand) : XReal := decode o.fmt o.b
def Operand.z (o : Operand) : XReal := decode o.fmt o.d

/-- A floating-point result rounded once (R53, R156), or an integer result saturated. -/
def Operand.result (o : Operand) (f : XReal) (i : Int) : ElemOut :=
  if o.fmt = .int32 then satInt i else plain (o.fmt.pack o.rnd f)

/-- A Boolean result: INT32 1 or 0. -/
def truth (b : Bool) : ElemOut := plain (bit b)

/-- ADD (R156). -/
def elemAdd (o : Operand) : ElemOut := o.result (o.x.add o.y) (int32 o.a + int32 o.b)
/-- SUB (R156). -/
def elemSub (o : Operand) : ElemOut := o.result (o.x.add o.y.negate) (int32 o.a - int32 o.b)
/-- MUL (R156). -/
def elemMul (o : Operand) : ElemOut := o.result (o.x.mul o.y) (int32 o.a * int32 o.b)
/-- FMA (R156): one rounding. -/
def elemFma (o : Operand) : ElemOut := o.result ((o.x.mul o.y).add o.z) (int32 o.a * int32 o.b + int32 o.d)
/-- FNMA (R156): D − A × B, one rounding. -/
def elemFnma (o : Operand) : ElemOut := o.result (o.z.add (o.x.mul o.y).negate) (int32 o.d - int32 o.a * int32 o.b)
/-- MIN (R156). -/
def elemMin (o : Operand) : ElemOut := o.result (o.x.min o.y) (min (int32 o.a) (int32 o.b))
/-- MAX (R156). -/
def elemMax (o : Operand) : ElemOut := o.result (o.x.max o.y) (max (int32 o.a) (int32 o.b))
/-- ABS (R156). -/
def elemAbs (o : Operand) : ElemOut := o.result o.x.abs (int32 o.a).natAbs
/-- NEG (R156). -/
def elemNeg (o : Operand) : ElemOut := o.result o.x.negate (-int32 o.a)
/-- MOV (R155): a NaN leaves canonical (R33). -/
def elemMov (o : Operand) : ElemOut := o.result o.x (int32 o.a)
/-- CEQ (R156). -/
def elemCeq (o : Operand) : ElemOut := truth (if o.fmt = .int32 then decide (int32 o.a = int32 o.b) else o.x.eqv o.y)
/-- CLT (R156). -/
def elemClt (o : Operand) : ElemOut := truth (if o.fmt = .int32 then decide (int32 o.a < int32 o.b) else o.x.lt o.y)
/-- CLE (R156). -/
def elemCle (o : Operand) : ElemOut := truth (if o.fmt = .int32 then decide (int32 o.a ≤ int32 o.b) else o.x.lt o.y || o.x.eqv o.y)
/-- SEL (R155): a 32-bit pattern. -/
def elemSel (o : Operand) : ElemOut := plain (if o.d ≠ 0 then o.a else o.b)
/-- AND (R155). -/
def elemAnd (o : Operand) : ElemOut := plain (o.a &&& o.b)
/-- OR (R155). -/
def elemOr (o : Operand) : ElemOut := plain (o.a ||| o.b)
/-- XOR (R155). -/
def elemXor (o : Operand) : ElemOut := plain (o.a ^^^ o.b)
/-- SHL (R156): the pattern shifted by B mod 32. -/
def elemShl (o : Operand) : ElemOut := plain (o.a * 2 ^ (o.b % 32) % 2 ^ 32)
/-- SHR (R156): logical. -/
def elemShr (o : Operand) : ElemOut := plain (o.a / 2 ^ (o.b % 32))
/-- ASR (R156): arithmetic. -/
def elemAsr (o : Operand) : ElemOut := plain (unsignedOf 32 (int32 o.a / ((2 ^ (o.b % 32) : Nat) : Int)))
/-- LDEXP (R155): A × 2^B. B is held within ±400, beyond which an FP32 result overflows or underflows alike. -/
def elemLdexp (o : Operand) : ElemOut := plain (o.fmt.pack o.rnd (o.x.scale (clampInt (-400) 400 (int32 o.b))))
/-- SGN (R156). -/
def elemSgn (o : Operand) : ElemOut :=
  plain (o.fmt.pack .near (match o.x with
    | .nan => .nan
    | .inf n => .fin n 1 0
    | .fin n k _ => if k = 0 then .fin n 0 0 else .fin n 1 0))
/-- PADD (R155): as ADD, in the packed 16-bit form. -/
def elemPadd (o : Operand) : ElemOut := elemAdd o
/-- PSUB (R155). -/
def elemPsub (o : Operand) : ElemOut := elemSub o
/-- PMUL (R155). -/
def elemPmul (o : Operand) : ElemOut := elemMul o
/-- PFMA (R155). -/
def elemPfma (o : Operand) : ElemOut := elemFma o
/-- PMIN (R155). -/
def elemPmin (o : Operand) : ElemOut := elemMin o
/-- PMAX (R155). -/
def elemPmax (o : Operand) : ElemOut := elemMax o

/-- The element function of a class E opcode (R155). -/
def elemOp (vop : Nat) : Operand → ElemOut :=
  match vop with
  | 0x10 => elemAdd | 0x11 => elemSub | 0x12 => elemMul | 0x13 => elemFma | 0x14 => elemFnma
  | 0x15 => elemMin | 0x16 => elemMax | 0x17 => elemAbs | 0x18 => elemNeg | 0x19 => elemMov
  | 0x1A => elemCeq | 0x1B => elemClt | 0x1C => elemCle | 0x1D => elemSel
  | 0x1E => elemAnd | 0x1F => elemOr | 0x20 => elemXor
  | 0x21 => elemShl | 0x22 => elemShr | 0x23 => elemAsr | 0x24 => elemLdexp | 0x25 => elemSgn
  | 0x28 => elemPadd | 0x29 => elemPsub | 0x2A => elemPmul | 0x2B => elemPfma | 0x2C => elemPmin
  | _ => elemPmax

/-! ### Tile operands -/

/-- The 4,096 bytes of a tile register. -/
def Core.tile (c : Core) (t : Nat) : Bytes := c.tiles.readBytes (4096 * t) 4096

/-- A tile's elements of `w` bits (R150), in row-major order. -/
def tileElems (w : Nat) (bs : Bytes) : List Nat := unpackElems w (32768 / w) bs

/-- Row `r` of a tile's bytes. -/
def tileRow (bs : Bytes) (r : Nat) : Bytes := slice bs (128 * r) 128

/-- An operand's elements (R152, R153): a scalar broadcast, or a tile with its row broadcast. -/
def operandElems (c : Core) (v : VectorField) (w source tile mode : Nat) : List Nat :=
  if source = 2 then List.replicate (32768 / w) ((c.sreg v.sreg).toNat % 2 ^ w)
  else
    let es := tileElems w (c.tile tile)
    let per := 1024 / w
    if mode = 1 then (List.range 32).flatMap fun _ => es.take per
    else if mode = 2 then (List.range 32).flatMap fun i => List.replicate per (es.getD i 0)
    else es

/-- A run of a vector operation's result: a row of td, the byte offset in it and the bytes. -/
structure RowOut where
  row : Nat
  off : Nat
  bytes : Bytes
  deriving DecidableEq, Repr, Inhabited

/-- A tile operation's result: its rows and the events it counts. -/
structure TileOut where
  rows : List RowOut
  ev : Events
  deriving DecidableEq, Repr, Inhabited

/-- Elements of `w` bits laid out as the 32 rows of a tile. -/
def rowsOf (w : Nat) (es : List Nat) : List RowOut :=
  let per := 1024 / w
  (enumFrom' 0 (chunksOf per 32 es)).map fun p => ⟨p.1, 0, packElems w p.2⟩

/-- A class E operation (R153, R155, R156). -/
def elementwise (env : Env) (c : Core) (v : VectorField) : TileOut :=
  let w := if vpacked v.vop then 16 else 32
  let f := if 0x1D ≤ v.vop && v.vop ≤ 0x20 then Fmt.int32 else (match Fmt.ofCode v.fmt with | some f => f | none => .fp32)
  let as := operandElems c v w v.ma v.ta (v.aux / 4)
  let bs := if vusesB v.vop then operandElems c v w v.mb v.tb (v.aux % 4) else as
  let ds := if vusesD v.vop then tileElems w (c.tile v.td) else as
  let dr := c.draw env v.st v.share
  let res := (enumFrom' 0 (as.zip (bs.zip ds))).map fun p => elemOp v.vop ⟨f, rndOf v.rnd dr p.1, p.2.1, p.2.2.1, p.2.2.2⟩
  ⟨rowsOf w (res.map (·.bits)), { Events.zero with sat := (res.filter (·.sat)).length }⟩

/-! ### Reductions (R157) -/

/-- A reduction over a row or column: as values, and as integers. -/
structure Folding where
  float : List XReal → XReal
  int : List Int → Int

/-- A fold that starts from a list's first value. -/
def foldFirst {α : Type} (f : α → α → α) (d : α) : List α → α
  | [] => d
  | x :: xs => xs.foldl f x

/-- RSUM: the exact sum of a row. -/
def reduceRsum : Folding := ⟨foldFirst XReal.add (.fin false 0 0), foldFirst (· + ·) 0⟩
/-- RMAX: the largest of a row. -/
def reduceRmax : Folding := ⟨foldFirst XReal.max (.fin false 0 0), foldFirst max 0⟩
/-- RMIN: the smallest of a row. -/
def reduceRmin : Folding := ⟨foldFirst XReal.min (.fin false 0 0), foldFirst min 0⟩
/-- RAMAX: the largest magnitude of a row. -/
def reduceRamax : Folding := ⟨fun xs => foldFirst XReal.max (.fin false 0 0) (xs.map XReal.abs), fun xs => foldFirst max 0 (xs.map fun x => (x.natAbs : Int))⟩
/-- RSSQ: the sum of squares of a row. -/
def reduceRssq : Folding := ⟨fun xs => foldFirst XReal.add (.fin false 0 0) (xs.map fun x => x.mul x), foldFirst (· + ·) 0⟩
/-- CSUM: the exact sum of a column. -/
def reduceCsum : Folding := reduceRsum
/-- CMAX: the largest of a column. -/
def reduceCmax : Folding := reduceRmax
/-- CMIN: the smallest of a column. -/
def reduceCmin : Folding := reduceRmin
/-- CAMAX: the largest magnitude of a column. -/
def reduceCamax : Folding := reduceRamax
/-- CSSQ: the sum of squares of a column. -/
def reduceCssq : Folding := reduceRssq

/-- The reduction of a class R or K opcode (R155). -/
def reductionOp (vop : Nat) : Folding :=
  match vop with
  | 0x38 => reduceRsum | 0x39 => reduceRmax | 0x3A => reduceRmin | 0x3B => reduceRamax | 0x3C => reduceRssq
  | 0x40 => reduceCsum | 0x41 => reduceCmax | 0x42 => reduceCmin | 0x43 => reduceCamax | _ => reduceCssq

/-- One reduced element (R157): rounded once to FP32, or saturated to INT32. -/
def Folding.run (r : Folding) (int : Bool) (xs : List Nat) : ElemOut :=
  if int then satInt (r.int (xs.map int32)) else plain (rn (r.float (xs.map f32)))

/-- The transpose of a 32 × 32 list of elements. -/
def transpose32 (es : List Nat) : List Nat :=
  let rows := chunksOf 32 32 es
  (List.range 32).flatMap fun j => rows.map fun r => r.getD j 0

/-- A class R or K operation (R157): row 0 only. -/
def reduceTile (c : Core) (v : VectorField) (column : Bool) : TileOut :=
  let es := operandElems c v 32 v.ma v.ta 0
  let runs := chunksOf 32 32 (if column then transpose32 es else es)
  let res := runs.map ((reductionOp v.vop).run (v.fmt = 0xB))
  ⟨[⟨0, 0, packElems 32 (res.map (·.bits))⟩], { Events.zero with sat := (res.filter (·.sat)).length }⟩

/-! ### Conversions (R159) -/

/-- The scale bytes of a tile row (R150). -/
def rowScales (v : Variant) (row : Bytes) : List Nat :=
  match v with
  | .none => []
  | .b32 => [leAt row 64 1]
  | .b16 => [leAt row 64 1, leAt row 65 1]

/-- A row's 32 source values (R150, R159): the 32-bit form, or the coded form with its scales. -/
def convSource (s : Fmt) (sv : Variant) (row : Bytes) : List XReal :=
  if s.width = 32 then (unpackElems 32 32 row).map (decode s)
  else decodeRun s sv (rowScales sv row) (unpackElems s.width 32 row)

/-- A converted row as td holds it (R150): unused bytes of the coded form are zero. -/
def codedRow (t : Fmt) (r : Converted) : Bytes :=
  if t.width = 32 then packElems 32 r.codes
  else padTo 128 (padTo 64 (packElems t.width r.codes) ++ r.scales.map (BitVec.ofNat 8))

/-- The conversion of row `i` of operand A (R159). -/
def convRow (env : Env) (c : Core) (v : VectorField) (s : Fmt) (sv : Variant) (t : Fmt) (tv : Variant) (a tb : Bytes) (i : Nat) : Converted :=
  let rule := match Rule.ofCode v.rule with | some r => r | none => .floor
  let given := if v.rule = 2 then rowScales tv (tileRow tb i) else []
  convertRun t tv rule given v.rnd (c.draw env v.st v.share) (32 * i) (convSource s sv (tileRow a i))

/-- CVT, CVT32 and CVT16 from a source variant (R159), and the scales alone for SCL. -/
def convertTile (env : Env) (c : Core) (v : VectorField) (scl : Bool) : TileOut :=
  match fmtVar v.aux (convVariant v.vop), fmtVar v.fmt v.var with
  | some (s, sv), some (t, tv) =>
    let a := if v.ma = 2 then packElems 32 (operandElems c v 32 2 0 0) else c.tile v.ta
    let tb := c.tile v.tb
    let rs := (List.range 32).map fun i => (i, convRow env c v s sv t tv a tb i)
    if scl then ⟨rs.map fun p => ⟨p.1, 64, padTo 2 (p.2.scales.map (BitVec.ofNat 8))⟩, Events.zero⟩
    else ⟨rs.map fun p => ⟨p.1, 0, codedRow t p.2⟩, rs.foldl (fun e p => e.add p.2.ev) Events.zero⟩
  | _, _ => ⟨[], Events.zero⟩

/-- CVT (R159): a source of variant none. -/
def convertCvt (env : Env) (c : Core) (v : VectorField) : TileOut := convertTile env c v false
/-- CVT32 (R159): a B32E8-scaled source. -/
def convertCvt32 (env : Env) (c : Core) (v : VectorField) : TileOut := convertTile env c v false
/-- CVT16 (R159): a B16F8-scaled source. -/
def convertCvt16 (env : Env) (c : Core) (v : VectorField) : TileOut := convertTile env c v false
/-- SCL (R159): the scales CVT would choose; it counts nothing. -/
def convertScl (env : Env) (c : Core) (v : VectorField) : TileOut := convertTile env c v true

/-! ### Special functions (R161) -/

/-- EXP. -/
def specialExp (a : Nat) : Nat := exp32 a
/-- LOG. -/
def specialLog (a : Nat) : Nat := log32 a
/-- RSQRT. -/
def specialRsqrt (a : Nat) : Nat := rsqrt32 a
/-- SIN. -/
def specialSin (a : Nat) : Nat := sin32 a
/-- COS. -/
def specialCos (a : Nat) : Nat := cos32 a
/-- RCP. -/
def specialRcp (a : Nat) : Nat := rcp32 a

/-- The function of a class S opcode (R155). -/
def specialOp (vop : Nat) : Nat → Nat :=
  match vop with
  | 0x50 => specialExp | 0x51 => specialLog | 0x52 => specialRsqrt | 0x53 => specialSin | 0x54 => specialCos | _ => specialRcp

/-- A class S operation. -/
def specialTile (c : Core) (v : VectorField) : TileOut :=
  ⟨rowsOf 32 ((operandElems c v 32 v.ma v.ta 0).map (specialOp v.vop)), Events.zero⟩

/-! ### The Hadamard network (R69, R162) -/

/-- One butterfly stage (R69): each element whose index has bit `s` clear becomes a + b, its partner a − b. -/
def hadamardStage (s : Nat) (xs : List Nat) : List Nat :=
  (enumFrom' 0 xs).map fun p =>
    if p.1.testBit s then add32 (xs.getD (p.1 - 2 ^ s) 0) (neg32 p.2) else add32 p.2 (xs.getD (p.1 + 2 ^ s) 0)

/-- The stages of a run of length 2^m and the normalisation (R69). -/
def hadamardRun (m : Nat) (xs : List Nat) : List Nat :=
  let ys := (List.range m).foldl (fun ys s => hadamardStage s ys) xs
  let zs := ys.map fun y => rn ((f32 y).scale (-((m / 2 : Nat) : Int)))
  if m % 2 = 1 then zs.map fun z => mul32 z 0x3F3504F3 else zs

/-- The sign diagonal (R69): element i negated where bit [63] of its random value is 1. -/
def signDiagonal (d : Draw) (xs : List Nat) : List Nat :=
  (enumFrom' 0 xs).map fun p => if (d.at p.1).testBit 63 then neg32 p.2 else p.2

/-- The FP32 inputs of a transform (R162): FP32 in the 32-bit form, BF16 or FP16 in the coded form. -/
def hadamardInput (c : Core) (v : VectorField) : List Nat :=
  match Fmt.ofCode v.fmt with
  | some .bf16 => (List.range 32).flatMap fun i => (unpackElems 16 32 (tileRow (c.tile v.ta) i)).map fun x => rn (decode .bf16 x)
  | some .fp16 => (List.range 32).flatMap fun i => (unpackElems 16 32 (tileRow (c.tile v.ta) i)).map fun x => rn (decode .fp16 x)
  | _ => operandElems c v 32 v.ma v.ta 0

/-- Every run of 2^m elements transformed. -/
def hadamardRuns (m : Nat) (xs : List Nat) : List Nat := (chunksOf (2 ^ m) (1024 / 2 ^ m) xs).flatMap (hadamardRun m)

/-- HAD (R162): no sign diagonal. -/
def hadamardPlain (_ : Env) (c : Core) (v : VectorField) : TileOut :=
  ⟨rowsOf 32 (hadamardRuns v.aux (hadamardInput c v)), Events.zero⟩
/-- HADF (R162): the sign diagonal first. -/
def hadamardFirst (env : Env) (c : Core) (v : VectorField) : TileOut :=
  ⟨rowsOf 32 (hadamardRuns v.aux (signDiagonal (c.draw env v.st v.share) (hadamardInput c v))), Events.zero⟩
/-- HADL (R162): the sign diagonal last. -/
def hadamardLast (env : Env) (c : Core) (v : VectorField) : TileOut :=
  ⟨rowsOf 32 (signDiagonal (c.draw env v.st v.share) (hadamardRuns v.aux (hadamardInput c v))), Events.zero⟩

/-- TRN (R155): td := Aᵀ in the 32-bit form. -/
def transposeTile (c : Core) (v : VectorField) : TileOut := ⟨rowsOf 32 (transpose32 (operandElems c v 32 v.ma v.ta 0)), Events.zero⟩

/-- A tile operation's result (R155). -/
def tileOp (env : Env) (c : Core) (v : VectorField) (cl : VClass) : TileOut :=
  match cl with
  | .line => ⟨[], Events.zero⟩
  | .e => elementwise env c v
  | .c => match v.vop with
    | 0x30 => convertCvt env c v | 0x31 => convertCvt32 env c v | 0x32 => convertCvt16 env c v | _ => convertScl env c v
  | .r => reduceTile c v false
  | .k => reduceTile c v true
  | .x => transposeTile c v
  | .s => specialTile c v
  | .h => match v.vop with
    | 0x58 => hadamardPlain env c v | 0x59 => hadamardFirst env c v | _ => hadamardLast env c v

/-- A class's latency L, without the row group (R94). -/
def classLatency (cl : VClass) (aux : Nat) : Nat :=
  match cl with
  | .line => 2 | .e => 3 | .c => 5 | .r => 6 | .k => 7 | .x => 7 | .s => 11 | .h => 6 + aux

/-- Whether a class lands by row groups (R94, R148). -/
def classGrouped (cl : VClass) : Bool := cl = .e || cl = .c || cl = .s

/-- A class's acceptance interval (R95, R155). -/
def classInterval (cl : VClass) (aux : Nat) : Nat := if cl = .h then 4 + aux else 4

/-- The landings of a result into tile register `td` (R94, R148): one for each row group that holds rows of it. -/
def rowLandings (td due : Nat) (grouped : Bool) (rs : List RowOut) : List Landing :=
  (List.range 4).filterMap fun g =>
    let own := rs.filter fun r => r.row / 8 = g
    if own.isEmpty then none
    else some ⟨due + (if grouped then g else 0), .rows (own.map fun r => 32 * td + r.row) (own.map fun r => (4096 * td + 128 * r.row + r.off, r.bytes))⟩

/-- The rows of a result go in flight, their pending-write bits set (R149). -/
def Core.flyRows (c : Core) (td due : Nat) (grouped : Bool) (rs : List RowOut) : Core :=
  (c.fly (rowLandings td due grouped rs)).mark [] (rs.map fun r => 32 * td + r.row) []

/-- LD (R154): one line into half a row. -/
def lineLd (c0 : Core) (w : Word256) (i : Issued) : Issued :=
  let v := vectorField w
  let row := match c0.lineRow v with | some r => r | none => v.row
  { i with core := i.core.flyRows v.td (c0.beat + 2) false [⟨row, 64 * v.half, lineIn c0 w v.agA⟩] }

/-- ST (R154): half a row to one line. -/
def lineSt (env : Env) (c0 : Core) (w : Word256) (i : Issued) : Issued :=
  let v := vectorField w
  let row := match c0.lineRow v with | some r => r | none => v.row
  i.lineOut env c0 w v.agD (c0.beat + 2) (c0.tiles.readBytes (4096 * v.ta + 128 * row + 64 * v.half) 64)

/-- LDB (R154): one line into half of all 32 rows. -/
def lineLdb (c0 : Core) (w : Word256) (i : Issued) : Issued :=
  let v := vectorField w
  let line := lineIn c0 w v.agA
  { i with core := i.core.flyRows v.td (c0.beat + 2) false ((List.range 32).map fun r => ⟨r, 64 * v.half, line⟩) }

/-- LDS (R160): a scale strip into the scale bytes of every row. -/
def lineLds (c0 : Core) (w : Word256) (i : Issued) : Issued :=
  let v := vectorField w
  let line := lineIn c0 w v.agA
  let n := if v.var = 1 then 1 else 2
  { i with core := i.core.flyRows v.td (c0.beat + 2) false ((List.range 32).map fun r => ⟨r, 64, slice line (n * r) n⟩) }

/-- STS (R160): the scale bytes of every row into a strip; under B32E8 bytes 32 to 63 are zero. -/
def lineSts (env : Env) (c0 : Core) (w : Word256) (i : Issued) : Issued :=
  let v := vectorField w
  let n := if v.var = 1 then 1 else 2
  let strip := (List.range 32).flatMap fun r => c0.tiles.readBytes (4096 * v.ta + 128 * r + 64) n
  i.lineOut env c0 w v.agD (c0.beat + 2) (padTo 64 strip)

/-- TREQ (R166): the request line leaves for the quadrant's table unit; nothing lands. -/
def lineTreq (c0 : Core) (w : Word256) (i : Issued) : Issued :=
  { i with outs := i.outs ++ [.table (lineIn c0 w (vectorField w).agA)] }

/-- A vector operation at issue (R148, R149, R94, R95). -/
def issueVector (env : Env) (c0 : Core) (w : Word256) (i : Issued) : Issued :=
  let v := vectorField w
  match vclass v.vop with
  | none => i
  | some .line =>
    match v.vop with
    | 0x01 => lineLd c0 w i
    | 0x02 => lineSt env c0 w i
    | 0x03 => lineLdb c0 w i
    | 0x04 => lineLds c0 w i
    | 0x05 => lineSts env c0 w i
    | _ => lineTreq c0 w i
  | some cl =>
    let r := tileOp env c0 v cl
    let c1 := (i.core.addEvents v.count v.slot r.ev).flyRows v.td (c0.beat + classLatency cl v.aux) (classGrouped cl) r.rows
    { i with core := { c1 with vectorFree := c0.beat + classInterval cl v.aux } }

end Sys2Proof.Machine
end

