-- ==== Sys2Proof/Machine/ScalarLane.lean ====
section
/-!
DEFINITION. The scalar lane (R163 to R165): the result of every scalar opcode, one definition each, and what a scalar
operation does at issue and lands.
-/
namespace Sys2Proof.Machine

/-- The operands of a scalar operation: s[sa], b (R163), s[sb] and s[sd] as they stand at issue. -/
structure ScalarIn where
  a : Word64
  b : Word64
  sb : Word64
  d : Word64

/-- ADD, modulo 2^64. -/
def scalarAdd (o : ScalarIn) : Word64 := o.a + o.b
/-- SUB, modulo 2^64. -/
def scalarSub (o : ScalarIn) : Word64 := o.a - o.b
/-- AND. -/
def scalarAnd (o : ScalarIn) : Word64 := o.a &&& o.b
/-- OR. -/
def scalarOr (o : ScalarIn) : Word64 := o.a ||| o.b
/-- XOR. -/
def scalarXor (o : ScalarIn) : Word64 := o.a ^^^ o.b
/-- SHL by b mod 64. -/
def scalarShl (o : ScalarIn) : Word64 := o.a <<< (o.b.toNat % 64)
/-- SHR by b mod 64, logical. -/
def scalarShr (o : ScalarIn) : Word64 := o.a >>> (o.b.toNat % 64)
/-- ASR by b mod 64. -/
def scalarAsr (o : ScalarIn) : Word64 := o.a.sshiftRight (o.b.toNat % 64)
/-- A truth value in a register. -/
def word01 (b : Bool) : Word64 := if b then 1 else 0
/-- CEQ. -/
def scalarCeq (o : ScalarIn) : Word64 := word01 (o.a == o.b)
/-- CLTU. -/
def scalarCltu (o : ScalarIn) : Word64 := word01 (o.a.ult o.b)
/-- CLTS. -/
def scalarClts (o : ScalarIn) : Word64 := word01 (o.a.slt o.b)
/-- MIN, signed. -/
def scalarMin (o : ScalarIn) : Word64 := if o.b.slt o.a then o.b else o.a
/-- MAX, signed. -/
def scalarMax (o : ScalarIn) : Word64 := if o.a.slt o.b then o.b else o.a
/-- SEL: sa where s[sd] is non-zero, else b. -/
def scalarSel (o : ScalarIn) : Word64 := if o.d = 0 then o.b else o.a
/-- MOV. -/
def scalarMov (o : ScalarIn) : Word64 := o.b
/-- MUL: bits [63:0]. -/
def scalarMul (o : ScalarIn) : Word64 := o.a * o.b
/-- MULHU: bits [127:64] of the unsigned product. -/
def scalarMulhu (o : ScalarIn) : Word64 := BitVec.ofNat 64 (o.a.toNat * o.b.toNat / 2 ^ 64)
/-- MULHS: bits [127:64] of the signed product. -/
def scalarMulhs (o : ScalarIn) : Word64 := BitVec.ofInt 64 (o.a.toInt * o.b.toInt / 2 ^ 64)
/-- FADD (R164). -/
def scalarFadd (o : ScalarIn) : Word64 := BitVec.ofNat 64 (rn64 ((f64 o.a.toNat).add (f64 o.sb.toNat)))
/-- FSUB. -/
def scalarFsub (o : ScalarIn) : Word64 := BitVec.ofNat 64 (rn64 ((f64 o.a.toNat).add (f64 o.sb.toNat).negate))
/-- FMUL. -/
def scalarFmul (o : ScalarIn) : Word64 := BitVec.ofNat 64 (rn64 ((f64 o.a.toNat).mul (f64 o.sb.toNat)))
/-- FMA: one rounding. -/
def scalarFma (o : ScalarIn) : Word64 := BitVec.ofNat 64 (rn64 (((f64 o.a.toNat).mul (f64 o.sb.toNat)).add (f64 o.d.toNat)))
/-- FMIN, with NaN and zeros as R156 treats them. -/
def scalarFmin (o : ScalarIn) : Word64 := BitVec.ofNat 64 (rn64 ((f64 o.a.toNat).min (f64 o.sb.toNat)))
/-- FMAX. -/
def scalarFmax (o : ScalarIn) : Word64 := BitVec.ofNat 64 (rn64 ((f64 o.a.toNat).max (f64 o.sb.toNat)))
/-- FCLT. -/
def scalarFclt (o : ScalarIn) : Word64 := word01 ((f64 o.a.toNat).lt (f64 o.sb.toNat))
/-- F64TO32. -/
def scalarF64to32 (o : ScalarIn) : Word64 := BitVec.ofNat 64 (rn (f64 o.a.toNat))
/-- F32TO64. -/
def scalarF32to64 (o : ScalarIn) : Word64 := BitVec.ofNat 64 (rn64 (f32 (field o.a 0 32)))

/-- A scalar operation that writes s[sd]: its result and its latency (R94, R163); none for NOP, LD, ST and MVG. -/
def scalarOp (sop : Nat) : Option ((ScalarIn → Word64) × Nat) :=
  match sop with
  | 0x01 => some (scalarAdd, 1) | 0x02 => some (scalarSub, 1) | 0x03 => some (scalarAnd, 1) | 0x04 => some (scalarOr, 1)
  | 0x05 => some (scalarXor, 1) | 0x06 => some (scalarShl, 1) | 0x07 => some (scalarShr, 1) | 0x08 => some (scalarAsr, 1)
  | 0x09 => some (scalarCeq, 1) | 0x0A => some (scalarCltu, 1) | 0x0B => some (scalarClts, 1) | 0x0C => some (scalarMin, 1)
  | 0x0D => some (scalarMax, 1) | 0x0E => some (scalarSel, 1) | 0x0F => some (scalarMov, 1)
  | 0x11 => some (scalarMul, 3) | 0x12 => some (scalarMulhu, 3) | 0x13 => some (scalarMulhs, 3)
  | 0x20 => some (scalarFadd, 4) | 0x21 => some (scalarFsub, 4) | 0x22 => some (scalarFmul, 4) | 0x23 => some (scalarFma, 4)
  | 0x24 => some (scalarFmin, 4) | 0x25 => some (scalarFmax, 4) | 0x26 => some (scalarFclt, 4)
  | 0x27 => some (scalarF64to32, 4) | 0x28 => some (scalarF32to64, 4)
  | _ => none

/-- A scalar register's value goes in flight (R94, R98). -/
def Core.flySreg (c : Core) (due k : Nat) (v : Word64) : Core := (c.fly [⟨due, .sreg k v⟩]).mark [] [] [k]

/-- LD (R164): 8 B of scratch into s[sd], 3 beats later. -/
def scalarLd (c0 : Core) (f : ScalarField) (c : Core) : Core :=
  c.flySreg (c0.beat + 3) f.sd (BitVec.ofNat 64 (ofLe (c0.mem.readBytes (c0.scalarAddr f) 8)))

/-- ST (R164): s[sd] into scratch, 2 beats later. -/
def scalarSt (c0 : Core) (f : ScalarField) (c : Core) : Core :=
  let a := c0.scalarAddr f
  (c.fly [⟨c0.beat + 2, .locals [(a, leBytes 8 (c0.sreg f.sd).toNat)]⟩]).mark [a / 64] [] []

/-- MVG (R165): b into a generator's field, 2 beats later. -/
def scalarMvg (c0 : Core) (f : ScalarField) (c : Core) : Core :=
  c.fly [⟨c0.beat + 2, .gen (f.sd % 4) (f.sd / 4) (c0.scalarB f)⟩]

/-- A scalar operation at issue. -/
def issueScalar (c0 : Core) (w : Word256) (c : Core) : Core :=
  let f := scalarField w
  match scalarOp f.sop with
  | some (op, l) => c.flySreg (c0.beat + l) f.sd (op ⟨c0.sreg f.sa, c0.scalarB f, c0.sreg f.sb, c0.sreg f.sd⟩)
  | none =>
    match f.sop with
    | 0x18 => scalarLd c0 f c
    | 0x19 => scalarSt c0 f c
    | 0x1C => scalarMvg c0 f c
    | _ => c

/-- A generator after MVG lands in one of its fields (R165). -/
def Gen.moveTo (g : Gen) (fld : Nat) (b : Word64) : Gen :=
  let b48 : BitVec 48 := b.setWidth 48
  match fld with
  | 0 => { g with far := false, base := b48 &&& 0xFFFFF#48, cur := b48 &&& 0xFFFFF#48 }
  | 1 => { g with far := true, base := b48, cur := b48 }
  | 2 => { g with cur := g.wrap b48 }
  | _ => { g with strides := SMap.set 0 g.strides (fld - 3) (b.setWidth 24) }

end Sys2Proof.Machine
end

