-- ==== Sys2Proof/Machine/LoopUnit.lean ====
section
/-!
DEFINITION. The loop unit, the loop set-up kinds, the messages, the collective bindings and the halt/debug word (R84 to R90,
R98, R105, R108, R111): what each does to its core at issue.
-/
namespace Sys2Proof.Machine

/-- A loop level changed. -/
def Core.setLevel (c : Core) (k : Nat) (l : Level) : Core := { c with levels := SMap.set Level.zero c.levels k l }

/-- A generator changed. -/
def Core.setGen (c : Core) (k : Nat) (g : Gen) : Core := { c with gens := SMap.set Gen.zero c.gens k g }

/-- A taken exit (R88): levels up to exit_lvl are left, and staged lines for later beats are cancelled (R102). -/
def takeExit (w : Word256) (c : Core) : Core :=
  let c' := (List.range ((loopField w).exitLvl + 1)).foldl (fun c k => c.setLevel k { c.level k with active := false }) c
  { c' with staged := c'.staged.filter fun g => g.beat ≤ c.beat }

/-- The closed levels below the one that repeats, or every closed level where none repeats, come to their end (R88). -/
def endLevels (w : Word256) (below : Nat) (c : Core) : Core :=
  (List.range below).foldl (fun c k => if closes w k then c.setLevel k { c.level k with active := false, remaining := 0 } else c) c

/-- A level repeats (R88): one iteration fewer remains and its increments move every generator. -/
def repeatLevel (k : Nat) (c : Core) : Core :=
  let l := c.level k
  let c' := c.setLevel k { l with remaining := l.remaining - 1 }
  (List.range 4).foldl (fun c a => c.setGen a ((c.gen a).move (SMap.get 0 l.incs a))) c'

/-- The loop unit after a word's issue (R88): the next address, the levels and the generators' increments. -/
def applyLoop (w : Word256) (c : Core) : Core :=
  let next := nextPc c w
  let c' :=
    if exitTaken c w then takeExit w c
    else match repeats c w 6 0 with
      | some k => repeatLevel k (endLevels w k c)
      | none => endLevels w 6 c
  { c' with pc := next }

/-- The generators that step after their access (R90). -/
def stepGens (w : Word256) (c : Core) : Core :=
  (List.range 4).foldl (fun c a =>
    let sel := wordSelect w a
    let g := c.gen a
    if (sel.mode = 1 || sel.mode = 2) && sel.step then c.setGen a (g.move (g.stride sel.stride)) else c) c

/-- SET_LEVEL (R84, R88). -/
def setupLevel (w : Word256) (c : Core) : Core :=
  c.setLevel (field w 12 3)
    ⟨true, field w 16 20, field w 16 20, field w 36 11, field w 47 11,
     (List.range 4).foldl (fun m a => SMap.set 0 m a (w.extractLsb' (64 + 24 * a) 24)) []⟩

/-- SET_BASE (R84): the current address is set to the base. -/
def setupBase (w : Word256) (c : Core) : Core :=
  let a := field w 12 2
  let g := { c.gen a with far := flag w 14 }
  let b := g.wrap (w.extractLsb' 16 48)
  c.setGen a { g with base := b, cur := b }

/-- SET_STRIDES (R84). -/
def setupStrides (w : Word256) (c : Core) : Core :=
  let a := field w 12 2
  c.setGen a { c.gen a with strides := (List.range 4).foldl (fun m k => SMap.set 0 m k (w.extractLsb' (16 + 24 * k) 24)) [] }

/-- SET_STREAM (R84). -/
def setupStream (w : Word256) (c : Core) : Core := { c with streams := SMap.set 0 c.streams (field w 12 2) (w.extractLsb' 16 24) }

/-- LOAD_IMM (R84). -/
def setupImm (w : Word256) (c : Core) : Core := { c with sregs := SMap.set 0 c.sregs (field w 12 5) (w.extractLsb' 20 64) }

/-- A loop set-up word's effect, seen by the next word issued (R84). -/
def applySetup (w : Word256) (c : Core) : Core :=
  match field w 8 4 with
  | 0 => setupLevel w c
  | 1 => setupBase w c
  | 2 => setupStrides w c
  | 3 => setupStream w c
  | _ => setupImm w c

/-! ### Messages -/

/-- SEND (R105): one line leaves for the core and epoch its route register names. -/
def messageSend (self : Nat) (w : Word256) (c : Core) : Issued :=
  let chan := field w 11 4
  let r := c.sreg (field w 15 5)
  let n := SMap.get ⟨0, 0⟩ c.sends chan
  ⟨{ c with sends := SMap.set ⟨0, 0⟩ c.sends chan { n with outstanding := n.outstanding + 1 } },
   [.send ⟨self, routeDest r, chan, r.extractLsb' 16 16, lineIn c w (field w 20 2)⟩]⟩

/-- A message written into the next line of a window, whose pending-write bit it clears (R98, R105). -/
def Core.fillWindow (c : Core) (chan : Nat) (v : Window) (m : Msg) : Core :=
  let n := v.line + v.senders.length
  { c with mem := c.mem.writeBytes (64 * n) (padTo 64 m.data), pendLines := c.pendLines.drop n,
           windows := SMap.put c.windows chan { v with senders := v.senders ++ [m.sender] } }

/-- POST (R98): a window of n lines opens, their pending-write bits set; a message in the holding register enters it (R105). A
generator in mode 2 names the window by the first line of its frame (DESIGN CHOICE, notes/assumptions/61.md). -/
def messagePost (w : Word256) (c : Core) : Core :=
  let chan := field w 11 4
  let n := field w 22 7
  let line := (c.access w (field w 20 2)).addr / 64
  let v : Window := ⟨line, n, []⟩
  let c1 := { c with windows := SMap.put c.windows chan v }.mark (upFrom line n) [] []
  match SMap.find? c.holding chan with
  | some m => { c1 with holding := SMap.del c1.holding chan }.fillWindow chan v m
  | none => c1

/-- A status register written by a wait (R108). R94 gives no landing beat: it lands one beat after issue, as a scalar result does
(DESIGN CHOICE, notes/assumptions/58.md). -/
def Core.status (c : Core) (w : Word256) (v : Nat) : Core := (c.fly [⟨c.beat + 1, .sreg (field w 15 5) (BitVec.ofNat 64 v)⟩]).mark [] [] [field w 15 5]

/-- WAIT_RECV (R108): the sender of the last of the n messages. -/
def messageWaitRecv (w : Word256) (c : Core) : Core :=
  match SMap.find? c.windows (field w 11 4) with
  | some v => c.status w (v.senders.getD (field w 22 7 - 1) 0)
  | none => c

/-- WAIT_SEND (R108): how many sends of the channel failed since the last WAIT_SEND on it. -/
def messageWaitSend (w : Word256) (c : Core) : Core :=
  let chan := field w 11 4
  let n := SMap.get ⟨0, 0⟩ c.sends chan
  { c with sends := SMap.set ⟨0, 0⟩ c.sends chan { n with failed := 0 } }.status w n.failed

/-- A message-and-sync word at issue. -/
def issueMessage (self : Nat) (w : Word256) (c : Core) : Issued :=
  match field w 8 3 with
  | 0 => messageSend self w c
  | 1 => ⟨messagePost w c, []⟩
  | 2 => ⟨messageWaitRecv w c, []⟩
  | _ => ⟨messageWaitSend w c, []⟩

/-! ### Collective bindings -/

/-- COLLECTIVE_BIND (R86, R111). -/
def bindSlot (w : Word256) (c : Core) : Core := { c with binds := SMap.put c.binds (field w 8 4) ⟨field w 12 14, flag w 27, c.beat⟩ }

/-- UNBIND (R86). -/
def unbindSlot (w : Word256) (c : Core) : Core := { c with binds := SMap.del c.binds (field w 8 4) }

/-- A collective-bind word at issue. -/
def issueBind (w : Word256) (c : Core) : Core := if flag w 26 then unbindSlot w c else bindSlot w c

/-- The landing beat of a compute word's last write (R94, R111), `c` being the core with the word's operations in flight: a wash's last
write is that of its last weight row, held or not (R141). A write of a far line counts as landing when a local one of its form would
(DESIGN CHOICE, notes/assumptions/114.md). -/
def lastWrite (c0 c : Core) (w : Word256) : Nat :=
  let a := arrayField w
  let v := vectorField w
  let f := scalarField w
  let (rows, cols) := grid a.shape
  let tok := if a.aop = 1 || a.aop = 2 then rows + cols + 2 else 0
  let ro := if a.roEn then (if a.roVar = 0 then 3 else 4) else 0
  let vec := match vclass v.vop with
    | none => 0
    | some cl => if v.vop = 0x06 then 0 else classLatency cl v.aux + (if classGrouped cl then 3 else 0)
  let sc := match scalarOp f.sop with
    | some (_, l) => l
    | none => if f.sop = 0x18 then 3 else if f.sop = 0x19 || f.sop = 0x1C then 2 else 0
  let wash := if a.aop = 3 || a.aop = 4 then listMax ((c.array.rows.drop c0.array.rows.length).map (·.due)) else 0
  max wash (c0.beat + listMax [tok, ro, vec, sc])

/-- A collective trigger (R111): the report goes in flight to the landing beat of the word's last write. -/
def issueTrigger (c0 : Core) (w : Word256) (c : Core) : Core :=
  let slot := (loopField w).cslot
  match SMap.find? c0.binds slot with
  | some b => c.fly [⟨lastWrite c0 c w, .report slot b.desc b.keep b.since c0.pc⟩]
  | none => c

end Sys2Proof.Machine
end

