-- ==== Sys2Proof/Machine/CoreBeat.lean ====
section
/-!
DEFINITION. One beat of one core (R73, R87, R94, R97, R98, R116, R117, R237): landing what is due, the packer's row reads, the
halt conditions, the issue of the whole word, END, BREAK and halts.
-/
namespace Sys2Proof.Machine

/-- One effect landing (R94, R98): the write, and its pending-write bits cleared. -/
def land (env : Env) (i : Issued) (due : Nat) : Effect → Issued
  | .sreg k v => { i with core := { i.core with sregs := SMap.set 0 i.core.sregs k v, pendSregs := i.core.pendSregs.drop k } }
  | .locals ws =>
    { i with core := { i.core with mem := ws.foldl (fun m p => m.writeBytes p.1 p.2) i.core.mem, pendLines := i.core.pendLines.dropAll (ws.map (·.1 / 64)) } }
  | .rows rs ws =>
    { i with core := { i.core with tiles := ws.foldl (fun m p => m.writeBytes p.1 p.2) i.core.tiles, pendRows := i.core.pendRows.dropAll rs } }
  | .acc line init int vals slot ev => { i with core := landAcc i.core line init int vals slot ev }
  | .gen g fld b => { i with core := i.core.setGen g ((i.core.gen g).moveTo fld b) }
  | .report slot desc keep since addr =>
    let own := (SMap.find? i.core.binds slot).any fun b => b.since = since
    let c1 := if keep || !own then i.core else { i.core with binds := SMap.del i.core.binds slot }
    let c2 := match env.entry desc with
      | some e => if e.packs then { c1 with packers := c1.packers ++ [⟨due + 1, desc, addr, e.base, e.count, e.first, 0, [], 0, c1.job, c1.step⟩] } else c1
      | none => c1
    ⟨c2, i.outs ++ [.report desc]⟩

/-- The first operation in flight due by beat `t` with the earliest beat; the others keep their order. -/
def takeDue (t : Nat) (fs : List Landing) : Option (Landing × List Landing) :=
  let due := fs.filter fun l => l.due ≤ t
  match due with
  | [] => none
  | l :: ls =>
    let first := ls.foldl (fun m x => if x.due < m.due then x else m) l
    some (first, fs.erase first)

/-- Land everything due by beat `t`, in order of beat and then of issue (R94, R97); `fuel` is the number in flight. -/
def landUpTo (env : Env) (t : Nat) : Nat → Issued → Issued
  | 0, i => i
  | fuel + 1, i =>
    match takeDue t i.core.flight with
    | none => i
    | some (l, rest) => landUpTo env t fuel (land env { i with core := { i.core with flight := rest } } l.due l.effect)

/-- The packer's reads at a beat (R237): one row of each running packer. A pending row is an early read: it gives the reason
code and the trigger word's address. -/
def packRows (t : Nat) (c : Core) : Core × Option Nat :=
  let early := c.packers.find? fun p => p.read < 4 * p.count && p.start + p.read = t && c.pendSpan (accBase + 128 * (p.base + p.read)) 128
  match early with
  | some p => (c, some p.addr)
  | none =>
    ({ c with packers := c.packers.map fun p =>
        if p.read < 4 * p.count && p.start + p.read ≤ t then
          { p with read := p.read + 1, vals := p.vals ++ unpackElems 32 32 (c.mem.readBytes (accBase + 128 * (p.base + p.read)) 128) }
        else p }, none)

/-- The halt record (R117): the beat counter's low 32 bits. -/
def haltRecord (addr reason beat : Nat) : Word64 :=
  BitVec.ofNat 64 (packFields [(0, 11, addr), (16, 8, reason), (32, 32, min beat (2 ^ 48 - 1))])

/-- A core stopped with a record (R87, R116, R117). -/
def Issued.stop (i : Issued) (addr reason beat : Nat) : Issued :=
  ⟨{ i.core with run := .idle, record := haltRecord addr reason beat, staged := [] }, i.outs ++ [.stop reason]⟩

/-- Whether anything is still in flight or a packer has rows to read. -/
def Core.busy (c : Core) : Bool := !c.flight.isEmpty || !c.array.rows.isEmpty || c.packers.any fun p => p.read < 4 * p.count

/-- Beats after a halt (R116): operations issued by earlier words land before the core reports. -/
def drainAll (env : Env) (t : Nat) (i : Issued) : Issued :=
  let last := t + listMax (i.core.flight.map (·.due)) + listMax (i.core.array.rows.map (·.due))
  let i1 := landUpTo env last (i.core.flight.length) i
  { i1 with core := { i1.core with array := landRows last i1.core.array, packers := [] } }

/-- A halt (R116): what earlier words issued lands, then the core stops. -/
def haltCore (env : Env) (addr reason beat : Nat) (i : Issued) : Issued := (drainAll env beat i).stop addr reason beat

/-- Beats without issue (R87, R340) until every operation has landed and every packer row is read; an early packer read halts the
core, which the second part then says (notes/assumptions/63.md). -/
def drain (env : Env) : Nat → Nat → Issued → Issued × Bool
  | 0, _, i => (i, false)
  | fuel + 1, t, i =>
    if i.core.busy then
      let i1 := landUpTo env t i.core.flight.length i
      let c1 := { i1.core with array := landRows t i1.core.array }
      match packRows t c1 with
      | (_, some a) => (haltCore env a 0x10 t { i1 with core := c1 }, true)
      | (c2, none) => drain env fuel (t + 1) { i1 with core := c2 }
    else (i, false)

/-- END's wait (R87). -/
def drainEnd (env : Env) (addr beat fuel t : Nat) (i : Issued) : Issued :=
  match drain env fuel t i with
  | (j, true) => j
  | (j, false) => j.stop addr 0 beat

/-- How many beats a drain can take. -/
def drainFuel (c : Core) : Nat :=
  listMax (c.flight.map (·.due)) + listMax (c.array.rows.map (·.due)) + (c.packers.map fun p => p.start + 4 * p.count).sum + 600 * (c.flight.length + 1)

/-- A compute word's engines at issue (R76, R149): all read the core as it stands, then their writes are marked. -/
def issueCompute (env : Env) (w : Word256) (c0 : Core) : Issued :=
  let a := arrayField w
  let i0 : Issued := ⟨c0, []⟩
  let i1 := if a.roEn then issueReadout env c0 w i0 else i0
  let c2 := if a.aop = 3 || a.aop = 4 then issueWash c0 w i1.core else if a.aop = 1 || a.aop = 2 then issueToken c0 w i1.core else i1.core
  let i3 := issueVector env c0 w { i1 with core := c2 }
  let c4 := issueScalar c0 w i3.core
  { i3 with core := if (loopField w).coll then issueTrigger c0 w c4 else c4 }

/-- A word's operations at issue, by format (R76). -/
def issueFormat (env : Env) (self : Nat) (w : Word256) (c : Core) : Issued :=
  match wordFormat w with
  | 0 => let i := issueCompute env w c; { i with core := stepGens w i.core }
  | 2 => let i := issueMessage self w c; { i with core := stepGens w i.core }
  | 3 => ⟨issueBind w c, []⟩
  | _ => ⟨c, []⟩

/-- The end of a beat (R74, R84, R88): the loop unit, a set-up's effect, the counter; staged lines of this beat are spent. -/
def finishBeat (w : Word256) (c : Core) : Core :=
  let c1 := applyLoop w c
  let c2 := if wordFormat w = 1 then applySetup w c1 else c1
  { c2 with staged := c2.staged.filter fun g => c.beat < g.beat, beat := c.beat + 1 }

/-- Whether a word leaves its core at a tile boundary (R340). -/
def bounds (w : Word256) : Bool := isClose w || wordFormat w = 2 || isHalt 0 w

/-- The issue of the word at pc (R73, R87, R116), all its conditions met. -/
def issueWord (env : Env) (self : Nat) (c : Core) : Issued :=
  let w := c.word c.pc
  if isHalt 0 w then drainEnd env c.pc c.beat (drainFuel c) (c.beat + 1) ⟨{ c with boundary := true }, []⟩
  else
    let i := issueFormat env self w c
    let c1 := { finishBeat w i.core with boundary := bounds w }
    { i with core := if isHalt 1 w && env.debugging then { c1 with run := .broken } else c1 }

/-- What stands at the start of a beat (R94, R237): everything due has landed and the packers have read their rows. -/
def startBeat (env : Env) (c : Core) : Issued × Option Nat :=
  let i := landUpTo env c.beat c.flight.length ⟨c, []⟩
  let c1 := { i.core with array := landRows c.beat i.core.array }
  let (c2, early) := packRows c.beat c1
  ({ i with core := c2 }, early)

/-- Whether a beat can be taken (R73): a program runs, and every far line and external wait the word names is there. A word
that meets a halt condition waits for nothing but its far lines. -/
def beatReady (env : Env) (c : Core) (upset : Bool) : Bool :=
  c.run = .running && linesPresent c && (waitsOver env c || !(reasons env c upset).isEmpty)

/-- One beat of a core: none where the beat lengthens (R73). -/
def beat (env : Env) (self : Nat) (upset : Bool) (c : Core) : Option Issued :=
  let (i, early) := startBeat env c
  match early with
  | some a => if c.run = .running then some (haltCore env a 0x10 c.beat i) else none
  | none =>
    if beatReady env i.core upset then
      match reasons env i.core upset with
      | [] => let j := issueWord env self i.core; some ⟨j.core, i.outs ++ j.outs⟩
      | r :: rs => some (haltCore env i.core.pc (listMin 0 (r :: rs)) c.beat i)
    else none

end Sys2Proof.Machine
end

