-- ==== Sys2Proof/Machine/Sm4.lean ====
section
/-!
DEFINITION. SM4 (GB/T 32907) and GCM (NIST SP 800-38D), which the spec names for every protected path (R271, R390,
R398, R416, R423). PRESUMED: the algorithms are the standards', whose text the spec does not hold.
-/
namespace Sys2Proof

/-- The substitution box of SM4, rows 0 to 7. -/
def sm4BoxLow : List Nat :=
  [0xD6, 0x90, 0xE9, 0xFE, 0xCC, 0xE1, 0x3D, 0xB7, 0x16, 0xB6, 0x14, 0xC2, 0x28, 0xFB, 0x2C, 0x05] ++
  [0x2B, 0x67, 0x9A, 0x76, 0x2A, 0xBE, 0x04, 0xC3, 0xAA, 0x44, 0x13, 0x26, 0x49, 0x86, 0x06, 0x99] ++
  [0x9C, 0x42, 0x50, 0xF4, 0x91, 0xEF, 0x98, 0x7A, 0x33, 0x54, 0x0B, 0x43, 0xED, 0xCF, 0xAC, 0x62] ++
  [0xE4, 0xB3, 0x1C, 0xA9, 0xC9, 0x08, 0xE8, 0x95, 0x80, 0xDF, 0x94, 0xFA, 0x75, 0x8F, 0x3F, 0xA6] ++
  [0x47, 0x07, 0xA7, 0xFC, 0xF3, 0x73, 0x17, 0xBA, 0x83, 0x59, 0x3C, 0x19, 0xE6, 0x85, 0x4F, 0xA8] ++
  [0x68, 0x6B, 0x81, 0xB2, 0x71, 0x64, 0xDA, 0x8B, 0xF8, 0xEB, 0x0F, 0x4B, 0x70, 0x56, 0x9D, 0x35] ++
  [0x1E, 0x24, 0x0E, 0x5E, 0x63, 0x58, 0xD1, 0xA2, 0x25, 0x22, 0x7C, 0x3B, 0x01, 0x21, 0x78, 0x87] ++
  [0xD4, 0x00, 0x46, 0x57, 0x9F, 0xD3, 0x27, 0x52, 0x4C, 0x36, 0x02, 0xE7, 0xA0, 0xC4, 0xC8, 0x9E]

/-- The substitution box of SM4, rows 8 to 15. -/
def sm4BoxHigh : List Nat :=
  [0xEA, 0xBF, 0x8A, 0xD2, 0x40, 0xC7, 0x38, 0xB5, 0xA3, 0xF7, 0xF2, 0xCE, 0xF9, 0x61, 0x15, 0xA1] ++
  [0xE0, 0xAE, 0x5D, 0xA4, 0x9B, 0x34, 0x1A, 0x55, 0xAD, 0x93, 0x32, 0x30, 0xF5, 0x8C, 0xB1, 0xE3] ++
  [0x1D, 0xF6, 0xE2, 0x2E, 0x82, 0x66, 0xCA, 0x60, 0xC0, 0x29, 0x23, 0xAB, 0x0D, 0x53, 0x4E, 0x6F] ++
  [0xD5, 0xDB, 0x37, 0x45, 0xDE, 0xFD, 0x8E, 0x2F, 0x03, 0xFF, 0x6A, 0x72, 0x6D, 0x6C, 0x5B, 0x51] ++
  [0x8D, 0x1B, 0xAF, 0x92, 0xBB, 0xDD, 0xBC, 0x7F, 0x11, 0xD9, 0x5C, 0x41, 0x1F, 0x10, 0x5A, 0xD8] ++
  [0x0A, 0xC1, 0x31, 0x88, 0xA5, 0xCD, 0x7B, 0xBD, 0x2D, 0x74, 0xD0, 0x12, 0xB8, 0xE5, 0xB4, 0xB0] ++
  [0x89, 0x69, 0x97, 0x4A, 0x0C, 0x96, 0x77, 0x7E, 0x65, 0xB9, 0xF1, 0x09, 0xC5, 0x6E, 0xC6, 0x84] ++
  [0x18, 0xF0, 0x7D, 0xEC, 0x3A, 0xDC, 0x4D, 0x20, 0x79, 0xEE, 0x5F, 0x3E, 0xD7, 0xCB, 0x39, 0x48]

/-- The substitution of one byte. -/
def sm4Sub (b : Nat) : Nat := if b < 128 then sm4BoxLow.getD b 0 else sm4BoxHigh.getD (b - 128) 0

/-- The substitution of the four bytes of a word. -/
def sm4Tau (x : BitVec 32) : BitVec 32 :=
  BitVec.ofNat 32 (ofBe ((beBytes 4 x.toNat).map fun b => BitVec.ofNat 8 (sm4Sub b.toNat)))

/-- The linear mix of the data path. -/
def sm4L (x : BitVec 32) : BitVec 32 :=
  x ^^^ x.rotateLeft 2 ^^^ x.rotateLeft 10 ^^^ x.rotateLeft 18 ^^^ x.rotateLeft 24

/-- The linear mix of the key path. -/
def sm4K (x : BitVec 32) : BitVec 32 := x ^^^ x.rotateLeft 13 ^^^ x.rotateLeft 23

/-- The round constant CK of round i: bytes (4i + j) * 7 mod 256. -/
def sm4Ck (i : Nat) : BitVec 32 := BitVec.ofNat 32 (ofBe ((List.range 4).map fun j => BitVec.ofNat 8 ((4 * i + j) * 7)))

/-- Four words of state. -/
structure Sm4State where
  a : BitVec 32
  b : BitVec 32
  c : BitVec 32
  d : BitVec 32
  deriving DecidableEq, Repr

/-- The four big-endian words of 16 bytes. -/
def Sm4State.ofBytes (bs : Bytes) : Sm4State :=
  let w := fun i => BitVec.ofNat 32 (ofBe (slice bs (4 * i) 4))
  ⟨w 0, w 1, w 2, w 3⟩

/-- The round keys, first to last. -/
def sm4Keys (key : Bytes) : List (BitVec 32) :=
  let k := Sm4State.ofBytes key
  let k : Sm4State := ⟨k.a ^^^ 0xA3B1BAC6#32, k.b ^^^ 0x56AA3350#32, k.c ^^^ 0x677D9197#32, k.d ^^^ 0xB27022DC#32⟩
  ((List.range 32).foldl (fun (acc : List (BitVec 32) × Sm4State) i =>
    let s := acc.2
    let r := s.a ^^^ sm4K (sm4Tau (s.b ^^^ s.c ^^^ s.d ^^^ sm4Ck i))
    (r :: acc.1, ⟨s.b, s.c, s.d, r⟩)) ([], k)).1.reverse

/-- SM4 of one 16-byte block under a key schedule. -/
def sm4Block (keys : List (BitVec 32)) (blk : Bytes) : Bytes :=
  let s := keys.foldl (fun (s : Sm4State) rk => ⟨s.b, s.c, s.d, s.a ^^^ sm4L (sm4Tau (s.b ^^^ s.c ^^^ s.d ^^^ rk))⟩) (Sm4State.ofBytes blk)
  [s.d, s.c, s.b, s.a].flatMap fun w => beBytes 4 w.toNat

/-- Multiplication in GF(2^128) with GCM's bit order: the left operand taken bit by bit from its first bit. -/
def gfMul (x y : BitVec 128) : BitVec 128 :=
  ((List.range 128).foldl (fun (acc : BitVec 128 × BitVec 128) i =>
    let z := if x.getLsbD (127 - i) then acc.1 ^^^ acc.2 else acc.1
    let v := if acc.2.getLsbD 0 then (acc.2 >>> 1) ^^^ (0xE1#128 <<< 120) else acc.2 >>> 1
    (z, v)) (0#128, y)).1

/-- A byte string padded to whole 16-byte blocks. -/
def pad16 (bs : Bytes) : Bytes := padTo (roundUp bs.length 16) bs

/-- GHASH under `h`. -/
def ghash (h : BitVec 128) (bs : Bytes) : BitVec 128 :=
  (chunksOf 16 (bs.length / 16 + 1) bs).foldl (fun y b => gfMul (y ^^^ BitVec.ofNat 128 (ofBe (padTo 16 b))) h) 0#128

/-- The counter-mode stream over a text: 12-byte nonce, counter from 2. -/
def gcmCrypt (keys : List (BitVec 32)) (nonce text : Bytes) : Bytes :=
  let n := (text.length + 15) / 16
  let ks := (List.range n).flatMap fun i => sm4Block keys (nonce ++ beBytes 4 (i + 2))
  xorBytes text ks

/-- The 16-byte GCM tag of a ciphertext under additional data. -/
def gcmTag (keys : List (BitVec 32)) (nonce aad ct : Bytes) : Bytes :=
  let h := BitVec.ofNat 128 (ofBe (sm4Block keys (List.replicate 16 0#8)))
  let s := ghash h (pad16 aad ++ pad16 ct ++ beBytes 8 (8 * aad.length) ++ beBytes 8 (8 * ct.length))
  xorBytes (beBytes 16 s.toNat) (sm4Block keys (nonce ++ beBytes 4 1))

/-- A sealed text: ciphertext and 16-byte tag. -/
structure Sealed where
  text : Bytes
  tag : Bytes
  deriving DecidableEq, Repr

/-- Seal a plaintext with SM4-GCM. -/
def gcmSeal (key nonce aad pt : Bytes) : Sealed :=
  let ks := sm4Keys key
  let ct := gcmCrypt ks nonce pt
  ⟨ct, gcmTag ks nonce aad ct⟩

/-- Open a ciphertext: none where the first bytes of the tag differ from those given. -/
def gcmOpen (key nonce aad ct tag : Bytes) : Option Bytes :=
  let ks := sm4Keys key
  if (gcmTag ks nonce aad ct).take tag.length = tag then some (gcmCrypt ks nonce ct) else none

end Sys2Proof
end

