-- ==== Sys2Proof/Config.lean ====
section
/-!
DEFINITION. What one built module fixes (its part, its fused identity) and the free values: constants without a body
for what the spec leaves open or takes from an external standard whose text it does not hold. No proof can see a value
of theirs.
-/
namespace Sys2Proof

/-- The two orderable parts (R1, R2). -/
inductive Part where
  | t96 | t128
  deriving DecidableEq, Repr, Inhabited

/-- The part this module is (R1 to R3, R492). -/
opaque Config.part : Part

/-- The serial number fused at manufacture (R392). -/
opaque Config.serial : BitVec 128

/-- The fused 32-byte memory root key (R392). -/
opaque Config.memoryRootKey : BitVec 256

/-- The private half of the fused link-identity key pair (R392). -/
opaque Config.linkPrivate : BitVec 256
/-- The private half of the fused attestation key pair (R392). -/
opaque Config.attestPrivate : BitVec 256
/-- Ciundil's DER certificate of the attestation key (R392, R429). -/
opaque Config.attestCert : List Byte
/-- The Ciundil root key that the boot ROM holds (R392, R442). -/
opaque Config.rootPublic : BitVec 512
/-- The debug key that a token is checked under (R435, R436). -/
opaque Config.debugPublic : BitVec 512
/-- The fused SM3 digest of the root key (R392, R442). -/
opaque Config.rootDigest : List Byte
/-- The fused SM3 digest of the debug key (R392, R436). -/
opaque Config.debugDigest : List Byte

/-- The n-th draw of the entropy source (R394): a free value. -/
opaque Config.entropy : Nat → BitVec 256

/-- The n-th free value of the model: what the spec leaves undefined and the machine goes on with. -/
opaque Config.freeValue : Nat → BitVec 512

/-- The words of the update routine, Ciundil code whose text the spec does not give, by word address (R210): free values. -/
opaque Config.routineWord : Nat → BitVec 256

/-- What a 64 B far line reads as, by its far address, where it is poisoned or outside every memory object and the spec names
no effect of that for its reader: a free value. -/
opaque Config.unreadable : Nat → BitVec 512

/-- The user identifier that goes into the digest of an SM2 signature (GB/T 32918.2): the spec names none but that of link sessions'
key exchange (R421). -/
opaque Config.sm2Ident : List Byte
/-- Whether a DER certificate chains from the Ciundil root key to the given attestation key and is that of the module with the
given serial number (R421). -/
opaque Config.certificateValid : List Byte → BitVec 512 → BitVec 128 → Bool

/-- The flits a tick that an AZF-2 peer's flow control allows a port at a time (R279): the spec gives no value and no advertisement. -/
opaque Config.azf2Pace : Nat → BitVec 64 → Nat
/-- What a port's scrambler holds when it starts (R263): the spec gives no value. -/
opaque Config.scramblerStart : Nat → BitVec 58

/-- GETPID's six bytes (R482; MIPI I3C): the spec gives no value. -/
opaque Config.i3cPid : BitVec 48
/-- GETBCR's byte (R482). -/
opaque Config.i3cBcr : Byte
/-- GETDCR's byte (R482). -/
opaque Config.i3cDcr : Byte
/-- GETMXDS's two bytes (R482). -/
opaque Config.i3cMxds : BitVec 16
/-- GETSTATUS's two bytes, a function of whether an interrupt is pending (R482). -/
opaque Config.i3cStatus : Bool → BitVec 16

/-- The part code of the provenance record (R429, R492). -/
def Config.partCode : Nat :=
  match Config.part with
  | .t96 => 0x0096
  | .t128 => 0x0128

/-- The stepping B1 (R1, R429). -/
def Config.stepping : Nat := 0xB1

/-- Data regions per port die, by part (R192). -/
def Config.regionsPerDie : Nat :=
  match Config.part with
  | .t96 => 11388
  | .t128 => 15211

end Sys2Proof
end

