-- ==== Sys2Proof/Machine/FlaconState.lean ====
section
/-!
DEFINITION. The state of the flacon, the serving path, the power stages, the sideband and the flash window as plain data
(R335 to R389, R466 to R488).
-/
namespace Sys2Proof.Machine

/-- A panel as the flacon sees it (R351 to R368). Temperatures are signed, in 1/16 °C. -/
structure Panel where
  cls : Nat
  vcode : Nat
  rate : Nat
  tmeas : Int
  tpred : Int
  budget : Nat
  used : Nat
  /-- Energy metered in the present window, and launch tokens withheld until it ends (R354). -/
  metered : Nat
  withheld : Bool
  /-- Windows of the last 1 ms (125 windows) in which tokens were withheld, newest first. -/
  throttles : List Bool
  /-- Since when T_p has been below the upper bound of class 0, 1 or 2 less 3 °C (R358), by class. -/
  coolSince : SMap Word64
  /-- More than 16 of its sensors gave invalid readings at the last window (R357). -/
  blind : Bool
  /-- The panel's fit (R357, R362): T_c in 1/16 °C, R_th in 1/1,000 °C/W, 1 − exp(−1 ms / tau) in 1/65,536. -/
  coolant : Int
  resistance : Nat
  share : Nat
  /-- Loaded windows (R362) and whether it has run a core command. -/
  loaded : Nat
  ran : Bool
  /-- Requested supply (R355, R360): the setting that later windows approach. -/
  target : Nat
  /-- Curb fraction in 1/256, and what the panel drew in the window before at its whole token share, from which it is made (R366). -/
  curb : Nat
  whole : Nat
  /-- In class 3 above 100 °C: one token in four beats (R358). -/
  slowed : Bool
  /-- Corrected SRAM errors of the last second: (when, how many) (R197). -/
  corrected : List (Word64 × Nat)
  /-- The supply monitor's reading at the last window in mV (R365). -/
  supply : Nat
  /-- The beat each of its cores stood at when it was last metered: tokens under a curb are counted from there (R354, R366). -/
  marks : SMap Nat
  /-- The panel record as the last window wrote it (R368). -/
  record : Bytes
  deriving DecidableEq, Repr, Inhabited

/-- An adjacent pair clamped (R365): its two panels, and since when their difference has stayed within 100 mV and 20 °C. -/
structure Clamp where
  low : Nat
  high : Nat
  calm : Option Word64
  deriving DecidableEq, Repr, Inhabited

/-- The flacon's module-wide state (R351, R362, R366, R369). -/
structure Flacon where
  cold : Bool
  inforce : Nat
  energy : Nat
  other : Nat
  curbs : BitVec 64
  stamp : Word64
  curbAt : Word64
  /-- Input voltage of the previous window in 10 mV. -/
  vin : Nat
  /-- Pairs clamped (R365). -/
  clamps : List Clamp
  /-- DMA engines and table units that PWR_CURB_N makes wait at their next start (R366): engine e as e, the gather unit of quadrant q
  as 64 + q, its scatter unit as 128 + q. -/
  waits : NatSet
  /-- The module record as the last window wrote it (R369). -/
  record : Bytes
  deriving DecidableEq, Repr, Inhabited

/-- A GDDR7 channel (R190, R191): refresh at twice the base rate, per-bank refreshes issued, temperature in 1/16 °C,
and when its retries were exhausted in the last second. -/
structure Channel where
  doubled : Bool
  refreshes : Nat
  temp : Int
  exhausted : List Word64
  deriving DecidableEq, Repr, Inhabited

/-- A query held in the module area (R377 to R381): where it came from, the parcel's patron and seq, its header and payload. -/
structure Query where
  atelier : Nat
  cls : Nat
  /-- Host path: the serial of its command. -/
  cmd : Option Nat
  /-- Peer path: the slot named. -/
  slot : Option Nat
  patron : Nat
  seq : Word64
  header : Bytes
  payload : Bytes
  arrival : Word64
  /-- The occurrence it is bound to: period number and slot. -/
  period : Nat
  at_ : Nat
  /-- A join deferred (R381), reported once. -/
  deferred : Bool
  deriving DecidableEq, Repr, Inhabited

/-- A serving pass under way (R375, R380, R388): its occurrence, whether launched and ended, its inbox queries in order. -/
structure Pass where
  job : Nat
  atelier : Nat
  cls : Nat
  period : Nat
  slot : Nat
  deadline : Word64
  snap : Option (Nat × Nat)
  /-- The queries of its inbox records, with each record's sequence-table entry (a single has none). -/
  queries : List (Query × Option Nat)
  /-- The flacon has started it (R359); it has been dropped and its cores are to stop (R384). -/
  started : Bool
  dropped : Bool
  /-- Windows for which it has been passed over, and whether it holds a reservation (R360). -/
  passed : Nat
  reserved : Bool
  deriving DecidableEq, Repr, Inhabited

/-- The serving path (R370 to R389): queries held in arrival order, passes under way, periods with a dropped occurrence as
(atelier, period number), the last period boundary acted on, by atelier, and the period of the last opening of each slot, by
64 × atelier + slot. -/
structure Serving where
  held : List Query
  passes : List Pass
  dropped : List (Nat × Nat)
  periods : SMap Nat
  openings : SMap Nat
  deriving DecidableEq, Repr, Inhabited

/-- A flash operation as its go found it (R487, R488): what FW_CTRL, FW_ADDR and FW_BUF held; later writes of them leave it undisturbed. -/
structure FlashTask where
  op : Nat
  bank : Bool
  page : Nat
  data : Bytes
  deriving DecidableEq, Repr, Inhabited

/-- The sideband target (R482 to R487). -/
structure Sideband where
  /-- Dynamic address, once assigned. -/
  address : Option Nat
  static : Nat
  /-- In-band interrupts enabled by ENEC (R485), and the data bytes raised. -/
  enabled : Bool
  raised : Bytes
  offset : Nat
  /-- FW_CTRL's fields, FW_ADDR's fields, FW_STATUS's fields, FW_BUF by byte. -/
  op : Nat
  bank : Bool
  go : Bool
  pageOffset : BitVec 32
  result : Nat
  check : Nat
  /-- The operation in progress. -/
  task : Option FlashTask
  buffer : Memory
  /-- What the target answered to the common commands, in order. -/
  answers : List Bytes
  deriving DecidableEq, Repr, Inhabited

/-- Whether an operation is in progress (FW_STATUS, R487). -/
def Sideband.running (x : Sideband) : Bool := x.task.isSome

/-- SB_POWER (R486): sensor readings. -/
structure Readings where
  vin : Nat
  iin : Nat
  pin : Nat
  tstage : Int
  tgddr : Int
  thub : Int
  tport : Int
  deriving DecidableEq, Repr, Inhabited

/-- Power, pins and alerts (R466 to R480). -/
structure Power where
  /-- Rails good (order 3 of R475). -/
  rails : Bool
  /-- After a power-loss shutdown the module stays off until the input has been below 5 V for 100 ms (R473). -/
  off : Bool
  /-- RESET_N holds the module in reset (R477). -/
  held : Bool
  /-- PWR_CURB_N recognised (R478). -/
  curb : Bool
  /-- LREF locked (R471). -/
  lref : Bool
  /-- The trip latch (R480), which asserts THERM_TRIP_N. -/
  trip : Bool
  faultN : Bool
  /-- SB_POWER, and when it was last updated (R484). -/
  readings : Readings
  readAt : Word64
  /-- What the security processor's detectors report (R433): an input from outside. -/
  watch : List TamperSource
  deriving DecidableEq, Repr, Inhabited

/-- A panel at power-up (R362, R368): class 1, 0.75 V; its record holds the map's reset values. -/
def Panel.reset : Panel :=
  ⟨1, 20, 0, 0, 0, 0, 0, 0, false, [], [], false, 640, 200, 3196, 0, false, 20, 256, 0, false, [], 750, [], Sys2Proof.record 32 [(4, 2, 1), (8, 5, 20)]⟩
/-- The flacon at power-up (R362, R369): cold start. -/
def Flacon.reset : Flacon := ⟨true, 0, 0, 0, 0, 0, 0, 0, [], [], Sys2Proof.record 32 [(7, 1, 1)]⟩
/-- A channel at power-up (R190). -/
def Channel.reset : Channel := ⟨false, 0, 0, []⟩
/-- The sideband at power-up (R475, R482, R487): static address 0x70; in-band interrupts enabled until a DISEC (PRESUMED,
notes/assumptions/99.md); the window unavailable until the bank selection. -/
def Sideband.reset : Sideband := ⟨none, 0x70, true, [], 0, 0, false, false, 0, 0, 0, none, [], []⟩
/-- No reading taken. -/
def Readings.zero : Readings := ⟨0, 0, 0, 0, 0, 0, 0⟩
/-- Power and pins right after the release of RESET_N: rails good, nothing latched. -/
def Power.reset : Power := ⟨true, false, false, false, false, false, false, Readings.zero, 0, []⟩

end Sys2Proof.Machine
end

