-- ==== Sys2Proof/Machine/HostState.lean ====
section
/-!
DEFINITION. The state of the host ports, the functions, the ateliers' objects and queues, the ground image in force and the
blotter as plain data (R300 to R334, R440 to R464): types State.lean is made of.
-/
namespace Sys2Proof.Machine

/-- What the module has sent to a host (R301, R316, R317, R323): a memory write with its PASID, or an MSI-X message. -/
inductive HostOut where
  | write (port : Nat) (pasid : Option Nat) (addr : Nat) (bytes : Bytes)
  | msix (port fn vector : Nat)
  deriving DecidableEq, Repr, Inhabited

/-- One PCI Express port (R300, R303, R470, R476): whether PERST_N is asserted, whether its link is up, its rate in tenths of GT/s
and its width, whether its configuration space answers in full, whether its REFCLK is present. -/
structure PciePort where
  perst : Bool
  up : Bool
  rate : Nat
  width : Nat
  answered : Bool
  refclk : Bool
  deriving DecidableEq, Repr, Inhabited

/-- A control command as it was started (R307, R310): the fields it acts on while it runs, whatever is written later. -/
structure Control where
  cmd : Nat
  takeover : Bool
  vmin : Nat
  vmax : Nat
  arg0 : Word64
  arg1 : Word64
  arg2 : Word64
  arg3 : Word64
  deriving DecidableEq, Repr, Inhabited

/-- An MSI-X vector's entry (R300, R305; the layout is PCI Express's, PRESUMED, notes/assumptions/85.md). -/
structure MsixVector where
  addr : Word64
  data : BitVec 32
  masked : Bool
  deriving DecidableEq, Repr, Inhabited

/-- A function's advanced-error-reporting registers (R300; PRESUMED, notes/assumptions/85.md): no rule gives what sets them. -/
structure ErrorRegs where
  uncorrectable : BitVec 32
  mask : BitVec 32
  severity : BitVec 32
  correctable : BitVec 32
  correctableMask : BitVec 32
  control : BitVec 32
  header : BitVec 128
  deriving DecidableEq, Repr, Inhabited

/-- The control registers of one function (R306 to R308): CTRL_CMD's fields, CTRL_ARG0 to 3, CTRL_STATUS's fields. -/
structure HostFn where
  cmd : Nat
  takeover : Bool
  vmin : Nat
  vmax : Nat
  go : Bool
  arg0 : Word64
  arg1 : Word64
  arg2 : Word64
  arg3 : Word64
  result : Nat
  version : Nat
  admin : Nat
  attached : Bool
  /-- The command that runs, where one does. -/
  runs : Option Control
  /-- The function's 2,048 MSI-X vectors (R300, R305): its table, and the vectors pending while masked. -/
  vectors : SMap MsixVector
  waiting : NatSet
  errors : ErrorRegs
  deriving DecidableEq, Repr, Inhabited

/-- What a recovery write brings (R444): the host's answer to the read of the image, and whether the flash takes it. -/
structure RecoveryImage where
  image : Option Bytes
  success : Bool
  deriving DecidableEq, Repr, Inhabited

/-- The recovery function's registers of a port (R444): RCV_ADDR, RCV_LEN, go, RCV_STATUS. RCV_ID is computed. A write whose go found
a window operation on bank A under way waits for its end (R488). -/
structure Recovery where
  addr : Word64
  len : Word64
  go : Bool
  status : Nat
  waiting : Option RecoveryImage
  deriving DecidableEq, Repr, Inhabited

/-- A port-table entry of the installation section (R446). -/
structure PeerEntry where
  en : Bool
  v2 : Bool
  dig : Bool
  peer : Nat
  rail : Nat
  switch : Nat
  digest : Bytes
  deriving DecidableEq, Repr, Inhabited

/-- An atelier-table entry of the installation section (R446): regions are (first, count) for each port die. -/
structure AtelierEntry where
  qmask : BitVec 48
  vf0 : Nat
  on0 : Bool
  vf1 : Nat
  on1 : Bool
  tagq : Nat
  ctxq : Nat
  qq : Nat
  mobjq : Nat
  fenceq : Nat
  imgq : Nat
  collq : Nat
  regions : List (Nat × Nat)
  decant : Nat
  slice : Nat
  lnp : Nat
  canvas : Bytes
  deriving DecidableEq, Repr, Inhabited

/-- The installation section in force (R445, R446): the module block with its defaults taken, the peers and the ateliers. -/
structure Installation where
  palette : Nat
  position : Nat
  cap : Nat
  grate : Nat
  w0 : Nat
  w1 : Nat
  w2 : Nat
  rtcap : Nat
  i3caddr : Nat
  ibi : Bool
  shares : List Nat
  peers : List PeerEntry
  ateliers : List AtelierEntry
  deriving DecidableEq, Repr, Inhabited

/-- What the running boot took from its bank (R442, R429): the bank, its sequence, its digests and the operator's key. -/
structure BankInForce where
  bank : Nat
  seq : BitVec 32
  digest : Bytes
  opkey : Bytes
  fwSec : Bytes
  fwHub : Bytes
  fwPort : Bytes
  fwCore : Bytes
  deriving DecidableEq, Repr, Inhabited

/-- A context (R315). -/
structure Ctx where
  atelier : Nat
  pasid : BitVec 20
  pasidEn : Bool
  port : Nat
  deriving DecidableEq, Repr, Inhabited

/-- A completion entry not yet given its phase (R317). -/
structure Completion where
  cmdId : BitVec 32
  status : Nat
  overrun : Bool
  late : Bool
  result : Word64
  irq : Bool
  deriving DecidableEq, Repr, Inhabited

/-- A queue (R314, R316, R464). Kind 0 admin, 1 work, 2 real-time. -/
structure Queue where
  atelier : Nat
  kind : Nat
  prio : Nat
  ctx : Nat
  lsize : Nat
  ring : Word64
  cq : Word64
  shadow : Word64
  vector : Nat
  vecEn : Bool
  slot : Nat
  fetched : BitVec 32
  tail : BitVec 32
  written : BitVec 32
  head : BitVec 32
  /-- Completions held for want of room (R316). -/
  held : List Completion
  /-- Set at detachment or QUEUE_DESTROY: fetching has stopped, completions are dropped, and the queue goes once no accepted
  command of it remains (R304). -/
  closing : Bool
  deriving DecidableEq, Repr, Inhabited

/-- A memory object (R317): pages are physical page numbers, of 64 KiB in the reservoir or 2 MiB regions of GDDR7. -/
structure MObj where
  ctx : Nat
  gddr : Bool
  ro : Bool
  peerWr : Bool
  pinned : Bool
  die : Nat
  quad : Nat
  va : Nat
  pages : List Nat
  /-- Listed by an accepted JOB_CREATE: an ro object is then closed to DMA writes (R317, R333). -/
  listed : Bool
  refs : Nat
  condemned : Bool
  /-- The free command that completes at release (R319). -/
  free : Option Nat
  deriving DecidableEq, Repr, Inhabited

/-- A fence (R323, R324). -/
structure Fence where
  ctx : Nat
  value : Word64
  shadow : Word64
  vector : Nat
  vecEn : Bool
  refs : Nat
  condemned : Bool
  free : Option Nat
  deriving DecidableEq, Repr, Inhabited

/-- A program image kept on package (R330). -/
structure Image where
  ctx : Nat
  bytes : Bytes
  refs : Nat
  condemned : Bool
  free : Option Nat
  deriving DecidableEq, Repr, Inhabited

/-- One contributor of a collective (R287, R495): core, accumulator base row, chunk count and first chunk number. -/
structure Contributor where
  core : Nat
  base : Nat
  count : Nat
  first : Nat
  deriving DecidableEq, Repr, Inhabited

/-- A collective descriptor (R287) with its contributor table on package. -/
structure Coll where
  ctx : Nat
  /-- The 64 B descriptor as accepted (R287). -/
  desc : Bytes
  contributors : List Contributor
  refs : Nat
  condemned : Bool
  free : Option Nat
  deriving DecidableEq, Repr, Inhabited

/-- The kinds of object a command can hold a reference on (R319). -/
inductive ObjKind where
  | mobj | fence | image | coll | job
  deriving DecidableEq, Repr, Inhabited

/-- The state of an accepted command (R313, R326). -/
inductive CmdState where
  /-- Accepted, not yet started. -/
  | waiting
  /-- Started. -/
  | running
  /-- A free command whose object awaits release (R319), or a command whose work is under way elsewhere. -/
  | working
  deriving DecidableEq, Repr, Inhabited

/-- An accepted command (R311, R313): its queue, the function's atelier, its 128 bytes and its references. -/
structure Cmd where
  queue : Nat
  atelier : Nat
  bytes : Bytes
  state : CmdState
  refs : List (ObjKind × Nat)
  /-- The accepted wait has been satisfied (R326). -/
  released : Bool
  /-- Windows for which it has been passed over (R360), and whether it holds a reservation. -/
  passed : Nat
  reserved : Bool
  overrun : Bool
  late : Bool
  /-- Accepted before a detachment: its completion, its fence's shadow and its messages are dropped (R304). -/
  muted : Bool
  deriving DecidableEq, Repr, Inhabited

/-- A blotter entry (R457). -/
structure BlotterEntry where
  code : BitVec 16
  atelier : Nat
  modwide : Bool
  index : BitVec 32
  stamp : Word64
  step : Word64
  gidx : Nat
  ctx : BitVec 8
  fold : Nat
  handles : List Nat
  deriving DecidableEq, Repr, Inhabited

/-- The blotter (R455): the next index, the entries held in index order, and whether the ring in the module area is in use
(before, or after a training failure, only the early ring's newest 1,024 are held). -/
structure Blotter where
  next : BitVec 32
  entries : List BlotterEntry
  inArea : Bool
  deriving DecidableEq, Repr, Inhabited

/-- An atelier's state between leases and boots (R303, R451, R452, R463): its attachment as (port, function), admin queue and
version; whether it is faulted, draining its tags under step 4 of R450, or resetting (and from which function); the first
fault's code and blotter index. -/
structure AtelierState where
  attached : Option (Nat × Nat)
  admin : Option Nat
  faulted : Bool
  draining : Option Word64
  resetting : Option (Nat × Nat)
  fcode : BitVec 16
  findex : BitVec 32
  /-- The PASID that its ATTACH gave the admin queue's requests (R306, R309). -/
  tag : Option Nat
  deriving DecidableEq, Repr, Inhabited

/-- An atelier as a boot leaves it. -/
def AtelierState.idle : AtelierState := ⟨none, none, false, none, none, 0, 0, none⟩
/-- A vector's entry at reset: unmasked (DESIGN CHOICE, notes/assumptions/85.md). -/
def MsixVector.reset : MsixVector := ⟨0, 0, false⟩
/-- The error registers at reset, as PCI Express has them (PRESUMED, notes/assumptions/85.md). -/
def ErrorRegs.reset : ErrorRegs := ⟨0, 0x00400000, 0x00462030, 0, 0x0000E000, 0, 0⟩
/-- A function's registers at reset (R307, R308). -/
def HostFn.reset : HostFn := ⟨0, false, 0, 0, false, 0, 0, 0, 0, 0, 0, 0, false, none, [], [], ErrorRegs.reset⟩
/-- A recovery function's registers at reset (R444). -/
def Recovery.reset : Recovery := ⟨0, 0, false, 0, none⟩
/-- A PCI Express port at reset: PERST_N as released, link down (R476). -/
def PciePort.reset : PciePort := ⟨false, false, 0, 0, false, true⟩

end Sys2Proof.Machine
end

