-- ==== Sys2Proof/Machine/LinkState.lean ====
section
/-!
DEFINITION. The state of the Darval ports, sessions and the gallery transport as plain data (R258 to R286).
-/
namespace Sys2Proof.Machine

/-- A packet (R267): its 64 B header flit and its payload, a multiple of 64 B. -/
structure Packet where
  header : Bytes
  payload : Bytes
  deriving DecidableEq, Repr, Inhabited

/-- A packet waiting at the sender (R272, R283): before its ctr and tag are given. `seg` is the DMA command and segment index
of a bulk write, `tag` the transfer tag held. -/
structure Waiting where
  packet : Packet
  dst : Nat
  lease : Nat
  tag : Option Nat
  seg : Option (Nat × Nat)
  deriving DecidableEq, Repr, Inhabited

/-- A codeword (R263, R264): sequence number, link-control map and its ten flits. -/
structure Codeword where
  cseq : Nat
  lcmap : Nat
  flits : List Bytes
  /-- Transfer tags freed at its acknowledgement (R283), the peer its packet goes to, and the DMA command and segment index of a
  bulk write. -/
  tags : List Nat
  dst : Nat
  seg : Option (Nat × Nat)
  deriving DecidableEq, Repr, Inhabited

/-- A packet being received on a channel (R267): its header and the data flits so far. -/
structure Arriving where
  header : Bytes
  flits : List Bytes
  deriving DecidableEq, Repr, Inhabited

/-- The states of a Darval port (R463). -/
inductive PortState where
  | absent | training | up | retraining | heldDown | lost
  deriving DecidableEq, Repr, Inhabited

/-- A Darval port (R258 to R278). -/
structure DarvalPort where
  state : PortState
  /-- Negotiated version, 0 before (R278). -/
  version : Nat
  /-- The step of R275 reached in this bring-up, and the preset of the present attempt. -/
  stage : Nat
  preset : Nat
  /-- When bring-up began or the port went down (R275, R277). -/
  since : Word64
  errors : BitVec 32
  retrains : BitVec 32
  marks : BitVec 32
  /-- Next cseq to send, unacknowledged codewords oldest first (R266). -/
  sendSeq : Nat
  unacked : List Codeword
  /-- Last codeword accepted in order, codewords accepted since the last ack, a nak to be sent (R266). -/
  lastSeq : Nat
  sinceAck : Nat
  nak : Bool
  /-- When the failed decodes and the replays of the last millisecond came (R277). -/
  failures : List Word64
  replays : List Word64
  /-- Packets waiting by channel, deficits, the channel whose turn it is, tokens of VC3 in 1/32 flit and when last filled (R272). -/
  queues : SMap (List Waiting)
  deficits : SMap Nat
  turn : Nat
  bucket : Int
  filled : Word64
  /-- Credits held for sending and credits to be returned, by channel (R273, R274). -/
  credits : SMap Nat
  owed : SMap Nat
  /-- Packets in reception by channel, the channel a data flit continues, packets and link-control flits received. -/
  arriving : SMap Arriving
  current : Nat
  packets : List Packet
  control : List Bytes
  /-- Codewords sent (output of the port). -/
  sent : List Codeword
  /-- In version 2 mode: when the last packet left, and its flits (R279). -/
  pacedAt : Word64
  pacedFlits : Nat
  deriving DecidableEq, Repr, Inhabited

/-- The keys of one session (R396, R421): session secret, the two nonces, whether this end is the lower gallery index. -/
structure SessionKeys where
  secret : Bytes
  nonce1 : Bytes
  nonce2 : Bytes
  deriving DecidableEq, Repr, Inhabited

/-- A packet kept in the gallery store until acknowledged (R284). -/
structure Stored where
  seq : BitVec 32
  packet : Packet
  tag : Option Nat
  seg : Option (Nat × Nat)
  deriving DecidableEq, Repr, Inhabited

/-- A session with a peer and the transport of its packets (R281 to R285, R420 to R422). -/
structure Session where
  up : Bool
  keys : Option SessionKeys
  /-- Keys of a rekey not yet used by the sender, and old keys not yet erased by the receiver (R422). -/
  coming : Option SessionKeys
  old : Option SessionKeys
  /-- Handshake: the ephemeral private key, payloads P1 and P2, the message awaited (0 none), when it failed. -/
  ephemeral : BitVec 256
  p1 : Bytes
  p2 : Bytes
  awaits : Nat
  failedAt : Option Word64
  /-- The peer's hello ident and link-identity key as checked (R421). -/
  ident : Bytes
  peerKey : BitVec 512
  /-- Last ctr given, last ctr accepted (R271); last ctr accepted under the old keys. -/
  ctrSent : BitVec 64
  ctrHeard : BitVec 64
  /-- Rail: last seq given, last seq accepted, last ack sent, packets accepted since, mark to echo (R284, R285). -/
  seqSent : BitVec 32
  seqHeard : BitVec 32
  unackedSince : Nat
  echo : Bool
  stored : List Stored
  window : Nat
  growth : Nat
  cutAt : Option Word64
  progressAt : Word64
  resends : Nat
  lost : Bool
  /-- The rail port the stored packets last left on (R260), 0 before any. -/
  leftOn : Nat
  deriving DecidableEq, Repr, Inhabited

/-- A port as a boot leaves it: before any codeword is accepted, the last one accepted is that before number 0 (DESIGN CHOICE,
notes/assumptions/118.md). -/
def DarvalPort.reset : DarvalPort :=
  ⟨.absent, 0, 0, 0, 0, 0, 0, 0, 0, [], 1023, 0, false, [], [], [], [], 0, 0, 0, [], [], [], 0, [], [], [], 0, 0⟩
/-- A session before any handshake. -/
def Session.closed : Session :=
  ⟨false, none, none, none, 0, [], [], 0, none, [], 0, 0, 0, 0, 0, 0, false, [], 16, 0, none, 0, 0, false, 0⟩

end Sys2Proof.Machine
end

