-- ==== Sys2Proof/Machine/ProtectState.lean ====
section
/-!
DEFINITION. The state of GDDR7 protection, of the transfer tags, of the leases and of the debug session as plain data
(R192, R194, R396 to R436): types State.lean is made of.
-/
namespace Sys2Proof.Machine

/-- The counter block of a group (R399): major counter, and the minor counters that are not 0 (127 marks a poisoned line). -/
structure CounterBlock where
  major : BitVec 32
  minors : SMap (BitVec 7)
  deriving DecidableEq, Repr, Inhabited

/-- The root record of a region (R401). The four roots are functions of the counters and keys (`treeRoots` of Protect.lean).
`fresh` is, during a re-key, the major counter under the new epoch of the group that the boundary stands within (R407). -/
structure RootRecord where
  epoch : BitVec 16
  retired : Bool
  rekey : Bool
  boundary : Nat
  written : BitVec 256
  lost : BitVec 256
  fresh : BitVec 32
  deriving DecidableEq, Repr, Inhabited

/-- A root record at reset (R401). -/
def RootRecord.zero : RootRecord := ⟨0, false, false, 0, 0, 0, 0⟩
/-- A counter block at reset (R399). -/
def CounterBlock.zero : CounterBlock := ⟨0, []⟩

/-- A transfer tag in use (R194): the atelier (none for the module's own transfers), its lease's serial and the engine. -/
structure Tag where
  atelier : Option Nat
  serial : BitVec 32
  engine : Nat
  deriving DecidableEq, Repr, Inhabited

/-- A commission as accepted (R412): its bytes, header fields, patron keys, program digests and D_c. -/
structure Commission where
  bytes : Bytes
  npatron : Nat
  quorum : Nat
  lnum : Nat
  seed : Word64
  exhibit : Bool
  ckpt : Bool
  serve : Bool
  full : Bool
  forerunner : Bool
  keys : List Bytes
  progs : List Bytes
  digest : Bytes
  deriving DecidableEq, Repr, Inhabited

/-- The keys of an active lease (R396): K_lmem, CS, CL and the parcel keys by patron. -/
structure LeaseKeys where
  lmem : Bytes
  cs : Bytes
  cl : Bytes
  parcels : List Bytes
  deriving DecidableEq, Repr, Inhabited

/-- A patron's sequence window (R417): H, and the accepted sequence numbers above H − 4,096. -/
structure SeqWindow where
  high : Nat
  seen : NatSet
  deriving DecidableEq, Repr, Inhabited

/-- An atelier's lease (R409 to R415, R431). State 0 none, 1 proposed, 2 active, 3 ending. -/
structure Lease where
  state : Nat
  serial : BitVec 32
  commission : Option Commission
  wrapKey : BitVec 256
  wrapPub : Bytes
  shares : SMap Bytes
  keys : Option LeaseKeys
  windows : SMap SeqWindow
  /-- Order nonces used (R428). -/
  orders : List Bytes
  noresidue : Bool
  deriving DecidableEq, Repr, Inhabited

/-- A lease in the state none (R409). -/
def Lease.none : Lease := ⟨0, 0, Option.none, 0, [], [], Option.none, [], [], false⟩

/-- The test port (R435, R436): the challenge issued and not yet used, the scopes open, whether a session has been unlocked
since power-up. -/
structure Debug where
  challenge : Option Bytes
  core : Bool
  hub : Bool
  unlocked : Bool
  /-- What the test port has sent: challenges, and what a debugger has read (R435). -/
  sent : List Bytes
  deriving DecidableEq, Repr, Inhabited

end Sys2Proof.Machine
end

