-- ==== Sys2Proof/Machine/TrainState.lean ====
section
/-!
DEFINITION. The state of jobs, training steps, collectives, reduction engines, DMA commands and table units as plain data
(R60 to R68, R111, R166 to R173, R193 to R196, R200 to R257, R287 to R298, R331, R332).
-/
namespace Sys2Proof.Machine

/-- The escalation state of an escalable layer (R63 to R67): a decided mode waits for its step in `coming`. -/
structure Escalation where
  layer : Nat
  threshold : Nat
  persist : Nat
  mode : Nat
  run : Nat
  coming : Option (Nat × Nat)
  /-- Its compiled variants, by mode (R63, R64). -/
  variants : List (List (Nat × Nat × BitVec 256))
  deriving DecidableEq, Repr, Inhabited

/-- The five counts of R60 in 64-bit arithmetic, as the layer count record and the count vector carry them. -/
structure Counts where
  layer : Nat
  counts : List Nat
  deriving DecidableEq, Repr, Inhabited

/-- The outcomes of a step (R220). -/
inductive Outcome where
  | commit | clip | skipNonfinite | rereduce | skipResidue | fault
  deriving DecidableEq, Repr, Inhabited

/-- The layer's update in the running step (R211 to R214): launched optimistically or not at all. -/
structure Applied where
  layer : Nat
  optimistic : Bool
  deriving DecidableEq, Repr, Inhabited

/-- One step of a job under way (R216 to R222): its number, launches before this one, k(n), mode, and the seal's pieces. -/
structure StepRun where
  step : Nat
  restart : Nat
  k : Int
  late : Bool
  attempt : Nat
  /-- The programs of the step have been launched; run-ahead of the next step has been launched. -/
  launched : Bool
  ahead : Bool
  /-- Launches of the next step so far, as run-ahead (R213, R215). -/
  nexts : Nat
  /-- Layers the optimistic routine has updated. -/
  applied : List Applied
  nonfinite : Bool
  rfail : Nat
  /-- Chunks counted in rfail in this attempt, as (collective, chunk): each counts once (R248). -/
  counted : List (Nat × Nat)
  /-- rfail of the first attempt, over all members (R230). -/
  rfail0 : Nat
  fails : NatSet
  overflow : Bool
  /-- Chunks present in the reduced-gradient array whose last write passed (R249), and those present that did not. -/
  passed : NatSet
  unpassed : NatSet
  /-- Owned chunks with their ssq terms (FP64 codes), by chunk number (R217). -/
  owned : SMap Nat
  /-- Own counts per layer, gathered at pass ends (R60); pass ends seen. -/
  counts : List Counts
  passes : Nat
  /-- When the record was built (R294), the records and the count vectors held, by rank. -/
  built : Option Word64
  records : SMap Bytes
  vectors : SMap (List Counts)
  /-- Count-vector bytes received so far, by sender, where a vector takes several packets (R294). -/
  pieces : SMap Bytes
  outcome : Option Outcome
  factor : Nat
  gnorm : Nat
  /-- The bundle of the own palette has been sent (R294). -/
  bundled : Bool
  /-- Chunks of the union of the fails lists whose second result is still to come (R251). -/
  again : NatSet
  /-- Layers in the order their first saturated chunk appeared (R246). -/
  saturated : List Nat
  deriving DecidableEq, Repr, Inhabited

/-- A job (R331, R332, R373): its descriptor's lists as copied, its blocks, and its state between steps. -/
structure Job where
  ctx : Nat
  atelier : Nat
  desc : Bytes
  members : List Nat
  objs : List Nat
  serving : Bool
  /-- The training block (R228) or the serving block (R374), 128 B as read at creation. -/
  block : Bytes
  /-- Update descriptors (R209), 64 B each, in layer-table order. -/
  layers : List Bytes
  /-- Low-rank entries as read at creation (R252), with the far address of each. -/
  lowrank : List (Nat × Bytes)
  escalations : List Escalation
  forerunner : Bool
  /-- The members of a mixed-generation job that are AZF-2 modules (R280). -/
  azf : List Nat
  /-- Reference count by commands and the release of the job (R319). -/
  refs : Nat
  /-- Whether it still holds its references on the objects and collective descriptors it lists (R319). -/
  holding : Bool
  running : Bool
  stopping : Option Nat
  unsound : Bool
  /-- The last committed step, and the last step that reached an outcome. -/
  committed : Option Nat
  sealed : Option Nat
  /-- The step last launched (R464). -/
  launched : Option Nat
  t : Nat
  k : Int
  /-- A growth waiting for the step it names (R227). -/
  growth : Option (Nat × Int)
  clean : Nat
  norms : List Nat
  lateNext : Bool
  run : Option StepRun
  /-- The JOB_RUN command in progress: serial, steps asked, steps done. -/
  command : Option Nat
  asked : Nat
  done : Nat
  /-- Scheduling (R342, R345, R348): when its slice ends, the debit against later slices in ticks, since when it has run past
  its slice for want of leave to switch, whether it holds its cores, is switching out or is decanted. -/
  slice : Word64
  debit : Nat
  beyond : Option Word64
  /-- Since when its cores are being stopped (R341), and the decant set each of its saved cores takes (R345). -/
  stopSince : Option Word64
  sets : SMap Nat
  resident : Bool
  switching : Bool
  decanted : Bool
  /-- Serving (R386): object pending, object in service, each with its step; reload; JOB_STOP accepted. -/
  pendingSnap : Option (Nat × Nat)
  inService : Option (Nat × Nat)
  reload : Bool
  ended : Bool
  deriving DecidableEq, Repr, Inhabited

/-- A collective packet held or handed over (R289, R294, R295): ptype, sender, port it came in at, header info field and payload. -/
structure CollPacket where
  ptype : Nat
  src : Nat
  port : Nat
  info : Bytes
  payload : Bytes
  deriving DecidableEq, Repr, Inhabited

/-- A collective of a running step (R290 to R296). -/
structure CollRun where
  job : Nat
  desc : Nat
  step : Nat
  seq : Nat
  /-- Cores that have reported (R111). -/
  reported : NatSet
  launched : Option Word64
  fprint : Nat
  /-- The read slot a at launch (R253). -/
  slot : Nat
  held : List CollPacket
  /-- Operation 4: bytes here so far, by 1,024 × sender + first rank; operation 3: pairs held as (index, sender rank, row values). -/
  awaited : SMap Nat
  pairs : List (Nat × Nat × List Nat)
  /-- Operation 3: the sparse block as read at launch, and pairs whose index was out of bounds (R295). -/
  block : Bytes
  oob : Nat
  /-- Operation 4 and chunk operations: ranks or chunk numbers already placed. -/
  placed : NatSet
  complete : Bool
  aborted : Option Nat
  told : Bool
  deriving DecidableEq, Repr, Inhabited

/-- Where a chunk is going when it enters an engine or the reduced-gradient array (R239, R242): tier-1 adder, tier-2 adder,
result. -/
inductive ChunkHop where
  | contribution | partialSum | result
  deriving DecidableEq, Repr, Inhabited

/-- A chunk handed to a port die (R242, R247): its job, step, attempt, number, sender rank, hop, collective and the place it
came in at (link port, or 0x100 + die). -/
structure HandOver where
  job : Nat
  step : Nat
  attempt : Nat
  chunk : Nat
  rank : Nat
  hop : ChunkHop
  coll : Nat
  place : Nat
  bytes : Bytes
  deriving DecidableEq, Repr, Inhabited

/-- An input held by a reduction engine (R250): the hand-over and whether it failed its receive check. -/
structure Held where
  input : HandOver
  failed : Bool
  deriving DecidableEq, Repr, Inhabited

/-- A reduction engine's queue of arrivals and its inputs held (R244, R250). -/
structure Reduction where
  arrivals : List HandOver
  inputs : List Held
  /-- Inputs accepted: (job, step, chunk, rank, attempt, hop code, collective), for R250. -/
  accepted : List (List Nat)
  deriving DecidableEq, Repr, Inhabited

/-- A table request waiting at a unit (R166, R173): core, epoch captured, job, context, the 64 B line. -/
structure TableReq where
  core : Nat
  epoch : BitVec 16
  job : Nat
  ctx : Nat
  atelier : Nat
  line : Bytes
  deriving DecidableEq, Repr, Inhabited

/-- A DMA segment (R193): its command, place among the command's segments, source and destination addresses, length, tag, and
data read at its issue. -/
structure Segment where
  cmd : Nat
  index : Nat
  src : Nat
  dst : Nat
  len : Nat
  tag : Option Nat
  data : Bytes
  /-- Runs of its bytes that were unreadable, as (offset, length). -/
  bad : List (Nat × Nat)
  deriving DecidableEq, Repr, Inhabited

/-- A DMA command in progress (R193, R195): what it is of, segments not yet issued, segments out, its error flag, the results of
a peer's responses by segment, and the status it will end with (0 while none is settled). -/
structure DmaRun where
  cmd : Nat
  die : Nat
  atelier : Nat
  ctx : Nat
  queue : Nat
  cmdId : Nat
  /-- Source and destination kinds (R333), the peer named, whether its source is parcels (R418). -/
  fromHost : Bool
  toPeer : Option Nat
  object : Nat
  parcels : Bool
  todo : List Segment
  out : List Segment
  error : Bool
  peer : SMap Nat
  /-- The first unreadable line has been reported (R196). -/
  noted : Bool
  status : Nat
  /-- Parcels (R418): segments arrived, the next in order, bytes not yet opened, where the next plaintext goes. -/
  arrived : SMap Bytes
  next : Nat
  buffer : Bytes
  dst : Nat
  /-- The end of the memory object that held the command's destination as it started (R418). -/
  bound : Nat
  /-- For the bulk writes of a query's reply (R388): the period of its pass, which its command's completion reports. -/
  reply : Option Nat
  /-- Segments whose bytes are held in the module area until their parcel is written (R195, R418), tags and all, and the host address up
  to which parcels have been opened. -/
  kept : List Segment
  opened : Nat
  deriving DecidableEq, Repr, Inhabited

end Sys2Proof.Machine
end

