-- ==== Sys2Proof/Machine/State.lean ====
section
/-!
DEFINITION. The state of the module as plain data, its reset, and the two ways a command can end the run.
-/
namespace Sys2Proof.Machine

/-- What ends a run. -/
inductive Fault where
  /-- A command names a unit the module does not have (R16 to R20, R189): raised by `onUnit` of Ops.lean. Safe: the
  module takes no such command. -/
  | noSuchUnit (kind : String) (number : Nat)
  deriving DecidableEq, Repr

/-- What the model refuses. -/
inductive Refusal where
  /-- A command without a meaning: raised by exec's refused arms alone. Safe: the run stops. -/
  | notModelled (mnemonic : String)
  deriving DecidableEq, Repr

/-- The module. Tables list what differs from reset: an unlisted core is `Core.reset`, an unlisted panel `Panel.reset`, and
so on; unlisted objects do not exist. -/
structure State where
  /-- The commands that are waiting, first in, first out. -/
  pending : List Instr
  /-- The timestamp counter, in 10 ns ticks (R8). -/
  time : Word64
  /-- Draws taken from the entropy source (R394): the model's own counter. -/
  drawn : Nat
  /-- Free values taken: the model's own counter. -/
  freed : Nat
  /-- Power, pins and alerts (R466 to R480). -/
  power : Power
  /-- mstate of SB_STATE (R485): 0 in reset, 1 booting, 2 ready, 3 failed, 4 recovery, 5 tamper fuse blown. -/
  mstate : Nat
  /-- Highest order of R438 reached in this boot (R485). -/
  phase : Nat
  /-- GDDR7 training of this boot (R438, R455): none until it has ended, then whether it succeeded. -/
  training : Option Bool
  /-- Code of the module fault in force, or 0 (R485). -/
  fcode : BitVec 16
  /-- The tamper fuse (R392, R434). -/
  tamperFuse : Bool
  /-- Fuses burnt of the 32-fuse tamper counter (R392, R433). -/
  tamperCount : Nat
  /-- Fuses burnt of the 64-fuse debug counter (R392, R436). -/
  debugCount : Nat
  /-- The boot nonce (R394), with which K_boot and K_area are held; none once erased. -/
  nonce : Option Bytes
  /-- The secrets unwrapped at boot (R392): false before, and where the tamper fuse is blown. -/
  unwrapped : Bool
  /-- The bank the running boot selected (R442). -/
  inForce : Option BankInForce
  /-- The installation section in force (R445, R446). -/
  installation : Option Installation
  /-- Why each bank failed, for the recovery function (R444): 0 erased or valid, else the condition of R442. -/
  bankFails : Nat × Nat
  /-- Ground-flash bank A, each byte complemented, so that an erased byte is not listed (R440, R444). -/
  flashA : Memory
  /-- Ground-flash bank B, held as bank A is. -/
  flashB : Memory
  /-- Whether an interrupted erase or program has left bank A, bank B undefined (R488). -/
  flashBroken : Bool × Bool
  /-- The test port (R435, R436). -/
  testPort : Debug
  /-- The sideband and the flash window (R482 to R488). -/
  sideband : Sideband
  /-- The cores, by global core number (R18, R71). -/
  cores : SMap Core
  /-- Messages in the token mesh, in sending order (R105). -/
  mesh : List Msg
  /-- Outcomes of sends on their way back: sender, channel, delivered (R105). -/
  outcomes : List (Nat × Nat × Bool)
  /-- Requests at each quadrant's gather unit and scatter-add unit (R166). -/
  gathers : SMap (List TableReq)
  scatters : SMap (List TableReq)
  /-- The reservoir by byte: page × 65,536, a quadrant's pages numbered from 73,728 × its global number (R182). -/
  reservoir : Memory
  /-- Poisoned reservoir lines (R198). -/
  poison : NatSet
  /-- GDDR7 plaintext by byte: global region number × 2 MiB (R186, R396). -/
  gddr : Memory
  /-- Root records by global region number (R401). -/
  roots : SMap RootRecord
  /-- Counter blocks by 256 × global region number + group (R399). -/
  counters : SMap CounterBlock
  /-- GDDR7 channels (R189 to R191). -/
  channels : SMap Channel
  /-- Transfer tags in use, by tag number; 0 to 2,047 are the module's own (R194). -/
  tags : SMap Tag
  /-- Segments waiting for a tag, in request order (R195). -/
  tagWaits : List Segment
  /-- The port die the next command without a GDDR7 end goes to (R193). -/
  dmaTurn : Nat
  /-- The command last served at each port die (R336). -/
  dmaLast : SMap Nat
  /-- DMA commands in progress, by serial (R193). -/
  dmas : SMap DmaRun
  /-- PCI Express ports (R300). -/
  pcie : SMap PciePort
  /-- Control registers by 32 × port + function, function 0 the physical one (R306). -/
  functions : SMap HostFn
  /-- Recovery registers by port (R444). -/
  recovery : SMap Recovery
  /-- Cached translations (R301): port, PASID, 4 KiB page. -/
  translations : List (Nat × Option Nat × Nat)
  /-- What the module has sent to its hosts, in order (R301). -/
  hostOut : List HostOut
  /-- Ateliers (R451, R463). -/
  ateliers : SMap AtelierState
  /-- Leases by atelier (R409). -/
  leases : SMap Lease
  /-- The last lease serial given in this boot (R409). -/
  leaseSerial : BitVec 32
  /-- Contexts by number (R315). -/
  contexts : SMap Ctx
  /-- Queues by global number (R314). -/
  queues : SMap Queue
  /-- Memory objects by slot (R317). -/
  mobjs : SMap MObj
  /-- Fences by slot (R323). -/
  fences : SMap Fence
  /-- Program images by slot (R330). -/
  images : SMap Image
  /-- Collective descriptors by slot (R287). -/
  colls : SMap Coll
  /-- Jobs by slot (R330). -/
  jobs : SMap Job
  /-- Accepted commands by serial, in order of acceptance (R313). -/
  commands : SMap Cmd
  /-- The serial of the next command accepted. -/
  nextSerial : Nat
  /-- Signals on their way to the fence unit (R325): fence, value, and whether its shadow and message are dropped (R304). -/
  signals : List (Nat × Word64 × Bool)
  /-- Collectives of running steps (R290). -/
  collectives : List CollRun
  /-- Reduction engines by port die (R244). -/
  reductions : SMap Reduction
  /-- Decanted cores, by 16,384 × job + core number (R344). -/
  decants : SMap Core
  /-- Reservations standing (R360), by serial, in the order taken. -/
  reservations : List Nat
  /-- Panels (R352 to R368). -/
  panels : SMap Panel
  /-- The flacon's module-wide state (R351, R362, R369). -/
  flacon : Flacon
  /-- The serving path (R370 to R389). -/
  serving : Serving
  /-- Queries opened and not yet held (R377, R379). -/
  opened : List Query
  /-- Darval ports (R258 to R278). -/
  ports : SMap DarvalPort
  /-- Sessions by peer gallery index (R281). -/
  sessions : SMap Session
  /-- Link lease numbers whose keys this boot has erased (R283). -/
  erasedLeases : NatSet
  /-- Lease packets dropped: (link lease number, port) already reported (R283). -/
  leaseDrops : List (Nat × Nat)
  /-- The blotter (R455). -/
  blotter : Blotter
  deriving DecidableEq, Repr

/-- The module right after the release of RESET_N at its first power-up: rails good, nothing booted, both banks erased (R492),
every SRAM word clear (R199), every root record at reset (R437). -/
def State.reset : State :=
  { pending := [], time := 0, drawn := 0, freed := 0, power := Power.reset, mstate := 1, phase := 0, training := none, fcode := 0
    tamperFuse := false, tamperCount := 0, debugCount := 0, nonce := none, unwrapped := false, inForce := none
    installation := none, bankFails := (0, 0), flashA := [], flashB := [], flashBroken := (false, false), testPort := ⟨none, false, false, false, []⟩
    sideband := Sideband.reset, cores := [], mesh := [], outcomes := [], gathers := [], scatters := [], reservoir := []
    poison := [], gddr := [], roots := [], counters := [], channels := [], tags := [], tagWaits := [], dmaTurn := 0
    dmaLast := [], dmas := [], pcie := [], functions := [], recovery := [], translations := [], hostOut := []
    ateliers := [], leases := [], leaseSerial := 0, contexts := [], queues := [], mobjs := [], fences := [], images := []
    colls := [], jobs := [], commands := [], nextSerial := 0, signals := [], collectives := [], reductions := []
    decants := [], reservations := [], panels := [], flacon := Flacon.reset, serving := ⟨[], [], [], [], []⟩, opened := []
    ports := [], sessions := [], erasedLeases := [], leaseDrops := [], blotter := ⟨0, [], false⟩ }

end Sys2Proof.Machine
end

