-- ==== Sys2Proof/Machine/Ops.lean ====
section
/-!
DEFINITION. The named operations that every family shares: units and due events, time, draws, the blotter, writes to hosts,
address translation, the protected memories, transfer tags, references, completions and fences.
-/
namespace Sys2Proof.Machine

/-- The answer of a command. -/
abbrev Answer := Host.Outcome State Fault Refusal

/-- A command on a unit the module has; any other ends the run (R16 to R20). -/
def onUnit (kind : String) (n limit : Nat) (a : Answer) : Answer := if n < limit then a else .fault (.noSuchUnit kind n)

/-- An event that is due has its effect; one that is not due changes nothing (DESIGN CHOICE, notes/assumptions/2.md). -/
def whenDue (due : Bool) (s t : State) : Answer := .next (if due then t else s)

/-- Time moved forward to a timer's expiry (notes/assumptions/3.md). -/
def State.reach (s : State) (t : Word64) : State := { s with time := if s.time.toNat < t.toNat then t else s.time }

/-- Ticks in 1 µs, 1 ms and 1 s (R8). -/
def ticksMs : Nat := 100000

/-- The next draw of the entropy source (R394), and the source moved on. -/
def State.drawBits (s : State) : BitVec 256 := Config.entropy s.drawn
def State.drew (s : State) : State := { s with drawn := s.drawn + 1 }
/-- The first `n` bytes of the next draw. -/
def State.drawBytes (s : State) (n : Nat) : Bytes := leBytes n s.drawBits.toNat

/-! ### Where things stand -/

/-- The module's gallery index (R25): 0 before an installation section is in force. -/
def State.gidx (s : State) : Nat := match s.installation with
  | some i => 16 * i.palette + i.position
  | none => 0
/-- An atelier's entry in the installation section (R446). -/
def State.entry (s : State) (a : Nat) : Option AtelierEntry := s.installation.bind fun i => i.ateliers[a]?
/-- How many ateliers the ground image makes (R445). -/
def State.nat (s : State) : Nat := match s.installation with
  | some i => i.ateliers.length
  | none => 0
/-- The panel and the global quadrant of a core (R18). -/
def panelOf (core : Nat) : Nat := core / 864
def quadrantOf (core : Nat) : Nat := 4 * panelOf core + 2 * bit (decide (12 ≤ core % 864 / 36)) + bit (decide (18 ≤ core % 36))
/-- The atelier a quadrant belongs to (R446). -/
def State.atelierOfQuadrant (s : State) (q : Nat) : Option Nat := s.installation.bind fun i => i.ateliers.findIdx? fun e => e.qmask.getLsbD q
/-- Whether an atelier holds a core. -/
def State.holds (s : State) (a core : Nat) : Bool := match s.entry a with
  | some e => e.qmask.getLsbD (quadrantOf core)
  | none => false
/-- The atelier a data region of a port die is assigned to (R446); g is the global region number (R396). -/
def State.atelierOfRegion (s : State) (g : Nat) : Option Nat := s.installation.bind fun i => i.ateliers.findIdx? fun e =>
  match e.regions[g / 65536]? with
  | some (first, count) => decide (first ≤ g % 65536) && decide (g % 65536 < first + count)
  | none => false
/-- Whether a region is one of a module area's 80 (R396). -/
def inArea (g : Nat) : Bool := decide (65456 ≤ g % 65536)

/-- Accessors over the tables whose unlisted entries stand at reset. -/
def State.core (s : State) (n : Nat) : Core := SMap.get Core.reset s.cores n
def State.setCore (s : State) (n : Nat) (c : Core) : State := { s with cores := SMap.set Core.reset s.cores n c }
def State.atelier (s : State) (a : Nat) : AtelierState := SMap.get AtelierState.idle s.ateliers a
def State.setAtelier (s : State) (a : Nat) (x : AtelierState) : State := { s with ateliers := SMap.set AtelierState.idle s.ateliers a x }
def State.lease (s : State) (a : Nat) : Lease := SMap.get Lease.none s.leases a
def State.setLease (s : State) (a : Nat) (x : Lease) : State := { s with leases := SMap.set Lease.none s.leases a x }
def State.panel (s : State) (p : Nat) : Panel := SMap.get Panel.reset s.panels p
def State.setPanel (s : State) (p : Nat) (x : Panel) : State := { s with panels := SMap.set Panel.reset s.panels p x }
def State.channel (s : State) (c : Nat) : Channel := SMap.get Channel.reset s.channels c
def State.setChannel (s : State) (c : Nat) (x : Channel) : State := { s with channels := SMap.set Channel.reset s.channels c x }
def State.port (s : State) (p : Nat) : DarvalPort := SMap.get DarvalPort.reset s.ports p
def State.setPort (s : State) (p : Nat) (x : DarvalPort) : State := { s with ports := SMap.set DarvalPort.reset s.ports p x }
def State.session (s : State) (g : Nat) : Session := SMap.get Session.closed s.sessions g
def State.setSession (s : State) (g : Nat) (x : Session) : State := { s with sessions := SMap.set Session.closed s.sessions g x }
def State.pciePort (s : State) (p : Nat) : PciePort := SMap.get PciePort.reset s.pcie p
def State.setPcie (s : State) (p : Nat) (x : PciePort) : State := { s with pcie := SMap.set PciePort.reset s.pcie p x }
def State.function (s : State) (p f : Nat) : HostFn := SMap.get HostFn.reset s.functions (32 * p + f)
def State.setFunction (s : State) (p f : Nat) (x : HostFn) : State := { s with functions := SMap.set HostFn.reset s.functions (32 * p + f) x }
def State.root (s : State) (g : Nat) : RootRecord := SMap.get RootRecord.zero s.roots g
def State.setRoot (s : State) (g : Nat) (x : RootRecord) : State := { s with roots := SMap.set RootRecord.zero s.roots g x }
def State.counter (s : State) (g group : Nat) : CounterBlock := SMap.get CounterBlock.zero s.counters (256 * g + group)
def State.setCounter (s : State) (g group : Nat) (x : CounterBlock) : State :=
  { s with counters := SMap.set CounterBlock.zero s.counters (256 * g + group) x }
def State.reduction (s : State) (d : Nat) : Reduction := SMap.get ⟨[], [], []⟩ s.reductions d
def State.setReduction (s : State) (d : Nat) (x : Reduction) : State := { s with reductions := SMap.set ⟨[], [], []⟩ s.reductions d x }

/-- One object changed, where it exists. -/
def State.onJob (s : State) (j : Nat) (f : Job → Job) : State := { s with jobs := SMap.adjust s.jobs j f }
def State.onQueue (s : State) (q : Nat) (f : Queue → Queue) : State := { s with queues := SMap.adjust s.queues q f }
def State.onCmd (s : State) (n : Nat) (f : Cmd → Cmd) : State := { s with commands := SMap.adjust s.commands n f }
def State.onRun (s : State) (j : Nat) (f : StepRun → StepRun) : State := s.onJob j fun x => { x with run := x.run.map f }

/-! ### The blotter -/

/-- How many entries the blotter holds (R455). -/
def Blotter.room (b : Blotter) : Nat := if b.inArea then 65536 else 1024

/-- An entry joined to the ring (R455). -/
def Blotter.add (b : Blotter) (e : BlotterEntry) : Blotter :=
  let es := b.entries ++ [{ e with index := b.next }]
  { b with next := b.next + 1, entries := es.drop (es.length - b.room) }

/-- The newest informational entry that a new one could fold into (R456). -/
def Blotter.twin (b : Blotter) (e : BlotterEntry) : Option BlotterEntry :=
  b.entries.reverse.find? fun x => x.code = e.code && x.atelier = e.atelier && x.modwide = e.modwide && x.handles.getD 0 0 = e.handles.getD 0 0

/-- An entry written or folded (R456). -/
def Blotter.write (b : Blotter) (e : BlotterEntry) : Blotter :=
  match (if e.code.toNat / 256 = 1 then b.twin e else none) with
  | some x =>
    if e.stamp.toNat - x.stamp.toNat ≤ 100000 then
      { b with entries := b.entries.map fun y => if y.index = x.index then { y with fold := min 255 (y.fold + 1) } else y }
    else b.add e
  | none => b.add e

/-- A blotter entry written (R455 to R459). -/
def State.log (s : State) (code : Nat) (atelier step ctx : Option Nat) (handles : List Nat) : State :=
  let stepField : Word64 := match step with
    | some n => BitVec.ofNat 64 n
    | none => -1
  let ctxField : BitVec 8 := match ctx with
    | some c => BitVec.ofNat 8 c
    | none => 0xFF
  let e : BlotterEntry := ⟨BitVec.ofNat 16 code, atelier.getD 0, atelier.isNone, 0, s.time, stepField, s.gidx, ctxField, 0, handles⟩
  { s with blotter := s.blotter.write e }

/-- The step an entry about a job names (R457): the running one. -/
def Job.stepNow (j : Job) : Option Nat := j.run.map (·.step)

/-- An entry about no one atelier. -/
def State.note (s : State) (code : Nat) (handles : List Nat) : State := s.log code none none none handles
/-- An entry about one atelier's line, core or object, or, where no atelier owns it, about no one atelier (R457). -/
def State.noteOf (s : State) (a : Option Nat) (code : Nat) (handles : List Nat) : State := s.log code a none none handles
/-- An entry about an atelier. -/
def State.noteIn (s : State) (a code : Nat) (handles : List Nat) : State := s.log code (some a) none none handles

/-! ### Hosts -/

/-- The translation that a request to host memory used, kept (R301). -/
def State.translated (s : State) (port : Nat) (pasid : Option Nat) (addr : Nat) : State :=
  let key := (port, pasid, addr / 4096)
  { s with translations := if s.translations.contains key then s.translations else s.translations ++ [key] }

/-- Host memory reached with a port and a PASID: the translation of every page is kept (R301). -/
def State.reachHost (s : State) (tag : Nat × Option Nat) (addr n : Nat) : State :=
  (List.range ((addr % 4096 + n + 4095) / 4096)).foldl (fun s i => s.translated tag.1 tag.2 (addr + 4096 * i)) s

/-- A write to host memory (R301). -/
def State.hostWrite (s : State) (port : Nat) (pasid : Option Nat) (addr : Nat) (bytes : Bytes) : State :=
  { s.reachHost (port, pasid) addr bytes.length with hostOut := s.hostOut ++ [.write port pasid addr bytes] }

/-- A context's PASID as its requests carry it (R315). -/
def Ctx.tag (c : Ctx) : Option Nat := if c.pasidEn then some c.pasid.toNat else none

/-- The port and the PASID of a context's requests (R315). -/
def State.ctxTag (s : State) (ctx : Nat) : Nat × Option Nat := (SMap.find? s.contexts ctx).elim (0, none) fun c => (c.port, c.tag)

/-- A write in a context, dropped while its atelier is not attached (R304). -/
def State.ctxWrite (s : State) (ctx addr : Nat) (bytes : Bytes) : State :=
  match SMap.find? s.contexts ctx with
  | some c => if (s.atelier c.atelier).attached.isSome then s.hostWrite c.port c.tag addr bytes else s
  | none => s

/-- An MSI-X message of an atelier's function (R316, R323), dropped while it is not attached; of a vector that the host has masked it is
left pending (R300, R305; notes/assumptions/85.md). -/
def State.interrupt (s : State) (a vector : Nat) : State :=
  match (s.atelier a).attached with
  | some (p, f) =>
    let x := s.function p f
    if (SMap.get MsixVector.reset x.vectors vector).masked then s.setFunction p f { x with waiting := x.waiting.add vector } else { s with hostOut := s.hostOut ++ [.msix p f vector] }
  | none => s

/-- The PASID and port of a queue's own requests (R309, R315): the admin queue uses the attachment's. -/
def State.queueTag (s : State) (q : Queue) : Nat × Option Nat :=
  if q.kind = 0 then
    match (s.atelier q.atelier).attached with
    | some (p, _) => (p, (s.atelier q.atelier).tag)
    | none => (0, none)
  else match SMap.find? s.contexts q.ctx with
    | some c => (c.port, c.tag)
    | none => (0, none)

/-! ### Completions, fences and references -/

/-- A completion entry's 16 bytes (R317). -/
def Completion.bytes (c : Completion) (q written lsize : Nat) : Bytes :=
  record 16 [(0, 32, c.cmdId.toNat), (32, 8, c.status), (40, 1, written / 2 ^ lsize % 2), (41, 1, bit c.overrun), (42, 1, bit c.late),
    (48, 11, q), (64, 64, c.result.toNat)]

/-- A completion written or held (R316); dropped where the queue is closing or gone (R304). -/
def State.pushCompletion (s : State) (n : Nat) (c : Completion) : State :=
  match SMap.find? s.queues n with
  | none => s
  | some q =>
    if q.closing then s
    else if (q.written - q.head).toNat < 2 ^ q.lsize then
      let (port, pasid) := s.queueTag q
      let s1 := s.hostWrite port pasid (q.cq.toNat + 16 * (q.written.toNat % 2 ^ q.lsize)) (c.bytes n q.written.toNat q.lsize)
      let s2 := s1.onQueue n fun q => { q with written := q.written + 1 }
      if c.irq && q.vecEn then s2.interrupt q.atelier q.vector else s2
    else s.onQueue n fun q => { q with held := q.held ++ [c] }

/-- Held completions written while there is room (R316); `fuel` is the number held. -/
def State.releaseHeld (n : Nat) : Nat → State → State
  | 0, s => s
  | fuel + 1, s =>
    match SMap.find? s.queues n with
    | none => s
    | some q =>
      match q.held with
      | [] => s
      | c :: rest =>
        if (q.written - q.head).toNat < 2 ^ q.lsize then
          State.releaseHeld n fuel ((s.onQueue n fun q => { q with held := rest }).pushCompletion n c)
        else s

/-- Fields of a command header (R311). -/
def Cmd.opcode (c : Cmd) : Nat := bitsIn c.bytes 0 8
def Cmd.np (c : Cmd) : Bool := bitsIn c.bytes 8 1 = 1
def Cmd.waitEn (c : Cmd) : Bool := bitsIn c.bytes 9 1 = 1
def Cmd.sigEn (c : Cmd) : Bool := bitsIn c.bytes 10 1 = 1
def Cmd.irq (c : Cmd) : Bool := bitsIn c.bytes 11 1 = 1
def Cmd.ctx (c : Cmd) : Nat := bitsIn c.bytes 16 8
def Cmd.id (c : Cmd) : Nat := bitsIn c.bytes 32 32
def Cmd.waitFence (c : Cmd) : Nat := bitsIn c.bytes 64 16
def Cmd.sigFence (c : Cmd) : Nat := bitsIn c.bytes 80 16
def Cmd.waitValue (c : Cmd) : Nat := bitsIn c.bytes 96 64
def Cmd.sigValue (c : Cmd) : Nat := bitsIn c.bytes 160 64
def Cmd.energy (c : Cmd) : Nat := bitsIn c.bytes 224 32
def Cmd.est (c : Cmd) : Nat := bitsIn c.bytes 256 20
/-- A payload field: bit 0 of the payload is bit 512 of the command. -/
def Cmd.pay (c : Cmd) (lo len : Nat) : Nat := bitsIn c.bytes (512 + lo) len

/-- The commands that act in the header's context: those whose fences belong to it, and all but a few others (R313; DEDUCED,
notes/assumptions/92.md). -/
def Cmd.inContext (c : Cmd) : Bool := c.waitEn || c.sigEn || !([0x01, 0x05, 0x12, 0x13, 0x20, 0x21].contains c.opcode)

/-- The port and the PASID of what a command reads and writes of host memory: those of the context it serves, else its queue's own (R301,
R315). -/
def State.cmdTag (s : State) (c : Cmd) : Nat × Option Nat :=
  match (if c.inContext then SMap.find? s.contexts c.ctx else none), SMap.find? s.queues c.queue with
  | some x, _ => (x.port, x.tag)
  | none, some q => s.queueTag q
  | none, none => (0, none)

/-- Host memory read for a command. -/
def State.readFor (s : State) (c : Cmd) (addr n : Nat) : State := s.reachHost (s.cmdTag c) addr n

/-- A reference taken or dropped (R319). -/
def State.reference (s : State) (f : Nat → Nat) : ObjKind × Nat → State
  | (.mobj, n) => { s with mobjs := SMap.adjust s.mobjs n fun x => { x with refs := f x.refs } }
  | (.fence, n) => { s with fences := SMap.adjust s.fences n fun x => { x with refs := f x.refs } }
  | (.image, n) => { s with images := SMap.adjust s.images n fun x => { x with refs := f x.refs } }
  | (.coll, n) => { s with colls := SMap.adjust s.colls n fun x => { x with refs := f x.refs } }
  | (.job, n) => { s with jobs := SMap.adjust s.jobs n fun x => { x with refs := f x.refs } }

/-- References taken or dropped. -/
def State.refer (s : State) (f : Nat → Nat) (os : List (ObjKind × Nat)) : State := os.foldl (fun s o => s.reference f o) s

/-- The fields of a collective descriptor (R287). -/
def Coll.field (c : Coll) (lo len : Nat) : Nat := bitsIn c.desc lo len
def Coll.op (c : Coll) : Nat := c.field 0 4
def Coll.fmt (c : Coll) : Nat := c.field 4 4
def Coll.layer (c : Coll) : Nat := c.field 8 20
def Coll.count (c : Coll) : Nat := c.field 32 32
def Coll.result (c : Coll) : Nat := c.field 128 48
def Coll.seq (c : Coll) : Nat := c.field 192 32
def Coll.timeout (c : Coll) : Nat := if c.field 224 16 = 0 then 200 else c.field 224 16
def Coll.chan (c : Coll) : Nat := c.field 249 4
def Coll.notify (c : Coll) : Bool := c.field 253 1 = 1
def Coll.lrole (c : Coll) : Nat := c.field 254 2
def Coll.aux (c : Coll) : Nat := c.field 256 48

/-- A job's collective descriptors (R331). -/
def Job.cfirst (j : Job) : Nat := bitsIn j.desc 128 14
def Job.ncoll (j : Job) : Nat := bitsIn j.desc 142 15
def Job.collSlots (j : Job) : List Nat := upFrom j.cfirst j.ncoll

/-- The objects a job's descriptor lists (R319, R331). -/
def Job.listed (j : Job) : List (ObjKind × Nat) := (j.objs.map fun n => (ObjKind.mobj, n)) ++ j.collSlots.map fun n => (ObjKind.coll, n)

/-- The snapshots a serving job holds references on (R386, R387). -/
def Job.snaps (j : Job) : List (ObjKind × Nat) := (j.pendingSnap.toList ++ j.inService.toList).map fun x => (ObjKind.mobj, x.1)

/-- A stopped job's references on what its descriptor lists, dropped once no accepted command names it (R319). -/
def State.dropHold (s : State) : ObjKind × Nat → State
  | (.job, n) => match SMap.find? s.jobs n with
    | some j => if j.holding && j.ended && j.refs = 0 then { s with jobs := SMap.adjust s.jobs n fun x => { x with holding := false } }.refer (· - 1) j.listed else s
    | none => s
  | _ => s

/-- A wait for target t is satisfied (R324). -/
def waitOver (current t : Word64) : Bool := decide ((current - t).toNat < 2 ^ 63)
/-- A signal of value v is accepted (R324). -/
def signalTakes (current v : Word64) : Bool := decide (1 ≤ (v - current).toNat) && decide ((v - current).toNat < 2 ^ 63)

/-- The next command of a queue to start (R313). -/
def State.nextToStart (s : State) (queue : Nat) : Option (Nat × Cmd) :=
  List.find? (fun p : Nat × Cmd => p.2.queue = queue && p.2.state = .waiting) s.commands

/-- Whether a command's wait is over (R324, R326). -/
def State.waitDone (s : State) (c : Cmd) : Bool :=
  !c.waitEn || c.released || ((SMap.find? s.fences c.waitFence).any fun f => waitOver f.value (BitVec.ofNat 64 c.waitValue))

/-- The wait of a queue's next command evaluated as it becomes next (R326): once satisfied it stays so. -/
def State.latchNext (s : State) (queue : Nat) : State := match s.nextToStart queue with
  | some (n, c) => if c.waitEn && s.waitDone c then s.onCmd n fun c => { c with released := true } else s
  | none => s

/-- An accepted command ends with a status and a result (R313, R317, R319): its references are dropped, its completion is
written or held, and its fence is signalled where `signals` says so (R325); the queue's next command may have become next to start
(R326). -/
def State.endCommand (s : State) (n status result : Nat) (signals : Bool) : State :=
  match SMap.find? s.commands n with
  | none => s
  | some c =>
    let s1 := (c.refs.foldl State.dropHold ({ s with commands := SMap.del s.commands n }.refer (· - 1) c.refs)).latchNext c.queue
    let s2 := s1.pushCompletion c.queue ⟨BitVec.ofNat 32 c.id, status, c.overrun, c.late, BitVec.ofNat 64 result, c.irq⟩
    if c.sigEn && signals then { s2 with signals := s2.signals ++ [(c.sigFence, BitVec.ofNat 64 c.sigValue, c.muted)] } else s2

/-- A command that was carried out ends (R313, R325): its fence is signalled unless a fault discards it (0x0D). -/
def State.finish (s : State) (n status : Nat) (result : Nat) : State := s.endCommand n status result (decide (status ≠ 0x0D))

/-- The objects of a command's payload by slot (R319). -/
def Cmd.objects (c : Cmd) : List (ObjKind × Nat) := match c.opcode with
  | 0x07 => [(.mobj, c.pay 0 20)]
  | 0x09 => [(.fence, c.pay 0 16)]
  | 0x0B => [(.image, c.pay 0 12)]
  | 0x0D => [(.coll, c.pay 0 14)]
  | 0x0E => [(.image, c.pay 0 12)]
  | 0x0F | 0x10 => [(.job, c.pay 0 12)]
  | 0x14 => [(.job, c.pay 0 12), (.mobj, c.pay 20 20)]
  | 0x23 | 0x24 => [(.job, c.pay 0 12)]
  | _ => []

/-- The objects a command names by slot (R319), fences included. -/
def Cmd.named (c : Cmd) : List (ObjKind × Nat) :=
  (if c.waitEn then [(.fence, c.waitFence)] else []) ++ (if c.sigEn then [(.fence, c.sigFence)] else []) ++ c.objects

/-- The slot that the entry of a command's rejection names (R459): the queue of QUEUE_DESTROY, else the first object of the payload, else of what
it refers to; 0 where it names none (DEDUCED, notes/assumptions/24.md). -/
def Cmd.slotNamed (c : Cmd) : Nat :=
  if c.opcode = 0x05 then c.pay 0 11 else (((c.objects ++ c.refs.filter fun o => o.1 = .mobj).head?).map Prod.snd).getD 0

/-- An accepted command rejected when it is carried out (R320): its entry, then its completion; it signals nothing (R325). -/
def State.refuse (s : State) (n status result : Nat) : State :=
  match SMap.find? s.commands n with
  | none => s
  | some c => (s.log 0x0140 (some c.atelier) none (some c.ctx) [c.queue, c.id, status, c.slotNamed]).endCommand n status result false

/-- The priority of a command's queue (R338). -/
def State.prioOf (s : State) (q : Nat) : Nat := (SMap.find? s.queues q).elim 0 (·.prio)

/-! ### Half rate -/

/-- The start of a segment or a table request by unit `u`, a DMA engine or a table unit (R366): while PWR_CURB_N is asserted, every
second start a unit has ready is withheld (notes/assumptions/73.md). -/
def State.halfRate (s : State) (u : Nat) (t : State) : State :=
  if !s.power.curb then t
  else if s.flacon.waits.has u then { s with flacon := { s.flacon with waits := s.flacon.waits.drop u } }
  else { t with flacon := { t.flacon with waits := t.flacon.waits.add u } }

/-! ### Transfer tags -/

/-- Tags an atelier holds, and reserved module tags in use (R194). -/
def State.tagsOf (s : State) (a : Nat) : Nat := (s.tags.filter fun p => p.2.atelier = some a).length
/-- An atelier's tag quota (R446). -/
def State.tagQuota (s : State) (a : Nat) : Nat := match s.entry a with
  | some e => 1024 * e.tagq
  | none => 0
/-- The lowest free tag of the atelier's part of the table, where its quota has room (R194, R195). -/
def State.freeTag (s : State) (a : Nat) : Option Nat :=
  if s.tagsOf a < s.tagQuota a then (some (SMap.freeKey s.tags 260096 2048)).filter (· < 262144) else none
/-- A tag taken by an atelier's transfer. -/
def State.takeTag (s : State) (a n engine : Nat) : State := { s with tags := SMap.put s.tags n ⟨some a, (s.lease a).serial, engine⟩ }
/-- The lowest free tag of the 2,048 reserved for the module's own transfers (R194). -/
def State.freeModuleTag (s : State) : Option Nat := some (SMap.freeKey s.tags 2048 0) |>.filter (· < 2048)
/-- A tag taken by a transfer of the module's own. -/
def State.takeModuleTag (s : State) (n engine : Nat) : State := { s with tags := SMap.put s.tags n ⟨none, 0, engine⟩ }
/-- A tag freed. -/
def State.dropTag (s : State) (n : Nat) : State := { s with tags := SMap.del s.tags n }
/-- A tag freed, where one is held. -/
def State.dropTag? (s : State) : Option Nat → State
  | some n => s.dropTag n
  | none => s

/-! ### Address translation -/

/-- Where a far address lies (R186): its object, the kind of memory and the byte address there. -/
structure Place where
  obj : Nat
  gddr : Bool
  addr : Nat
  deriving DecidableEq, Repr, Inhabited

/-- Bytes of a page (R186). -/
def pageSize (gddr : Bool) : Nat := if gddr then 2 ^ 21 else 2 ^ 16
/-- Bytes an object covers. -/
def MObj.size (m : MObj) : Nat := m.pages.length * pageSize m.gddr
/-- Whether an object covers [va, va + n). -/
def MObj.covers (m : MObj) (va n : Nat) : Bool := decide (m.va ≤ va) && decide (va + n ≤ m.va + m.size)
/-- The byte address of an offset of an object (R188). -/
def MObj.phys (m : MObj) (off : Nat) : Nat := (m.pages.getD (off / pageSize m.gddr) 0) * pageSize m.gddr + off % pageSize m.gddr

/-- The object of a context that covers a range, with its slot. -/
def State.objectAt (s : State) (ctx va n : Nat) : Option (Nat × MObj) :=
  List.find? (fun p : Nat × MObj => p.2.ctx = ctx && p.2.covers va n) s.mobjs
/-- Where a far address lies in a context (R186); none outside every memory object. -/
def State.locate (s : State) (ctx va : Nat) : Option Place := (s.objectAt ctx va 1).map fun p => ⟨p.1, p.2.gddr, p.2.phys (va - p.2.va)⟩

/-! ### The protected memory (R398 to R408) -/

/-- Whether the keys of a region are held (R396, R431). -/
def State.keyed (s : State) (g : Nat) : Bool :=
  if inArea g then s.nonce.isSome
  else match s.atelierOfRegion g with
    | some a => (s.lease a).keys.isSome
    | none => false

/-- Whether a region's lease is ending: every read of the region returns poison (R431). -/
def State.leaseEnding (s : State) (g : Nat) : Bool := !inArea g && (s.atelierOfRegion g).any fun a => (s.lease a).state = 3

/-- Whether a GDDR7 line reads as poisoned (R402, R403, R431). -/
def State.lineBad (s : State) (g line : Nat) : Bool :=
  let r := s.root g
  s.leaseEnding g || r.lost.getLsbD (line / 64) || r.written.getLsbD (line / 64) &&
    (SMap.get 0 (s.counter g (line / 64)).minors (line % 64) = 127 || !s.keyed g)

/-- Whether the line at a place is poisoned. -/
def State.placeBad (s : State) (p : Place) : Bool :=
  if p.gddr then s.lineBad (p.addr / 2 ^ 21) (p.addr % 2 ^ 21 / 128) else s.poison.has (p.addr / 64)

/-- A line marked poisoned: minor counter 127 (R402). -/
def State.poisonLine (s : State) (g line : Nat) : State :=
  let c := s.counter g (line / 64)
  s.setCounter g (line / 64) { c with minors := SMap.set 0 c.minors (line % 64) 127 }

/-- A group whose counter block or tree node failed (R403). -/
def State.loseGroup (s : State) (g group : Nat) : State := s.setRoot g { s.root g with lost := (s.root g).lost ||| (1#256 <<< group) }

/-- Whether a line is under the new epoch of a re-key (R407). -/
def RootRecord.below (r : RootRecord) (line : Nat) : Bool := r.rekey && decide (line < r.boundary)
/-- Whether a re-key's boundary stands within a group. -/
def RootRecord.splits (r : RootRecord) (group : Nat) : Bool := r.rekey && r.boundary / 64 = group && r.boundary % 64 ≠ 0
/-- The major counter a line is sealed under (R398, R407). -/
def RootRecord.majorOf (r : RootRecord) (c : CounterBlock) (line : Nat) : BitVec 32 := if r.splits (line / 64) && r.below line then r.fresh else c.major

/-- The counters of group `k` once lines `from_` to `dest` − 1 of its region have passed to the new epoch (R407): minor 0 but of a
poisoned line, and, where the whole group has passed, the major counter of the new epoch (DEDUCED, notes/assumptions/83.md). -/
def CounterBlock.passed (c : CounterBlock) (k from_ dest : Nat) (fresh : BitVec 32) : CounterBlock :=
  ⟨if from_ < 64 * k + 64 && 64 * k + 64 ≤ dest then (if from_ / 64 = k then fresh else 0) else c.major,
   c.minors.filter fun m => m.2 = 127 || !(decide (from_ ≤ 64 * k + m.1) && decide (64 * k + m.1 < dest))⟩

/-- The line at which a re-key stands. -/
def RootRecord.reached (r : RootRecord) : Nat := if r.rekey then r.boundary else 0

/-- Lines of a region re-keyed up to `dest` (R407). -/
def State.passLines (s : State) (g dest : Nat) : State :=
  let r := s.root g
  let at_ := r.reached
  let s1 := { s with counters := (s.counters.map fun (p : Nat × CounterBlock) => if p.1 / 256 = g then (p.1, p.2.passed (p.1 % 256) at_ dest r.fresh) else p).filter fun p => p.2 ≠ CounterBlock.zero }
  s1.setRoot g { r with rekey := true, boundary := dest, fresh := if dest % 64 ≠ 0 && dest / 64 = at_ / 64 then r.fresh else 0 }

/-- Whether a region stands at its last epoch (R408). -/
def RootRecord.last (r : RootRecord) : Bool := r.epoch.toNat + 1 = 65535

/-- A re-key finished, or the region retired (R407, R408). -/
def State.endRekey (s : State) (g : Nat) : State :=
  let r := s.root g
  if r.last then (s.setRoot g { r with retired := true, rekey := false, boundary := 0, fresh := 0 }).noteOf (s.atelierOfRegion g) 0x0224 [g]
  else
    let s1 := s.passLines g 16384
    s1.setRoot g { s1.root g with epoch := r.epoch + 1, rekey := false, boundary := 0, fresh := 0 }

/-- The counters after a whole-line write (R404, R406): the line's minor counter rises, or its group is re-encrypted first. `mine` are
the lines sealed under the same epoch, and `own` says that the block's own major counter is theirs. -/
def CounterBlock.bump (c : CounterBlock) (line : Nat) (mine : Nat → Bool) (own : Bool) : CounterBlock :=
  let m := SMap.get 0 c.minors line
  if m.toNat ≤ 125 then { c with minors := SMap.set 0 c.minors line (m + 1) }
  else ⟨if own then c.major + 1 else c.major, SMap.set 0 (c.minors.filter fun m => m.2 = 127 || !mine m.1) line 1⟩

/-- Whether a write of a line would take its group's major counter past its end (R406, R407). -/
def State.spent (s : State) (g line : Nat) : Bool :=
  let c := s.counter g (line / 64)
  (s.root g).written.getLsbD (line / 64) && decide (125 < (SMap.get 0 c.minors (line % 64)).toNat) && (s.root g).majorOf c line = 0xFFFFFFFF

/-- A line's write counted (R404, R406, R407). -/
def State.bumpLine (s : State) (g line : Nat) : State :=
  let r := s.root g
  let c := s.counter g (line / 64)
  let new := r.splits (line / 64) && r.below line
  let mine := fun i => !r.splits (line / 64) || decide (r.below (64 * (line / 64) + i) = r.below line)
  let s1 := s.setCounter g (line / 64) (c.bump (line % 64) mine (!new))
  let again := new && decide (125 < (SMap.get 0 c.minors (line % 64)).toNat)
  s1.setRoot g { r with written := r.written ||| (1#256 <<< (line / 64)), fresh := if again then r.fresh + 1 else r.fresh }

/-- A line written after the re-key that stood in place of its group's re-encryption (R407): minor 1, poisoned before or not. -/
def State.firstWrite (s : State) (g line : Nat) : State :=
  let c := s.counter g (line / 64)
  s.setCounter g (line / 64) { c with minors := SMap.set 0 c.minors (line % 64) 1 }

/-- A whole-line write (R404): refused in a lost group (R403) and in a retired region (R408). -/
def State.writeLine (s : State) (g line : Nat) (data : Bytes) : State :=
  let r := s.root g
  if r.lost.getLsbD (line / 64) || r.retired then s
  else
    let s1 := if s.spent g line then s.endRekey g else s
    if (s1.root g).retired then s1
    else
      let s2 := if s.spent g line then s1.firstWrite g line else s1.bumpLine g line
      { s2 with gddr := s2.gddr.writeBytes (2 ^ 21 * g + 128 * line) (padTo 128 data) }

/-- A store's state, and the partial writes it could not perform: (region, line) in GDDR7, line numbers in the reservoir. -/
structure Store where
  state : State
  gddrBad : List (Nat × Nat)
  resBad : List Nat

/-- Bytes written within one 128 B line of GDDR7 (R404, R405). -/
def Store.gddrPiece (x : Store) (addr : Nat) (bs : Bytes) : Store :=
  let g := addr / 2 ^ 21
  let line := addr % 2 ^ 21 / 128
  if bs.length = 128 then { x with state := x.state.writeLine g line bs }
  else if x.state.lineBad g line then { x with gddrBad := x.gddrBad ++ [(g, line)] }
  else { x with state := x.state.writeLine g line ((x.state.gddr.writeBytes addr bs).readBytes (addr / 128 * 128) 128) }

/-- Bytes written within one 64 B line of the reservoir (R198). -/
def Store.resPiece (x : Store) (addr : Nat) (bs : Bytes) : Store :=
  if bs.length = 64 then { x with state := { x.state with reservoir := x.state.reservoir.writeBytes addr bs, poison := x.state.poison.drop (addr / 64) } }
  else if x.state.poison.has (addr / 64) then { x with resBad := x.resBad ++ [addr / 64] }
  else { x with state := { x.state with reservoir := x.state.reservoir.writeBytes addr bs } }

/-- A run of bytes cut at the multiples of `n`: (address, bytes); `fuel` bounds the pieces. -/
def cutAt (n : Nat) : Nat → Nat → Bytes → List (Nat × Bytes)
  | 0, _, _ => []
  | _, _, [] => []
  | fuel + 1, a, bs => (a, bs.take (n - a % n)) :: cutAt n fuel (a + (n - a % n)) (bs.drop (n - a % n))

/-- Bytes stored at a far address of a context (R184, R404, R405), piece by piece; pieces outside every object are dropped. -/
def State.store (s : State) (ctx va : Nat) (bs : Bytes) : Store :=
  (cutAt 128 (bs.length / 128 + 2) va bs).foldl (fun x p =>
    match x.state.locate ctx p.1 with
    | none => x
    | some pl =>
      if pl.gddr then x.gddrPiece pl.addr p.2
      else (cutAt 64 3 pl.addr p.2).foldl (fun x q => x.resPiece q.1 q.2) x) ⟨s, [], []⟩

/-- Bytes read at a far address (R402), and the far addresses of the 64 B lines that are poisoned or outside every object. -/
structure Fetched where
  bytes : Bytes
  bad : List Nat

/-- `n` bytes of an unreadable line from an address in it. -/
def unreadable (va n : Nat) : Bytes := slice (leBytes 64 (Config.unreadable (va / 64 * 64)).toNat) (va % 64) n

/-- One piece of a read. -/
def State.fetchPiece (s : State) (ctx va n : Nat) : Fetched :=
  match s.locate ctx va with
  | none => ⟨unreadable va n, [va / 64 * 64]⟩
  | some p =>
    if s.placeBad p then ⟨unreadable va n, [va / 64 * 64]⟩
    else ⟨(if p.gddr then s.gddr else s.reservoir).readBytes p.addr n, []⟩

/-- A run of addresses cut at the multiples of 64: (address, length). -/
def spans : Nat → Nat → Nat → List (Nat × Nat)
  | 0, _, _ => []
  | fuel + 1, a, n => if n = 0 then [] else (a, min n (64 - a % 64)) :: spans fuel (a + min n (64 - a % 64)) (n - min n (64 - a % 64))

/-- Bytes read at a far address of a context. -/
def State.fetch (s : State) (ctx va n : Nat) : Fetched :=
  let ps := (spans (n / 64 + 2) va n).map fun p => s.fetchPiece ctx p.1 p.2
  ⟨ps.flatMap (·.bytes), ps.flatMap (·.bad)⟩

/-- Whether a range lies wholly inside one object of the context and none of its lines is bad. -/
def State.readable (s : State) (ctx va n : Nat) : Bool := (s.objectAt ctx va n).isSome && (s.fetch ctx va n).bad.isEmpty

/-- Whether a write at a place is refused: a retired region (R408). -/
def State.retiredAt (s : State) (p : Place) : Bool := p.gddr && (s.root (p.addr / 2 ^ 21)).retired

/-- Whether a write at a place would retire its region (R408), and so is refused. -/
def State.retires (s : State) (p : Place) : Bool :=
  let g := p.addr / 2 ^ 21
  let line := p.addr % 2 ^ 21 / 128
  p.gddr && !(s.root g).retired && !(s.root g).lost.getLsbD (line / 64) && (s.root g).last && s.spent g line

/-- The region of a place retired, where a write there retires it. -/
def State.retireAt (s : State) (p : Place) : State := if s.retires p then s.endRekey (p.addr / 2 ^ 21) else s

/-- The regions that writing `n` bytes at `va` would retire, retired (R408). -/
def State.retireRun (s : State) (ctx va n : Nat) : State :=
  (spans (n / 64 + 2) va n).foldl (fun s x => (s.locate ctx x.1).toList.foldl State.retireAt s) s

/-- A group's 64 lines written with zeros (R404): nothing in an unwritten, lost or retired one. -/
def State.zeroGroup (s : State) (g group : Nat) : State :=
  let r := s.root g
  if r.written.getLsbD group && !r.lost.getLsbD group && !r.retired then
    (upFrom (64 * group) 64).foldl (fun s line => s.writeLine g line (List.replicate 128 0)) s
  else s

/-- A page written with zeros (R318, R319). -/
def State.zeroPage (s : State) (gddr : Bool) (page : Nat) : State :=
  if gddr then (List.range 256).foldl (fun s k => s.zeroGroup page k) s
  else { s with reservoir := s.reservoir.clear (65536 * page) 65536, poison := s.poison.filter fun l => l / 1024 ≠ page }

/-- A region cleared at the end of a lease (R401, R431): root record at reset, data lines zero. -/
def State.clearRegion (s : State) (g : Nat) : State :=
  { s with gddr := s.gddr.clear (2 ^ 21 * g) (2 ^ 21), counters := s.counters.filter fun p => p.1 / 256 ≠ g }.setRoot g RootRecord.zero

end Sys2Proof.Machine
end

