-- ==== Sys2Proof/Machine/LinkOps.lean ====
section
/-!
DEFINITION. Packets, routes and the keys of sessions (R258, R260, R267, R271, R283, R396): what every sender of packets shares.
-/
namespace Sys2Proof.Machine

/-- The fields of a packet header (R267) but for ctr and tag; info fields are counted from bit 0 of info. -/
def packetHeader (vc ptype nflits src dst lease seq ack : Nat) (info : List (Nat × Nat × Nat)) : Bytes :=
  record 64 ([(0, 2, vc), (2, 4, ptype), (8, 7, nflits), (16, 10, src), (26, 10, dst), (40, 16, lease), (64, 32, seq), (96, 32, ack)] ++
    info.map fun f => (128 + f.1, f.2.1, f.2.2))

/-- Fields of a received header (R267). -/
def Packet.vc (p : Packet) : Nat := bitsIn p.header 0 2
def Packet.ptype (p : Packet) : Nat := bitsIn p.header 2 4
def Packet.cm (p : Packet) : Bool := bitsIn p.header 6 1 = 1
def Packet.ce (p : Packet) : Bool := bitsIn p.header 7 1 = 1
def Packet.nflits (p : Packet) : Nat := bitsIn p.header 8 7
def Packet.src (p : Packet) : Nat := bitsIn p.header 16 10
def Packet.dst (p : Packet) : Nat := bitsIn p.header 26 10
def Packet.lease (p : Packet) : Nat := bitsIn p.header 40 16
def Packet.seq (p : Packet) : Nat := bitsIn p.header 64 32
def Packet.ack (p : Packet) : Nat := bitsIn p.header 96 32
def Packet.info (p : Packet) (lo len : Nat) : Nat := bitsIn p.header (128 + lo) len
def Packet.ctr (p : Packet) : Nat := bitsIn p.header 384 64

/-- The port die of a Darval port (R20). -/
def dieOfPort (p : Nat) : Nat := p / 5
/-- Whether a port is a palette port, a rail port or the bridge port (R20). -/
def isPalettePort (p : Nat) : Bool := p < 15
def isRailPort (p : Nat) : Bool := 15 ≤ p && p < 19

/-- The expected peer's entry of a port (R259, R446). -/
def State.peerEntry (s : State) (p : Nat) : Option PeerEntry := (s.installation.bind fun i => i.peers[p]?).filter (·.en)

/-- The gallery index at the far end of a palette port (R258). -/
def palettePeer (gidx p : Nat) : Nat := 16 * (gidx / 16) + (gidx % 16 + p + 1) % 16

/-- The rail port a packet to palette P_d leaves on (R260): the first that is up in order; the first of all where none is. -/
def State.railPort (s : State) (pd : Nat) : Nat :=
  (((List.range 4).map fun i => 15 + (pd + i) % 4).find? fun p => (s.port p).state = .up).getD (15 + pd % 4)

/-- Whether a peer is reached through rail switches (R258, R260). -/
def State.onRail (s : State) (peer : Nat) : Bool := peer / 16 ≠ s.gidx / 16 && peer % 16 = s.gidx % 16

/-- The port that leads to a peer (R258, R260, R261); none where no port does. -/
def State.route (s : State) (peer : Nat) : Option Nat :=
  if peer / 16 = s.gidx / 16 then (if peer = s.gidx then none else some ((peer % 16 + 15 - s.gidx % 16) % 16))
  else if s.onRail peer then some (s.railPort (peer / 16))
  else match s.peerEntry 19 with
    | some e => if e.peer = peer then some 19 else none
    | none => none

/-- The link lease number of an atelier (R412), 0 without a commission. -/
def State.lnum (s : State) (a : Nat) : Nat := match (s.lease a).commission with
  | some c => c.lnum
  | none => 0

/-- The atelier that holds an active lease of a link lease number (R268, R283). -/
def State.atelierOfLnum (s : State) (n : Nat) : Option Nat :=
  (List.range 16).find? fun a => (s.lease a).state = 2 && s.lnum a = n && n ≠ 0

/-- Whether a port carries a channel (R261, R279): the bridge port has no VC1, a port in version 2 mode VC0 and VC2 alone. -/
def State.carries (s : State) (p vc : Nat) : Bool := (p ≠ 19 || vc ≠ 1) && ((s.port p).version ≠ 2 || vc % 2 = 0)

/-- The transfer tag that a link packet would take (R194, R283): one of its lease's atelier, for lease 0 one of the module's own
(DEDUCED, notes/assumptions/91.md). -/
def State.linkTag (s : State) (lease : Nat) : Option Nat :=
  if lease = 0 then s.freeModuleTag else (s.atelierOfLnum lease).bind s.freeTag
/-- That tag taken. -/
def State.takeLinkTag (s : State) (lease : Nat) : State := match s.linkTag lease, s.atelierOfLnum lease with
  | some t, some a => s.takeTag a t 0x200
  | some t, none => s.takeModuleTag t 0x200
  | none, _ => s

/-- A packet queued for a peer on a channel with its transfer tag (R272, R283), where one is free; dropped where no port leads
there, or that port does not carry the channel. -/
def State.sendPacket (s : State) (peer vc ptype lease : Nat) (info : List (Nat × Nat × Nat)) (payload : Bytes) (seg : Option (Nat × Nat)) : State :=
  match (s.route peer).filter fun p => s.carries p vc with
  | none => s
  | some p =>
    let body := padTo (roundUp payload.length 64) payload
    let w : Waiting := ⟨⟨packetHeader vc ptype (body.length / 64) s.gidx peer lease 0 0 info, body⟩, peer, lease, s.linkTag lease, seg⟩
    let x := s.port p
    (s.takeLinkTag lease).setPort p { x with queues := SMap.set [] x.queues vc (SMap.get [] x.queues vc ++ [w]) }

/-- The command of a query whose reply went to a peer completes once each of its bulk writes is answered (R388). -/
def State.settleReply (s : State) (n : Nat) : State := match SMap.find? s.dmas n with
  | some d => match d.reply with
    | some k => if d.out.all fun g => (SMap.find? d.peer g.index).isSome then { s with dmas := SMap.del s.dmas n }.finish n 0x00 k else s
    | none => s
  | none => s

/-- The result of a bulk write's segment noted in its command (R269). -/
def State.answerSegment (s : State) (seg : Option (Nat × Nat)) (result : Nat) : State := match seg with
  | some (cmd, i) => { s with dmas := SMap.adjust s.dmas cmd fun d => { d with peer := SMap.put d.peer i result } }.settleReply cmd
  | none => s

/-- A packet discarded at the sender (R283, R298): its tag freed, its segment answered with 0x05 (R269). -/
def State.discardWaiting (s : State) (w : Waiting) : State := (s.dropTag? w.tag).answerSegment w.seg 0x05

/-- Packets queued on a channel of a port that a test picks out, discarded. -/
def State.discardAt (s : State) (p vc : Nat) (pick : Waiting → Bool) : State :=
  let x := s.port p
  let q := SMap.get [] x.queues vc
  let s1 := (q.filter pick).foldl State.discardWaiting s
  if q.any pick then s1.setPort p { x with queues := SMap.set [] x.queues vc (q.filter (!pick ·)) } else s1

/-- Packets queued at any port that a test picks out, discarded. -/
def State.discardQueued (s : State) (pick : Waiting → Bool) : State :=
  (List.range 20).foldl (fun s p => (List.range 4).foldl (fun s vc => s.discardAt p vc pick) s) s

/-- Packets of a lease waiting at the ports discarded (R269, R283). -/
def State.dropLeasePackets (s : State) (lease : Nat) : State := s.discardQueued fun w => w.lease = lease

/-- An abort packet to one member (R268, R291). -/
def State.sendAbort (s : State) (peer lease seq reason fprint step : Nat) : State :=
  s.sendPacket peer 1 0x4 lease [(0, 32, seq), (32, 16, reason), (64, 64, fprint), (128, 64, step)] [] none

/-- Abort packets to every other member of a job (R291, R450). -/
def State.abortMembers (s : State) (j : Job) (seq reason fprint step : Nat) : State :=
  (j.members.filter (· ≠ s.gidx)).foldl (fun s m => s.sendAbort m (s.lnum j.atelier) seq reason fprint step) s

/-- dir of R396: 0 for packets from the lower gallery index to the higher. -/
def dirOf (src dst : Nat) : Nat := if src < dst then 0 else 1

/-- A session key K_s,dir (R396). -/
def SessionKeys.key (k : SessionKeys) (dir : Nat) : Bytes := deriveKey k.secret "link session" (k.nonce1 ++ k.nonce2 ++ leBytes 1 dir) 16
/-- A lease subkey K_l,dir (R396). -/
def SessionKeys.sub (k : SessionKeys) (cl : Bytes) (lnum dir : Nat) : Bytes := deriveKey k.secret "link lease" (leBytes 2 lnum ++ leBytes 1 dir ++ cl) 16

/-- The key a packet travels under (R271): none where this end holds no such lease. -/
def State.packetKey (s : State) (k : SessionKeys) (lease src dst : Nat) : Option Bytes :=
  if lease = 0 then some (k.key (dirOf src dst))
  else (s.atelierOfLnum lease).bind fun a => (s.lease a).keys.map fun x => k.sub x.cl lease (dirOf src dst)

/-- The nonce of a packet (R271). -/
def packetNonce (ctr lease src : Nat) : Bytes := leBytes 8 ctr ++ leBytes 2 lease ++ leBytes 2 src

/-- The additional data of a packet (R271): header bytes 0 to 47 with cm read as 0. -/
def packetAad (h : Bytes) : Bytes := BitVec.ofNat 8 ((h.getD 0 0).toNat % 64 + (h.getD 0 0).toNat / 128 * 128) :: slice h 1 47

end Sys2Proof.Machine
end

