-- ==== Sys2Proof/Machine/Rows.lean ====
section
/-!
DEFINITION. A table request's fields and its rejection (R167, R168), and the rows of a scatter-add (R170); what the discard of a
scatter-add leaves of its rows (R173).
-/
namespace Sys2Proof.Machine

/-- Fields of a table request (R167). -/
def reqField (l : Bytes) (lo len : Nat) : Nat := bitsIn l lo len
def reqTable (l : Bytes) : Nat := reqField l 0 48
def reqIndex (l : Bytes) : Nat := reqField l 64 48
def reqRows (l : Bytes) : Nat := reqField l 128 32
/-- Lines of a row: rlines + 1. -/
def reqLines (l : Bytes) : Nat := reqField l 160 4 + 1
/-- Indices in the list: count + 1. -/
def reqCount (l : Bytes) : Nat := reqField l 164 12 + 1
def reqOp (l : Bytes) : Nat := reqField l 176 2
def reqChan (l : Bytes) : Nat := reqField l 178 4
def reqFmt (l : Bytes) : Nat := reqField l 182 4
def reqWide (l : Bytes) : Bool := reqField l 186 1 = 1
def reqRtz (l : Bytes) : Bool := reqField l 187 1 = 1
def reqAddr2 (l : Bytes) : Nat := reqField l 192 48
def reqTag (l : Bytes) : Nat := reqField l 256 32

/-- Whether a format is one a scatter-add takes (R168). -/
def scatterFmt (f : Nat) : Bool := f = 0x0 || f = 0x1 || f = 0x2 || f = 0xB

/-- Lines of a contribution (R167). -/
def contribLines (l : Bytes) : Nat := if reqWide l then 2 * reqLines l else reqLines l

/-- Whether a range may be written: no object marked ro, no retired region (R168, R408). -/
def State.mayWrite (s : State) (ctx va n : Nat) : Bool :=
  match s.objectAt ctx va n with
  | some (_, m) => !m.ro && !(m.gddr && (List.range (m.pages.length)).any fun k =>
      decide (m.va + k * 2 ^ 21 < va + n) && decide (va < m.va + (k + 1) * 2 ^ 21) && (s.root (m.pages.getD k 0)).retired)
  | none => false

/-- A table row stored wholly or not at all (R170, R408): not where a region of it is retired, nor where the write would retire one, which
it then does. -/
def State.storeWhole (s : State) (ctx va : Nat) (bs : Bytes) : Store :=
  let x := s.store ctx va bs
  if !s.mayWrite ctx va bs.length then ⟨s, [], []⟩
  else if x.state.mayWrite ctx va bs.length then x
  else ⟨s.retireRun ctx va bs.length, [], []⟩

/-- A request's reject code, the first of R168's table; 0 where none applies. `ranges` are those whose reads it checks. -/
def State.tableReject (s : State) (ctx : Nat) (l : Bytes) (index : Bool) : Nat :=
  let op := reqOp l
  let gather := op = 0 || op = 1
  let reserved := reqField l 48 16 ≠ 0 || reqField l 112 16 ≠ 0 || reqField l 188 4 ≠ 0 || reqField l 240 16 ≠ 0
  let size2 := if op = 1 then 64 * reqCount l * reqLines l else 64 * reqCount l * contribLines l
  let inside := fun a n => (s.objectAt ctx a n).isSome
  if reserved || (index && reqField l 288 224 ≠ 0) || op = 3 || reqRows l = 0 || (gather && (reqFmt l ≠ 0 || reqWide l || reqRtz l)) ||
      (op = 0 && reqAddr2 l ≠ 0) || (reqWide l && (reqFmt l = 0x0 || reqFmt l = 0xB)) then 0x01
  else if op = 0 && 63 < reqCount l * reqLines l then 0x02
  else if reqTable l % 64 ≠ 0 || reqIndex l % 4 ≠ 0 || reqAddr2 l % 64 ≠ 0 then 0x03
  else if !inside (reqTable l) (64 * reqRows l * reqLines l) || (index && !inside (reqIndex l) (4 * reqCount l)) ||
      (index && op ≠ 0 && !inside (reqAddr2 l) size2) then 0x04
  else if (op = 1 && !s.mayWrite ctx (reqAddr2 l) size2) || (op = 2 && !s.mayWrite ctx (reqTable l) (64 * reqRows l * reqLines l)) then 0x05
  else if op = 2 && !scatterFmt (reqFmt l) then 0x06
  else 0

/-- The index list (R169). -/
def State.indices (s : State) (ctx : Nat) (l : Bytes) : List Nat :=
  let bs := (s.fetch ctx (reqIndex l) (4 * reqCount l)).bytes
  (List.range (reqCount l)).map fun i => leAt bs (4 * i) 4

/-- An element of a row after a scatter-add: the stored value plus the exact sum, rounded once (R170). -/
def scatterElem (f g : Fmt) (rtz : Bool) (old : Nat) (adds : List Nat) : Nat :=
  if f = .int32 then unsignedOf 32 (clampInt (-(2 ^ 31 : Int)) (2 ^ 31 - 1) (signedOf 32 old + (adds.map (signedOf 32)).sum))
  else f.pack (if rtz then .zero else .near) ((adds.map (decode g)).foldl XReal.add (decode f old))

/-- A row updated from the contributions to it, each a list of element codes (R170). -/
def scatterRow (f g : Fmt) (rtz : Bool) (bytes : Bytes) (adds : List (List Nat)) : Bytes :=
  let n := 8 * bytes.length / f.width
  let old := unpackElems f.width n bytes
  packElems f.width ((List.range n).map fun i => scatterElem f g rtz (old.getD i 0) (adds.map fun a => a.getD i 0))

/-- Whether a far line lies in a lost group (R403): its verification fails at the read. -/
def State.lostAt (s : State) (ctx va : Nat) : Option (Nat × Nat) := match s.locate ctx va with
  | some p => if p.gddr && (s.root (p.addr / 2 ^ 21)).lost.getLsbD (p.addr % 2 ^ 21 / 8192) then some (p.addr / 2 ^ 21, p.addr % 2 ^ 21 / 128) else none
  | none => none

/-- A contribution's element codes (R167, R170). -/
def State.contributionCodes (s : State) (ctx : Nat) (l : Bytes) (g : Fmt) (j : Nat) : List Nat :=
  let n := 64 * contribLines l
  unpackElems g.width (8 * n / g.width) (s.fetch ctx (reqAddr2 l + n * j) n).bytes

/-- Rows of a discarded scatter-add (R173): each is wholly updated or untouched, and which of the two is a free value. -/
def State.leaveSome (s : State) (r : TableReq) (rows : List Nat) : State :=
    let l := r.line
    let f := (Fmt.ofCode (reqFmt l)).getD .fp32
    let g := if reqWide l then .fp32 else f
    let idx := s.indices r.ctx l
    let size := 64 * reqLines l
    rows.foldl (fun t i =>
      let va := reqTable l + size * i
      let got := t.fetch r.ctx va size
      let adds := ((List.range idx.length).filter fun j => idx.getD j 0 = i).map (t.contributionCodes r.ctx l g)
      let u := { t with freed := t.freed + 1 }
      if (Config.freeValue t.freed).getLsbD 0 && got.bad.isEmpty && (List.range (reqLines l)).all fun k => (t.lostAt r.ctx (va + 64 * k)).isNone then
        (u.storeWhole r.ctx va (scatterRow f g (reqRtz l) got.bytes adds)).state
      else u) s

/-- The rows a scatter-add updates, in the order of their first index (R170, R171). -/
def State.rowsOf (s : State) (ctx : Nat) (l : Bytes) : List Nat := (s.indices ctx l).eraseDups.filter fun i => decide (i < reqRows l)

/-- A discarded scatter-add that has not begun (R173). -/
def State.leaveRows (s : State) (r : TableReq) : State :=
  if reqOp r.line ≠ 2 || s.tableReject r.ctx r.line true ≠ 0 then s else s.leaveSome r (s.rowsOf r.ctx r.line)

end Sys2Proof.Machine
end

