-- ==== Sys2Proof/Machine/Faults.lean ====
section
/-!
DEFINITION. Atelier faults, module faults, the discard rule, the erasure of keys and the stop of all work (R433, R448 to
R454, R473): each one shared operation.
-/
namespace Sys2Proof.Machine

/-- A core stopped at once, its run-ahead cancelled (R450). -/
def Core.halted (c : Core) : Core := { c with run := .idle, staged := [] }

/-- Every core of an atelier changed. -/
def State.onCores (s : State) (a : Nat) (f : Core → Core) : State :=
  (s.cores.map Prod.fst).foldl (fun s n => if s.holds a n then s.setCore n (f (s.core n)) else s) s

/-- The steps a running JOB_RUN has brought to outcomes other than fault (R332): its result in every completion. -/
def State.stepsDone (s : State) (n : Nat) : Nat :=
  ((List.find? (fun p : Nat × Job => p.2.command = some n) s.jobs).map fun p => p.2.done).getD 0

/-- Every accepted command of an atelier that has not completed is discarded with status 0x0D (R450, R431), but `keep`. -/
def State.discardCommands (s : State) (a : Nat) (keep : Option Nat) : State :=
  ((s.commands.filter fun p => p.2.atelier = a && some p.1 ≠ keep).map Prod.fst).foldl (fun s n => s.finish n 0x0D (s.stepsDone n)) s

/-- Whether a job's step is under way (R450). -/
def Job.underWay (j : Job) : Bool := (j.run.any fun r => r.launched) && !j.serving

/-- The abort packets of step 3 of R450, for every running collective and the seal of every step under way of an atelier, decided or not. -/
def State.abortWork (s : State) (a code : Nat) : State :=
  let s1 := s.collectives.foldl (fun s c =>
    match SMap.find? s.jobs c.job with
    | some j => if j.atelier = a && c.launched.isSome && !c.complete then s.abortMembers j c.seq code c.fprint c.step else s
    | none => s) s
  let s2 := s1.jobs.foldl (fun s p =>
    match p.2.run with
    | some r => if p.2.atelier = a && p.2.underWay then s.abortMembers p.2 0xFFFFFFF0 code 0 r.step else s
    | none => s) s1
  { s2 with collectives := s2.collectives.filter fun c => (SMap.find? s2.jobs c.job).all fun j => j.atelier ≠ a }

/-- Chunks of an atelier held in the reduction engines dropped, with what the engines keep of those taken in (R450). -/
def State.dropChunks (s : State) (a : Nat) : State :=
  let mine := fun (h : HandOver) => (SMap.find? s.jobs h.job).any fun j => j.atelier = a
  let ofJob := fun (k : List Nat) => (SMap.find? s.jobs (k.headD 0)).any fun j => j.atelier = a
  { s with reductions := s.reductions.map fun p => (p.1, ({ p.2 with arrivals := p.2.arrivals.filter (!mine ·), inputs := p.2.inputs.filter (fun h => !mine h.input), accepted := p.2.accepted.filter (!ofJob ·) } : Reduction)) }

/-- A sequence-table entry's place (R374, R382). -/
def Job.seqEntry (j : Job) (i : Nat) : Nat := bitsIn j.block 224 48 + 64 * i
/-- How many sequences a serving job has (R374). -/
def Job.maxseq (j : Job) : Nat := bitsIn j.block 208 13

/-- Every live sequence of a serving job enters state 2 (R450). -/
def State.breakAll (s : State) (j : Job) : State :=
  if j.serving then
    (List.range j.maxseq).foldl (fun s i =>
      let e := (s.fetch j.ctx (j.seqEntry i) 64).bytes
      if bitsIn e 0 2 = 1 then (s.store j.ctx (j.seqEntry i) (leBytes 1 (leAt e 0 1 / 4 * 4 + 2) ++ slice e 1 63)).state else s) s
  else s

/-- Held queries and passes discarded, sequences broken (R450). -/
def State.discardServing (s : State) (a : Nat) : State :=
  let s1 := (s.jobs.filter fun p => p.2.atelier = a).foldl (fun s p => s.breakAll p.2) s
  { s1 with serving := { s1.serving with held := s1.serving.held.filter fun q => q.atelier ≠ a, passes := s1.serving.passes.filter fun q => q.atelier ≠ a },
            opened := s1.opened.filter fun q => q.atelier ≠ a }

/-- A job stopped by a fault (R450): unsound where its step was under way. -/
def Job.discarded (j : Job) : Job :=
  { j with unsound := j.unsound || j.underWay, run := if j.underWay then none else j.run, running := false, stopping := none, command := none, resident := false, switching := false }

/-- DMA segments of an atelier ended (R450): the commands are gone; what is out keeps its tag until the drain, what is held for an unopened
parcel goes with its tag. -/
def State.dropSegments (s : State) (a : Nat) : State :=
  let mine := fun (g : Segment) => (SMap.find? s.dmas g.cmd).any fun d => d.atelier = a
  let held := s.dmas.flatMap fun (p : Nat × DmaRun) => if p.2.atelier = a then p.2.kept else []
  let s1 := held.foldl (fun s g => s.dropTag? g.tag) s
  { s1 with tagWaits := s.tagWaits.filter (!mine ·), dmas := (s.dmas.map fun (p : Nat × DmaRun) => if p.2.atelier = a then (p.1, ({ p.2 with todo := [], kept := [] } : DmaRun)) else p).filter fun p => !(p.2.atelier = a && p.2.out.all (·.tag.isNone)) }

/-- Requests of other ateliers. -/
def keepRequests (a : Nat) (t : SMap (List TableReq)) : SMap (List TableReq) :=
  List.filter (fun p => !p.2.isEmpty) (List.map (fun (p : Nat × List TableReq) => (p.1, p.2.filter fun r => r.atelier ≠ a)) t)

/-- Table requests of an atelier that have not completed are dropped (R173, R450). -/
def State.dropRequests (s : State) (a : Nat) : State :=
  let gone := s.scatters.flatMap fun (p : Nat × List TableReq) => p.2.filter fun r => r.atelier = a
  gone.foldl State.leaveRows { s with gathers := keepRequests a s.gathers, scatters := keepRequests a s.scatters }

/-- The discard rule in one atelier (R450). -/
def State.discard (s : State) (a code : Nat) : State :=
  let s1 := (s.onCores a Core.halted).discardCommands a none
  let s2 := (((s1.abortWork a code).dropChunks a).dropSegments a).dropRequests a
  let s3 := s2.discardServing a
  let s4 := { s3 with jobs := s3.jobs.map fun (p : Nat × Job) => if p.2.atelier = a then (p.1, p.2.discarded) else p }
  { s4 with reservations := s4.reservations.filter fun n => (SMap.find? s4.commands n).isSome }

/-- An atelier fault (R448 to R451): its entry first; then, unless the atelier is faulted already or its lease is ending, the
discard rule, and the atelier is faulted until ATELIER_RESET. -/
def State.faultAtelier (s : State) (a code : Nat) (step ctx : Option Nat) (handles : List Nat) : State :=
  let index := s.blotter.next
  let s1 := s.log code (some a) step ctx handles
  if (s.atelier a).faulted || (s.lease a).state = 3 || s.mstate = 3 then s1
  else
    let s2 := s1.setAtelier a { s1.atelier a with faulted := true, draining := some (s.time + BitVec.ofNat 64 (10 * ticksMs)), fcode := BitVec.ofNat 16 code, findex := index }
    s2.discard a code

/-- Partial writes that could not be performed: an atelier fault for each GDDR7 line (R405). -/
def Store.settle (x : Store) : State :=
  x.gddrBad.foldl (fun s p => match s.atelierOfRegion p.1 with
    | some a => (s.poisonLine p.1 p.2).faultAtelier a 0x0421 none none [p.1, p.2]
    | none => s) x.state

/-- The keys of one lease erased (R431 step 2): keys, shares and any wrapping key. -/
def Lease.erased (l : Lease) : Lease := { l with keys := Option.none, shares := [], wrapKey := 0, wrapPub := [] }

/-- What the erasure of a lease's keys means on the links (R431 step 2, R283): its packets that are queued are discarded, and those that
arrive are known as its. A lease without keys has none: packets of its link lease number are another's. -/
def State.forgetLease (s : State) (l : Lease) (lnum : Nat) : State :=
  if l.keys.isSome then { s with erasedLeases := s.erasedLeases.add lnum }.dropLeasePackets lnum else s

/-- The in-band interrupt of a change of mstate, FAULT_N or the fault code (R485): its data byte is SB_STATE[7:0]. -/
def announce (old new : State) : State :=
  if (old.installation.any fun i => i.ibi) && new.sideband.enabled &&
      (old.mstate ≠ new.mstate || old.power.faultN ≠ new.power.faultN || old.fcode ≠ new.fcode) then
    { new with sideband := { new.sideband with raised := new.sideband.raised ++ [BitVec.ofNat 8 (new.mstate + 16 * new.phase)] } }
  else new

/-- The drain of an atelier's tags begun (R450 step 4, R431 step 3): 10 ms at most; one under way goes on. -/
def State.beginDrain (s : State) (a : Nat) : State :=
  if (s.atelier a).draining.isSome then s
  else s.setAtelier a { s.atelier a with draining := some (s.time + BitVec.ofNat 64 (10 * ticksMs)) }

/-- One atelier in a module fault (R454): the discard rule with its drain, the keys of its lease erased, and a reset of it that is
running at an end (R452: result 0x05). -/
def State.faultWith (s : State) (code a : Nat) : State :=
  let s1 := (s.discard a code).beginDrain a
  let s2 := (s1.forgetLease (s1.lease a) (s1.lnum a)).setLease a (s1.lease a).erased
  s2.setAtelier a { s2.atelier a with resetting := none }

/-- A control command that is running as a module fault ends it (R452, R454): result 0x05. -/
def HostFn.failed (f : HostFn) : HostFn := if f.go then { f with go := false, result := 0x05, runs := none } else f

/-- A module fault (R454). -/
def State.faultModule (s : State) (code : Nat) (handles : List Nat) : State :=
  let s1 := s.note code handles
  let s2 := (List.range s1.nat).foldl (fun s a => s.faultWith code a) s1
  announce s { s2 with mstate := 3, fcode := BitVec.ofNat 16 code, power := { s2.power with faultN := true, curb := false }
                       functions := s2.functions.map fun f => (f.1, f.2.failed) }

/-- Every volatile key erased (R397). -/
def State.eraseKeys (s : State) : State :=
  { s with nonce := none, unwrapped := false, leases := s.leases.map fun p => (p.1, p.2.erased), sessions := [], testPort := { s.testPort with challenge := none } }

/-- The sideband after a reset (R9, R487): its registers at their reset values; its bus address and its pending interrupts stay. -/
def Sideband.afterReset (x : Sideband) : Sideband :=
  { x with op := 0, bank := false, go := false, pageOffset := 0, result := 0, check := 0, task := none }

/-- What survives the stop of all work and a boot: time, the model's counters, fuses, flash, pins and detectors, the count of PWR_CURB_N since
power-up (R369), the sideband's bus, the debug session and what has already left the module. Everything else stands as State.reset
has it (R9). -/
def State.stopped (s : State) (m : Nat) : State :=
  { State.reset with pending := s.pending, time := s.time, drawn := s.drawn, freed := s.freed, power := { s.power with readings := Readings.zero }, mstate := m
                     tamperFuse := s.tamperFuse, tamperCount := s.tamperCount, debugCount := s.debugCount, flashA := s.flashA, flashB := s.flashB, flashBroken := s.flashBroken, flacon := { Flacon.reset with curbs := s.flacon.curbs, curbAt := s.flacon.curbAt }
                     testPort := { s.testPort with challenge := none }, sideband := s.sideband.afterReset, hostOut := s.hostOut
                     pcie := s.pcie.map fun p => (p.1, ({ p.2 with up := false, answered := false } : PciePort)) }

end Sys2Proof.Machine
end

