-- ==== Sys2Proof/Machine/Sm2.lean ====
section
/-!
DEFINITION. SM2 (GB/T 32918), which the spec names for the ground image (R442), link sessions (R282, R420, R421), commissions,
shares and provenance (R410, R413, R429), exhibits (R428) and debug tokens (R436), in the byte order and sizes of R393.
PRESUMED: curve and algorithms are the standard's, whose text the spec does not hold; the user identifier that goes into a
signature's digest is a constant of Config, because the spec names none.
-/
namespace Sys2Proof

/-! ### The field and the curve -/

/-- The field's prime, the curve's coefficients, the base point and its order, of the standard's recommended curve. -/
def sm2Prime : Nat := 0xFFFFFFFEFFFFFFFFFFFFFFFFFFFFFFFFFFFFFFFF00000000FFFFFFFFFFFFFFFF
def sm2CoeffA : Nat := sm2Prime - 3
def sm2CoeffB : Nat := 0x28E9FA9E9D9F5E344D5A9E4BCF6509A7F39789F515AB8F92DDBCBD414D940E93
def sm2Order : Nat := 0xFFFFFFFEFFFFFFFFFFFFFFFFFFFFFFFF7203DF6B21C6052B53BBF40939D54123
def sm2BaseX : Nat := 0x32C4AE2C1F1981195F9904466A39C9948FE30BBFF2660BE1715A4589334C74C7
def sm2BaseY : Nat := 0xBC3736A2F4F6779C59BDCEE36B692153D0A9877CC62A474002DF32E52139F0A0

/-- A power modulo `m`, of an exponent of at most `n` bits. -/
def powMod (m b : Nat) : Nat → Nat → Nat
  | 0, _ => 1
  | n + 1, e =>
    let h := powMod m b n (e / 2)
    if e % 2 = 1 then h * h % m * b % m else h * h % m

/-- The inverse modulo a prime below 2^256. -/
def invMod (m x : Nat) : Nat := powMod m x 256 (m - 2)

/-- A difference in the field. -/
def fieldSub (a b : Nat) : Nat := (a + sm2Prime - b % sm2Prime) % sm2Prime

/-- A point in Jacobian coordinates: (x / z², y / z³), the point at infinity where z is 0. -/
structure JacPoint where
  x : Nat
  y : Nat
  z : Nat
  deriving DecidableEq, Repr

def JacPoint.infinity : JacPoint := ⟨1, 1, 0⟩
def JacPoint.base : JacPoint := ⟨sm2BaseX, sm2BaseY, 1⟩

/-- Twice a point. -/
def JacPoint.double (q : JacPoint) : JacPoint :=
  let yy := q.y * q.y % sm2Prime
  let zz := q.z * q.z % sm2Prime
  let s := 4 * q.x * yy % sm2Prime
  let m := 3 * fieldSub q.x zz * (q.x + zz) % sm2Prime
  let x := fieldSub (m * m) (2 * s)
  ⟨x, fieldSub (m * fieldSub s x) (8 * yy * yy), 2 * q.y * q.z % sm2Prime⟩

/-- The sum of two points. -/
def JacPoint.add (q r : JacPoint) : JacPoint :=
  if q.z = 0 then r
  else if r.z = 0 then q
  else
    let qz := q.z * q.z % sm2Prime
    let rz := r.z * r.z % sm2Prime
    let u := q.x * rz % sm2Prime
    let v := q.y * rz * r.z % sm2Prime
    let h := fieldSub (r.x * qz) u
    let k := fieldSub (r.y * qz * q.z) v
    if h = 0 then (if k = 0 then q.double else .infinity)
    else
      let hh := h * h % sm2Prime
      let w := u * hh % sm2Prime
      let x := fieldSub (fieldSub (k * k) (hh * h)) (2 * w)
      ⟨x, fieldSub (k * fieldSub w x) (v * hh * h), h * q.z * r.z % sm2Prime⟩

/-- A multiple of a point, by a number of at most `n` bits. -/
def JacPoint.times (q : JacPoint) : Nat → Nat → JacPoint
  | 0, _ => .infinity
  | n + 1, k =>
    let h := (JacPoint.times q n (k / 2)).double
    if k % 2 = 1 then h.add q else h

/-- The coordinates of a point; none at infinity. -/
def JacPoint.affine (q : JacPoint) : Option (Nat × Nat) :=
  if q.z = 0 then none
  else
    let i := invMod sm2Prime q.z
    some (q.x * i * i % sm2Prime, q.y * i * i * i % sm2Prime)

/-- A multiple by a number below 2^256, as coordinates. -/
def JacPoint.multiple (q : JacPoint) (k : Nat) : Option (Nat × Nat) := (q.times 256 k).affine

/-! ### Keys and what goes into a digest -/

/-- 32 bytes of a number, and of a point, in the standard's order (R393). -/
def be32 (x : Nat) : Bytes := beBytes 32 x
def pointBytes (p : Nat × Nat) : Bytes := be32 p.1 ++ be32 p.2

/-- The point of a public key (R393); none off the curve. -/
def sm2PointOf (key : BitVec 512) : Option JacPoint :=
  let x := key.toNat / 2 ^ 256
  let y := key.toNat % 2 ^ 256
  if x < sm2Prime && y < sm2Prime && y * y % sm2Prime = (x * x * x + sm2CoeffA * x + sm2CoeffB) % sm2Prime then some ⟨x, y, 1⟩ else none

/-- The private key that 256 bits stand for: themselves where the standard allows them. -/
def sm2Private (d : BitVec 256) : Nat := if 1 ≤ d.toNat && d.toNat ≤ sm2Order - 2 then d.toNat else d.toNat % (sm2Order - 2) + 1

/-- The random number of a signature, an encryption or an exchange that 256 bits stand for. -/
def sm2Nonce (k : BitVec 256) : Nat := if 1 ≤ k.toNat && k.toNat < sm2Order then k.toNat else k.toNat % (sm2Order - 1) + 1

/-- The public key of a private key. -/
def sm2Public (d : BitVec 256) : BitVec 512 :=
  let p := (JacPoint.base.multiple (sm2Private d)).getD (0, 0)
  BitVec.ofNat 512 (p.1 * 2 ^ 256 + p.2)

/-- Z of a user: the digest of its identifier, the curve and its public key. -/
def sm2User (ident : Bytes) (key : BitVec 512) : Bytes :=
  sm3 (beBytes 2 (8 * ident.length) ++ ident ++ be32 sm2CoeffA ++ be32 sm2CoeffB ++ be32 sm2BaseX ++ be32 sm2BaseY ++ beBytes 64 key.toNat)

/-- The number signed: the digest of Z and the message. -/
def sm2Digest (ident : Bytes) (key : BitVec 512) (msg : Bytes) : Nat := ofBe (sm3 (sm2User ident key ++ msg))

/-- The standard's key derivation: blocks numbered from 1. -/
def sm2Derive (z : Bytes) (n : Nat) : Bytes := ((List.range ((n + 31) / 32)).flatMap fun i => sm3 (z ++ beBytes 4 (i + 1))).take n

/-! ### Signatures (GB/T 32918.2) -/

/-- Whether a signature of a message verifies under a public key, for a user identifier. -/
def sm2VerifyAs (ident : Bytes) (key sig : BitVec 512) (msg : Bytes) : Bool :=
  let r := sig.toNat / 2 ^ 256
  let s := sig.toNat % 2 ^ 256
  let t := (r + s) % sm2Order
  match sm2PointOf key with
  | none => false
  | some q =>
    if r = 0 || sm2Order ≤ r || s = 0 || sm2Order ≤ s || t = 0 then false
    else match ((JacPoint.base.times 256 s).add (q.times 256 t)).affine with
      | none => false
      | some p => (sm2Digest ident key msg + p.1) % sm2Order = r

/-- The two halves of a signature with a random number, where the standard takes them. -/
def sm2Halves (d e k : Nat) : Option (Nat × Nat) :=
  let x := ((JacPoint.base.multiple k).getD (0, 0)).1
  let r := (e + x) % sm2Order
  let s := invMod sm2Order (1 + d) * (k + (sm2Order - r) * d) % sm2Order
  if r = 0 || r + k = sm2Order || s = 0 then none else some (r, s)

/-- A signature of a message: the first random number from the drawn one on that the standard takes. -/
def sm2SignAs (ident : Bytes) (d : BitVec 256) (msg : Bytes) (draw : BitVec 256) : BitVec 512 :=
  let e := sm2Digest ident (sm2Public d) msg
  match (List.range 4).findSome? fun i => sm2Halves (sm2Private d) e (sm2Nonce (draw + BitVec.ofNat 256 i)) with
  | some p => BitVec.ofNat 512 (p.1 * 2 ^ 256 + p.2)
  | none => 0

/-- Signatures of the module's own kind: under the identifier of Config. -/
def sm2Verify (key sig : BitVec 512) (msg : Bytes) : Bool := sm2VerifyAs Config.sm2Ident key sig msg
def sm2Sign (d : BitVec 256) (msg : Bytes) (draw : BitVec 256) : BitVec 512 := sm2SignAs Config.sm2Ident d msg draw

/-! ### Encryption (GB/T 32918.4) -/

/-- C3 of a plaintext under a shared point. -/
def sm2Check (p : Nat × Nat) (text : Bytes) : Bytes := sm3 (be32 p.1 ++ text ++ be32 p.2)

/-- An encryption, C1 ‖ C3 ‖ C2 (R393); none to a key off the curve. -/
def sm2Encrypt (key : BitVec 512) (text : Bytes) (draw : BitVec 256) : Option Bytes :=
  let k := sm2Nonce draw
  (sm2PointOf key).map fun q =>
    let p := (q.multiple k).getD (0, 0)
    0x04#8 :: pointBytes ((JacPoint.base.multiple k).getD (0, 0)) ++ sm2Check p text ++ List.zipWith (· ^^^ ·) text (sm2Derive (pointBytes p) text.length)

/-- A decryption; none where the ciphertext is not one of this key's. -/
def sm2Decrypt (d : BitVec 256) (b : Bytes) : Option Bytes :=
  if b.length < 97 || b.headD 0 ≠ 0x04#8 then none
  else match (sm2PointOf (BitVec.ofNat 512 (ofBe (slice b 1 64)))).bind fun q => q.multiple (sm2Private d) with
    | none => none
    | some p =>
      let mask := sm2Derive (pointBytes p) (b.length - 97)
      let text := List.zipWith (· ^^^ ·) (b.drop 97) mask
      if (97 < b.length && mask.all (· = 0#8)) || sm2Check p text ≠ slice b 65 32 then none else some text

/-! ### Key exchange (GB/T 32918.3) -/

/-- What an ephemeral point's x-coordinate gives: its low 127 bits under a leading one. -/
def sm2Reduced (x : Nat) : Nat := 2 ^ 127 + x % 2 ^ 127

/-- One end's key exchange with klen 256 (R421): whether this end is user A, its static and ephemeral private keys, the peer's
static and ephemeral public keys, the identifiers of A and B; none where a point is off the curve or the exchange fails. -/
def sm2Exchange (isA : Bool) (own eph : BitVec 256) (peer peerEph : BitVec 512) (idA idB : Bytes) : Option Bytes :=
  let r := sm2Nonce eph
  match JacPoint.base.multiple r, sm2PointOf peer, sm2PointOf peerEph with
  | some e, some q, some f =>
    let t := (sm2Private own + sm2Reduced e.1 * r) % sm2Order
    match ((q.add (f.times 256 (sm2Reduced f.x))).times 256 t).affine with
    | none => none
    | some p =>
      let mine := sm2Public own
      let z := if isA then sm2User idA mine ++ sm2User idB peer else sm2User idA peer ++ sm2User idB mine
      some (sm2Derive (pointBytes p ++ z) 32)
  | _, _, _ => none

/-- The public halves of the module's fused key pairs (R392). -/
def linkPublic : BitVec 512 := sm2Public Config.linkPrivate
def attestPublic : BitVec 512 := sm2Public Config.attestPrivate

end Sys2Proof
end

