-- ==== Sys2Proof/Machine/Ground.lean ====
section
/-!
DEFINITION. The ground image: bank headers, sections, the installation section and the canvas tables, with their checks
(R370, R371, R440 to R447).
-/
namespace Sys2Proof.Machine

/-- Bytes of a bank (R440): the flash memories hold each byte complemented. -/
def bankBytes (m : Memory) (off n : Nat) : Bytes := (m.readBytes off n).map fun b => ~~~b
/-- A bank memory holding an image from its first byte. -/
def bankOf (image : Bytes) : Memory := Memory.writeBytes [] 0 (image.map fun b => ~~~b)

/-- A section-table entry (R441). -/
structure Section where
  kind : Nat
  off : Nat
  len : Nat
  digest : Bytes
  sig : Bytes
  deriving DecidableEq, Repr, Inhabited

/-- Section-table entry `i` of an image. -/
def sectionOf (image : Bytes) (i : Nat) : Section :=
  let e := slice image (256 + 128 * i) 128
  ⟨bitsIn e 0 8, leAt e 4 4, leAt e 8 4, slice e 16 32, slice e 48 64⟩

/-- The sections of an image. -/
def sections (image : Bytes) : List Section := (List.range (bitsIn image 48 8)).map (sectionOf image)
/-- The section of a type. -/
def sectionNamed (image : Bytes) (kind : Nat) : Option Section := (sections image).find? fun x => x.kind = kind

/-- Whether no two of a list of (first, count) ranges overlap. -/
def disjoint : List (Nat × Nat) → Bool
  | [] => true
  | r :: rs => rs.all (fun q => decide (r.1 + r.2 ≤ q.1) || decide (q.1 + q.2 ≤ r.1) || r.2 = 0 || q.2 = 0) && disjoint rs

/-- A slot entry of a canvas table (R370). -/
structure CanvasSlot where
  start : Nat
  deadline : Nat
  cls : Nat
  maxq : Nat
  clean : Bool
  deriving DecidableEq, Repr, Inhabited

/-- The fields of a canvas table (R370). -/
def canvasPeriod (t : Bytes) : Nat := bitsIn t 0 20
def canvasSlots (t : Bytes) : Nat := if t.isEmpty then 0 else bitsIn t 20 7
def canvasMask (t : Bytes) : Nat := bitsIn t 32 48
def classMask (t : Bytes) (c : Nat) : Nat := bitsIn t (128 + 64 * c) 48
def canvasSlot (t : Bytes) (i : Nat) : CanvasSlot :=
  let e := slice t (144 + 8 * i) 8
  ⟨bitsIn e 0 20, bitsIn e 20 20, bitsIn e 40 4, bitsIn e 44 12 + 1, bitsIn e 56 8 = 0⟩

/-- Whether a canvas table keeps R370 and R371; `q` is the atelier's quadrant mask. -/
def canvasValid (t : Bytes) (q : Nat) : Bool :=
  let n := canvasSlots t
  let slots := (List.range n).map (canvasSlot t)
  let named := fun c => slots.any fun x => x.cls = c
  (decide (20 ≤ canvasPeriod t) && decide (canvasPeriod t ≤ 1000000) && decide (n ≤ 64) &&
    bitsIn t 27 5 = 0 && bitsIn t 80 48 = 0 && decide (144 + 8 * n ≤ t.length) &&
    (List.range 16).all (fun c => bitsIn t (128 + 64 * c + 48) 16 = 0) && canvasMask t &&& q = canvasMask t &&
    (List.range 16).all (fun c => if named c then classMask t c ≠ 0 && classMask t c &&& canvasMask t = classMask t c else classMask t c = 0) &&
    slots.all (fun x => x.clean && decide (x.start + 10 ≤ x.deadline) && decide (x.deadline ≤ canvasPeriod t)) &&
    (slots.zip (slots.drop 1)).all (fun p => decide (p.1.start ≤ p.2.start)) &&
    (List.range n).all fun i => (List.range n).all fun j => decide (j ≤ i) ||
      classMask t (canvasSlot t i).cls &&& classMask t (canvasSlot t j).cls = 0 || decide ((canvasSlot t i).deadline ≤ (canvasSlot t j).start))

/-- A stated default taken where the field holds zero (R445). -/
def orDefault (x d : Nat) : Nat := if x = 0 then d else x

/-- Atelier-table entry `a` of an installation section (R446). -/
def atelierEntry (sec : Bytes) (a : Nat) : AtelierEntry :=
  let e := slice sec (1536 + 256 * a) 256
  { qmask := BitVec.ofNat 48 (bitsIn e 0 48), vf0 := bitsIn e 48 4 + 1, on0 := bitsIn e 52 1 = 1, vf1 := bitsIn e 53 4 + 1, on1 := bitsIn e 57 1 = 1
    tagq := bitsIn e 64 16, ctxq := bitsIn e 80 16, qq := bitsIn e 96 32, mobjq := bitsIn e 128 32, fenceq := bitsIn e 160 32
    imgq := bitsIn e 192 32, collq := bitsIn e 224 32
    regions := (List.range 4).map fun d => (bitsIn e (256 + 32 * d) 16, bitsIn e (272 + 32 * d) 16)
    decant := bitsIn e 384 16, slice := orDefault (bitsIn e 400 7) 10, lnp := orDefault (bitsIn e 408 6) 50
    canvas := if bitsIn e 416 32 = 0 then [] else slice sec (bitsIn e 416 32) (bitsIn e 448 32) }

/-- Port-table entry `i` of an installation section (R446). -/
def portEntry (sec : Bytes) (i : Nat) : PeerEntry :=
  let e := slice sec (256 + 64 * i) 64
  ⟨bitsIn e 0 1 = 1, bitsIn e 1 1 = 1, bitsIn e 2 1 = 1, bitsIn e 8 10, bitsIn e 18 4, bitsIn e 22 2, slice e 8 32⟩

/-- The reservoir share of a quadrant in 64 KiB pages (R182, R445): a panel of zeros takes 36 units each. -/
def shareOf (sec : Bytes) (q : Nat) : Nat :=
  let f := fun q => bitsIn sec (128 + 8 * q) 8
  if (List.range 4).all fun i => f (q / 4 * 4 + i) = 0 then 36 * 512 else f q * 512

/-- The installation section in force, its defaults taken (R445, R446). -/
def installationOf (sec : Bytes) : Installation :=
  { palette := bitsIn sec 56 6, position := bitsIn sec 62 4, cap := orDefault (bitsIn sec 72 7) 56, grate := orDefault (bitsIn sec 80 6) 36
    w0 := orDefault (bitsIn sec 88 6) 1, w1 := orDefault (bitsIn sec 94 6) 8, w2 := orDefault (bitsIn sec 100 6) 4, rtcap := orDefault (bitsIn sec 106 4) 5
    i3caddr := bitsIn sec 112 7, ibi := bitsIn sec 119 1 = 1, shares := (List.range 48).map (shareOf sec)
    peers := (List.range 20).map (portEntry sec), ateliers := (List.range (bitsIn sec 48 4 + 1)).map (atelierEntry sec) }

/-- Whether the module block keeps its ranges (R445, R447). -/
def moduleBlockValid (sec : Bytes) : Bool :=
  let f := fun lo len => bitsIn sec lo len
  f 0 32 = 0x54534E49 && f 32 16 = 1 && f 52 4 = 0 && f 66 6 = 0 && f 79 1 = 0 && f 86 2 = 0 && f 110 2 = 0 && f 120 8 = 0 &&
  ofLe (slice sec 64 192) = 0 && (f 72 7 = 0 || (decide (20 ≤ f 72 7) && decide (f 72 7 ≤ 56))) &&
  [0, 28, 32, 36].contains (f 80 6) && decide (f 88 6 ≤ 32) && decide (f 94 6 ≤ 32) && decide (f 100 6 ≤ 32) && decide (f 106 4 ≤ 10) &&
  decide (0x08 ≤ f 112 7) && decide (f 112 7 ≤ 0x77) &&
  (List.range 12).all fun p =>
    let t := ((List.range 4).map fun i => f (128 + 8 * (4 * p + i)) 8).sum
    t = 144 || t = 0

/-- Whether an atelier's reserved fields and own ranges hold (R446). -/
def atelierFieldsValid (sec : Bytes) (a : Nat) : Bool :=
  let e := slice sec (1536 + 256 * a) 256
  let x := atelierEntry sec a
  bitsIn e 58 6 = 0 && bitsIn e 407 1 = 0 && bitsIn e 414 2 = 0 && ofLe (slice e 60 196) = 0 && decide (4 ≤ x.tagq) &&
  decide (x.decant ≤ 4096) && decide (bitsIn e 400 7 ≤ 100) && decide (bitsIn e 408 6 ≤ 50) && x.qmask ≠ 0 &&
  decide (x.decant ≤ (x.regions.map Prod.snd).sum) && x.regions.all (fun r => r.2 = 0 || decide (r.1 + r.2 ≤ Config.regionsPerDie)) &&
  (bitsIn e 416 32 = 0 || (decide (bitsIn e 416 32 + bitsIn e 448 32 ≤ sec.length) && canvasValid x.canvas x.qmask.toNat))

/-- Whether a port entry's fields hold (R446, R447): those of a palette port's peer where it is enabled, those of a rail port's rail and switch
always (DEDUCED, notes/assumptions/97.md). -/
def portFieldsValid (sec : Bytes) (i : Nat) : Bool :=
  let e := slice sec (256 + 64 * i) 64
  let x := portEntry sec i
  let inst := installationOf sec
  bitsIn e 3 5 = 0 && ofLe (slice e 3 5) = 0 && ofLe (slice e 40 24) = 0 &&
  (!(x.en && isPalettePort i) || x.peer = palettePeer (16 * inst.palette + inst.position) i) &&
  (!isRailPort i || (x.rail = inst.position && x.switch = i - 15 && !x.v2))

/-- Whether an installation section passes validation (R447). -/
def installationValid (sec : Bytes) : Bool :=
  let x := installationOf sec
  let n := x.ateliers.length
  let pairs := (List.range n).flatMap fun i => (List.range i).map fun j => (x.ateliers.getD i (atelierEntry [] 0), x.ateliers.getD j (atelierEntry [] 0))
  let total := fun (f : AtelierEntry → Nat) => (x.ateliers.map f).sum
  moduleBlockValid sec && (List.range n).all (atelierFieldsValid sec) && (List.range 20).all (portFieldsValid sec) &&
  pairs.all (fun p => p.1.qmask &&& p.2.qmask = 0 && !(p.1.on0 && p.2.on0 && p.1.vf0 = p.2.vf0) && !(p.1.on1 && p.2.on1 && p.1.vf1 = p.2.vf1)) &&
  (List.range 4).all (fun d => disjoint (x.ateliers.map fun a => a.regions.getD d (0, 0))) &&
  decide (1024 * total (·.tagq) ≤ 260096) && decide (total (·.ctxq) ≤ 256) && decide (total (·.qq) ≤ 2048) && decide (total (·.mobjq) ≤ 1048576) &&
  decide (total (·.fenceq) ≤ 65536) && decide (total (·.imgq) ≤ 4096) && decide (total (·.collq) ≤ 16384) &&
  (List.range 4).all fun d => decide (((List.range 5).filter fun i => (portEntry sec (5 * d + i)).v2).length ≤ 4)

/-- The conditions of R442, in its order, that an image fails, numbered from 1; reserved bits of header and section table are ignored
(R11). -/
def imageFails (image : Bytes) : List Nat :=
  let f := fun lo len => bitsIn image lo len
  let secs := sections image
  let length := f 96 32
  let kinds := [0x01, 0x02, 0x03, 0x04, 0x10]
  let blank := slice image 0 16 ++ List.replicate 32 (0 : Byte) ++ slice image 48 64 ++ List.replicate 64 (0 : Byte) ++ slice image 176 (length - 176)
  let c1 := f 0 32 = 0x444E5247 && f 32 16 = 1 && decide (5 ≤ f 48 8) && decide (f 48 8 ≤ 16) && decide (length ≤ 33554432)
  let c2 := kinds.all (fun k => (secs.filter fun x => x.kind = k).length = 1) && disjoint (secs.map fun x => (x.off, x.len))
  let c3 := secs.all fun x => decide (x.off + x.len ≤ length)
  let c4 := sm3 blank = slice image 16 32 && secs.all fun x => sm3 (slice image x.off x.len) = x.digest
  let c5 := sm3 (beBytes 64 Config.rootPublic.toNat) = Config.rootDigest && secs.all fun x => !(1 ≤ x.kind && x.kind ≤ 4) || sm2Verify Config.rootPublic (BitVec.ofNat 512 (ofBe x.sig)) x.digest
  let c6 := sm2Verify (BitVec.ofNat 512 (ofBe (slice image 48 64))) (BitVec.ofNat 512 (ofBe (slice image 112 64))) (slice image 16 32)
  let c7 := match sectionNamed image 0x10 with
    | some x => installationValid (slice image x.off x.len)
    | none => false
  ((List.range 7).zip [c1, c2, c3, c4, c5, c6, c7]).filterMap fun p => if p.2 then none else some (p.1 + 1)

/-- The first failing condition of R442 of an image, 0 where it is valid. -/
def imageCheck (image : Bytes) : Nat := (imageFails image).headD 0

/-- A whole bank's bytes. -/
def bankImage (m : Memory) : Bytes := bankBytes m 0 33554432
/-- Whether a bank is erased: its first 256 B read as all ones (R444). -/
def bankErased (m : Memory) : Bool := (bankBytes m 0 256).all fun b => b = 0xFF

/-- A bank of the flash: 0 A, 1 B. -/
def State.bank (s : State) (b : Bool) : Memory := if b then s.flashB else s.flashA
def State.setBank (s : State) (b : Bool) (m : Memory) : State := if b then { s with flashB := m } else { s with flashA := m }
def State.broken (s : State) (b : Bool) : Bool := if b then s.flashBroken.2 else s.flashBroken.1
def State.setBroken (s : State) (b v : Bool) : State :=
  { s with flashBroken := if b then (s.flashBroken.1, v) else (v, s.flashBroken.2) }

/-- The first failing condition of a bank: an interrupted write left its digest wrong (R488). -/
def State.bankCheck (s : State) (b : Bool) : Nat := if s.broken b then 4 else imageCheck (bankImage (s.bank b))

/-- Whether bank B is newer than bank A (R442). -/
def newerB (seqA seqB : BitVec 32) : Bool := decide (1 ≤ (seqB - seqA).toNat) && decide ((seqB - seqA).toNat < 2 ^ 31)
/-- A bank's sequence number (R440). -/
def bankSeq (m : Memory) : BitVec 32 := BitVec.ofNat 32 (ofLe (bankBytes m 8 4))

/-- What the boot takes from its bank (R429, R442). -/
def inForceOf (b : Bool) (image : Bytes) : BankInForce :=
  let d := fun k => match sectionNamed image k with
    | some x => x.digest
    | none => []
  ⟨bit b, BitVec.ofNat 32 (leAt image 8 4), slice image 16 32, slice image 48 64, d 0x01, d 0x02, d 0x03, d 0x04⟩

end Sys2Proof.Machine
end

