-- ==== Sys2Proof/Machine/Launch.lean ====
section
/-!
DEFINITION. Program images and the launch of a core (R106, R113, R114, R180, R327 to R330): the assignment of a core to a job,
the words and registers an image gives, and CORE_LAUNCH.
-/
namespace Sys2Proof.Machine

/-- Fields of an image header (R327). -/
def imageStages (b : Bytes) : Nat := bitsIn b 48 16
def imageLength (b : Bytes) : Nat := leAt b 8 4
def imageLstrip (b : Bytes) : Nat := bitsIn b 128 20
def imageFstrip (b : Bytes) : Nat := bitsIn b 160 48

/-- A field of stage entry `s` (R328). -/
def stageField (b : Bytes) (s lo len : Nat) : Nat := bitsIn (slice b (256 + 64 * s) 64) lo len
def stageCount (b : Bytes) (s : Nat) : Nat := stageField b s 32 14
def stageWeights (b : Bytes) (s : Nat) : Bool := stageField b s 46 1 = 1
def stageBase (b : Bytes) (s : Nat) : Nat := stageField b s 96 11
def stageWords (b : Bytes) (s : Nat) : Nat := stageField b s 107 12
def stageEntry (b : Bytes) (s : Nat) : Nat := stageField b s 119 11
/-- The cores of a stage, in the order of its core list. -/
def stageCores (b : Bytes) (s : Nat) : List Nat := ((List.range (stageCount b s)).map fun i => leAt b (stageField b s 0 32 + 2 * i) 2).eraseDups
/-- The stage that holds a core. -/
def stageOf (b : Bytes) (core : Nat) : Option Nat := (List.range (imageStages b)).find? fun s => (stageCores b s).contains core
/-- Every core of an image. -/
def imageCores (b : Bytes) : List Nat := (List.range (imageStages b)).flatMap (stageCores b)
/-- The cores of the stages that hold weights (R328). -/
def weightCores (b : Bytes) : List Nat := ((List.range (imageStages b)).filter (stageWeights b)).flatMap (stageCores b)
/-- Word `i` of a stage. -/
def stageWord (b : Bytes) (s i : Nat) : Word256 := BitVec.ofNat 256 (leAt b (stageField b s 64 32 + 32 * i) 32)
/-- The layer a counter slot is bound to (R60, R328). -/
def slotLayer (b : Bytes) (s slot : Nat) : Option Nat :=
  let e := leAt b (stageField b s 224 32 + 4 * slot) 4
  if bitsAt e 31 1 = 1 then some (bitsAt e 0 20) else none

/-- The image of a job (R330). -/
def State.imageOf (s : State) (j : Nat) : Bytes := match SMap.find? s.images j with
  | some x => x.bytes
  | none => []

/-- The role epoch raised (R106): windows closed, holding registers emptied, binding slots released. -/
def Core.newEpoch (c : Core) : Core := { c with epoch := c.epoch + 1, windows := [], holding := [], binds := [] }

/-- How many messages an epoch increment discards (R106): those of the holding registers and every filled line of every window, awaited
or not (DESIGN CHOICE, notes/assumptions/59.md). -/
def Core.heldMessages (c : Core) : Nat := c.holding.length + (c.windows.map fun p => p.2.senders.length).sum

/-- An epoch increment outside a restore, with its blotter entry (R106). -/
def State.raiseEpoch (s : State) (n : Nat) : State :=
  let c := s.core n
  let t := s.setCore n c.newEpoch
  if c.heldMessages = 0 then t else t.noteOf (s.atelierOfQuadrant (quadrantOf n)) 0x0111 [n, c.heldMessages]

/-- The scalar registers an image gives a stage, its route registers completed with the present epochs (R105, R114). -/
def State.launchSregs (s : State) (b : Bytes) (stage : Nat) : SMap Word64 :=
  (List.range 32).foldl (fun m k =>
    let v := leAt b (stageField b stage 160 32 + 8 * k) 8
    let v1 := if bitAt (stageField b stage 192 32) k then v / 2 ^ 32 * 2 ^ 32 + (s.core (v % 2 ^ 14)).epoch.toNat * 65536 + v % 65536 else v
    SMap.set 0 m k (BitVec.ofNat 64 v1)) []

/-- The word store as an image fills it (R113); every stage that holds weights has the update routine at 1,792 to 2,047 (R210). -/
def imageWords (b : Bytes) (stage : Nat) : SMap Word256 :=
  (((List.range (stageWords b stage)).map fun i => (stageBase b stage + i, stageWord b stage i)).filter fun p => p.2 ≠ BitVec.allOnes 256) ++
  if stageWeights b stage then (upFrom 1792 256).map fun i => (i, Config.routineWord i) else []

/-- The mode in force at a step (R66). -/
def Escalation.at_ (e : Escalation) (step : Nat) : Nat := match e.coming with
  | some (m, x) => if m ≤ step then x else e.mode
  | none => e.mode

/-- The words of a job's escalable layers in a stage, of the variant that each layer's mode at a step asks for (R63, R64; DESIGN CHOICE,
notes/assumptions/35.md). -/
def Job.variantWords (j : Job) (step stage : Nat) : List (Nat × Word256) :=
  j.escalations.flatMap fun e => ((e.variants.getD (e.at_ step) []).filter fun w => w.1 = stage).map fun w => w.2

/-- A stage's word store for a step (R64, R113): the image's words, and over them the variants in force. -/
def Job.words (j : Job) (b : Bytes) (step stage : Nat) : SMap Word256 :=
  (j.variantWords step stage).foldl (fun m w => SMap.set (BitVec.allOnes 256) m w.1 w.2) (imageWords b stage)

/-- A core's state at a launch (R98, R114, R121, R139): the array is empty, no pending-write bit is set; the memories, the windows and
the epoch stay. The beat counter
starts again, and a packer of the ended program, whose rows are all read (R87), is read by no beat of the new one. -/
def Core.launched (c : Core) (words : SMap Word256) (entry : Nat) (sregs : SMap Word64) : Core :=
  { c with run := .running, loaded := true, words := words, pc := entry, beat := 0, sregs := sregs, gens := [], levels := [], streams := [], counters := [], copyCounts := [],
           binds := [], staged := [], pendLines := [], pendRows := [], pendSregs := [], boundary := false, array := ArrayState.empty, vectorFree := 0
           packers := c.packers.map fun p => { p with start := 2 ^ 48 } }

/-- The layer and the kind of an update descriptor (R209). -/
def layerId (d : Bytes) : Nat := bitsIn d 0 20
def layerKind (d : Bytes) : Nat := bitsIn d 20 2

/-- The cores of the layer's stage (R210): the first stage with weights whose counter slots name the layer (R60), else the first with weights
(DESIGN CHOICE, notes/assumptions/116.md). -/
def layerCores (b : Bytes) (layer : Nat) : List Nat :=
  let st := ((List.range (imageStages b)).filter (stageWeights b)).find? fun k => (List.range 16).any fun i => slotLayer b k i = some layer
  let st0 := ((List.range (imageStages b)).filter (stageWeights b)).headD 0
  (stageCores b (st.getD st0)).foldl NatSet.add []

/-- The fault a core's write of a far line meets (R92, R408). -/
def State.farWriteFault (s : State) (ctx addr : Nat) : Nat :=
  match s.objectAt ctx addr 1, s.locate ctx addr with
  | some (_, m), some p => if m.ro || s.retiredAt p || s.retires p then 0x25 else 0
  | _, _ => 0x23

/-- Counts added to a layer's (R60). -/
def addCounts (cs : List Counts) (layer : Nat) (e : Events) : List Counts :=
  let xs := [e.blocks, e.satBlocks, e.sat, e.under, e.nonfinite]
  if cs.any (fun c => c.layer = layer) then cs.map (fun c => if c.layer = layer then ⟨layer, List.zipWith (· + ·) c.counts xs⟩ else c)
  else cs ++ [⟨layer, xs⟩]

/-- One core's counter slots gathered into the running step's counts and cleared (R60, R61, R114). -/
def State.gatherCore (jn : Nat) (s : State) (n : Nat) : State :=
  let c := s.core n
  let b := s.imageOf jn
  let add := fun (cs : List Counts) (k : Nat) => match slotLayer b c.stage k with
    | some l => addCounts cs l (SMap.get Events.zero c.counters k)
    | none => cs
  (s.setCore n { c with counters := [], copyCounts := [] }).onRun jn fun r => { r with counts := (List.range 16).foldl add r.counts }

/-- Whether the update routine of the running step has ended on a core: every layer it updates is updated (R210, R213). -/
def State.updatedOn (s : State) (jn : Nat) (j : Job) (r : StepRun) (n : Nat) : Bool :=
  j.layers.all fun d => layerKind d = 3 || !(layerCores (s.imageOf jn) (layerId d)).contains n || r.applied.any fun a => a.layer = layerId d

/-- Whether a core's program may be launched for a step (R113, R213, R229): the step it would run. -/
def State.launchStep (s : State) (n jn : Nat) (j : Job) : Option Nat :=
  match j.run with
  | none => none
  | some r =>
    if r.launched && ((s.core n).job ≠ some jn || ((s.core n).step ≠ some r.step && (s.core n).step ≠ some (r.step + 1))) then some r.step
    else if r.ahead && (s.core n).job = some jn && (s.core n).step = some r.step && s.updatedOn jn j r n then some (r.step + 1) else none

/-- A core's counts of the running step gathered before it runs ahead, where no gathering has taken them yet (R60, R61). -/
def State.beforeAhead (s : State) (n jn step : Nat) (j : Job) : State :=
  match j.run with
  | some r => if r.step < step && r.passes = 0 then State.gatherCore jn s n else s
  | none => s

/-- The core after a launch for a job. A serving pass leaves the word store of a core of its job's as it stands (R375). -/
def State.launchCore (s : State) (n j : Nat) (job : Job) (stage : Nat) (step : Option Nat) : State :=
  let b := s.imageOf j
  let t := if (s.core n).job = some j then s else s.raiseEpoch n
  let words := if job.serving && (s.core n).job = some j then (s.core n).words else job.words b (step.getD 0) stage
  let c := (t.core n).launched words (stageEntry b stage) (t.launchSregs b stage)
  t.setCore n { c with job := some j, stage := stage, ctx := job.ctx, atelier := job.atelier, step := step
                       localStrip := BitVec.ofNat 20 (imageLstrip b), farStrip := BitVec.ofNat 48 (imageFstrip b) }

/-- The pass of a serving job that is under way and not dropped. -/
def State.livePass (s : State) (job : Nat) : Option Pass := List.find? (fun (p : Pass) => p.job = job && !p.dropped) s.serving.passes

/-- Whether a dropped pass of a job has yet to end (R384). -/
def State.dropping (s : State) (job : Nat) : Bool := s.serving.passes.any fun p => p.job = job && p.dropped

/-- Every core of a job's image assigned to it (R106): the role epoch of each core new to it rises, and a serving job's has its words,
which no pass loads again (R113, R375). -/
def State.assignCores (s : State) (n : Nat) (job : Job) : State :=
  let b := s.imageOf n
  (imageCores b).foldl (fun s k =>
    if (s.core k).job = some n then s
    else
      let t := s.raiseEpoch k
      let c := t.core k
      let stage := (stageOf b k).getD 0
      t.setCore k { c with job := some n, stage := stage, ctx := job.ctx, atelier := job.atelier, step := none, loaded := c.loaded || job.serving,
                           words := if job.serving then job.words b 0 stage else c.words }) s

/-- Whether a core has nothing of its program's under way (R110, R173, R340): what it issued has landed, its sends and its table
requests have completed. -/
def State.coreDrained (s : State) (k : Nat) : Bool :=
  let c := s.core k
  c.flight.isEmpty && c.array.rows.isEmpty && c.packers.all (fun p => p.read = 4 * p.count) && c.sends.all (fun x => x.2.outstanding = 0) &&
  s.mesh.all (fun m => m.sender < 10368 || m.dest ≠ k || m.epoch ≠ c.epoch) &&
  (s.gathers.all fun q => q.2.all fun r => r.core ≠ k) && s.scatters.all fun q => q.2.all fun r => r.core ≠ k

/-! ### Core commands and the cores they occupy (R337) -/

/-- The job a core command names, and the cores it occupies (R337). -/
def Cmd.jobSlot (c : Cmd) : Nat := c.pay 0 12
def State.coresOf (s : State) (c : Cmd) : List Nat := if c.opcode = 0x14 then weightCores (s.imageOf c.jobSlot) else imageCores (s.imageOf c.jobSlot)

/-- Whether two lists of cores meet. -/
def meets (a b : List Nat) : Bool := a.any b.contains

/-- The jobs that hold some of the cores, but `own`. -/
def State.holders (s : State) (cores : List Nat) (own : Nat) : List Nat :=
  (List.filter (fun p : Nat × Job => p.1 ≠ own && p.2.resident && meets (imageCores (s.imageOf p.1)) cores) s.jobs).map Prod.fst

/-- Whether a started SNAPSHOT has its cores: no other job holds any of them (R337). -/
def State.mayCapture (s : State) (c : Cmd) : Bool := (s.holders (s.coresOf c) c.jobSlot).isEmpty

/-! ### Stops (R215, R340, R341, R384) -/

/-- Whether an outcome discards the run-ahead of the next step (R215, R221, R332). -/
def Job.discards (j : Job) (r : StepRun) : Bool := r.ahead && (match r.outcome with
  | some .commit => j.stopping.isSome
  | some _ => true
  | none => false)

/-- Whether a core is to be stopped: its job is being switched out, its run-ahead is discarded, its pass is dropped. -/
def State.mustStop (s : State) (k : Nat) : Bool :=
  let c := s.core k
  match c.job with
  | none => false
  | some n => match SMap.find? s.jobs n with
    | none => false
    | some j => j.switching || (j.run.any fun r => j.discards r && c.step = some (r.step + 1)) || s.dropping n

/-- Whether a core has come to its stop: it issues nothing, and nothing of its program's is under way (R340). -/
def State.stoppedCore (s : State) (k : Nat) : Bool := ((s.core k).run = .idle || (s.core k).run = .stopped) && s.coreDrained k

/-- Whether a core of a job's that is to be stopped has not come to its stop. -/
def State.stillStopping (s : State) (n : Nat) : Bool :=
  (imageCores (s.imageOf n)).any fun k => (s.core k).job = some n && s.mustStop k && !s.stoppedCore k

/-- A stop of a job's cores begins (R341): its time is noted where a core has yet to stop. -/
def State.beginStop (s : State) (n : Nat) : State :=
  if s.stillStopping n then s.onJob n fun j => { j with stopSince := some (j.stopSince.getD s.time) } else s

/-- The end of a stop of job `n`, once core `k`, the last of its cores, has stopped (R341): reported where it took longer than 10 µs (which
core the entry names: DESIGN CHOICE, notes/assumptions/95.md). -/
def State.endStop (s : State) (n k : Nat) : State :=
  match (SMap.find? s.jobs n).bind fun j => j.stopSince.map (j, ·) with
  | some (j, t) =>
    if s.stillStopping n then s
    else
      let s1 := s.onJob n fun j => { j with stopSince := none }
      if 1000 < (s.time - t).toNat then s1.log 0x0104 (some j.atelier) j.stepNow (some j.ctx) [k, n] else s1
  | none => s

/-- What may have been the last that the stop of a core's job waited for has happened on the core. -/
def State.settleStop (s : State) (k : Nat) : State := match (s.core k).job with
  | some n => s.endStop n k
  | none => s

/-- CORE_LAUNCH (R113, R114): a core with no program running takes the word store and the initial state its job's image
gives it, for the step under way, for run-ahead of the next, or for a serving pass (R375). -/
def execCoreLaunch (core job : Nat) (s : State) : Answer :=
  onUnit "core" core 10368
    (match SMap.find? s.jobs job, stageOf (s.imageOf job) core with
     | some j, some stage =>
       let idle := (s.core core).run = .idle && s.mstate = 2 && j.resident && !j.switching
       if j.serving then
         match s.livePass job with
         | some p => whenDue (idle && p.started && !s.dropping job && ((s.core core).job ≠ some job || (s.core core).step = none)) s (s.launchCore core job j stage (some p.period))
         | none => .next s
       else match s.launchStep core job j with
         | some n => whenDue idle s ((s.beforeAhead core job n j).launchCore core job j stage (some n))
         | none => .next s
     | _, _ => .next s)

end Sys2Proof.Machine
end

