-- ==== Sys2Proof/Machine/Ports.lean ====
section
/-!
DEFINITION. The PCI Express ports, the functions' control registers, attachment, resets and doorbells (R300 to R310, R314,
R316, R452, R476).
-/
namespace Sys2Proof.Machine

/-- The atelier a virtual function serves (R302, R446). -/
def State.atelierOfFn (s : State) (port fn : Nat) : Option Nat :=
  if fn = 0 then none
  else s.installation.bind fun i => i.ateliers.findIdx? fun e => if port = 0 then e.on0 && e.vf0 = fn else e.on1 && e.vf1 = fn

/-- Whether a port's BAR0 is served (R438, R439, R454). -/
def State.served (s : State) (port : Nat) : Bool := (s.pciePort port).up && ((s.mstate = 1 && 4 ≤ s.phase) || s.mstate = 2 || s.mstate = 3)

/-- A control command finished with a result (R307, R308). -/
def State.controlDone (s : State) (port fn result : Nat) : State :=
  s.setFunction port fn { s.function port fn with go := false, result := result, runs := none }

/-- What an atelier's detachment leaves of work under way (R304): what its commands and signals write to the host later is dropped. -/
def State.mute (s : State) (a : Nat) : State :=
  let mine := fun (n : Nat) => (SMap.find? s.fences n).any fun f => (SMap.find? s.contexts f.ctx).any fun c => c.atelier = a
  { s with commands := s.commands.map fun (c : Nat × Cmd) => if c.2.atelier = a then (c.1, { c.2 with muted := true }) else c
           signals := s.signals.map fun x => if mine x.1 then (x.1, x.2.1, true) else x }

/-- An atelier detached (R304): fetching stops, completions and shadows are dropped, its queues go once empty. -/
def State.detach (s : State) (a : Nat) : State :=
  match (s.atelier a).attached with
  | none => s
  | some (p, f) =>
    let s1 := (s.mute a).setAtelier a { s.atelier a with attached := none, admin := none, tag := none }
    let s2 := s1.setFunction p f { s1.function p f with attached := false, version := 0, waiting := [] }
    { s2 with queues := s2.queues.map fun (q : Nat × Queue) => if q.2.atelier = a then (q.1, { q.2 with closing := true, held := [] }) else q }

/-- Every atelier attached through a port detached (R303). -/
def State.detachPort (s : State) (port : Nat) : State :=
  (List.range 16).foldl (fun s a => if ((s.atelier a).attached.any fun x => x.1 = port) then s.detach a else s) s

/-- The lowest queue number free (R321). -/
def State.freeQueue (s : State) : Option Nat :=
  let n := SMap.freeKey s.queues 2048 0
  if n < 2048 then some n else none

/-- The closing queues of an atelier that no accepted command is left in, destroyed (R304). -/
def State.closeIdle (s : State) (a : Nat) : State :=
  { s with queues := s.queues.filter fun p => !(p.2.atelier = a && p.2.closing && s.commands.all fun c => c.2.queue ≠ p.1) }

/-- How many queues an atelier has (R446). -/
def State.queuesOf (s : State) (a : Nat) : Nat := (s.queues.filter fun p => p.2.atelier = a).length

/-- ATTACH carried out (R309): version, other attachment, whose detachment comes first, arguments, then the admin queue. -/
def State.attach (s : State) (port fn : Nat) (r : Control) : State :=
  match s.atelierOfFn port fn with
  | none => s.controlDone port fn 0x05
  | some a =>
    if !(r.vmin ≤ 2 && 2 ≤ r.vmax) then s.controlDone port fn 0x01
    else if ((s.atelier a).attached.any fun x => x ≠ (port, fn)) && !r.takeover then s.controlDone port fn 0x02
    else
      let lsize := field r.arg3 0 5
      let s1 := (s.detach a).closeIdle a
      match s1.freeQueue, s1.entry a with
      | some n, some e =>
        if !(6 ≤ lsize && lsize ≤ 16) || r.arg0.toNat % 4096 ≠ 0 || r.arg1.toNat % 4096 ≠ 0 || r.arg2.toNat % 8 ≠ 0 || e.qq ≤ s1.queuesOf a then s1.controlDone port fn 0x04
        else
          let q : Queue := ⟨a, 0, 7, 0, lsize, r.arg0, r.arg1, r.arg2, field r.arg3 5 11, flag r.arg3 16, 0, 0, 0, 0, 0, [], false⟩
          let s2 := { s1 with queues := SMap.put s1.queues n q }.setAtelier a { s1.atelier a with attached := some (port, fn), admin := some n, tag := if flag r.arg3 37 then some (field r.arg3 17 20) else none }
          s2.setFunction port fn { s2.function port fn with go := false, result := 0x00, version := 2, admin := n, attached := true, runs := none }
      | _, _ => s1.controlDone port fn 0x04

/-- The value of cmd that a driver writes with a row's command (R307). -/
def cmdWritten (g : CtrlGo) (row : Nat) : Nat := match g.idle with
  | some v => if 1 ≤ v % 16 && v % 16 ≤ 4 then row else v % 16
  | none => row

/-- CTRL_CMD as a driver writes it whole (R306, R307). -/
def HostFn.written (r : HostFn) (cmd vmin vmax : Nat) (takeover : Bool) : HostFn :=
  { r with cmd := cmd, takeover := takeover, vmin := vmin % 256, vmax := vmax % 256 }

/-- The same by a row that gives the fields of CTRL_CMD it does not act on. -/
def HostFn.wrote (r : HostFn) (w : CtrlWrite) (row : Nat) : HostFn := r.written (cmdWritten w.at_ row) w.vmin w.vmax w.takeover

/-- The command that the registers name, as it is started. -/
def HostFn.taken (r : HostFn) : Control := ⟨r.cmd, r.takeover, r.vmin, r.vmax, r.arg0, r.arg1, r.arg2, r.arg3⟩

/-- A write of CTRL_CMD with the registers as `r` has them (R306, R307, R310, R454): without go, or with a cmd that names no command, it only
writes them (DESIGN CHOICE for go with no command, notes/assumptions/74.md); with go it is busy while a command runs, which is left as it
is, draws 0x05 in the failed state unless the command works there, and otherwise starts the command. -/
def State.control (s : State) (port : Nat) (g : CtrlGo) (row : Nat) (r : HostFn) (failed : Bool) (start : State → State) : State :=
  let fn := g.fn
  if !g.go || cmdWritten g row ≠ row then s.setFunction port fn r
  else if (s.function port fn).go then s.setFunction port fn { r with result := 0x06 }
  else if s.mstate = 3 && !failed then s.setFunction port fn { r with result := 0x05 }
  else start (s.setFunction port fn { r with go := true, runs := some r.taken })

/-- ATTACH (R309, R439): before readiness it stays running. -/
def execAttach (port : Nat) (fn : CtrlGo) (vmin vmax : Nat) (takeover : Bool) (ring cq shadow args : Word64) (s : State) : Answer :=
  let r := { (s.function port fn.fn).written (cmdWritten fn 1) vmin vmax takeover with arg0 := ring, arg1 := cq, arg2 := shadow, arg3 := args }
  onUnit "port" port 2 (onUnit "function" fn.fn 17
    (whenDue (s.served port) s (s.control port fn 1 r false fun t => if s.mstate = 2 then t.attach port fn.fn r.taken else t)))

/-- DETACH carried out (R310). -/
def State.detachBy (s : State) (port fn : Nat) : State := match s.atelierOfFn port fn with
  | none => s.controlDone port fn 0x05
  | some a => if (s.atelier a).attached = some (port, fn) then (s.detach a).controlDone port fn 0x00 else s.controlDone port fn 0x03

/-- DETACH (R310). -/
def execDetach (port : Nat) (fn : CtrlWrite) (s : State) : Answer :=
  onUnit "port" port 2 (onUnit "function" fn.at_.fn 17
    (whenDue (s.served port) s (s.control port fn.at_ 2 ((s.function port fn.at_.fn).wrote fn 2) false fun t => t.detachBy port fn.at_.fn)))

/-- A core as ATELIER_RESET returns it (R452): R114's state with pc and epoch unchanged, its memories zero. Its next launch is a
relaunch, which assigns it anew (R106). -/
def Core.afterReset (c : Core) (sregs : SMap Word64) : Core :=
  { c with run := .idle, beat := 0, sregs := sregs, gens := [], levels := [], streams := [], counters := [], copyCounts := [], mem := [], tiles := [], pendLines := [], pendRows := [],
           pendSregs := [], flight := [], vectorFree := 0, array := ArrayState.empty, binds := [], staged := [], packers := [], job := none, step := none }

/-- The scalar registers a core takes at an atelier reset (R114, R452): those its job's image gives, else zero. -/
def State.resetSregs (s : State) (c : Core) : SMap Word64 := match c.job with
  | some j => s.launchSregs (s.imageOf j) c.stage
  | none => []

/-- The end of an atelier reset (R452). -/
def State.endReset (s : State) (a : Nat) : State :=
  match (s.atelier a).resetting with
  | none => s
  | some (p, f) =>
    let s1 := s.onCores a fun c => c.afterReset (s.resetSregs c)
    let s2 := { s1 with decants := s1.decants.filter (fun c => !s1.holds a (c.1 % 16384))
                        reservations := s1.reservations.filter (fun n => (SMap.find? s1.commands n).all (fun (c : Cmd) => c.atelier ≠ a))
                        jobs := s1.jobs.map fun (j : Nat × Job) => if j.2.atelier = a then (j.1, { j.2 with decanted := false, resident := false, sets := [] }) else j }
    (s2.setAtelier a { s2.atelier a with faulted := false, draining := none, resetting := none, fcode := 0, findex := 0 }).controlDone p f 0x00

/-- The memory of an atelier cleared (R431 step 4): regions, reservoir shares, and the memories of its cores, which no
job has any longer. -/
def State.clearMemory (s : State) (a : Nat) : State :=
  let region := fun (g : Nat) => s.atelierOfRegion g = some a
  let quad := fun (byte : Nat) => s.atelierOfQuadrant (byte / 65536 / 73728) = some a
  let s1 := { s with gddr := s.gddr.filter (fun p => !region (p.1 / 2 ^ 21)), roots := s.roots.filter (fun p => !region p.1), counters := s.counters.filter (fun p => !region (p.1 / 256))
                     reservoir := s.reservoir.filter (fun p => !quad p.1), poison := s.poison.filter (fun l => !quad (64 * l)), decants := s.decants.filter (fun c => !s.holds a (c.1 % 16384)) }
  s1.onCores a fun c => { c with mem := [], tiles := [], words := [], loaded := false, staged := [], flight := [], packers := [], job := none, step := none }

/-- Every object of an atelier but its admin queue destroyed (R431 step 5). -/
def State.destroyObjects (s : State) (a : Nat) : State :=
  let mine := fun (n : Nat) => (SMap.find? s.contexts n).any fun c => c.atelier = a
  { s with signals := s.signals.filter (fun x => (SMap.find? s.fences x.1).all fun f => !mine f.ctx), contexts := s.contexts.filter (fun p => p.2.atelier ≠ a), queues := s.queues.filter (fun p => p.2.atelier ≠ a || p.2.kind = 0), mobjs := s.mobjs.filter (fun p => !mine p.2.ctx)
           fences := s.fences.filter (fun p => !mine p.2.ctx), images := s.images.filter (fun p => !mine p.2.ctx), colls := s.colls.filter (fun p => !mine p.2.ctx)
           jobs := s.jobs.filter (fun p => p.2.atelier ≠ a) }

/-- The LEASE_END under way in an atelier. -/
def State.endingCommand (s : State) (a : Nat) : Option Nat :=
  (List.find? (fun p : Nat × Cmd => p.2.atelier = a && p.2.opcode = 0x21 && p.2.state = .working) s.commands).map Prod.fst

/-- Steps 4 and 5 of R431: memory is cleared and the lease closes; not in the failed state, which clears no memory (R454). -/
def State.closeLease (s : State) (a : Nat) : State :=
  if (s.lease a).state = 3 && s.mstate ≠ 3 then
    let s1 := ((s.clearMemory a).destroyObjects a).setLease a Lease.none
    match s.endingCommand a with
    | some n => s1.finish n 0x00 0
    | none => s1
  else s

/-- A drain ends when the tag table holds no tag of the atelier (R431 step 3, R450 step 4): a lease that is ending closes, once one of the
module's own tags is free for the erasure (R194), and a reset waiting for it runs (R452). -/
def State.settleDrain (s : State) (a : Nat) : State :=
  if (s.atelier a).draining.isSome && s.tagsOf a = 0 && ((s.lease a).state ≠ 3 || s.mstate = 3 || s.freeModuleTag.isSome) then
    ((s.setAtelier a { s.atelier a with draining := none }).closeLease a).endReset a
  else s

/-- Every drain whose tags are gone ended. -/
def State.settleDrains (s : State) : State := (List.range 16).foldl State.settleDrain s

/-- ATELIER_RESET carried out (R310, R452). -/
def State.resetAtelier (s : State) (port fn a : Nat) : State :=
  if (s.lease a).state = 3 then s.controlDone port fn 0x05
  else if (s.atelier a).resetting.isSome then s.controlDone port fn 0x06
  else
    let s1 := if (s.atelier a).faulted then s.discardServing a else s.faultAtelier a 0x0411 none none [32 * port + fn]
    let s2 := s1.setAtelier a { s1.atelier a with resetting := some (port, fn) }
    if (s2.atelier a).draining.isSome then s2.settleDrain a else s2.endReset a

/-- The atelier that an ATELIER_RESET is about (R310). -/
def State.resetTarget (s : State) (port fn : Nat) (arg : Word64) : Option Nat := if fn = 0 then some (arg.toNat % 16) else s.atelierOfFn port fn

/-- ATELIER_RESET of the atelier a function may reset (R306, R310): its own, or on a physical function the one named. -/
def State.resetBy (s : State) (port fn : Nat) (arg : Word64) : State :=
  match s.resetTarget port fn arg with
  | some a => if a < s.nat then s.resetAtelier port fn a else s.controlDone port fn 0x04
  | none => s.controlDone port fn 0x05

/-- Whether another function's ATELIER_RESET of the same atelier is waiting for readiness (R310). -/
def State.resetTwice (s : State) (port fn : Nat) (arg : Word64) : Bool :=
  s.functions.any fun f => f.1 ≠ 32 * port + fn && f.2.runs.any fun c => c.cmd = 4 && (s.resetTarget (f.1 / 32) (f.1 % 32) c.arg0).isSome &&
    s.resetTarget (f.1 / 32) (f.1 % 32) c.arg0 = s.resetTarget port fn arg

/-- ATELIER_RESET: before readiness it stays running, as ATTACH does (R439; notes/assumptions/74.md), unless one of the same atelier is
waiting already (R310). -/
def execAtelierReset (port : Nat) (w : CtrlWrite) (arg : Word64) (s : State) : Answer :=
  let fn := w.at_.fn
  let r := { (s.function port fn).wrote w 4 with arg0 := arg }
  onUnit "port" port 2 (onUnit "function" fn 17
    (whenDue (s.served port) s (s.control port w.at_ 4 r false fun t => if s.mstate = 2 then t.resetBy port fn arg else if s.resetTwice port fn arg then t.controlDone port fn 0x06 else t)))

/-- SQ_TAIL (R316): ignored and logged where more commands are claimed than the ring holds. -/
def State.sqTail (s : State) (a queue : Nat) (value : BitVec 32) : State :=
  match SMap.find? s.queues queue with
  | some q =>
    if 2 ^ q.lsize < (value - q.fetched).toNat then s.log 0x0141 (some a) none (if q.kind = 0 then none else some q.ctx) [queue, value.toNat]
    else s.onQueue queue fun q => { q with tail := value }
  | none => s

/-- Whether a doorbell write reaches a queue (R305): only one of the function's own atelier, in a serving module. -/
def State.ownsQueue (s : State) (port fn queue : Nat) : Bool :=
  (s.pciePort port).up && s.mstate = 2 && match s.atelierOfFn port fn, SMap.find? s.queues queue with
    | some a, some q => q.atelier = a && (s.atelier a).attached = some (port, fn)
    | _, _ => false

def execSqTail (port fn queue : Nat) (value : BitVec 32) (s : State) : Answer :=
  onUnit "port" port 2 (onUnit "queue" queue 2048 (whenDue (s.ownsQueue port fn queue) s (s.sqTail ((s.atelierOfFn port fn).getD 0) queue value)))

/-- CQ_HEAD (R316): frees room, and held completions are written. -/
def execCqHead (port fn queue : Nat) (value : BitVec 32) (s : State) : Answer :=
  let t := s.onQueue queue fun q => { q with head := value }
  let n := match SMap.find? s.queues queue with
    | some q => q.held.length
    | none => 0
  onUnit "port" port 2 (onUnit "queue" queue 2048 (whenDue (s.ownsQueue port fn queue) s (State.releaseHeld queue n t)))

/-- A port reset (R303): every atelier attached through the port is detached, and a control command running on one of its functions is
given up. CTRL_CMD's other fields, the arguments and CTRL_STATUS keep their values (DESIGN CHOICE, notes/assumptions/101.md). -/
def State.portReset (s : State) (port : Nat) (x : PciePort) : State :=
  let t := s.detachPort port
  { t.setPcie port x with functions := t.functions.map fun (f : Nat × HostFn) => if f.1 / 32 = port then (f.1, { f.2 with go := false, runs := none }) else f }

/-- PERST_N (R303, R476). -/
def execPerstAssert (port : Nat) (s : State) : Answer :=
  onUnit "port" port 2 (whenDue (!(s.pciePort port).perst) s (s.portReset port { s.pciePort port with perst := true, up := false, answered := false }))
/-- HOT_RESET (R303). -/
def execHotReset (port : Nat) (s : State) : Answer :=
  onUnit "port" port 2 (whenDue (s.pciePort port).up s (s.portReset port { s.pciePort port with up := false, answered := false }))
/-- PCIE_LINK_LOSS (R303). -/
def execPcieLinkLoss (port : Nat) (s : State) : Answer :=
  onUnit "port" port 2 (whenDue (s.pciePort port).up s (s.portReset port { s.pciePort port with up := false, answered := false }))
/-- FUNCTION_LEVEL_RESET (R303): of the physical function a port reset, of a virtual function its atelier's detachment. -/
def execFunctionLevelReset (port fn : Nat) (s : State) : Answer :=
  let t := if fn = 0 then s.portReset port (s.pciePort port)
    else match s.atelierOfFn port fn with
      | some a => if (s.atelier a).attached = some (port, fn) then s.detach a else s
      | none => s
  onUnit "port" port 2 (onUnit "function" fn 17 (whenDue (s.pciePort port).up s t))
/-- Whether a boot has come so far that configuration space is answered in full (R438 order 4), or the recovery function stands (R444). -/
def State.configured (s : State) : Bool := 4 ≤ s.phase || s.mstate = 4

/-- PERST_N_RELEASE (R470, R476): the port may train where its REFCLK is present; its configuration space is answered in full from order
4 of R438. Of REFCLK see notes/assumptions/105.md. -/
def execPerstRelease (port : PerstRelease) (s : State) : Answer :=
  let x := s.pciePort port.port
  onUnit "port" port.port 2 (whenDue x.perst s (s.setPcie port.port { x with perst := false, answered := s.configured, refclk := port.refclk }))
/-- The rates, in tenths of GT/s, and the widths a link comes up at (R300). -/
def linkRates : List Nat := [640, 320, 160, 80, 50, 25]
def linkWidths : List Nat := [8, 4, 2, 1]

/-- PCIE_LINK_UP (R300, R438, R470, R476): from order 1 of a boot on, at a port whose PERST_N is released and whose REFCLK is present; a link
below 64 GT/s × 8 raises a degraded entry. -/
def execPcieLinkUp (port rate width : Nat) (s : State) : Answer :=
  let x := s.pciePort port
  let t := s.setPcie port { x with up := true, rate := rate, width := width, answered := s.configured }
  onUnit "port" port 2 (whenDue (linkRates.contains rate && linkWidths.contains width && !x.perst && !x.up && x.refclk && !s.tamperFuse && 1 ≤ s.mstate && 1 ≤ s.phase) s
    (if rate < 640 || width < 8 then t.note 0x0206 [port, rate, width] else t))

/-- DETACHMENT_QUEUE_DESTROY (R304): a closing queue goes once no accepted command of it remains. -/
def execDetachmentQueueDestroy (queue : Nat) (s : State) : Answer :=
  let due := (SMap.find? s.queues queue).any (·.closing) && s.commands.all fun c => c.2.queue ≠ queue
  onUnit "queue" queue 2048 (whenDue due s { s with queues := SMap.del s.queues queue })

/-- ATS_INVALIDATION (R301): the cached translation is gone before the completion is sent. -/
def execAtsInvalidation (port : Nat) (pasid : Option Nat) (page : Nat) (s : State) : Answer :=
  onUnit "port" port 2 (whenDue (s.pciePort port).up s { s with translations := s.translations.filter fun t => t ≠ (port, pasid, page) })

/-- A control command that waited for readiness goes on (R439). -/
def State.goOn (s : State) (port fn : Nat) : Option Control → State
  | some c => if c.cmd = 1 then s.attach port fn c else if c.cmd = 4 then s.resetBy port fn c.arg0 else s
  | none => s

/-- MODULE_READY (R438, R439): once GDDR7 training has ended, the module is ready, and control commands that are waiting proceed. -/
def execModuleReady (s : State) : Answer :=
  let t := { s with mstate := 2, phase := 6 }
  let u := s.functions.foldl (fun t f => t.goOn (f.1 / 32) (f.1 % 32) f.2.runs) t
  whenDue (s.mstate = 1 && s.phase = 5 && s.training.isSome) s (announce s u)

end Sys2Proof.Machine
end

