-- ==== Sys2Proof/Machine/Commands.lean ====
section
/-!
DEFINITION. The queue engine's checks of commands, their start, fences, contexts, queues, memory objects, images and the
release of objects (R311 to R330, R347, R361, R409, R451).
-/
namespace Sys2Proof.Machine

/-! ### Acceptance -/

/-- The opcodes of R312 and the queue kinds (0 admin, 1 work, 2 real-time) that accept each. -/
def opcodeKinds : Nat → List Nat
  | 0x01 | 0x02 | 0x03 | 0x04 | 0x05 | 0x06 | 0x07 | 0x08 | 0x09 | 0x0A | 0x0B | 0x0C | 0x0D | 0x0E => [0]
  | 0x0F => [1]
  | 0x10 => [0, 1]
  | 0x11 => [1, 2]
  | 0x12 | 0x13 => [0, 1, 2]
  | 0x14 => [1]
  | 0x20 | 0x21 | 0x22 | 0x23 | 0x24 => [0]
  | _ => []

/-- The reserved ranges (low bit, length) of each opcode's payload. -/
def payloadReserved : Nat → List (Nat × Nat)
  | 0x01 | 0x02 => [(26, 6), (40, 472)]
  | 0x04 => [(5, 3), (21, 11), (240, 16), (267, 245)]
  | 0x05 => [(11, 501)]
  | 0x06 => [(7, 1), (14, 2), (26, 6), (112, 16), (160, 352)]
  | 0x07 => [(20, 492)]
  | 0x08 => [(140, 4), (152, 360)]
  | 0x09 => [(16, 496)]
  | 0x0A => [(96, 416)]
  | 0x0B | 0x10 => [(12, 500)]
  | 0x0C => [(28, 4), (78, 2), (176, 16), (304, 208)]
  | 0x0D => [(14, 498)]
  | 0x0E => [(12, 4), (157, 3), (224, 32), (351, 161)]
  | 0x0F => [(12, 20), (64, 448)]
  | 0x11 => [(4, 4), (38, 26), (224, 288)]
  | 0x14 => [(18, 2), (40, 472)]
  | 0x20 => [(6, 58), (288, 224)]
  | 0x22 => [(192, 320)]
  | 0x23 | 0x24 => [(12, 52), (192, 320)]
  | _ => [(0, 512)]

/-- Whether the reserved bits of header and payload are all zero (R311, R320). -/
def Cmd.reservedClear (c : Cmd) : Bool :=
  bitsIn c.bytes 12 4 = 0 && bitsIn c.bytes 24 8 = 0 && bitsIn c.bytes 276 236 = 0 && (payloadReserved c.opcode).all fun r => c.pay r.1 r.2 = 0

/-- The object a free or destroy command condemns (R319). -/
def Cmd.frees (c : Cmd) : Option (ObjKind × Nat) :=
  match c.opcode with
  | 0x07 => some (.mobj, c.pay 0 20)
  | 0x09 => some (.fence, c.pay 0 16)
  | 0x0B => some (.image, c.pay 0 12)
  | 0x0D => some (.coll, c.pay 0 14)
  | _ => none

/-- An object's context and whether it is condemned; none where the slot is free. A job goes with its image (R319, R330; DEDUCED,
notes/assumptions/78.md). -/
def State.objectOf (s : State) : ObjKind × Nat → Option (Nat × Bool)
  | (.mobj, n) => (SMap.find? s.mobjs n).map fun x => (x.ctx, x.condemned)
  | (.fence, n) => (SMap.find? s.fences n).map fun x => (x.ctx, x.condemned)
  | (.image, n) => (SMap.find? s.images n).map fun x => (x.ctx, x.condemned)
  | (.coll, n) => (SMap.find? s.colls n).map fun x => (x.ctx, x.condemned)
  | (.job, n) => (SMap.find? s.jobs n).map fun x => (x.ctx, (SMap.find? s.images n).any (·.condemned))

/-- The status a named object draws: 0x03 free, 0x04 condemned, 0x05 another context's; 0 none of them. That the image of
JOB_CREATE is not loaded is its check 1 (R332), which 0x0B reports. -/
def State.objectStatus (s : State) (c : Cmd) (o : ObjKind × Nat) : Nat :=
  match s.objectOf o with
  | none => if c.opcode = 0x0E && o.1 = .image then 0x0B else 0x03
  | some (ctx, gone) => if gone then 0x04 else if ctx ≠ c.ctx then 0x05 else 0

/-- The device ends of a DMA command (R333): (address, bytes). -/
def Cmd.deviceEnds (c : Cmd) : List (Nat × Nat) :=
  (if c.pay 0 2 = 1 then [(c.pay 64 64, c.pay 192 32)] else []) ++
  (if c.pay 2 2 = 1 then [(c.pay 128 64, if c.pay 0 2 = 0 then 1 else c.pay 192 32)] else [])

/-- The memory objects a DMA command names by address. -/
def State.dmaObjects (s : State) (c : Cmd) : List (ObjKind × Nat) :=
  if c.opcode = 0x11 then c.deviceEnds.filterMap fun e => (s.objectAt c.ctx e.1 e.2).map fun p => (ObjKind.mobj, p.1) else []

/-- The collective descriptors that JOB_CREATE names (R319, R331). -/
def Cmd.listedColls (c : Cmd) : List (ObjKind × Nat) := if c.opcode = 0x0E then (upFrom (c.pay 128 14) (c.pay 142 15)).map fun n => (ObjKind.coll, n) else []

/-- The memory objects that JOB_CREATE lists in host memory (R331), `list` as it is read. -/
def Cmd.listedObjects (c : Cmd) (list : Bytes) : List (ObjKind × Nat) :=
  if c.opcode = 0x0E then (List.range (c.pay 320 20)).map fun i => (ObjKind.mobj, bitsIn (slice list (4 * i) 4) 0 20) else []

/-- All that a command names (R319) and that may bar its acceptance: by slot or, in a DMA, by address; of the descriptors a JOB_CREATE names, the
condemned ones, the rest being its check 6 (R332). -/
def State.namedBy (s : State) (c : Cmd) : List (ObjKind × Nat) := c.named ++ s.dmaObjects c ++ c.listedColls.filter fun o => (s.objectOf o).any (·.2)

/-- The references an accepted command takes (R319): all it names but what it frees, and what a JOB_CREATE lists that is live and of its
context. -/
def State.refsOf (s : State) (c : Cmd) (list : Bytes) : List (ObjKind × Nat) :=
  (c.named.filter fun o => some o ≠ c.frees) ++ s.dmaObjects c ++ (c.listedColls ++ c.listedObjects list).filter fun o => s.objectOf o = some (c.ctx, false)

/-- Whether an accepted JOB_CREATE that has yet to be carried out lists a memory object (R317). -/
def State.listing (s : State) (n : Nat) : Bool := s.commands.any fun (p : Nat × Cmd) => p.2.opcode = 0x0E && p.2.refs.contains (.mobj, n)

/-- The class mask of a real-time queue's slot class (R377). -/
def State.canvasOf (s : State) (a : Nat) : Bytes := match s.entry a with
  | some e => e.canvas
  | none => []

/-- The serving job of a class (R373, R377). -/
def State.servingJob (s : State) (a cls : Nat) : Option (Nat × Job) :=
  List.find? (fun p : Nat × Job => p.2.serving && !p.2.ended && p.2.atelier = a && bitsIn p.2.block 60 4 = cls) s.jobs

/-- The status of the DMA rules of R333, R377 and R415; 0 where none is broken. -/
def State.dmaStatus (s : State) (q : Queue) (c : Cmd) : Nat :=
  let sk := c.pay 0 2
  let dk := c.pay 2 2
  let dst := s.objectAt c.ctx (c.pay 128 64) 1
  if q.kind = 2 then
    match s.servingJob q.atelier q.slot with
    | none => 0x07
    | some (_, j) => if sk = 0 && dk = 1 && c.pay 128 64 = bitsIn j.block 0 48 && 0 < c.pay 192 32 then 0 else 0x07
  else if 1 < sk || dk = 3 || c.pay 192 32 = 0 || (sk = 0 && dk = 0) then 0x07
  else if c.deviceEnds.any fun e => (s.objectAt c.ctx e.1 e.2).isNone then 0x09
  else if dk = 1 && (dst.any fun p => p.2.ro && (p.2.listed || s.listing p.1)) then 0x07
  else if dk = 0 then 0x0C
  else 0

/-- The quadrants a core command occupies (R337, R353). -/
def State.commandQuadrants (s : State) (c : Cmd) : List Nat :=
  let cores := match c.opcode with
    | 0x0F => imageCores (s.imageOf (c.pay 0 12))
    | 0x14 => weightCores (s.imageOf (c.pay 0 12))
    | _ => []
  (cores.map quadrantOf).foldl NatSet.add []

/-- A core command's energy as charged: 640 drops a quadrant where the field is 0 (R361). -/
def Cmd.drops (c : Cmd) : Nat := if c.energy = 0 then 640 else c.energy

/-- Whether a command is a core command on a work queue (R337). -/
def Cmd.isCore (c : Cmd) : Bool := c.opcode = 0x0F || c.opcode = 0x14

/-- The quadrants of a mask. -/
def maskQuads (m : Nat) : List Nat := (List.range 48).filter m.testBit

/-- The class mask that a serving job serves (R373), and what a pass of it is charged a quadrant (R374, R375). -/
def State.classQuads (s : State) (j : Job) : List Nat := maskQuads (classMask (s.canvasOf j.atelier) (bitsIn j.block 60 4))
def Job.passDrops (j : Job) : Nat := if bitsIn j.block 336 32 = 0 then 640 else bitsIn j.block 336 32

/-- Whether a charge of `drops` a quadrant passes 4,000 drops on some panel at 0.55 V (R361): s = 3,751 / 13,500. -/
def overcharged (quads : List Nat) (drops : Nat) : Bool :=
  (List.range 12).any fun p => decide (4000 < (drops * (quads.filter fun q => q / 4 = p).length * 3751 + 13499) / 13500)

/-- Whether a core command's charge is above that limit: a work queue's by its own energy field, a real-time queue's as the pass that will take
it up (R337, R375). -/
def State.tooCostly (s : State) (q : Queue) (c : Cmd) : Bool :=
  (c.isCore && overcharged (s.commandQuadrants c) c.drops) ||
  (q.kind = 2 && c.opcode = 0x11 && (s.servingJob q.atelier q.slot).any fun x => overcharged (s.classQuads x.2) x.2.passDrops)

/-- The status of np and the energy limit (R347, R361); 0 where neither is broken. A query of a real-time queue is a core command too (R337). -/
def State.schedStatus (s : State) (q : Queue) (c : Cmd) : Nat :=
  let lnp := match s.entry c.atelier with
    | some e => 10 * e.lnp
    | none => 0
  let core := c.isCore || (q.kind = 2 && c.opcode = 0x11)
  if core && c.np && lnp < c.est then 0x08
  else if core && c.np && c.est = 0 then 0x07
  else if s.tooCostly q c then 0x07 else 0

/-- Whether the lease's state admits a command (R409, R411, R414, R431). -/
def State.leaseAdmits (s : State) (a : Nat) (c : Cmd) : Bool :=
  let act := c.pay 0 2
  match (s.lease a).state with
  | 0 => c.opcode = 0x13 || (c.opcode = 0x20 && act = 0)
  | 1 => c.opcode = 0x13 || c.opcode = 0x21 || (c.opcode = 0x20 && (act = 1 || act = 2))
  | 2 => !(c.opcode = 0x20 && (act = 0 || act = 1))
  | _ => false

/-- The status of the rules that each opcode adds at acceptance (R322, R332, R373, R375, R387, R453). -/
def State.jobStatus (s : State) (c : Cmd) : Nat :=
  let job := SMap.find? s.jobs (c.pay 0 12)
  match c.opcode with
  | 0x0F => if job.any (fun (j : Job) => j.serving || j.unsound) || c.pay 32 32 = 0 then 0x07 else 0
  | 0x14 =>
    let used := s.jobs.any fun (p : Nat × Job) => p.2.serving && bitsIn p.2.block 320 12 = c.pay 0 12 && ((p.2.pendingSnap.any fun x => x.1 = c.pay 20 20) || p.2.inService.any fun x => x.1 = c.pay 20 20)
    let named := s.commands.any fun (p : Nat × Cmd) => p.2.opcode = 0x14 && p.2.pay 20 20 = c.pay 20 20
    let fmtGood := [0x3, 0x4, 0x7].contains (c.pay 12 4) && (fmtVar (c.pay 12 4) (c.pay 16 2)).isSome && (c.pay 12 4 ≠ 7 || c.pay 16 2 ≠ 0)
    if used || named || !fmtGood then 0x07 else 0
  | 0x20 => if c.pay 0 2 = 3 then 0x07 else 0
  | 0x23 => if (s.lease c.atelier).commission.all fun x => !x.ckpt then 0x0C else 0
  | 0x22 => if (s.lease c.atelier).commission.all fun x => !x.exhibit then 0x0C else 0
  | _ => 0

/-- Whether a context still has objects (R322). -/
def State.ctxBusy (s : State) (n : Nat) : Bool :=
  (s.queues.any fun q => q.2.kind ≠ 0 && q.2.ctx = n) || (s.mobjs.any fun x => x.2.ctx = n) || (s.fences.any fun x => x.2.ctx = n) ||
  (s.images.any fun x => x.2.ctx = n) || s.colls.any fun x => x.2.ctx = n

/-- The status of a queue descriptor (R313, R314); 0 where it is good. -/
def Cmd.queueStatus (c : Cmd) : Nat :=
  let kind := c.pay 0 2
  if c.pay 8 8 ≠ c.ctx then 0x05
  else if !(kind = 1 || kind = 2) || c.pay 16 5 < 6 || 16 < c.pay 16 5 || (kind = 1 && c.pay 236 4 ≠ 0) then 0x07
  else if c.pay 32 64 % 4096 ≠ 0 || c.pay 96 64 % 4096 ≠ 0 || c.pay 160 64 % 8 ≠ 0 then 0x09
  else 0

/-- The status of the queue that QUEUE_DESTROY names (R312, R320); 0 where it may go. -/
def State.destroyStatus (s : State) (c : Cmd) : Nat := match SMap.find? s.queues (c.pay 0 11) with
  | none => 0x03
  | some q => if q.atelier ≠ c.atelier then 0x05 else if q.kind = 0 then 0x07 else 0

/-- The status of a memory-object descriptor (R317, R318); 0 where it is good. -/
def State.mobjStatus (s : State) (c : Cmd) : Nat :=
  let gddr := c.pay 0 2 = 1
  let va := c.pay 32 48
  let size := c.pay 80 32 * pageSize gddr
  if c.pay 16 8 ≠ c.ctx then 0x05
  else if 1 < c.pay 0 2 || c.pay 80 32 = 0 || (!gddr && s.atelierOfQuadrant (c.pay 8 6) ≠ some c.atelier) then 0x07
  else if va % pageSize gddr ≠ 0 || 2 ^ 48 < va + size || va < 0x200000 then 0x09
  else if s.mobjs.any fun x => x.2.ctx = c.ctx && decide (x.2.va < va + size) && decide (va < x.2.va + x.2.size) then 0x09
  else 0

/-- The status of a fence descriptor (R313, R323); 0 where it is good. -/
def Cmd.fenceStatus (c : Cmd) : Nat := if c.pay 144 8 ≠ c.ctx then 0x05 else if c.pay 64 64 % 8 ≠ 0 then 0x09 else 0

/-- Whether a collective descriptor keeps the limits of R287. -/
def collGood (d : Bytes) : Bool :=
  let c : Coll := ⟨0, d, [], 0, false, none⟩
  let n := c.field 64 14
  let fmtGood := if c.op ≤ 2 then c.fmt = 0xD else if c.op = 3 then scatterFmt c.fmt else if c.op = 4 then c.fmt ≤ 0xD else c.fmt = 0
  decide (c.op ≤ 5) && fmtGood && decide (1 ≤ n) && decide (n ≤ 10368) && decide (c.seq ≤ 0xFFFFFFEF) && decide (c.field 224 16 ≤ 1000) &&
  decide (c.lrole ≤ 1) && (c.lrole = 0 || c.op = 1 || c.op = 2) && (c.result = 0 || c.op = 4 || (c.op = 1 && c.lrole = 0)) &&
  (c.aux = 0 || c.op = 1 || c.op = 2 || c.op = 3)

/-- The status of a collective descriptor (R287, R313); 0 where it is good. -/
def Cmd.collStatus (c : Cmd) : Nat :=
  let d := slice c.bytes 64 64
  if bitsIn d 240 8 ≠ c.ctx then 0x05 else if !collGood d then 0x07 else if bitsIn d 80 48 % 8 ≠ 0 then 0x09 else 0

/-! ### Slots, quotas and pages (R182, R188, R318, R321) -/

/-- Decant regions taken by die, `n` in all. -/
def AtelierEntry.decantTaken (e : AtelierEntry) : Nat → Nat → List Nat → List Nat
  | 0, _, taken => taken
  | n + 1, d, taken =>
    let pick := ((List.range 4).map fun i => (d + i) % 4).find? fun k => taken.getD k 0 < (e.regions.getD k (0, 0)).2
    match pick with
    | none => taken
    | some k => AtelierEntry.decantTaken e n ((k + 1) % 4) (taken.set k (taken.getD k 0 + 1))

/-- The data regions of a port die from which an atelier's objects take pages (R318, R446): global region numbers. -/
def AtelierEntry.objectRegions (e : AtelierEntry) (d : Nat) : List Nat :=
  let taken := (AtelierEntry.decantTaken e e.decant 0 [0, 0, 0, 0]).getD d 0
  let r := e.regions.getD d (0, 0)
  (List.range (r.2 - taken)).map fun i => 65536 * d + r.1 + taken + i

/-- Pages in use by memory objects of a kind. -/
def State.usedPages (s : State) (gddr : Bool) : List Nat := (s.mobjs.filter fun x => x.2.gddr = gddr).flatMap fun x => x.2.pages

/-- Whether a region can give a page that reads as zero (R318, R403, R408): it is neither retired nor has lost groups
(DEDUCED, notes/assumptions/79.md). -/
def State.regionSound (s : State) (g : Nat) : Bool := !(s.root g).retired && (s.root g).lost = 0

/-- The pages a new GDDR7 object takes (R188, R318): page k from port die (d0 + k) mod 4, or all from one. -/
def State.takeRegions (s : State) (e : AtelierEntry) (pinned : Bool) (d0 n : Nat) : Option (List Nat) :=
  let used := s.usedPages true
  let free := (List.range 4).map fun d => (e.objectRegions d).filter fun g => !used.contains g && s.regionSound g
  let picks := (List.range n).map fun k => if pinned then (free.getD d0 [])[k]? else (free.getD ((d0 + k) % 4) [])[k / 4]?
  if picks.all (·.isSome) then some (picks.filterMap id) else none

/-- The pages a new reservoir object takes from a quadrant's share (R182). -/
def State.takePages (s : State) (quad n : Nat) : Option (List Nat) :=
  let share := match s.installation with
    | some i => i.shares.getD quad 0
    | none => 0
  let used := s.usedPages false
  let free := ((List.range share).map fun i => 73728 * quad + i).filter fun p => !used.contains p
  if n ≤ free.length then some (free.take n) else none

/-- The pages that MOBJ_CREATE's object takes, whose slot is to be `slot`. -/
def State.newPages (s : State) (c : Cmd) (slot : Nat) : Option (List Nat) :=
  if c.pay 0 2 = 1 then (s.entry c.atelier).bind fun e => s.takeRegions e (c.pay 4 1 = 1) (if c.pay 4 1 = 1 then c.pay 5 2 else slot % 4) (c.pay 80 32)
  else s.takePages (c.pay 8 6) (c.pay 80 32)

/-- How many of an atelier's objects a list of their contexts names. -/
def State.ofAtelier (s : State) (a : Nat) (ctxs : List Nat) : Nat := (ctxs.filter fun n => (SMap.find? s.contexts n).any fun x => x.atelier = a).length

/-- Whether a creating command finds a free slot within its atelier's quota, and its pages (R321). -/
def State.hasRoom (s : State) (c : Cmd) : Bool :=
  let below := fun (mine : Nat) (f : AtelierEntry → Nat) => (s.entry c.atelier).any fun e => decide (mine < f e)
  match c.opcode with
  | 0x01 => SMap.freeKey s.contexts 256 0 < 256 && below (s.contexts.filter fun x => x.2.atelier = c.atelier).length (·.ctxq)
  | 0x04 => s.freeQueue.isSome && below (s.queuesOf c.atelier) (·.qq)
  | 0x06 => SMap.freeKey s.mobjs 1048576 0 < 1048576 && below (s.ofAtelier c.atelier (s.mobjs.map fun x => x.2.ctx)) (·.mobjq) &&
      (s.newPages c (SMap.freeKey s.mobjs 1048576 0)).isSome
  | 0x08 => SMap.freeKey s.fences 65536 0 < 65536 && below (s.ofAtelier c.atelier (s.fences.map fun x => x.2.ctx)) (·.fenceq)
  | 0x0A => SMap.freeKey s.images 4096 0 < 4096 && below (s.ofAtelier c.atelier (s.images.map fun x => x.2.ctx)) (·.imgq)
  | 0x0C => SMap.freeKey s.colls 16384 0 < 16384 && below (s.ofAtelier c.atelier (s.colls.map fun x => x.2.ctx)) (·.collq)
  | _ => true

/-- The status that what a creating or destroying command describes draws when it is fetched (R313; DEDUCED, notes/assumptions/77.md); 0
where it is good and finds room. -/
def State.descStatus (s : State) (c : Cmd) : Nat :=
  let d := match c.opcode with
    | 0x03 => if s.ctxBusy c.ctx then 0x07 else 0
    | 0x04 => c.queueStatus
    | 0x05 => s.destroyStatus c
    | 0x06 => s.mobjStatus c
    | 0x08 => c.fenceStatus
    | 0x0C => c.collStatus
    | _ => 0
  if d ≠ 0 then d else if s.hasRoom c then 0 else 0x06

/-- The status an acceptance ends with: 0 accepted (R313, R320). -/
def State.acceptStatus (s : State) (q : Queue) (c : Cmd) : Nat :=
  if !(opcodeKinds c.opcode).contains q.kind || !c.reservedClear then 0x01
  else if !s.leaseAdmits q.atelier c then 0x0C
  else if q.kind ≠ 0 && c.ctx ≠ q.ctx then 0x02
  else if c.inContext && (SMap.find? s.contexts c.ctx).isNone then 0x03
  else if (c.inContext || [0x05, 0x12, 0x13].contains c.opcode) && (SMap.find? s.contexts c.ctx).any fun x => x.atelier ≠ q.atelier then 0x02
  else match ((s.namedBy c).map (s.objectStatus c)).find? (· ≠ 0) with
    | some r => r
    | none =>
      let d := if c.opcode = 0x11 then s.dmaStatus q c else s.descStatus c
      if d ≠ 0 then d else if s.schedStatus q c ≠ 0 then s.schedStatus q c else s.jobStatus c

/-- COMMAND_START (R313, R326): its successor becomes next to start. -/
def execCommandStart (queue : Nat) (s : State) : Answer :=
  onUnit "queue" queue 2048
    (match s.nextToStart queue with
     | some (n, c) => whenDue (s.mstate = 2 && s.waitDone c) s ((s.onCmd n fun c => { c with state := .running }).latchNext queue)
     | none => .next s)

/-- A started command carried out by its row: `f` where the serial names a running command of the opcode. -/
def onCommand (s : State) (n opcode : Nat) (f : Cmd → State) : Answer :=
  match SMap.find? s.commands n with
  | some c => whenDue (s.mstate = 2 && c.opcode = opcode && c.state = .running) s (f c)
  | none => .next s

/-! ### Contexts and queues -/

/-- CTX_CREATE (R315, R321). -/
def execCtxCreate (cmd : Nat) (s : State) : Answer :=
  onCommand s cmd 0x01 fun c =>
    let n := SMap.freeKey s.contexts 256 0
    if !s.hasRoom c then s.refuse cmd 0x06 0
    else
      let port := ((s.atelier c.atelier).attached.map Prod.fst).getD 0
      { s with contexts := SMap.put s.contexts n ⟨c.atelier, BitVec.ofNat 20 (c.pay 0 20), c.pay 20 1 = 1, port⟩ }.finish cmd 0x00 n

/-- CTX_BIND (R322): PASID and port only. -/
def execCtxBind (cmd : Nat) (s : State) : Answer :=
  onCommand s cmd 0x02 fun c =>
    let port := ((s.atelier c.atelier).attached.map Prod.fst).getD 0
    { s with contexts := SMap.adjust s.contexts c.ctx fun x => { x with pasid := BitVec.ofNat 20 (c.pay 0 20), pasidEn := c.pay 20 1 = 1, port := port } }.finish cmd 0x00 c.ctx

/-- CTX_DESTROY (R322): objects created since it was fetched keep it as well. -/
def execCtxDestroy (cmd : Nat) (s : State) : Answer :=
  onCommand s cmd 0x03 fun c =>
    if s.ctxBusy c.ctx then s.refuse cmd 0x07 0 else { s with contexts := SMap.del s.contexts c.ctx }.finish cmd 0x00 0

/-- QUEUE_CREATE (R314, R321). -/
def execQueueCreate (cmd : Nat) (s : State) : Answer :=
  onCommand s cmd 0x04 fun c =>
    let kind := c.pay 0 2
    if c.queueStatus ≠ 0 then s.refuse cmd c.queueStatus 0
    else match s.freeQueue with
      | none => s.refuse cmd 0x06 0
      | some n =>
        if !s.hasRoom c then s.refuse cmd 0x06 0
        else
          let q : Queue := ⟨c.atelier, kind, c.pay 2 3, c.ctx, c.pay 16 5, BitVec.ofNat 64 (c.pay 32 64), BitVec.ofNat 64 (c.pay 96 64),
            BitVec.ofNat 64 (c.pay 160 64), c.pay 224 11, c.pay 235 1 = 1, c.pay 236 4, 0, 0, 0, 0, [], false⟩
          { s with queues := SMap.put s.queues n q }.finish cmd 0x00 n

/-- QUEUE_DESTROY (R312): a work or real-time queue of the atelier; it goes once no accepted command of it remains. -/
def execQueueDestroy (cmd : Nat) (s : State) : Answer :=
  onCommand s cmd 0x05 fun c =>
    let n := c.pay 0 11
    if s.destroyStatus c ≠ 0 then s.refuse cmd (s.destroyStatus c) 0
    else if s.commands.any fun x => x.2.queue = n then (s.onQueue n fun q => { q with closing := true, held := [] }).finish cmd 0x00 0
    else { s with queues := SMap.del s.queues n }.finish cmd 0x00 0

/-! ### Memory objects -/

/-- MOBJ_CREATE (R317, R318, R321). -/
def execMobjCreate (cmd : Nat) (s : State) : Answer :=
  onCommand s cmd 0x06 fun c =>
    let status := s.mobjStatus c
    let slot := SMap.freeKey s.mobjs 1048576 0
    let gddr := c.pay 0 2 = 1
    let pinned := c.pay 4 1 = 1
    let d0 := if pinned then c.pay 5 2 else slot % 4
    if status ≠ 0 then s.refuse cmd status 0
    else match s.newPages c slot with
      | none => s.refuse cmd 0x06 0
      | some ps =>
          if !s.hasRoom c then s.refuse cmd 0x06 0
          else
            let m : MObj := ⟨c.ctx, gddr, c.pay 2 1 = 1, c.pay 3 1 = 1, pinned, d0, c.pay 8 6, c.pay 32 48, ps, false, 0, false, none⟩
            { s with mobjs := SMap.put s.mobjs slot m }.finish cmd 0x00 slot

/-- MOBJ_FREE (R319): its work is done at acceptance; it completes at the release. -/
def execMobjFree (cmd : Nat) (s : State) : Answer := onCommand s cmd 0x07 fun _ => s.onCmd cmd fun c => { c with state := .working }
/-- FENCE_DESTROY (R319). -/
def execFenceDestroy (cmd : Nat) (s : State) : Answer := onCommand s cmd 0x09 fun _ => s.onCmd cmd fun c => { c with state := .working }
/-- IMAGE_FREE (R319). -/
def execImageFree (cmd : Nat) (s : State) : Answer := onCommand s cmd 0x0B fun _ => s.onCmd cmd fun c => { c with state := .working }
/-- COLL_FREE (R319). -/
def execCollFree (cmd : Nat) (s : State) : Answer := onCommand s cmd 0x0D fun _ => s.onCmd cmd fun c => { c with state := .working }

/-! ### Fences -/

/-- FENCE_CREATE (R323, R321). -/
def execFenceCreate (cmd : Nat) (s : State) : Answer :=
  onCommand s cmd 0x08 fun c =>
    let n := SMap.freeKey s.fences 65536 0
    if c.fenceStatus ≠ 0 then s.refuse cmd c.fenceStatus 0
    else if !s.hasRoom c then s.refuse cmd 0x06 0
    else
      let f : Fence := ⟨c.ctx, BitVec.ofNat 64 (c.pay 0 64), BitVec.ofNat 64 (c.pay 64 64), c.pay 128 11, c.pay 139 1 = 1, 0, false, none⟩
      { s with fences := SMap.put s.fences n f }.finish cmd 0x00 n

/-- Waits evaluated again after an accepted signal (R326): only a command next to start in its queue. -/
def State.evaluateWaits (s : State) (fence : Nat) : State :=
  { s with commands := s.commands.map fun (p : Nat × Cmd) =>
      if p.2.waitEn && p.2.waitFence = fence && (s.nextToStart p.2.queue).map Prod.fst = some p.1 && s.waitDone p.2 then (p.1, { p.2 with released := true }) else p }

/-- One signal applied (R324, R325); a quiet one writes no shadow and sends no message (R304). -/
def State.applySignal (s : State) (n : Nat) (v : Word64) (quiet : Bool) : State :=
  match SMap.find? s.fences n with
  | none => s
  | some f =>
    let a := match SMap.find? s.contexts f.ctx with
      | some c => c.atelier
      | none => 0
    if signalTakes f.value v then
      let s1 := { s with fences := SMap.adjust s.fences n fun f => { f with value := v } }
      let s2 := if f.shadow = 0 || quiet then s1 else s1.ctxWrite f.ctx f.shadow.toNat (leBytes 8 v.toNat)
      (if f.vecEn && !quiet then s2.interrupt a f.vector else s2).evaluateWaits n
    else s.log 0x0142 (some a) none (some f.ctx) [n, f.value.toNat, v.toNat]

/-- FENCE_SIGNAL: the signal that arrived first (R325). -/
def execFenceSignal (s : State) : Answer :=
  match s.signals with
  | (n, v, quiet) :: rest => .next ({ s with signals := rest }.applySignal n v quiet)
  | [] => .next s

/-- SIGNAL (R312, R325): its completion signals through sig_en. -/
def execSignal (cmd : Nat) (s : State) : Answer := onCommand s cmd 0x12 fun _ => s.finish cmd 0x00 0
/-- NOP (R312). -/
def execQueueNop (cmd : Nat) (s : State) : Answer := onCommand s cmd 0x13 fun _ => s.finish cmd 0x00 0

/-! ### Images and releases -/

/-- Whether an image passes the checks of R329 in an atelier; a core that one stage lists twice is one core of the stage. -/
def State.imageGood (s : State) (a : Nat) (b : Bytes) : Bool :=
  let n := imageStages b
  let inside := fun off len => decide (off + len ≤ b.length)
  bitsIn b 0 32 = 0x49505A41 && bitsIn b 32 16 = 1 && imageLength b = b.length && bitsIn b 96 32 = 0 && bitsIn b 148 12 = 0 && bitsIn b 208 48 = 0 &&
  ofLe (slice b 64 192) = 0 && decide (1 ≤ n) && decide (n ≤ 10368) && imageLstrip b % 512 = 0 && imageFstrip b % 512 = 0 && inside 256 (64 * n) &&
  sm3 (slice b 0 32 ++ List.replicate 32 (0 : Byte) ++ b.drop 64) = slice b 32 32 &&
  (List.range n).all (fun st =>
    let f := stageField b st
    f 47 17 = 0 && f 130 30 = 0 && f 256 256 = 0 && decide (1 ≤ stageCount b st) && decide (stageCount b st ≤ 10368) &&
    decide (1 ≤ stageWords b st) && decide (stageWords b st ≤ 2048) && decide (stageBase b st + stageWords b st ≤ 2048) &&
    decide (stageBase b st ≤ stageEntry b st) && decide (stageEntry b st < stageBase b st + stageWords b st) &&
    (!stageWeights b st || decide (stageBase b st + stageWords b st ≤ 1792)) &&
    inside (f 0 32) (2 * stageCount b st) && inside (f 64 32) (32 * stageWords b st) && inside (f 160 32) 256 && inside (f 224 32) 64) &&
  (imageCores b).all (fun c => decide (c < 10368) && s.holds a c) && distinct (imageCores b)

/-- The program digest of an image (R327). -/
def imageDigest (b : Bytes) : Bytes := slice b 32 32

/-- The status that an image draws under the checks of R329 and the commission (R415); 0 where it may be loaded. -/
def State.imageStatus (s : State) (a : Nat) (b : Bytes) : Nat :=
  if !s.imageGood a b then 0x0A else if (s.lease a).commission.all fun x => !x.progs.contains (imageDigest b) then 0x0C else 0

/-- IMAGE_LOAD (R329, R330): read, checked and kept on package. -/
def execImageLoad (cmd : Nat) (host : Option Bytes) (s : State) : Answer :=
  onCommand s cmd 0x0A fun c =>
    match host with
    | none => s.finish cmd 0x0E 0
    | some bs =>
      let b := padTo (c.pay 64 32) bs
      let s := s.readFor c (c.pay 0 64) (c.pay 64 32)
      let slot := SMap.freeKey s.images 4096 0
      if s.imageStatus c.atelier b ≠ 0 then s.refuse cmd (s.imageStatus c.atelier b) 0
      else if !s.hasRoom c then s.refuse cmd 0x06 0
      else { s with images := SMap.put s.images slot ⟨c.ctx, b, 0, false, none⟩ }.finish cmd 0x00 slot

/-- The free command of a released object completes (R319). -/
def State.finishFree (s : State) : Option Nat → State
  | some n => s.finish n 0x00 0
  | none => s

/-- The cores assigned to a job, each changed. -/
def State.onJobCores (s : State) (n : Nat) (f : Core → Core) : State :=
  (s.cores.map Prod.fst).foldl (fun s k => if (s.core k).job = some n then s.setCore k (f (s.core k)) else s) s

/-- An image and its job gone: no core is assigned to it any longer (R330). -/
def State.dropImage (s : State) (slot : Nat) : State :=
  ({ s with images := SMap.del s.images slot, jobs := SMap.del s.jobs slot } : State).onJobCores slot fun c => { c with job := none, step := none }

/-- OBJECT_RELEASE (R319): a condemned object without references is unmapped, its pages zeroed, for which one of the module's own tags is free
(R194), its slot freed. -/
def State.release (s : State) (kind slot : Nat) : Option State :=
  match kind with
  | 0 => match SMap.find? s.mobjs slot with
    | some m => if m.condemned && m.refs = 0 && s.freeModuleTag.isSome then
        some ((m.pages.foldl (fun (s : State) p => s.zeroPage m.gddr p) { s with mobjs := SMap.del s.mobjs slot }).finishFree m.free) else none
    | none => none
  | 1 => match SMap.find? s.fences slot with
    | some m => if m.condemned && m.refs = 0 then some ({ s with fences := SMap.del s.fences slot }.finishFree m.free) else none
    | none => none
  | 2 => match SMap.find? s.images slot with
    | some m => if m.condemned && m.refs = 0 && (SMap.find? s.jobs slot).all fun j => !j.running && j.refs = 0 then
        some ((match SMap.find? s.jobs slot with
          | some j => s.refer (· - 1) ((if j.holding then j.listed else []) ++ j.snaps)
          | none => s).dropImage slot |>.finishFree m.free) else none
    | none => none
  | _ => match SMap.find? s.colls slot with
    | some m => if m.condemned && m.refs = 0 then some ({ s with colls := SMap.del s.colls slot }.finishFree m.free) else none
    | none => none

def execObjectRelease (kind slot : Nat) (s : State) : Answer :=
  match s.release kind slot with
  | some t => .next t
  | none => .next s

end Sys2Proof.Machine
end

