-- ==== Sys2Proof/Machine/Energy.lean ====
section
/-!
DEFINITION. Charges, beat rates, predicted junctions and thermal classes (R352 to R358, R361, R362, R375), and the openings of canvas
slots (R372): what dispatch and the flacon's windows share.
-/
namespace Sys2Proof.Machine

/-! ### Beat rates and charges -/

/-- The rows of R356, in units of 0.01 G beats/s, from 0.55 V up; columns at 45, 70, 100 and 115 °C. -/
def rateTable : List (List Nat) :=
  [[64, 62, 60, 56], [81, 78, 75, 70], [97, 93, 89, 83], [112, 107, 102, 95], [126, 120, 114, 106], [137, 130, 123, 114], [145, 138, 131, 122]]

/-- The planned beat rate of a supply code at a junction in 1/16 °C (R356), as a fraction in units of 0.01 G beats/s: linear
between rows and between columns. -/
def plannedRate (vcode : Nat) (t : Int) : Nat × Nat :=
  let x := (clampInt 720 1840 t).toNat
  let j := if x < 1120 then 0 else if x < 1600 then 1 else 2
  let w := [400, 480, 240].getD j 1
  let b := x - [720, 1120, 1600].getD j 0
  let row := fun r => let l := rateTable.getD r []; l.getD j 0 * (w - b) + l.getD (j + 1) 0 * b
  ((5 - vcode % 5) * row (vcode / 5) + vcode % 5 * row (vcode / 5 + 1), 5 * w)

/-- The charge of `n` quadrants at `drops` each (R353), rounded up to whole drops. -/
def chargeAt (vcode : Nat) (t : Int) (drops n : Nat) : Nat :=
  let (f, d) := plannedRate vcode t
  let den := d * 120 * 75 ^ 2
  (drops * n * f * (55 + vcode) ^ 2 + den - 1) / den

/-- The junction at which the flacon plans a panel (R356): a panel of class 3 with the figures of the last two columns, from 100 °C up
(DEDUCED, notes/assumptions/106.md). -/
def Panel.planAt (x : Panel) : Int := if x.cls = 3 then max 1600 x.tmeas else x.tmeas

/-- How many of a list of quadrants lie on a panel. -/
def quadsOn (quads : List Nat) (p : Nat) : Nat := (quads.filter fun q => q / 4 = p).length

/-- What a core command occupies: its quadrants, and its energy field in drops a quadrant. -/
structure Demand where
  quads : List Nat
  drops : Nat
  deriving DecidableEq, Repr, Inhabited

/-- A work queue's core command as a demand (R337, R361). -/
def State.demand (s : State) (c : Cmd) : Demand := ⟨s.commandQuadrants c, c.drops⟩

/-- A pass as a demand (R375). -/
def State.passDemand (s : State) (p : Pass) : Demand := match SMap.find? s.jobs p.job with
  | some j => ⟨s.classQuads j, j.passDrops⟩
  | none => ⟨[], 0⟩

/-- Whether a started core command holds its cores, or has claimed them (R359): a SNAPSHOT does, a JOB_RUN while its job is not
switching out. -/
def State.onCoresNow (s : State) (c : Cmd) : Bool :=
  c.isCore && c.state = .working && (c.opcode = 0x14 || (SMap.find? s.jobs (c.pay 0 12)).any fun j => !j.switching)

/-- The core commands running (R353). -/
def State.running (s : State) : List Demand :=
  ((List.filter (fun p : Nat × Cmd => s.onCoresNow p.2) s.commands).map fun p => s.demand p.2) ++
  (s.serving.passes.filter fun p => p.started && !p.dropped).map s.passDemand

/-- A demand's charge on a panel at a supply code. -/
def State.chargeOn (s : State) (p vcode : Nat) (d : Demand) : Nat := chargeAt vcode (s.panel p).planAt d.drops (quadsOn d.quads p)
/-- The charges of the running commands on a panel at a supply code. -/
def State.chargesAt (s : State) (p vcode : Nat) : Nat := (s.running.map (s.chargeOn p vcode)).sum
/-- The remaining budget of a panel (R353). -/
def State.remaining (s : State) (p : Nat) : Nat := (s.panel p).budget - max (s.chargesAt p (s.panel p).vcode) (s.panel p).used

/-! ### Heat -/

/-- T_p for a planned power of `drops` a window (R357): P is drops / 8 W. -/
def Panel.predict (x : Panel) (drops : Nat) : Int :=
  x.tmeas + (x.share : Int) * (x.coolant + ((x.resistance * drops * 2 / 1000 : Nat) : Int) - x.tmeas) / 65536

/-- The upper bound of a class (R358) in 1/16 °C. -/
def classBound (c : Nat) : Int := [720, 1280, 1520].getD c 1520
/-- The class that T_p and T_m call for (R358). -/
def classOf (tp tm : Int) : Nat := if 1520 < tp || 1600 < tm then 3 else if 1280 < tp then 2 else if 720 < tp then 1 else 0

/-- Whether a panel's class allows a new core command (R358). -/
def State.classAllows (s : State) (p : Nat) (d : Demand) : Bool :=
  let x := s.panel p
  if x.cls = 3 then false
  else if x.cls = 2 then decide (x.predict (s.chargesAt p x.vcode + s.chargeOn p x.vcode d) ≤ 1520)
  else true

/-- Whether a demand fits on every panel it occupies (R359). -/
def State.fits (s : State) (d : Demand) : Bool :=
  (List.range 12).all fun p => quadsOn d.quads p = 0 || (decide (s.chargeOn p (s.panel p).vcode d ≤ s.remaining p) && s.classAllows p d)

/-- Panels that run a core command are marked so (R362). -/
def State.markRan (s : State) (d : Demand) : State :=
  ((List.range 12).filter fun p => quadsOn d.quads p ≠ 0).foldl (fun s p => s.setPanel p { s.panel p with ran := true }) s

/-! ### Openings -/

/-- The timestamp at which slot i opens, and at which its deadline falls, in period k (R372). -/
def openingAt (t : Bytes) (k i : Nat) : Nat := 100 * (canvasPeriod t * k + (canvasSlot t i).start)
def deadlineAt (t : Bytes) (k i : Nat) : Nat := 100 * (canvasPeriod t * k + (canvasSlot t i).deadline)
/-- The period number at a timestamp (R372). -/
def periodOf (t : Bytes) (now : Nat) : Nat := now / (100 * max 1 (canvasPeriod t))

/-- The first opening at or after a time, of those that `ok` takes by period and slot: (period, slot). -/
def nextOpening (t : Bytes) (now : Nat) (ok : Nat → Nat → Bool) : Option (Nat × Nat) :=
  let k := periodOf t now
  let all := [k, k + 1, k + 2].flatMap fun k => ((List.range (canvasSlots t)).filter (ok k)).map fun i => (k, i)
  (all.filter fun x => decide (now ≤ openingAt t x.1 x.2)).foldl (fun best x => match best with
    | some y => if openingAt t x.1 x.2 < openingAt t y.1 y.2 then some x else best
    | none => some x) none

end Sys2Proof.Machine
end

