-- ==== Sys2Proof/Machine/Update.lean ====
section
/-!
DEFINITION. The update of a layer (R203 to R214, R221): training-block and descriptor fields, the step's scalars, the
element's update, S16 chunks, compute copies, and the four ways the update routine runs over a layer.
-/
namespace Sys2Proof.Machine

/-! ### Fields -/

/-- A field of the training block (R228). -/
def Job.tb (j : Job) (lo len : Nat) : Nat := bitsIn j.block lo len
def Job.npar (j : Job) : Nat := j.tb 560 40
def Job.nmem (j : Job) : Nat := j.tb 600 11
/-- T, the clip threshold, as an FP32 code. -/
def Job.clipAt (j : Job) : Nat := j.tb 496 32
def Job.journal (j : Job) : Nat := j.tb 192 48
def Job.k0 (j : Job) : Int := signedOf 8 (j.tb 528 8)
def Job.growthEvery (j : Job) : Nat := if j.tb 536 16 = 0 then 2000 else j.tb 536 16

/-- A field of an update descriptor (R209). -/
def layerFirst (d : Bytes) : Nat := bitsIn d 192 40
def layerCount (d : Bytes) : Nat := bitsIn d 256 32
/-- Chunk numbers of a layer (R203): the first, and how many. -/
def layerChunk (d : Bytes) : Nat := layerFirst d / 128
def layerChunks (d : Bytes) : Nat := (layerCount d + 127) / 128
/-- Whether a chunk number lies within a layer that updates. -/
def inLayer (d : Bytes) (c : Nat) : Bool := layerKind d ≠ 3 && decide (layerChunk d ≤ c) && decide (c < layerChunk d + layerChunks d)
/-- The descriptor whose layer holds a parameter chunk. -/
def Job.layerOfChunk (j : Job) (c : Nat) : Option Bytes := j.layers.find? (inLayer · c)
/-- How many of a chunk's elements lie within its layer (R238). -/
def withinLayer (d : Bytes) (c : Nat) : Nat := min 128 (layerCount d - 128 * (c - layerChunk d))

/-! ### The scalars of a step (R207, R208) -/

/-- FP64 product and difference, rounded to nearest even. -/
def mul64 (a b : Nat) : Nat := rn64 ((f64 a).mul (f64 b))
def sub64 (a b : Nat) : Nat := rn64 ((f64 a).add (f64 b).negate)
def add64 (a b : Nat) : Nat := rn64 ((f64 a).add (f64 b))
/-- 1.0 in the two formats. -/
def one32 : Nat := 0x3F800000
def one64 : Nat := 0x3FF0000000000000
/-- FP32 difference, rounded once. -/
def sub32 (a b : Nat) : Nat := rn ((f32 a).add (f32 b).negate)

/-- p(t) of R207. -/
def power64 (beta : Nat) : Nat → Nat
  | 0 => one64
  | t + 1 => mul64 (power64 beta t) beta

/-- η_n (R207): the schedule's multiplier is read from memory. -/
def State.etaOf (s : State) (j : Job) (d : Bytes) (step : Nat) : Nat :=
  let eta := bitsIn d 32 32
  let len := j.tb 464 32
  if len = 0 then eta else mul32 eta (ofLe (s.fetch j.ctx (j.tb 416 48 + 4 * min step (len - 1)) 4).bytes)

/-- α of R207, for kind 1. -/
def alphaOf (eta beta1 beta2 t : Nat) : Nat :=
  let b := fun x => rn64 (f32 x)
  rn (f64 (div64 (mul64 (b eta) (sqrt64 (sub64 one64 (power64 (b beta2) t)))) (sub64 one64 (power64 (b beta1) t))))

/-- q (R208): the exact quotient f / (M × 2^k) rounded once to FP32; for FP64, a64 of R220. -/
def scaleOf (fmt : Fmt) (f : XReal) (m : Nat) (k : Int) : Nat :=
  match f with
  | .fin s n e => Fmt.packMag fmt .near s ⟨n, max 1 m, e - k⟩
  | _ => Fmt.pack fmt .near f

/-- The per-layer scalars of a step. -/
structure Scalars where
  kind : Nat
  eta : Nat
  lambda : Nat
  beta1 : Nat
  beta2 : Nat
  eps2 : Nat
  alpha : Nat
  q : Nat

/-- The scalars of a layer at a step with clip factor f (R207, R208). -/
def State.scalarsOf (s : State) (j : Job) (d : Bytes) (step : Nat) (k : Int) (f : Nat) : Scalars :=
  let eta := s.etaOf j d step
  let b1 := bitsIn d 96 32
  let b2 := bitsIn d 128 32
  ⟨layerKind d, eta, bitsIn d 64 32, b1, b2, bitsIn d 160 32, alphaOf eta b1 b2 (j.t + 1), scaleOf .fp32 (f32 f) j.nmem k⟩

/-- SGN of R156 on an FP32 code. -/
def sgn32 (a : Nat) : Nat := match f32 a with
  | .nan => Fmt.nanCode .fp32
  | x => if x.isZero then a else if x.neg? then 0xBF800000 else one32

/-- The new weight, m and v of one element (R208). -/
def updateElem (p : Scalars) (x w m v : Nat) : Nat × Nat × Nat :=
  let g := mul32 x p.q
  let c1 := sub32 one32 p.beta1
  let c2 := sub32 one32 p.beta2
  let rho := sub32 one32 (mul32 p.eta p.lambda)
  match p.kind with
  | 0 =>
    let m1 := fma32 p.beta1 m g
    let d := fma32 p.lambda w m1
    (fma32 (neg32 p.eta) d w, m1, v)
  | 1 =>
    let m1 := fma32 p.beta1 m (mul32 c1 g)
    let v1 := fma32 p.beta2 v (mul32 c2 (mul32 g g))
    let d := mul32 m1 (rsqrt32 (add32 v1 p.eps2))
    (fma32 (neg32 p.alpha) d (mul32 w rho), m1, v1)
  | _ =>
    let u := sgn32 (fma32 p.beta1 m (mul32 c1 g))
    let m1 := fma32 p.beta2 m (mul32 c2 g)
    (fma32 (neg32 p.eta) u (mul32 w rho), m1, v)

/-! ### S16 chunks (R205, R206) -/

/-- The exponent byte and codes of 128 FP32 values, and whether the entry of R206 step 4 is due. `signed` for m. -/
structure S16 where
  scale : Nat
  codes : List Nat
  odd : Bool

/-- The largest code of a vector. -/
def s16Max (signed : Bool) : Nat := if signed then 32767 else 65535

/-- Whether an element is left out of amax and written as 0 (R206). -/
def s16Zero (signed : Bool) (x : XReal) : Bool := x = .nan || (!signed && x.neg? && !x.isZero)

/-- Whether amax / 2^(e − 142) fits. -/
def s16Fits (signed : Bool) (amax : Mag) (e : Nat) : Bool := Mag.le ⟨amax.n, amax.d, amax.e - ((e : Int) - 142)⟩ ⟨s16Max signed, 1, 0⟩

/-- Encode 128 values (R206). -/
def encodeS16 (signed : Bool) (vals : List Nat) : S16 :=
  let xs := vals.map f32
  let used := xs.filter fun x => !s16Zero signed x
  let infinite := used.any (·.nonfinite)
  let amax := blockMax (used.filter fun x => !x.nonfinite)
  let fit := if infinite then none else (List.range 255).find? (s16Fits signed amax)
  let e := if amax.n = 0 && !infinite then 0 else fit.getD 254
  let code := fun (x : XReal) =>
    if s16Zero signed x then 0
    else
      let k := if x.nonfinite then s16Max signed else min (s16Max signed) (Mag.roundAt .near ⟨x.mag.n, x.mag.d, x.mag.e - ((e : Int) - 142)⟩ 0)
      if x.neg? then unsignedOf 16 (-(k : Int)) else k
  ⟨e, xs.map code, xs.any (·.nonfinite) || (fit.isNone && amax.n ≠ 0)⟩

/-- A stored code's FP32 value (R205). -/
def decodeS16 (signed : Bool) (e code : Nat) : Nat :=
  let v := if signed then signedOf 16 code else (code : Int)
  rn (.fin (decide (v < 0)) v.natAbs ((e : Int) - 142))

/-- Where vector u of chunk c lies (R205): its codes, its exponent byte. -/
def Job.stateCodes (j : Job) (c u : Nat) : Nat := j.tb 48 48 + 256 * (2 * c + u)
def Job.stateScale (j : Job) (c u : Nat) : Nat := j.tb 48 48 + 512 * ((j.npar + 127) / 128) + 2 * c + u

/-- The 128 values of a state vector of a chunk. -/
def State.stateVector (s : State) (j : Job) (c u : Nat) : List Nat :=
  let e := ofLe (s.fetch j.ctx (j.stateScale c u) 1).bytes
  let bs := (s.fetch j.ctx (j.stateCodes c u) 256).bytes
  (List.range 128).map fun i => decodeS16 (u = 0) e (leAt bs (2 * i) 2)

/-! ### Stores of the routine -/

/-- Addresses in a range of `n` bytes, one in every page it touches. -/
def spanEnds (va n : Nat) : List Nat := (List.range (n / 65536 + 2)).map fun i => min (va + 65536 * i) (va + n - 1)

/-- The first place of a range that lies in a retired region (R408). -/
def State.retiredIn (s : State) (ctx va n : Nat) : Option Place := (spanEnds va n).findSome? fun a => (s.locate ctx a).filter s.retiredAt

/-- A write of the module to a job array (R332): none once the atelier is faulted (R254, R450); refused as a whole with atelier fault 0x0422 where any of it lies in a retired region;
the fault is raised as well where the write itself retires one (R408). -/
def State.jobStore (s : State) (n : Nat) (j : Job) (va : Nat) (bs : Bytes) : State :=
  let refused := fun (t : State) (p : Place) => t.faultAtelier j.atelier 0x0422 j.stepNow (some j.ctx) [p.addr / 2 ^ 21, n]
  if (s.atelier j.atelier).faulted then s
  else match s.retiredIn j.ctx va bs.length with
  | some p => refused s p
  | none =>
    let t := (s.store j.ctx va bs).settle
    match t.retiredIn j.ctx va bs.length with
    | some p => refused t p
    | none => t

/-- A state vector of a chunk written (R206). -/
def State.storeVector (s : State) (n : Nat) (j : Job) (d : Bytes) (c u : Nat) (vals : List Nat) : State :=
  let e := encodeS16 (u = 0) vals
  let s1 := s.jobStore n j (j.stateCodes c u) (e.codes.flatMap (leBytes 2))
  let s2 := s1.jobStore n j (j.stateScale c u) (leBytes 1 e.scale)
  if e.odd then s2.log 0x0131 (some j.atelier) j.stepNow (some j.ctx) [n, layerId d, c] else s2

/-- Where a parameter's halves and journal entry lie (R203, R212). -/
def hi16At (d : Bytes) (i : Nat) : Nat := bitsIn d 288 48 + 2 * (i - layerFirst d)
def Job.lo16At (j : Job) (i : Nat) : Nat := j.tb 0 48 + 2 * i
def Job.journalAt (j : Job) (i : Nat) : Nat := j.journal + 4 * i

/-- The master weights of a chunk's elements within its layer (R203). -/
def State.weights (s : State) (j : Job) (d : Bytes) (c : Nat) : List Nat :=
  let n := withinLayer d c
  let hi := (s.fetch j.ctx (hi16At d (128 * c)) (2 * n)).bytes
  let lo := (s.fetch j.ctx (j.lo16At (128 * c)) (2 * n)).bytes
  (List.range n).map fun i => 65536 * leAt hi (2 * i) 2 + leAt lo (2 * i) 2

/-- The journal's weights of a chunk's elements (R212). -/
def State.journaled (s : State) (j : Job) (d : Bytes) (c : Nat) : List Nat :=
  let n := withinLayer d c
  let bs := (s.fetch j.ctx (j.journalAt (128 * c)) (4 * n)).bytes
  (List.range n).map fun i => leAt bs (4 * i) 4

/-- Master weights written: hi16 and lo16 (R203). -/
def State.storeWeights (s : State) (n : Nat) (j : Job) (d : Bytes) (c : Nat) (ws : List Nat) : State :=
  (s.jobStore n j (hi16At d (128 * c)) (ws.flatMap fun w => leBytes 2 (w / 65536))).jobStore n j (j.lo16At (128 * c)) (ws.flatMap fun w => leBytes 2 (w % 65536))

/-- The reduced gradient of a chunk (R234, R242). -/
def Job.reducedAt (j : Job) (c : Nat) : Nat := j.tb 96 48 + 260 * c
def Job.retainAt (j : Job) (c : Nat) : Nat := j.tb 144 48 + 260 * c
def State.gradient (s : State) (j : Job) (c : Nat) : Chunk := Chunk.ofBytes (s.fetch j.ctx (j.reducedAt c) 260).bytes

/-- The FP32 value of an element of a chunk, as the update reads it (R208, R234): a non-finite chunk gives NaN. -/
def Chunk.code32 (c : Chunk) (i : Nat) : Nat := if c.nonfinite then Fmt.nanCode .fp32 else rn (c.value i)

/-! ### The routine's own accesses (R210) -/

/-- The core that takes chunk `i` of a layer's `n` (R210). -/
def takerOf (cores : List Nat) (n i : Nat) : Nat :=
  ((List.range cores.length).find? fun k => decide (i < n * (k + 1) / cores.length)).elim 0 fun k => cores.getD k 0

/-- The reason code an access of the routine meets (R92), if any: reads, then writes, as (address, length). -/
def State.routineReason (s : State) (j : Job) (reads writes : List (Nat × Nat)) : Option Nat :=
  (reads.findSome? fun p => if (s.objectAt j.ctx p.1 p.2).isNone then some 0x23 else if (s.fetch j.ctx p.1 p.2).bad.isEmpty then none else some 0x24) <|>
  (writes.findSome? fun p => ((spans (p.2 / 64 + 2) p.1 p.2).map fun x => s.farWriteFault j.ctx x.1).find? (· ≠ 0))

/-- The regions that the routine's writes would retire, retired (R408). -/
def State.routineRetires (s : State) (j : Job) (writes : List (Nat × Nat)) : State :=
  writes.foldl (fun s p => s.retireRun j.ctx p.1 p.2) s

/-- A routine word halts its core (R210, R449): which word and beat it was, the spec leaves to the routine's code; they are free
values. -/
def State.routineHalt (s : State) (n : Nat) (j : Job) (core reason : Nat) : State :=
  let f := (Config.freeValue s.freed).toNat
  let r := haltRecord (1792 + f % 256) reason (f / 256)
  ({ s with freed := s.freed + 1 }.setCore core { s.core core with run := .idle, record := r, staged := [] }).faultAtelier
    j.atelier 0x0410 (j.run.map fun (x : StepRun) => x.step) (some j.ctx) [r.toNat, core, n]

/-- An uncorrectable SRAM error met by a routine word on a core, where it is one of those the routine runs on (R92, R198, R210). -/
def State.upsetRoutine (s : State) (n : Nat) (j : Job) (cores : List Nat) (upset : Option Nat) : State :=
  match upset.filter cores.contains with
  | some k => if (s.atelier j.atelier).faulted then s else s.routineHalt n j k 0x26
  | none => s

/-- What the routine does on a core with the far accesses it makes: nothing once the atelier is faulted, a halt where one of
them is refused. -/
def State.routine (s : State) (n : Nat) (j : Job) (core : Nat) (reads writes : List (Nat × Nat)) (f : State → State) : State :=
  if (s.atelier j.atelier).faulted then s
  else match s.routineReason j reads writes with
    | some r => (if r = 0x25 then s.routineRetires j writes else s).routineHalt n j core r
    | none => f s

/-! ### Compute copies (R204) -/

/-- Elements a 64 B line of a copy holds. -/
def lineElems (w : Nat) : Nat := if w = 6 then 64 else 512 / w

/-- A line turned by its skew (R91): 2-byte slot s stands at slot (s + n) mod 32 of line n. -/
def skewLine (skew : Bool) (n : Nat) (line : Bytes) : Bytes :=
  if skew then (List.range 32).flatMap fun k => slice line (2 * ((k + 32 - n % 32) % 32)) 2 else line

/-- What is written of a compute copy: (address, bytes), lines and then scale codes, and the events of its conversion. -/
structure CopyPart where
  writes : List (Nat × Bytes)
  ev : Events

/-- Whether a copy lies in far space. -/
def copyFar (d : Bytes) : Bool := bitsIn d 410 1 = 1

/-- Bytes `b0` up to `b1` of a line as the engine sees it, where they stand in the line at `a`: at once, or slot by slot where the line is
skewed (R91). -/
def linePiece (skew : Bool) (a b0 b1 : Nat) (line : Bytes) : List (Nat × Bytes) :=
  if b0 = 0 && b1 = 64 then [(a, skewLine skew (a / 64) line)]
  else if skew then (upFrom (b0 / 2) ((b1 - b0) / 2)).map fun k => (a + 2 * ((k + a / 64) % 32), slice line (2 * k) 2)
  else [(a + b0, slice line b0 (b1 - b0))]

/-- The part of a copy that elements `lo` on of its layer make (R204, R180): `place` is the number of its first element counted from the
base; the draws follow the element's own number. A line that parts of two cores share is written by each where its own elements lie; the
last line of the layer is filled up with zeros. -/
def copyLines (d : Bytes) (key strip lo place : Nat) (xs : List XReal) : CopyPart :=
  match fmtVar (bitsIn d 400 4) (bitsIn d 404 2) with
  | none => ⟨[], Events.zero⟩
  | some (t, v) =>
    let rule := if bitsIn d 408 2 = 1 then Rule.cover else Rule.floor
    let r := convertRun t v rule [] (bitsIn d 406 2) ⟨key, bitsIn d 416 24, 0⟩ lo xs
    let e := lineElems t.width
    let off := place % e
    let base := bitsIn d 352 48 + 64 * (place / e)
    let n := if xs.isEmpty then 0 else (off + xs.length + e - 1) / e
    let start := fun (l : Nat) => if l = 0 then off else 0
    let stop := fun (l : Nat) => if lo + xs.length = layerCount d then e else min e (off + xs.length - e * l)
    let lines := (List.range n).flatMap fun l =>
      linePiece (bitsIn d 411 1 = 1) (base + 64 * l) (start l * t.width / 8) (if stop l = e then 64 else stop l * t.width / 8)
        (padTo 64 (packElems t.width ((List.range e).map fun i => if e * l + i < off then 0 else r.codes.getD (e * l + i - off) 0)))
    let per := v.scalesPerRow
    let scales := (List.range n).flatMap fun l => (List.range (e / 32)).filterMap fun u =>
      if per = 0 || 32 * u < start l || stop l ≤ 32 * u then none
      else
        let a := base + 64 * l
        let f := a / 2048 * 2048
        some ((strip + f / 4) % (if copyFar d then 2 ^ 48 else 2 ^ 20) + 64 * u + per * (a / 64 % 32), (List.range per).map fun i => BitVec.ofNat 8 (r.scales.getD (per * ((e * l + 32 * u - off) / 32) + i) 0))
    ⟨lines ++ scales, r.ev⟩

/-- A local byte run of a core written at once (R204). -/
def Core.writeLocal (c : Core) (ws : List (Nat × Bytes)) : Core := { c with mem := ws.foldl (fun m p => m.writeBytes p.1 p.2) c.mem }

/-- The hi16 view of a layer's elements from `lo` on, `n` of them (R203). -/
def State.hiValues (s : State) (j : Job) (d : Bytes) (lo n : Nat) : List XReal :=
  let bs := (s.fetch j.ctx (bitsIn d 288 48 + 2 * lo) (2 * n)).bytes
  (List.range n).map fun i => decode .bf16 (leAt bs (2 * i) 2)

/-- The reason a write of the routine in a core's own scratch meets (R72, R92). -/
def scratchReason (p : Nat × Bytes) : Option Nat := if localEnd < p.1 + p.2.length then some 0x20 else if accBase < p.1 + p.2.length then some 0x22 else none

/-- One write of a compute copy by the routine on a core: far, or in the core's own scratch. -/
def State.writeCopyPart (s : State) (n : Nat) (j : Job) (far : Bool) (core : Nat) (p : Nat × Bytes) : State :=
  if far then s.routine n j core [] [(p.1, p.2.length)] fun s => s.jobStore n j p.1 p.2
  else if (s.atelier j.atelier).faulted then s
  else match scratchReason p with
    | some r => s.routineHalt n j core r
    | none => s.setCore core ((s.core core).writeLocal [p])

/-- Conversions of a compute copy counted on the core that makes them, in the first slot its image binds to the layer, in none where it
binds none (R61; DESIGN CHOICE, notes/assumptions/72.md: the spec gives an update no slot). -/
def State.countCopy (s : State) (n core layer : Nat) (ev : Events) : State :=
  let c := s.core core
  match (List.range 16).find? fun i => slotLayer (s.imageOf n) c.stage i = some layer with
  | some i => s.setCore core { c with copyCounts := SMap.set Events.zero c.copyCounts i ((SMap.get Events.zero c.copyCounts i).addSat 32 ev) }
  | none => s

/-- The elements of a layer whose chunks each core takes (R210): (core, first element, how many). -/
def takenParts (cores : List Nat) (d : Bytes) : List (Nat × Nat × Nat) :=
  let k := cores.length
  (List.range k).map fun i =>
    let lo := layerChunks d * i / k
    let hi := layerChunks d * (i + 1) / k
    (cores.getD i 0, 128 * lo, min (layerCount d) (128 * hi) - min (layerCount d) (128 * lo))

/-- One compute copy of a layer re-derived (R204, R210): each core of the stage converts the elements of its own chunks, into their place
in a far copy, or from the base on in its own scratch. -/
def State.writeCopy (s : State) (n : Nat) (j : Job) (d : Bytes) (key : Nat) (cores : List Nat) : State :=
  let image := s.imageOf n
  let far := copyFar d
  (takenParts cores d).foldl (fun s x =>
    let part := copyLines d key (if far then imageFstrip image else imageLstrip image) x.2.1 (if far then x.2.1 else 0) (s.hiValues j d x.2.1 x.2.2)
    (part.writes.foldl (fun s p => s.writeCopyPart n j far x.1 p) s).countCopy n x.1 (layerId d) part.ev) s

/-- Every compute copy of a layer re-derived: its own descriptor's and those of kind 3 (R204). -/
def State.writeCopies (s : State) (n : Nat) (j : Job) (layer : Nat) (key : Nat) : State :=
  let cores := layerCores (s.imageOf n) layer
  (j.layers.filter fun d => layerId d = layer).foldl (fun s d => s.writeCopy n j d key cores) s

/-! ### The routine over a layer -/

/-- The shared step key of a job (R55). -/
def State.sharedKey (s : State) (j : Job) (step : Nat) : Nat := match (s.lease j.atelier).commission with
  | some c => stepKey c.seed.toNat step 0x8000
  | none => stepKey 0 step 0x8000
/-- The private step key of a job (R55). -/
def State.privateKey (s : State) (j : Job) (step : Nat) : Nat := match (s.lease j.atelier).commission with
  | some c => stepKey c.seed.toNat step s.gidx
  | none => stepKey 0 step s.gidx

/-- What the routine writes of a chunk: journal, weights, state (R212, R214, R221). -/
structure Writes where
  journal : Bool
  weights : Bool
  state : Bool

/-- The routine over one chunk of a layer (R208, R212, R214), its accesses admitted. Elements past the layer's count are encoded as zeros (R206;
DESIGN CHOICE, notes/assumptions/117.md). -/
def State.updateAdmitted (s : State) (n : Nat) (j : Job) (d : Bytes) (p : Scalars) (mode : Writes) (c : Nat) : State :=
  let g := s.gradient j c
  let ws := s.weights j d c
  let ms := s.stateVector j c 0
  let vs := s.stateVector j c 1
  let new := (List.range 128).map fun i => if i < ws.length then updateElem p (g.code32 i) (ws.getD i 0) (ms.getD i 0) (vs.getD i 0) else (0, 0, 0)
  let s1 := if mode.journal then s.jobStore n j (j.journalAt (128 * c)) (ws.flatMap (leBytes 4)) else s
  let s2 := if mode.weights then s1.storeWeights n j d c ((new.take ws.length).map Prod.fst) else s1
  if mode.state then
    let s3 := s2.storeVector n j d c 0 (new.map fun x => x.2.1)
    if p.kind = 1 then s3.storeVector n j d c 1 (new.map fun x => x.2.2) else s3
  else s2

/-- What the routine reads and writes of a chunk's weights, and of its state vectors. -/
def Job.weightSpans (j : Job) (d : Bytes) (c : Nat) : List (Nat × Nat) :=
  [(hi16At d (128 * c), 2 * withinLayer d c), (j.lo16At (128 * c), 2 * withinLayer d c)]
def Job.stateSpans (j : Job) (c kind : Nat) : List (Nat × Nat) :=
  [(j.stateCodes c 0, 256), (j.stateScale c 0, 1)] ++ if kind = 1 then [(j.stateCodes c 1, 256), (j.stateScale c 1, 1)] else []

/-- The routine over one chunk of a layer, on the core that takes it. -/
def State.updateChunk (s : State) (n : Nat) (j : Job) (d : Bytes) (p : Scalars) (mode : Writes) (c : Nat) : State :=
  let core := takerOf (layerCores (s.imageOf n) (layerId d)) (layerChunks d) (c - layerChunk d)
  s.routine n j core ([(j.reducedAt c, 260)] ++ j.weightSpans d c ++ j.stateSpans c p.kind)
    ((if mode.journal then [(j.journalAt (128 * c), 4 * withinLayer d c)] else []) ++ (if mode.weights then j.weightSpans d c else []) ++
      if mode.state then j.stateSpans c p.kind else []) fun s => s.updateAdmitted n j d p mode c

/-- Whether any weight of a layer is NaN or infinite (R212, R224). -/
def State.weightsOdd (s : State) (j : Job) (d : Bytes) : Bool :=
  (List.range (layerChunks d)).any fun i => (s.weights j d (layerChunk d + i)).any fun w => (f32 w).nonfinite

/-- The routine over a layer, and its compute copies where weights were written. -/
def State.updateLayer (s : State) (n : Nat) (j : Job) (d : Bytes) (step : Nat) (k : Int) (f : Nat) (mode : Writes) : State :=
  if layerKind d = 3 then s
  else
    let p := s.scalarsOf j d step k f
    let s1 := (List.range (layerChunks d)).foldl (fun s i => s.updateChunk n j d p mode (layerChunk d + i)) s
    if mode.weights then s1.writeCopies n j (layerId d) (s1.sharedKey j step) else s1

/-- A layer restored from the journal (R221), its copies re-derived under the shared key of the step that is restored (DESIGN CHOICE,
notes/assumptions/102.md). -/
def State.restoreLayer (s : State) (n : Nat) (j : Job) (d : Bytes) (step : Nat) : State :=
  let cores := layerCores (s.imageOf n) (layerId d)
  let s1 := (List.range (layerChunks d)).foldl (fun s i =>
    let c := layerChunk d + i
    s.routine n j (takerOf cores (layerChunks d) i) [(j.journalAt (128 * c), 4 * withinLayer d c)] (j.weightSpans d c) fun s => s.storeWeights n j d c (s.journaled j d c)) s
  s1.writeCopies n j (layerId d) (s1.sharedKey j step)

end Sys2Proof.Machine
end

