-- ==== Sys2Proof/Machine/Reduction.lean ====
section
/-!
DEFINITION. Gradient reduction (R239 to R251, R280, R287 to R293): descriptors and owners, the running collective, the
hand-overs, the receive checks and the adders, with CHUNK_RECEIVE and ADDER.
-/
namespace Sys2Proof.Machine

/-! ### Descriptors, members and owners -/

/-- Chunks a chunk operation moves. -/
def Coll.chunks (c : Coll) : Nat := (c.count + 127) / 128
/-- Whether a core's trigger starts its packer (R236, R280). -/
def Coll.packs (c : Coll) : Bool := c.op = 0 || c.op = 1 || c.op = 2 || c.op = 5

/-- Whether a member is the AZF-2 partner of this module (R280): an AZF-2 member (notes/assumptions/93.md), the peer of a port enabled for
version 2. -/
def State.isPartner (s : State) (j : Job) (g : Nat) : Bool := j.forerunner && j.azf.contains g && s.installation.any fun i => i.peers.any fun p => p.en && p.v2 && p.peer = g
/-- The ranked members of a job (R240, R280): the Phipithal ones. -/
def State.ranked (_ : State) (j : Job) : List Nat := j.members.filter fun g => !j.azf.contains g
/-- The palettes the ranked members lie in, n_P and m (R240). -/
def palettesOf (gs : List Nat) : List Nat := (gs.map (· / 16)).foldl NatSet.add []
def State.nPal (s : State) (j : Job) : Nat := (palettesOf (s.ranked j)).length
def State.mPos (s : State) (j : Job) : Nat := (s.ranked j).length / max 1 (s.nPal j)
/-- A member's rank (R240). -/
def State.rankOf (s : State) (j : Job) (g : Nat) : Nat := (s.ranked j).idxOf g
def State.memberAt (s : State) (j : Job) (r : Nat) : Nat := (s.ranked j).getD r s.gidx
/-- The palette owner of a path number in a palette of rank λ, and its owner (R241). -/
def State.paletteOwner (s : State) (j : Job) (lam c : Nat) : Nat := s.memberAt j (lam * s.mPos j + c % s.mPos j)
def State.ownerOf (s : State) (j : Job) (c : Nat) : Nat := s.paletteOwner j (c / s.mPos j % max 1 (s.nPal j)) c
/-- This module's palette rank. -/
def State.ownPalette (s : State) (j : Job) : Nat := s.rankOf j s.gidx / max 1 (s.mPos j)

/-- A layer's first parameter chunk. -/
def Job.firstChunk (j : Job) (layer : Nat) : Nat := match j.layers.find? fun d => layerId d = layer && layerKind d ≠ 3 with
  | some d => layerChunk d
  | none => 0
/-- The number that fixes a chunk's owners: a factor chunk is counted from its layer's first (R241). -/
def Job.pathNumber (j : Job) (c : Coll) (chunk : Nat) : Nat := if c.op = 1 then j.firstChunk c.layer + chunk else chunk
/-- The number a failing chunk enters in fails (R248, R255). -/
def Job.failNumber (j : Job) (c : Coll) (chunk : Nat) : Nat := if c.op = 1 || c.op = 2 then j.firstChunk c.layer else chunk
/-- How many elements of a chunk lie within what it carries (R238): a layer's count, or a factor's. -/
def Job.within (j : Job) (c : Coll) (chunk : Nat) : Nat :=
  if c.op = 1 then min 128 (c.count - 128 * chunk)
  else match j.layerOfChunk chunk with
    | some d => withinLayer d chunk
    | none => 0

/-! ### Running collectives -/

/-- A collective's fingerprint in a step (R290). -/
def Coll.fprint (c : Coll) (step : Nat) : Nat := Machine.fingerprint c.count c.fmt c.op c.layer c.seq step

/-- A collective of a step as nothing of it has happened. -/
def CollRun.fresh (job desc step : Nat) (c : Coll) : CollRun := ⟨job, desc, step, c.seq, [], none, c.fprint step, 0, [], [], [], [], 0, [], false, none, false⟩

/-- Whether a run is the one of a job, descriptor and step. -/
def CollRun.isOf (x : CollRun) (job desc step : Nat) : Bool := x.job = job && x.desc = desc && x.step = step

/-- The run of a collective in a step (R290). -/
def State.collRun (s : State) (job desc step : Nat) : Option CollRun := match s.collectives.find? (·.isOf job desc step) with
  | some x => some x
  | none => (SMap.find? s.colls desc).map (CollRun.fresh job desc step)

/-- A run written back. -/
def State.putRun (s : State) (x : CollRun) : State :=
  { s with collectives := if s.collectives.any (·.isOf x.job x.desc x.step) then s.collectives.map fun y => if y.isOf x.job x.desc x.step then x else y else s.collectives ++ [x] }

/-- A run changed, created where it is not there yet; a faulted atelier has none (R450). -/
def State.onColl (s : State) (job desc step : Nat) (f : CollRun → CollRun) : State := match s.collRun job desc step with
  | some x => if (SMap.find? s.jobs job).any fun j => (s.atelier j.atelier).faulted then s else s.putRun (f x)
  | none => s

/-! ### Failures, writes and hops -/

/-- A residue check failed (R248); more than 16 chunks that failed set overflow (R216), however many numbers they enter in fails (R255). -/
def State.failCheck (s : State) (h : HandOver) (j : Job) (c : Coll) (check place tier : Nat) : State :=
  let n := j.failNumber c h.chunk
  (s.log 0x0132 (some j.atelier) (some h.step) (some j.ctx) [h.chunk, h.attempt, check, place, tier]).onRun h.job fun r =>
    if r.counted.contains (h.coll, h.chunk) then r
    else
      { r with counted := r.counted ++ [(h.coll, h.chunk)], rfail := r.rfail + 1, fails := if r.fails.length = 16 then r.fails else r.fails.add n, overflow := r.overflow || decide (16 ≤ r.rfail) }

/-- FR32 values of a chunk of 512 bytes (R280). -/
def fr32 (bs : Bytes) : List Nat := (List.range 128).map fun i => leAt bs (4 * i) 4
def fr32Bytes (xs : List Nat) : Bytes := xs.flatMap (leBytes 4)
/-- One FP32 addition per input, in ascending rank (R280). -/
def fr32Sum (xs : List (List Nat)) : List Nat := match xs with
  | [] => []
  | x :: rest => rest.foldl (List.zipWith add32) x

/-- Where a factor's reduced chunk goes (R253): the result address, or slot 1 − a of Q, with a from the launch, or as the entry's slot bit
stands where the member has not launched. -/
def State.factorAt (s : State) (x : CollRun) (c : Coll) (ctx f : Nat) : Nat :=
  if c.lrole = 0 then c.result + 260 * f
  else
    let e := (s.fetch ctx c.aux 32).bytes
    let chunks := (bitsIn e 56 24 * bitsIn e 20 9 + 127) / 128
    let a := if x.launched.isSome then x.slot else bitsIn e 224 1
    bitsIn e 80 48 + (1 - a) * 260 * chunks + 260 * f

/-- The G16 chunk that a result stands for at this member: an FR32 result is encoded (R280). -/
def resultBytes (c : Coll) (valid : Nat) (bs : Bytes) : Bytes := if c.op = 5 then (packChunk (fr32 bs) valid).bytes else padTo 260 bs

/-- A result written, its receive check made already (R239, R242, R249): where it goes, and what the step keeps of it. -/
def State.writeResult (s : State) (h : HandOver) (j : Job) (c : Coll) : State :=
  let bs := resultBytes c (j.within c h.chunk) h.bytes
  let ch := Chunk.ofBytes bs
  let good := ch.passes && !ch.suspect
  let x := (s.collRun h.job h.coll h.step).getD (CollRun.fresh h.job h.coll h.step c)
  let mine := s.ownerOf j (j.pathNumber c h.chunk) = s.gidx
  let s1 := s.jobStore h.job j (if c.op = 1 then s.factorAt x c j.ctx h.chunk else j.reducedAt h.chunk) bs
  let s2 := s1.onRun h.job fun r =>
    let r1 := { r with nonfinite := r.nonfinite || ch.nonfinite }
    if c.op = 1 then r1
    else { r1 with passed := if good then r.passed.add h.chunk else r.passed.drop h.chunk
                   unpassed := if good then r.unpassed.drop h.chunk else r.unpassed.add h.chunk
                   owned := if mine then SMap.put r.owned h.chunk ch.ssq else r.owned }
  let first := ch.saturated && mine && ((SMap.find? s2.jobs h.job).bind (·.run)).any fun r => !r.saturated.contains c.layer
  let s3 := if first then (s2.log 0x0133 (some j.atelier) (some h.step) (some j.ctx) [h.job, h.chunk]).onRun h.job fun r => { r with saturated := r.saturated ++ [c.layer] } else s2
  if h.attempt = 0 then s3.onColl h.job h.coll h.step fun x => { x with placed := x.placed.add h.chunk }
  else s3.onRun h.job fun r => { r with again := r.again.drop h.chunk }

/-- A chunk sent to another member (R289, R293); hops 0 to 3. -/
def State.sendChunk (s : State) (h : HandOver) (j : Job) (c : Coll) (hop dest : Nat) : State :=
  s.sendPacket dest (if s.isPartner j dest then 2 else 1) 0x1 (s.lnum j.atelier)
    [(0, 32, c.seq), (32, 4, c.op), (36, 1, h.attempt), (37, 2, hop), (64, 64, c.fprint h.step), (128, 64, h.step), (192, 33, h.chunk), (225, 4, 1)] h.bytes none

/-- A hand-over joined to a die's arrivals. -/
def State.arrive (s : State) (die : Nat) (h : HandOver) : State :=
  let x := s.reduction die
  s.setReduction die { x with arrivals := x.arrivals ++ [h] }

/-- A result sent on (R242, orders 5 and 6): the owner to the other palette owners, a palette owner to its palette. -/
def State.spreadResult (s : State) (h : HandOver) (j : Job) (c : Coll) : State :=
  let path := j.pathNumber c h.chunk
  let lam := s.ownPalette j
  let m := s.mPos j
  let others := if s.ownerOf j path = s.gidx then ((List.range (s.nPal j)).map fun p => s.paletteOwner j p path).filter (· ≠ s.gidx) else []
  let near := if s.paletteOwner j lam path = s.gidx then ((List.range m).map fun i => s.memberAt j (lam * m + i)).filter (· ≠ s.gidx) else []
  let s1 := others.foldl (fun s g => s.sendChunk h j c 2 g) s
  let s2 := near.foldl (fun s g => s.sendChunk h j c 3 g) s1
  if c.op = 5 then (j.members.filter (s.isPartner j)).foldl (fun s g => s.sendChunk h j c 3 g) s2 else s2

/-- A result: checked where it came in and, where it came over a link, again at its write to the reduced-gradient array (R247, R248);
written and sent on. A pack of role 1 goes no further (R239). A factor's result is checked at its owner and not again at the writes of the
other members (DESIGN CHOICE, notes/assumptions/33.md). -/
def State.takeResult (s : State) (h : HandOver) (j : Job) (c : Coll) : State :=
  let s1 := if c.op ≠ 5 && !(Chunk.ofBytes h.bytes).passes then s.failCheck h j c 0 h.place 0 else s
  let s0 := if c.op ≠ 5 && c.op ≠ 1 && decide (h.place < 0x100) && !(Chunk.ofBytes h.bytes).passes then s1.failCheck h j c 0 (0x100 + h.chunk % 4) 0 else s1
  let s2 := s0.writeResult h j c
  if c.op = 2 && h.attempt = 0 then s2 else s2.spreadResult h j c

/-- What leaves the second tier at the owner (R242, R243). -/
def State.passResult (s : State) (die : Nat) (h : HandOver) (j : Job) (c : Coll) : State := s.takeResult { h with hop := .result, place := 0x100 + die } j c

/-- What leaves the first tier at a palette owner (R242, R243). -/
def State.passPartial (s : State) (die : Nat) (h : HandOver) (j : Job) (c : Coll) : State :=
  let owner := s.ownerOf j (j.pathNumber c h.chunk)
  let h1 := { h with hop := .partialSum, rank := s.rankOf j s.gidx, place := 0x100 + die }
  if s.nPal j ≤ 1 then s.passResult die h j c
  else if owner = s.gidx then s.arrive die h1
  else s.sendChunk h1 j c 1 owner

/-- An input held for an adder. -/
def State.holdInput (s : State) (die : Nat) (h : HandOver) (failed : Bool) : State :=
  let x := s.reduction die
  s.setReduction die { x with inputs := x.inputs ++ [⟨h, failed⟩] }

/-- Whether two hand-overs are inputs of one adder (R244). -/
def HandOver.mate (a b : HandOver) : Bool := a.job = b.job && a.step = b.step && a.attempt = b.attempt && a.chunk = b.chunk && a.hop = b.hop && a.coll = b.coll

/-- A contribution at this member (R242, R243): on to the palette owner, into the first tier, or through it where m = 1. -/
def State.takeContribution (s : State) (die : Nat) (h : HandOver) (j : Job) (c : Coll) (failed : Bool) : State :=
  let dest := s.paletteOwner j (s.ownPalette j) (j.pathNumber c h.chunk)
  if dest ≠ s.gidx then s.sendChunk h j c 0 dest
  else if s.mPos j ≤ 1 then s.passPartial die h j c
  else s.holdInput die h failed

/-- Ranks past every member's mark a host member's own chunk and its partner's, before their sum (R280). -/
def ownRank : Nat := 2048
def partnerRank : Nat := 2049

/-- An FR32 contribution of a host member meets its partner's (R280). -/
def State.meetPartner (s : State) (die : Nat) (h : HandOver) (j : Job) (c : Coll) : State :=
  let x := s.reduction die
  match x.inputs.find? fun i => i.input.mate h && 2048 ≤ i.input.rank && i.input.rank ≠ h.rank with
  | none => s.holdInput die h false
  | some o =>
    let s1 := s.setReduction die { x with inputs := x.inputs.filter (· ≠ o) }
    let own := if h.rank = ownRank then h else o.input
    let other := if h.rank = ownRank then o.input else h
    s1.takeContribution die { own with rank := s.rankOf j s.gidx, bytes := fr32Bytes (fr32Sum [fr32 own.bytes, fr32 other.bytes]) } j c false

/-- A hop's code, as a key of what an engine has accepted. -/
def ChunkHop.code : ChunkHop → Nat
  | .contribution => 0
  | .partialSum => 1
  | .result => 2

/-- What an engine has accepted of a hand-over (R250). -/
def HandOver.key (h : HandOver) : List Nat := [h.job, h.step, h.chunk, h.rank, h.attempt, h.hop.code, h.coll]

/-- A duplicate or stale chunk dropped (R250). -/
def State.dropChunk (s : State) (h : HandOver) : State := match SMap.find? s.jobs h.job with
  | some j => s.log 0x0103 (some j.atelier) (some h.step) (some j.ctx) [h.chunk, h.rank, h.attempt]
  | none => s.note 0x0103 [h.chunk, h.rank, h.attempt]

/-- A chunk entering an engine (R247, R250). -/
def State.receiveChunk (s : State) (die : Nat) (h : HandOver) : State :=
  match SMap.find? s.jobs h.job, SMap.find? s.colls h.coll with
  | some j, some c =>
    match j.run with
    | none => s.dropChunk h
    | some r =>
      if r.step ≠ h.step || h.attempt < r.attempt || (s.reduction die).accepted.contains h.key then s.dropChunk h
      else
        let x := s.reduction die
        let s1 := s.setReduction die { x with accepted := x.accepted ++ [h.key] }
        let failed := c.op ≠ 5 && !(Chunk.ofBytes h.bytes).passes
        match h.hop with
        | .result => s1.takeResult h j c
        | .contribution =>
          let s2 := if failed then s1.failCheck h j c 0 h.place 0 else s1
          if c.op = 5 && 2048 ≤ h.rank then s2.meetPartner die h j c else s2.takeContribution die h j c failed
        | .partialSum => (if failed then s1.failCheck h j c 0 h.place 0 else s1).holdInput die h failed
  | _, _ => s.dropChunk h

/-- The chunks this member contributes to a collective: all of its packers', or those of the second reduction. -/
def Coll.ownChunks (c : Coll) (r : StepRun) (attempt : Nat) : List Nat :=
  (c.contributors.flatMap fun e => upFrom e.first e.count).filter fun n => attempt = 0 || r.again.has n

/-- The ranks under which the parts of a contribution of this member arrive (R280): its own and its partner's, or its own alone. -/
def HandOver.parts (h : HandOver) : List Nat := if ownRank ≤ h.rank then [ownRank, partnerRank] else [h.rank]

/-- Whether a part of an own contribution waits for one of a lower chunk number to the same palette owner (R293): its own chunk, and at a
host member its partner's, whose sum is the contribution (R280). -/
def State.outOfTurn (s : State) (h : HandOver) (j : Job) (r : StepRun) (c : Coll) : Bool :=
  let dest := fun (n : Nat) => s.paletteOwner j (s.ownPalette j) (j.pathNumber c n)
  h.hop = .contribution && (decide (0x100 ≤ h.place) || decide (ownRank ≤ h.rank)) && dest h.chunk ≠ s.gidx &&
  (c.ownChunks r h.attempt).any fun n => decide (n < h.chunk) && dest n = dest h.chunk &&
    h.parts.any fun k => !(s.reduction (n % 4)).accepted.contains ({ h with chunk := n, rank := k } : HandOver).key

/-- Whether a hand-over waits: for the second attempt to begin here (R251), or for its turn (R293). -/
def State.early (s : State) (h : HandOver) : Bool := match SMap.find? s.jobs h.job with
  | some j => j.run.any fun r => r.step = h.step && (r.attempt < h.attempt || (r.attempt = h.attempt && (SMap.find? s.colls h.coll).any (s.outOfTurn h j r)))
  | none => false

/-- CHUNK_RECEIVE (R247, R250). -/
def execChunkReceive (die : Nat) (s : State) : Answer :=
  onUnit "port die" die 4
    (let x := s.reduction die
     match x.arrivals.find? fun h => !s.early h with
     | none => .next s
     | some h => .next ((s.setReduction die { x with arrivals := x.arrivals.erase h }).receiveChunk die h))

/-- Held inputs in ascending rank. -/
def insertRank (h : Held) : List Held → List Held
  | [] => [h]
  | x :: xs => if h.input.rank ≤ x.input.rank then h :: x :: xs else x :: insertRank h xs

/-- The inputs of the adder an input belongs to, in ascending rank. -/
def Reduction.group (x : Reduction) (h : Held) : List Held := (x.inputs.filter fun i => i.input.mate h.input && i.input.rank < 2048).foldl (fun l i => insertRank i l) []

/-- How many inputs an adder takes (R242). -/
def State.inputsDue (s : State) (h : Held) : Nat := match SMap.find? s.jobs h.input.job with
  | some j => if h.input.hop = .contribution then s.mPos j else s.nPal j
  | none => 0

/-- One adder's act (R244 to R246, R248, R280). -/
def State.addUp (s : State) (die : Nat) (first : Held) (group : List Held) : State :=
  match SMap.find? s.jobs first.input.job, SMap.find? s.colls first.input.coll with
  | some j, some c =>
    let x := s.reduction die
    let s1 := s.setReduction die { x with inputs := x.inputs.filter fun i => !group.contains i }
    let tier := if first.input.hop = .contribution then 1 else 2
    let out := addChunks (group.map fun i => Chunk.ofBytes i.input.bytes) (group.any (·.failed))
    let bytes := if c.op = 5 then fr32Bytes (fr32Sum (group.map fun i => fr32 i.input.bytes)) else out.chunk.bytes
    let h := { first.input with bytes := bytes, place := 0x100 + die }
    let s2 := if c.op ≠ 5 && !out.alignment then s1.failCheck h j c 1 (0x100 + die) tier else s1
    let s3 := if c.op ≠ 5 && !out.rounding then s2.failCheck h j c 2 (0x100 + die) tier else s2
    if tier = 1 then s3.passPartial die h j c else s3.passResult die h j c
  | _, _ => s

/-- ADDER (R244): the first chunk of the engine whose inputs are all present. -/
def execAdder (die : Nat) (s : State) : Answer :=
  onUnit "port die" die 4
    (let x := s.reduction die
     match x.inputs.find? fun i => i.input.rank < 2048 && (x.group i).length = s.inputsDue i with
     | none => .next s
     | some i => .next (s.addUp die i (x.group i)))

/-- A chunk a packer has encoded (R239): retention, the engines of port die c mod 4, or the reduced-gradient array. -/
def State.packed (s : State) (job : Nat) (j : Job) (step desc chunk : Nat) (bytes : Bytes) : State :=
  match SMap.find? s.colls desc with
  | none => s
  | some c =>
    let partner := c.op = 5 && j.members.any (s.isPartner j)
    let h : HandOver := ⟨job, step, 0, chunk, if partner then ownRank else s.rankOf j s.gidx, .contribution, desc, 0x100 + chunk % 4, bytes⟩
    let keep := c.op = 0 || (c.op = 2 && c.lrole = 0)
    let s1 := if keep then s.jobStore job j (j.retainAt chunk) bytes else s
    if c.op = 2 then
      if c.lrole = 1 then s1.arrive (chunk % 4) { h with hop := .result }
      else s1.onColl job desc step fun x => { x with placed := x.placed.add chunk }
    else s1.arrive (chunk % 4) h

/-- A retained chunk sent again (R251, R255): under the descriptor that packed it, with attempt 1. -/
def State.resend (s : State) (job : Nat) (j : Job) (step chunk : Nat) : State :=
  let covers := fun (c : Coll) => (c.op = 0 || (c.op = 2 && c.lrole = 0)) && c.contributors.any fun e => decide (e.first ≤ chunk) && decide (chunk < e.first + e.count)
  match j.collSlots.find? fun d => (SMap.find? s.colls d).any covers with
  | none => s
  | some d => s.arrive (chunk % 4) ⟨job, step, 1, chunk, s.rankOf j s.gidx, .contribution, d, 0x100 + chunk % 4, (s.fetch j.ctx (j.retainAt chunk) 260).bytes⟩

end Sys2Proof.Machine
end

