-- ==== Sys2Proof/Machine/CoreWords.lean ====
section
/-!
DEFINITION. What the cores share with the rest of the module (R73, R92, R101 to R109, R116, R166, R184, R198, R236 to R239,
R449): what a core sees, what it sends, one beat as a command, landings, run-ahead, the packer and the messages.
-/
namespace Sys2Proof.Machine

/-! ### What a core sees -/

/-- A 64 B line of a context's far space as a core's read meets it (R92). -/
def State.farLine (s : State) (ctx addr : Nat) : FarLine :=
  match s.locate ctx addr with
  | none => ⟨0x23, List.replicate 64 0⟩
  | some p => if s.placeBad p then ⟨0x24, List.replicate 64 0⟩ else ⟨0, (if p.gddr then s.gddr else s.reservoir).readBytes p.addr 64⟩

/-- The step key of a core's job (R55): the shared one or the private one. -/
def State.coreKey (s : State) (c : Core) (shared : Bool) : Nat :=
  match c.job.bind (SMap.find? s.jobs) with
  | some j => if shared then s.sharedKey j (c.step.getD 0) else s.privateKey j (c.step.getD 0)
  | none => 0

/-- A core's entry in a descriptor's contributor table (R112, R288). -/
def State.contribution (s : State) (n desc : Nat) : Option Contribution :=
  (SMap.find? s.colls desc).bind fun c => (c.contributors.find? fun e => e.core = n).map fun e => ⟨c.packs, e.base, e.count, e.first⟩

/-- The requests waiting at a quadrant's unit for an operation code (R166). -/
def State.unitQueue (s : State) (q op : Nat) : List TableReq := SMap.get [] (if op = 2 then s.scatters else s.gathers) q

/-- Whether a core runs a program of the step after the one its job is running (R213). -/
def State.runsAhead (s : State) (n : Nat) : Bool :=
  ((s.core n).job.bind (SMap.find? s.jobs)).any fun j => j.run.any fun r => (s.core n).step = some (r.step + 1)

/-- What core `n` sees while a word issues. -/
def State.env (s : State) (n : Nat) : Env :=
  let c := s.core n
  { read := s.farLine c.ctx
    writeFault := s.farWriteFault c.ctx
    poisoned := fun a => (s.locate c.ctx a).any fun p => !p.gddr && s.placeBad p
    sharedKey := s.coreKey c true
    privateKey := s.coreKey c false
    owned := fun d => (SMap.find? s.colls d).any fun x => x.ctx = c.ctx
    entry := s.contribution n
    inAtelier := s.holds c.atelier
    debugging := s.testPort.core
    tableRoom := fun op => decide ((s.unitQueue (quadrantOf n) op).length < 64)
    within := fun d k => match c.job.bind (SMap.find? s.jobs), SMap.find? s.colls d with
      | some j, some x => j.within x k
      | _, _ => 128
    ahead := s.runsAhead n }

/-! ### What a core sends -/

/-- A request joined to a unit's queue (R166): for operation codes 0, 1 and 3 the gather unit's. -/
def State.enqueueTable (s : State) (q : Nat) (r : TableReq) : State :=
  let op := bitsIn r.line 176 2
  let queue := s.unitQueue q op ++ [r]
  if op = 2 then { s with scatters := SMap.set [] s.scatters q queue } else { s with gathers := SMap.set [] s.gathers q queue }

/-- A halt's consequence (R449); the core of a serving job runs no step (R457). -/
def State.coreHalted (s : State) (n : Nat) : State :=
  let c := s.core n
  let step := if c.job.any fun j => (SMap.find? s.jobs j).any (·.serving) then none else c.step
  s.faultAtelier c.atelier 0x0410 step (some c.ctx) [c.record.toNat, n, c.job.getD 0]

/-- One thing a core has sent out, taken up by the module. -/
def State.takeOut (s : State) (n : Nat) (o : Out) : State :=
  let c := s.core n
  match o with
  | .farWrite a bs => (s.store c.ctx a bs).settle
  | .send m => { s with mesh := s.mesh ++ [m] }
  | .table line => s.enqueueTable (quadrantOf n) ⟨n, c.epoch, c.job.getD 0, c.ctx, c.atelier, line⟩
  | .report desc => match c.job, c.step with
    | some j, some st => s.onColl j desc st fun x => { x with reported := x.reported.add n }
    | _, _ => s
  | .stop reason => if reason = 0 then s else s.coreHalted n
  | .chunk desc num bytes => match c.job.bind fun k => (SMap.find? s.jobs k).map (k, ·) with
    | some (k, j) => s.packed k j (c.step.getD 0) desc num bytes
    | none => s

/-- A core after something has happened in it, and all it sent out. -/
def State.settleCore (s : State) (n : Nat) (i : Issued) : State := i.outs.foldl (fun s o => s.takeOut n o) (s.setCore n i.core)

/-! ### One beat -/

/-- The regions that the far writes of a core's word retire (R408): those for which alone the word halts with 0x25. -/
def State.retiredBy (s : State) (n : Nat) (upset : Bool) : List Nat :=
  let e := s.env n
  let c := (startBeat e (s.core n)).1.core
  let only := fun (g a : Nat) => if (s.locate c.ctx a).any fun p => p.gddr && p.addr / 2 ^ 21 = g && s.retires p then 0x25 else 0
  ((s.roots.filter fun r => r.2.last && !r.2.retired).map Prod.fst).filter fun g => (reasons { e with writeFault := only g } c upset).contains 0x25

/-- A write that would retire a region retires it, where its word halts with 0x25 (R408). -/
def State.retireFor (s : State) (n : Nat) (upset : Bool) : State :=
  let e := s.env n
  if listMin 0 (reasons e (startBeat e (s.core n)).1.core upset) = 0x25 then (s.retiredBy n upset).foldl State.endRekey s else s

/-- One beat of a core (R73, R116); nothing where the beat lengthens. -/
def State.beatOf (s : State) (n : Nat) (upset : Bool) : State :=
  match beat (s.env n) n upset (s.core n) with
  | some i => (s.retireFor n upset).settleCore n i
  | none => s

/-- The share of launch tokens a panel's launchers issue, in 1/256 (R358, R366): the curb fraction while PWR_CURB_N is asserted, one
in four beats in class 3 above 100 °C. -/
def State.tokenShare (s : State) (p : Nat) : Nat :=
  min (if s.power.curb then (s.panel p).curb else 256) (if (s.panel p).slowed then 64 else 256)

/-- Beats of a panel's cores in 250 ns at its planned rate. -/
def State.beatsMetered (s : State) (p : Nat) : Nat :=
  let (f, d) := plannedRate (s.panel p).vcode (s.panel p).planAt
  5 * f / (2 * d)

/-- Whether a core's launcher has a token left of a share below the whole: its beats since its panel was last metered stay within the
share of what 250 ns hold (DESIGN CHOICE, notes/assumptions/69.md). -/
def State.withinShare (s : State) (n : Nat) : Bool :=
  let p := panelOf n
  let share := s.tokenShare p
  let mark := SMap.get 0 (s.panel p).marks n
  let used := if mark ≤ (s.core n).beat then (s.core n).beat - mark else (s.core n).beat
  share = 256 || decide (256 * (used + 1) ≤ share * s.beatsMetered p)

/-- Whether a core has a launch token for its beat (R73, R354, R358, R366): its program runs, its panel withholds none, and its share
holds one more. -/
def State.tokened (s : State) (n : Nat) : Bool := (s.core n).run = .running && !(s.panel (panelOf n)).withheld && s.withinShare n

/-- A word command: one beat of the core, where the word at its pc names the operation. -/
def wordRow (n : Nat) (upset : Bool) (s : State) (names : Word256 → Bool) : Answer :=
  onUnit "core" n 10368 (whenDue (s.tokened n && names ((s.core n).word (s.core n).pc)) s (s.beatOf n upset))

/-- Whether a word has an illegal format value or a reserved opcode, mode or kind value (R76, R77). -/
def isIllegal (w : Word256) : Bool := (staticReasons w).contains 0x01 || (staticReasons w).contains 0x02

/-! ### Landings -/

/-- The beat up to which a core's operations have landed: its own beat while it runs, any beat once it has stopped. -/
def Core.landedBy (c : Core) : Nat :=
  if c.run = .running then c.beat else c.beat + listMax (c.flight.map (·.due)) + listMax (c.array.rows.map (·.due))

/-- Whether an effect is a token's. -/
def Effect.isToken : Effect → Bool
  | .acc .. => true
  | _ => false

/-- The next operation in flight landed, where it is of the kind asked (R94, R97). -/
def State.landNext (s : State) (n : Nat) (token : Bool) : State :=
  let c := s.core n
  match takeDue c.landedBy c.flight with
  | some (l, rest) => if l.effect.isToken = token then s.settleCore n (land (s.env n) ⟨{ c with flight := rest }, []⟩ l.due l.effect) else s
  | none => s

/-- TOKEN_LANDING (R133, R134). -/
def execTokenLanding (core : Nat) (s : State) : Answer := onUnit "core" core 10368 (.next (s.landNext core true))
/-- OPERATION_LANDING (R94, R98). -/
def execOperationLanding (core : Nat) (s : State) : Answer := onUnit "core" core 10368 (.next (s.landNext core false))

/-- HELD_WEIGHT_ROW_WRITE (R141): the first row whose register is released is written into its cell row. -/
def execHeldWeightRowWrite (core : Nat) (s : State) : Answer :=
  let c := s.core core
  onUnit "core" core 10368
    (match c.array.rows.find? fun r => r.due ≤ c.landedBy with
     | some r => .next (s.setCore core { c with array := ({ c.array with rows := c.array.rows.erase r }).takeRow r })
     | none => .next s)

/-! ### Run-ahead -/

/-- A word with its exit bit cleared: run-ahead treats every exit as not taken (R101). -/
def withoutExit (w : Word256) : Word256 := w &&& ~~~(1#256 <<< 230)

/-- Where run-ahead of generator `g` pauses (R104, R185): a set-up of it, a wait, END, and words that hold no operation. -/
def pauses (g : Nat) (w : Word256) : Bool :=
  ((isSetup 1 w || isSetup 2 w) && field w 12 2 = g) || isMessage 2 w || isMessage 3 w || isHalt 0 w || 4 < wordFormat w

/-- The landing beat of a scalar move of generator `g` issued at beat `t` by word `w`, up to which accesses read the old value (R165). -/
def movesAt (g t : Nat) (w : Word256) : Option Nat := if isScalar 0x1C w && (scalarField w).sd % 4 = g then some (t + 2) else none

/-- The loop unit and the generators moved past one word, without its operations. -/
def Core.ahead (c : Core) : Core :=
  let w := withoutExit (c.word c.pc)
  let c1 := applyLoop w (if wordFormat w = 0 || wordFormat w = 2 then stepGens w c else c)
  let c2 := if wordFormat w = 1 then applySetup w c1 else c1
  { c2 with beat := c2.beat + 1 }

/-- The core as run-ahead sees it at the next beat at which generator `g` reads a far line not yet staged; `fuel` beats ahead, and not
from the beat `limit` on, at which a scalar move of the generator lands (R104). -/
def Core.nextFetch (g : Nat) : Nat → Option Nat → Core → Option Core
  | 0, _, _ => none
  | fuel + 1, limit, c =>
    let w := c.word c.pc
    if pauses g w || limit.any (· ≤ c.beat) then none
    else if (farReads c w).contains g && (c.stagedNow g).isNone then some c
    else Core.nextFetch g fuel (limit.or (movesAt g c.beat w)) c.ahead

/-- The landing beat of a scalar move of generator `g` that is in flight. -/
def Core.moving (c : Core) (g : Nat) : Option Nat := c.flight.findSome? fun l => match l.effect with
  | .gen k _ _ => if k = g then some l.due else none
  | _ => none

/-- Whether a word's read through generator `g` takes strip lines (R180): the array's, in a block-scaled format. -/
def takesStrips (w : Word256) (g : Nat) : Bool :=
  let a := arrayField w
  let v := if a.aop = 1 || a.aop = 2 then a.tvar else a.svar
  1 ≤ a.aop && a.aop ≤ 4 && a.srcAg = g && (v = 1 || v = 2)

/-- The line fetched for the beat a core stands at (R101, R103, R179, R180). -/
def fetchAhead (env : Env) (c : Core) (g : Nat) : Staged :=
  let w := c.word c.pc
  let x := c.access w g
  let lines := if x.span = 64 then [x.addr] else (List.range 32).map fun i => x.addr + 64 * i
  let got := lines.map env.read
  let faults := (lines.zip (got.map (·.fault))).filter fun p => p.2 ≠ 0
  let bytes := if x.span = 64 then ((got.map (·.bytes)).headD []) else (List.range 32).flatMap fun i => slotOf ((got.map (·.bytes)).getD i []) ((i + x.column) % 32)
  let area := stripArea c x
  let strips := if takesStrips w g then (List.range 8).map fun u => (u, env.read (area + 64 * u)) else []
  let bad := ((strips.map fun p => p.2.fault).find? (· ≠ 0)).getD 0
  ⟨g, c.beat, x.addr, x.span, x.column, false, faults, bytes, takesStrips w g, area, (strips.filter fun p => p.2.fault = 0).map fun p => (p.1, p.2.bytes), bad⟩

/-- Whether a strip holder of the generator is free for a fetched line (R181): it takes no strips, or its strip area is one of at most
four in use. A holder takes the strips of one strip area (DEDUCED, notes/assumptions/67.md). -/
def Core.holderFree (c : Core) (g : Nat) (x : Staged) : Bool :=
  let held := ((c.staged.filter fun y => y.gen = g && y.stripped).map (·.stripAddr)).foldl NatSet.add []
  !x.stripped || held.has x.stripAddr || held.length < 4

/-- The line run-ahead of generator `g` fetches next (R101, R104, R181, R183): at most 64 lines stand in the staging buffer. -/
def Core.fetches (c : Core) (env : Env) (g : Nat) : Option Staged :=
  if c.run = .running then ((c.nextFetch g 64 (c.moving g)).map fun d => fetchAhead env d g).filter (c.holderFree g) else none

/-- RUN_AHEAD_FETCH (R101, R103, R104): the next line generator `gen` will read within 64 beats of issue is fetched. -/
def execRunAheadFetch (core gen : Nat) (s : State) : Answer :=
  let c := s.core core
  onUnit "core" core 10368 (onUnit "generator" gen 4
    (match c.fetches (s.env core) gen with
     | some g => .next (s.setCore core { c with staged := c.staged ++ [g] })
     | none => .next s))

/-- The panel of a reservoir line and its number within the panel (R182): the quadrants' shares follow one another. -/
def State.reservoirLine (s : State) (line : Nat) : Nat × Nat :=
  let q := line / 1024 / 73728
  let shares := match s.installation with
    | some i => i.shares
    | none => []
  let before := ((List.range (q % 4)).map fun k => shares.getD (q / 4 * 4 + k) 0).sum
  (q / 4, 1024 * before + line % (1024 * 73728))

/-- A reservoir line in which an uncorrectable error was met (R198): poisoned, with its entry. -/
def State.poisonReservoir (s : State) (line : Nat) : State :=
  let (panel, n) := s.reservoirLine line
  { s with poison := s.poison.add line }.noteOf (s.atelierOfQuadrant (line / 1024 / 73728)) 0x0222 [panel, n]

/-- STAGED_LINE_ARRIVAL (R73, R183, R198): the generator's oldest line on its way arrives; `bad` says that an uncorrectable
error was met in it. -/
def execStagedLineArrival (core gen : Nat) (bad : Bool) (s : State) : Answer :=
  let c := s.core core
  onUnit "core" core 10368 (onUnit "generator" gen 4
    (match c.staged.find? fun g => g.gen = gen && !g.arrived with
     | none => .next s
     | some g =>
       let place := s.locate c.ctx g.addr
       let hit := bad && place.any fun p => !p.gddr
       let s1 := if hit then (place.map fun p => s.poisonReservoir (p.addr / 64)).getD s else s
       let g1 := { g with arrived := true, faults := if hit then g.faults ++ [(g.addr, 0x24)] else g.faults }
       .next (s1.setCore core { c with staged := c.staged.map fun x => if x = g then g1 else x })))

/-! ### The packer -/

/-- The bytes of a packer's next chunk (R238, R280). -/
def Packer.chunk (p : Packer) (op valid : Nat) : Bytes :=
  let vals := (p.vals.drop (128 * p.encoded)).take 128
  if op = 5 then fr32Bytes vals else (packChunk vals valid).bytes

/-- CHUNK_PACKER (R236 to R239): the first packer that holds a whole chunk encodes it and hands it on. -/
def execChunkPacker (core : Nat) (s : State) : Answer :=
  let c := s.core core
  onUnit "core" core 10368
    (match c.packers.find? fun p => 128 * (p.encoded + 1) ≤ p.vals.length with
     | none => .next s
     | some p =>
       let p1 := { p with encoded := p.encoded + 1 }
       let left := if p1.encoded = p.count then c.packers.erase p else c.packers.map fun x => if x = p then p1 else x
       let s1 := s.setCore core { c with packers := left }
       match p.job.bind fun k => (SMap.find? s.jobs k).map (k, ·), SMap.find? s.colls p.desc with
       | some (k, j), some x => .next (s1.packed k j (p.step.getD 0) p.desc (p.first + p.encoded) (p.chunk x.op (j.within x (p.first + p.encoded))))
       | _, _ => .next s1)

/-! ### Messages -/

/-- A message delivered or not, as its sender hears of it (R105): units of the module hear nothing. -/
def State.outcome (s : State) (m : Msg) (delivered : Bool) : State :=
  if m.sender < 10368 then { s with outcomes := s.outcomes ++ [(m.sender, m.chan, delivered)] } else s

/-- A message that may arrive: a unit's replies on one channel arrive in the order sent (R169). -/
def State.nextMessage (s : State) (index : Nat) : Option Msg := (s.mesh[index]?).filter fun m =>
  m.sender < 10368 || !(s.mesh.take index).any fun x => x.sender = m.sender && x.dest = m.dest && x.chan = m.chan

/-- MESSAGE_ARRIVAL (R105, R107): the message at a place of the mesh reaches its destination; it waits in the mesh where neither
window nor holding register has room. -/
def execMessageArrival (index : Nat) (s : State) : Answer :=
  match s.nextMessage index with
  | none => .next s
  | some m =>
    let c := s.core m.dest
    let s1 := { s with mesh := s.mesh.eraseIdx index }
    if m.epoch ≠ c.epoch then .next (((s1.noteOf (s.atelierOfQuadrant (quadrantOf m.dest)) 0x0110 [m.sender, m.dest, m.epoch.toNat, c.epoch.toNat]).outcome m false).settleStop m.dest)
    else
      match SMap.find? c.windows m.chan with
      | some v =>
        if v.senders.length < v.len then .next (((s1.setCore m.dest (c.fillWindow m.chan v m)).outcome m true).settleStop m.dest)
        else if (SMap.find? c.holding m.chan).isSome then .next s
        else .next (((s1.setCore m.dest { c with holding := SMap.put c.holding m.chan m }).outcome m true).settleStop m.dest)
      | none =>
        if (SMap.find? c.holding m.chan).isSome then .next s
        else .next (((s1.setCore m.dest { c with holding := SMap.put c.holding m.chan m }).outcome m true).settleStop m.dest)

/-- SEND_COMPLETION (R105, R108): an outcome reaches its sender. -/
def execSendCompletion (index : Nat) (s : State) : Answer :=
  match s.outcomes[index]? with
  | none => .next s
  | some (n, chan, ok) =>
    let c := s.core n
    let x := SMap.get ⟨0, 0⟩ c.sends chan
    let y : Sends := ⟨x.outstanding - 1, if ok then x.failed else x.failed + 1⟩
    .next (({ s with outcomes := s.outcomes.eraseIdx index }.setCore n { c with sends := SMap.set ⟨0, 0⟩ c.sends chan y }).settleStop n)

end Sys2Proof.Machine
end

