-- ==== Sys2Proof/Machine/ArrayWords.lean ====
section
/-!
DEFINITION. The words of the array, the loop unit, the messages, the collective bindings and halt/debug (R76 to R89, R105 to R112, R119 to R147): one
meaning per operation, each one whole beat of the named core (notes/assumptions/4.md).
-/
namespace Sys2Proof.Machine

/-- STREAM_ACCUMULATE (R134): A compute word with aop 1 issues a token that adds its column sums into the addressed accumulator region. -/
def execStreamAccumulate (core : Nat) (upset : Bool) (s : State) : Answer := wordRow core upset s (isArray 1)

/-- STREAM_INITIALISE (R134): A compute word with aop 2 issues a token whose column sums overwrite the addressed accumulator region. -/
def execStreamInitialise (core : Nat) (upset : Bool) (s : State) : Answer := wordRow core upset s (isArray 2)

/-- WASH (R141): A compute word with aop 3 issues one line access of a natural weight block into the weight register of the next parity. -/
def execWash (core : Nat) (upset : Bool) (s : State) : Answer := wordRow core upset s (isArray 3)

/-- WASH_TRANSPOSED (R123): A compute word with aop 4 issues one transposed slot-column access of a weight block into the next-parity register. -/
def execWashTransposed (core : Nat) (upset : Bool) (s : State) : Answer := wordRow core upset s (isArray 4)

/-- READOUT (R78): A compute word with ro_en set reads one accumulator row, converts it and writes it with any scale codes to the destination line. -/
def execReadout (core : Nat) (upset : Bool) (s : State) : Answer := wordRow core upset s isReadout

/-- COLLECTIVE_TRIGGER (R111): A compute word with coll set reports the core's contribution to the collective bound in cslot at the landing beat of its last write. -/
def execCollectiveTrigger (core : Nat) (upset : Bool) (s : State) : Answer := wordRow core upset s isTrigger

/-- LOOP_CLOSE (R88): A word's close bits decrement loop levels, branch to the body start with generator increments, or deactivate the level. -/
def execLoopClose (core : Nat) (upset : Bool) (s : State) : Answer := wordRow core upset s isClose

/-- CONDITIONAL_EXIT (R88): A word with exit_en set and a non-zero tested register deactivates levels up to exit_lvl and jumps to that level's exit target. -/
def execConditionalExit (core : Nat) (upset : Bool) (s : State) : Answer := wordRow core upset s isExit

/-- SET_LEVEL (R84): A loop set-up word of kind 0 activates a loop level with its count, body start, exit target and generator increments. -/
def execSetLevel (core : Nat) (upset : Bool) (s : State) : Answer := wordRow core upset s (isSetup 0)

/-- SET_BASE (R84): A loop set-up word of kind 1 sets a generator's space, base and current address. -/
def execSetBase (core : Nat) (upset : Bool) (s : State) : Answer := wordRow core upset s (isSetup 1)

/-- SET_STRIDES (R84): A loop set-up word of kind 2 sets a generator's four strides. -/
def execSetStrides (core : Nat) (upset : Bool) (s : State) : Answer := wordRow core upset s (isSetup 2)

/-- SET_STREAM (R84): A loop set-up word of kind 3 writes a stream identifier into a stream register. -/
def execSetStream (core : Nat) (upset : Bool) (s : State) : Answer := wordRow core upset s (isSetup 3)

/-- LOAD_IMM (R84): A loop set-up word of kind 4 writes a 64-bit immediate into a scalar register. -/
def execLoadImm (core : Nat) (upset : Bool) (s : State) : Answer := wordRow core upset s (isSetup 4)

/-- SEND (R105): A message-and-sync word sends one 64 B line on a channel to the core and expected epoch named by a route register. -/
def execSendMessage (core : Nat) (upset : Bool) (s : State) : Answer := wordRow core upset s (isMessage 0)

/-- POST (R98): A message-and-sync word opens a receive window of n scratch lines on a channel and sets their pending-write bits. -/
def execPostWindow (core : Nat) (upset : Bool) (s : State) : Answer := wordRow core upset s (isMessage 1)

/-- WAIT_RECV (R108): A message-and-sync word issues once n messages have filled the window and writes the last sender's number. -/
def execWaitRecv (core : Nat) (upset : Bool) (s : State) : Answer := wordRow core upset s (isMessage 2)

/-- WAIT_SEND (R108): A message-and-sync word issues once no send on its channel is outstanding and writes the count of failed sends. -/
def execWaitSend (core : Nat) (upset : Bool) (s : State) : Answer := wordRow core upset s (isMessage 3)

/-- COLLECTIVE_BIND (R111): A collective-bind word binds a binding slot to a collective descriptor. -/
def execCollectiveBind (core : Nat) (upset : Bool) (s : State) : Answer := wordRow core upset s (isBind false)

/-- UNBIND (R86): A collective-bind word with unbind set releases a binding slot. -/
def execUnbind (core : Nat) (upset : Bool) (s : State) : Answer := wordRow core upset s (isBind true)

/-- END (R87): A halt/debug word with hop 0 ends the program once every issued operation has landed and produces a halt record with reason 0x00. -/
def execEndProgram (core : Nat) (upset : Bool) (s : State) : Answer := wordRow core upset s (isHalt 0)

/-- BREAK (R87): A halt/debug word with hop 1 stops the core for the debugger when a debug session is active, and otherwise does nothing. -/
def execBreakPoint (core : Nat) (upset : Bool) (s : State) : Answer := wordRow core upset s (isHalt 1)

/-- CHECK (R87): A halt/debug word with hop 2 halts the core with reason 0x0E when the named scalar register is non-zero. -/
def execCheckRegister (core : Nat) (upset : Bool) (s : State) : Answer := wordRow core upset s (isHalt 2)

/-- ILLEGAL_FORMAT_WORD (R76): A word whose format value is illegal, including an unloaded all-ones word, or whose opcode, mode or kind value is reserved, issues nothing and halts the core. -/
def execIllegalFormatWord (core : Nat) (upset : Bool) (s : State) : Answer := wordRow core upset s isIllegal

end Sys2Proof.Machine
end

