-- ==== Sys2Proof/Machine/Wire.lean ====
section
/-!
DEFINITION. What a Darval port's lanes carry (R262, R263): codewords of RS(544,514), scrambled, as levels of four lanes. The field
polynomial x^10 + x^3 + 1 and the generator's roots are those of IEEE 802.3 clause 91 (notes/assumptions/76.md).
-/
namespace Sys2Proof.Machine

/-- A product in GF(2^10); `n` bits of the second factor are left. -/
def gfTimes (a b : Nat) : Nat → Nat
  | 0 => 0
  | n + 1 =>
    let r := 2 * gfTimes a (b / 2) n
    (if 1024 ≤ r then r ^^^ 0x409 else r) ^^^ (if b % 2 = 1 then a else 0)
/-- A product of two symbols. -/
def gfMul (a b : Nat) : Nat := gfTimes a b 10
/-- A power of α = 2. -/
def gfAlpha : Nat → Nat
  | 0 => 1
  | n + 1 => gfMul (gfAlpha n) 2

/-- A polynomial, highest power first, times (x + c). -/
def timesRoot (p : List Nat) (c : Nat) : List Nat := List.zipWith (· ^^^ ·) (p ++ [0]) (0 :: p.map (gfMul · c))
/-- The generator polynomial: the product of x + α^j for j below 30. -/
def rsGenerator : List Nat := (List.range 30).foldl (fun p j => timesRoot p (gfAlpha j)) [1]

/-- The parity symbols of a message: the rest of message · x^30 by the generator. -/
def rsParity (message : List Nat) : List Nat :=
  message.foldl (fun r m =>
    let f := m ^^^ r.headD 0
    List.zipWith (· ^^^ ·) (r.drop 1 ++ [0]) (rsGenerator.tail.map (gfMul f))) (List.replicate 30 0)
/-- The code corrects up to 15 symbol errors (R263). -/
def rsCorrects (errors : Nat) : Bool := errors ≤ 15

/-- The 5,140 message bits of a codeword (R263, R264): cseq, lcmap, then the flits, each from bit 0 upward. -/
def Codeword.messageBits (c : Codeword) : List Bool :=
  ((List.range 10).map c.cseq.testBit) ++ ((List.range 10).map c.lcmap.testBit) ++
    c.flits.flatMap fun f => (List.range 512).map fun b => decide (bitsIn f b 1 = 1)

/-- The scrambler 1 + x^39 + x^58 over bits in transmission order; `past` holds its last 58 outputs, newest first. -/
def scramble : List Bool → List Bool → List Bool
  | _, [] => []
  | past, b :: bs =>
    let o := b ^^ past.getD 38 false ^^ past.getD 57 false
    o :: scramble ((o :: past).take 58) bs
/-- The receiver's descrambler, over the bits as they arrive. -/
def descramble : List Bool → List Bool → List Bool
  | _, [] => []
  | past, o :: os => (o ^^ past.getD 38 false ^^ past.getD 57 false) :: descramble ((o :: past).take 58) os

/-- Bits as numbers of `w` bits, lowest first. -/
def symbolsOf (w : Nat) : Nat → List Bool → List Nat
  | 0, _ => []
  | n + 1, bs => (bs.take w).foldr (fun b v => 2 * v + b.toNat) 0 :: symbolsOf w n (bs.drop w)

/-- The message symbols of the codewords a port has sent, after its scrambler. -/
def DarvalPort.messages (start : List Bool) (p : DarvalPort) : List (List Nat) :=
  (symbolsOf 10 (514 * p.sent.length) (scramble start (p.sent.flatMap Codeword.messageBits))).toChunks 514

/-- The PAM4 level of two bits, Gray coded (R262). -/
def pamLevel (b : Nat) : Int := if b = 0 then -3 else if b = 1 then -1 else if b = 3 then 1 else 3

/-- The levels a lane has carried, in order: symbol i on lane i mod 4 as five unit intervals, low bits first (R262, R263). -/
def DarvalPort.lane (start : List Bool) (p : DarvalPort) (l : Nat) : List Int :=
  (p.messages start).flatMap fun m => ((m ++ rsParity m).zipIdx.filter fun x => x.2 % 4 = l).flatMap fun x => (List.range 5).map fun k => pamLevel (x.1 / 4 ^ k % 4)

/-- A port's lane from its scrambler's start (R263). -/
def laneOf (port : Nat) (p : DarvalPort) (l : Nat) : List Int :=
  p.lane ((List.range 58).map (Config.scramblerStart port).getLsbD) l

end Sys2Proof.Machine
end

