-- ==== Sys2Proof/Machine/Links.lean ====
section
/-!
DEFINITION. The Darval ports below the packets' meaning (R258 to R285, R420 to R422): bring-up, codewords, credits, scheduling,
authentication, the gallery transport and the sessions.
-/
namespace Sys2Proof.Machine

/-! ### Bring-up -/

/-- The port die's buffer blocks a port takes (R274). -/
def DarvalPort.blocks (p : DarvalPort) : Nat := match p.state with
  | .absent | .heldDown | .lost => 0
  | _ => if p.version = 2 then 2 else 1
/-- Blocks the other ports of a port's die take. -/
def State.blocksTaken (s : State) (p : Nat) : Nat := (((List.range 5).map fun i => 5 * dieOfPort p + i).filter (· ≠ p)).foldl (fun n q => n + (s.port q).blocks) 0

/-- PORT_BRING_UP (R275): a port with an expected peer, no buffer block or none left. -/
def execPortBringUp (port : Nat) (s : State) : Answer :=
  let x := s.port port
  let t := if 8 < s.blocksTaken port + 1 then (s.setPort port { x with state := .heldDown }).note 0x0204 [port]
    else s.setPort port { x with state := .training, stage := 2, preset := 0, since := s.time, version := 0 }
  onUnit "Darval port" port 20 (whenDue (s.power.rails && s.power.lref && (s.peerEntry port).isSome &&
    (x.state = .absent || x.state = .lost || (x.state = .training && x.stage = 1))) s t)

/-- PEER_DETECT_TIMEOUT (R275): the attempt has failed; the port waits for its next second. -/
def execPeerDetectTimeout (port : Nat) (s : State) : Answer :=
  let x := s.port port
  let t := s.reach (x.since + 500000)
  onUnit "Darval port" port 20 (whenDue (x.state = .training && x.stage = 2) s (t.setPort port { x with stage := 0, since := t.time }))

/-- An ack-and-credit flit (R265). -/
def ackFlit (p : DarvalPort) : Bytes :=
  record 64 ([(4, 10, p.lastSeq), (14, 1, bit p.nak)] ++ (List.range 4).map fun v => (16 + 16 * v, 16, SMap.get 0 p.owed v))

/-- Whether a port has as many unacknowledged codewords as it keeps: it sends no new one (R266). -/
def DarvalPort.full (p : DarvalPort) : Bool := decide (512 ≤ p.unacked.length)

/-- A codeword of link-control flits: one given, then ack-and-credit flits, of which the first returns the credits and carries a
nak (R263 to R266). -/
def DarvalPort.emitControl (p : DarvalPort) (f : Bytes) : DarvalPort :=
  let cw : Codeword := ⟨p.sendSeq, 2 ^ 10 - 1, f :: ackFlit p :: List.replicate 8 (ackFlit { p with owed := [], nak := false }), [], 1024, none⟩
  if p.full then p
  else { p with sendSeq := (p.sendSeq + 1) % 1024, unacked := p.unacked ++ [cw], sent := p.sent ++ [cw], owed := [], nak := false, sinceAck := 0 }

/-- Flits sent in codewords (R263 to R266), ten at a time; what is left of a codeword carries ack-and-credit flits, the first of
which returns the credits and carries a nak. A port in version 2 mode sends the same flits and codewords (DESIGN CHOICE,
notes/assumptions/87.md). The last codeword carries the packet's tag and its segment. -/
def DarvalPort.emit : Nat → DarvalPort → List Bytes → List Nat → Nat → Option (Nat × Nat) → DarvalPort
  | 0, p, _, _, _, _ => p
  | fuel + 1, p, flits, tags, dst, seg =>
    let now := flits.take 10
    let rest := flits.drop 10
    let ack := ackFlit p
    let again := ackFlit { p with owed := [], nak := false }
    let fill := if now.length < 10 then ack :: List.replicate (9 - now.length) again else []
    let map := (2 ^ 10 - 1) / 2 ^ now.length * 2 ^ now.length
    let cw : Codeword := ⟨p.sendSeq, map, now ++ fill, if rest.isEmpty then tags else [], dst, if rest.isEmpty then seg else none⟩
    let p1 := { p with sendSeq := (p.sendSeq + 1) % 1024, unacked := p.unacked ++ [cw], sent := p.sent ++ [cw]
                       owed := if now.length < 10 then [] else p.owed, nak := if now.length < 10 then false else p.nak, sinceAck := if now.length < 10 then 0 else p.sinceAck }
    if rest.isEmpty then p1 else DarvalPort.emit fuel p1 rest tags dst seg

/-- The module's hello flit on a port (R278). -/
def State.ownHello (s : State) (p : Nat) : Bytes :=
  let v2 := !isRailPort p && (s.peerEntry p).any (·.v2)
  record 64 [(0, 4, 1), (16, 8, if v2 then 2 else 3), (24, 8, 3), (32, 10, s.gidx), (42, 6, p), (48, 2, if isPalettePort p then 0 else if isRailPort p then 1 else 2),
    (256, 256, ofLe (sm3 (beBytes 64 linkPublic.toNat)))]

/-- EQUALISATION_ATTEMPT (R275, R276, R278): from the present preset; after a success hello flits go out; the fourth failure raises
the entry. -/
def execEqualisationAttempt (port : Nat) (success : Bool) (s : State) : Answer :=
  let x := s.port port
  let t := if success then s.setPort port ({ x with stage := 5, since := s.time }.emitControl (s.ownHello port))
    else if x.preset < 3 then s.setPort port { x with stage := 3, preset := x.preset + 1, since := s.time }
    else (s.setPort port { x with stage := 0, since := s.time }).note 0x0202 [port]
  onUnit "Darval port" port 20 (whenDue (x.state = .training && (x.stage = 2 || x.stage = 3)) s t)

/-- BRING_UP_RETRY (R275): again from step 2, each second. -/
def execBringUpRetry (port : Nat) (s : State) : Answer :=
  let x := s.port port
  let t := s.reach (x.since + 100000000)
  onUnit "Darval port" port 20 (whenDue (x.state = .training && x.stage = 0) s (t.setPort port { x with stage := 2, preset := 0, since := t.time }))

/-! ### Sessions -/

/-- A 64 B signature or key as bytes (R393). -/
def bytes512 (x : BitVec 512) : Bytes := beBytes 64 x.toNat
def ofBytes512 (b : Bytes) : BitVec 512 := BitVec.ofNat 512 (ofBe b)

/-- The module's link certificate (R420), with the draw its signature takes. -/
def linkCertificate (draw : BitVec 256) : Bytes :=
  let body := leBytes 16 Config.serial.toNat ++ bytes512 linkPublic ++ bytes512 attestPublic ++ List.replicate 8 0
  body ++ bytes512 (sm2Sign Config.attestPrivate (sm3 body) draw)

/-- Bytes 0 to 297 + c of messages 1 and 2 (R420). -/
def helloPayload (eph : BitVec 256) (nonce : Bytes) (draw : BitVec 256) : Bytes :=
  bytes512 (sm2Public eph) ++ padTo 16 nonce ++ linkCertificate draw ++ leBytes 2 Config.attestCert.length ++ Config.attestCert

/-- Fields of a received message 1 or 2. -/
def peerEphemeral (p : Bytes) : BitVec 512 := ofBytes512 (slice p 0 64)
def peerNonce (p : Bytes) : Bytes := slice p 64 16
def peerStatic (p : Bytes) : BitVec 512 := ofBytes512 (slice p 96 64)
def certLength (p : Bytes) : Nat := leAt p 296 2
def helloLength (p : Bytes) : Nat := 298 + certLength p

/-- The digest expected of a peer's link-identity key (R259, R421): that of any enabled entry that names the peer. -/
def State.digestOf (s : State) (peer : Nat) : Option Bytes :=
  ((s.installation.bind fun i => i.peers.find? fun e => e.en && e.dig && e.peer = peer)).map (·.digest)

/-- The checks of R421 on a peer's certificates. -/
def State.certGood (s : State) (peer : Nat) (p : Bytes) : Bool :=
  let attest := ofBytes512 (slice p 160 64)
  let id := sm3 (slice p 96 64)
  let hello := (s.session peer).ident
  decide (helloLength p ≤ p.length) && Config.certificateValid (slice p 298 (certLength p)) attest (BitVec.ofNat 128 (leAt p 80 16)) && ofLe (slice p 224 8) = 0 &&
  sm2Verify attest (ofBytes512 (slice p 232 64)) (sm3 (slice p 80 152)) && (hello.isEmpty || hello = id) && ((s.digestOf peer).all (· = id))

/-- A session packet queued (R282). -/
def State.sendSession (s : State) (peer kind : Nat) (payload : Bytes) : State := s.sendPacket peer 0 0x6 0 [(0, 4, kind)] payload none

/-- The lower index opens a handshake (R282): message 1. -/
def State.openHandshake (s : State) (peer : Nat) : State :=
  let eph := Config.entropy s.drawn
  let p1 := helloPayload eph (leBytes 16 (Config.entropy (s.drawn + 1)).toNat) (Config.entropy (s.drawn + 2))
  let x := s.session peer
  ({ s with drawn := s.drawn + 3 }.setSession peer { x with ephemeral := eph, p1 := p1, p2 := [], awaits := 2, failedAt := none }).sendSession peer 1 p1

/-- A handshake that failed (R282). -/
def State.failHandshake (s : State) (peer : Nat) : State :=
  (s.setSession peer { s.session peer with awaits := 0, failedAt := some s.time }).note 0x0203 [peer]

/-- The keys of R396 and R421: SS, the nonces of messages 1 and 2; none where the exchange fails. -/
def State.agree (s : State) (peer : Nat) (eph : BitVec 256) (p1 p2 : Bytes) : Option SessionKeys :=
  let lower := decide (s.gidx < peer)
  let other := if lower then p2 else p1
  let a := min s.gidx peer
  let b := max s.gidx peer
  (sm2Exchange lower Config.linkPrivate eph (peerStatic other) (peerEphemeral other) (beBytes 2 a) (beBytes 2 b)).map fun ss => ⟨ss, peerNonce p1, peerNonce p2⟩

/-- A session opened, or its new keys waiting for their use (R281, R284, R422); one whose rail destination was lost opens anew. -/
def State.openSession (s : State) (peer : Nat) (k : SessionKeys) (peerKey : BitVec 512) : State :=
  let x := s.session peer
  if x.up && !x.lost then s.setSession peer { x with coming := some k, awaits := 0, failedAt := none, peerKey := peerKey }
  else s.setSession peer { x with up := true, keys := some k, coming := none, old := none, awaits := 0, failedAt := none, peerKey := peerKey, ctrSent := 0, ctrHeard := 0,
                                  seqSent := 0, seqHeard := 0, unackedSince := 0, echo := false, stored := [], window := 16, growth := 0, cutAt := none, progressAt := s.time, resends := 0, lost := false }

/-- Peers whose session a port opens when it comes up (R275, R281): its own peer, or every rail peer that leaves on it. -/
def State.peersBehind (s : State) (p : Nat) : List Nat :=
  if isRailPort p then ((List.range 64).map fun q => 16 * q + s.gidx % 16).filter fun g => g / 16 ≠ s.gidx / 16 && s.route g = some p
  else match s.peerEntry p with
    | some e => [e.peer]
    | none => []

/-- Handshakes opened by this end at a port that has come up. -/
def State.openSessions (s : State) (p : Nat) : State :=
  (s.peersBehind p).foldl (fun s g => if s.gidx < g && !(s.session g).up && (s.session g).awaits = 0 then s.openHandshake g else s) s

/-- Handshakes begun before a session is open may be retried: SESSION_RETRY (R282). -/
def execSessionRetry (peer : Nat) (s : State) : Answer :=
  let x := s.session peer
  let t := match x.failedAt with
    | some f => s.reach (f + 100000000)
    | none => s
  let u := t.setSession peer { x with failedAt := none }
  onUnit "gallery index" peer 1024 (whenDue x.failedAt.isSome s (if s.gidx < peer then u.openHandshake peer else u))

/-- SESSION_REKEY (R281, R422): a new handshake, before either ctr reaches 2^48. -/
def execSessionRekey (peer : Nat) (s : State) : Answer :=
  let x := s.session peer
  onUnit "gallery index" peer 1024 (whenDue (x.up && x.coming.isNone && x.awaits = 0 && decide (s.gidx < peer)) s (s.openHandshake peer))

/-- The front packet of a port's received packets that is of a type. -/
def DarvalPort.first (p : DarvalPort) (ptype : Nat) : Option Packet := p.packets.find? fun x => x.ptype = ptype

/-- A received packet taken: its credits are to be returned (R273). -/
def State.takePacket (s : State) (port : Nat) (p : Packet) : State :=
  let x := s.port port
  s.setPort port { x with packets := x.packets.erase p, owed := SMap.set 0 x.owed p.vc (SMap.get 0 x.owed p.vc + p.nflits + 1) }

/-- A packet row: the effect on the first received packet of a type. -/
def packetRow (port ptype : Nat) (s : State) (sub : Packet → Bool) (f : State → Packet → State) : Answer :=
  onUnit "Darval port" port 20
    (match (s.port port).packets.find? fun p => p.ptype = ptype && sub p with
     | some p => .next (f (s.takePacket port p) p)
     | none => .next s)

/-- Message 1 (R282, R421): checked by the higher index, answered by message 2. -/
def State.hearFirst (s : State) (p : Packet) : State :=
  let peer := p.src
  let p1 := slice p.payload 0 (helloLength p.payload)
  if s.gidx < peer || !s.certGood peer p.payload then s.failHandshake peer
  else
    let eph := Config.entropy s.drawn
    let body := helloPayload eph (leBytes 16 (Config.entropy (s.drawn + 1)).toNat) (Config.entropy (s.drawn + 2))
    let p2 := body ++ bytes512 (sm2Sign Config.linkPrivate (sm3 (p1 ++ body)) (Config.entropy (s.drawn + 3)))
    ({ s with drawn := s.drawn + 4 }.setSession peer { s.session peer with ephemeral := eph, p1 := p1, p2 := p2, awaits := 3, failedAt := none }).sendSession peer 2 p2

/-- Message 2 (R282, R421): checked by the lower index, answered by message 3; the session opens. -/
def State.hearSecond (s : State) (p : Packet) : State :=
  let peer := p.src
  let x := s.session peer
  let n := helloLength p.payload
  let body := slice p.payload 0 n
  let p2 := slice p.payload 0 (n + 64)
  if x.awaits ≠ 2 || !s.certGood peer p.payload || !sm2Verify (peerStatic p2) (ofBytes512 (slice p.payload n 64)) (sm3 (x.p1 ++ body)) then s.failHandshake peer
  else match s.agree peer x.ephemeral x.p1 p2 with
    | none => s.failHandshake peer
    | some k =>
      let sig := bytes512 (sm2Sign Config.linkPrivate (sm3 (x.p1 ++ p2)) (Config.entropy s.drawn))
      ({ s with drawn := s.drawn + 1 }.openSession peer k (peerStatic p2)).sendSession peer 3 sig

/-- Message 3 (R282, R421): the session opens at the higher index. -/
def State.hearThird (s : State) (p : Packet) : State :=
  let peer := p.src
  let x := s.session peer
  if x.awaits ≠ 3 || !sm2Verify (peerStatic x.p1) (ofBytes512 (slice p.payload 0 64)) (sm3 (x.p1 ++ x.p2)) then s.failHandshake peer
  else match s.agree peer x.ephemeral x.p1 x.p2 with
    | none => s.failHandshake peer
    | some k => s.openSession peer k (peerStatic x.p1)

/-- SESSION_KIND_1. -/
def execSessionKind1 (port : Nat) (s : State) : Answer := packetRow port 0x6 s (fun p => p.info 0 4 = 1) State.hearFirst
/-- SESSION_KIND_2. -/
def execSessionKind2 (port : Nat) (s : State) : Answer := packetRow port 0x6 s (fun p => p.info 0 4 = 2) State.hearSecond
/-- SESSION_KIND_3. -/
def execSessionKind3 (port : Nat) (s : State) : Answer := packetRow port 0x6 s (fun p => p.info 0 4 = 3) State.hearThird

/-! ### Rail destinations that change port (R260, R284) -/

/-- Stored packets sent again, unchanged and oldest first, as far as credits and the window of codewords reach (R266, R273, R284). -/
def DarvalPort.resend (dst : Nat) : List Stored → DarvalPort → DarvalPort
  | [], x => x
  | m :: ms, x =>
    let n := m.packet.nflits + 1
    let vc := m.packet.vc
    if n ≤ SMap.get 0 x.credits vc && x.unacked.length + (n + 9) / 10 ≤ 512 then
      DarvalPort.resend dst ms { DarvalPort.emit 7 x (m.packet.header :: chunksOf 64 n m.packet.payload) [] dst none with credits := SMap.set 0 x.credits vc (SMap.get 0 x.credits vc - n) }
    else x

/-- Everything a rail destination has not acknowledged sent again on the port that leads to it (R284). -/
def State.sendAgain (s : State) (peer : Nat) : State :=
  let p := s.railPort (peer / 16)
  let x := s.session peer
  if (s.port p).state = .up then (s.setPort p (DarvalPort.resend peer x.stored (s.port p))).setSession peer { x with leftOn := p } else s

/-- The transport to a rail destination resumed (R260, R284) where its port is no longer the one its stored packets left on. -/
def State.resume (s : State) (peer : Nat) : State :=
  if (s.session peer).stored.isEmpty || (s.session peer).leftOn = s.railPort (peer / 16) then s else s.sendAgain peer

/-- The packets that wait for a rail destination on other rail ports put at the end of the queues of its port. -/
def State.moveWaiting (s : State) (peer : Nat) : State :=
  let p := s.railPort (peer / 16)
  (((List.range 4).map (15 + ·)).filter (· ≠ p)).foldl (fun (s : State) r => (List.range 4).foldl (fun (s : State) vc =>
    let q := SMap.get [] (s.port r).queues vc
    let s1 := s.setPort r { s.port r with queues := SMap.set [] (s.port r).queues vc (q.filter fun w => w.dst ≠ peer) }
    let y := s1.port p
    if q.any fun w => w.dst = peer then s1.setPort p { y with queues := SMap.set [] y.queues vc (SMap.get [] y.queues vc ++ q.filter fun w => w.dst = peer) } else s) s) s

/-- The rail destinations. -/
def State.railDestinations (s : State) : List Nat := ((List.range 64).map fun q => 16 * q + s.gidx % 16).filter fun g => s.onRail g

/-- A rail port has gone down or come up (R260): what waits follows its destination to its port, up or not, so that a later packet
waits behind it (R270); where that port is up and another than before, the transport resumes from the oldest unacknowledged packet
(R284). -/
def State.follow (s : State) (port : Nat) : State :=
  if isRailPort port then s.railDestinations.foldl (fun s g => (s.moveWaiting g).resume g) s else s

/-! ### Discarding -/

/-- What waits on channels that a port does not carry in its version discarded (R279). -/
def State.discardBarred (s : State) (p : Nat) : State :=
  ((List.range 4).filter (!s.carries p ·)).foldl (fun s vc => s.discardAt p vc fun _ => true) s

/-! ### Hello and the port's own states -/

/-- Whether a hello reports the port's expected peer (R258, R259): role, index and port, or rail and switch; the digest. -/
def helloGood (p : Nat) (e : PeerEntry) (h : Bytes) : Bool :=
  let digest := !e.dig || e.digest = slice h 32 32
  if isRailPort p then bitsIn h 48 2 = 3 && bitsIn h 32 4 = e.rail && bitsIn h 42 6 = 48 + e.switch && digest
  else bitsIn h 48 2 = (if isPalettePort p then 0 else 2) && bitsIn h 32 10 = e.peer && (!isPalettePort p || bitsIn h 42 6 = 14 - p) && digest

/-- The credits a receiver grants by channel (R274); in version 2 mode on VC0 and VC2 alone (R279). -/
def grants (version : Nat) : SMap Nat := if version = 2 then [(0, 128), (2, 1024)] else [(0, 128), (1, 1536), (2, 1024), (3, 384)]

/-- The hello taken (R259, R274, R278): held down, without a common version, without a block, or up with credits granted. -/
def State.hearHello (s : State) (p : Nat) (e : PeerEntry) (h : Bytes) : State :=
  let x := s.port p
  let top := min 3 (bitsIn h 24 8)
  let low := max (if e.v2 && !isRailPort p then 2 else 3) (bitsIn h 16 8)
  if !helloGood p e h then (s.setPort p { x with state := .heldDown }).note 0x0201 [p, bitsIn h 32 10, bit (!e.dig || e.digest = slice h 32 32)]
  else if top < low then s.setPort p { x with state := .heldDown }
  else if 8 < s.blocksTaken p + (if top = 2 then 2 else 1) then (s.setPort p { x with state := .heldDown }).note 0x0204 [p]
  else
    let y := { x with state := .up, version := top, stage := 7, credits := grants top, owed := [], failures := [], replays := [], filled := s.time }
    let t := s.setPort p y
    let u := if isRailPort p then t else (t.discardBarred p).setSession e.peer { t.session e.peer with ident := slice h 32 32 }
    (u.openSessions p).follow p

/-- HELLO (R278): one that comes after the first is ignored. -/
def execHelloFlit (port : Nat) (s : State) : Answer :=
  let x := s.port port
  onUnit "Darval port" port 20
    (match s.peerEntry port, x.control with
     | some e, h :: rest => whenDue (bitsIn h 0 4 = 1) s
         (if x.state = .training && x.stage = 5 then (s.setPort port { x with control := rest }).hearHello port e h else s.setPort port { x with control := rest })
     | _, _ => .next s)

/-- A retrain request flit (R265). -/
def retrainFlit : Bytes := record 64 [(0, 4, 2)]

/-- Times counted within 1 ms (R277): a new one added, those of more than a millisecond before it dropped unless their number
already is past the limit. -/
def recent (limit : Nat) (now : Word64) (l : List Word64) : List Word64 :=
  (if limit < l.length then l else l.filter fun t => decide ((now - t).toNat ≤ ticksMs)) ++ [now]

/-- A port that begins to retrain (R277). -/
def DarvalPort.retrain (p : DarvalPort) (now : Word64) : DarvalPort := { p with state := .retraining, since := now, retrains := p.retrains + 1, failures := [], replays := [] }

/-- RETRAIN (R277): more than 16 failed codewords or 64 replays within 1 ms; the other end is asked to retrain too. -/
def execRetrain (port : Nat) (s : State) : Answer :=
  let x := s.port port
  onUnit "Darval port" port 20 (whenDue (x.state = .up && (16 < x.failures.length || 64 < x.replays.length)) s ((s.setPort port ((x.emitControl retrainFlit).retrain s.time)).follow port))

/-- RETRAIN_REQUEST (R277). -/
def execRetrainRequest (port : Nat) (s : State) : Answer :=
  let x := s.port port
  onUnit "Darval port" port 20
    (match x.control with
     | h :: rest => whenDue (bitsIn h 0 4 = 2) s ((s.setPort port (if x.state = .up then { x with control := rest }.retrain s.time else { x with control := rest })).follow port)
     | [] => .next s)

/-- PORT_UP_AGAIN (R277): everything kept. -/
def execPortUpAgain (port : Nat) (s : State) : Answer :=
  let x := s.port port
  onUnit "Darval port" port 20 (whenDue (x.state = .retraining && decide (s.time.toNat < x.since.toNat + 5000000) && s.power.lref) s ((s.setPort port { x with state := .up }).follow port))

/-! ### Aborts and losses -/

/-- The message of a completed or aborted collective to each contributing core of the member (R292). -/
def State.tellCores (s : State) (x : CollRun) (c : Coll) (aborted : Option Nat) : State :=
  if c.notify then
    let line := record 64 [(0, 32, c.seq), (32, 1, bit aborted.isSome), (48, 16, aborted.getD 0)]
    let s1 := s.onColl x.job x.desc x.step fun y => { y with told := true }
    { s1 with mesh := s1.mesh ++ c.contributors.map fun e => ⟨10416, e.core, c.chan, (s1.core e.core).epoch, line⟩ }
  else s

/-- A collective aborted (R291): it and every later one of the step; the atelier faults. The handles of the entry, its seq and its
job, are the model's (DESIGN CHOICE, notes/assumptions/98.md). -/
def State.abortColl (s : State) (x : CollRun) (code : Nat) : State :=
  let later := s.collectives.filter fun y => y.job = x.job && y.step = x.step && decide (x.seq ≤ y.seq) && !y.complete
  let s1 := later.foldl (fun s y =>
    let t := s.onColl y.job y.desc y.step fun y => { y with aborted := some code }
    match SMap.find? t.colls y.desc with
    | some c => t.tellCores y c (some code)
    | none => t) s
  match SMap.find? s1.jobs x.job with
  | some j => s1.faultAtelier j.atelier code (some x.step) (some j.ctx) [x.seq, x.job]
  | none => s1

/-- Every running collective with a member among those lost aborted (R298). -/
def State.abortBeyond (s : State) (lost : Nat → Bool) (code : Nat) : State :=
  (s.collectives.filter fun x => x.launched.isSome && !x.complete && x.aborted.isNone && (SMap.find? s.jobs x.job).any fun j => j.members.any fun g => g ≠ s.gidx && lost g).foldl
    (fun s x => if s.collectives.any fun y => y.isOf x.job x.desc x.step then s.abortColl x code else s) s

/-- What a lost port holds for its link: unacknowledged codewords discarded, their tags freed and their segments answered with 0x05
(R269, R298). Packets it has accepted stay. -/
def State.dropUnacked (s : State) (p : Nat) : State :=
  let x := s.port p
  (x.unacked.map (·.seg)).foldl (fun s g => s.answerSegment g 0x05) <| (x.unacked.flatMap (·.tags)).foldl State.dropTag (s.setPort p { x with unacked := [], sendSeq := 0, lastSeq := 1023, sinceAck := 0, nak := false, arriving := [], control := [], owed := [], credits := [] })

/-- Peers lost with 0x0404 or 0x0405 (R298): their collectives aborted, then what is queued for them discarded and the degraded
entry raised. What the gallery store keeps for them and their sessions stay (DESIGN CHOICE, notes/assumptions/89.md). -/
def State.loseBeyond (s : State) (lost : Nat → Bool) (code port : Nat) : State :=
  ((s.abortBeyond lost code).discardQueued fun w => lost w.dst).note 0x0205 [port]

/-- PORT_LOST (R277, R298): 50 ms after going down. A rail port only moves its destinations while another rail port is up or held
up by retraining (R297; DEDUCED, notes/assumptions/89.md). -/
def execPortLost (port : Nat) (s : State) : Answer :=
  let x := s.port port
  let t := (s.reach (x.since + 5000000)).dropUnacked port
  let u := t.setPort port { t.port port with state := .lost }
  let anyRail := (List.range 4).any fun i => (u.port (15 + i)).state = .up || (u.port (15 + i)).state = .retraining
  let v := if isRailPort port then
      if anyRail then u.follow port else u.loseBeyond (u.onRail ·) 0x0404 port
    else match s.peerEntry port with
      | some e => (u.loseBeyond (· = e.peer) 0x0404 port).setSession e.peer Session.closed
      | none => u.note 0x0205 [port]
  onUnit "Darval port" port 20 (whenDue (x.state = .retraining) s v.settleDrains)

/-! ### Codewords -/

/-- A codeword of ack-and-credit flits alone (R266): none while the port is full, the ack then goes with a later one. -/
def DarvalPort.sendAck (p : DarvalPort) : DarvalPort := if p.full then p else DarvalPort.emit 1 p [] [] 1024 none

/-- The channels a packet type may use (R268); a port in version 2 mode carries VC0 and VC2 alone, its seal records on VC2 (R279, R280). -/
def typeChannel (ptype vc : Nat) (v2 : Bool) : Bool := match ptype with
  | 0x0 => vc = 2
  | 0x1 | 0x3 => vc = (if v2 then 2 else 1)
  | 0x2 | 0x4 => vc = 1 && !v2
  | 0x5 | 0x6 | 0x8 => vc = 0
  | 0x7 => vc = 3 && !v2
  | _ => false

/-- A congestion mark received on a rail port counted (R285). -/
def State.countMark (s : State) (port : Nat) (p : Packet) : State :=
  let y := s.port port
  if isRailPort port && p.cm then s.setPort port { y with marks := y.marks + 1 } else s

/-- A packet dropped and counted in the port's error count (R268, R271). -/
def State.dropPacket (s : State) (port : Nat) (p : Packet) : State :=
  let x := s.port port
  s.setPort port { x with errors := x.errors + 1, owed := SMap.set 0 x.owed p.vc (SMap.get 0 x.owed p.vc + p.nflits + 1) }

/-- The keys a received packet may verify under, newest use last (R422). -/
def Session.readKeys (x : Session) : List SessionKeys := x.keys.toList ++ x.coming.toList ++ x.old.toList

/-- A packet opened under one of a session's keys (R271): the keys and the plaintext. -/
def State.openPacket (s : State) (x : Session) (p : Packet) : Option (SessionKeys × Bytes) :=
  (x.readKeys.filterMap fun k => (s.packetKey k p.lease p.src p.dst).bind fun key =>
    let c := padTo (64 * p.nflits) p.payload
    let z := gcmSeal key (packetNonce p.ctr p.lease p.src) (packetAad p.header) []
    let keys := sm4Keys key
    let tag := gcmTag keys (packetNonce p.ctr p.lease p.src) (packetAad p.header) c
    if padTo 8 tag = slice p.header 56 8 && z.tag.length = 16 then some (k, gcmCrypt keys (packetNonce p.ctr p.lease p.src) c) else none).head?

/-- An end-to-end acknowledgement read (R284, R285). -/
def State.hearAck (s : State) (peer ack : Nat) (echo : Bool) : State :=
  let x := s.session peer
  let beyond := fun (p : Stored) => decide ((BitVec.ofNat 32 ack - p.seq).toNat < 2 ^ 31)
  let done := x.stored.filter beyond
  let cut := echo && x.cutAt.all fun t => decide (1600 ≤ (s.time - t).toNat)
  let w := if cut then max 2 (x.window / 2) else if !echo && x.window ≤ x.growth + done.length then min 64 (x.window + 1) else x.window
  let g := if echo then 0 else if x.window ≤ x.growth + done.length then x.growth + done.length - x.window else x.growth + done.length
  let y := { x with stored := x.stored.filter (!beyond ·), window := w, growth := g, cutAt := if cut then some s.time else x.cutAt
                    progressAt := if done.isEmpty then x.progressAt else s.time, resends := if done.isEmpty then x.resends else 0, lost := x.lost && done.isEmpty }
  (done.foldl (fun s p => s.dropTag? p.tag) (s.setSession peer y)).settleDrains

/-- An end-to-end ack packet queued (R284). -/
def State.sendEndAck (s : State) (peer : Nat) : State := (s.setSession peer { s.session peer with unackedSince := 0 }).sendPacket peer 0 0x5 0 [] [] none

/-- A packet of a lease no longer held here (R283): dropped, acknowledged end to end, reported once per lease and port; a bulk
write is answered with 0x02 (R269). -/
def State.dropLeasePacket (s : State) (port : Nat) (p : Packet) : State :=
  let s1 := s.dropPacket port p
  let s2 := if s1.leaseDrops.contains (p.lease, port) then s1 else { s1 with leaseDrops := s1.leaseDrops ++ [(p.lease, port)] }.note 0x0101 [p.lease, port]
  if p.ptype = 0 then s2.sendPacket p.src 0 0x8 0 [(0, 32, p.info 112 32), (32, 16, p.lease), (48, 48, p.info 64 48), (96, 8, 0x02)] [] none else s2

/-- The end-to-end side of an accepted rail packet (R284, R285); the ack of an end-to-end ack packet is read by its own row
(DEDUCED, notes/assumptions/90.md). -/
def State.railAccept (s : State) (p : Packet) : State :=
  let s1 := if p.ptype = 0x5 then s else s.hearAck p.src p.ack p.ce
  let x := s1.session p.src
  let s3 := s1.setSession p.src { x with seqHeard := BitVec.ofNat 32 p.seq, unackedSince := x.unackedSince + 1, echo := x.echo || p.cm }
  if 8 ≤ x.unackedSince + 1 then s3.sendEndAck p.src else s3

/-- A whole packet received (R268, R271, R283, R284): dropped, or opened and put among the port's packets. A session packet that opens a
session stands outside the count of seq; one of a rekey is taken in turn (DEDUCED, notes/assumptions/31.md). -/
def State.admitPacket (s0 : State) (port : Nat) (p : Packet) : State :=
  let s := s0.countMark port p
  let x := s.session p.src
  let rail := isRailPort port
  let inTurn := !rail || BitVec.ofNat 32 p.seq = x.seqHeard + 1
  let opens := !rail || (p.seq = 0 && x.seqHeard ≠ 2 ^ 32 - 1)
  if !typeChannel p.ptype p.vc ((s.port port).version = 2) || !s.carries port p.vc || p.dst ≠ s.gidx then s.dropPacket port p
  else if p.ptype = 0x6 && (opens || (x.up && inTurn)) then
    let s1 := if opens then s else s.railAccept p
    let y := s1.port port
    s1.setPort port { y with packets := y.packets ++ [p] }
  else if !x.up || !inTurn then s.dropPacket port p
  else if p.lease ≠ 0 && (s.atelierOfLnum p.lease).isNone && s.erasedLeases.contains p.lease then (if rail then s.railAccept p else s).dropLeasePacket port p
  else match s.openPacket x p with
    | none => s.dropPacket port p
    | some (k, text) =>
      let fresh := (x.old.isSome && x.old ≠ some k) || (x.coming = some k && x.keys ≠ some k)
      if !fresh && p.ctr ≤ x.ctrHeard.toNat then s.dropPacket port p
      else
        let x1 := { x with ctrHeard := BitVec.ofNat 64 p.ctr, old := if fresh then none else x.old, keys := some (if fresh then k else x.keys.getD k) }
        let s1 := if rail then (s.setSession p.src x1).railAccept p else s.setSession p.src x1
        let y := s1.port port
        s1.setPort port { y with packets := y.packets ++ [{ p with payload := text }] }

/-- One flit of an accepted codeword (R265, R267). -/
def State.takeFlit (s : State) (port : Nat) (control : Bool) (f : Bytes) : State :=
  let x := s.port port
  if control then (if bitsIn f 0 4 ≤ 2 then s.setPort port { x with control := x.control ++ [f] } else s)
  else match SMap.find? x.arriving x.current with
    | none =>
      let p : Packet := ⟨f, []⟩
      if p.nflits = 0 then s.admitPacket port p else s.setPort port { x with current := p.vc, arriving := [(p.vc, ⟨f, []⟩)] }
    | some a =>
      let fs := a.flits ++ [f]
      let p : Packet := ⟨a.header, fs.flatMap id⟩
      if fs.length = p.nflits then (s.setPort port { x with arriving := [] }).admitPacket port p
      else s.setPort port { x with arriving := [(x.current, ⟨a.header, fs⟩)] }

/-- A codeword discarded (R266, R277): a nak for each (DESIGN CHOICE, notes/assumptions/119.md), and a failed decode counted with those of its last
millisecond. -/
def State.discardCodeword (s : State) (port : Nat) (failed : Bool) : State :=
  let x := s.port port
  s.setPort port { x with nak := true, failures := if failed then recent 16 s.time x.failures else x.failures }.sendAck

/-- Hello flits go on until one has been received (R278): another for each codeword that comes meanwhile (DESIGN CHOICE,
notes/assumptions/88.md). -/
def State.helloAgain (s : State) (port : Nat) : State :=
  let x := s.port port
  if x.state = .training && x.control.all (bitsIn · 0 4 ≠ 1) then s.setPort port (x.emitControl (s.ownHello port)) else s

/-- CODEWORD_RECEIVE (R263, R266): a codeword with `errors` symbol errors, which decodes where the code corrects them. -/
def execCodewordReceive (port errors cseq lcmap : Nat) (flits : List Bytes) (s0 : State) : Answer :=
  let x0 := s0.port port
  let s := s0.helloAgain port
  let x := s.port port
  let good := rsCorrects errors
  let fs := (List.range 10).map fun i => padTo 64 (flits.getD i [])
  let t := s.setPort port { x with lastSeq := cseq % 1024, sinceAck := x.sinceAck + 1 }
  let u := (List.range 10).foldl (fun s i => s.takeFlit port (lcmap.testBit i) (fs.getD i [])) t
  let v := if 16 ≤ (u.port port).sinceAck then u.setPort port (u.port port).sendAck else u
  onUnit "Darval port" port 20 (whenDue (x0.state = .up || (x0.state = .training && x0.stage = 5)) s0
    (if good && cseq % 1024 = (x.lastSeq + 1) % 1024 then v else s.discardCodeword port (!good)))

/-- ACK_AND_CREDIT (R265, R266): codewords up to ack released with their tags, a replay on a nak, credits returned. -/
def State.hearAckFlit (s : State) (port : Nat) (f : Bytes) : State :=
  let x := s.port port
  let beyond := fun (c : Codeword) => decide ((bitsIn f 4 10 + 1024 - c.cseq) % 1024 < 512)
  let done := x.unacked.filter beyond
  let rest := x.unacked.filter (!beyond ·)
  let nak := bitsIn f 14 1 = 1
  let credits := (List.range 4).foldl (fun m v => SMap.set 0 m v (SMap.get 0 m v + bitsIn f (16 + 16 * v) 16)) x.credits
  let y := { x with unacked := rest, credits := credits, sent := if nak then x.sent ++ rest else x.sent
                    replays := if nak && !rest.isEmpty then recent 64 s.time x.replays else x.replays }
  ((done.flatMap (·.tags)).foldl State.dropTag (s.setPort port y)).settleDrains

/-- ACK_AND_CREDIT. -/
def execAckAndCredit (port : Nat) (s : State) : Answer :=
  let x := s.port port
  onUnit "Darval port" port 20
    (match x.control with
     | f :: rest => whenDue (bitsIn f 0 4 = 0) s ((s.setPort port { x with control := rest }).hearAckFlit port f)
     | [] => .next s)

/-! ### Sending -/

/-- The VC3 bucket now in 1/32 flit (R272): refilled at the real-time cap's share of 15.625 flits a tick, 4,096 flits at most; a packet longer
than the tokens it finds leaves it in debt. -/
def State.bucketNow (s : State) (p : Nat) : Int :=
  let x := s.port p
  let cap := match s.installation with
    | some i => 5 * i.rtcap
    | none => 25
  min (32 * 4096) (x.bucket + ((s.time - x.filled).toNat * cap * 5 : Nat))

/-- The weight of a channel (R272). -/
def State.weight (s : State) (vc : Nat) : Nat := match s.installation with
  | some i => if vc = 0 then i.w0 else if vc = 1 then i.w1 else i.w2
  | none => if vc = 0 then 1 else if vc = 1 then 8 else 4

/-- Whether every packet sent under a session's old keys has been acknowledged (R422). -/
def State.allAcked (s : State) (port peer : Nat) : Bool :=
  if isRailPort port then (s.session peer).stored.isEmpty else (s.port port).unacked.all fun c => c.dst ≠ peer

/-- Bytes the gallery store holds (R274, R284). -/
def State.storeBytes (s : State) : Nat := (s.sessions.map fun x => (x.2.stored.map fun p => 64 + p.packet.payload.length).sum).sum
def State.storeSize (s : State) : Nat := if (s.port 19).version = 2 then 2 ^ 20 else 3 * 2 ^ 19

/-- Whether the pacing rate that a version 2 peer advertises lets a packet out (R279): the last one's flits have had their time
(notes/assumptions/87.md). -/
def State.paceOpen (s : State) (port : Nat) : Bool :=
  let x := s.port port
  x.version ≠ 2 || decide (x.pacedFlits ≤ (s.time - x.pacedAt).toNat * Config.azf2Pace port s.time)

/-- Whether a packet to be sent counts among the packets of its session (R284): all on a rail but the session packets that open the
session (DEDUCED, notes/assumptions/31.md). -/
def State.counted (s : State) (port : Nat) (w : Waiting) : Bool :=
  let y := s.session w.dst
  isRailPort port && (w.packet.ptype ≠ 0x6 || (y.up && !y.lost && (w.packet.info 0 4 ≠ 3 || y.coming.isSome)))

/-- Whether a waiting packet may go out on a port now (R266, R272, R273, R279, R281 to R285): on a rail the gallery store has room for it,
and the window, which end-to-end acks pass over (notes/assumptions/90.md). -/
def State.maySend (s : State) (port : Nat) (w : Waiting) : Bool :=
  let x := s.port port
  let y := s.session w.dst
  let n := w.packet.nflits + 1
  s.carries port w.packet.vc && s.paceOpen port && (w.tag.isSome || (s.linkTag w.lease).isSome) &&
  decide (n ≤ SMap.get 0 x.credits w.packet.vc) && decide (x.unacked.length + (n + 9) / 10 ≤ 512) &&
  (!s.counted port w || ((w.packet.ptype = 0x5 || decide (y.stored.length < y.window)) && decide (s.storeBytes + 64 * n ≤ s.storeSize))) &&
  (w.packet.ptype = 0x6 || (y.up && (y.coming.isNone || s.allAcked port w.dst) && decide (y.ctrSent.toNat + 1 < 2 ^ 48)))

/-- Whether a packet keeps a later one of its channel behind it (R270): one to the same destination; not one that waits for a session to open,
where the later is of the handshake that opens it (R282). -/
def State.holdsBack (s : State) (v w : Waiting) : Bool :=
  v.dst = w.dst && (w.packet.ptype ≠ 0x6 || v.packet.ptype = 0x6 || (s.session w.dst).up)

/-- The first packet of a channel that may go out: none waits before it that holds it back. -/
def State.firstSendable (s : State) (port vc : Nat) : Option Waiting :=
  let q := SMap.get [] (s.port port).queues vc
  q.find? fun w => s.maySend port w && (q.find? fun v => s.holdsBack v w) = some w

/-- Deficit round robin over VC0 to VC2 (R272), and the packet chosen; `fuel` channel visits. -/
def State.pick (s : State) (port : Nat) : Nat → DarvalPort → DarvalPort × Option Waiting
  | 0, x => (x, none)
  | fuel + 1, x =>
    let t := x.turn % 3
    let next := (t + 1) % 3
    let d := SMap.get 0 x.deficits t
    match s.firstSendable port t with
    | some w =>
      if w.packet.nflits + 1 ≤ d then ({ x with deficits := SMap.set 0 x.deficits t (d - (w.packet.nflits + 1)) }, some w)
      else State.pick s port fuel { x with turn := next, deficits := SMap.set 0 x.deficits next (SMap.get 0 x.deficits next + 64 * s.weight next) }
    | none =>
      let m := if (SMap.get [] x.queues t).isEmpty then SMap.set 0 x.deficits t 0 else x.deficits
      State.pick s port fuel { x with turn := next, deficits := SMap.set 0 m next (SMap.get 0 m next + 64 * s.weight next) }

/-- The packet a port sends next: VC3 while its bucket holds tokens, then the round robin. -/
def State.choose (s : State) (port : Nat) : DarvalPort × Option Waiting :=
  let x := s.port port
  match s.firstSendable port 3 with
  | some w => if 0 < s.bucketNow port then ({ x with bucket := s.bucketNow port - 32 * (w.packet.nflits + 1), filled := s.time }, some w) else s.pick port 16 x
  | none => s.pick port 16 x

/-- Bytes of a header replaced: ctr, tag, seq, ack and ce (R267). -/
def finishHeader (h : Bytes) (ctr seq ack : Nat) (ce : Bool) (tag : Bytes) : Bytes :=
  let b0 := (h.getD 0 0).toNat % 128 + 128 * bit ce
  BitVec.ofNat 8 b0 :: slice h 1 7 ++ leBytes 4 seq ++ leBytes 4 ack ++ slice h 16 32 ++ leBytes 8 ctr ++ padTo 8 tag

/-- The session as its next packet under its own keys finds it (R422): new keys come into use with ctr restarted. -/
def Session.promoted (x : Session) : Session := match x.coming with
  | some k => if x.keys = some k then { x with coming := none, ctrSent := 0 } else { x with keys := some k, old := x.keys, coming := none, ctrSent := 0 }
  | none => x

/-- A packet's flits put into codewords (R273, R279): its credits taken, its pace kept. -/
def DarvalPort.place (x : DarvalPort) (now : Word64) (q : Packet) (tags : List Nat) (dst : Nat) (seg : Option (Nat × Nat)) : DarvalPort :=
  { DarvalPort.emit 7 x (q.header :: chunksOf 64 (q.nflits + 1) q.payload) tags dst seg with
      credits := SMap.set 0 x.credits q.vc (SMap.get 0 x.credits q.vc - (q.nflits + 1))
      pacedAt := if x.version = 2 then now else x.pacedAt, pacedFlits := if x.version = 2 then q.nflits + 1 else x.pacedFlits }

/-- A packet that waited for a transfer tag takes it (R283). -/
def State.tagged (s : State) (w : Waiting) : State := if w.tag.isSome then s else s.takeLinkTag w.lease

/-- The seq and the ack of a rail packet taken at its sending, and its copy kept until it is acknowledged (R284). -/
def Session.keep (y : Session) (now : Word64) (port : Nat) (q : Packet) (tag : Option Nat) (seg : Option (Nat × Nat)) : Session :=
  { y with seqSent := y.seqSent + 1, echo := false, unackedSince := 0, progressAt := if y.stored.isEmpty then now else y.progressAt
           stored := y.stored ++ [⟨y.seqSent + 1, q, tag, seg⟩], leftOn := port }

/-- A packet placed in codewords (R271, R284): protected under its key and given its ctr, but for a session packet; kept on a rail until
it is acknowledged. -/
def State.transmit (s : State) (port : Nat) (w : Waiting) : State :=
  let rail := isRailPort port
  let p := w.packet
  let x := s.port port
  let tag := w.tag <|> s.linkTag w.lease
  let s0 := s.tagged w
  let kept := s.counted port w
  if p.ptype = 0x6 then
    let y := s.session w.dst
    let q : Packet := if kept then ⟨finishHeader p.header 0 (y.seqSent + 1).toNat y.seqHeard.toNat y.echo [], p.payload⟩ else p
    let s1 := s0.setPort port (x.place s.time q (if kept then [] else tag.toList) w.dst none)
    if kept then s1.setSession w.dst (y.keep s.time port q tag none) else s1
  else
    let y := (s.session w.dst).promoted
    match y.keys.bind fun k => s.packetKey k w.lease s.gidx w.dst with
    | none => s.discardWaiting w
    | some key =>
      let ctr := y.ctrSent.toNat + 1
      let h0 := finishHeader p.header ctr (if rail then (y.seqSent + 1).toNat else 0) (if rail then y.seqHeard.toNat else 0) (rail && y.echo) []
      let z := gcmSeal key (packetNonce ctr w.lease s.gidx) (packetAad h0) p.payload
      let q : Packet := ⟨slice h0 0 56 ++ padTo 8 z.tag, z.text⟩
      let y1 := { y with ctrSent := BitVec.ofNat 64 ctr }
      (s0.setPort port (x.place s.time q (if rail then [] else tag.toList) w.dst (if rail then none else w.seg))).setSession w.dst (if rail then y1.keep s.time port q tag w.seg else y1)

/-- PACKET_SEND (R272). -/
def execPacketSend (port : Nat) (s : State) : Answer :=
  onUnit "Darval port" port 20
    (match s.choose port with
     | (x, some w) =>
       let y := { x with queues := SMap.set [] x.queues w.packet.vc ((SMap.get [] x.queues w.packet.vc).erase w) }
       whenDue ((s.port port).state = .up) s ((s.setPort port y).transmit port w)
     | (_, none) => .next s)

/-! ### The gallery transport's timers -/

/-- END_TO_END_ACK (R284, R285). -/
def execEndToEndAck (port : Nat) (s : State) : Answer := packetRow port 0x5 s (fun _ => true) fun s p => s.hearAck p.src p.ack p.ce

/-- GALLERY_RETRANSMISSION (R284): 16 µs without progress. -/
def execGalleryRetransmission (peer : Nat) (s : State) : Answer :=
  let x := s.session peer
  let t := s.reach (x.progressAt + 1600)
  let p := t.railPort (peer / 16)
  let u := t.sendAgain peer
  onUnit "gallery index" peer 1024 (whenDue (s.onRail peer && x.up && !x.stored.isEmpty && x.resends < 8 && (t.port p).state = .up) s
    (u.setSession peer { u.session peer with resends := x.resends + 1, progressAt := t.time }))

/-- END_TO_END_ACK_TIMER (R284): 2 µs. -/
def execEndToEndAckTimer (peer : Nat) (s : State) : Answer :=
  onUnit "gallery index" peer 1024 (whenDue (s.onRail peer && (s.session peer).up && 0 < (s.session peer).unackedSince) s (s.sendEndAck peer))

/-- RAIL_DESTINATION_LOST (R284, R298): eight resends without progress. -/
def execRailDestinationLost (peer : Nat) (s : State) : Answer :=
  let x := s.session peer
  let s1 := x.stored.foldl (fun s p => (s.dropTag? p.tag).answerSegment p.seg 0x05) s
  let s2 := (s1.setSession peer { x with stored := [], lost := true, resends := 0 }).loseBeyond (· = peer) 0x0405 (s1.railPort (peer / 16))
  onUnit "gallery index" peer 1024 (whenDue (s.onRail peer && 8 ≤ x.resends && !x.stored.isEmpty) s s2.settleDrains)

end Sys2Proof.Machine
end

