-- ==== Sys2Proof/Machine/Protect.lean ====
section
/-!
DEFINITION. The memories' own events (R190, R191, R197, R198, R398 to R408, R494): GDDR7 channels, protected lines, their sealing and
tree, re-keys, patrols and corrected errors.
-/
namespace Sys2Proof.Machine

/-! ### What the devices hold (R396 to R401): functions of the state -/

/-- K_base of a region (R396): K_area for a module area, else the lease's K_lmem. -/
def State.baseKey (s : State) (g : Nat) : Option Bytes :=
  if inArea g then s.nonce.map fun b => deriveKey (deriveKey (beBytes 32 Config.memoryRootKey.toNat) "AZP boot" b 32) "module area" (leBytes 1 0xFF) 32
  else (s.atelierOfRegion g).bind fun a => (s.lease a).keys.map (·.lmem)

/-- K_reg and K_tree of a region in an epoch (R396). -/
def regionKey (base : Bytes) (g epoch : Nat) : Bytes := deriveKey base "region" (leBytes 4 g ++ leBytes 2 epoch) 16
def treeKey (base : Bytes) (g epoch : Nat) : Bytes := deriveKey base "tree" (leBytes 4 g ++ leBytes 2 epoch) 32

/-- The nonce of a line (R398). -/
def lineNonce (major minor line g : Nat) : Bytes := leBytes 4 major ++ leBytes 1 minor ++ leBytes 1 0 ++ leBytes 2 line ++ leBytes 4 g

/-- The epoch a line is under (R407). -/
def RootRecord.epochOf (r : RootRecord) (line : Nat) : Nat := if r.below line then r.epoch.toNat + 1 else r.epoch.toNat

/-- A line as the devices hold it (R398, R407): ciphertext and 8-byte MAC; nothing in an unwritten group or without keys. -/
def State.sealedLine (s : State) (g line : Nat) : Option (Bytes × Bytes) :=
  let r := s.root g
  let c := s.counter g (line / 64)
  if r.written.getLsbD (line / 64) then
    (s.baseKey g).map fun base =>
      let x := gcmSeal (regionKey base g (r.epochOf line)) (lineNonce (r.majorOf c line).toNat (SMap.get 0 c.minors (line % 64)).toNat line g) [] (s.gddr.readBytes (2 ^ 21 * g + 128 * line) 128)
      (x.text, slice x.tag 0 8)
  else none

/-- A counter block's 64 bytes (R399). -/
def CounterBlock.bytes (c : CounterBlock) : Bytes := record 64 ((0, 32, c.major.toNat) :: c.minors.map fun m => (32 + 7 * m.1, 7, m.2.toNat))

/-- A tree entry for a child (R400). -/
def treeEntry (key : Bytes) (g level index : Nat) (child : Bytes) : Bytes := slice (hmacSm3 key (leBytes 4 g ++ leBytes 1 level ++ leBytes 2 index ++ child)) 0 8

/-- The roots field of a region's record (R400, R401), a function of its counter blocks: entry n is 0, its reset value, until a group
beneath level-2 node n is written; none while groups are written whose keys are gone (notes/assumptions/82.md). -/
def State.treeRoots (s : State) (g : Nat) : Option (List Bytes) :=
  let entry := fun (key : Bytes) (n : Nat) =>
    let block := fun i => treeEntry key g 0 i (s.counter g i).bytes
    let node1 := fun n => (upFrom (8 * n) 8).flatMap block
    let node2 := fun n => (upFrom (8 * n) 8).flatMap fun k => treeEntry key g 1 k (node1 k)
    if (upFrom (64 * n) 64).any fun k => (s.root g).written.getLsbD k then treeEntry key g 2 n (node2 n) else List.replicate 8 0
  if (s.root g).written = 0 then some (List.replicate 4 (List.replicate 8 0))
  else (s.baseKey g).map fun base => (List.range 4).map (entry (treeKey base g (s.root g).epoch.toNat))

/-- A root record as R401 lays it out, 112 B; the entries that cannot be computed, their keys being gone, read as 0. -/
def State.rootBytes (s : State) (g : Nat) : Bytes :=
  let r := s.root g
  ((s.treeRoots g).getD (List.replicate 4 (List.replicate 8 0))).flatMap id ++
    record 80 [(0, 16, r.epoch.toNat), (16, 1, bit r.retired), (17, 1, bit r.rekey), (18, 15, r.boundary), (64, 256, r.written.toNat), (320, 256, r.lost.toNat)]

/-! ### Reads and writes of a line -/

/-- The groups beneath a counter block, a level-1 or a level-2 node that failed, with the group it was met at (R400, R403). -/
def groupsBeneath (level group : Nat) : List Nat := upFrom (group / 8 ^ level * 8 ^ level) (8 ^ level)

/-- A failed counter block or node (R403): every group beneath is lost; the region's atelier, or the module, faults. -/
def State.groupLost (s : State) (g group level : Nat) : State :=
  let s1 := (groupsBeneath level group).foldl (fun s k => s.loseGroup g k) s
  if inArea g then s1.faultModule 0x0821 [g, group]
  else match s.atelierOfRegion g with
    | some a => s1.faultAtelier a 0x0420 none none [g, group]
    | none => s1

/-- A line that failed verification: poisoned, with its entry (R402). -/
def State.lineFailed (s : State) (g line : Nat) : State := (s.poisonLine g line).noteOf (s.atelierOfRegion g) 0x0223 [g, line]

/-- Whether a line's group holds ciphertext that is verified at a read. -/
def State.lineLive (s : State) (g line : Nat) : Bool := (s.root g).written.getLsbD (line / 64) && !(s.root g).lost.getLsbD (line / 64) && s.keyed g

/-- PROTECTED_LINE_READ (R402, R403). -/
def execProtectedLineRead (region line : Nat) (lost : Option Nat) (first second : Bool) (s : State) : Answer :=
  onUnit "region" region 262144 (onUnit "line" line 16384
    (whenDue (s.lineLive region line) s
      (match lost with
       | some k => s.groupLost region (line / 64) k
       | none => if first || second || s.lineBad region line then s else s.lineFailed region line)))

/-- Lines that fail verification when a write of `line` re-encrypts its group (R406): they are poisoned, each with its entry
(notes/assumptions/84.md). -/
def State.reencryptFails (s : State) (g line : Nat) (bad : List Nat) : State :=
  if s.lineLive g line && !(s.root g).retired && decide (125 < (SMap.get 0 (s.counter g (line / 64)).minors (line % 64)).toNat) then
    (bad.filter fun l => l / 64 = line / 64 && l ≠ line && !s.lineBad g l).foldl (fun s l => s.lineFailed g l) s
  else s

/-- PROTECTED_LINE_WRITE (R404, R406 to R408): nothing without the region's keys (R431). `bad` are the lines of the group that fail their
verification, should the write re-encrypt it. -/
def execProtectedLineWrite (region line : Nat) (data : LineData) (s : State) : Answer :=
  onUnit "region" region 262144 (onUnit "line" line 16384 (whenDue (s.keyed region) s ((s.reencryptFails region line data.bad).writeLine region line data.bytes)))

/-- A partial write to an unverifiable line (R405): the region's atelier faults. -/
def State.partialFailed (s : State) (g line : Nat) : State := match s.atelierOfRegion g with
  | some a => (s.poisonLine g line).faultAtelier a 0x0421 none none [g, line]
  | none => s.poisonLine g line

/-- Bytes merged into a line's plaintext, the whole line then written (R405). -/
def State.mergeLine (s : State) (g line off : Nat) (data : Bytes) : State :=
  let a := 2 ^ 21 * g + 128 * line
  s.writeLine g line ((s.gddr.writeBytes (a + off) (slice data 0 (min data.length (128 - off)))).readBytes a 128)

/-- PARTIAL_LINE_WRITE (R405): an unwritten group merges with zeros; a lost group takes no write (R403). -/
def execPartialLineWrite (region line off : Nat) (data : Bytes) (lost : Option Nat) (good : Bool) (s : State) : Answer :=
  onUnit "region" region 262144 (onUnit "line" line 16384
    (whenDue (s.keyed region) s
      (if !s.lineLive region line then (if (s.root region).lost.getLsbD (line / 64) then s.partialFailed region line else s.mergeLine region line off data)
       else match lost with
        | some k => s.groupLost region (line / 64) k
        | none =>
          if s.lineBad region line then s.partialFailed region line
          else if !good then (s.lineFailed region line).partialFailed region line
          else s.mergeLine region line off data)))

/-! ### Re-keys and patrols -/

/-- Whether a region is being re-keyed, or a group of it can rise no further (R406, R407). -/
def State.rekeyDue (s : State) (g : Nat) : Bool := (s.root g).rekey || s.counters.any fun p => p.1 / 256 = g && p.2.major = 0xFFFFFFFF && p.2.minors.any fun m => 126 ≤ m.2.toNat

/-- A re-key moved on by some lines (R407); a region at its last epoch is retired in its place (R408). -/
def State.rekeyLines (s : State) (g lines : Nat) (bad : List Nat) : State :=
  let r := s.root g
  if r.last then s.endRekey g
  else
    let from_ := r.reached
    let dest := min 16384 (from_ + lines)
    let s1 := s.passLines g dest
    let s2 := (bad.filter fun l => decide (from_ ≤ l) && decide (l < dest) && s.lineLive g l && !s.lineBad g l).foldl (fun s l => s.lineFailed g l) s1
    if dest = 16384 then s2.endRekey g else s2

/-- REGION_REKEY (R407, R408), with one of the module's own transfer tags (R194; notes/assumptions/68.md). -/
def execRegionRekey (region lines : Nat) (bad : List Nat) (s : State) : Answer :=
  onUnit "region" region 262144 (whenDue (s.keyed region && !(s.root region).retired && s.rekeyDue region && s.freeModuleTag.isSome) s (s.rekeyLines region lines bad))

/-- MODULE_AREA_PATROL (R494): `lines` are those that fail, as (region of the area, line); `nodes` the counter blocks (level 0) and tree
nodes that fail, as (region, level, a written group beneath). -/
def execModuleAreaPatrol (die : Nat) (lines : List (Nat × Nat)) (nodes : List (Nat × Nat × Nat)) (s : State) : Answer :=
  let g := fun (r : Nat) => 65536 * die + 65456 + r
  let s1 := (lines.filter fun p => s.lineLive (g p.1) p.2 && !s.lineBad (g p.1) p.2).foldl (fun s p => s.lineFailed (g p.1) p.2) s
  let s2 := (nodes.filter fun p => s.lineLive (g p.1) (64 * p.2.2)).foldl (fun s p => s.groupLost (g p.1) p.2.2 p.2.1) s1
  onUnit "port die" die 4 (whenDue (s.mstate = 1 || s.mstate = 2 || s.mstate = 3) s s2)

/-! ### Corrected and uncorrected errors in SRAM -/

/-- Corrected errors counted (R197): an entry where the last second's count passes 1,000. -/
def State.correctErrors (s : State) (p count : Nat) : State :=
  let x := s.panel p
  let past := x.corrected.filter fun e => decide ((s.time - e.1).toNat < 100000000)
  let before := (past.map Prod.snd).sum
  let s1 := s.setPanel p { x with corrected := if count = 0 then past else past ++ [(s.time, count)] }
  if before ≤ 1000 && 1000 < before + count then s1.note 0x0221 [p, before + count] else s1

/-- The reservoir line that a panel numbers `n` (R182). -/
def State.panelLine (s : State) (p n : Nat) : Nat :=
  let shares := match s.installation with
    | some i => i.shares
    | none => []
  let share := fun (k : Nat) => 1024 * shares.getD (4 * p + k) 0
  let q := ((List.range 4).find? fun k => decide (n < ((List.range (k + 1)).map share).sum)).getD 3
  (4 * p + q) * 1024 * 73728 + (n - ((List.range q).map share).sum)

/-- RESERVOIR_PATROL_SCRUB (R197, R198): `bad` are the panel's lines with an uncorrectable error, `corrected` the errors corrected
in place. -/
def execReservoirPatrolScrub (panel : Nat) (bad : List Nat) (corrected : Nat) (s : State) : Answer :=
  onUnit "panel" panel 12 (whenDue s.power.rails s
    ((bad.foldl (fun s n => s.poisonReservoir (s.panelLine panel n)) s).correctErrors panel corrected))

/-- SRAM_CORRECTED_ERROR_RATE (R197). -/
def execSramCorrectedErrorRate (panel count : Nat) (s : State) : Answer := onUnit "panel" panel 12 (whenDue s.power.rails s (s.correctErrors panel count))

/-! ### GDDR7 channels -/

/-- GDDR7_REFRESH (R190): one per-bank refresh. -/
def execGddr7Refresh (channel : Nat) (s : State) : Answer :=
  onUnit "channel" channel 32 (whenDue s.power.rails s (s.setChannel channel { s.channel channel with refreshes := (s.channel channel).refreshes + 1 }))

/-- GDDR7_TEMPERATURE_READOUT (R190), in 1/16 °C. -/
def execGddr7TemperatureReadout (channel : Nat) (temp : Int) (s : State) : Answer :=
  let s1 := s.setChannel channel { s.channel channel with temp := temp, doubled := decide (85 * 16 < temp) }
  onUnit "channel" channel 32 (whenDue s.power.rails s (if 95 * 16 < temp then s1.note 0x0220 [channel] else s1))

/-- GDDR7_ECC_COUNT_READ (R191). -/
def execGddr7EccCountRead (channel count : Nat) (s : State) : Answer :=
  onUnit "channel" channel 32 (whenDue s.power.rails s (if count = 0 then s else s.note 0x0120 [channel, count]))

/-- Exhausted retries counted (R191): the sixteenth within 1 s faults the module. -/
def State.countRetries (s : State) (c : Nat) : State :=
  let x := s.channel c
  let past := x.exhausted.filter (fun t => decide ((s.time - t).toNat < 100000000)) ++ [s.time]
  let s1 := s.setChannel c { x with exhausted := past }
  if past.length = 16 then s1.faultModule 0x0820 [c] else s1

/-- GDDR7_RETRIES_EXHAUSTED (R188, R191): the line, on the channel that its 1 KiB unit lies on (notes/assumptions/75.md), of a burst that still fails is one that does not verify (R402). -/
def execGddr7RetriesExhausted (channel region line : Nat) (write : Bool) (s : State) : Answer :=
  let s1 := if s.lineLive region line && (write || !s.lineBad region line) then s.lineFailed region line else s
  onUnit "channel" channel 32 (onUnit "region" region 262144 (onUnit "line" line 16384
    (whenDue (s.power.rails && channel / 8 = region / 65536 && channel % 8 = line / 8 % 8) s (s1.countRetries channel))))

end Sys2Proof.Machine
end

