-- ==== Sys2Proof/Machine/Tables.lean ====
section
/-!
DEFINITION. The table units (R166 to R174): requests and their rejection, gathers, scatter-adds and completions.
-/
namespace Sys2Proof.Machine

/-- What a request has met: counts of index positions and the first of them (R172). -/
structure Tally where
  oob : Nat
  poison : Nat
  first : Option Nat

/-- A position counted. -/
def Tally.count (t : Tally) (pos : Nat) (oob bad : Bool) : Tally :=
  ⟨if oob then t.oob + 1 else t.oob, if bad then t.poison + 1 else t.poison, if (oob || bad) && t.first.isNone then some pos else t.first⟩

/-- The completion message (R172). -/
def completionLine (l : Bytes) (reject distinct : Nat) (t : Tally) : Bytes :=
  record 64 [(0, 32, reqTag l), (32, 1, bit (reject ≠ 0)), (33, 1, bit (0 < t.oob)), (34, 1, bit (0 < t.poison)), (40, 8, reject),
    (64, 13, distinct), (80, 13, t.oob), (96, 13, t.poison), (112, 12, t.first.getD 0)]

/-- A reply on its way, with the epoch captured at TREQ (R172, R173). -/
def State.reply (s : State) (q : Nat) (r : TableReq) (line : Bytes) : State :=
  { s with mesh := s.mesh ++ [⟨10368 + q, r.core, reqChan r.line, r.epoch, line⟩] }

/-- A rejected request (R168); distinct is 0 in its completion (R172; DESIGN CHOICE, notes/assumptions/115.md). -/
def State.rejectTable (s : State) (q : Nat) (r : TableReq) (code : Nat) : State :=
  (s.log 0x0112 (some r.atelier) none (some r.ctx) [r.core, q, reqTag r.line, code]).reply q r (completionLine r.line code 0 ⟨0, 0, none⟩)

/-- One row as a gather delivers it, and whether it met a poisoned line (R169). -/
def State.gatherRow (s : State) (ctx : Nat) (l : Bytes) (i : Nat) : List Bytes × Bool :=
  if reqRows l ≤ i then (List.replicate (reqLines l) (List.replicate 64 0), false)
  else
    let got := (List.range (reqLines l)).map fun k => s.fetch ctx (reqTable l + 64 * (reqLines l * i + k)) 64
    (got.map fun f => if f.bad.isEmpty then f.bytes else List.replicate 64 0, got.any fun f => !f.bad.isEmpty)

/-- The tally of a gather (R169, R172). -/
def gatherTally (l : Bytes) (idx : List Nat) (rows : List (List Bytes × Bool)) : Tally :=
  (List.range idx.length).foldl (fun t j => t.count j (decide (reqRows l ≤ idx.getD j 0)) ((rows.getD j ([], false)).2)) ⟨0, 0, none⟩

/-- How many distinct indices a list holds. -/
def distinctCount (idx : List Nat) : Nat := (idx.foldl NatSet.add []).length

/-- A gather (R169): its rows as messages, or written to addr2; then its completion. A write that retires a region ends it with code 0x05
(R408); one that faults the request's atelier discards it (R173). -/
def State.gather (s : State) (q : Nat) (r : TableReq) : State :=
  let l := r.line
  let idx := s.indices r.ctx l
  let rows := idx.map (s.gatherRow r.ctx l)
  let lines := rows.flatMap (·.1)
  let s1 := if reqOp l = 0 then lines.foldl (fun s x => s.reply q r x) s
    else (s.store r.ctx (reqAddr2 l) (lines.flatMap id)).settle
  if (s1.atelier r.atelier).faulted && !(s.atelier r.atelier).faulted then s1
  else if reqOp l ≠ 0 && !s1.mayWrite r.ctx (reqAddr2 l) (64 * reqCount l * reqLines l) then s1.rejectTable q r 0x05
  else s1.reply q r (completionLine l 0 (distinctCount idx) (gatherTally l idx rows))

/-- The GDDR7 line of a row, if any, that fails verification on its read: a readable line that holds one of the addresses `fails`. -/
def State.rowFails (s : State) (ctx va n : Nat) (fails : List Nat) : Option (Nat × Nat) :=
  (fails.filter fun a => decide (va ≤ a) && decide (a < va + n)).findSome? fun a => match s.locate ctx a with
    | some p => let g := p.addr / 2 ^ 21
                let l := p.addr % 2 ^ 21 / 128
                if p.gddr && s.lineLive g l then some (g, l) else none
    | none => none

/-- One row read, added and written as one act (R170, R405); a row with a poisoned line stays as it is, and one with a line that fails
verification on its read faults the region's atelier; a row in a retired region, or whose write retires one, stays whole (R408). -/
def State.updateRow (s : State) (ctx va n : Nat) (fails : List Nat) (f g : Fmt) (rtz : Bool) (adds : List (List Nat)) : State :=
  let got := s.fetch ctx va n
  if !got.bad.isEmpty then s
  else match s.rowFails ctx va n fails with
    | some (reg, line) => (s.lineFailed reg line).partialFailed reg line
    | none => (s.storeWhole ctx va (scatterRow f g rtz got.bytes adds)).settle

/-- The rows of a scatter-add, one after another (R170, R171); once a row's own read has faulted the request's atelier, the request is
discarded, and what becomes of the rows left is as R173 says. The second part says that it was. -/
def State.scatterRows (r : TableReq) (fails : List Nat) (f g : Fmt) (adds : Nat → List (List Nat)) : List Nat → State → State × Bool
  | [], s => (s, false)
  | i :: is, s =>
    let size := 64 * reqLines r.line
    let t := s.updateRow r.ctx (reqTable r.line + size * i) size fails f g (reqRtz r.line) (adds i)
    if (t.atelier r.atelier).faulted && !(s.atelier r.atelier).faulted then (t.leaveSome r is, true) else State.scatterRows r fails f g adds is t

/-- A scatter-add (R170): each distinct row once, in the order of its first index. A write that retires a region ends it with code 0x05
(R408). -/
def State.scatter (s : State) (q : Nat) (r : TableReq) (fails : List Nat) : State :=
  let l := r.line
  let f := (Fmt.ofCode (reqFmt l)).getD .fp32
  let g := if reqWide l then .fp32 else f
  let idx := s.indices r.ctx l
  let size := 64 * reqLines l
  let bad := fun i => decide (i < reqRows l) && !(s.fetch r.ctx (reqTable l + size * i) size).bad.isEmpty
  let adds := fun (i : Nat) => ((List.range idx.length).filter fun j => idx.getD j 0 = i).map (s.contributionCodes r.ctx l g)
  let (s1, gone) := State.scatterRows r fails f g adds (s.rowsOf r.ctx l) s
  let tally := (List.range idx.length).foldl (fun t j => t.count j (decide (reqRows l ≤ idx.getD j 0)) (bad (idx.getD j 0))) ⟨0, 0, none⟩
  if gone then s1
  else if !s1.mayWrite r.ctx (reqTable l) (64 * reqRows l * reqLines l) then s1.rejectTable q r 0x05
  else s1.reply q r (completionLine l 0 (distinctCount idx) tally)

/-- A request taken from the front of its unit's queue, where a transfer tag is to be had (R171, R173): rejected, or run. -/
def State.runTable (s : State) (q : Nat) (r : TableReq) (run : State → State) : State :=
  let code := s.tableReject r.ctx r.line true
  if code ≠ 0 then s.rejectTable q r code else run s

/-- The front request of a quadrant's gather unit, where its operation is one of those asked. -/
def State.gatherFront (s : State) (q : Nat) (ops : List Nat) : Option TableReq :=
  ((SMap.get [] s.gathers q).head?).filter fun r => ops.contains (reqOp r.line) && (s.freeTag r.atelier).isSome

/-- A gather request carried out; its rows' tags are taken and dropped within it (R194; DEDUCED, notes/assumptions/68.md). -/
def State.runGather (s : State) (q : Nat) (r : TableReq) : State :=
  { s with gathers := SMap.set [] s.gathers q ((SMap.get [] s.gathers q).drop 1) }.runTable q r (fun s => s.gather q r)

/-- GATHER_TO_WINDOW (R169): a request of op 0; a request of the reserved op 3, which the gather unit rejects (R168). -/
def execGatherToWindow (quadrant : Nat) (s : State) : Answer :=
  onUnit "quadrant" quadrant 48 (match s.gatherFront quadrant [0, 3] with
    | some r => .next (s.halfRate (64 + quadrant) (s.runGather quadrant r))
    | none => .next s)

/-- GATHER_TO_FAR_MEMORY (R169): a request of op 1. -/
def execGatherToFarMemory (quadrant : Nat) (s : State) : Answer :=
  onUnit "quadrant" quadrant 48 (match s.gatherFront quadrant [1] with
    | some r => .next (s.halfRate (64 + quadrant) (s.runGather quadrant r))
    | none => .next s)

/-- SCATTER_ADD (R170): `fails` are far addresses whose lines fail verification when the rows are read. -/
def execScatterAdd (run : ScatterRun) (s : State) : Answer :=
  let quadrant := run.quadrant
  onUnit "quadrant" quadrant 48 (match ((SMap.get [] s.scatters quadrant).head?).filter fun r => (s.freeTag r.atelier).isSome with
    | some r => .next (s.halfRate (128 + quadrant) ({ s with scatters := SMap.set [] s.scatters quadrant ((SMap.get [] s.scatters quadrant).drop 1) }.runTable quadrant r (fun s => s.scatter quadrant r run.fails)))
    | none => .next s)

end Sys2Proof.Machine
end

