-- ==== Sys2Proof/Machine/Collective.lean ====
section
/-!
DEFINITION. Collectives (R287 to R296, R495): the creation of a descriptor, launch, the four packets that carry them, timeout and
completion; and what the seal's records arrive by.
-/
namespace Sys2Proof.Machine

/-! ### COLL_CREATE -/

/-- A contributor entry (R288). -/
def contributorOf (b : Bytes) : Contributor := ⟨bitsIn b 0 14, bitsIn b 14 9, bitsIn b 23 8, bitsIn b 31 33⟩

/-- Whether a contributor keeps the limits of R288 and R495 in an atelier. -/
def State.contributorGood (s : State) (a op : Nat) (e : Contributor) : Bool :=
  decide (e.core < 10368) && s.holds a e.core &&
  (if op = 3 || op = 4 then e.base = 0 && e.count = 0 else decide (1 ≤ e.count) && decide (e.count ≤ 128) && decide (e.base + 4 * e.count ≤ 512))

/-- The descriptor that a COLL_CREATE carries, with its contributor table as memory holds it. -/
def State.drafted (s : State) (c : Cmd) : Coll :=
  let x : Coll := ⟨c.ctx, slice c.bytes 64 64, [], 0, false, none⟩
  let n := x.field 64 14
  let got := s.fetch c.ctx (x.field 80 48) (8 * n)
  { x with contributors := (List.range n).map fun i => contributorOf (slice got.bytes (8 * i) 8) }

/-- What its contributor table draws (R495); 0 where it is good. -/
def State.tableStatus (s : State) (c : Cmd) : Nat :=
  let x := s.drafted c
  let n := 8 * x.field 64 14
  if (s.objectAt c.ctx (x.field 80 48) n).isNone then 0x09
  else if !(s.fetch c.ctx (x.field 80 48) n).bad.isEmpty then 0x0E
  else if !x.contributors.all (s.contributorGood c.atelier x.op) then 0x07
  else 0

/-- COLL_CREATE (R287, R288, R321, R495). -/
def execCollCreate (cmd : Nat) (s : State) : Answer :=
  onCommand s cmd 0x0C fun c =>
    let slot := SMap.freeKey s.colls 16384 0
    let bad := s.tableStatus c
    if c.collStatus ≠ 0 then s.refuse cmd c.collStatus 0
    else if !s.hasRoom c then s.refuse cmd 0x06 0
    else if bad = 0x0E then s.finish cmd 0x0E 0
    else if bad ≠ 0 then s.refuse cmd bad 0
    else { s with colls := SMap.put s.colls slot (s.drafted c) }.finish cmd 0x00 slot

/-! ### What a packet of a collective brings -/

/-- Fields of a held packet's info (R289, R294, R295). -/
def CollPacket.field (p : CollPacket) (lo len : Nat) : Nat := bitsIn p.info lo len

/-- Chunks handed to the engines (R289). -/
def State.bringChunks (s : State) (x : CollRun) (j : Job) (c : Coll) (p : CollPacket) : State :=
  let size := if c.op = 5 then 512 else 260
  let hop : ChunkHop := if p.field 37 2 = 0 then .contribution else if p.field 37 2 = 1 then .partialSum else .result
  let rank := if s.isPartner j p.src then partnerRank else s.rankOf j p.src
  (List.range (p.field 225 4)).foldl (fun s i =>
    let n := p.field 192 33 + i
    s.arrive (n % 4) ⟨x.job, x.step, p.field 36 1, n, rank, hop, x.desc, p.port, slice p.payload (size * i) size⟩) s

/-- The sparse block of a descriptor (R295). -/
def State.sparseBlock (s : State) (j : Job) (c : Coll) : Bytes := (s.fetch j.ctx c.aux 64).bytes
/-- Its pair count. -/
def pairCount (l : Bytes) : Nat := bitsIn l 480 32
/-- Whether it passes the checks of R168 and R295. -/
def State.sparseGood (s : State) (j : Job) (c : Coll) : Bool :=
  let l := s.sparseBlock j c
  let n := pairCount l
  let inside := fun a k => k = 0 || (s.objectAt j.ctx a k).isSome
  s.readable j.ctx c.aux 64 && s.tableReject j.ctx l false = 0 && reqOp l = 2 && reqField l 164 12 = 0 && reqField l 288 192 = 0 && reqFmt l = c.fmt && decide (n ≤ 1048576) &&
  inside (reqIndex l) (4 * n) && inside (reqAddr2 l) (64 * contribLines l * n)

/-- The formats of a sparse exchange: the table's and the contributions'. -/
def sparseFmts (l : Bytes) : Fmt × Fmt :=
  let f := (Fmt.ofCode (reqFmt l)).getD .fp32
  (f, if reqWide l then .fp32 else f)

/-- The pairs a packet carries: index, sender's rank, element codes. -/
def pairsOf (l : Bytes) (rank n : Nat) (payload : Bytes) : List (Nat × Nat × List Nat) :=
  let size := 64 * contribLines l
  let g := (sparseFmts l).2
  (List.range n).map fun i => (leAt payload (4 * i) 4, rank, unpackElems g.width (8 * size / g.width) (slice payload (64 + size * i) size))

/-- Every named row set once all pairs are here (R170, R295), which completes the exchange; rows in ascending index, indices out of bounds
skipped and counted. -/
def State.settleSparse (s : State) (x : CollRun) (j : Job) : State :=
  match s.collRun x.job x.desc x.step with
  | none => s
  | some y =>
    let l := y.block
    let (f, g) := sparseFmts l
    let rows := ((y.pairs.map (·.1)).foldl NatSet.add []).filter fun i => decide (i < reqRows l)
    let s1 := rows.foldl (fun s i => s.updateRow j.ctx (reqTable l + 64 * reqLines l * i) (64 * reqLines l) [] f g (reqRtz l) ((y.pairs.filter fun p => p.1 = i).map fun p => p.2.2)) s
    s1.onColl x.job x.desc x.step fun y => { y with complete := true, pairs := [], oob := (y.pairs.filter fun p => decide (reqRows l ≤ p.1)).length }

/-- Pairs of another member (R295). -/
def State.bringPairs (s : State) (x : CollRun) (j : Job) (p : CollPacket) : State :=
  let rank := s.rankOf j p.src
  s.onColl x.job x.desc x.step fun y => { y with pairs := y.pairs ++ pairsOf y.block rank (p.field 224 16) p.payload }

/-- Bytes cut into packets of at most 64 flits, as gather packets of `n` members from rank `r` on (R294). -/
def State.sendGather (s : State) (j : Job) (dest seq fprint step r n : Nat) (bs : Bytes) : State :=
  (chunksOf 4096 (bs.length / 4096 + 1) bs).foldl (fun s b =>
    s.sendPacket dest 1 0x3 (s.lnum j.atelier) [(0, 32, seq), (64, 64, fprint), (128, 64, step), (192, 32, r), (224, 8, n)] b none) s

/-- The other members of this member's palette, and its rail peer in every other palette of the job (R294). -/
def State.palettePeers (s : State) (j : Job) : List Nat :=
  let m := s.mPos j
  ((List.range m).map fun i => s.memberAt j (s.ownPalette j * m + i)).filter (· ≠ s.gidx)
def State.railPeers (s : State) (j : Job) : List Nat :=
  let m := s.mPos j
  ((List.range (s.nPal j)).map fun p => s.memberAt j (p * m + s.rankOf j s.gidx % max 1 m)).filter (· ≠ s.gidx)

/-- Where a rank's contribution lies (R294). -/
def Coll.gatherAt (c : Coll) (r : Nat) : Nat := c.result + c.count * r

/-- The palette's bundle of an all-gather sent once its m contributions are here (R294); `slot` marks that it was. -/
def State.bundleGather (s : State) (x : CollRun) (j : Job) (c : Coll) : State :=
  match s.collRun x.job x.desc x.step with
  | none => s
  | some y =>
    let m := s.mPos j
    let r := s.ownPalette j * m
    if y.slot = 0 && (upFrom r m).all y.placed.has then
      let bs := (s.fetch j.ctx (c.gatherAt r) (c.count * m)).bytes
      let s1 := (s.railPeers j).foldl (fun s g => s.sendGather j g c.seq (c.fprint x.step) x.step r m bs) s
      s1.onColl x.job x.desc x.step fun y => { y with slot := 1 }
    else s

/-- Data of an all-gather (R294): the next bytes of the ranks named, in the order sent. -/
def State.bringGather (s : State) (x : CollRun) (j : Job) (c : Coll) (p : CollPacket) : State :=
  match s.collRun x.job x.desc x.step with
  | none => s
  | some y =>
    let r := p.field 192 32
    let n := p.field 224 8
    let key := 1024 * p.src + r
    let off := SMap.get 0 y.awaited key
    let take := min p.payload.length (c.count * n - off)
    let s1 := s.jobStore x.job j (c.gatherAt r + off) (slice p.payload 0 take)
    let done := c.count * n ≤ off + take
    let s2 := s1.onColl x.job x.desc x.step fun y =>
      { y with awaited := SMap.set 0 y.awaited key (if done then 0 else off + take), placed := if done then NatSet.addAll y.placed (upFrom r n) else y.placed }
    s2.bundleGather x j c

/-- A packet of a launched collective (R291): its fingerprint compared, then what it carries. -/
def State.bring (s : State) (x : CollRun) (j : Job) (c : Coll) (p : CollPacket) : State :=
  if p.field 64 64 ≠ x.fprint then s.abortColl x 0x0403
  else match p.ptype with
    | 0x1 => s.bringChunks x j c p
    | 0x2 => s.bringPairs x j p
    | _ => s.bringGather x j c p

/-- The collective a packet belongs to (R291): its lease's atelier, its sender a member, its step and its sequence. -/
def State.collOf (s : State) (lease src seq : Nat) : Option (Nat × Job × Nat × Coll) :=
  ((s.atelierOfLnum lease).bind fun a => s.jobs.findSome? fun (p : Nat × Job) =>
    if p.2.atelier = a && !p.2.serving && p.2.members.contains src then
      (p.2.collSlots.findSome? fun d => (SMap.find? s.colls d).bind fun c => if c.seq = seq then some (p.1, p.2, d, c) else none)
    else none)

/-- A chunk packet of a step that is not running here, or of no collective of the atelier, dropped and logged chunk by chunk (R250). -/
def State.dropChunkPacket (s : State) (a : Option Nat) (src : Nat) (k : CollPacket) : State :=
  if k.ptype = 1 then
    (List.range (k.field 225 4)).foldl (fun s i => match a with
      | some a => s.log 0x0103 (some a) (some (k.field 128 64)) none [k.field 192 33 + i, src, k.field 36 1]
      | none => s.note 0x0103 [k.field 192 33 + i, src, k.field 36 1]) s
  else s

/-- Whether a step is over at a job: every later one may still come to run, before its launch here (R250, R291). -/
def Job.past (j : Job) (step : Nat) : Bool := match j.run with
  | some r => decide (step < r.step)
  | none => decide (step < (j.sealed.elim 0 (· + 1)))

/-- Whether a packet is of a step that its atelier is not running and will not come to run (R250): the step is over, or a fault has ended it
(R450). -/
def State.overFor (s : State) (j : Job) (step : Nat) : Bool := j.past step || j.unsound || (s.atelier j.atelier).faulted

/-- A collective packet taken up (R291): held until its collective launches, else brought. -/
def State.hearColl (s : State) (port : Nat) (p : Packet) : State :=
  let k : CollPacket := ⟨p.ptype, p.src, port, slice p.header 16 32, p.payload⟩
  let step := k.field 128 64
  match s.collOf p.lease p.src (k.field 0 32) with
  | none => s.dropChunkPacket (s.atelierOfLnum p.lease) p.src k
  | some (n, j, d, c) =>
    if s.overFor j step then s.dropChunkPacket (some j.atelier) (s.rankOf j p.src) k
    else match s.collRun n d step with
    | none => s
    | some x => if x.launched.isNone then s.putRun { x with held := x.held ++ [k] } else s.bring x j c k

/-- CHUNKS (R289, R291). -/
def execChunksPacket (port : Nat) (s : State) : Answer := packetRow port 0x1 s (fun _ => true) fun s p => s.hearColl port p
/-- SPARSE_PAIRS (R291, R295). -/
def execSparsePairs (port : Nat) (s : State) : Answer := packetRow port 0x2 s (fun _ => true) fun s p => s.hearColl port p

/-- One running collective aborted here, its cores told (R291). -/
def State.markAborted (reason : Nat) (s : State) (y : CollRun) : State :=
  let t := s.onColl y.job y.desc y.step fun y => { y with aborted := some reason }
  match SMap.find? t.colls y.desc with
  | some c => t.tellCores y c (some reason)
  | none => t

/-- ABORT (R291): the collective and every later one of the step; the atelier faults with 0x0406, which names the reason. -/
def execAbortPacket (port : Nat) (s : State) : Answer :=
  packetRow port 0x4 s (fun _ => true) fun s p =>
    match s.atelierOfLnum p.lease with
    | none => s
    | some a =>
      let reason := p.info 32 16
      let s1 := match s.collOf p.lease p.src (p.info 0 32) with
        | some (n, _, _, _) =>
          (s.collectives.filter fun (y : CollRun) => y.job = n && y.step = p.info 128 64 && decide (p.info 0 32 ≤ y.seq) && !y.complete).foldl (State.markAborted reason) s
        | none => s
      s1.faultAtelier a 0x0406 (some (p.info 128 64)) none [reason, p.info 0 32, p.src]

/-! ### Records of the seal -/

/-- The pseudo-descriptor under which seal packets wait for their step or attempt. -/
def sealDesc : Nat := 16384

/-- The attempt of a seal record (R216). -/
def recordAttempt (r : Bytes) : Nat := bitsIn r 218 1

/-- Records carried by a packet (R294). -/
def recordsOf (p : CollPacket) : List (Nat × Bytes) := (List.range (p.field 224 8)).map fun i => (p.field 192 32 + i, slice p.payload (192 * i) 192)

/-- A count vector read from its bytes, for the layers of a job (R219). -/
def countsOf (layers : List Nat) (bs : Bytes) : List Counts :=
  (List.range layers.length).map fun i => ⟨layers.getD i 0, (List.range 5).map fun k => leAt bs (40 * i + 8 * k) 8⟩
def countBytes (cs : List Counts) : Bytes := cs.flatMap fun c => c.counts.flatMap (leBytes 8)

/-- A count vector's place among those held: a palette's sum is kept past every rank. -/
def vectorKey (bundle : Bool) (r m : Nat) : Nat := if bundle then 1024 + r / max 1 m else r

/-- Seal data taken into the running step (R219, R294). -/
def State.takeSeal (s : State) (n : Nat) (j : Job) (p : CollPacket) : State :=
  if p.field 0 32 = 0xFFFFFFF0 then s.onRun n fun r => { r with records := (recordsOf p).foldl (fun m x => SMap.put m x.1 x.2) r.records }
  else
    let layers := j.escalations.map (·.layer)
    s.onRun n fun r =>
      let bs := SMap.get [] r.pieces p.src ++ p.payload
      if 40 * layers.length ≤ bs.length then
        { r with pieces := SMap.del r.pieces p.src
                 vectors := SMap.put r.vectors (vectorKey (s.rankOf j p.src / max 1 (s.mPos j) ≠ s.ownPalette j) (p.field 192 32) (s.mPos j)) (countsOf layers bs) }
      else { r with pieces := SMap.put r.pieces p.src bs }

/-- Whether seal data waits: its step is not the running one, or it is a record of an attempt not begun here. -/
def sealEarly (r : Option StepRun) (p : CollPacket) : Bool := match r with
  | none => true
  | some r => r.step ≠ p.field 128 64 || (p.field 0 32 = 0xFFFFFFF0 && r.attempt < recordAttempt (slice p.payload 0 192))

/-- The saturating sum of count vectors (R219, R294). -/
def sumCounts (layers : List Nat) (vs : List (List Counts)) : List Counts :=
  (List.range layers.length).map fun i => ⟨layers.getD i 0, (List.range 5).map fun k => min (2 ^ 64 - 1) (vs.map fun v => (v.getD i default).counts.getD k 0).sum⟩

/-- The own palette's bundle sent to the rail peers once its records and count vectors are here (R294), in either attempt. -/
def State.bundleSeal (s : State) (n : Nat) : State :=
  match SMap.find? s.jobs n with
  | none => s
  | some j => match j.run with
    | none => s
    | some r =>
      let m := s.mPos j
      let at_ := s.ownPalette j * m
      let ranks := upFrom at_ m
      let layers := j.escalations.map (·.layer)
      let here := ranks.all fun k => (SMap.find? r.records k).isSome && (layers.isEmpty || (SMap.find? r.vectors k).isSome)
      if r.bundled || !here then s
      else
        let recs := ranks.flatMap fun k => SMap.get [] r.records k
        let sum := countBytes (sumCounts layers (ranks.map fun k => SMap.get [] r.vectors k))
        let s1 := (s.railPeers j).foldl (fun s g =>
          (s.sendGather j g 0xFFFFFFF0 0 r.step at_ m recs).sendGather j g 0xFFFFFFF1 0 r.step at_ m sum) s
        s1.onRun n fun r => { r with bundled := true }

/-- Seal packets held for a job. -/
def State.heldSeal (s : State) (n : Nat) : List CollPacket := (s.collectives.filter fun x => x.job = n && x.desc = sealDesc).flatMap (·.held)

/-- Seal packets that wait no longer, taken; those of steps that are over dropped. -/
def State.releaseSeal (s : State) (n : Nat) : State :=
  match SMap.find? s.jobs n with
  | none => s
  | some j =>
    let (wait, now) := (s.heldSeal n).partition (sealEarly j.run)
    let past := wait.filter fun p => decide (((j.run.map (·.step)).getD 0) ≤ p.field 128 64)
    let rest := s.collectives.filter fun x => !(x.job = n && x.desc = sealDesc)
    let s1 : State := { s with collectives := if past.isEmpty then rest else rest ++ [⟨n, sealDesc, 0, 0xFFFFFFF0, [], none, 0, 0, past, [], [], [], 0, [], false, none, false⟩] }
    State.bundleSeal (now.foldl (fun (s : State) (p : CollPacket) => s.takeSeal n j p) s1) n

/-- A seal packet heard (R219, R294). -/
def State.hearSeal (s : State) (port : Nat) (p : Packet) : State :=
  let k : CollPacket := ⟨p.ptype, p.src, port, slice p.header 16 32, p.payload⟩
  match (s.atelierOfLnum p.lease).bind fun a => List.find? (fun (x : Nat × Job) => x.2.atelier = a && !x.2.serving && x.2.members.contains p.src) s.jobs with
  | none => s
  | some (n, _) => State.releaseSeal ({ s with collectives := s.collectives ++ [⟨n, sealDesc, 0, 0xFFFFFFF0, [], none, 0, 0, [k], [], [], [], 0, [], false, none, false⟩] } : State) n

/-- GATHER (R294): seal records, count vectors or data of an all-gather. -/
def execGatherPacket (port : Nat) (s : State) : Answer :=
  packetRow port 0x3 s (fun _ => true) fun s p => if 0xFFFFFFF0 ≤ p.info 0 32 then s.hearSeal port p else s.hearColl port p

/-! ### Launch, timeout and completion -/

/-- The running collective of a job and descriptor that has not launched, or the one that has not completed. -/
def State.unlaunched (s : State) (job desc : Nat) : Option CollRun := s.collectives.find? fun x => x.job = job && x.desc = desc && x.launched.isNone && x.aborted.isNone
def State.uncompleted (s : State) (job desc : Nat) : Option CollRun := s.collectives.find? fun x => x.job = job && x.desc = desc && x.launched.isSome && !x.complete && x.aborted.isNone

/-- A member's own pairs sent to every other member (R295). -/
def State.sendPairs (s : State) (x : CollRun) (j : Job) (c : Coll) : State :=
  let l := x.block
  let n := pairCount l
  let size := 64 * contribLines l
  let per := min 16 (63 / contribLines l)
  (List.range ((n + per - 1) / per)).foldl (fun s i =>
    let k := min per (n - per * i)
    let idx := (s.fetch j.ctx (reqIndex l + 4 * per * i) (4 * k)).bytes
    let rows := (s.fetch j.ctx (reqAddr2 l + size * per * i) (size * k)).bytes
    let body := padTo 64 idx ++ rows
    let s1 := (j.members.filter (· ≠ s.gidx)).foldl (fun s g =>
      s.sendPacket g 1 0x2 (s.lnum j.atelier) [(0, 32, c.seq), (64, 64, x.fprint), (128, 64, x.step), (192, 32, per * i), (224, 16, k)] body none) s
    s1.onColl x.job x.desc x.step fun y => { y with pairs := y.pairs ++ pairsOf l (s.rankOf j s.gidx) k body }) s

/-- What a launch sends (R294, R295). -/
def State.startColl (s : State) (x : CollRun) (j : Job) (c : Coll) : State :=
  if c.op = 3 then s.sendPairs x j c
  else if c.op = 4 then
    let r := s.rankOf j s.gidx
    let bs := (s.fetch j.ctx (c.gatherAt r) c.count).bytes
    let s1 := (s.palettePeers j).foldl (fun s g => s.sendGather j g c.seq x.fprint x.step r 1 bs) s
    (s1.onColl x.job x.desc x.step fun y => { y with placed := y.placed.add r }).bundleGather x j c
  else s

/-- A launch (R253, R290, R291): the slot a captured, what it sends, then the packets held. -/
def State.launchColl (s : State) (x : CollRun) (j : Job) (c : Coll) : State :=
  let a := if c.op = 1 then bitsIn (s.fetch j.ctx c.aux 32).bytes 224 1 else 0
  let y := { x with launched := some s.time, slot := a, held := [], block := if c.op = 3 then s.sparseBlock j c else [] }
  let s1 := s.putRun y
  if c.op = 3 && !s.sparseGood j c then s1.abortColl x 0x0407
  else x.held.foldl (fun s p => s.bring x j c p) (s1.startColl y j c)

/-- COLLECTIVE_LAUNCH (R111, R290). -/
def execCollectiveLaunch (job desc : Nat) (s : State) : Answer :=
  match SMap.find? s.jobs job, SMap.find? s.colls desc, s.unlaunched job desc with
  | some j, some c, some x => whenDue (c.contributors.all fun e => x.reported.has e.core) s (s.launchColl x j c)
  | _, _, _ => .next s

/-- COLLECTIVE_TIMEOUT (R296). -/
def execCollectiveTimeout (job desc : Nat) (s : State) : Answer :=
  match SMap.find? s.colls desc, s.uncompleted job desc with
  | some c, some x => .next ((s.reach (x.launched.getD 0 + BitVec.ofNat 64 (ticksMs * c.timeout))).abortColl x 0x0401)
  | _, _ => .next s

/-- Whether a collective has moved all it moves (R239, R290 to R295). How a member knows the last pair of a sparse exchange the spec
does not say: its completion stands for that pair's arrival. -/
def State.collDone (s : State) (x : CollRun) (j : Job) (c : Coll) : Bool :=
  if c.op = 3 then true else if c.op = 4 then decide ((s.ranked j).length ≤ x.placed.length) else decide (c.chunks ≤ x.placed.length)

/-- COLLECTIVE_COMPLETION (R292, R295): a sparse exchange sets its rows then. -/
def execCollectiveCompletion (job desc : Nat) (s : State) : Answer :=
  match SMap.find? s.jobs job, SMap.find? s.colls desc, s.uncompleted job desc with
  | some j, some c, some x => whenDue (s.collDone x j c) s ((if c.op = 3 then s.settleSparse x j else s.putRun { x with complete := true }).tellCores x c none)
  | _, _, _ => .next s

end Sys2Proof.Machine
end

