-- ==== Sys2Proof/Machine/Train.lean ====
section
/-!
DEFINITION. The training step (R60 to R68, R211 to R232, R251 to R256): launch, counts, the optimistic update, the seal's record, its
decision and its actions.
-/
namespace Sys2Proof.Machine

/-! ### A step's run -/

/-- A step as it begins (R216, R229). -/
def StepRun.fresh (step restart : Nat) (k : Int) (late launched : Bool) : StepRun :=
  ⟨step, restart, k, late, 0, launched, false, 0, [], false, 0, [], 0, [], false, [], [], [], [], 0, none, [], [], [], none, 0, 0, false, [], []⟩

/-- The number of a job's next step (R222, R332, R426). -/
def Job.nextStep (j : Job) : Nat := j.sealed.elim 0 (· + 1)
/-- k of a step from the job's k and a growth that has come due (R227). -/
def Job.kAt (j : Job) (step : Nat) : Int := match j.growth with
  | some (m, v) => if m ≤ step then v else j.k
  | none => j.k
/-- The threshold T above which a step clips, as a value (R220). -/
def Job.clip (j : Job) : XReal := f32 j.clipAt

/-- The step block written (R229). -/
def State.writeStepBlock (s : State) (n : Nat) (j : Job) (step restart : Nat) (k : Int) : State :=
  s.jobStore n j (j.tb 240 48 + 64 * (step % 2)) (record 64 [(0, 64, step), (64, 8, unsignedOf 8 k), (72, 8, min 255 restart)])

/-! ### Low-rank entries (R252 to R256) -/

/-- Fields of a low-rank entry (R252). -/
def lrLayer (e : Bytes) : Nat := bitsIn e 0 20
def lrRank (e : Bytes) : Nat := bitsIn e 20 9
def lrK (e : Bytes) : Nat := bitsIn e 32 24
def lrN (e : Bytes) : Nat := bitsIn e 56 24
def lrLines (e : Bytes) : Nat := bitsIn e 176 24
/-- Chunks of Q, and where its slots and those of E lie. -/
def lrChunks (e : Bytes) : Nat := (lrN e * lrRank e + 127) / 128
def lrQ (e : Bytes) (slot : Nat) : Nat := bitsIn e 80 48 + slot * 260 * lrChunks e
def lrE (e : Bytes) (slot : Nat) : Nat := bitsIn e 128 48 + slot * 64 * lrLines e

/-- The read slot and the fresh bit of an entry as they stand. -/
def State.lrSlot (s : State) (j : Job) (at_ : Nat) : Nat := bitsIn (s.fetch j.ctx (at_ + 28) 1).bytes 0 1
def State.lrFresh (s : State) (j : Job) (at_ : Nat) : Bool := bitsIn (s.fetch j.ctx (at_ + 28) 1).bytes 1 1 = 1
/-- The slot and fresh bits written. -/
def State.putSlot (s : State) (n : Nat) (j : Job) (at_ slot : Nat) (fresh : Bool) : State := s.jobStore n j (at_ + 28) [BitVec.ofNat 8 (slot + 2 * bit fresh)]

/-- The first use of a low-rank layer prepared (R256). -/
def State.firstUse (s : State) (n : Nat) (j : Job) (step : Nat) (x : Nat × Bytes) : State :=
  if s.lrFresh j x.1 then
    let a := s.lrSlot j x.1
    let e := x.2
    let key := s.sharedKey j step
    let s1 := (List.range (lrChunks e)).foldl (fun s f => s.jobStore n j (lrQ e a + 260 * f) (firstUseChunk key (bitsIn e 200 24) (lrN e * lrRank e) f).bytes) s
    (s1.jobStore n j (lrE e a) (List.replicate (64 * lrLines e) 0)).putSlot n j x.1 a false
  else s

/-! ### STEP_LAUNCH -/

/-- What a launch of a step prepares (R229, R256): first uses, then the step block. -/
def State.prepareStep (s : State) (n : Nat) (j : Job) (step restart : Nat) (k : Int) : State :=
  (j.lowrank.foldl (fun s x => s.firstUse n j step x) s).writeStepBlock n j step restart k

/-- Whether the optimistic update of every layer of the running step has ended (R213). -/
def Job.allApplied (j : Job) (r : StepRun) : Bool := j.layers.all fun d => layerKind d = 3 || r.applied.any fun a => a.layer = layerId d

/-- A launch of the next step, of a discarded step again, or of the next step ahead of the seal (R213, R215, R229). -/
def State.launchNext (s : State) (n : Nat) (j : Job) : State :=
  match j.run with
  | none =>
    let r := StepRun.fresh j.nextStep 0 (j.kAt j.nextStep) j.lateNext true
    ((s.prepareStep n j r.step 0 r.k).onJob n fun j => { j with run := some r, launched := some r.step }).releaseSeal n
  | some r =>
    if !r.launched then (((s.prepareStep n j r.step r.restart r.k).onRun n fun r => { r with launched := true }).onJob n fun j => { j with launched := some r.step }).releaseSeal n
    else if !r.ahead && !r.late && r.attempt = 0 && r.outcome = none && j.done + 1 < j.asked && j.layers.any (fun d => layerKind d ≠ 3 && r.applied.any fun a => a.layer = layerId d) then
      ((s.prepareStep n j (r.step + 1) 0 (j.kAt (r.step + 1))).onRun n fun r => { r with ahead := true, nexts := r.nexts + 1 }).onJob n fun j => { j with launched := some (r.step + 1) }
    else s

/-- STEP_LAUNCH (R213, R215, R229). -/
def execStepLaunch (job : Nat) (s : State) : Answer :=
  match SMap.find? s.jobs job with
  | some j => whenDue (s.mstate = 2 && j.running && j.resident && !j.switching && j.stopping.isNone) s (s.launchNext job j)
  | none => .next s

/-! ### Counts -/

/-- The cores a job's image places. -/
def State.jobCores (s : State) (n : Nat) : List Nat := imageCores (s.imageOf n)

/-- Whether every program of the running step has ended (R216). -/
def State.programsEnded (s : State) (n : Nat) (r : StepRun) : Bool :=
  (s.jobCores n).all fun k =>
    let c := s.core k
    c.job = some n && ((c.step = some r.step && c.run = .idle) || c.step = some (r.step + 1))

/-- LAYER_COUNT_GATHER (R60, R61). -/
def execLayerCountGather (job : Nat) (s : State) : Answer :=
  match (SMap.find? s.jobs job).bind (·.run) with
  | none => .next s
  | some r =>
    let cores := (s.jobCores job).filter fun k => (s.core k).step = some r.step
    whenDue (s.mstate = 2 && r.launched && r.passes = 0 && s.programsEnded job r) s
      ((cores.foldl (State.gatherCore job) s).onRun job fun r => { r with passes := 1 })

/-! ### The optimistic update -/

/-- Whether a job holds its cores and is not being switched out. -/
def Job.holdsCores (j : Job) : Bool := j.resident && !j.switching

/-- Whether every chunk of a layer has passed its receive checks (R212, R249). -/
def StepRun.layerPassed (r : StepRun) (d : Bytes) : Bool := (List.range (layerChunks d)).all fun i => r.passed.has (layerChunk d + i)

/-- The layer's own update descriptor. -/
def Job.layerDesc (j : Job) (layer : Nat) : Option Bytes := j.layers.find? fun d => layerId d = layer && layerKind d ≠ 3

/-- Whether a layer's optimistic update is due (R211, R212). -/
def StepRun.updates (r : StepRun) (d : Bytes) : Bool :=
  r.launched && !r.late && r.attempt = 0 && r.built.isNone && r.outcome = none && r.layerPassed d && !r.applied.any fun a => a.layer = layerId d

/-- The optimistic update of a layer (R212). -/
def State.optimistic (s : State) (n : Nat) (j : Job) (d : Bytes) (r : StepRun) : State :=
  let s1 := s.updateLayer n j d r.step r.k one32 ⟨true, true, false⟩
  let odd := s1.weightsOdd j d
  s1.onRun n fun r => { r with applied := r.applied ++ [⟨layerId d, true⟩], nonfinite := r.nonfinite || odd }

/-- UPDATE_ROUTINE_LAUNCH (R210, R212): on the job's own cores, so only while it holds them; it does not wait for the end of the core's
program of step n (DESIGN CHOICE, notes/assumptions/49.md); `upset` is a core on which the routine meets an
uncorrectable SRAM error. -/
def execUpdateRoutineLaunch (job : Nat) (layer : RoutineRun) (s : State) : Answer :=
  match SMap.find? s.jobs job with
  | none => .next s
  | some j => match j.run, j.layerDesc layer.of with
    | some r, some d => whenDue (s.mstate = 2 && j.holdsCores && r.updates d) s
      ((s.upsetRoutine job j (layerCores (s.imageOf job) layer.of) layer.upset).optimistic job j d r)
    | _, _ => .next s

/-! ### The record -/

/-- A list of runs in ascending sequence. -/
def insertSeq (x : CollRun) : List CollRun → List CollRun
  | [] => [x]
  | y :: ys => if x.seq ≤ y.seq then x :: y :: ys else y :: insertSeq x ys

/-- The collectives of a job's step that have run or are to run, seal packets apart. -/
def State.stepColls (s : State) (n step : Nat) : List CollRun := s.collectives.filter fun x => x.job = n && x.step = step && x.desc ≠ sealDesc

/-- The step fingerprint (R218). -/
def State.stepPrint (s : State) (n step : Nat) : Nat :=
  (((s.stepColls n step).filter fun x => x.launched.isSome).foldl (fun l x => insertSeq x l) []).foldl (fun p x => rotlNat 64 p 7 ^^^ x.fprint) (step % 2 ^ 64)

/-- A seal record (R216, R217). -/
def StepRun.record (r : StepRun) (gidx fprint : Nat) : Bytes :=
  let ssq := r.owned.foldl (fun a p => add64 a p.2) 0
  Sys2Proof.record 64 [(0, 64, r.step), (64, 64, ssq), (128, 64, fprint), (192, 16, gidx), (208, 8, unsignedOf 8 r.k), (216, 1, bit r.nonfinite), (217, 1, bit r.overflow),
    (218, 1, r.attempt), (219, 1, bit r.late), (224, 32, r.rfail), (256, 64, r.owned.length)] ++
  r.fails.flatMap (leBytes 8) ++ List.replicate (8 * (16 - r.fails.length)) 0xFF

/-- Whether the running step's seal record is due (R216). -/
def State.recordDue (s : State) (n : Nat) (j : Job) (r : StepRun) : Bool :=
  r.launched && r.passes ≠ 0 && r.built.isNone && r.outcome = none && r.again.isEmpty && s.programsEnded n r && !(j.layers.any fun d => layerKind d ≠ 3 && r.updates d) &&
  (s.stepColls n r.step).all fun x => if x.launched.isSome then x.complete else !((SMap.find? s.colls x.desc).any fun c => !c.contributors.isEmpty && c.contributors.all fun e => x.reported.has e.core)

/-- This member's counts of the escalable layers (R60, R219). -/
def Job.ownCounts (j : Job) (r : StepRun) : List Counts := j.escalations.map fun e => ((r.counts.find? fun c => c.layer = e.layer).getD ⟨e.layer, [0, 0, 0, 0, 0]⟩)

/-- The record built and the exchange begun (R216, R219, R294). -/
def State.buildRecord (s : State) (n : Nat) (j : Job) (r : StepRun) : State :=
  let rank := s.rankOf j s.gidx
  let rec_ := r.record s.gidx (s.stepPrint n r.step)
  let counts := j.ownCounts r
  let s1 := (s.palettePeers j).foldl (fun s g =>
    (s.sendGather j g 0xFFFFFFF0 0 r.step rank 1 rec_).sendGather j g 0xFFFFFFF1 0 r.step rank 1 (countBytes counts)) s
  let s2 := s1.onRun n fun r => { r with built := some s.time, records := SMap.put r.records rank rec_, vectors := SMap.put r.vectors rank counts }
  s2.bundleSeal n

/-- SEAL_RECORD_BUILD (R216). -/
def execSealRecordBuild (job : Nat) (s : State) : Answer :=
  match SMap.find? s.jobs job with
  | none => .next s
  | some j => match j.run with
    | some r => whenDue (s.mstate = 2 && s.recordDue job j r) s (s.buildRecord job j r)
    | none => .next s

/-! ### The decision -/

/-- Whether every record and the count vector are held (R219, R294). -/
def State.sealHeld (s : State) (j : Job) (r : StepRun) : Bool :=
  let m := s.mPos j
  let own := s.ownPalette j
  ((List.range (s.ranked j).length).all fun k => (SMap.find? r.records k).isSome) &&
  (j.escalations.isEmpty || (((upFrom (own * m) m).all fun k => (SMap.find? r.vectors k).isSome) &&
    (List.range (s.nPal j)).all fun p => p = own || (SMap.find? r.vectors (1024 + p)).isSome))

/-- The total count vector (R219). -/
def State.totalCounts (s : State) (j : Job) (r : StepRun) : List Counts :=
  let m := s.mPos j
  let own := s.ownPalette j
  sumCounts (j.escalations.map (·.layer)) (((upFrom (own * m) m).map fun k => SMap.get [] r.vectors k) ++
    ((List.range (s.nPal j)).filter (· ≠ own)).map fun p => SMap.get [] r.vectors (1024 + p))

/-- The records in ascending rank. -/
def State.sealRecords (s : State) (j : Job) (r : StepRun) : List Bytes := (List.range (s.ranked j).length).map fun k => SMap.get [] r.records k

/-- 1 / (M × 2^k) rounded to FP64 (R220). -/
def scale64 (members : Nat) (k : Int) : Nat := scaleOf .fp64 (f32 one32) members k

/-- T / gnorm rounded to FP32 (R220). -/
def clipFactor (t gnorm : XReal) : Nat := match t, gnorm with
  | .fin _ a x, .fin _ b y => Fmt.packMag .fp32 .near false ⟨a, max 1 b, x - y⟩
  | _, _ => one32

/-- What a decision settles: the outcome, the clip factor and gnorm (0 where not computed). -/
structure Verdict where
  outcome : Outcome
  factor : Nat
  gnorm : Nat

/-- The decision of R220 from the records. -/
def decideSeal (records : List Bytes) (members : Nat) (k : Int) (attempt : Nat) (t : XReal) : Verdict :=
  let first := records.headD []
  let differ := fun lo len => records.any fun x => bitsIn x lo len ≠ bitsIn first lo len
  let beyond := records.any fun x => bitsIn x 217 1 = 1
  if differ 0 64 || differ 128 64 || differ 208 8 then ⟨.fault, 0, 0⟩
  else if beyond || records.any fun x => bitsIn x 224 32 ≠ 0 then
    if attempt = 0 && !beyond then ⟨.rereduce, 0, 0⟩ else ⟨.skipResidue, 0, 0⟩
  else if records.any fun x => bitsIn x 216 1 = 1 then ⟨.skipNonfinite, 0, 0⟩
  else
    let ssq := records.foldl (fun a x => add64 a (bitsIn x 64 64)) 0
    let g := mul64 (sqrt64 ssq) (scale64 members k)
    if (f64 g).nonfinite then ⟨.skipNonfinite, 0, g⟩
    else if t.lt (f64 g) then ⟨.clip, clipFactor t (f64 g), g⟩
    else ⟨.commit, one32, g⟩

/-- Records sent to an AZF-2 partner over the bridge (R280). -/
def State.tellPartner (s : State) (j : Job) (r : StepRun) : State :=
  (j.members.filter (s.isPartner j)).foldl (fun s g =>
    (List.range (s.ranked j).length).foldl (fun s k =>
      s.sendPacket g 2 0x3 (s.lnum j.atelier) [(0, 32, 0xFFFFFFF0), (128, 64, r.step), (192, 32, k), (224, 8, 1)] (SMap.get [] r.records k) none) s) s

/-- The decision taken (R220, R221): a disagreement faults the atelier. -/
def State.decideStep (s : State) (n : Nat) (j : Job) (r : StepRun) : State :=
  let records := s.sealRecords j r
  let v := decideSeal records j.nmem r.k r.attempt j.clip
  let fails := (records.map fun x => bitsIn x 224 32).sum
  let s1 := (s.tellPartner j r).onRun n fun r => { r with outcome := some v.outcome, factor := v.factor, gnorm := v.gnorm, rfail0 := if r.attempt = 0 then fails else r.rfail0 }
  if v.outcome = .fault then s1.faultAtelier j.atelier 0x0430 (some r.step) (some j.ctx) [n] else s1.beginStop n

/-- SEAL_DECISION (R220). -/
def execSealDecision (job : Nat) (s : State) : Answer :=
  match SMap.find? s.jobs job with
  | none => .next s
  | some j => match j.run with
    | some r => whenDue (s.mstate = 2 && r.built.isSome && r.outcome = none && s.sealHeld j r) s (s.decideStep job j r)
    | none => .next s

/-- SEAL_TIMEOUT (R220, R294, R296): 500 ms after the record was built. -/
def execSealTimeout (job : Nat) (s : State) : Answer :=
  match SMap.find? s.jobs job with
  | none => .next s
  | some j => match j.run with
    | some r =>
      let t := s.reach (r.built.getD 0 + BitVec.ofNat 64 (500 * ticksMs))
      whenDue (s.mstate = 2 && r.built.isSome && r.outcome = none && !s.sealHeld j r) s
        (t.faultAtelier j.atelier 0x0402 (some r.step) (some j.ctx) [0xFFFFFFF0, job])
    | none => .next s

/-! ### The actions -/

/-- The run-ahead discarded (R215): its cores have stopped; their epochs rise, and they stand again where the running step's program left
them. -/
def State.discardAhead (s : State) (n : Nat) (j : Job) (r : StepRun) : State :=
  if j.discards r then
    (s.jobCores n).foldl (fun s k =>
      let c := s.core k
      if c.job = some n && c.step = some (r.step + 1) then
        let t := s.raiseEpoch k
        t.setCore k { t.core k with run := .idle, step := some r.step, staged := [] }
      else s) (s.endStop n ((s.jobCores n).headD 0))
  else s

/-- The layers updated optimistically restored (R221). -/
def State.restoreAll (s : State) (n : Nat) (j : Job) (r : StepRun) : State :=
  (j.layers.filter fun d => layerKind d ≠ 3 && r.applied.any fun a => a.layer = layerId d).foldl (fun s d => s.restoreLayer n j d r.step) s

/-- A layer applied in full after a decision (R214, R221, R224). -/
def State.applyLayer (s : State) (n : Nat) (j : Job) (r : StepRun) (f : Nat) (d : Bytes) : State :=
  let s1 := s.updateLayer n j d r.step r.k f ⟨false, true, true⟩
  if s1.weightsOdd j d then s1.log 0x0231 (some j.atelier) (some r.step) (some j.ctx) [n, layerId d] else s1

/-- Every layer applied, or given its commit pass where it was updated optimistically and stands (R212, R214, R221). -/
def State.applyAll (s : State) (n : Nat) (j : Job) (r : StepRun) (f : Nat) (keep : Bool) : State :=
  (j.layers.filter fun d => layerKind d ≠ 3).foldl (fun s d =>
    if keep && r.applied.any fun a => a.layer = layerId d then s.updateLayer n j d r.step r.k f ⟨false, false, true⟩ else s.applyLayer n j r f d) s

/-- The read slot of every low-rank entry turned (R254); a faulted atelier's stay as they are (R225). -/
def State.turnSlots (s : State) (n : Nat) (j : Job) : State :=
  if (s.atelier j.atelier).faulted then s else j.lowrank.foldl (fun s x => s.putSlot n j x.1 (1 - s.lrSlot j x.1) (s.lrFresh j x.1)) s

/-- The saturation rate of a layer (R65). -/
def rateOf (c : List Nat) : Nat := let b := c.getD 0 0; if b = 0 then 0 else min 0xFFFF (c.getD 1 0 * 65536 / b)

/-- An escalable layer after a committed step, and its new mode if one is set (R65 to R67). -/
def Escalation.after (e : Escalation) (step : Nat) (c : List Nat) : Escalation × Option Nat :=
  let mode := e.at_ step
  let waits := e.coming.filter fun x => decide (step < x.1)
  let above := decide (e.threshold < rateOf c)
  let run := if mode = 1 && above then e.run + 1 else 0
  let new := if waits.isSome || !above then none else if mode = 0 then some 1 else if mode = 1 && e.persist ≤ run then some 2 else none
  (⟨e.layer, e.threshold, e.persist, mode, run, match new with
    | some x => some (step + 2, x)
    | none => waits, e.variants⟩, new)

/-- A layer count record (R62); a run past 15 stands as 15 (DESIGN CHOICE, notes/assumptions/111.md). -/
def countRecord (e : Escalation) (step : Nat) (c : List Nat) (run : Nat) (escalated : Bool) : Bytes :=
  let sat := fun k => min (2 ^ 32 - 1) (c.getD k 0)
  record 32 [(0, 20, e.layer), (20, 2, e.at_ step), (24, 4, min 15 run), (28, 1, bit escalated), (32, 32, sat 0), (64, 32, sat 1), (96, 32, sat 2), (128, 32, sat 3),
    (160, 32, sat 4), (192, 16, rateOf c), (208, 16, e.threshold)]

/-- The code of an outcome in a ring entry (R230). -/
def Outcome.code : Outcome → Nat
  | .commit => 0
  | .clip => 1
  | .skipNonfinite => 2
  | .skipResidue => 3
  | .rereduce | .fault => 4

/-- A ring entry written (R230). -/
def State.writeRing (s : State) (n : Nat) (j : Job) (r : StepRun) (o : Outcome) (records : List Bytes) (escalated : Nat) : State :=
  let size := 64 + 32 * j.escalations.length
  let f := if o = .commit || o = .clip then r.factor else 0
  let head := record 64 [(0, 64, r.step), (64, 3, o.code), (67, 1, bit r.late), (68, 1, r.attempt), (72, 8, unsignedOf 8 r.k), (80, 16, escalated), (96, 32, f), (128, 64, r.gnorm),
    (192, 32, r.rfail0), (224, 16, j.nmem), (256, 64, j.t), (320, 16, j.clean)]
  s.jobStore n j (j.tb 288 48 + size * (r.step % max 1 (j.tb 336 16))) (head ++ records.flatMap id)

/-- Whether the next step runs in late-apply mode (R226). -/
def Job.latePlan (j : Job) : Bool :=
  let top := j.norms.foldl (fun a x => if (f64 a).lt (f64 x) then x else a) 0
  j.tb 552 1 = 1 || j.journal = 0 || decide (j.norms.length < 8) || j.clip.lt (f64 (mul64 0x3FF4000000000000 top))

/-- The job's counters after a committed step (R207, R226, R227). -/
def Job.committedStep (j : Job) (r : StepRun) : Job :=
  let k := j.kAt (r.step + 1)
  let waits := j.growth.filter fun g => decide (r.step + 1 < g.1)
  let due := j.clean + 1 = j.growthEvery
  let norms := j.norms ++ [r.gnorm]
  { j with t := j.t + 1, committed := some r.step, norms := norms.drop (norms.length - 8), k := k
           growth := if due && k < 32 then some (r.step + 2, k + 1) else waits, clean := if due then 0 else j.clean + 1 }

/-- After a skipped step (R227). -/
def Job.skippedStep (j : Job) (r : StepRun) (nonfinite : Bool) : Job :=
  if nonfinite then { j with k := max (r.k - 1) (-32), growth := none, clean := 0 }
  else { j with k := j.kAt (r.step + 1), growth := j.growth.filter fun g => decide (r.step + 1 < g.1) }

/-- The entries of a changed or unchanged backward scale (R227). -/
def State.noteScale (s : State) (n : Nat) (j : Job) (r : StepRun) (limit : Bool) : State :=
  if limit then s.log 0x0135 (some j.atelier) (some r.step) (some j.ctx) [n, unsignedOf 64 r.k] else s

/-- The run that follows a final outcome (R215, R221): run-ahead that stands, a step to be launched again, or none. -/
def Job.nextRun (j : Job) (r : StepRun) (discarded : Bool) : Option StepRun :=
  let late := j.latePlan
  if r.ahead && !discarded then some (StepRun.fresh (r.step + 1) (r.nexts - 1) j.k late true)
  else if r.nexts ≠ 0 then some (StepRun.fresh (r.step + 1) r.nexts j.k late false)
  else none

/-- What the reduction and the collectives hold of a step that is over, dropped. -/
def State.dropStep (s : State) (n step : Nat) : State :=
  { s with collectives := s.collectives.filter (fun x => !(x.job = n && x.step = step && x.desc ≠ sealDesc))
           reductions := s.reductions.map fun (p : Nat × Reduction) =>
             (p.1, ({ p.2 with accepted := p.2.accepted.filter (fun k => !(k.getD 0 0 = n && k.getD 1 0 = step)), inputs := p.2.inputs.filter fun h => !(h.input.job = n && h.input.step = step) } : Reduction)) }

/-- The time past its slice for which a job has kept its cores, in ticks (R348). -/
def State.overran (s : State) (j : Job) : Nat := j.beyond.elim 0 fun t => s.time.toNat - t.toNat

/-- An overrun settled (R348): debited from the job's next slices, reported in µs. -/
def State.settleOver (s : State) (n : Nat) : State := match SMap.find? s.jobs n with
  | some j => if j.beyond.isSome then (s.onJob n fun j => { j with debit := j.debit + s.overran j, beyond := none }).log 0x0151 (some j.atelier) j.stepNow (some j.ctx) [n, s.overran j / 100] else s
  | none => s

/-- A job's run ended: its JOB_RUN completes with the steps done, and a JOB_STOP that waited (R332). -/
def State.endRun (s : State) (n : Nat) : State :=
  match SMap.find? s.jobs n with
  | none => s
  | some j =>
    let s0 := if j.decanted then { s with decants := s.decants.filter fun c => c.1 / 16384 ≠ n } else s
    let s1 := (s0.settleOver n).onJob n fun j => { j with running := false, stopSince := none, resident := false, decanted := false, sets := [], switching := false, command := none, stopping := none, ended := j.ended || j.stopping.isSome }
    let s2 := match j.command with
      | some c => s1.finish c 0x00 j.done
      | none => s1
    match j.stopping with
    | some c => s2.finish c 0x00 0
    | none => s2

/-- The end of a step with an outcome other than fault (R221, R230). A skipped step leaves every run of steps above threshold as it stands (R65;
DESIGN CHOICE, notes/assumptions/110.md). -/
def State.endStep (s : State) (n : Nat) (r : StepRun) (o : Outcome) : State :=
  match SMap.find? s.jobs n with
  | none => s
  | some j =>
    let good := o = .commit || o = .clip
    let total := s.totalCounts j r
    let counts := fun (i : Nat) => if good then (total.getD i default).counts else [0, 0, 0, 0, 0]
    let news := (List.range j.escalations.length).map fun i => let e := j.escalations.getD i default; (e, if good then e.after r.step (counts i) else (e, none))
    let raised := news.filter fun x => x.2.2.isSome
    let s1 := raised.foldl (fun s x => s.log 0x0130 (some j.atelier) (some r.step) (some j.ctx) [n, x.1.layer, x.1.at_ r.step, x.2.2.getD 0]) s
    let j1 := if good then j.committedStep r else j.skippedStep r (o = .skipNonfinite)
    let limit := if good then j.clean + 1 = j.growthEvery && j.kAt (r.step + 1) = 32 else o = .skipNonfinite && r.k = -32
    let s2 := s1.noteScale n j r limit
    let records := (List.range news.length).map fun i =>
      let x := news.getD i default
      countRecord x.1 r.step (counts i) x.2.1.run x.2.2.isSome
    let s3 := s2.writeRing n j1 r o records raised.length
    let s4 := s3.onJob n fun j => { j1 with refs := j.refs, escalations := news.map fun x => x.2.1, sealed := some r.step, done := j.done + 1, lateNext := j1.latePlan, run := j1.nextRun r (j.discards r) }
    let s5 := (s4.dropStep n r.step).releaseSeal n
    if j.stopping.isSome || j.asked ≤ j.done + 1 then s5.endRun n else s5

/-- The union of the fails lists (R251, R255): a low-rank layer's first chunk stands for all of its chunks. -/
def State.failedChunks (s : State) (j : Job) (r : StepRun) : List Nat :=
  let named := (s.sealRecords j r).flatMap fun x => ((List.range 16).map fun i => leAt x (64 + 8 * i) 8).filter fun v => decide (v < 2 ^ 33)
  let low := j.layers.filter fun d => layerKind d ≠ 3 && named.contains (layerChunk d) && j.lowrank.any fun e => lrLayer e.2 = layerId d
  ((named ++ low.flatMap fun d => upFrom (layerChunk d) (layerChunks d)).foldl NatSet.add [])

/-- A low-rank layer that is reduced again takes no part of what this step wrote to Q and E (R255). -/
def State.resetFactors (s : State) (n : Nat) (j : Job) (x : Nat × Bytes) : State :=
  let a := s.lrSlot j x.1
  let e := x.2
  let s1 := s.jobStore n j (lrE e (1 - a)) (List.replicate (64 * lrLines e) 0)
  s1.jobStore n j (lrQ e (1 - a)) (s1.fetch j.ctx (lrQ e a) (260 * lrChunks e)).bytes

/-- The actions of rereduce (R221, R251, R255). -/
def State.rereduce (s : State) (n : Nat) (j : Job) (r : StepRun) : State :=
  let again := s.failedChunks j r
  let s1 := (s.discardAhead n j r).restoreAll n j r
  let low := j.lowrank.filter fun x => j.layers.any fun d => layerKind d ≠ 3 && layerId d = lrLayer x.2 && again.contains (layerChunk d)
  let s2 := if (s1.atelier j.atelier).faulted then s1 else low.foldl (fun s x => s.resetFactors n j x) s1
  let s3 := s2.onRun n fun r => { r with
    attempt := 1, late := true, ahead := false, applied := [], rfail := 0, counted := [], fails := [], overflow := false, built := none, records := [], bundled := false, outcome := none, again := again }
  let s4 := { s3 with reductions := s3.reductions.map fun (p : Nat × Reduction) => (p.1, ({ p.2 with inputs := p.2.inputs.filter fun h => !(h.input.job = n && h.input.step = r.step && h.input.attempt = 0) } : Reduction)) }
  (again.foldl (fun (s : State) c => s.resend n j r.step c) s4).releaseSeal n

/-- The actions of a decided outcome (R221); where the routine's own accesses fault the atelier, nothing more is done. -/
def State.act (s : State) (n : Nat) (j : Job) (r : StepRun) (o : Outcome) : State :=
  let done := fun (t : State) => if (t.atelier j.atelier).faulted then t else t.endStep n r o
  match o with
  | .fault => s
  | .rereduce => s.rereduce n j r
  | .commit => done (((s.discardAhead n j r).applyAll n j r one32 true).turnSlots n j)
  | .clip => done ((((s.discardAhead n j r).restoreAll n j r).applyAll n j r r.factor false).turnSlots n j)
  | .skipNonfinite => done (((s.discardAhead n j r).restoreAll n j r).log 0x0134 (some j.atelier) (some r.step) (some j.ctx) [n])
  | .skipResidue => done (((s.discardAhead n j r).restoreAll n j r).log 0x0230 (some j.atelier) (some r.step) (some j.ctx) [n, (s.failedChunks j r).headD 0])

/-- Whether the actions of an outcome run the update routine (R214, R221). -/
def Outcome.runsRoutine (o : Outcome) (j : Job) (r : StepRun) : Bool := match o with
  | .commit | .clip => j.layers.any fun d => layerKind d ≠ 3
  | .fault => false
  | _ => !r.applied.isEmpty

/-- Whether a SNAPSHOT or a CHECKPOINT_SAVE of the job is in progress (R231, R424). An EXHIBIT reads its order, and with it which job it
captures, and captures that job in one command. -/
def State.capturing (s : State) (n : Nat) : Bool :=
  s.commands.any fun (p : Nat × Cmd) => p.2.pay 0 12 = n && ((p.2.opcode = 0x14 && p.2.state = .working) || (p.2.opcode = 0x23 && p.2.state = .running))

/-- Whether the run-ahead that an outcome discards has come to a stop (R215). -/
def State.aheadStopped (s : State) (n : Nat) (j : Job) (r : StepRun) : Bool :=
  !j.discards r || (s.jobCores n).all fun k => (s.core k).step ≠ some (r.step + 1) || s.stoppedCore k

/-- SEAL_ACTIONS (R221, R222, R231), on the job's own cores; `upset` is a core on which the routine meets an uncorrectable SRAM error. -/
def execSealActions (job : RoutineRun) (s : State) : Answer :=
  match SMap.find? s.jobs job.of with
  | none => .next s
  | some j => match j.run with
    | some r => match r.outcome with
      | some o => whenDue (s.mstate = 2 && j.holdsCores && !s.capturing job.of && s.aheadStopped job.of j r) s
        ((if o.runsRoutine j r then s.upsetRoutine job.of j (weightCores (s.imageOf job.of)) job.upset else s).act job.of j r o)
      | none => .next s
    | none => .next s

end Sys2Proof.Machine
end

