-- ==== Sys2Proof/Machine/Jobs.lean ====
section
/-!
DEFINITION. Jobs (R231, R252, R331, R332, R334, R373 to R375, R415): creation with its checks, the start of a run, and snapshots.
-/
namespace Sys2Proof.Machine

/-! ### The checks of JOB_CREATE -/

/-- Whether a far range lies wholly inside one object of the context with no bad line (R332 check 2). -/
def State.canRead (s : State) (ctx va n : Nat) : Bool := n = 0 || s.readable ctx va n

/-- Whether an FP32 code is a legal threshold (R228): positive, or +∞. -/
def thresholdGood (code : Nat) : Bool := match f32 code with
  | .nan => false
  | x => !x.neg? && !x.isZero

/-- Check 2 of R332 over a training block's fields (R228). -/
def trainBlockGood (b : Bytes) (nmem : Nat) : Bool :=
  let f := bitsIn b
  decide (1 ≤ f 336 16) && decide (1 ≤ f 400 16) && thresholdGood (f 496 32) && decide (-32 ≤ signedOf 8 (f 528 8)) && decide (signedOf 8 (f 528 8) ≤ 32) &&
  decide (1 ≤ f 600 11) && decide (f 600 11 ≤ 1024) && f 600 11 = nmem && decide (1 ≤ nmem)

/-- Whether every byte of a far range lies in pages of a kind of memory: what the context's objects of the kind, which do not overlap (R318),
hold of it is all of it. -/
def State.kindOver (s : State) (ctx va n : Nat) (gddr : Bool) : Bool :=
  let held := fun (m : MObj) => min (va + n) (m.va + m.size) - max va m.va
  n ≤ ((s.mobjs.filter fun p => p.2.ctx = ctx && p.2.gddr = gddr).map fun p => held p.2).sum

/-- An update descriptor within R209, its reserved bits apart (R11; notes/assumptions/81.md), R203 and, for its copy's conversion, R47. -/
def State.layerGood (s : State) (ctx npar : Nat) (d : Bytes) : Bool :=
  let f := bitsIn d
  f 192 40 % 128 = 0 && decide (1 ≤ f 256 32) && decide (f 192 40 + f 256 32 ≤ npar) &&
  f 352 48 % 2048 = 0 && (f 410 1 = 1 || decide (f 352 48 < 0x40000)) && ((fmtVar (f 400 4) (f 404 2)).any fun t => convPair .bf16 t.1) && f 406 2 ≠ 3 && decide (f 408 2 ≤ 1) && s.kindOver ctx (f 288 48) (2 * f 256 32) false

/-- The layers with all three variants (R63): any other is not escalable, whatever its entry says. -/
def escalable (es : List LayerEntry) : List LayerEntry := es.filter fun e => e.variants.length = 3
/-- A layer's persistence (R63). -/
def layerPersistence (e : LayerEntry) : Nat := e.persist.getD 4

/-- Check 3 of R332: descriptors, ranges and escalable entries (R63). -/
def State.layersGood (s : State) (ctx npar : Nat) (ds : List Bytes) (esc : List LayerEntry) : Bool :=
  ds.all (s.layerGood ctx npar) &&
  disjoint ((ds.filter fun d => layerKind d ≠ 3).map fun d => (layerChunk d, layerChunks d)) &&
  decide (esc.length ≤ 1024) && distinct (esc.map (·.layer)) && (escalable esc).all fun e =>
    decide (e.layer < 2 ^ 20) && decide (e.threshold < 65536) && decide (1 ≤ layerPersistence e) && decide (layerPersistence e ≤ 15)

/-- Whether numbers rise strictly. -/
def rising : List Nat → Bool
  | a :: b :: l => decide (a < b) && rising (b :: l)
  | _ => true

/-- Whether a palette or bridge port is expected to lead to a member (R259). -/
def State.expects (s : State) (p g : Nat) : Bool := (s.peerEntry p).any fun e => e.peer = g

/-- Whether a member can be reached under the expected peers (R332 check 4): itself, a palette or bridge peer, or a member of
another palette where some rail port is expected. -/
def State.reachable (s : State) (g : Nat) : Bool :=
  g = s.gidx || s.expects 19 g ||
  (if g / 16 = s.gidx / 16 then s.expects ((g % 16 + 15 - s.gidx % 16) % 16) g else ((upFrom 15 4).any fun p => (s.peerEntry p).isSome))

/-- The arrangement of R240 over the ranked members. -/
def arranged (gs : List Nat) : Bool :=
  let ps := palettesOf gs
  let at_ := fun p => (gs.filter fun g => g / 16 = p).map (· % 16)
  ps.all fun p => at_ p = at_ (ps.headD 0)

/-- Check 4 of R332. -/
def State.membersGood (s : State) (j : Job) : Bool :=
  decide ((j.members.filter (s.isPartner j)).length ≤ 1) && rising j.members && j.members.all (fun g => decide (g < 1024) && s.reachable g) && (s.ranked j).contains s.gidx && arranged (s.ranked j)

/-- Check 5 of R332: a low-rank entry within R252. -/
def lowRankGood (layers : List Bytes) (e : Bytes) : Bool :=
  decide (4 ≤ lrRank e) && decide (lrRank e ≤ 256) && decide (1 ≤ lrK e) && decide (1 ≤ lrN e) &&
  bitsIn e 80 48 % 64 = 0 && bitsIn e 128 48 % 64 = 0 && layers.any fun d => layerId d = lrLayer e && layerKind d ≠ 3 && layerCount d = lrK e * lrN e

/-- Check 6 of R332; a descriptor that the command has referred to since its acceptance is alive for it (R319). -/
def State.collsGood (s : State) (j : Job) (refs : List (ObjKind × Nat)) : Bool :=
  j.collSlots.all fun n => match SMap.find? s.colls n with
    | none => false
    | some c => c.ctx = j.ctx && (!c.condemned || refs.contains (.coll, n)) && (j.serving || !(c.op = 0 || c.op = 2 || c.op = 5) || c.contributors.all fun e =>
        j.layers.any fun d => layerKind d ≠ 3 && decide (layerChunk d ≤ e.first) && decide (e.first + e.count ≤ layerChunk d + layerChunks d))

/-- Check 7 of R332, likewise. -/
def State.objsGood (s : State) (j : Job) (refs : List (ObjKind × Nat)) : Bool :=
  j.objs.all fun n => (SMap.find? s.mobjs n).any fun m => m.ctx = j.ctx && (!m.condemned || refs.contains (.mobj, n))

/-- The listed object that wholly holds a range. -/
def State.listedAt (s : State) (j : Job) (va n : Nat) : Option MObj := match s.objectAt j.ctx va n with
  | some (k, m) => if j.objs.contains k then some m else none
  | none => none

/-- The training block's arrays: (address, bytes, whether the module writes it). -/
def Job.arrays (j : Job) : List (Nat × Nat × Bool) :=
  let c := (j.npar + 127) / 128
  [(j.tb 0 48, 2 * j.npar, true), (j.tb 48 48, 514 * c, true), (j.tb 96 48, 260 * c, true), (j.tb 144 48, 260 * c, true), (j.tb 240 48, 128, true),
   (j.tb 288 48, j.tb 336 16 * (64 + 32 * j.escalations.length), true), (j.tb 352 48, 64 * j.tb 400 16, false)] ++
  (if j.journal = 0 then [] else [(j.journal, 4 * j.npar, true)]) ++ if j.tb 464 32 = 0 then [] else [(j.tb 416 48, 4 * j.tb 464 32, false)]

/-- Bytes of a layer's compute copy (R204). -/
def copySize (d : Bytes) : Nat := match fmtVar (bitsIn d 400 4) (bitsIn d 404 2) with
  | some (t, _) => 64 * ((layerCount d + lineElems t.width - 1) / lineElems t.width)
  | none => 0

/-- Whether any of a far range lies in an object marked ro. -/
def State.readOnlyIn (s : State) (ctx va n : Nat) : Bool :=
  s.mobjs.any fun (p : Nat × MObj) => p.2.ctx = ctx && p.2.ro && decide (p.2.va < va + n) && decide (va < p.2.va + p.2.size)

/-- Check 8 of R332. -/
def State.arraysGood (s : State) (j : Job) : Bool :=
  (j.arrays.all fun x => x.2.1 = 0 || (s.listedAt j x.1 x.2.1).any fun m => !(x.2.2 && m.ro)) &&
  j.layers.all fun d => !s.readOnlyIn j.ctx (bitsIn d 288 48) (2 * layerCount d) && (bitsIn d 410 1 = 0 || !s.readOnlyIn j.ctx (bitsIn d 352 48) (copySize d))

/-- The class masks of a canvas that hold every quadrant of an image (R373). -/
def classesOver (canvas : Bytes) (quads : List Nat) : List Nat :=
  (List.range 16).filter fun c => (List.range (canvasSlots canvas)).any (fun i => (canvasSlot canvas i).cls = c) && quads.all fun q => (classMask canvas c).testBit q

/-- Check 10 of R373: a serving block within R374, its reserved bits apart (R11; notes/assumptions/81.md); `canvas` is the atelier's. -/
def servingBlockGood (b canvas : Bytes) (quads : List Nat) : Bool :=
  let f := bitsIn b
  let most := listMax ((List.range (canvasSlots canvas)).filterMap fun i => let x := canvasSlot canvas i; if x.cls = f 60 4 then some x.maxq else none)
  f 0 48 % 4096 = 0 && f 64 48 % 4096 = 0 && decide (most ≤ f 48 12 + 1) && (classesOver canvas quads).contains (f 60 4) && f 128 48 % 65536 = 0 &&
  decide (1 ≤ f 192 6) && decide (f 192 6 ≤ 32) && decide (f 208 13 ≤ 4096) && f 224 48 % 64 = 0 && f 272 48 % 64 = 0

/-- Check 11 of R373, the inbox's reservoir pages included (R374; DEDUCED, notes/assumptions/86.md). -/
def State.areasGood (s : State) (j : Job) : Bool :=
  let f := bitsIn j.block
  let n := f 48 12 + 1
  let areas := [(f 0 48, 4096 * n), (f 64 48, 4096 * n), (f 128 48, 65536 * f 192 6 * f 176 16), (f 224 48, 64 * f 208 13), (f 272 48, 64)]
  (areas.all fun x => x.2 = 0 || (s.listedAt j x.1 x.2).isSome) && s.kindOver j.ctx (f 0 48) (4096 * n) false && (SMap.find? s.jobs (f 320 12)).any fun t => t.ctx = j.ctx && !t.serving

/-- The low-rank entries of a descriptor, with where each lies. -/
def State.readLowRank (s : State) (ctx at_ n : Nat) : List (Nat × Bytes) := (List.range n).map fun i => (at_ + 32 * i, (s.fetch ctx (at_ + 32 * i) 32).bytes)

/-- The job a descriptor describes, before its checks. -/
def State.draftJob (s : State) (c : Cmd) (members objs : Bytes) (esc : List LayerEntry) (azf2 : List Nat) (serving : Bool) : Job :=
  let d := slice c.bytes 64 64
  let f := bitsIn d
  let block := (s.fetch c.ctx (f 16 48) 128).bytes
  let layers := if serving then [] else (List.range (bitsIn block 400 16)).map fun i => (s.fetch c.ctx (bitsIn block 352 48 + 64 * i) 64).bytes
  let ms := (List.range (f 340 11)).map fun i => leAt members (2 * i) 2
  let os := (List.range (f 320 20)).map fun i => bitsIn (slice objs (4 * i) 4) 0 20
  let fore := (upFrom (f 128 14) (f 142 15)).any fun n => (SMap.find? s.colls n).any fun x => x.field 248 1 = 1
  { ctx := c.ctx, atelier := c.atelier, desc := d, members := ms, objs := os, serving := serving, block := block, layers := layers
    lowrank := if serving then [] else s.readLowRank c.ctx (f 160 48) (f 208 16)
    escalations := if serving then [] else (escalable esc).map (fun e => ⟨e.layer, e.threshold, layerPersistence e, 0, 0, none, e.variants⟩), forerunner := fore && !serving
    azf := if fore && !serving then azf2 else [], refs := 0, holding := true, running := false, stopping := none, unsound := false
    committed := none, sealed := none, launched := none, t := 0, k := if serving then 0 else signedOf 8 (bitsIn block 528 8), growth := none, clean := 0, norms := [], lateNext := true, run := none
    command := none, asked := 0, done := 0, slice := 0, debit := 0, beyond := none, stopSince := none, sets := [], resident := false, switching := false, decanted := false
    pendingSnap := none, inService := none, reload := false, ended := false }

/-- The quadrants that an image's cores lie in. -/
def State.imageQuads (s : State) (image : Nat) : List Nat := ((imageCores (s.imageOf image)).map quadrantOf).foldl NatSet.add []

/-- The first failing check of R332 and R373, 0 where none fails; `refs` are the command's references. -/
def State.jobCheck (s : State) (j : Job) (refs : List (ObjKind × Nat)) (image : Nat) (members objs : Option Bytes) (esc : List LayerEntry) (quads : List Nat) : Nat :=
  let f := bitsIn j.desc
  let canvas := s.canvasOf j.atelier
  let check := fun (l : List (Nat × Bool)) => ((l.find? fun x => !x.2).map Prod.fst).getD 0
  let c1 := (1, (SMap.find? s.images image).any fun x => x.ctx = j.ctx && (SMap.find? s.jobs image).isNone)
  let c6 := (6, s.collsGood j refs)
  let c7 := (7, objs.isSome && s.objsGood j refs)
  if j.serving then
    check [c1, c6, c7, (9, !(s.jobs.any fun (p : Nat × Job) => p.2.serving && p.2.atelier = j.atelier && bitsIn p.2.block 60 4 = bitsIn j.block 60 4)),
      (10, s.canRead j.ctx (f 16 48) 128 && servingBlockGood j.block canvas quads), (11, s.areasGood j)]
  else
    check [c1, (2, s.canRead j.ctx (f 16 48) 128 && trainBlockGood j.block (f 340 11) && s.canRead j.ctx (j.tb 416 48) (4 * j.tb 464 32) && s.kindOver j.ctx (j.tb 0 48) (2 * j.npar) true),
      (3, s.canRead j.ctx (j.tb 352 48) (64 * j.tb 400 16) && s.layersGood j.ctx j.npar j.layers esc), (4, members.isSome && s.membersGood j),
      (5, s.canRead j.ctx (f 160 48) (32 * f 208 16) && j.lowrank.all fun x => lowRankGood j.layers x.2), c6, c7, (8, s.arraysGood j),
      (9, canvasSlots canvas = 0 || quads.all fun q => !(canvasMask canvas).testBit q)]

/-- A job created: its objects are listed and referenced (R317, R319). -/
def State.addJob (s : State) (n : Nat) (j : Job) : State :=
  let s1 := { s with jobs := SMap.put s.jobs n j }.refer (· + 1) j.listed
  j.objs.foldl (fun s k => { s with mobjs := SMap.adjust s.mobjs k fun m => { m with listed := true } }) s1

/-- Whether the commission admits a job (R415). -/
def State.commissioned (s : State) (j : Job) : Bool := match (s.lease j.atelier).commission with
  | some c => (!j.serving || c.serve) && (!j.forerunner || c.forerunner)
  | none => false

/-- The job that a JOB_CREATE describes, and the first check of R332 and R373 it fails, 0 where none; `refs` are the references it holds or is
to take. -/
def State.drawnJob (s : State) (c : Cmd) (members objs : Option Bytes) (forms : JobForms) : Job :=
  s.draftJob c (members.getD []) (objs.getD []) forms.escalable forms.azf2 (!(classesOver (s.canvasOf c.atelier) (s.imageQuads (c.pay 0 12))).isEmpty)
def State.jobFails (s : State) (c : Cmd) (refs : List (ObjKind × Nat)) (members objs : Option Bytes) (forms : JobForms) : Nat :=
  s.jobCheck (s.drawnJob c members objs forms) refs (c.pay 0 12) members objs forms.escalable (s.imageQuads (c.pay 0 12))

/-- JOB_CREATE (R331, R332, R373, R415): `members` and `objs` are the host's lists, `escalable` the layers marked so (R63), `azf2` the members
that are AZF-2 modules (R280). The fresh bits of the low-rank entries are software's to set (R256; DEDUCED, notes/assumptions/36.md). -/
def execJobCreate (cmd : Nat) (members objs : Option Bytes) (forms : JobForms) (s : State) : Answer :=
  onCommand s cmd 0x0E fun c =>
    let image := c.pay 0 12
    let j := s.drawnJob c members objs forms
    let bad := s.jobFails c c.refs members objs forms
    let s := if members.isSome then s.readFor c (c.pay 64 64) (2 * c.pay 340 11) else s
    if !s.commissioned j then s.refuse cmd 0x0C 0
    else if bad ≠ 0 then s.refuse cmd 0x0B bad
    else
      (s.addJob image j).finish cmd 0x00 image

/-! ### JOB_RUN -/

/-- A core command that the dispatcher has started, carried out by its row. -/
def onDispatched (s : State) (n opcode : Nat) (ok : Cmd → Bool) (f : Cmd → State) : Answer :=
  match SMap.find? s.commands n with
  | some c => whenDue (s.mstate = 2 && c.opcode = opcode && c.state = .working && ok c) s (f c)
  | none => .next s

/-- That a mixed-generation job has run under its lease, noted (R280, R429). -/
def State.noteMixed (s : State) (n : Nat) : State := match SMap.find? s.jobs n with
  | some j => if j.forerunner then s.setLease j.atelier { s.lease j.atelier with noresidue := true } else s
  | none => s

/-- JOB_RUN (R332): the job's steps are launched from here on. -/
def execJobRun (cmd : Nat) (s : State) : Answer :=
  onDispatched s cmd 0x0F (fun _ => true) fun c => (s.noteMixed (c.pay 0 12)).onJob (c.pay 0 12) fun j =>
    if j.command.isNone then { j with running := true, command := some cmd, asked := c.pay 32 32, done := 0 } else j

/-! ### SNAPSHOT -/

/-- The committed master weights of a layer's chunk (R231, R424): from the journal where the running step has updated the layer. -/
def State.committedWeights (s : State) (j : Job) (d : Bytes) (c : Nat) : List Nat :=
  if j.run.any fun r => r.applied.any fun a => a.layer = layerId d then s.journaled j d c else s.weights j d c

/-- Whether what is read for them is readable; `low` includes their lower halves. -/
def State.committedReadable (s : State) (j : Job) (low : Bool) (d : Bytes) : Bool :=
  if j.run.any fun r => r.applied.any fun a => a.layer = layerId d then s.canRead j.ctx (j.journalAt (layerFirst d)) (4 * layerCount d)
  else s.canRead j.ctx (bitsIn d 288 48) (2 * layerCount d) && (!low || s.canRead j.ctx (j.lo16At (layerFirst d)) (2 * layerCount d))

/-- All committed master weights of a layer, in parameter order. -/
def State.layerWeights (s : State) (j : Job) (d : Bytes) : List Nat := (List.range (layerChunks d)).flatMap fun i => s.committedWeights j d (layerChunk d + i)

/-- The layers whose weights a job holds, in layer-table order. -/
def Job.owners (j : Job) : List Bytes := j.layers.filter fun d => layerKind d ≠ 3

/-- The conversion of some of a snapshot's elements (R231, R334). -/
def snapshotRun (f : Fmt) (v : Variant) (ws : List Nat) : Converted := convertRun f v Rule.cover [] 0 ⟨0, 0, 0⟩ 0 (ws.map fun w => decode .bf16 (w / 65536))

/-- One layer of a snapshot (R231, R334): its elements, then its scale codes, up to the next 64 B. -/
def snapshotLayer (f : Fmt) (v : Variant) (ws : List Nat) : Bytes :=
  let r := snapshotRun f v ws
  let bs := packElems f.width r.codes ++ (if v.scalesPerRow = 0 then [] else r.scales.map (BitVec.ofNat 8 ·))
  padTo (roundUp bs.length 64) bs

/-- A snapshot's conversions counted on the cores that make them (R61), each core its own chunks of a layer as the routine takes them
(R210; DESIGN CHOICE, notes/assumptions/72.md). -/
def State.countSnapshot (s : State) (n : Nat) (j : Job) (f : Fmt) (v : Variant) : State :=
  j.owners.foldl (fun s d => (takenParts (layerCores (s.imageOf n) (layerId d)) d).foldl (fun s x =>
    s.countCopy n x.1 (layerId d) (snapshotRun f v (((s.layerWeights j d).drop x.2.1).take x.2.2)).ev) s) s

/-- A whole snapshot's bytes (R334). -/
def State.snapshotBytes (s : State) (j : Job) (f : Fmt) (v : Variant) : Bytes := j.owners.flatMap fun d => snapshotLayer f v (s.layerWeights j d)

/-- Bytes written to an object from its start, and whether any page refuses writes (R408). -/
def MObj.refuses (m : MObj) (s : State) : Bool := m.gddr && m.pages.any fun g => (s.root g).retired

/-- Whether the object that a SNAPSHOT names has room for the whole snapshot (R334). -/
def State.snapshotFits (s : State) (c : Cmd) : Bool :=
  match SMap.find? s.jobs (c.pay 0 12), SMap.find? s.mobjs (c.pay 20 20), fmtVar (c.pay 12 4) (c.pay 16 2) with
  | some j, some m, some (f, v) => decide ((s.snapshotBytes j f v).length ≤ m.size)
  | _, _, _ => true

/-- A finished snapshot becomes pending for each serving job that reads its job (R386). -/
def State.offer (s : State) (tjob obj step : Nat) : State :=
  (List.filter (fun p : Nat × Job => p.2.serving && bitsIn p.2.block 320 12 = tjob) s.jobs).foldl (fun (s : State) p =>
    let t := (s.refer (· - 1) (p.2.pendingSnap.toList.map fun x => (ObjKind.mobj, x.1))).refer (· + 1) [(ObjKind.mobj, obj)]
    t.onJob p.1 fun j => { j with pendingSnap := some (obj, step) }) s

/-- SNAPSHOT (R231, R334, R386): the committed step s is its result; the spec names none before the first commit, and it is a free
value then. -/
def execSnapshot (cmd : Nat) (s : State) : Answer :=
  onDispatched s cmd 0x14 s.mayCapture fun c =>
    match SMap.find? s.jobs (c.pay 0 12), SMap.find? s.mobjs (c.pay 20 20), fmtVar (c.pay 12 4) (c.pay 16 2) with
    | some j, some m, some (f, v) =>
      let bs := s.snapshotBytes j f v
      let step := j.committed.getD ((Config.freeValue s.freed).toNat % 2 ^ 64)
      let s0 := { s with freed := s.freed + bit j.committed.isNone }
      if m.size < bs.length then s.refuse cmd 0x09 0
      else if m.refuses s || !j.owners.all (s.committedReadable j false) then s.finish cmd 0x0E 0
      else
        let t := ((s0.countSnapshot (c.pay 0 12) j f v).store c.ctx m.va bs).settle
        if m.refuses t then t.finish cmd 0x0E 0 else (t.finish cmd 0x00 step).offer (c.pay 0 12) (c.pay 20 20) step
    | _, _, _ => s.refuse cmd 0x07 0

end Sys2Proof.Machine
end

