-- ==== Sys2Proof/Machine/Parcels.lean ====
section
/-!
DEFINITION. Parcels (R416, R417, R419): their header, opening under a lease with the patron's sequence window, and sealing.
-/
namespace Sys2Proof.Machine

/-- Fields of a parcel header (R416). -/
def parcelPatron (b : Bytes) : Nat := bitsIn b 24 4
def parcelLength (b : Bytes) : Nat := bitsIn b 64 32
def parcelSeq (b : Bytes) : Nat := bitsIn b 128 64

/-- Whether a header keeps its limits for a kind (R416, R417), its reserved bits apart (R11; notes/assumptions/81.md). -/
def parcelHeaderGood (b : Bytes) (kind : Nat) : Bool :=
  let n := parcelLength b
  bitsIn b 0 16 = 0x5043 && bitsIn b 16 4 = 1 && bitsIn b 20 4 = kind &&
  decide (1 ≤ parcelSeq b) && (if kind = 0 then decide (1 ≤ n) && decide (n ≤ 65536) else decide (64 ≤ n) && decide (n ≤ 4096))

/-- The nonce of a parcel (R416). -/
def parcelNonce (seq lnum patron direction : Nat) : Bytes := leBytes 8 seq ++ leBytes 2 lnum ++ leBytes 1 patron ++ leBytes 1 direction

/-- Whether a sequence number is one the window admits (R417). -/
def SeqWindow.admits (w : SeqWindow) (seq : Nat) : Bool := decide (w.high < seq + 4096) && !w.seen.has seq
/-- The window with a sequence number accepted. -/
def SeqWindow.accept (w : SeqWindow) (seq : Nat) : SeqWindow :=
  let h := max w.high seq
  ⟨h, (w.seen.add seq).filter fun k => decide (h < k + 4096)⟩

/-- A parcel opened under an atelier's lease (R417): its plaintext. -/
def State.openParcel (s : State) (a kind : Nat) (b : Bytes) : Option Bytes :=
  let l := s.lease a
  match l.commission, l.keys with
  | some c, some k =>
    let p := parcelPatron b
    let n := parcelLength b
    let w := SMap.get ⟨0, []⟩ l.windows p
    if parcelHeaderGood b kind && bitsIn b 32 16 = c.lnum && decide (p < c.npatron) && decide (48 + n ≤ b.length) && w.admits (parcelSeq b) then
      gcmOpen (k.parcels.getD p []) (parcelNonce (parcelSeq b) c.lnum p 0) (slice b 0 32) (slice b 32 n) (slice b (32 + n) 16)
    else none
  | _, _ => none

/-- A parcel's sequence number accepted (R417). -/
def State.acceptSeq (s : State) (a : Nat) (b : Bytes) : State :=
  let l := s.lease a
  let p := parcelPatron b
  s.setLease a { l with windows := SMap.put l.windows p ((SMap.get ⟨0, []⟩ l.windows p).accept (parcelSeq b)) }

/-- The entry of a parcel that failed to open (R377, R418). -/
def State.noteParcel (s : State) (a ctx : Nat) (b : Bytes) : State := s.log 0x0163 (some a) none (some ctx) [parcelPatron b, parcelSeq b]

/-- A reply sealed for a patron under the seq of its query (R419). -/
def State.sealReply (s : State) (a patron seq : Nat) (text : Bytes) : Bytes :=
  let l := s.lease a
  match l.commission, l.keys with
  | some c, some k =>
    let h := record 32 [(0, 16, 0x5043), (16, 4, 1), (20, 4, 2), (24, 4, patron), (32, 16, c.lnum), (64, 32, text.length), (128, 64, seq)]
    let x := gcmSeal (k.parcels.getD patron []) (parcelNonce seq c.lnum patron 1) h text
    h ++ x.text ++ x.tag
  | _, _ => []

end Sys2Proof.Machine
end

