-- ==== Sys2Proof/Machine/Dma.lean ====
section
/-!
DEFINITION. DMA (R193 to R196, R268, R269, R333, R336, R418): a command's segments, their issue with a transfer tag, their completion,
and the bulk writes between modules.
-/
namespace Sys2Proof.Machine

/-! ### Segments -/

/-- A command's bytes cut into segments (R193, R333): at most 4 KiB, none crossing a 4 KiB boundary of its source or its
destination. -/
def cutSegments (cmd : Nat) : Nat → Nat → Nat → Nat → Nat → List Segment
  | 0, _, _, _, _ => []
  | fuel + 1, i, src, dst, n =>
    if n = 0 then []
    else
      let k := min n (min (4096 - src % 4096) (4096 - dst % 4096))
      ⟨cmd, i, src, dst, k, none, [], []⟩ :: cutSegments cmd fuel (i + 1) (src + k) (dst + k) (n - k)

/-- The port die that holds the first page of a GDDR7 end (R188, R193). -/
def State.dieOfEnd (s : State) (ctx va : Nat) : Option Nat := match s.objectAt ctx va 1 with
  | some (_, m) => if m.gddr then m.pages[(va - m.va) / 2 ^ 21]?.map (· / 65536) else none
  | none => none

/-- The end of the memory object that holds an address (R418). -/
def State.objectEnd (s : State) (ctx va : Nat) : Nat := (s.objectAt ctx va 1).elim 0 fun p => p.2.va + p.2.size

/-- The command in progress that a DMA command becomes (R193, R333, R418). -/
def State.dmaOf (s : State) (n : Nat) (c : Cmd) : DmaRun :=
  let fromHost := c.pay 0 2 = 0
  let peer := c.pay 2 2 = 2
  let src := c.pay 64 64
  let dst := c.pay 128 64
  let len := c.pay 192 32
  let die := (if peer then none else s.dieOfEnd c.ctx dst) <|> (if fromHost then none else s.dieOfEnd c.ctx src)
  { cmd := n, die := die.getD (s.dmaTurn % 4), atelier := c.atelier, ctx := c.ctx, queue := c.queue, cmdId := c.id, fromHost := fromHost, toPeer := if peer then some (c.pay 8 10) else none
    object := c.pay 18 20, parcels := fromHost && !peer, todo := cutSegments n (2 * (len / 4096) + 4) 0 src dst len, out := [], error := false, peer := []
    noted := false, status := 0, arrived := [], next := 0, buffer := [], dst := dst, bound := s.objectEnd c.ctx dst, reply := none, kept := [], opened := src }

/-- Whether a command's port die was its turn to be given (R193). -/
def State.dmaTurned (s : State) (c : Cmd) : Bool := ((if c.pay 2 2 = 2 then none else s.dieOfEnd c.ctx (c.pay 128 64)) <|> (if c.pay 0 2 = 0 then none else s.dieOfEnd c.ctx (c.pay 64 64))).isNone

/-- Whether a queue is real-time. -/
def State.realTime (s : State) (q : Nat) : Bool := (SMap.find? s.queues q).any fun x => x.kind = 2

/-- DMA (R193, R333): the command enters its port die's engine queue; on a real-time queue it is a query, which the serving
path takes (R377). -/
def execDmaCommand (cmd : Nat) (s : State) : Answer :=
  onCommand s cmd 0x11 fun c =>
    let s1 := s.onCmd cmd fun c => { c with state := .working }
    if s.realTime c.queue then s1
    else { s1 with dmas := SMap.put s1.dmas cmd (s.dmaOf cmd c), dmaTurn := if s.dmaTurned c then (s.dmaTurn + 1) % 4 else s.dmaTurn }

/-! ### Issue -/

/-- A DMA command changed. -/
def State.onDma (s : State) (n : Nat) (f : DmaRun → DmaRun) : State := { s with dmas := SMap.adjust s.dmas n f }

/-- The first unreadable line a command meets, reported (R196, R198). -/
def State.noteLine (s : State) (n line : Nat) : State := match SMap.find? s.dmas n with
  | none => s
  | some d =>
    let s1 := s.onDma n fun d => { d with error := true, noted := true }
    if d.noted then s1 else s1.log 0x0121 (some d.atelier) none (some d.ctx) [d.queue, d.cmdId, line]

/-- Whether a tag is that of a segment held for an unopened parcel, whose engine has done with it (R195, R418). -/
def State.keptTag (s : State) (tag : Nat) : Bool := s.dmas.any fun d => d.2.kept.any fun g => g.tag = some tag

/-- The engine of a port die free to take a segment (R193). -/
def State.freeEngine (s : State) (die : Nat) : Option Nat :=
  ((List.range 16).map (16 * die + ·)).find? fun e => s.tags.all fun t => t.2.engine ≠ e || s.keptTag t.1

/-- A bulk write of a segment's data (R268). -/
def State.sendBulk (s : State) (d : DmaRun) (g : Segment) (peer : Nat) : State :=
  if (s.route peer).isNone then s.answerSegment (some (d.cmd, g.index)) 0x05
  else s.sendPacket peer 2 0x0 (s.lnum d.atelier) [(0, 20, d.object), (64, 48, g.dst), (112, 32, d.cmd)] g.data (some (d.cmd, g.index))

/-- The rest of a command given up: its status is settled, nothing more of it is issued. -/
def State.giveUp (s : State) (n status : Nat) : State :=
  { s.onDma n fun d => { d with status := if d.status = 0 then status else d.status, todo := [] } with tagWaits := s.tagWaits.filter fun g => g.cmd ≠ n }

/-- A segment issued with a tag: its source is read. A host that refuses the read gives the command its error (R301, R320). -/
def State.issueSegment (s : State) (d : DmaRun) (g : Segment) (tag engine : Nat) (host : Option Bytes) : State :=
  let s1 := s.takeTag d.atelier tag engine
  if d.fromHost then
    match host with
    | some bs =>
      let g1 := { g with tag := some tag, data := padTo g.len bs }
      let s2 := (s1.onDma d.cmd fun d => { d with out := d.out ++ [g1] }).reachHost (s1.ctxTag d.ctx) g.src g.len
      match d.toPeer with
      | some p => s2.sendBulk d g1 p
      | none => s2
    | none => (s1.onDma d.cmd fun d => { d with error := true, out := d.out ++ [{ g with tag := some tag, bad := [(0, g.len)] }] }).giveUp d.cmd 0x0E
  else
    let pieces := (spans (g.len / 64 + 2) g.src g.len).map fun p => (p.1 - g.src, p.2, s.fetchPiece d.ctx p.1 p.2)
    let bad := (pieces.filter fun p => !p.2.2.bad.isEmpty).map fun p => (p.1, p.2.1)
    let g1 := { g with tag := some tag, data := pieces.flatMap fun p => p.2.2.bytes, bad := bad }
    let s2 := s1.onDma d.cmd fun d => { d with out := d.out ++ [g1] }
    let s3 := match bad.head? with
      | some b => s2.noteLine d.cmd ((g.src + b.1) / 64 * 64)
      | none => s2
    match d.toPeer with
    | some p => s3.sendBulk d g1 p
    | none => s3

/-- The command a port die serves next (R336): the highest priority, then in turn after the one last served. -/
def State.nextDma (s : State) (die : Nat) : Option DmaRun :=
  let ready := ((s.dmas.map Prod.snd).filter fun (d : DmaRun) => d.die = die && !d.todo.isEmpty)
  let top := listMax (ready.map fun d => s.prioOf d.queue)
  let best := ready.filter fun d => s.prioOf d.queue = top
  let last := SMap.find? s.dmaLast die
  (best.find? fun d => last.any fun l => decide (l < d.cmd)) <|> best.head?

/-- The next segment of a port die: issued, or put to wait for a tag (R193, R195). -/
def State.takeSegment (s : State) (die : Nat) (d : DmaRun) (engine : Nat) (host : Option Bytes) : State :=
  match d.todo with
  | [] => s
  | g :: rest =>
    let s1 := { s.onDma d.cmd fun d => { d with todo := rest } with dmaLast := SMap.put s.dmaLast die d.cmd }
    match (if s.tagWaits.any (fun w => (SMap.find? s.dmas w.cmd).any fun x => x.atelier = d.atelier) then none else s.freeTag d.atelier) with
    | some t => s1.issueSegment d g t engine host
    | none => { s1 with tagWaits := s1.tagWaits ++ [g] }

/-- DMA_SEGMENT_ISSUE (R193, R336, R366). -/
def execDmaSegmentIssue (die : Nat) (host : Option Bytes) (s : State) : Answer :=
  onUnit "port die" die 4
    (match s.nextDma die, s.freeEngine die with
     | some d, some e => whenDue (s.mstate = 2) s (s.halfRate e (s.takeSegment die d e host))
     | _, _ => .next s)

/-- The first segment of an atelier that waits for a tag, and its command. -/
def State.firstWait (s : State) (a : Nat) : Option (Segment × DmaRun) :=
  s.tagWaits.findSome? fun g => match SMap.find? s.dmas g.cmd with
    | some d => if d.atelier = a then some (g, d) else none
    | none => none

/-- TRANSFER_TAG_GRANT (R195, R366). -/
def execTransferTagGrant (atelier : Nat) (host : Option Bytes) (s : State) : Answer :=
  match s.firstWait atelier, s.freeTag atelier with
  | some (g, d), some t => match s.freeEngine d.die with
    | some e => .next (s.halfRate e ({ s with tagWaits := s.tagWaits.erase g }.issueSegment d g t e host))
    | none => .next s
  | _, _ => .next s

/-! ### Completion -/

/-- The runs of a segment's bytes that were readable, as (offset, length), from its unreadable ones in order. -/
def goodRuns (len : Nat) : Nat → List (Nat × Nat) → List (Nat × Nat)
  | at_, [] => if at_ < len then [(at_, len - at_)] else []
  | at_, b :: bs => (if at_ < b.1 then [(at_, b.1 - at_)] else []) ++ goodRuns len (b.1 + b.2) bs

/-- The destination line of a byte marked poisoned (R196). -/
def State.poisonAt (s : State) (ctx va : Nat) : State := match s.locate ctx va with
  | none => s
  | some p =>
    if p.gddr then
      let g := p.addr / 2 ^ 21
      let line := p.addr % 2 ^ 21 / 128
      let r := s.root g
      if r.retired || r.lost.getLsbD (line / 64) then s
      else (s.setRoot g { r with written := r.written ||| (1#256 <<< (line / 64)) }).poisonLine g line
    else { s with poison := s.poison.add (p.addr / 64) }

/-- Whether either end of a run lies in a retired region (R408). -/
def State.retiredRun (s : State) (ctx va n : Nat) : Bool := [va, va + n - 1].any fun a => (s.locate ctx a).any s.retiredAt

/-- Bytes a command writes at a far address (R195, R198, R405, R408). -/
def State.dmaStore (s : State) (n ctx va : Nat) (bs : Bytes) : State :=
  if bs.isEmpty then s
  else
    let x := s.store ctx va bs
    let s1 := if x.settle.retiredRun ctx va bs.length then x.settle.onDma n fun d => { d with error := true } else x.settle
    match x.resBad.head? with
    | none => s1
    | some l =>
      let at_ := (spans (bs.length / 64 + 2) va bs.length).find? fun p => (s.locate ctx p.1).any fun q => !q.gddr && q.addr / 64 = l
      s1.noteLine n ((at_.elim va Prod.fst) / 64 * 64)

/-- A segment's data written at its destination in device memory (R195, R196). -/
def State.landSegment (s : State) (d : DmaRun) (g : Segment) : State :=
  let s1 := (goodRuns g.len 0 g.bad).foldl (fun s r => s.dmaStore d.cmd d.ctx (g.dst + r.1) (slice g.data r.1 r.2)) s
  g.bad.foldl (fun s b => (spans (b.2 / 64 + 2) (g.dst + b.1) b.2).foldl (fun s p => s.poisonAt d.ctx p.1) s) s1

/-- The first parcel of a command's unopened bytes opened and written (R418); none where nothing can be done with them yet. -/
def State.openNext (s : State) (n : Nat) : Option State := match SMap.find? s.dmas n with
  | none => none
  | some d =>
    let b := d.buffer
    let size := 48 + parcelLength b
    let last := d.todo.isEmpty && d.out.isEmpty && s.tagWaits.all fun g => g.cmd ≠ n
    if d.status ≠ 0 || b.isEmpty then none
    else if b.length < 32 && !last then none
    else if b.length < size && parcelHeaderGood b 0 && !last then none
    else
      match s.openParcel d.atelier 0 (slice b 0 (min size b.length)) with
      | none => some ((s.noteParcel d.atelier d.ctx b).giveUp n 0x0C)
      | some text =>
        let s1 := s.acceptSeq d.atelier b
        if d.bound < d.dst + text.length then some ((s1.noteParcel d.atelier d.ctx b).giveUp n 0x09)
        else some ((s1.dmaStore n d.ctx d.dst text).onDma n fun d => { d with buffer := b.drop size, dst := d.dst + text.length, opened := d.opened + size })

/-- Every parcel that can be opened is. -/
def State.openParcels (n : Nat) : Nat → State → State
  | 0, s => s
  | fuel + 1, s => match s.openNext n with
    | some t => State.openParcels n fuel t
    | none => s

/-- Segments that have arrived joined in order. -/
def DmaRun.join : Nat → DmaRun → DmaRun
  | 0, d => d
  | fuel + 1, d => match SMap.find? d.arrived d.next with
    | some bs => DmaRun.join fuel { d with arrived := SMap.del d.arrived d.next, next := d.next + 1, buffer := d.buffer ++ bs }
    | none => d

/-- Held segments whose lines are written, or whose command is given up, end with their tags (R195, R418). -/
def State.releaseKept (s : State) (n : Nat) : State := match SMap.find? s.dmas n with
  | none => s
  | some d =>
    let ended := fun (g : Segment) => d.status ≠ 0 || decide (g.src + g.len ≤ d.opened)
    (d.kept.filter ended).foldl (fun s g => s.dropTag? g.tag) (s.onDma n fun d => { d with kept := d.kept.filter (!ended ·) })

/-- The command completes with its last segment (R195, R196, R269, R418). -/
def State.settleDma (s : State) (n : Nat) : State := match SMap.find? s.dmas n with
  | none => s
  | some d =>
    if d.todo.isEmpty && d.out.isEmpty && d.kept.isEmpty && s.tagWaits.all (fun g => g.cmd ≠ n) then
      let peer := (List.find? (fun (p : Nat × Nat) => p.2 ≠ 0) d.peer).elim 0 Prod.snd
      let status := if d.status ≠ 0 then d.status else if d.error || peer ≠ 0 then 0x0E else 0x00
      { s with dmas := SMap.del s.dmas n }.finish n status peer
    else s

/-- Whether the lease that a tag was given under is still held (R431). -/
def State.tagLive (s : State) (t : Tag) : Bool := t.atelier.any fun a => (s.lease a).keys.isSome && (s.lease a).serial = t.serial

/-- A segment of parcels has arrived: it is held until its parcel is whole and written (R195, R418). -/
def State.keepSegment (s : State) (d : DmaRun) (g : Segment) : State :=
  let t := s.onDma d.cmd fun d => DmaRun.join (d.arrived.length + 1) { d with arrived := SMap.put d.arrived g.index g.data, kept := d.kept ++ [g] }
  State.openParcels d.cmd ((SMap.find? t.dmas d.cmd).elim 0 fun d => d.buffer.length) t

/-- A segment ends: what it moved lands, its tag is freed, and its command may complete; one of parcels keeps its tag until its parcel is
written. -/
def State.endSegment (s : State) (t : Tag) (tag : Nat) (d : DmaRun) (g : Segment) : State :=
  let s1 := s.onDma d.cmd fun d => { d with out := d.out.erase g }
  let s2 := if !s.tagLive t || d.toPeer.isSome then s1.dropTag tag
    else if d.parcels then (if g.bad.isEmpty then s1.keepSegment d g else s1.dropTag tag)
    else (s1.landSegment d g).dropTag tag
  ((s2.releaseKept d.cmd).settleDma d.cmd).settleDrain d.atelier

/-- DMA_SEGMENT_COMPLETE (R195). A segment to a peer completes once its response is here (R269). -/
def execDmaSegmentComplete (tag : Nat) (s : State) : Answer :=
  let found := s.dmas.findSome? fun (p : Nat × DmaRun) => (p.2.out.find? fun g => g.tag = some tag).map (p.2, ·)
  match SMap.find? s.tags tag, found with
  | some t, some (d, g) => whenDue (d.toPeer.isNone || (SMap.find? d.peer g.index).isSome) s (s.endSegment t tag d g)
  | _, _ => .next s

/-! ### Bulk writes received -/

/-- The result of a bulk write (R269): in the order of the codes; 0x04 also where a partial line of it meets a poisoned one and is not
written (R198, R405; DESIGN CHOICE, notes/assumptions/104.md). -/
def State.bulkResult (s : State) (p : Packet) : Nat := match SMap.find? s.mobjs (p.info 0 20) with
  | none => 0x01
  | some m =>
    let off := p.info 64 48
    let n := p.payload.length
    if m.condemned || !m.peerWr then 0x01
    else if s.atelierOfLnum p.lease = none || (SMap.find? s.contexts m.ctx).map (·.atelier) ≠ s.atelierOfLnum p.lease then 0x02
    else if m.size < off + n then 0x03
    else
      let x := s.store m.ctx (m.va + off) p.payload
      if m.ro || x.state.retiredRun m.ctx (m.va + off) n || !x.gddrBad.isEmpty || !x.resBad.isEmpty then 0x04 else 0x00

/-- A bulk write taken up (R268, R269): written or refused, then answered. -/
def State.hearBulk (s : State) (p : Packet) : State :=
  let r := s.bulkResult p
  let s1 := match SMap.find? s.mobjs (p.info 0 20) with
    | some m => if r = 0 then (s.store m.ctx (m.va + p.info 64 48) p.payload).settle
      else if r = 4 && !m.ro then s.retireRun m.ctx (m.va + p.info 64 48) p.payload.length else s
    | none => s
  let s2 := if r = 0 then s1 else s1.noteOf (s.atelierOfLnum p.lease) 0x0102 [p.src, p.info 0 20]
  s2.sendPacket p.src 0 0x8 0 [(0, 32, p.info 112 32), (32, 16, p.lease), (48, 48, p.info 64 48), (96, 8, r)] [] none

/-- BULK_WRITE (R268, R269). -/
def execBulkWrite (port : Nat) (s : State) : Answer := packetRow port 0x0 s (fun _ => true) fun s p => s.hearBulk p

/-- The segment a response answers (R269): its command's tag, its offset, its peer. -/
def State.answered (s : State) (p : Packet) : Option (Nat × Nat) :=
  s.dmas.findSome? fun (x : Nat × DmaRun) =>
    if x.1 % 2 ^ 32 = p.info 0 32 && x.2.toPeer = some p.src then (x.2.out.find? fun g => g.dst % 2 ^ 48 = p.info 48 48).map fun g => (x.1, g.index) else none

/-- BULK_RESPONSE (R269). -/
def execBulkResponse (port : Nat) (s : State) : Answer := packetRow port 0x8 s (fun _ => true) fun s p => s.answerSegment (s.answered p) (p.info 96 8)

end Sys2Proof.Machine
end

