-- ==== Sys2Proof/Machine/Fetch.lean ====
section
/-!
DEFINITION. The queue engine's fetch of a command (R301, R313, R316, R319, R451): its checks, and what acceptance and rejection do. A check made
at the fetch is made again where the command is carried out after a wait (DEDUCED, notes/assumptions/77.md).
-/
namespace Sys2Proof.Machine

/-- The object a rejection at acceptance names in its entry (R319, R459): the first that draws the status, the context where that is free; for
another cause the object the command is about (DEDUCED, notes/assumptions/24.md). -/
def State.rejectedObject (s : State) (c : Cmd) (status : Nat) : Nat :=
  let about := ({ c with refs := s.dmaObjects c } : Cmd).slotNamed
  if status = 0x03 && c.inContext && (SMap.find? s.contexts c.ctx).isNone then c.ctx
  else if 0x03 ≤ status && status ≤ 0x05 then (((s.namedBy c).find? fun o => s.objectStatus c o = status).map Prod.snd).getD about else about

/-- A rejected command's entry and completion (R313, R320), with its result: the failing check of a JOB_CREATE (R332), else 0. -/
def State.reject (s : State) (n : Nat) (c : Cmd) (status result : Nat) : State :=
  (s.log 0x0140 (some c.atelier) none (some c.ctx) [n, c.id, status, s.rejectedObject c status]).pushCompletion n
    ⟨BitVec.ofNat 32 c.id, status, false, false, BitVec.ofNat 64 result, c.irq⟩

/-- An object condemned at the acceptance of its free command (R319). -/
def State.condemn (s : State) (serial : Nat) : ObjKind × Nat → State
  | (.mobj, n) => { s with mobjs := SMap.adjust s.mobjs n fun x => { x with condemned := true, free := some serial } }
  | (.fence, n) => { s with fences := SMap.adjust s.fences n fun x => { x with condemned := true, free := some serial } }
  | (.image, n) => { s with images := SMap.adjust s.images n fun x => { x with condemned := true, free := some serial } }
  | (.coll, n) => { s with colls := SMap.adjust s.colls n fun x => { x with condemned := true, free := some serial } }
  | (.job, _) => s

/-- An accepted command entered with its references (R313, R319, R326). -/
def State.accept (s : State) (c : Cmd) (list : Bytes) : State :=
  let n := s.nextSerial
  let c1 := { c with refs := s.refsOf c list }
  let t := { s with commands := SMap.put s.commands n c1, nextSerial := n + 1 }.refer (· + 1) c1.refs
  (match c.frees with
   | some o => t.condemn n o
   | none => t).latchNext c.queue

/-- What the checks of a command read of host memory beside its entry (R301, R329, R331). -/
def State.readBeside (s : State) (c : Cmd) (e : EntryRead) : State :=
  if c.opcode = 0x0A then (if e.image.isSome then s.readFor c (c.pay 0 64) (c.pay 64 32) else s)
  else if c.opcode = 0x0E then
    let t := if e.members.isSome then s.readFor c (c.pay 64 64) (2 * c.pay 340 11) else s
    if e.list.isSome then t.readFor c (c.pay 256 64) (4 * c.pay 320 20) else t
  else s

/-- The status and the result that a command draws by what it points to (R313, R329, R332, R334, R495), once it has passed the checks of its own
fields; 0 where it draws none. What cannot be read fails the command when it is carried out (R320). -/
def State.contentStatus (s : State) (c : Cmd) (e : EntryRead) : Nat × Nat := match c.opcode with
  | 0x0A => (match e.image with
    | some bs => s.imageStatus c.atelier (padTo (c.pay 64 32) bs)
    | none => 0, 0)
  | 0x0C => (if s.tableStatus c = 0x0E then 0 else s.tableStatus c, 0)
  | 0x0E =>
    let check := s.jobFails c (s.refsOf c (e.list.getD [])) e.members e.list e.forms
    if !s.commissioned (s.drawnJob c e.members e.list e.forms) then (0x0C, 0) else if check ≠ 0 then (0x0B, check) else (0, 0)
  | 0x14 => (if s.snapshotFits c then 0 else 0x09, 0)
  | _ => (0, 0)

/-- A command that has been read checked, and accepted or rejected (R313); that a JOB_CREATE's image is not loaded is its check 1 (R332). -/
def State.checkCommand (s : State) (n : Nat) (q : Queue) (c : Cmd) (e : EntryRead) : State :=
  let r := s.acceptStatus q c
  if r ≠ 0 then s.reject n c r (if r = 0x0B then 1 else 0)
  else
    let t := s.readBeside c e
    let x := t.contentStatus c e
    if x.1 = 0 then t.accept c (e.list.getD []) else t.reject n c x.1 x.2

/-- A command fetched (R301, R313, R316, R451): the count and its shadow, then its checks. A host that refused the read fails it. -/
def State.fetchCommand (s : State) (n : Nat) (q : Queue) (e : EntryRead) : State :=
  let (port, pasid) := s.queueTag q
  let count := q.fetched + 1
  let s1 := (s.onQueue n fun q => { q with fetched := count }).hostWrite port pasid q.shadow.toNat (leBytes 8 count.toNat)
  match e.entry with
  | none => s1.pushCompletion n ⟨0, 0x0E, false, false, 0, false⟩
  | some bs =>
    let c : Cmd := ⟨n, q.atelier, padTo 128 bs, .waiting, [], false, 0, false, false, false, false⟩
    let s2 := s1.translated port pasid (q.ring.toNat + 128 * (q.fetched.toNat % 2 ^ q.lsize))
    if (s.atelier q.atelier).faulted && c.opcode ≠ 0x21 && c.opcode ≠ 0x13 then s2.pushCompletion n ⟨BitVec.ofNat 32 c.id, 0x0D, false, false, 0, c.irq⟩
    else s2.checkCommand n q c e

/-- COMMAND_FETCH: `entry` holds the command and what its checks read beside it, as host memory has them. -/
def execCommandFetch (queue : Nat) (entry : EntryRead) (s : State) : Answer :=
  onUnit "queue" queue 2048
    (match SMap.find? s.queues queue with
     | some q =>
       whenDue (s.mstate = 2 && !q.closing && q.tail ≠ q.fetched && ((s.lease q.atelier).state ≠ 3 || q.kind = 0)) s (s.fetchCommand queue q entry)
     | none => .next s)

end Sys2Proof.Machine
end

