-- ==== Sys2Proof/Machine/Scheduler.lean ====
section
/-!
DEFINITION. What runs next (R110, R335 to R350, R359, R360): the order of ready core commands, their start, reservations, slices,
stops at tile boundaries and decants.
-/
namespace Sys2Proof.Machine

/-! ### Ready commands -/

/-- The JOB_RUN of a job that the flacon has started, if any (R359): it holds the job's cores, or has claimed them. -/
def State.startedRun (s : State) (n : Nat) : Option (Nat × Cmd) :=
  List.find? (fun (p : Nat × Cmd) => p.2.opcode = 0x0F && p.2.jobSlot = n && p.2.state = .working) s.commands

/-- Whether a core command is ready: started by the queue engine, and its job's JOB_RUN, if any is in progress or started, is itself. -/
def State.ready (s : State) (n : Nat) (c : Cmd) : Bool :=
  c.isCore && c.state = .running && (SMap.find? s.jobs c.jobSlot).any fun j =>
    c.opcode = 0x14 || j.command = some n || (j.command.isNone && (s.startedRun c.jobSlot).isNone)

/-- Whether a panel has a core command running or ready (R352). -/
def State.active (s : State) (p : Nat) : Bool :=
  (s.commands.any fun (x : Nat × Cmd) => x.2.isCore && (s.ready x.1 x.2 || x.2.state = .working) && quadsOn (s.commandQuadrants x.2) p ≠ 0) ||
  s.serving.passes.any fun x => !x.dropped && quadsOn (s.passDemand x).quads p ≠ 0

/-- The curb fractions (R366): half the cap less 2 %, less the module's other draw, shared by the panels at work. They are prepared in
each window and again where core commands start within it, so that PWR_CURB_N finds each panel's present charges in them (R29; DESIGN
CHOICE, notes/assumptions/69.md). -/
def State.shareCurbs (s : State) : State :=
  let busy := (List.range 12).filter s.active
  let idle := ((List.range 12).filter fun p => !s.active p).map fun p => (s.panel p).used + 64
  let half := (49 * 8 * (s.installation.map (·.cap)).getD 56 - s.flacon.other - idle.sum) / max 1 busy.length
  (List.range 12).foldl (fun (t : State) p => t.setPanel p { t.panel p with curb := min 256 (256 * half / max 1 (max (s.chargesAt p (s.panel p).vcode) (s.panel p).whole)) }) s

/-- The turn of a decanted job among contenders of equal priority (R342): the one whose slice ended first comes first. -/
def State.turn (s : State) (c : Cmd) : Nat := match SMap.find? s.jobs c.jobSlot with
  | some j => if j.decanted then j.slice.toNat else 0
  | none => 0

/-- Whether a command comes before another (R338): by priority, then by acceptance; contenders of equal priority take turns (R342). -/
def State.comesBefore (s : State) (a b : Nat × Cmd) : Bool :=
  let pa := s.prioOf a.2.queue
  let pb := s.prioOf b.2.queue
  let turns := s.turn a.2 ≠ s.turn b.2 && meets (s.coresOf a.2) (s.coresOf b.2)
  decide (pb < pa) || (pa = pb && (if turns then decide (s.turn a.2 < s.turn b.2) else decide (a.1 < b.1)))

/-- A command put in its place among ordered ones. -/
def State.placeReady (s : State) (x : Nat × Cmd) : List (Nat × Cmd) → List (Nat × Cmd)
  | [] => [x]
  | y :: ys => if s.comesBefore x y then x :: y :: ys else y :: State.placeReady s x ys

/-- The ready core commands in order (R338). -/
def State.readyList (s : State) : List (Nat × Cmd) := (List.filter (fun p : Nat × Cmd => s.ready p.1 p.2) s.commands).foldl (fun l x => s.placeReady x l) []

/-! ### Holders -/

/-- The jobs that must leave before a job comes in (R342, R376): the holders of its cores, and, for a serving job, other serving jobs whose
class masks intersect its own. -/
def State.contending (s : State) (n : Nat) (j : Job) : List Nat :=
  let mask := fun (x : Job) => classMask (s.canvasOf x.atelier) (bitsIn x.block 60 4)
  let rivals := (List.filter (fun p : Nat × Job => p.1 ≠ n && j.serving && p.2.serving && p.2.resident && mask p.2 &&& mask j ≠ 0) s.jobs).map Prod.fst
  (s.holders (imageCores (s.imageOf n)) n ++ rivals).eraseDups

/-- Whether a started command whose job is yet to come in has claimed some of the cores for another job than `own` (R359). -/
def State.claimed (s : State) (cores : List Nat) (own : Nat) : Bool :=
  s.commands.any fun (p : Nat × Cmd) => p.2.opcode = 0x0F && p.2.state = .working && p.2.jobSlot ≠ own && meets (s.coresOf p.2) cores &&
    (SMap.find? s.jobs p.2.jobSlot).any fun j => !j.resident && j.command.all (· = p.1)

/-- Whether a started SNAPSHOT of another job than `own` has claimed some of the cores, or runs on them. -/
def State.snapshotClaims (s : State) (cores : List Nat) (own : Nat) : Bool :=
  s.commands.any fun (p : Nat × Cmd) => p.2.opcode = 0x14 && p.2.state = .working && p.2.jobSlot ≠ own && meets (s.coresOf p.2) cores

/-- Whether a SNAPSHOT runs on some of the cores. -/
def State.snapshotOn (s : State) (cores : List Nat) : Bool :=
  s.commands.any fun (p : Nat × Cmd) => p.2.opcode = 0x14 && p.2.state = .working && s.mayCapture p.2 && meets (s.coresOf p.2) cores

/-- The JOB_RUN of job `n` in progress, or started by the flacon and yet to be carried out. -/
def State.runOf (s : State) (n : Nat) (j : Job) : Option Cmd := match j.command with
  | some c => SMap.find? s.commands c
  | none => (s.startedRun n).map Prod.snd

/-- Decant sets an atelier's decant area holds, and how many are taken (R345, R346). -/
def State.decantSets (s : State) (a : Nat) : Nat := match s.entry a with
  | some e => e.decant * 2 ^ 21 / 376832
  | none => 0
def State.decantUsed (s : State) (a : Nat) : Nat := (s.decants.filter fun c => s.holds a (c.1 % 16384)).length
/-- The sets that the jobs of an atelier on their way out, `n` apart, will take. -/
def State.decantDue (s : State) (a n : Nat) : Nat :=
  ((List.filter (fun p : Nat × Job => p.1 ≠ n && p.2.atelier = a && p.2.resident && p.2.switching) s.jobs).map fun p => (imageCores (s.imageOf p.1)).length).sum

/-- Whether a set is free for each core of a job (R345): those of jobs already on their way out are taken. -/
def State.decantRoom (s : State) (n : Nat) (j : Job) : Bool :=
  decide (s.decantUsed j.atelier + s.decantDue j.atelier n + (imageCores (s.imageOf n)).length ≤ s.decantSets j.atelier)

/-- Whether the job may not be switched out now (R343, R347): a non-preemptible command, or a SNAPSHOT on its cores. -/
def State.pinned (s : State) (n : Nat) (j : Job) : Bool := ((s.runOf n j).any (·.np)) || s.snapshotOn (imageCores (s.imageOf n))

/-- Whether R342 switches a holder out for a command now. -/
def State.yields (s : State) (c : Cmd) (n : Nat) : Bool := match SMap.find? s.jobs n with
  | none => false
  | some j =>
    let mine := s.prioOf c.queue
    let its := (s.runOf n j).elim 0 fun x => s.prioOf x.queue
    j.switching || (!j.serving && s.decantSets j.atelier ≠ 0 && !s.pinned n j && s.decantRoom n j && (decide (its < mine) || (c.reserved && decide (its ≤ mine))))

/-! ### Starts -/

/-- A job marked to be switched out at its cores' next tile boundaries. -/
def State.switchOut (s : State) (n : Nat) : State := ((s.settleOver n).onJob n fun j => { j with switching := true }).beginStop n

/-- An atelier's time slice in ticks (R339). -/
def State.sliceTicks (s : State) (a : Nat) : Nat := match s.entry a with
  | some e => e.slice * ticksMs
  | none => 0

/-- A job's slice begins (R342, R348): shortened by its debit, what is left of the debit kept. -/
def State.startSlice (s : State) (n : Nat) : State := s.onJob n fun j =>
  let t := s.sliceTicks j.atelier
  { j with slice := s.time + BitVec.ofNat 64 (t - min j.debit t), debit := j.debit - min j.debit t, beyond := none }

/-- A job takes its cores (R106). -/
def State.takeCores (s : State) (n : Nat) : State := match SMap.find? s.jobs n with
  | some j => (((s.assignCores n j).onJob n fun j => { j with resident := true }).startSlice n)
  | none => s

/-- Whether two demands meet on a panel. -/
def Demand.meets (a b : Demand) : Bool := b.quads.any fun q => quadsOn a.quads (q / 4) ≠ 0

/-- The passes that hold a reservation (R360). -/
def State.reservedPasses (s : State) : List Pass := s.serving.passes.filter fun p => p.reserved && !p.started && !p.dropped

/-- Whether a reservation keeps a command from starting (R360): that of a pass, or of a command of its own or a higher priority. -/
def State.excluded (s : State) (n : Nat) (c : Cmd) : Bool :=
  let mine := s.demand c
  (s.reservedPasses.any fun p => mine.meets (s.passDemand p)) || s.reservations.any fun m => m ≠ n && (SMap.find? s.commands m).any fun r =>
    mine.meets (s.demand r) && decide (s.prioOf c.queue ≤ s.prioOf r.queue) && !(c.reserved && s.comesBefore (n, c) (m, r))

/-- Whether a slot that is open, or whose guard interval has begun, keeps a non-preemptible command from starting until its deadline (R349;
that a slot lasts to its deadline: DEDUCED, notes/assumptions/107.md). -/
def State.guarded (s : State) (c : Cmd) : Bool :=
  let t := s.canvasOf c.atelier
  let quads := (s.demand c).quads
  let lnp := (s.entry c.atelier).elim 0 fun e => 1000 * e.lnp
  let k := periodOf t s.time.toNat
  let bars := fun k i => decide (s.time.toNat < deadlineAt t k i) && (decide (openingAt t k i ≤ s.time.toNat) || decide (openingAt t k i < s.time.toNat + lnp))
  c.np && (List.range (canvasSlots t)).any fun i => quads.any (classMask t (canvasSlot t i).cls).testBit && ([k - 1, k, k + 1].any fun k => bars k i)

/-- A command marked started. -/
def State.started (s : State) (n : Nat) : State :=
  { s.onCmd n fun c => { c with state := .working, passed := 0, reserved := false } with reservations := s.reservations.filter (· ≠ n) }

/-- A ready command started, where every condition of R359 holds. -/
def State.tryStart (s : State) (n : Nat) (c : Cmd) : Option State :=
  let cores := s.coresOf c
  let hs := s.holders cores c.jobSlot
  let leaving := c.opcode = 0x14 && (SMap.find? s.jobs c.jobSlot).any (·.switching)
  if s.excluded n c || s.guarded c || s.snapshotClaims cores c.jobSlot || s.claimed cores c.jobSlot || leaving || !hs.all (s.yields c) then none
  else
    let t := (hs.filter fun h => (SMap.find? s.jobs h).any fun j => !j.switching).foldl State.switchOut s
    if !t.fits (t.demand c) then none
    else
      let t1 := (t.started n).markRan (t.demand c)
      some (if c.opcode = 0x0F && hs.isEmpty && (SMap.find? t.jobs c.jobSlot).any (fun j => !j.resident && !j.decanted) then t1.takeCores c.jobSlot else t1)

/-- The first of a list of commands that starts. -/
def State.startFirst (s : State) : List (Nat × Cmd) → Option State
  | [] => none
  | x :: xs => match s.tryStart x.1 x.2 with
    | some t => some t
    | none => State.startFirst s xs

/-- Starts repeated until no further command can start (R359); `fuel` bounds them. -/
def State.startAll : Nat → State → State
  | 0, s => s
  | fuel + 1, s => match s.startFirst s.readyList with
    | some t => State.startAll fuel t
    | none => s

/-- The jobs that a ready command would switch out but for want of a decant set, reported (R345). -/
def State.noteNoRoom (s : State) : State :=
  let lacking := s.readyList.flatMap fun p => (s.holders (s.coresOf p.2) p.2.jobSlot).filter fun h => (SMap.find? s.jobs h).any fun j =>
    !j.switching && !j.serving && s.decantSets j.atelier ≠ 0 && !s.pinned h j && !s.decantRoom h j &&
      decide ((s.runOf h j).elim 0 (fun x => s.prioOf x.queue) + bit (!p.2.reserved) ≤ s.prioOf p.2.queue)
  (lacking.foldl NatSet.add []).foldl (fun s h => match SMap.find? s.jobs h with
    | some j => s.log 0x0150 (some j.atelier) j.stepNow (some j.ctx) [h]
    | none => s) s

/-- Whether the reservation of an earlier pass keeps pass number `i` from starting (R360). -/
def State.passExcluded (s : State) (i : Nat) (p : Pass) : Bool :=
  (List.range s.serving.passes.length).any fun k => k ≠ i && (s.serving.passes[k]?).any fun q =>
    q.reserved && !q.started && !q.dropped && (s.passDemand p).meets (s.passDemand q) && !(p.reserved && decide (i < k))

/-- The non-preemptible commands still running on a serving job's quadrants (R350). -/
def State.lateOn (s : State) (j : Job) : List Cmd :=
  let quads := s.classQuads j
  (List.filter (fun p : Nat × Cmd => p.2.np && s.onCoresNow p.2 && (s.commandQuadrants p.2).any quads.contains) s.commands).map Prod.snd

/-- Passes the flacon starts (R338, R359, R375): real-time commands come first; a pass waits for non-preemptible commands on its quadrants
(R350). -/
def State.startPasses (s : State) : State :=
  (List.range s.serving.passes.length).foldl (fun (s : State) i => match s.serving.passes[i]? with
    | some p =>
      let here := (SMap.find? s.jobs p.job).any fun j => j.resident && !j.switching && (s.lateOn j).isEmpty
      if !p.started && !p.dropped && here && !s.passExcluded i p && s.fits (s.passDemand p) then
        { s with serving := { s.serving with passes := s.serving.passes.set i { p with started := true, passed := 0, reserved := false } } }.markRan (s.passDemand p)
      else s
    | none => s) s

/-- Whether a due pass switches out a job on its cores now (R342, R343, R345). -/
def State.givesWay (s : State) (h : Nat) : Bool := (SMap.find? s.jobs h).any fun x => !x.switching && !s.pinned h x && s.decantRoom h x

/-- The serving job of a due pass takes its cores, or has the jobs on them switched out (R342, R376). -/
def State.claimCores (s : State) (n : Nat) (j : Job) : State :=
  let hs := s.contending n j
  if j.resident then s
  else if hs.isEmpty && !j.decanted && !s.snapshotClaims (imageCores (s.imageOf n)) n then s.takeCores n
  else (hs.filter s.givesWay).foldl State.switchOut s

/-- The serving jobs of all due passes take their cores. -/
def State.claimPasses (s : State) : State :=
  (s.serving.passes.filter fun p => !p.started && !p.dropped).foldl (fun (s : State) p => match SMap.find? s.jobs p.job with
    | some j => s.claimCores p.job j
    | none => s) s

/-- Dispatch (R359). -/
def State.dispatch (s : State) : State := (State.startAll (s.readyList.length + 1) s.claimPasses.startPasses).noteNoRoom.shareCurbs

/-- CORE_COMMAND_DISPATCH (R359). -/
def execCoreCommandDispatch (s : State) : Answer := whenDue (s.mstate = 2) s s.dispatch

/-! ### Reservations (R360) -/

/-- The charges of the running commands and of a panel's first reservation at a supply code; a pass comes before the commands. -/
def State.reservedCharge (s : State) (p vcode : Nat) : Nat :=
  let rs := (s.reservations.filterMap fun n => (SMap.find? s.commands n).map fun c => (n, c)).filter fun x => quadsOn (s.demand x.2).quads p ≠ 0
  let ps := (s.reservedPasses.map s.passDemand).filter fun d => quadsOn d.quads p ≠ 0
  s.chargesAt p vcode + match ps, rs.foldl (fun l x => s.placeReady x l) [] with
    | d :: _, _ => s.chargeOn p vcode d
    | [], x :: _ => s.chargeOn p vcode (s.demand x.2)
    | [], [] => 0

/-- Whether a reservation stands on a panel, and how many do (R368). -/
def State.reservedOn (s : State) (p : Nat) : Nat :=
  (s.reservations.filter fun n => (SMap.find? s.commands n).any fun c => quadsOn (s.demand c).quads p ≠ 0).length +
  (s.reservedPasses.filter fun x => quadsOn (s.passDemand x).quads p ≠ 0).length

/-- The supply requested of a panel (R355, R360, R366): 0.75 V, or the highest setting below it at which the charges fit the
budget while a reservation stands or PWR_CURB_N is asserted. -/
def State.request (s : State) (p : Nat) : Nat :=
  if s.reservedOn p ≠ 0 || s.power.curb then
    (((List.range 21).reverse).find? fun v => decide (s.reservedCharge p v ≤ (s.panel p).budget)).getD 0
  else 20

/-- Every panel's request renewed. -/
def State.renewRequests (s : State) : State := (List.range 12).foldl (fun (s : State) p => s.setPanel p { s.panel p with target := s.request p }) s

/-- RESERVATION (R360): 512 µs lie between the first boundary that passed a command over and the 65th. -/
def execReservation (cmd : Nat) (s : State) : Answer :=
  match SMap.find? s.commands cmd with
  | some c =>
    let t := { s.onCmd cmd fun c => { c with reserved := true } with reservations := s.reservations ++ [cmd] }
    whenDue (s.mstate = 2 && s.ready cmd c && !c.reserved && 64 < c.passed) s t.renewRequests
  | none => .next s

/-! ### Slices (R342, R343, R345, R348) -/

/-- Whether a contender of a job is ready, or started and yet to come in. -/
def State.contended (s : State) (n : Nat) : Bool :=
  (s.readyList.any fun p => p.2.jobSlot ≠ n && meets (s.coresOf p.2) (imageCores (s.imageOf n))) || s.claimed (imageCores (s.imageOf n)) n

/-- Whether a command that may not be switched out keeps a job on its cores: its JOB_RUN, or a SNAPSHOT on them (R343, R347). -/
def State.keepsOn (s : State) (n : Nat) (j : Job) (p : Nat × Cmd) : Bool :=
  p.2.np && (j.command = some p.1 || (j.command.isNone && (s.startedRun n).any fun x => x.1 = p.1) || (p.2.opcode = 0x14 && p.2.state = .working && meets (s.coresOf p.2) (imageCores (s.imageOf n))))

/-- The end of a job's slice with a contender ready. -/
def State.endSlice (s : State) (n : Nat) (j : Job) : State :=
  if s.pinned n j then
    { s.onJob n fun j => { j with beyond := some (j.beyond.getD j.slice) } with
      commands := s.commands.map fun (p : Nat × Cmd) => if s.keepsOn n j p then (p.1, { p.2 with overrun := true }) else p }
  else if !s.decantRoom n j then
    (s.onJob n fun j => { j with slice := s.time + BitVec.ofNat 64 (s.sliceTicks j.atelier) }).log 0x0150 (some j.atelier) j.stepNow (some j.ctx) [n]
  else (s.switchOut n).dispatch

/-- SLICE_END (R342). -/
def execSliceEnd (job : Nat) (s : State) : Answer :=
  match SMap.find? s.jobs job with
  | some j =>
    let t := s.reach j.slice
    whenDue (s.mstate = 2 && j.resident && !j.serving && !j.switching && s.decantSets j.atelier ≠ 0 && t.contended job) s (t.endSlice job j)
  | none => .next s

/-! ### Stops (R215, R340, R384) -/

/-- Whether a core stands at a tile boundary (R340): its last word closed a level or was a message word, or it waits in WAIT_RECV
or WAIT_SEND, or, running ahead, for the actions of the step before (R213, notes/assumptions/71.md). -/
def State.atBoundary (s : State) (k : Nat) : Bool :=
  let c := s.core k
  let w := c.word c.pc
  c.boundary || ((isMessage 2 w || isMessage 3 w || (isBackward w && s.runsAhead k)) && (beat (s.env k) k false c).isNone)

/-- A JOB_STOP that waited for a serving job's passes completes with the last of them (R375). -/
def State.endServing (s : State) (n : Nat) : State := match (SMap.find? s.jobs n).bind (·.stopping) with
  | some c => if s.serving.passes.any fun p => p.job = n then s else (s.onJob n fun j => { j with stopping := none, resident := false }).finish c 0x00 0
  | none => s

/-- The end of a dropped pass (R215, R384): its cores have stopped and drained; their epochs rise. -/
def State.endDropped (s : State) (p : Pass) : State :=
  let cores := imageCores (s.imageOf p.job)
  if p.dropped && cores.all fun k => (s.core k).job ≠ some p.job || s.stoppedCore k then
    let s1 := (cores.filter fun k => (s.core k).job = some p.job).foldl (fun (s : State) k =>
      let t := s.raiseEpoch k
      t.setCore k { t.core k with run := .idle, step := none, staged := [] }) (s.endStop p.job (cores.headD 0))
    let s2 := { s1 with serving := { s1.serving with passes := s1.serving.passes.erase p } }
    s2.endServing p.job
  else s

/-- A core whose every operation has ended: no token stands in its array, whose cells are writable, and its vector engine is free (R95, R140,
R141, R144). -/
def Core.quiet (c : Core) : Core := { c with vectorFree := 0, array := { c.array with occupied := none, last0 := none, last1 := none } }

/-- A core stopped (R340): its beats go on without issue until every operation has landed, every weight row is written and every packer
row is read (R94, R141, R237). -/
def State.standStill (s : State) (k : Nat) : State :=
  let c := s.core k
  match drain (s.env k) (drainFuel c) c.beat ⟨c, []⟩ with
    | (i, true) => s.settleCore k i
    | (i, false) => s.settleCore k { i with core := { i.core.quiet with run := .stopped } }

/-- STOP_AT_TILE_BOUNDARY (R340). -/
def State.stopCore (s : State) (k : Nat) : State :=
  let t := (if (s.core k).run = .running && s.mustStop k && s.atBoundary k then s.standStill k else s).settleStop k
  match (t.core k).job with
  | some n => (t.serving.passes.filter fun p => p.job = n && p.dropped).foldl State.endDropped t
  | none => t

def execStopAtTileBoundary (core : Nat) (s : State) : Answer := onUnit "core" core 10368 (.next (s.stopCore core))

/-! ### Decant (R106, R110, R344, R345) -/

/-- Whether a job's cores have all stopped and drained, and no SNAPSHOT runs on them (R343). -/
def State.jobStopped (s : State) (n : Nat) : Bool :=
  !s.snapshotOn (imageCores (s.imageOf n)) && (imageCores (s.imageOf n)).all fun k => (s.core k).job ≠ some n || s.stoppedCore k

/-- A core's decant record (R344): all but its word store and its staged lines; chunks its packers have still to encode are the packers'. -/
def Core.decantRecord (c : Core) : Core := { c with words := [], staged := [], packers := [] }

/-- A decant record's bytes (R344): scratch, accumulator buffer, tile registers, and the 16 KiB of the state record, whose layout the
spec leaves open: free values, from the `n`-th on. -/
def Core.recordBytes (c : Core) (n : Nat) : Bytes :=
  c.mem.readBytes 0 0x40000 ++ c.mem.readBytes accBase 0x10000 ++ c.tiles.readBytes 0 0x8000 ++ (List.range 256).flatMap fun i => leBytes 64 (Config.freeValue (n + i)).toNat

/-- The regions of an atelier's decant area in the order in which they are taken (R446): global region numbers. -/
def AtelierEntry.decantRegions (e : AtelierEntry) : List Nat :=
  (List.range e.decant).filterMap fun n =>
    let before := AtelierEntry.decantTaken e n 0 [0, 0, 0, 0]
    let after := AtelierEntry.decantTaken e (n + 1) 0 [0, 0, 0, 0]
    ((List.range 4).find? fun d => before.getD d 0 < after.getD d 0).map fun d => 65536 * d + (e.regions.getD d (0, 0)).1 + before.getD d 0

/-- The decant sets of an atelier that hold a record. -/
def State.setsHeld (s : State) (a : Nat) : List Nat := (List.filter (fun (p : Nat × Job) => p.2.atelier = a) s.jobs).flatMap fun p => p.2.sets.map Prod.snd
/-- The lowest set that holds none. -/
def State.freeSet (s : State) (a : Nat) : Nat := ((List.range (s.decantSets a)).find? fun i => !(s.setsHeld a).contains i).getD 0

/-- A record written into its decant set (R344, R345): the area's regions follow one another, die after die, and every line is written
under the lease's keys and counters (R404). -/
def State.writeSet (s : State) (a i : Nat) (bs : Bytes) : State :=
  let rs := (s.entry a).elim [] AtelierEntry.decantRegions
  (List.range 2944).foldl (fun (s : State) k =>
    let at_ := 376832 * i + 128 * k
    s.writeLine (rs.getD (at_ / 2 ^ 21) 0) (at_ % 2 ^ 21 / 128) (slice bs (128 * k) 128)) s

/-- A record kept, the free values of its bytes spent. -/
def State.keepRecord (s : State) (n k : Nat) (r : Core) : State := { s with decants := SMap.put s.decants (16384 * n + k) r, freed := s.freed + 256 }

/-- One core of a job saved (R344, R345). -/
def State.saveCore (s : State) (n : Nat) (j : Job) (k : Nat) : State :=
  let i := s.freeSet j.atelier
  ((s.writeSet j.atelier i ((s.core k).recordBytes s.freed)).onJob n fun j => { j with sets := SMap.put j.sets k i }).keepRecord n k (s.core k).decantRecord

/-- The core after its record is saved: its windows, holding registers and binding slots are in the record and empty here (R110; DESIGN
CHOICE, notes/assumptions/62.md). -/
def Core.emptied (c : Core) : Core := { c with run := .idle, windows := [], holding := [], binds := [], staged := [], job := none, step := none }

/-- A job that was to be switched out and stays (R345): its stopped cores run on, its slice is extended. -/
def State.keepCores (s : State) (n : Nat) : State := match SMap.find? s.jobs n with
  | none => s
  | some j =>
    let s1 := (imageCores (s.imageOf n)).foldl (fun (s : State) k =>
      if (s.core k).job = some n && (s.core k).run = .stopped then s.setCore k { s.core k with run := .running } else s) s
    (s1.onJob n fun j => { j with switching := false, slice := s.time + BitVec.ofNat 64 (s.sliceTicks j.atelier) }).log 0x0150 (some j.atelier) j.stepNow (some j.ctx) [n]

/-- A job's cores saved (R344), where a set is still free for each (R345): a job that finds none keeps its cores. -/
def State.saveJob (s : State) (n : Nat) : State := match SMap.find? s.jobs n with
  | none => s
  | some j =>
    if !s.decantRoom n j then (s.endStop n ((imageCores (s.imageOf n)).headD 0)).keepCores n
    else
    let s1 := ((imageCores (s.imageOf n)).filter fun k => (s.core k).job = some n).foldl (fun (s : State) k =>
      (s.saveCore n j k).setCore k (s.core k).emptied) (s.endStop n ((imageCores (s.imageOf n)).headD 0))
    let s2 := s1.onJob n fun j => { j with resident := false, switching := false, decanted := true }
    match j.command with
    | some c => s2.onCmd c fun c => { c with state := .running }
    | none => s2

/-- A line of a decant set as a restore reads it (R402); what it takes from a line that cannot be read is left open (DESIGN CHOICE,
notes/assumptions/96.md). -/
def State.setLine (s : State) (a i k : Nat) : Bytes :=
  let at_ := 376832 * i + 128 * k
  let g := ((s.entry a).elim [] AtelierEntry.decantRegions).getD (at_ / 2 ^ 21) 0
  if s.lineBad g (at_ % 2 ^ 21 / 128) then unreadable (2 ^ 21 * g + at_ % 2 ^ 21) 64 ++ unreadable (2 ^ 21 * g + at_ % 2 ^ 21 + 64) 64
  else s.gddr.readBytes (2 ^ 21 * g + at_ % 2 ^ 21) 128

/-- `n` bytes of a decant set from byte `from_` on, both multiples of 128. -/
def State.setBytes (s : State) (a i from_ n : Nat) : Bytes := (List.range (n / 128)).flatMap fun k => s.setLine a i (from_ / 128 + k)

/-- The core memories that a decant set holds (R344): scratch, the accumulator buffer and the tile registers. -/
def State.setMemories (s : State) (a i : Nat) (c : Core) : Core :=
  { c with mem := (Memory.writeBytes [] 0 (s.setBytes a i 0 0x40000)).writeBytes accBase (s.setBytes a i 0x40000 0x10000)
           tiles := Memory.writeBytes [] 0 (s.setBytes a i 0x50000 0x8000) }

/-- A core restored (R106, R113, R344): its memories from the set's lines and the state record under a raised epoch, the word store from the
image. -/
def State.restoreCore (s : State) (n k : Nat) : State :=
  match SMap.find? s.decants (16384 * n + k), SMap.find? s.jobs n with
  | none, _ | _, none => s
  | some r, some j =>
    let c := { (s.setMemories j.atelier (SMap.get 0 j.sets k) r) with epoch := (s.core k).epoch + 1, packers := (s.core k).packers.map fun p => { p with start := 2 ^ 48 }, words := j.words (s.imageOf n) (r.step.getD 0) r.stage, run := (if r.run = RunState.stopped then RunState.running else r.run) }
    { s with decants := SMap.del s.decants (16384 * n + k) }.setCore k c

/-- The route registers of a core rewritten with the present epochs (R110). -/
def State.reroute (s : State) (n k : Nat) : State :=
  let b := s.imageOf n
  let c := s.core k
  let step := fun (m : SMap Word64) (i : Nat) =>
    if bitAt (stageField b c.stage 192 32) i then
      let v := (SMap.get 0 m i).toNat
      SMap.set 0 m i (BitVec.ofNat 64 (v / 2 ^ 32 * 2 ^ 32 + (s.core (v % 2 ^ 14)).epoch.toNat * 65536 + v % 65536))
    else m
  s.setCore k { c with sregs := (List.range 32).foldl step c.sregs }

/-- A decanted job restored. -/
def State.restoreJobCores (s : State) (n : Nat) : State :=
  let cores := imageCores (s.imageOf n)
  let s1 := cores.foldl (fun (s : State) k => s.restoreCore n k) s
  let s2 := cores.foldl (fun (s : State) k => s.reroute n k) s1
  ((s2.onJob n fun j => { j with resident := true, decanted := false, sets := [] }).startSlice n)

/-- Whether a job has been chosen to come in: its JOB_RUN has been started, or a pass of it is due. -/
def State.chosen (s : State) (n : Nat) (j : Job) : Bool :=
  !j.resident && (((s.runOf n j).any fun c => c.state = .working) || (s.startedRun n).isSome ||
    s.serving.passes.any fun p => p.job = n && !p.dropped)

/-- Whether a pass of a job is due. -/
def State.passDue (s : State) (n : Nat) : Bool := s.serving.passes.any fun p => p.job = n && !p.dropped

/-- Whether another job's start comes before a job's own on the same cores (R338, R342): passes come first. -/
def State.precedes (s : State) (m n : Nat) : Bool :=
  if s.passDue n then false
  else s.passDue m || match s.startedRun m, s.startedRun n with
    | some a, some b => s.comesBefore a b
    | some _, none => true
    | none, _ => false

/-- Whether a job is the first, in the order of R338, of those to come in on its cores (R342). -/
def State.firstIn (s : State) (n : Nat) : Bool :=
  s.jobs.all fun (p : Nat × Job) => p.1 = n || !s.chosen p.1 p.2 || !meets (imageCores (s.imageOf p.1)) (imageCores (s.imageOf n)) || !s.precedes p.1 n

/-- The incoming job of a switch, restored or to be launched, once its cores are free. -/
def State.bringIn (s : State) (n : Nat) : State := match SMap.find? s.jobs n with
  | none => s
  | some j =>
    if s.chosen n j && s.firstIn n && (s.contending n j).isEmpty && !s.snapshotClaims (imageCores (s.imageOf n)) n then (if j.decanted then s.restoreJobCores n else s.takeCores n).startPasses.shareCurbs else s

/-- DECANT (R344): the outgoing job is saved, where it is to be switched out and has stopped; the incoming job is brought in. The segments'
tags are taken and dropped within it, so it waits for one (R194; DEDUCED, notes/assumptions/68.md). -/
def execDecant (outgoing incoming : Nat) (s : State) : Answer :=
  let out := (SMap.find? s.jobs outgoing).any fun j => j.resident && j.switching
  whenDue (s.mstate = 2 && s.freeModuleTag.isSome && (!out || s.jobStopped outgoing)) s ((if out then s.saveJob outgoing else s).bringIn incoming)

end Sys2Proof.Machine
end

