-- ==== Sys2Proof/Machine/Flacon.lean ====
section
/-!
DEFINITION. The flacon (R351 to R369): windows and budgets, voltage, heat and classes, cold start, adjacent panels and PWR_CURB_N.
-/
namespace Sys2Proof.Machine

/-! ### Sensors -/

/-- Whether a junction reading is valid (R357): from −20 °C to 150 °C. -/
def junctionValid (t : Int) : Bool := decide (-320 ≤ t) && decide (t ≤ 2400)

/-- T_m from the readings (R357): the highest valid one; the last figure stands where none is valid. -/
def measured (old : Int) (ts : List Int) : Int := match ts.filter junctionValid with
  | [] => old
  | t :: rest => rest.foldl max t

/-- What a panel takes from its sensors and its fit at a window boundary (R352, R357, R362). -/
def Panel.sense (x : Panel) (cold : Bool) (p : PanelSense) : Panel :=
  let own := !cold && x.ran
  let counts := decide (0 < x.budget) && decide (x.budget ≤ 4 * x.metered)
  { x with tmeas := measured x.tmeas p.junctions, rate := p.rate, supply := p.supply, blind := decide (16 < (p.junctions.filter fun t => !junctionValid t).length)
           coolant := if own then p.coolant else 640, resistance := if own then p.resistance else 200, share := if own then p.share else 3196
           used := x.metered, metered := 0, withheld := false, throttles := (x.withheld :: x.throttles).take 125, loaded := x.loaded + bit counts }

/-- Every panel's sensors taken, with the entry of a panel that loses too many (R357). -/
def State.senseAll (s : State) (senses : List PanelSense) : State :=
  (List.range 12).foldl (fun (s : State) p =>
    let x := s.panel p
    let q := senses.getD p default
    let y := x.sense s.flacon.cold q
    let t := s.setPanel p y
    if y.blind && !x.blind then t.note 0x0250 [p, (q.junctions.filter fun t => !junctionValid t).length] else t) s

/-! ### Classes (R358) -/

/-- The bounds under which T_p stands, less 3 °C, with since when. -/
def Panel.cooling (x : Panel) (now : Word64) (tp : Int) : SMap Word64 :=
  (List.range 3).filterMap fun c => if tp < classBound c - 48 && decide (x.tmeas ≤ 1600) then some (c, SMap.get now x.coolSince c) else none

/-- A panel's T_p and class at a window (R357, R358): it rises at once. -/
def Panel.heat (x : Panel) (now : Word64) (drops : Nat) : Panel :=
  let tp := x.predict drops
  let c := max (classOf tp x.tmeas) (if x.blind then 2 else 0)
  { x with tpred := tp, cls := max x.cls c, coolSince := x.cooling now tp, slowed := decide (1600 < x.tmeas) && decide (3 ≤ max x.cls c) }

/-- Every panel's heat. -/
def State.heatAll (s : State) : State :=
  (List.range 12).foldl (fun (s : State) p => s.setPanel p ((s.panel p).heat s.time (s.chargesAt p (s.panel p).vcode))) s

/-- CLASS_FALLBACK (R358): 1 ms below a lower class's bound less 3 °C. -/
def State.fallBack (s : State) (p : Nat) : State :=
  let x := s.panel p
  let beyond := (List.range x.cls).find? fun c => (!x.blind || 2 ≤ c) && (SMap.find? x.coolSince c).any fun t => decide (t.toNat + ticksMs ≤ s.time.toNat)
  s.setPanel p { x with cls := beyond.getD x.cls, slowed := x.slowed && decide (3 ≤ beyond.getD x.cls) }

def execClassFallback (panel : Nat) (s : State) : Answer :=
  let x := s.panel panel
  let since := if x.blind && x.cls ≤ 2 then none else SMap.find? x.coolSince (x.cls - 1)
  onUnit "panel" panel 12
    (match since with
     | some t => whenDue (x.cls ≠ 0) s ((s.reach (t + BitVec.ofNat 64 ticksMs)).fallBack panel)
     | none => .next s)

/-! ### Adjacent panels (R17, R363, R365) -/

/-- The 16 adjacent pairs (R17). -/
def adjacentPairs : List (Nat × Nat) :=
  [(0, 1), (1, 2), (2, 3), (8, 9), (9, 10), (10, 11), (4, 5), (6, 7), (0, 4), (4, 8), (1, 5), (5, 9), (2, 6), (6, 10), (3, 7), (7, 11)]

/-- The panels adjacent to one. -/
def neighbours (p : Nat) : List Nat := adjacentPairs.filterMap fun x => if x.1 = p then some x.2 else if x.2 = p then some x.1 else none

/-- The difference of a pair as its supply monitors and sensors report it: in mV and in 1/16 °C. -/
def State.apart (s : State) (a b : Nat) : Nat × Nat :=
  (((s.panel a).supply - (s.panel b).supply) + ((s.panel b).supply - (s.panel a).supply), ((s.panel a).tmeas - (s.panel b).tmeas).natAbs)

/-- A pair's clamp after a window (R365): made where the difference passes 150 mV or 30 °C, its calm timed. -/
def State.clampPair (s : State) (x : Nat × Nat) : State :=
  let (v, t) := s.apart x.1 x.2
  let calm := fun (c : Clamp) => { c with calm := if v ≤ 100 && t ≤ 320 then some (c.calm.getD s.time) else none }
  if s.flacon.clamps.any fun c => (c.low, c.high) = x then
    { s with flacon := { s.flacon with clamps := s.flacon.clamps.map fun c => if (c.low, c.high) = x then calm c else c } }
  else if 150 < v || 480 < t then ({ s with flacon := { s.flacon with clamps := s.flacon.clamps ++ [(⟨x.1, x.2, none⟩ : Clamp)] } }).note 0x0251 [x.1, x.2]
  else s

/-- Whether a panel is held under R365. -/
def State.clamped (s : State) (p : Nat) : Bool := s.flacon.clamps.any fun c => c.low = p || c.high = p

/-- CLAMP_RELEASE (R365). -/
def execClampRelease (panel other : Nat) (s : State) : Answer :=
  let mine := fun (c : Clamp) => (c.low = panel && c.high = other) || (c.low = other && c.high = panel)
  onUnit "panel" panel 12 (onUnit "panel" other 12
    (match (s.flacon.clamps.find? mine).bind (·.calm) with
     | some t => let u := s.reach (t + BitVec.ofNat 64 ticksMs); .next { u with flacon := { u.flacon with clamps := u.flacon.clamps.filter (!mine ·) } }
     | none => .next s))

/-! ### Voltages (R355, R358, R363, R365) -/

/-- The voltage ceiling of a panel's class, as a supply code (R358). -/
def Panel.ceiling (x : Panel) : Nat := [30, 25, 15].getD x.cls (x.vcode - 5)

/-- The setting a panel is to have: its request under its ceiling. -/
def State.wanted (s : State) (p : Nat) : Nat := min (s.panel p).target (s.panel p).ceiling

/-- The lower voltage of every clamped pair a panel is in (R365): its own where it is in none. -/
def State.heldAt (s : State) (p : Nat) : Nat :=
  (s.flacon.clamps.filter fun c => c.low = p || c.high = p).foldl (fun v c => min v (min (s.panel c.low).vcode (s.panel c.high).vcode)) (s.panel p).vcode

/-- A setting moved toward the one wanted: a fall of at most 50 mV, a rise of at most 10 mV (R355). -/
def stepCode (v want : Nat) : Nat := if want < v then max want (v - 5) else min want (v + 1)

/-- A panel's next setting: a clamped panel falls to the lower voltage of its pair at once, however far, and does not rise (R365). -/
def State.nextCode (s : State) (p : Nat) : Nat :=
  let v := s.heldAt p
  if s.clamped p then (if s.wanted p < v then max (s.wanted p) (v - 5) else v) else stepCode (s.panel p).vcode (s.wanted p)

/-- Settings lowered until no adjacent pair lies more than 150 mV apart (R363); `fuel` rounds. -/
def narrow : Nat → List Nat → List Nat
  | 0, vs => vs
  | fuel + 1, vs => narrow fuel ((List.range 12).map fun p => (neighbours p).foldl (fun v q => min v (vs.getD q 0 + 15)) (vs.getD p 0))

/-- The settings of the window (R355). -/
def State.setVoltages (s : State) : State :=
  let vs := narrow 12 ((List.range 12).map s.nextCode)
  (List.range 12).foldl (fun (s : State) p => s.setPanel p { s.panel p with vcode := vs.getD p 0 }) s

/-! ### Budgets (R351, R352, R363, R366) -/

/-- The cap in force in units of 10 W (R351). -/
def State.capInForce (s : State) : Nat :=
  let cap := (s.installation.map (·.cap)).getD 56
  let cold := if s.flacon.cold then 6 * cap else 10 * cap
  let curb := if s.power.curb then 5 * cap else cold
  let sag := if s.flacon.vin < 4670 then 12 * s.flacon.vin / 100 else curb
  min (min cold curb) sag

/-- The largest budget that keeps a panel's predicted junction at a limit (R363), in drops. -/
def Panel.cooledBudget (x : Panel) (limit : Int) : Nat :=
  if x.resistance = 0 || x.share = 0 then 4000
  else ((65536 * (limit - x.tmeas) / (x.share : Int) + x.tmeas - x.coolant) * 1000 / (2 * (x.resistance : Int))).toNat

/-- A panel's budget limited so that its predicted junction stays within 30 °C of every neighbour's. -/
def State.limitBudget (s : State) (p b : Nat) : Nat :=
  (neighbours p).foldl (fun b q => min b ((s.panel p).cooledBudget ((s.panel q).tpred + 480))) b

/-- What a panel drew in the window before at its whole token share: that of a window under a curb fraction taken as that fraction of it (R366;
DESIGN CHOICE, notes/assumptions/69.md). -/
def State.uncurbed (s : State) (p : Nat) : Nat :=
  let x := s.panel p
  if s.power.curb then 256 * x.used / max 1 x.curb else x.used

/-- The window's budgets (R352), and what its curb fractions are made from (R366). -/
def State.divide (s : State) : State :=
  let inforce := s.capInForce
  let e := 80 * inforce
  let pool := e - s.flacon.other
  let busy := (List.range 12).filter s.active
  let idle := ((List.range 12).filter fun p => !s.active p).map fun p => (s.panel p).used + 64
  let share := min 4000 ((pool - idle.sum) / max 1 busy.length)
  (List.range 12).foldl (fun (t : State) p =>
    let x := s.panel p
    let b := if s.active p then share else x.used + 64
    t.setPanel p { x with budget := s.limitBudget p b, whole := s.uncurbed p }) { s with flacon := { s.flacon with inforce := inforce, energy := e } }

/-! ### The window boundary -/

/-- A pass due and not started in this window: after 64 windows, at the 65th boundary, it takes its reservation, for which the table has no command (R360;
DESIGN CHOICE, notes/assumptions/70.md). -/
def Pass.over_ (p : Pass) : Pass :=
  if p.started || p.dropped then p else { p with passed := p.passed + 1, reserved := p.reserved || decide (64 < p.passed + 1) }

/-- Ready core commands not started in this window are passed over; a window in which one is not ready ends its row of windows (R360). -/
def State.passOver (s : State) : State :=
  { s with commands := s.commands.map fun (p : Nat × Cmd) => (p.1, { p.2 with passed := if s.ready p.1 p.2 then p.2.passed + 1 else 0 })
           serving := { s.serving with passes := s.serving.passes.map Pass.over_ } }

/-- The start of the next window (R351): the next multiple of 800 ticks. -/
def State.nextWindow (s : State) : Word64 := BitVec.ofNat 64 ((max s.time.toNat (s.flacon.stamp.toNat + 1) + 799) / 800 * 800)

/-! ### The records (R368, R369) -/

/-- A panel's record as a window writes it: 32 B. -/
def State.panelNow (s : State) (p : Nat) : Bytes :=
  let x := s.panel p
  record 32 [(0, 4, p), (4, 2, x.cls), (6, 1, bit (s.clamped p)), (8, 5, x.vcode), (16, 16, x.rate), (32, 16, unsignedOf 16 x.tmeas),
    (48, 16, unsignedOf 16 x.tpred), (64, 32, x.budget), (96, 32, x.used), (128, 16, s.reservedOn p), (144, 16, (x.throttles.filter id).length)]

/-- The fewest loaded windows any panel has counted (R362, R369). -/
def State.leastLoaded (s : State) : Nat := min 25000 (listMin 0 ((List.range 12).map fun p => (s.panel p).loaded))

/-- The module record as a window writes it: 32 B. -/
def State.moduleNow (s : State) : Bytes :=
  let f := s.flacon
  record 32 [(0, 7, (s.installation.map (·.cap)).getD 0), (7, 1, bit f.cold), (8, 1, bit s.power.curb), (16, 16, f.inforce), (32, 32, f.energy),
    (64, 32, f.other), (96, 32, s.leastLoaded), (128, 64, f.curbs.toNat), (192, 64, f.stamp.toNat)]

/-- Every record rewritten. -/
def State.keepRecords (s : State) : State :=
  (List.range 12).foldl (fun (t : State) p => t.setPanel p { t.panel p with record := s.panelNow p }) { s with flacon := { s.flacon with record := s.moduleNow } }

/-- The hottest GDDR7 readout (R190, R486). -/
def State.hottestGddr (s : State) : Int := (List.range 32).foldl (fun t c => max t (s.channel c).temp) (s.channel 0).temp

/-- The detectors' reports taken (R433), and SB_POWER's readings where a millisecond of the timestamp has begun since the last (R484, R486;
DESIGN CHOICE, notes/assumptions/108.md). -/
def State.readSensors (s : State) (m : ModuleSense) : State :=
  if s.power.readAt.toNat / ticksMs < s.time.toNat / ticksMs then
    { s with power := { s.power with readings := ⟨m.vin, m.iin, m.pin, m.tstage, s.hottestGddr, m.thub, m.tport⟩, readAt := s.time, watch := m.watch } }
  else { s with power := { s.power with watch := m.watch } }

/-- A window's boundary (R351 to R365). -/
def State.window (s : State) (senses : List PanelSense) (m : ModuleSense) : State :=
  let t := (s.reach s.nextWindow).readSensors m
  let s1 := { t with flacon := { t.flacon with other := m.other, vin := m.vin, stamp := t.time } }
  let s2 := (((s1.senseAll senses).heatAll).setVoltages).divide.shareCurbs
  let s3 := adjacentPairs.foldl State.clampPair s2
  (((if s3.mstate = 2 then s3.dispatch else s3).passOver).renewRequests).keepRecords

/-- WINDOW_BOUNDARY (R352): while no installation section is in force (in reset, before a boot, in recovery) the sensors and detectors
are read and nothing more (R433, R484). -/
def execWindowBoundary (senses : List PanelSense) (sense : ModuleSense) (s : State) : Answer :=
  whenDue s.power.rails s (if s.installation.isSome then s.window senses sense else (s.reach s.nextWindow).readSensors sense)

/-- The beats a panel's cores stand at. -/
def State.beatsOn (s : State) (p : Nat) : SMap Nat := ((List.filter (fun (c : Nat × Core) => panelOf c.1 = p) s.cores).map fun c => (c.1, c.2.beat)).filter fun c => c.2 ≠ 0

/-- ENERGY_METERING (R354): `drops` since the last metering, `draw` the energy of 250 ns at the present draw. -/
def execEnergyMetering (panel drops draw : Nat) (s : State) : Answer :=
  let x := s.panel panel
  let n := x.metered + drops
  onUnit "panel" panel 12 (whenDue s.power.rails s
    (s.setPanel panel { x with metered := n, marks := s.beatsOn panel, withheld := x.withheld || (s.flacon.energy ≠ 0 && decide (x.budget ≤ n + draw)) }))

/-- COLD_START_END (R362): every panel that has run a core command has counted 25,000 loaded windows. -/
def execColdStartEnd (s : State) : Answer :=
  let ran := (List.range 12).filter fun p => (s.panel p).ran
  whenDue (s.flacon.cold && !ran.isEmpty && ran.all fun p => decide (25000 ≤ (s.panel p).loaded)) s { s with flacon := { s.flacon with cold := false } }

/-! ### PWR_CURB_N (R366, R367, R478) -/

/-- PWR_CURB_N_ASSERT: tokens are cut to the curb fractions; the budget follows from the next window on. -/
def execPwrCurbNAssert (s : State) : Answer :=
  whenDue ((s.mstate = 1 || s.mstate = 2) && s.power.rails && !s.power.curb) s
    { s with power := { s.power with curb := true }, flacon := { s.flacon with curbs := s.flacon.curbs + 1, curbAt := s.time } }

/-- PWR_CURB_N_RELEASE (R367). -/
def execPwrCurbNRelease (s : State) : Answer :=
  whenDue s.power.curb s
    ({ s with power := { s.power with curb := false } }.note 0x0153 [s.flacon.curbAt.toNat, 10 * (s.time.toNat - s.flacon.curbAt.toNat)])

end Sys2Proof.Machine
end

