-- ==== Sys2Proof/Machine/Lease.lean ====
section
/-!
DEFINITION. Leases (R396, R409 to R414, R429 to R432): commissions, wrapped shares, the provenance record, and the end of a
lease with its drain.
-/
namespace Sys2Proof.Machine

/-! ### Commissions (R412) -/

/-- Bytes of a commission before its first signature, and in all. -/
def commissionBody (npatron nprog : Nat) : Nat := 128 + 96 * npatron + 32 * nprog
def commissionSize (npatron nprog : Nat) : Nat := commissionBody npatron nprog + 64 * npatron

/-- A patron's public key, and its signature over D_c. -/
def commissionKey (b : Bytes) (p : Nat) : Bytes := slice b (128 + 96 * p) 64
def commissionSig (b : Bytes) (npatron nprog p : Nat) : Bytes := slice b (commissionBody npatron nprog + 64 * p) 64

/-- A commission as read from `b` (R412). -/
def commissionOf (b : Bytes) : Commission :=
  let np := bitsIn b 48 8
  let ng := bitsIn b 64 16
  ⟨slice b 0 (commissionSize np ng), np, bitsIn b 56 8, bitsIn b 80 16, BitVec.ofNat 64 (bitsIn b 96 64), bitsIn b 160 1 = 1, bitsIn b 161 1 = 1, bitsIn b 162 1 = 1,
    bitsIn b 163 1 = 1, bitsIn b 164 1 = 1, (List.range np).map (commissionKey b), (List.range ng).map fun i => slice b (128 + 96 * np + 32 * i) 32, sm3 (slice b 0 (commissionBody np ng))⟩

/-- Whether a commission is well formed (R412), its reserved bits apart (R11; notes/assumptions/81.md), and no two patron keys are equal
(R411). -/
def commissionGood (b : Bytes) : Bool :=
  let f := bitsIn b
  let np := f 48 8
  let ng := f 64 16
  f 0 32 = 0x4D4D4F43 && f 32 16 = 1 && decide (1 ≤ np) && decide (np ≤ 16) && decide (1 ≤ f 56 8) && decide (f 56 8 ≤ np) && decide (1 ≤ ng) && decide (ng ≤ 4096) &&
  decide (1 ≤ f 80 16) && f 192 32 = commissionSize np ng && decide (commissionSize np ng ≤ b.length) && distinct ((List.range np).map (commissionKey b))

/-- Whether every patron's signature over D_c verifies (R411). -/
def commissionSigned (b : Bytes) : Bool :=
  let c := commissionOf b
  (List.range c.npatron).all fun p => sm2Verify (ofBytes512 (commissionKey b p)) (ofBytes512 (commissionSig b c.npatron (bitsIn b 64 16) p)) c.digest

/-! ### The provenance record (R429, R430) -/

/-- Whether the record carries program entries (R430). -/
def State.fullRecord (s : State) (a : Nat) : Bool :=
  ((s.lease a).commission.any (·.full)) || s.jobs.any fun (p : Nat × Job) => p.2.atelier = a && decide (1 < (palettesOf p.2.members).length)

/-- The atelier's loaded images in slot order. -/
def State.imagesOf (s : State) (a : Nat) : List (Nat × Image) :=
  List.filter (fun p : Nat × Image => (SMap.find? s.contexts p.2.ctx).any fun c => c.atelier = a) s.images

/-- The weight digest of a job's committed step (R430). -/
def State.weightDigest (s : State) (j : Job) : Bytes := sm3 (j.owners.flatMap fun d => (s.layerWeights j d).flatMap fun w => leBytes 2 (w / 65536))

/-- A program entry (R430). -/
def State.programEntry (s : State) (n : Nat) (i : Image) : Bytes :=
  let j := SMap.find? s.jobs n
  let known := j.bind fun j => j.committed.map fun m => (j, m)
  imageDigest i.bytes ++ (match known with
    | some (j, _) => s.weightDigest j
    | none => List.replicate 32 0) ++ record 32 [(0, 64, (known.map Prod.snd).getD (2 ^ 64 - 1)), (64, 12, n), (76, 1, bit j.isSome)]

/-- The fixed part of the record (R429). -/
def State.recordHead (s : State) (a nentry length : Nat) (nonce : Bytes) : Bytes :=
  let l := s.lease a
  let k := s.inForce.getD ⟨0, 0, [], [], [], [], [], []⟩
  let ateliers := (s.installation.map (·.ateliers)).getD []
  let per := fun (lo width : Nat) (f : AtelierEntry → Nat) => (List.range ateliers.length).filterMap fun i => (ateliers[i]?).map fun e => (lo + width * i, width, f e)
  record 1024 ([(0, 32, 0x56525041), (32, 16, 1), (48, 16, nentry), (64, 32, length), (96, 16, Config.partCode), (112, 8, Config.stepping), (128, 128, Config.serial.toNat),
    (256, 256, ofLe (sm3 (bytes512 attestPublic))), (512, 256, ofLe (sm3 (bytes512 linkPublic))), (768, 256, ofLe k.fwSec), (1024, 256, ofLe k.fwHub),
    (1280, 256, ofLe k.fwPort), (1536, 256, ofLe k.fwCore), (1792, 256, ofLe k.digest), (2048, 32, k.seq.toNat), (2080, 1, k.bank), (2081, 1, bit s.testPort.unlocked),
    (2082, 7, s.debugCount), (2089, 6, s.tamperCount), (2096, 4, a), (2100, 5, s.nat)] ++
    per 2112 48 (fun e => e.qmask.toNat) ++ per 2880 16 (fun e => (e.regions.map Prod.snd).sum) ++ per 3136 16 (·.tagq) ++
    [(3392, 32, l.serial.toNat), (3424, 16, s.lnum a), (3440, 2, l.state), (3442, 5, l.shares.length), (3447, 1, bit l.noresidue), (3448, 1, bit (s.fullRecord a)),
    (3456, 256, ofLe ((l.commission.map (·.digest)).getD [])), (3712, 512, ofLe l.wrapPub), (4224, 128, ofLe nonce), (4352, 64, s.time.toNat), (4416, 10, s.gidx),
    (4432, 16, Config.attestCert.length)])

/-- The whole record (R429), signed with the next draw. -/
def State.provenance (s : State) (a : Nat) (nonce : Bytes) : Bytes :=
  let entries := if s.fullRecord a then s.imagesOf a else []
  let length := 1024 + 96 * entries.length + 64 + Config.attestCert.length
  let body := s.recordHead a entries.length length nonce ++ entries.flatMap fun p => s.programEntry p.1 p.2
  body ++ bytes512 (sm2Sign Config.attestPrivate (sm3 body) s.drawBits) ++ Config.attestCert

/-- The record written to a host buffer by an admin command. -/
def State.writeProvenance (s : State) (c : Cmd) (addr : Nat) (nonce : Bytes) : State :=
  match SMap.find? s.queues c.queue with
  | some q => if q.closing then s.drew else (s.hostWrite (s.cmdTag c).1 (s.cmdTag c).2 addr (s.provenance c.atelier nonce)).drew
  | none => s.drew

/-! ### LEASE_BEGIN -/

/-- A running LEASE_BEGIN with its act (R410). -/
def onLease (s : State) (n act : Nat) (f : Cmd → State) : Answer := onCommand s n 0x20 fun c => if c.pay 0 2 = act then f c else s

/-- A proposal accepted (R411): serial, wrapping key pair, the record with a zero nonce, the proposed state. -/
def State.propose (s : State) (c : Cmd) (b : Bytes) : State :=
  let key := s.drawBits
  let l : Lease := ⟨0, s.leaseSerial + 1, some (commissionOf b), key, bytes512 (sm2Public key), [], none, [], [], false⟩
  let s1 := { s.drew with leaseSerial := s.leaseSerial + 1 }.setLease c.atelier l
  let s2 := s1.writeProvenance c (c.pay 64 64 + roundUp (c.pay 128 32) 64) (List.replicate 16 0)
  s2.setLease c.atelier { l with state := 1 }

/-- PROPOSE (R301, R410, R411): where the host refuses the record's write, the command fails and the lease stays as it is. -/
def execLeasePropose (cmd : Nat) (host : HostAnswer) (s : State) : Answer :=
  onLease s cmd 0 fun c =>
    match host.read with
    | none => s.finish cmd 0x0E 0
    | some bs =>
      let b := padTo (c.pay 128 32) bs
      let t := s.readFor c (c.pay 64 64) (c.pay 128 32)
      if (s.lease c.atelier).state ≠ 0 then s.refuse cmd 0x0C 0
      else if !commissionGood b then t.refuse cmd 0x07 0
      else if !commissionSigned b then t.refuse cmd 0x0C 0
      else if host.refused then t.finish cmd 0x0E 0
      else (t.propose c b).finish cmd 0x00 (s.leaseSerial + 1).toNat

/-- The share a wrapped share carries (R413, R414), where it is accepted. -/
def State.unwrapShare (s : State) (a p : Nat) (w : Bytes) : Option Bytes :=
  let l := s.lease a
  match l.commission with
  | none => none
  | some c =>
    let signed := sm2Verify (ofBytes512 (c.keys.getD p [])) (ofBytes512 (slice w 161 64)) (sm3 (slice w 0 161 ++ c.digest ++ sm3 l.wrapPub))
    if l.state ≠ 1 || c.npatron ≤ p || (SMap.find? l.shares p).isSome || !signed then none
    else match sm2Decrypt l.wrapKey (slice w 0 161) with
      | some t => if slice t 32 16 = slice c.digest 0 16 && leAt t 48 1 = p && leAt t 49 4 = l.serial.toNat then some (slice t 0 32) else none
      | none => none

/-- The keys of a lease (R396): `boot` is K_boot. -/
def leaseKeys (boot : Bytes) (a : Nat) (l : Lease) (c : Commission) : LeaseKeys :=
  let shares := (List.range c.npatron).map fun p => SMap.get [] l.shares p
  let cs := deriveKey (shares.flatMap id) "commission" c.digest 32
  ⟨deriveKey boot "lease memory" (leBytes 1 a ++ leBytes 4 l.serial.toNat) 32, cs, deriveKey cs "link" c.digest 32,
    (List.range c.npatron).map fun p => deriveKey (shares.getD p []) "parcel" (c.digest ++ leBytes 1 p) 16⟩

/-- K_boot (R396). -/
def State.bootKey (s : State) : Bytes := deriveKey (beBytes 32 Config.memoryRootKey.toNat) "AZP boot" (s.nonce.getD []) 32

/-- A share taken into the lease; at the last one the lease becomes active (R414). -/
def State.takeShare (s : State) (a p : Nat) (share : Bytes) : State :=
  let l := { s.lease a with shares := SMap.put (s.lease a).shares p share }
  match l.commission with
  | none => s
  | some c =>
    if l.shares.length < c.npatron then s.setLease a l
    else { s with erasedLeases := s.erasedLeases.drop c.lnum, leaseDrops := s.leaseDrops.filter fun x => x.1 ≠ c.lnum }.setLease a
      { l with state := 2, wrapKey := 0, wrapPub := [], keys := some (leaseKeys s.bootKey a l c) }

/-- SHARE (R413, R414). -/
def execLeaseShare (cmd : Nat) (host : Option Bytes) (s : State) : Answer :=
  onLease s cmd 1 fun c =>
    match host with
    | none => s.finish cmd 0x0E 0
    | some w =>
      let t := s.readFor c (c.pay 64 64) (c.pay 128 32)
      match s.unwrapShare c.atelier (c.pay 2 4) w with
      | some share => (t.takeShare c.atelier (c.pay 2 4) share).finish cmd 0x00 0
      | none => t.refuse cmd 0x0C 0

/-- REPORT (R301, R410, R414); `refused` says that the host refuses the write (notes/assumptions/80.md). -/
def execLeaseReport (cmd : HostWrite) (s : State) : Answer :=
  onLease s cmd.cmd 2 fun c =>
    let nonce := leBytes 16 (c.pay 160 128)
    if (s.lease c.atelier).state = 1 || (s.lease c.atelier).state = 2 then
      if cmd.refused then s.finish cmd.cmd 0x0E 0 else (s.writeProvenance c (c.pay 64 64) nonce).finish cmd.cmd 0x00 (s.provenance c.atelier nonce).length
    else s.refuse cmd.cmd 0x0C 0

/-! ### The end of a lease (R431) -/

/-- Every core of an atelier stopped, its role epoch raised (R431 step 1). -/
def State.stopCores (s : State) (a : Nat) : State :=
  ((List.range 10368).filter fun n => s.holds a n).foldl State.raiseEpoch (s.onCores a Core.halted)

/-- Work of an atelier dropped without a word to its peers (R431, R432). -/
def State.dropWork (s : State) (a : Nat) : State :=
  let s1 := ((s.dropChunks a).dropSegments a).dropRequests a
  { s1 with collectives := s1.collectives.filter (fun c => (SMap.find? s1.jobs c.job).all fun j => j.atelier ≠ a)
            serving := { s1.serving with held := s1.serving.held.filter (fun q => q.atelier ≠ a), passes := s1.serving.passes.filter fun q => q.atelier ≠ a }
            opened := s1.opened.filter (fun q => q.atelier ≠ a), reservations := s1.reservations.filter fun n => (SMap.find? s1.commands n).isSome
            jobs := s1.jobs.map fun (p : Nat × Job) => if p.2.atelier = a then (p.1, { p.2.discarded with unsound := p.2.unsound }) else p }

/-- Steps 1 and 2 of R431, and the drain begun. -/
def State.beginEnd (s : State) (a cmd : Nat) : State :=
  let lnum := s.lnum a
  let s1 := (s.discardCommands a (some cmd)).stopCores a
  let s2 := ((s1.dropWork a).setLease a { (s1.lease a).erased with state := 3 }).forgetLease (s.lease a) lnum
  let s4 := s2.onCmd cmd fun c => { c with state := .working }
  (s4.setAtelier a { s4.atelier a with draining := some (s4.time + BitVec.ofNat 64 (10 * ticksMs)) }).settleDrain a

/-- LEASE_END (R431, R432). -/
def execLeaseEnd (cmd : Nat) (s : State) : Answer :=
  onCommand s cmd 0x21 fun c =>
    if (s.lease c.atelier).state = 1 || (s.lease c.atelier).state = 2 then s.beginEnd c.atelier cmd else s.refuse cmd 0x0C 0

/-- Tags of an atelier freed wherever a packet still carries them (R431 step 3). -/
def State.stripTags (s : State) (mine : Nat → Bool) : State :=
  let keep := fun (t : Option Nat) => t.filter (!mine ·)
  let port := fun (p : DarvalPort) => { p with unacked := p.unacked.map (fun (c : Codeword) => { c with tags := c.tags.filter (!mine ·) })
                                               queues := p.queues.map fun (q : Nat × List Waiting) => (q.1, q.2.map fun w => { w with tag := keep w.tag }) }
  { s with ports := s.ports.map (fun (p : Nat × DarvalPort) => (p.1, port p.2))
           sessions := s.sessions.map fun (p : Nat × Session) => (p.1, ({ p.2 with stored := p.2.stored.map fun x => { x with tag := keep x.tag } } : Session)) }

/-- Tags still held at the bound freed, their engines reset (R431 step 3, R450 step 4). -/
def State.boundDrain (s : State) (a : Nat) : State :=
  let n := s.tagsOf a
  let s1 := s.stripTags fun t => (SMap.find? s.tags t).any fun x => x.atelier = some a
  let s2 := { s1 with tags := s1.tags.filter (fun p => p.2.atelier ≠ some a), dmas := s1.dmas.filter fun p => p.2.atelier ≠ a }
  ((if n = 0 then s2 else s2.noteIn a 0x0270 [n]).settleDrain a)

/-- TAG_DRAIN_BOUND (R431, R450): 10 ms after a drain began. -/
def execTagDrainBound (atelier : Nat) (s : State) : Answer :=
  match (s.atelier atelier).draining with
  | some t => onUnit "atelier" atelier 16 (.next ((s.reach t).boundDrain atelier))
  | none => onUnit "atelier" atelier 16 (.next s)

end Sys2Proof.Machine
end

