-- ==== Sys2Proof/Machine/Sideband.lean ====
section
/-!
DEFINITION. The I3C sideband and the flash window (R482 to R488).
-/
namespace Sys2Proof.Machine

/-- Whether the sideband target answers (R474, R475, R480). -/
def State.answers (s : State) : Bool := s.power.rails && !s.power.trip

/-- Whether the target answers a transfer to its dynamic address (R482; PRESUMED, notes/assumptions/100.md). -/
def State.addressed (s : State) : Bool := s.answers && s.sideband.address.isSome

/-- One answer of the target joined to those given. -/
def State.answer (s : State) (bs : Bytes) : State := { s with sideband := { s.sideband with answers := s.sideband.answers ++ [bs] } }

/-- Whether the flash window is available (R487): from the bank selection on, and never with the tamper fuse blown. -/
def State.windowOpen (s : State) : Bool := !s.tamperFuse && (s.mstate = 2 || s.mstate = 3 || s.mstate = 4 || (s.mstate = 1 && 2 ≤ s.phase))

/-- Whether a bank is the one the running boot selected (R443). -/
def State.selected (s : State) (b : Bool) : Bool := s.inForce.any fun x => x.bank = bit b

/-- Whether a page of a bank is erased (R487). -/
def pageErased (m : Memory) (off : Nat) : Bool := (bankBytes m off 4096).all fun b => b = 0xFF

/-- FW_CTRL's 64 bits as they read (R11, R487): reserved bits read as zero. -/
def Sideband.ctrl (x : Sideband) : Nat := packFields [(0, 2, x.op), (2, 1, bit x.bank), (63, 1, bit x.go)]
/-- FW_ADDR's 64 bits as they read. -/
def Sideband.addr (x : Sideband) : Nat := packFields [(0, 32, x.pageOffset.toNat)]

/-- A go (R487, R488): busy while an operation runs, which is left as it is; else the operation starts, or its refusal stands in
FW_STATUS. -/
def State.flashGo (s : State) : State :=
  let x := s.sideband
  let put := fun (r : Nat) => { s with sideband := { x with go := false, result := r, check := 0 } }
  if x.running then { s with sideband := { x with result := 0x01 } }
  else if !s.windowOpen then put 0x07
  else if x.op = 0 then put 0x00
  else if s.selected x.bank then put 0x02
  else if x.op = 2 && !(x.pageOffset.toNat % 4096 = 0 && x.pageOffset.toNat < 33554432) then put 0x03
  else if x.op = 2 && !pageErased (s.bank x.bank) x.pageOffset.toNat then put 0x04
  else { s with sideband := { x with go := true, task := some ⟨x.op, x.bank, x.pageOffset.toNat, if x.op = 2 then x.buffer.readBytes 0 4096 else []⟩ } }

/-- One register byte replaced in a 64-bit value. -/
def putByte (v i : Nat) (b : Byte) : Nat := v / 2 ^ (8 * i + 8) * 2 ^ (8 * i + 8) + b.toNat * 2 ^ (8 * i) + v % 2 ^ (8 * i)

/-- One byte written at a sideband offset (R483, R484, R487): writes outside the flash window are ignored. -/
def State.sideWrite (s : State) (off : Nat) (b : Byte) : State :=
  let x := s.sideband
  if 0x200 ≤ off && off < 0x208 then
    let v := putByte x.ctrl (off - 0x200) b
    let t := { s with sideband := { x with op := v % 4, bank := v / 4 % 2 = 1 } }
    if off = 0x207 && b.toNat ≥ 128 then t.flashGo else t
  else if 0x208 ≤ off && off < 0x210 then
    let v := putByte x.addr (off - 0x208) b
    { s with sideband := { x with pageOffset := BitVec.ofNat 32 v } }
  else if 0x1000 ≤ off && off < 0x2000 then { s with sideband := { x with buffer := x.buffer.write (off - 0x1000) b } }
  else s

/-- A private write (R483): the offset, then the bytes that follow. -/
def State.privateWrite (s : State) (bytes : Bytes) : State :=
  let off := ofLe (bytes.take 2)
  let t := ((bytes.drop 2).zipIdx).foldl (fun s p => s.sideWrite ((off + p.2) % 65536) p.1) s
  { t with sideband := { t.sideband with offset := (off + (bytes.length - 2)) % 65536 } }

/-- I3C_PRIVATE_WRITE. -/
def execI3cPrivateWrite (bytes : Bytes) (s : State) : Answer :=
  whenDue (s.addressed && decide (2 ≤ bytes.length) && decide (bytes.length ≤ 4098)) s (s.privateWrite bytes)

/-- A flash operation cut off leaves its bank undefined (R488): free values stand in it, and the bank fails. -/
def State.cutFlash (s : State) : State :=
  match s.sideband.task.filter fun k => k.op = 1 || k.op = 2 with
  | some k =>
    let junk := (List.range 33554432).map fun i => (Config.freeValue (s.freed + i)).setWidth 8
    ({ s with freed := s.freed + 33554432 }.setBank k.bank (Memory.writeBytes [] 0 junk)).setBroken k.bank true
  | none => s

/-- A recovery write carried out (R444): the image read, verified, written to bank A, and the boot begun. A window operation that this boot
cuts off on bank B leaves that bank undefined (notes/assumptions/26.md). -/
def State.recoveryWritten (s : State) (port : Nat) (addr len : Word64) (x : RecoveryImage) : State :=
  let put := fun (t : State) (r : Nat) => { t with recovery := SMap.set Recovery.reset t.recovery port ⟨addr, len, false, r, none⟩ }
  if 33554432 < len.toNat then put s 0x01
  else match x.image with
    | none => put s 0x02
    | some bs =>
      if imageCheck (padTo len.toNat bs) ≠ 0 then put s 0x01
      else if x.success then put { (({ s.cutFlash with flashA := bankOf (padTo len.toNat bs) }.setBroken false false).stopped 1) with phase := 0 } 0x00
      else put s 0x03

/-- Whether a window operation on bank A is in progress, for which a recovery write waits (R488). -/
def State.bankABusy (s : State) : Bool := s.sideband.task.any fun k => !k.bank

/-- RECOVERY_WRITE (R444, R488): a go on the recovery function; one that finds a window operation on bank A under way waits for its end. -/
def execRecoveryWrite (port : Nat) (addr len : Word64) (image : Option Bytes) (success : Bool) (s : State) : Answer :=
  let t := if s.bankABusy then { s with recovery := SMap.set Recovery.reset s.recovery port ⟨addr, len, true, (SMap.get Recovery.reset s.recovery port).status, some ⟨image, success⟩⟩ }
    else s.recoveryWritten port addr len ⟨image, success⟩
  onUnit "port" port 2 (whenDue (s.mstate = 4 && !(SMap.get Recovery.reset s.recovery port).go) s (announce s t))

/-- Recovery writes that waited for a window operation carried out (R488). -/
def State.settleRecovery (s : State) : State :=
  [0, 1].foldl (fun t p =>
    let r := SMap.get Recovery.reset t.recovery p
    match r.waiting with
    | some x => if t.bankABusy then t else announce t (t.recoveryWritten p r.addr r.len x)
    | none => t) s

/-- A finished flash operation (R487). -/
def State.flashDone (s : State) (result check : Nat) : State :=
  { s with sideband := { s.sideband with task := none, go := false, result := result, check := check } }.settleRecovery

/-- A row of the flash operation in progress: its effect, where the operation is the row's. -/
def onFlash (s : State) (op : Nat) (f : FlashTask → State) : Answer := match s.sideband.task with
  | some k => whenDue (k.op = op) s (f k)
  | none => .next s

/-- ERASE_BANK (R487). -/
def execEraseBank (success : Bool) (s : State) : Answer :=
  onFlash s 1 fun k => if success then ((s.setBank k.bank []).setBroken k.bank false).flashDone 0x00 0 else s.flashDone 0x05 0

/-- PROGRAM_PAGE (R487). -/
def execProgramPage (success : Bool) (s : State) : Answer :=
  onFlash s 2 fun k =>
    if success then (s.setBank k.bank ((s.bank k.bank).writeBytes k.page (k.data.map fun b => ~~~b))).flashDone 0x00 0 else s.flashDone 0x05 0

/-- VERIFY_BANK (R443, R487). -/
def execVerifyBank (s : State) : Answer :=
  onFlash s 3 fun k => if s.bankCheck k.bank = 0 then s.flashDone 0x00 0 else s.flashDone 0x06 (s.bankCheck k.bank)

/-- ENEC (R482, R485): bit 0 of the event byte enables in-band interrupts. -/
def execEnec (events : Byte) (s : State) : Answer :=
  whenDue s.answers s (if events.getLsbD 0 then { s with sideband := { s.sideband with enabled := true } } else s)
/-- DISEC (R482, R485). -/
def execDisec (events : Byte) (s : State) : Answer :=
  whenDue s.answers s (if events.getLsbD 0 then { s with sideband := { s.sideband with enabled := false } } else s)
/-- RSTDAA (R482). -/
def execRstdaa (s : State) : Answer := whenDue s.answers s { s with sideband := { s.sideband with address := none } }
/-- ENTDAA (R482): a target without a dynamic address takes one. -/
def execEntdaa (address : Nat) (s : State) : Answer :=
  whenDue (s.answers && s.sideband.address.isNone) s { s with sideband := { s.sideband with address := some address } }
/-- SETDASA (R482): a target without a dynamic address takes one where its static address is named. -/
def execSetdasa (call : StaticCall) (s : State) : Answer :=
  whenDue (s.answers && s.sideband.address.isNone && call.static = s.sideband.static) s { s with sideband := { s.sideband with address := some call.address } }
/-- SETNEWDA (R482): a new dynamic address. -/
def execSetnewda (address : Nat) (s : State) : Answer :=
  whenDue (s.answers && s.sideband.address.isSome) s { s with sideband := { s.sideband with address := some address } }
/-- GETMWL (R483): 4,098 B, most significant byte first as the I3C specification sends it. -/
def execGetmwl (s : State) : Answer := whenDue s.addressed s (s.answer (beBytes 2 4098))
/-- GETMRL (R483): 512 B. -/
def execGetmrl (s : State) : Answer := whenDue s.addressed s (s.answer (beBytes 2 512))
/-- GETPID (R482): the identifier is the part's own, not given by the spec. -/
def execGetpid (s : State) : Answer := whenDue s.addressed s (s.answer (beBytes 6 Config.i3cPid.toNat))
/-- GETBCR (R482). -/
def execGetbcr (s : State) : Answer := whenDue s.addressed s (s.answer [Config.i3cBcr])
/-- GETDCR (R482). -/
def execGetdcr (s : State) : Answer := whenDue s.addressed s (s.answer [Config.i3cDcr])
/-- GETSTATUS (R482). -/
def execGetstatus (s : State) : Answer := whenDue s.addressed s (s.answer (beBytes 2 (Config.i3cStatus (!s.sideband.raised.isEmpty)).toNat))
/-- GETMXDS (R482). -/
def execGetmxds (s : State) : Answer := whenDue s.addressed s (s.answer (beBytes 2 Config.i3cMxds.toNat))

end Sys2Proof.Machine
end

