-- ==== Sys2Proof/Machine/Power.lean ====
section
/-!
DEFINITION. Power, resets, the boot, alerts, tamper and debug unlock (R392, R433 to R438, R442, R444, R471 to R480).
-/
namespace Sys2Proof.Machine

/-- Where the boot that follows a reset stands (R477, R485): mstate and phase, with RESET_N held or not. With the tamper fuse blown it ends at
order 1 of R438. -/
def State.beginning (s : State) (held : Bool) : Nat × Nat := if s.tamperFuse then (5, bit (!held)) else (bit (!held), 0)

/-- POWER_UP (R475): the input has risen to 48 V; the rails come up and the sideband answers. With RESET_N
already released the boot follows; otherwise the module stays in reset. Only the flash and the fuses have kept their state (R474). The
timestamp counter starts at 0 (DESIGN CHOICE,
notes/assumptions/6.md: R8, R471 and R475 give no start). -/
def poweredUp (s : State) (released : Bool) : State :=
  let m := s.beginning (!released)
  let t := s.stopped m.1
  { t with phase := m.2, time := 0, power := { Power.reset with held := !released, faultN := s.tamperFuse }, sideband := Sideband.reset
           testPort := ⟨none, false, false, false, s.testPort.sent⟩, panels := [], flacon := Flacon.reset }

/-- POWER_UP (R473, R475): not while a trip is latched, nor after a power-loss shutdown before the input has been below 5 V for 100 ms
(notes/assumptions/105.md). -/
def execPowerUp (rise : PowerRise) (s : State) : Answer :=
  whenDue (!s.power.rails && !s.power.trip && (!s.power.off || decide (100 ≤ rise.low))) s (poweredUp s rise.released)

/-- Steps 1 to 3 of R473: all work stops, every volatile key is erased, both PCI Express links go down. -/
def State.shutDown (s : State) (m : Nat) : State := (s.cutFlash.eraseKeys).stopped m

/-- POWER_LOSS_SHUTDOWN (R473): the rails come down and the module stays off. -/
def execPowerLossShutdown (s : State) : Answer :=
  let t := s.shutDown 0
  whenDue s.power.rails s { t with power := { t.power with rails := false, off := true, curb := false, faultN := false } }

/-- RESET_N_ASSERTION (R477): held in reset with the rails up; FAULT_N stays as it is until the boot (R479). -/
def execResetNAssertion (s : State) : Answer :=
  let t := s.shutDown (if s.tamperFuse then 5 else 0)
  whenDue (s.power.rails && !s.power.trip) s (announce s { t with power := { t.power with held := true, curb := false } })

/-- Whether readings take a thermal trip (R480), in 1/16 °C. -/
def tripTaken : TripSource → Bool
  | .junctions p a b => decide (p < 12) && decide (1840 ≤ a) && decide (1840 ≤ b) && decide (a ≤ 2400) && decide (b ≤ 2400)
  | .hubOrPort t => decide (1840 ≤ t)
  | .gddr c t => decide (c < 32) && decide (1680 ≤ t)
  | .stage t => decide (2000 ≤ t)

/-- THERMAL_TRIP (R480): only the trip latch stays powered, holding THERM_TRIP_N and FAULT_N asserted. -/
def execThermalTrip (source : TripSource) (s : State) : Answer :=
  let t := s.shutDown 0
  whenDue (s.power.rails && tripTaken source) s { t with power := { t.power with rails := false, trip := true, faultN := true, curb := false } }

/-- TRIP_LATCH_RELEASE (R474): below 5 V the latch releases and the module is wholly off. -/
def execTripLatchRelease (s : State) : Answer :=
  whenDue s.power.trip s { s with power := { s.power with trip := false, faultN := false } }

/-- The tamper fuse blown (R434, R479) in a boot that has reached an order of R438 (R485). -/
def State.tampered (s : State) (order : Nat) : State :=
  let t := s.shutDown 5
  { t with phase := order, tamperFuse := true, power := { t.power with faultN := true, curb := false } }

/-- Whether what the security processor watches is an environmental tamper event (R433). -/
def tamperTaken : TamperSource → Bool
  | .rail ns => decide (2 ≤ ns)
  | .light => true
  | .sensor t => decide (t < -640) || decide (2240 < t)

/-- ENVIRONMENTAL_TAMPER_EVENT (R433), taken on any of the detectors' reports that raises one: keys erased, FAULT_N asserted, the
module reset, one tamper fuse burnt; a boot follows. The reports it was taken on are spent (notes/assumptions/94.md). -/
def execEnvironmentalTamperEvent (s : State) : Answer :=
  let m := s.beginning s.power.held
  let t := s.shutDown m.1
  whenDue (s.power.rails && s.power.watch.any tamperTaken) s
    (announce s { t with phase := m.2, tamperCount := if s.tamperCount < 32 then s.tamperCount + 1 else s.tamperCount, power := { t.power with faultN := true, watch := [] } })

/-- MESH_BREAK (R434): the tamper fuse is blown for good. -/
def execMeshBreak (s : State) : Answer := whenDue s.power.rails s (announce s (s.tampered s.phase))

/-- The bank the security processor boots from (R442), and whether the newer one failed. -/
def State.selectBank (s : State) : Option (Bool × Bool) :=
  let newer := newerB (bankSeq s.flashA) (bankSeq s.flashB)
  if s.bankCheck newer = 0 then some (newer, false) else if s.bankCheck (!newer) = 0 then some (!newer, true) else none

/-- The recovery function's account of the banks (R444). -/
def State.bankReasons (s : State) : Nat × Nat :=
  (if bankErased s.flashA && !s.flashBroken.1 then 0 else s.bankCheck false, if bankErased s.flashB && !s.flashBroken.2 then 0 else s.bankCheck true)

/-- Darval ports at a boot: those with an expected peer train once LREF is locked (R259, R275, R471). -/
def State.startPorts (s : State) : State :=
  (List.range 20).foldl (fun s p => if (s.peerEntry p).isSome && s.power.lref then s.setPort p { s.port p with state := .training, stage := 1, since := s.time } else s) s

/-- Configuration spaces answered in full (R438 order 4, R476): of each port whose PERST_N is released. -/
def State.answerPorts (s : State) : State := [0, 1].foldl (fun s p => s.setPcie p { s.pciePort p with answered := !(s.pciePort p).perst }) s

/-- Orders 1 to 5 of R438 from a bank: keys of this boot, firmware, installation section, cleared SRAM. -/
def State.bootFrom (s : State) (b older : Bool) : State :=
  let image := bankImage (s.bank b)
  let inst := match sectionNamed image 0x10 with
    | some x => installationOf (slice image x.off x.len)
    | none => installationOf []
  let r := (s.stopped 1).drew.answerPorts
  let t := { r with phase := 5, nonce := some (s.drawBytes 32), unwrapped := true, inForce := some (inForceOf b image), installation := some inst
                    power := { r.power with held := false, faultN := false }, sideband := { r.sideband with static := inst.i3caddr } }
  let t1 := t.startPorts
  if older then t1.note 0x0280 [bit !b, s.bankCheck !b] else t1

/-- The recovery function (R444): neither bank is valid. -/
def State.recover (s : State) : State :=
  let r := (s.stopped 4).drew.answerPorts
  { r with phase := 2, nonce := some (s.drawBytes 32), unwrapped := true, bankFails := s.bankReasons, power := { r.power with held := false, faultN := false, curb := false } }

/-- MODULE_BOOT (R437, R438): a boot, at the release of RESET_N or right after power-up, tamper or unlock. A broken mesh blows
the tamper fuse; a failed self-test raises the module fault 0x0801 (R19, R439). -/
def State.booted (s : State) (meshWhole : Bool) (failed : Option (Nat × Nat)) : State :=
  if s.tamperFuse || !meshWhole then s.tampered 1
  else match s.selectBank with
    | none => s.recover
    | some (b, older) => match failed with
      | some (kind, unit) => (s.bootFrom b older).faultModule 0x0801 [kind, unit]
      | none => s.bootFrom b older

/-- Whether a boot is due. -/
def State.bootDue (s : State) : Bool := s.power.rails && !s.power.trip && (s.power.held || (s.mstate = 1 && s.phase = 0))

def execModuleBoot (meshWhole : Bool) (failed : Option (Nat × Nat)) (s : State) : Answer :=
  whenDue s.bootDue s (announce s (s.booted meshWhole failed))

/-- GDDR7_TRAINING_COMPLETE (R455): the early ring is copied into the blotter in the module area; where training failed, the
early ring serves for the rest of the boot. -/
def execGddr7TrainingComplete (success : Bool) (s : State) : Answer :=
  whenDue (s.mstate = 1 && s.phase = 5 && s.training.isNone) s
    { s with training := some success, blotter := if success then { s.blotter with inArea := true } else s.blotter }

/-- FIRMWARE_WATCHDOG (R459): module fault 0x0880. -/
def execFirmwareWatchdog (die : Nat) (s : State) : Answer :=
  onUnit "die" die 5 (whenDue (s.mstate = 1 || s.mstate = 2) s (s.faultModule 0x0880 [die]))

/-- LREF_LOCK (R471): the counter changes source without a step, and ports begin bring-up. -/
def execLrefLock (s : State) : Answer :=
  let t := { s with power := { s.power with lref := true } }
  whenDue (s.power.rails && !s.power.lref) s
    ((List.range 20).foldl (fun s p => if (s.peerEntry p).isSome && (s.port p).state = .absent then s.setPort p { s.port p with state := .training, stage := 1, since := s.time } else s) t)

/-- LREF_LOSS (R471): the counter runs from the internal oscillator; ports that are up go down, and what waits for a rail destination follows
it (R260, R270). -/
def execLrefLoss (s : State) : Answer :=
  let t := { s with power := { s.power with lref := false } }
  whenDue (s.power.rails && s.power.lref) s
    (((List.range 20).foldl (fun s p =>
      if (s.port p).state = .up then s.setPort p { s.port p with state := .retraining, since := s.time }
      else if (s.port p).state = .training then s.setPort p { s.port p with state := .absent } else s) t).follow 15)

/-- DEBUG_CHALLENGE (R435): a fresh 16-byte challenge. -/
def execDebugChallenge (s : State) : Answer :=
  let c := s.drawBytes 16
  whenDue s.power.rails s { s.drew with testPort := { s.testPort with challenge := some c, sent := s.testPort.sent ++ [c] } }

/-- Whether a debug token is accepted (R436). -/
def State.tokenGood (s : State) (t : Bytes) : Bool :=
  bitsIn t 0 32 = 0x54474244 && bitsIn t 32 16 = 1 &&
  slice t 8 16 = leBytes 16 Config.serial.toNat && slice t 24 32 = sm3 (beBytes 64 attestPublic.toNat) && s.testPort.challenge = some (slice t 56 16) &&
  decide (s.debugCount < 64) && sm3 (beBytes 64 Config.debugPublic.toNat) = Config.debugDigest && sm2Verify Config.debugPublic (BitVec.ofNat 512 (ofBe (slice t 128 64))) (sm3 (slice t 0 128))

/-- DEBUG_TOKEN (R436): an accepted token ends everything, burns a debug fuse and boots afresh with its scopes open; a token
that fails spends its challenge and changes nothing else. -/
def execDebugToken (token : Bytes) (s : State) : Answer :=
  let m := s.beginning s.power.held
  let t := s.shutDown m.1
  let unlocked := announce s { t with phase := m.2, debugCount := s.debugCount + 1, testPort := ⟨none, bitsIn token 48 1 = 1, bitsIn token 49 1 = 1, true, s.testPort.sent⟩ }
  whenDue (s.power.rails && s.testPort.challenge.isSome) s
    (if s.tokenGood token then unlocked else { s with testPort := { s.testPort with challenge := none } })

/-- CORE_STATE_ACCESS (R435): what a debugger with core scope does. -/
def Core.debugged (c : Core) : CoreAccess → Core
  | .writeSreg k v => { c with sregs := SMap.set 0 c.sregs (k % 32) v }
  | .writeLocal a bs => { c with mem := c.mem.writeBytes (a % 2 ^ 20) bs }
  | .writeTile a bs => { c with tiles := c.tiles.writeBytes (a % 32768) bs }
  | .writeWord a w => { c with words := SMap.put c.words (a % 2048) w }
  | .writePc a => { c with pc := a % 2048 }
  | .goOn => if c.run = .broken then { c with run := .running } else c
  | _ => c

/-- What a debugger reads of a core. -/
def Core.shown (c : Core) : CoreAccess → Option Bytes
  | .readSreg k => some (leBytes 8 (SMap.get 0 c.sregs (k % 32)).toNat)
  | .readLocal a n => some (c.mem.readBytes (a % 2 ^ 20) n)
  | .readTile a n => some (c.tiles.readBytes (a % 32768) n)
  | .readWord a => some (leBytes 32 (c.word (a % 2048)).toNat)
  | .readPc => some (leBytes 2 c.pc)
  | _ => none

def execCoreStateAccess (core : Nat) (access : CoreAccess) (s : State) : Answer :=
  let t := s.setCore core ((s.core core).debugged access)
  onUnit "core" core 10368 (whenDue (s.testPort.core && (s.mstate = 1 || s.mstate = 2 || s.mstate = 3)) s
    { t with testPort := { t.testPort with sent := t.testPort.sent ++ ((s.core core).shown access).toList } })

end Sys2Proof.Machine
end

