-- ==== Sys2Proof/Machine/ScalarWords.lean ====
section
/-!
DEFINITION. The scalar opcodes of R163: one meaning per opcode, each one whole beat of the named core (notes/assumptions/4.md).
-/
namespace Sys2Proof.Machine

/-- SCALAR_NOP (R163): Scalar opcode 0x00 issues no scalar operation. -/
def execScalarNop (core : Nat) (upset : Bool) (s : State) : Answer := wordRow core upset s (isScalar 0x00)

/-- SCALAR_ADD (R163): 64-bit wrapping addition (`scalarAdd`). -/
def execScalarAdd (core : Nat) (upset : Bool) (s : State) : Answer := wordRow core upset s (isScalar 0x01)

/-- SCALAR_SUB (R163): 64-bit wrapping subtraction (`scalarSub`). -/
def execScalarSub (core : Nat) (upset : Bool) (s : State) : Answer := wordRow core upset s (isScalar 0x02)

/-- SCALAR_AND (R163): 64-bit bitwise AND (`scalarAnd`). -/
def execScalarAnd (core : Nat) (upset : Bool) (s : State) : Answer := wordRow core upset s (isScalar 0x03)

/-- SCALAR_OR (R163): 64-bit bitwise OR (`scalarOr`). -/
def execScalarOr (core : Nat) (upset : Bool) (s : State) : Answer := wordRow core upset s (isScalar 0x04)

/-- SCALAR_XOR (R163): 64-bit bitwise XOR (`scalarXor`). -/
def execScalarXor (core : Nat) (upset : Bool) (s : State) : Answer := wordRow core upset s (isScalar 0x05)

/-- SCALAR_SHL (R163): 64-bit left shift by b mod 64 (`scalarShl`). -/
def execScalarShl (core : Nat) (upset : Bool) (s : State) : Answer := wordRow core upset s (isScalar 0x06)

/-- SCALAR_SHR (R163): 64-bit logical right shift by b mod 64 (`scalarShr`). -/
def execScalarShr (core : Nat) (upset : Bool) (s : State) : Answer := wordRow core upset s (isScalar 0x07)

/-- SCALAR_ASR (R163): 64-bit arithmetic right shift by b mod 64 (`scalarAsr`). -/
def execScalarAsr (core : Nat) (upset : Bool) (s : State) : Answer := wordRow core upset s (isScalar 0x08)

/-- SCALAR_CEQ (R163): 1 if sa equals b, else 0 (`scalarCeq`). -/
def execScalarCeq (core : Nat) (upset : Bool) (s : State) : Answer := wordRow core upset s (isScalar 0x09)

/-- CLTU (R163): 1 if sa is below b unsigned, else 0 (`scalarCltu`). -/
def execCltu (core : Nat) (upset : Bool) (s : State) : Answer := wordRow core upset s (isScalar 0x0A)

/-- CLTS (R163): 1 if sa is below b signed, else 0 (`scalarClts`). -/
def execClts (core : Nat) (upset : Bool) (s : State) : Answer := wordRow core upset s (isScalar 0x0B)

/-- SCALAR_MIN (R163): Signed minimum (`scalarMin`). -/
def execScalarMin (core : Nat) (upset : Bool) (s : State) : Answer := wordRow core upset s (isScalar 0x0C)

/-- SCALAR_MAX (R163): Signed maximum (`scalarMax`). -/
def execScalarMax (core : Nat) (upset : Bool) (s : State) : Answer := wordRow core upset s (isScalar 0x0D)

/-- SCALAR_SEL (R163): sa if s[sd] is non-zero, else b (`scalarSel`). -/
def execScalarSel (core : Nat) (upset : Bool) (s : State) : Answer := wordRow core upset s (isScalar 0x0E)

/-- SCALAR_MOV (R163): Moves b into the destination register (`scalarMov`). -/
def execScalarMov (core : Nat) (upset : Bool) (s : State) : Answer := wordRow core upset s (isScalar 0x0F)

/-- SCALAR_MUL (R163): Low 64 bits of sa × b (`scalarMul`). -/
def execScalarMul (core : Nat) (upset : Bool) (s : State) : Answer := wordRow core upset s (isScalar 0x11)

/-- MULHU (R163): High 64 bits of the unsigned product (`scalarMulhu`). -/
def execMulhu (core : Nat) (upset : Bool) (s : State) : Answer := wordRow core upset s (isScalar 0x12)

/-- MULHS (R163): High 64 bits of the signed product (`scalarMulhs`). -/
def execMulhs (core : Nat) (upset : Bool) (s : State) : Answer := wordRow core upset s (isScalar 0x13)

/-- SCALAR_LD (R164): Loads 8 B from local address s[sa] + imm18 into s[sd] (`scalarLd`). -/
def execScalarLd (core : Nat) (upset : Bool) (s : State) : Answer := wordRow core upset s (isScalar 0x18)

/-- SCALAR_ST (R164): Stores s[sd] to local address s[sa] + imm18 (`scalarSt`). -/
def execScalarSt (core : Nat) (upset : Bool) (s : State) : Answer := wordRow core upset s (isScalar 0x19)

/-- MVG (R165): Moves b into a generator's base, current address or stride, pausing that generator's run-ahead (`scalarMvg`). -/
def execMvg (core : Nat) (upset : Bool) (s : State) : Answer := wordRow core upset s (isScalar 0x1C)

/-- FADD (R164): FP64 addition (`scalarFadd`). -/
def execFadd (core : Nat) (upset : Bool) (s : State) : Answer := wordRow core upset s (isScalar 0x20)

/-- FSUB (R164): FP64 subtraction (`scalarFsub`). -/
def execFsub (core : Nat) (upset : Bool) (s : State) : Answer := wordRow core upset s (isScalar 0x21)

/-- FMUL (R164): FP64 multiplication (`scalarFmul`). -/
def execFmul (core : Nat) (upset : Bool) (s : State) : Answer := wordRow core upset s (isScalar 0x22)

/-- SCALAR_FMA (R164): FP64 fused multiply-add with one rounding (`scalarFma`). -/
def execScalarFma (core : Nat) (upset : Bool) (s : State) : Answer := wordRow core upset s (isScalar 0x23)

/-- FMIN (R163): FP64 minimum (`scalarFmin`). -/
def execFmin (core : Nat) (upset : Bool) (s : State) : Answer := wordRow core upset s (isScalar 0x24)

/-- FMAX (R163): FP64 maximum (`scalarFmax`). -/
def execFmax (core : Nat) (upset : Bool) (s : State) : Answer := wordRow core upset s (isScalar 0x25)

/-- FCLT (R163): 1 if sa is below sb as FP64, else 0 (`scalarFclt`). -/
def execFclt (core : Nat) (upset : Bool) (s : State) : Answer := wordRow core upset s (isScalar 0x26)

/-- F64TO32 (R163): Converts FP64 to FP32 in the low 32 bits (`scalarF64to32`). -/
def execF64to32 (core : Nat) (upset : Bool) (s : State) : Answer := wordRow core upset s (isScalar 0x27)

/-- F32TO64 (R163): Converts the FP32 in the low 32 bits to FP64 (`scalarF32to64`). -/
def execF32to64 (core : Nat) (upset : Bool) (s : State) : Answer := wordRow core upset s (isScalar 0x28)

end Sys2Proof.Machine
end

