-- ==== Sys2Proof/Machine/Serve.lean ====
section
/-!
DEFINITION. Serving (R370 to R389, R332): queries and their occurrences, the batch boundary, passes, deadlines, clean starts, replies,
snapshots in service, and JOB_STOP.
-/
namespace Sys2Proof.Machine

/-! ### Query headers and replies -/

/-- Fields of a query header (R378). -/
def Query.f (q : Query) (lo len : Nat) : Nat := bitsIn q.header lo len
def Query.seqid (q : Query) : Nat := q.f 0 32
def Query.op (q : Query) : Nat := q.f 32 2
def Query.prio (q : Query) : Nat := q.f 34 3
def Query.npages (q : Query) : Nat := q.f 37 5
def Query.rmax (q : Query) : Nat := q.f 200 12

/-- Whether a query's header keeps the limits of R378, its reserved bits apart (R11; notes/assumptions/81.md); `payload` is all that followed
the header. -/
def Query.inLimits (q : Query) : Bool :=
  decide (q.f 48 16 ≤ 4032) && decide (q.f 48 16 ≤ q.payload.length) && decide (q.rmax ≤ 4032) &&
  (if q.op = 0 then q.seqid = 0 else true) && (if q.op = 1 then decide (1 ≤ q.npages) && decide (q.npages ≤ 16) else q.npages = 0)

/-- A reply's header (R388); `step` none stands for all ones. -/
def replyHeader (q : Query) (status slot period : Nat) (step : Option Nat) (length : Nat) : Bytes :=
  record 64 [(0, 64, q.f 64 64), (64, 8, status), (72, 6, slot), (78, 4, q.cls), (96, 64, period), (160, 64, step.getD (2 ^ 64 - 1)), (224, 16, length), (256, 32, q.seqid)]

/-- The context a query's reply to a host is written in: its command's, or the serving job's. -/
def State.replyCtx (s : State) (q : Query) (j : Job) : Nat := match q.cmd.bind fun n => SMap.find? s.commands n with
  | some c => c.ctx
  | none => j.ctx

/-- A reply's bulk writes of at most 4 KiB (R268, R388). Those of a host-path query stand as its command's segments until each is
answered. -/
def State.replyBulk (s : State) (q : Query) (period : Nat) (b : Bytes) : State :=
  let peer := q.f 128 10
  let parts := (chunksOf 4096 3 b).zipIdx
  let run := fun (n : Nat) => (⟨n, 0, q.atelier, 0, 0, 0, false, some peer, q.f 138 20, false, [],
    parts.map fun p => ⟨n, p.2, 0, q.f 158 34 + 4096 * p.2, p.1.length, none, [], []⟩, false, [], false, 0, [], 0, [], 0, 0, some period, [], 0⟩ : DmaRun)
  let s1 := match q.cmd with
    | some n => { s with dmas := SMap.put s.dmas n (run n) }
    | none => s
  parts.foldl (fun (s : State) p =>
    let seg := q.cmd.map fun n => (n, p.2)
    if (s.route peer).isNone then s.answerSegment seg 0x05
    else s.sendPacket peer 2 0x0 (s.lnum q.atelier) [(0, 20, q.f 138 20), (64, 48, q.f 158 34 + 4096 * p.2), (112, 32, q.cmd.elim 0xFFFFFFFF (· % 2 ^ 32))] p.1 seg) s1

/-- A sealed reply sent to raddr (R388): host memory, or the peer object. -/
def State.sendReply (s : State) (j : Job) (q : Query) (status slot period : Nat) (step : Option Nat) (body : Bytes) : State :=
  let b := s.sealReply q.atelier q.patron q.seq.toNat (replyHeader q status slot period step body.length ++ body)
  if b.isEmpty then s
  else if q.f 192 1 = 0 then s.ctxWrite (s.replyCtx q j) (q.f 128 64) b
  else s.replyBulk q period b

/-- The command of a host-path query completed. -/
def State.endQuery (s : State) (q : Query) (result : Nat) : State := match q.cmd with
  | some n => s.finish n 0x00 result
  | none => s

/-- Whether a query's reply goes to a peer, whose answers then complete its command (R388). -/
def Query.waits (q : Query) (t : State) : Bool := q.f 192 1 = 1 && q.cmd.any fun n => (SMap.find? t.dmas n).isSome

/-- A query answered at its occurrence's opening or after its pass (R380, R388). -/
def State.answerQuery (s : State) (j : Job) (q : Query) (status slot period : Nat) (step : Option Nat) (body : Bytes) : State :=
  let t := s.sendReply j q status slot period step body
  if q.waits t then t else t.endQuery q period

/-- A query discarded (R384, R385): a host's command completes late, a peer's query receives the status. -/
def State.discardQuery (s : State) (j : Job) (q : Query) (status : Nat) : State := match q.cmd with
  | some n => (s.onCmd n fun c => { c with late := true }).finish n 0x00 0
  | none => s.sendReply j q status q.at_ q.period none []

/-! ### Arrival (R377, R379) -/

/-- The occurrence a query binds to (R379): the first opening, of its slot or of its class, not yet acted on. -/
def State.bindQuery (s : State) (q : Query) : Option (Nat × Nat) :=
  let t := s.canvasOf q.atelier
  nextOpening t s.time.toNat fun k i => (match q.slot with
    | some x => i = x
    | none => (canvasSlot t i).cls = q.cls) && (SMap.find? s.serving.openings (64 * q.atelier + i)).all fun m => decide (m < k)

/-- A query held in the module area, or discarded as late (R379). -/
def State.holdQuery (s : State) (j : Job) (q : Query) : State := match s.bindQuery q with
  | none => s.discardQuery j q 0x01
  | some (k, i) =>
    let q1 := { q with arrival := s.time, period := k, at_ := i }
    let there := (s.serving.held.filter fun x => x.atelier = q.atelier && x.period = k && x.at_ = i && !x.deferred).length
    if (canvasSlot (s.canvasOf q.atelier) i).maxq ≤ there then s.discardQuery j q1 0x01
    else { s with serving := { s.serving with held := s.serving.held ++ [q1] } }

/-- A parcel's plaintext as a query (R378). -/
def queryOf (a cls : Nat) (cmd slot : Option Nat) (b text : Bytes) : Query :=
  ⟨a, cls, cmd, slot, parcelPatron b, BitVec.ofNat 64 (parcelSeq b), padTo 64 text, text.drop 64, 0, 0, 0, false⟩

/-- A host-path command's parcel, read, checked and opened (R377). -/
def State.takeParcel (s : State) (n : Nat) (c : Cmd) (cls : Nat) (b : Bytes) : State := match s.servingJob c.atelier cls with
  | none => s.refuse n 0x07 0
  | some (_, j) =>
    if parcelHeaderGood b 1 && c.pay 192 32 ≠ 48 + parcelLength b then s.refuse n 0x07 0
    else match s.openParcel c.atelier 1 b with
      | none => (s.noteParcel c.atelier c.ctx b).finish n 0x0C 0
      | some text => (s.acceptSeq c.atelier b).holdQuery j (queryOf c.atelier cls (some n) none b text)

/-- A host-path command's parcel taken up (R377): its read keeps the translations of its pages (R301). -/
def State.takeHostQuery (s : State) (n : Nat) (c : Cmd) (parcel : Option Bytes) : State :=
  let cls := (SMap.find? s.queues c.queue).elim 0 (·.slot)
  match parcel with
  | none => s.finish n 0x0E 0
  | some bs => (s.readFor c (c.pay 64 64) (c.pay 192 32)).takeParcel n c cls (padTo (c.pay 192 32) bs)

/-- Whether a command is a host-path query not yet held. -/
def State.awaitsParcel (s : State) (n : Nat) (c : Cmd) : Bool :=
  c.opcode = 0x11 && c.state = .working && s.realTime c.queue && (s.serving.held.all fun q => q.cmd ≠ some n) && (SMap.find? s.dmas n).isNone &&
  s.serving.passes.all fun p => p.queries.all fun q => q.1.cmd ≠ some n

/-- The first opened query of the peer path held; a faulted atelier holds none (R385). -/
def State.takePeerQuery (s : State) : State := match s.opened with
  | [] => s
  | q :: rest =>
    let t := { s with opened := rest }
    match t.servingJob q.atelier q.cls with
    | some (_, j) => if (t.atelier q.atelier).faulted then t else t.holdQuery j q
    | none => t

/-- QUERY_ARRIVAL (R377, R379): of the host path where the serial names one of its commands, else of the peer path. -/
def execQueryArrival (cmd : Nat) (parcel : Option Bytes) (s : State) : Answer :=
  match SMap.find? s.commands cmd with
  | some c => whenDue (s.mstate = 2) s (if s.awaitsParcel cmd c then s.takeHostQuery cmd c parcel else s.takePeerQuery)
  | none => whenDue (s.mstate = 2) s s.takePeerQuery

/-- A real-time parcel packet taken up (R377). -/
def State.hearQuery (s : State) (p : Packet) : State :=
  let a := p.info 0 4
  let i := p.info 4 6
  let t := s.canvasOf a
  match (if canvasSlots t ≤ i then none else s.servingJob a (canvasSlot t i).cls) with
  | none => s.noteIn a 0x0162 [p.src, i]
  | some (_, j) => match s.openParcel a 1 p.payload with
    | none => s.noteParcel a j.ctx p.payload
    | some text => let s1 := s.acceptSeq a p.payload; if (s1.atelier a).faulted then s1 else { s1 with opened := s1.opened ++ [queryOf a (canvasSlot t i).cls none (some i) p.payload text] }

/-- REAL_TIME_PARCEL (R268, R377). -/
def execRealTimeParcel (port : Nat) (s : State) : Answer := packetRow port 0x7 s (fun _ => true) fun s p => s.hearQuery p

/-! ### Sequences (R382) -/

/-- A sequence-table entry. -/
structure Sequence where
  state : Nat
  npages : Nat
  seqid : Nat
  steps : Nat
  last : Nat
  pages : List Nat
  deriving DecidableEq, Repr, Inhabited

/-- The entry as its bytes hold it, and its bytes (R382). -/
def sequenceOf (b : Bytes) : Sequence :=
  ⟨bitsIn b 0 2, bitsIn b 2 5, bitsIn b 32 32, bitsIn b 64 64, bitsIn b 128 64, (List.range (min 16 (bitsIn b 2 5))).map fun k => bitsIn b (192 + 16 * k) 16⟩
def Sequence.bytes (q : Sequence) : Bytes :=
  record 64 ([(0, 2, q.state), (2, 5, q.npages), (32, 32, q.seqid), (64, 64, q.steps), (128, 64, q.last)] ++ q.pages.zipIdx.map fun p => (192 + 16 * p.2, 16, p.1))

/-- Entry `i` of a serving job's table, and the table with it written. -/
def State.sequence (s : State) (j : Job) (i : Nat) : Sequence := sequenceOf (s.fetch j.ctx (j.seqEntry i) 64).bytes
def State.putSequence (s : State) (j : Job) (i : Nat) (q : Sequence) : State := (s.store j.ctx (j.seqEntry i) q.bytes).settle
/-- A free entry. -/
def Sequence.free : Sequence := ⟨0, 0, 0, 0, 0, []⟩

/-- The first entry of a state with an identifier, and the first free entry. -/
def State.findSequence (s : State) (j : Job) (state seqid : Nat) : Option Nat :=
  (List.range j.maxseq).find? fun i => let q := s.sequence j i; q.state = state && q.seqid = seqid
def State.freeSequence (s : State) (j : Job) : Option Nat := (List.range j.maxseq).find? fun i => (s.sequence j i).state = 0

/-- The pool's pages not held by any sequence, in ascending order (R382). -/
def State.freePages (s : State) (j : Job) : List Nat :=
  let held := (List.range j.maxseq).flatMap fun i => let q := s.sequence j i; if q.state = 0 then [] else q.pages
  (List.range (bitsIn j.block 176 16)).filter fun p => !held.contains p

/-- A far range whose contents are left undefined: free values, 64 B at a time. -/
def State.leaveUndefined (s : State) (ctx va n : Nat) : State :=
  (List.range (n / 64)).foldl (fun t k =>
    (State.store { t with freed := t.freed + 1 } ctx (va + 64 * k) (leBytes 64 (Config.freeValue t.freed).toNat)).state) s

/-- An entry made broken, its pages undefined (R384). -/
def State.breakSequence (s : State) (j : Job) (i : Nat) : State :=
  let q := s.sequence j i
  let size := 65536 * bitsIn j.block 192 6
  (q.pages.foldl (fun t p => t.leaveUndefined j.ctx (bitsIn j.block 128 48 + size * p) size) s).putSequence j i { q with state := 2 }

/-! ### The batch boundary (R380, R381) -/

/-- Inbox records of a serving job (R374). -/
def Job.records (j : Job) : Nat := bitsIn j.block 48 12 + 1

/-- Order 1 of R380: a leave frees its sequence, and its reply has status 0x00. -/
def State.leave (s : State) (j : Job) (slot k : Nat) (q : Query) : State :=
  let t := match s.findSequence j 1 q.seqid <|> s.findSequence j 2 q.seqid with
    | some i => s.putSequence j i Sequence.free
    | none => s
  t.answerQuery j q 0x00 slot k none []

/-- Broken sequences free their pages, their entries stay (R380). -/
def State.freeBroken (s : State) (j : Job) : State :=
  (List.range j.maxseq).foldl (fun (s : State) i => let q := s.sequence j i; if q.state = 2 && q.npages ≠ 0 then s.putSequence j i { q with npages := 0, pages := [] } else s) s

/-- What order 2 has done so far: the state, the joins admitted with their entries, whether one has been deferred. -/
structure Joining where
  state : State
  admitted : List (Query × Nat)
  blocked : Bool

/-- A join deferred (R381): its first deferral is reported; past 4,096 of its class it is discarded as late. -/
def State.deferJoin (s : State) (n : Nat) (j : Job) (q : Query) : State :=
  if 4096 ≤ (s.serving.held.filter fun x => x.atelier = q.atelier && x.cls = q.cls && x.deferred).length then s.discardQuery j q 0x01
  else
    let t := { s with serving := { s.serving with held := s.serving.held ++ [{ q with deferred := true }] } }
    if q.deferred then t else t.log 0x0161 (some j.atelier) none (some j.ctx) [n, q.seqid, q.npages]

/-- Whether a query is a join that is never admitted (R380): more pages than the job's pool, or no sequence table. -/
def Job.hopeless (j : Job) (q : Query) : Bool := q.op = 1 && (bitsIn j.block 176 16 < q.npages || j.maxseq = 0)

/-- One join taken in its order (R380 order 2); `cap` is how many the batch has room for. -/
def Joining.take (n : Nat) (j : Job) (slot k cap : Nat) (x : Joining) (q : Query) : Joining :=
  let s := x.state
  if j.hopeless q then { x with state := s.answerQuery j q 0x07 slot k none [] }
  else
    let entry := s.findSequence j 2 q.seqid <|> s.freeSequence j
    let pages := (s.freePages j).take q.npages
    match (if x.blocked || cap ≤ x.admitted.length || pages.length < q.npages then none else entry) with
    | some i => { x with state := s.putSequence j i ⟨1, q.npages, q.seqid, 0, 0, pages⟩, admitted := x.admitted ++ [(q, i)] }
    | none => { x with state := s.deferJoin n j q, blocked := true }

/-- Queries in arrival order whose sequence no earlier one of the list names, and the others. -/
def firstOfEach : List Nat → List Query → List Query × List Query
  | _, [] => ([], [])
  | seen, q :: qs =>
    let r := firstOfEach (q.seqid :: seen) qs
    if seen.contains q.seqid then (r.1, q :: r.2) else (q :: r.1, r.2)

/-- A step checked (R380 order 3): its live entry, or its reply sent. -/
def State.checkStep (s : State) (j : Job) (slot k : Nat) (q : Query) : State × Option (Query × Option Nat) :=
  match s.findSequence j 1 q.seqid with
  | some i => (s, some (q, some i))
  | none => match s.findSequence j 2 q.seqid with
    | some i => ((s.putSequence j i Sequence.free).answerQuery j q 0x04 slot k none [], none)
    | none => (s.answerQuery j q 0x02 slot k none [], none)

/-- An inbox record (R381). -/
def Query.inboxRecord (q : Query) (entry : Option Nat) : Bytes :=
  leBytes 16 (ofLe (q.header.take 16)) ++ leBytes 8 (entry.getD 0) ++ slice q.header 24 40 ++ q.payload.take (q.f 48 16)

/-- The pass block (R383). -/
def State.passBlock (s : State) (j : Job) (p : Pass) : Bytes :=
  let base := (p.snap.bind fun x => SMap.find? s.mobjs x.1).elim 0 (·.va)
  record 64 [(0, 64, p.period), (64, 6, p.slot), (70, 4, p.cls), (74, 1, bit j.reload), (80, 13, p.queries.length), (96, 48, base), (144, 64, (p.snap.map Prod.snd).getD (2 ^ 64 - 1))]

/-- The jobs that a pass would switch out but for want of a decant set, reported (R345). -/
def State.noteCrowded (s : State) (n : Nat) (j : Job) : State :=
  let lacking := (s.contending n j).filter fun h => (SMap.find? s.jobs h).any fun x => !j.resident && !x.switching && !s.pinned h x && !s.decantRoom h x
  lacking.foldl (fun (s : State) h => match SMap.find? s.jobs h with
    | some x => s.log 0x0150 (some x.atelier) x.stepNow (some x.ctx) [h]
    | none => s) s

/-- Non-preemptible commands still running on a slot's quadrants, reported (R350). -/
def State.noteLate (s : State) (j : Job) (slot : Nat) : State :=
  (s.lateOn j).foldl (fun (s : State) c => s.log 0x0152 (some j.atelier) none (some c.ctx) [c.queue, c.id, slot]) s

/-- Orders 4 and 5 of R380: the records, the pass block, the pass. -/
def State.launchPass (s : State) (n : Nat) (j : Job) (slot k : Nat) (records : List (Query × Option Nat)) : State :=
  if records.isEmpty then s.noteLate j slot
  else
    let t := s.canvasOf j.atelier
    let p : Pass := ⟨n, j.atelier, bitsIn j.block 60 4, k, slot, BitVec.ofNat 64 (deadlineAt t k slot), j.inService, records, false, false, 0, false⟩
    let s1 := records.zipIdx.foldl (fun (s : State) x => (s.store j.ctx (bitsIn j.block 0 48 + 4096 * x.2) (x.1.1.inboxRecord x.1.2)).settle) s
    let s2 := (s1.store j.ctx (bitsIn j.block 272 48) (s.passBlock j p)).settle
    let s3 := ({ s2 with serving := { s2.serving with passes := s2.serving.passes ++ [p] } }.onJob n fun j => { j with reload := false })
    (((s3.noteLate j slot).noteCrowded n j).claimCores n j).startPasses

/-- The batch of an occurrence (R380): a join that is never admitted has its reply at order 2, whatever else names its sequence. -/
def State.batch (s : State) (n : Nat) (j : Job) (slot k : Nat) (qs : List Query) : State :=
  let bad := qs.filter fun q => !q.inLimits
  let good := qs.filter (·.inLimits)
  let s1 := bad.foldl (fun (s : State) q => s.answerQuery j q 0x07 slot k none []) s
  let s2 := (good.filter fun q => q.op = 3).foldl (fun (s : State) q => s.leave j slot k q) s1
  let s3 := s2.freeBroken j
  let (first, second) := firstOfEach [] (good.filter fun q => q.op ≠ 0)
  let named := first.filter fun q => q.op ≠ 3
  let again := second.filter fun q => q.op ≠ 3
  let clash := named.filter fun q => q.op = 1 && (s3.findSequence j 1 q.seqid).isSome
  let joins := named.filter fun q => q.op = 1 && (s3.findSequence j 1 q.seqid).isNone
  let steps := named.filter fun q => q.op = 2
  let singles := good.filter fun q => q.op = 0
  let cap := j.records - ((steps.filter fun q => (s3.findSequence j 1 q.seqid).isSome).length + singles.length)
  let order := ((List.range 8).reverse).flatMap fun p => good.filter fun q => q.prio = p && (joins.contains q || j.hopeless q)
  let x := order.foldl (Joining.take n j slot k cap) ⟨s3, [], false⟩
  let s4 := ((again ++ clash).filter fun q => !j.hopeless q).foldl (fun (s : State) q => s.answerQuery j q 0x05 slot k none []) x.state
  let y := steps.foldl (fun (a : State × List (Query × Option Nat)) q => let r := a.1.checkStep j slot k q; (r.1, a.2 ++ r.2.toList)) (s4, [])
  let entered := joins.filterMap fun q => (x.admitted.find? fun a => a.1 = q).map fun a => (q, some a.2)
  y.1.launchPass n j slot k (entered ++ y.2 ++ singles.map fun q => (q, none))

/-- The period of a slot's next opening to act on (R372): `last` is that of the one acted on last. -/
def duePeriod (now k : Nat) (at_ : Nat → Nat) (last : Option Nat) : Nat := match last with
  | some m => max k (m + 1)
  | none => if now ≤ at_ k then k else k + 1

/-- The queries held after a batch, each in the place it had before it (R381): a deferred join keeps its place. -/
def keepPlaces (before after : List Query) : List Query :=
  before.filterMap fun q => after.find? fun x => { x with deferred := q.deferred } = q

/-- The opening of slot `i` in period `k` (R380). -/
def State.openSlot (s : State) (a i k : Nat) : State :=
  let cls := (canvasSlot (s.canvasOf a) i).cls
  let s1 := { s with serving := { s.serving with openings := SMap.put s.serving.openings (64 * a + i) k } }
  match s1.servingJob a cls with
  | none => s1
  | some (n, j) =>
    let mine := fun (q : Query) => q.atelier = a && q.cls = cls && (q.deferred || (q.at_ = i && decide (q.period ≤ k)))
    let t := { s1 with serving := { s1.serving with held := s1.serving.held.filter (!mine ·) } }.batch n j i k (s1.serving.held.filter mine)
    { t with serving := { t.serving with held := keepPlaces s1.serving.held t.serving.held } }

/-- OCCURRENCE_OPENING (R380). -/
def execOccurrenceOpening (atelier slot : Nat) (s : State) : Answer :=
  let t := s.canvasOf atelier
  let k := duePeriod s.time.toNat (periodOf t s.time.toNat) (fun k => openingAt t k slot) (SMap.find? s.serving.openings (64 * atelier + slot))
  onUnit "atelier" atelier 16 (whenDue (s.mstate = 2 && decide (slot < canvasSlots t)) s ((s.reach (BitVec.ofNat 64 (openingAt t k slot))).openSlot atelier slot k))

/-! ### Passes (R384, R388) -/

/-- Whether every core of a pass has reached END (R384); while a dropped pass of its job stands, it has not been launched. -/
def State.passEnded (s : State) (p : Pass) : Bool :=
  p.started && !s.dropping p.job && (imageCores (s.imageOf p.job)).all fun k => let c := s.core k; c.job = some p.job && c.step = some p.period && c.run = .idle

/-- The pass of a class under way. -/
def State.passOf (s : State) (a cls : Nat) : Option Pass := List.find? (fun (p : Pass) => p.atelier = a && p.cls = cls && !p.dropped) s.serving.passes

/-- The reply of one record (R388): an on-time join or step counts in its entry. -/
def State.replyRecord (s : State) (j : Job) (p : Pass) (i : Nat) (x : Query × Option Nat) : State :=
  let at_ := bitsIn j.block 64 48 + 4096 * i
  let n := ofLe (s.fetch j.ctx at_ 2).bytes
  let body := (s.fetch j.ctx (at_ + 64) (min n x.1.rmax)).bytes
  let s1 := match x.2 with
    | some e => let q := s.sequence j e; s.putSequence j e { q with steps := q.steps + 1, last := p.period }
    | none => s
  s1.answerQuery j x.1 (if x.1.rmax < n then 0x03 else 0x00) p.slot p.period (p.snap.map Prod.snd) body

/-- A pass's cores made ready for the next. -/
def State.clearPass (s : State) (p : Pass) : State :=
  let s1 := (imageCores (s.imageOf p.job)).foldl (fun (s : State) k => if (s.core k).job = some p.job then s.setCore k { s.core k with step := none } else s) s
  { s1 with serving := { s1.serving with passes := s1.serving.passes.erase p } }

/-- A pass that reached END (R388). -/
def State.endPass (s : State) (p : Pass) : State := match SMap.find? s.jobs p.job with
  | none => s
  | some j => ((p.queries.zipIdx.foldl (fun (s : State) x => s.replyRecord j p x.2 x.1) s).clearPass p).endServing p.job

/-- PASS_END (R388). -/
def execPassEnd (atelier cls : Nat) (s : State) : Answer := match s.passOf atelier cls with
  | some p => whenDue (s.mstate = 2 && s.passEnded p) s (s.endPass p)
  | none => .next s

/-- A pass dropped at its deadline (R384): steps 2 to 4, and its cores are to stop. -/
def State.dropPass (s : State) (p : Pass) : State := match SMap.find? s.jobs p.job with
  | none => s
  | some j =>
    let s1 := p.queries.foldl (fun (s : State) x => s.discardQuery j { x.1 with at_ := p.slot, period := p.period } 0x01) s
    let s2 := p.queries.foldl (fun (s : State) x => match x.2 with
      | some e => s.breakSequence j e
      | none => s) s1
    let gone := { p with dropped := true }
    let s3 := { s2 with serving := { s2.serving with passes := s2.serving.passes.map fun x => if x = p then gone else x, dropped := s2.serving.dropped ++ [(p.atelier, p.period)] } }
    (((s3.onJob p.job fun j => { j with reload := true }).log 0x0160 (some p.atelier) none (some j.ctx) [p.period, p.slot]).beginStop p.job).endDropped gone

/-- SLOT_DEADLINE (R384). -/
def execSlotDeadline (atelier cls : Nat) (s : State) : Answer := match s.passOf atelier cls with
  | some p => whenDue (s.mstate = 2 && !s.passEnded p) s ((s.reach p.deadline).dropPass p)
  | none => .next s

/-! ### Period boundaries (R385, R386) -/

/-- A pending snapshot goes into service (R386, R387): the object it replaces loses its reference. -/
def State.switchSnapshots (s : State) (a : Nat) : State :=
  (List.filter (fun p : Nat × Job => p.2.serving && p.2.atelier = a && p.2.pendingSnap.isSome) s.jobs).foldl (fun (s : State) p =>
    (s.refer (· - 1) (p.2.inService.toList.map fun x => (ObjKind.mobj, x.1))).onJob p.1 fun j => { j with inService := p.2.pendingSnap, pendingSnap := none, reload := true }) s

/-- The clean start of a period after one with a dropped occurrence (R385). -/
def State.cleanStart (s : State) (a k : Nat) : State :=
  let t := s.canvasOf a
  if s.serving.dropped.any fun x => x.1 = a && x.2 < k then
    let gone := fun (q : Query) => q.atelier = a && (q.deferred || (q.period = k && s.serving.dropped.contains (a, periodOf t q.arrival.toNat)))
    let lost := s.serving.held.filter gone
    let s1 := { s with serving := { s.serving with held := s.serving.held.filter (!gone ·), dropped := s.serving.dropped.filter fun x => x.1 ≠ a || k ≤ x.2 } }
    lost.foldl (fun (s : State) q => match s.servingJob a q.cls with
      | some (_, j) => s.discardQuery j q 0x06
      | none => s) s1
  else s

/-- PERIOD_BOUNDARY (R372, R385, R386). -/
def execPeriodBoundary (atelier : Nat) (s : State) : Answer :=
  let t := s.canvasOf atelier
  let at_ := fun k => 100 * canvasPeriod t * k
  let k := duePeriod s.time.toNat (periodOf t s.time.toNat) at_ (SMap.find? s.serving.periods atelier)
  let u := s.reach (BitVec.ofNat 64 (at_ k))
  onUnit "atelier" atelier 16 (whenDue (s.mstate = 2 && canvasSlots t ≠ 0) s
    (({ u with serving := { u.serving with periods := SMap.put u.serving.periods atelier k } }.switchSnapshots atelier).cleanStart atelier k))

/-! ### JOB_STOP (R332, R375) -/

/-- The JOB_RUNs of a job that were accepted earlier and have not started (R332). -/
def State.unstarted (s : State) (n cmd : Nat) (j : Job) : List Nat :=
  (List.filter (fun p : Nat × Cmd => p.2.opcode = 0x0F && p.2.jobSlot = n && decide (p.1 < cmd) && j.command ≠ some p.1) s.commands).map Prod.fst

/-- JOB_STOP of a job with a training block (R332). -/
def State.stopTraining (s : State) (cmd n : Nat) (j : Job) : State :=
  let s1 := (s.unstarted n cmd j).foldl (fun (s : State) c => s.finish c 0x00 0) s
  if j.command.isSome then
    let s2 := (s1.onCmd cmd fun c => { c with state := .working }).onJob n fun j => { j with stopping := some cmd }
    if j.run.any (·.launched) then s2.beginStop n else s2.endRun n
  else (s1.onJob n fun j => { j with ended := true, resident := false }).finish cmd 0x00 0

/-- JOB_STOP of a serving job (R375): held queries are discarded; it completes with the last pass it finds. -/
def State.stopServing (s : State) (cmd n : Nat) (j : Job) : State :=
  let mine := fun (q : Query) => q.atelier = j.atelier && q.cls = bitsIn j.block 60 4
  let held := s.serving.held.filter mine
  let s1 := { s with serving := { s.serving with held := s.serving.held.filter (!mine ·) } }
  let s2 := (held.foldl (fun (s : State) q => s.discardQuery j q 0x01) s1).onJob n fun j => { j with ended := true }
  if s.serving.passes.any fun p => p.job = n then (s2.onCmd cmd fun c => { c with state := .working }).onJob n fun j => { j with stopping := some cmd }
  else (s2.onJob n fun j => { j with resident := false }).finish cmd 0x00 0

/-- JOB_STOP (R332, R375): one that finds another under way waits for it. -/
def execJobStop (cmd : Nat) (s : State) : Answer :=
  onCommand s cmd 0x10 fun c =>
    match SMap.find? s.jobs c.jobSlot with
    | none => s.refuse cmd 0x03 0
    | some j =>
      if j.stopping.isSome then s
      else if j.serving then s.stopServing cmd c.jobSlot j
      else s.stopTraining cmd c.jobSlot j

end Sys2Proof.Machine
end

