-- ==== Sys2Proof/Machine/Records.lean ====
section
/-!
DEFINITION. What the module shows of itself without being changed by it: the panel and module records (R368, R369), the
blotter's entries (R457), the sideband's shadow words (R483 to R487), and the registers of BAR0 (R306 to R308, R444). A read
of one of these is no command of the table: it is a function of the state.
-/
namespace Sys2Proof.Machine

/-! ### The flacon's records -/

/-- A panel's record (R368) and the module record (R369), as the last window wrote them: 32 B each. -/
def State.panelRecord (s : State) (p : Nat) : Bytes := (s.panel p).record
def State.moduleRecord (s : State) : Bytes := s.flacon.record

/-! ### The blotter -/

/-- A blotter entry's 64 bytes (R457). -/
def BlotterEntry.bytes (e : BlotterEntry) : Bytes :=
  let h := fun (i : Nat) => e.handles.getD i 0
  record 64 [(0, 16, e.code.toNat), (16, 4, e.atelier), (20, 1, bit e.modwide), (32, 32, e.index.toNat), (64, 64, e.stamp.toNat), (128, 64, e.step.toNat),
    (192, 10, e.gidx), (208, 8, e.ctx.toNat), (216, 8, e.fold), (224, 64, h 0), (288, 64, h 1), (352, 64, h 2), (416, 64, h 3), (480, 32, h 4)]

/-! ### The sideband's shadow words (R483 to R487) -/

/-- SB_STATE (R485). -/
def State.sbState (s : State) : Bytes :=
  record 8 [(0, 4, s.mstate), (4, 4, s.phase), (8, 1, (s.inForce.map (·.bank)).getD 0), (9, 1, bit s.power.faultN), (10, 1, bit s.power.curb), (11, 1, bit s.power.lref),
    (12, 1, bit (s.pciePort 0).up), (13, 1, bit (s.pciePort 1).up), (14, 1, bit s.testPort.unlocked), (16, 6, s.tamperCount), (22, 7, s.debugCount),
    (32, 16, s.fcode.toNat)]

/-- SB_POWER (R486). -/
def Readings.bytes (x : Readings) : Bytes :=
  record 32 [(0, 16, x.vin), (16, 16, x.iin), (32, 16, x.pin), (64, 16, unsignedOf 16 x.tstage), (80, 16, unsignedOf 16 x.tgddr), (96, 16, unsignedOf 16 x.thub),
    (112, 16, unsignedOf 16 x.tport)]

/-- FW_STATUS (R487): 0x07 while the window is unavailable. -/
def State.flashStatus (s : State) : Nat :=
  let x := s.sideband
  packFields [(0, 8, if s.windowOpen then x.result else 0x07), (8, 8, if s.windowOpen then x.check else 0), (16, 1, bit x.running)]

/-- The shadow words from offset 0 (R484): before readiness the module and panel records read as zero. -/
def State.shadow (s : State) : Bytes :=
  let ready := s.phase = 6 && (s.mstate = 2 || s.mstate = 3)
  let records := s.moduleRecord ++ (List.range 12).flatMap s.panelRecord
  record 8 [(0, 16, 0x4253), (16, 16, Config.partCode), (32, 8, Config.stepping)] ++ s.sbState ++ leBytes 16 Config.serial.toNat ++ s.power.readings.bytes ++
    (if ready then records else List.replicate 416 0) ++ List.replicate 32 0 ++ leBytes 8 s.sideband.ctrl ++ leBytes 8 s.sideband.addr ++ leBytes 8 s.flashStatus

/-- A private read of `n` bytes (R474, R480, R483) of a target that answers: the bytes from the offset, which advances; unmapped offsets and
FW_BUF read as zero. -/
def State.sideRead (s : State) (n : Nat) : Bytes × State :=
  if !s.addressed then ([], s)
  else (slice s.shadow s.sideband.offset n, { s with sideband := { s.sideband with offset := (s.sideband.offset + n) % 65536 } })

/-! ### The registers of BAR0 -/

/-- CTRL_CMD as it reads (R307). -/
def HostFn.ctrlCmd (r : HostFn) : Nat := packFields [(0, 4, r.cmd), (4, 1, bit r.takeover), (8, 8, r.vmin), (16, 8, r.vmax), (63, 1, bit r.go)]
/-- CTRL_STATUS (R308). -/
def HostFn.ctrlStatus (r : HostFn) : Nat := packFields [(0, 8, r.result), (8, 8, r.version), (16, 11, r.admin), (27, 1, bit r.attached)]

/-- HIF_ID (R306, R309): version 2 only; the atelier served, 0xFF on a physical function. -/
def State.hifId (s : State) (port fn : Nat) : Nat := packFields [(0, 8, 2), (8, 8, 2), (16, 8, if fn = 0 then 0xFF else (s.atelierOfFn port fn).getD 0xFF)]

/-- Word i of the pending-bit array of BAR4 (R305): 64 vectors each. -/
def State.pendingWord (s : State) (port fn i : Nat) : Word64 :=
  BitVec.ofNat 64 (packFields ((List.range 64).map fun k => (k, 1, bit ((s.function port fn).waiting.has (64 * i + k)))))

/-- Word i of the MSI-X table of BAR4 (R305), two a vector: its address, then its data and its mask bit (PRESUMED, notes/assumptions/85.md). -/
def HostFn.tableWord (r : HostFn) (i : Nat) : Word64 :=
  let v := SMap.get MsixVector.reset r.vectors (i / 2)
  if i % 2 = 0 then v.addr else BitVec.ofNat 64 (packFields [(0, 32, v.data.toNat), (32, 1, bit v.masked)])

/-- A read of BAR4 (R305): the table, the pending bits behind it (their place is PRESUMED, notes/assumptions/85.md), zero beyond. -/
def State.tableRead (s : State) (port fn off : Nat) : Word64 :=
  if off < 0x8000 then (s.function port fn).tableWord (off / 8) else if off < 0x8100 then s.pendingWord port fn ((off - 0x8000) / 8) else 0

/-- A vector's entry as a driver writes it (R300, R305): unmasking sends the message that is pending. The table of commands has no row for it. -/
def State.writeVector (s : State) (port fn n : Nat) (v : MsixVector) : State :=
  let x := s.function port fn
  let due := x.waiting.has n && !v.masked
  let t := s.setFunction port fn { x with vectors := SMap.set MsixVector.reset x.vectors n v, waiting := if due then x.waiting.filter (· ≠ n) else x.waiting }
  if due then { t with hostOut := t.hostOut ++ [.msix port fn n] } else t

/-- RCV_ID (R444). -/
def State.rcvId (s : State) : Nat := packFields [(0, 16, 0x5243), (16, 8, if s.bankFails = (0, 0) then 0x01 else 0x02), (24, 8, s.bankFails.1), (32, 8, s.bankFails.2)]

/-- A register of BAR0 (R306, R444): offsets not listed read as zero. -/
def State.barRead (s : State) (port fn off : Nat) : Word64 :=
  let r := s.function port fn
  let v := SMap.get Recovery.reset s.recovery port
  if s.mstate = 4 then
    match off with
    | 0x00 => BitVec.ofNat 64 s.rcvId
    | 0x08 => v.addr
    | 0x10 => v.len
    | 0x18 => BitVec.ofNat 64 (bit v.go)
    | 0x20 => BitVec.ofNat 64 v.status
    | _ => 0
  else match off with
    | 0x00 => BitVec.ofNat 64 (s.hifId port fn)
    | 0x10 => BitVec.ofNat 64 r.ctrlCmd
    | 0x18 => r.arg0
    | 0x20 => r.arg1
    | 0x28 => r.arg2
    | 0x30 => r.arg3
    | 0x38 => BitVec.ofNat 64 r.ctrlStatus
    | 0x40 => s.time
    | _ => 0

/-- A read of BAR2, the doorbell pages (R305): zero at every offset. -/
def doorbellRead (_offset : Nat) : Word64 := 0

end Sys2Proof.Machine
end

