-- ==== Sys2Proof/Machine/Sillage.lean ====
section
/-!
DEFINITION. SILLAGE (R310, R454, R460 to R464): a one-moment summary of what a function may see.
-/
namespace Sys2Proof.Machine

/-! ### What a function sees (R460): `v` is its atelier, none on a physical function -/

/-- Whether a thing of an atelier is seen. -/
def seen (v : Option Nat) (a : Nat) : Bool := v.all fun x => x = a
/-- The atelier of a context. -/
def State.ctxAtelier (s : State) (c : Nat) : Nat := ((SMap.find? s.contexts c).map (·.atelier)).getD 16
def State.seenJobs (s : State) (v : Option Nat) : SMap Job := List.filter (fun (p : Nat × Job) => seen v p.2.atelier) s.jobs
def State.seenContexts (s : State) (v : Option Nat) : SMap Ctx := List.filter (fun (p : Nat × Ctx) => seen v p.2.atelier) s.contexts
def State.seenQueues (s : State) (v : Option Nat) : SMap Queue := List.filter (fun (p : Nat × Queue) => seen v p.2.atelier) s.queues
def State.seenFences (s : State) (v : Option Nat) : SMap Fence := List.filter (fun (p : Nat × Fence) => seen v (s.ctxAtelier p.2.ctx)) s.fences
def State.seenEntries (s : State) (v : Option Nat) : List BlotterEntry := s.blotter.entries.filter fun e => e.modwide || seen v e.atelier

/-! ### Records (R463, R464) -/

/-- A step, all ones for none. -/
def stepOrOnes (x : Option Nat) : Nat := x.getD (2 ^ 64 - 1)

/-- astate (R463). -/
def State.astate (s : State) (a : Nat) : Nat :=
  let x := s.atelier a
  if s.mstate = 3 then 4 else if x.resetting.isSome then 3 else if x.faulted then 2 else bit x.attached.isSome

/-- An atelier record (R463): zero where the atelier is unseen or the ground image has none of that number. -/
def State.atelierRecord (s : State) (v : Option Nat) (a : Nat) : Bytes :=
  let x := s.atelier a
  let l := s.lease a
  match s.entry a with
  | some e =>
    if seen v a then
      record 64 [(0, 4, a), (4, 3, s.astate a), (7, 2, l.state), (9, 1, (x.attached.map Prod.fst).getD 0), (10, 1, bit e.on0), (11, 1, bit e.on1), (16, 16, x.fcode.toNat),
        (32, 32, l.serial.toNat), (64, 16, s.lnum a), (96, 32, s.tagsOf a), (128, 32, s.tagQuota a), (160, 32, if x.fcode = 0 then 0 else x.findex.toNat),
        (192, 48, e.qmask.toNat)]
    else List.replicate 64 0
  | none => List.replicate 64 0

/-- A port state's code (R463). -/
def PortState.code : PortState → Nat
  | .absent => 0
  | .training => 1
  | .up => 2
  | .retraining => 3
  | .heldDown => 4
  | .lost => 5

/-- A link record (R463). -/
def State.linkRecord (s : State) (p : Nat) : Bytes :=
  let x := s.port p
  record 32 [(0, 5, p), (5, 3, x.state.code), (8, 4, x.version), (12, 10, ((s.peerEntry p).map (·.peer)).getD 0), (32, 32, x.errors.toNat), (64, 32, x.retrains.toNat),
    (96, 32, x.marks.toNat)]

/-- jstate (R464). -/
def Job.jstate (j : Job) : Nat :=
  if j.unsound then 3 else if j.ended then 0 else if j.stopping.isSome then 2 else if j.serving then 4 else bit j.running

/-- A job record (R464). -/
def Job.summaryRecord (n : Nat) (j : Job) : Bytes :=
  record 32 [(0, 12, n), (16, 8, j.ctx), (24, 3, j.jstate), (32, 64, stepOrOnes j.committed), (96, 64, stepOrOnes j.launched), (160, 8, unsignedOf 8 j.k), (192, 64, j.t)]

/-- A context record (R464). -/
def State.ctxRecord (s : State) (n : Nat) (c : Ctx) : Bytes :=
  record 16 [(0, 8, n), (8, 4, c.atelier), (12, 1, c.port), (13, 1, bit c.pasidEn), (16, 20, c.pasid.toNat), (64, 32, (List.filter (fun (m : Nat × MObj) => m.2.ctx = n) s.mobjs).length)]

/-- A queue record (R464). -/
def State.queueRecord (s : State) (n : Nat) (q : Queue) : Bytes :=
  let opened := (List.filter (fun (c : Nat × Cmd) => c.2.queue = n) s.commands).length
  record 32 [(0, 11, n), (11, 2, q.kind), (13, 3, q.prio), (16, 8, q.ctx), (24, 5, q.lsize), (32, 32, q.fetched.toNat), (64, 32, q.tail.toNat), (96, 32, q.written.toNat),
    (128, 32, q.head.toNat), (160, 32, opened), (192, 32, q.held.length)]

/-- A fence record (R464). -/
def Fence.summaryRecord (n : Nat) (f : Fence) : Bytes := record 16 [(0, 16, n), (16, 8, f.ctx), (64, 64, f.value.toNat)]

/-! ### The summary (R461, R462) -/

/-- The parts of the fixed part but the header: 2,112 B. -/
def State.fixedParts (s : State) (v : Option Nat) : Bytes :=
  s.moduleRecord ++ (List.range 12).flatMap s.panelRecord ++ (List.range 16).flatMap (s.atelierRecord v) ++ (List.range 20).flatMap s.linkRecord

/-- The job, context and queue records. -/
def State.countedParts (s : State) (v : Option Nat) : Bytes :=
  ((s.seenJobs v).flatMap fun p => Job.summaryRecord p.1 p.2) ++ ((s.seenContexts v).flatMap fun p => s.ctxRecord p.1 p.2) ++ (s.seenQueues v).flatMap fun p => s.queueRecord p.1 p.2

/-- The state's code in the header: 0 booting, 1 ready, 2 failed. -/
def State.headerState (s : State) : Nat := if s.mstate = 2 then 1 else if s.mstate = 3 then 2 else 0

/-- The header (R462): before readiness it counts no record beyond the fixed part. -/
def State.summaryHeader (s : State) (v : Option Nat) (length needed nfw nbw : Nat) : Bytes :=
  let on := fun (n : Nat) => if s.headerState = 0 then 0 else n
  record 256 [(0, 32, 0x4C4C4953), (32, 16, 1), (48, 2, s.headerState), (50, 1, bit v.isNone), (51, 4, v.getD 0), (64, 32, length), (96, 32, needed), (128, 64, s.time.toNat),
    (192, 10, s.gidx), (208, 16, Config.partCode), (224, 8, Config.stepping), (256, 32, s.blotter.next.toNat), (288, 32, ((s.blotter.entries.head?).map fun e => e.index.toNat).getD s.blotter.next.toNat),
    (320, 32, s.tags.length), (352, 32, (List.filter (fun (t : Nat × Tag) => t.1 < 2048) s.tags).length), (384, 32, on (s.seenJobs v).length), (416, 32, on (s.seenContexts v).length),
    (448, 32, on (s.seenQueues v).length), (480, 32, on (s.seenFences v).length), (512, 32, nfw), (544, 32, nbw)]

/-- The summary within `len` bytes, and SILLAGE's result (R461). -/
def State.summary (s : State) (v : Option Nat) (len : Nat) : Bytes × Nat :=
  let fixed := s.fixedParts v
  let ready := s.headerState ≠ 0
  let base := if ready then fixed ++ s.countedParts v else fixed
  let fences := if ready then s.seenFences v else []
  let entries := if ready then s.seenEntries v else []
  let must := 256 + base.length
  let needed := must + 16 * fences.length + 64 * entries.length
  if len < must then (if len < 256 then [] else s.summaryHeader v 256 needed 0 0, 0x04)
  else
    let nfw := min fences.length ((len - must) / 16)
    let nbw := if nfw < fences.length then 0 else min entries.length ((len - must - 16 * nfw) / 64)
    (s.summaryHeader v (must + 16 * nfw + 64 * nbw) needed nfw nbw ++ base ++ ((fences.take nfw).flatMap fun p => Fence.summaryRecord p.1 p.2) ++
      (entries.drop (entries.length - nbw)).flatMap BlotterEntry.bytes, 0x00)

/-- SILLAGE (R310, R460): allowed on every function, in the failed state as well (R454). A virtual function that serves no
atelier is not a function of the module's. -/
def State.sillage (s : State) (port fn : Nat) (addr : Nat) (len : Nat) : State :=
  let v := s.atelierOfFn port fn
  if fn ≠ 0 && v.isNone then s.controlDone port fn 0x05
  else
    let x := s.summary v len
    (if x.1.isEmpty then s else s.hostWrite port none addr x.1).controlDone port fn x.2

/-- SILLAGE. -/
def execSillage (port : Nat) (w : CtrlWrite) (addr len : Word64) (s : State) : Answer :=
  let fn := w.at_.fn
  let r := { (s.function port fn).wrote w 3 with arg0 := addr, arg1 := len }
  onUnit "port" port 2 (onUnit "function" fn 17
    (whenDue (s.served port) s (s.control port w.at_ 3 r true fun t => t.sillage port fn addr.toNat len.toNat)))

end Sys2Proof.Machine
end

