-- ==== Sys2Proof/Machine/Streams.lean ====
section
/-!
DEFINITION. Sealed streams (R423 to R428): checkpoints saved and restored, and exhibits.
-/
namespace Sys2Proof.Machine

/-! ### Sealed streams -/

/-- The header of a sealed stream (R423). -/
structure StreamHead where
  kind : Nat
  job : Nat
  fmt : Nat
  var : Nat
  step : Nat
  dc : Bytes
  id : Bytes
  wkey : Bytes
  order : Bytes

/-- Records of a plaintext, and the length of its stream (R423). -/
def streamRecords (n : Nat) : Nat := (n + 65535) / 65536
def streamSize (n : Nat) : Nat := 256 + n + 16 * streamRecords n

/-- The header's bytes. -/
def StreamHead.bytes (h : StreamHead) (n : Nat) : Bytes :=
  record 256 [(0, 32, 0x534C5341), (32, 8, h.kind), (40, 8, 1), (48, 12, h.job), (60, 4, h.fmt), (64, 2, h.var), (128, 64, h.step), (192, 256, ofLe h.dc), (448, 128, ofLe h.id),
    (576, 32, streamRecords n), (608, 64, n), (672, 904, ofLe h.wkey), (1576, 256, ofLe h.order)]

/-- The nonce of a record. -/
def recordNonce (i : Nat) : Bytes := leBytes 8 i ++ [0, 0, 0, 0]

/-- A plaintext sealed (R423). -/
def sealStream (h : StreamHead) (key text : Bytes) : Bytes :=
  let head := h.bytes text.length
  head ++ (List.range (streamRecords text.length)).flatMap fun i =>
    let x := gcmSeal key (recordNonce i) head ((text.drop (65536 * i)).take 65536)
    x.text ++ x.tag

/-- A stream opened under its key: none where a tag fails or records are missing (R426). -/
def openStream (key stream : Bytes) : Option Bytes :=
  let head := slice stream 0 256
  let n := bitsIn head 608 64
  if bitsIn head 576 32 ≠ streamRecords n || stream.length < streamSize n then none
  else
    let parts := (List.range (streamRecords n)).map fun i =>
      let len := min 65536 (n - 65536 * i)
      let at_ := 256 + 65552 * i
      gcmOpen key (recordNonce i) head (slice stream at_ len) (slice stream (at_ + len) 16)
    if parts.all (·.isSome) then some (parts.flatMap (·.getD [])) else none

/-- Bytes sent to the buffer of a command (R425, R428), with the PASID of its context (R301); dropped once its queue is closing (R304). -/
def State.sendHost (s : State) (c : Cmd) (addr : Nat) (bs : Bytes) : State :=
  match SMap.find? s.queues c.queue with
  | some q => if q.closing then s else s.hostWrite (s.cmdTag c).1 (s.cmdTag c).2 addr bs
  | none => s

/-! ### Checkpoints -/

/-- K_ckpt (R396). -/
def ckptKey (cs dc id : Bytes) : Bytes := deriveKey cs "checkpoint" (dc ++ id) 16

/-- The job record of a checkpoint (R425): each of the six values in 8 bytes, then the eight slots of the norm history. -/
def Job.record (j : Job) : Bytes :=
  padTo 128 ([j.committed.getD (2 ^ 64 - 1), j.t, unsignedOf 64 j.k, j.clean, j.npar, j.norms.length].flatMap (leBytes 8) ++ j.norms.flatMap (leBytes 8))

/-- An escalable layer's four bytes (R425): its mode at the next step, and its run count. -/
def Escalation.saved (e : Escalation) (next : Nat) : Bytes := leBytes 4 (e.at_ next % 4 + 16 * (e.run % 16))

/-- The step after the last committed one. -/
def Job.afterCommitted (j : Job) : Nat := j.committed.elim 0 (· + 1)

/-- Both halves of the committed weights of a chunk, 0 where a parameter belongs to no layer (R424). -/
def State.chunkWeights (s : State) (j : Job) (c : Nat) : List Nat :=
  let n := min 128 (j.npar - 128 * c)
  match j.layerOfChunk c with
  | some d => let ws := s.committedWeights j d c; ws ++ List.replicate (n - ws.length) 0
  | none => List.replicate n 0

/-- Every committed weight by parameter index. -/
def State.allWeights (s : State) (j : Job) : List Nat := (List.range ((j.npar + 127) / 128)).flatMap (s.chunkWeights j)

/-- Bytes of the state array (R205). -/
def Job.stateSize (j : Job) : Nat := 514 * ((j.npar + 127) / 128)

/-- A low-rank layer's part (R257, R425): its rank, Q[a] and E[a]. -/
def State.lowRankPart (s : State) (j : Job) (x : Nat × Bytes) : Bytes :=
  let a := s.lrSlot j x.1
  leBytes 2 (lrRank x.2) ++ (s.fetch j.ctx (lrQ x.2 a) (260 * lrChunks x.2)).bytes ++ (s.fetch j.ctx (lrE x.2 a) (64 * lrLines x.2)).bytes

/-- The plaintext of a checkpoint (R425). -/
def State.checkpointText (s : State) (j : Job) : Bytes :=
  let ws := s.allWeights j
  j.record ++ j.escalations.flatMap (·.saved j.afterCommitted) ++ ws.flatMap (fun w => leBytes 2 (w / 65536)) ++ ws.flatMap (fun w => leBytes 2 (w % 65536)) ++
  (s.fetch j.ctx (j.tb 48 48) j.stateSize).bytes ++ j.lowrank.flatMap (s.lowRankPart j)

/-- Whether everything a checkpoint reads can be read (R196). -/
def State.checkpointReadable (s : State) (j : Job) : Bool :=
  j.owners.all (s.committedReadable j true) && s.canRead j.ctx (j.tb 48 48) j.stateSize &&
  j.lowrank.all fun x =>
    let a := s.lrSlot j x.1
    s.canRead j.ctx (lrQ x.2 a) (260 * lrChunks x.2) && s.canRead j.ctx (lrE x.2 a) (64 * lrLines x.2)

/-- A checkpoint written (R425); a host that refuses the writes fails the command (R301). -/
def State.saveCheckpoint (s : State) (cmd : Nat) (c : Cmd) (n : Nat) (j : Job) (m : Commission) (k : LeaseKeys) (refused : Bool) : State :=
  let id := s.drawBytes 16
  let h : StreamHead := ⟨1, n, 0, 0, j.committed.getD (2 ^ 64 - 1), m.digest, id, [], []⟩
  let text := s.checkpointText j
  if c.pay 128 64 < streamSize text.length then s.refuse cmd 0x09 0
  else if !s.checkpointReadable j then s.finish cmd 0x0E 0
  else if refused then s.drew.finish cmd 0x0E 0
  else (s.drew.sendHost c (c.pay 64 64) (sealStream h (ckptKey k.cs m.digest id) text)).finish cmd 0x00 0

/-- CHECKPOINT_SAVE (R301, R424, R425). -/
def execCheckpointSave (cmd : HostWrite) (s : State) : Answer :=
  onCommand s cmd.cmd 0x23 fun c =>
    match SMap.find? s.jobs (c.pay 0 12), (s.lease c.atelier).commission, (s.lease c.atelier).keys with
    | some j, some m, some k => if j.serving then s.refuse cmd.cmd 0x07 0 else if !m.ckpt then s.refuse cmd.cmd 0x0C 0 else s.saveCheckpoint cmd.cmd c (c.pay 0 12) j m k cmd.refused
    | _, _, _ => s.refuse cmd.cmd 0x0C 0

/-- A low-rank layer's part of a checkpoint as read for restoring: where it lies in the plaintext, and whether the ranks agree. -/
structure LowRankRead where
  entry : Nat × Bytes
  at_ : Nat
  same : Bool

/-- The low-rank parts from an offset on: none where a rank differs and fresh is not set (R257), with the offset after them. -/
def State.readParts (s : State) (j : Job) (text : Bytes) : List (Nat × Bytes) → Nat → Option (List LowRankRead × Nat)
  | [], at_ => some ([], at_)
  | x :: xs, at_ =>
    let r := leAt text at_ 2
    let same := decide (r = lrRank x.2)
    let size := 2 + 260 * ((lrN x.2 * r + 127) / 128) + 64 * lrLines x.2
    if !same && !s.lrFresh j x.1 then none
    else (State.readParts s j text xs (at_ + size)).map fun p => (⟨x, at_ + 2, same⟩ :: p.1, p.2)

/-- The places of a checkpoint's arrays: hi16, lo16, state, low-rank parts. -/
def Job.hi16Off (j : Job) : Nat := 128 + 4 * j.escalations.length
def Job.lo16Off (j : Job) : Nat := j.hi16Off + 2 * j.npar
def Job.stateOff (j : Job) : Nat := j.lo16Off + 2 * j.npar
def Job.partsOff (j : Job) : Nat := j.stateOff + j.stateSize

/-- One chunk's weights restored. -/
def State.restoreChunk (s : State) (n : Nat) (j : Job) (d : Bytes) (text : Bytes) (c : Nat) : State :=
  s.storeWeights n j d c ((List.range (withinLayer d c)).map fun i =>
    65536 * leAt text (j.hi16Off + 2 * (128 * c + i)) 2 + leAt text (j.lo16Off + 2 * (128 * c + i)) 2)

/-- A low-rank layer restored (R257): slot 0 takes the buffers, fresh stays clear; a layer of another rank starts again. -/
def State.restorePart (s : State) (n : Nat) (j : Job) (text : Bytes) (p : LowRankRead) : State :=
  let e := p.entry.2
  if p.same then
    let s1 := s.jobStore n j (lrQ e 0) (slice text p.at_ (260 * lrChunks e))
    (s1.jobStore n j (lrE e 0) (slice text (p.at_ + 260 * lrChunks e) (64 * lrLines e))).putSlot n j p.entry.1 0 false
  else s.putSlot n j p.entry.1 0 true

/-- A job as a checkpoint restores it (R232, R426, R453). -/
def Job.restored (j : Job) (text : Bytes) : Job :=
  let f := fun (i : Nat) => leAt text (8 * i) 8
  let step := if f 0 = 2 ^ 64 - 1 then none else some (f 0)
  let esc := (List.range j.escalations.length).map fun i =>
    let b := leAt text (128 + 4 * i) 4
    { j.escalations.getD i default with mode := b % 4, run := b / 16 % 16, coming := none }
  let j1 := { j with committed := step, sealed := step, t := f 1, k := signedOf 64 (f 2), clean := f 3, norms := (List.range (min 8 (f 5))).map fun i => leAt text (48 + 8 * i) 8
                     growth := none, escalations := esc, run := none, unsound := false }
  { j1 with lateNext := j1.latePlan }

/-- The arrays written and the job restored (R426): its cores have then run no step after the restored one. -/
def State.restoreJob (s : State) (n : Nat) (j : Job) (text : Bytes) (parts : List LowRankRead) : State :=
  let s1 := j.owners.foldl (fun s d => (List.range (layerChunks d)).foldl (fun s i => s.restoreChunk n j d text (layerChunk d + i)) s) s
  let s2 := s1.jobStore n j (j.tb 48 48) (slice text j.stateOff j.stateSize)
  ((parts.foldl (fun s p => s.restorePart n j text p) s2).onJobCores n fun c => { c with step := none }).onJob n fun j => j.restored text

/-- A checkpoint that opened, held against the job (R257, R426). -/
def State.takeCheckpoint (s : State) (cmd n : Nat) (j : Job) (text : Bytes) : State :=
  match s.readParts j text j.lowrank j.partsOff with
  | none => s.refuse cmd 0x07 0
  | some (parts, size) =>
    if leAt text 32 8 ≠ j.npar || size ≠ text.length then s.refuse cmd 0x07 0
    else (s.restoreJob n j text parts).finish cmd 0x00 0

/-- CHECKPOINT_RESTORE (R257, R426, R453). -/
def execCheckpointRestore (cmd : Nat) (host : Option Bytes) (s : State) : Answer :=
  onCommand s cmd 0x24 fun c =>
    match host, SMap.find? s.jobs (c.pay 0 12), (s.lease c.atelier).commission, (s.lease c.atelier).keys with
    | none, _, _, _ => s.finish cmd 0x0E 0
    | some bs, some j, some m, some k =>
      let b := bs.take (c.pay 128 64)
      let t := s.readFor c (c.pay 64 64) (c.pay 128 64)
      if j.serving || j.running || j.run.any (·.launched) then s.refuse cmd 0x07 0
      else if slice b 24 32 ≠ m.digest then t.refuse cmd 0x0C 0
      else match openStream (ckptKey k.cs m.digest (slice b 56 16)) b with
        | some text => t.takeCheckpoint cmd (c.pay 0 12) j text
        | none => t.refuse cmd 0x0C 0
    | _, _, _, _ => s.refuse cmd 0x0C 0

/-! ### Exhibits -/

/-- Fields of an exhibit order (R427). -/
def orderSigs (b : Bytes) : Nat := bitsIn b 1120 8
def orderSize (b : Bytes) : Nat := 256 + 72 * orderSigs b
def orderNonce (b : Bytes) : Bytes := slice b 120 16
def orderFmt (b : Bytes) : Nat := bitsIn b 60 4
def orderVar (b : Bytes) : Nat := bitsIn b 64 2

/-- Whether an order names a format an exhibit may have (R427). -/
def exhibitFmt (fmt var : Nat) : Bool :=
  if fmt = 0 || fmt = 1 then var = 0 else [3, 4, 7].contains fmt && (fmtVar fmt var).isSome && (fmt ≠ 7 || var ≠ 0)

/-- Whether an order's fields keep their limits (R427); its reserved bits are ignored (R11). -/
def orderGood (b : Bytes) (n : Nat) : Bool :=
  bitsIn b 0 32 = 0x54584845 && bitsIn b 32 16 = 1 && exhibitFmt (orderFmt b) (orderVar b) && decide (1 ≤ orderSigs b) && decide (orderSigs b ≤ 16) && decide (orderSize b ≤ n)

/-- The distinct patrons whose signatures over SM3 of the body verify (R427, R428). -/
def orderSigners (b : Bytes) (m : Commission) : List Nat :=
  ((List.range (orderSigs b)).filterMap fun i =>
    let p := leAt b (256 + 72 * i) 1
    if p < m.npatron && sm2Verify (ofBytes512 (m.keys.getD p [])) (ofBytes512 (slice b (264 + 72 * i) 64)) (sm3 (slice b 0 256)) then some p else none).foldl NatSet.add []

/-- The plaintext of an exhibit (R334, R428). -/
def State.exhibitText (s : State) (j : Job) (fmt var : Nat) : Bytes :=
  let layer := fun (bs : Bytes) => padTo (roundUp bs.length 64) bs
  if fmt = 0 then j.owners.flatMap fun d => layer ((s.layerWeights j d).flatMap (leBytes 4))
  else if fmt = 1 then j.owners.flatMap fun d => layer ((s.layerWeights j d).flatMap fun w => leBytes 2 (w / 65536))
  else match fmtVar fmt var with
    | some (f, v) => s.snapshotBytes j f v
    | none => []

/-- Whether an order stands under a lease (R428). -/
def orderAllowed (l : Lease) (m : Commission) (j : Job) (b : Bytes) : Bool :=
  m.exhibit && slice b 24 32 = m.digest && bitsIn b 1088 32 = l.serial.toNat && decide (m.quorum ≤ (orderSigners b m).length) && (j.committed.any fun k => decide (bitsIn b 128 64 ≤ k)) &&
  !l.orders.contains (orderNonce b) && decide (l.orders.length < 1024)

/-- An accepted order carried out (R428): an export key is drawn and wrapped to the recipient, whose key must be one (R320). -/
def State.exhibit (s : State) (cmd : Nat) (c : Cmd) (j : Job) (m : Commission) (b : Bytes) (refused : Bool) : State :=
  let key := s.drawBytes 16
  match sm2Encrypt (ofBytes512 (slice b 56 64)) key (Config.entropy (s.drawn + 1)) with
  | none => s.refuse cmd 0x07 0
  | some wkey =>
  let h : StreamHead := ⟨2, bitsIn b 48 12, orderFmt b, orderVar b, j.committed.getD 0, m.digest, [], slice wkey 0 113, sm3 (slice b 0 (orderSize b))⟩
  let text := s.exhibitText j (orderFmt b) (orderVar b)
  let l := s.lease c.atelier
  if c.pay 160 32 < streamSize text.length then s.refuse cmd 0x09 0
  else if !j.owners.all (s.committedReadable j (decide (orderFmt b = 0))) then s.finish cmd 0x0E 0
  else
    let t := s.drew.drew.setLease c.atelier { l with orders := l.orders ++ [orderNonce b] }
    if refused then t.finish cmd 0x0E 0 else (t.sendHost c (c.pay 96 64) (sealStream h key text)).finish cmd 0x00 0

/-- EXHIBIT (R301, R424, R427, R428): `host` is the order as it is read, and `refused` says that the host refuses the writes. -/
def execExhibitCommand (cmd : Nat) (host : HostAnswer) (s : State) : Answer :=
  onCommand s cmd 0x22 fun c =>
    match host.read, (s.lease c.atelier).commission with
    | none, _ => s.finish cmd 0x0E 0
    | some _, none => s.refuse cmd 0x0C 0
    | some bs, some m =>
      let b := bs.take (c.pay 64 32)
      let t := s.readFor c (c.pay 0 64) (c.pay 64 32)
      if !orderGood b b.length then t.refuse cmd 0x07 0
      else match SMap.find? s.jobs (bitsIn b 48 12) with
        | none => t.refuse cmd 0x03 0
        | some j =>
          if j.ctx ≠ c.ctx then t.refuse cmd 0x05 0
          else if j.serving then t.refuse cmd 0x07 0
          else if !orderAllowed (s.lease c.atelier) m j b then t.refuse cmd 0x0C 0
          else t.exhibit cmd c j m b host.refused

end Sys2Proof.Machine
end

