-- ==== Sys2Proof/Machine/VectorWords.lean ====
section
/-!
DEFINITION. The vector opcodes of R155: one meaning per opcode, each one whole beat of the named core (notes/assumptions/4.md).
-/
namespace Sys2Proof.Machine

/-- VECTOR_NOP (R155): Vector opcode 0x00 issues no vector operation. -/
def execVectorNop (core : Nat) (upset : Bool) (s : State) : Answer := wordRow core upset s (isVector 0x00)

/-- VECTOR_LD (R154, R155): Loads one 64 B line into half of a tile-register row (`lineLd`). -/
def execVectorLd (core : Nat) (upset : Bool) (s : State) : Answer := wordRow core upset s (isVector 0x01)

/-- VECTOR_ST (R154, R155): Stores half of a tile-register row to one 64 B line (`lineSt`). -/
def execVectorSt (core : Nat) (upset : Bool) (s : State) : Answer := wordRow core upset s (isVector 0x02)

/-- LDB (R154, R155): Writes one line into the chosen half of all 32 rows of a tile register (`lineLdb`). -/
def execLdb (core : Nat) (upset : Bool) (s : State) : Answer := wordRow core upset s (isVector 0x03)

/-- LDS (R160, R155): Moves a scale strip from a line into the scale bytes of every row of a tile register (`lineLds`). -/
def execLds (core : Nat) (upset : Bool) (s : State) : Answer := wordRow core upset s (isVector 0x04)

/-- STS (R160, R155): Moves the scale bytes of every row of a tile register into a scale-strip line (`lineSts`). -/
def execSts (core : Nat) (upset : Bool) (s : State) : Answer := wordRow core upset s (isVector 0x05)

/-- TREQ (R166, R155): Sends a 64 B table request line to the quadrant's gather or scatter-add unit, capturing the core number and epoch (`lineTreq`). -/
def execTreq (core : Nat) (upset : Bool) (s : State) : Answer := wordRow core upset s (isVector 0x06)

/-- VECTOR_ADD (R156, R155): Element-wise A + B in FP32 or INT32 (`elemAdd`). -/
def execVectorAdd (core : Nat) (upset : Bool) (s : State) : Answer := wordRow core upset s (isVector 0x10)

/-- VECTOR_SUB (R156, R155): Element-wise A − B in FP32 or INT32 (`elemSub`). -/
def execVectorSub (core : Nat) (upset : Bool) (s : State) : Answer := wordRow core upset s (isVector 0x11)

/-- VECTOR_MUL (R156, R155): Element-wise A × B in FP32 or INT32 (`elemMul`). -/
def execVectorMul (core : Nat) (upset : Bool) (s : State) : Answer := wordRow core upset s (isVector 0x12)

/-- VECTOR_FMA (R156, R155): Element-wise A × B + D with one rounding (`elemFma`). -/
def execVectorFma (core : Nat) (upset : Bool) (s : State) : Answer := wordRow core upset s (isVector 0x13)

/-- FNMA (R156, R155): Element-wise D − A × B with one rounding (`elemFnma`). -/
def execFnma (core : Nat) (upset : Bool) (s : State) : Answer := wordRow core upset s (isVector 0x14)

/-- VECTOR_MIN (R156, R155): Element-wise smaller of A and B (`elemMin`). -/
def execVectorMin (core : Nat) (upset : Bool) (s : State) : Answer := wordRow core upset s (isVector 0x15)

/-- VECTOR_MAX (R156, R155): Element-wise larger of A and B (`elemMax`). -/
def execVectorMax (core : Nat) (upset : Bool) (s : State) : Answer := wordRow core upset s (isVector 0x16)

/-- ABS (R156, R155): Element-wise absolute value of A (`elemAbs`). -/
def execAbs (core : Nat) (upset : Bool) (s : State) : Answer := wordRow core upset s (isVector 0x17)

/-- NEG (R156, R155): Element-wise negation of A (`elemNeg`). -/
def execNeg (core : Nat) (upset : Bool) (s : State) : Answer := wordRow core upset s (isVector 0x18)

/-- VECTOR_MOV (R155): Element-wise copy of A (`elemMov`). -/
def execVectorMov (core : Nat) (upset : Bool) (s : State) : Answer := wordRow core upset s (isVector 0x19)

/-- VECTOR_CEQ (R156, R155): Element-wise INT32 1 where A equals B, else 0 (`elemCeq`). -/
def execVectorCeq (core : Nat) (upset : Bool) (s : State) : Answer := wordRow core upset s (isVector 0x1A)

/-- CLT (R156, R155): Element-wise INT32 1 where A is less than B, else 0 (`elemClt`). -/
def execClt (core : Nat) (upset : Bool) (s : State) : Answer := wordRow core upset s (isVector 0x1B)

/-- CLE (R156, R155): Element-wise INT32 1 where A is at most B, else 0 (`elemCle`). -/
def execCle (core : Nat) (upset : Bool) (s : State) : Answer := wordRow core upset s (isVector 0x1C)

/-- VECTOR_SEL (R155): Element-wise selection of A where D is non-zero, else B, as 32-bit patterns (`elemSel`). -/
def execVectorSel (core : Nat) (upset : Bool) (s : State) : Answer := wordRow core upset s (isVector 0x1D)

/-- VECTOR_AND (R155): Bitwise AND of 32-bit patterns (`elemAnd`). -/
def execVectorAnd (core : Nat) (upset : Bool) (s : State) : Answer := wordRow core upset s (isVector 0x1E)

/-- VECTOR_OR (R155): Bitwise OR of 32-bit patterns (`elemOr`). -/
def execVectorOr (core : Nat) (upset : Bool) (s : State) : Answer := wordRow core upset s (isVector 0x1F)

/-- VECTOR_XOR (R155): Bitwise XOR of 32-bit patterns (`elemXor`). -/
def execVectorXor (core : Nat) (upset : Bool) (s : State) : Answer := wordRow core upset s (isVector 0x20)

/-- VECTOR_SHL (R156, R155): Element-wise left shift of A by B mod 32 (`elemShl`). -/
def execVectorShl (core : Nat) (upset : Bool) (s : State) : Answer := wordRow core upset s (isVector 0x21)

/-- VECTOR_SHR (R156, R155): Element-wise logical right shift of A by B mod 32 (`elemShr`). -/
def execVectorShr (core : Nat) (upset : Bool) (s : State) : Answer := wordRow core upset s (isVector 0x22)

/-- VECTOR_ASR (R156, R155): Element-wise arithmetic right shift of A by B mod 32 (`elemAsr`). -/
def execVectorAsr (core : Nat) (upset : Bool) (s : State) : Answer := wordRow core upset s (isVector 0x23)

/-- LDEXP (R155): Element-wise A × 2^B with B as INT32 (`elemLdexp`). -/
def execLdexp (core : Nat) (upset : Bool) (s : State) : Answer := wordRow core upset s (isVector 0x24)

/-- SGN (R156, R155): Element-wise sign of A as −1.0, ±0.0 or +1.0 (`elemSgn`). -/
def execSgn (core : Nat) (upset : Bool) (s : State) : Answer := wordRow core upset s (isVector 0x25)

/-- PADD (R155): Packed 16-bit element-wise addition (`elemPadd`). -/
def execPadd (core : Nat) (upset : Bool) (s : State) : Answer := wordRow core upset s (isVector 0x28)

/-- PSUB (R155): Packed 16-bit element-wise subtraction (`elemPsub`). -/
def execPsub (core : Nat) (upset : Bool) (s : State) : Answer := wordRow core upset s (isVector 0x29)

/-- PMUL (R155): Packed 16-bit element-wise multiplication (`elemPmul`). -/
def execPmul (core : Nat) (upset : Bool) (s : State) : Answer := wordRow core upset s (isVector 0x2A)

/-- PFMA (R155): Packed 16-bit element-wise fused multiply-add (`elemPfma`). -/
def execPfma (core : Nat) (upset : Bool) (s : State) : Answer := wordRow core upset s (isVector 0x2B)

/-- PMIN (R155): Packed 16-bit element-wise minimum (`elemPmin`). -/
def execPmin (core : Nat) (upset : Bool) (s : State) : Answer := wordRow core upset s (isVector 0x2C)

/-- PMAX (R155): Packed 16-bit element-wise maximum (`elemPmax`). -/
def execPmax (core : Nat) (upset : Bool) (s : State) : Answer := wordRow core upset s (isVector 0x2D)

/-- CVT (R159, R155): Converts a tile from an unscaled source format to the target format and variant (`convertCvt`). -/
def execCvt (core : Nat) (upset : Bool) (s : State) : Answer := wordRow core upset s (isVector 0x30)

/-- CVT32 (R159, R155): Converts a tile from a B32E8-scaled source to the target format and variant (`convertCvt32`). -/
def execCvt32 (core : Nat) (upset : Bool) (s : State) : Answer := wordRow core upset s (isVector 0x31)

/-- CVT16 (R159, R155): Converts a tile from a B16F8-scaled source to the target format and variant (`convertCvt16`). -/
def execCvt16 (core : Nat) (upset : Bool) (s : State) : Answer := wordRow core upset s (isVector 0x32)

/-- SCL (R159, R155): Computes the block scales a conversion would choose and writes them to the scale bytes of the destination (`convertScl`). -/
def execScl (core : Nat) (upset : Bool) (s : State) : Answer := wordRow core upset s (isVector 0x33)

/-- RSUM (R157, R155): Per-row sum of a tile into row 0 of the destination (`reduceRsum`). -/
def execRsum (core : Nat) (upset : Bool) (s : State) : Answer := wordRow core upset s (isVector 0x38)

/-- RMAX (R157, R155): Per-row maximum of a tile into row 0 of the destination (`reduceRmax`). -/
def execRmax (core : Nat) (upset : Bool) (s : State) : Answer := wordRow core upset s (isVector 0x39)

/-- RMIN (R157, R155): Per-row minimum of a tile into row 0 of the destination (`reduceRmin`). -/
def execRmin (core : Nat) (upset : Bool) (s : State) : Answer := wordRow core upset s (isVector 0x3A)

/-- RAMAX (R157, R155): Per-row maximum magnitude of a tile into row 0 of the destination (`reduceRamax`). -/
def execRamax (core : Nat) (upset : Bool) (s : State) : Answer := wordRow core upset s (isVector 0x3B)

/-- RSSQ (R157, R155): Per-row sum of squares of a tile into row 0 of the destination (`reduceRssq`). -/
def execRssq (core : Nat) (upset : Bool) (s : State) : Answer := wordRow core upset s (isVector 0x3C)

/-- CSUM (R157, R155): Per-column sum of a tile into row 0 of the destination (`reduceCsum`). -/
def execCsum (core : Nat) (upset : Bool) (s : State) : Answer := wordRow core upset s (isVector 0x40)

/-- CMAX (R157, R155): Per-column maximum of a tile into row 0 of the destination (`reduceCmax`). -/
def execCmax (core : Nat) (upset : Bool) (s : State) : Answer := wordRow core upset s (isVector 0x41)

/-- CMIN (R157, R155): Per-column minimum of a tile into row 0 of the destination (`reduceCmin`). -/
def execCmin (core : Nat) (upset : Bool) (s : State) : Answer := wordRow core upset s (isVector 0x42)

/-- CAMAX (R157, R155): Per-column maximum magnitude of a tile into row 0 of the destination (`reduceCamax`). -/
def execCamax (core : Nat) (upset : Bool) (s : State) : Answer := wordRow core upset s (isVector 0x43)

/-- CSSQ (R157, R155): Per-column sum of squares of a tile into row 0 of the destination (`reduceCssq`). -/
def execCssq (core : Nat) (upset : Bool) (s : State) : Answer := wordRow core upset s (isVector 0x44)

/-- TRN (R155): Transposes a 32-bit tile into the destination. -/
def execTrn (core : Nat) (upset : Bool) (s : State) : Answer := wordRow core upset s (isVector 0x48)

/-- EXP (R161, R155): Correctly rounded element-wise e^x (`specialExp`). -/
def execExp (core : Nat) (upset : Bool) (s : State) : Answer := wordRow core upset s (isVector 0x50)

/-- LOG (R161, R155): Correctly rounded element-wise natural logarithm (`specialLog`). -/
def execLog (core : Nat) (upset : Bool) (s : State) : Answer := wordRow core upset s (isVector 0x51)

/-- RSQRT (R161, R155): Correctly rounded element-wise reciprocal square root (`specialRsqrt`). -/
def execRsqrt (core : Nat) (upset : Bool) (s : State) : Answer := wordRow core upset s (isVector 0x52)

/-- SIN (R161, R155): Correctly rounded element-wise sine (`specialSin`). -/
def execSin (core : Nat) (upset : Bool) (s : State) : Answer := wordRow core upset s (isVector 0x53)

/-- COS (R161, R155): Correctly rounded element-wise cosine (`specialCos`). -/
def execCos (core : Nat) (upset : Bool) (s : State) : Answer := wordRow core upset s (isVector 0x54)

/-- RCP (R161, R155): Correctly rounded element-wise reciprocal (`specialRcp`). -/
def execRcp (core : Nat) (upset : Bool) (s : State) : Answer := wordRow core upset s (isVector 0x55)

/-- HAD (R162, R155): Walsh–Hadamard transform of length 2^m with no sign diagonal. -/
def execHad (core : Nat) (upset : Bool) (s : State) : Answer := wordRow core upset s (isVector 0x58)

/-- HADF (R162, R155): Walsh–Hadamard transform with the sign diagonal applied first. -/
def execHadf (core : Nat) (upset : Bool) (s : State) : Answer := wordRow core upset s (isVector 0x59)

/-- HADL (R162, R155): Walsh–Hadamard transform with the sign diagonal applied last. -/
def execHadl (core : Nat) (upset : Bool) (s : State) : Answer := wordRow core upset s (isVector 0x5A)

end Sys2Proof.Machine
end

