-- ==== Sys2Proof/Machine/Dispatch.lean ====
section
/-!
DEFINITION. The effect of a command on everything but the queue: one arm per row of the opcode table.
-/
namespace Sys2Proof.Machine

def exec (i : Instr) (s : State) : Host.Outcome State Fault Refusal :=
  match i with
  | .streamAccumulate core upset => Sys2Proof.Machine.execStreamAccumulate core upset s
  | .streamInitialise core upset => Sys2Proof.Machine.execStreamInitialise core upset s
  | .wash core upset => Sys2Proof.Machine.execWash core upset s
  | .washTransposed core upset => Sys2Proof.Machine.execWashTransposed core upset s
  | .heldWeightRowWrite core => Sys2Proof.Machine.execHeldWeightRowWrite core s
  | .tokenLanding core => Sys2Proof.Machine.execTokenLanding core s
  | .operationLanding core => Sys2Proof.Machine.execOperationLanding core s
  | .readout core upset => Sys2Proof.Machine.execReadout core upset s
  | .collectiveTrigger core upset => Sys2Proof.Machine.execCollectiveTrigger core upset s
  | .loopClose core upset => Sys2Proof.Machine.execLoopClose core upset s
  | .conditionalExit core upset => Sys2Proof.Machine.execConditionalExit core upset s
  | .setLevel core upset => Sys2Proof.Machine.execSetLevel core upset s
  | .setBase core upset => Sys2Proof.Machine.execSetBase core upset s
  | .setStrides core upset => Sys2Proof.Machine.execSetStrides core upset s
  | .setStream core upset => Sys2Proof.Machine.execSetStream core upset s
  | .loadImm core upset => Sys2Proof.Machine.execLoadImm core upset s
  | .sendMessage core upset => Sys2Proof.Machine.execSendMessage core upset s
  | .postWindow core upset => Sys2Proof.Machine.execPostWindow core upset s
  | .waitRecv core upset => Sys2Proof.Machine.execWaitRecv core upset s
  | .waitSend core upset => Sys2Proof.Machine.execWaitSend core upset s
  | .messageArrival index => Sys2Proof.Machine.execMessageArrival index s
  | .sendCompletion index => Sys2Proof.Machine.execSendCompletion index s
  | .collectiveBind core upset => Sys2Proof.Machine.execCollectiveBind core upset s
  | .unbind core upset => Sys2Proof.Machine.execUnbind core upset s
  | .endProgram core upset => Sys2Proof.Machine.execEndProgram core upset s
  | .breakPoint core upset => Sys2Proof.Machine.execBreakPoint core upset s
  | .checkRegister core upset => Sys2Proof.Machine.execCheckRegister core upset s
  | .runAheadFetch core gen => Sys2Proof.Machine.execRunAheadFetch core gen s
  | .stagedLineArrival core gen bad => Sys2Proof.Machine.execStagedLineArrival core gen bad s
  | .chunkPacker core => Sys2Proof.Machine.execChunkPacker core s
  | .vectorNop core upset => Sys2Proof.Machine.execVectorNop core upset s
  | .vectorLd core upset => Sys2Proof.Machine.execVectorLd core upset s
  | .vectorSt core upset => Sys2Proof.Machine.execVectorSt core upset s
  | .ldb core upset => Sys2Proof.Machine.execLdb core upset s
  | .lds core upset => Sys2Proof.Machine.execLds core upset s
  | .sts core upset => Sys2Proof.Machine.execSts core upset s
  | .treq core upset => Sys2Proof.Machine.execTreq core upset s
  | .vectorAdd core upset => Sys2Proof.Machine.execVectorAdd core upset s
  | .vectorSub core upset => Sys2Proof.Machine.execVectorSub core upset s
  | .vectorMul core upset => Sys2Proof.Machine.execVectorMul core upset s
  | .vectorFma core upset => Sys2Proof.Machine.execVectorFma core upset s
  | .fnma core upset => Sys2Proof.Machine.execFnma core upset s
  | .vectorMin core upset => Sys2Proof.Machine.execVectorMin core upset s
  | .vectorMax core upset => Sys2Proof.Machine.execVectorMax core upset s
  | .abs core upset => Sys2Proof.Machine.execAbs core upset s
  | .neg core upset => Sys2Proof.Machine.execNeg core upset s
  | .vectorMov core upset => Sys2Proof.Machine.execVectorMov core upset s
  | .vectorCeq core upset => Sys2Proof.Machine.execVectorCeq core upset s
  | .clt core upset => Sys2Proof.Machine.execClt core upset s
  | .cle core upset => Sys2Proof.Machine.execCle core upset s
  | .vectorSel core upset => Sys2Proof.Machine.execVectorSel core upset s
  | .vectorAnd core upset => Sys2Proof.Machine.execVectorAnd core upset s
  | .vectorOr core upset => Sys2Proof.Machine.execVectorOr core upset s
  | .vectorXor core upset => Sys2Proof.Machine.execVectorXor core upset s
  | .vectorShl core upset => Sys2Proof.Machine.execVectorShl core upset s
  | .vectorShr core upset => Sys2Proof.Machine.execVectorShr core upset s
  | .vectorAsr core upset => Sys2Proof.Machine.execVectorAsr core upset s
  | .ldexp core upset => Sys2Proof.Machine.execLdexp core upset s
  | .sgn core upset => Sys2Proof.Machine.execSgn core upset s
  | .padd core upset => Sys2Proof.Machine.execPadd core upset s
  | .psub core upset => Sys2Proof.Machine.execPsub core upset s
  | .pmul core upset => Sys2Proof.Machine.execPmul core upset s
  | .pfma core upset => Sys2Proof.Machine.execPfma core upset s
  | .pmin core upset => Sys2Proof.Machine.execPmin core upset s
  | .pmax core upset => Sys2Proof.Machine.execPmax core upset s
  | .cvt core upset => Sys2Proof.Machine.execCvt core upset s
  | .cvt32 core upset => Sys2Proof.Machine.execCvt32 core upset s
  | .cvt16 core upset => Sys2Proof.Machine.execCvt16 core upset s
  | .scl core upset => Sys2Proof.Machine.execScl core upset s
  | .rsum core upset => Sys2Proof.Machine.execRsum core upset s
  | .rmax core upset => Sys2Proof.Machine.execRmax core upset s
  | .rmin core upset => Sys2Proof.Machine.execRmin core upset s
  | .ramax core upset => Sys2Proof.Machine.execRamax core upset s
  | .rssq core upset => Sys2Proof.Machine.execRssq core upset s
  | .csum core upset => Sys2Proof.Machine.execCsum core upset s
  | .cmax core upset => Sys2Proof.Machine.execCmax core upset s
  | .cmin core upset => Sys2Proof.Machine.execCmin core upset s
  | .camax core upset => Sys2Proof.Machine.execCamax core upset s
  | .cssq core upset => Sys2Proof.Machine.execCssq core upset s
  | .trn core upset => Sys2Proof.Machine.execTrn core upset s
  | .exp core upset => Sys2Proof.Machine.execExp core upset s
  | .log core upset => Sys2Proof.Machine.execLog core upset s
  | .rsqrt core upset => Sys2Proof.Machine.execRsqrt core upset s
  | .sin core upset => Sys2Proof.Machine.execSin core upset s
  | .cos core upset => Sys2Proof.Machine.execCos core upset s
  | .rcp core upset => Sys2Proof.Machine.execRcp core upset s
  | .had core upset => Sys2Proof.Machine.execHad core upset s
  | .hadf core upset => Sys2Proof.Machine.execHadf core upset s
  | .hadl core upset => Sys2Proof.Machine.execHadl core upset s
  | .scalarNop core upset => Sys2Proof.Machine.execScalarNop core upset s
  | .scalarAdd core upset => Sys2Proof.Machine.execScalarAdd core upset s
  | .scalarSub core upset => Sys2Proof.Machine.execScalarSub core upset s
  | .scalarAnd core upset => Sys2Proof.Machine.execScalarAnd core upset s
  | .scalarOr core upset => Sys2Proof.Machine.execScalarOr core upset s
  | .scalarXor core upset => Sys2Proof.Machine.execScalarXor core upset s
  | .scalarShl core upset => Sys2Proof.Machine.execScalarShl core upset s
  | .scalarShr core upset => Sys2Proof.Machine.execScalarShr core upset s
  | .scalarAsr core upset => Sys2Proof.Machine.execScalarAsr core upset s
  | .scalarCeq core upset => Sys2Proof.Machine.execScalarCeq core upset s
  | .cltu core upset => Sys2Proof.Machine.execCltu core upset s
  | .clts core upset => Sys2Proof.Machine.execClts core upset s
  | .scalarMin core upset => Sys2Proof.Machine.execScalarMin core upset s
  | .scalarMax core upset => Sys2Proof.Machine.execScalarMax core upset s
  | .scalarSel core upset => Sys2Proof.Machine.execScalarSel core upset s
  | .scalarMov core upset => Sys2Proof.Machine.execScalarMov core upset s
  | .scalarMul core upset => Sys2Proof.Machine.execScalarMul core upset s
  | .mulhu core upset => Sys2Proof.Machine.execMulhu core upset s
  | .mulhs core upset => Sys2Proof.Machine.execMulhs core upset s
  | .scalarLd core upset => Sys2Proof.Machine.execScalarLd core upset s
  | .scalarSt core upset => Sys2Proof.Machine.execScalarSt core upset s
  | .mvg core upset => Sys2Proof.Machine.execMvg core upset s
  | .fadd core upset => Sys2Proof.Machine.execFadd core upset s
  | .fsub core upset => Sys2Proof.Machine.execFsub core upset s
  | .fmul core upset => Sys2Proof.Machine.execFmul core upset s
  | .scalarFma core upset => Sys2Proof.Machine.execScalarFma core upset s
  | .fmin core upset => Sys2Proof.Machine.execFmin core upset s
  | .fmax core upset => Sys2Proof.Machine.execFmax core upset s
  | .fclt core upset => Sys2Proof.Machine.execFclt core upset s
  | .f64to32 core upset => Sys2Proof.Machine.execF64to32 core upset s
  | .f32to64 core upset => Sys2Proof.Machine.execF32to64 core upset s
  | .gatherToWindow quadrant => Sys2Proof.Machine.execGatherToWindow quadrant s
  | .gatherToFarMemory quadrant => Sys2Proof.Machine.execGatherToFarMemory quadrant s
  | .scatterAdd run => Sys2Proof.Machine.execScatterAdd run s
  | .coreLaunch core job => Sys2Proof.Machine.execCoreLaunch core job s
  | .reservoirPatrolScrub panel bad corrected => Sys2Proof.Machine.execReservoirPatrolScrub panel bad corrected s
  | .sramCorrectedErrorRate panel count => Sys2Proof.Machine.execSramCorrectedErrorRate panel count s
  | .gddr7Refresh channel => Sys2Proof.Machine.execGddr7Refresh channel s
  | .gddr7TemperatureReadout channel temp => Sys2Proof.Machine.execGddr7TemperatureReadout channel temp s
  | .gddr7EccCountRead channel count => Sys2Proof.Machine.execGddr7EccCountRead channel count s
  | .gddr7RetriesExhausted channel region line write => Sys2Proof.Machine.execGddr7RetriesExhausted channel region line write s
  | .protectedLineRead region line lost first second => Sys2Proof.Machine.execProtectedLineRead region line lost first second s
  | .protectedLineWrite region line data => Sys2Proof.Machine.execProtectedLineWrite region line data s
  | .partialLineWrite region line off data lost good => Sys2Proof.Machine.execPartialLineWrite region line off data lost good s
  | .regionRekey region lines bad => Sys2Proof.Machine.execRegionRekey region lines bad s
  | .moduleAreaPatrol die lines nodes => Sys2Proof.Machine.execModuleAreaPatrol die lines nodes s
  | .dmaSegmentIssue die host => Sys2Proof.Machine.execDmaSegmentIssue die host s
  | .transferTagGrant atelier host => Sys2Proof.Machine.execTransferTagGrant atelier host s
  | .dmaSegmentComplete tag => Sys2Proof.Machine.execDmaSegmentComplete tag s
  | .stepLaunch job => Sys2Proof.Machine.execStepLaunch job s
  | .layerCountGather job => Sys2Proof.Machine.execLayerCountGather job s
  | .updateRoutineLaunch job layer => Sys2Proof.Machine.execUpdateRoutineLaunch job layer s
  | .sealRecordBuild job => Sys2Proof.Machine.execSealRecordBuild job s
  | .sealDecision job => Sys2Proof.Machine.execSealDecision job s
  | .sealActions job => Sys2Proof.Machine.execSealActions job s
  | .sealTimeout job => Sys2Proof.Machine.execSealTimeout job s
  | .chunkReceive die => Sys2Proof.Machine.execChunkReceive die s
  | .adder die => Sys2Proof.Machine.execAdder die s
  | .portBringUp port => Sys2Proof.Machine.execPortBringUp port s
  | .peerDetectTimeout port => Sys2Proof.Machine.execPeerDetectTimeout port s
  | .equalisationAttempt port success => Sys2Proof.Machine.execEqualisationAttempt port success s
  | .bringUpRetry port => Sys2Proof.Machine.execBringUpRetry port s
  | .helloFlit port => Sys2Proof.Machine.execHelloFlit port s
  | .retrain port => Sys2Proof.Machine.execRetrain port s
  | .retrainRequest port => Sys2Proof.Machine.execRetrainRequest port s
  | .portLost port => Sys2Proof.Machine.execPortLost port s
  | .codewordReceive port errors cseq lcmap flits => Sys2Proof.Machine.execCodewordReceive port errors cseq lcmap flits s
  | .ackAndCredit port => Sys2Proof.Machine.execAckAndCredit port s
  | .packetSend port => Sys2Proof.Machine.execPacketSend port s
  | .bulkWrite port => Sys2Proof.Machine.execBulkWrite port s
  | .chunksPacket port => Sys2Proof.Machine.execChunksPacket port s
  | .sparsePairs port => Sys2Proof.Machine.execSparsePairs port s
  | .gatherPacket port => Sys2Proof.Machine.execGatherPacket port s
  | .abortPacket port => Sys2Proof.Machine.execAbortPacket port s
  | .endToEndAck port => Sys2Proof.Machine.execEndToEndAck port s
  | .sessionKind1 port => Sys2Proof.Machine.execSessionKind1 port s
  | .sessionKind2 port => Sys2Proof.Machine.execSessionKind2 port s
  | .sessionKind3 port => Sys2Proof.Machine.execSessionKind3 port s
  | .sessionRetry peer => Sys2Proof.Machine.execSessionRetry peer s
  | .sessionRekey peer => Sys2Proof.Machine.execSessionRekey peer s
  | .realTimeParcel port => Sys2Proof.Machine.execRealTimeParcel port s
  | .bulkResponse port => Sys2Proof.Machine.execBulkResponse port s
  | .galleryRetransmission peer => Sys2Proof.Machine.execGalleryRetransmission peer s
  | .endToEndAckTimer peer => Sys2Proof.Machine.execEndToEndAckTimer peer s
  | .railDestinationLost peer => Sys2Proof.Machine.execRailDestinationLost peer s
  | .collectiveLaunch job desc => Sys2Proof.Machine.execCollectiveLaunch job desc s
  | .collectiveTimeout job desc => Sys2Proof.Machine.execCollectiveTimeout job desc s
  | .collectiveCompletion job desc => Sys2Proof.Machine.execCollectiveCompletion job desc s
  | .attach port fn vmin vmax takeover ring cq shadow args => Sys2Proof.Machine.execAttach port fn vmin vmax takeover ring cq shadow args s
  | .detach port fn => Sys2Proof.Machine.execDetach port fn s
  | .sillage port fn addr len => Sys2Proof.Machine.execSillage port fn addr len s
  | .atelierReset port fn arg => Sys2Proof.Machine.execAtelierReset port fn arg s
  | .sqTail port fn queue value => Sys2Proof.Machine.execSqTail port fn queue value s
  | .cqHead port fn queue value => Sys2Proof.Machine.execCqHead port fn queue value s
  | .perstAssert port => Sys2Proof.Machine.execPerstAssert port s
  | .hotReset port => Sys2Proof.Machine.execHotReset port s
  | .pcieLinkLoss port => Sys2Proof.Machine.execPcieLinkLoss port s
  | .functionLevelReset port fn => Sys2Proof.Machine.execFunctionLevelReset port fn s
  | .detachmentQueueDestroy queue => Sys2Proof.Machine.execDetachmentQueueDestroy queue s
  | .atsInvalidation port pasid page => Sys2Proof.Machine.execAtsInvalidation port pasid page s
  | .commandFetch queue entry => Sys2Proof.Machine.execCommandFetch queue entry s
  | .commandStart queue => Sys2Proof.Machine.execCommandStart queue s
  | .ctxCreate cmd => Sys2Proof.Machine.execCtxCreate cmd s
  | .ctxBind cmd => Sys2Proof.Machine.execCtxBind cmd s
  | .ctxDestroy cmd => Sys2Proof.Machine.execCtxDestroy cmd s
  | .queueCreate cmd => Sys2Proof.Machine.execQueueCreate cmd s
  | .queueDestroy cmd => Sys2Proof.Machine.execQueueDestroy cmd s
  | .mobjCreate cmd => Sys2Proof.Machine.execMobjCreate cmd s
  | .mobjFree cmd => Sys2Proof.Machine.execMobjFree cmd s
  | .fenceCreate cmd => Sys2Proof.Machine.execFenceCreate cmd s
  | .fenceDestroy cmd => Sys2Proof.Machine.execFenceDestroy cmd s
  | .imageLoad cmd host => Sys2Proof.Machine.execImageLoad cmd host s
  | .imageFree cmd => Sys2Proof.Machine.execImageFree cmd s
  | .collCreate cmd => Sys2Proof.Machine.execCollCreate cmd s
  | .collFree cmd => Sys2Proof.Machine.execCollFree cmd s
  | .jobCreate cmd members objs forms => Sys2Proof.Machine.execJobCreate cmd members objs forms s
  | .jobRun cmd => Sys2Proof.Machine.execJobRun cmd s
  | .jobStop cmd => Sys2Proof.Machine.execJobStop cmd s
  | .dmaCommand cmd => Sys2Proof.Machine.execDmaCommand cmd s
  | .signal cmd => Sys2Proof.Machine.execSignal cmd s
  | .queueNop cmd => Sys2Proof.Machine.execQueueNop cmd s
  | .snapshot cmd => Sys2Proof.Machine.execSnapshot cmd s
  | .fenceSignal => Sys2Proof.Machine.execFenceSignal s
  | .objectRelease kind slot => Sys2Proof.Machine.execObjectRelease kind slot s
  | .recoveryWrite port addr len image success => Sys2Proof.Machine.execRecoveryWrite port addr len image success s
  | .windowBoundary senses sense => Sys2Proof.Machine.execWindowBoundary senses sense s
  | .energyMetering panel drops draw => Sys2Proof.Machine.execEnergyMetering panel drops draw s
  | .coreCommandDispatch => Sys2Proof.Machine.execCoreCommandDispatch s
  | .reservation cmd => Sys2Proof.Machine.execReservation cmd s
  | .sliceEnd job => Sys2Proof.Machine.execSliceEnd job s
  | .stopAtTileBoundary core => Sys2Proof.Machine.execStopAtTileBoundary core s
  | .decant outgoing incoming => Sys2Proof.Machine.execDecant outgoing incoming s
  | .coldStartEnd => Sys2Proof.Machine.execColdStartEnd s
  | .classFallback panel => Sys2Proof.Machine.execClassFallback panel s
  | .clampRelease panel other => Sys2Proof.Machine.execClampRelease panel other s
  | .pwrCurbNAssert => Sys2Proof.Machine.execPwrCurbNAssert s
  | .pwrCurbNRelease => Sys2Proof.Machine.execPwrCurbNRelease s
  | .periodBoundary atelier => Sys2Proof.Machine.execPeriodBoundary atelier s
  | .occurrenceOpening atelier slot => Sys2Proof.Machine.execOccurrenceOpening atelier slot s
  | .queryArrival cmd parcel => Sys2Proof.Machine.execQueryArrival cmd parcel s
  | .passEnd atelier cls => Sys2Proof.Machine.execPassEnd atelier cls s
  | .slotDeadline atelier cls => Sys2Proof.Machine.execSlotDeadline atelier cls s
  | .leasePropose cmd host => Sys2Proof.Machine.execLeasePropose cmd host s
  | .leaseShare cmd host => Sys2Proof.Machine.execLeaseShare cmd host s
  | .leaseReport cmd => Sys2Proof.Machine.execLeaseReport cmd s
  | .leaseEnd cmd => Sys2Proof.Machine.execLeaseEnd cmd s
  | .tagDrainBound atelier => Sys2Proof.Machine.execTagDrainBound atelier s
  | .exhibitCommand cmd host => Sys2Proof.Machine.execExhibitCommand cmd host s
  | .checkpointSave cmd => Sys2Proof.Machine.execCheckpointSave cmd s
  | .checkpointRestore cmd host => Sys2Proof.Machine.execCheckpointRestore cmd host s
  | .environmentalTamperEvent => Sys2Proof.Machine.execEnvironmentalTamperEvent s
  | .meshBreak => Sys2Proof.Machine.execMeshBreak s
  | .debugChallenge => Sys2Proof.Machine.execDebugChallenge s
  | .debugToken token => Sys2Proof.Machine.execDebugToken token s
  | .powerUp released => Sys2Proof.Machine.execPowerUp released s
  | .moduleBoot meshWhole failed => Sys2Proof.Machine.execModuleBoot meshWhole failed s
  | .gddr7TrainingComplete success => Sys2Proof.Machine.execGddr7TrainingComplete success s
  | .moduleReady => Sys2Proof.Machine.execModuleReady s
  | .resetNAssertion => Sys2Proof.Machine.execResetNAssertion s
  | .powerLossShutdown => Sys2Proof.Machine.execPowerLossShutdown s
  | .thermalTrip source => Sys2Proof.Machine.execThermalTrip source s
  | .tripLatchRelease => Sys2Proof.Machine.execTripLatchRelease s
  | .lrefLock => Sys2Proof.Machine.execLrefLock s
  | .lrefLoss => Sys2Proof.Machine.execLrefLoss s
  | .firmwareWatchdog die => Sys2Proof.Machine.execFirmwareWatchdog die s
  | .eraseBank success => Sys2Proof.Machine.execEraseBank success s
  | .programPage success => Sys2Proof.Machine.execProgramPage success s
  | .verifyBank => Sys2Proof.Machine.execVerifyBank s
  | .i3cPrivateWrite bytes => Sys2Proof.Machine.execI3cPrivateWrite bytes s
  | .enec events => Sys2Proof.Machine.execEnec events s
  | .disec events => Sys2Proof.Machine.execDisec events s
  | .rstdaa => Sys2Proof.Machine.execRstdaa s
  | .entdaa address => Sys2Proof.Machine.execEntdaa address s
  | .setdasa address => Sys2Proof.Machine.execSetdasa address s
  | .setnewda address => Sys2Proof.Machine.execSetnewda address s
  | .getmwl => Sys2Proof.Machine.execGetmwl s
  | .getmrl => Sys2Proof.Machine.execGetmrl s
  | .getpid => Sys2Proof.Machine.execGetpid s
  | .getbcr => Sys2Proof.Machine.execGetbcr s
  | .getdcr => Sys2Proof.Machine.execGetdcr s
  | .getstatus => Sys2Proof.Machine.execGetstatus s
  | .getmxds => Sys2Proof.Machine.execGetmxds s
  | .illegalFormatWord core upset => Sys2Proof.Machine.execIllegalFormatWord core upset s
  | .perstRelease port => Sys2Proof.Machine.execPerstRelease port s
  | .pcieLinkUp port rate width => Sys2Proof.Machine.execPcieLinkUp port rate width s
  | .portUpAgain port => Sys2Proof.Machine.execPortUpAgain port s
  | .coreStateAccess core access => Sys2Proof.Machine.execCoreStateAccess core access s

end Sys2Proof.Machine
end

