-- ==== Sys2Proof/Machine/Step.lean ====
section
/-!
DEFINITION. One step of the block: the command at the front of the queue acts on everything but the queue; with no command
waiting, one tick of the timestamp counter passes (DESIGN CHOICE, notes/assumptions/1.md).
-/
namespace Sys2Proof.Machine

/-- A tick of the timestamp counter with nothing commanded (R8). -/
def tick (s : State) : State := { s with time := s.time + 1 }

/-- One step: the command at the front, with the queue's rest. -/
def step (s : State) : Host.Outcome State Fault Refusal :=
  match s.pending with
  | [] => .next (tick s)
  | c :: rest => exec c { s with pending := rest }

/-- `s` with the command a table word spells at the front of its queue; `s` itself where the word spells none. -/
def State.withFetchWord (s : State) (nbits w : Nat) : State :=
  match decodeTableWord nbits w with
  | some c => { s with pending := c :: s.pending }
  | none => s

end Sys2Proof.Machine
end

