-- ==== Sys2Proof/Safety.lean ====
section
/-!
DEFINITION. What holds of a sound state, and what no command undoes: the terms in which the whole-module claims are made.
-/
namespace Sys2Proof.Machine

/-- A sound state: the byte memories keep their canonical form, the blotter holds no more than its ring (R455), the fuse
counters count the fuses there are (R392, R433, R436), and mstate is one of SB_STATE's codes (R485). -/
structure State.Sound (s : State) : Prop where
  gddr : s.gddr.wf = true
  reservoir : s.reservoir.wf = true
  flashA : s.flashA.wf = true
  flashB : s.flashB.wf = true
  blotter : s.blotter.entries.length ≤ if s.blotter.inArea then 65536 else 1024
  tamper : s.tamperCount ≤ 32
  testPort : s.debugCount ≤ 64
  mstate : s.mstate ≤ 5

/-- What a command does to the queue, the draws and the fuses: it leaves the queue alone, never takes a draw back, and no
fuse that is burnt is ever whole again (R392); and it keeps a sound state sound. -/
structure Onward (s t : State) : Prop where
  queue : t.pending = s.pending
  drawn : s.drawn ≤ t.drawn
  fuse : s.tamperFuse = true → t.tamperFuse = true
  tamper : s.tamperCount ≤ t.tamperCount
  testPort : s.debugCount ≤ t.debugCount
  sound : s.Sound → t.Sound

/-- Every next state an answer gives is onward of `s`. -/
def Ends (s : State) (a : Host.Outcome State Fault Refusal) : Prop := ∀ t, a = .next t → Onward s t

end Sys2Proof.Machine
end

