-- ==== Sys2Proof/WellFormed.lean ====
section
/-!
DEFINITION. What a well-formed command is: it names units the module has (R16 to R20, R189, R315 to R321) and carries the
number of bytes its row gives. A command that is not well formed cannot reach the module.
-/
namespace Sys2Proof

/-- Whether a write of CTRL_CMD names a function, and a cmd beside the row's own only where that names no command (R302, R307). -/
def CtrlGo.wellFormed (g : CtrlGo) : Bool := decide (g.fn < 17) && g.idle.all fun v => v = 0 || (decide (5 ≤ v) && decide (v ≤ 15))

/-- Whether a command is well formed. -/
def Instr.wellFormed : Instr → Bool
  | .streamAccumulate core _ => decide (core < 10368)
  | .streamInitialise core _ => decide (core < 10368)
  | .wash core _ => decide (core < 10368)
  | .washTransposed core _ => decide (core < 10368)
  | .heldWeightRowWrite core => decide (core < 10368)
  | .tokenLanding core => decide (core < 10368)
  | .operationLanding core => decide (core < 10368)
  | .readout core _ => decide (core < 10368)
  | .collectiveTrigger core _ => decide (core < 10368)
  | .loopClose core _ => decide (core < 10368)
  | .conditionalExit core _ => decide (core < 10368)
  | .setLevel core _ => decide (core < 10368)
  | .setBase core _ => decide (core < 10368)
  | .setStrides core _ => decide (core < 10368)
  | .setStream core _ => decide (core < 10368)
  | .loadImm core _ => decide (core < 10368)
  | .sendMessage core _ => decide (core < 10368)
  | .postWindow core _ => decide (core < 10368)
  | .waitRecv core _ => decide (core < 10368)
  | .waitSend core _ => decide (core < 10368)
  | .messageArrival _ => true
  | .sendCompletion _ => true
  | .collectiveBind core _ => decide (core < 10368)
  | .unbind core _ => decide (core < 10368)
  | .endProgram core _ => decide (core < 10368)
  | .breakPoint core _ => decide (core < 10368)
  | .checkRegister core _ => decide (core < 10368)
  | .runAheadFetch core gen => decide (core < 10368) && decide (gen < 4)
  | .stagedLineArrival core gen _ => decide (core < 10368) && decide (gen < 4)
  | .chunkPacker core => decide (core < 10368)
  | .vectorNop core _ => decide (core < 10368)
  | .vectorLd core _ => decide (core < 10368)
  | .vectorSt core _ => decide (core < 10368)
  | .ldb core _ => decide (core < 10368)
  | .lds core _ => decide (core < 10368)
  | .sts core _ => decide (core < 10368)
  | .treq core _ => decide (core < 10368)
  | .vectorAdd core _ => decide (core < 10368)
  | .vectorSub core _ => decide (core < 10368)
  | .vectorMul core _ => decide (core < 10368)
  | .vectorFma core _ => decide (core < 10368)
  | .fnma core _ => decide (core < 10368)
  | .vectorMin core _ => decide (core < 10368)
  | .vectorMax core _ => decide (core < 10368)
  | .abs core _ => decide (core < 10368)
  | .neg core _ => decide (core < 10368)
  | .vectorMov core _ => decide (core < 10368)
  | .vectorCeq core _ => decide (core < 10368)
  | .clt core _ => decide (core < 10368)
  | .cle core _ => decide (core < 10368)
  | .vectorSel core _ => decide (core < 10368)
  | .vectorAnd core _ => decide (core < 10368)
  | .vectorOr core _ => decide (core < 10368)
  | .vectorXor core _ => decide (core < 10368)
  | .vectorShl core _ => decide (core < 10368)
  | .vectorShr core _ => decide (core < 10368)
  | .vectorAsr core _ => decide (core < 10368)
  | .ldexp core _ => decide (core < 10368)
  | .sgn core _ => decide (core < 10368)
  | .padd core _ => decide (core < 10368)
  | .psub core _ => decide (core < 10368)
  | .pmul core _ => decide (core < 10368)
  | .pfma core _ => decide (core < 10368)
  | .pmin core _ => decide (core < 10368)
  | .pmax core _ => decide (core < 10368)
  | .cvt core _ => decide (core < 10368)
  | .cvt32 core _ => decide (core < 10368)
  | .cvt16 core _ => decide (core < 10368)
  | .scl core _ => decide (core < 10368)
  | .rsum core _ => decide (core < 10368)
  | .rmax core _ => decide (core < 10368)
  | .rmin core _ => decide (core < 10368)
  | .ramax core _ => decide (core < 10368)
  | .rssq core _ => decide (core < 10368)
  | .csum core _ => decide (core < 10368)
  | .cmax core _ => decide (core < 10368)
  | .cmin core _ => decide (core < 10368)
  | .camax core _ => decide (core < 10368)
  | .cssq core _ => decide (core < 10368)
  | .trn core _ => decide (core < 10368)
  | .exp core _ => decide (core < 10368)
  | .log core _ => decide (core < 10368)
  | .rsqrt core _ => decide (core < 10368)
  | .sin core _ => decide (core < 10368)
  | .cos core _ => decide (core < 10368)
  | .rcp core _ => decide (core < 10368)
  | .had core _ => decide (core < 10368)
  | .hadf core _ => decide (core < 10368)
  | .hadl core _ => decide (core < 10368)
  | .scalarNop core _ => decide (core < 10368)
  | .scalarAdd core _ => decide (core < 10368)
  | .scalarSub core _ => decide (core < 10368)
  | .scalarAnd core _ => decide (core < 10368)
  | .scalarOr core _ => decide (core < 10368)
  | .scalarXor core _ => decide (core < 10368)
  | .scalarShl core _ => decide (core < 10368)
  | .scalarShr core _ => decide (core < 10368)
  | .scalarAsr core _ => decide (core < 10368)
  | .scalarCeq core _ => decide (core < 10368)
  | .cltu core _ => decide (core < 10368)
  | .clts core _ => decide (core < 10368)
  | .scalarMin core _ => decide (core < 10368)
  | .scalarMax core _ => decide (core < 10368)
  | .scalarSel core _ => decide (core < 10368)
  | .scalarMov core _ => decide (core < 10368)
  | .scalarMul core _ => decide (core < 10368)
  | .mulhu core _ => decide (core < 10368)
  | .mulhs core _ => decide (core < 10368)
  | .scalarLd core _ => decide (core < 10368)
  | .scalarSt core _ => decide (core < 10368)
  | .mvg core _ => decide (core < 10368)
  | .fadd core _ => decide (core < 10368)
  | .fsub core _ => decide (core < 10368)
  | .fmul core _ => decide (core < 10368)
  | .scalarFma core _ => decide (core < 10368)
  | .fmin core _ => decide (core < 10368)
  | .fmax core _ => decide (core < 10368)
  | .fclt core _ => decide (core < 10368)
  | .f64to32 core _ => decide (core < 10368)
  | .f32to64 core _ => decide (core < 10368)
  | .gatherToWindow quadrant => decide (quadrant < 48)
  | .gatherToFarMemory quadrant => decide (quadrant < 48)
  | .scatterAdd run => decide (run.quadrant < 48)
  | .coreLaunch core job => decide (core < 10368) && decide (job < 4096)
  | .reservoirPatrolScrub panel _ _ => decide (panel < 12)
  | .sramCorrectedErrorRate panel _ => decide (panel < 12)
  | .gddr7Refresh channel => decide (channel < 32)
  | .gddr7TemperatureReadout channel _ => decide (channel < 32)
  | .gddr7EccCountRead channel _ => decide (channel < 32)
  | .gddr7RetriesExhausted channel region line _ => decide (channel < 32) && decide (region < 4 * 65536) && decide (line < 16384)
  | .protectedLineRead region line lost _ _ => decide (region < 4 * 65536) && decide (line < 16384) && lost.all (fun k => decide (k < 3))
  | .protectedLineWrite region line data => decide (region < 4 * 65536) && decide (line < 16384) && data.bytes.length == 128 && data.bad.all (fun l => decide (l < 16384))
  | .partialLineWrite region line off data lost _ => decide (region < 4 * 65536) && decide (line < 16384) && decide (0 < data.length) && decide (off + data.length ≤ 128) && lost.all (fun k => decide (k < 3))
  | .regionRekey region _ _ => decide (region < 4 * 65536)
  | .moduleAreaPatrol die lines nodes => decide (die < 4) && lines.all (fun p => decide (p.1 < 80) && decide (p.2 < 16384)) && nodes.all (fun p => decide (p.1 < 80) && decide (p.2.1 < 3) && decide (p.2.2 < 256))
  | .dmaSegmentIssue die _ => decide (die < 4)
  | .transferTagGrant atelier _ => decide (atelier < 16)
  | .dmaSegmentComplete _ => true
  | .stepLaunch job => decide (job < 4096)
  | .layerCountGather job => decide (job < 4096)
  | .updateRoutineLaunch job _ => decide (job < 4096)
  | .sealRecordBuild job => decide (job < 4096)
  | .sealDecision job => decide (job < 4096)
  | .sealActions job => decide (job.of < 4096)
  | .sealTimeout job => decide (job < 4096)
  | .chunkReceive die => decide (die < 4)
  | .adder die => decide (die < 4)
  | .portBringUp port => decide (port < 20)
  | .peerDetectTimeout port => decide (port < 20)
  | .equalisationAttempt port _ => decide (port < 20)
  | .bringUpRetry port => decide (port < 20)
  | .helloFlit port => decide (port < 20)
  | .retrain port => decide (port < 20)
  | .retrainRequest port => decide (port < 20)
  | .portLost port => decide (port < 20)
  | .codewordReceive port errors cseq lcmap flits => decide (port < 20) && decide (errors ≤ 544) && flits.length == 10 && flits.all (fun f => f.length == 64) && decide (cseq < 1024) && decide (lcmap < 1024)
  | .ackAndCredit port => decide (port < 20)
  | .packetSend port => decide (port < 20)
  | .bulkWrite port => decide (port < 20)
  | .chunksPacket port => decide (port < 20)
  | .sparsePairs port => decide (port < 20)
  | .gatherPacket port => decide (port < 20)
  | .abortPacket port => decide (port < 20)
  | .endToEndAck port => decide (port < 20)
  | .sessionKind1 port => decide (port < 20)
  | .sessionKind2 port => decide (port < 20)
  | .sessionKind3 port => decide (port < 20)
  | .sessionRetry peer => decide (peer < 1024)
  | .sessionRekey peer => decide (peer < 1024)
  | .realTimeParcel port => decide (port < 20)
  | .bulkResponse port => decide (port < 20)
  | .galleryRetransmission peer => decide (peer < 1024)
  | .endToEndAckTimer peer => decide (peer < 1024)
  | .railDestinationLost peer => decide (peer < 1024)
  | .collectiveLaunch job desc => decide (job < 4096) && decide (desc < 16384)
  | .collectiveTimeout job desc => decide (job < 4096) && decide (desc < 16384)
  | .collectiveCompletion job desc => decide (job < 4096) && decide (desc < 16384)
  | .attach port fn _ _ _ _ _ _ _ => decide (port < 2) && fn.wellFormed
  | .detach port fn => decide (port < 2) && fn.at_.wellFormed
  | .sillage port fn _ _ => decide (port < 2) && fn.at_.wellFormed
  | .atelierReset port fn _ => decide (port < 2) && fn.at_.wellFormed
  | .sqTail port fn queue _ => decide (port < 2) && decide (fn < 17) && decide (queue < 2048)
  | .cqHead port fn queue _ => decide (port < 2) && decide (fn < 17) && decide (queue < 2048)
  | .perstAssert port => decide (port < 2)
  | .hotReset port => decide (port < 2)
  | .pcieLinkLoss port => decide (port < 2)
  | .functionLevelReset port fn => decide (port < 2) && decide (fn < 17)
  | .detachmentQueueDestroy queue => decide (queue < 2048)
  | .atsInvalidation port _ _ => decide (port < 2)
  | .commandFetch queue _ => decide (queue < 2048)
  | .commandStart queue => decide (queue < 2048)
  | .ctxCreate _ => true
  | .ctxBind _ => true
  | .ctxDestroy _ => true
  | .queueCreate _ => true
  | .queueDestroy _ => true
  | .mobjCreate _ => true
  | .mobjFree _ => true
  | .fenceCreate _ => true
  | .fenceDestroy _ => true
  | .imageLoad _ _ => true
  | .imageFree _ => true
  | .collCreate _ => true
  | .collFree _ => true
  | .jobCreate _ _ _ _ => true
  | .jobRun _ => true
  | .jobStop _ => true
  | .dmaCommand _ => true
  | .signal _ => true
  | .queueNop _ => true
  | .snapshot _ => true
  | .fenceSignal => true
  | .objectRelease kind _ => decide (kind < 5)
  | .recoveryWrite port _ _ _ _ => decide (port < 2)
  | .windowBoundary senses _ => senses.length == 12 && senses.all (fun p => p.junctions.length == 64)
  | .energyMetering panel _ _ => decide (panel < 12)
  | .coreCommandDispatch => true
  | .reservation _ => true
  | .sliceEnd job => decide (job < 4096)
  | .stopAtTileBoundary core => decide (core < 10368)
  | .decant outgoing incoming => decide (outgoing < 4096) && decide (incoming < 4096)
  | .coldStartEnd => true
  | .classFallback panel => decide (panel < 12)
  | .clampRelease panel other => decide (panel < 12) && decide (other < 12)
  | .pwrCurbNAssert => true
  | .pwrCurbNRelease => true
  | .periodBoundary atelier => decide (atelier < 16)
  | .occurrenceOpening atelier slot => decide (atelier < 16) && decide (slot < 64)
  | .queryArrival _ _ => true
  | .passEnd atelier cls => decide (atelier < 16) && decide (cls < 16)
  | .slotDeadline atelier cls => decide (atelier < 16) && decide (cls < 16)
  | .leasePropose _ _ => true
  | .leaseShare _ _ => true
  | .leaseReport _ => true
  | .leaseEnd _ => true
  | .tagDrainBound atelier => decide (atelier < 16)
  | .exhibitCommand _ _ => true
  | .checkpointSave _ => true
  | .checkpointRestore _ _ => true
  | .environmentalTamperEvent => true
  | .meshBreak => true
  | .debugChallenge => true
  | .debugToken token => token.length == 192
  | .powerUp _ => true
  | .moduleBoot _ _ => true
  | .gddr7TrainingComplete _ => true
  | .moduleReady => true
  | .resetNAssertion => true
  | .powerLossShutdown => true
  | .thermalTrip _ => true
  | .tripLatchRelease => true
  | .lrefLock => true
  | .lrefLoss => true
  | .firmwareWatchdog die => decide (die < 5)
  | .eraseBank _ => true
  | .programPage _ => true
  | .verifyBank => true
  | .i3cPrivateWrite bytes => decide (2 ≤ bytes.length) && decide (bytes.length ≤ 4098)
  | .enec _ => true
  | .disec _ => true
  | .rstdaa => true
  | .entdaa address => decide (address < 128)
  | .setdasa call => decide (call.static < 128) && decide (call.address < 128)
  | .setnewda address => decide (address < 128)
  | .getmwl => true
  | .getmrl => true
  | .getpid => true
  | .getbcr => true
  | .getdcr => true
  | .getstatus => true
  | .getmxds => true
  | .illegalFormatWord core _ => decide (core < 10368)
  | .perstRelease port => decide (port.port < 2)
  | .pcieLinkUp port _ _ => decide (port < 2)
  | .portUpAgain port => decide (port < 20)
  | .coreStateAccess core _ => decide (core < 10368)

end Sys2Proof
end

