-- ==== Sys2Proof/Certificates/Slice0/Obligations.lean ====
section
/-!
DEFINITION. The statements for the provers, and the terms they are made in.
-/
namespace Sys2Proof.Claims
open Sys2Proof.Machine

/-! ### Words of a core -/

/-- The core as its beat finds it: everything due has landed (R94). -/
def found (s : State) (n : Nat) : Core := (startBeat (s.env n) (s.core n)).1.core

/-- The word that issues at a core's next beat. -/
def wordAt (s : State) (n : Nat) : Word256 := (found s n).word (found s n).pc

/-- A beat at which a core's word issues (R73, R116): the core has its launch token, no packer row is read too early, every far
line and external wait of the word is there, and the word meets no halt condition. -/
structure Issues (s : State) (n : Nat) (up : Bool) : Prop where
  unit : n < 10368
  token : s.tokened n = true
  early : (startBeat (s.env n) (s.core n)).2 = none
  ready : beatReady (s.env n) (found s n) up = true
  halts : reasons (s.env n) (found s n) up = []

/-- A beat at which a core's word halts it (R116), with its reasons. -/
structure Halts (s : State) (n : Nat) (up : Bool) : Prop where
  unit : n < 10368
  token : s.tokened n = true
  early : (startBeat (s.env n) (s.core n)).2 = none
  ready : beatReady (s.env n) (found s n) up = true
  halts : reasons (s.env n) (found s n) up ≠ []

/-- A word's beat completes: the command answers a next state, in which the core is `c` and what it sent out has been taken
up, in order. -/
def Gives (s : State) (i : Instr) (n : Nat) (P : Core → List Out → Prop) : Prop :=
  ∃ (c : Core) (outs : List Out), exec i s = .next (s.settleCore n ⟨c, outs⟩) ∧ P c outs

/-- A word command's core, whether an uncorrectable error is met, and which words are of its row (R76 to R87, R155, R163). -/
def wordOf : Instr → Option (Nat × Bool × (Word256 → Bool))
  | .streamAccumulate n up => some (n, up, isArray 1)
  | .streamInitialise n up => some (n, up, isArray 2)
  | .wash n up => some (n, up, isArray 3)
  | .washTransposed n up => some (n, up, isArray 4)
  | .readout n up => some (n, up, isReadout)
  | .collectiveTrigger n up => some (n, up, isTrigger)
  | .loopClose n up => some (n, up, isClose)
  | .conditionalExit n up => some (n, up, isExit)
  | .setLevel n up => some (n, up, isSetup 0)
  | .setBase n up => some (n, up, isSetup 1)
  | .setStrides n up => some (n, up, isSetup 2)
  | .setStream n up => some (n, up, isSetup 3)
  | .loadImm n up => some (n, up, isSetup 4)
  | .sendMessage n up => some (n, up, isMessage 0)
  | .postWindow n up => some (n, up, isMessage 1)
  | .waitRecv n up => some (n, up, isMessage 2)
  | .waitSend n up => some (n, up, isMessage 3)
  | .collectiveBind n up => some (n, up, isBind false)
  | .unbind n up => some (n, up, isBind true)
  | .endProgram n up => some (n, up, isHalt 0)
  | .breakPoint n up => some (n, up, isHalt 1)
  | .checkRegister n up => some (n, up, isHalt 2)
  | .illegalFormatWord n up => some (n, up, isIllegal)
  | .vectorNop n up => some (n, up, isVector 0x00)
  | .vectorLd n up => some (n, up, isVector 0x01)
  | .vectorSt n up => some (n, up, isVector 0x02)
  | .ldb n up => some (n, up, isVector 0x03)
  | .lds n up => some (n, up, isVector 0x04)
  | .sts n up => some (n, up, isVector 0x05)
  | .treq n up => some (n, up, isVector 0x06)
  | .vectorAdd n up => some (n, up, isVector 0x10)
  | .vectorSub n up => some (n, up, isVector 0x11)
  | .vectorMul n up => some (n, up, isVector 0x12)
  | .vectorFma n up => some (n, up, isVector 0x13)
  | .fnma n up => some (n, up, isVector 0x14)
  | .vectorMin n up => some (n, up, isVector 0x15)
  | .vectorMax n up => some (n, up, isVector 0x16)
  | .abs n up => some (n, up, isVector 0x17)
  | .neg n up => some (n, up, isVector 0x18)
  | .vectorMov n up => some (n, up, isVector 0x19)
  | .vectorCeq n up => some (n, up, isVector 0x1A)
  | .clt n up => some (n, up, isVector 0x1B)
  | .cle n up => some (n, up, isVector 0x1C)
  | .vectorSel n up => some (n, up, isVector 0x1D)
  | .vectorAnd n up => some (n, up, isVector 0x1E)
  | .vectorOr n up => some (n, up, isVector 0x1F)
  | .vectorXor n up => some (n, up, isVector 0x20)
  | .vectorShl n up => some (n, up, isVector 0x21)
  | .vectorShr n up => some (n, up, isVector 0x22)
  | .vectorAsr n up => some (n, up, isVector 0x23)
  | .ldexp n up => some (n, up, isVector 0x24)
  | .sgn n up => some (n, up, isVector 0x25)
  | .padd n up => some (n, up, isVector 0x28)
  | .psub n up => some (n, up, isVector 0x29)
  | .pmul n up => some (n, up, isVector 0x2A)
  | .pfma n up => some (n, up, isVector 0x2B)
  | .pmin n up => some (n, up, isVector 0x2C)
  | .pmax n up => some (n, up, isVector 0x2D)
  | .cvt n up => some (n, up, isVector 0x30)
  | .cvt32 n up => some (n, up, isVector 0x31)
  | .cvt16 n up => some (n, up, isVector 0x32)
  | .scl n up => some (n, up, isVector 0x33)
  | .rsum n up => some (n, up, isVector 0x38)
  | .rmax n up => some (n, up, isVector 0x39)
  | .rmin n up => some (n, up, isVector 0x3A)
  | .ramax n up => some (n, up, isVector 0x3B)
  | .rssq n up => some (n, up, isVector 0x3C)
  | .csum n up => some (n, up, isVector 0x40)
  | .cmax n up => some (n, up, isVector 0x41)
  | .cmin n up => some (n, up, isVector 0x42)
  | .camax n up => some (n, up, isVector 0x43)
  | .cssq n up => some (n, up, isVector 0x44)
  | .trn n up => some (n, up, isVector 0x48)
  | .exp n up => some (n, up, isVector 0x50)
  | .log n up => some (n, up, isVector 0x51)
  | .rsqrt n up => some (n, up, isVector 0x52)
  | .sin n up => some (n, up, isVector 0x53)
  | .cos n up => some (n, up, isVector 0x54)
  | .rcp n up => some (n, up, isVector 0x55)
  | .had n up => some (n, up, isVector 0x58)
  | .hadf n up => some (n, up, isVector 0x59)
  | .hadl n up => some (n, up, isVector 0x5A)
  | .scalarNop n up => some (n, up, isScalar 0x00)
  | .scalarAdd n up => some (n, up, isScalar 0x01)
  | .scalarSub n up => some (n, up, isScalar 0x02)
  | .scalarAnd n up => some (n, up, isScalar 0x03)
  | .scalarOr n up => some (n, up, isScalar 0x04)
  | .scalarXor n up => some (n, up, isScalar 0x05)
  | .scalarShl n up => some (n, up, isScalar 0x06)
  | .scalarShr n up => some (n, up, isScalar 0x07)
  | .scalarAsr n up => some (n, up, isScalar 0x08)
  | .scalarCeq n up => some (n, up, isScalar 0x09)
  | .cltu n up => some (n, up, isScalar 0x0A)
  | .clts n up => some (n, up, isScalar 0x0B)
  | .scalarMin n up => some (n, up, isScalar 0x0C)
  | .scalarMax n up => some (n, up, isScalar 0x0D)
  | .scalarSel n up => some (n, up, isScalar 0x0E)
  | .scalarMov n up => some (n, up, isScalar 0x0F)
  | .scalarMul n up => some (n, up, isScalar 0x11)
  | .mulhu n up => some (n, up, isScalar 0x12)
  | .mulhs n up => some (n, up, isScalar 0x13)
  | .scalarLd n up => some (n, up, isScalar 0x18)
  | .scalarSt n up => some (n, up, isScalar 0x19)
  | .mvg n up => some (n, up, isScalar 0x1C)
  | .fadd n up => some (n, up, isScalar 0x20)
  | .fsub n up => some (n, up, isScalar 0x21)
  | .fmul n up => some (n, up, isScalar 0x22)
  | .scalarFma n up => some (n, up, isScalar 0x23)
  | .fmin n up => some (n, up, isScalar 0x24)
  | .fmax n up => some (n, up, isScalar 0x25)
  | .fclt n up => some (n, up, isScalar 0x26)
  | .f64to32 n up => some (n, up, isScalar 0x27)
  | .f32to64 n up => some (n, up, isScalar 0x28)
  | _ => none

/-- A scalar result in flight: the register takes the value at the beat `due`, and until then its pending-write bit is set. -/
def Flies (s : State) (i : Instr) (n due k : Nat) (v : Word64) : Prop :=
  Gives s i n fun c _ => (⟨due, .sreg k v⟩ : Landing) ∈ c.flight ∧ k ∈ c.pendSregs

/-- The rows of a tile result in flight (R94, R148). -/
def FliesRows (s : State) (i : Instr) (n td due : Nat) (grouped : Bool) (rs : List RowOut) : Prop :=
  Gives s i n fun c _ => ∀ l ∈ rowLandings td due grouped rs, l ∈ c.flight

/-- A write of `data` through generator `a` (R78, R91, R94): to a far line it leaves at once, to a local line it is in flight. -/
def WritesLine (s : State) (n : Nat) (w : Word256) (a due : Nat) (data : Bytes) (c : Core) (outs : List Out) : Prop :=
  let x := (found s n).access w a
  if x.far then ∀ p ∈ farLines (s.env n) x data, Out.farWrite p.1 p.2 ∈ outs
  else (⟨due, .locals ((List.range (data.length / 2)).map fun k => (x.slot k, slotOf data k))⟩ : Landing) ∈ c.flight

/-- What a token of pair (s, t) meets in the array as it stands (R122, R128): the pass's block, and the phase and the cell rows of the
row's next token. -/
def tokenRun (x : ArrayState) (s t : Fmt × Variant) : TokenRun :=
  let k := x.kind
  let n := (tokenPlan k.shape k.transposed s.1 t.1).2.1
  let rows := (grid k.shape).1
  ⟨k, s.1, s.2, pairClass s.1 t.1, x.token / n, x.token % n * rows / n, (x.token % n + 1) * rows / n, integerPair s.1 t.1⟩

/-- The accumulator line that takes value `k` of a token's region (R132). -/
def tokenLine (s : State) (n : Nat) (w : Word256) (k : Nat) : Nat := ((found s n).access w (arrayField w).accAg).cur / 64 + k / 16

/-- What a token word puts in flight (R128 to R134, R138): every value it produces, its column's sum, for the accumulator line of its
number, whose pending-write bit is set; a line lands A + 3 + j beats on, j being the highest cell column with a value of the token in the
line, unless an earlier landing on the line is still due (R97). -/
def FliesToken (s : State) (n : Nat) (p q : Fmt × Variant) (t : Core) : Prop :=
  let c := found s n
  let w := wordAt s n
  let a := arrayField w
  let x := c.array
  let k := tokenRun x p q
  let beats := fun (v : Nat) => c.beat + (grid x.kind.shape).1 + 3 + v / outputs x.kind.shape x.kind.transposed p.1
  ∀ v ∈ k.values, ∃ (due : Nat) (vals : List (Nat × Nat)) (ev : Events),
    (⟨due, .acc (tokenLine s n w v.1) (decide (a.aop = 2)) k.int vals (if a.count then some a.slot else none) ev⟩ : Landing) ∈ t.flight ∧
    (v.1 % 16, (k.column x.weights (tokenElems c w x.kind x.row p.1 q.1 q.2) v.2.1 v.2.2).bits) ∈ vals ∧ tokenLine s n w v.1 ∈ t.pendLines ∧
    (∀ u ∈ k.values, u.1 / 16 = v.1 / 16 → beats u.1 ≤ due) ∧
    ((∀ l ∈ c.flight, l.effect.isToken = false) → ∃ u ∈ k.values, u.1 / 16 = v.1 / 16 ∧ due = beats u.1)

/-- The result of a class E operation with element function `f` (R153, R155): operands A, B and D element by element. -/
def elementRows (f : Operand → ElemOut) (env : Env) (c : Core) (v : VectorField) : List RowOut :=
  let w := if vpacked v.vop then 16 else 32
  let fmt := if 0x1D ≤ v.vop && v.vop ≤ 0x20 then Fmt.int32 else (Fmt.ofCode v.fmt).getD .fp32
  let as := operandElems c v w v.ma v.ta (v.aux / 4)
  let bs := if vusesB v.vop then operandElems c v w v.mb v.tb (v.aux % 4) else as
  let ds := if vusesD v.vop then tileElems w (c.tile v.td) else as
  let dr := c.draw env v.st v.share
  rowsOf w ((enumFrom' 0 (as.zip (bs.zip ds))).map fun p => (f ⟨fmt, rndOf v.rnd dr p.1, p.2.1, p.2.2.1, p.2.2.2⟩).bits)

/-- The result of a class R or K operation with folding `r` (R157): one row. -/
def foldRows (r : Folding) (c : Core) (v : VectorField) (column : Bool) : List RowOut :=
  let es := operandElems c v 32 v.ma v.ta 0
  [⟨0, 0, packElems 32 (((chunksOf 32 32 (if column then transpose32 es else es)).map (r.run (v.fmt = 0xB))).map (·.bits))⟩]

/-- The result of a class S operation with function `f` (R161). -/
def specialRows (f : Nat → Nat) (c : Core) (v : VectorField) : List RowOut := rowsOf 32 ((operandElems c v 32 v.ma v.ta 0).map f)

/-! ### Commands -/

/-- A command that has started and is to be carried out by its row (R313). -/
structure Running (s : State) (n op : Nat) (c : Cmd) : Prop where
  listed : SMap.find? s.commands n = some c
  ready : s.mstate = 2
  opcode : c.opcode = op
  state : c.state = .running

/-- A core command that the dispatcher has started (R337). -/
structure Dispatched (s : State) (n op : Nat) (c : Cmd) : Prop where
  listed : SMap.find? s.commands n = some c
  ready : s.mstate = 2
  opcode : c.opcode = op
  state : c.state = .working

/-- No atelier's transfer tags are being drained (R431, R450). -/
def Calm (s : State) : Prop := ∀ a < 16, (s.atelier a).draining = none

/-- What the job in a slot is, where there is one. -/
def JobNow (s : State) (n : Nat) (P : Job → Prop) : Prop := ∃ j, SMap.find? s.jobs n = some j ∧ P j

/-- A job's running step of a ready module (R216). -/
structure Steps (s : State) (n : Nat) (j : Job) (r : StepRun) : Prop where
  listed : SMap.find? s.jobs n = some j
  run : j.run = some r
  ready : s.mstate = 2

/-- A job's atelier may fault: it is not faulted, its lease is not ending, and the module has not failed (R448). -/
structure MayFault (s : State) (a : Nat) : Prop where
  sound : (s.atelier a).faulted = false
  held : (s.lease a).state ≠ 3
  alive : s.mstate ≠ 3

end Sys2Proof.Claims

open Sys2Proof Sys2Proof.Machine Sys2Proof.Claims

/-! ### The whole module -/

/-- The required statement of a step: the command at the front of the queue acts on the state with the queue's rest. -/
def Obligations.StepTakesTheFront : Prop :=
  ∀ (c : Instr) (rest : List Instr) (s : State), step { s with pending := c :: rest } = exec c { s with pending := rest }

/-- Every command that names units the module has answers a next state, with the queue as it was. -/
def Obligations.WellFormedCommandsComplete : Prop :=
  ∀ (c : Instr) (s : State), c.wellFormed = true → ∃ t, exec c s = .next t ∧ t.pending = s.pending

/-- What the model chose where the spec is silent, no rule of the spec: with no command waiting, one tick of the timestamp counter
passes and nothing else changes (notes/assumptions/1.md); a command on a core the module does not have (a word of its, a landing, a fetch
or staged line, its packer, its launch, its stop, a debugger's access) ends the run by name (notes/assumptions/5.md). -/
def Obligations.ModelChoices : Prop :=
  (∀ s : State, s.pending = [] → step s = .next { s with time := s.time + 1 }) ∧
  (∀ (i : Instr) (s : State) (n : Nat) (up : Bool) (names : Word256 → Bool), wordOf i = some (n, up, names) → 10368 ≤ n →
    exec i s = .fault (.noSuchUnit "core" n)) ∧
  ∀ (s : State) (n : Nat), 10368 ≤ n → (∀ i ∈ ([.operationLanding n, .tokenLanding n, .heldWeightRowWrite n, .chunkPacker n, .stopAtTileBoundary n] : List Instr),
      exec i s = .fault (.noSuchUnit "core" n)) ∧
    (∀ gen, exec (.runAheadFetch n gen) s = .fault (.noSuchUnit "core" n)) ∧ (∀ gen bad, exec (.stagedLineArrival n gen bad) s = .fault (.noSuchUnit "core" n)) ∧
    (∀ job, exec (.coreLaunch n job) s = .fault (.noSuchUnit "core" n)) ∧ ∀ x, exec (.coreStateAccess n x) s = .fault (.noSuchUnit "core" n)

/-- Every step keeps a sound state sound (Safety.lean): the memories keep their canonical form, the blotter its ring (R455), the
fuse counters their number (R392, R433, R436), mstate one of its codes (R485). -/
def Obligations.StepKeepsSound : Prop := ∀ s t : State, s.Sound → step s = .next t → t.Sound

/-- The state after reset is sound. -/
def Obligations.ResetIsSound : Prop := State.reset.Sound

/-- No step mends a fuse (R392: one-time-programmable fuses), takes back a draw of the entropy source, or touches the commands
that wait behind the one it takes. -/
def Obligations.FusesNeverMend : Prop :=
  ∀ s t : State, step s = .next t →
    (s.tamperFuse = true → t.tamperFuse = true) ∧ s.tamperCount ≤ t.tamperCount ∧ s.debugCount ≤ t.debugCount ∧ s.drawn ≤ t.drawn ∧
    t.pending = s.pending.tail

/-! ### Words -/

/-- A word that issues (R73, R76, R88, R149): the core stands at the next word, its beat counter one on (R74), its epoch and its
word store as before; and a compute word has written no register, tile register or local byte at its issue. -/
def Obligations.WordIssues : Prop :=
  ∀ (i : Instr) (s : State) (n : Nat) (up : Bool) (names : Word256 → Bool), wordOf i = some (n, up, names) → Issues s n up →
    names (wordAt s n) = true → isHalt 0 (wordAt s n) = false →
    Gives s i n fun c _ => c.pc = nextPc (found s n) (wordAt s n) ∧ c.beat = (found s n).beat + 1 ∧
      c.epoch = (found s n).epoch ∧ c.words = (found s n).words ∧
      (wordFormat (wordAt s n) = 0 → c.sregs = (found s n).sregs ∧ c.tiles = (found s n).tiles ∧ c.mem = (found s n).mem)

/-- A word that meets a halt condition (R116, R117): the core stops with the lowest reason met, the word's address and the beat in its halt
record. The word issues nothing: the core, and all it sends out, are those of the core as the beat found it with what earlier words
issued landed. Where the reason is 0x25, the regions that its writes would retire are retired (R408). -/
def Obligations.WordHalts : Prop :=
  ∀ (i : Instr) (s : State) (n : Nat) (up : Bool) (names : Word256 → Bool), wordOf i = some (n, up, names) → Halts s n up →
    names (wordAt s n) = true →
    let reason := listMin 0 (reasons (s.env n) (found s n) up)
    ∃ (u : State) (c : Core) (outs : List Out), exec i s = .next (u.settleCore n ⟨c, outs⟩) ∧
      (⟨c, outs⟩ : Issued) = haltCore (s.env n) (found s n).pc reason (s.core n).beat (startBeat (s.env n) (s.core n)).1 ∧ (reason ≠ 0x25 → u = s) ∧
      (reason = 0x25 → u = (s.retiredBy n up).foldl State.endRekey s) ∧ c.run = .idle ∧ c.record = haltRecord (found s n).pc reason (s.core n).beat ∧
      c.words = (found s n).words ∧ outs.getLast? = some (.stop reason)

/-- R74: a beat that issues counts one, up to 2^48 − 1; a beat that lengthens, for want of a launch token or of what its word waits for
(R73), counts nothing; a launch clears the counter. -/
def Obligations.BeatsCounted : Prop :=
  (∀ (i : Instr) (s : State) (n : Nat) (up : Bool) (names : Word256 → Bool), wordOf i = some (n, up, names) → n < 10368 →
    (Issues s n up → names (wordAt s n) = true → isHalt 0 (wordAt s n) = false →
      Gives s i n fun c _ => c.counter = min ((s.core n).counter + 1) (2 ^ 48 - 1)) ∧
    (s.tokened n = false → exec i s = .next s) ∧
    ((startBeat (s.env n) (s.core n)).2 = none → beatReady (s.env n) (found s n) up = false → exec i s = .next s)) ∧
  ∀ (s : State) (n jn : Nat) (j : Job) (st : Nat) (k : Option Nat), n < 10368 → SMap.find? s.jobs jn = some j → stageOf (s.imageOf jn) n = some st →
    (s.core n).run = .idle → s.mstate = 2 → j.resident = true → j.switching = false → j.serving = false → s.launchStep n jn j = some k →
      ∃ t, exec (.coreLaunch n jn) s = .next t ∧ (t.core n).run = .running ∧ (t.core n).counter = 0

/-- R35, R36, R44: the integer formats are two's complement, and a ternary code is 0, +1, 0 or −1; no conversion gives 0x80 in INT8, 0x8
in INT4 or 0b10 in ternary, nor a value outside [−127, 127] or [−7, 7]; a block with a NaN or an infinity takes the non-finite scale code
and zero elements, whether its scale is computed or supplied, and counts its non-finite elements. -/
def Obligations.CodesOfConversions : Prop :=
  (∀ c, decode .int8 c = .ofInt (BitVec.ofNat 8 c).toInt ∧ decode .int4 c = .ofInt (BitVec.ofNat 4 c).toInt ∧
    decode .int32 c = .ofInt (BitVec.ofNat 32 c).toInt) ∧
  decode .int8 0x80 = .ofInt (-128) ∧ decode .int4 0x8 = .ofInt (-8) ∧
  decode .ternary 0 = .ofInt 0 ∧ decode .ternary 1 = .ofInt 1 ∧ decode .ternary 3 = .ofInt (-1) ∧ decode .ternary 2 = .ofInt 0 ∧
  ∀ (v : Variant) (r : Rule) (supplied mode : Nat) (d : Draw) (i0 : Nat) (xs : List XReal),
    let block := fun (t : Fmt) => convertBlock t v r supplied mode d i0 xs
    (∀ c ∈ (block .int8).codes, c < 256 ∧ -127 ≤ (BitVec.ofNat 8 c).toInt ∧ (BitVec.ofNat 8 c).toInt ≤ 127) ∧
    (∀ c ∈ (block .int4).codes, c < 16 ∧ -7 ≤ (BitVec.ofNat 4 c).toInt ∧ (BitVec.ofNat 4 c).toInt ≤ 7) ∧
    (∀ c ∈ (block .ternary).codes, c = 0 ∨ c = 1 ∨ c = 3) ∧
    (v ≠ .none → (∃ x ∈ xs, x.nonfinite = true) → ∀ t, (block t).scale = (if v = .b32 then 0xFF else 0x7F) ∧
      (block t).codes = List.replicate xs.length 0 ∧ (block t).ev.nonfinite = (xs.filter (·.nonfinite)).length)

/-- Integer operations of the scalar lane (R163): the result, modulo 2^64, lands in s[sd] 1 beat after issue, 3 after for a
multiplication (R94). -/
def Obligations.ScalarIntegerResults : Prop :=
  ∀ (s : State) (n : Nat) (up : Bool), Issues s n up →
    let c := found s n
    let w := wordAt s n
    let f := scalarField w
    let a := c.sreg f.sa
    let b := c.scalarB f
    (isScalar 0x01 w = true → Flies s (.scalarAdd n up) n (c.beat + 1) f.sd (a + b)) ∧
    (isScalar 0x02 w = true → Flies s (.scalarSub n up) n (c.beat + 1) f.sd (a - b)) ∧
    (isScalar 0x03 w = true → Flies s (.scalarAnd n up) n (c.beat + 1) f.sd (a &&& b)) ∧
    (isScalar 0x04 w = true → Flies s (.scalarOr n up) n (c.beat + 1) f.sd (a ||| b)) ∧
    (isScalar 0x05 w = true → Flies s (.scalarXor n up) n (c.beat + 1) f.sd (a ^^^ b)) ∧
    (isScalar 0x06 w = true → Flies s (.scalarShl n up) n (c.beat + 1) f.sd (a <<< (b.toNat % 64))) ∧
    (isScalar 0x07 w = true → Flies s (.scalarShr n up) n (c.beat + 1) f.sd (a >>> (b.toNat % 64))) ∧
    (isScalar 0x08 w = true → Flies s (.scalarAsr n up) n (c.beat + 1) f.sd (a.sshiftRight (b.toNat % 64))) ∧
    (isScalar 0x09 w = true → Flies s (.scalarCeq n up) n (c.beat + 1) f.sd (if a = b then 1 else 0)) ∧
    (isScalar 0x0A w = true → Flies s (.cltu n up) n (c.beat + 1) f.sd (if a.toNat < b.toNat then 1 else 0)) ∧
    (isScalar 0x0B w = true → Flies s (.clts n up) n (c.beat + 1) f.sd (if a.toInt < b.toInt then 1 else 0)) ∧
    (isScalar 0x0C w = true → Flies s (.scalarMin n up) n (c.beat + 1) f.sd (if b.toInt < a.toInt then b else a)) ∧
    (isScalar 0x0D w = true → Flies s (.scalarMax n up) n (c.beat + 1) f.sd (if a.toInt < b.toInt then b else a)) ∧
    (isScalar 0x0E w = true → Flies s (.scalarSel n up) n (c.beat + 1) f.sd (if c.sreg f.sd ≠ 0 then a else b)) ∧
    (isScalar 0x0F w = true → Flies s (.scalarMov n up) n (c.beat + 1) f.sd b) ∧
    (isScalar 0x11 w = true → Flies s (.scalarMul n up) n (c.beat + 3) f.sd (a * b)) ∧
    (isScalar 0x12 w = true → Flies s (.mulhu n up) n (c.beat + 3) f.sd (BitVec.ofNat 64 (a.toNat * b.toNat / 2 ^ 64))) ∧
    (isScalar 0x13 w = true → Flies s (.mulhs n up) n (c.beat + 3) f.sd (BitVec.ofInt 64 (a.toInt * b.toInt / 2 ^ 64)))

/-- FP64 operations of the scalar lane (R164): the exact result rounded once, to nearest with ties to even, lands in s[sd]
4 beats after issue (R94). -/
def Obligations.ScalarFloatResults : Prop :=
  ∀ (s : State) (n : Nat) (up : Bool), Issues s n up →
    let c := found s n
    let w := wordAt s n
    let f := scalarField w
    let a := f64 (c.sreg f.sa).toNat
    let b := f64 (c.sreg f.sb).toNat
    let d := f64 (c.sreg f.sd).toNat
    let put := fun (i : Instr) (x : XReal) => Flies s i n (c.beat + 4) f.sd (BitVec.ofNat 64 (rn64 x))
    (isScalar 0x20 w = true → put (.fadd n up) (a.add b)) ∧
    (isScalar 0x21 w = true → put (.fsub n up) (a.add b.negate)) ∧
    (isScalar 0x22 w = true → put (.fmul n up) (a.mul b)) ∧
    (isScalar 0x23 w = true → put (.scalarFma n up) ((a.mul b).add d)) ∧
    (isScalar 0x24 w = true → put (.fmin n up) (a.min b)) ∧
    (isScalar 0x25 w = true → put (.fmax n up) (a.max b)) ∧
    (isScalar 0x26 w = true → Flies s (.fclt n up) n (c.beat + 4) f.sd (if a.lt b then 1 else 0)) ∧
    (isScalar 0x27 w = true → Flies s (.f64to32 n up) n (c.beat + 4) f.sd (BitVec.ofNat 64 (rn a))) ∧
    (isScalar 0x28 w = true → put (.f32to64 n up) (f32 (field (c.sreg f.sa) 0 32)))

/-- The other scalar operations (R163 to R165): LD reads 8 B of scratch and lands 3 beats on, ST lands its 8 B 2 beats on with
its line's pending-write bit set, MVG lands 2 beats on in a field of a generator, and a NOP puts nothing in flight for the
scalar lane: with no other operation in the word, nothing at all. -/
def Obligations.ScalarMemoryAndMoves : Prop :=
  ∀ (s : State) (n : Nat) (up : Bool), Issues s n up →
    let c := found s n
    let w := wordAt s n
    let f := scalarField w
    (isScalar 0x18 w = true → Flies s (.scalarLd n up) n (c.beat + 3) f.sd (BitVec.ofNat 64 (ofLe (c.mem.readBytes (c.scalarAddr f) 8)))) ∧
    (isScalar 0x19 w = true → Gives s (.scalarSt n up) n fun t _ =>
      (⟨c.beat + 2, .locals [(c.scalarAddr f, leBytes 8 (c.sreg f.sd).toNat)]⟩ : Landing) ∈ t.flight ∧ c.scalarAddr f / 64 ∈ t.pendLines) ∧
    (isScalar 0x1C w = true → Gives s (.mvg n up) n fun t _ => (⟨c.beat + 2, .gen (f.sd % 4) (f.sd / 4) (c.scalarB f)⟩ : Landing) ∈ t.flight) ∧
    (isScalar 0x00 w = true → (arrayField w).aop = 0 → (arrayField w).roEn = false → (vectorField w).vop = 0 → (loopField w).coll = false →
      (Gives s (.scalarNop n up) n fun t _ => t.flight = c.flight ∧ t.pendSregs = c.pendSregs ∧ t.pendRows = c.pendRows ∧ t.pendLines = c.pendLines) ∧
      Gives s (.vectorNop n up) n fun t _ => t.flight = c.flight ∧ t.pendSregs = c.pendSregs ∧ t.pendRows = c.pendRows ∧ t.pendLines = c.pendLines)

/-- Element-wise vector operations (R155, R156): every element of td is the opcode's function of the operands' elements, and its
row groups land from 3 beats after issue on (R94). -/
def Obligations.VectorElementResults : Prop :=
  (∀ (s : State) (n : Nat) (up : Bool), Issues s n up →
    let c := found s n
    let w := wordAt s n
    let v := vectorField w
    let put := fun (i : Instr) (f : Operand → ElemOut) => FliesRows s i n v.td (c.beat + 3) true (elementRows f (s.env n) c v)
    (isVector 0x10 w = true → put (.vectorAdd n up) elemAdd) ∧ (isVector 0x11 w = true → put (.vectorSub n up) elemSub) ∧
    (isVector 0x12 w = true → put (.vectorMul n up) elemMul) ∧ (isVector 0x13 w = true → put (.vectorFma n up) elemFma) ∧
    (isVector 0x14 w = true → put (.fnma n up) elemFnma) ∧ (isVector 0x15 w = true → put (.vectorMin n up) elemMin) ∧
    (isVector 0x16 w = true → put (.vectorMax n up) elemMax) ∧ (isVector 0x17 w = true → put (.abs n up) elemAbs) ∧
    (isVector 0x18 w = true → put (.neg n up) elemNeg) ∧ (isVector 0x19 w = true → put (.vectorMov n up) elemMov) ∧
    (isVector 0x1A w = true → put (.vectorCeq n up) elemCeq) ∧ (isVector 0x1B w = true → put (.clt n up) elemClt) ∧
    (isVector 0x1C w = true → put (.cle n up) elemCle) ∧ (isVector 0x1D w = true → put (.vectorSel n up) elemSel) ∧
    (isVector 0x1E w = true → put (.vectorAnd n up) elemAnd) ∧ (isVector 0x1F w = true → put (.vectorOr n up) elemOr) ∧
    (isVector 0x20 w = true → put (.vectorXor n up) elemXor) ∧ (isVector 0x21 w = true → put (.vectorShl n up) elemShl) ∧
    (isVector 0x22 w = true → put (.vectorShr n up) elemShr) ∧ (isVector 0x23 w = true → put (.vectorAsr n up) elemAsr) ∧
    (isVector 0x24 w = true → put (.ldexp n up) elemLdexp) ∧ (isVector 0x25 w = true → put (.sgn n up) elemSgn) ∧
    (isVector 0x28 w = true → put (.padd n up) elemAdd) ∧ (isVector 0x29 w = true → put (.psub n up) elemSub) ∧
    (isVector 0x2A w = true → put (.pmul n up) elemMul) ∧ (isVector 0x2B w = true → put (.pfma n up) elemFma) ∧
    (isVector 0x2C w = true → put (.pmin n up) elemMin) ∧ (isVector 0x2D w = true → put (.pmax n up) elemMax)) ∧
  ∀ (r : Rnd) (a b d : Nat),
    let o : Operand := ⟨.int32, r, a, b, d⟩
    let sat := fun (x : Int) => unsignedOf 32 (max (-(2 ^ 31 : Int)) (min x (2 ^ 31 - 1)))
    (elemAdd o).bits = sat (int32 a + int32 b) ∧ (elemSub o).bits = sat (int32 a - int32 b) ∧ (elemMul o).bits = sat (int32 a * int32 b) ∧
    (elemFma o).bits = sat (int32 a * int32 b + int32 d) ∧ (elemFnma o).bits = sat (int32 d - int32 a * int32 b) ∧
    ((elemAdd o).sat = true ↔ int32 a + int32 b < -(2 ^ 31 : Int) ∨ (2 ^ 31 - 1 : Int) < int32 a + int32 b)

/-- Reductions, conversions, transposes, special functions and Hadamard transforms (R155, R157, R159, R161, R162): the opcode's
result lands in td at its class's latency (R94). -/
def Obligations.VectorTileResults : Prop :=
  ∀ (s : State) (n : Nat) (up : Bool), Issues s n up →
    let c := found s n
    let e := s.env n
    let w := wordAt s n
    let v := vectorField w
    let rowFold := fun (i : Instr) (r : Folding) => FliesRows s i n v.td (c.beat + 6) false (foldRows r c v false)
    let colFold := fun (i : Instr) (r : Folding) => FliesRows s i n v.td (c.beat + 7) false (foldRows r c v true)
    let conv := fun (i : Instr) (r : TileOut) => FliesRows s i n v.td (c.beat + 5) true r.rows
    let spec := fun (i : Instr) (f : Nat → Nat) => FliesRows s i n v.td (c.beat + 11) true (specialRows f c v)
    let had := fun (i : Instr) (r : TileOut) => FliesRows s i n v.td (c.beat + 6 + v.aux) false r.rows
    (isVector 0x30 w = true → conv (.cvt n up) (convertTile e c v false)) ∧ (isVector 0x31 w = true → conv (.cvt32 n up) (convertTile e c v false)) ∧
    (isVector 0x32 w = true → conv (.cvt16 n up) (convertTile e c v false)) ∧ (isVector 0x33 w = true → conv (.scl n up) (convertTile e c v true)) ∧
    (isVector 0x38 w = true → rowFold (.rsum n up) reduceRsum) ∧ (isVector 0x39 w = true → rowFold (.rmax n up) reduceRmax) ∧
    (isVector 0x3A w = true → rowFold (.rmin n up) reduceRmin) ∧ (isVector 0x3B w = true → rowFold (.ramax n up) reduceRamax) ∧
    (isVector 0x3C w = true → rowFold (.rssq n up) reduceRssq) ∧
    (isVector 0x40 w = true → colFold (.csum n up) reduceRsum) ∧ (isVector 0x41 w = true → colFold (.cmax n up) reduceRmax) ∧
    (isVector 0x42 w = true → colFold (.cmin n up) reduceRmin) ∧ (isVector 0x43 w = true → colFold (.camax n up) reduceRamax) ∧
    (isVector 0x44 w = true → colFold (.cssq n up) reduceRssq) ∧
    (isVector 0x48 w = true → FliesRows s (.trn n up) n v.td (c.beat + 7) false (rowsOf 32 (transpose32 (operandElems c v 32 v.ma v.ta 0)))) ∧
    (isVector 0x50 w = true → spec (.exp n up) exp32) ∧ (isVector 0x51 w = true → spec (.log n up) log32) ∧
    (isVector 0x52 w = true → spec (.rsqrt n up) rsqrt32) ∧ (isVector 0x53 w = true → spec (.sin n up) sin32) ∧
    (isVector 0x54 w = true → spec (.cos n up) cos32) ∧ (isVector 0x55 w = true → spec (.rcp n up) rcp32) ∧
    (isVector 0x58 w = true → had (.had n up) (hadamardPlain e c v)) ∧ (isVector 0x59 w = true → had (.hadf n up) (hadamardFirst e c v)) ∧
    (isVector 0x5A w = true → had (.hadl n up) (hadamardLast e c v))

/-- The line operations of the vector engine (R154, R160, R166): LD, LDB and LDS put a line's bytes on their way into td, ST and
STS a row's half or the scale bytes on their way to a line, 2 beats on; TREQ sends its request line to the table unit. -/
def Obligations.VectorLines : Prop :=
  ∀ (s : State) (n : Nat) (up : Bool), Issues s n up →
    let c := found s n
    let w := wordAt s n
    let v := vectorField w
    let row := (c.lineRow v).getD v.row
    let k := if v.var = 1 then 1 else 2
    (isVector 0x01 w = true → FliesRows s (.vectorLd n up) n v.td (c.beat + 2) false [⟨row, 64 * v.half, lineIn c w v.agA⟩]) ∧
    (isVector 0x02 w = true → Gives s (.vectorSt n up) n fun t outs =>
      WritesLine s n w v.agD (c.beat + 2) (c.tiles.readBytes (4096 * v.ta + 128 * row + 64 * v.half) 64) t outs) ∧
    (isVector 0x03 w = true → FliesRows s (.ldb n up) n v.td (c.beat + 2) false ((List.range 32).map fun r => ⟨r, 64 * v.half, lineIn c w v.agA⟩)) ∧
    (isVector 0x04 w = true → FliesRows s (.lds n up) n v.td (c.beat + 2) false ((List.range 32).map fun r => ⟨r, 64, slice (lineIn c w v.agA) (k * r) k⟩)) ∧
    (isVector 0x05 w = true → Gives s (.sts n up) n fun t outs =>
      WritesLine s n w v.agD (c.beat + 2) (padTo 64 ((List.range 32).flatMap fun r => c.tiles.readBytes (4096 * v.ta + 128 * r + 64) k)) t outs) ∧
    (isVector 0x06 w = true → Gives s (.treq n up) n fun _ outs => Out.table (lineIn c w v.agA) ∈ outs)

/-- The weight wash and the tokens (R124, R127 to R134, R139): a wash word's access is counted, and the 32nd completes the block,
which the next fills the other register; a token word's values are in flight for their accumulator lines; it moves on in its row of
P × n tokens, its row in the pass, and pass_last ends the pass; a collective trigger reports at the landing of its word's last write
(R111). The model's choices: P and n are those of the word's own pair, also in a row begun under another (notes/assumptions/103.md); a transposed token
of shape 4 reads zeros beyond its elements (66); an accumulator port in mode 2 goes by its generator's current line (60); a wash counts as a write of its word
(64), and a far write counts at the local form's latency (114). -/
def Obligations.ArrayWordsIssue : Prop :=
  ∀ (s : State) (n : Nat) (up : Bool), Issues s n up →
    let c := found s n
    let w := wordAt s n
    let a := arrayField w
    let x := c.array
    let h := (x.loading.map (·.accesses)).getD 0
    let washed := fun (y : ArrayState) =>
      (h + 1 = 32 → y.blocks = x.blocks + 1 ∧ y.nextReg = 1 - x.nextReg ∧ y.loading = none) ∧
      (h + 1 ≠ 32 → y.blocks = x.blocks ∧ y.nextReg = x.nextReg ∧ y.loading.map (·.accesses) = some (h + 1)) ∧ y.parity = x.parity
    let tokened := fun (y : ArrayState) (p q : Fmt × Variant) =>
      let plan := tokenPlan x.kind.shape x.kind.transposed p.1 q.1
      (a.passLast = true → y.parity = 1 - x.parity ∧ y.blocks = x.blocks - 1 ∧ y.token = 0 ∧ y.row = 0) ∧
      (a.passLast = false → y.parity = x.parity ∧ y.blocks = x.blocks ∧
        (x.token + 1 = plan.2.2 * plan.2.1 → y.token = 0 ∧ y.row = x.row + 1) ∧
        (x.token + 1 ≠ plan.2.2 * plan.2.1 → y.token = x.token + 1 ∧ y.row = x.row))
    (isArray 3 w = true → ∀ p, fmtVar a.sfmt a.svar = some p → Gives s (.wash n up) n fun t _ => washed t.array) ∧
    (isArray 4 w = true → ∀ p, fmtVar a.sfmt a.svar = some p → Gives s (.washTransposed n up) n fun t _ => washed t.array) ∧
    (isArray 1 w = true → ∀ p q, fmtVar a.sfmt a.svar = some p → fmtVar a.tfmt a.tvar = some q → Gives s (.streamAccumulate n up) n fun t _ => tokened t.array p q ∧ FliesToken s n p q t) ∧
    (isArray 2 w = true → ∀ p q, fmtVar a.sfmt a.svar = some p → fmtVar a.tfmt a.tvar = some q → Gives s (.streamInitialise n up) n fun t _ => tokened t.array p q ∧ FliesToken s n p q t) ∧
    (isTrigger w = true → ∀ b, SMap.find? c.binds (loopField w).cslot = some b →
      Gives s (.collectiveTrigger n up) n fun t _ => (⟨lastWrite c (issueCompute (s.env n) w c).core w, .report (loopField w).cslot b.desc b.keep b.since c.pc⟩ : Landing) ∈ t.flight)

/-- A readout (R78, R94, R181): the row, converted, goes to the destination line 3 beats on, 4 in a block-scaled format; the scale codes
of a block-scaled row go to their place in the strip of the destination's frame with it, unless they are the program's own. -/
def Obligations.ReadoutWrites : Prop :=
  ∀ (s : State) (n : Nat) (up : Bool), Issues s n up → isReadout (wordAt s n) = true →
    let c := found s n
    let w := wordAt s n
    let a := arrayField w
    ∀ (t : Fmt) (v : Variant), fmtVar a.roFmt a.roVar = some (t, v) →
      Gives s (.readout n up) n fun d outs =>
        let due := c.beat + (if v = .none then 3 else 4)
        let strip := (readoutStrip c w).1
        let off := (readoutStrip c w).2
        WritesLine s n w a.roDst due (packElems t.width (readoutRow (s.env n) c w).codes) d outs ∧
        ∀ codes, readoutCodes (s.env n) c w = some codes →
          codes = (readoutRow (s.env n) c w).scales.map (BitVec.ofNat 8) ∧
          ((c.access w a.roDst).far = false → (⟨due, .locals [(strip + off, codes)]⟩ : Landing) ∈ d.flight ∧ strip / 64 ∈ d.pendLines) ∧
          ((c.access w a.roDst).far = true → ∃ line, Out.farWrite strip line ∈ outs ∧ slice line off codes.length = codes ∧
            ∀ k < 64, (k < off ∨ off + codes.length ≤ k) → line.getD k 0 = ((s.env n).read strip).bytes.getD k 0)

/-- The loop set-up words (R84): a level, a generator's base, its strides, a stream register or a scalar register takes the
word's values, seen by the next word. -/
def Obligations.LoopSetup : Prop :=
  ∀ (s : State) (n : Nat) (up : Bool), Issues s n up →
    let c := found s n
    let w := wordAt s n
    (isSetup 0 w = true → Gives s (.setLevel n up) n fun t _ =>
      let l := t.level (field w 12 3)
      l.active = true ∧ l.count = field w 16 20 ∧ l.remaining = field w 16 20 ∧ l.start = field w 36 11 ∧ l.target = field w 47 11 ∧
        ∀ a < 4, SMap.get 0 l.incs a = w.extractLsb' (64 + 24 * a) 24) ∧
    (isSetup 1 w = true → Gives s (.setBase n up) n fun t _ =>
      let g := t.gen (field w 12 2)
      g.far = flag w 14 ∧ g.base = (if flag w 14 then w.extractLsb' 16 48 else w.extractLsb' 16 48 &&& 0xFFFFF#48) ∧ g.cur = g.base) ∧
    (isSetup 2 w = true → Gives s (.setStrides n up) n fun t _ => ∀ k < 4, (t.gen (field w 12 2)).stride k = w.extractLsb' (16 + 24 * k) 24) ∧
    (isSetup 3 w = true → Gives s (.setStream n up) n fun t _ => t.stream (field w 12 2) = w.extractLsb' 16 24) ∧
    (isSetup 4 w = true → Gives s (.loadImm n up) n fun t _ => t.sreg (field w 12 5) = w.extractLsb' 20 64 ∧
      ∀ k, k ≠ field w 12 5 → t.sreg k = c.sreg k)

/-- Loop control (R88): a taken exit leaves the levels up to its own and goes to that level's target; otherwise the level that
repeats has one iteration fewer and the core goes to its start, and with none that repeats every closed level has ended and the
core goes on. With any word that issues, each generator that the word accesses under step has taken its stride (R90), and after it the increment of
the level that repeats; an address wraps in its space. -/
def Obligations.LoopControl : Prop :=
  (∀ (g : Gen) (d : BitVec 24), (g.far = false → g.cur.toNat < 2 ^ 20) → g.move d = { g with cur := (g.move d).cur } ∧
    ((g.move d).cur.toNat : Int) = ((g.cur.toNat : Int) + d.toInt) % (if g.far then 2 ^ 48 else 2 ^ 20)) ∧
  ∀ (s : State) (n : Nat) (up : Bool), Issues s n up →
    let c := found s n
    let w := wordAt s n
    let stepped := fun (a : Nat) =>
      let x := wordSelect w a
      if (wordFormat w = 0 ∨ wordFormat w = 2) ∧ (x.mode = 1 ∨ x.mode = 2) ∧ x.step = true then (c.gen a).move ((c.gen a).stride x.stride) else c.gen a
    wordFormat w ≠ 1 → isHalt 0 w = false →
    (∀ i names, wordOf i = some (n, up, names) → names w = true → Gives s i n fun t _ => ∀ a < 4,
      (exitTaken c w = true → t.gen a = stepped a) ∧ (exitTaken c w = false → repeats c w 6 0 = none → t.gen a = stepped a) ∧
      (exitTaken c w = false → ∀ k, repeats c w 6 0 = some k → t.gen a = (stepped a).move (SMap.get 0 (c.level k).incs a))) ∧
    (isExit w = true → exitTaken c w = true → Gives s (.conditionalExit n up) n fun t _ =>
      t.pc = (c.level (loopField w).exitLvl).target ∧ ∀ k ≤ (loopField w).exitLvl, (t.level k).active = false) ∧
    (isExit w = true → exitTaken c w = false → Gives s (.conditionalExit n up) n fun t _ => t.pc = nextPc c w) ∧
    (isClose w = true → exitTaken c w = false → ∀ k, repeats c w 6 0 = some k → Gives s (.loopClose n up) n fun t _ =>
      t.pc = (c.level k).start ∧ (t.level k).remaining = (c.level k).remaining - 1) ∧
    (isClose w = true → exitTaken c w = false → repeats c w 6 0 = none → Gives s (.loopClose n up) n fun t _ =>
      t.pc = c.pc + 1 ∧ ∀ k < 6, closes w k = true → (t.level k).active = false)

/-- Messages and bindings (R86, R98, R105, R108, R111): SEND sends its line to the core and epoch its route register names and
counts it outstanding; POST opens a window and marks its lines; WAIT_RECV and WAIT_SEND give the sender of the last message and
the failed sends; a binding slot is bound or released. The model's choices: a wait's status lands one beat after issue
(notes/assumptions/58.md), and a generator in mode 2 names a window by the first line of its frame (notes/assumptions/61.md). -/
def Obligations.MessageWords : Prop :=
  ∀ (s : State) (n : Nat) (up : Bool), Issues s n up →
    let c := found s n
    let w := wordAt s n
    let chan := field w 11 4
    let r := c.sreg (field w 15 5)
    let x := SMap.get ⟨0, 0⟩ c.sends chan
    (isMessage 0 w = true → Gives s (.sendMessage n up) n fun t outs =>
      Out.send ⟨n, routeDest r, chan, r.extractLsb' 16 16, lineIn c w (field w 20 2)⟩ ∈ outs ∧
      (SMap.get ⟨0, 0⟩ t.sends chan).outstanding = x.outstanding + 1) ∧
    (isMessage 1 w = true → SMap.find? c.holding chan = none → Gives s (.postWindow n up) n fun t _ =>
      ∃ v, SMap.find? t.windows chan = some v ∧ v.line = (c.access w (field w 20 2)).addr / 64 ∧ v.len = field w 22 7 ∧ v.senders = [] ∧
        ∀ k < field w 22 7, v.line + k ∈ t.pendLines) ∧
    (isMessage 1 w = true → ∀ m, SMap.find? c.holding chan = some m → Gives s (.postWindow n up) n fun t _ =>
      ∃ v, SMap.find? t.windows chan = some v ∧ v.senders = [m.sender]) ∧
    (isMessage 2 w = true → ∀ v, SMap.find? c.windows chan = some v →
      Flies s (.waitRecv n up) n (c.beat + 1) (field w 15 5) (BitVec.ofNat 64 (v.senders.getD (field w 22 7 - 1) 0))) ∧
    (isMessage 3 w = true → Flies s (.waitSend n up) n (c.beat + 1) (field w 15 5) (BitVec.ofNat 64 x.failed) ∧
      Gives s (.waitSend n up) n fun t _ => (SMap.get ⟨0, 0⟩ t.sends chan).failed = 0 ∧ (SMap.get ⟨0, 0⟩ t.sends chan).outstanding = x.outstanding) ∧
    (isBind false w = true → Gives s (.collectiveBind n up) n fun t _ => SMap.find? t.binds (field w 8 4) = some ⟨field w 12 14, flag w 27, c.beat⟩) ∧
    (isBind true w = true → Gives s (.unbind n up) n fun t _ => t.binds = SMap.del c.binds (field w 8 4))

/-- The halt/debug words (R87): END stops the core with reason 0x00, its own address and its beat in the halt record (R117), once every operation
issued has landed and the packers have read their rows; where one of them reads a row too early, the core halts with 0x10 (R237); that END waits for
the packers' rows is the model's reading (notes/assumptions/63.md). BREAK stops it for a debugger only while a debug session of
scope core is open (R435); CHECK goes on where the register named is zero, and halts with reason 0x0E where it is not. An illegal word halts
(R76). -/
def Obligations.HaltWords : Prop :=
  ∀ (s : State) (n : Nat) (up : Bool),
    let c := found s n
    let w := wordAt s n
    let tested := c.sreg (field w 11 5)
    (Issues s n up → isHalt 0 w = true → Gives s (.endProgram n up) n fun t outs => t.run = .idle ∧ ∃ r, outs.getLast? = some (.stop r) ∧ (r = 0 ∨ r = 0x10) ∧
      (r = 0 → t.record = haltRecord c.pc 0 c.beat ∧ ((∀ d e, (s.env n).entry d = some e → e.count ≤ 128) → t.flight = [] ∧ t.array.rows = [] ∧ ∀ p ∈ t.packers, 4 * p.count ≤ p.read)) ∧
      ((∀ p ∈ c.packers, 4 * p.count ≤ p.read) → (∀ l ∈ c.flight, ∀ slot desc keep since addr, l.effect ≠ .report slot desc keep since addr) → r = 0)) ∧
    (Issues s n up → isHalt 1 w = true → Gives s (.breakPoint n up) n fun t _ => (t.run = .broken ↔ s.testPort.core = true)) ∧
    (Issues s n up → isHalt 2 w = true → tested = 0 → Gives s (.checkRegister n up) n fun t _ => t.run = .running ∧ t.pc = nextPc c w) ∧
    (isHalt 2 w = true → tested ≠ 0 → ¬ Issues s n up) ∧
    (Halts s n up → isHalt 2 w = true → tested ≠ 0 → c.pendSreg (field w 11 5) = false → Gives s (.checkRegister n up) n fun t outs =>
      t.run = .idle ∧ ∃ r ≤ 0x0E, outs.getLast? = some (.stop r) ∧ 0x0E ∈ reasons (s.env n) c up ∧ (reasons (s.env n) c up = [0x0E] → r = 0x0E)) ∧
    (Halts s n up → isIllegal w = true → Gives s (.illegalFormatWord n up) n fun t outs =>
      t.run = .idle ∧ ∃ r, outs.getLast? = some (.stop r) ∧ r ≤ 0x02)

/-- What lands (R94, R98, R134, R141): the first operation due of a core writes what it carries and its pending-write bit is
cleared; a held weight row is written into its register. -/
def Obligations.Landings : Prop :=
  ∀ (s : State) (n : Nat), n < 10368 →
    let c := s.core n
    (∀ (due k : Nat) (v : Word64) (rest : List Landing), takeDue c.landedBy c.flight = some (⟨due, .sreg k v⟩, rest) →
      ∃ t, exec (.operationLanding n) s = .next t ∧ (t.core n).sreg k = v ∧ (t.core n).flight = rest ∧ k ∉ (t.core n).pendSregs) ∧
    (∀ (due a : Nat) (b : Bytes) (rest : List Landing), takeDue c.landedBy c.flight = some (⟨due, .locals [(a, b)]⟩, rest) →
      ∃ t, exec (.operationLanding n) s = .next t ∧ (∀ k < b.length, (t.core n).mem.read (a + k) = b.getD k 0) ∧
        (∀ x, x < a ∨ a + b.length ≤ x → (t.core n).mem.read x = c.mem.read x) ∧ a / 64 ∉ (t.core n).pendLines) ∧
    (∀ (due line : Nat) (init int : Bool) (vals : List (Nat × Nat)) (slot : Option Nat) (ev : Events) (rest : List Landing),
      takeDue c.landedBy c.flight = some (⟨due, .acc line init int vals slot ev⟩, rest) →
      ∃ t, exec (.tokenLanding n) s = .next t ∧ t.core n = landAcc { c with flight := rest } line init int vals slot ev ∧ line ∉ (t.core n).pendLines) ∧
    (∀ r, c.array.rows.find? (fun r => decide (r.due ≤ c.landedBy)) = some r →
      ∃ t, exec (.heldWeightRowWrite n) s = .next t ∧ (t.core n).array = ({ c.array with rows := c.array.rows.erase r }).takeRow r)

/-- Messages on their way (R105 to R108): one whose epoch is the destination's is written into its window or held, and its sender
hears so; a stale one is dropped with its entry, which names the sender, the destination and both epochs (a stop that ends with it may
add its own entry, R341); an outcome reaches its sender's counts. -/
def Obligations.MessagesArrive : Prop :=
  ∀ (s : State) (k : Nat),
    (∀ m, s.nextMessage k = some m → m.epoch ≠ (s.core m.dest).epoch → ∃ t, exec (.messageArrival k) s = .next t ∧
      t.mesh = s.mesh.eraseIdx k ∧ t.cores = s.cores ∧ (m.sender < 10368 → t.outcomes = s.outcomes ++ [(m.sender, m.chan, false)]) ∧
      let b := (s.noteOf (s.atelierOfQuadrant (quadrantOf m.dest)) 0x0110 [m.sender, m.dest, m.epoch.toNat, (s.core m.dest).epoch.toNat]).blotter
      (t.blotter = b ∨ ∃ e : BlotterEntry, e.code = 0x0104 ∧ t.blotter = b.write e)) ∧
    (∀ m v, s.nextMessage k = some m → m.epoch = (s.core m.dest).epoch → SMap.find? (s.core m.dest).windows m.chan = some v →
      v.senders.length < v.len → ∃ t, exec (.messageArrival k) s = .next t ∧ t.mesh = s.mesh.eraseIdx k ∧
        t.core m.dest = (s.core m.dest).fillWindow m.chan v m ∧ (m.sender < 10368 → t.outcomes = s.outcomes ++ [(m.sender, m.chan, true)])) ∧
    (∀ m, s.nextMessage k = some m → m.epoch = (s.core m.dest).epoch → SMap.find? (s.core m.dest).windows m.chan = none →
      SMap.find? (s.core m.dest).holding m.chan = none → ∃ t, exec (.messageArrival k) s = .next t ∧
        t.mesh = s.mesh.eraseIdx k ∧ SMap.find? (t.core m.dest).holding m.chan = some m ∧
        (m.sender < 10368 → t.outcomes = s.outcomes ++ [(m.sender, m.chan, true)])) ∧
    (∀ n chan ok, s.outcomes[k]? = some (n, chan, ok) → ∃ t, exec (.sendCompletion k) s = .next t ∧ t.outcomes = s.outcomes.eraseIdx k ∧
      (SMap.get ⟨0, 0⟩ (t.core n).sends chan).outstanding = (SMap.get ⟨0, 0⟩ (s.core n).sends chan).outstanding - 1 ∧
      (SMap.get ⟨0, 0⟩ (t.core n).sends chan).failed = (SMap.get ⟨0, 0⟩ (s.core n).sends chan).failed + bit (!ok))

/-! ### Power, resets and start-up -/

/-- The supply and the resets (R473, R474, R475, R477, R480): a power-up, which after a power-loss shutdown waits until the input has been
below 5 V for 100 ms, finds no key, session, job, command, transfer and link, and starts the timestamp counter at zero (the model's choice,
notes/assumptions/6.md); a power-loss shutdown, an assertion of RESET_N and a thermal trip each erase every volatile key (R397) and take both PCI
Express links down, and burn no fuse; RESET_N puts the panels' records, the power readings and the flash window's registers at their reset
values (R9), and leaves FAULT_N (R479) and the sideband's bus address (the model's choice, notes/assumptions/26.md) as they are; the trip
latch holds FAULT_N until the input is below 5 V. -/
def Obligations.SupplyAndResets : Prop :=
  ∀ s : State,
    let wiped := fun (t : State) => t.nonce = none ∧ t.unwrapped = false ∧ (∀ a, (t.lease a).keys = none) ∧ (∀ g, t.session g = Session.closed) ∧
      (∀ p, (t.pciePort p).up = false) ∧ t.jobs = [] ∧ t.commands = [] ∧ t.dmas = [] ∧ (∀ p, t.port p = DarvalPort.reset) ∧
      t.tamperCount = s.tamperCount ∧ t.debugCount = s.debugCount ∧ t.tamperFuse = s.tamperFuse
    (s.power.rails = false → s.power.trip = false → ∀ rise, s.power.off = true → rise.low < 100 → exec (.powerUp rise) s = .next s) ∧
    (s.power.rails = false → s.power.trip = false → ∀ rise, (s.power.off = true → 100 ≤ rise.low) → ∃ t, exec (.powerUp rise) s = .next t ∧ wiped t ∧ t.power.rails = true ∧
      t.time = 0 ∧ t.power.off = false ∧ t.power.held = !rise.released ∧ t.mstate = (if s.tamperFuse then 5 else if rise.released then 1 else 0) ∧ t.phase = (if s.tamperFuse ∧ rise.released then 1 else 0) ∧ t.flashA = s.flashA ∧
      t.flashB = s.flashB ∧ t.sideband.static = 0x70 ∧ t.sideband.address = none ∧ t.blotter.entries = [] ∧ t.flacon.cold = true) ∧
    (s.power.rails = true → ∃ t, exec .powerLossShutdown s = .next t ∧ wiped t ∧ t.power.rails = false ∧ t.power.off = true ∧ t.blotter.entries = []) ∧
    (s.power.rails = true → s.power.trip = false → ∃ t, exec .resetNAssertion s = .next t ∧ wiped t ∧ t.power.held = true ∧ t.power.rails = true ∧
      t.power.faultN = s.power.faultN ∧ t.power.readings = Readings.zero ∧ t.mstate = (if s.tamperFuse then 5 else 0) ∧ (∀ p, t.panel p = Panel.reset) ∧ t.flacon.cold = true ∧ t.sideband.op = 0 ∧ t.sideband.bank = false ∧
      t.sideband.pageOffset = 0 ∧ t.sideband.result = 0 ∧ t.sideband.check = 0 ∧ t.sideband.address = s.sideband.address ∧ t.time = s.time) ∧
    (∀ source, s.power.rails = true → tripTaken source = true → ∃ t, exec (.thermalTrip source) s = .next t ∧ wiped t ∧ t.power.rails = false ∧
      t.power.trip = true ∧ t.power.faultN = true ∧ t.answers = false) ∧
    (s.power.trip = true → ∃ t, exec .tripLatchRelease s = .next t ∧ t.power.trip = false ∧ t.power.faultN = false ∧
      t = { s with power := { s.power with trip := false, faultN := false } })

/-- Tamper and debug (R433 to R436): an environmental tamper event, on a report of a rail out of its window for 2 ns or longer, of light,
or of a sensor below −40 °C or above 140 °C, and on no other, erases every volatile key, asserts FAULT_N and burns one
fuse of the tamper counter until all 32 are burnt, and the boot begins anew once RESET_N is released (R477), tampered at order 1 with the tamper fuse blown (R485); a mesh break blows the tamper fuse; a challenge is the next 16 bytes of the
entropy source; a token that fails changes nothing but that its challenge is spent, and one that is accepted burns one debug fuse
and opens its scopes; under core scope a write reaches the core named and nothing else of the module, and a read changes nothing
else. The model's choice: the reports that an event was taken on are spent (notes/assumptions/94.md). -/
def Obligations.TamperAndDebug : Prop :=
  (∀ s : State, s.power.rails = true →
    let wiped := fun (t : State) => t.nonce = none ∧ t.unwrapped = false ∧ (∀ a, (t.lease a).keys = none) ∧ (∀ g, t.session g = Session.closed) ∧
      (∀ p, (t.pciePort p).up = false) ∧ t.blotter.entries = []
    let begun := fun (t : State) => t.power.held = s.power.held ∧ t.mstate = (if s.tamperFuse then 5 else if s.power.held then 0 else 1) ∧
      t.phase = (if s.tamperFuse ∧ ¬s.power.held then 1 else 0)
    (∀ source ∈ s.power.watch, ((∃ ns, source = .rail ns ∧ 2 ≤ ns) ∨ source = .light ∨ ∃ x, source = .sensor x ∧ (x < -40 * 16 ∨ 140 * 16 < x)) →
      ∃ t, exec .environmentalTamperEvent s = .next t ∧ wiped t ∧ t.power.faultN = true ∧ t.tamperFuse = s.tamperFuse ∧ t.power.watch = [] ∧
      (s.tamperCount < 32 → t.tamperCount = s.tamperCount + 1) ∧ (32 ≤ s.tamperCount → t.tamperCount = s.tamperCount) ∧ begun t) ∧
    ((∀ source ∈ s.power.watch, ((∃ ns, source = .rail ns ∧ ns < 2) ∨ ∃ x, source = .sensor x ∧ -40 * 16 ≤ x ∧ x ≤ 140 * 16)) → exec .environmentalTamperEvent s = .next s) ∧
    (∃ t, exec .meshBreak s = .next t ∧ wiped t ∧ t.tamperFuse = true ∧ t.mstate = 5 ∧ t.power.faultN = true ∧ t.tamperCount = s.tamperCount) ∧
    (exec .debugChallenge s = .next { s with drawn := s.drawn + 1, testPort := { s.testPort with
      challenge := some (s.drawBytes 16), sent := s.testPort.sent ++ [s.drawBytes 16] } }) ∧
    (∀ token, s.testPort.challenge.isSome = true → s.tokenGood token = false →
      exec (.debugToken token) s = .next { s with testPort := { s.testPort with challenge := none } }) ∧
    (∀ token, s.tokenGood token = true → ∃ t, exec (.debugToken token) s = .next t ∧ wiped t ∧ t.debugCount = s.debugCount + 1 ∧
      t.tamperCount = s.tamperCount ∧ begun t ∧ t.testPort.unlocked = true ∧ t.testPort.core = decide (bitsIn token 48 1 = 1) ∧
      t.testPort.hub = decide (bitsIn token 49 1 = 1) ∧ t.testPort.challenge = none)) ∧
  ∀ (s : State) (n : Nat) (x : CoreAccess), n < 10368 → s.testPort.core = true → (s.mstate = 1 ∨ s.mstate = 2 ∨ s.mstate = 3) →
    ∃ t, exec (.coreStateAccess n x) s = .next t ∧ (∀ m, m ≠ n → t.core m = s.core m) ∧ t.core n = (s.core n).debugged x ∧
      t.testPort.sent = s.testPort.sent ++ ((s.core n).shown x).toList ∧ t = { s with cores := t.cores, testPort := t.testPort } ∧
      (∀ k v, x = .writeSreg k v → (t.core n).sreg (k % 32) = v ∧ ∀ j, j ≠ k % 32 → (t.core n).sreg j = (s.core n).sreg j) ∧
      (∀ a bs, x = .writeLocal a bs → (∀ j < bs.length, (t.core n).mem.read (a % 2 ^ 20 + j) = bs.getD j 0) ∧
        ∀ b, b < a % 2 ^ 20 ∨ a % 2 ^ 20 + bs.length ≤ b → (t.core n).mem.read b = (s.core n).mem.read b)

/-- A boot (R394, R434, R437, R438, R442, R444): a module whose fuse is blown, or whose mesh is broken, is tampered; with neither bank
valid the recovery function is presented; otherwise the newer valid bank's installation section is in force, with a new boot
nonce, every root record and every GDDR7 counter at reset, and no key of an earlier boot; the configuration space of a port whose PERST_N
is released is answered in full (R438, R476). -/
def Obligations.Boots : Prop :=
  ∀ (s : State) (whole : Bool) (failed : Option (Nat × Nat)), s.bootDue = true →
    let answered := fun (t : State) => ∀ p < 2, (t.pciePort p).answered = !(t.pciePort p).perst
    let fresh := fun (t : State) => t.nonce = some (s.drawBytes 32) ∧ t.drawn = s.drawn + 1 ∧ t.unwrapped = true ∧ (∀ a, (t.lease a).keys = none) ∧
      (∀ g, t.root g = RootRecord.zero) ∧ (∀ g k, t.counter g k = CounterBlock.zero) ∧ t.flashA = s.flashA ∧ t.flashB = s.flashB
    ((s.tamperFuse = true ∨ whole = false) → ∃ t, exec (.moduleBoot whole failed) s = .next t ∧ t.tamperFuse = true ∧ t.mstate = 5 ∧
      t.unwrapped = false ∧ t.nonce = none ∧ t.power.faultN = true) ∧
    (s.tamperFuse = false → whole = true → s.selectBank = none → ∃ t, exec (.moduleBoot whole failed) s = .next t ∧ fresh t ∧ answered t ∧ t.mstate = 4 ∧ t.power.curb = false ∧
      t.bankFails = s.bankReasons ∧ t.power.faultN = false) ∧
    (s.tamperFuse = false → whole = true → failed = none → ∀ b older, s.selectBank = some (b, older) →
      ∃ t, exec (.moduleBoot whole failed) s = .next t ∧ fresh t ∧ answered t ∧ t.mstate = 1 ∧ t.phase = 5 ∧ t.training = none ∧ t.power.faultN = false ∧
        t.inForce = some (inForceOf b (bankImage (s.bank b))) ∧ t.sideband.op = 0 ∧ t.sideband.pageOffset = 0 ∧ t.sideband.result = 0 ∧ (∀ p, t.panel p = Panel.reset) ∧ (∀ n, t.core n = Core.reset) ∧ t.reservoir = [] ∧
        (older = false → t.blotter.entries = []) ∧ (older = true → t.blotter.entries.map (·.code) = [0x0280])) ∧
    (s.tamperFuse = false → whole = true → ∀ kind unit b older, failed = some (kind, unit) → s.selectBank = some (b, older) →
      ∃ t, exec (.moduleBoot whole failed) s = .next t ∧ t.mstate = 3 ∧ t.fcode = 0x0801 ∧ t.power.faultN = true)

/-- On the way to readiness and after (R439, R444, R455, R459, R471, R488): training of GDDR7 puts the blotter into its ring in the module
area, and one that fails leaves it for the rest of the boot; once training has ended the module is ready; LREF gained or lost changes the counter's source without a step and ports go into
training or down, and what waits for a rail destination waits on its port (R260, R270); a firmware watchdog is a module fault; the recovery function writes a valid image to bank A, after a window operation that is under way
there. -/
def Obligations.StartUpEvents : Prop :=
  ∀ s : State,
    (s.mstate = 1 → s.phase = 5 → s.training = none → exec (.gddr7TrainingComplete true) s = .next { s with training := some true, blotter := { s.blotter with inArea := true } } ∧
      exec (.gddr7TrainingComplete false) s = .next { s with training := some false } ∧ exec .moduleReady s = .next s) ∧
    (∀ b, s.training.isSome = true → exec (.gddr7TrainingComplete b) s = .next s) ∧
    (s.mstate = 1 → s.phase = 5 → s.training.isSome = true → ∃ t, exec .moduleReady s = .next t ∧ t.mstate = 2 ∧ t.phase = 6) ∧
    (s.power.rails = true → s.power.lref = false → ∃ t, exec .lrefLock s = .next t ∧ t.power.lref = true ∧ t.time = s.time ∧
      ∀ p < 20, (s.peerEntry p).isSome = true → (s.port p).state = .absent → (t.port p).state = .training ∧ (t.port p).stage = 1) ∧
    (s.power.rails = true → s.power.lref = true → ∃ t, exec .lrefLoss s = .next t ∧ t.power.lref = false ∧ t.time = s.time ∧
      ∀ p < 20, ((s.port p).state = .up → (t.port p).state = .retraining) ∧ ((s.port p).state = .training → (t.port p).state = .absent) ∧
      ∀ g ∈ s.railDestinations, ∀ r, 15 ≤ r → r < 19 → r ≠ t.railPort (g / 16) → ∀ vc < 4, ∀ w ∈ SMap.get [] (t.port r).queues vc, w.dst ≠ g) ∧
    (∀ die < 5, (s.mstate = 1 ∨ s.mstate = 2) → ∃ t, exec (.firmwareWatchdog die) s = .next t ∧ t.mstate = 3 ∧ t.fcode = 0x0880 ∧ t.power.faultN = true) ∧
    (∀ port < 2, s.mstate = 4 → (SMap.get Recovery.reset s.recovery port).go = false → s.bankABusy = true → ∀ addr len image success,
      exec (.recoveryWrite port addr len image success) s = .next { s with recovery := SMap.set Recovery.reset s.recovery port ⟨addr, len, true, (SMap.get Recovery.reset s.recovery port).status, some ⟨image, success⟩⟩ }) ∧
    (∀ port < 2, s.mstate = 4 → (SMap.get Recovery.reset s.recovery port).go = false → s.bankABusy = false → ∀ addr len image success,
      ∃ t, exec (.recoveryWrite port addr len image success) s = .next t ∧
      let r := SMap.get Recovery.reset t.recovery port
      r.go = false ∧
      (33554432 < len.toNat → r.status = 0x01 ∧ t.flashA = s.flashA) ∧
      (len.toNat ≤ 33554432 → image = none → r.status = 0x02 ∧ t.flashA = s.flashA) ∧
      (len.toNat ≤ 33554432 → ∀ bs, image = some bs → imageCheck (padTo len.toNat bs) ≠ 0 → r.status = 0x01 ∧ t.flashA = s.flashA) ∧
      (len.toNat ≤ 33554432 → ∀ bs, image = some bs → imageCheck (padTo len.toNat bs) = 0 → success = true →
        r.status = 0x00 ∧ t.flashA = bankOf (padTo len.toNat bs) ∧ t.bootDue = (s.power.rails && !s.power.trip)) ∧
      (len.toNat ≤ 33554432 → ∀ bs, image = some bs → imageCheck (padTo len.toNat bs) = 0 → success = false → r.status = 0x03 ∧ t.flashA = s.flashA) ∧
      (s.sideband.task = none → t.flashB = s.flashB))

/-! ### The sideband and the flash -/

/-- The I3C target (R482 to R485, R487, R488). A common command changes the address or the enable it names, or gives its bytes, and
nothing else of the module; SETDASA is taken where it names the static address. The model's choice: what is sent to the dynamic address
needs one (notes/assumptions/100.md). A private write sets the offset, and every byte that follows goes to its offset; what lies outside the flash
window is ignored, a byte of FW_BUF is stored, a go starts an operation, whose page and bytes are those that stand then (the model's choice,
notes/assumptions/26.md), or leaves its refusal in FW_STATUS; nothing but the sideband changes. -/
def Obligations.SidebandCommands : Prop :=
  (∀ s : State, s.answers = true →
    let side := fun (x : Sideband) => (.next { s with sideband := x } : Answer)
    let told := fun (bs : Bytes) => side { s.sideband with answers := s.sideband.answers ++ [bs] }
    (∀ e : Byte, exec (.enec e) s = side { s.sideband with enabled := s.sideband.enabled || e.getLsbD 0 }) ∧
    (∀ e : Byte, exec (.disec e) s = side { s.sideband with enabled := s.sideband.enabled && !e.getLsbD 0 }) ∧
    exec .rstdaa s = side { s.sideband with address := none } ∧
    (∀ a, s.sideband.address = none → exec (.entdaa a) s = side { s.sideband with address := some a } ∧
      exec (.setdasa ⟨s.sideband.static, a⟩) s = side { s.sideband with address := some a } ∧ ∀ c, c ≠ s.sideband.static → exec (.setdasa ⟨c, a⟩) s = .next s) ∧
    (∀ a, s.sideband.address.isSome = true → exec (.setnewda a) s = side { s.sideband with address := some a } ∧
      exec (.entdaa a) s = .next s ∧ ∀ c, exec (.setdasa ⟨c, a⟩) s = .next s) ∧
    (s.sideband.address.isSome = true → exec .getmwl s = told [0x10, 0x02] ∧ exec .getmrl s = told [0x02, 0x00] ∧ exec .getpid s = told (beBytes 6 Config.i3cPid.toNat) ∧
    exec .getbcr s = told [Config.i3cBcr] ∧ exec .getdcr s = told [Config.i3cDcr] ∧ exec .getmxds s = told (beBytes 2 Config.i3cMxds.toNat) ∧
    exec .getstatus s = told (beBytes 2 (Config.i3cStatus (!s.sideband.raised.isEmpty)).toNat))) ∧
  ∀ (s : State) (bytes : Bytes), s.answers = true → s.sideband.address.isSome = true → 2 ≤ bytes.length → bytes.length ≤ 4098 →
    ∃ x : Sideband, exec (.i3cPrivateWrite bytes) s = .next { s with sideband := x } ∧
      x.offset = (ofLe (bytes.take 2) + (bytes.length - 2)) % 65536 ∧ x.address = s.sideband.address ∧ x.static = s.sideband.static ∧
      x.enabled = s.sideband.enabled ∧ x.answers = s.sideband.answers ∧
      (∀ off b, bytes = leBytes 2 off ++ [b] → off < 65536 →
        (off < 0x200 ∨ 0x2000 ≤ off ∨ 0x210 ≤ off ∧ off < 0x1000 → x = { s.sideband with offset := (off + 1) % 65536 }) ∧
        (0x1000 ≤ off → off < 0x2000 → x.buffer.read (off - 0x1000) = b ∧ ∀ k, k ≠ off - 0x1000 → x.buffer.read k = s.sideband.buffer.read k) ∧
        (off = 0x207 → 128 ≤ b.toNat → s.sideband.running = true → x.result = 0x01 ∧ x.task = s.sideband.task ∧ x.op = s.sideband.op % 4) ∧
        (off = 0x207 → 128 ≤ b.toNat → s.sideband.running = false → s.windowOpen = false → x.result = 0x07 ∧ x.running = false) ∧
        (off = 0x207 → 128 ≤ b.toNat → s.sideband.running = false → s.windowOpen = true → s.sideband.op % 4 ≠ 0 →
          s.selected s.sideband.bank = true → x.result = 0x02 ∧ x.running = false) ∧
        (off = 0x207 → 128 ≤ b.toNat → s.sideband.running = false → s.windowOpen = true → (s.sideband.op % 4 = 1 ∨ s.sideband.op % 4 = 3) →
          s.selected s.sideband.bank = false → x.task = some ⟨s.sideband.op % 4, s.sideband.bank, s.sideband.pageOffset.toNat, []⟩ ∧ x.go = true) ∧
        (off = 0x207 → 128 ≤ b.toNat → s.sideband.running = false → s.windowOpen = true → s.sideband.op % 4 = 2 → s.selected s.sideband.bank = false →
          let p := s.sideband.pageOffset.toNat
          (¬(p % 4096 = 0 ∧ p < 33554432) → x.result = 0x03 ∧ x.running = false) ∧
          (p % 4096 = 0 → p < 33554432 → pageErased (s.bank s.sideband.bank) p = false → x.result = 0x04 ∧ x.running = false) ∧
          (p % 4096 = 0 → p < 33554432 → pageErased (s.bank s.sideband.bank) p = true → x.task = some ⟨2, s.sideband.bank, p, s.sideband.buffer.readBytes 0 4096⟩ ∧ x.go = true)))

/-- The flash window's operations (R443, R487): an erase leaves its bank all ones, a program puts its bytes at its page, a
verify changes no bank and reports the first failing condition of R442, a device error leaves 0x05; the other bank is unaffected, and a
recovery write that waited for the operation follows it (R488). -/
def Obligations.FlashOperations : Prop :=
  ∀ (s : State) (k : FlashTask), s.sideband.task = some k → (SMap.get Recovery.reset s.recovery 1).waiting = none →
    let b := k.bank
    (k.op = 3 → k.bank = false → ∀ x, (SMap.get Recovery.reset s.recovery 0).waiting = some x →
      let u := { s with sideband := { s.sideband with task := none, go := false, result := (if s.bankCheck false = 0 then 0x00 else 0x06), check := s.bankCheck false } }
      exec .verifyBank s = .next (announce u (u.recoveryWritten 0 (SMap.get Recovery.reset s.recovery 0).addr (SMap.get Recovery.reset s.recovery 0).len x))) ∧
    ((SMap.get Recovery.reset s.recovery 0).waiting = none →
    let done := fun (t : State) => t.sideband.running = false ∧ t.sideband.go = false ∧ t.bank (!b) = s.bank (!b) ∧ t.broken (!b) = s.broken (!b) ∧
      t = { s with flashA := t.flashA, flashB := t.flashB, flashBroken := t.flashBroken, sideband := t.sideband }
    (k.op = 1 → ∃ t, exec (.eraseBank true) s = .next t ∧ done t ∧ t.sideband.result = 0x00 ∧ t.broken b = false ∧
      ∀ j n, ∀ y ∈ bankBytes (t.bank b) j n, y = 0xFF) ∧
    (k.op = 1 → ∃ t, exec (.eraseBank false) s = .next t ∧ done t ∧ t.sideband.result = 0x05 ∧ t.bank b = s.bank b) ∧
    (k.op = 2 → k.data.length = 4096 → ∃ t, exec (.programPage true) s = .next t ∧ done t ∧ t.sideband.result = 0x00 ∧
      bankBytes (t.bank b) k.page 4096 = k.data ∧ ∀ a, a < k.page ∨ k.page + 4096 ≤ a → (t.bank b).read a = (s.bank b).read a) ∧
    (k.op = 2 → ∃ t, exec (.programPage false) s = .next t ∧ done t ∧ t.sideband.result = 0x05 ∧ t.bank b = s.bank b) ∧
    (k.op = 3 → ∃ t, exec .verifyBank s = .next t ∧ done t ∧ t.bank b = s.bank b ∧
      (s.bankCheck b = 0 → t.sideband.result = 0x00) ∧ (s.bankCheck b ≠ 0 → t.sideband.result = 0x06 ∧ t.sideband.check = s.bankCheck b)))

/-! ### The protected memories -/

/-- Reads of a line (R402): verification that passes, at the first or the second try, changes nothing, and neither does a line
that is poisoned already; a tag that fails twice marks its line poisoned, with an entry, and every other line of the region
reads as before. A counter block or tree node that fails (R400, R403) loses every group beneath it, each line of which then reads as poisoned;
in the module area the module faults, elsewhere the region's atelier does. -/
def Obligations.LineReads : Prop :=
  (∀ (s : State) (g line : Nat), (s.root g).lost.getLsbD (line / 64) = true → s.lineBad g line = true) ∧
  ∀ (s : State) (g line : Nat), g < 262144 → line < 16384 → s.lineLive g line = true →
    (∀ k < 3, ∀ first second, ∃ u : State, u = { s with roots := u.roots } ∧ (∀ r, r ≠ g → u.root r = s.root r) ∧
      (∀ m < 256, (u.root g).lost.getLsbD m = ((s.root g).lost.getLsbD m || decide (m / 8 ^ k = line / 64 / 8 ^ k))) ∧
      (inArea g = true → exec (.protectedLineRead g line (some k) first second) s = .next (u.faultModule 0x0821 [g, line / 64]) ∧
        (u.faultModule 0x0821 [g, line / 64]).mstate = 3 ∧ (u.faultModule 0x0821 [g, line / 64]).fcode = 0x0821) ∧
      (inArea g = false → ∀ a, s.atelierOfRegion g = some a → exec (.protectedLineRead g line (some k) first second) s = .next (u.faultAtelier a 0x0420 none none [g, line / 64]))) ∧
    (∀ first second, (first || second) = true → exec (.protectedLineRead g line none first second) s = .next s) ∧
    (s.lineBad g line = true → exec (.protectedLineRead g line none false false) s = .next s) ∧
    (s.lineBad g line = false → ∃ t, exec (.protectedLineRead g line none false false) s = .next t ∧ t.lineBad g line = true ∧ t.gddr = s.gddr ∧
      (∀ l, l < 16384 → l ≠ line → t.lineBad g l = s.lineBad g l) ∧ (∃ e, t.blotter.entries.getLast? = some e ∧ e.code = 0x0223 ∧ e.handles = [g, line]) ∧
      t = { s with counters := t.counters, blotter := t.blotter })

/-- Writes of lines (R403 to R408): a whole line reads as written and is not poisoned, its minor counter one on, or 1 after a
re-encryption of its group, whose other lines stay poisoned where they were or where they now fail their verification, and no other
byte of GDDR7 changes; a lost group and a retired region take no write; a major counter that can rise no further has the region re-keyed
in the write's place, the line then under minor 1, or, at its last epoch, retired, the write refused. A partial write merges the bytes
given into the line as it reads, and no other byte changes; to a line that is poisoned, or whose tag fails, it writes nothing, the line is poisoned and the region's
atelier faults with 0x0421 (R405). The model's choices: such a write ends a re-key that is under way in its place
(notes/assumptions/29.md), the lines of a group that a boundary divides have a major counter of the new epoch (notes/assumptions/83.md), and
the lines that fail a re-encryption are an operand (notes/assumptions/84.md). -/
def Obligations.LineWrites : Prop :=
  (∀ (s : State) (g line : Nat) (data : Bytes) (bad : List Nat), g < 262144 → line < 16384 → data.length = 128 → s.keyed g = true →
    let r := s.root g
    let c := s.counter g (line / 64)
    let m := SMap.get 0 c.minors (line % 64)
    ((r.lost.getLsbD (line / 64) = true ∨ r.retired = true) → exec (.protectedLineWrite g line ⟨data, bad⟩) s = .next s) ∧
    (r.lost.getLsbD (line / 64) = false → r.retired = false → s.spent g line = false →
      ∃ t, exec (.protectedLineWrite g line ⟨data, bad⟩) s = .next t ∧
        (∀ a, t.gddr.read a = if 2 ^ 21 * g + 128 * line ≤ a ∧ a < 2 ^ 21 * g + 128 * line + 128 then data.getD (a - (2 ^ 21 * g + 128 * line)) 0 else s.gddr.read a) ∧
        (t.root g).written.getLsbD (line / 64) = true ∧ (s.leaseEnding g = false → t.lineBad g line = false) ∧
        (m.toNat ≤ 125 → SMap.get 0 (t.counter g (line / 64)).minors (line % 64) = m + 1 ∧ (t.counter g (line / 64)).major = c.major ∧ t.blotter = s.blotter) ∧
        (125 < m.toNat → SMap.get 0 (t.counter g (line / 64)).minors (line % 64) = 1 ∧
          (t.counter g (line / 64)).major = (if r.splits (line / 64) = true ∧ r.below line = true then c.major else c.major + 1) ∧
          (t.root g).fresh = (if r.splits (line / 64) = true ∧ r.below line = true then r.fresh + 1 else r.fresh) ∧
          (s.lineLive g line = true → ∀ l ∈ bad, l < 16384 → l / 64 = line / 64 → l ≠ line → t.lineBad g l = true)) ∧
        t = { s with gddr := t.gddr, counters := t.counters, roots := t.roots, blotter := t.blotter }) ∧
    (r.lost.getLsbD (line / 64) = false → r.retired = false → s.spent g line = true → r.last = true → ∃ t, exec (.protectedLineWrite g line ⟨data, []⟩) s = .next t ∧
      (t.root g).retired = true ∧ t.gddr = s.gddr ∧ t.counters = s.counters ∧ ∃ e, t.blotter.entries.getLast? = some e ∧ e.code = 0x0224 ∧ e.handles = [g]) ∧
    (r.lost.getLsbD (line / 64) = false → r.retired = false → s.spent g line = true → r.last = false → ∃ t, exec (.protectedLineWrite g line ⟨data, []⟩) s = .next t ∧
      (t.root g).epoch = r.epoch + 1 ∧ (t.root g).rekey = false ∧ (t.root g).retired = false ∧ SMap.get 0 (t.counter g (line / 64)).minors (line % 64) = 1 ∧
      ∀ a, t.gddr.read a = if 2 ^ 21 * g + 128 * line ≤ a ∧ a < 2 ^ 21 * g + 128 * line + 128 then data.getD (a - (2 ^ 21 * g + 128 * line)) 0 else s.gddr.read a)) ∧
  (∀ (s : State) (g line off : Nat) (data : Bytes) (good : Bool), g < 262144 → line < 16384 → s.keyed g = true →
    ((s.root g).lost.getLsbD (line / 64) = true ∨ (s.lineLive g line = true ∧ (s.lineBad g line = true ∨ good = false))) →
      ∃ u : State, u.lineBad g line = true ∧ u = { s with counters := u.counters, blotter := u.blotter } ∧
        ((s.lineBad g line = true → u.blotter = s.blotter) ∧ (s.lineBad g line = false → ∃ e, u.blotter.entries.getLast? = some e ∧ e.code = 0x0223 ∧ e.handles = [g, line])) ∧
        (∀ a, s.atelierOfRegion g = some a → exec (.partialLineWrite g line off data none good) s = .next (u.faultAtelier a 0x0421 none none [g, line])) ∧
        (s.atelierOfRegion g = none → exec (.partialLineWrite g line off data none good) s = .next u)) ∧
  ∀ (s : State) (g line off : Nat) (data : Bytes), g < 262144 → line < 16384 → off + data.length ≤ 128 → s.gddr.wf = true → s.keyed g = true →
    (s.root g).lost.getLsbD (line / 64) = false → (s.root g).retired = false → s.lineBad g line = false →
    SMap.get 0 (s.counter g (line / 64)).minors (line % 64) ≤ 125#7 →
      ∃ t, exec (.partialLineWrite g line off data none true) s = .next t ∧ t.lineBad g line = false ∧
        (∀ a, t.gddr.read a = if 2 ^ 21 * g + 128 * line + off ≤ a ∧ a < 2 ^ 21 * g + 128 * line + off + data.length then
          data.getD (a - (2 ^ 21 * g + 128 * line + off)) 0 else s.gddr.read a) ∧
        t = { s with gddr := t.gddr, counters := t.counters, roots := t.roots }

/-- The memories' upkeep (R190, R191, R197, R198, R494): refreshes are counted; a channel above 85 °C refreshes at twice the rate, above
95 °C with an entry; a non-zero ECC count is an entry; corrected errors of a panel are counted over a second, and the one that
passes 1,000 is an entry; a reservoir line with an uncorrectable error is poisoned; a patrolled module-area line that fails is
poisoned, and a node that fails loses every group beneath it; the line of a burst that exhausts its retries on its own channel is poisoned, and the sixteenth such burst within
1 s faults the module.
A re-key, with a reserved tag free (R194), moves its boundary on, the lines it passes coming under the new epoch with their counters reset; at the last line the epoch is one on, the re-key is over and no byte of GDDR7 has changed; a region at
its last epoch is retired, with its entry (R407, R408). The model's choices: a line's channel by its 1 KiB unit (notes/assumptions/75.md), the
second and the hundredth over which both counts run as sliding (notes/assumptions/51.md), the counters that a re-key passes
(notes/assumptions/83.md) and the tag of a re-key (notes/assumptions/68.md). -/
def Obligations.MemoryUpkeep : Prop :=
  (∀ s : State, s.power.rails = true →
    let entry := fun (t : State) (code : Nat) (h : List Nat) => ∃ e, t.blotter.entries.getLast? = some e ∧ e.code = BitVec.ofNat 16 code ∧ e.handles = h
    (∀ c < 32, ∃ t, exec (.gddr7Refresh c) s = .next t ∧ (t.channel c).refreshes = (s.channel c).refreshes + 1 ∧ (t.channel c).doubled = (s.channel c).doubled ∧
      t = { s with channels := t.channels }) ∧
    (∀ c < 32, ∀ temp : Int, ∃ t, exec (.gddr7TemperatureReadout c temp) s = .next t ∧ (t.channel c).temp = temp ∧
      ((t.channel c).doubled = true ↔ 85 * 16 < temp) ∧ (temp ≤ 95 * 16 → t.blotter = s.blotter) ∧ (95 * 16 < temp → entry t 0x0220 [c])) ∧
    (∀ c < 32, exec (.gddr7EccCountRead c 0) s = .next s ∧ ∀ n, 0 < n → exec (.gddr7EccCountRead c n) s = .next (s.note 0x0120 [c, n])) ∧
    (∀ p < 12, ∀ n, let before := (((s.panel p).corrected.filter fun e => decide ((s.time - e.1).toNat < 100000000)).map Prod.snd).sum
      ∃ t, exec (.sramCorrectedErrorRate p n) s = .next t ∧ ((t.panel p).corrected.map Prod.snd).sum = before + n ∧
        ((before ≤ 1000 ∧ 1000 < before + n) → entry t 0x0221 [p, before + n]) ∧ (¬(before ≤ 1000 ∧ 1000 < before + n) → t.blotter = s.blotter) ∧
        ∀ k, k ≠ p → t.panel k = s.panel k) ∧
    (∀ p < 12, ∀ bad n, ∃ t, exec (.reservoirPatrolScrub p bad n) s = .next t ∧ t.reservoir = s.reservoir ∧
      (∀ l, t.poison.has l = (s.poison.has l || (bad.map (s.panelLine p)).contains l))) ∧
    (∀ die < 4, (s.mstate = 1 ∨ s.mstate = 2 ∨ s.mstate = 3) → exec (.moduleAreaPatrol die [] []) s = .next s ∧
      ∀ r l, let g := 65536 * die + 65456 + r
        s.lineLive g l = true → s.lineBad g l = false → exec (.moduleAreaPatrol die [(r, l)] []) s = .next (s.lineFailed g l)) ∧
    (∀ die < 4, (s.mstate = 1 ∨ s.mstate = 2) → ∀ r level group, let g := 65536 * die + 65456 + r
      r < 80 → level < 3 → group < 256 → s.lineLive g (64 * group) = true → ∃ t, exec (.moduleAreaPatrol die [] [(r, level, group)]) s = .next t ∧ t.mstate = 3 ∧ t.fcode = 0x0821 ∧
        ∀ k, k / 8 ^ level = group / 8 ^ level → (t.root g).lost.getLsbD k = true) ∧
    (∀ c g l w, c < 32 → g < 262144 → l < 16384 → ¬(c / 8 = g / 65536 ∧ c % 8 = l / 8 % 8) → exec (.gddr7RetriesExhausted c g l w) s = .next s) ∧
    (∀ c g l, c < 32 → g < 262144 → l < 16384 → c / 8 = g / 65536 → c % 8 = l / 8 % 8 → s.lineLive g l = true → s.lineBad g l = false →
      ((s.channel c).exhausted.filter fun t => decide ((s.time - t).toNat < 100000000)).length < 15 → ∀ w,
      ∃ t, exec (.gddr7RetriesExhausted c g l w) s = .next t ∧ t.lineBad g l = true ∧ (t.channel c).exhausted.getLast? = some s.time ∧ t.mstate = s.mstate) ∧
    (∀ c g l, c < 32 → g < 262144 → l < 16384 → c / 8 = g / 65536 → c % 8 = l / 8 % 8 →
      ((s.channel c).exhausted.filter fun t => decide ((s.time - t).toNat < 100000000)).length = 15 → ∀ w,
      ∃ t, exec (.gddr7RetriesExhausted c g l w) s = .next t ∧ t.mstate = 3 ∧ t.fcode = 0x0820 ∧ t.power.faultN = true ∧ (s.lineLive g l = true → s.scatters = [] → t.lineBad g l = true))) ∧
  ∀ (s : State) (g lines : Nat), g < 262144 → s.keyed g = true → (s.root g).retired = false → s.rekeyDue g = true → s.freeModuleTag.isSome = true →
    let r := s.root g
    let start := if r.rekey then r.boundary else 0
    let passed := fun (t : State) (dest : Nat) => (s.counters.map Prod.fst).Nodup → ∀ k c, k < 256 → SMap.find? s.counters (256 * g + k) = some c →
      t.counter g k = c.passed k start dest r.fresh
    (r.epoch.toNat + 1 = 65535 → ∃ t, exec (.regionRekey g lines []) s = .next t ∧ (t.root g).retired = true ∧ t.gddr = s.gddr ∧
      ∃ e, t.blotter.entries.getLast? = some e ∧ e.code = 0x0224 ∧ e.handles = [g]) ∧
    (r.epoch.toNat + 1 ≠ 65535 → start + lines < 16384 → ∃ t, exec (.regionRekey g lines []) s = .next t ∧ (t.root g).rekey = true ∧
      (t.root g).boundary = start + lines ∧ (t.root g).epoch = r.epoch ∧ (∀ l < 16384, (t.root g).epochOf l = if l < start + lines then r.epoch.toNat + 1 else r.epoch.toNat) ∧
      passed t (start + lines) ∧ t = { s with roots := t.roots, counters := t.counters }) ∧
    (r.epoch.toNat + 1 ≠ 65535 → 16384 ≤ start + lines → ∃ t, exec (.regionRekey g lines []) s = .next t ∧ (t.root g).rekey = false ∧
      (t.root g).epoch = r.epoch + 1 ∧ passed t 16384 ∧ t = { s with roots := t.roots, counters := t.counters })

/-- The discard rule (R448 to R450): an atelier fault is written to the blotter before anything else; the atelier is faulted, with
the fault's code, until its reset; its cores stop, its accepted commands are gone, the segments that wait for a tag with them, and
the other ateliers' state stands. -/
def Obligations.AtelierFaults : Prop :=
  ∀ (s : State) (a code : Nat) (step ctx : Option Nat) (h : List Nat),
    ((s.atelier a).faulted = true → s.faultAtelier a code step ctx h = s.log code (some a) step ctx h) ∧
    ((s.atelier a).faulted = false → (s.lease a).state ≠ 3 → s.mstate ≠ 3 →
      let t := s.faultAtelier a code step ctx h
      (t.atelier a).faulted = true ∧ (t.atelier a).fcode = BitVec.ofNat 16 code ∧ (t.atelier a).findex = s.blotter.next ∧
      (∀ b, b ≠ a → t.atelier b = s.atelier b) ∧ (∀ n, s.holds a n = true → (t.core n).run = .idle ∧ (t.core n).staged = []) ∧
      (∀ n, s.holds a n = false → t.core n = s.core n) ∧ (∀ p ∈ t.commands, p.2.atelier ≠ a) ∧
      t.tagWaits = (s.tagWaits.filter fun g => !((SMap.find? s.dmas g.cmd).any fun d => decide (d.atelier = a))) ∧ t.installation = s.installation)

/-! ### The table units -/

/-- Table requests (R168 to R173): the request at the front of its unit's queue leaves it; one with a reject code touches no memory
and is answered with the code; a gather into a window answers with its rows, line by line, and then its completion, one into far memory writes
its rows and answers with its completion, a scatter-add updates its rows one after another likewise, and a row whose own read fails
verification faults the atelier; every answer carries the request's epoch and the unit's number. The model's choices: the gather unit
answers a request of the reserved op 3 (notes/assumptions/20.md), and while PWR_CURB_N is asserted a unit's every second start is withheld
(R366, notes/assumptions/73.md). -/
def Obligations.TableRequests : Prop :=
  ∀ (s : State) (q : Nat), q < 48 →
    let code := fun (r : TableReq) => s.tableReject r.ctx r.line true
    let rows := fun (r : TableReq) => (s.indices r.ctx r.line).map (s.gatherRow r.ctx r.line)
    let told := fun (r : TableReq) => completionLine r.line 0 (distinctCount (s.indices r.ctx r.line)) (gatherTally r.line (s.indices r.ctx r.line) (rows r))
    let answered := fun (r : TableReq) (t : State) (n : Nat) => ∃ ms : List Msg, t.mesh = s.mesh ++ ms ∧ ms.length = n ∧
      ∀ m ∈ ms, m.sender = 10368 + q ∧ m.dest = r.core ∧ m.epoch = r.epoch ∧ m.chan = reqChan r.line
    let refused := fun (r : TableReq) (t : State) => t.mesh = s.mesh ++ [⟨10368 + q, r.core, reqChan r.line, r.epoch, completionLine r.line (code r) 0 ⟨0, 0, none⟩⟩] ∧
      t.reservoir = s.reservoir ∧ t.gddr = s.gddr ∧ t.poison = s.poison ∧ t.cores = s.cores
    let starts := fun (u : Nat) => (s.power.curb && s.flacon.waits.has u) = false
    let withheld := fun (i : Instr) (u : Nat) => exec i s = .next { s with flacon := { s.flacon with waits := s.flacon.waits.drop u } }
    (∀ r rest, SMap.get [] s.gathers q = r :: rest → (s.freeTag r.atelier).isSome = true → s.power.curb = true → s.flacon.waits.has (64 + q) = true →
      ((reqOp r.line = 0 ∨ reqOp r.line = 3) → withheld (.gatherToWindow q) (64 + q)) ∧ (reqOp r.line = 1 → withheld (.gatherToFarMemory q) (64 + q))) ∧
    (∀ r rest fails, SMap.get [] s.scatters q = r :: rest → (s.freeTag r.atelier).isSome = true → s.power.curb = true → s.flacon.waits.has (128 + q) = true →
      withheld (.scatterAdd ⟨q, fails⟩) (128 + q)) ∧
    (∀ r rest, SMap.get [] s.gathers q = r :: rest → (s.freeTag r.atelier).isSome = true → starts (64 + q) → (reqOp r.line = 0 ∨ reqOp r.line = 3) →
      ∃ t, exec (.gatherToWindow q) s = .next t ∧ SMap.get [] t.gathers q = rest ∧ (code r ≠ 0 → refused r t) ∧
        (code r = 0 → answered r t (reqCount r.line * reqLines r.line + 1) ∧ t.reservoir = s.reservoir ∧ t.gddr = s.gddr ∧
          (t.mesh.drop s.mesh.length).map (·.data) = (rows r).flatMap (·.1) ++ [told r])) ∧
    (∀ r rest, SMap.get [] s.gathers q = r :: rest → (s.freeTag r.atelier).isSome = true → starts (64 + q) → reqOp r.line = 1 →
      ∃ t, exec (.gatherToFarMemory q) s = .next t ∧ (code r ≠ 0 → refused r t ∧ SMap.get [] t.gathers q = rest) ∧
        (code r = 0 → let x := s.store r.ctx (reqAddr2 r.line) ((rows r).flatMap fun y => y.1.flatten)
          x.gddrBad = [] → answered r t 1 ∧ SMap.get [] t.gathers q = rest ∧ t.reservoir = x.state.reservoir ∧ t.gddr = x.state.gddr ∧
            (x.state.mayWrite r.ctx (reqAddr2 r.line) (64 * reqCount r.line * reqLines r.line) = true → (t.mesh.drop s.mesh.length).map (·.data) = [told r]))) ∧
    (∀ r rest fails, SMap.get [] s.scatters q = r :: rest → (s.freeTag r.atelier).isSome = true → starts (128 + q) →
      ∃ t, exec (.scatterAdd ⟨q, fails⟩) s = .next t ∧ (code r ≠ 0 → refused r t ∧ SMap.get [] t.scatters q = rest) ∧
        (code r = 0 → (∀ i ∈ s.indices r.ctx r.line, reqRows r.line ≤ i) → answered r t 1 ∧ t.reservoir = s.reservoir ∧ t.gddr = s.gddr) ∧
        (code r = 0 → ∀ i, s.indices r.ctx r.line = [i] → i < reqRows r.line →
          let size := 64 * reqLines r.line
          let va := reqTable r.line + size * i
          let f := (Fmt.ofCode (reqFmt r.line)).getD .fp32
          let g := if reqWide r.line then .fp32 else f
          let x := s.store r.ctx va (scatterRow f g (reqRtz r.line) (s.fetch r.ctx va size).bytes [s.contributionCodes r.ctx r.line g 0])
          (s.fetch r.ctx va size).bad = [] →
            (s.rowFails r.ctx va size fails = none → x.gddrBad = [] → x.state.mayWrite r.ctx va size = true → answered r t 1 ∧ t.reservoir = x.state.reservoir ∧ t.gddr = x.state.gddr) ∧
            (∀ reg line, s.rowFails r.ctx va size fails = some (reg, line) → s.atelierOfRegion reg = some r.atelier → MayFault s r.atelier →
              (t.atelier r.atelier).faulted = true ∧ (t.atelier r.atelier).fcode = 0x0421)) ∧
        (code r = 0 → let x : State := { s with scatters := SMap.set [] s.scatters q rest }
          let f := (Fmt.ofCode (reqFmt r.line)).getD .fp32
          let g := if reqWide r.line then .fp32 else f
          let size := 64 * reqLines r.line
          let adds := fun (i : Nat) => ((List.range (reqCount r.line)).filter fun j => (s.indices r.ctx r.line).getD j 0 = i).map (s.contributionCodes r.ctx r.line g)
          let u := (s.rowsOf r.ctx r.line).foldl (fun u i => u.updateRow r.ctx (reqTable r.line + size * i) size fails f g (reqRtz r.line) (adds i)) x
          (u.atelier r.atelier).faulted = (s.atelier r.atelier).faulted →
            t.reservoir = u.reservoir ∧ t.gddr = u.gddr ∧ ∃ m : Msg, t.mesh = u.mesh ++ [m] ∧ m.sender = 10368 + q ∧ m.dest = r.core ∧ m.epoch = r.epoch ∧ m.chan = reqChan r.line))

/-! ### Far lines and the launch of a core -/

/-- A core's far lines, its packers and its launch (R101, R103, R113, R114, R198, R236 to R239): run-ahead of a running core
fetches the line that the generator reads next within 64 beats, be it the next word's own, and stages it on its way; the oldest line on its
way arrives, with its fault 0x24 and poisoned where an uncorrectable error is met in it; the packer that holds a whole chunk encodes it and
hands it on for its job's step; each of these without such a line or chunk leaves everything as it is (the model's choice: a command
without an occasion, notes/assumptions/2.md). A launch gives the core its image's entry, words and scalar registers, a route register's
with the present epoch of the core it names (R105), no pending write, and leaves its memories. -/
def Obligations.FarLinesAndLaunch : Prop :=
  ∀ (s : State) (n : Nat), n < 10368 →
    let c := s.core n
    let staged := fun (l : List Staged) => s.setCore n { c with staged := l }
    (∀ g < 4, (∀ x, c.fetches (s.env n) g = some x → exec (.runAheadFetch n g) s = .next (staged (c.staged ++ [x]))) ∧
      (c.fetches (s.env n) g = none → exec (.runAheadFetch n g) s = .next s) ∧
      (c.run = .running → c.moving g = none → pauses g (c.word c.pc) = false → g ∈ farReads c (c.word c.pc) → c.stagedNow g = none →
        c.holderFree g (fetchAhead (s.env n) c g) = true → exec (.runAheadFetch n g) s = .next (staged (c.staged ++ [fetchAhead (s.env n) c g]))) ∧
      ∀ x, c.fetches (s.env n) g = some x → x.gen = g ∧ x.arrived = false ∧ c.beat ≤ x.beat ∧ x.beat < c.beat + 64) ∧
    (∀ g < 4, let first := c.staged.find? (fun y => decide (y.gen = g) && !y.arrived)
      (∀ bad, first = none → exec (.stagedLineArrival n g bad) s = .next s) ∧
      ∀ x, first = some x →
        exec (.stagedLineArrival n g false) s = .next (staged (c.staged.map fun y => if y = x then { x with arrived := true } else y)) ∧
        ((∀ p, s.locate c.ctx x.addr = some p → p.gddr = true) → exec (.stagedLineArrival n g true) s = exec (.stagedLineArrival n g false) s) ∧
        (∀ p, s.locate c.ctx x.addr = some p → p.gddr = false → ∃ t, exec (.stagedLineArrival n g true) s = .next t ∧
          t.core n = { c with staged := c.staged.map fun y => if y = x then { x with arrived := true, faults := x.faults ++ [(x.addr, 0x24)] } else y } ∧ t.poison.has (p.addr / 64) = true ∧
          (∀ m, m ≠ n → t.core m = s.core m) ∧ t = { s with cores := t.cores, poison := t.poison, blotter := t.blotter })) ∧
    (let first := c.packers.find? (fun p => decide (128 * (p.encoded + 1) ≤ p.vals.length))
    (first = none → exec (.chunkPacker n) s = .next s) ∧
      ∀ p, first = some p →
        let left := if p.encoded + 1 = p.count then c.packers.erase p else c.packers.map fun x => if x = p then { p with encoded := p.encoded + 1 } else x
        let u := s.setCore n { c with packers := left }
        (((∀ k, p.job = some k → SMap.find? s.jobs k = none) ∨ SMap.find? s.colls p.desc = none) → exec (.chunkPacker n) s = .next u) ∧
        (∀ k j x, p.job = some k → SMap.find? s.jobs k = some j → SMap.find? s.colls p.desc = some x →
          exec (.chunkPacker n) s = .next (u.packed k j (p.step.getD 0) p.desc (p.first + p.encoded) (p.chunk x.op (j.within x (p.first + p.encoded)))))) ∧
    (∀ jn j st k, SMap.find? s.jobs jn = some j → stageOf (s.imageOf jn) n = some st → c.run = .idle → s.mstate = 2 → j.resident = true →
      j.switching = false → j.serving = false → s.launchStep n jn j = some k → ∃ t, exec (.coreLaunch n jn) s = .next t ∧
        let d := t.core n
        d.run = .running ∧ d.pc = stageEntry (s.imageOf jn) st ∧ d.words = j.words (s.imageOf jn) k st ∧ d.beat = 0 ∧ d.pendLines = [] ∧ d.pendRows = [] ∧ d.pendSregs = [] ∧ d.gens = [] ∧ d.levels = [] ∧
        (∀ i < 32, let v := leAt (s.imageOf jn) (stageField (s.imageOf jn) st 160 32 + 8 * i) 8
          d.sreg i = BitVec.ofNat 64 (if bitAt (stageField (s.imageOf jn) st 192 32) i then v / 2 ^ 32 * 2 ^ 32 + (t.core (v % 2 ^ 14)).epoch.toNat * 65536 + v % 65536 else v)) ∧
        d.streams = [] ∧ d.counters = [] ∧ d.binds = [] ∧ d.mem = c.mem ∧ d.tiles = c.tiles ∧ d.step = some k ∧ d.job = some jn ∧
        (c.job = some jn → d.epoch = c.epoch) ∧ (c.job ≠ some jn → d.epoch = c.epoch + 1 ∧ d.windows = [] ∧ d.holding = []) ∧
        ∀ m, m ≠ n → t.core m = s.core m)

/-! ### Host ports, queues and objects -/

/-- ATTACH and DETACH (R304, R306 to R310, R439, R454): a driver's write stands in the registers whatever follows; on a function that is
busy it leaves 0x06 and the running command as it is, in the failed state 0x05; before readiness an ATTACH stays running; then its
result is the first of R309's checks that fails, or 0x00 with the atelier attached and its admin queue as the arguments say; an attachment
that is there is detached first, its idle queues gone. An ATTACH whose arguments break R314, or that finds no free queue or its quota spent,
ends with 0x04. DETACH detaches the atelier attached through the function: its queues close, and what its commands have left to write is
dropped. A write of CTRL_CMD without go, or with a cmd that names no command, only stands in the registers. The model's choices: go with such a
cmd starts nothing, 0x04 where no queue is left, and a takeover detaches before its arguments are checked (notes/assumptions/74.md). -/
def Obligations.AttachAndDetach : Prop :=
  ∀ (s : State) (port fn vmin vmax : Nat) (tk : Bool) (ring cq shadow args : Word64), port < 2 → fn < 17 → s.served port = true →
    let r := s.function port fn
    let i := Instr.attach port ⟨fn, true, none⟩ vmin vmax tk ring cq shadow args
    let e := Instr.detach port ⟨⟨fn, true, none⟩, tk, vmin, vmax⟩
    let w := { r with cmd := 1, takeover := tk, vmin := vmin % 256, vmax := vmax % 256, arg0 := ring, arg1 := cq, arg2 := shadow, arg3 := args }
    let d := { r with cmd := 2, takeover := tk, vmin := vmin % 256, vmax := vmax % 256 }
    let u := s.setFunction port fn { w with go := true, runs := some ⟨1, tk, vmin % 256, vmax % 256, ring, cq, shadow, args⟩ }
    let ends := fun (x : Nat) => ∃ t, exec i s = .next t ∧ t.function port fn = { w with go := false, result := x, runs := none } ∧ t = { s with functions := t.functions }
    let lsize := field args 0 5
    let free := fun (v : State) (a : Nat) => ∃ n x, v.freeQueue = some n ∧ v.entry a = some x ∧ v.queuesOf a < x.qq
    let inRange := 6 ≤ lsize ∧ lsize ≤ 16 ∧ ring.toNat % 4096 = 0 ∧ cq.toNat % 4096 = 0 ∧ shadow.toNat % 8 = 0
    (∀ g : CtrlGo, g.fn = fn → g.wellFormed = true → (g.go = false ∨ g.idle.isSome = true) →
      exec (.attach port g vmin vmax tk ring cq shadow args) s = .next (s.setFunction port fn { w with cmd := g.idle.getD 1 }) ∧
      exec (.detach port ⟨g, tk, vmin, vmax⟩) s = .next (s.setFunction port fn { d with cmd := g.idle.getD 2 })) ∧
    (r.go = true → exec i s = .next (s.setFunction port fn { w with result := 0x06 }) ∧ exec e s = .next (s.setFunction port fn { d with result := 0x06 })) ∧
    (r.go = false → s.mstate = 3 → exec i s = .next (s.setFunction port fn { w with result := 0x05 }) ∧ exec e s = .next (s.setFunction port fn { d with result := 0x05 })) ∧
    (r.go = false → s.mstate = 1 → exec i s = .next u) ∧
    (r.go = false → s.mstate = 2 → s.atelierOfFn port fn = none → ends 0x05) ∧
    (∀ a, r.go = false → s.mstate = 2 → s.atelierOfFn port fn = some a →
      ((2 < vmin % 256 ∨ vmax % 256 < 2) → ends 0x01) ∧
      (vmin % 256 ≤ 2 → 2 ≤ vmax % 256 →
        (∀ p, (s.atelier a).attached = some p → p ≠ (port, fn) → tk = false → ends 0x02) ∧
        (((s.atelier a).attached = none ∨ (s.atelier a).attached = some (port, fn) ∨ tk = true) → (¬inRange ∨ ¬free ((u.detach a).closeIdle a) a) → ∃ t, exec i s = .next t ∧
          (t.function port fn).result = 0x04 ∧ (t.function port fn).go = false ∧ (t.function port fn).runs = none ∧ (t.atelier a).attached = none ∧
          (∀ b, b ≠ a → t.atelier b = s.atelier b) ∧ ((s.atelier a).attached = none → t.atelier a = s.atelier a) ∧
          t = { s with functions := t.functions, ateliers := t.ateliers, queues := t.queues, commands := t.commands, signals := t.signals }) ∧
        (((s.atelier a).attached = none ∨ (s.atelier a).attached = some (port, fn) ∨ tk = true) → inRange →
          let v := (u.detach a).closeIdle a
          ∀ n x, v.freeQueue = some n → v.entry a = some x → v.queuesOf a < x.qq →
            ∃ t q, exec i s = .next t ∧ t.function port fn = { w with go := false, result := 0x00, version := 2, admin := n, attached := true, runs := none, waiting := if (s.atelier a).attached = some (port, fn) then [] else r.waiting } ∧
              (t.atelier a).attached = some (port, fn) ∧ (t.atelier a).admin = some n ∧
              (t.atelier a).tag = (if field args 37 1 = 1 then some (field args 17 20) else none) ∧
              SMap.find? t.queues n = some q ∧ q.atelier = a ∧ q.kind = 0 ∧ q.prio = 7 ∧ q.ring = ring ∧ q.cq = cq ∧ q.shadow = shadow ∧ q.lsize = lsize ∧
              q.fetched = 0 ∧ q.closing = false ∧ (∀ b, b ≠ a → t.atelier b = s.atelier b) ∧
              t = { s with functions := t.functions, ateliers := t.ateliers, queues := t.queues, commands := t.commands, signals := t.signals }))) ∧
    (∀ a, r.go = false → s.mstate ≠ 3 → s.atelierOfFn port fn = some a →
      ((s.atelier a).attached = some (port, fn) → ∃ t, exec e s = .next t ∧ t.function port fn = { d with go := false, result := 0x00, version := 0, attached := false, runs := none, waiting := [] } ∧
        (t.atelier a).attached = none ∧ (∀ b, b ≠ a → t.atelier b = s.atelier b) ∧
        (∀ n q, SMap.find? t.queues n = some q → q.atelier = a → q.closing = true ∧ q.held = []) ∧
        (∀ n c, SMap.find? s.commands n = some c → SMap.find? t.commands n = some (if c.atelier = a then { c with muted := true } else c)) ∧
        t.signals.map (fun x => (x.1, x.2.1)) = s.signals.map (fun x => (x.1, x.2.1)) ∧
        t = { s with functions := t.functions, ateliers := t.ateliers, queues := t.queues, commands := t.commands, signals := t.signals }) ∧
      ((s.atelier a).attached ≠ some (port, fn) → ∃ t, exec e s = .next t ∧ t.function port fn = { d with go := false, result := 0x03, runs := none } ∧ t = { s with functions := t.functions })) ∧
    (r.go = false → s.mstate ≠ 3 → s.atelierOfFn port fn = none → ∃ t, exec e s = .next t ∧ t.function port fn = { d with go := false, result := 0x05, runs := none } ∧ t = { s with functions := t.functions })

/-- ATELIER_RESET (R306 to R310, R439, R452, R454): busy and failed as ATTACH; refused while a lease ends or a reset of the same atelier
runs, before readiness too, or where the physical function names no atelier of the image; a faulted atelier with nothing left to drain
comes back at once, its cores at their launch state with zeroed memories and counter slots, its decant sets given up and its fault gone. A
write without go, or with a cmd that names no command, only stands in the registers. The model's choices: before readiness a reset stays
running, as an ATTACH does, and go with such a cmd starts nothing (notes/assumptions/74.md). -/
def Obligations.AtelierResets : Prop :=
  ∀ (s : State) (port fn vmin vmax : Nat) (tk : Bool) (arg : Word64), port < 2 → fn < 17 → s.served port = true →
    let r := s.function port fn
    let w := { r with cmd := 4, takeover := tk, vmin := vmin % 256, vmax := vmax % 256, arg0 := arg }
    let i := Instr.atelierReset port ⟨⟨fn, true, none⟩, tk, vmin, vmax⟩ arg
    let ends := fun (x : Nat) => ∃ t, exec i s = .next t ∧ t.function port fn = { w with go := false, result := x, runs := none } ∧ t = { s with functions := t.functions }
    (∀ g : CtrlGo, g.fn = fn → g.wellFormed = true → (g.go = false ∨ g.idle.isSome = true) →
      exec (.atelierReset port ⟨g, tk, vmin, vmax⟩ arg) s = .next (s.setFunction port fn { w with cmd := g.idle.getD 4 })) ∧
    (r.go = true → exec i s = .next (s.setFunction port fn { w with result := 0x06 })) ∧
    (r.go = false → s.mstate = 3 → exec i s = .next (s.setFunction port fn { w with result := 0x05 })) ∧
    (∀ p f c a, r.go = false → s.mstate = 1 → p < 2 → f < 17 → (p, f) ≠ (port, fn) → (s.function p f).runs = some c → c.cmd = 4 →
      s.resetTarget p f c.arg0 = some a → s.resetTarget port fn arg = some a → ends 0x06) ∧
    (r.go = false → s.mstate = 1 → s.resetTwice port fn arg = false → exec i s = .next (s.setFunction port fn { w with go := true, runs := some ⟨4, tk, vmin % 256, vmax % 256, arg, r.arg1, r.arg2, r.arg3⟩ })) ∧
    (r.go = false → s.mstate = 2 → fn ≠ 0 → s.atelierOfFn port fn = none → ends 0x05) ∧
    (r.go = false → s.mstate = 2 → fn = 0 → s.nat ≤ arg.toNat % 16 → ends 0x04) ∧
    (∀ a, r.go = false → s.mstate = 2 → (if fn = 0 then some (arg.toNat % 16) else s.atelierOfFn port fn) = some a → a < s.nat →
      ((s.lease a).state = 3 → ends 0x05) ∧
      ((s.lease a).state ≠ 3 → (s.atelier a).resetting.isSome = true → ends 0x06) ∧
      ((s.lease a).state ≠ 3 → (s.atelier a).resetting = none → (s.atelier a).faulted = true → (s.atelier a).draining = none →
        ∃ t, exec i s = .next t ∧ t.function port fn = { w with go := false, result := 0x00, runs := none } ∧ (t.atelier a).faulted = false ∧
          (t.atelier a).fcode = 0 ∧ (t.atelier a).resetting = none ∧
          (∀ n, s.holds a n = true → let d := t.core n
            d.run = .idle ∧ d.mem = [] ∧ d.tiles = [] ∧ d.pc = (s.core n).pc ∧ d.epoch = (s.core n).epoch ∧ d.words = (s.core n).words ∧ d.gens = [] ∧ d.binds = [] ∧ d.counters = [] ∧ d.copyCounts = []) ∧
          (∀ n, s.holds a n = false → t.core n = s.core n) ∧ (∀ n j, SMap.find? t.jobs n = some j → j.atelier = a → j.decanted = false ∧ j.sets = []) ∧
          (∀ x ∈ t.serving.held, x.atelier ≠ a) ∧ (∀ x ∈ t.serving.passes, x.atelier ≠ a)))

/-- Port resets and links (R300, R303, R304, R476): every atelier attached through the port is detached, its running control commands
end without a result, the link is down, and no core, memory, job or object is touched, nor any command but that what it has left to write
is dropped; a function-level reset of a virtual function detaches its atelier alone; a released
port with its REFCLK trains from order 1 of a boot on and one without stays down (R470), configuration space is answered from order 4 on or
in recovery (R438, R444), and a link that is up below 64 GT/s by 8 leaves an entry. The model's choice: a port reset leaves the registers'
other fields (notes/assumptions/101.md). -/
def Obligations.PortResets : Prop :=
  ∀ (s : State) (port : Nat), port < 2 →
    let x := s.pciePort port
    let off := fun (t : State) => (∀ a < 16, ∀ f, (s.atelier a).attached = some (port, f) → (t.atelier a).attached = none) ∧
      (∀ a p f, (s.atelier a).attached = some (p, f) → p ≠ port → (t.atelier a).attached = some (p, f)) ∧
      (∀ f < 17, (t.function port f).go = false) ∧
      (∀ n c, SMap.find? s.commands n = some c → ∃ b, SMap.find? t.commands n = some { c with muted := b } ∧ (c.muted = true → b = true)) ∧
      t.signals.map (fun x => (x.1, x.2.1)) = s.signals.map (fun x => (x.1, x.2.1)) ∧
      t = { s with pcie := t.pcie, functions := t.functions, ateliers := t.ateliers, queues := t.queues, commands := t.commands, signals := t.signals }
    (x.perst = false → ∃ t, exec (.perstAssert port) s = .next t ∧ off t ∧ t.pciePort port = { x with perst := true, up := false, answered := false }) ∧
    (x.up = true → ∃ t, exec (.hotReset port) s = .next t ∧ off t ∧ t.pciePort port = { x with up := false, answered := false }) ∧
    (x.up = true → ∃ t, exec (.pcieLinkLoss port) s = .next t ∧ off t ∧ t.pciePort port = { x with up := false, answered := false }) ∧
    (x.up = true → ∃ t, exec (.functionLevelReset port 0) s = .next t ∧ off t ∧ t.pciePort port = x) ∧
    (∀ fn a, x.up = true → 0 < fn → fn < 17 → s.atelierOfFn port fn = some a → (s.atelier a).attached = some (port, fn) →
      ∃ t, exec (.functionLevelReset port fn) s = .next t ∧ (t.atelier a).attached = none ∧ (∀ b, b ≠ a → t.atelier b = s.atelier b) ∧
        t = { s with functions := t.functions, ateliers := t.ateliers, queues := t.queues, commands := t.commands, signals := t.signals }) ∧
    (∀ clock, x.perst = true → ∃ t, exec (.perstRelease ⟨port, clock⟩) s = .next t ∧
      t.pciePort port = { x with perst := false, answered := decide (4 ≤ s.phase) || decide (s.mstate = 4), refclk := clock } ∧ t = { s with pcie := t.pcie }) ∧
    (∀ rate width, x.refclk = false → exec (.pcieLinkUp port rate width) s = .next s) ∧
    (∀ rate width, x.perst = false → x.up = false → x.refclk = true → s.tamperFuse = false → 1 ≤ s.mstate → 1 ≤ s.phase → [640, 320, 160, 80, 50, 25].contains rate = true → [8, 4, 2, 1].contains width = true → ∃ t, exec (.pcieLinkUp port rate width) s = .next t ∧
      t.pciePort port = ⟨false, true, rate, width, decide (4 ≤ s.phase) || decide (s.mstate = 4), true⟩ ∧ t = { s with pcie := t.pcie, blotter := t.blotter } ∧
      (640 ≤ rate → 8 ≤ width → t.blotter = s.blotter) ∧
      ((rate < 640 ∨ width < 8) → ∃ e, t.blotter.entries.getLast? = some e ∧ e.code = 0x0206 ∧ e.handles = [port, rate, width]))

/-- Doorbells, closing queues and translations (R301, R304, R305, R316): SQ_TAIL is taken where the ring holds as many commands as
it claims and is logged otherwise; CQ_HEAD frees room and a held completion is written into it; a closing queue goes once no
accepted command of it remains; an invalidated translation is gone. The model's choice: the entry of an admin queue names no context
(notes/assumptions/54.md). -/
def Obligations.Doorbells : Prop :=
  ∀ s : State,
    (∀ port fn n v q, port < 2 → n < 2048 → s.ownsQueue port fn n = true → SMap.find? s.queues n = some q →
      ((v - q.fetched).toNat ≤ 2 ^ q.lsize → ∃ t, exec (.sqTail port fn n v) s = .next t ∧ SMap.find? t.queues n = some { q with tail := v } ∧
        (∀ k, k ≠ n → SMap.find? t.queues k = SMap.find? s.queues k) ∧ t = { s with queues := t.queues }) ∧
      (2 ^ q.lsize < (v - q.fetched).toNat → exec (.sqTail port fn n v) s = .next (s.log 0x0141 (some ((s.atelierOfFn port fn).getD 0)) none (if q.kind = 0 then none else some q.ctx) [n, v.toNat]))) ∧
    (∀ port fn n v q, port < 2 → n < 2048 → s.ownsQueue port fn n = true → SMap.find? s.queues n = some q →
      (q.held = [] → ∃ t, exec (.cqHead port fn n v) s = .next t ∧ SMap.find? t.queues n = some { q with head := v } ∧ t = { s with queues := t.queues }) ∧
      (∀ c, q.held = [c] → q.closing = false → (q.written - v).toNat < 2 ^ q.lsize → ∃ t, exec (.cqHead port fn n v) s = .next t ∧
        SMap.find? t.queues n = some { q with head := v, held := [], written := q.written + 1 } ∧
        HostOut.write (s.queueTag q).1 (s.queueTag q).2 (q.cq.toNat + 16 * (q.written.toNat % 2 ^ q.lsize)) (c.bytes n q.written.toNat q.lsize) ∈ t.hostOut) ∧
      (∀ c rest, q.held = c :: rest → 2 ^ q.lsize ≤ (q.written - v).toNat → ∃ t, exec (.cqHead port fn n v) s = .next t ∧
        SMap.find? t.queues n = some { q with head := v } ∧ t.hostOut = s.hostOut)) ∧
    (∀ n q, n < 2048 → SMap.find? s.queues n = some q → q.closing = true → (∀ c ∈ s.commands, c.2.queue ≠ n) →
      ∃ t, exec (.detachmentQueueDestroy n) s = .next t ∧ SMap.find? t.queues n = none ∧ (∀ k, k ≠ n → SMap.find? t.queues k = SMap.find? s.queues k) ∧ t = { s with queues := t.queues }) ∧
    (∀ port pasid page, port < 2 → (s.pciePort port).up = true → ∃ t, exec (.atsInvalidation port pasid page) s = .next t ∧
      (port, pasid, page) ∉ t.translations ∧ (∀ x, x ≠ (port, pasid, page) → (x ∈ t.translations ↔ x ∈ s.translations)) ∧ t = { s with translations := t.translations })

/-- Acceptance and start (R311, R313, R319, R320, R324, R326, R451): a fetched command is counted and its shadow written; accepted, it is
entered under the next serial with its references, an object it frees is condemned and the objects an accepted JOB_CREATE lists are
referred to and held as listed;
rejected, it is not entered; in a faulted atelier it completes with 0x0D unless it is LEASE_END or NOP. The next command of a queue starts
once its wait is over; a wait that is over when its command becomes next stays so. What a command points to is checked at its fetch too: an
image that fails R329 draws 0x0A and one that the commission does not list 0x0C, a job that fails a check of R332 draws 0x0B with the check's
number, a contributor table draws 0x09 or 0x07 (R495), a snapshot without room 0x09 (R334). The model's reading: what is read for a check at the
fetch, and that a check is made again where the command is carried out (notes/assumptions/77.md). -/
def Obligations.AcceptanceAndStart : Prop :=
  ∀ (s : State) (n : Nat) (q : Queue), n < 2048 → SMap.find? s.queues n = some q → s.mstate = 2 →
    let u := (s.onQueue n fun x => { x with fetched := q.fetched + 1 }).hostWrite (s.queueTag q).1 (s.queueTag q).2 q.shadow.toNat (leBytes 8 (q.fetched + 1).toNat)
    let v := u.translated (s.queueTag q).1 (s.queueTag q).2 (q.ring.toNat + 128 * (q.fetched.toNat % 2 ^ q.lsize))
    let c := fun (bs : Bytes) => (⟨n, q.atelier, padTo 128 bs, .waiting, [], false, 0, false, false, false, false⟩ : Cmd)
    let counted := fun (t : State) => (∃ x, SMap.find? t.queues n = some x ∧ x.fetched = q.fetched + 1) ∧
      HostOut.write (s.queueTag q).1 (s.queueTag q).2 q.shadow.toNat (leBytes 8 (q.fetched + 1).toNat) ∈ t.hostOut
    (q.closing = false → q.tail ≠ q.fetched → ((s.lease q.atelier).state ≠ 3 ∨ q.kind = 0) →
      (∀ e : EntryRead, e.entry = none → ∃ t, exec (.commandFetch n e) s = .next t ∧ counted t ∧ t.commands = s.commands ∧ t.nextSerial = s.nextSerial) ∧
      (∀ (e : EntryRead) bs, e.entry = some bs → (s.atelier q.atelier).faulted = true → (c bs).opcode ≠ 0x21 → (c bs).opcode ≠ 0x13 →
        exec (.commandFetch n e) s = .next (v.pushCompletion n ⟨BitVec.ofNat 32 (c bs).id, 0x0D, false, false, 0, (c bs).irq⟩)) ∧
      (∀ (e : EntryRead) bs, e.entry = some bs → ((s.atelier q.atelier).faulted = false ∨ (c bs).opcode = 0x21 ∨ (c bs).opcode = 0x13) → v.acceptStatus q (c bs) = 0 →
        let y := v.readBeside (c bs) e
        (y.contentStatus (c bs) e).1 = 0 →
        ∃ t x, exec (.commandFetch n e) s = .next t ∧ counted t ∧ t.nextSerial = s.nextSerial + 1 ∧
          SMap.find? t.commands s.nextSerial = some { c bs with refs := y.refsOf (c bs) (e.list.getD []), released := x } ∧
          (∀ k, k ≠ s.nextSerial → (∀ y ∈ s.commands, y.1 = k → y.2.queue ≠ n) → SMap.find? t.commands k = SMap.find? s.commands k) ∧
          (∀ k m, (c bs).frees = some (.mobj, k) → SMap.find? s.mobjs k = some m → ∃ x, SMap.find? t.mobjs k = some x ∧ x.condemned = true ∧ x.free = some s.nextSerial) ∧
          (∀ k m, (c bs).frees = some (.fence, k) → SMap.find? s.fences k = some m → ∃ x, SMap.find? t.fences k = some x ∧ x.condemned = true ∧ x.free = some s.nextSerial) ∧
          (∀ k m, (c bs).frees = some (.image, k) → SMap.find? s.images k = some m → ∃ x, SMap.find? t.images k = some x ∧ x.condemned = true ∧ x.free = some s.nextSerial) ∧
          (∀ k m, (c bs).frees = some (.coll, k) → SMap.find? s.colls k = some m → ∃ x, SMap.find? t.colls k = some x ∧ x.condemned = true ∧ x.free = some s.nextSerial) ∧
          (∀ j m, (c bs).opcode = 0x0E → j < (c bs).pay 320 20 → let k := bitsIn (slice (e.list.getD []) (4 * j) 4) 0 20
            SMap.find? s.mobjs k = some m → m.ctx = (c bs).ctx → m.condemned = false →
            t.listing k = true ∧ ∃ y, SMap.find? t.mobjs k = some y ∧ m.refs < y.refs)) ∧
      (∀ (e : EntryRead) bs r, e.entry = some bs → ((s.atelier q.atelier).faulted = false ∨ (c bs).opcode = 0x21 ∨ (c bs).opcode = 0x13) → v.acceptStatus q (c bs) = r → r ≠ 0 →
        ∃ t, exec (.commandFetch n e) s = .next t ∧ t = v.reject n (c bs) r (if r = 0x0B then 1 else 0) ∧ counted t ∧ t.commands = s.commands ∧ t.nextSerial = s.nextSerial) ∧
      (∀ (e : EntryRead) bs, e.entry = some bs → (s.atelier q.atelier).faulted = false → v.acceptStatus q (c bs) = 0 →
        let y := v.readBeside (c bs) e
        let x := c bs
        let draws := fun (r k : Nat) => ∃ t, exec (.commandFetch n e) s = .next t ∧ t = y.reject n x r k ∧ counted t ∧ t.commands = s.commands ∧ t.nextSerial = s.nextSerial
        (∀ b, x.opcode = 0x0A → e.image = some b → let d := padTo (x.pay 64 32) b
          (y.imageGood q.atelier d = false → draws 0x0A 0) ∧
          (y.imageGood q.atelier d = true → (∀ m, (y.lease q.atelier).commission = some m → m.progs.contains (imageDigest d) = false) → draws 0x0C 0)) ∧
        (x.opcode = 0x0C → (y.objectAt x.ctx ((y.drafted x).field 80 48) (8 * (y.drafted x).field 64 14) = none → draws 0x09 0)) ∧
        (x.opcode = 0x0C → (y.objectAt x.ctx ((y.drafted x).field 80 48) (8 * (y.drafted x).field 64 14)).isSome = true →
          (y.fetch x.ctx ((y.drafted x).field 80 48) (8 * (y.drafted x).field 64 14)).bad = [] →
          (∃ k ∈ (y.drafted x).contributors, y.contributorGood q.atelier (y.drafted x).op k = false) → draws 0x07 0) ∧
        (x.opcode = 0x0E → y.commissioned (y.drawnJob x e.members e.list e.forms) = true →
          y.jobFails x (y.refsOf x (e.list.getD [])) e.members e.list e.forms ≠ 0 → draws 0x0B (y.jobFails x (y.refsOf x (e.list.getD [])) e.members e.list e.forms)) ∧
        (∀ j m f z, x.opcode = 0x14 → SMap.find? s.jobs (x.pay 0 12) = some j → SMap.find? s.mobjs (x.pay 20 20) = some m → fmtVar (x.pay 12 4) (x.pay 16 2) = some (f, z) →
          m.size < (s.snapshotBytes j f z).length → draws 0x09 0))) ∧
    (∀ k x, s.nextToStart n = some (k, x) →
      (s.waitDone x = true → exec (.commandStart n) s = .next ((s.onCmd k fun y => { y with state := .running }).latchNext n)) ∧
      (s.waitDone x = false → exec (.commandStart n) s = .next s))

/-- Completions (R313, R316, R317, R319, R325): a command that ends is gone; its completion is written into its queue's ring where
there is room, and held otherwise; nothing is written for a queue that closes; and its fence is
signalled unless a fault discarded it; the wait of the queue's next command, where it is over, stays so (R326). A command rejected at its
carrying out leaves its entry, which names what the command is about (notes/assumptions/24.md says which object), completes likewise and
signals nothing. -/
def Obligations.Completions : Prop :=
  ∀ (s : State) (n status result : Nat) (c : Cmd), SMap.find? s.commands n = some c →
    let t := s.finish n status result
    let u := s.refuse n status result
    let e : Completion := ⟨BitVec.ofNat 32 c.id, status, c.overrun, c.late, BitVec.ofNat 64 result, c.irq⟩
    let completes := fun (t : State) => SMap.find? t.commands n = none ∧
      (∀ k, k ≠ n → SMap.find? s.commands k = none → SMap.find? t.commands k = none) ∧
      (∀ k y, k ≠ n → SMap.find? s.commands k = some y → ∃ b, SMap.find? t.commands k = some { y with released := b } ∧ (y.released = true → b = true) ∧ ((∀ p ∈ s.commands, p.1 = k → p.2.queue ≠ c.queue) → b = y.released)) ∧
      (∀ k x, ({ s with commands := SMap.del s.commands n } : State).nextToStart c.queue = some (k, x) → x.waitEn = true → s.waitDone x = true →
        ∃ y, SMap.find? t.commands k = some y ∧ y.released = true) ∧
      (∀ q, SMap.find? s.queues c.queue = some q → q.closing = false → (q.written - q.head).toNat < 2 ^ q.lsize →
        SMap.find? t.queues c.queue = some { q with written := q.written + 1 } ∧
        HostOut.write (s.queueTag q).1 (s.queueTag q).2 (q.cq.toNat + 16 * (q.written.toNat % 2 ^ q.lsize)) (e.bytes c.queue q.written.toNat q.lsize) ∈ t.hostOut) ∧
      (∀ q, SMap.find? s.queues c.queue = some q → q.closing = false → 2 ^ q.lsize ≤ (q.written - q.head).toNat →
        SMap.find? t.queues c.queue = some { q with held := q.held ++ [e] } ∧ t.hostOut = s.hostOut) ∧
      (∀ q, SMap.find? s.queues c.queue = some q → q.closing = true → t.hostOut = s.hostOut ∧ t.queues = s.queues)
    completes t ∧ t.blotter = s.blotter ∧ completes u ∧ u.signals = s.signals ∧
    u.blotter = (s.log 0x0140 (some c.atelier) none (some c.ctx) [c.queue, c.id, status, c.slotNamed]).blotter ∧
    (c.sigEn = true → status ≠ 0x0D → t.signals = s.signals ++ [(c.sigFence, BitVec.ofNat 64 c.sigValue, c.muted)]) ∧
    ((c.sigEn = false ∨ status = 0x0D) → t.signals = s.signals)

/-- Contexts, queues, memory objects and fences (R314, R315, R317, R318, R321 to R323): the command completes with the lowest free
number as its result and the object as its payload says. -/
def Obligations.ObjectCommands : Prop :=
  ∀ (s : State) (n : Nat) (c : Cmd) (e : AtelierEntry), s.entry c.atelier = some e →
    let port := ((s.atelier c.atelier).attached.map Prod.fst).getD 0
    let ours := fun (ctx : Nat) => (SMap.find? s.contexts ctx).any fun y => decide (y.atelier = c.atelier)
    (Running s n 0x01 c → (SMap.freeKey s.contexts 256 0 < 256 → (s.contexts.filter fun x => decide (x.2.atelier = c.atelier)).length < e.ctxq →
      ∃ t k, exec (.ctxCreate n) s = .next t ∧ k = SMap.freeKey s.contexts 256 0 ∧ SMap.find? s.contexts k = none ∧ SMap.find? t.contexts k = some ⟨c.atelier, BitVec.ofNat 20 (c.pay 0 20), decide (c.pay 20 1 = 1), port⟩ ∧
        t = ({ s with contexts := SMap.put s.contexts k ⟨c.atelier, BitVec.ofNat 20 (c.pay 0 20), decide (c.pay 20 1 = 1), port⟩ } : State).finish n 0x00 k) ∧
      (256 ≤ SMap.freeKey s.contexts 256 0 → exec (.ctxCreate n) s = .next (s.refuse n 0x06 0))) ∧
    (Running s n 0x02 c → ∀ x, SMap.find? s.contexts c.ctx = some x → ∃ t, exec (.ctxBind n) s = .next t ∧
      SMap.find? t.contexts c.ctx = some { x with pasid := BitVec.ofNat 20 (c.pay 0 20), pasidEn := decide (c.pay 20 1 = 1), port := port } ∧ SMap.find? t.commands n = none) ∧
    (Running s n 0x03 c → (s.ctxBusy c.ctx = true → exec (.ctxDestroy n) s = .next (s.refuse n 0x07 0)) ∧
      (s.ctxBusy c.ctx = false → ∃ t, exec (.ctxDestroy n) s = .next t ∧ SMap.find? t.contexts c.ctx = none ∧ SMap.find? t.commands n = none)) ∧
    (Running s n 0x04 c → c.pay 8 8 = c.ctx → (c.pay 0 2 = 1 ∨ c.pay 0 2 = 2) → 6 ≤ c.pay 16 5 → c.pay 16 5 ≤ 16 → (c.pay 0 2 = 2 ∨ c.pay 236 4 = 0) →
      c.pay 32 64 % 4096 = 0 → c.pay 96 64 % 4096 = 0 → c.pay 160 64 % 8 = 0 → ∀ k, s.freeQueue = some k → s.queuesOf c.atelier < e.qq →
      ∃ t q, exec (.queueCreate n) s = .next t ∧ SMap.find? t.commands n = none ∧ t = ({ s with queues := SMap.put s.queues k q } : State).finish n 0x00 k ∧
        (k ≠ c.queue → SMap.find? t.queues k = some q ∧ q.atelier = c.atelier ∧ q.kind = c.pay 0 2 ∧
        q.prio = c.pay 2 3 ∧ q.ctx = c.ctx ∧ q.lsize = c.pay 16 5 ∧ q.ring = BitVec.ofNat 64 (c.pay 32 64) ∧ q.slot = c.pay 236 4 ∧ q.fetched = 0 ∧ q.held = [])) ∧
    (Running s n 0x05 c → ∀ q, SMap.find? s.queues (c.pay 0 11) = some q → q.atelier = c.atelier → q.kind ≠ 0 →
      ((∀ x ∈ s.commands, x.2.queue ≠ c.pay 0 11) → ∃ t, exec (.queueDestroy n) s = .next t ∧ SMap.find? t.queues (c.pay 0 11) = none) ∧
      ((∃ x ∈ s.commands, x.2.queue = c.pay 0 11) → ∃ t x, exec (.queueDestroy n) s = .next t ∧ SMap.find? t.queues (c.pay 0 11) = some x ∧ x.closing = true)) ∧
    (Running s n 0x06 c → s.mobjStatus c = 0 → ∀ ps slot, slot = SMap.freeKey s.mobjs 1048576 0 → slot < 1048576 →
      (s.mobjs.filter fun x => ours x.2.ctx).length < e.mobjq →
      (if c.pay 0 2 = 1 then s.takeRegions e (decide (c.pay 4 1 = 1)) (if c.pay 4 1 = 1 then c.pay 5 2 else slot % 4) (c.pay 80 32) else s.takePages (c.pay 8 6) (c.pay 80 32)) = some ps →
      ∃ t m, exec (.mobjCreate n) s = .next t ∧ SMap.find? t.commands n = none ∧ t = ({ s with mobjs := SMap.put s.mobjs slot m } : State).finish n 0x00 slot ∧ SMap.find? t.mobjs slot = some m ∧ m.ctx = c.ctx ∧ m.va = c.pay 32 48 ∧ m.pages = ps ∧
        m.gddr = decide (c.pay 0 2 = 1) ∧ m.ro = decide (c.pay 2 1 = 1) ∧ m.peerWr = decide (c.pay 3 1 = 1) ∧ m.condemned = false) ∧
    (Running s n 0x06 c → s.mobjStatus c ≠ 0 → exec (.mobjCreate n) s = .next (s.refuse n (s.mobjStatus c) 0)) ∧
    (Running s n 0x08 c → c.pay 144 8 = c.ctx → c.pay 64 64 % 8 = 0 → (s.fences.filter fun x => ours x.2.ctx).length < e.fenceq → ∀ k, k = SMap.freeKey s.fences 65536 0 → k < 65536 →
      ∃ t f, exec (.fenceCreate n) s = .next t ∧ SMap.find? t.commands n = none ∧ t = ({ s with fences := SMap.put s.fences k f } : State).finish n 0x00 k ∧ SMap.find? t.fences k = some f ∧ f.ctx = c.ctx ∧ f.value = BitVec.ofNat 64 (c.pay 0 64) ∧
        f.shadow = BitVec.ofNat 64 (c.pay 64 64) ∧ f.condemned = false)

/-- Frees, releases, signals and images (R312, R319, R323 to R325, R329, R330): a free command waits for its object's release; a
condemned object without references is released and its free command completed, a memory object's pages zeroed under one of the module's own transfer
tags (R194; the model's reading, notes/assumptions/68.md); a signal that is accepted moves
its fence and is shadowed, one that is not leaves it, and one whose command a
detachment has muted writes nothing to the host; an image is kept as read. -/
def Obligations.ReleasesAndSignals : Prop :=
  ∀ (s : State) (n : Nat) (c : Cmd),
    let works := (.next (s.onCmd n fun x => { x with state := .working }) : Answer)
    (Running s n 0x07 c → exec (.mobjFree n) s = works) ∧ (Running s n 0x09 c → exec (.fenceDestroy n) s = works) ∧
    (Running s n 0x0B c → exec (.imageFree n) s = works) ∧ (Running s n 0x0D c → exec (.collFree n) s = works) ∧
    (Running s n 0x12 c → exec (.signal n) s = .next (s.finish n 0x00 0)) ∧ (Running s n 0x13 c → exec (.queueNop n) s = .next (s.finish n 0x00 0)) ∧
    (∀ k m, SMap.find? s.mobjs k = some m → m.condemned = true → m.refs = 0 → (s.freeModuleTag = none → exec (.objectRelease 0 k) s = .next s) ∧ (s.freeModuleTag.isSome = true → ∃ t, exec (.objectRelease 0 k) s = .next t ∧ SMap.find? t.mobjs k = none ∧
      (m.gddr = false → ∀ p ∈ m.pages, ∀ a < 65536, t.reservoir.read (65536 * p + a) = 0) ∧ (∀ j, m.free = some j → SMap.find? t.commands j = none))) ∧
    (∀ k m, SMap.find? s.fences k = some m → m.condemned = true → m.refs = 0 → ∃ t, exec (.objectRelease 1 k) s = .next t ∧ SMap.find? t.fences k = none) ∧
    (∀ k m, SMap.find? s.images k = some m → m.condemned = true → m.refs = 0 → SMap.find? s.jobs k = none → ∃ t, exec (.objectRelease 2 k) s = .next t ∧ SMap.find? t.images k = none) ∧
    (∀ k m, SMap.find? s.colls k = some m → m.condemned = true → m.refs = 0 → ∃ t, exec (.objectRelease 3 k) s = .next t ∧ SMap.find? t.colls k = none) ∧
    (∀ k v quiet rest f, s.signals = (k, v, quiet) :: rest → SMap.find? s.fences k = some f → ∃ t, exec .fenceSignal s = .next t ∧ t.signals = rest ∧
      (signalTakes f.value v = true → SMap.find? t.fences k = some { f with value := v }) ∧ (signalTakes f.value v = false → t.fences = s.fences ∧ t.hostOut = s.hostOut) ∧
      ((quiet = true ∨ f.shadow = 0 ∧ f.vecEn = false) → t.hostOut = s.hostOut) ∧
      (∀ x p, quiet = false → signalTakes f.value v = true → f.shadow ≠ 0 → SMap.find? s.contexts f.ctx = some x → (s.atelier x.atelier).attached = some p →
        HostOut.write x.port x.tag f.shadow.toNat (leBytes 8 v.toNat) ∈ t.hostOut)) ∧
    (Running s n 0x0A c → exec (.imageLoad n none) s = .next (s.finish n 0x0E 0)) ∧
    (Running s n 0x0A c → ∀ bs, let b := padTo (c.pay 64 32) bs
      (s.imageGood c.atelier b = false → exec (.imageLoad n (some bs)) s = .next ((s.readFor c (c.pay 0 64) (c.pay 64 32)).refuse n 0x0A 0)) ∧
      (∀ x e, s.imageGood c.atelier b = true → (s.lease c.atelier).commission = some x → x.progs.contains (imageDigest b) = true → s.entry c.atelier = some e →
        (s.images.filter fun y => (SMap.find? s.contexts y.2.ctx).any fun z => decide (z.atelier = c.atelier)).length < e.imgq → SMap.freeKey s.images 4096 0 < 4096 →
        ∃ t y, exec (.imageLoad n (some bs)) s = .next t ∧ SMap.find? t.images (SMap.freeKey s.images 4096 0) = some y ∧ y.bytes = b ∧ y.ctx = c.ctx ∧ SMap.find? t.commands n = none))

/-- Jobs (R331, R332, R334, R373, R386, R415): a job the commission does not allow is refused with 0x0C, one that fails a check with
0x0B and the check's number; otherwise the job stands under its image's number. JOB_RUN sets its steps going, and of a mixed-generation job it is noted that
one has run; a snapshot whose cores no other job holds is written to its object, its conversions counted on its cores, and names the
committed step. The model's choices: the layer entries and the AZF-2 members are operands of JOB_CREATE (notes/assumptions/35.md, 93.md), a
snapshot's conversions count on the cores that take the layer's chunks (notes/assumptions/72.md), and a destination retired meanwhile
gives 0x0E (notes/assumptions/38.md). -/
def Obligations.JobCommands : Prop :=
  ∀ (s : State) (n : Nat) (c : Cmd),
    (Running s n 0x0E c → ∀ members objs esc azf2,
      let quads := ((imageCores (s.imageOf (c.pay 0 12))).map quadrantOf).foldl NatSet.add []
      let j := s.draftJob c (members.getD []) (objs.getD []) esc azf2 (!(classesOver (s.canvasOf c.atelier) quads).isEmpty)
      let bad := s.jobCheck j c.refs (c.pay 0 12) members objs esc quads
      let u := if members.isSome then s.readFor c (c.pay 64 64) (2 * c.pay 340 11) else s
      (s.commissioned j = false → exec (.jobCreate n members objs ⟨esc, azf2⟩) s = .next (u.refuse n 0x0C 0)) ∧
      (s.commissioned j = true → bad ≠ 0 → exec (.jobCreate n members objs ⟨esc, azf2⟩) s = .next (u.refuse n 0x0B bad)) ∧
      (s.commissioned j = true → bad = 0 → ∃ t x, exec (.jobCreate n members objs ⟨esc, azf2⟩) s = .next t ∧ SMap.find? t.commands n = none ∧
        SMap.find? t.jobs (c.pay 0 12) = some x ∧ x.desc = j.desc ∧ x.members = j.members ∧ x.layers = j.layers ∧ x.serving = j.serving ∧ x.committed = none ∧ x.run = none ∧
        (∀ k m, k ∈ j.objs → SMap.find? t.mobjs k = some m → m.listed = true))) ∧
    (Dispatched s n 0x0F c → ∀ j, SMap.find? s.jobs (c.pay 0 12) = some j → j.command = none → ∃ t, exec (.jobRun n) s = .next t ∧
      SMap.find? t.jobs (c.pay 0 12) = some { j with running := true, command := some n, asked := c.pay 32 32, done := 0 } ∧
      (j.forerunner = false → t = { s with jobs := t.jobs }) ∧
      (j.forerunner = true → t = { s with jobs := t.jobs, leases := t.leases } ∧ t.lease j.atelier = { s.lease j.atelier with noresidue := true } ∧ ∀ b, b ≠ j.atelier → t.lease b = s.lease b)) ∧
    (Dispatched s n 0x14 c → ∀ j m f v k, SMap.find? s.jobs (c.pay 0 12) = some j → SMap.find? s.mobjs (c.pay 20 20) = some m → fmtVar (c.pay 12 4) (c.pay 16 2) = some (f, v) → s.mayCapture c = true →
      j.committed = some k →
      (m.size < (s.snapshotBytes j f v).length → exec (.snapshot n) s = .next (s.refuse n 0x09 0)) ∧
      ((s.snapshotBytes j f v).length ≤ m.size → m.refuses s = false → j.owners.all (s.committedReadable j false) = true →
        let u := ((s.countSnapshot (c.pay 0 12) j f v).store c.ctx m.va (s.snapshotBytes j f v)).settle
        (m.refuses u = false → exec (.snapshot n) s = .next ((u.finish n 0x00 k).offer (c.pay 0 12) (c.pay 20 20) k)) ∧
        (m.refuses u = true → exec (.snapshot n) s = .next (u.finish n 0x0E 0))))

/-! ### The Darval links -/

/-- Bring-up, hello, retraining and loss (R259, R265, R274 to R278): a port with an expected peer and a buffer block trains; an
attempt that succeeds sends the module's hello, the fourth that fails leaves its entry and the port waits its second; a hello
from another peer holds the port down, one from the expected peer brings it up with the granted credits and the lower index
opens the session; too many errors retrain the port, everything kept, and what waits for a rail destination follows it to its port; a port that does not
come back is lost: a rail port only moves its destinations while another is up or retrains, else its peers are lost, and every running collective with a member
beyond it is aborted with 0x0404, its atelier faulted (R298). The model's choices:
that last condition and what the loss of the last rail port leaves (notes/assumptions/89.md), that what waits follows its destination when
a port retrains (notes/assumptions/30.md), and the grants of version 2 (notes/assumptions/87.md). -/
def Obligations.LinkBringUp : Prop :=
  ∀ (s : State) (port : Nat), port < 20 →
    let x := s.port port
    let put := fun (y : DarvalPort) => (.next (s.setPort port y) : Answer)
    let follow := fun (y : DarvalPort) => (.next ((s.setPort port y).follow port) : Answer)
    (s.power.rails = true → s.power.lref = true → (s.peerEntry port).isSome = true → (x.state = .absent ∨ x.state = .lost) →
      (s.blocksTaken port < 8 → exec (.portBringUp port) s = put { x with state := .training, stage := 2, preset := 0, since := s.time, version := 0 }) ∧
      (8 ≤ s.blocksTaken port → exec (.portBringUp port) s = .next ((s.setPort port { x with state := .heldDown }).note 0x0204 [port]))) ∧
    (x.state = .training → x.stage = 2 → ∃ t, exec (.peerDetectTimeout port) s = .next t ∧ t.port port = { x with stage := 0, since := t.time } ∧
      (x.since + 500000).toNat ≤ t.time.toNat ∧ s.time.toNat ≤ t.time.toNat ∧ t = { s with ports := t.ports, time := t.time }) ∧
    (x.state = .training → x.stage = 0 → ∃ t, exec (.bringUpRetry port) s = .next t ∧ t.port port = { x with stage := 2, preset := 0, since := t.time } ∧
      (x.since + 100000000).toNat ≤ t.time.toNat ∧ s.time.toNat ≤ t.time.toNat ∧ t = { s with ports := t.ports, time := t.time }) ∧
    (x.state = .training → (x.stage = 2 ∨ x.stage = 3) →
      (x.unacked.length < 512 → ∃ t cw, exec (.equalisationAttempt port true) s = .next t ∧ (t.port port).state = .training ∧ (t.port port).stage = 5 ∧ (t.port port).sent = x.sent ++ [cw] ∧
        (t.port port).unacked = x.unacked ++ [cw] ∧ cw.cseq = x.sendSeq ∧ cw.flits.length = 10 ∧ cw.flits.head? = some (s.ownHello port) ∧ t = { s with ports := t.ports }) ∧
      (x.preset < 3 → exec (.equalisationAttempt port false) s = put { x with stage := 3, preset := x.preset + 1, since := s.time }) ∧
      (3 ≤ x.preset → exec (.equalisationAttempt port false) s = .next ((s.setPort port { x with stage := 0, since := s.time }).note 0x0202 [port]))) ∧
    (∀ e h rest, s.peerEntry port = some e → x.control = h :: rest → bitsIn h 0 4 = 1 → x.state = .training → x.stage = 5 →
      let top := min 3 (bitsIn h 24 8)
      let low := max (if e.v2 && !isRailPort port then 2 else 3) (bitsIn h 16 8)
      (helloGood port e h = false → ∃ t en, exec (.helloFlit port) s = .next t ∧ t.port port = { x with control := rest, state := .heldDown } ∧
        t.blotter.entries.getLast? = some en ∧ en.code = 0x0201 ∧ t = { s with ports := t.ports, blotter := t.blotter }) ∧
      (helloGood port e h = true → top < low → exec (.helloFlit port) s = put { x with control := rest, state := .heldDown }) ∧
      (helloGood port e h = true → low ≤ top → s.blocksTaken port + (if top = 2 then 2 else 1) ≤ 8 → ∃ t, exec (.helloFlit port) s = .next t ∧
        (t.port port).state = .up ∧ (t.port port).version = top ∧ ((isRailPort port = false ∨ ∀ g, (s.session g).stored = []) → (t.port port).credits = grants top) ∧ (t.port port).owed = [] ∧ (t.port port).control = rest ∧
        (isRailPort port = false → (t.session e.peer).ident = slice h 32 32 ∧
          (s.gidx < e.peer → (s.session e.peer).up = false → (s.session e.peer).awaits = 0 → (t.session e.peer).awaits = 2 ∧ t.drawn = s.drawn + 3)))) ∧
    (x.state = .up → (16 < x.failures.length ∨ 64 < x.replays.length) → x.unacked.length < 512 → ∃ t cw, exec (.retrain port) s = .next t ∧ (t.port port).state = .retraining ∧
      (t.port port).since = s.time ∧ (t.port port).retrains = x.retrains + 1 ∧ (t.port port).failures = [] ∧ (t.port port).replays = [] ∧ (t.port port).sent = x.sent ++ [cw] ∧
      cw.flits.head? = some retrainFlit ∧ (isRailPort port = false → (t.port port).queues = x.queues) ∧ (t.port port).credits = x.credits ∧ (t.port port).packets = x.packets ∧
      (isRailPort port = false → t.sessions = s.sessions) ∧ t = { s with ports := t.ports, sessions := t.sessions }) ∧
    (∀ h rest, x.state = .up → x.control = h :: rest → bitsIn h 0 4 = 2 →
      exec (.retrainRequest port) s = follow { x with control := rest, state := .retraining, since := s.time, retrains := x.retrains + 1, failures := [], replays := [] }) ∧
    (x.state = .retraining → s.power.lref = true → s.time.toNat < x.since.toNat + 5000000 → exec (.portUpAgain port) s = follow { x with state := .up }) ∧
    (isRailPort port = false → ∀ y, follow y = put y) ∧
    (x.state = .retraining → s.collectives = [] → Calm s → ∃ t, exec (.portLost port) s = .next t ∧ (t.port port).state = .lost ∧ (t.port port).unacked = [] ∧
      (t.port port).packets = x.packets ∧ (x.since + 5000000).toNat ≤ t.time.toNat ∧ (∀ c ∈ x.unacked, ∀ g ∈ c.tags, SMap.find? t.tags g = none) ∧
      let others := ∃ q, 15 ≤ q ∧ q < 19 ∧ q ≠ port ∧ ((s.port q).state = .up ∨ (s.port q).state = .retraining)
      let said := ∃ en, t.blotter.entries.getLast? = some en ∧ en.code = 0x0205 ∧ en.handles = [port]
      (isRailPort port = true → others → t.blotter = s.blotter ∧
        ∀ v < 4, ∀ w ∈ SMap.get [] (t.port port).queues v, w.dst < 1024 → t.onRail w.dst = true → (t.port (t.railPort (w.dst / 16))).state ≠ .up) ∧
      (isRailPort port = true → ¬others → said ∧ ∀ q < 20, ∀ v < 4, ∀ w ∈ SMap.get [] (t.port q).queues v, t.onRail w.dst = false) ∧
      (∀ e, isRailPort port = false → s.peerEntry port = some e → said ∧ t.session e.peer = Session.closed ∧
        ∀ q < 20, ∀ v < 4, ∀ w ∈ SMap.get [] (t.port q).queues v, w.dst ≠ e.peer)) ∧
    (x.state = .retraining → Calm s → ∀ y ∈ s.collectives, ∀ j, y.launched.isSome = true → y.complete = false → y.aborted = none → SMap.find? s.jobs y.job = some j →
      MayFault s j.atelier → (s.atelier j.atelier).resetting = none → s.scatters = [] →
      (if isRailPort port = true then (∀ q, 15 ≤ q → q < 19 → q ≠ port → (s.port q).state ≠ .up ∧ (s.port q).state ≠ .retraining) ∧ ∃ g ∈ j.members, g ≠ s.gidx ∧ s.onRail g = true
        else ∃ e, s.peerEntry port = some e ∧ e.peer ∈ j.members ∧ e.peer ≠ s.gidx) →
      ∃ t, exec (.portLost port) s = .next t ∧ (t.atelier j.atelier).faulted = true ∧ (t.atelier j.atelier).fcode = 0x0404)

/-- Codewords, credits and the gallery transport (R263, R265, R266, R271, R273, R278, R279, R283 to R285, R298): a codeword out of order or with
more errors than the code corrects takes nothing in and is answered with a nak; a port that has heard no hello yet sends its own again; control flits in order are kept for their rows; an ack frees the codewords up to it
with their tags and returns credits, and a nak sends the others again; a packet sent is of a channel that its port carries, takes its credits and its session's next
ctr, and a rail packet, session packets of a rekey among them, is kept under the next seq until it is acknowledged end to end; without
progress it is sent again, and after eight times its destination is lost, and every running collective with that member is aborted with 0x0405, its atelier
faulted (R284, R298). The model's choices: the hello that a codeword brings out again
(notes/assumptions/88.md), the tag of a packet of lease 0 (notes/assumptions/91.md), end-to-end acks kept under a seq
(notes/assumptions/90.md), session packets that open a session outside it (notes/assumptions/31.md), and the pace of version 2
(notes/assumptions/87.md). -/
def Obligations.LinkTraffic : Prop :=
  ∀ (s : State) (port : Nat), port < 20 →
    let x := s.port port
    (∀ errors cseq map flits, x.state = .up → x.unacked.length < 512 → (15 < errors ∨ cseq % 1024 ≠ (x.lastSeq + 1) % 1024) → ∃ t cw,
      exec (.codewordReceive port errors cseq map flits) s = .next t ∧ (t.port port).lastSeq = x.lastSeq ∧ (t.port port).packets = x.packets ∧
      (t.port port).control = x.control ∧ (t.port port).arriving = x.arriving ∧ (t.port port).sent = x.sent ++ [cw] ∧ cw.flits.head? = some (ackFlit { x with nak := true }) ∧
      (errors ≤ 15 → (t.port port).failures = x.failures) ∧ (15 < errors → (t.port port).failures = recent 16 s.time x.failures) ∧ t = { s with ports := t.ports }) ∧
    (∀ errors cseq map flits, x.state = .training → x.stage = 5 → x.unacked.length < 512 → (∀ f ∈ x.control, bitsIn f 0 4 ≠ 1) → 15 < errors → ∃ t cw rest,
      exec (.codewordReceive port errors cseq map flits) s = .next t ∧ (t.port port).sent = x.sent ++ cw :: rest ∧ cw.flits.head? = some (s.ownHello port) ∧
      t = { s with ports := t.ports }) ∧
    (∀ errors cseq flits, errors ≤ 15 → x.state = .up → cseq % 1024 = (x.lastSeq + 1) % 1024 → x.sinceAck + 1 < 16 → flits.length = 10 → (∀ f ∈ flits, f.length = 64 ∧ bitsIn f 0 4 ≤ 2) →
      exec (.codewordReceive port errors cseq 1023 flits) s =
        .next (s.setPort port { x with lastSeq := cseq % 1024, sinceAck := x.sinceAck + 1, control := x.control ++ flits })) ∧
    (∀ f rest, x.control = f :: rest → bitsIn f 0 4 = 0 → Calm s → ∃ t, exec (.ackAndCredit port) s = .next t ∧ (t.port port).control = rest ∧
      (t.port port).unacked = x.unacked.filter (fun c => decide (512 ≤ (bitsIn f 4 10 + 1024 - c.cseq) % 1024)) ∧
      (∀ v < 4, SMap.get 0 (t.port port).credits v = SMap.get 0 x.credits v + bitsIn f (16 + 16 * v) 16) ∧
      (bitsIn f 14 1 = 1 → (t.port port).sent = x.sent ++ (t.port port).unacked) ∧ (bitsIn f 14 1 ≠ 1 → (t.port port).sent = x.sent) ∧
      (∀ c ∈ x.unacked, (bitsIn f 4 10 + 1024 - c.cseq) % 1024 < 512 → ∀ g ∈ c.tags, SMap.find? t.tags g = none) ∧ t = { s with ports := t.ports, tags := t.tags }) ∧
    (∀ y w, s.choose port = (y, some w) → s.carries port w.packet.vc = true ∧ s.paceOpen port = true) ∧
    (∀ y w, s.choose port = (y, some w) → x.state = .up →
      let z := (s.session w.dst).promoted
      let sent := fun (t : State) => SMap.get 0 (t.port port).credits w.packet.vc = SMap.get 0 x.credits w.packet.vc - (w.packet.nflits + 1) ∧
        SMap.get [] (t.port port).queues w.packet.vc = (SMap.get [] x.queues w.packet.vc).erase w ∧
        (w.tag.isSome = true → t.tags = s.tags) ∧ (w.tag = none → ∀ g, s.linkTag w.lease = some g → (SMap.find? t.tags g).isSome = true)
      let kept := fun (t : State) => (t.session w.dst).seqSent = (s.session w.dst).seqSent + 1 ∧
        ∃ q, (t.session w.dst).stored = (s.session w.dst).stored ++ [q] ∧ q.seq = (s.session w.dst).seqSent + 1 ∧ (w.tag.isSome = true → q.tag = w.tag) ∧ (w.tag = none → q.tag = s.linkTag w.lease)
      (w.packet.ptype = 6 → (isRailPort port = false ∨ (s.session w.dst).up = false) → ∃ t, exec (.packetSend port) s = .next t ∧ sent t ∧ t = { s with ports := t.ports, tags := t.tags }) ∧
      (w.packet.ptype = 6 → isRailPort port = true → (s.session w.dst).up = true → (s.session w.dst).lost = false → w.packet.info 0 4 ≠ 3 →
        ∃ t, exec (.packetSend port) s = .next t ∧ sent t ∧ t = { s with ports := t.ports, sessions := t.sessions, tags := t.tags } ∧ kept t ∧ (t.session w.dst).ctrSent = (s.session w.dst).ctrSent) ∧
      (w.packet.ptype ≠ 6 → w.lease = 0 → z.keys.isSome = true → ∃ t, exec (.packetSend port) s = .next t ∧ sent t ∧
        t = { s with ports := t.ports, sessions := t.sessions, tags := t.tags } ∧ (t.session w.dst).ctrSent = z.ctrSent + 1 ∧
        (isRailPort port = false → (t.session w.dst).stored = (s.session w.dst).stored) ∧
        (isRailPort port = true → kept t ∧ ∃ q, (t.session w.dst).stored.getLast? = some q ∧ q.seg = w.seg))) ∧
    (∀ p, x.packets.find? (fun p => decide (p.ptype = 5)) = some p → Calm s → ∃ t, exec (.endToEndAck port) s = .next t ∧
      (t.session p.src).stored = (s.session p.src).stored.filter (fun m => decide (2 ^ 31 ≤ (BitVec.ofNat 32 p.ack - m.seq).toNat)) ∧
      (∀ m ∈ (s.session p.src).stored, (BitVec.ofNat 32 p.ack - m.seq).toNat < 2 ^ 31 → ∀ g, m.tag = some g → SMap.find? t.tags g = none) ∧
      (p.ce = true → (s.session p.src).cutAt = none → (t.session p.src).window = max 2 ((s.session p.src).window / 2)) ∧
      (t.port port).packets = x.packets.erase p) ∧
    (∀ peer < 1024, s.onRail peer = true → (s.session peer).up = true →
      ((s.session peer).stored ≠ [] → (s.session peer).resends < 8 → (s.port (s.railPort (peer / 16))).state = .up → ∃ t, exec (.galleryRetransmission peer) s = .next t ∧
        (let r := s.railPort (peer / 16)
         t.port r = DarvalPort.resend peer (s.session peer).stored (s.port r)) ∧
        t.session peer = { s.session peer with resends := (s.session peer).resends + 1, progressAt := t.time, leftOn := s.railPort (peer / 16) } ∧ ((s.session peer).progressAt + 1600).toNat ≤ t.time.toNat ∧
        t = { s with ports := t.ports, sessions := t.sessions, time := t.time }) ∧
      (0 < (s.session peer).unackedSince → ∃ t, exec (.endToEndAckTimer peer) s = .next t ∧ t.session peer = { s.session peer with unackedSince := 0 } ∧
        (let r := s.railPort (peer / 16)
         SMap.get [] (t.port r).queues 0 = SMap.get [] (s.port r).queues 0 ++ [⟨⟨packetHeader 0 5 0 s.gidx peer 0 0 0 [], []⟩, peer, 0, s.linkTag 0, none⟩]) ∧
        (∀ g, s.linkTag 0 = some g → (SMap.find? t.tags g).isSome = true) ∧ t = { s with ports := t.ports, sessions := t.sessions, tags := t.tags }) ∧
      ((s.session peer).stored ≠ [] → 8 ≤ (s.session peer).resends → s.collectives = [] → Calm s → ∃ t, exec (.railDestinationLost peer) s = .next t ∧
        t.session peer = { s.session peer with stored := [], lost := true, resends := 0 } ∧
        (∃ en, t.blotter.entries.getLast? = some en ∧ en.code = 0x0205 ∧ en.handles = [s.railPort (peer / 16)]) ∧
        (∀ m ∈ (s.session peer).stored, ∀ g, m.tag = some g → SMap.find? t.tags g = none) ∧
        ∀ q < 20, ∀ v < 4, ∀ w ∈ SMap.get [] (t.port q).queues v, w.dst ≠ peer) ∧
      ((s.session peer).stored ≠ [] → 8 ≤ (s.session peer).resends → Calm s → ∀ y ∈ s.collectives, ∀ j, y.launched.isSome = true → y.complete = false → y.aborted = none →
        SMap.find? s.jobs y.job = some j → MayFault s j.atelier → (s.atelier j.atelier).resetting = none → s.scatters = [] → peer ∈ j.members → peer ≠ s.gidx →
          ∃ t, exec (.railDestinationLost peer) s = .next t ∧ (t.atelier j.atelier).faulted = true ∧ (t.atelier j.atelier).fcode = 0x0405))

/-- Sessions (R281, R282, R421, R422): the higher index answers a message 1 whose certificate is good, the lower index a message 2
that is good besides, and opens the session with the keys of the exchange; the higher index opens it at a good message 3; a
session that is open takes the new keys for later. A message that fails its checks ends the handshake, with its entry, and the
lower index may open it again after its second; a rekey is a new handshake of the lower index. The model's choices: a session whose rail
destination was lost opens anew (notes/assumptions/30.md), and what verifies and what agrees, a signature with its own Z and the key exchange, is
SM2 as the model takes it (notes/assumptions/9.md). -/
def Obligations.Sessions : Prop :=
  ∀ (s : State),
    let fails := fun (i : Instr) (g : Nat) => ∃ t e, exec i s = .next t ∧ t.session g = { s.session g with awaits := 0, failedAt := some s.time } ∧
      (∀ h, h ≠ g → t.session h = s.session h) ∧ t.blotter.entries.getLast? = some e ∧ e.code = 0x0203 ∧ e.handles = [g]
    let opens := fun (i : Instr) (g : Nat) (k : SessionKeys) => ∃ t, exec i s = .next t ∧ (t.session g).up = true ∧ (t.session g).awaits = 0 ∧
      (((s.session g).up = false ∨ (s.session g).lost = true) → (t.session g).keys = some k ∧ (t.session g).coming = none ∧ (t.session g).old = none ∧ (t.session g).ctrSent = 0 ∧ (t.session g).ctrHeard = 0) ∧
      ((s.session g).up = true → (s.session g).lost = false → (t.session g).keys = (s.session g).keys ∧ (t.session g).coming = some k ∧ (t.session g).ctrSent = (s.session g).ctrSent)
    (∀ port p, port < 20 → (s.port port).packets.find? (fun p => decide (p.ptype = 6) && decide (p.info 0 4 = 1)) = some p →
      ((s.gidx < p.src ∨ s.certGood p.src p.payload = false) → fails (.sessionKind1 port) p.src) ∧
      (p.src ≤ s.gidx → s.certGood p.src p.payload = true → ∃ t, exec (.sessionKind1 port) s = .next t ∧
        (t.session p.src).awaits = 3 ∧ (t.session p.src).up = (s.session p.src).up ∧ (t.session p.src).keys = (s.session p.src).keys ∧
        (t.session p.src).p1 = slice p.payload 0 (helloLength p.payload) ∧ (t.session p.src).ephemeral = Config.entropy s.drawn ∧ t.drawn = s.drawn + 4 ∧
        ∀ r, s.route p.src = some r → ∃ w, (SMap.get [] (t.port r).queues 0).getLast? = some w ∧ w.dst = p.src ∧
          w.packet.payload = padTo (roundUp (t.session p.src).p2.length 64) (t.session p.src).p2)) ∧
    (∀ port p, port < 20 → (s.port port).packets.find? (fun p => decide (p.ptype = 6) && decide (p.info 0 4 = 2)) = some p →
      let y := s.session p.src
      let n := helloLength p.payload
      let p2 := slice p.payload 0 (n + 64)
      let signed := sm2Verify (peerStatic p2) (ofBytes512 (slice p.payload n 64)) (sm3 (y.p1 ++ slice p.payload 0 n))
      ((y.awaits ≠ 2 ∨ s.certGood p.src p.payload = false ∨ signed = false) → fails (.sessionKind2 port) p.src) ∧
      (y.awaits = 2 → s.certGood p.src p.payload = true → signed = true →
        (s.agree p.src y.ephemeral y.p1 p2 = none → fails (.sessionKind2 port) p.src) ∧
        (∀ k, s.agree p.src y.ephemeral y.p1 p2 = some k → opens (.sessionKind2 port) p.src k))) ∧
    (∀ port p, port < 20 → (s.port port).packets.find? (fun p => decide (p.ptype = 6) && decide (p.info 0 4 = 3)) = some p →
      let y := s.session p.src
      let signed := sm2Verify (peerStatic y.p1) (ofBytes512 (slice p.payload 0 64)) (sm3 (y.p1 ++ y.p2))
      ((y.awaits ≠ 3 ∨ signed = false) → fails (.sessionKind3 port) p.src) ∧
      (y.awaits = 3 → signed = true →
        (s.agree p.src y.ephemeral y.p1 y.p2 = none → fails (.sessionKind3 port) p.src) ∧
        (∀ k, s.agree p.src y.ephemeral y.p1 y.p2 = some k → opens (.sessionKind3 port) p.src k))) ∧
    (∀ peer < 1024, ∀ f, (s.session peer).failedAt = some f → ∃ t, exec (.sessionRetry peer) s = .next t ∧ (f + 100000000).toNat ≤ t.time.toNat ∧
      (t.session peer).failedAt = none ∧ (s.gidx < peer → (t.session peer).awaits = 2 ∧ (t.session peer).ephemeral = Config.entropy s.drawn ∧ t.drawn = s.drawn + 3) ∧
      (peer ≤ s.gidx → t.session peer = { s.session peer with failedAt := none } ∧ t = { s with sessions := t.sessions, time := t.time })) ∧
    (∀ peer < 1024, (s.session peer).up = true → (s.session peer).coming = none → (s.session peer).awaits = 0 → s.gidx < peer → ∃ t,
      exec (.sessionRekey peer) s = .next t ∧ (t.session peer).awaits = 2 ∧ (t.session peer).up = true ∧ (t.session peer).keys = (s.session peer).keys ∧
      (t.session peer).ephemeral = Config.entropy s.drawn ∧ t.drawn = s.drawn + 3)

/-! ### DMA and bulk writes -/

/-- DMA (R193 to R196, R268, R269, R301, R333, R336, R366, R388, R431): a command becomes segments that cover its bytes in order, none above 4 KiB and
none across a 4 KiB boundary of its source or of its destination; a segment is issued with a tag of its
atelier under the lease's serial, or waits for one; it completes with its tag freed, and its command with its last segment; one of parcels keeps its tag until its parcel is
whole, opened and written, or has failed to open (R195, R418); a
bulk write is answered with its result and writes its object only where that is 0x00; a response reaches its segment, and the last one of a query's reply ends the query's command. While PWR_CURB_N is asserted an
engine's every second start is withheld. Where the spec leaves a choice the clauses state the model's: result 0x05 for a peer to which
no port leads (notes/assumptions/31.md); the command given up with 0x0E where the host refuses a
read, and 0x01 for a condemned object (37); which starts are withheld (73). -/
def Obligations.DmaTransfers : Prop :=
  (∀ (s : State) (n : Nat) (c : Cmd), let d := s.dmaOf n c
    (d.todo.map (·.len)).sum = c.pay 192 32 ∧ (∀ g ∈ d.todo, 1 ≤ g.len ∧ g.src % 4096 + g.len ≤ 4096 ∧ g.dst % 4096 + g.len ≤ 4096) ∧
    (∀ k g h, d.todo[k]? = some g → d.todo[k + 1]? = some h → h.src = g.src + g.len ∧ h.dst = g.dst + g.len)) ∧
  ∀ s : State,
    (∀ n c, Running s n 0x11 c →
      (s.realTime c.queue = true → exec (.dmaCommand n) s = .next (s.onCmd n fun x => { x with state := .working })) ∧
      (s.realTime c.queue = false → ∃ t, exec (.dmaCommand n) s = .next t ∧ SMap.find? t.dmas n = some (s.dmaOf n c) ∧
        SMap.find? t.commands n = some { c with state := .working } ∧ t = { s with commands := t.commands, dmas := t.dmas, dmaTurn := t.dmaTurn })) ∧
    (∀ die d e g rest host, die < 4 → s.mstate = 2 → s.nextDma die = some d → s.freeEngine die = some e → SMap.find? s.dmas d.cmd = some d → d.todo = g :: rest →
      (s.power.curb = true → s.flacon.waits.has e = true → exec (.dmaSegmentIssue die host) s = .next { s with flacon := { s.flacon with waits := s.flacon.waits.drop e } }) ∧
      ((s.power.curb && s.flacon.waits.has e) = false → (s.freeTag d.atelier = none ∨ ∃ w ∈ s.tagWaits, ∃ y, SMap.find? s.dmas w.cmd = some y ∧ y.atelier = d.atelier) →
        ∃ t, exec (.dmaSegmentIssue die host) s = .next t ∧ t.tagWaits = s.tagWaits ++ [g] ∧ SMap.find? t.dmas d.cmd = some { d with todo := rest } ∧
          (s.power.curb = false → t.flacon = s.flacon) ∧ t = { s with dmas := t.dmas, dmaLast := t.dmaLast, tagWaits := t.tagWaits, flacon := t.flacon }) ∧
      (∀ tg, (s.power.curb && s.flacon.waits.has e) = false → s.freeTag d.atelier = some tg → (∀ w ∈ s.tagWaits, ∀ y, SMap.find? s.dmas w.cmd = some y → y.atelier ≠ d.atelier) →
        let told := fun (x : DmaRun) => if (d.toPeer.any fun p => (s.route p).isNone) = true then { x with peer := SMap.put d.peer g.index 0x05 } else x
        ∃ t, exec (.dmaSegmentIssue die host) s = .next t ∧ SMap.find? t.tags tg = some ⟨some d.atelier, (s.lease d.atelier).serial, e⟩ ∧
          (d.fromHost = true → d.reply = none → ∀ bs, host = some bs →
            SMap.find? t.dmas d.cmd = some (told { d with todo := rest, out := d.out ++ [{ g with tag := some tg, data := padTo g.len bs }] })) ∧
          (d.fromHost = true → host = none → ∃ y, SMap.find? t.dmas d.cmd = some y ∧ y.error = true ∧ y.todo = [] ∧ (d.status = 0 → y.status = 0x0E)) ∧
          (d.fromHost = false → d.reply = none → (s.fetch d.ctx g.src g.len).bad = [] → SMap.find? t.dmas d.cmd =
            some (told { d with todo := rest, out := d.out ++ [{ g with tag := some tg, data := (s.fetch d.ctx g.src g.len).bytes, bad := [] }] })) ∧
          ((d.fromHost = false ∨ host.isSome = true) → ∀ p r, d.toPeer = some p → s.route p = some r → ∃ w, (SMap.get [] (t.port r).queues 2).getLast? = some w ∧ w.dst = p ∧
            w.seg = some (d.cmd, g.index) ∧ w.lease = s.lnum d.atelier))) ∧
    (∀ a g d tg e bs, s.firstWait a = some (g, d) → s.freeTag a = some tg → s.freeEngine d.die = some e → SMap.find? s.dmas d.cmd = some d →
      (s.power.curb = true → s.flacon.waits.has e = true → exec (.transferTagGrant a (some bs)) s = .next { s with flacon := { s.flacon with waits := s.flacon.waits.drop e } }) ∧
      ((s.power.curb && s.flacon.waits.has e) = false → d.fromHost = true → d.toPeer = none →
        ∃ t, exec (.transferTagGrant a (some bs)) s = .next t ∧ t.tagWaits = s.tagWaits.erase g ∧ SMap.find? t.tags tg = some ⟨some d.atelier, (s.lease d.atelier).serial, e⟩ ∧
          SMap.find? t.dmas d.cmd = some { d with out := d.out ++ [{ g with tag := some tg, data := padTo g.len bs }] } ∧ (s.power.curb = false → t.flacon = s.flacon) ∧
          t = { s with dmas := t.dmas, tags := t.tags, tagWaits := t.tagWaits, flacon := t.flacon, translations := t.translations }) ∧
      ((s.power.curb && s.flacon.waits.has e) = false → ∀ p r, d.toPeer = some p → s.route p = some r →
        ∃ t w, exec (.transferTagGrant a (some bs)) s = .next t ∧ t.tagWaits = s.tagWaits.erase g ∧ (SMap.get [] (t.port r).queues 2).getLast? = some w ∧ w.dst = p ∧
          w.seg = some (d.cmd, g.index))) ∧
    (∀ tag tg d g, SMap.find? s.tags tag = some tg → s.dmas.findSome? (fun (p : Nat × DmaRun) => (p.2.out.find? fun g => decide (g.tag = some tag)).map (p.2, ·)) = some (d, g) →
      SMap.find? s.dmas d.cmd = some d → (d.toPeer = none ∨ (SMap.find? d.peer g.index).isSome = true) →
      let b := d.buffer ++ g.data
      let u := (s.onDma d.cmd fun d => { d with out := d.out.erase g }).keepSegment d g
      let parcel := s.tagLive tg = true ∧ d.toPeer = none ∧ d.parcels = true ∧ g.bad = []
      ∃ t, exec (.dmaSegmentComplete tag) s = .next t ∧ (¬parcel → SMap.find? t.tags tag = none) ∧
        (parcel → tg.atelier = some d.atelier → d.status = 0 → d.arrived = [] → g.index = d.next → d.todo ≠ [] → d.kept = [] → d.opened < g.src + g.len →
          (b.length < 32 ∨ (parcelHeaderGood b 0 = true ∧ b.length < 48 + parcelLength b)) →
          SMap.find? t.tags tag = some tg ∧ SMap.find? t.dmas d.cmd = some { d with out := d.out.erase g, next := d.next + 1, buffer := b, kept := [g] }) ∧
        (parcel → ∀ e, SMap.find? u.dmas d.cmd = some e → g ∈ e.kept → (e.status ≠ 0 ∨ ∀ h ∈ e.kept, h.src + h.len ≤ e.opened) → SMap.find? t.tags tag = none ∧
          (e.todo = [] → e.out = [] → (∀ w ∈ u.tagWaits, w.cmd ≠ d.cmd) → (u.dmas.map Prod.fst).Nodup → (∀ c, SMap.find? u.commands d.cmd = some c → c.atelier = d.atelier) →
            SMap.find? t.dmas d.cmd = none ∧ SMap.find? t.commands d.cmd = none)) ∧
        (s.tagLive tg = false → (s.atelier d.atelier).draining = none → t.gddr = s.gddr ∧ t.reservoir = s.reservoir) ∧
        (¬parcel → d.kept = [] → d.todo = [] → d.out = [g] → (∀ w ∈ s.tagWaits, w.cmd ≠ d.cmd) → (s.dmas.map Prod.fst).Nodup → (∀ c, SMap.find? s.commands d.cmd = some c → c.atelier = d.atelier) → SMap.find? t.dmas d.cmd = none ∧ SMap.find? t.commands d.cmd = none)) ∧
    (∀ n d, SMap.find? s.dmas n = some d → d.status = 0 → 32 ≤ d.buffer.length → 48 + parcelLength d.buffer ≤ d.buffer.length →
      let b := slice d.buffer 0 (48 + parcelLength d.buffer)
      (s.openParcel d.atelier 0 b = none → s.openNext n = some ((s.log 0x0163 (some d.atelier) none (some d.ctx) [parcelPatron d.buffer, parcelSeq d.buffer]).giveUp n 0x0C)) ∧
      (∀ text, s.openParcel d.atelier 0 b = some text → d.dst + text.length ≤ d.bound → s.openNext n = some (((s.acceptSeq d.atelier d.buffer).dmaStore n d.ctx d.dst text).onDma n
        fun y => { y with buffer := d.buffer.drop b.length, dst := y.dst + text.length, opened := y.opened + b.length }))) ∧
    (∀ port p, port < 20 → (s.port port).packets.find? (fun p => decide (p.ptype = 0)) = some p →
      let u := s.takePacket port p
      let k := p.info 0 20
      let r := u.bulkResult p
      (SMap.find? s.mobjs k = none → r = 0x01) ∧
      (∀ m, SMap.find? s.mobjs k = some m → (m.condemned = true ∨ m.peerWr = false) → r = 0x01) ∧
      (∀ m, SMap.find? s.mobjs k = some m → m.condemned = false → m.peerWr = true → s.atelierOfLnum p.lease = none → r = 0x02) ∧
      (∀ m a, SMap.find? s.mobjs k = some m → m.condemned = false → m.peerWr = true → s.atelierOfLnum p.lease = some a → (SMap.find? s.contexts m.ctx).map (·.atelier) = some a →
        m.size < p.info 64 48 + p.payload.length → r = 0x03) ∧
      ∃ t, exec (.bulkWrite port) s = .next t ∧
        (r ≠ 0x00 → t.gddr = s.gddr ∧ t.reservoir = s.reservoir ∧ t.poison = s.poison) ∧
        (r = 0x00 → ∀ m, SMap.find? s.mobjs k = some m → let x := u.store m.ctx (m.va + p.info 64 48) p.payload
          t.gddr = x.state.gddr ∧ t.reservoir = x.state.reservoir ∧ t.poison = x.state.poison) ∧
        ∀ q, s.route p.src = some q → ∃ w, (SMap.get [] (t.port q).queues 0).getLast? = some w ∧ w.dst = p.src ∧
          w.packet = ⟨packetHeader 0 8 0 s.gidx p.src 0 0 0 [(0, 32, p.info 112 32), (32, 16, p.lease), (48, 48, p.info 64 48), (96, 8, r)], []⟩) ∧
    (∀ port p n i d, port < 20 → (s.port port).packets.find? (fun p => decide (p.ptype = 8)) = some p → s.answered p = some (n, i) → SMap.find? s.dmas n = some d →
      (d.reply = none → ∃ t, exec (.bulkResponse port) s = .next t ∧ SMap.find? t.dmas n = some { d with peer := SMap.put d.peer i (p.info 96 8) } ∧
        (t.port port).packets = (s.port port).packets.erase p ∧ t = { s with ports := t.ports, dmas := t.dmas }) ∧
      (d.reply.isSome = true → (∀ g ∈ d.out, g.index = i ∨ (SMap.find? d.peer g.index).isSome = true) →
        ∃ t, exec (.bulkResponse port) s = .next t ∧ SMap.find? t.dmas n = none ∧ SMap.find? t.commands n = none))

/-! ### Training -/

/-- The training step up to its seal's record (R60, R61, R198, R210 to R217, R222, R229): a launch begins the next step under the job's k and
mode and writes its step block; at the end of its programs each layer's counts are gathered once; a layer whose chunks have all
passed is updated optimistically on the job's own cores, where an uncorrectable error halts the routine and faults the atelier; the
record is built and kept at the module's own rank. Counts gathered once a step are the model's choice (notes/assumptions/34.md), and so is
the update of a layer as one command that waits until the job holds its cores (49). -/
def Obligations.TrainingSteps : Prop :=
  ∀ (s : State) (n : Nat) (j : Job),
    (SMap.find? s.jobs n = some j → s.mstate = 2 → j.running = true → j.resident = true → j.switching = false → j.stopping = none → j.run = none → j.lowrank = [] →
      let step := j.nextStep
      let va := j.tb 240 48 + 64 * (step % 2)
      let x := s.store j.ctx va (record 64 [(0, 64, step), (64, 8, unsignedOf 8 (j.kAt step)), (72, 8, 0)])
      s.retiredIn j.ctx va 64 = none → x.settle.retiredIn j.ctx va 64 = none → x.gddrBad = [] →
      ∃ t, exec (.stepLaunch n) s = .next t ∧ ((s.atelier j.atelier).faulted = false → t.gddr = x.settle.gddr ∧ t.reservoir = x.settle.reservoir) ∧
        JobNow t n fun k => k.launched = some step ∧ ∃ r, k.run = some r ∧ r.step = step ∧ r.restart = 0 ∧ r.attempt = 0 ∧ r.k = j.kAt step ∧ r.late = j.lateNext ∧ r.launched = true ∧ r.applied = [] ∧ r.outcome = none ∧ k.committed = j.committed) ∧
    (∀ r, Steps s n j r → r.launched = true → r.passes = 0 → s.programsEnded n r = true → ∃ t, exec (.layerCountGather n) s = .next t ∧
      (JobNow t n fun k => ∃ q, k.run = some q ∧ q.passes = 1 ∧ q.step = r.step ∧ q.applied = r.applied ∧
        ((∀ m ∈ s.jobCores n, (s.core m).step ≠ some r.step) → q.counts = r.counts)) ∧
      (∀ m, t.core m = if m ∈ s.jobCores n ∧ (s.core m).step = some r.step then { s.core m with counters := [], copyCounts := [] } else s.core m) ∧
      t = { s with jobs := t.jobs, cores := t.cores }) ∧
    (∀ r d layer, Steps s n j r → j.layerDesc layer = some d → r.updates d = true → j.holdsCores = true → ((s.optimistic n j d r).atelier j.atelier).faulted = false →
      ∃ t, exec (.updateRoutineLaunch n ⟨layer, none⟩) s = .next t ∧ JobNow t n fun k => k.committed = j.committed ∧ ∃ q, k.run = some q ∧
        q.applied = r.applied ++ [⟨layer, true⟩] ∧ q.step = r.step ∧ q.outcome = r.outcome) ∧
    (∀ r d layer k, Steps s n j r → j.layerDesc layer = some d → r.updates d = true → j.holdsCores = true → (layerCores (s.imageOf n) layer).contains k = true → MayFault s j.atelier →
      ∃ t, exec (.updateRoutineLaunch n ⟨layer, some k⟩) s = .next t ∧ (t.atelier j.atelier).faulted = true ∧ (t.atelier j.atelier).fcode = 0x0410) ∧
    (∀ r d layer upset, Steps s n j r → j.layerDesc layer = some d → (r.updates d = false ∨ j.holdsCores = false) → exec (.updateRoutineLaunch n ⟨layer, upset⟩) s = .next s) ∧
    (∀ r, Steps s n j r → s.recordDue n j r = true → ∃ t, exec (.sealRecordBuild n) s = .next t ∧ (JobNow t n fun k => ∃ q, k.run = some q ∧ q.built = some s.time ∧
      SMap.find? q.records (s.rankOf j s.gidx) = some (r.record s.gidx (s.stepPrint n r.step)) ∧ q.applied = r.applied) ∧ t = { s with jobs := t.jobs, ports := t.ports, tags := t.tags }) ∧
    (∀ r, Steps s n j r → s.recordDue n j r = false → exec (.sealRecordBuild n) s = .next s)

/-- The seal (R220, R221, R251, R450): records that disagree in step, fingerprint or k fault the atelier; a failed check asks for a second
reduction once, unless the list overflowed, and skips the step after it; a non-finite value skips it; a norm above T clips;
otherwise the step commits. A committed or clipped step is counted, a skipped one is not; a second reduction is late and starts
from nothing applied; records not held in time fault the atelier, and so does an uncorrectable error that the routine's words meet. The
actions wait while a SNAPSHOT or CHECKPOINT_SAVE of the job is in progress (R231, R424) and, the model's reading, while the job does not hold its cores
(notes/assumptions/49.md). -/
def Obligations.Seals : Prop :=
  (∀ (rs : List Bytes) (members : Nat) (k : Int) (attempt : Nat) (t : XReal),
    let v := (decideSeal rs members k attempt t).outcome
    let agree := ∀ x ∈ rs, ∀ y ∈ rs, bitsIn x 0 64 = bitsIn y 0 64 ∧ bitsIn x 128 64 = bitsIn y 128 64 ∧ bitsIn x 208 8 = bitsIn y 208 8
    let beyond := ∃ x ∈ rs, bitsIn x 217 1 = 1
    let failed := ∃ x ∈ rs, bitsIn x 224 32 ≠ 0
    let odd := ∃ x ∈ rs, bitsIn x 216 1 = 1
    let g := f64 (mul64 (sqrt64 (rs.foldl (fun a x => add64 a (bitsIn x 64 64)) 0)) (scale64 members k))
    (¬agree → v = .fault) ∧ (agree → beyond → v = .skipResidue) ∧ (agree → ¬beyond → failed → attempt = 0 → v = .rereduce) ∧
    (agree → ¬beyond → failed → attempt ≠ 0 → v = .skipResidue) ∧ (agree → ¬beyond → ¬failed → odd → v = .skipNonfinite) ∧
    (agree → ¬beyond → ¬failed → ¬odd → g.nonfinite = true → v = .skipNonfinite) ∧
    (agree → ¬beyond → ¬failed → ¬odd → g.nonfinite = false → (t.lt g = true → v = .clip) ∧ (t.lt g = false → v = .commit))) ∧
  ∀ (s : State) (n : Nat) (j : Job) (r : StepRun), Steps s n j r →
    let faulted := fun (i : Instr) (code : Nat) => ∃ t, exec i s = .next t ∧ (t.atelier j.atelier).faulted = true ∧ (t.atelier j.atelier).fcode = BitVec.ofNat 16 code
    let v := decideSeal (s.sealRecords j r) j.nmem r.k r.attempt j.clip
    (r.built.isSome = true → r.outcome = none → s.sealHeld j r = true → v.outcome ≠ .fault → ∃ t, exec (.sealDecision n) s = .next t ∧
      (JobNow t n fun k => k.committed = j.committed ∧ ∃ q, k.run = some q ∧ q.outcome = some v.outcome ∧ q.factor = v.factor ∧ q.gnorm = v.gnorm ∧ q.step = r.step) ∧
      t = { s with jobs := t.jobs, ports := t.ports, tags := t.tags }) ∧
    (r.built.isSome = true → r.outcome = none → s.sealHeld j r = true → v.outcome = .fault → MayFault s j.atelier → faulted (.sealDecision n) 0x0430) ∧
    (r.built.isSome = true → r.outcome = none → s.sealHeld j r = false → MayFault s j.atelier → faulted (.sealTimeout n) 0x0402) ∧
    (j.holdsCores = true → s.capturing n = false → s.aheadStopped n j r = true → ∀ o, r.outcome = some o → ((s.act n j r o).atelier j.atelier).faulted = false →
      ∃ t, exec (.sealActions ⟨n, none⟩) s = .next t ∧
        ((o = .commit ∨ o = .clip) → JobNow t n fun k => k.committed = some r.step ∧ k.sealed = some r.step ∧ k.t = j.t + 1 ∧ k.done = j.done + 1) ∧
        (o = .skipNonfinite → JobNow t n fun k => k.committed = j.committed ∧ k.sealed = some r.step ∧ k.t = j.t ∧ k.k = max (r.k - 1) (-32) ∧ k.clean = 0 ∧ k.done = j.done + 1) ∧
        (o = .skipResidue → JobNow t n fun k => k.committed = j.committed ∧ k.sealed = some r.step ∧ k.t = j.t ∧ k.k = j.kAt (r.step + 1) ∧ k.clean = j.clean ∧ k.done = j.done + 1) ∧
        (o = .rereduce → JobNow t n fun k => k.committed = j.committed ∧ ∃ q, k.run = some q ∧ q.step = r.step ∧ q.attempt = 1 ∧ q.late = true ∧ q.applied = [] ∧ q.outcome = none ∧
          q.rfail = 0 ∧ q.fails = [])) ∧
    (∀ o k, j.holdsCores = true → s.capturing n = false → s.aheadStopped n j r = true → r.outcome = some o → o.runsRoutine j r = true →
      (weightCores (s.imageOf n)).contains k = true → MayFault s j.atelier → faulted (.sealActions ⟨n, some k⟩) 0x0410) ∧
    (∀ upset, (s.capturing n = true ∨ j.holdsCores = false) → exec (.sealActions ⟨n, upset⟩) s = .next s)

/-! ### Reduction and collectives -/

/-- The reduction engines (R241 to R244, R247, R248, R250): a chunk that was accepted before, or belongs to no running step or an earlier
attempt, is dropped; a contribution goes on to its palette owner, or is held there for the first tier; a partial sum is held for
the second; a failed receive check is counted; a result is written to the reduced-gradient array, or where its factor goes, and goes on to the other
palette owners and the owner's palette (R239, R242, R243, R247, R249, R253). The chunks of a forerunner sum are FP32 values, without receive checks; a host member's own
meets its partner's and their sum is its contribution (R280). An adder takes its inputs once and hands their sum on, to the owner's second tier or, from the last tier,
as the result. That an input of the second attempt waits until that attempt has begun here
(`early`) is the model's reading of R251 (notes/assumptions/33.md). -/
def Obligations.Reductions : Prop :=
  ∀ (s : State) (die : Nat), die < 4 →
    let x := s.reduction die
    let hopped := fun (t : State) (h : HandOver) (j : Job) (c : Coll) (hop g : Nat) => ∀ p, s.route g = some p → s.carries p 1 = true → s.isPartner j g = false →
      ∃ w ∈ SMap.get [] (t.port p).queues 1, w.dst = g ∧ w.lease = s.lnum j.atelier ∧ w.packet = ⟨packetHeader 1 1 (roundUp h.bytes.length 64 / 64) s.gidx g (s.lnum j.atelier) 0 0
        [(0, 32, c.seq), (32, 4, c.op), (36, 1, h.attempt), (37, 2, hop), (64, 64, c.fprint h.step), (128, 64, h.step), (192, 33, h.chunk), (225, 4, 1)], padTo (roundUp h.bytes.length 64) h.bytes⟩
    let lands := fun (t : State) (h : HandOver) (j : Job) (c : Coll) (also : Prop) =>
      let place := if c.op = 1 then s.factorAt ((s.collRun h.job h.coll h.step).getD (CollRun.fresh h.job h.coll h.step c)) c j.ctx h.chunk else j.reducedAt h.chunk
      let bs := resultBytes c (j.within c h.chunk) h.bytes
      let y := s.store j.ctx place bs
      let path := j.pathNumber c h.chunk
      (s.atelier j.atelier).faulted = false → s.retiredIn j.ctx place bs.length = none → y.gddrBad = [] → y.state.retiredIn j.ctx place bs.length = none →
        also ∧ t.gddr = y.state.gddr ∧ t.reservoir = y.state.reservoir ∧ t.poison = y.state.poison ∧
        (h.attempt = 0 → ∃ z, t.collRun h.job h.coll h.step = some z ∧ z.placed.has h.chunk = true) ∧
        (c.op ≠ 1 → j.run.isSome = true → SMap.find? s.jobs h.job = some j → JobNow t h.job fun k => ∃ q, k.run = some q ∧ q.passed.has h.chunk = ((Chunk.ofBytes bs).passes && !(Chunk.ofBytes bs).suspect)) ∧
        (¬(c.op = 2 ∧ h.attempt = 0) →
          (s.ownerOf j path = s.gidx → ∀ b < s.nPal j, s.paletteOwner j b path ≠ s.gidx → hopped t h j c 2 (s.paletteOwner j b path)) ∧
          (s.paletteOwner j (s.ownPalette j) path = s.gidx → ∀ i < s.mPos j, s.memberAt j (s.ownPalette j * s.mPos j + i) ≠ s.gidx →
            hopped t h j c 3 (s.memberAt j (s.ownPalette j * s.mPos j + i))))
    (∀ h, x.arrivals.find? (fun h => !s.early h) = some h →
      ((SMap.find? s.jobs h.job = none ∨ SMap.find? s.colls h.coll = none ∨ h.key ∈ x.accepted ∨
          (∃ j, SMap.find? s.jobs h.job = some j ∧ ∀ r, j.run = some r → (r.step ≠ h.step ∨ h.attempt < r.attempt))) →
        ∃ t, exec (.chunkReceive die) s = .next t ∧ t.reduction die = { x with arrivals := x.arrivals.erase h } ∧ t = { s with reductions := t.reductions, blotter := t.blotter }) ∧
      (∀ j c r, SMap.find? s.jobs h.job = some j → SMap.find? s.colls h.coll = some c → j.run = some r → r.step = h.step → r.attempt ≤ h.attempt → h.key ∉ x.accepted → c.op ≠ 5 →
        let passes := (Chunk.ofBytes h.bytes).passes
        let owner := s.paletteOwner j (s.ownPalette j) (j.pathNumber c h.chunk)
        let taken := { x with arrivals := x.arrivals.erase h, accepted := x.accepted ++ [h.key] }
        let counted := fun (t : State) => JobNow t h.job fun k => ∃ q, k.run = some q ∧ q.rfail = r.rfail + bit (!passes && !r.counted.contains (h.coll, h.chunk))
        (h.hop = .contribution → owner = s.gidx → 2 ≤ s.mPos j → ∃ t, exec (.chunkReceive die) s = .next t ∧ counted t ∧
          t.reduction die = { taken with inputs := x.inputs ++ [⟨h, !passes⟩] } ∧ t = { s with reductions := t.reductions, jobs := t.jobs, blotter := t.blotter }) ∧
        (h.hop = .contribution → owner ≠ s.gidx → ∃ t, exec (.chunkReceive die) s = .next t ∧ counted t ∧ t.reduction die = taken ∧
          (∀ p, s.route owner = some p → s.carries p 1 = true → s.isPartner j owner = false → ∃ w, (SMap.get [] (t.port p).queues 1).getLast? = some w ∧ w.dst = owner ∧ w.lease = s.lnum j.atelier ∧
            w.packet.payload = padTo (roundUp h.bytes.length 64) h.bytes) ∧ t = { s with reductions := t.reductions, jobs := t.jobs, blotter := t.blotter, ports := t.ports, tags := t.tags }) ∧
        (h.hop = .partialSum → ∃ t, exec (.chunkReceive die) s = .next t ∧ counted t ∧ t.reduction die = { taken with inputs := x.inputs ++ [⟨h, !passes⟩] } ∧
          t = { s with reductions := t.reductions, jobs := t.jobs, blotter := t.blotter }) ∧
        (h.hop = .result → ∃ t, exec (.chunkReceive die) s = .next t ∧ lands t h j c (h.key ∈ (t.reduction die).accepted))) ∧
      (∀ j c r, SMap.find? s.jobs h.job = some j → SMap.find? s.colls h.coll = some c → j.run = some r → r.step = h.step → r.attempt ≤ h.attempt → h.key ∉ x.accepted → c.op = 5 →
        let owner := s.paletteOwner j (s.ownPalette j) (j.pathNumber c h.chunk)
        let taken := { x with arrivals := x.arrivals.erase h, accepted := x.accepted ++ [h.key] }
        let other := x.inputs.find? fun i => i.input.mate h && decide (2048 ≤ i.input.rank) && decide (i.input.rank ≠ h.rank)
        let held := fun (h : HandOver) (l : List Held) => ∃ t, exec (.chunkReceive die) s = .next t ∧ t.reduction die = { taken with inputs := l ++ [⟨h, false⟩] } ∧
          t = { s with reductions := t.reductions }
        (h.hop = .partialSum → held h x.inputs) ∧
        (h.hop = .result → ∃ t, exec (.chunkReceive die) s = .next t ∧ lands t h j c (h.key ∈ (t.reduction die).accepted)) ∧
        (h.hop = .contribution → h.rank < 2048 → owner = s.gidx → 2 ≤ s.mPos j → held h x.inputs) ∧
        (h.hop = .contribution → 2048 ≤ h.rank → other = none → held h x.inputs) ∧
        (h.hop = .contribution → 2048 ≤ h.rank → ∀ o, other = some o →
          let own := if h.rank = ownRank then h else o.input
          let both := { own with rank := s.rankOf j s.gidx, bytes := fr32Bytes (List.zipWith add32 (fr32 own.bytes) (fr32 (if h.rank = ownRank then o.input else h).bytes)) }
          (owner = s.gidx → 2 ≤ s.mPos j → held both (x.inputs.filter fun i => decide (i ≠ o))) ∧
          (owner ≠ s.gidx → ∃ t, exec (.chunkReceive die) s = .next t ∧ hopped t both j c 0 owner ∧ t.reduction die = { taken with inputs := x.inputs.filter fun i => decide (i ≠ o) })))) ∧
    (∀ i, x.inputs.find? (fun i => decide (i.input.rank < 2048) && decide ((x.group i).length = s.inputsDue i)) = some i →
      ∀ j c, SMap.find? s.jobs i.input.job = some j → SMap.find? s.colls i.input.coll = some c →
      let out := addChunks ((x.group i).map fun k => Chunk.ofBytes k.input.bytes) ((x.group i).any (·.failed))
      let total := if c.op = 5 then fr32Bytes (fr32Sum ((x.group i).map fun k => fr32 k.input.bytes)) else out.chunk.bytes
      let h : HandOver := { i.input with bytes := total, place := 0x100 + die }
      let partSum : HandOver := { h with hop := .partialSum, rank := s.rankOf j s.gidx }
      let owner := s.ownerOf j (j.pathNumber c i.input.chunk)
      ∃ t, exec (.adder die) s = .next t ∧ (∀ k ∈ (t.reduction die).inputs, k ∈ x.inputs ∧ k ∉ x.group i) ∧
        (i.input.hop = .contribution → 1 < s.nPal j → owner = s.gidx → (t.reduction die).arrivals = x.arrivals ++ [partSum]) ∧
        (i.input.hop = .contribution → 1 < s.nPal j → owner ≠ s.gidx → hopped t partSum j c 1 owner) ∧
        ((i.input.hop ≠ .contribution ∨ s.nPal j ≤ 1) → lands t { h with hop := .result } j c True)) ∧
    ((∀ h ∈ x.arrivals, s.early h = true) → exec (.chunkReceive die) s = .next s)

/-- Collectives (R250, R287 to R296, R321, R450): a descriptor is created under the lowest free number with its contributors, or refused by
the first rule it breaks; packets that arrive before their collective's launch are held, those of a step that is over or of no
collective are dropped, chunk by chunk with an entry, those of another fingerprint fault the atelier, an abort packet going to every other member (R291); a chunk goes to
the engines of its port die, pairs are kept, gathered bytes are written at their rank's place, a seal's records and count vectors enter the running
step, and a palette's bundle of them goes to the rail peers once it is whole (R219, R294, R295); a launch waits for every core's report, sends what its operation
sends, and one of a sparse exchange whose block fails its checks faults the atelier; a completion tells each contributing core; a timeout and an abort fault the
atelier. A sparse exchange sets its rows when its completion is commanded, for the spec does not say how a member knows the last pair (notes/assumptions/31.md). The statuses of a creation are drawn when it is carried out as they are at
the fetch (notes/assumptions/77.md); a timeout moves the timestamp counter on to its expiry (3); and the atelier and the
step named in an entry are those of log 54. -/
def Obligations.Collectives : Prop :=
  ∀ s : State,
    let faulted := fun (i : Instr) (a code : Nat) => ∃ t, exec i s = .next t ∧ (t.atelier a).faulted = true ∧ (t.atelier a).fcode = BitVec.ofNat 16 code
    (∀ n c, Running s n 0x0C c →
      let d := slice c.bytes 64 64
      let k := bitsIn d 64 14
      let es := (List.range k).map fun i => contributorOf (slice (s.fetch c.ctx (bitsIn d 80 48) (8 * k)).bytes (8 * i) 8)
      let slot := SMap.freeKey s.colls 16384 0
      (bitsIn d 240 8 ≠ c.ctx → exec (.collCreate n) s = .next (s.refuse n 0x05 0)) ∧
      (bitsIn d 240 8 = c.ctx → collGood d = false → exec (.collCreate n) s = .next (s.refuse n 0x07 0)) ∧
      (bitsIn d 240 8 = c.ctx → collGood d = true → bitsIn d 80 48 % 8 ≠ 0 → exec (.collCreate n) s = .next (s.refuse n 0x09 0)) ∧
      (∀ e, bitsIn d 240 8 = c.ctx → collGood d = true → bitsIn d 80 48 % 8 = 0 → slot < 16384 → s.entry c.atelier = some e →
        (s.colls.filter fun x => (SMap.find? s.contexts x.2.ctx).any fun y => decide (y.atelier = c.atelier)).length < e.collq →
        (s.objectAt c.ctx (bitsIn d 80 48) (8 * k)).isSome = true → (s.fetch c.ctx (bitsIn d 80 48) (8 * k)).bad = [] →
        (∀ x ∈ es, s.contributorGood c.atelier (bitsIn d 0 4) x = true) → ∃ t x, exec (.collCreate n) s = .next t ∧ SMap.find? t.colls slot = some x ∧ x.ctx = c.ctx ∧ x.desc = d ∧
          x.contributors = es ∧ x.condemned = false ∧ SMap.find? t.commands n = none)) ∧
    (∀ port i ptype p, port < 20 → ((i = Instr.chunksPacket port ∧ ptype = 1) ∨ (i = Instr.sparsePairs port ∧ ptype = 2) ∨ (i = Instr.gatherPacket port ∧ ptype = 3)) →
      (s.port port).packets.find? (fun p => decide (p.ptype = ptype)) = some p → p.info 0 32 < 0xFFFFFFF0 →
      let k : CollPacket := ⟨p.ptype, p.src, port, slice p.header 16 32, p.payload⟩
      let u := s.takePacket port p
      let dropped := fun (a sender : Nat) => ∃ t, exec i s = .next t ∧ (ptype ≠ 1 → t = u) ∧
        (ptype = 1 → k.field 225 4 = 1 → t = u.log 0x0103 (some a) (some (k.field 128 64)) none [k.field 192 33, sender, k.field 36 1]) ∧ t = { u with blotter := t.blotter }
      (∀ a, s.collOf p.lease p.src (k.field 0 32) = none → s.atelierOfLnum p.lease = some a → dropped a p.src) ∧
      (∀ n j d c, s.collOf p.lease p.src (k.field 0 32) = some (n, j, d, c) → s.overFor j (k.field 128 64) = true → dropped j.atelier (s.rankOf j p.src)) ∧
      (∀ n j d c x, s.collOf p.lease p.src (k.field 0 32) = some (n, j, d, c) → s.overFor j (k.field 128 64) = false → s.collRun n d (k.field 128 64) = some x →
        (x.launched = none → exec i s = .next (u.putRun { x with held := x.held ++ [k] })) ∧
        (x.launched.isSome = true → k.field 64 64 ≠ x.fprint → x.job = n → SMap.find? s.jobs n = some j → MayFault s j.atelier → faulted i j.atelier 0x0403 ∧
          (x.complete = false → ∀ g ∈ j.members, g ≠ s.gidx → ∀ q, s.route g = some q → s.carries q 1 = true → ∃ t, exec i s = .next t ∧ ∃ w ∈ SMap.get [] (t.port q).queues 1, w.dst = g ∧
            w.packet = ⟨packetHeader 1 4 0 s.gidx g (s.lnum j.atelier) 0 0 [(0, 32, x.seq), (32, 16, 0x0403), (64, 64, x.fprint), (128, 64, x.step)], []⟩)) ∧
        (x.launched.isSome = true → k.field 64 64 = x.fprint → ptype = 2 → SMap.find? s.jobs x.job = some j →
          exec i s = .next (u.putRun { x with pairs := x.pairs ++ pairsOf x.block (s.rankOf j p.src) (k.field 224 16) p.payload })) ∧
        (x.launched.isSome = true → k.field 64 64 = x.fprint → ptype = 3 → SMap.find? s.jobs x.job = some j →
          let r := k.field 192 32
          let m := k.field 224 8
          let key := 1024 * p.src + r
          let off := SMap.get 0 x.awaited key
          let len := min p.payload.length (c.count * m - off)
          let done := decide (c.count * m ≤ off + len)
          let place := c.gatherAt r + off
          let y := u.store j.ctx place (slice p.payload 0 len)
          let placed := if done then NatSet.addAll x.placed (upFrom r m) else x.placed
          u.retiredIn j.ctx place len = none → y.gddrBad = [] → y.state.retiredIn j.ctx place len = none →
          ¬(x.slot = 0 ∧ ∀ q ∈ upFrom (s.ownPalette j * s.mPos j) (s.mPos j), placed.has q = true) →
            ∃ t, exec i s = .next t ∧ t.gddr = y.state.gddr ∧ t.reservoir = y.state.reservoir ∧ t.poison = y.state.poison ∧
              t.collRun n d x.step = some { x with awaited := SMap.set 0 x.awaited key (if done then 0 else off + len), placed := placed }) ∧
        (x.launched.isSome = true → k.field 64 64 = x.fprint → ptype = 1 → k.field 225 4 = 1 → ∃ t h, exec i s = .next t ∧
          (let m := k.field 192 33 % 4
           (t.reduction m).arrivals = (s.reduction m).arrivals ++ [h] ∧ h.job = x.job ∧ h.step = x.step ∧ h.chunk = k.field 192 33 ∧ h.attempt = k.field 36 1 ∧ h.place = port ∧
            h.bytes = slice p.payload 0 (if c.op = 5 then 512 else 260)) ∧ t = { u with reductions := t.reductions }))) ∧
    (∀ port p n j r, port < 20 → (s.port port).packets.find? (fun p => decide (p.ptype = 3)) = some p → 0xFFFFFFF0 ≤ p.info 0 32 →
      ((s.atelierOfLnum p.lease).bind fun a => List.find? (fun (y : Nat × Job) => decide (y.2.atelier = a) && !y.2.serving && y.2.members.contains p.src) s.jobs) = some (n, j) →
      SMap.find? s.jobs n = some j → j.run = some r → (∀ y ∈ s.collectives, ¬(y.job = n ∧ y.desc = sealDesc)) →
      let k : CollPacket := ⟨p.ptype, p.src, port, slice p.header 16 32, p.payload⟩
      let u := s.takePacket port p
      let layers := j.escalations.map (·.layer)
      let took := fun (r : StepRun) => if k.field 0 32 = 0xFFFFFFF0 then { r with records := (recordsOf k).foldl (fun m x => SMap.put m x.1 x.2) r.records }
        else
          let bs := SMap.get [] r.pieces p.src ++ p.payload
          if 40 * layers.length ≤ bs.length then
            { r with pieces := SMap.del r.pieces p.src
                     vectors := SMap.put r.vectors (if s.rankOf j p.src / max 1 (s.mPos j) = s.ownPalette j then k.field 192 32 else 1024 + k.field 192 32 / max 1 (s.mPos j)) (countsOf layers bs) }
          else { r with pieces := SMap.put r.pieces p.src bs }
      let at_ := s.ownPalette j * s.mPos j
      let ranks := upFrom at_ (s.mPos j)
      let here := ranks.all fun q => (SMap.find? (took r).records q).isSome && (layers.isEmpty || (SMap.find? (took r).vectors q).isSome)
      r.step = k.field 128 64 → (k.field 0 32 = 0xFFFFFFF0 → recordAttempt (slice p.payload 0 192) ≤ r.attempt) →
        ((r.bundled = true ∨ here = false) → exec (.gatherPacket port) s = .next (u.onRun n took)) ∧
        (r.bundled = false → here = true → ∃ t, exec (.gatherPacket port) s = .next t ∧ JobNow t n (fun y => y.run = some { took r with bundled := true }) ∧
          let recs := ranks.flatMap fun q => SMap.get [] (took r).records q
          recs ≠ [] → recs.length < 4096 → ∀ g ∈ s.railPeers j, ∀ q, s.route g = some q → s.carries q 1 = true → ∃ w ∈ SMap.get [] (t.port q).queues 1, w.dst = g ∧
            w.packet = ⟨packetHeader 1 3 (roundUp recs.length 64 / 64) s.gidx g (s.lnum j.atelier) 0 0
              [(0, 32, 0xFFFFFFF0), (64, 64, 0), (128, 64, r.step), (192, 32, at_), (224, 8, s.mPos j)], padTo (roundUp recs.length 64) recs⟩) ∧
        (r.bundled = false → here = true → ∃ t, exec (.gatherPacket port) s = .next t ∧
          let sum := countBytes (sumCounts layers (ranks.map fun q => SMap.get [] (took r).vectors q))
          sum ≠ [] → sum.length < 4096 → ∀ g ∈ s.railPeers j, ∀ q, s.route g = some q → s.carries q 1 = true → ∃ w ∈ SMap.get [] (t.port q).queues 1, w.dst = g ∧
            w.packet = ⟨packetHeader 1 3 (roundUp sum.length 64 / 64) s.gidx g (s.lnum j.atelier) 0 0
              [(0, 32, 0xFFFFFFF1), (64, 64, 0), (128, 64, r.step), (192, 32, at_), (224, 8, s.mPos j)], padTo (roundUp sum.length 64) sum⟩)) ∧
    (∀ port p, port < 20 → (s.port port).packets.find? (fun p => decide (p.ptype = 4)) = some p →
      (s.atelierOfLnum p.lease = none → exec (.abortPacket port) s = .next (s.takePacket port p)) ∧
      (∀ a, s.atelierOfLnum p.lease = some a → MayFault s a → faulted (.abortPacket port) a 0x0406)) ∧
    (∀ n d j c x, SMap.find? s.jobs n = some j → SMap.find? s.colls d = some c → s.unlaunched n d = some x →
      ((∃ e ∈ c.contributors, x.reported.has e.core = false) → exec (.collectiveLaunch n d) s = .next s) ∧
      ((∀ e ∈ c.contributors, x.reported.has e.core = true) → c.op ≠ 1 → c.op ≠ 3 → c.op ≠ 4 → x.held = [] →
        exec (.collectiveLaunch n d) s = .next (s.putRun { x with launched := some s.time, slot := 0, held := [], block := [] })) ∧
      ((∀ e ∈ c.contributors, x.reported.has e.core = true) → c.op = 1 → x.held = [] →
        exec (.collectiveLaunch n d) s = .next (s.putRun { x with launched := some s.time, slot := bitsIn (s.fetch j.ctx c.aux 32).bytes 224 1, held := [], block := [] })) ∧
      ((∀ e ∈ c.contributors, x.reported.has e.core = true) → c.op = 3 → s.sparseGood j c = true → x.held = [] → (s.atelier j.atelier).faulted = false → SMap.find? s.jobs x.job = some j →
        let l := s.sparseBlock j c
        let size := 64 * contribLines l
        let per := min 16 (63 / contribLines l)
        let m := fun (i : Nat) => min per (pairCount l - per * i)
        let body := fun (i : Nat) => padTo 64 (s.fetch j.ctx (reqIndex l + 4 * per * i) (4 * m i)).bytes ++ (s.fetch j.ctx (reqAddr2 l + size * per * i) (size * m i)).bytes
        let packets := (pairCount l + per - 1) / per
        ∃ t y, exec (.collectiveLaunch n d) s = .next t ∧ t.collRun n d x.step = some y ∧ y.launched = some s.time ∧ y.block = l ∧
          y.pairs = x.pairs ++ (List.range packets).flatMap (fun i => pairsOf l (s.rankOf j s.gidx) (m i) (body i)) ∧
          ∀ g ∈ j.members, g ≠ s.gidx → ∀ q, s.route g = some q → s.carries q 1 = true → ∀ i < packets, ∃ w ∈ SMap.get [] (t.port q).queues 1, w.dst = g ∧
            w.packet = ⟨packetHeader 1 2 (roundUp (body i).length 64 / 64) s.gidx g (s.lnum j.atelier) 0 0
              [(0, 32, c.seq), (64, 64, x.fprint), (128, 64, x.step), (192, 32, per * i), (224, 16, m i)], padTo (roundUp (body i).length 64) (body i)⟩) ∧
      ((∀ e ∈ c.contributors, x.reported.has e.core = true) → c.op = 4 → x.held = [] → (s.atelier j.atelier).faulted = false → SMap.find? s.jobs x.job = some j →
        let r := s.rankOf j s.gidx
        let bs := (s.fetch j.ctx (c.gatherAt r) c.count).bytes
        ∃ t y, exec (.collectiveLaunch n d) s = .next t ∧ t.collRun n d x.step = some y ∧ y.launched = some s.time ∧ y.placed = x.placed.add r ∧
          ∀ g ∈ s.palettePeers j, ∀ q, s.route g = some q → s.carries q 1 = true → ∀ i, 4096 * i < bs.length → ∃ w ∈ SMap.get [] (t.port q).queues 1, w.dst = g ∧
            let piece := slice bs (4096 * i) (min 4096 (bs.length - 4096 * i))
            w.packet = ⟨packetHeader 1 3 (roundUp piece.length 64 / 64) s.gidx g (s.lnum j.atelier) 0 0
              [(0, 32, c.seq), (64, 64, x.fprint), (128, 64, x.step), (192, 32, r), (224, 8, 1)], padTo (roundUp piece.length 64) piece⟩) ∧
      ((∀ e ∈ c.contributors, x.reported.has e.core = true) → c.op = 3 → s.sparseGood j c = false → MayFault s j.atelier → faulted (.collectiveLaunch n d) j.atelier 0x0407)) ∧
    (∀ n d j c x b, SMap.find? s.jobs n = some j → SMap.find? s.colls d = some c → s.uncompleted n d = some x → x.launched = some b → MayFault s j.atelier →
      ∃ t, exec (.collectiveTimeout n d) s = .next t ∧ (t.atelier j.atelier).faulted = true ∧ (t.atelier j.atelier).fcode = 0x0401 ∧
        (b + BitVec.ofNat 64 (100000 * c.timeout)).toNat ≤ t.time.toNat ∧ s.time.toNat ≤ t.time.toNat) ∧
    (∀ n d j c x, SMap.find? s.jobs n = some j → SMap.find? s.colls d = some c → s.uncompleted n d = some x →
      (s.collDone x j c = false → exec (.collectiveCompletion n d) s = .next s) ∧
      (s.collDone x j c = true → c.op ≠ 3 → c.notify = false → exec (.collectiveCompletion n d) s = .next (s.putRun { x with complete := true })) ∧
      (c.op = 3 → exec (.collectiveCompletion n d) s = .next ((s.settleSparse x j).tellCores x c none)) ∧
      (s.collDone x j c = true → c.op ≠ 3 → c.notify = true → ∃ t, exec (.collectiveCompletion n d) s = .next t ∧
        t.mesh = s.mesh ++ c.contributors.map (fun e => ⟨10416, e.core, c.chan, (s.core e.core).epoch, record 64 [(0, 32, c.seq), (32, 1, 0), (48, 16, 0)]⟩) ∧
        t = { s with mesh := t.mesh, collectives := t.collectives }))

/-! ### Serving -/

/-- Serving (R332, R372, R375, R377, R379, R380, R383 to R386, R388): a parcel that opens becomes a query, which is held for the first
opening of its slot or class that has room, in an atelier that is not faulted; a leave is answered at its opening and makes no pass; an opening makes a pass of its queries, with the slot's deadline; at its end its queries are answered, those that reply to a peer
waiting for its answers, and the pass is gone; one that has not ended at its deadline is dropped and the job reloads; a period's boundary puts the pending
snapshot into service; JOB_STOP stops a job for good, once no pass of it stands (R375). Where the spec leaves a choice the clauses state the model's: a query whose opening
was missed is served at the next, an unreadable host parcel ends with 0x0E, and a late host query with status 0x00 and result 0
(notes/assumptions/46.md); the zero fields among the limits of a header (81); and a timer's row moves the timestamp counter on to its
expiry (3). -/
def Obligations.Serving : Prop :=
  ∀ s : State, s.mstate = 2 →
    (∀ port p, port < 20 → (s.port port).packets.find? (fun p => decide (p.ptype = 7)) = some p →
      let a := p.info 0 4
      let i := p.info 4 6
      let cls := (canvasSlot (s.canvasOf a) i).cls
      ((canvasSlots (s.canvasOf a) ≤ i ∨ s.servingJob a cls = none ∨ s.openParcel a 1 p.payload = none) → ∃ t, exec (.realTimeParcel port) s = .next t ∧ t.opened = s.opened ∧
        t = { s with ports := t.ports, blotter := t.blotter }) ∧
      (∀ x text, i < canvasSlots (s.canvasOf a) → s.servingJob a cls = some x → s.openParcel a 1 p.payload = some text → ∃ t, exec (.realTimeParcel port) s = .next t ∧
        t.opened = (if (s.atelier a).faulted then s.opened else s.opened ++ [queryOf a cls none (some i) p.payload text]) ∧ t = { s with ports := t.ports, leases := t.leases, opened := t.opened })) ∧
    (∀ n q rest parcel, SMap.find? s.commands n = none → s.opened = q :: rest →
      ((s.servingJob q.atelier q.cls = none ∨ (s.atelier q.atelier).faulted = true) → exec (.queryArrival n parcel) s = .next { s with opened := rest }) ∧
      (∀ x k i, (s.atelier q.atelier).faulted = false → s.servingJob q.atelier q.cls = some x → s.bindQuery q = some (k, i) →
        (s.serving.held.filter fun y => decide (y.atelier = q.atelier) && decide (y.period = k) && decide (y.at_ = i) && !y.deferred).length < (canvasSlot (s.canvasOf q.atelier) i).maxq →
        exec (.queryArrival n parcel) s = .next { s with opened := rest, serving := { s.serving with held := s.serving.held ++ [{ q with arrival := s.time, period := k, at_ := i }] } })) ∧
    (∀ n c, SMap.find? s.commands n = some c → s.awaitsParcel n c = true → exec (.queryArrival n none) s = .next (s.finish n 0x0E 0)) ∧
    (∀ a < 16, canvasSlots (s.canvasOf a) ≠ 0 → (s.jobs.map Prod.fst).Nodup → ∃ t k, exec (.periodBoundary a) s = .next t ∧ SMap.find? t.serving.periods a = some k ∧
      s.time.toNat ≤ t.time.toNat ∧ (∀ n j x, SMap.find? s.jobs n = some j → j.serving = true → j.atelier = a → j.pendingSnap = some x →
        JobNow t n fun y => y.inService = some x ∧ y.pendingSnap = none ∧ y.reload = true)) ∧
    (∀ a i, a < 16 → i < canvasSlots (s.canvasOf a) →
      let t0 := s.canvasOf a
      let k := duePeriod s.time.toNat (periodOf t0 s.time.toNat) (fun k => openingAt t0 k i) (SMap.find? s.serving.openings (64 * a + i))
      ∃ t, exec (.occurrenceOpening a i) s = .next t ∧ SMap.find? t.serving.openings (64 * a + i) = some k ∧ s.time.toNat ≤ t.time.toNat ∧
        (∀ n j q, s.servingJob a (canvasSlot t0 i).cls = some (n, j) → q.inLimits = true → q.op = 0 →
          s.serving.held.filter (fun y => decide (y.atelier = a) && decide (y.cls = (canvasSlot t0 i).cls) && (y.deferred || (decide (y.at_ = i) && decide (y.period ≤ k)))) = [q] →
          ∃ p ∈ t.serving.passes, p.job = n ∧ p.atelier = a ∧ p.period = k ∧ p.slot = i ∧ p.queries = [(q, none)] ∧ p.dropped = false ∧
            p.deadline = BitVec.ofNat 64 (deadlineAt t0 k i)) ∧
        (∀ x q, s.servingJob a (canvasSlot t0 i).cls = some x → q.inLimits = true → q.op = 3 →
          s.serving.held.filter (fun y => decide (y.atelier = a) && decide (y.cls = (canvasSlot t0 i).cls) && (y.deferred || (decide (y.at_ = i) && decide (y.period ≤ k)))) = [q] →
          ((∀ b, (t.atelier b).faulted = (s.atelier b).faulted) → t.serving.passes = s.serving.passes) ∧ ∀ n, q.cmd = some n → q.f 192 1 = 0 → SMap.find? t.commands n = none)) ∧
    (∀ a cls p j, s.passOf a cls = some p → SMap.find? s.jobs p.job = some j → (∀ x ∈ p.queries, x.2 = none) →
      (s.passEnded p = true → ∃ t, exec (.passEnd a cls) s = .next t ∧ t.serving.passes = s.serving.passes.erase p ∧
        ∀ x ∈ p.queries, ∀ n, x.1.cmd = some n → (SMap.find? t.commands n = none ∨ (x.1.f 192 1 = 1 ∧ (SMap.find? t.dmas n).isSome = true))) ∧
      (s.passEnded p = false → exec (.passEnd a cls) s = .next s ∧ ∃ t, exec (.slotDeadline a cls) s = .next t ∧ t.serving.dropped = s.serving.dropped ++ [(p.atelier, p.period)] ∧
        (∀ x ∈ t.serving.passes, x ≠ p) ∧ (∀ x ∈ p.queries, ∀ n, x.1.cmd = some n → SMap.find? t.commands n = none) ∧ (JobNow t p.job fun y => y.reload = true) ∧
        p.deadline.toNat ≤ t.time.toNat)) ∧
    (∀ n c, Running s n 0x10 c →
      (SMap.find? s.jobs c.jobSlot = none → exec (.jobStop n) s = .next (s.refuse n 0x03 0)) ∧
      (∀ j, SMap.find? s.jobs c.jobSlot = some j → j.stopping = none → j.serving = false →
        (j.command = none → ∃ t, exec (.jobStop n) s = .next t ∧ (JobNow t c.jobSlot fun k => k.ended = true ∧ k.resident = false) ∧ SMap.find? t.commands n = none) ∧
        (j.command.isSome = true → (j.run.any fun r => r.launched) = true → ∃ t x, exec (.jobStop n) s = .next t ∧ (JobNow t c.jobSlot fun k => k.stopping = some n) ∧
          SMap.find? t.commands n = some x ∧ x.state = .working)) ∧
      (∀ j, SMap.find? s.jobs c.jobSlot = some j → j.stopping = none → j.serving = true → ∃ t, exec (.jobStop n) s = .next t ∧
        (∀ q ∈ t.serving.held, ¬(q.atelier = j.atelier ∧ q.cls = bitsIn j.block 60 4)) ∧ (JobNow t c.jobSlot fun k => k.ended = true) ∧
        ((∀ p ∈ s.serving.passes, p.job ≠ c.jobSlot) → SMap.find? t.commands n = none) ∧
        ((∃ p ∈ s.serving.passes, p.job = c.jobSlot) → (∀ q ∈ s.serving.held, q.cmd ≠ some n) → (JobNow t c.jobSlot fun k => k.stopping = some n) ∧
          ∃ x, SMap.find? t.commands n = some x ∧ x.state = .working)))

/-! ### Energy and scheduling -/

/-- The flacon (R351 to R367, R478, R73): a window's boundary lies on a multiple of 800 ticks; no supply rises by more than 10 mV, and no two
adjacent panels end more than 150 mV apart; the budget follows from the cap in force; metering withholds the tokens of a panel
whose budget is spent; a panel that withholds tokens, or that PWR_CURB_N leaves no share of them, stops its cores, and one that neither holds back nor is
curbed stops none; the cold start ends once every panel that ran is warm; a class falls, a clamp is released after 1 ms; the curb pin is
taken as it comes. SB_POWER's readings change only where a millisecond has begun since they last did (R484). While no installation section is in
force a boundary reads the sensors and detectors and does nothing more. The model's own are: which boundaries those are
(notes/assumptions/108.md), a share below the whole kept over 250 ns (notes/assumptions/69.md), no metering before the first budget (44), a cold start that
ends only where some panel has run (45), the detectors' reports taken with the sensors (94), and the counter moved on to a timer's
expiry (3). -/
def Obligations.Flacon : Prop :=
  (∀ vs : List Nat, vs.length = 12 →
    (∀ p ∈ adjacentPairs, (narrow 12 vs).getD p.1 0 ≤ (narrow 12 vs).getD p.2 0 + 15 ∧ (narrow 12 vs).getD p.2 0 ≤ (narrow 12 vs).getD p.1 0 + 15) ∧
    (∀ p < 12, (narrow 12 vs).getD p 0 ≤ vs.getD p 0) ∧ ((∀ p ∈ adjacentPairs, vs.getD p.1 0 ≤ vs.getD p.2 0 + 15 ∧ vs.getD p.2 0 ≤ vs.getD p.1 0 + 15) → narrow 12 vs = vs)) ∧
  ∀ s : State,
    let powered := fun (m : ModuleSense) (t : State) =>
      if s.power.readAt.toNat / 100000 < t.time.toNat / 100000 then
        { s.power with readings := ⟨m.vin, m.iin, m.pin, m.tstage, s.hottestGddr, m.thub, m.tport⟩, readAt := t.time, watch := m.watch }
      else { s.power with watch := m.watch }
    (∀ senses m, s.power.rails = true → s.installation.isSome = true → s.time.toNat + 1600 < 2 ^ 64 → s.flacon.stamp.toNat + 1600 < 2 ^ 64 →
      ∃ t, exec (.windowBoundary senses m) s = .next t ∧ t.time.toNat % 800 = 0 ∧ s.time.toNat ≤ t.time.toNat ∧ s.flacon.stamp.toNat < t.time.toNat ∧ t.flacon.stamp = t.time ∧
        t.flacon.vin = m.vin ∧ t.flacon.other = m.other ∧ t.flacon.energy = 80 * t.flacon.inforce ∧ t.power = powered m t ∧
        (∀ p < 12, (t.panel p).vcode ≤ (s.panel p).vcode + 1) ∧
        (∀ p ∈ adjacentPairs, (t.panel p.1).vcode ≤ (t.panel p.2).vcode + 15 ∧ (t.panel p.2).vcode ≤ (t.panel p.1).vcode + 15)) ∧
    (∀ senses m, s.power.rails = true → s.installation = none → ∃ t, exec (.windowBoundary senses m) s = .next t ∧
      t = { s with time := t.time, power := powered m t } ∧
      (s.time.toNat + 1600 < 2 ^ 64 → s.flacon.stamp.toNat + 1600 < 2 ^ 64 → t.time.toNat % 800 = 0 ∧ s.time.toNat ≤ t.time.toNat)) ∧
    (∀ senses m, s.power.rails = false → exec (.windowBoundary senses m) s = .next s) ∧
    (∀ p drops draw, p < 12 → s.power.rails = true → let x := s.panel p
      (s.flacon.energy ≠ 0 → x.budget ≤ x.metered + drops + draw →
        exec (.energyMetering p drops draw) s = .next (s.setPanel p { x with metered := x.metered + drops, marks := s.beatsOn p, withheld := true })) ∧
      ((s.flacon.energy = 0 ∨ x.metered + drops + draw < x.budget) →
        exec (.energyMetering p drops draw) s = .next (s.setPanel p { x with metered := x.metered + drops, marks := s.beatsOn p }))) ∧
    (∀ n < 10368, (s.core n).run = .running → let x := s.panel (n / 864)
      (x.withheld = true → s.tokened n = false) ∧ (s.power.curb = true → x.curb = 0 → s.tokened n = false) ∧
      (x.withheld = false → x.slowed = false → s.power.curb = false → s.tokened n = true)) ∧
    (s.flacon.cold = true → (∃ p < 12, (s.panel p).ran = true) → (∀ p < 12, (s.panel p).ran = true → 25000 ≤ (s.panel p).loaded) →
      exec .coldStartEnd s = .next { s with flacon := { s.flacon with cold := false } }) ∧
    ((∃ p < 12, (s.panel p).ran = true ∧ (s.panel p).loaded < 25000) → exec .coldStartEnd s = .next s) ∧
    (∀ p c, p < 12 → (s.panel p).cls ≠ 0 → (s.panel p).blind = false → SMap.find? (s.panel p).coolSince ((s.panel p).cls - 1) = some c → c.toNat + 100000 < 2 ^ 64 →
      ∃ t, exec (.classFallback p) s = .next t ∧ (t.panel p).cls < (s.panel p).cls ∧ c.toNat + 100000 ≤ t.time.toNat ∧ (∀ q, q ≠ p → t.panel q = s.panel q) ∧
        t = { s with panels := t.panels, time := t.time }) ∧
    (∀ a b x c, a < 12 → b < 12 → s.flacon.clamps.find? (fun y => (decide (y.low = a) && decide (y.high = b)) || (decide (y.low = b) && decide (y.high = a))) = some x → x.calm = some c →
      ∃ t, exec (.clampRelease a b) s = .next t ∧ (∀ y, y ∈ t.flacon.clamps ↔ y ∈ s.flacon.clamps ∧ ¬((y.low = a ∧ y.high = b) ∨ (y.low = b ∧ y.high = a))) ∧
        (c + 100000).toNat ≤ t.time.toNat ∧ t = { s with flacon := t.flacon, time := t.time }) ∧
    ((s.mstate = 1 ∨ s.mstate = 2) → s.power.rails = true → s.power.curb = false → exec .pwrCurbNAssert s =
      .next { s with power := { s.power with curb := true }, flacon := { s.flacon with curbs := s.flacon.curbs + 1, curbAt := s.time } }) ∧
    (s.power.curb = true → ∃ t, exec .pwrCurbNRelease s = .next t ∧ t.power = { s.power with curb := false } ∧ t = { s with power := t.power, blotter := t.blotter })

/-- Scheduling (R338, R340, R342 to R348, R359, R360, R366): dispatch starts the first ready command that may start, and leaves each panel a curb
fraction of at most the whole (notes/assumptions/69.md says when fractions are prepared); one passed over in 64 windows is reserved for; a slice that ends with a contender switches its job out, or extends where no decant set is free, or marks a
non-preemptible command as overrun; a core to be stopped stops at its tile boundary, once all it issued has landed, and the stop that ends with
it is reported where it took more than 10 µs; a stopped job is saved core by core where a set is free for each core, and else keeps its
cores; a saved one comes back under raised epochs with the memories its sets hold. The model's readings are: which commands switch a job
out and how slices and sets are counted (notes/assumptions/43.md), the beats of a stop (63), the core that the entry of a long stop names
(95), the record that is kept beside a set's bytes and what an unreadable line of a set gives (28, 96), the windows emptied at the save
(62), the tag a decant waits for (68), and the counter moved on to the end of a slice (3). -/
def Obligations.Scheduling : Prop :=
  ∀ s : State, s.mstate = 2 →
    (s.readyList = [] → s.serving.passes = [] → ∃ t, exec .coreCommandDispatch s = .next t ∧ t = { s with panels := t.panels } ∧ ∀ p < 12,
      t.panel p = { s.panel p with curb := (t.panel p).curb } ∧ (t.panel p).curb ≤ 256) ∧
    (∀ n c rest u, s.serving.passes = [] → s.readyList = (n, c) :: rest → SMap.find? s.commands n = some c → s.tryStart n c = some u →
      ∃ t x, exec .coreCommandDispatch s = .next t ∧ SMap.find? t.commands n = some x ∧ x.state = .working ∧ x.reserved = false) ∧
    (∀ n c, SMap.find? s.commands n = some c → s.ready n c = true → c.reserved = false → 64 < c.passed →
      ∃ t, exec (.reservation n) s = .next t ∧ t.reservations = s.reservations ++ [n] ∧ SMap.find? t.commands n = some { c with reserved := true } ∧
        t = { s with commands := t.commands, reservations := t.reservations, panels := t.panels }) ∧
    (∀ n c, SMap.find? s.commands n = some c → c.passed ≤ 64 → exec (.reservation n) s = .next s) ∧
    (∀ n j, SMap.find? s.jobs n = some j → j.resident = true → j.serving = false → j.switching = false → s.decantSets j.atelier ≠ 0 → (s.reach j.slice).contended n = true →
      (s.pinned n j = false → s.decantRoom n j = true → ∃ t, exec (.sliceEnd n) s = .next t ∧ (JobNow t n fun k => k.switching = true) ∧ j.slice.toNat ≤ t.time.toNat) ∧
      (s.pinned n j = false → s.decantRoom n j = false → ∃ t, exec (.sliceEnd n) s = .next t ∧
        SMap.find? t.jobs n = some { j with slice := t.time + BitVec.ofNat 64 (s.sliceTicks j.atelier) } ∧ t = { s with jobs := t.jobs, time := t.time, blotter := t.blotter }) ∧
      (∀ k c, j.command = some k → SMap.find? s.commands k = some c → c.np = true → ∃ t, exec (.sliceEnd n) s = .next t ∧ SMap.find? t.commands k = some { c with overrun := true } ∧
        SMap.find? t.jobs n = some { j with beyond := some (j.beyond.getD j.slice) } ∧ t = { s with jobs := t.jobs, commands := t.commands, time := t.time }) ∧
      (∀ k c, j.command = none → s.startedRun n = some (k, c) → SMap.find? s.commands k = some c → c.np = true → ∃ t, exec (.sliceEnd n) s = .next t ∧
        SMap.find? t.commands k = some { c with overrun := true } ∧ SMap.find? t.jobs n = some { j with beyond := some (j.beyond.getD j.slice) }) ∧
      (∀ k c, SMap.find? s.commands k = some c → c.opcode = 0x14 → c.state = .working → c.np = true → s.mayCapture c = true → meets (s.coresOf c) (imageCores (s.imageOf n)) = true →
        ∃ t, exec (.sliceEnd n) s = .next t ∧ SMap.find? t.commands k = some { c with overrun := true } ∧ SMap.find? t.jobs n = some { j with beyond := some (j.beyond.getD j.slice) } ∧
          t = { s with jobs := t.jobs, commands := t.commands, time := t.time })) ∧
    (∀ k < 10368, s.serving.passes = [] →
      ((s.core k).run = .running → s.mustStop k = true → s.atBoundary k = true →
        ∃ i b t, drain (s.env k) (drainFuel (s.core k)) (s.core k).beat ⟨s.core k, []⟩ = (i, b) ∧ exec (.stopAtTileBoundary k) s = .next t ∧
          let u := s.settleCore k (if b = true then i else { i with core := { i.core.quiet with run := .stopped } })
          t = { u with jobs := t.jobs, blotter := t.blotter } ∧
          (∀ n j since, (u.core k).job = some n → SMap.find? u.jobs n = some j → j.stopSince = some since →
            (u.stillStopping n = true → t = u) ∧
            (u.stillStopping n = false → SMap.find? t.jobs n = some { j with stopSince := none } ∧ ((u.time - since).toNat ≤ 1000 → t.blotter = u.blotter) ∧
              (1000 < (u.time - since).toNat → t.blotter = (u.log 0x0104 (some j.atelier) j.stepNow (some j.ctx) [k, n]).blotter)))) ∧
      ((s.mustStop k = false ∨ s.atBoundary k = false) → (∀ n j, (s.core k).job = some n → SMap.find? s.jobs n = some j → j.stopSince = none) →
        exec (.stopAtTileBoundary k) s = .next s)) ∧
    (s.freeModuleTag = none → ∀ n m, exec (.decant n m) s = .next s) ∧
    (∀ n m j, SMap.find? s.jobs n = some j → j.resident = true → j.switching = true → s.jobStopped n = true → s.decantRoom n j = false → SMap.find? s.jobs m = none → s.freeModuleTag.isSome = true →
      ∃ t, exec (.decant n m) s = .next t ∧ (JobNow t n fun k => k.resident = true ∧ k.switching = false ∧ k.slice = s.time + BitVec.ofNat 64 (s.sliceTicks j.atelier)) ∧
        t.decants = s.decants ∧ t.gddr = s.gddr ∧ ∀ k ∈ imageCores (s.imageOf n), (s.core k).job = some n → (s.core k).run = .stopped → (t.core k).run = .running) ∧
    (∀ n m j, SMap.find? s.jobs n = some j → j.resident = true → j.switching = true → s.jobStopped n = true → s.decantRoom n j = true → SMap.find? s.jobs m = none → s.freeModuleTag.isSome = true →
      (imageCores (s.imageOf n)).Nodup →
      ∃ t, exec (.decant n m) s = .next t ∧ (JobNow t n fun k => k.resident = false ∧ k.switching = false ∧ k.decanted = true) ∧
        (∀ k ∈ imageCores (s.imageOf n), (s.core k).job = some n → k < 16384 → SMap.find? t.decants (16384 * n + k) = some (s.core k).decantRecord ∧ (t.core k).job = none ∧
          (t.core k).run = .idle ∧ (t.core k).staged = []) ∧ (∀ k ∉ imageCores (s.imageOf n), t.core k = s.core k)) ∧
    (∀ n m j, SMap.find? s.jobs m = none → SMap.find? s.jobs n = some j → j.decanted = true → s.chosen n j = true → s.firstIn n = true → s.contending n j = [] →
      s.snapshotClaims (imageCores (s.imageOf n)) n = false → s.freeModuleTag.isSome = true → (∀ k ∈ imageCores (s.imageOf n), k < 16384) → ∃ t, exec (.decant m n) s = .next t ∧ (JobNow t n fun k => k.resident = true ∧ k.decanted = false) ∧
        ∀ k ∈ imageCores (s.imageOf n), ∀ r, SMap.find? s.decants (16384 * n + k) = some r → SMap.find? t.decants (16384 * n + k) = none ∧
          (t.core k).epoch = (s.core k).epoch + 1 ∧ (t.core k).words = j.words (s.imageOf n) (r.step.getD 0) r.stage ∧ (t.core k).mem = (s.setMemories j.atelier (SMap.get 0 j.sets k) r).mem ∧
          (t.core k).tiles = (s.setMemories j.atelier (SMap.get 0 j.sets k) r).tiles ∧ (t.core k).pc = r.pc)

/-! ### Leases and sealed streams -/

/-- Leases (R301, R396, R410 to R414, R429 to R432): a proposal is refused by the first rule it breaks, else the atelier holds a proposed lease
under the next serial; a share counts once it opens, and the last makes the lease active with its keys; a report leaves the lease
as it is; where the host refuses the record's write, the command fails and the lease stays; the end of a lease erases its keys and shares, stops its cores under raised epochs and closes it once its tags are
drained, at the latest at the bound, with one of the module's own tags free for the erasure (R194). What is read or written of host memory goes by the context or the queue of the command. The model's
readings are: a refused write as an operand (notes/assumptions/80.md), the zero fields of a commission among its limits (81), the first
serial, the malformed commission's status and the shares that stay (39), what the end of a lease clears (40), the SM2 arithmetic (9), and
the counter moved on to the bound (3). -/
def Obligations.Leases : Prop :=
  ∀ s : State,
    (∀ n c, Running s n 0x20 c → c.pay 0 2 = 0 →
      let b := fun (bs : Bytes) => padTo (c.pay 128 32) bs
      let u := s.readFor c (c.pay 64 64) (c.pay 128 32)
      (∀ r, exec (.leasePropose n ⟨none, r⟩) s = .next (s.finish n 0x0E 0)) ∧
      (∀ bs r, (s.lease c.atelier).state ≠ 0 → exec (.leasePropose n ⟨some bs, r⟩) s = .next (s.refuse n 0x0C 0)) ∧
      (∀ bs r, (s.lease c.atelier).state = 0 → commissionGood (b bs) = false → exec (.leasePropose n ⟨some bs, r⟩) s = .next (u.refuse n 0x07 0)) ∧
      (∀ bs r, (s.lease c.atelier).state = 0 → commissionGood (b bs) = true → commissionSigned (b bs) = false → exec (.leasePropose n ⟨some bs, r⟩) s = .next (u.refuse n 0x0C 0)) ∧
      (∀ bs, (s.lease c.atelier).state = 0 → commissionGood (b bs) = true → commissionSigned (b bs) = true → exec (.leasePropose n ⟨some bs, true⟩) s = .next (u.finish n 0x0E 0)) ∧
      (∀ bs, (s.lease c.atelier).state = 0 → commissionGood (b bs) = true → commissionSigned (b bs) = true → ∃ t, exec (.leasePropose n ⟨some bs, false⟩) s = .next t ∧
        t.lease c.atelier = ⟨1, s.leaseSerial + 1, some (commissionOf (b bs)), s.drawBits, bytes512 (sm2Public s.drawBits), [], none, [], [], false⟩ ∧
        t.leaseSerial = s.leaseSerial + 1 ∧ (∀ a, a ≠ c.atelier → t.lease a = s.lease a) ∧ SMap.find? t.commands n = none)) ∧
    (∀ n c, Running s n 0x20 c → c.pay 0 2 = 1 →
      let p := c.pay 2 4
      let l := s.lease c.atelier
      (exec (.leaseShare n none) s = .next (s.finish n 0x0E 0)) ∧
      (∀ w, s.unwrapShare c.atelier p w = none → exec (.leaseShare n (some w)) s = .next ((s.readFor c (c.pay 64 64) (c.pay 128 32)).refuse n 0x0C 0)) ∧
      (∀ w x m, s.unwrapShare c.atelier p w = some x → l.commission = some m → ∃ t, exec (.leaseShare n (some w)) s = .next t ∧ SMap.find? (t.lease c.atelier).shares p = some x ∧
        SMap.find? t.commands n = none ∧ ((SMap.put l.shares p x).length < m.npatron → (t.lease c.atelier).state = 1 ∧ (t.lease c.atelier).keys = l.keys) ∧
        (m.npatron ≤ (SMap.put l.shares p x).length → (t.lease c.atelier).state = 2 ∧ (t.lease c.atelier).wrapKey = 0 ∧ (t.lease c.atelier).keys.isSome = true))) ∧
    (∀ n c, Running s n 0x20 c → c.pay 0 2 = 2 →
      let nonce := leBytes 16 (c.pay 160 128)
      (((s.lease c.atelier).state = 1 ∨ (s.lease c.atelier).state = 2) → exec (.leaseReport ⟨n, true⟩) s = .next (s.finish n 0x0E 0) ∧ ∃ t, exec (.leaseReport ⟨n, false⟩) s = .next t ∧ t.leases = s.leases ∧ t.drawn = s.drawn + 1 ∧ SMap.find? t.commands n = none ∧
        ∀ q, SMap.find? s.queues c.queue = some q → q.closing = false →
          HostOut.write (s.cmdTag c).1 (s.cmdTag c).2 (c.pay 64 64) (s.provenance c.atelier nonce) ∈ t.hostOut) ∧
      (∀ r, (s.lease c.atelier).state ≠ 1 → (s.lease c.atelier).state ≠ 2 → exec (.leaseReport ⟨n, r⟩) s = .next (s.refuse n 0x0C 0))) ∧
    (∀ n c, Running s n 0x21 c → ((s.lease c.atelier).state = 1 ∨ (s.lease c.atelier).state = 2) → ∃ t, exec (.leaseEnd n) s = .next t ∧
      (t.lease c.atelier).keys = none ∧ (t.lease c.atelier).shares = [] ∧ (∀ k < 10368, s.holds c.atelier k = true → (t.core k).run = .idle ∧ (t.core k).epoch = (s.core k).epoch + 1) ∧
      (∀ k, s.holds c.atelier k = false → t.core k = s.core k) ∧ (∀ a, a ≠ c.atelier → t.lease a = s.lease a) ∧
      ((∀ p ∈ s.tags, p.2.atelier ≠ some c.atelier) → s.freeModuleTag.isSome = true → t.lease c.atelier = Lease.none)) ∧
    (∀ n c, Running s n 0x21 c → (s.lease c.atelier).state ≠ 1 → (s.lease c.atelier).state ≠ 2 → exec (.leaseEnd n) s = .next (s.refuse n 0x0C 0)) ∧
    (∀ a b, a < 16 → (s.atelier a).draining = some b → ∃ t, exec (.tagDrainBound a) s = .next t ∧ (∀ p ∈ t.tags, p.2.atelier ≠ some a) ∧ (∀ p ∈ t.dmas, p.2.atelier ≠ a) ∧
      (((s.lease a).state ≠ 3 ∨ s.mstate = 3 ∨ s.freeModuleTag.isSome = true) → (t.atelier a).draining = none) ∧ b.toNat ≤ t.time.toNat)

/-- What is sealed opens (R423): a stream sealed under a key opens under it to its plaintext. -/
def Obligations.StreamsOpen : Prop :=
  ∀ (h : StreamHead) (key text : Bytes), text.length < 2 ^ 40 → openStream key (sealStream h key text) = some text

/-- Checkpoints, exhibits and SILLAGE (R301, R306 to R308, R310, R424 to R428, R454, R460): a checkpoint is written sealed under the commission's key and one under another
commission is refused; a restored job stands at the step its checkpoint names; an exhibit is refused by the first rule it breaks,
and an accepted order's nonce is spent, also where the host refuses the exhibit's writes; SILLAGE answers a function with the module's summary.
What is read or written of host memory goes by the command's context. The model's readings are: the widths in a checkpoint's record and what
a restore leaves alone (notes/assumptions/41.md), the statuses of a malformed order and of a wrong job (42), an unserved function's 0x05 and
the choices of the summary (47), the fields of CTRL_CMD that SILLAGE does not use (74), a refused write as an operand (80), and the SM2,
SM3 and SM4 arithmetic (9). -/
def Obligations.StreamsAndReports : Prop :=
  ∀ (s : State) (n : Nat) (c : Cmd),
    (Running s n 0x23 c → ∀ j m k, SMap.find? s.jobs (c.pay 0 12) = some j → (s.lease c.atelier).commission = some m → (s.lease c.atelier).keys = some k →
      let text := s.checkpointText j
      (∀ r, j.serving = true → exec (.checkpointSave ⟨n, r⟩) s = .next (s.refuse n 0x07 0)) ∧
      (∀ r, j.serving = false → m.ckpt = false → exec (.checkpointSave ⟨n, r⟩) s = .next (s.refuse n 0x0C 0)) ∧
      (∀ r, j.serving = false → m.ckpt = true → c.pay 128 64 < streamSize text.length → exec (.checkpointSave ⟨n, r⟩) s = .next (s.refuse n 0x09 0)) ∧
      (∀ r, j.serving = false → m.ckpt = true → streamSize text.length ≤ c.pay 128 64 → s.checkpointReadable j = false → exec (.checkpointSave ⟨n, r⟩) s = .next (s.finish n 0x0E 0)) ∧
      (j.serving = false → m.ckpt = true → streamSize text.length ≤ c.pay 128 64 → s.checkpointReadable j = true → exec (.checkpointSave ⟨n, true⟩) s = .next (s.drew.finish n 0x0E 0) ∧ ∃ t, exec (.checkpointSave ⟨n, false⟩) s = .next t ∧
        SMap.find? t.commands n = none ∧ t.drawn = s.drawn + 1 ∧ ∀ q, SMap.find? s.queues c.queue = some q → q.closing = false →
          HostOut.write (s.cmdTag c).1 (s.cmdTag c).2 (c.pay 64 64)
            (sealStream ⟨1, c.pay 0 12, 0, 0, j.committed.getD (2 ^ 64 - 1), m.digest, s.drawBytes 16, [], []⟩ (ckptKey k.cs m.digest (s.drawBytes 16)) text) ∈ t.hostOut)) ∧
    (Running s n 0x24 c → exec (.checkpointRestore n none) s = .next (s.finish n 0x0E 0)) ∧
    (Running s n 0x24 c → ∀ bs j m k, SMap.find? s.jobs (c.pay 0 12) = some j → (s.lease c.atelier).commission = some m → (s.lease c.atelier).keys = some k →
      let b := bs.take (c.pay 128 64)
      let u := s.readFor c (c.pay 64 64) (c.pay 128 64)
      let opened := openStream (ckptKey k.cs m.digest (slice b 56 16)) b
      ((j.serving = true ∨ j.running = true) → exec (.checkpointRestore n (some bs)) s = .next (s.refuse n 0x07 0)) ∧
      (j.serving = false → j.running = false → j.run = none → slice b 24 32 ≠ m.digest → exec (.checkpointRestore n (some bs)) s = .next (u.refuse n 0x0C 0)) ∧
      (j.serving = false → j.running = false → j.run = none → slice b 24 32 = m.digest → opened = none → exec (.checkpointRestore n (some bs)) s = .next (u.refuse n 0x0C 0)) ∧
      (∀ text parts size, j.serving = false → j.running = false → j.run = none → slice b 24 32 = m.digest → opened = some text →
        s.readParts j text j.lowrank j.partsOff = some (parts, size) → leAt text 32 8 = j.npar → size = text.length →
        ∃ t, exec (.checkpointRestore n (some bs)) s = .next t ∧ SMap.find? t.commands n = none ∧ JobNow t (c.pay 0 12) fun k =>
          k.committed = (if leAt text 0 8 = 2 ^ 64 - 1 then none else some (leAt text 0 8)) ∧ k.sealed = k.committed ∧ k.t = leAt text 8 8 ∧ k.unsound = false ∧ k.run = none ∧ k.growth = none)) ∧
    (Running s n 0x22 c → ∀ r, exec (.exhibitCommand n ⟨none, r⟩) s = .next (s.finish n 0x0E 0)) ∧
    (Running s n 0x22 c → ∀ bs m r, (s.lease c.atelier).commission = some m →
      let b := bs.take (c.pay 64 32)
      let t0 := s.readFor c (c.pay 0 64) (c.pay 64 32)
      (orderGood b b.length = false → exec (.exhibitCommand n ⟨some bs, r⟩) s = .next (t0.refuse n 0x07 0)) ∧
      (orderGood b b.length = true → SMap.find? s.jobs (bitsIn b 48 12) = none → exec (.exhibitCommand n ⟨some bs, r⟩) s = .next (t0.refuse n 0x03 0)) ∧
      (∀ j, orderGood b b.length = true → SMap.find? s.jobs (bitsIn b 48 12) = some j →
        (j.ctx ≠ c.ctx → exec (.exhibitCommand n ⟨some bs, r⟩) s = .next (t0.refuse n 0x05 0)) ∧
        (j.ctx = c.ctx → j.serving = false → orderAllowed (s.lease c.atelier) m j b = false → exec (.exhibitCommand n ⟨some bs, r⟩) s = .next (t0.refuse n 0x0C 0)) ∧
        (j.ctx = c.ctx → j.serving = false → orderAllowed (s.lease c.atelier) m j b = true → sm2PointOf (ofBytes512 (slice b 56 64)) = none →
          exec (.exhibitCommand n ⟨some bs, r⟩) s = .next (t0.refuse n 0x07 0)) ∧
        (j.ctx = c.ctx → j.serving = false → orderAllowed (s.lease c.atelier) m j b = true → (sm2PointOf (ofBytes512 (slice b 56 64))).isSome = true → streamSize (s.exhibitText j (orderFmt b) (orderVar b)).length ≤ c.pay 160 32 →
          j.owners.all (s.committedReadable j (decide (orderFmt b = 0))) = true → 
            (let u := t0.drew.drew.setLease c.atelier { s.lease c.atelier with orders := (s.lease c.atelier).orders ++ [orderNonce b] }
             r = true → exec (.exhibitCommand n ⟨some bs, r⟩) s = .next (u.finish n 0x0E 0)) ∧
            ∃ t, exec (.exhibitCommand n ⟨some bs, r⟩) s = .next t ∧ SMap.find? t.commands n = none ∧
            (t.lease c.atelier).orders = (s.lease c.atelier).orders ++ [orderNonce b] ∧ t.drawn = s.drawn + 2))) ∧
    (∀ port fn vmin vmax tk addr len, port < 2 → fn < 17 → s.served port = true →
      let r := s.function port fn
      let i := Instr.sillage port ⟨⟨fn, true, none⟩, tk, vmin, vmax⟩ addr len
      let w := { r with cmd := 3, takeover := tk, vmin := vmin % 256, vmax := vmax % 256, arg0 := addr, arg1 := len }
      let u := s.setFunction port fn { w with go := true, runs := some ⟨3, tk, vmin % 256, vmax % 256, addr, len, r.arg2, r.arg3⟩ }
      (∀ g : CtrlGo, g.fn = fn → g.wellFormed = true → (g.go = false ∨ g.idle.isSome = true) →
        exec (.sillage port ⟨g, tk, vmin, vmax⟩ addr len) s = .next (s.setFunction port fn { w with cmd := g.idle.getD 3 })) ∧
      (r.go = true → exec i s = .next (s.setFunction port fn { w with result := 0x06 })) ∧
      (r.go = false → fn ≠ 0 → s.atelierOfFn port fn = none → ∃ t, exec i s = .next t ∧
        t.function port fn = { w with go := false, result := 0x05, runs := none } ∧ t = { s with functions := t.functions }) ∧
      (r.go = false → (fn = 0 ∨ (s.atelierOfFn port fn).isSome = true) → ∃ t, exec i s = .next t ∧
        t.function port fn = { w with go := false, result := (u.summary (s.atelierOfFn port fn) len.toNat).2, runs := none } ∧
        ((u.summary (s.atelierOfFn port fn) len.toNat).1 ≠ [] →
          HostOut.write port none addr.toNat (u.summary (s.atelierOfFn port fn) len.toNat).1 ∈ t.hostOut) ∧ t = { s with functions := t.functions, hostOut := t.hostOut, translations := t.translations }))

/-! ### What a word leaves alone -/

/-- The frame of a compute word (R76, R78, R149): what was in flight stays in flight, and what joins it goes to the word's own destinations: the
scalar lane's register, the generator an MVG names, the tile register of the vector engine, the binding slot of its trigger; in local
memory, the 8 bytes a scalar ST addresses, the slots of the line of a vector ST or STS and of a readout with that readout's scale codes,
and the accumulator lines of its token's values; windows, held messages and bindings stand. A word without a readout and without ST, STS and TREQ sends nothing out but reports,
and touches no other core and no memory. -/
def Obligations.WordFrame : Prop :=
  ∀ (i : Instr) (s : State) (n : Nat) (up : Bool) (names : Word256 → Bool), wordOf i = some (n, up, names) → Issues s n up →
    names (wordAt s n) = true → wordFormat (wordAt s n) = 0 →
    let c0 := found s n
    let w := wordAt s n
    let v := vectorField w
    let a := arrayField w
    Gives s i n fun c outs =>
      (∃ new, c.flight = c0.flight ++ new ∧ ∀ l ∈ new, match l.effect with
        | .sreg k _ => k = (scalarField w).sd
        | .gen g _ _ => g = (scalarField w).sd % 4
        | .report slot _ _ _ _ => slot = (loopField w).cslot
        | .rows rs ws => (∀ r ∈ rs, r / 32 = v.td) ∧ ∀ p ∈ ws, p.1 / 4096 = v.td
        | .locals ws => ∀ p ∈ ws,
          (isScalar 0x19 w = true ∧ p = (c0.scalarAddr (scalarField w), leBytes 8 (c0.sreg (scalarField w).sd).toNat)) ∨
          ((isVector 0x02 w = true ∨ isVector 0x05 w = true) ∧ (c0.access w v.agD).far = false ∧ p.2.length ≤ 2 ∧ ∃ k < 32, p.1 = (c0.access w v.agD).slot k) ∨
          (isReadout w = true ∧ (c0.access w a.roDst).far = false ∧ p.2.length ≤ 2 ∧ ∃ k < 32, p.1 = (c0.access w a.roDst).slot k) ∨
          (isReadout w = true ∧ (c0.access w a.roDst).far = false ∧ p.1 = (readoutStrip c0 w).1 + (readoutStrip c0 w).2 ∧ readoutCodes (s.env n) c0 w = some p.2)
        | .acc line _ _ _ _ _ => (isArray 1 w = true ∨ isArray 2 w = true) ∧ ∃ p q, fmtVar a.sfmt a.svar = some p ∧ fmtVar a.tfmt a.tvar = some q ∧
          ∃ y ∈ (tokenRun c0.array p q).values, line = tokenLine s n w y.1) ∧
      c.windows = c0.windows ∧ c.holding = c0.holding ∧ c.binds = c0.binds ∧ c.sends = c0.sends ∧ c.job = c0.job ∧ c.stage = c0.stage ∧
      ((arrayField w).roEn = false → v.vop ≠ 2 → v.vop ≠ 5 → v.vop ≠ 6 →
        (∀ o ∈ outs, ∃ d, o = Out.report d) ∧ ∀ t, exec i s = .next t → (∀ m, m ≠ n → t.core m = s.core m) ∧ t = { s with cores := t.cores, collectives := t.collectives })
end

