-- ==== Sys2Proof/Laws/Maps.lean ====
section
/-!
SUPPORT. The laws of sparse tables and byte memories: every operation keeps the canonical form, a read after a write gives the
value written, and a write leaves every other place alone.
-/
namespace Sys2Proof

/-! ### The canonical form -/

theorem SMap.wfFrom_cons {α : Type} [DecidableEq α] (d : α) (lo k : Nat) (v : α) (m : SMap α) :
    SMap.wfFrom d lo ((k, v) :: m) = true ↔ lo ≤ k ∧ v ≠ d ∧ SMap.wfFrom d (k + 1) m = true := by
  simp [SMap.wfFrom, and_assoc]

/-- A table canonical from a number is canonical from any smaller one. -/
theorem SMap.wfFrom_mono {α : Type} [DecidableEq α] (d : α) {lo lo' : Nat} (h : lo' ≤ lo) :
    ∀ {m : SMap α}, SMap.wfFrom d lo m = true → SMap.wfFrom d lo' m = true
  | [], _ => rfl
  | (k, v) :: m, hm => by
    rw [SMap.wfFrom_cons] at hm ⊢
    exact ⟨by omega, hm.2⟩

/-- The canonical form of a list of pairs said without recursion: keys rise, and no value is the default. -/
theorem SMap.wfFrom_iff {α : Type} [DecidableEq α] (d : α) :
    ∀ (lo : Nat) (m : SMap α), SMap.wfFrom d lo m = true ↔
      m.Pairwise (fun p q => p.1 < q.1) ∧ ∀ p ∈ m, lo ≤ p.1 ∧ p.2 ≠ d
  | lo, [] => by simp [SMap.wfFrom]
  | lo, (k, v) :: m => by
    rw [SMap.wfFrom_cons, SMap.wfFrom_iff d (k + 1) m]
    constructor
    · rintro ⟨h1, h2, h3, h4⟩
      refine ⟨List.Pairwise.cons (fun q hq => (h4 q hq).1) h3, ?_⟩
      intro p hp
      rcases List.mem_cons.1 hp with rfl | hp
      · exact ⟨h1, h2⟩
      · exact ⟨by have := (h4 p hp).1; omega, (h4 p hp).2⟩
    · rintro ⟨h1, h2⟩
      have hc := List.pairwise_cons.1 h1
      exact ⟨(h2 (k, v) (by simp)).1, (h2 (k, v) (by simp)).2, hc.2, fun p hp => ⟨hc.1 p hp, (h2 p (by simp [hp])).2⟩⟩

theorem SMap.wf_iff {α : Type} [DecidableEq α] (d : α) (m : SMap α) :
    SMap.wf d m = true ↔ m.Pairwise (fun p q => p.1 < q.1) ∧ ∀ p ∈ m, p.2 ≠ d := by
  simp [SMap.wf, SMap.wfFrom_iff]

/-- What remains of a canonical table after dropping entries is canonical. -/
theorem SMap.wf_sublist {α : Type} [DecidableEq α] (d : α) {m m' : SMap α} (h : m'.Sublist m) (hm : SMap.wf d m = true) :
    SMap.wf d m' = true := by
  rw [SMap.wf_iff] at hm ⊢
  exact ⟨hm.1.sublist h, fun p hp => hm.2 p (h.subset hp)⟩

/-- Writing keeps the keys at or above a bound. -/
theorem SMap.put_wfFrom {α : Type} [DecidableEq α] (d : α) {v : α} (hv : v ≠ d) :
    ∀ {lo k : Nat} {m : SMap α}, lo ≤ k → SMap.wfFrom d lo m = true → SMap.wfFrom d lo (SMap.put m k v) = true
  | lo, k, [], hk, _ => by simp [SMap.put, SMap.wfFrom, hk, hv]
  | lo, k, (j, w) :: m, hk, hm => by
    have hc := (SMap.wfFrom_cons d lo j w m).1 hm
    unfold SMap.put
    split
    · rename_i h; subst h
      exact (SMap.wfFrom_cons d lo j v m).2 ⟨hk, hv, hc.2.2⟩
    · split
      · rename_i h1 h2
        exact (SMap.wfFrom_cons ..).2 ⟨hk, hv, (SMap.wfFrom_cons ..).2 ⟨h2, hc.2⟩⟩
      · exact (SMap.wfFrom_cons ..).2 ⟨hc.1, hc.2.1, SMap.put_wfFrom d hv (by omega) hc.2.2⟩

theorem SMap.del_wf {α : Type} [DecidableEq α] (d : α) (k : Nat) {m : SMap α} (hm : SMap.wf d m = true) : SMap.wf d (SMap.del m k) = true :=
  SMap.wf_sublist d List.filter_sublist hm

/-- A write keeps the canonical form. -/
theorem SMap.set_wf {α : Type} [DecidableEq α] (d : α) (m : SMap α) (k : Nat) (v : α) (hm : SMap.wf d m = true) :
    SMap.wf d (SMap.set d m k v) = true := by
  unfold SMap.set
  split
  · exact SMap.del_wf d k hm
  · rename_i h; exact SMap.put_wfFrom d h (Nat.zero_le k) hm

/-! ### Read after write -/

theorem SMap.get_put {α : Type} (d : α) (k : Nat) (v : α) (x : Nat) :
    ∀ m : SMap α, SMap.get d (SMap.put m k v) x = if x = k then v else SMap.get d m x
  | [] => by
    by_cases h : x = k
    · simp [SMap.put, SMap.get, h]
    · simp [SMap.put, SMap.get, h, Ne.symm h]
  | (j, w) :: m => by
    unfold SMap.put
    split
    · rename_i h; subst h
      by_cases hx : x = j <;> simp [SMap.get, hx, eq_comm]
    · split
      · by_cases hx : x = k
        · simp [SMap.get, hx]
        · simp [SMap.get, hx, Ne.symm hx]
      · rename_i h1 h2
        by_cases hj : j = x
        · subst hj; simp [SMap.get, h1]
        · simp [SMap.get, hj, SMap.get_put d k v x m]

theorem SMap.get_del {α : Type} (d : α) (k x : Nat) : ∀ m : SMap α, SMap.get d (SMap.del m k) x = if x = k then d else SMap.get d m x
  | [] => by simp [SMap.del, SMap.get]
  | (j, w) :: m => by
    have ih := SMap.get_del d k x m
    unfold SMap.del at ih ⊢
    by_cases hj : j = k
    · subst hj
      by_cases hx : x = j
      · subst hx; simpa [SMap.get] using ih
      · simpa [SMap.get, hx, Ne.symm hx] using ih
    · by_cases hx : j = x
      · subst hx; simp [SMap.get, hj]
      · simpa [SMap.get, hj, hx] using ih

/-- A read after a write: the value written at its key, and every other key as before. -/
theorem SMap.get_set {α : Type} [DecidableEq α] (d : α) (m : SMap α) (k : Nat) (v : α) (x : Nat) :
    SMap.get d (SMap.set d m k v) x = if x = k then v else SMap.get d m x := by
  unfold SMap.set
  split
  · rename_i h; subst h; exact SMap.get_del _ k x m
  · exact SMap.get_put d k v x m

/-- What `find?` gives after an entry is put. -/
theorem SMap.find?_put {α : Type} (k : Nat) (v : α) (x : Nat) :
    ∀ m : SMap α, SMap.find? (SMap.put m k v) x = if x = k then some v else SMap.find? m x
  | [] => by
    by_cases h : x = k
    · simp [SMap.put, SMap.find?, h]
    · simp [SMap.put, SMap.find?, h, Ne.symm h]
  | (j, w) :: m => by
    unfold SMap.put
    split
    · rename_i h; subst h
      by_cases hx : x = j
      · simp [SMap.find?, hx]
      · simp [SMap.find?, hx, Ne.symm hx]
    · split
      · by_cases hx : x = k
        · simp [SMap.find?, hx]
        · simp [SMap.find?, hx, Ne.symm hx]
      · rename_i h1 h2
        by_cases hj : j = x
        · subst hj; simp [SMap.find?, h1]
        · simp [SMap.find?, hj, SMap.find?_put k v x m]

theorem SMap.find?_del {α : Type} (k x : Nat) : ∀ m : SMap α, SMap.find? (SMap.del m k) x = if x = k then none else SMap.find? m x
  | [] => by simp [SMap.del, SMap.find?]
  | (j, w) :: m => by
    have ih := SMap.find?_del k x m
    unfold SMap.del at ih ⊢
    by_cases hj : j = k
    · subst hj
      by_cases hx : x = j
      · subst hx; simpa [SMap.find?] using ih
      · simpa [SMap.find?, hx, Ne.symm hx] using ih
    · by_cases hx : j = x
      · subst hx; simp [SMap.find?, hj]
      · simpa [SMap.find?, hj, hx] using ih

theorem SMap.find?_adjust {α : Type} (k : Nat) (f : α → α) (x : Nat) :
    ∀ m : SMap α, SMap.find? (SMap.adjust m k f) x = if x = k then (SMap.find? m x).map f else SMap.find? m x
  | [] => by simp [SMap.adjust, SMap.find?]
  | (j, w) :: m => by
    have ih := SMap.find?_adjust k f x m
    unfold SMap.adjust at ih ⊢
    by_cases hj : j = k
    · subst hj
      by_cases hx : x = j
      · subst hx; simp [SMap.find?]
      · simpa [SMap.find?, hx, Ne.symm hx] using ih
    · by_cases hx : j = x
      · subst hx; simp [SMap.find?, hj]
      · simpa [SMap.find?, hj, hx] using ih

/-- Reading back what was just written needs no canonical form where the value is not the default. -/
theorem SMap.get_set_self {α : Type} [DecidableEq α] (d : α) (m : SMap α) (k : Nat) (v : α) (hv : v ≠ d) :
    SMap.get d (SMap.set d m k v) k = v := by
  simp [SMap.set, hv, SMap.get_put]

/-! ### Byte memories -/

/-- One byte read after one byte is written. -/
theorem Memory.read_write (m : Memory) (a : Nat) (b : Byte) (x : Nat) :
    (m.write a b).read x = if x = a then b else m.read x := SMap.get_set _ m a b x

theorem Memory.write_wf (m : Memory) (a : Nat) (b : Byte) (hm : m.wf = true) : (m.write a b).wf = true := SMap.set_wf _ m a b hm

theorem Memory.entries_spec : ∀ (a : Nat) (bs : Bytes),
    (Memory.entries a bs).Pairwise (fun p q => p.1 < q.1) ∧ ∀ p ∈ Memory.entries a bs, a ≤ p.1 ∧ p.1 < a + bs.length ∧ p.2 ≠ Memory.blank
  | _, [] => by simp [Memory.entries]
  | a, b :: bs => by
    have ih := Memory.entries_spec (a + 1) bs
    unfold Memory.entries
    split
    · refine ⟨ih.1, fun p hp => ?_⟩
      have := ih.2 p hp
      simp only [List.length_cons]
      exact ⟨by omega, by omega, this.2.2⟩
    · rename_i h
      refine ⟨List.Pairwise.cons (fun q hq => by have := ih.2 q hq; simp; omega) ih.1, fun p hp => ?_⟩
      rcases List.mem_cons.1 hp with rfl | hp
      · simp [h]
      · have := ih.2 p hp
        simp only [List.length_cons]
        exact ⟨by omega, by omega, this.2.2⟩

/-- Writing a run of bytes keeps the canonical form. -/
theorem Memory.writeBytes_wf (m : Memory) (a : Nat) (bs : Bytes) (hm : m.wf = true) : (m.writeBytes a bs).wf = true := by
  unfold Memory.wf at hm ⊢
  rw [SMap.wf_iff] at hm ⊢
  have he := Memory.entries_spec a bs
  have ht : ∀ p ∈ m.filter (fun p => decide (p.1 < a)), p.1 < a := fun p hp => by
    have := (List.mem_filter.1 hp).2; simpa using this
  have hd : ∀ p ∈ m.filter (fun p => decide (a + bs.length ≤ p.1)), a + bs.length ≤ p.1 := fun p hp => by
    have := (List.mem_filter.1 hp).2; simpa using this
  unfold Memory.writeBytes
  constructor
  · rw [List.pairwise_append, List.pairwise_append]
    refine ⟨⟨hm.1.sublist List.filter_sublist, he.1, fun p hp q hq => ?_⟩, hm.1.sublist List.filter_sublist, fun p hp q hq => ?_⟩
    · have := ht p hp; have := he.2 q hq; omega
    · have h2 := hd q hq
      rcases List.mem_append.1 hp with hp | hp
      · have := ht p hp; omega
      · have := he.2 p hp; omega
  · intro p hp
    rcases List.mem_append.1 hp with hp | hp
    · rcases List.mem_append.1 hp with hp | hp
      · exact hm.2 p (List.filter_sublist.subset hp)
      · exact (he.2 p hp).2.2
    · exact hm.2 p (List.filter_sublist.subset hp)

theorem Memory.entries_wf (a : Nat) (bs : Bytes) : Memory.wf (Memory.entries a bs) = true := by
  unfold Memory.wf
  rw [SMap.wf_iff]
  exact ⟨(Memory.entries_spec a bs).1, fun p hp => ((Memory.entries_spec a bs).2 p hp).2.2⟩

/-- Clearing a run keeps the canonical form. -/
theorem Memory.clear_wf (m : Memory) (a n : Nat) (hm : m.wf = true) : (m.clear a n).wf = true :=
  SMap.wf_sublist _ List.filter_sublist hm

/-- Dropping entries keeps the canonical form. -/
theorem Memory.filter_wf (m : Memory) (f : Nat × Byte → Bool) (hm : Memory.wf m = true) : Memory.wf (List.filter f m) = true :=
  SMap.wf_sublist _ List.filter_sublist hm

theorem Memory.nil_wf : Memory.wf [] = true := rfl

/-- Reading in a list of pairs: past the entries below the key asked, what is skipped does not matter. -/
theorem Memory.get_append (x : Nat) : ∀ (m m' : Memory), (∀ p ∈ m, p.1 ≠ x) → SMap.get Memory.blank (m ++ m') x = SMap.get Memory.blank m' x
  | [], _, _ => rfl
  | (j, w) :: m, m', h => by
    have : j ≠ x := h (j, w) (by simp)
    simp [SMap.get, this, Memory.get_append x m m' (fun p hp => h p (by simp [hp]))]

theorem Memory.get_eq_blank (x : Nat) (m : Memory) (h : ∀ p ∈ m, p.1 ≠ x) : SMap.get Memory.blank m x = Memory.blank := by
  have := Memory.get_append x m [] h
  simpa [SMap.get] using this

theorem Memory.get_append_left (x : Nat) : ∀ (m m' : Memory), (∀ p ∈ m', p.1 ≠ x) → SMap.get Memory.blank (m ++ m') x = SMap.get Memory.blank m x
  | [], m', h => by simpa [SMap.get] using Memory.get_eq_blank x m' h
  | (j, w) :: m, m', h => by
    by_cases hj : j = x <;> simp [SMap.get, hj, Memory.get_append_left x m m' h]

theorem Memory.get_entries (x : Nat) : ∀ (a : Nat) (bs : Bytes),
    SMap.get Memory.blank (Memory.entries a bs) x = if a ≤ x ∧ x < a + bs.length then bs.getD (x - a) Memory.blank else Memory.blank
  | a, [] => by
    have : ¬(a ≤ x ∧ x < a) := by omega
    simp [Memory.entries, SMap.get, this]
  | a, b :: bs => by
    have ih := Memory.get_entries x (a + 1) bs
    have key : SMap.get Memory.blank (Memory.entries a (b :: bs)) x = if a = x then b else SMap.get Memory.blank (Memory.entries (a + 1) bs) x := by
      rw [show Memory.entries a (b :: bs) = if b = Memory.blank then Memory.entries (a + 1) bs else (a, b) :: Memory.entries (a + 1) bs from rfl]
      by_cases h : b = Memory.blank
      · rw [if_pos h]
        by_cases hx : a = x
        · subst hx
          rw [ih, if_neg (by omega), if_pos rfl, h]
        · rw [if_neg hx]
      · rw [if_neg h]
        by_cases hx : a = x
        · simp [SMap.get, hx]
        · simp [SMap.get, hx]
    rw [key, ih]
    simp only [List.length_cons]
    by_cases hx : a = x
    · subst hx
      rw [if_pos rfl, if_pos (by omega)]
      simp
    · rw [if_neg hx]
      by_cases h2 : a + 1 ≤ x ∧ x < a + 1 + bs.length
      · rw [if_pos h2, if_pos (by omega)]
        have : x - a = (x - (a + 1)) + 1 := by omega
        rw [this, List.getD_cons_succ]
      · rw [if_neg h2, if_neg (by omega)]

/-- Reading a key that a filter keeps. -/
theorem Memory.get_filter (x : Nat) (f : Nat → Bool) (hf : f x = true) : ∀ m : Memory,
    SMap.get Memory.blank (m.filter fun p => f p.1) x = SMap.get Memory.blank m x
  | [] => rfl
  | (j, w) :: m => by
    by_cases hj : j = x
    · subst hj; simp [SMap.get, hf]
    · by_cases hk : f j = true
      · simp [SMap.get, hj, hk, Memory.get_filter x f hf m]
      · simp [SMap.get, hj, hk, Memory.get_filter x f hf m]

/-- One byte read after a run of bytes is written: inside the run its byte, outside it the byte as before. -/
theorem Memory.read_writeBytes (m : Memory) (a : Nat) (bs : Bytes) (x : Nat) :
    (m.writeBytes a bs).read x = if a ≤ x ∧ x < a + bs.length then bs.getD (x - a) Memory.blank else m.read x := by
  have he := Memory.entries_spec a bs
  have ht : ∀ p ∈ m.filter (fun p => decide (p.1 < a)), p.1 < a := fun p hp => by
    have := (List.mem_filter.1 hp).2; simpa using this
  have hd : ∀ p ∈ m.filter (fun p => decide (a + bs.length ≤ p.1)), a + bs.length ≤ p.1 := fun p hp => by
    have := (List.mem_filter.1 hp).2; simpa using this
  unfold Memory.read Memory.writeBytes
  rw [List.append_assoc]
  by_cases h1 : x < a
  · rw [if_neg (by omega), Memory.get_append_left]
    · exact Memory.get_filter x (fun k => decide (k < a)) (by simpa using h1) m
    · intro p hp
      rcases List.mem_append.1 hp with hp | hp
      · have := he.2 p hp; omega
      · have := hd p hp; omega
  · rw [Memory.get_append x _ _ (fun p hp => by have := ht p hp; omega)]
    by_cases h2 : x < a + bs.length
    · rw [Memory.get_append_left x _ _ (fun p hp => by have := hd p hp; omega), Memory.get_entries, if_pos (by omega), if_pos (by omega)]
    · rw [Memory.get_append x _ _ (fun p hp => by have := he.2 p hp; omega), if_neg (by omega)]
      exact Memory.get_filter x (fun k => decide (a + bs.length ≤ k)) (by simp; omega) m

theorem Memory.run_length : ∀ (m : Memory) (a n : Nat), (Memory.run m a n).length = n
  | _, _, 0 => rfl
  | [], a, n + 1 => by simp [Memory.run, Memory.run_length [] (a + 1) n]
  | (k, v) :: m, a, n + 1 => by
    unfold Memory.run
    split <;> simp [Memory.run_length]

/-- A run of bytes read is as long as asked. -/
theorem Memory.readBytes_length (m : Memory) (a n : Nat) : (m.readBytes a n).length = n := Memory.run_length _ a n

/-- A table that lists the next `fuel` keys from `n` on has its first free key after them. -/
theorem SMap.freeKey_full {α : Type} (m : SMap α) :
    ∀ fuel n, (∀ k, n ≤ k → k < n + fuel → (SMap.find? m k).isSome = true) → SMap.freeKey m fuel n = n + fuel
  | 0, _, _ => rfl
  | fuel + 1, n, h => by
    rw [SMap.freeKey, if_pos (h n (Nat.le_refl n) (by omega)), SMap.freeKey_full m fuel (n + 1) fun k a b => h k (by omega) (by omega)]; omega

/-- A table made from a list of keys lists each of them. -/
theorem SMap.find_listed {α : Type} (v : α) (k : Nat) : ∀ l : List Nat, k ∈ l → (SMap.find? (l.map fun i => (i, v)) k).isSome = true
  | j :: l, h => by
    rw [List.map_cons, SMap.find?]
    split
    · rfl
    · exact SMap.find_listed v k l ((List.mem_cons.mp h).resolve_left fun e => by simp_all)

end Sys2Proof
end

