-- ==== Sys2Proof/Laws/Core.lean ====
section
/-!
SUPPORT. What the beat of a core can do, said once: landings leave the word store, the program counter, the beat counter, the
epoch and the run state alone; a word that issues, and one that halts, answer the next states named here.
-/
namespace Sys2Proof.Machine

/-- What no landing touches. -/
structure Core.Alike (c d : Core) : Prop where
  run : d.run = c.run
  loaded : d.loaded = c.loaded
  words : d.words = c.words
  pc : d.pc = c.pc
  beat : d.beat = c.beat
  epoch : d.epoch = c.epoch

theorem Core.Alike.refl (c : Core) : c.Alike c := ⟨rfl, rfl, rfl, rfl, rfl, rfl⟩
theorem Core.Alike.trans {c d e : Core} (h : c.Alike d) (k : d.Alike e) : c.Alike e :=
  ⟨k.run.trans h.run, k.loaded.trans h.loaded, k.words.trans h.words, k.pc.trans h.pc, k.beat.trans h.beat, k.epoch.trans h.epoch⟩

theorem Core.addEvents_alike (c : Core) (b : Bool) (k : Nat) (e : Events) : c.Alike (c.addEvents b k e) := by
  unfold Core.addEvents
  split <;> exact ⟨rfl, rfl, rfl, rfl, rfl, rfl⟩

theorem landAcc_alike (c : Core) (line : Nat) (init int : Bool) (vals : List (Nat × Nat)) (slot : Option Nat) (ev : Events) :
    c.Alike (landAcc c line init int vals slot ev) := by
  unfold landAcc
  dsimp only
  split
  · have h := fun (d : Core) (k : Nat) (e : Events) => Core.addEvents_alike d true k e
    constructor
    · exact (h _ _ _).run
    · exact (h _ _ _).loaded
    · exact (h _ _ _).words
    · exact (h _ _ _).pc
    · exact (h _ _ _).beat
    · exact (h _ _ _).epoch
  · exact ⟨rfl, rfl, rfl, rfl, rfl, rfl⟩

theorem land_alike (env : Env) (i : Issued) (due : Nat) (e : Effect) : i.core.Alike (land env i due e).core := by
  unfold land
  split
  · exact ⟨rfl, rfl, rfl, rfl, rfl, rfl⟩
  · exact ⟨rfl, rfl, rfl, rfl, rfl, rfl⟩
  · exact ⟨rfl, rfl, rfl, rfl, rfl, rfl⟩
  · exact landAcc_alike _ _ _ _ _ _ _
  · exact ⟨rfl, rfl, rfl, rfl, rfl, rfl⟩
  · dsimp only
    repeat' split
    all_goals exact ⟨rfl, rfl, rfl, rfl, rfl, rfl⟩

theorem landUpTo_alike (env : Env) (t : Nat) : ∀ (fuel : Nat) (i : Issued), i.core.Alike (landUpTo env t fuel i).core
  | 0, i => Core.Alike.refl _
  | fuel + 1, i => by
    unfold landUpTo
    split
    · exact Core.Alike.refl _
    · rename_i l rest _
      have h := land_alike env { i with core := { i.core with flight := rest } } l.due l.effect
      exact Core.Alike.trans ⟨h.run, h.loaded, h.words, h.pc, h.beat, h.epoch⟩ (landUpTo_alike env t fuel _)

theorem packRows_alike (t : Nat) (c : Core) : c.Alike (packRows t c).1 := by
  unfold packRows
  dsimp only
  split
  · exact Core.Alike.refl _
  · exact ⟨rfl, rfl, rfl, rfl, rfl, rfl⟩

/-- The core as a beat finds it has the word store, the program counter, the beat counter and the epoch it had. -/
theorem startBeat_alike (env : Env) (c : Core) : c.Alike (startBeat env c).1.core := by
  unfold startBeat
  dsimp only
  have h := landUpTo_alike env c.beat c.flight.length ⟨c, []⟩
  have k (d : Core) (a : ArrayState) : d.Alike (packRows c.beat { d with array := a }).1 := by
    have h2 := packRows_alike c.beat { d with array := a }
    exact ⟨h2.run, h2.loaded, h2.words, h2.pc, h2.beat, h2.epoch⟩
  exact h.trans (k _ _)

theorem Core.Alike.word {c d : Core} (h : c.Alike d) (a : Nat) : d.word a = c.word a := by
  unfold Core.word
  rw [h.loaded, h.words]

/-- A word that issues: the answer of its row. -/
theorem wordRow_issues {s : State} {n : Nat} {up : Bool} {names : Word256 → Bool} (h1 : n < 10368) (h2 : s.tokened n = true)
    (h3 : (startBeat (s.env n) (s.core n)).2 = none) (h4 : beatReady (s.env n) (startBeat (s.env n) (s.core n)).1.core up = true)
    (h5 : reasons (s.env n) (startBeat (s.env n) (s.core n)).1.core up = [])
    (h6 : names ((startBeat (s.env n) (s.core n)).1.core.word (startBeat (s.env n) (s.core n)).1.core.pc) = true) :
    wordRow n up s names = .next (s.settleCore n ⟨(issueWord (s.env n) n (startBeat (s.env n) (s.core n)).1.core).core,
      (startBeat (s.env n) (s.core n)).1.outs ++ (issueWord (s.env n) n (startBeat (s.env n) (s.core n)).1.core).outs⟩) := by
  have ha := startBeat_alike (s.env n) (s.core n)
  rw [ha.word, ha.pc] at h6
  have hb : beat (s.env n) n up (s.core n) = some ⟨(issueWord (s.env n) n (startBeat (s.env n) (s.core n)).1.core).core,
      (startBeat (s.env n) (s.core n)).1.outs ++ (issueWord (s.env n) n (startBeat (s.env n) (s.core n)).1.core).outs⟩ := by
    unfold beat
    rw [show startBeat (s.env n) (s.core n) = ((startBeat (s.env n) (s.core n)).1, (startBeat (s.env n) (s.core n)).2) from rfl, h3]
    simp only [h4, h5, if_true]
  unfold wordRow onUnit whenDue State.beatOf
  rw [if_pos h1, hb]
  simp [h2, h6, State.retireFor, h5, listMin]

/-- A word that halts its core: the answer of its row. -/
theorem wordRow_halts {s : State} {n : Nat} {up : Bool} {names : Word256 → Bool} (h1 : n < 10368) (h2 : s.tokened n = true)
    (h3 : (startBeat (s.env n) (s.core n)).2 = none) (h4 : beatReady (s.env n) (startBeat (s.env n) (s.core n)).1.core up = true)
    (h5 : reasons (s.env n) (startBeat (s.env n) (s.core n)).1.core up ≠ [])
    (h6 : names ((startBeat (s.env n) (s.core n)).1.core.word (startBeat (s.env n) (s.core n)).1.core.pc) = true) :
    wordRow n up s names = .next ((s.retireFor n up).settleCore n (haltCore (s.env n) (startBeat (s.env n) (s.core n)).1.core.pc
      (listMin 0 (reasons (s.env n) (startBeat (s.env n) (s.core n)).1.core up)) (s.core n).beat (startBeat (s.env n) (s.core n)).1)) := by
  have ha := startBeat_alike (s.env n) (s.core n)
  rw [ha.word, ha.pc] at h6
  have hb : beat (s.env n) n up (s.core n) = some (haltCore (s.env n) (startBeat (s.env n) (s.core n)).1.core.pc
      (listMin 0 (reasons (s.env n) (startBeat (s.env n) (s.core n)).1.core up)) (s.core n).beat (startBeat (s.env n) (s.core n)).1) := by
    unfold beat
    rw [show startBeat (s.env n) (s.core n) = ((startBeat (s.env n) (s.core n)).1, (startBeat (s.env n) (s.core n)).2) from rfl, h3]
    obtain ⟨r, rs, hr⟩ := List.exists_cons_of_ne_nil h5
    simp only [h4, hr, if_true]
  unfold wordRow onUnit whenDue State.beatOf
  rw [if_pos h1, hb]
  simp [h2, h6]

/-- A core after a beat that sent nothing out. -/
theorem State.settleCore_core (s : State) (n : Nat) (c : Core) : (s.settleCore n ⟨c, []⟩).core n = c := by
  unfold State.settleCore State.setCore State.core
  simp [SMap.get_set]

end Sys2Proof.Machine
end

