-- ==== Sys2Proof/Laws/Onward.lean ====
section
/-!
SUPPORT. The rules by which a state is shown to lie onward of another: reflexivity, chains, folds, updates of fields that
`Onward` does not speak of, and updates of the memories.
-/
namespace Sys2Proof.Machine

theorem Onward.refl (s : State) : Onward s s := ⟨rfl, le_refl _, id, le_refl _, le_refl _, id⟩

theorem Onward.trans {s t u : State} (h : Onward s t) (k : Onward t u) : Onward s u :=
  ⟨k.queue.trans h.queue, h.drawn.trans k.drawn, k.fuse ∘ h.fuse, h.tamper.trans k.tamper, h.testPort.trans k.testPort, k.sound ∘ h.sound⟩

/-- A state that shares with `t` every field `Onward` speaks of. -/
theorem Onward.same {o t : State} {pending' : List Instr} {time' : Word64} {drawn' : Nat} {freed' : Nat} {power' : Power} {mstate' : Nat} {phase' : Nat} {training' : Option Bool} {fcode' : BitVec 16} {tamperFuse' : Bool} {tamperCount' : Nat} {debugCount' : Nat} {nonce' : Option Bytes} {unwrapped' : Bool} {inForce' : Option BankInForce} {installation' : Option Installation} {bankFails' : Nat × Nat} {flashA' : Memory} {flashB' : Memory} {flashBroken' : Bool × Bool} {testPort' : Debug} {sideband' : Sideband} {cores' : SMap Core} {mesh' : List Msg} {outcomes' : List (Nat × Nat × Bool)} {gathers' : SMap (List TableReq)} {scatters' : SMap (List TableReq)} {reservoir' : Memory} {poison' : NatSet} {gddr' : Memory} {roots' : SMap RootRecord} {counters' : SMap CounterBlock} {channels' : SMap Channel} {tags' : SMap Tag} {tagWaits' : List Segment} {dmaTurn' : Nat} {dmaLast' : SMap Nat} {dmas' : SMap DmaRun} {pcie' : SMap PciePort} {functions' : SMap HostFn} {recovery' : SMap Recovery} {translations' : List (Nat × Option Nat × Nat)} {hostOut' : List HostOut} {ateliers' : SMap AtelierState} {leases' : SMap Lease} {leaseSerial' : BitVec 32} {contexts' : SMap Ctx} {queues' : SMap Queue} {mobjs' : SMap MObj} {fences' : SMap Fence} {images' : SMap Image} {colls' : SMap Coll} {jobs' : SMap Job} {commands' : SMap Cmd} {nextSerial' : Nat} {signals' : List (Nat × Word64 × Bool)} {collectives' : List CollRun} {reductions' : SMap Reduction} {decants' : SMap Core} {reservations' : List Nat} {panels' : SMap Panel} {flacon' : Flacon} {serving' : Serving} {opened' : List Query} {ports' : SMap DarvalPort} {sessions' : SMap Session} {erasedLeases' : NatSet} {leaseDrops' : List (Nat × Nat)} {blotter' : Blotter}
    (e_pending : pending' = t.pending) (e_drawn : drawn' = t.drawn) (e_tamperFuse : tamperFuse' = t.tamperFuse) (e_tamperCount : tamperCount' = t.tamperCount) (e_debugCount : debugCount' = t.debugCount) (e_blotter : blotter' = t.blotter) (e_mstate : mstate' = t.mstate) (e_gddr : gddr' = t.gddr) (e_reservoir : reservoir' = t.reservoir) (e_flashA : flashA' = t.flashA) (e_flashB : flashB' = t.flashB) (h : Onward o t) :
    Onward o (State.mk pending' time' drawn' freed' power' mstate' phase' training' fcode' tamperFuse' tamperCount' debugCount' nonce' unwrapped' inForce' installation' bankFails' flashA' flashB' flashBroken' testPort' sideband' cores' mesh' outcomes' gathers' scatters' reservoir' poison' gddr' roots' counters' channels' tags' tagWaits' dmaTurn' dmaLast' dmas' pcie' functions' recovery' translations' hostOut' ateliers' leases' leaseSerial' contexts' queues' mobjs' fences' images' colls' jobs' commands' nextSerial' signals' collectives' reductions' decants' reservations' panels' flacon' serving' opened' ports' sessions' erasedLeases' leaseDrops' blotter') :=
  ⟨e_pending ▸ h.queue, e_drawn ▸ h.drawn, e_tamperFuse ▸ h.fuse, e_tamperCount ▸ h.tamper, e_debugCount ▸ h.testPort, fun hs =>
    let k := h.sound hs
    ⟨e_gddr ▸ k.gddr, e_reservoir ▸ k.reservoir, e_flashA ▸ k.flashA, e_flashB ▸ k.flashB, e_blotter ▸ k.blotter, e_tamperCount ▸ k.tamper, e_debugCount ▸ k.testPort, e_mstate ▸ k.mstate⟩⟩

/-- A state that differs from `t`, of the fields `Onward` speaks of, in the memories alone, and keeps their form. -/
theorem Onward.memories {o t : State} {pending' : List Instr} {time' : Word64} {drawn' : Nat} {freed' : Nat} {power' : Power} {mstate' : Nat} {phase' : Nat} {training' : Option Bool} {fcode' : BitVec 16} {tamperFuse' : Bool} {tamperCount' : Nat} {debugCount' : Nat} {nonce' : Option Bytes} {unwrapped' : Bool} {inForce' : Option BankInForce} {installation' : Option Installation} {bankFails' : Nat × Nat} {flashA' : Memory} {flashB' : Memory} {flashBroken' : Bool × Bool} {testPort' : Debug} {sideband' : Sideband} {cores' : SMap Core} {mesh' : List Msg} {outcomes' : List (Nat × Nat × Bool)} {gathers' : SMap (List TableReq)} {scatters' : SMap (List TableReq)} {reservoir' : Memory} {poison' : NatSet} {gddr' : Memory} {roots' : SMap RootRecord} {counters' : SMap CounterBlock} {channels' : SMap Channel} {tags' : SMap Tag} {tagWaits' : List Segment} {dmaTurn' : Nat} {dmaLast' : SMap Nat} {dmas' : SMap DmaRun} {pcie' : SMap PciePort} {functions' : SMap HostFn} {recovery' : SMap Recovery} {translations' : List (Nat × Option Nat × Nat)} {hostOut' : List HostOut} {ateliers' : SMap AtelierState} {leases' : SMap Lease} {leaseSerial' : BitVec 32} {contexts' : SMap Ctx} {queues' : SMap Queue} {mobjs' : SMap MObj} {fences' : SMap Fence} {images' : SMap Image} {colls' : SMap Coll} {jobs' : SMap Job} {commands' : SMap Cmd} {nextSerial' : Nat} {signals' : List (Nat × Word64 × Bool)} {collectives' : List CollRun} {reductions' : SMap Reduction} {decants' : SMap Core} {reservations' : List Nat} {panels' : SMap Panel} {flacon' : Flacon} {serving' : Serving} {opened' : List Query} {ports' : SMap DarvalPort} {sessions' : SMap Session} {erasedLeases' : NatSet} {leaseDrops' : List (Nat × Nat)} {blotter' : Blotter}
    (e_pending : pending' = t.pending) (e_drawn : drawn' = t.drawn) (e_tamperFuse : tamperFuse' = t.tamperFuse) (e_tamperCount : tamperCount' = t.tamperCount) (e_debugCount : debugCount' = t.debugCount) (e_blotter : blotter' = t.blotter) (e_mstate : mstate' = t.mstate) (e_gddr : Memory.wf t.gddr = true → Memory.wf gddr' = true) (e_reservoir : Memory.wf t.reservoir = true → Memory.wf reservoir' = true) (e_flashA : Memory.wf t.flashA = true → Memory.wf flashA' = true) (e_flashB : Memory.wf t.flashB = true → Memory.wf flashB' = true) (h : Onward o t) :
    Onward o (State.mk pending' time' drawn' freed' power' mstate' phase' training' fcode' tamperFuse' tamperCount' debugCount' nonce' unwrapped' inForce' installation' bankFails' flashA' flashB' flashBroken' testPort' sideband' cores' mesh' outcomes' gathers' scatters' reservoir' poison' gddr' roots' counters' channels' tags' tagWaits' dmaTurn' dmaLast' dmas' pcie' functions' recovery' translations' hostOut' ateliers' leases' leaseSerial' contexts' queues' mobjs' fences' images' colls' jobs' commands' nextSerial' signals' collectives' reductions' decants' reservations' panels' flacon' serving' opened' ports' sessions' erasedLeases' leaseDrops' blotter') :=
  ⟨e_pending ▸ h.queue, e_drawn ▸ h.drawn, e_tamperFuse ▸ h.fuse, e_tamperCount ▸ h.tamper, e_debugCount ▸ h.testPort, fun hs =>
    let k := h.sound hs
    ⟨e_gddr k.gddr, e_reservoir k.reservoir, e_flashA k.flashA, e_flashB k.flashB, e_blotter ▸ k.blotter, e_tamperCount ▸ k.tamper, e_debugCount ▸ k.testPort, e_mstate ▸ k.mstate⟩⟩

/-- A state that differs from `t`, of the fields `Onward` speaks of, in the draws taken alone. -/
theorem Onward.draws {o t : State} {n : Nat} {pending' : List Instr} {time' : Word64} {drawn' : Nat} {freed' : Nat} {power' : Power} {mstate' : Nat} {phase' : Nat} {training' : Option Bool} {fcode' : BitVec 16} {tamperFuse' : Bool} {tamperCount' : Nat} {debugCount' : Nat} {nonce' : Option Bytes} {unwrapped' : Bool} {inForce' : Option BankInForce} {installation' : Option Installation} {bankFails' : Nat × Nat} {flashA' : Memory} {flashB' : Memory} {flashBroken' : Bool × Bool} {testPort' : Debug} {sideband' : Sideband} {cores' : SMap Core} {mesh' : List Msg} {outcomes' : List (Nat × Nat × Bool)} {gathers' : SMap (List TableReq)} {scatters' : SMap (List TableReq)} {reservoir' : Memory} {poison' : NatSet} {gddr' : Memory} {roots' : SMap RootRecord} {counters' : SMap CounterBlock} {channels' : SMap Channel} {tags' : SMap Tag} {tagWaits' : List Segment} {dmaTurn' : Nat} {dmaLast' : SMap Nat} {dmas' : SMap DmaRun} {pcie' : SMap PciePort} {functions' : SMap HostFn} {recovery' : SMap Recovery} {translations' : List (Nat × Option Nat × Nat)} {hostOut' : List HostOut} {ateliers' : SMap AtelierState} {leases' : SMap Lease} {leaseSerial' : BitVec 32} {contexts' : SMap Ctx} {queues' : SMap Queue} {mobjs' : SMap MObj} {fences' : SMap Fence} {images' : SMap Image} {colls' : SMap Coll} {jobs' : SMap Job} {commands' : SMap Cmd} {nextSerial' : Nat} {signals' : List (Nat × Word64 × Bool)} {collectives' : List CollRun} {reductions' : SMap Reduction} {decants' : SMap Core} {reservations' : List Nat} {panels' : SMap Panel} {flacon' : Flacon} {serving' : Serving} {opened' : List Query} {ports' : SMap DarvalPort} {sessions' : SMap Session} {erasedLeases' : NatSet} {leaseDrops' : List (Nat × Nat)} {blotter' : Blotter}
    (e_pending : pending' = t.pending) (e_drawn : drawn' = t.drawn + n) (e_tamperFuse : tamperFuse' = t.tamperFuse) (e_tamperCount : tamperCount' = t.tamperCount) (e_debugCount : debugCount' = t.debugCount) (e_blotter : blotter' = t.blotter) (e_mstate : mstate' = t.mstate) (e_gddr : gddr' = t.gddr) (e_reservoir : reservoir' = t.reservoir) (e_flashA : flashA' = t.flashA) (e_flashB : flashB' = t.flashB) (h : Onward o t) :
    Onward o (State.mk pending' time' drawn' freed' power' mstate' phase' training' fcode' tamperFuse' tamperCount' debugCount' nonce' unwrapped' inForce' installation' bankFails' flashA' flashB' flashBroken' testPort' sideband' cores' mesh' outcomes' gathers' scatters' reservoir' poison' gddr' roots' counters' channels' tags' tagWaits' dmaTurn' dmaLast' dmas' pcie' functions' recovery' translations' hostOut' ateliers' leases' leaseSerial' contexts' queues' mobjs' fences' images' colls' jobs' commands' nextSerial' signals' collectives' reductions' decants' reservations' panels' flacon' serving' opened' ports' sessions' erasedLeases' leaseDrops' blotter') :=
  ⟨e_pending ▸ h.queue, by subst e_drawn; exact h.drawn.trans (Nat.le_add_right _ _), e_tamperFuse ▸ h.fuse, e_tamperCount ▸ h.tamper, e_debugCount ▸ h.testPort, fun hs =>
    let k := h.sound hs
    ⟨e_gddr ▸ k.gddr, e_reservoir ▸ k.reservoir, e_flashA ▸ k.flashA, e_flashB ▸ k.flashB, e_blotter ▸ k.blotter, e_tamperCount ▸ k.tamper, e_debugCount ▸ k.testPort, e_mstate ▸ k.mstate⟩⟩

/-- A state that differs from `t`, of the fields `Onward` speaks of, in mstate alone, which is one of its codes. -/
theorem Onward.mode {o t : State} {pending' : List Instr} {time' : Word64} {drawn' : Nat} {freed' : Nat} {power' : Power} {mstate' : Nat} {phase' : Nat} {training' : Option Bool} {fcode' : BitVec 16} {tamperFuse' : Bool} {tamperCount' : Nat} {debugCount' : Nat} {nonce' : Option Bytes} {unwrapped' : Bool} {inForce' : Option BankInForce} {installation' : Option Installation} {bankFails' : Nat × Nat} {flashA' : Memory} {flashB' : Memory} {flashBroken' : Bool × Bool} {testPort' : Debug} {sideband' : Sideband} {cores' : SMap Core} {mesh' : List Msg} {outcomes' : List (Nat × Nat × Bool)} {gathers' : SMap (List TableReq)} {scatters' : SMap (List TableReq)} {reservoir' : Memory} {poison' : NatSet} {gddr' : Memory} {roots' : SMap RootRecord} {counters' : SMap CounterBlock} {channels' : SMap Channel} {tags' : SMap Tag} {tagWaits' : List Segment} {dmaTurn' : Nat} {dmaLast' : SMap Nat} {dmas' : SMap DmaRun} {pcie' : SMap PciePort} {functions' : SMap HostFn} {recovery' : SMap Recovery} {translations' : List (Nat × Option Nat × Nat)} {hostOut' : List HostOut} {ateliers' : SMap AtelierState} {leases' : SMap Lease} {leaseSerial' : BitVec 32} {contexts' : SMap Ctx} {queues' : SMap Queue} {mobjs' : SMap MObj} {fences' : SMap Fence} {images' : SMap Image} {colls' : SMap Coll} {jobs' : SMap Job} {commands' : SMap Cmd} {nextSerial' : Nat} {signals' : List (Nat × Word64 × Bool)} {collectives' : List CollRun} {reductions' : SMap Reduction} {decants' : SMap Core} {reservations' : List Nat} {panels' : SMap Panel} {flacon' : Flacon} {serving' : Serving} {opened' : List Query} {ports' : SMap DarvalPort} {sessions' : SMap Session} {erasedLeases' : NatSet} {leaseDrops' : List (Nat × Nat)} {blotter' : Blotter}
    (e_pending : pending' = t.pending) (e_drawn : drawn' = t.drawn) (e_tamperFuse : tamperFuse' = t.tamperFuse) (e_tamperCount : tamperCount' = t.tamperCount) (e_debugCount : debugCount' = t.debugCount) (e_blotter : blotter' = t.blotter) (e_mstate : mstate' ≤ 5) (e_gddr : gddr' = t.gddr) (e_reservoir : reservoir' = t.reservoir) (e_flashA : flashA' = t.flashA) (e_flashB : flashB' = t.flashB) (h : Onward o t) :
    Onward o (State.mk pending' time' drawn' freed' power' mstate' phase' training' fcode' tamperFuse' tamperCount' debugCount' nonce' unwrapped' inForce' installation' bankFails' flashA' flashB' flashBroken' testPort' sideband' cores' mesh' outcomes' gathers' scatters' reservoir' poison' gddr' roots' counters' channels' tags' tagWaits' dmaTurn' dmaLast' dmas' pcie' functions' recovery' translations' hostOut' ateliers' leases' leaseSerial' contexts' queues' mobjs' fences' images' colls' jobs' commands' nextSerial' signals' collectives' reductions' decants' reservations' panels' flacon' serving' opened' ports' sessions' erasedLeases' leaseDrops' blotter') :=
  ⟨e_pending ▸ h.queue, e_drawn ▸ h.drawn, e_tamperFuse ▸ h.fuse, e_tamperCount ▸ h.tamper, e_debugCount ▸ h.testPort, fun hs =>
    let k := h.sound hs
    ⟨e_gddr ▸ k.gddr, e_reservoir ▸ k.reservoir, e_flashA ▸ k.flashA, e_flashB ▸ k.flashB, e_blotter ▸ k.blotter, e_tamperCount ▸ k.tamper, e_debugCount ▸ k.testPort, e_mstate⟩⟩

/-- A fold whose every step leads onward. -/
theorem Onward.foldl {α : Type} {o : State} (f : State → α → State) (hf : ∀ (u : State) (x : α), Onward o u → Onward o (f u x)) :
    ∀ (l : List α) (t : State), Onward o t → Onward o (l.foldl f t)
  | [], _, h => h
  | x :: l, t, h => Onward.foldl f hf l (f t x) (hf t x h)

/-- A fold over a pair whose first part is a state. -/
theorem Onward.foldl_of {α β : Type} {o : State} (g : β → State) (f : β → α → β) (hf : ∀ (u : β) (x : α), Onward o (g u) → Onward o (g (f u x))) :
    ∀ (l : List α) (t : β), Onward o (g t) → Onward o (g (l.foldl f t))
  | [], _, h => h
  | x :: l, t, h => Onward.foldl_of g f hf l (f t x) (hf t x h)

/-- An optional state, or the state it stands in for. -/
theorem Onward.getD {o s : State} {x : Option State} (hx : ∀ t, x = some t → Onward o t) (h : Onward o s) : Onward o (x.getD s) := by
  cases x
  · exact h
  · exact hx _ rfl

theorem Onward.map_some {α : Type} {o : State} {f : α → State} (x : Option α) (hf : ∀ a, Onward o (f a)) : ∀ t, x.map f = some t → Onward o t := by
  intro t h
  cases x
  · cases h
  · cases h; exact hf _

theorem Onward.ite {o s t : State} {c : Prop} [Decidable c] (h1 : Onward o s) (h2 : Onward o t) : Onward o (if c then s else t) := by
  split
  · exact h1
  · exact h2

theorem Ends.next {s t : State} (h : Onward s t) : Ends s (.next t) := fun _ e => by cases e; exact h
theorem Ends.fault {s : State} (f : Fault) : Ends s (.fault f) := fun _ e => by cases e
theorem Ends.onUnit {s : State} {kind : String} {n limit : Nat} {a : Answer} (h : Ends s a) : Ends s (onUnit kind n limit a) := by
  unfold Sys2Proof.Machine.onUnit
  split
  · exact h
  · exact Ends.fault _
theorem Ends.whenDue {s u v : State} {d : Bool} (h1 : Onward s u) (h2 : Onward s v) : Ends s (whenDue d u v) := by
  unfold Sys2Proof.Machine.whenDue
  split
  · exact Ends.next h2
  · exact Ends.next h1

end Sys2Proof.Machine
end

