-- ==== Sys2Proof/Laws/OnOps.lean ====
section
/-!
SUPPORT. That every operation of Machine/Ops.lean leads onward (Safety.lean).
-/
namespace Sys2Proof.Machine

set_option linter.unusedTactic false
set_option linter.unreachableTactic false

theorem Blotter.add_room (b : Blotter) (e : BlotterEntry) (h : b.entries.length ≤ b.room) :
    (b.add e).entries.length ≤ (b.add e).room := by
  unfold Blotter.add Blotter.room
  simp only [List.length_drop, List.length_append, List.length_cons, List.length_nil]
  unfold Blotter.room at h
  omega

/-- An entry written or folded leaves the blotter within its ring. -/
theorem Blotter.write_room (b : Blotter) (e : BlotterEntry) (h : b.entries.length ≤ b.room) :
    (b.write e).entries.length ≤ (b.write e).room := by
  unfold Blotter.write
  split
  · split
    · simpa [Blotter.room] using h
    · exact Blotter.add_room b e h
  · exact Blotter.add_room b e h

theorem State.reach_onward {o : State} {s : State} {t : Word64} (h0 : Onward o s) : Onward o (State.reach s t) := by
  unfold State.reach
  try dsimp only
  repeat' first
    | with_reducible assumption
    | with_reducible exact Onward.refl _
    | with_reducible refine Onward.foldl _ (fun _ _ _ => ?_) _ _ ?_
    | with_reducible refine Onward.ite ?_ ?_
    | fail_if_no_progress (with_reducible apply Onward.same; iterate 11 (focus with_reducible rfl))
    | dsimp only
    | split

theorem State.drew_onward {o s : State} (h0 : Onward o s) : Onward o s.drew := by
  unfold State.drew
  apply Onward.draws <;> first | rfl | assumption

theorem State.setCore_onward {o : State} {s : State} {n : Nat} {c : Core} (h0 : Onward o s) : Onward o (State.setCore s n c) := by
  unfold State.setCore
  try dsimp only
  repeat' first
    | with_reducible assumption
    | with_reducible exact Onward.refl _
    | with_reducible refine Onward.foldl _ (fun _ _ _ => ?_) _ _ ?_
    | with_reducible refine Onward.ite ?_ ?_
    | fail_if_no_progress (with_reducible apply Onward.same; iterate 11 (focus with_reducible rfl))
    | dsimp only
    | split

theorem State.setAtelier_onward {o : State} {s : State} {a : Nat} {x : AtelierState} (h0 : Onward o s) : Onward o (State.setAtelier s a x) := by
  unfold State.setAtelier
  try dsimp only
  repeat' first
    | with_reducible assumption
    | with_reducible exact Onward.refl _
    | with_reducible refine Onward.foldl _ (fun _ _ _ => ?_) _ _ ?_
    | with_reducible refine Onward.ite ?_ ?_
    | fail_if_no_progress (with_reducible apply Onward.same; iterate 11 (focus with_reducible rfl))
    | dsimp only
    | split

theorem State.setLease_onward {o : State} {s : State} {a : Nat} {x : Lease} (h0 : Onward o s) : Onward o (State.setLease s a x) := by
  unfold State.setLease
  try dsimp only
  repeat' first
    | with_reducible assumption
    | with_reducible exact Onward.refl _
    | with_reducible refine Onward.foldl _ (fun _ _ _ => ?_) _ _ ?_
    | with_reducible refine Onward.ite ?_ ?_
    | fail_if_no_progress (with_reducible apply Onward.same; iterate 11 (focus with_reducible rfl))
    | dsimp only
    | split

theorem State.setPanel_onward {o : State} {s : State} {p : Nat} {x : Panel} (h0 : Onward o s) : Onward o (State.setPanel s p x) := by
  unfold State.setPanel
  try dsimp only
  repeat' first
    | with_reducible assumption
    | with_reducible exact Onward.refl _
    | with_reducible refine Onward.foldl _ (fun _ _ _ => ?_) _ _ ?_
    | with_reducible refine Onward.ite ?_ ?_
    | fail_if_no_progress (with_reducible apply Onward.same; iterate 11 (focus with_reducible rfl))
    | dsimp only
    | split

theorem State.setChannel_onward {o : State} {s : State} {c : Nat} {x : Channel} (h0 : Onward o s) : Onward o (State.setChannel s c x) := by
  unfold State.setChannel
  try dsimp only
  repeat' first
    | with_reducible assumption
    | with_reducible exact Onward.refl _
    | with_reducible refine Onward.foldl _ (fun _ _ _ => ?_) _ _ ?_
    | with_reducible refine Onward.ite ?_ ?_
    | fail_if_no_progress (with_reducible apply Onward.same; iterate 11 (focus with_reducible rfl))
    | dsimp only
    | split

theorem State.setPort_onward {o : State} {s : State} {p : Nat} {x : DarvalPort} (h0 : Onward o s) : Onward o (State.setPort s p x) := by
  unfold State.setPort
  try dsimp only
  repeat' first
    | with_reducible assumption
    | with_reducible exact Onward.refl _
    | with_reducible refine Onward.foldl _ (fun _ _ _ => ?_) _ _ ?_
    | with_reducible refine Onward.ite ?_ ?_
    | fail_if_no_progress (with_reducible apply Onward.same; iterate 11 (focus with_reducible rfl))
    | dsimp only
    | split

theorem State.setSession_onward {o : State} {s : State} {g : Nat} {x : Session} (h0 : Onward o s) : Onward o (State.setSession s g x) := by
  unfold State.setSession
  try dsimp only
  repeat' first
    | with_reducible assumption
    | with_reducible exact Onward.refl _
    | with_reducible refine Onward.foldl _ (fun _ _ _ => ?_) _ _ ?_
    | with_reducible refine Onward.ite ?_ ?_
    | fail_if_no_progress (with_reducible apply Onward.same; iterate 11 (focus with_reducible rfl))
    | dsimp only
    | split

theorem State.setPcie_onward {o : State} {s : State} {p : Nat} {x : PciePort} (h0 : Onward o s) : Onward o (State.setPcie s p x) := by
  unfold State.setPcie
  try dsimp only
  repeat' first
    | with_reducible assumption
    | with_reducible exact Onward.refl _
    | with_reducible refine Onward.foldl _ (fun _ _ _ => ?_) _ _ ?_
    | with_reducible refine Onward.ite ?_ ?_
    | fail_if_no_progress (with_reducible apply Onward.same; iterate 11 (focus with_reducible rfl))
    | dsimp only
    | split

theorem State.setFunction_onward {o : State} {s : State} {p : Nat} {f : Nat} {x : HostFn} (h0 : Onward o s) : Onward o (State.setFunction s p f x) := by
  unfold State.setFunction
  try dsimp only
  repeat' first
    | with_reducible assumption
    | with_reducible exact Onward.refl _
    | with_reducible refine Onward.foldl _ (fun _ _ _ => ?_) _ _ ?_
    | with_reducible refine Onward.ite ?_ ?_
    | fail_if_no_progress (with_reducible apply Onward.same; iterate 11 (focus with_reducible rfl))
    | dsimp only
    | split

theorem State.setRoot_onward {o : State} {s : State} {g : Nat} {x : RootRecord} (h0 : Onward o s) : Onward o (State.setRoot s g x) := by
  unfold State.setRoot
  try dsimp only
  repeat' first
    | with_reducible assumption
    | with_reducible exact Onward.refl _
    | with_reducible refine Onward.foldl _ (fun _ _ _ => ?_) _ _ ?_
    | with_reducible refine Onward.ite ?_ ?_
    | fail_if_no_progress (with_reducible apply Onward.same; iterate 11 (focus with_reducible rfl))
    | dsimp only
    | split

theorem State.setCounter_onward {o : State} {s : State} {g : Nat} {group : Nat} {x : CounterBlock} (h0 : Onward o s) : Onward o (State.setCounter s g group x) := by
  unfold State.setCounter
  try dsimp only
  repeat' first
    | with_reducible assumption
    | with_reducible exact Onward.refl _
    | with_reducible refine Onward.foldl _ (fun _ _ _ => ?_) _ _ ?_
    | with_reducible refine Onward.ite ?_ ?_
    | fail_if_no_progress (with_reducible apply Onward.same; iterate 11 (focus with_reducible rfl))
    | dsimp only
    | split

theorem State.setReduction_onward {o : State} {s : State} {d : Nat} {x : Reduction} (h0 : Onward o s) : Onward o (State.setReduction s d x) := by
  unfold State.setReduction
  try dsimp only
  repeat' first
    | with_reducible assumption
    | with_reducible exact Onward.refl _
    | with_reducible refine Onward.foldl _ (fun _ _ _ => ?_) _ _ ?_
    | with_reducible refine Onward.ite ?_ ?_
    | fail_if_no_progress (with_reducible apply Onward.same; iterate 11 (focus with_reducible rfl))
    | dsimp only
    | split

theorem State.onJob_onward {o : State} {s : State} {j : Nat} {f : Job → Job} (h0 : Onward o s) : Onward o (State.onJob s j f) := by
  unfold State.onJob
  try dsimp only
  repeat' first
    | with_reducible assumption
    | with_reducible exact Onward.refl _
    | with_reducible refine Onward.foldl _ (fun _ _ _ => ?_) _ _ ?_
    | with_reducible refine Onward.ite ?_ ?_
    | fail_if_no_progress (with_reducible apply Onward.same; iterate 11 (focus with_reducible rfl))
    | dsimp only
    | split

theorem State.onQueue_onward {o : State} {s : State} {q : Nat} {f : Queue → Queue} (h0 : Onward o s) : Onward o (State.onQueue s q f) := by
  unfold State.onQueue
  try dsimp only
  repeat' first
    | with_reducible assumption
    | with_reducible exact Onward.refl _
    | with_reducible refine Onward.foldl _ (fun _ _ _ => ?_) _ _ ?_
    | with_reducible refine Onward.ite ?_ ?_
    | fail_if_no_progress (with_reducible apply Onward.same; iterate 11 (focus with_reducible rfl))
    | dsimp only
    | split

theorem State.onCmd_onward {o : State} {s : State} {n : Nat} {f : Cmd → Cmd} (h0 : Onward o s) : Onward o (State.onCmd s n f) := by
  unfold State.onCmd
  try dsimp only
  repeat' first
    | with_reducible assumption
    | with_reducible exact Onward.refl _
    | with_reducible refine Onward.foldl _ (fun _ _ _ => ?_) _ _ ?_
    | with_reducible refine Onward.ite ?_ ?_
    | fail_if_no_progress (with_reducible apply Onward.same; iterate 11 (focus with_reducible rfl))
    | dsimp only
    | split

theorem State.onRun_onward {o : State} {s : State} {j : Nat} {f : StepRun → StepRun} (h0 : Onward o s) : Onward o (State.onRun s j f) := by
  unfold State.onRun
  try dsimp only
  repeat' first
    | with_reducible assumption
    | with_reducible exact Onward.refl _
    | with_reducible apply State.onJob_onward
    | with_reducible refine Onward.foldl _ (fun _ _ _ => ?_) _ _ ?_
    | with_reducible refine Onward.ite ?_ ?_
    | fail_if_no_progress (with_reducible apply Onward.same; iterate 11 (focus with_reducible rfl))
    | dsimp only
    | split

theorem State.log_onward {o s : State} {code : Nat} {atelier step ctx : Option Nat} {handles : List Nat} (h0 : Onward o s) :
    Onward o (s.log code atelier step ctx handles) := by
  refine ⟨h0.queue, h0.drawn, h0.fuse, h0.tamper, h0.testPort, fun hs => ?_⟩
  have k := h0.sound hs
  exact ⟨k.gddr, k.reservoir, k.flashA, k.flashB, Blotter.write_room _ _ k.blotter, k.tamper, k.testPort, k.mstate⟩

theorem State.note_onward {o : State} {s : State} {code : Nat} {handles : List Nat} (h0 : Onward o s) : Onward o (State.note s code handles) := by
  unfold State.note
  try dsimp only
  repeat' first
    | with_reducible assumption
    | with_reducible exact Onward.refl _
    | with_reducible apply State.log_onward
    | with_reducible refine Onward.foldl _ (fun _ _ _ => ?_) _ _ ?_
    | with_reducible refine Onward.ite ?_ ?_
    | fail_if_no_progress (with_reducible apply Onward.same; iterate 11 (focus with_reducible rfl))
    | dsimp only
    | split

theorem State.noteOf_onward {o : State} {s : State} {a : Option Nat} {code : Nat} {handles : List Nat} (h0 : Onward o s) : Onward o (State.noteOf s a code handles) := by
  unfold State.noteOf
  try dsimp only
  repeat' first
    | with_reducible assumption
    | with_reducible exact Onward.refl _
    | with_reducible apply State.log_onward
    | with_reducible refine Onward.foldl _ (fun _ _ _ => ?_) _ _ ?_
    | with_reducible refine Onward.ite ?_ ?_
    | fail_if_no_progress (with_reducible apply Onward.same; iterate 11 (focus with_reducible rfl))
    | dsimp only
    | split

theorem State.noteIn_onward {o : State} {s : State} {a : Nat} {code : Nat} {handles : List Nat} (h0 : Onward o s) : Onward o (State.noteIn s a code handles) := by
  unfold State.noteIn
  try dsimp only
  repeat' first
    | with_reducible assumption
    | with_reducible exact Onward.refl _
    | with_reducible apply State.log_onward
    | with_reducible refine Onward.foldl _ (fun _ _ _ => ?_) _ _ ?_
    | with_reducible refine Onward.ite ?_ ?_
    | fail_if_no_progress (with_reducible apply Onward.same; iterate 11 (focus with_reducible rfl))
    | dsimp only
    | split

theorem State.translated_onward {o : State} {s : State} {port : Nat} {pasid : Option Nat} {addr : Nat} (h0 : Onward o s) : Onward o (State.translated s port pasid addr) := by
  unfold State.translated
  try dsimp only
  repeat' first
    | with_reducible assumption
    | with_reducible exact Onward.refl _
    | with_reducible refine Onward.foldl _ (fun _ _ _ => ?_) _ _ ?_
    | with_reducible refine Onward.ite ?_ ?_
    | fail_if_no_progress (with_reducible apply Onward.same; iterate 11 (focus with_reducible rfl))
    | dsimp only
    | split

theorem State.reachHost_onward {o : State} {s : State} {tag : Nat × Option Nat} {addr : Nat} {n : Nat} (h0 : Onward o s) : Onward o (State.reachHost s tag addr n) := by
  unfold State.reachHost
  try dsimp only
  repeat' first
    | with_reducible assumption
    | with_reducible exact Onward.refl _
    | with_reducible apply State.translated_onward
    | with_reducible refine Onward.foldl _ (fun _ _ _ => ?_) _ _ ?_
    | with_reducible refine Onward.ite ?_ ?_
    | fail_if_no_progress (with_reducible apply Onward.same; iterate 11 (focus with_reducible rfl))
    | dsimp only
    | split

theorem State.hostWrite_onward {o : State} {s : State} {port : Nat} {pasid : Option Nat} {addr : Nat} {bytes : Bytes} (h0 : Onward o s) : Onward o (State.hostWrite s port pasid addr bytes) := by
  unfold State.hostWrite
  try dsimp only
  repeat' first
    | with_reducible assumption
    | with_reducible exact Onward.refl _
    | with_reducible apply State.reachHost_onward
    | with_reducible refine Onward.foldl _ (fun _ _ _ => ?_) _ _ ?_
    | with_reducible refine Onward.ite ?_ ?_
    | fail_if_no_progress (with_reducible apply Onward.same; iterate 11 (focus with_reducible rfl))
    | dsimp only
    | split

theorem State.ctxWrite_onward {o : State} {s : State} {ctx : Nat} {addr : Nat} {bytes : Bytes} (h0 : Onward o s) : Onward o (State.ctxWrite s ctx addr bytes) := by
  unfold State.ctxWrite
  try dsimp only
  repeat' first
    | with_reducible assumption
    | with_reducible exact Onward.refl _
    | with_reducible apply State.hostWrite_onward
    | with_reducible refine Onward.foldl _ (fun _ _ _ => ?_) _ _ ?_
    | with_reducible refine Onward.ite ?_ ?_
    | fail_if_no_progress (with_reducible apply Onward.same; iterate 11 (focus with_reducible rfl))
    | dsimp only
    | split

theorem State.interrupt_onward {o : State} {s : State} {a : Nat} {vector : Nat} (h0 : Onward o s) : Onward o (State.interrupt s a vector) := by
  unfold State.interrupt
  try dsimp only
  repeat' first
    | with_reducible assumption
    | with_reducible exact Onward.refl _
    | with_reducible apply State.setFunction_onward
    | with_reducible refine Onward.foldl _ (fun _ _ _ => ?_) _ _ ?_
    | with_reducible refine Onward.ite ?_ ?_
    | fail_if_no_progress (with_reducible apply Onward.same; iterate 11 (focus with_reducible rfl))
    | dsimp only
    | split

theorem State.pushCompletion_onward {o : State} {s : State} {n : Nat} {c : Completion} (h0 : Onward o s) : Onward o (State.pushCompletion s n c) := by
  unfold State.pushCompletion
  try dsimp only
  repeat' first
    | with_reducible assumption
    | with_reducible exact Onward.refl _
    | with_reducible apply State.hostWrite_onward
    | with_reducible apply State.interrupt_onward
    | with_reducible apply State.onQueue_onward
    | with_reducible refine Onward.foldl _ (fun _ _ _ => ?_) _ _ ?_
    | with_reducible refine Onward.ite ?_ ?_
    | fail_if_no_progress (with_reducible apply Onward.same; iterate 11 (focus with_reducible rfl))
    | dsimp only
    | split

theorem State.releaseHeld_onward {o : State} {n : Nat} : ∀ {fuel : Nat} {s : State}, Onward o s → Onward o (State.releaseHeld n fuel s)
  | 0, _, h => h
  | fuel + 1, s, h => by
    unfold State.releaseHeld
    split
    · exact h
    · split
      · exact h
      · split
        · exact State.releaseHeld_onward (State.pushCompletion_onward (State.onQueue_onward h))
        · exact h

theorem State.readFor_onward {o : State} {s : State} {c : Cmd} {addr : Nat} {n : Nat} (h0 : Onward o s) : Onward o (State.readFor s c addr n) := by
  unfold State.readFor
  try dsimp only
  repeat' first
    | with_reducible assumption
    | with_reducible exact Onward.refl _
    | with_reducible apply State.reachHost_onward
    | with_reducible refine Onward.foldl _ (fun _ _ _ => ?_) _ _ ?_
    | with_reducible refine Onward.ite ?_ ?_
    | fail_if_no_progress (with_reducible apply Onward.same; iterate 11 (focus with_reducible rfl))
    | dsimp only
    | split

theorem State.reference_onward {o s : State} {f : Nat → Nat} {x : ObjKind × Nat} (h0 : Onward o s) : Onward o (s.reference f x) := by
  unfold State.reference
  split <;> (with_reducible apply Onward.same; iterate 11 (focus with_reducible rfl)) <;> assumption

theorem State.refer_onward {o : State} {s : State} {f : Nat → Nat} {os : List (ObjKind × Nat)} (h0 : Onward o s) : Onward o (State.refer s f os) := by
  unfold State.refer
  try dsimp only
  repeat' first
    | with_reducible assumption
    | with_reducible exact Onward.refl _
    | with_reducible apply State.reference_onward
    | with_reducible refine Onward.foldl _ (fun _ _ _ => ?_) _ _ ?_
    | with_reducible refine Onward.ite ?_ ?_
    | fail_if_no_progress (with_reducible apply Onward.same; iterate 11 (focus with_reducible rfl))
    | dsimp only
    | split

theorem State.dropHold_onward {o s : State} {x : ObjKind × Nat} (h0 : Onward o s) : Onward o (s.dropHold x) := by
  unfold State.dropHold
  repeat' first
    | with_reducible assumption
    | with_reducible apply State.refer_onward
    | fail_if_no_progress (with_reducible apply Onward.same; iterate 11 (focus with_reducible rfl))
    | split

theorem State.latchNext_onward {o : State} {s : State} {queue : Nat} (h0 : Onward o s) : Onward o (State.latchNext s queue) := by
  unfold State.latchNext
  try dsimp only
  repeat' first
    | with_reducible assumption
    | with_reducible exact Onward.refl _
    | with_reducible apply State.onCmd_onward
    | with_reducible refine Onward.foldl _ (fun _ _ _ => ?_) _ _ ?_
    | with_reducible refine Onward.ite ?_ ?_
    | fail_if_no_progress (with_reducible apply Onward.same; iterate 11 (focus with_reducible rfl))
    | dsimp only
    | split

theorem State.endCommand_onward {o : State} {s : State} {n : Nat} {status : Nat} {result : Nat} {signals : Bool} (h0 : Onward o s) : Onward o (State.endCommand s n status result signals) := by
  unfold State.endCommand
  try dsimp only
  repeat' first
    | with_reducible assumption
    | with_reducible exact Onward.refl _
    | with_reducible apply State.dropHold_onward
    | with_reducible apply State.latchNext_onward
    | with_reducible apply State.pushCompletion_onward
    | with_reducible apply State.refer_onward
    | with_reducible refine Onward.foldl _ (fun _ _ _ => ?_) _ _ ?_
    | with_reducible refine Onward.ite ?_ ?_
    | fail_if_no_progress (with_reducible apply Onward.same; iterate 11 (focus with_reducible rfl))
    | dsimp only
    | split

theorem State.finish_onward {o : State} {s : State} {n : Nat} {status : Nat} {result : Nat} (h0 : Onward o s) : Onward o (State.finish s n status result) := by
  unfold State.finish
  try dsimp only
  repeat' first
    | with_reducible assumption
    | with_reducible exact Onward.refl _
    | with_reducible apply State.endCommand_onward
    | with_reducible refine Onward.foldl _ (fun _ _ _ => ?_) _ _ ?_
    | with_reducible refine Onward.ite ?_ ?_
    | fail_if_no_progress (with_reducible apply Onward.same; iterate 11 (focus with_reducible rfl))
    | dsimp only
    | split

theorem State.refuse_onward {o : State} {s : State} {n : Nat} {status : Nat} {result : Nat} (h0 : Onward o s) : Onward o (State.refuse s n status result) := by
  unfold State.refuse
  try dsimp only
  repeat' first
    | with_reducible assumption
    | with_reducible exact Onward.refl _
    | with_reducible apply State.endCommand_onward
    | with_reducible apply State.log_onward
    | with_reducible refine Onward.foldl _ (fun _ _ _ => ?_) _ _ ?_
    | with_reducible refine Onward.ite ?_ ?_
    | fail_if_no_progress (with_reducible apply Onward.same; iterate 11 (focus with_reducible rfl))
    | dsimp only
    | split

theorem State.halfRate_onward {o : State} {s : State} {u : Nat} {t : State} (h0 : Onward o s) (h1 : Onward o t) : Onward o (State.halfRate s u t) := by
  unfold State.halfRate
  try dsimp only
  repeat' first
    | with_reducible assumption
    | with_reducible exact Onward.refl _
    | with_reducible refine Onward.foldl _ (fun _ _ _ => ?_) _ _ ?_
    | with_reducible refine Onward.ite ?_ ?_
    | fail_if_no_progress (with_reducible apply Onward.same; iterate 11 (focus with_reducible rfl))
    | dsimp only
    | split

theorem State.takeTag_onward {o : State} {s : State} {a : Nat} {n : Nat} {engine : Nat} (h0 : Onward o s) : Onward o (State.takeTag s a n engine) := by
  unfold State.takeTag
  try dsimp only
  repeat' first
    | with_reducible assumption
    | with_reducible exact Onward.refl _
    | with_reducible refine Onward.foldl _ (fun _ _ _ => ?_) _ _ ?_
    | with_reducible refine Onward.ite ?_ ?_
    | fail_if_no_progress (with_reducible apply Onward.same; iterate 11 (focus with_reducible rfl))
    | dsimp only
    | split

theorem State.takeModuleTag_onward {o : State} {s : State} {n : Nat} {engine : Nat} (h0 : Onward o s) : Onward o (State.takeModuleTag s n engine) := by
  unfold State.takeModuleTag
  try dsimp only
  repeat' first
    | with_reducible assumption
    | with_reducible exact Onward.refl _
    | with_reducible refine Onward.foldl _ (fun _ _ _ => ?_) _ _ ?_
    | with_reducible refine Onward.ite ?_ ?_
    | fail_if_no_progress (with_reducible apply Onward.same; iterate 11 (focus with_reducible rfl))
    | dsimp only
    | split

theorem State.dropTag_onward {o : State} {s : State} {n : Nat} (h0 : Onward o s) : Onward o (State.dropTag s n) := by
  unfold State.dropTag
  try dsimp only
  repeat' first
    | with_reducible assumption
    | with_reducible exact Onward.refl _
    | with_reducible refine Onward.foldl _ (fun _ _ _ => ?_) _ _ ?_
    | with_reducible refine Onward.ite ?_ ?_
    | fail_if_no_progress (with_reducible apply Onward.same; iterate 11 (focus with_reducible rfl))
    | dsimp only
    | split

theorem State.dropTag?_onward {o s : State} {x : Option Nat} (h0 : Onward o s) : Onward o (s.dropTag? x) := by
  unfold State.dropTag?
  split
  · exact State.dropTag_onward h0
  · exact h0

theorem State.poisonLine_onward {o : State} {s : State} {g : Nat} {line : Nat} (h0 : Onward o s) : Onward o (State.poisonLine s g line) := by
  unfold State.poisonLine
  try dsimp only
  repeat' first
    | with_reducible assumption
    | with_reducible exact Onward.refl _
    | with_reducible apply State.setCounter_onward
    | with_reducible refine Onward.foldl _ (fun _ _ _ => ?_) _ _ ?_
    | with_reducible refine Onward.ite ?_ ?_
    | fail_if_no_progress (with_reducible apply Onward.same; iterate 11 (focus with_reducible rfl))
    | dsimp only
    | split

theorem State.loseGroup_onward {o : State} {s : State} {g : Nat} {group : Nat} (h0 : Onward o s) : Onward o (State.loseGroup s g group) := by
  unfold State.loseGroup
  try dsimp only
  repeat' first
    | with_reducible assumption
    | with_reducible exact Onward.refl _
    | with_reducible apply State.setRoot_onward
    | with_reducible refine Onward.foldl _ (fun _ _ _ => ?_) _ _ ?_
    | with_reducible refine Onward.ite ?_ ?_
    | fail_if_no_progress (with_reducible apply Onward.same; iterate 11 (focus with_reducible rfl))
    | dsimp only
    | split

theorem State.passLines_onward {o : State} {s : State} {g : Nat} {dest : Nat} (h0 : Onward o s) : Onward o (State.passLines s g dest) := by
  unfold State.passLines
  try dsimp only
  repeat' first
    | with_reducible assumption
    | with_reducible exact Onward.refl _
    | with_reducible apply State.setRoot_onward
    | with_reducible refine Onward.foldl _ (fun _ _ _ => ?_) _ _ ?_
    | with_reducible refine Onward.ite ?_ ?_
    | fail_if_no_progress (with_reducible apply Onward.same; iterate 11 (focus with_reducible rfl))
    | dsimp only
    | split

theorem State.endRekey_onward {o : State} {s : State} {g : Nat} (h0 : Onward o s) : Onward o (State.endRekey s g) := by
  unfold State.endRekey
  try dsimp only
  repeat' first
    | with_reducible assumption
    | with_reducible exact Onward.refl _
    | with_reducible apply State.noteOf_onward
    | with_reducible apply State.passLines_onward
    | with_reducible apply State.setRoot_onward
    | with_reducible refine Onward.foldl _ (fun _ _ _ => ?_) _ _ ?_
    | with_reducible refine Onward.ite ?_ ?_
    | fail_if_no_progress (with_reducible apply Onward.same; iterate 11 (focus with_reducible rfl))
    | dsimp only
    | split

theorem State.bumpLine_onward {o : State} {s : State} {g : Nat} {line : Nat} (h0 : Onward o s) : Onward o (State.bumpLine s g line) := by
  unfold State.bumpLine
  try dsimp only
  repeat' first
    | with_reducible assumption
    | with_reducible exact Onward.refl _
    | with_reducible apply State.setCounter_onward
    | with_reducible apply State.setRoot_onward
    | with_reducible refine Onward.foldl _ (fun _ _ _ => ?_) _ _ ?_
    | with_reducible refine Onward.ite ?_ ?_
    | fail_if_no_progress (with_reducible apply Onward.same; iterate 11 (focus with_reducible rfl))
    | dsimp only
    | split

theorem State.firstWrite_onward {o : State} {s : State} {g : Nat} {line : Nat} (h0 : Onward o s) : Onward o (State.firstWrite s g line) := by
  unfold State.firstWrite
  try dsimp only
  repeat' first
    | with_reducible assumption
    | with_reducible exact Onward.refl _
    | with_reducible apply State.setCounter_onward
    | with_reducible refine Onward.foldl _ (fun _ _ _ => ?_) _ _ ?_
    | with_reducible refine Onward.ite ?_ ?_
    | fail_if_no_progress (with_reducible apply Onward.same; iterate 11 (focus with_reducible rfl))
    | dsimp only
    | split

theorem State.writeLine_onward {o : State} {s : State} {g : Nat} {line : Nat} {data : Bytes} (h0 : Onward o s) : Onward o (State.writeLine s g line data) := by
  unfold State.writeLine
  try dsimp only
  repeat' first
    | with_reducible assumption
    | with_reducible exact Onward.refl _
    | with_reducible apply State.bumpLine_onward
    | with_reducible apply State.endRekey_onward
    | with_reducible apply State.firstWrite_onward
    | with_reducible refine Onward.foldl _ (fun _ _ _ => ?_) _ _ ?_
    | with_reducible refine Onward.ite ?_ ?_
    | fail_if_no_progress (with_reducible apply Onward.same; iterate 11 (focus with_reducible rfl))
    | fail_if_no_progress (with_reducible apply Onward.memories; (all_goals try with_reducible rfl); all_goals try first | exact id | exact Memory.writeBytes_wf _ _ _ | exact Memory.clear_wf _ _ _ | exact Memory.filter_wf _ _ | exact fun _ => Memory.nil_wf)
    | dsimp only
    | split

theorem Store.gddrPiece_onward {o : State} {x : Store} {addr : Nat} {bs : Bytes} (h0 : Onward o x.state) : Onward o (Store.gddrPiece x addr bs).state := by
  unfold Store.gddrPiece
  try dsimp only
  repeat' first
    | with_reducible assumption
    | with_reducible exact Onward.refl _
    | with_reducible apply State.writeLine_onward
    | with_reducible refine Onward.foldl _ (fun _ _ _ => ?_) _ _ ?_
    | with_reducible refine Onward.ite ?_ ?_
    | fail_if_no_progress (with_reducible apply Onward.same; iterate 11 (focus with_reducible rfl))
    | dsimp only
    | split

theorem Store.resPiece_onward {o : State} {x : Store} {addr : Nat} {bs : Bytes} (h0 : Onward o x.state) : Onward o (Store.resPiece x addr bs).state := by
  unfold Store.resPiece
  try dsimp only
  repeat' first
    | with_reducible assumption
    | with_reducible exact Onward.refl _
    | with_reducible refine Onward.foldl _ (fun _ _ _ => ?_) _ _ ?_
    | with_reducible refine Onward.ite ?_ ?_
    | fail_if_no_progress (with_reducible apply Onward.same; iterate 11 (focus with_reducible rfl))
    | fail_if_no_progress (with_reducible apply Onward.memories; (all_goals try with_reducible rfl); all_goals try first | exact id | exact Memory.writeBytes_wf _ _ _ | exact Memory.clear_wf _ _ _ | exact Memory.filter_wf _ _ | exact fun _ => Memory.nil_wf)
    | dsimp only
    | split

theorem State.store_onward {o s : State} {ctx va : Nat} {bs : Bytes} (h0 : Onward o s) : Onward o (s.store ctx va bs).state := by
  unfold State.store
  refine Onward.foldl_of (fun x : Store => x.state) _ (fun x p hx => ?_) _ _ h0
  try dsimp only
  split
  · exact hx
  · split
    · exact Store.gddrPiece_onward hx
    · exact Onward.foldl_of (fun x : Store => x.state) _ (fun y q hy => Store.resPiece_onward hy) _ _ hx

theorem State.retireAt_onward {o : State} {s : State} {p : Place} (h0 : Onward o s) : Onward o (State.retireAt s p) := by
  unfold State.retireAt
  try dsimp only
  repeat' first
    | with_reducible assumption
    | with_reducible exact Onward.refl _
    | with_reducible apply State.endRekey_onward
    | with_reducible refine Onward.foldl _ (fun _ _ _ => ?_) _ _ ?_
    | with_reducible refine Onward.ite ?_ ?_
    | fail_if_no_progress (with_reducible apply Onward.same; iterate 11 (focus with_reducible rfl))
    | dsimp only
    | split

theorem State.retireRun_onward {o : State} {s : State} {ctx : Nat} {va : Nat} {n : Nat} (h0 : Onward o s) : Onward o (State.retireRun s ctx va n) := by
  unfold State.retireRun
  try dsimp only
  repeat' first
    | with_reducible assumption
    | with_reducible exact Onward.refl _
    | with_reducible apply State.retireAt_onward
    | with_reducible refine Onward.foldl _ (fun _ _ _ => ?_) _ _ ?_
    | with_reducible refine Onward.ite ?_ ?_
    | fail_if_no_progress (with_reducible apply Onward.same; iterate 11 (focus with_reducible rfl))
    | dsimp only
    | split

theorem State.zeroGroup_onward {o : State} {s : State} {g : Nat} {group : Nat} (h0 : Onward o s) : Onward o (State.zeroGroup s g group) := by
  unfold State.zeroGroup
  try dsimp only
  repeat' first
    | with_reducible assumption
    | with_reducible exact Onward.refl _
    | with_reducible apply State.writeLine_onward
    | with_reducible refine Onward.foldl _ (fun _ _ _ => ?_) _ _ ?_
    | with_reducible refine Onward.ite ?_ ?_
    | fail_if_no_progress (with_reducible apply Onward.same; iterate 11 (focus with_reducible rfl))
    | dsimp only
    | split

theorem State.zeroPage_onward {o : State} {s : State} {gddr : Bool} {page : Nat} (h0 : Onward o s) : Onward o (State.zeroPage s gddr page) := by
  unfold State.zeroPage
  try dsimp only
  repeat' first
    | with_reducible assumption
    | with_reducible exact Onward.refl _
    | with_reducible apply State.zeroGroup_onward
    | with_reducible refine Onward.foldl _ (fun _ _ _ => ?_) _ _ ?_
    | with_reducible refine Onward.ite ?_ ?_
    | fail_if_no_progress (with_reducible apply Onward.same; iterate 11 (focus with_reducible rfl))
    | fail_if_no_progress (with_reducible apply Onward.memories; (all_goals try with_reducible rfl); all_goals try first | exact id | exact Memory.writeBytes_wf _ _ _ | exact Memory.clear_wf _ _ _ | exact Memory.filter_wf _ _ | exact fun _ => Memory.nil_wf)
    | dsimp only
    | split

theorem State.clearRegion_onward {o : State} {s : State} {g : Nat} (h0 : Onward o s) : Onward o (State.clearRegion s g) := by
  unfold State.clearRegion
  try dsimp only
  repeat' first
    | with_reducible assumption
    | with_reducible exact Onward.refl _
    | with_reducible apply State.setRoot_onward
    | with_reducible refine Onward.foldl _ (fun _ _ _ => ?_) _ _ ?_
    | with_reducible refine Onward.ite ?_ ?_
    | fail_if_no_progress (with_reducible apply Onward.same; iterate 11 (focus with_reducible rfl))
    | fail_if_no_progress (with_reducible apply Onward.memories; (all_goals try with_reducible rfl); all_goals try first | exact id | exact Memory.writeBytes_wf _ _ _ | exact Memory.clear_wf _ _ _ | exact Memory.filter_wf _ _ | exact fun _ => Memory.nil_wf)
    | dsimp only
    | split

end Sys2Proof.Machine
end

