-- ==== Sys2Proof/Laws/OnLinkOps.lean ====
section
/-!
SUPPORT. That every operation of Machine/LinkOps.lean leads onward (Safety.lean).
-/
namespace Sys2Proof.Machine

set_option linter.unusedTactic false
set_option linter.unreachableTactic false

theorem State.takeLinkTag_onward {o : State} {s : State} {lease : Nat} (h0 : Onward o s) : Onward o (State.takeLinkTag s lease) := by
  unfold State.takeLinkTag
  try dsimp only
  repeat' first
    | with_reducible assumption
    | with_reducible exact Onward.refl _
    | with_reducible apply State.takeModuleTag_onward
    | with_reducible apply State.takeTag_onward
    | with_reducible refine Onward.foldl _ (fun _ _ _ => ?_) _ _ ?_
    | with_reducible refine Onward.ite ?_ ?_
    | fail_if_no_progress (with_reducible apply Onward.same; iterate 11 (focus with_reducible rfl))
    | dsimp only
    | split

theorem State.sendPacket_onward {o : State} {s : State} {peer : Nat} {vc : Nat} {ptype : Nat} {lease : Nat} {info : List (Nat × Nat × Nat)} {payload : Bytes} {seg : Option (Nat × Nat)} (h0 : Onward o s) : Onward o (State.sendPacket s peer vc ptype lease info payload seg) := by
  unfold State.sendPacket
  try dsimp only
  repeat' first
    | with_reducible assumption
    | with_reducible exact Onward.refl _
    | with_reducible apply State.setPort_onward
    | with_reducible apply State.takeLinkTag_onward
    | with_reducible refine Onward.foldl _ (fun _ _ _ => ?_) _ _ ?_
    | with_reducible refine Onward.ite ?_ ?_
    | fail_if_no_progress (with_reducible apply Onward.same; iterate 11 (focus with_reducible rfl))
    | dsimp only
    | split

theorem State.settleReply_onward {o : State} {s : State} {n : Nat} (h0 : Onward o s) : Onward o (State.settleReply s n) := by
  unfold State.settleReply
  try dsimp only
  repeat' first
    | with_reducible assumption
    | with_reducible exact Onward.refl _
    | with_reducible apply State.finish_onward
    | with_reducible apply State.reply_onward
    | with_reducible refine Onward.foldl _ (fun _ _ _ => ?_) _ _ ?_
    | with_reducible refine Onward.ite ?_ ?_
    | fail_if_no_progress (with_reducible apply Onward.same; iterate 11 (focus with_reducible rfl))
    | dsimp only
    | split

theorem State.answerSegment_onward {o : State} {s : State} {seg : Option (Nat × Nat)} {result : Nat} (h0 : Onward o s) : Onward o (State.answerSegment s seg result) := by
  unfold State.answerSegment
  try dsimp only
  repeat' first
    | with_reducible assumption
    | with_reducible exact Onward.refl _
    | with_reducible apply State.settleReply_onward
    | with_reducible refine Onward.foldl _ (fun _ _ _ => ?_) _ _ ?_
    | with_reducible refine Onward.ite ?_ ?_
    | fail_if_no_progress (with_reducible apply Onward.same; iterate 11 (focus with_reducible rfl))
    | dsimp only
    | split

theorem State.discardWaiting_onward {o : State} {s : State} {w : Waiting} (h0 : Onward o s) : Onward o (State.discardWaiting s w) := by
  unfold State.discardWaiting
  try dsimp only
  repeat' first
    | with_reducible assumption
    | with_reducible exact Onward.refl _
    | with_reducible apply State.answerSegment_onward
    | with_reducible apply State.dropTag?_onward
    | with_reducible refine Onward.foldl _ (fun _ _ _ => ?_) _ _ ?_
    | with_reducible refine Onward.ite ?_ ?_
    | fail_if_no_progress (with_reducible apply Onward.same; iterate 11 (focus with_reducible rfl))
    | dsimp only
    | split

theorem State.discardAt_onward {o : State} {s : State} {p : Nat} {vc : Nat} {pick : Waiting → Bool} (h0 : Onward o s) : Onward o (State.discardAt s p vc pick) := by
  unfold State.discardAt
  try dsimp only
  repeat' first
    | with_reducible assumption
    | with_reducible exact Onward.refl _
    | with_reducible apply State.discardWaiting_onward
    | with_reducible apply State.setPort_onward
    | with_reducible refine Onward.foldl _ (fun _ _ _ => ?_) _ _ ?_
    | with_reducible refine Onward.ite ?_ ?_
    | fail_if_no_progress (with_reducible apply Onward.same; iterate 11 (focus with_reducible rfl))
    | dsimp only
    | split

theorem State.discardQueued_onward {o : State} {s : State} {pick : Waiting → Bool} (h0 : Onward o s) : Onward o (State.discardQueued s pick) := by
  unfold State.discardQueued
  try dsimp only
  repeat' first
    | with_reducible assumption
    | with_reducible exact Onward.refl _
    | with_reducible apply State.discardAt_onward
    | with_reducible refine Onward.foldl _ (fun _ _ _ => ?_) _ _ ?_
    | with_reducible refine Onward.ite ?_ ?_
    | fail_if_no_progress (with_reducible apply Onward.same; iterate 11 (focus with_reducible rfl))
    | dsimp only
    | split

theorem State.dropLeasePackets_onward {o : State} {s : State} {lease : Nat} (h0 : Onward o s) : Onward o (State.dropLeasePackets s lease) := by
  unfold State.dropLeasePackets
  try dsimp only
  repeat' first
    | with_reducible assumption
    | with_reducible exact Onward.refl _
    | with_reducible apply State.discardQueued_onward
    | with_reducible refine Onward.foldl _ (fun _ _ _ => ?_) _ _ ?_
    | with_reducible refine Onward.ite ?_ ?_
    | fail_if_no_progress (with_reducible apply Onward.same; iterate 11 (focus with_reducible rfl))
    | dsimp only
    | split

theorem State.sendAbort_onward {o : State} {s : State} {peer : Nat} {lease : Nat} {seq : Nat} {reason : Nat} {fprint : Nat} {step : Nat} (h0 : Onward o s) : Onward o (State.sendAbort s peer lease seq reason fprint step) := by
  unfold State.sendAbort
  try dsimp only
  repeat' first
    | with_reducible assumption
    | with_reducible exact Onward.refl _
    | with_reducible apply State.sendPacket_onward
    | with_reducible refine Onward.foldl _ (fun _ _ _ => ?_) _ _ ?_
    | with_reducible refine Onward.ite ?_ ?_
    | fail_if_no_progress (with_reducible apply Onward.same; iterate 11 (focus with_reducible rfl))
    | dsimp only
    | split

theorem State.abortMembers_onward {o : State} {s : State} {j : Job} {seq : Nat} {reason : Nat} {fprint : Nat} {step : Nat} (h0 : Onward o s) : Onward o (State.abortMembers s j seq reason fprint step) := by
  unfold State.abortMembers
  try dsimp only
  repeat' first
    | with_reducible assumption
    | with_reducible exact Onward.refl _
    | with_reducible apply State.sendAbort_onward
    | with_reducible refine Onward.foldl _ (fun _ _ _ => ?_) _ _ ?_
    | with_reducible refine Onward.ite ?_ ?_
    | fail_if_no_progress (with_reducible apply Onward.same; iterate 11 (focus with_reducible rfl))
    | dsimp only
    | split

end Sys2Proof.Machine
end

