-- ==== Sys2Proof/Laws/OnRows.lean ====
section
/-!
SUPPORT. That every operation of Machine/Rows.lean leads onward (Safety.lean).
-/
namespace Sys2Proof.Machine

set_option linter.unusedTactic false
set_option linter.unreachableTactic false

theorem State.storeWhole_onward {o : State} {s : State} {ctx : Nat} {va : Nat} {bs : Bytes} (h0 : Onward o s) : Onward o (State.storeWhole s ctx va bs).state := by
  unfold State.storeWhole
  try dsimp only
  repeat' first
    | with_reducible assumption
    | with_reducible exact Onward.refl _
    | with_reducible apply State.retireRun_onward
    | with_reducible apply State.store_onward
    | with_reducible refine Onward.foldl _ (fun _ _ _ => ?_) _ _ ?_
    | with_reducible refine Onward.ite ?_ ?_
    | fail_if_no_progress (with_reducible apply Onward.same; iterate 11 (focus with_reducible rfl))
    | dsimp only
    | split

theorem State.leaveSome_onward {o : State} {s : State} {r : TableReq} {rows : List Nat} (h0 : Onward o s) : Onward o (State.leaveSome s r rows) := by
  unfold State.leaveSome
  try dsimp only
  repeat' first
    | with_reducible assumption
    | with_reducible exact Onward.refl _
    | with_reducible apply State.storeWhole_onward
    | with_reducible refine Onward.foldl _ (fun _ _ _ => ?_) _ _ ?_
    | with_reducible refine Onward.ite ?_ ?_
    | fail_if_no_progress (with_reducible apply Onward.same; iterate 11 (focus with_reducible rfl))
    | dsimp only
    | split

theorem State.leaveRows_onward {o : State} {s : State} {r : TableReq} (h0 : Onward o s) : Onward o (State.leaveRows s r) := by
  unfold State.leaveRows
  try dsimp only
  repeat' first
    | with_reducible assumption
    | with_reducible exact Onward.refl _
    | with_reducible apply State.leaveSome_onward
    | with_reducible refine Onward.foldl _ (fun _ _ _ => ?_) _ _ ?_
    | with_reducible refine Onward.ite ?_ ?_
    | fail_if_no_progress (with_reducible apply Onward.same; iterate 11 (focus with_reducible rfl))
    | dsimp only
    | split

end Sys2Proof.Machine
end

