-- ==== Sys2Proof/Laws/OnFaults.lean ====
section
/-!
SUPPORT. That every operation of Machine/Faults.lean leads onward (Safety.lean).
-/
namespace Sys2Proof.Machine

set_option linter.unusedTactic false
set_option linter.unreachableTactic false

theorem State.onCores_onward {o : State} {s : State} {a : Nat} {f : Core → Core} (h0 : Onward o s) : Onward o (State.onCores s a f) := by
  unfold State.onCores
  try dsimp only
  repeat' first
    | with_reducible assumption
    | with_reducible exact Onward.refl _
    | with_reducible apply State.setCore_onward
    | with_reducible refine Onward.foldl _ (fun _ _ _ => ?_) _ _ ?_
    | with_reducible refine Onward.ite ?_ ?_
    | fail_if_no_progress (with_reducible apply Onward.same; iterate 11 (focus with_reducible rfl))
    | dsimp only
    | split

theorem State.discardCommands_onward {o : State} {s : State} {a : Nat} {keep : Option Nat} (h0 : Onward o s) : Onward o (State.discardCommands s a keep) := by
  unfold State.discardCommands
  try dsimp only
  repeat' first
    | with_reducible assumption
    | with_reducible exact Onward.refl _
    | with_reducible apply State.finish_onward
    | with_reducible refine Onward.foldl _ (fun _ _ _ => ?_) _ _ ?_
    | with_reducible refine Onward.ite ?_ ?_
    | fail_if_no_progress (with_reducible apply Onward.same; iterate 11 (focus with_reducible rfl))
    | dsimp only
    | split

theorem State.abortWork_onward {o : State} {s : State} {a : Nat} {code : Nat} (h0 : Onward o s) : Onward o (State.abortWork s a code) := by
  unfold State.abortWork
  try dsimp only
  repeat' first
    | with_reducible assumption
    | with_reducible exact Onward.refl _
    | with_reducible apply State.abortMembers_onward
    | with_reducible refine Onward.foldl _ (fun _ _ _ => ?_) _ _ ?_
    | with_reducible refine Onward.ite ?_ ?_
    | fail_if_no_progress (with_reducible apply Onward.same; iterate 11 (focus with_reducible rfl))
    | dsimp only
    | split

theorem State.dropChunks_onward {o : State} {s : State} {a : Nat} (h0 : Onward o s) : Onward o (State.dropChunks s a) := by
  unfold State.dropChunks
  try dsimp only
  repeat' first
    | with_reducible assumption
    | with_reducible exact Onward.refl _
    | with_reducible refine Onward.foldl _ (fun _ _ _ => ?_) _ _ ?_
    | with_reducible refine Onward.ite ?_ ?_
    | fail_if_no_progress (with_reducible apply Onward.same; iterate 11 (focus with_reducible rfl))
    | dsimp only
    | split

theorem State.breakAll_onward {o : State} {s : State} {j : Job} (h0 : Onward o s) : Onward o (State.breakAll s j) := by
  unfold State.breakAll
  try dsimp only
  repeat' first
    | with_reducible assumption
    | with_reducible exact Onward.refl _
    | with_reducible apply State.store_onward
    | with_reducible refine Onward.foldl _ (fun _ _ _ => ?_) _ _ ?_
    | with_reducible refine Onward.ite ?_ ?_
    | fail_if_no_progress (with_reducible apply Onward.same; iterate 11 (focus with_reducible rfl))
    | dsimp only
    | split

theorem State.discardServing_onward {o : State} {s : State} {a : Nat} (h0 : Onward o s) : Onward o (State.discardServing s a) := by
  unfold State.discardServing
  try dsimp only
  repeat' first
    | with_reducible assumption
    | with_reducible exact Onward.refl _
    | with_reducible apply State.breakAll_onward
    | with_reducible refine Onward.foldl _ (fun _ _ _ => ?_) _ _ ?_
    | with_reducible refine Onward.ite ?_ ?_
    | fail_if_no_progress (with_reducible apply Onward.same; iterate 11 (focus with_reducible rfl))
    | dsimp only
    | split

theorem State.dropSegments_onward {o : State} {s : State} {a : Nat} (h0 : Onward o s) : Onward o (State.dropSegments s a) := by
  unfold State.dropSegments
  try dsimp only
  repeat' first
    | with_reducible assumption
    | with_reducible exact Onward.refl _
    | with_reducible apply State.dropTag?_onward
    | with_reducible refine Onward.foldl _ (fun _ _ _ => ?_) _ _ ?_
    | with_reducible refine Onward.ite ?_ ?_
    | fail_if_no_progress (with_reducible apply Onward.same; iterate 11 (focus with_reducible rfl))
    | dsimp only
    | split

theorem State.dropRequests_onward {o : State} {s : State} {a : Nat} (h0 : Onward o s) : Onward o (State.dropRequests s a) := by
  unfold State.dropRequests
  try dsimp only
  repeat' first
    | with_reducible assumption
    | with_reducible exact Onward.refl _
    | with_reducible apply State.leaveRows_onward
    | with_reducible refine Onward.foldl _ (fun _ _ _ => ?_) _ _ ?_
    | with_reducible refine Onward.ite ?_ ?_
    | fail_if_no_progress (with_reducible apply Onward.same; iterate 11 (focus with_reducible rfl))
    | dsimp only
    | split

theorem State.discard_onward {o : State} {s : State} {a : Nat} {code : Nat} (h0 : Onward o s) : Onward o (State.discard s a code) := by
  unfold State.discard
  try dsimp only
  repeat' first
    | with_reducible assumption
    | with_reducible exact Onward.refl _
    | with_reducible apply State.abortWork_onward
    | with_reducible apply State.discardCommands_onward
    | with_reducible apply State.discardServing_onward
    | with_reducible apply State.dropChunks_onward
    | with_reducible apply State.dropRequests_onward
    | with_reducible apply State.dropSegments_onward
    | with_reducible apply State.onCores_onward
    | with_reducible refine Onward.foldl _ (fun _ _ _ => ?_) _ _ ?_
    | with_reducible refine Onward.ite ?_ ?_
    | fail_if_no_progress (with_reducible apply Onward.same; iterate 11 (focus with_reducible rfl))
    | dsimp only
    | split

theorem State.faultAtelier_onward {o : State} {s : State} {a : Nat} {code : Nat} {step : Option Nat} {ctx : Option Nat} {handles : List Nat} (h0 : Onward o s) : Onward o (State.faultAtelier s a code step ctx handles) := by
  unfold State.faultAtelier
  try dsimp only
  repeat' first
    | with_reducible assumption
    | with_reducible exact Onward.refl _
    | with_reducible apply State.discard_onward
    | with_reducible apply State.log_onward
    | with_reducible apply State.setAtelier_onward
    | with_reducible refine Onward.foldl _ (fun _ _ _ => ?_) _ _ ?_
    | with_reducible refine Onward.ite ?_ ?_
    | fail_if_no_progress (with_reducible apply Onward.same; iterate 11 (focus with_reducible rfl))
    | dsimp only
    | split

theorem Store.settle_onward {o : State} {x : Store} (h0 : Onward o x.state) : Onward o (Store.settle x) := by
  unfold Store.settle
  try dsimp only
  repeat' first
    | with_reducible assumption
    | with_reducible exact Onward.refl _
    | with_reducible apply State.faultAtelier_onward
    | with_reducible apply State.poisonLine_onward
    | with_reducible refine Onward.foldl _ (fun _ _ _ => ?_) _ _ ?_
    | with_reducible refine Onward.ite ?_ ?_
    | fail_if_no_progress (with_reducible apply Onward.same; iterate 11 (focus with_reducible rfl))
    | dsimp only
    | split

theorem State.forgetLease_onward {o : State} {s : State} {l : Lease} {lnum : Nat} (h0 : Onward o s) : Onward o (State.forgetLease s l lnum) := by
  unfold State.forgetLease
  try dsimp only
  repeat' first
    | with_reducible assumption
    | with_reducible exact Onward.refl _
    | with_reducible apply State.dropLeasePackets_onward
    | with_reducible refine Onward.foldl _ (fun _ _ _ => ?_) _ _ ?_
    | with_reducible refine Onward.ite ?_ ?_
    | fail_if_no_progress (with_reducible apply Onward.same; iterate 11 (focus with_reducible rfl))
    | dsimp only
    | split

theorem announce_onward {o : State} {old : State} {new : State} (h0 : Onward o old) (h1 : Onward o new) : Onward o (announce old new) := by
  unfold announce
  try dsimp only
  repeat' first
    | with_reducible assumption
    | with_reducible exact Onward.refl _
    | with_reducible refine Onward.foldl _ (fun _ _ _ => ?_) _ _ ?_
    | with_reducible refine Onward.ite ?_ ?_
    | fail_if_no_progress (with_reducible apply Onward.same; iterate 11 (focus with_reducible rfl))
    | dsimp only
    | split

theorem State.beginDrain_onward {o : State} {s : State} {a : Nat} (h0 : Onward o s) : Onward o (State.beginDrain s a) := by
  unfold State.beginDrain
  try dsimp only
  repeat' first
    | with_reducible assumption
    | with_reducible exact Onward.refl _
    | with_reducible apply State.setAtelier_onward
    | with_reducible refine Onward.foldl _ (fun _ _ _ => ?_) _ _ ?_
    | with_reducible refine Onward.ite ?_ ?_
    | fail_if_no_progress (with_reducible apply Onward.same; iterate 11 (focus with_reducible rfl))
    | dsimp only
    | split

theorem State.faultWith_onward {o : State} {s : State} {code : Nat} {a : Nat} (h0 : Onward o s) : Onward o (State.faultWith s code a) := by
  unfold State.faultWith
  try dsimp only
  repeat' first
    | with_reducible assumption
    | with_reducible exact Onward.refl _
    | with_reducible apply State.beginDrain_onward
    | with_reducible apply State.discard_onward
    | with_reducible apply State.forgetLease_onward
    | with_reducible apply State.setAtelier_onward
    | with_reducible apply State.setLease_onward
    | with_reducible refine Onward.foldl _ (fun _ _ _ => ?_) _ _ ?_
    | with_reducible refine Onward.ite ?_ ?_
    | fail_if_no_progress (with_reducible apply Onward.same; iterate 11 (focus with_reducible rfl))
    | dsimp only
    | split

theorem State.faultModule_onward {o : State} {s : State} {code : Nat} {handles : List Nat} (h0 : Onward o s) : Onward o (State.faultModule s code handles) := by
  unfold State.faultModule
  try dsimp only
  repeat' first
    | with_reducible assumption
    | with_reducible exact Onward.refl _
    | with_reducible apply State.faultWith_onward
    | with_reducible apply State.note_onward
    | with_reducible apply announce_onward
    | with_reducible refine Onward.foldl _ (fun _ _ _ => ?_) _ _ ?_
    | with_reducible refine Onward.ite ?_ ?_
    | fail_if_no_progress (with_reducible apply Onward.same; iterate 11 (focus with_reducible rfl))
    | fail_if_no_progress (with_reducible apply Onward.mode; (all_goals try with_reducible rfl); all_goals try (show (_ : Nat) ≤ 5; decide))
    | dsimp only
    | split

theorem State.eraseKeys_onward {o : State} {s : State} (h0 : Onward o s) : Onward o (State.eraseKeys s) := by
  unfold State.eraseKeys
  try dsimp only
  repeat' first
    | with_reducible assumption
    | with_reducible exact Onward.refl _
    | with_reducible refine Onward.foldl _ (fun _ _ _ => ?_) _ _ ?_
    | with_reducible refine Onward.ite ?_ ?_
    | fail_if_no_progress (with_reducible apply Onward.same; iterate 11 (focus with_reducible rfl))
    | dsimp only
    | split

theorem State.stopped_onward {o s : State} {m : Nat} (hm : m ≤ 5) (h0 : Onward o s) : Onward o (s.stopped m) :=
  ⟨h0.queue, h0.drawn, h0.fuse, h0.tamper, h0.testPort, fun hs =>
    let k := h0.sound hs
    ⟨rfl, rfl, k.flashA, k.flashB, Nat.zero_le _, k.tamper, k.testPort, hm⟩⟩

end Sys2Proof.Machine
end

