-- ==== Sys2Proof/Laws/OnGround.lean ====
section
/-!
SUPPORT. That every operation of Machine/Ground.lean leads onward (Safety.lean).
-/
namespace Sys2Proof.Machine

set_option linter.unusedTactic false
set_option linter.unreachableTactic false

theorem State.setBank_onward {o s : State} {b : Bool} {m : Memory} (hm : s.Sound → m.wf = true) (h0 : Onward o s) : Onward o (s.setBank b m) := by
  refine ⟨?_, ?_, ?_, ?_, ?_, fun hs => ?_⟩
  · cases b <;> exact h0.queue
  · cases b <;> exact h0.drawn
  · cases b <;> exact h0.fuse
  · cases b <;> exact h0.tamper
  · cases b <;> exact h0.testPort
  · have k := h0.sound hs
    cases b
    · exact ⟨k.gddr, k.reservoir, hm k, k.flashB, k.blotter, k.tamper, k.testPort, k.mstate⟩
    · exact ⟨k.gddr, k.reservoir, k.flashA, hm k, k.blotter, k.tamper, k.testPort, k.mstate⟩

/-- Either bank of a sound state is canonical. -/
theorem State.Sound.bank {s : State} (h : s.Sound) (b : Bool) : (s.bank b).wf = true := by
  cases b
  · exact h.flashA
  · exact h.flashB

theorem State.setBroken_onward {o : State} {s : State} {b : Bool} {v : Bool} (h0 : Onward o s) : Onward o (State.setBroken s b v) := by
  unfold State.setBroken
  try dsimp only
  repeat' first
    | with_reducible assumption
    | with_reducible exact Onward.refl _
    | with_reducible refine Onward.foldl _ (fun _ _ _ => ?_) _ _ ?_
    | with_reducible refine Onward.ite ?_ ?_
    | fail_if_no_progress (with_reducible apply Onward.same; iterate 11 (focus with_reducible rfl))
    | dsimp only
    | split

end Sys2Proof.Machine
end

