-- ==== Sys2Proof/Laws/OnLaunch.lean ====
section
/-!
SUPPORT. That every operation of Machine/Launch.lean leads onward (Safety.lean).
-/
namespace Sys2Proof.Machine

set_option linter.unusedTactic false
set_option linter.unreachableTactic false

theorem State.raiseEpoch_onward {o : State} {s : State} {n : Nat} (h0 : Onward o s) : Onward o (State.raiseEpoch s n) := by
  unfold State.raiseEpoch
  try dsimp only
  repeat' first
    | with_reducible assumption
    | with_reducible exact Onward.refl _
    | with_reducible apply State.noteOf_onward
    | with_reducible apply State.setCore_onward
    | with_reducible refine Onward.foldl _ (fun _ _ _ => ?_) _ _ ?_
    | with_reducible refine Onward.ite ?_ ?_
    | fail_if_no_progress (with_reducible apply Onward.same; iterate 11 (focus with_reducible rfl))
    | dsimp only
    | split

theorem State.gatherCore_onward {o : State} {jn : Nat} {s : State} {n : Nat} (h0 : Onward o s) : Onward o (State.gatherCore jn s n) := by
  unfold State.gatherCore
  try dsimp only
  repeat' first
    | with_reducible assumption
    | with_reducible exact Onward.refl _
    | with_reducible apply State.onRun_onward
    | with_reducible apply State.setCore_onward
    | with_reducible refine Onward.foldl _ (fun _ _ _ => ?_) _ _ ?_
    | with_reducible refine Onward.ite ?_ ?_
    | fail_if_no_progress (with_reducible apply Onward.same; iterate 11 (focus with_reducible rfl))
    | dsimp only
    | split

theorem State.beforeAhead_onward {o : State} {s : State} {n : Nat} {jn : Nat} {step : Nat} {j : Job} (h0 : Onward o s) : Onward o (State.beforeAhead s n jn step j) := by
  unfold State.beforeAhead
  try dsimp only
  repeat' first
    | with_reducible assumption
    | with_reducible exact Onward.refl _
    | with_reducible apply State.gatherCore_onward
    | with_reducible refine Onward.foldl _ (fun _ _ _ => ?_) _ _ ?_
    | with_reducible refine Onward.ite ?_ ?_
    | fail_if_no_progress (with_reducible apply Onward.same; iterate 11 (focus with_reducible rfl))
    | dsimp only
    | split

theorem State.launchCore_onward {o : State} {s : State} {n : Nat} {j : Nat} {job : Job} {stage : Nat} {step : Option Nat} (h0 : Onward o s) : Onward o (State.launchCore s n j job stage step) := by
  unfold State.launchCore
  try dsimp only
  repeat' first
    | with_reducible assumption
    | with_reducible exact Onward.refl _
    | with_reducible apply State.raiseEpoch_onward
    | with_reducible apply State.setCore_onward
    | with_reducible refine Onward.foldl _ (fun _ _ _ => ?_) _ _ ?_
    | with_reducible refine Onward.ite ?_ ?_
    | fail_if_no_progress (with_reducible apply Onward.same; iterate 11 (focus with_reducible rfl))
    | dsimp only
    | split

theorem State.assignCores_onward {o : State} {s : State} {n : Nat} {job : Job} (h0 : Onward o s) : Onward o (State.assignCores s n job) := by
  unfold State.assignCores
  try dsimp only
  repeat' first
    | with_reducible assumption
    | with_reducible exact Onward.refl _
    | with_reducible apply State.raiseEpoch_onward
    | with_reducible apply State.setCore_onward
    | with_reducible refine Onward.foldl _ (fun _ _ _ => ?_) _ _ ?_
    | with_reducible refine Onward.ite ?_ ?_
    | fail_if_no_progress (with_reducible apply Onward.same; iterate 11 (focus with_reducible rfl))
    | dsimp only
    | split

theorem State.beginStop_onward {o : State} {s : State} {n : Nat} (h0 : Onward o s) : Onward o (State.beginStop s n) := by
  unfold State.beginStop
  try dsimp only
  repeat' first
    | with_reducible assumption
    | with_reducible exact Onward.refl _
    | with_reducible apply State.onJob_onward
    | with_reducible refine Onward.foldl _ (fun _ _ _ => ?_) _ _ ?_
    | with_reducible refine Onward.ite ?_ ?_
    | fail_if_no_progress (with_reducible apply Onward.same; iterate 11 (focus with_reducible rfl))
    | dsimp only
    | split

theorem State.endStop_onward {o : State} {s : State} {n : Nat} {k : Nat} (h0 : Onward o s) : Onward o (State.endStop s n k) := by
  unfold State.endStop
  try dsimp only
  repeat' first
    | with_reducible assumption
    | with_reducible exact Onward.refl _
    | with_reducible apply State.log_onward
    | with_reducible apply State.onJob_onward
    | with_reducible refine Onward.foldl _ (fun _ _ _ => ?_) _ _ ?_
    | with_reducible refine Onward.ite ?_ ?_
    | fail_if_no_progress (with_reducible apply Onward.same; iterate 11 (focus with_reducible rfl))
    | dsimp only
    | split

theorem State.settleStop_onward {o : State} {s : State} {k : Nat} (h0 : Onward o s) : Onward o (State.settleStop s k) := by
  unfold State.settleStop
  try dsimp only
  repeat' first
    | with_reducible assumption
    | with_reducible exact Onward.refl _
    | with_reducible apply State.endStop_onward
    | with_reducible refine Onward.foldl _ (fun _ _ _ => ?_) _ _ ?_
    | with_reducible refine Onward.ite ?_ ?_
    | fail_if_no_progress (with_reducible apply Onward.same; iterate 11 (focus with_reducible rfl))
    | dsimp only
    | split

theorem execCoreLaunch_onward {core : Nat} {job : Nat} {s : State} : Ends s (execCoreLaunch core job s) := by
  unfold execCoreLaunch
  try dsimp only
  repeat' first
    | with_reducible assumption
    | with_reducible exact Onward.refl _
    | with_reducible apply Ends.onUnit
    | with_reducible apply Ends.whenDue
    | with_reducible apply Ends.next
    | with_reducible apply State.beforeAhead_onward
    | with_reducible apply State.launchCore_onward
    | with_reducible apply State.started_onward
    | with_reducible refine Onward.foldl _ (fun _ _ _ => ?_) _ _ ?_
    | with_reducible refine Onward.ite ?_ ?_
    | fail_if_no_progress (with_reducible apply Onward.same; iterate 11 (focus with_reducible rfl))
    | dsimp only
    | split

end Sys2Proof.Machine
end

