-- ==== Sys2Proof/Laws/OnPorts.lean ====
section
/-!
SUPPORT. That every operation of Machine/Ports.lean leads onward (Safety.lean).
-/
namespace Sys2Proof.Machine

set_option linter.unusedTactic false
set_option linter.unreachableTactic false

theorem State.controlDone_onward {o : State} {s : State} {port : Nat} {fn : Nat} {result : Nat} (h0 : Onward o s) : Onward o (State.controlDone s port fn result) := by
  unfold State.controlDone
  try dsimp only
  repeat' first
    | with_reducible assumption
    | with_reducible exact Onward.refl _
    | with_reducible apply State.setFunction_onward
    | with_reducible refine Onward.foldl _ (fun _ _ _ => ?_) _ _ ?_
    | with_reducible refine Onward.ite ?_ ?_
    | fail_if_no_progress (with_reducible apply Onward.same; iterate 11 (focus with_reducible rfl))
    | dsimp only
    | split

theorem State.mute_onward {o : State} {s : State} {a : Nat} (h0 : Onward o s) : Onward o (State.mute s a) := by
  unfold State.mute
  try dsimp only
  repeat' first
    | with_reducible assumption
    | with_reducible exact Onward.refl _
    | with_reducible refine Onward.foldl _ (fun _ _ _ => ?_) _ _ ?_
    | with_reducible refine Onward.ite ?_ ?_
    | fail_if_no_progress (with_reducible apply Onward.same; iterate 11 (focus with_reducible rfl))
    | dsimp only
    | split

theorem State.detach_onward {o : State} {s : State} {a : Nat} (h0 : Onward o s) : Onward o (State.detach s a) := by
  unfold State.detach
  try dsimp only
  repeat' first
    | with_reducible assumption
    | with_reducible exact Onward.refl _
    | with_reducible apply State.mute_onward
    | with_reducible apply State.setAtelier_onward
    | with_reducible apply State.setFunction_onward
    | with_reducible refine Onward.foldl _ (fun _ _ _ => ?_) _ _ ?_
    | with_reducible refine Onward.ite ?_ ?_
    | fail_if_no_progress (with_reducible apply Onward.same; iterate 11 (focus with_reducible rfl))
    | dsimp only
    | split

theorem State.detachPort_onward {o : State} {s : State} {port : Nat} (h0 : Onward o s) : Onward o (State.detachPort s port) := by
  unfold State.detachPort
  try dsimp only
  repeat' first
    | with_reducible assumption
    | with_reducible exact Onward.refl _
    | with_reducible apply State.detach_onward
    | with_reducible refine Onward.foldl _ (fun _ _ _ => ?_) _ _ ?_
    | with_reducible refine Onward.ite ?_ ?_
    | fail_if_no_progress (with_reducible apply Onward.same; iterate 11 (focus with_reducible rfl))
    | dsimp only
    | split

theorem State.closeIdle_onward {o : State} {s : State} {a : Nat} (h0 : Onward o s) : Onward o (State.closeIdle s a) := by
  unfold State.closeIdle
  try dsimp only
  repeat' first
    | with_reducible assumption
    | with_reducible exact Onward.refl _
    | with_reducible refine Onward.foldl _ (fun _ _ _ => ?_) _ _ ?_
    | with_reducible refine Onward.ite ?_ ?_
    | fail_if_no_progress (with_reducible apply Onward.same; iterate 11 (focus with_reducible rfl))
    | dsimp only
    | split

theorem State.attach_onward {o : State} {s : State} {port : Nat} {fn : Nat} {r : Control} (h0 : Onward o s) : Onward o (State.attach s port fn r) := by
  unfold State.attach
  try dsimp only
  repeat' first
    | with_reducible assumption
    | with_reducible exact Onward.refl _
    | with_reducible apply State.closeIdle_onward
    | with_reducible apply State.controlDone_onward
    | with_reducible apply State.detach_onward
    | with_reducible apply State.setAtelier_onward
    | with_reducible apply State.setFunction_onward
    | with_reducible refine Onward.foldl _ (fun _ _ _ => ?_) _ _ ?_
    | with_reducible refine Onward.ite ?_ ?_
    | fail_if_no_progress (with_reducible apply Onward.same; iterate 11 (focus with_reducible rfl))
    | dsimp only
    | split

theorem State.control_onward {o s : State} {port row : Nat} {g : CtrlGo} {r : HostFn} {failed : Bool} {start : State → State}
    (hf : ∀ u, Onward o u → Onward o (start u)) (h0 : Onward o s) : Onward o (s.control port g row r failed start) := by
  unfold State.control
  dsimp only
  split
  · exact State.setFunction_onward h0
  · split
    · exact State.setFunction_onward h0
    · split
      · exact State.setFunction_onward h0
      · exact hf _ (State.setFunction_onward h0)

theorem execAttach_onward {port : Nat} {fn : CtrlGo} {vmin : Nat} {vmax : Nat} {takeover : Bool} {ring : Word64} {cq : Word64} {shadow : Word64} {args : Word64} {s : State} : Ends s (execAttach port fn vmin vmax takeover ring cq shadow args s) := by
  unfold execAttach
  try dsimp only
  repeat' first
    | with_reducible assumption
    | with_reducible exact Onward.refl _
    | with_reducible apply Ends.onUnit
    | with_reducible apply Ends.whenDue
    | with_reducible apply Ends.next
    | with_reducible apply State.attach_onward
    | with_reducible refine State.control_onward (fun _ _ => ?_) ?_
    | with_reducible refine Onward.foldl _ (fun _ _ _ => ?_) _ _ ?_
    | with_reducible refine Onward.ite ?_ ?_
    | fail_if_no_progress (with_reducible apply Onward.same; iterate 11 (focus with_reducible rfl))
    | dsimp only
    | split

theorem State.detachBy_onward {o : State} {s : State} {port : Nat} {fn : Nat} (h0 : Onward o s) : Onward o (State.detachBy s port fn) := by
  unfold State.detachBy
  try dsimp only
  repeat' first
    | with_reducible assumption
    | with_reducible exact Onward.refl _
    | with_reducible apply State.controlDone_onward
    | with_reducible apply State.detach_onward
    | with_reducible refine Onward.foldl _ (fun _ _ _ => ?_) _ _ ?_
    | with_reducible refine Onward.ite ?_ ?_
    | fail_if_no_progress (with_reducible apply Onward.same; iterate 11 (focus with_reducible rfl))
    | dsimp only
    | split

theorem execDetach_onward {port : Nat} {fn : CtrlWrite} {s : State} : Ends s (execDetach port fn s) := by
  unfold execDetach
  try dsimp only
  repeat' first
    | with_reducible assumption
    | with_reducible exact Onward.refl _
    | with_reducible apply Ends.onUnit
    | with_reducible apply Ends.whenDue
    | with_reducible apply Ends.next
    | with_reducible refine State.control_onward (fun _ _ => ?_) ?_
    | with_reducible apply State.detachBy_onward
    | with_reducible refine Onward.foldl _ (fun _ _ _ => ?_) _ _ ?_
    | with_reducible refine Onward.ite ?_ ?_
    | fail_if_no_progress (with_reducible apply Onward.same; iterate 11 (focus with_reducible rfl))
    | dsimp only
    | split

theorem State.endReset_onward {o : State} {s : State} {a : Nat} (h0 : Onward o s) : Onward o (State.endReset s a) := by
  unfold State.endReset
  try dsimp only
  repeat' first
    | with_reducible assumption
    | with_reducible exact Onward.refl _
    | with_reducible apply State.controlDone_onward
    | with_reducible apply State.onCores_onward
    | with_reducible apply State.setAtelier_onward
    | with_reducible refine Onward.foldl _ (fun _ _ _ => ?_) _ _ ?_
    | with_reducible refine Onward.ite ?_ ?_
    | fail_if_no_progress (with_reducible apply Onward.same; iterate 11 (focus with_reducible rfl))
    | dsimp only
    | split

theorem State.clearMemory_onward {o : State} {s : State} {a : Nat} (h0 : Onward o s) : Onward o (State.clearMemory s a) := by
  unfold State.clearMemory
  try dsimp only
  repeat' first
    | with_reducible assumption
    | with_reducible exact Onward.refl _
    | with_reducible apply State.onCores_onward
    | with_reducible refine Onward.foldl _ (fun _ _ _ => ?_) _ _ ?_
    | with_reducible refine Onward.ite ?_ ?_
    | fail_if_no_progress (with_reducible apply Onward.same; iterate 11 (focus with_reducible rfl))
    | fail_if_no_progress (with_reducible apply Onward.memories; (all_goals try with_reducible rfl); all_goals try first | exact id | exact Memory.writeBytes_wf _ _ _ | exact Memory.clear_wf _ _ _ | exact Memory.filter_wf _ _ | exact fun _ => Memory.nil_wf)
    | dsimp only
    | split

theorem State.destroyObjects_onward {o : State} {s : State} {a : Nat} (h0 : Onward o s) : Onward o (State.destroyObjects s a) := by
  unfold State.destroyObjects
  try dsimp only
  repeat' first
    | with_reducible assumption
    | with_reducible exact Onward.refl _
    | with_reducible refine Onward.foldl _ (fun _ _ _ => ?_) _ _ ?_
    | with_reducible refine Onward.ite ?_ ?_
    | fail_if_no_progress (with_reducible apply Onward.same; iterate 11 (focus with_reducible rfl))
    | dsimp only
    | split

theorem State.closeLease_onward {o : State} {s : State} {a : Nat} (h0 : Onward o s) : Onward o (State.closeLease s a) := by
  unfold State.closeLease
  try dsimp only
  repeat' first
    | with_reducible assumption
    | with_reducible exact Onward.refl _
    | with_reducible apply State.clearMemory_onward
    | with_reducible apply State.destroyObjects_onward
    | with_reducible apply State.finish_onward
    | with_reducible apply State.setLease_onward
    | with_reducible refine Onward.foldl _ (fun _ _ _ => ?_) _ _ ?_
    | with_reducible refine Onward.ite ?_ ?_
    | fail_if_no_progress (with_reducible apply Onward.same; iterate 11 (focus with_reducible rfl))
    | dsimp only
    | split

theorem State.settleDrain_onward {o : State} {s : State} {a : Nat} (h0 : Onward o s) : Onward o (State.settleDrain s a) := by
  unfold State.settleDrain
  try dsimp only
  repeat' first
    | with_reducible assumption
    | with_reducible exact Onward.refl _
    | with_reducible apply State.closeLease_onward
    | with_reducible apply State.endReset_onward
    | with_reducible apply State.setAtelier_onward
    | with_reducible refine Onward.foldl _ (fun _ _ _ => ?_) _ _ ?_
    | with_reducible refine Onward.ite ?_ ?_
    | fail_if_no_progress (with_reducible apply Onward.same; iterate 11 (focus with_reducible rfl))
    | dsimp only
    | split

theorem State.settleDrains_onward {o : State} {s : State} (h0 : Onward o s) : Onward o (State.settleDrains s) := by
  unfold State.settleDrains
  try dsimp only
  repeat' first
    | with_reducible assumption
    | with_reducible exact Onward.refl _
    | with_reducible apply State.settleDrain_onward
    | with_reducible refine Onward.foldl _ (fun _ _ _ => ?_) _ _ ?_
    | with_reducible refine Onward.ite ?_ ?_
    | fail_if_no_progress (with_reducible apply Onward.same; iterate 11 (focus with_reducible rfl))
    | dsimp only
    | split

theorem State.resetAtelier_onward {o : State} {s : State} {port : Nat} {fn : Nat} {a : Nat} (h0 : Onward o s) : Onward o (State.resetAtelier s port fn a) := by
  unfold State.resetAtelier
  try dsimp only
  repeat' first
    | with_reducible assumption
    | with_reducible exact Onward.refl _
    | with_reducible apply State.controlDone_onward
    | with_reducible apply State.discardServing_onward
    | with_reducible apply State.endReset_onward
    | with_reducible apply State.faultAtelier_onward
    | with_reducible apply State.setAtelier_onward
    | with_reducible apply State.settleDrain_onward
    | with_reducible refine Onward.foldl _ (fun _ _ _ => ?_) _ _ ?_
    | with_reducible refine Onward.ite ?_ ?_
    | fail_if_no_progress (with_reducible apply Onward.same; iterate 11 (focus with_reducible rfl))
    | dsimp only
    | split

theorem State.resetBy_onward {o : State} {s : State} {port : Nat} {fn : Nat} {arg : Word64} (h0 : Onward o s) : Onward o (State.resetBy s port fn arg) := by
  unfold State.resetBy
  try dsimp only
  repeat' first
    | with_reducible assumption
    | with_reducible exact Onward.refl _
    | with_reducible apply State.controlDone_onward
    | with_reducible apply State.resetAtelier_onward
    | with_reducible refine Onward.foldl _ (fun _ _ _ => ?_) _ _ ?_
    | with_reducible refine Onward.ite ?_ ?_
    | fail_if_no_progress (with_reducible apply Onward.same; iterate 11 (focus with_reducible rfl))
    | dsimp only
    | split

theorem execAtelierReset_onward {port : Nat} {w : CtrlWrite} {arg : Word64} {s : State} : Ends s (execAtelierReset port w arg s) := by
  unfold execAtelierReset
  try dsimp only
  repeat' first
    | with_reducible assumption
    | with_reducible exact Onward.refl _
    | with_reducible apply Ends.onUnit
    | with_reducible apply Ends.whenDue
    | with_reducible apply Ends.next
    | with_reducible refine State.control_onward (fun _ _ => ?_) ?_
    | with_reducible apply State.controlDone_onward
    | with_reducible apply State.resetBy_onward
    | with_reducible refine Onward.foldl _ (fun _ _ _ => ?_) _ _ ?_
    | with_reducible refine Onward.ite ?_ ?_
    | fail_if_no_progress (with_reducible apply Onward.same; iterate 11 (focus with_reducible rfl))
    | dsimp only
    | split

theorem State.sqTail_onward {o : State} {s : State} {a : Nat} {queue : Nat} {value : BitVec 32} (h0 : Onward o s) : Onward o (State.sqTail s a queue value) := by
  unfold State.sqTail
  try dsimp only
  repeat' first
    | with_reducible assumption
    | with_reducible exact Onward.refl _
    | with_reducible apply State.log_onward
    | with_reducible apply State.onQueue_onward
    | with_reducible refine Onward.foldl _ (fun _ _ _ => ?_) _ _ ?_
    | with_reducible refine Onward.ite ?_ ?_
    | fail_if_no_progress (with_reducible apply Onward.same; iterate 11 (focus with_reducible rfl))
    | dsimp only
    | split

theorem execSqTail_onward {port : Nat} {fn : Nat} {queue : Nat} {value : BitVec 32} {s : State} : Ends s (execSqTail port fn queue value s) := by
  unfold execSqTail
  try dsimp only
  repeat' first
    | with_reducible assumption
    | with_reducible exact Onward.refl _
    | with_reducible apply Ends.onUnit
    | with_reducible apply Ends.whenDue
    | with_reducible apply Ends.next
    | with_reducible apply State.sqTail_onward
    | with_reducible refine Onward.foldl _ (fun _ _ _ => ?_) _ _ ?_
    | with_reducible refine Onward.ite ?_ ?_
    | fail_if_no_progress (with_reducible apply Onward.same; iterate 11 (focus with_reducible rfl))
    | dsimp only
    | split

theorem execCqHead_onward {port : Nat} {fn : Nat} {queue : Nat} {value : BitVec 32} {s : State} : Ends s (execCqHead port fn queue value s) := by
  unfold execCqHead
  try dsimp only
  repeat' first
    | with_reducible assumption
    | with_reducible exact Onward.refl _
    | with_reducible apply Ends.onUnit
    | with_reducible apply Ends.whenDue
    | with_reducible apply Ends.next
    | with_reducible apply State.onQueue_onward
    | with_reducible apply State.releaseHeld_onward
    | with_reducible refine Onward.foldl _ (fun _ _ _ => ?_) _ _ ?_
    | with_reducible refine Onward.ite ?_ ?_
    | fail_if_no_progress (with_reducible apply Onward.same; iterate 11 (focus with_reducible rfl))
    | dsimp only
    | split

theorem State.portReset_onward {o : State} {s : State} {port : Nat} {x : PciePort} (h0 : Onward o s) : Onward o (State.portReset s port x) := by
  unfold State.portReset
  try dsimp only
  repeat' first
    | with_reducible assumption
    | with_reducible exact Onward.refl _
    | with_reducible apply State.detachPort_onward
    | with_reducible apply State.setPcie_onward
    | with_reducible refine Onward.foldl _ (fun _ _ _ => ?_) _ _ ?_
    | with_reducible refine Onward.ite ?_ ?_
    | fail_if_no_progress (with_reducible apply Onward.same; iterate 11 (focus with_reducible rfl))
    | dsimp only
    | split

theorem execPerstAssert_onward {port : Nat} {s : State} : Ends s (execPerstAssert port s) := by
  unfold execPerstAssert
  try dsimp only
  repeat' first
    | with_reducible assumption
    | with_reducible exact Onward.refl _
    | with_reducible apply Ends.onUnit
    | with_reducible apply Ends.whenDue
    | with_reducible apply Ends.next
    | with_reducible apply State.portReset_onward
    | with_reducible refine Onward.foldl _ (fun _ _ _ => ?_) _ _ ?_
    | with_reducible refine Onward.ite ?_ ?_
    | fail_if_no_progress (with_reducible apply Onward.same; iterate 11 (focus with_reducible rfl))
    | dsimp only
    | split

theorem execHotReset_onward {port : Nat} {s : State} : Ends s (execHotReset port s) := by
  unfold execHotReset
  try dsimp only
  repeat' first
    | with_reducible assumption
    | with_reducible exact Onward.refl _
    | with_reducible apply Ends.onUnit
    | with_reducible apply Ends.whenDue
    | with_reducible apply Ends.next
    | with_reducible apply State.portReset_onward
    | with_reducible refine Onward.foldl _ (fun _ _ _ => ?_) _ _ ?_
    | with_reducible refine Onward.ite ?_ ?_
    | fail_if_no_progress (with_reducible apply Onward.same; iterate 11 (focus with_reducible rfl))
    | dsimp only
    | split

theorem execPcieLinkLoss_onward {port : Nat} {s : State} : Ends s (execPcieLinkLoss port s) := by
  unfold execPcieLinkLoss
  try dsimp only
  repeat' first
    | with_reducible assumption
    | with_reducible exact Onward.refl _
    | with_reducible apply Ends.onUnit
    | with_reducible apply Ends.whenDue
    | with_reducible apply Ends.next
    | with_reducible apply State.portReset_onward
    | with_reducible refine Onward.foldl _ (fun _ _ _ => ?_) _ _ ?_
    | with_reducible refine Onward.ite ?_ ?_
    | fail_if_no_progress (with_reducible apply Onward.same; iterate 11 (focus with_reducible rfl))
    | dsimp only
    | split

theorem execFunctionLevelReset_onward {port : Nat} {fn : Nat} {s : State} : Ends s (execFunctionLevelReset port fn s) := by
  unfold execFunctionLevelReset
  try dsimp only
  repeat' first
    | with_reducible assumption
    | with_reducible exact Onward.refl _
    | with_reducible apply Ends.onUnit
    | with_reducible apply Ends.whenDue
    | with_reducible apply Ends.next
    | with_reducible apply State.detach_onward
    | with_reducible apply State.portReset_onward
    | with_reducible refine Onward.foldl _ (fun _ _ _ => ?_) _ _ ?_
    | with_reducible refine Onward.ite ?_ ?_
    | fail_if_no_progress (with_reducible apply Onward.same; iterate 11 (focus with_reducible rfl))
    | dsimp only
    | split

theorem execPerstRelease_onward {port : PerstRelease} {s : State} : Ends s (execPerstRelease port s) := by
  unfold execPerstRelease
  try dsimp only
  repeat' first
    | with_reducible assumption
    | with_reducible exact Onward.refl _
    | with_reducible apply Ends.onUnit
    | with_reducible apply Ends.whenDue
    | with_reducible apply Ends.next
    | with_reducible apply State.setPcie_onward
    | with_reducible refine Onward.foldl _ (fun _ _ _ => ?_) _ _ ?_
    | with_reducible refine Onward.ite ?_ ?_
    | fail_if_no_progress (with_reducible apply Onward.same; iterate 11 (focus with_reducible rfl))
    | dsimp only
    | split

theorem execPcieLinkUp_onward {port : Nat} {rate : Nat} {width : Nat} {s : State} : Ends s (execPcieLinkUp port rate width s) := by
  unfold execPcieLinkUp
  try dsimp only
  repeat' first
    | with_reducible assumption
    | with_reducible exact Onward.refl _
    | with_reducible apply Ends.onUnit
    | with_reducible apply Ends.whenDue
    | with_reducible apply Ends.next
    | with_reducible apply State.note_onward
    | with_reducible apply State.setPcie_onward
    | with_reducible refine Onward.foldl _ (fun _ _ _ => ?_) _ _ ?_
    | with_reducible refine Onward.ite ?_ ?_
    | fail_if_no_progress (with_reducible apply Onward.same; iterate 11 (focus with_reducible rfl))
    | dsimp only
    | split

theorem execDetachmentQueueDestroy_onward {queue : Nat} {s : State} : Ends s (execDetachmentQueueDestroy queue s) := by
  unfold execDetachmentQueueDestroy
  try dsimp only
  repeat' first
    | with_reducible assumption
    | with_reducible exact Onward.refl _
    | with_reducible apply Ends.onUnit
    | with_reducible apply Ends.whenDue
    | with_reducible apply Ends.next
    | with_reducible refine Onward.foldl _ (fun _ _ _ => ?_) _ _ ?_
    | with_reducible refine Onward.ite ?_ ?_
    | fail_if_no_progress (with_reducible apply Onward.same; iterate 11 (focus with_reducible rfl))
    | dsimp only
    | split

theorem execAtsInvalidation_onward {port : Nat} {pasid : Option Nat} {page : Nat} {s : State} : Ends s (execAtsInvalidation port pasid page s) := by
  unfold execAtsInvalidation
  try dsimp only
  repeat' first
    | with_reducible assumption
    | with_reducible exact Onward.refl _
    | with_reducible apply Ends.onUnit
    | with_reducible apply Ends.whenDue
    | with_reducible apply Ends.next
    | with_reducible refine Onward.foldl _ (fun _ _ _ => ?_) _ _ ?_
    | with_reducible refine Onward.ite ?_ ?_
    | fail_if_no_progress (with_reducible apply Onward.same; iterate 11 (focus with_reducible rfl))
    | dsimp only
    | split

theorem State.goOn_onward {o s : State} {port fn : Nat} {c : Option Control} (h0 : Onward o s) : Onward o (s.goOn port fn c) := by
  unfold State.goOn
  split
  · exact Onward.ite (State.attach_onward h0) (Onward.ite (State.resetBy_onward h0) h0)
  · exact h0

theorem execModuleReady_onward {s : State} : Ends s (execModuleReady s) := by
  unfold execModuleReady
  dsimp only
  refine Ends.whenDue (Onward.refl _) (announce_onward (Onward.refl _) ?_)
  refine Onward.foldl _ (fun _ _ h => State.goOn_onward h) _ _ ?_
  apply Onward.mode <;> first | with_reducible rfl | exact Onward.refl _ | (show (2 : Nat) ≤ 5; decide)

end Sys2Proof.Machine
end

