-- ==== Sys2Proof/Laws/OnCommands.lean ====
section
/-!
SUPPORT. That every operation of Machine/Commands.lean leads onward (Safety.lean).
-/
namespace Sys2Proof.Machine

set_option linter.unusedTactic false
set_option linter.unreachableTactic false

theorem execCommandStart_onward {queue : Nat} {s : State} : Ends s (execCommandStart queue s) := by
  unfold execCommandStart
  try dsimp only
  repeat' first
    | with_reducible assumption
    | with_reducible exact Onward.refl _
    | with_reducible apply Ends.onUnit
    | with_reducible apply Ends.whenDue
    | with_reducible apply Ends.next
    | with_reducible apply State.latchNext_onward
    | with_reducible apply State.onCmd_onward
    | with_reducible refine Onward.foldl _ (fun _ _ _ => ?_) _ _ ?_
    | with_reducible refine Onward.ite ?_ ?_
    | fail_if_no_progress (with_reducible apply Onward.same; iterate 11 (focus with_reducible rfl))
    | dsimp only
    | split

theorem onCommand_onward {s : State} {n : Nat} {opcode : Nat} {f : Cmd → State} (hf : ∀ c, Onward s (f c)) : Ends s (onCommand s n opcode f) := by
  unfold onCommand
  split
  · exact Ends.whenDue (Onward.refl _) (hf _)
  · exact Ends.next (Onward.refl _)

theorem execCtxCreate_onward {cmd : Nat} {s : State} : Ends s (execCtxCreate cmd s) := by
  unfold execCtxCreate
  try dsimp only
  repeat' first
    | with_reducible assumption
    | with_reducible exact Onward.refl _
    | with_reducible apply Ends.onUnit
    | with_reducible apply Ends.whenDue
    | with_reducible apply Ends.next
    | with_reducible apply State.finish_onward
    | with_reducible apply State.refuse_onward
    | with_reducible refine onCommand_onward (fun _ => ?_)
    | with_reducible refine Onward.foldl _ (fun _ _ _ => ?_) _ _ ?_
    | with_reducible refine Onward.ite ?_ ?_
    | fail_if_no_progress (with_reducible apply Onward.same; iterate 11 (focus with_reducible rfl))
    | dsimp only
    | split

theorem execCtxBind_onward {cmd : Nat} {s : State} : Ends s (execCtxBind cmd s) := by
  unfold execCtxBind
  try dsimp only
  repeat' first
    | with_reducible assumption
    | with_reducible exact Onward.refl _
    | with_reducible apply Ends.onUnit
    | with_reducible apply Ends.whenDue
    | with_reducible apply Ends.next
    | with_reducible apply State.finish_onward
    | with_reducible refine onCommand_onward (fun _ => ?_)
    | with_reducible refine Onward.foldl _ (fun _ _ _ => ?_) _ _ ?_
    | with_reducible refine Onward.ite ?_ ?_
    | fail_if_no_progress (with_reducible apply Onward.same; iterate 11 (focus with_reducible rfl))
    | dsimp only
    | split

theorem execCtxDestroy_onward {cmd : Nat} {s : State} : Ends s (execCtxDestroy cmd s) := by
  unfold execCtxDestroy
  try dsimp only
  repeat' first
    | with_reducible assumption
    | with_reducible exact Onward.refl _
    | with_reducible apply Ends.onUnit
    | with_reducible apply Ends.whenDue
    | with_reducible apply Ends.next
    | with_reducible apply State.finish_onward
    | with_reducible apply State.refuse_onward
    | with_reducible refine onCommand_onward (fun _ => ?_)
    | with_reducible refine Onward.foldl _ (fun _ _ _ => ?_) _ _ ?_
    | with_reducible refine Onward.ite ?_ ?_
    | fail_if_no_progress (with_reducible apply Onward.same; iterate 11 (focus with_reducible rfl))
    | dsimp only
    | split

theorem execQueueCreate_onward {cmd : Nat} {s : State} : Ends s (execQueueCreate cmd s) := by
  unfold execQueueCreate
  try dsimp only
  repeat' first
    | with_reducible assumption
    | with_reducible exact Onward.refl _
    | with_reducible apply Ends.onUnit
    | with_reducible apply Ends.whenDue
    | with_reducible apply Ends.next
    | with_reducible apply State.finish_onward
    | with_reducible apply State.refuse_onward
    | with_reducible refine onCommand_onward (fun _ => ?_)
    | with_reducible refine Onward.foldl _ (fun _ _ _ => ?_) _ _ ?_
    | with_reducible refine Onward.ite ?_ ?_
    | fail_if_no_progress (with_reducible apply Onward.same; iterate 11 (focus with_reducible rfl))
    | dsimp only
    | split

theorem execQueueDestroy_onward {cmd : Nat} {s : State} : Ends s (execQueueDestroy cmd s) := by
  unfold execQueueDestroy
  try dsimp only
  repeat' first
    | with_reducible assumption
    | with_reducible exact Onward.refl _
    | with_reducible apply Ends.onUnit
    | with_reducible apply Ends.whenDue
    | with_reducible apply Ends.next
    | with_reducible apply State.finish_onward
    | with_reducible apply State.onQueue_onward
    | with_reducible apply State.refuse_onward
    | with_reducible refine onCommand_onward (fun _ => ?_)
    | with_reducible refine Onward.foldl _ (fun _ _ _ => ?_) _ _ ?_
    | with_reducible refine Onward.ite ?_ ?_
    | fail_if_no_progress (with_reducible apply Onward.same; iterate 11 (focus with_reducible rfl))
    | dsimp only
    | split

theorem execMobjCreate_onward {cmd : Nat} {s : State} : Ends s (execMobjCreate cmd s) := by
  unfold execMobjCreate
  try dsimp only
  repeat' first
    | with_reducible assumption
    | with_reducible exact Onward.refl _
    | with_reducible apply Ends.onUnit
    | with_reducible apply Ends.whenDue
    | with_reducible apply Ends.next
    | with_reducible apply State.finish_onward
    | with_reducible apply State.refuse_onward
    | with_reducible refine onCommand_onward (fun _ => ?_)
    | with_reducible refine Onward.foldl _ (fun _ _ _ => ?_) _ _ ?_
    | with_reducible refine Onward.ite ?_ ?_
    | fail_if_no_progress (with_reducible apply Onward.same; iterate 11 (focus with_reducible rfl))
    | fail_if_no_progress (with_reducible apply Onward.memories; (all_goals try with_reducible rfl); all_goals try first | exact id | exact Memory.writeBytes_wf _ _ _ | exact Memory.clear_wf _ _ _ | exact Memory.filter_wf _ _ | exact fun _ => Memory.nil_wf)
    | dsimp only
    | split

theorem execMobjFree_onward {cmd : Nat} {s : State} : Ends s (execMobjFree cmd s) := by
  unfold execMobjFree
  try dsimp only
  repeat' first
    | with_reducible assumption
    | with_reducible exact Onward.refl _
    | with_reducible apply Ends.onUnit
    | with_reducible apply Ends.whenDue
    | with_reducible apply Ends.next
    | with_reducible apply State.onCmd_onward
    | with_reducible refine onCommand_onward (fun _ => ?_)
    | with_reducible refine Onward.foldl _ (fun _ _ _ => ?_) _ _ ?_
    | with_reducible refine Onward.ite ?_ ?_
    | fail_if_no_progress (with_reducible apply Onward.same; iterate 11 (focus with_reducible rfl))
    | dsimp only
    | split

theorem execFenceDestroy_onward {cmd : Nat} {s : State} : Ends s (execFenceDestroy cmd s) := by
  unfold execFenceDestroy
  try dsimp only
  repeat' first
    | with_reducible assumption
    | with_reducible exact Onward.refl _
    | with_reducible apply Ends.onUnit
    | with_reducible apply Ends.whenDue
    | with_reducible apply Ends.next
    | with_reducible apply State.onCmd_onward
    | with_reducible refine onCommand_onward (fun _ => ?_)
    | with_reducible refine Onward.foldl _ (fun _ _ _ => ?_) _ _ ?_
    | with_reducible refine Onward.ite ?_ ?_
    | fail_if_no_progress (with_reducible apply Onward.same; iterate 11 (focus with_reducible rfl))
    | dsimp only
    | split

theorem execImageFree_onward {cmd : Nat} {s : State} : Ends s (execImageFree cmd s) := by
  unfold execImageFree
  try dsimp only
  repeat' first
    | with_reducible assumption
    | with_reducible exact Onward.refl _
    | with_reducible apply Ends.onUnit
    | with_reducible apply Ends.whenDue
    | with_reducible apply Ends.next
    | with_reducible apply State.onCmd_onward
    | with_reducible refine onCommand_onward (fun _ => ?_)
    | with_reducible refine Onward.foldl _ (fun _ _ _ => ?_) _ _ ?_
    | with_reducible refine Onward.ite ?_ ?_
    | fail_if_no_progress (with_reducible apply Onward.same; iterate 11 (focus with_reducible rfl))
    | dsimp only
    | split

theorem execCollFree_onward {cmd : Nat} {s : State} : Ends s (execCollFree cmd s) := by
  unfold execCollFree
  try dsimp only
  repeat' first
    | with_reducible assumption
    | with_reducible exact Onward.refl _
    | with_reducible apply Ends.onUnit
    | with_reducible apply Ends.whenDue
    | with_reducible apply Ends.next
    | with_reducible apply State.onCmd_onward
    | with_reducible refine onCommand_onward (fun _ => ?_)
    | with_reducible refine Onward.foldl _ (fun _ _ _ => ?_) _ _ ?_
    | with_reducible refine Onward.ite ?_ ?_
    | fail_if_no_progress (with_reducible apply Onward.same; iterate 11 (focus with_reducible rfl))
    | dsimp only
    | split

theorem execFenceCreate_onward {cmd : Nat} {s : State} : Ends s (execFenceCreate cmd s) := by
  unfold execFenceCreate
  try dsimp only
  repeat' first
    | with_reducible assumption
    | with_reducible exact Onward.refl _
    | with_reducible apply Ends.onUnit
    | with_reducible apply Ends.whenDue
    | with_reducible apply Ends.next
    | with_reducible apply State.finish_onward
    | with_reducible apply State.refuse_onward
    | with_reducible refine onCommand_onward (fun _ => ?_)
    | with_reducible refine Onward.foldl _ (fun _ _ _ => ?_) _ _ ?_
    | with_reducible refine Onward.ite ?_ ?_
    | fail_if_no_progress (with_reducible apply Onward.same; iterate 11 (focus with_reducible rfl))
    | dsimp only
    | split

theorem State.evaluateWaits_onward {o : State} {s : State} {fence : Nat} (h0 : Onward o s) : Onward o (State.evaluateWaits s fence) := by
  unfold State.evaluateWaits
  try dsimp only
  repeat' first
    | with_reducible assumption
    | with_reducible exact Onward.refl _
    | with_reducible refine Onward.foldl _ (fun _ _ _ => ?_) _ _ ?_
    | with_reducible refine Onward.ite ?_ ?_
    | fail_if_no_progress (with_reducible apply Onward.same; iterate 11 (focus with_reducible rfl))
    | dsimp only
    | split

theorem State.applySignal_onward {o : State} {s : State} {n : Nat} {v : Word64} {quiet : Bool} (h0 : Onward o s) : Onward o (State.applySignal s n v quiet) := by
  unfold State.applySignal
  try dsimp only
  repeat' first
    | with_reducible assumption
    | with_reducible exact Onward.refl _
    | with_reducible apply State.ctxWrite_onward
    | with_reducible apply State.evaluateWaits_onward
    | with_reducible apply State.interrupt_onward
    | with_reducible apply State.log_onward
    | with_reducible refine Onward.foldl _ (fun _ _ _ => ?_) _ _ ?_
    | with_reducible refine Onward.ite ?_ ?_
    | fail_if_no_progress (with_reducible apply Onward.same; iterate 11 (focus with_reducible rfl))
    | dsimp only
    | split

theorem execFenceSignal_onward {s : State} : Ends s (execFenceSignal s) := by
  unfold execFenceSignal
  try dsimp only
  repeat' first
    | with_reducible assumption
    | with_reducible exact Onward.refl _
    | with_reducible apply Ends.onUnit
    | with_reducible apply Ends.whenDue
    | with_reducible apply Ends.next
    | with_reducible apply State.applySignal_onward
    | with_reducible refine Onward.foldl _ (fun _ _ _ => ?_) _ _ ?_
    | with_reducible refine Onward.ite ?_ ?_
    | fail_if_no_progress (with_reducible apply Onward.same; iterate 11 (focus with_reducible rfl))
    | dsimp only
    | split

theorem execSignal_onward {cmd : Nat} {s : State} : Ends s (execSignal cmd s) := by
  unfold execSignal
  try dsimp only
  repeat' first
    | with_reducible assumption
    | with_reducible exact Onward.refl _
    | with_reducible apply Ends.onUnit
    | with_reducible apply Ends.whenDue
    | with_reducible apply Ends.next
    | with_reducible apply State.finish_onward
    | with_reducible refine onCommand_onward (fun _ => ?_)
    | with_reducible refine Onward.foldl _ (fun _ _ _ => ?_) _ _ ?_
    | with_reducible refine Onward.ite ?_ ?_
    | fail_if_no_progress (with_reducible apply Onward.same; iterate 11 (focus with_reducible rfl))
    | dsimp only
    | split

theorem execQueueNop_onward {cmd : Nat} {s : State} : Ends s (execQueueNop cmd s) := by
  unfold execQueueNop
  try dsimp only
  repeat' first
    | with_reducible assumption
    | with_reducible exact Onward.refl _
    | with_reducible apply Ends.onUnit
    | with_reducible apply Ends.whenDue
    | with_reducible apply Ends.next
    | with_reducible apply State.finish_onward
    | with_reducible refine onCommand_onward (fun _ => ?_)
    | with_reducible refine Onward.foldl _ (fun _ _ _ => ?_) _ _ ?_
    | with_reducible refine Onward.ite ?_ ?_
    | fail_if_no_progress (with_reducible apply Onward.same; iterate 11 (focus with_reducible rfl))
    | dsimp only
    | split

theorem execImageLoad_onward {cmd : Nat} {host : Option Bytes} {s : State} : Ends s (execImageLoad cmd host s) := by
  unfold execImageLoad
  try dsimp only
  repeat' first
    | with_reducible assumption
    | with_reducible exact Onward.refl _
    | with_reducible apply Ends.onUnit
    | with_reducible apply Ends.whenDue
    | with_reducible apply Ends.next
    | with_reducible apply State.finish_onward
    | with_reducible apply State.readFor_onward
    | with_reducible apply State.refuse_onward
    | with_reducible refine onCommand_onward (fun _ => ?_)
    | with_reducible refine Onward.foldl _ (fun _ _ _ => ?_) _ _ ?_
    | with_reducible refine Onward.ite ?_ ?_
    | fail_if_no_progress (with_reducible apply Onward.same; iterate 11 (focus with_reducible rfl))
    | dsimp only
    | split

theorem State.finishFree_onward {o s : State} {x : Option Nat} (h0 : Onward o s) : Onward o (s.finishFree x) := by
  unfold State.finishFree
  split
  · exact State.finish_onward h0
  · exact h0

theorem State.onJobCores_onward {o : State} {s : State} {n : Nat} {f : Core → Core} (h0 : Onward o s) : Onward o (State.onJobCores s n f) := by
  unfold State.onJobCores
  try dsimp only
  repeat' first
    | with_reducible assumption
    | with_reducible exact Onward.refl _
    | with_reducible apply State.setCore_onward
    | with_reducible refine Onward.foldl _ (fun _ _ _ => ?_) _ _ ?_
    | with_reducible refine Onward.ite ?_ ?_
    | fail_if_no_progress (with_reducible apply Onward.same; iterate 11 (focus with_reducible rfl))
    | dsimp only
    | split

theorem State.dropImage_onward {o : State} {s : State} {slot : Nat} (h0 : Onward o s) : Onward o (State.dropImage s slot) := by
  unfold State.dropImage
  try dsimp only
  repeat' first
    | with_reducible assumption
    | with_reducible exact Onward.refl _
    | with_reducible apply State.onJobCores_onward
    | with_reducible refine Onward.foldl _ (fun _ _ _ => ?_) _ _ ?_
    | with_reducible refine Onward.ite ?_ ?_
    | fail_if_no_progress (with_reducible apply Onward.same; iterate 11 (focus with_reducible rfl))
    | dsimp only
    | split

theorem State.release_onward {s : State} {kind slot : Nat} {t : State} (h : s.release kind slot = some t) : Onward s t := by
  have hd : ∀ s' : State, s.release kind slot = some s' → Onward s s' := by
    unfold State.release
    intro s' h
    repeat' first
      | contradiction
      | (injection h with h; subst h)
      | with_reducible apply State.finishFree_onward
      | with_reducible apply State.dropImage_onward
      | with_reducible apply State.refer_onward
      | with_reducible apply State.zeroPage_onward
      | with_reducible assumption
      | with_reducible exact Onward.refl _
      | with_reducible refine Onward.foldl _ (fun _ _ _ => ?_) _ _ ?_
      | fail_if_no_progress (with_reducible apply Onward.same; iterate 11 (focus with_reducible rfl))
      | split at h
      | split
  exact hd t h

theorem execObjectRelease_onward {kind slot : Nat} {s : State} : Ends s (execObjectRelease kind slot s) := by
  unfold execObjectRelease
  split
  · rename_i t h; exact Ends.next (State.release_onward h)
  · exact Ends.next (Onward.refl _)

end Sys2Proof.Machine
end

