-- ==== Sys2Proof/Laws/OnEnergy.lean ====
section
/-!
SUPPORT. That every operation of Machine/Energy.lean leads onward (Safety.lean).
-/
namespace Sys2Proof.Machine

set_option linter.unusedTactic false
set_option linter.unreachableTactic false

theorem State.markRan_onward {o : State} {s : State} {d : Demand} (h0 : Onward o s) : Onward o (State.markRan s d) := by
  unfold State.markRan
  try dsimp only
  repeat' first
    | with_reducible assumption
    | with_reducible exact Onward.refl _
    | with_reducible apply State.setPanel_onward
    | with_reducible refine Onward.foldl _ (fun _ _ _ => ?_) _ _ ?_
    | with_reducible refine Onward.ite ?_ ?_
    | fail_if_no_progress (with_reducible apply Onward.same; iterate 11 (focus with_reducible rfl))
    | dsimp only
    | split

end Sys2Proof.Machine
end

