-- ==== Sys2Proof/Laws/OnUpdate.lean ====
section
/-!
SUPPORT. That every operation of Machine/Update.lean leads onward (Safety.lean).
-/
namespace Sys2Proof.Machine

set_option linter.unusedTactic false
set_option linter.unreachableTactic false

theorem State.jobStore_onward {o : State} {s : State} {n : Nat} {j : Job} {va : Nat} {bs : Bytes} (h0 : Onward o s) : Onward o (State.jobStore s n j va bs) := by
  unfold State.jobStore
  try dsimp only
  repeat' first
    | with_reducible assumption
    | with_reducible exact Onward.refl _
    | with_reducible apply State.faultAtelier_onward
    | with_reducible apply State.store_onward
    | with_reducible apply Store.settle_onward
    | with_reducible refine Onward.foldl _ (fun _ _ _ => ?_) _ _ ?_
    | with_reducible refine Onward.ite ?_ ?_
    | fail_if_no_progress (with_reducible apply Onward.same; iterate 11 (focus with_reducible rfl))
    | dsimp only
    | split

theorem State.storeVector_onward {o : State} {s : State} {n : Nat} {j : Job} {d : Bytes} {c : Nat} {u : Nat} {vals : List Nat} (h0 : Onward o s) : Onward o (State.storeVector s n j d c u vals) := by
  unfold State.storeVector
  try dsimp only
  repeat' first
    | with_reducible assumption
    | with_reducible exact Onward.refl _
    | with_reducible apply State.jobStore_onward
    | with_reducible apply State.log_onward
    | with_reducible refine Onward.foldl _ (fun _ _ _ => ?_) _ _ ?_
    | with_reducible refine Onward.ite ?_ ?_
    | fail_if_no_progress (with_reducible apply Onward.same; iterate 11 (focus with_reducible rfl))
    | dsimp only
    | split

theorem State.storeWeights_onward {o : State} {s : State} {n : Nat} {j : Job} {d : Bytes} {c : Nat} {ws : List Nat} (h0 : Onward o s) : Onward o (State.storeWeights s n j d c ws) := by
  unfold State.storeWeights
  try dsimp only
  repeat' first
    | with_reducible assumption
    | with_reducible exact Onward.refl _
    | with_reducible apply State.jobStore_onward
    | with_reducible refine Onward.foldl _ (fun _ _ _ => ?_) _ _ ?_
    | with_reducible refine Onward.ite ?_ ?_
    | fail_if_no_progress (with_reducible apply Onward.same; iterate 11 (focus with_reducible rfl))
    | dsimp only
    | split

theorem State.routineRetires_onward {o : State} {s : State} {j : Job} {writes : List (Nat × Nat)} (h0 : Onward o s) : Onward o (State.routineRetires s j writes) := by
  unfold State.routineRetires
  try dsimp only
  repeat' first
    | with_reducible assumption
    | with_reducible exact Onward.refl _
    | with_reducible apply State.retireRun_onward
    | with_reducible refine Onward.foldl _ (fun _ _ _ => ?_) _ _ ?_
    | with_reducible refine Onward.ite ?_ ?_
    | fail_if_no_progress (with_reducible apply Onward.same; iterate 11 (focus with_reducible rfl))
    | dsimp only
    | split

theorem State.routineHalt_onward {o : State} {s : State} {n : Nat} {j : Job} {core : Nat} {reason : Nat} (h0 : Onward o s) : Onward o (State.routineHalt s n j core reason) := by
  unfold State.routineHalt
  try dsimp only
  repeat' first
    | with_reducible assumption
    | with_reducible exact Onward.refl _
    | with_reducible apply State.faultAtelier_onward
    | with_reducible apply State.setCore_onward
    | with_reducible refine Onward.foldl _ (fun _ _ _ => ?_) _ _ ?_
    | with_reducible refine Onward.ite ?_ ?_
    | fail_if_no_progress (with_reducible apply Onward.same; iterate 11 (focus with_reducible rfl))
    | dsimp only
    | split

theorem State.upsetRoutine_onward {o : State} {s : State} {n : Nat} {j : Job} {cores : List Nat} {upset : Option Nat} (h0 : Onward o s) : Onward o (State.upsetRoutine s n j cores upset) := by
  unfold State.upsetRoutine
  try dsimp only
  repeat' first
    | with_reducible assumption
    | with_reducible exact Onward.refl _
    | with_reducible apply State.routineHalt_onward
    | with_reducible refine Onward.foldl _ (fun _ _ _ => ?_) _ _ ?_
    | with_reducible refine Onward.ite ?_ ?_
    | fail_if_no_progress (with_reducible apply Onward.same; iterate 11 (focus with_reducible rfl))
    | dsimp only
    | split

theorem State.routine_onward {o s : State} {n : Nat} {j : Job} {core : Nat} {reads writes : List (Nat × Nat)} {f : State → State}
    (hf : ∀ u, Onward o u → Onward o (f u)) (h0 : Onward o s) : Onward o (s.routine n j core reads writes f) := by
  unfold State.routine
  split
  · exact h0
  · split
    · exact State.routineHalt_onward (Onward.ite (State.routineRetires_onward h0) h0)
    · exact hf _ h0

theorem State.writeCopyPart_onward {o : State} {s : State} {n : Nat} {j : Job} {far : Bool} {core : Nat} {p : Nat × Bytes} (h0 : Onward o s) : Onward o (State.writeCopyPart s n j far core p) := by
  unfold State.writeCopyPart
  try dsimp only
  repeat' first
    | with_reducible assumption
    | with_reducible exact Onward.refl _
    | with_reducible apply State.jobStore_onward
    | with_reducible refine State.routine_onward (fun _ _ => ?_) ?_
    | with_reducible apply State.routineHalt_onward
    | with_reducible apply State.setCore_onward
    | with_reducible refine Onward.foldl _ (fun _ _ _ => ?_) _ _ ?_
    | with_reducible refine Onward.ite ?_ ?_
    | fail_if_no_progress (with_reducible apply Onward.same; iterate 11 (focus with_reducible rfl))
    | dsimp only
    | split

theorem State.countCopy_onward {o : State} {s : State} {n : Nat} {core : Nat} {layer : Nat} {ev : Events} (h0 : Onward o s) : Onward o (State.countCopy s n core layer ev) := by
  unfold State.countCopy
  try dsimp only
  repeat' first
    | with_reducible assumption
    | with_reducible exact Onward.refl _
    | with_reducible apply State.setCore_onward
    | with_reducible refine Onward.foldl _ (fun _ _ _ => ?_) _ _ ?_
    | with_reducible refine Onward.ite ?_ ?_
    | fail_if_no_progress (with_reducible apply Onward.same; iterate 11 (focus with_reducible rfl))
    | dsimp only
    | split

theorem State.writeCopy_onward {o : State} {s : State} {n : Nat} {j : Job} {d : Bytes} {key : Nat} {cores : List Nat} (h0 : Onward o s) : Onward o (State.writeCopy s n j d key cores) := by
  unfold State.writeCopy
  try dsimp only
  repeat' first
    | with_reducible assumption
    | with_reducible exact Onward.refl _
    | with_reducible apply State.countCopy_onward
    | with_reducible apply State.writeCopyPart_onward
    | with_reducible refine Onward.foldl _ (fun _ _ _ => ?_) _ _ ?_
    | with_reducible refine Onward.ite ?_ ?_
    | fail_if_no_progress (with_reducible apply Onward.same; iterate 11 (focus with_reducible rfl))
    | dsimp only
    | split

theorem State.writeCopies_onward {o : State} {s : State} {n : Nat} {j : Job} {layer : Nat} {key : Nat} (h0 : Onward o s) : Onward o (State.writeCopies s n j layer key) := by
  unfold State.writeCopies
  try dsimp only
  repeat' first
    | with_reducible assumption
    | with_reducible exact Onward.refl _
    | with_reducible apply State.writeCopy_onward
    | with_reducible refine Onward.foldl _ (fun _ _ _ => ?_) _ _ ?_
    | with_reducible refine Onward.ite ?_ ?_
    | fail_if_no_progress (with_reducible apply Onward.same; iterate 11 (focus with_reducible rfl))
    | dsimp only
    | split

theorem State.updateAdmitted_onward {o : State} {s : State} {n : Nat} {j : Job} {d : Bytes} {p : Scalars} {mode : Writes} {c : Nat} (h0 : Onward o s) : Onward o (State.updateAdmitted s n j d p mode c) := by
  unfold State.updateAdmitted
  try dsimp only
  repeat' first
    | with_reducible assumption
    | with_reducible exact Onward.refl _
    | with_reducible apply Joining.take_onward
    | with_reducible apply State.jobStore_onward
    | with_reducible apply State.storeVector_onward
    | with_reducible apply State.storeWeights_onward
    | with_reducible refine Onward.foldl _ (fun _ _ _ => ?_) _ _ ?_
    | with_reducible refine Onward.ite ?_ ?_
    | fail_if_no_progress (with_reducible apply Onward.same; iterate 11 (focus with_reducible rfl))
    | dsimp only
    | split

theorem State.updateChunk_onward {o : State} {s : State} {n : Nat} {j : Job} {d : Bytes} {p : Scalars} {mode : Writes} {c : Nat} (h0 : Onward o s) : Onward o (State.updateChunk s n j d p mode c) := by
  unfold State.updateChunk
  try dsimp only
  repeat' first
    | with_reducible assumption
    | with_reducible exact Onward.refl _
    | with_reducible refine State.routine_onward (fun _ _ => ?_) ?_
    | with_reducible apply State.updateAdmitted_onward
    | with_reducible refine Onward.foldl _ (fun _ _ _ => ?_) _ _ ?_
    | with_reducible refine Onward.ite ?_ ?_
    | fail_if_no_progress (with_reducible apply Onward.same; iterate 11 (focus with_reducible rfl))
    | dsimp only
    | split

theorem State.updateLayer_onward {o : State} {s : State} {n : Nat} {j : Job} {d : Bytes} {step : Nat} {k : Int} {f : Nat} {mode : Writes} (h0 : Onward o s) : Onward o (State.updateLayer s n j d step k f mode) := by
  unfold State.updateLayer
  try dsimp only
  repeat' first
    | with_reducible assumption
    | with_reducible exact Onward.refl _
    | with_reducible apply State.updateChunk_onward
    | with_reducible apply State.writeCopies_onward
    | with_reducible refine Onward.foldl _ (fun _ _ _ => ?_) _ _ ?_
    | with_reducible refine Onward.ite ?_ ?_
    | fail_if_no_progress (with_reducible apply Onward.same; iterate 11 (focus with_reducible rfl))
    | dsimp only
    | split

theorem State.restoreLayer_onward {o : State} {s : State} {n : Nat} {j : Job} {d : Bytes} {step : Nat} (h0 : Onward o s) : Onward o (State.restoreLayer s n j d step) := by
  unfold State.restoreLayer
  try dsimp only
  repeat' first
    | with_reducible assumption
    | with_reducible exact Onward.refl _
    | with_reducible refine State.routine_onward (fun _ _ => ?_) ?_
    | with_reducible apply State.storeWeights_onward
    | with_reducible apply State.writeCopies_onward
    | with_reducible refine Onward.foldl _ (fun _ _ _ => ?_) _ _ ?_
    | with_reducible refine Onward.ite ?_ ?_
    | fail_if_no_progress (with_reducible apply Onward.same; iterate 11 (focus with_reducible rfl))
    | dsimp only
    | split

end Sys2Proof.Machine
end

