-- ==== Sys2Proof/Laws/OnReduction.lean ====
section
/-!
SUPPORT. That every operation of Machine/Reduction.lean leads onward (Safety.lean).
-/
namespace Sys2Proof.Machine

set_option linter.unusedTactic false
set_option linter.unreachableTactic false

theorem State.putRun_onward {o : State} {s : State} {x : CollRun} (h0 : Onward o s) : Onward o (State.putRun s x) := by
  unfold State.putRun
  try dsimp only
  repeat' first
    | with_reducible assumption
    | with_reducible exact Onward.refl _
    | with_reducible refine Onward.foldl _ (fun _ _ _ => ?_) _ _ ?_
    | with_reducible refine Onward.ite ?_ ?_
    | fail_if_no_progress (with_reducible apply Onward.same; iterate 11 (focus with_reducible rfl))
    | dsimp only
    | split

theorem State.onColl_onward {o : State} {s : State} {job : Nat} {desc : Nat} {step : Nat} {f : CollRun → CollRun} (h0 : Onward o s) : Onward o (State.onColl s job desc step f) := by
  unfold State.onColl
  try dsimp only
  repeat' first
    | with_reducible assumption
    | with_reducible exact Onward.refl _
    | with_reducible apply State.putRun_onward
    | with_reducible refine Onward.foldl _ (fun _ _ _ => ?_) _ _ ?_
    | with_reducible refine Onward.ite ?_ ?_
    | fail_if_no_progress (with_reducible apply Onward.same; iterate 11 (focus with_reducible rfl))
    | dsimp only
    | split

theorem State.failCheck_onward {o : State} {s : State} {h : HandOver} {j : Job} {c : Coll} {check : Nat} {place : Nat} {tier : Nat} (h0 : Onward o s) : Onward o (State.failCheck s h j c check place tier) := by
  unfold State.failCheck
  try dsimp only
  repeat' first
    | with_reducible assumption
    | with_reducible exact Onward.refl _
    | with_reducible apply State.log_onward
    | with_reducible apply State.onRun_onward
    | with_reducible refine Onward.foldl _ (fun _ _ _ => ?_) _ _ ?_
    | with_reducible refine Onward.ite ?_ ?_
    | fail_if_no_progress (with_reducible apply Onward.same; iterate 11 (focus with_reducible rfl))
    | dsimp only
    | split

theorem State.writeResult_onward {o : State} {s : State} {h : HandOver} {j : Job} {c : Coll} (h0 : Onward o s) : Onward o (State.writeResult s h j c) := by
  unfold State.writeResult
  try dsimp only
  repeat' first
    | with_reducible assumption
    | with_reducible exact Onward.refl _
    | with_reducible apply State.jobStore_onward
    | with_reducible apply State.log_onward
    | with_reducible apply State.onColl_onward
    | with_reducible apply State.onRun_onward
    | with_reducible refine Onward.foldl _ (fun _ _ _ => ?_) _ _ ?_
    | with_reducible refine Onward.ite ?_ ?_
    | fail_if_no_progress (with_reducible apply Onward.same; iterate 11 (focus with_reducible rfl))
    | dsimp only
    | split

theorem State.sendChunk_onward {o : State} {s : State} {h : HandOver} {j : Job} {c : Coll} {hop : Nat} {dest : Nat} (h0 : Onward o s) : Onward o (State.sendChunk s h j c hop dest) := by
  unfold State.sendChunk
  try dsimp only
  repeat' first
    | with_reducible assumption
    | with_reducible exact Onward.refl _
    | with_reducible apply State.sendPacket_onward
    | with_reducible refine Onward.foldl _ (fun _ _ _ => ?_) _ _ ?_
    | with_reducible refine Onward.ite ?_ ?_
    | fail_if_no_progress (with_reducible apply Onward.same; iterate 11 (focus with_reducible rfl))
    | dsimp only
    | split

theorem State.arrive_onward {o : State} {s : State} {die : Nat} {h : HandOver} (h0 : Onward o s) : Onward o (State.arrive s die h) := by
  unfold State.arrive
  try dsimp only
  repeat' first
    | with_reducible assumption
    | with_reducible exact Onward.refl _
    | with_reducible apply State.setReduction_onward
    | with_reducible refine Onward.foldl _ (fun _ _ _ => ?_) _ _ ?_
    | with_reducible refine Onward.ite ?_ ?_
    | fail_if_no_progress (with_reducible apply Onward.same; iterate 11 (focus with_reducible rfl))
    | dsimp only
    | split

theorem State.spreadResult_onward {o : State} {s : State} {h : HandOver} {j : Job} {c : Coll} (h0 : Onward o s) : Onward o (State.spreadResult s h j c) := by
  unfold State.spreadResult
  try dsimp only
  repeat' first
    | with_reducible assumption
    | with_reducible exact Onward.refl _
    | with_reducible apply State.sendChunk_onward
    | with_reducible refine Onward.foldl _ (fun _ _ _ => ?_) _ _ ?_
    | with_reducible refine Onward.ite ?_ ?_
    | fail_if_no_progress (with_reducible apply Onward.same; iterate 11 (focus with_reducible rfl))
    | dsimp only
    | split

theorem State.takeResult_onward {o : State} {s : State} {h : HandOver} {j : Job} {c : Coll} (h0 : Onward o s) : Onward o (State.takeResult s h j c) := by
  unfold State.takeResult
  try dsimp only
  repeat' first
    | with_reducible assumption
    | with_reducible exact Onward.refl _
    | with_reducible apply State.failCheck_onward
    | with_reducible apply State.spreadResult_onward
    | with_reducible apply State.writeResult_onward
    | with_reducible refine Onward.foldl _ (fun _ _ _ => ?_) _ _ ?_
    | with_reducible refine Onward.ite ?_ ?_
    | fail_if_no_progress (with_reducible apply Onward.same; iterate 11 (focus with_reducible rfl))
    | dsimp only
    | split

theorem State.passResult_onward {o : State} {s : State} {die : Nat} {h : HandOver} {j : Job} {c : Coll} (h0 : Onward o s) : Onward o (State.passResult s die h j c) := by
  unfold State.passResult
  try dsimp only
  repeat' first
    | with_reducible assumption
    | with_reducible exact Onward.refl _
    | with_reducible apply State.takeResult_onward
    | with_reducible refine Onward.foldl _ (fun _ _ _ => ?_) _ _ ?_
    | with_reducible refine Onward.ite ?_ ?_
    | fail_if_no_progress (with_reducible apply Onward.same; iterate 11 (focus with_reducible rfl))
    | dsimp only
    | split

theorem State.passPartial_onward {o : State} {s : State} {die : Nat} {h : HandOver} {j : Job} {c : Coll} (h0 : Onward o s) : Onward o (State.passPartial s die h j c) := by
  unfold State.passPartial
  try dsimp only
  repeat' first
    | with_reducible assumption
    | with_reducible exact Onward.refl _
    | with_reducible apply State.arrive_onward
    | with_reducible apply State.passResult_onward
    | with_reducible apply State.sendChunk_onward
    | with_reducible refine Onward.foldl _ (fun _ _ _ => ?_) _ _ ?_
    | with_reducible refine Onward.ite ?_ ?_
    | fail_if_no_progress (with_reducible apply Onward.same; iterate 11 (focus with_reducible rfl))
    | dsimp only
    | split

theorem State.holdInput_onward {o : State} {s : State} {die : Nat} {h : HandOver} {failed : Bool} (h0 : Onward o s) : Onward o (State.holdInput s die h failed) := by
  unfold State.holdInput
  try dsimp only
  repeat' first
    | with_reducible assumption
    | with_reducible exact Onward.refl _
    | with_reducible apply State.setReduction_onward
    | with_reducible refine Onward.foldl _ (fun _ _ _ => ?_) _ _ ?_
    | with_reducible refine Onward.ite ?_ ?_
    | fail_if_no_progress (with_reducible apply Onward.same; iterate 11 (focus with_reducible rfl))
    | dsimp only
    | split

theorem State.takeContribution_onward {o : State} {s : State} {die : Nat} {h : HandOver} {j : Job} {c : Coll} {failed : Bool} (h0 : Onward o s) : Onward o (State.takeContribution s die h j c failed) := by
  unfold State.takeContribution
  try dsimp only
  repeat' first
    | with_reducible assumption
    | with_reducible exact Onward.refl _
    | with_reducible apply State.holdInput_onward
    | with_reducible apply State.passPartial_onward
    | with_reducible apply State.sendChunk_onward
    | with_reducible refine Onward.foldl _ (fun _ _ _ => ?_) _ _ ?_
    | with_reducible refine Onward.ite ?_ ?_
    | fail_if_no_progress (with_reducible apply Onward.same; iterate 11 (focus with_reducible rfl))
    | dsimp only
    | split

theorem State.meetPartner_onward {o : State} {s : State} {die : Nat} {h : HandOver} {j : Job} {c : Coll} (h0 : Onward o s) : Onward o (State.meetPartner s die h j c) := by
  unfold State.meetPartner
  try dsimp only
  repeat' first
    | with_reducible assumption
    | with_reducible exact Onward.refl _
    | with_reducible apply State.holdInput_onward
    | with_reducible apply State.setReduction_onward
    | with_reducible apply State.takeContribution_onward
    | with_reducible refine Onward.foldl _ (fun _ _ _ => ?_) _ _ ?_
    | with_reducible refine Onward.ite ?_ ?_
    | fail_if_no_progress (with_reducible apply Onward.same; iterate 11 (focus with_reducible rfl))
    | dsimp only
    | split

theorem State.dropChunk_onward {o : State} {s : State} {h : HandOver} (h0 : Onward o s) : Onward o (State.dropChunk s h) := by
  unfold State.dropChunk
  try dsimp only
  repeat' first
    | with_reducible assumption
    | with_reducible exact Onward.refl _
    | with_reducible apply State.log_onward
    | with_reducible apply State.note_onward
    | with_reducible refine Onward.foldl _ (fun _ _ _ => ?_) _ _ ?_
    | with_reducible refine Onward.ite ?_ ?_
    | fail_if_no_progress (with_reducible apply Onward.same; iterate 11 (focus with_reducible rfl))
    | dsimp only
    | split

theorem State.receiveChunk_onward {o : State} {s : State} {die : Nat} {h : HandOver} (h0 : Onward o s) : Onward o (State.receiveChunk s die h) := by
  unfold State.receiveChunk
  try dsimp only
  repeat' first
    | with_reducible assumption
    | with_reducible exact Onward.refl _
    | with_reducible apply State.dropChunk_onward
    | with_reducible apply State.failCheck_onward
    | with_reducible apply State.holdInput_onward
    | with_reducible apply State.meetPartner_onward
    | with_reducible apply State.setReduction_onward
    | with_reducible apply State.takeContribution_onward
    | with_reducible apply State.takeResult_onward
    | with_reducible refine Onward.foldl _ (fun _ _ _ => ?_) _ _ ?_
    | with_reducible refine Onward.ite ?_ ?_
    | fail_if_no_progress (with_reducible apply Onward.same; iterate 11 (focus with_reducible rfl))
    | dsimp only
    | split

theorem execChunkReceive_onward {die : Nat} {s : State} : Ends s (execChunkReceive die s) := by
  unfold execChunkReceive
  try dsimp only
  repeat' first
    | with_reducible assumption
    | with_reducible exact Onward.refl _
    | with_reducible apply Ends.onUnit
    | with_reducible apply Ends.whenDue
    | with_reducible apply Ends.next
    | with_reducible apply State.receiveChunk_onward
    | with_reducible apply State.setReduction_onward
    | with_reducible refine Onward.foldl _ (fun _ _ _ => ?_) _ _ ?_
    | with_reducible refine Onward.ite ?_ ?_
    | fail_if_no_progress (with_reducible apply Onward.same; iterate 11 (focus with_reducible rfl))
    | dsimp only
    | split

theorem State.addUp_onward {o : State} {s : State} {die : Nat} {first : Held} {group : List Held} (h0 : Onward o s) : Onward o (State.addUp s die first group) := by
  unfold State.addUp
  try dsimp only
  repeat' first
    | with_reducible assumption
    | with_reducible exact Onward.refl _
    | with_reducible apply State.failCheck_onward
    | with_reducible apply State.passPartial_onward
    | with_reducible apply State.passResult_onward
    | with_reducible apply State.setReduction_onward
    | with_reducible refine Onward.foldl _ (fun _ _ _ => ?_) _ _ ?_
    | with_reducible refine Onward.ite ?_ ?_
    | fail_if_no_progress (with_reducible apply Onward.same; iterate 11 (focus with_reducible rfl))
    | dsimp only
    | split

theorem execAdder_onward {die : Nat} {s : State} : Ends s (execAdder die s) := by
  unfold execAdder
  try dsimp only
  repeat' first
    | with_reducible assumption
    | with_reducible exact Onward.refl _
    | with_reducible apply Ends.onUnit
    | with_reducible apply Ends.whenDue
    | with_reducible apply Ends.next
    | with_reducible apply State.addUp_onward
    | with_reducible refine Onward.foldl _ (fun _ _ _ => ?_) _ _ ?_
    | with_reducible refine Onward.ite ?_ ?_
    | fail_if_no_progress (with_reducible apply Onward.same; iterate 11 (focus with_reducible rfl))
    | dsimp only
    | split

theorem State.packed_onward {o : State} {s : State} {job : Nat} {j : Job} {step : Nat} {desc : Nat} {chunk : Nat} {bytes : Bytes} (h0 : Onward o s) : Onward o (State.packed s job j step desc chunk bytes) := by
  unfold State.packed
  try dsimp only
  repeat' first
    | with_reducible assumption
    | with_reducible exact Onward.refl _
    | with_reducible apply State.arrive_onward
    | with_reducible apply State.jobStore_onward
    | with_reducible apply State.onColl_onward
    | with_reducible refine Onward.foldl _ (fun _ _ _ => ?_) _ _ ?_
    | with_reducible refine Onward.ite ?_ ?_
    | fail_if_no_progress (with_reducible apply Onward.same; iterate 11 (focus with_reducible rfl))
    | dsimp only
    | split

theorem State.resend_onward {o : State} {s : State} {job : Nat} {j : Job} {step : Nat} {chunk : Nat} (h0 : Onward o s) : Onward o (State.resend s job j step chunk) := by
  unfold State.resend
  try dsimp only
  repeat' first
    | with_reducible assumption
    | with_reducible exact Onward.refl _
    | with_reducible apply State.arrive_onward
    | with_reducible refine Onward.foldl _ (fun _ _ _ => ?_) _ _ ?_
    | with_reducible refine Onward.ite ?_ ?_
    | fail_if_no_progress (with_reducible apply Onward.same; iterate 11 (focus with_reducible rfl))
    | dsimp only
    | split

end Sys2Proof.Machine
end

