-- ==== Sys2Proof/Laws/OnCoreWords.lean ====
section
/-!
SUPPORT. That every operation of Machine/CoreWords.lean leads onward (Safety.lean).
-/
namespace Sys2Proof.Machine

set_option linter.unusedTactic false
set_option linter.unreachableTactic false

theorem State.enqueueTable_onward {o : State} {s : State} {q : Nat} {r : TableReq} (h0 : Onward o s) : Onward o (State.enqueueTable s q r) := by
  unfold State.enqueueTable
  try dsimp only
  repeat' first
    | with_reducible assumption
    | with_reducible exact Onward.refl _
    | with_reducible refine Onward.foldl _ (fun _ _ _ => ?_) _ _ ?_
    | with_reducible refine Onward.ite ?_ ?_
    | fail_if_no_progress (with_reducible apply Onward.same; iterate 11 (focus with_reducible rfl))
    | dsimp only
    | split

theorem State.coreHalted_onward {o : State} {s : State} {n : Nat} (h0 : Onward o s) : Onward o (State.coreHalted s n) := by
  unfold State.coreHalted
  try dsimp only
  repeat' first
    | with_reducible assumption
    | with_reducible exact Onward.refl _
    | with_reducible apply State.faultAtelier_onward
    | with_reducible refine Onward.foldl _ (fun _ _ _ => ?_) _ _ ?_
    | with_reducible refine Onward.ite ?_ ?_
    | fail_if_no_progress (with_reducible apply Onward.same; iterate 11 (focus with_reducible rfl))
    | dsimp only
    | split

theorem State.takeOut_onward {o : State} {s : State} {n : Nat} {what : Out} (h0 : Onward o s) : Onward o (State.takeOut s n what) := by
  unfold State.takeOut
  try dsimp only
  repeat' first
    | with_reducible assumption
    | with_reducible exact Onward.refl _
    | with_reducible apply State.coreHalted_onward
    | with_reducible apply State.enqueueTable_onward
    | with_reducible apply State.onColl_onward
    | with_reducible apply State.packed_onward
    | with_reducible apply State.store_onward
    | with_reducible apply Store.settle_onward
    | with_reducible refine Onward.foldl _ (fun _ _ _ => ?_) _ _ ?_
    | with_reducible refine Onward.ite ?_ ?_
    | fail_if_no_progress (with_reducible apply Onward.same; iterate 11 (focus with_reducible rfl))
    | dsimp only
    | split

theorem State.settleCore_onward {o : State} {s : State} {n : Nat} {i : Issued} (h0 : Onward o s) : Onward o (State.settleCore s n i) := by
  unfold State.settleCore
  try dsimp only
  repeat' first
    | with_reducible assumption
    | with_reducible exact Onward.refl _
    | with_reducible apply State.setCore_onward
    | with_reducible apply State.takeOut_onward
    | with_reducible refine Onward.foldl _ (fun _ _ _ => ?_) _ _ ?_
    | with_reducible refine Onward.ite ?_ ?_
    | fail_if_no_progress (with_reducible apply Onward.same; iterate 11 (focus with_reducible rfl))
    | dsimp only
    | split

theorem State.retireFor_onward {o : State} {s : State} {n : Nat} {upset : Bool} (h0 : Onward o s) : Onward o (State.retireFor s n upset) := by
  unfold State.retireFor
  try dsimp only
  repeat' first
    | with_reducible assumption
    | with_reducible exact Onward.refl _
    | with_reducible apply State.endRekey_onward
    | with_reducible refine Onward.foldl _ (fun _ _ _ => ?_) _ _ ?_
    | with_reducible refine Onward.ite ?_ ?_
    | fail_if_no_progress (with_reducible apply Onward.same; iterate 11 (focus with_reducible rfl))
    | dsimp only
    | split

theorem State.beatOf_onward {o : State} {s : State} {n : Nat} {upset : Bool} (h0 : Onward o s) : Onward o (State.beatOf s n upset) := by
  unfold State.beatOf
  try dsimp only
  repeat' first
    | with_reducible assumption
    | with_reducible exact Onward.refl _
    | with_reducible apply State.retireFor_onward
    | with_reducible apply State.settleCore_onward
    | with_reducible refine Onward.foldl _ (fun _ _ _ => ?_) _ _ ?_
    | with_reducible refine Onward.ite ?_ ?_
    | fail_if_no_progress (with_reducible apply Onward.same; iterate 11 (focus with_reducible rfl))
    | dsimp only
    | split

theorem wordRow_onward {n : Nat} {upset : Bool} {s : State} {names : Word256 → Bool} : Ends s (wordRow n upset s names) := by
  unfold wordRow
  try dsimp only
  repeat' first
    | with_reducible assumption
    | with_reducible exact Onward.refl _
    | with_reducible apply Ends.onUnit
    | with_reducible apply Ends.whenDue
    | with_reducible apply Ends.next
    | with_reducible apply State.beatOf_onward
    | with_reducible refine Onward.foldl _ (fun _ _ _ => ?_) _ _ ?_
    | with_reducible refine Onward.ite ?_ ?_
    | fail_if_no_progress (with_reducible apply Onward.same; iterate 11 (focus with_reducible rfl))
    | dsimp only
    | split

theorem State.landNext_onward {o : State} {s : State} {n : Nat} {token : Bool} (h0 : Onward o s) : Onward o (State.landNext s n token) := by
  unfold State.landNext
  try dsimp only
  repeat' first
    | with_reducible assumption
    | with_reducible exact Onward.refl _
    | with_reducible apply State.settleCore_onward
    | with_reducible refine Onward.foldl _ (fun _ _ _ => ?_) _ _ ?_
    | with_reducible refine Onward.ite ?_ ?_
    | fail_if_no_progress (with_reducible apply Onward.same; iterate 11 (focus with_reducible rfl))
    | dsimp only
    | split

theorem execTokenLanding_onward {core : Nat} {s : State} : Ends s (execTokenLanding core s) := by
  unfold execTokenLanding
  try dsimp only
  repeat' first
    | with_reducible assumption
    | with_reducible exact Onward.refl _
    | with_reducible apply Ends.onUnit
    | with_reducible apply Ends.whenDue
    | with_reducible apply Ends.next
    | with_reducible apply State.landNext_onward
    | with_reducible refine Onward.foldl _ (fun _ _ _ => ?_) _ _ ?_
    | with_reducible refine Onward.ite ?_ ?_
    | fail_if_no_progress (with_reducible apply Onward.same; iterate 11 (focus with_reducible rfl))
    | dsimp only
    | split

theorem execOperationLanding_onward {core : Nat} {s : State} : Ends s (execOperationLanding core s) := by
  unfold execOperationLanding
  try dsimp only
  repeat' first
    | with_reducible assumption
    | with_reducible exact Onward.refl _
    | with_reducible apply Ends.onUnit
    | with_reducible apply Ends.whenDue
    | with_reducible apply Ends.next
    | with_reducible apply State.landNext_onward
    | with_reducible refine Onward.foldl _ (fun _ _ _ => ?_) _ _ ?_
    | with_reducible refine Onward.ite ?_ ?_
    | fail_if_no_progress (with_reducible apply Onward.same; iterate 11 (focus with_reducible rfl))
    | dsimp only
    | split

theorem execHeldWeightRowWrite_onward {core : Nat} {s : State} : Ends s (execHeldWeightRowWrite core s) := by
  unfold execHeldWeightRowWrite
  try dsimp only
  repeat' first
    | with_reducible assumption
    | with_reducible exact Onward.refl _
    | with_reducible apply Ends.onUnit
    | with_reducible apply Ends.whenDue
    | with_reducible apply Ends.next
    | with_reducible apply State.setCore_onward
    | with_reducible refine Onward.foldl _ (fun _ _ _ => ?_) _ _ ?_
    | with_reducible refine Onward.ite ?_ ?_
    | fail_if_no_progress (with_reducible apply Onward.same; iterate 11 (focus with_reducible rfl))
    | dsimp only
    | split

theorem execRunAheadFetch_onward {core : Nat} {gen : Nat} {s : State} : Ends s (execRunAheadFetch core gen s) := by
  unfold execRunAheadFetch
  try dsimp only
  repeat' first
    | with_reducible assumption
    | with_reducible exact Onward.refl _
    | with_reducible apply Ends.onUnit
    | with_reducible apply Ends.whenDue
    | with_reducible apply Ends.next
    | with_reducible apply State.setCore_onward
    | with_reducible refine Onward.foldl _ (fun _ _ _ => ?_) _ _ ?_
    | with_reducible refine Onward.ite ?_ ?_
    | fail_if_no_progress (with_reducible apply Onward.same; iterate 11 (focus with_reducible rfl))
    | dsimp only
    | split

theorem State.poisonReservoir_onward {o : State} {s : State} {line : Nat} (h0 : Onward o s) : Onward o (State.poisonReservoir s line) := by
  unfold State.poisonReservoir
  try dsimp only
  repeat' first
    | with_reducible assumption
    | with_reducible exact Onward.refl _
    | with_reducible apply State.noteOf_onward
    | with_reducible refine Onward.foldl _ (fun _ _ _ => ?_) _ _ ?_
    | with_reducible refine Onward.ite ?_ ?_
    | fail_if_no_progress (with_reducible apply Onward.same; iterate 11 (focus with_reducible rfl))
    | dsimp only
    | split

theorem execStagedLineArrival_onward {core : Nat} {gen : Nat} {bad : Bool} {s : State} : Ends s (execStagedLineArrival core gen bad s) := by
  unfold execStagedLineArrival
  try dsimp only
  repeat' first
    | with_reducible assumption
    | with_reducible exact Onward.refl _
    | refine Onward.getD (Onward.map_some _ (fun _ => ?_)) ?_
    | with_reducible apply Ends.onUnit
    | with_reducible apply Ends.whenDue
    | with_reducible apply Ends.next
    | with_reducible apply State.poisonReservoir_onward
    | with_reducible apply State.setCore_onward
    | with_reducible refine Onward.foldl _ (fun _ _ _ => ?_) _ _ ?_
    | with_reducible refine Onward.ite ?_ ?_
    | fail_if_no_progress (with_reducible apply Onward.same; iterate 11 (focus with_reducible rfl))
    | dsimp only
    | split

theorem execChunkPacker_onward {core : Nat} {s : State} : Ends s (execChunkPacker core s) := by
  unfold execChunkPacker
  try dsimp only
  repeat' first
    | with_reducible assumption
    | with_reducible exact Onward.refl _
    | with_reducible apply Ends.onUnit
    | with_reducible apply Ends.whenDue
    | with_reducible apply Ends.next
    | with_reducible apply State.packed_onward
    | with_reducible apply State.setCore_onward
    | with_reducible refine Onward.foldl _ (fun _ _ _ => ?_) _ _ ?_
    | with_reducible refine Onward.ite ?_ ?_
    | fail_if_no_progress (with_reducible apply Onward.same; iterate 11 (focus with_reducible rfl))
    | dsimp only
    | split

theorem State.outcome_onward {o : State} {s : State} {m : Msg} {delivered : Bool} (h0 : Onward o s) : Onward o (State.outcome s m delivered) := by
  unfold State.outcome
  try dsimp only
  repeat' first
    | with_reducible assumption
    | with_reducible exact Onward.refl _
    | with_reducible refine Onward.foldl _ (fun _ _ _ => ?_) _ _ ?_
    | with_reducible refine Onward.ite ?_ ?_
    | fail_if_no_progress (with_reducible apply Onward.same; iterate 11 (focus with_reducible rfl))
    | dsimp only
    | split

theorem execMessageArrival_onward {index : Nat} {s : State} : Ends s (execMessageArrival index s) := by
  unfold execMessageArrival
  try dsimp only
  repeat' first
    | with_reducible assumption
    | with_reducible exact Onward.refl _
    | with_reducible apply Ends.onUnit
    | with_reducible apply Ends.whenDue
    | with_reducible apply Ends.next
    | with_reducible apply State.noteOf_onward
    | with_reducible apply State.outcome_onward
    | with_reducible apply State.setCore_onward
    | with_reducible apply State.settleStop_onward
    | with_reducible refine Onward.foldl _ (fun _ _ _ => ?_) _ _ ?_
    | with_reducible refine Onward.ite ?_ ?_
    | fail_if_no_progress (with_reducible apply Onward.same; iterate 11 (focus with_reducible rfl))
    | dsimp only
    | split

theorem execSendCompletion_onward {index : Nat} {s : State} : Ends s (execSendCompletion index s) := by
  unfold execSendCompletion
  try dsimp only
  repeat' first
    | with_reducible assumption
    | with_reducible exact Onward.refl _
    | with_reducible apply Ends.onUnit
    | with_reducible apply Ends.whenDue
    | with_reducible apply Ends.next
    | with_reducible apply State.setCore_onward
    | with_reducible apply State.settleStop_onward
    | with_reducible refine Onward.foldl _ (fun _ _ _ => ?_) _ _ ?_
    | with_reducible refine Onward.ite ?_ ?_
    | fail_if_no_progress (with_reducible apply Onward.same; iterate 11 (focus with_reducible rfl))
    | dsimp only
    | split

end Sys2Proof.Machine
end

