-- ==== Sys2Proof/Laws/OnArrayWords.lean ====
section
/-!
SUPPORT. That every operation of Machine/ArrayWords.lean leads onward (Safety.lean).
-/
namespace Sys2Proof.Machine

set_option linter.unusedTactic false
set_option linter.unreachableTactic false

theorem execStreamAccumulate_onward {core : Nat} {upset : Bool} {s : State} : Ends s (execStreamAccumulate core upset s) := wordRow_onward

theorem execStreamInitialise_onward {core : Nat} {upset : Bool} {s : State} : Ends s (execStreamInitialise core upset s) := wordRow_onward

theorem execWash_onward {core : Nat} {upset : Bool} {s : State} : Ends s (execWash core upset s) := wordRow_onward

theorem execWashTransposed_onward {core : Nat} {upset : Bool} {s : State} : Ends s (execWashTransposed core upset s) := wordRow_onward

theorem execReadout_onward {core : Nat} {upset : Bool} {s : State} : Ends s (execReadout core upset s) := wordRow_onward

theorem execCollectiveTrigger_onward {core : Nat} {upset : Bool} {s : State} : Ends s (execCollectiveTrigger core upset s) := wordRow_onward

theorem execLoopClose_onward {core : Nat} {upset : Bool} {s : State} : Ends s (execLoopClose core upset s) := wordRow_onward

theorem execConditionalExit_onward {core : Nat} {upset : Bool} {s : State} : Ends s (execConditionalExit core upset s) := wordRow_onward

theorem execSetLevel_onward {core : Nat} {upset : Bool} {s : State} : Ends s (execSetLevel core upset s) := wordRow_onward

theorem execSetBase_onward {core : Nat} {upset : Bool} {s : State} : Ends s (execSetBase core upset s) := wordRow_onward

theorem execSetStrides_onward {core : Nat} {upset : Bool} {s : State} : Ends s (execSetStrides core upset s) := wordRow_onward

theorem execSetStream_onward {core : Nat} {upset : Bool} {s : State} : Ends s (execSetStream core upset s) := wordRow_onward

theorem execLoadImm_onward {core : Nat} {upset : Bool} {s : State} : Ends s (execLoadImm core upset s) := wordRow_onward

theorem execSendMessage_onward {core : Nat} {upset : Bool} {s : State} : Ends s (execSendMessage core upset s) := wordRow_onward

theorem execPostWindow_onward {core : Nat} {upset : Bool} {s : State} : Ends s (execPostWindow core upset s) := wordRow_onward

theorem execWaitRecv_onward {core : Nat} {upset : Bool} {s : State} : Ends s (execWaitRecv core upset s) := wordRow_onward

theorem execWaitSend_onward {core : Nat} {upset : Bool} {s : State} : Ends s (execWaitSend core upset s) := wordRow_onward

theorem execCollectiveBind_onward {core : Nat} {upset : Bool} {s : State} : Ends s (execCollectiveBind core upset s) := wordRow_onward

theorem execUnbind_onward {core : Nat} {upset : Bool} {s : State} : Ends s (execUnbind core upset s) := wordRow_onward

theorem execEndProgram_onward {core : Nat} {upset : Bool} {s : State} : Ends s (execEndProgram core upset s) := wordRow_onward

theorem execBreakPoint_onward {core : Nat} {upset : Bool} {s : State} : Ends s (execBreakPoint core upset s) := wordRow_onward

theorem execCheckRegister_onward {core : Nat} {upset : Bool} {s : State} : Ends s (execCheckRegister core upset s) := wordRow_onward

theorem execIllegalFormatWord_onward {core : Nat} {upset : Bool} {s : State} : Ends s (execIllegalFormatWord core upset s) := wordRow_onward

end Sys2Proof.Machine
end

