-- ==== Sys2Proof/Laws/OnLinks.lean ====
section
/-!
SUPPORT. That every operation of Machine/Links.lean leads onward (Safety.lean).
-/
namespace Sys2Proof.Machine

set_option linter.unusedTactic false
set_option linter.unreachableTactic false

theorem execPortBringUp_onward {port : Nat} {s : State} : Ends s (execPortBringUp port s) := by
  unfold execPortBringUp
  try dsimp only
  repeat' first
    | with_reducible assumption
    | with_reducible exact Onward.refl _
    | with_reducible apply Ends.onUnit
    | with_reducible apply Ends.whenDue
    | with_reducible apply Ends.next
    | with_reducible apply State.note_onward
    | with_reducible apply State.setPort_onward
    | with_reducible refine Onward.foldl _ (fun _ _ _ => ?_) _ _ ?_
    | with_reducible refine Onward.ite ?_ ?_
    | fail_if_no_progress (with_reducible apply Onward.same; iterate 11 (focus with_reducible rfl))
    | dsimp only
    | split

theorem execPeerDetectTimeout_onward {port : Nat} {s : State} : Ends s (execPeerDetectTimeout port s) := by
  unfold execPeerDetectTimeout
  try dsimp only
  repeat' first
    | with_reducible assumption
    | with_reducible exact Onward.refl _
    | with_reducible apply Ends.onUnit
    | with_reducible apply Ends.whenDue
    | with_reducible apply Ends.next
    | with_reducible apply State.reach_onward
    | with_reducible apply State.setPort_onward
    | with_reducible refine Onward.foldl _ (fun _ _ _ => ?_) _ _ ?_
    | with_reducible refine Onward.ite ?_ ?_
    | fail_if_no_progress (with_reducible apply Onward.same; iterate 11 (focus with_reducible rfl))
    | dsimp only
    | split

theorem execEqualisationAttempt_onward {port : Nat} {success : Bool} {s : State} : Ends s (execEqualisationAttempt port success s) := by
  unfold execEqualisationAttempt
  try dsimp only
  repeat' first
    | with_reducible assumption
    | with_reducible exact Onward.refl _
    | with_reducible apply Ends.onUnit
    | with_reducible apply Ends.whenDue
    | with_reducible apply Ends.next
    | with_reducible apply State.note_onward
    | with_reducible apply State.setPort_onward
    | with_reducible refine Onward.foldl _ (fun _ _ _ => ?_) _ _ ?_
    | with_reducible refine Onward.ite ?_ ?_
    | fail_if_no_progress (with_reducible apply Onward.same; iterate 11 (focus with_reducible rfl))
    | dsimp only
    | split

theorem execBringUpRetry_onward {port : Nat} {s : State} : Ends s (execBringUpRetry port s) := by
  unfold execBringUpRetry
  try dsimp only
  repeat' first
    | with_reducible assumption
    | with_reducible exact Onward.refl _
    | with_reducible apply Ends.onUnit
    | with_reducible apply Ends.whenDue
    | with_reducible apply Ends.next
    | with_reducible apply State.reach_onward
    | with_reducible apply State.setPort_onward
    | with_reducible refine Onward.foldl _ (fun _ _ _ => ?_) _ _ ?_
    | with_reducible refine Onward.ite ?_ ?_
    | fail_if_no_progress (with_reducible apply Onward.same; iterate 11 (focus with_reducible rfl))
    | dsimp only
    | split

theorem State.sendSession_onward {o : State} {s : State} {peer : Nat} {kind : Nat} {payload : Bytes} (h0 : Onward o s) : Onward o (State.sendSession s peer kind payload) := by
  unfold State.sendSession
  try dsimp only
  repeat' first
    | with_reducible assumption
    | with_reducible exact Onward.refl _
    | with_reducible apply State.sendPacket_onward
    | with_reducible refine Onward.foldl _ (fun _ _ _ => ?_) _ _ ?_
    | with_reducible refine Onward.ite ?_ ?_
    | fail_if_no_progress (with_reducible apply Onward.same; iterate 11 (focus with_reducible rfl))
    | dsimp only
    | split

theorem State.openHandshake_onward {o : State} {s : State} {peer : Nat} (h0 : Onward o s) : Onward o (State.openHandshake s peer) := by
  unfold State.openHandshake
  try dsimp only
  repeat' first
    | with_reducible assumption
    | with_reducible exact Onward.refl _
    | with_reducible apply State.sendSession_onward
    | with_reducible apply State.setSession_onward
    | with_reducible refine Onward.foldl _ (fun _ _ _ => ?_) _ _ ?_
    | with_reducible refine Onward.ite ?_ ?_
    | fail_if_no_progress (with_reducible apply Onward.same; iterate 11 (focus with_reducible rfl))
    | fail_if_no_progress (with_reducible apply Onward.draws; all_goals try with_reducible rfl)
    | dsimp only
    | split

theorem State.failHandshake_onward {o : State} {s : State} {peer : Nat} (h0 : Onward o s) : Onward o (State.failHandshake s peer) := by
  unfold State.failHandshake
  try dsimp only
  repeat' first
    | with_reducible assumption
    | with_reducible exact Onward.refl _
    | with_reducible apply State.note_onward
    | with_reducible apply State.setSession_onward
    | with_reducible refine Onward.foldl _ (fun _ _ _ => ?_) _ _ ?_
    | with_reducible refine Onward.ite ?_ ?_
    | fail_if_no_progress (with_reducible apply Onward.same; iterate 11 (focus with_reducible rfl))
    | dsimp only
    | split

theorem State.openSession_onward {o : State} {s : State} {peer : Nat} {k : SessionKeys} {peerKey : BitVec 512} (h0 : Onward o s) : Onward o (State.openSession s peer k peerKey) := by
  unfold State.openSession
  try dsimp only
  repeat' first
    | with_reducible assumption
    | with_reducible exact Onward.refl _
    | with_reducible apply State.setSession_onward
    | with_reducible apply State.window_onward
    | with_reducible refine Onward.foldl _ (fun _ _ _ => ?_) _ _ ?_
    | with_reducible refine Onward.ite ?_ ?_
    | fail_if_no_progress (with_reducible apply Onward.same; iterate 11 (focus with_reducible rfl))
    | dsimp only
    | split

theorem State.openSessions_onward {o : State} {s : State} {p : Nat} (h0 : Onward o s) : Onward o (State.openSessions s p) := by
  unfold State.openSessions
  try dsimp only
  repeat' first
    | with_reducible assumption
    | with_reducible exact Onward.refl _
    | with_reducible apply State.openHandshake_onward
    | with_reducible refine Onward.foldl _ (fun _ _ _ => ?_) _ _ ?_
    | with_reducible refine Onward.ite ?_ ?_
    | fail_if_no_progress (with_reducible apply Onward.same; iterate 11 (focus with_reducible rfl))
    | dsimp only
    | split

theorem execSessionRetry_onward {peer : Nat} {s : State} : Ends s (execSessionRetry peer s) := by
  unfold execSessionRetry
  try dsimp only
  repeat' first
    | with_reducible assumption
    | with_reducible exact Onward.refl _
    | with_reducible apply Ends.onUnit
    | with_reducible apply Ends.whenDue
    | with_reducible apply Ends.next
    | with_reducible apply State.openHandshake_onward
    | with_reducible apply State.reach_onward
    | with_reducible apply State.setSession_onward
    | with_reducible refine Onward.foldl _ (fun _ _ _ => ?_) _ _ ?_
    | with_reducible refine Onward.ite ?_ ?_
    | fail_if_no_progress (with_reducible apply Onward.same; iterate 11 (focus with_reducible rfl))
    | dsimp only
    | split

theorem execSessionRekey_onward {peer : Nat} {s : State} : Ends s (execSessionRekey peer s) := by
  unfold execSessionRekey
  try dsimp only
  repeat' first
    | with_reducible assumption
    | with_reducible exact Onward.refl _
    | with_reducible apply Ends.onUnit
    | with_reducible apply Ends.whenDue
    | with_reducible apply Ends.next
    | with_reducible apply State.openHandshake_onward
    | with_reducible refine Onward.foldl _ (fun _ _ _ => ?_) _ _ ?_
    | with_reducible refine Onward.ite ?_ ?_
    | fail_if_no_progress (with_reducible apply Onward.same; iterate 11 (focus with_reducible rfl))
    | dsimp only
    | split

theorem State.takePacket_onward {o : State} {s : State} {port : Nat} {p : Packet} (h0 : Onward o s) : Onward o (State.takePacket s port p) := by
  unfold State.takePacket
  try dsimp only
  repeat' first
    | with_reducible assumption
    | with_reducible exact Onward.refl _
    | with_reducible apply State.setPort_onward
    | with_reducible refine Onward.foldl _ (fun _ _ _ => ?_) _ _ ?_
    | with_reducible refine Onward.ite ?_ ?_
    | fail_if_no_progress (with_reducible apply Onward.same; iterate 11 (focus with_reducible rfl))
    | dsimp only
    | split

theorem packetRow_onward {port ptype : Nat} {s : State} {sub : Packet → Bool} {f : State → Packet → State} (hf : ∀ u p, Onward s u → Onward s (f u p)) :
    Ends s (packetRow port ptype s sub f) := by
  unfold packetRow
  refine Ends.onUnit ?_
  split
  · exact Ends.next (hf _ _ (State.takePacket_onward (Onward.refl _)))
  · exact Ends.next (Onward.refl _)

theorem State.hearFirst_onward {o : State} {s : State} {p : Packet} (h0 : Onward o s) : Onward o (State.hearFirst s p) := by
  unfold State.hearFirst
  try dsimp only
  repeat' first
    | with_reducible assumption
    | with_reducible exact Onward.refl _
    | with_reducible apply State.failHandshake_onward
    | with_reducible apply State.sendSession_onward
    | with_reducible apply State.setSession_onward
    | with_reducible refine Onward.foldl _ (fun _ _ _ => ?_) _ _ ?_
    | with_reducible refine Onward.ite ?_ ?_
    | fail_if_no_progress (with_reducible apply Onward.same; iterate 11 (focus with_reducible rfl))
    | fail_if_no_progress (with_reducible apply Onward.draws; all_goals try with_reducible rfl)
    | dsimp only
    | split

theorem State.hearSecond_onward {o : State} {s : State} {p : Packet} (h0 : Onward o s) : Onward o (State.hearSecond s p) := by
  unfold State.hearSecond
  dsimp only
  split
  · exact State.failHandshake_onward h0
  · split
    · exact State.failHandshake_onward h0
    · refine State.sendSession_onward (State.openSession_onward ?_)
      apply Onward.draws <;> first | with_reducible assumption | with_reducible rfl

theorem State.hearThird_onward {o : State} {s : State} {p : Packet} (h0 : Onward o s) : Onward o (State.hearThird s p) := by
  unfold State.hearThird
  dsimp only
  split
  · exact State.failHandshake_onward h0
  · split
    · exact State.failHandshake_onward h0
    · exact State.openSession_onward h0

theorem execSessionKind1_onward {port : Nat} {s : State} : Ends s (execSessionKind1 port s) := by
  unfold execSessionKind1
  try dsimp only
  repeat' first
    | with_reducible assumption
    | with_reducible exact Onward.refl _
    | with_reducible apply Ends.onUnit
    | with_reducible apply Ends.whenDue
    | with_reducible apply Ends.next
    | with_reducible apply State.hearFirst_onward
    | with_reducible refine packetRow_onward (fun _ _ _ => ?_)
    | with_reducible refine Onward.foldl _ (fun _ _ _ => ?_) _ _ ?_
    | with_reducible refine Onward.ite ?_ ?_
    | fail_if_no_progress (with_reducible apply Onward.same; iterate 11 (focus with_reducible rfl))
    | dsimp only
    | split

theorem execSessionKind2_onward {port : Nat} {s : State} : Ends s (execSessionKind2 port s) := by
  unfold execSessionKind2
  try dsimp only
  repeat' first
    | with_reducible assumption
    | with_reducible exact Onward.refl _
    | with_reducible apply Ends.onUnit
    | with_reducible apply Ends.whenDue
    | with_reducible apply Ends.next
    | with_reducible apply State.hearSecond_onward
    | with_reducible refine packetRow_onward (fun _ _ _ => ?_)
    | with_reducible refine Onward.foldl _ (fun _ _ _ => ?_) _ _ ?_
    | with_reducible refine Onward.ite ?_ ?_
    | fail_if_no_progress (with_reducible apply Onward.same; iterate 11 (focus with_reducible rfl))
    | dsimp only
    | split

theorem execSessionKind3_onward {port : Nat} {s : State} : Ends s (execSessionKind3 port s) := by
  unfold execSessionKind3
  try dsimp only
  repeat' first
    | with_reducible assumption
    | with_reducible exact Onward.refl _
    | with_reducible apply Ends.onUnit
    | with_reducible apply Ends.whenDue
    | with_reducible apply Ends.next
    | with_reducible apply State.hearThird_onward
    | with_reducible refine packetRow_onward (fun _ _ _ => ?_)
    | with_reducible refine Onward.foldl _ (fun _ _ _ => ?_) _ _ ?_
    | with_reducible refine Onward.ite ?_ ?_
    | fail_if_no_progress (with_reducible apply Onward.same; iterate 11 (focus with_reducible rfl))
    | dsimp only
    | split

theorem State.sendAgain_onward {o : State} {s : State} {peer : Nat} (h0 : Onward o s) : Onward o (State.sendAgain s peer) := by
  unfold State.sendAgain
  try dsimp only
  repeat' first
    | with_reducible assumption
    | with_reducible exact Onward.refl _
    | with_reducible apply State.resend_onward
    | with_reducible apply State.setPort_onward
    | with_reducible apply State.setSession_onward
    | with_reducible refine Onward.foldl _ (fun _ _ _ => ?_) _ _ ?_
    | with_reducible refine Onward.ite ?_ ?_
    | fail_if_no_progress (with_reducible apply Onward.same; iterate 11 (focus with_reducible rfl))
    | dsimp only
    | split

theorem State.resume_onward {o : State} {s : State} {peer : Nat} (h0 : Onward o s) : Onward o (State.resume s peer) := by
  unfold State.resume
  try dsimp only
  repeat' first
    | with_reducible assumption
    | with_reducible exact Onward.refl _
    | with_reducible apply State.sendAgain_onward
    | with_reducible refine Onward.foldl _ (fun _ _ _ => ?_) _ _ ?_
    | with_reducible refine Onward.ite ?_ ?_
    | fail_if_no_progress (with_reducible apply Onward.same; iterate 11 (focus with_reducible rfl))
    | dsimp only
    | split

theorem State.moveWaiting_onward {o : State} {s : State} {peer : Nat} (h0 : Onward o s) : Onward o (State.moveWaiting s peer) := by
  unfold State.moveWaiting
  try dsimp only
  repeat' first
    | with_reducible assumption
    | with_reducible exact Onward.refl _
    | with_reducible apply State.setPort_onward
    | with_reducible refine Onward.foldl _ (fun _ _ _ => ?_) _ _ ?_
    | with_reducible refine Onward.ite ?_ ?_
    | fail_if_no_progress (with_reducible apply Onward.same; iterate 11 (focus with_reducible rfl))
    | dsimp only
    | split

theorem State.follow_onward {o : State} {s : State} {port : Nat} (h0 : Onward o s) : Onward o (State.follow s port) := by
  unfold State.follow
  try dsimp only
  repeat' first
    | with_reducible assumption
    | with_reducible exact Onward.refl _
    | with_reducible apply State.moveWaiting_onward
    | with_reducible apply State.resume_onward
    | with_reducible refine Onward.foldl _ (fun _ _ _ => ?_) _ _ ?_
    | with_reducible refine Onward.ite ?_ ?_
    | fail_if_no_progress (with_reducible apply Onward.same; iterate 11 (focus with_reducible rfl))
    | dsimp only
    | split

theorem State.discardBarred_onward {o : State} {s : State} {p : Nat} (h0 : Onward o s) : Onward o (State.discardBarred s p) := by
  unfold State.discardBarred
  try dsimp only
  repeat' first
    | with_reducible assumption
    | with_reducible exact Onward.refl _
    | with_reducible apply State.discardAt_onward
    | with_reducible refine Onward.foldl _ (fun _ _ _ => ?_) _ _ ?_
    | with_reducible refine Onward.ite ?_ ?_
    | fail_if_no_progress (with_reducible apply Onward.same; iterate 11 (focus with_reducible rfl))
    | dsimp only
    | split

theorem State.hearHello_onward {o : State} {s : State} {p : Nat} {e : PeerEntry} {h : Bytes} (h0 : Onward o s) : Onward o (State.hearHello s p e h) := by
  unfold State.hearHello
  try dsimp only
  repeat' first
    | with_reducible assumption
    | with_reducible exact Onward.refl _
    | with_reducible apply State.discardBarred_onward
    | with_reducible apply State.follow_onward
    | with_reducible apply State.note_onward
    | with_reducible apply State.openSessions_onward
    | with_reducible apply State.setPort_onward
    | with_reducible apply State.setSession_onward
    | with_reducible refine Onward.foldl _ (fun _ _ _ => ?_) _ _ ?_
    | with_reducible refine Onward.ite ?_ ?_
    | fail_if_no_progress (with_reducible apply Onward.same; iterate 11 (focus with_reducible rfl))
    | dsimp only
    | split

theorem execHelloFlit_onward {port : Nat} {s : State} : Ends s (execHelloFlit port s) := by
  unfold execHelloFlit
  try dsimp only
  repeat' first
    | with_reducible assumption
    | with_reducible exact Onward.refl _
    | with_reducible apply Ends.onUnit
    | with_reducible apply Ends.whenDue
    | with_reducible apply Ends.next
    | with_reducible refine State.control_onward (fun _ _ => ?_) ?_
    | with_reducible apply State.hearHello_onward
    | with_reducible apply State.setPort_onward
    | with_reducible refine Onward.foldl _ (fun _ _ _ => ?_) _ _ ?_
    | with_reducible refine Onward.ite ?_ ?_
    | fail_if_no_progress (with_reducible apply Onward.same; iterate 11 (focus with_reducible rfl))
    | dsimp only
    | split

theorem execRetrain_onward {port : Nat} {s : State} : Ends s (execRetrain port s) := by
  unfold execRetrain
  try dsimp only
  repeat' first
    | with_reducible assumption
    | with_reducible exact Onward.refl _
    | with_reducible apply Ends.onUnit
    | with_reducible apply Ends.whenDue
    | with_reducible apply Ends.next
    | with_reducible apply State.follow_onward
    | with_reducible apply State.setPort_onward
    | with_reducible refine Onward.foldl _ (fun _ _ _ => ?_) _ _ ?_
    | with_reducible refine Onward.ite ?_ ?_
    | fail_if_no_progress (with_reducible apply Onward.same; iterate 11 (focus with_reducible rfl))
    | dsimp only
    | split

theorem execRetrainRequest_onward {port : Nat} {s : State} : Ends s (execRetrainRequest port s) := by
  unfold execRetrainRequest
  try dsimp only
  repeat' first
    | with_reducible assumption
    | with_reducible exact Onward.refl _
    | with_reducible apply Ends.onUnit
    | with_reducible apply Ends.whenDue
    | with_reducible apply Ends.next
    | with_reducible refine State.control_onward (fun _ _ => ?_) ?_
    | with_reducible apply State.follow_onward
    | with_reducible apply State.setPort_onward
    | with_reducible refine Onward.foldl _ (fun _ _ _ => ?_) _ _ ?_
    | with_reducible refine Onward.ite ?_ ?_
    | fail_if_no_progress (with_reducible apply Onward.same; iterate 11 (focus with_reducible rfl))
    | dsimp only
    | split

theorem execPortUpAgain_onward {port : Nat} {s : State} : Ends s (execPortUpAgain port s) := by
  unfold execPortUpAgain
  try dsimp only
  repeat' first
    | with_reducible assumption
    | with_reducible exact Onward.refl _
    | with_reducible apply Ends.onUnit
    | with_reducible apply Ends.whenDue
    | with_reducible apply Ends.next
    | with_reducible apply State.follow_onward
    | with_reducible apply State.setPort_onward
    | with_reducible refine Onward.foldl _ (fun _ _ _ => ?_) _ _ ?_
    | with_reducible refine Onward.ite ?_ ?_
    | fail_if_no_progress (with_reducible apply Onward.same; iterate 11 (focus with_reducible rfl))
    | dsimp only
    | split

theorem State.tellCores_onward {o : State} {s : State} {x : CollRun} {c : Coll} {aborted : Option Nat} (h0 : Onward o s) : Onward o (State.tellCores s x c aborted) := by
  unfold State.tellCores
  try dsimp only
  repeat' first
    | with_reducible assumption
    | with_reducible exact Onward.refl _
    | with_reducible apply State.onColl_onward
    | with_reducible refine Onward.foldl _ (fun _ _ _ => ?_) _ _ ?_
    | with_reducible refine Onward.ite ?_ ?_
    | fail_if_no_progress (with_reducible apply Onward.same; iterate 11 (focus with_reducible rfl))
    | dsimp only
    | split

theorem State.abortColl_onward {o : State} {s : State} {x : CollRun} {code : Nat} (h0 : Onward o s) : Onward o (State.abortColl s x code) := by
  unfold State.abortColl
  try dsimp only
  repeat' first
    | with_reducible assumption
    | with_reducible exact Onward.refl _
    | with_reducible apply State.faultAtelier_onward
    | with_reducible apply State.onColl_onward
    | with_reducible apply State.tellCores_onward
    | with_reducible refine Onward.foldl _ (fun _ _ _ => ?_) _ _ ?_
    | with_reducible refine Onward.ite ?_ ?_
    | fail_if_no_progress (with_reducible apply Onward.same; iterate 11 (focus with_reducible rfl))
    | dsimp only
    | split

theorem State.abortBeyond_onward {o : State} {s : State} {lost : Nat → Bool} {code : Nat} (h0 : Onward o s) : Onward o (State.abortBeyond s lost code) := by
  unfold State.abortBeyond
  try dsimp only
  repeat' first
    | with_reducible assumption
    | with_reducible exact Onward.refl _
    | with_reducible apply State.abortColl_onward
    | with_reducible refine Onward.foldl _ (fun _ _ _ => ?_) _ _ ?_
    | with_reducible refine Onward.ite ?_ ?_
    | fail_if_no_progress (with_reducible apply Onward.same; iterate 11 (focus with_reducible rfl))
    | dsimp only
    | split

theorem State.dropUnacked_onward {o : State} {s : State} {p : Nat} (h0 : Onward o s) : Onward o (State.dropUnacked s p) := by
  unfold State.dropUnacked
  try dsimp only
  repeat' first
    | with_reducible assumption
    | with_reducible exact Onward.refl _
    | with_reducible apply State.answerSegment_onward
    | with_reducible refine State.control_onward (fun _ _ => ?_) ?_
    | with_reducible apply State.dropTag_onward
    | with_reducible apply State.setPort_onward
    | with_reducible refine Onward.foldl _ (fun _ _ _ => ?_) _ _ ?_
    | with_reducible refine Onward.ite ?_ ?_
    | fail_if_no_progress (with_reducible apply Onward.same; iterate 11 (focus with_reducible rfl))
    | dsimp only
    | split

theorem State.loseBeyond_onward {o : State} {s : State} {lost : Nat → Bool} {code : Nat} {port : Nat} (h0 : Onward o s) : Onward o (State.loseBeyond s lost code port) := by
  unfold State.loseBeyond
  try dsimp only
  repeat' first
    | with_reducible assumption
    | with_reducible exact Onward.refl _
    | with_reducible apply State.abortBeyond_onward
    | with_reducible apply State.discardQueued_onward
    | with_reducible apply State.note_onward
    | with_reducible refine Onward.foldl _ (fun _ _ _ => ?_) _ _ ?_
    | with_reducible refine Onward.ite ?_ ?_
    | fail_if_no_progress (with_reducible apply Onward.same; iterate 11 (focus with_reducible rfl))
    | dsimp only
    | split

theorem execPortLost_onward {port : Nat} {s : State} : Ends s (execPortLost port s) := by
  unfold execPortLost
  try dsimp only
  repeat' first
    | with_reducible assumption
    | with_reducible exact Onward.refl _
    | with_reducible apply Ends.onUnit
    | with_reducible apply Ends.whenDue
    | with_reducible apply Ends.next
    | with_reducible apply State.dropUnacked_onward
    | with_reducible apply State.follow_onward
    | with_reducible apply State.loseBeyond_onward
    | with_reducible apply State.note_onward
    | with_reducible apply State.reach_onward
    | with_reducible apply State.setPort_onward
    | with_reducible apply State.setSession_onward
    | with_reducible apply State.settleDrains_onward
    | with_reducible refine Onward.foldl _ (fun _ _ _ => ?_) _ _ ?_
    | with_reducible refine Onward.ite ?_ ?_
    | fail_if_no_progress (with_reducible apply Onward.same; iterate 11 (focus with_reducible rfl))
    | dsimp only
    | split

theorem State.countMark_onward {o : State} {s : State} {port : Nat} {p : Packet} (h0 : Onward o s) : Onward o (State.countMark s port p) := by
  unfold State.countMark
  try dsimp only
  repeat' first
    | with_reducible assumption
    | with_reducible exact Onward.refl _
    | with_reducible apply State.setPort_onward
    | with_reducible refine Onward.foldl _ (fun _ _ _ => ?_) _ _ ?_
    | with_reducible refine Onward.ite ?_ ?_
    | fail_if_no_progress (with_reducible apply Onward.same; iterate 11 (focus with_reducible rfl))
    | dsimp only
    | split

theorem State.dropPacket_onward {o : State} {s : State} {port : Nat} {p : Packet} (h0 : Onward o s) : Onward o (State.dropPacket s port p) := by
  unfold State.dropPacket
  try dsimp only
  repeat' first
    | with_reducible assumption
    | with_reducible exact Onward.refl _
    | with_reducible apply State.setPort_onward
    | with_reducible refine Onward.foldl _ (fun _ _ _ => ?_) _ _ ?_
    | with_reducible refine Onward.ite ?_ ?_
    | fail_if_no_progress (with_reducible apply Onward.same; iterate 11 (focus with_reducible rfl))
    | dsimp only
    | split

theorem State.hearAck_onward {o : State} {s : State} {peer : Nat} {ack : Nat} {echo : Bool} (h0 : Onward o s) : Onward o (State.hearAck s peer ack echo) := by
  unfold State.hearAck
  try dsimp only
  repeat' first
    | with_reducible assumption
    | with_reducible exact Onward.refl _
    | with_reducible apply State.dropTag?_onward
    | with_reducible apply State.setSession_onward
    | with_reducible apply State.settleDrains_onward
    | with_reducible apply State.window_onward
    | with_reducible refine Onward.foldl _ (fun _ _ _ => ?_) _ _ ?_
    | with_reducible refine Onward.ite ?_ ?_
    | fail_if_no_progress (with_reducible apply Onward.same; iterate 11 (focus with_reducible rfl))
    | dsimp only
    | split

theorem State.sendEndAck_onward {o : State} {s : State} {peer : Nat} (h0 : Onward o s) : Onward o (State.sendEndAck s peer) := by
  unfold State.sendEndAck
  try dsimp only
  repeat' first
    | with_reducible assumption
    | with_reducible exact Onward.refl _
    | with_reducible apply State.sendPacket_onward
    | with_reducible apply State.setSession_onward
    | with_reducible refine Onward.foldl _ (fun _ _ _ => ?_) _ _ ?_
    | with_reducible refine Onward.ite ?_ ?_
    | fail_if_no_progress (with_reducible apply Onward.same; iterate 11 (focus with_reducible rfl))
    | dsimp only
    | split

theorem State.dropLeasePacket_onward {o : State} {s : State} {port : Nat} {p : Packet} (h0 : Onward o s) : Onward o (State.dropLeasePacket s port p) := by
  unfold State.dropLeasePacket
  try dsimp only
  repeat' first
    | with_reducible assumption
    | with_reducible exact Onward.refl _
    | with_reducible apply State.dropPacket_onward
    | with_reducible apply State.note_onward
    | with_reducible apply State.sendPacket_onward
    | with_reducible refine Onward.foldl _ (fun _ _ _ => ?_) _ _ ?_
    | with_reducible refine Onward.ite ?_ ?_
    | fail_if_no_progress (with_reducible apply Onward.same; iterate 11 (focus with_reducible rfl))
    | dsimp only
    | split

theorem State.railAccept_onward {o : State} {s : State} {p : Packet} (h0 : Onward o s) : Onward o (State.railAccept s p) := by
  unfold State.railAccept
  try dsimp only
  repeat' first
    | with_reducible assumption
    | with_reducible exact Onward.refl _
    | with_reducible apply State.hearAck_onward
    | with_reducible apply State.sendEndAck_onward
    | with_reducible apply State.setSession_onward
    | with_reducible refine Onward.foldl _ (fun _ _ _ => ?_) _ _ ?_
    | with_reducible refine Onward.ite ?_ ?_
    | fail_if_no_progress (with_reducible apply Onward.same; iterate 11 (focus with_reducible rfl))
    | dsimp only
    | split

theorem State.admitPacket_onward {o : State} {s0 : State} {port : Nat} {p : Packet} (h0 : Onward o s0) : Onward o (State.admitPacket s0 port p) := by
  unfold State.admitPacket
  try dsimp only
  repeat' first
    | with_reducible assumption
    | with_reducible exact Onward.refl _
    | with_reducible apply State.countMark_onward
    | with_reducible apply State.dropLeasePacket_onward
    | with_reducible apply State.dropPacket_onward
    | with_reducible apply State.railAccept_onward
    | with_reducible apply State.setPort_onward
    | with_reducible apply State.setSession_onward
    | with_reducible refine Onward.foldl _ (fun _ _ _ => ?_) _ _ ?_
    | with_reducible refine Onward.ite ?_ ?_
    | fail_if_no_progress (with_reducible apply Onward.same; iterate 11 (focus with_reducible rfl))
    | dsimp only
    | split

theorem State.takeFlit_onward {o : State} {s : State} {port : Nat} {control : Bool} {f : Bytes} (h0 : Onward o s) : Onward o (State.takeFlit s port control f) := by
  unfold State.takeFlit
  try dsimp only
  repeat' first
    | with_reducible assumption
    | with_reducible exact Onward.refl _
    | with_reducible apply State.admitPacket_onward
    | with_reducible refine State.control_onward (fun _ _ => ?_) ?_
    | with_reducible apply State.setPort_onward
    | with_reducible refine Onward.foldl _ (fun _ _ _ => ?_) _ _ ?_
    | with_reducible refine Onward.ite ?_ ?_
    | fail_if_no_progress (with_reducible apply Onward.same; iterate 11 (focus with_reducible rfl))
    | dsimp only
    | split

theorem State.discardCodeword_onward {o : State} {s : State} {port : Nat} {failed : Bool} (h0 : Onward o s) : Onward o (State.discardCodeword s port failed) := by
  unfold State.discardCodeword
  try dsimp only
  repeat' first
    | with_reducible assumption
    | with_reducible exact Onward.refl _
    | with_reducible apply State.setPort_onward
    | with_reducible refine Onward.foldl _ (fun _ _ _ => ?_) _ _ ?_
    | with_reducible refine Onward.ite ?_ ?_
    | fail_if_no_progress (with_reducible apply Onward.same; iterate 11 (focus with_reducible rfl))
    | dsimp only
    | split

theorem State.helloAgain_onward {o : State} {s : State} {port : Nat} (h0 : Onward o s) : Onward o (State.helloAgain s port) := by
  unfold State.helloAgain
  try dsimp only
  repeat' first
    | with_reducible assumption
    | with_reducible exact Onward.refl _
    | with_reducible refine State.control_onward (fun _ _ => ?_) ?_
    | with_reducible apply State.setPort_onward
    | with_reducible refine Onward.foldl _ (fun _ _ _ => ?_) _ _ ?_
    | with_reducible refine Onward.ite ?_ ?_
    | fail_if_no_progress (with_reducible apply Onward.same; iterate 11 (focus with_reducible rfl))
    | dsimp only
    | split

theorem execCodewordReceive_onward {port : Nat} {errors : Nat} {cseq : Nat} {lcmap : Nat} {flits : List Bytes} {s0 : State} : Ends s0 (execCodewordReceive port errors cseq lcmap flits s0) := by
  unfold execCodewordReceive
  try dsimp only
  repeat' first
    | with_reducible assumption
    | with_reducible exact Onward.refl _
    | with_reducible apply Ends.onUnit
    | with_reducible apply Ends.whenDue
    | with_reducible apply Ends.next
    | with_reducible apply State.discardCodeword_onward
    | with_reducible apply State.helloAgain_onward
    | with_reducible apply State.setPort_onward
    | with_reducible apply State.takeFlit_onward
    | with_reducible refine Onward.foldl _ (fun _ _ _ => ?_) _ _ ?_
    | with_reducible refine Onward.ite ?_ ?_
    | fail_if_no_progress (with_reducible apply Onward.same; iterate 11 (focus with_reducible rfl))
    | dsimp only
    | split

theorem State.hearAckFlit_onward {o : State} {s : State} {port : Nat} {f : Bytes} (h0 : Onward o s) : Onward o (State.hearAckFlit s port f) := by
  unfold State.hearAckFlit
  try dsimp only
  repeat' first
    | with_reducible assumption
    | with_reducible exact Onward.refl _
    | with_reducible apply State.dropTag_onward
    | with_reducible apply State.setPort_onward
    | with_reducible apply State.settleDrains_onward
    | with_reducible refine Onward.foldl _ (fun _ _ _ => ?_) _ _ ?_
    | with_reducible refine Onward.ite ?_ ?_
    | fail_if_no_progress (with_reducible apply Onward.same; iterate 11 (focus with_reducible rfl))
    | dsimp only
    | split

theorem execAckAndCredit_onward {port : Nat} {s : State} : Ends s (execAckAndCredit port s) := by
  unfold execAckAndCredit
  try dsimp only
  repeat' first
    | with_reducible assumption
    | with_reducible exact Onward.refl _
    | with_reducible apply Ends.onUnit
    | with_reducible apply Ends.whenDue
    | with_reducible apply Ends.next
    | with_reducible refine State.control_onward (fun _ _ => ?_) ?_
    | with_reducible apply State.hearAckFlit_onward
    | with_reducible apply State.setPort_onward
    | with_reducible refine Onward.foldl _ (fun _ _ _ => ?_) _ _ ?_
    | with_reducible refine Onward.ite ?_ ?_
    | fail_if_no_progress (with_reducible apply Onward.same; iterate 11 (focus with_reducible rfl))
    | dsimp only
    | split

theorem State.tagged_onward {o : State} {s : State} {w : Waiting} (h0 : Onward o s) : Onward o (State.tagged s w) := by
  unfold State.tagged
  try dsimp only
  repeat' first
    | with_reducible assumption
    | with_reducible exact Onward.refl _
    | with_reducible apply State.takeLinkTag_onward
    | with_reducible refine Onward.foldl _ (fun _ _ _ => ?_) _ _ ?_
    | with_reducible refine Onward.ite ?_ ?_
    | fail_if_no_progress (with_reducible apply Onward.same; iterate 11 (focus with_reducible rfl))
    | dsimp only
    | split

theorem State.transmit_onward {o : State} {s : State} {port : Nat} {w : Waiting} (h0 : Onward o s) : Onward o (State.transmit s port w) := by
  unfold State.transmit
  try dsimp only
  repeat' first
    | with_reducible assumption
    | with_reducible exact Onward.refl _
    | with_reducible apply State.discardWaiting_onward
    | with_reducible apply State.setPort_onward
    | with_reducible apply State.setSession_onward
    | with_reducible apply State.tagged_onward
    | with_reducible refine Onward.foldl _ (fun _ _ _ => ?_) _ _ ?_
    | with_reducible refine Onward.ite ?_ ?_
    | fail_if_no_progress (with_reducible apply Onward.same; iterate 11 (focus with_reducible rfl))
    | dsimp only
    | split

theorem execPacketSend_onward {port : Nat} {s : State} : Ends s (execPacketSend port s) := by
  unfold execPacketSend
  try dsimp only
  repeat' first
    | with_reducible assumption
    | with_reducible exact Onward.refl _
    | with_reducible apply Ends.onUnit
    | with_reducible apply Ends.whenDue
    | with_reducible apply Ends.next
    | with_reducible apply State.setPort_onward
    | with_reducible apply State.transmit_onward
    | with_reducible refine Onward.foldl _ (fun _ _ _ => ?_) _ _ ?_
    | with_reducible refine Onward.ite ?_ ?_
    | fail_if_no_progress (with_reducible apply Onward.same; iterate 11 (focus with_reducible rfl))
    | dsimp only
    | split

theorem execEndToEndAck_onward {port : Nat} {s : State} : Ends s (execEndToEndAck port s) := by
  unfold execEndToEndAck
  try dsimp only
  repeat' first
    | with_reducible assumption
    | with_reducible exact Onward.refl _
    | with_reducible apply Ends.onUnit
    | with_reducible apply Ends.whenDue
    | with_reducible apply Ends.next
    | with_reducible apply State.hearAck_onward
    | with_reducible refine packetRow_onward (fun _ _ _ => ?_)
    | with_reducible refine Onward.foldl _ (fun _ _ _ => ?_) _ _ ?_
    | with_reducible refine Onward.ite ?_ ?_
    | fail_if_no_progress (with_reducible apply Onward.same; iterate 11 (focus with_reducible rfl))
    | dsimp only
    | split

theorem execGalleryRetransmission_onward {peer : Nat} {s : State} : Ends s (execGalleryRetransmission peer s) := by
  unfold execGalleryRetransmission
  try dsimp only
  repeat' first
    | with_reducible assumption
    | with_reducible exact Onward.refl _
    | with_reducible apply Ends.onUnit
    | with_reducible apply Ends.whenDue
    | with_reducible apply Ends.next
    | with_reducible apply State.reach_onward
    | with_reducible apply State.sendAgain_onward
    | with_reducible apply State.setSession_onward
    | with_reducible refine Onward.foldl _ (fun _ _ _ => ?_) _ _ ?_
    | with_reducible refine Onward.ite ?_ ?_
    | fail_if_no_progress (with_reducible apply Onward.same; iterate 11 (focus with_reducible rfl))
    | dsimp only
    | split

theorem execEndToEndAckTimer_onward {peer : Nat} {s : State} : Ends s (execEndToEndAckTimer peer s) := by
  unfold execEndToEndAckTimer
  try dsimp only
  repeat' first
    | with_reducible assumption
    | with_reducible exact Onward.refl _
    | with_reducible apply Ends.onUnit
    | with_reducible apply Ends.whenDue
    | with_reducible apply Ends.next
    | with_reducible apply State.sendEndAck_onward
    | with_reducible refine Onward.foldl _ (fun _ _ _ => ?_) _ _ ?_
    | with_reducible refine Onward.ite ?_ ?_
    | fail_if_no_progress (with_reducible apply Onward.same; iterate 11 (focus with_reducible rfl))
    | dsimp only
    | split

theorem execRailDestinationLost_onward {peer : Nat} {s : State} : Ends s (execRailDestinationLost peer s) := by
  unfold execRailDestinationLost
  try dsimp only
  repeat' first
    | with_reducible assumption
    | with_reducible exact Onward.refl _
    | with_reducible apply Ends.onUnit
    | with_reducible apply Ends.whenDue
    | with_reducible apply Ends.next
    | with_reducible apply State.answerSegment_onward
    | with_reducible apply State.dropTag?_onward
    | with_reducible apply State.loseBeyond_onward
    | with_reducible apply State.setSession_onward
    | with_reducible apply State.settleDrains_onward
    | with_reducible refine Onward.foldl _ (fun _ _ _ => ?_) _ _ ?_
    | with_reducible refine Onward.ite ?_ ?_
    | fail_if_no_progress (with_reducible apply Onward.same; iterate 11 (focus with_reducible rfl))
    | dsimp only
    | split

end Sys2Proof.Machine
end

