-- ==== Sys2Proof/Laws/OnProtect.lean ====
section
/-!
SUPPORT. That every operation of Machine/Protect.lean leads onward (Safety.lean).
-/
namespace Sys2Proof.Machine

set_option linter.unusedTactic false
set_option linter.unreachableTactic false

theorem State.groupLost_onward {o : State} {s : State} {g : Nat} {group : Nat} {level : Nat} (h0 : Onward o s) : Onward o (State.groupLost s g group level) := by
  unfold State.groupLost
  try dsimp only
  repeat' first
    | with_reducible assumption
    | with_reducible exact Onward.refl _
    | with_reducible apply State.faultAtelier_onward
    | with_reducible apply State.faultModule_onward
    | with_reducible apply State.loseGroup_onward
    | with_reducible refine Onward.foldl _ (fun _ _ _ => ?_) _ _ ?_
    | with_reducible refine Onward.ite ?_ ?_
    | fail_if_no_progress (with_reducible apply Onward.same; iterate 11 (focus with_reducible rfl))
    | dsimp only
    | split

theorem State.lineFailed_onward {o : State} {s : State} {g : Nat} {line : Nat} (h0 : Onward o s) : Onward o (State.lineFailed s g line) := by
  unfold State.lineFailed
  try dsimp only
  repeat' first
    | with_reducible assumption
    | with_reducible exact Onward.refl _
    | with_reducible apply State.noteOf_onward
    | with_reducible apply State.poisonLine_onward
    | with_reducible refine Onward.foldl _ (fun _ _ _ => ?_) _ _ ?_
    | with_reducible refine Onward.ite ?_ ?_
    | fail_if_no_progress (with_reducible apply Onward.same; iterate 11 (focus with_reducible rfl))
    | dsimp only
    | split

theorem execProtectedLineRead_onward {region : Nat} {line : Nat} {lost : Option Nat} {first : Bool} {second : Bool} {s : State} : Ends s (execProtectedLineRead region line lost first second s) := by
  unfold execProtectedLineRead
  try dsimp only
  repeat' first
    | with_reducible assumption
    | with_reducible exact Onward.refl _
    | with_reducible apply Ends.onUnit
    | with_reducible apply Ends.whenDue
    | with_reducible apply Ends.next
    | with_reducible apply State.groupLost_onward
    | with_reducible apply State.lineFailed_onward
    | with_reducible refine Onward.foldl _ (fun _ _ _ => ?_) _ _ ?_
    | with_reducible refine Onward.ite ?_ ?_
    | fail_if_no_progress (with_reducible apply Onward.same; iterate 11 (focus with_reducible rfl))
    | dsimp only
    | split

theorem State.reencryptFails_onward {o : State} {s : State} {g : Nat} {line : Nat} {bad : List Nat} (h0 : Onward o s) : Onward o (State.reencryptFails s g line bad) := by
  unfold State.reencryptFails
  try dsimp only
  repeat' first
    | with_reducible assumption
    | with_reducible exact Onward.refl _
    | with_reducible apply State.lineFailed_onward
    | with_reducible refine Onward.foldl _ (fun _ _ _ => ?_) _ _ ?_
    | with_reducible refine Onward.ite ?_ ?_
    | fail_if_no_progress (with_reducible apply Onward.same; iterate 11 (focus with_reducible rfl))
    | dsimp only
    | split

theorem execProtectedLineWrite_onward {region : Nat} {line : Nat} {data : LineData} {s : State} : Ends s (execProtectedLineWrite region line data s) := by
  unfold execProtectedLineWrite
  try dsimp only
  repeat' first
    | with_reducible assumption
    | with_reducible exact Onward.refl _
    | with_reducible apply Ends.onUnit
    | with_reducible apply Ends.whenDue
    | with_reducible apply Ends.next
    | with_reducible apply State.reencryptFails_onward
    | with_reducible apply State.writeLine_onward
    | with_reducible refine Onward.foldl _ (fun _ _ _ => ?_) _ _ ?_
    | with_reducible refine Onward.ite ?_ ?_
    | fail_if_no_progress (with_reducible apply Onward.same; iterate 11 (focus with_reducible rfl))
    | dsimp only
    | split

theorem State.partialFailed_onward {o : State} {s : State} {g : Nat} {line : Nat} (h0 : Onward o s) : Onward o (State.partialFailed s g line) := by
  unfold State.partialFailed
  try dsimp only
  repeat' first
    | with_reducible assumption
    | with_reducible exact Onward.refl _
    | with_reducible apply State.faultAtelier_onward
    | with_reducible apply State.poisonLine_onward
    | with_reducible refine Onward.foldl _ (fun _ _ _ => ?_) _ _ ?_
    | with_reducible refine Onward.ite ?_ ?_
    | fail_if_no_progress (with_reducible apply Onward.same; iterate 11 (focus with_reducible rfl))
    | dsimp only
    | split

theorem State.mergeLine_onward {o : State} {s : State} {g : Nat} {line : Nat} {off : Nat} {data : Bytes} (h0 : Onward o s) : Onward o (State.mergeLine s g line off data) := by
  unfold State.mergeLine
  try dsimp only
  repeat' first
    | with_reducible assumption
    | with_reducible exact Onward.refl _
    | with_reducible apply State.writeLine_onward
    | with_reducible refine Onward.foldl _ (fun _ _ _ => ?_) _ _ ?_
    | with_reducible refine Onward.ite ?_ ?_
    | fail_if_no_progress (with_reducible apply Onward.same; iterate 11 (focus with_reducible rfl))
    | dsimp only
    | split

theorem execPartialLineWrite_onward {region : Nat} {line : Nat} {off : Nat} {data : Bytes} {lost : Option Nat} {good : Bool} {s : State} : Ends s (execPartialLineWrite region line off data lost good s) := by
  unfold execPartialLineWrite
  try dsimp only
  repeat' first
    | with_reducible assumption
    | with_reducible exact Onward.refl _
    | with_reducible apply Ends.onUnit
    | with_reducible apply Ends.whenDue
    | with_reducible apply Ends.next
    | with_reducible apply State.groupLost_onward
    | with_reducible apply State.lineFailed_onward
    | with_reducible apply State.mergeLine_onward
    | with_reducible apply State.partialFailed_onward
    | with_reducible refine Onward.foldl _ (fun _ _ _ => ?_) _ _ ?_
    | with_reducible refine Onward.ite ?_ ?_
    | fail_if_no_progress (with_reducible apply Onward.same; iterate 11 (focus with_reducible rfl))
    | dsimp only
    | split

theorem State.rekeyLines_onward {o : State} {s : State} {g : Nat} {lines : Nat} {bad : List Nat} (h0 : Onward o s) : Onward o (State.rekeyLines s g lines bad) := by
  unfold State.rekeyLines
  try dsimp only
  repeat' first
    | with_reducible assumption
    | with_reducible exact Onward.refl _
    | with_reducible apply State.endRekey_onward
    | with_reducible apply State.lineFailed_onward
    | with_reducible apply State.passLines_onward
    | with_reducible refine Onward.foldl _ (fun _ _ _ => ?_) _ _ ?_
    | with_reducible refine Onward.ite ?_ ?_
    | fail_if_no_progress (with_reducible apply Onward.same; iterate 11 (focus with_reducible rfl))
    | dsimp only
    | split

theorem execRegionRekey_onward {region : Nat} {lines : Nat} {bad : List Nat} {s : State} : Ends s (execRegionRekey region lines bad s) := by
  unfold execRegionRekey
  try dsimp only
  repeat' first
    | with_reducible assumption
    | with_reducible exact Onward.refl _
    | with_reducible apply Ends.onUnit
    | with_reducible apply Ends.whenDue
    | with_reducible apply Ends.next
    | with_reducible apply State.rekeyLines_onward
    | with_reducible refine Onward.foldl _ (fun _ _ _ => ?_) _ _ ?_
    | with_reducible refine Onward.ite ?_ ?_
    | fail_if_no_progress (with_reducible apply Onward.same; iterate 11 (focus with_reducible rfl))
    | dsimp only
    | split

theorem execModuleAreaPatrol_onward {die : Nat} {lines : List (Nat × Nat)} {nodes : List (Nat × Nat × Nat)} {s : State} : Ends s (execModuleAreaPatrol die lines nodes s) := by
  unfold execModuleAreaPatrol
  try dsimp only
  repeat' first
    | with_reducible assumption
    | with_reducible exact Onward.refl _
    | with_reducible apply Ends.onUnit
    | with_reducible apply Ends.whenDue
    | with_reducible apply Ends.next
    | with_reducible apply State.groupLost_onward
    | with_reducible apply State.lineFailed_onward
    | with_reducible refine Onward.foldl _ (fun _ _ _ => ?_) _ _ ?_
    | with_reducible refine Onward.ite ?_ ?_
    | fail_if_no_progress (with_reducible apply Onward.same; iterate 11 (focus with_reducible rfl))
    | dsimp only
    | split

theorem State.correctErrors_onward {o : State} {s : State} {p : Nat} {count : Nat} (h0 : Onward o s) : Onward o (State.correctErrors s p count) := by
  unfold State.correctErrors
  try dsimp only
  repeat' first
    | with_reducible assumption
    | with_reducible exact Onward.refl _
    | with_reducible apply State.note_onward
    | with_reducible apply State.setPanel_onward
    | with_reducible refine Onward.foldl _ (fun _ _ _ => ?_) _ _ ?_
    | with_reducible refine Onward.ite ?_ ?_
    | fail_if_no_progress (with_reducible apply Onward.same; iterate 11 (focus with_reducible rfl))
    | dsimp only
    | split

theorem execReservoirPatrolScrub_onward {panel : Nat} {bad : List Nat} {corrected : Nat} {s : State} : Ends s (execReservoirPatrolScrub panel bad corrected s) := by
  unfold execReservoirPatrolScrub
  try dsimp only
  repeat' first
    | with_reducible assumption
    | with_reducible exact Onward.refl _
    | with_reducible apply Ends.onUnit
    | with_reducible apply Ends.whenDue
    | with_reducible apply Ends.next
    | with_reducible apply State.correctErrors_onward
    | with_reducible apply State.poisonReservoir_onward
    | with_reducible refine Onward.foldl _ (fun _ _ _ => ?_) _ _ ?_
    | with_reducible refine Onward.ite ?_ ?_
    | fail_if_no_progress (with_reducible apply Onward.same; iterate 11 (focus with_reducible rfl))
    | dsimp only
    | split

theorem execSramCorrectedErrorRate_onward {panel : Nat} {count : Nat} {s : State} : Ends s (execSramCorrectedErrorRate panel count s) := by
  unfold execSramCorrectedErrorRate
  try dsimp only
  repeat' first
    | with_reducible assumption
    | with_reducible exact Onward.refl _
    | with_reducible apply Ends.onUnit
    | with_reducible apply Ends.whenDue
    | with_reducible apply Ends.next
    | with_reducible apply State.correctErrors_onward
    | with_reducible refine Onward.foldl _ (fun _ _ _ => ?_) _ _ ?_
    | with_reducible refine Onward.ite ?_ ?_
    | fail_if_no_progress (with_reducible apply Onward.same; iterate 11 (focus with_reducible rfl))
    | dsimp only
    | split

theorem execGddr7Refresh_onward {channel : Nat} {s : State} : Ends s (execGddr7Refresh channel s) := by
  unfold execGddr7Refresh
  try dsimp only
  repeat' first
    | with_reducible assumption
    | with_reducible exact Onward.refl _
    | with_reducible apply Ends.onUnit
    | with_reducible apply Ends.whenDue
    | with_reducible apply Ends.next
    | with_reducible apply State.setChannel_onward
    | with_reducible refine Onward.foldl _ (fun _ _ _ => ?_) _ _ ?_
    | with_reducible refine Onward.ite ?_ ?_
    | fail_if_no_progress (with_reducible apply Onward.same; iterate 11 (focus with_reducible rfl))
    | dsimp only
    | split

theorem execGddr7TemperatureReadout_onward {channel : Nat} {temp : Int} {s : State} : Ends s (execGddr7TemperatureReadout channel temp s) := by
  unfold execGddr7TemperatureReadout
  try dsimp only
  repeat' first
    | with_reducible assumption
    | with_reducible exact Onward.refl _
    | with_reducible apply Ends.onUnit
    | with_reducible apply Ends.whenDue
    | with_reducible apply Ends.next
    | with_reducible apply State.note_onward
    | with_reducible apply State.setChannel_onward
    | with_reducible refine Onward.foldl _ (fun _ _ _ => ?_) _ _ ?_
    | with_reducible refine Onward.ite ?_ ?_
    | fail_if_no_progress (with_reducible apply Onward.same; iterate 11 (focus with_reducible rfl))
    | dsimp only
    | split

theorem execGddr7EccCountRead_onward {channel : Nat} {count : Nat} {s : State} : Ends s (execGddr7EccCountRead channel count s) := by
  unfold execGddr7EccCountRead
  try dsimp only
  repeat' first
    | with_reducible assumption
    | with_reducible exact Onward.refl _
    | with_reducible apply Ends.onUnit
    | with_reducible apply Ends.whenDue
    | with_reducible apply Ends.next
    | with_reducible apply State.note_onward
    | with_reducible refine Onward.foldl _ (fun _ _ _ => ?_) _ _ ?_
    | with_reducible refine Onward.ite ?_ ?_
    | fail_if_no_progress (with_reducible apply Onward.same; iterate 11 (focus with_reducible rfl))
    | dsimp only
    | split

theorem State.countRetries_onward {o : State} {s : State} {c : Nat} (h0 : Onward o s) : Onward o (State.countRetries s c) := by
  unfold State.countRetries
  try dsimp only
  repeat' first
    | with_reducible assumption
    | with_reducible exact Onward.refl _
    | with_reducible apply State.faultModule_onward
    | with_reducible apply State.setChannel_onward
    | with_reducible refine Onward.foldl _ (fun _ _ _ => ?_) _ _ ?_
    | with_reducible refine Onward.ite ?_ ?_
    | fail_if_no_progress (with_reducible apply Onward.same; iterate 11 (focus with_reducible rfl))
    | dsimp only
    | split

theorem execGddr7RetriesExhausted_onward {channel : Nat} {region : Nat} {line : Nat} {write : Bool} {s : State} : Ends s (execGddr7RetriesExhausted channel region line write s) := by
  unfold execGddr7RetriesExhausted
  try dsimp only
  repeat' first
    | with_reducible assumption
    | with_reducible exact Onward.refl _
    | with_reducible apply Ends.onUnit
    | with_reducible apply Ends.whenDue
    | with_reducible apply Ends.next
    | with_reducible apply State.countRetries_onward
    | with_reducible apply State.lineFailed_onward
    | with_reducible refine Onward.foldl _ (fun _ _ _ => ?_) _ _ ?_
    | with_reducible refine Onward.ite ?_ ?_
    | fail_if_no_progress (with_reducible apply Onward.same; iterate 11 (focus with_reducible rfl))
    | dsimp only
    | split

end Sys2Proof.Machine
end

