-- ==== Sys2Proof/Laws/OnTables.lean ====
section
/-!
SUPPORT. That every operation of Machine/Tables.lean leads onward (Safety.lean).
-/
namespace Sys2Proof.Machine

set_option linter.unusedTactic false
set_option linter.unreachableTactic false

theorem State.reply_onward {o : State} {s : State} {q : Nat} {r : TableReq} {line : Bytes} (h0 : Onward o s) : Onward o (State.reply s q r line) := by
  unfold State.reply
  try dsimp only
  repeat' first
    | with_reducible assumption
    | with_reducible exact Onward.refl _
    | with_reducible refine Onward.foldl _ (fun _ _ _ => ?_) _ _ ?_
    | with_reducible refine Onward.ite ?_ ?_
    | fail_if_no_progress (with_reducible apply Onward.same; iterate 11 (focus with_reducible rfl))
    | dsimp only
    | split

theorem State.rejectTable_onward {o : State} {s : State} {q : Nat} {r : TableReq} {code : Nat} (h0 : Onward o s) : Onward o (State.rejectTable s q r code) := by
  unfold State.rejectTable
  try dsimp only
  repeat' first
    | with_reducible assumption
    | with_reducible exact Onward.refl _
    | with_reducible apply State.log_onward
    | with_reducible apply State.reply_onward
    | with_reducible refine Onward.foldl _ (fun _ _ _ => ?_) _ _ ?_
    | with_reducible refine Onward.ite ?_ ?_
    | fail_if_no_progress (with_reducible apply Onward.same; iterate 11 (focus with_reducible rfl))
    | dsimp only
    | split

theorem State.gather_onward {o : State} {s : State} {q : Nat} {r : TableReq} (h0 : Onward o s) : Onward o (State.gather s q r) := by
  unfold State.gather
  try dsimp only
  repeat' first
    | with_reducible assumption
    | with_reducible exact Onward.refl _
    | with_reducible apply State.rejectTable_onward
    | with_reducible apply State.reply_onward
    | with_reducible apply State.store_onward
    | with_reducible apply Store.settle_onward
    | with_reducible refine Onward.foldl _ (fun _ _ _ => ?_) _ _ ?_
    | with_reducible refine Onward.ite ?_ ?_
    | fail_if_no_progress (with_reducible apply Onward.same; iterate 11 (focus with_reducible rfl))
    | dsimp only
    | split

theorem State.updateRow_onward {o : State} {s : State} {ctx : Nat} {va : Nat} {n : Nat} {fails : List Nat} {f : Fmt} {g : Fmt} {rtz : Bool} {adds : List (List Nat)} (h0 : Onward o s) : Onward o (State.updateRow s ctx va n fails f g rtz adds) := by
  unfold State.updateRow
  try dsimp only
  repeat' first
    | with_reducible assumption
    | with_reducible exact Onward.refl _
    | with_reducible apply State.lineFailed_onward
    | with_reducible apply State.partialFailed_onward
    | with_reducible apply State.storeWhole_onward
    | with_reducible apply Store.settle_onward
    | with_reducible refine Onward.foldl _ (fun _ _ _ => ?_) _ _ ?_
    | with_reducible refine Onward.ite ?_ ?_
    | fail_if_no_progress (with_reducible apply Onward.same; iterate 11 (focus with_reducible rfl))
    | dsimp only
    | split

theorem State.scatterRows_onward {o : State} {r : TableReq} {fails : List Nat} {f g : Fmt} {adds : Nat → List (List Nat)} :
    ∀ {rows : List Nat} {s : State}, Onward o s → Onward o (State.scatterRows r fails f g adds rows s).1
  | [], _, h => h
  | _ :: _, _, h => by
    unfold State.scatterRows
    dsimp only
    split
    · exact State.leaveSome_onward (State.updateRow_onward h)
    · exact State.scatterRows_onward (State.updateRow_onward h)

theorem State.scatter_onward {o : State} {s : State} {q : Nat} {r : TableReq} {fails : List Nat} (h0 : Onward o s) : Onward o (State.scatter s q r fails) := by
  unfold State.scatter
  try dsimp only
  repeat' first
    | with_reducible assumption
    | with_reducible exact Onward.refl _
    | with_reducible apply State.rejectTable_onward
    | with_reducible apply State.reply_onward
    | with_reducible apply State.scatterRows_onward
    | with_reducible refine Onward.foldl _ (fun _ _ _ => ?_) _ _ ?_
    | with_reducible refine Onward.ite ?_ ?_
    | fail_if_no_progress (with_reducible apply Onward.same; iterate 11 (focus with_reducible rfl))
    | dsimp only
    | split

theorem State.runTable_onward {o s : State} {q : Nat} {r : TableReq} {run : State → State} (hf : ∀ u, Onward o u → Onward o (run u)) (h0 : Onward o s) :
    Onward o (s.runTable q r run) := by
  unfold State.runTable
  dsimp only
  split
  · exact State.rejectTable_onward h0
  · exact hf _ h0

theorem State.runGather_onward {o : State} {s : State} {q : Nat} {r : TableReq} (h0 : Onward o s) : Onward o (State.runGather s q r) := by
  unfold State.runGather
  try dsimp only
  repeat' first
    | with_reducible assumption
    | with_reducible exact Onward.refl _
    | with_reducible apply State.gather_onward
    | with_reducible refine State.runTable_onward (fun _ _ => ?_) ?_
    | with_reducible refine Onward.foldl _ (fun _ _ _ => ?_) _ _ ?_
    | with_reducible refine Onward.ite ?_ ?_
    | fail_if_no_progress (with_reducible apply Onward.same; iterate 11 (focus with_reducible rfl))
    | dsimp only
    | split

theorem execGatherToWindow_onward {quadrant : Nat} {s : State} : Ends s (execGatherToWindow quadrant s) := by
  unfold execGatherToWindow
  try dsimp only
  repeat' first
    | with_reducible assumption
    | with_reducible exact Onward.refl _
    | with_reducible apply Ends.onUnit
    | with_reducible apply Ends.whenDue
    | with_reducible apply Ends.next
    | with_reducible apply State.halfRate_onward
    | with_reducible apply State.runGather_onward
    | with_reducible refine Onward.foldl _ (fun _ _ _ => ?_) _ _ ?_
    | with_reducible refine Onward.ite ?_ ?_
    | fail_if_no_progress (with_reducible apply Onward.same; iterate 11 (focus with_reducible rfl))
    | dsimp only
    | split

theorem execGatherToFarMemory_onward {quadrant : Nat} {s : State} : Ends s (execGatherToFarMemory quadrant s) := by
  unfold execGatherToFarMemory
  try dsimp only
  repeat' first
    | with_reducible assumption
    | with_reducible exact Onward.refl _
    | with_reducible apply Ends.onUnit
    | with_reducible apply Ends.whenDue
    | with_reducible apply Ends.next
    | with_reducible apply State.halfRate_onward
    | with_reducible apply State.runGather_onward
    | with_reducible refine Onward.foldl _ (fun _ _ _ => ?_) _ _ ?_
    | with_reducible refine Onward.ite ?_ ?_
    | fail_if_no_progress (with_reducible apply Onward.same; iterate 11 (focus with_reducible rfl))
    | dsimp only
    | split

theorem execScatterAdd_onward {run : ScatterRun} {s : State} : Ends s (execScatterAdd run s) := by
  unfold execScatterAdd
  try dsimp only
  repeat' first
    | with_reducible assumption
    | with_reducible exact Onward.refl _
    | with_reducible apply Ends.onUnit
    | with_reducible apply Ends.whenDue
    | with_reducible apply Ends.next
    | with_reducible apply State.halfRate_onward
    | with_reducible refine State.runTable_onward (fun _ _ => ?_) ?_
    | with_reducible apply State.scatter_onward
    | with_reducible refine Onward.foldl _ (fun _ _ _ => ?_) _ _ ?_
    | with_reducible refine Onward.ite ?_ ?_
    | fail_if_no_progress (with_reducible apply Onward.same; iterate 11 (focus with_reducible rfl))
    | dsimp only
    | split

end Sys2Proof.Machine
end

