-- ==== Sys2Proof/Laws/OnCollective.lean ====
section
/-!
SUPPORT. That every operation of Machine/Collective.lean leads onward (Safety.lean).
-/
namespace Sys2Proof.Machine

set_option linter.unusedTactic false
set_option linter.unreachableTactic false

theorem execCollCreate_onward {cmd : Nat} {s : State} : Ends s (execCollCreate cmd s) := by
  unfold execCollCreate
  try dsimp only
  repeat' first
    | with_reducible assumption
    | with_reducible exact Onward.refl _
    | with_reducible apply Ends.onUnit
    | with_reducible apply Ends.whenDue
    | with_reducible apply Ends.next
    | with_reducible apply State.finish_onward
    | with_reducible apply State.refuse_onward
    | with_reducible refine onCommand_onward (fun _ => ?_)
    | with_reducible refine Onward.foldl _ (fun _ _ _ => ?_) _ _ ?_
    | with_reducible refine Onward.ite ?_ ?_
    | fail_if_no_progress (with_reducible apply Onward.same; iterate 11 (focus with_reducible rfl))
    | dsimp only
    | split

theorem State.bringChunks_onward {o : State} {s : State} {x : CollRun} {j : Job} {c : Coll} {p : CollPacket} (h0 : Onward o s) : Onward o (State.bringChunks s x j c p) := by
  unfold State.bringChunks
  try dsimp only
  repeat' first
    | with_reducible assumption
    | with_reducible exact Onward.refl _
    | with_reducible apply State.arrive_onward
    | with_reducible refine Onward.foldl _ (fun _ _ _ => ?_) _ _ ?_
    | with_reducible refine Onward.ite ?_ ?_
    | fail_if_no_progress (with_reducible apply Onward.same; iterate 11 (focus with_reducible rfl))
    | dsimp only
    | split

theorem State.settleSparse_onward {o : State} {s : State} {x : CollRun} {j : Job} (h0 : Onward o s) : Onward o (State.settleSparse s x j) := by
  unfold State.settleSparse
  try dsimp only
  repeat' first
    | with_reducible assumption
    | with_reducible exact Onward.refl _
    | with_reducible apply State.onColl_onward
    | with_reducible apply State.updateRow_onward
    | with_reducible refine Onward.foldl _ (fun _ _ _ => ?_) _ _ ?_
    | with_reducible refine Onward.ite ?_ ?_
    | fail_if_no_progress (with_reducible apply Onward.same; iterate 11 (focus with_reducible rfl))
    | dsimp only
    | split

theorem State.bringPairs_onward {o : State} {s : State} {x : CollRun} {j : Job} {p : CollPacket} (h0 : Onward o s) : Onward o (State.bringPairs s x j p) := by
  unfold State.bringPairs
  try dsimp only
  repeat' first
    | with_reducible assumption
    | with_reducible exact Onward.refl _
    | with_reducible apply State.onColl_onward
    | with_reducible refine Onward.foldl _ (fun _ _ _ => ?_) _ _ ?_
    | with_reducible refine Onward.ite ?_ ?_
    | fail_if_no_progress (with_reducible apply Onward.same; iterate 11 (focus with_reducible rfl))
    | dsimp only
    | split

theorem State.sendGather_onward {o : State} {s : State} {j : Job} {dest : Nat} {seq : Nat} {fprint : Nat} {step : Nat} {r : Nat} {n : Nat} {bs : Bytes} (h0 : Onward o s) : Onward o (State.sendGather s j dest seq fprint step r n bs) := by
  unfold State.sendGather
  try dsimp only
  repeat' first
    | with_reducible assumption
    | with_reducible exact Onward.refl _
    | with_reducible apply State.sendPacket_onward
    | with_reducible refine Onward.foldl _ (fun _ _ _ => ?_) _ _ ?_
    | with_reducible refine Onward.ite ?_ ?_
    | fail_if_no_progress (with_reducible apply Onward.same; iterate 11 (focus with_reducible rfl))
    | dsimp only
    | split

theorem State.bundleGather_onward {o : State} {s : State} {x : CollRun} {j : Job} {c : Coll} (h0 : Onward o s) : Onward o (State.bundleGather s x j c) := by
  unfold State.bundleGather
  try dsimp only
  repeat' first
    | with_reducible assumption
    | with_reducible exact Onward.refl _
    | with_reducible apply State.onColl_onward
    | with_reducible apply State.sendGather_onward
    | with_reducible refine Onward.foldl _ (fun _ _ _ => ?_) _ _ ?_
    | with_reducible refine Onward.ite ?_ ?_
    | fail_if_no_progress (with_reducible apply Onward.same; iterate 11 (focus with_reducible rfl))
    | dsimp only
    | split

theorem State.bringGather_onward {o : State} {s : State} {x : CollRun} {j : Job} {c : Coll} {p : CollPacket} (h0 : Onward o s) : Onward o (State.bringGather s x j c p) := by
  unfold State.bringGather
  try dsimp only
  repeat' first
    | with_reducible assumption
    | with_reducible exact Onward.refl _
    | with_reducible apply Joining.take_onward
    | with_reducible apply State.bundleGather_onward
    | with_reducible apply State.jobStore_onward
    | with_reducible apply State.onColl_onward
    | with_reducible refine Onward.foldl _ (fun _ _ _ => ?_) _ _ ?_
    | with_reducible refine Onward.ite ?_ ?_
    | fail_if_no_progress (with_reducible apply Onward.same; iterate 11 (focus with_reducible rfl))
    | dsimp only
    | split

theorem State.bring_onward {o : State} {s : State} {x : CollRun} {j : Job} {c : Coll} {p : CollPacket} (h0 : Onward o s) : Onward o (State.bring s x j c p) := by
  unfold State.bring
  try dsimp only
  repeat' first
    | with_reducible assumption
    | with_reducible exact Onward.refl _
    | with_reducible apply State.abortColl_onward
    | with_reducible apply State.bringChunks_onward
    | with_reducible apply State.bringGather_onward
    | with_reducible apply State.bringPairs_onward
    | with_reducible refine Onward.foldl _ (fun _ _ _ => ?_) _ _ ?_
    | with_reducible refine Onward.ite ?_ ?_
    | fail_if_no_progress (with_reducible apply Onward.same; iterate 11 (focus with_reducible rfl))
    | dsimp only
    | split

theorem State.dropChunkPacket_onward {o : State} {s : State} {a : Option Nat} {src : Nat} {k : CollPacket} (h0 : Onward o s) : Onward o (State.dropChunkPacket s a src k) := by
  unfold State.dropChunkPacket
  try dsimp only
  repeat' first
    | with_reducible assumption
    | with_reducible exact Onward.refl _
    | with_reducible apply State.log_onward
    | with_reducible apply State.note_onward
    | with_reducible refine Onward.foldl _ (fun _ _ _ => ?_) _ _ ?_
    | with_reducible refine Onward.ite ?_ ?_
    | fail_if_no_progress (with_reducible apply Onward.same; iterate 11 (focus with_reducible rfl))
    | dsimp only
    | split

theorem State.hearColl_onward {o : State} {s : State} {port : Nat} {p : Packet} (h0 : Onward o s) : Onward o (State.hearColl s port p) := by
  unfold State.hearColl
  try dsimp only
  repeat' first
    | with_reducible assumption
    | with_reducible exact Onward.refl _
    | with_reducible apply State.bring_onward
    | with_reducible apply State.dropChunkPacket_onward
    | with_reducible apply State.putRun_onward
    | with_reducible refine Onward.foldl _ (fun _ _ _ => ?_) _ _ ?_
    | with_reducible refine Onward.ite ?_ ?_
    | fail_if_no_progress (with_reducible apply Onward.same; iterate 11 (focus with_reducible rfl))
    | dsimp only
    | split

theorem execChunksPacket_onward {port : Nat} {s : State} : Ends s (execChunksPacket port s) := by
  unfold execChunksPacket
  try dsimp only
  repeat' first
    | with_reducible assumption
    | with_reducible exact Onward.refl _
    | with_reducible apply Ends.onUnit
    | with_reducible apply Ends.whenDue
    | with_reducible apply Ends.next
    | with_reducible apply State.hearColl_onward
    | with_reducible refine packetRow_onward (fun _ _ _ => ?_)
    | with_reducible refine Onward.foldl _ (fun _ _ _ => ?_) _ _ ?_
    | with_reducible refine Onward.ite ?_ ?_
    | fail_if_no_progress (with_reducible apply Onward.same; iterate 11 (focus with_reducible rfl))
    | dsimp only
    | split

theorem execSparsePairs_onward {port : Nat} {s : State} : Ends s (execSparsePairs port s) := by
  unfold execSparsePairs
  try dsimp only
  repeat' first
    | with_reducible assumption
    | with_reducible exact Onward.refl _
    | with_reducible apply Ends.onUnit
    | with_reducible apply Ends.whenDue
    | with_reducible apply Ends.next
    | with_reducible apply State.hearColl_onward
    | with_reducible refine packetRow_onward (fun _ _ _ => ?_)
    | with_reducible refine Onward.foldl _ (fun _ _ _ => ?_) _ _ ?_
    | with_reducible refine Onward.ite ?_ ?_
    | fail_if_no_progress (with_reducible apply Onward.same; iterate 11 (focus with_reducible rfl))
    | dsimp only
    | split

theorem State.markAborted_onward {o : State} {reason : Nat} {s : State} {y : CollRun} (h0 : Onward o s) : Onward o (State.markAborted reason s y) := by
  unfold State.markAborted
  try dsimp only
  repeat' first
    | with_reducible assumption
    | with_reducible exact Onward.refl _
    | with_reducible apply State.onColl_onward
    | with_reducible apply State.tellCores_onward
    | with_reducible refine Onward.foldl _ (fun _ _ _ => ?_) _ _ ?_
    | with_reducible refine Onward.ite ?_ ?_
    | fail_if_no_progress (with_reducible apply Onward.same; iterate 11 (focus with_reducible rfl))
    | dsimp only
    | split

theorem execAbortPacket_onward {port : Nat} {s : State} : Ends s (execAbortPacket port s) := by
  unfold execAbortPacket
  try dsimp only
  repeat' first
    | with_reducible assumption
    | with_reducible exact Onward.refl _
    | with_reducible apply Ends.onUnit
    | with_reducible apply Ends.whenDue
    | with_reducible apply Ends.next
    | with_reducible apply State.faultAtelier_onward
    | with_reducible apply State.markAborted_onward
    | with_reducible refine packetRow_onward (fun _ _ _ => ?_)
    | with_reducible refine Onward.foldl _ (fun _ _ _ => ?_) _ _ ?_
    | with_reducible refine Onward.ite ?_ ?_
    | fail_if_no_progress (with_reducible apply Onward.same; iterate 11 (focus with_reducible rfl))
    | dsimp only
    | split

theorem State.takeSeal_onward {o : State} {s : State} {n : Nat} {j : Job} {p : CollPacket} (h0 : Onward o s) : Onward o (State.takeSeal s n j p) := by
  unfold State.takeSeal
  try dsimp only
  repeat' first
    | with_reducible assumption
    | with_reducible exact Onward.refl _
    | with_reducible apply State.onRun_onward
    | with_reducible refine Onward.foldl _ (fun _ _ _ => ?_) _ _ ?_
    | with_reducible refine Onward.ite ?_ ?_
    | fail_if_no_progress (with_reducible apply Onward.same; iterate 11 (focus with_reducible rfl))
    | dsimp only
    | split

theorem State.bundleSeal_onward {o : State} {s : State} {n : Nat} (h0 : Onward o s) : Onward o (State.bundleSeal s n) := by
  unfold State.bundleSeal
  try dsimp only
  repeat' first
    | with_reducible assumption
    | with_reducible exact Onward.refl _
    | with_reducible apply State.onRun_onward
    | with_reducible apply State.sendGather_onward
    | with_reducible refine Onward.foldl _ (fun _ _ _ => ?_) _ _ ?_
    | with_reducible refine Onward.ite ?_ ?_
    | fail_if_no_progress (with_reducible apply Onward.same; iterate 11 (focus with_reducible rfl))
    | dsimp only
    | split

theorem State.releaseSeal_onward {o : State} {s : State} {n : Nat} (h0 : Onward o s) : Onward o (State.releaseSeal s n) := by
  unfold State.releaseSeal
  try dsimp only
  repeat' first
    | with_reducible assumption
    | with_reducible exact Onward.refl _
    | with_reducible apply State.bundleSeal_onward
    | with_reducible apply State.takeSeal_onward
    | with_reducible refine Onward.foldl _ (fun _ _ _ => ?_) _ _ ?_
    | with_reducible refine Onward.ite ?_ ?_
    | fail_if_no_progress (with_reducible apply Onward.same; iterate 11 (focus with_reducible rfl))
    | dsimp only
    | split

theorem State.hearSeal_onward {o : State} {s : State} {port : Nat} {p : Packet} (h0 : Onward o s) : Onward o (State.hearSeal s port p) := by
  unfold State.hearSeal
  try dsimp only
  repeat' first
    | with_reducible assumption
    | with_reducible exact Onward.refl _
    | with_reducible apply State.releaseSeal_onward
    | with_reducible refine Onward.foldl _ (fun _ _ _ => ?_) _ _ ?_
    | with_reducible refine Onward.ite ?_ ?_
    | fail_if_no_progress (with_reducible apply Onward.same; iterate 11 (focus with_reducible rfl))
    | dsimp only
    | split

theorem execGatherPacket_onward {port : Nat} {s : State} : Ends s (execGatherPacket port s) := by
  unfold execGatherPacket
  try dsimp only
  repeat' first
    | with_reducible assumption
    | with_reducible exact Onward.refl _
    | with_reducible apply Ends.onUnit
    | with_reducible apply Ends.whenDue
    | with_reducible apply Ends.next
    | with_reducible apply State.hearColl_onward
    | with_reducible apply State.hearSeal_onward
    | with_reducible refine packetRow_onward (fun _ _ _ => ?_)
    | with_reducible refine Onward.foldl _ (fun _ _ _ => ?_) _ _ ?_
    | with_reducible refine Onward.ite ?_ ?_
    | fail_if_no_progress (with_reducible apply Onward.same; iterate 11 (focus with_reducible rfl))
    | dsimp only
    | split

theorem State.sendPairs_onward {o : State} {s : State} {x : CollRun} {j : Job} {c : Coll} (h0 : Onward o s) : Onward o (State.sendPairs s x j c) := by
  unfold State.sendPairs
  try dsimp only
  repeat' first
    | with_reducible assumption
    | with_reducible exact Onward.refl _
    | with_reducible apply State.onColl_onward
    | with_reducible apply State.sendPacket_onward
    | with_reducible refine Onward.foldl _ (fun _ _ _ => ?_) _ _ ?_
    | with_reducible refine Onward.ite ?_ ?_
    | fail_if_no_progress (with_reducible apply Onward.same; iterate 11 (focus with_reducible rfl))
    | dsimp only
    | split

theorem State.startColl_onward {o : State} {s : State} {x : CollRun} {j : Job} {c : Coll} (h0 : Onward o s) : Onward o (State.startColl s x j c) := by
  unfold State.startColl
  try dsimp only
  repeat' first
    | with_reducible assumption
    | with_reducible exact Onward.refl _
    | with_reducible apply State.bundleGather_onward
    | with_reducible apply State.onColl_onward
    | with_reducible apply State.sendGather_onward
    | with_reducible apply State.sendPairs_onward
    | with_reducible refine Onward.foldl _ (fun _ _ _ => ?_) _ _ ?_
    | with_reducible refine Onward.ite ?_ ?_
    | fail_if_no_progress (with_reducible apply Onward.same; iterate 11 (focus with_reducible rfl))
    | dsimp only
    | split

theorem State.launchColl_onward {o : State} {s : State} {x : CollRun} {j : Job} {c : Coll} (h0 : Onward o s) : Onward o (State.launchColl s x j c) := by
  unfold State.launchColl
  try dsimp only
  repeat' first
    | with_reducible assumption
    | with_reducible exact Onward.refl _
    | with_reducible apply State.abortColl_onward
    | with_reducible apply State.bring_onward
    | with_reducible apply State.putRun_onward
    | with_reducible apply State.startColl_onward
    | with_reducible refine Onward.foldl _ (fun _ _ _ => ?_) _ _ ?_
    | with_reducible refine Onward.ite ?_ ?_
    | fail_if_no_progress (with_reducible apply Onward.same; iterate 11 (focus with_reducible rfl))
    | dsimp only
    | split

theorem execCollectiveLaunch_onward {job : Nat} {desc : Nat} {s : State} : Ends s (execCollectiveLaunch job desc s) := by
  unfold execCollectiveLaunch
  try dsimp only
  repeat' first
    | with_reducible assumption
    | with_reducible exact Onward.refl _
    | with_reducible apply Ends.onUnit
    | with_reducible apply Ends.whenDue
    | with_reducible apply Ends.next
    | with_reducible apply State.launchColl_onward
    | with_reducible refine Onward.foldl _ (fun _ _ _ => ?_) _ _ ?_
    | with_reducible refine Onward.ite ?_ ?_
    | fail_if_no_progress (with_reducible apply Onward.same; iterate 11 (focus with_reducible rfl))
    | dsimp only
    | split

theorem execCollectiveTimeout_onward {job : Nat} {desc : Nat} {s : State} : Ends s (execCollectiveTimeout job desc s) := by
  unfold execCollectiveTimeout
  try dsimp only
  repeat' first
    | with_reducible assumption
    | with_reducible exact Onward.refl _
    | with_reducible apply Ends.onUnit
    | with_reducible apply Ends.whenDue
    | with_reducible apply Ends.next
    | with_reducible apply State.abortColl_onward
    | with_reducible apply State.reach_onward
    | with_reducible refine Onward.foldl _ (fun _ _ _ => ?_) _ _ ?_
    | with_reducible refine Onward.ite ?_ ?_
    | fail_if_no_progress (with_reducible apply Onward.same; iterate 11 (focus with_reducible rfl))
    | dsimp only
    | split

theorem execCollectiveCompletion_onward {job : Nat} {desc : Nat} {s : State} : Ends s (execCollectiveCompletion job desc s) := by
  unfold execCollectiveCompletion
  try dsimp only
  repeat' first
    | with_reducible assumption
    | with_reducible exact Onward.refl _
    | with_reducible apply Ends.onUnit
    | with_reducible apply Ends.whenDue
    | with_reducible apply Ends.next
    | with_reducible apply State.putRun_onward
    | with_reducible apply State.settleSparse_onward
    | with_reducible apply State.tellCores_onward
    | with_reducible refine Onward.foldl _ (fun _ _ _ => ?_) _ _ ?_
    | with_reducible refine Onward.ite ?_ ?_
    | fail_if_no_progress (with_reducible apply Onward.same; iterate 11 (focus with_reducible rfl))
    | dsimp only
    | split

end Sys2Proof.Machine
end

