-- ==== Sys2Proof/Laws/OnTrain.lean ====
section
/-!
SUPPORT. That every operation of Machine/Train.lean leads onward (Safety.lean).
-/
namespace Sys2Proof.Machine

set_option linter.unusedTactic false
set_option linter.unreachableTactic false

theorem State.writeStepBlock_onward {o : State} {s : State} {n : Nat} {j : Job} {step : Nat} {restart : Nat} {k : Int} (h0 : Onward o s) : Onward o (State.writeStepBlock s n j step restart k) := by
  unfold State.writeStepBlock
  try dsimp only
  repeat' first
    | with_reducible assumption
    | with_reducible exact Onward.refl _
    | with_reducible apply State.jobStore_onward
    | with_reducible refine Onward.foldl _ (fun _ _ _ => ?_) _ _ ?_
    | with_reducible refine Onward.ite ?_ ?_
    | fail_if_no_progress (with_reducible apply Onward.same; iterate 11 (focus with_reducible rfl))
    | dsimp only
    | split

theorem State.putSlot_onward {o : State} {s : State} {n : Nat} {j : Job} {at_ : Nat} {slot : Nat} {fresh : Bool} (h0 : Onward o s) : Onward o (State.putSlot s n j at_ slot fresh) := by
  unfold State.putSlot
  try dsimp only
  repeat' first
    | with_reducible assumption
    | with_reducible exact Onward.refl _
    | with_reducible apply State.jobStore_onward
    | with_reducible refine Onward.foldl _ (fun _ _ _ => ?_) _ _ ?_
    | with_reducible refine Onward.ite ?_ ?_
    | fail_if_no_progress (with_reducible apply Onward.same; iterate 11 (focus with_reducible rfl))
    | dsimp only
    | split

theorem State.firstUse_onward {o : State} {s : State} {n : Nat} {j : Job} {step : Nat} {x : Nat × Bytes} (h0 : Onward o s) : Onward o (State.firstUse s n j step x) := by
  unfold State.firstUse
  try dsimp only
  repeat' first
    | with_reducible assumption
    | with_reducible exact Onward.refl _
    | with_reducible apply State.jobStore_onward
    | with_reducible apply State.putSlot_onward
    | with_reducible refine Onward.foldl _ (fun _ _ _ => ?_) _ _ ?_
    | with_reducible refine Onward.ite ?_ ?_
    | fail_if_no_progress (with_reducible apply Onward.same; iterate 11 (focus with_reducible rfl))
    | dsimp only
    | split

theorem State.prepareStep_onward {o : State} {s : State} {n : Nat} {j : Job} {step : Nat} {restart : Nat} {k : Int} (h0 : Onward o s) : Onward o (State.prepareStep s n j step restart k) := by
  unfold State.prepareStep
  try dsimp only
  repeat' first
    | with_reducible assumption
    | with_reducible exact Onward.refl _
    | with_reducible apply State.firstUse_onward
    | with_reducible apply State.writeStepBlock_onward
    | with_reducible refine Onward.foldl _ (fun _ _ _ => ?_) _ _ ?_
    | with_reducible refine Onward.ite ?_ ?_
    | fail_if_no_progress (with_reducible apply Onward.same; iterate 11 (focus with_reducible rfl))
    | dsimp only
    | split

theorem State.launchNext_onward {o : State} {s : State} {n : Nat} {j : Job} (h0 : Onward o s) : Onward o (State.launchNext s n j) := by
  unfold State.launchNext
  try dsimp only
  repeat' first
    | with_reducible assumption
    | with_reducible exact Onward.refl _
    | with_reducible apply State.onJob_onward
    | with_reducible apply State.onRun_onward
    | with_reducible apply State.outcome_onward
    | with_reducible apply State.prepareStep_onward
    | with_reducible apply State.releaseSeal_onward
    | with_reducible refine Onward.foldl _ (fun _ _ _ => ?_) _ _ ?_
    | with_reducible refine Onward.ite ?_ ?_
    | fail_if_no_progress (with_reducible apply Onward.same; iterate 11 (focus with_reducible rfl))
    | dsimp only
    | split

theorem execStepLaunch_onward {job : Nat} {s : State} : Ends s (execStepLaunch job s) := by
  unfold execStepLaunch
  try dsimp only
  repeat' first
    | with_reducible assumption
    | with_reducible exact Onward.refl _
    | with_reducible apply Ends.onUnit
    | with_reducible apply Ends.whenDue
    | with_reducible apply Ends.next
    | with_reducible apply State.launchNext_onward
    | with_reducible refine Onward.foldl _ (fun _ _ _ => ?_) _ _ ?_
    | with_reducible refine Onward.ite ?_ ?_
    | fail_if_no_progress (with_reducible apply Onward.same; iterate 11 (focus with_reducible rfl))
    | dsimp only
    | split

theorem execLayerCountGather_onward {job : Nat} {s : State} : Ends s (execLayerCountGather job s) := by
  unfold execLayerCountGather
  try dsimp only
  repeat' first
    | with_reducible assumption
    | with_reducible exact Onward.refl _
    | with_reducible apply Ends.onUnit
    | with_reducible apply Ends.whenDue
    | with_reducible apply Ends.next
    | with_reducible apply State.gatherCore_onward
    | with_reducible apply State.onRun_onward
    | with_reducible refine Onward.foldl _ (fun _ _ _ => ?_) _ _ ?_
    | with_reducible refine Onward.ite ?_ ?_
    | fail_if_no_progress (with_reducible apply Onward.same; iterate 11 (focus with_reducible rfl))
    | dsimp only
    | split

theorem State.optimistic_onward {o : State} {s : State} {n : Nat} {j : Job} {d : Bytes} {r : StepRun} (h0 : Onward o s) : Onward o (State.optimistic s n j d r) := by
  unfold State.optimistic
  try dsimp only
  repeat' first
    | with_reducible assumption
    | with_reducible exact Onward.refl _
    | with_reducible apply State.onRun_onward
    | with_reducible apply State.updateLayer_onward
    | with_reducible refine Onward.foldl _ (fun _ _ _ => ?_) _ _ ?_
    | with_reducible refine Onward.ite ?_ ?_
    | fail_if_no_progress (with_reducible apply Onward.same; iterate 11 (focus with_reducible rfl))
    | dsimp only
    | split

theorem execUpdateRoutineLaunch_onward {job : Nat} {layer : RoutineRun} {s : State} : Ends s (execUpdateRoutineLaunch job layer s) := by
  unfold execUpdateRoutineLaunch
  try dsimp only
  repeat' first
    | with_reducible assumption
    | with_reducible exact Onward.refl _
    | with_reducible apply Ends.onUnit
    | with_reducible apply Ends.whenDue
    | with_reducible apply Ends.next
    | with_reducible apply State.optimistic_onward
    | with_reducible apply State.upsetRoutine_onward
    | with_reducible refine Onward.foldl _ (fun _ _ _ => ?_) _ _ ?_
    | with_reducible refine Onward.ite ?_ ?_
    | fail_if_no_progress (with_reducible apply Onward.same; iterate 11 (focus with_reducible rfl))
    | dsimp only
    | split

theorem State.buildRecord_onward {o : State} {s : State} {n : Nat} {j : Job} {r : StepRun} (h0 : Onward o s) : Onward o (State.buildRecord s n j r) := by
  unfold State.buildRecord
  try dsimp only
  repeat' first
    | with_reducible assumption
    | with_reducible exact Onward.refl _
    | with_reducible apply State.bundleSeal_onward
    | with_reducible apply State.onRun_onward
    | with_reducible apply State.sendGather_onward
    | with_reducible refine Onward.foldl _ (fun _ _ _ => ?_) _ _ ?_
    | with_reducible refine Onward.ite ?_ ?_
    | fail_if_no_progress (with_reducible apply Onward.same; iterate 11 (focus with_reducible rfl))
    | dsimp only
    | split

theorem execSealRecordBuild_onward {job : Nat} {s : State} : Ends s (execSealRecordBuild job s) := by
  unfold execSealRecordBuild
  try dsimp only
  repeat' first
    | with_reducible assumption
    | with_reducible exact Onward.refl _
    | with_reducible apply Ends.onUnit
    | with_reducible apply Ends.whenDue
    | with_reducible apply Ends.next
    | with_reducible apply State.buildRecord_onward
    | with_reducible refine Onward.foldl _ (fun _ _ _ => ?_) _ _ ?_
    | with_reducible refine Onward.ite ?_ ?_
    | fail_if_no_progress (with_reducible apply Onward.same; iterate 11 (focus with_reducible rfl))
    | dsimp only
    | split

theorem State.tellPartner_onward {o : State} {s : State} {j : Job} {r : StepRun} (h0 : Onward o s) : Onward o (State.tellPartner s j r) := by
  unfold State.tellPartner
  try dsimp only
  repeat' first
    | with_reducible assumption
    | with_reducible exact Onward.refl _
    | with_reducible apply State.sendPacket_onward
    | with_reducible refine Onward.foldl _ (fun _ _ _ => ?_) _ _ ?_
    | with_reducible refine Onward.ite ?_ ?_
    | fail_if_no_progress (with_reducible apply Onward.same; iterate 11 (focus with_reducible rfl))
    | dsimp only
    | split

theorem State.decideStep_onward {o : State} {s : State} {n : Nat} {j : Job} {r : StepRun} (h0 : Onward o s) : Onward o (State.decideStep s n j r) := by
  unfold State.decideStep
  try dsimp only
  repeat' first
    | with_reducible assumption
    | with_reducible exact Onward.refl _
    | with_reducible apply State.beginStop_onward
    | with_reducible apply State.faultAtelier_onward
    | with_reducible apply State.onRun_onward
    | with_reducible apply State.outcome_onward
    | with_reducible apply State.tellPartner_onward
    | with_reducible refine Onward.foldl _ (fun _ _ _ => ?_) _ _ ?_
    | with_reducible refine Onward.ite ?_ ?_
    | fail_if_no_progress (with_reducible apply Onward.same; iterate 11 (focus with_reducible rfl))
    | dsimp only
    | split

theorem execSealDecision_onward {job : Nat} {s : State} : Ends s (execSealDecision job s) := by
  unfold execSealDecision
  try dsimp only
  repeat' first
    | with_reducible assumption
    | with_reducible exact Onward.refl _
    | with_reducible apply Ends.onUnit
    | with_reducible apply Ends.whenDue
    | with_reducible apply Ends.next
    | with_reducible apply State.decideStep_onward
    | with_reducible apply State.outcome_onward
    | with_reducible refine Onward.foldl _ (fun _ _ _ => ?_) _ _ ?_
    | with_reducible refine Onward.ite ?_ ?_
    | fail_if_no_progress (with_reducible apply Onward.same; iterate 11 (focus with_reducible rfl))
    | dsimp only
    | split

theorem execSealTimeout_onward {job : Nat} {s : State} : Ends s (execSealTimeout job s) := by
  unfold execSealTimeout
  try dsimp only
  repeat' first
    | with_reducible assumption
    | with_reducible exact Onward.refl _
    | with_reducible apply Ends.onUnit
    | with_reducible apply Ends.whenDue
    | with_reducible apply Ends.next
    | with_reducible apply State.faultAtelier_onward
    | with_reducible apply State.outcome_onward
    | with_reducible apply State.reach_onward
    | with_reducible refine Onward.foldl _ (fun _ _ _ => ?_) _ _ ?_
    | with_reducible refine Onward.ite ?_ ?_
    | fail_if_no_progress (with_reducible apply Onward.same; iterate 11 (focus with_reducible rfl))
    | dsimp only
    | split

theorem State.discardAhead_onward {o : State} {s : State} {n : Nat} {j : Job} {r : StepRun} (h0 : Onward o s) : Onward o (State.discardAhead s n j r) := by
  unfold State.discardAhead
  try dsimp only
  repeat' first
    | with_reducible assumption
    | with_reducible exact Onward.refl _
    | with_reducible apply State.endStop_onward
    | with_reducible apply State.raiseEpoch_onward
    | with_reducible apply State.setCore_onward
    | with_reducible refine Onward.foldl _ (fun _ _ _ => ?_) _ _ ?_
    | with_reducible refine Onward.ite ?_ ?_
    | fail_if_no_progress (with_reducible apply Onward.same; iterate 11 (focus with_reducible rfl))
    | dsimp only
    | split

theorem State.restoreAll_onward {o : State} {s : State} {n : Nat} {j : Job} {r : StepRun} (h0 : Onward o s) : Onward o (State.restoreAll s n j r) := by
  unfold State.restoreAll
  try dsimp only
  repeat' first
    | with_reducible assumption
    | with_reducible exact Onward.refl _
    | with_reducible apply State.restoreLayer_onward
    | with_reducible refine Onward.foldl _ (fun _ _ _ => ?_) _ _ ?_
    | with_reducible refine Onward.ite ?_ ?_
    | fail_if_no_progress (with_reducible apply Onward.same; iterate 11 (focus with_reducible rfl))
    | dsimp only
    | split

theorem State.applyLayer_onward {o : State} {s : State} {n : Nat} {j : Job} {r : StepRun} {f : Nat} {d : Bytes} (h0 : Onward o s) : Onward o (State.applyLayer s n j r f d) := by
  unfold State.applyLayer
  try dsimp only
  repeat' first
    | with_reducible assumption
    | with_reducible exact Onward.refl _
    | with_reducible apply State.log_onward
    | with_reducible apply State.updateLayer_onward
    | with_reducible refine Onward.foldl _ (fun _ _ _ => ?_) _ _ ?_
    | with_reducible refine Onward.ite ?_ ?_
    | fail_if_no_progress (with_reducible apply Onward.same; iterate 11 (focus with_reducible rfl))
    | dsimp only
    | split

theorem State.applyAll_onward {o : State} {s : State} {n : Nat} {j : Job} {r : StepRun} {f : Nat} {keep : Bool} (h0 : Onward o s) : Onward o (State.applyAll s n j r f keep) := by
  unfold State.applyAll
  try dsimp only
  repeat' first
    | with_reducible assumption
    | with_reducible exact Onward.refl _
    | with_reducible apply State.applyLayer_onward
    | with_reducible apply State.updateLayer_onward
    | with_reducible refine Onward.foldl _ (fun _ _ _ => ?_) _ _ ?_
    | with_reducible refine Onward.ite ?_ ?_
    | fail_if_no_progress (with_reducible apply Onward.same; iterate 11 (focus with_reducible rfl))
    | dsimp only
    | split

theorem State.turnSlots_onward {o : State} {s : State} {n : Nat} {j : Job} (h0 : Onward o s) : Onward o (State.turnSlots s n j) := by
  unfold State.turnSlots
  try dsimp only
  repeat' first
    | with_reducible assumption
    | with_reducible exact Onward.refl _
    | with_reducible apply State.putSlot_onward
    | with_reducible refine Onward.foldl _ (fun _ _ _ => ?_) _ _ ?_
    | with_reducible refine Onward.ite ?_ ?_
    | fail_if_no_progress (with_reducible apply Onward.same; iterate 11 (focus with_reducible rfl))
    | dsimp only
    | split

theorem State.writeRing_onward {o : State} {s : State} {n : Nat} {j : Job} {r : StepRun} {what : Outcome} {records : List Bytes} {escalated : Nat} (h0 : Onward o s) : Onward o (State.writeRing s n j r what records escalated) := by
  unfold State.writeRing
  try dsimp only
  repeat' first
    | with_reducible assumption
    | with_reducible exact Onward.refl _
    | with_reducible apply State.jobStore_onward
    | with_reducible refine Onward.foldl _ (fun _ _ _ => ?_) _ _ ?_
    | with_reducible refine Onward.ite ?_ ?_
    | fail_if_no_progress (with_reducible apply Onward.same; iterate 11 (focus with_reducible rfl))
    | dsimp only
    | split

theorem State.noteScale_onward {o : State} {s : State} {n : Nat} {j : Job} {r : StepRun} {limit : Bool} (h0 : Onward o s) : Onward o (State.noteScale s n j r limit) := by
  unfold State.noteScale
  try dsimp only
  repeat' first
    | with_reducible assumption
    | with_reducible exact Onward.refl _
    | with_reducible apply State.log_onward
    | with_reducible refine Onward.foldl _ (fun _ _ _ => ?_) _ _ ?_
    | with_reducible refine Onward.ite ?_ ?_
    | fail_if_no_progress (with_reducible apply Onward.same; iterate 11 (focus with_reducible rfl))
    | dsimp only
    | split

theorem State.dropStep_onward {o : State} {s : State} {n : Nat} {step : Nat} (h0 : Onward o s) : Onward o (State.dropStep s n step) := by
  unfold State.dropStep
  try dsimp only
  repeat' first
    | with_reducible assumption
    | with_reducible exact Onward.refl _
    | with_reducible refine Onward.foldl _ (fun _ _ _ => ?_) _ _ ?_
    | with_reducible refine Onward.ite ?_ ?_
    | fail_if_no_progress (with_reducible apply Onward.same; iterate 11 (focus with_reducible rfl))
    | dsimp only
    | split

theorem State.settleOver_onward {o : State} {s : State} {n : Nat} (h0 : Onward o s) : Onward o (State.settleOver s n) := by
  unfold State.settleOver
  try dsimp only
  repeat' first
    | with_reducible assumption
    | with_reducible exact Onward.refl _
    | with_reducible apply State.log_onward
    | with_reducible apply State.onJob_onward
    | with_reducible refine Onward.foldl _ (fun _ _ _ => ?_) _ _ ?_
    | with_reducible refine Onward.ite ?_ ?_
    | fail_if_no_progress (with_reducible apply Onward.same; iterate 11 (focus with_reducible rfl))
    | dsimp only
    | split

theorem State.endRun_onward {o : State} {s : State} {n : Nat} (h0 : Onward o s) : Onward o (State.endRun s n) := by
  unfold State.endRun
  try dsimp only
  repeat' first
    | with_reducible assumption
    | with_reducible exact Onward.refl _
    | with_reducible apply State.finish_onward
    | with_reducible apply State.onJob_onward
    | with_reducible apply State.settleOver_onward
    | with_reducible refine Onward.foldl _ (fun _ _ _ => ?_) _ _ ?_
    | with_reducible refine Onward.ite ?_ ?_
    | fail_if_no_progress (with_reducible apply Onward.same; iterate 11 (focus with_reducible rfl))
    | dsimp only
    | split

theorem State.endStep_onward {o : State} {s : State} {n : Nat} {r : StepRun} {what : Outcome} (h0 : Onward o s) : Onward o (State.endStep s n r what) := by
  unfold State.endStep
  try dsimp only
  repeat' first
    | with_reducible assumption
    | with_reducible exact Onward.refl _
    | with_reducible apply State.dropStep_onward
    | with_reducible apply State.endRun_onward
    | with_reducible apply State.log_onward
    | with_reducible apply State.noteScale_onward
    | with_reducible apply State.onJob_onward
    | with_reducible apply State.releaseSeal_onward
    | with_reducible apply State.writeRing_onward
    | with_reducible refine Onward.foldl _ (fun _ _ _ => ?_) _ _ ?_
    | with_reducible refine Onward.ite ?_ ?_
    | fail_if_no_progress (with_reducible apply Onward.same; iterate 11 (focus with_reducible rfl))
    | dsimp only
    | split

theorem State.resetFactors_onward {o : State} {s : State} {n : Nat} {j : Job} {x : Nat × Bytes} (h0 : Onward o s) : Onward o (State.resetFactors s n j x) := by
  unfold State.resetFactors
  try dsimp only
  repeat' first
    | with_reducible assumption
    | with_reducible exact Onward.refl _
    | with_reducible apply State.jobStore_onward
    | with_reducible refine Onward.foldl _ (fun _ _ _ => ?_) _ _ ?_
    | with_reducible refine Onward.ite ?_ ?_
    | fail_if_no_progress (with_reducible apply Onward.same; iterate 11 (focus with_reducible rfl))
    | dsimp only
    | split

theorem State.rereduce_onward {o : State} {s : State} {n : Nat} {j : Job} {r : StepRun} (h0 : Onward o s) : Onward o (State.rereduce s n j r) := by
  unfold State.rereduce
  try dsimp only
  repeat' first
    | with_reducible assumption
    | with_reducible exact Onward.refl _
    | with_reducible apply State.discardAhead_onward
    | with_reducible apply State.onRun_onward
    | with_reducible apply State.outcome_onward
    | with_reducible apply State.releaseSeal_onward
    | with_reducible apply State.resend_onward
    | with_reducible apply State.resetFactors_onward
    | with_reducible apply State.restoreAll_onward
    | with_reducible refine Onward.foldl _ (fun _ _ _ => ?_) _ _ ?_
    | with_reducible refine Onward.ite ?_ ?_
    | fail_if_no_progress (with_reducible apply Onward.same; iterate 11 (focus with_reducible rfl))
    | dsimp only
    | split

theorem State.act_onward {o : State} {s : State} {n : Nat} {j : Job} {r : StepRun} {what : Outcome} (h0 : Onward o s) : Onward o (State.act s n j r what) := by
  unfold State.act
  try dsimp only
  repeat' first
    | with_reducible assumption
    | with_reducible exact Onward.refl _
    | with_reducible apply State.applyAll_onward
    | with_reducible apply State.discardAhead_onward
    | with_reducible apply State.endStep_onward
    | with_reducible apply State.log_onward
    | with_reducible apply State.rereduce_onward
    | with_reducible apply State.restoreAll_onward
    | with_reducible apply State.turnSlots_onward
    | with_reducible refine Onward.foldl _ (fun _ _ _ => ?_) _ _ ?_
    | with_reducible refine Onward.ite ?_ ?_
    | fail_if_no_progress (with_reducible apply Onward.same; iterate 11 (focus with_reducible rfl))
    | dsimp only
    | split

theorem execSealActions_onward {job : RoutineRun} {s : State} : Ends s (execSealActions job s) := by
  unfold execSealActions
  try dsimp only
  repeat' first
    | with_reducible assumption
    | with_reducible exact Onward.refl _
    | with_reducible apply Ends.onUnit
    | with_reducible apply Ends.whenDue
    | with_reducible apply Ends.next
    | with_reducible apply State.act_onward
    | with_reducible apply State.outcome_onward
    | with_reducible apply State.upsetRoutine_onward
    | with_reducible refine Onward.foldl _ (fun _ _ _ => ?_) _ _ ?_
    | with_reducible refine Onward.ite ?_ ?_
    | fail_if_no_progress (with_reducible apply Onward.same; iterate 11 (focus with_reducible rfl))
    | dsimp only
    | split

end Sys2Proof.Machine
end

