-- ==== Sys2Proof/Laws/OnJobs.lean ====
section
/-!
SUPPORT. That every operation of Machine/Jobs.lean leads onward (Safety.lean).
-/
namespace Sys2Proof.Machine

set_option linter.unusedTactic false
set_option linter.unreachableTactic false

theorem State.addJob_onward {o : State} {s : State} {n : Nat} {j : Job} (h0 : Onward o s) : Onward o (State.addJob s n j) := by
  unfold State.addJob
  try dsimp only
  repeat' first
    | with_reducible assumption
    | with_reducible exact Onward.refl _
    | with_reducible apply State.refer_onward
    | with_reducible refine Onward.foldl _ (fun _ _ _ => ?_) _ _ ?_
    | with_reducible refine Onward.ite ?_ ?_
    | fail_if_no_progress (with_reducible apply Onward.same; iterate 11 (focus with_reducible rfl))
    | dsimp only
    | split

theorem execJobCreate_onward {cmd : Nat} {members : Option Bytes} {objs : Option Bytes} {forms : JobForms} {s : State} : Ends s (execJobCreate cmd members objs forms s) := by
  unfold execJobCreate
  try dsimp only
  repeat' first
    | with_reducible assumption
    | with_reducible exact Onward.refl _
    | with_reducible apply Ends.onUnit
    | with_reducible apply Ends.whenDue
    | with_reducible apply Ends.next
    | with_reducible apply State.addJob_onward
    | with_reducible apply State.finish_onward
    | with_reducible apply State.readFor_onward
    | with_reducible apply State.refuse_onward
    | with_reducible refine onCommand_onward (fun _ => ?_)
    | with_reducible refine Onward.foldl _ (fun _ _ _ => ?_) _ _ ?_
    | with_reducible refine Onward.ite ?_ ?_
    | fail_if_no_progress (with_reducible apply Onward.same; iterate 11 (focus with_reducible rfl))
    | dsimp only
    | split

theorem onDispatched_onward {s : State} {n opcode : Nat} {ok : Cmd → Bool} {f : Cmd → State} (hf : ∀ c, Onward s (f c)) : Ends s (onDispatched s n opcode ok f) := by
  unfold onDispatched
  split
  · exact Ends.whenDue (Onward.refl _) (hf _)
  · exact Ends.next (Onward.refl _)

theorem State.noteMixed_onward {o : State} {s : State} {n : Nat} (h0 : Onward o s) : Onward o (State.noteMixed s n) := by
  unfold State.noteMixed
  try dsimp only
  repeat' first
    | with_reducible assumption
    | with_reducible exact Onward.refl _
    | with_reducible apply State.setLease_onward
    | with_reducible refine Onward.foldl _ (fun _ _ _ => ?_) _ _ ?_
    | with_reducible refine Onward.ite ?_ ?_
    | fail_if_no_progress (with_reducible apply Onward.same; iterate 11 (focus with_reducible rfl))
    | dsimp only
    | split

theorem execJobRun_onward {cmd : Nat} {s : State} : Ends s (execJobRun cmd s) := by
  unfold execJobRun
  try dsimp only
  repeat' first
    | with_reducible assumption
    | with_reducible exact Onward.refl _
    | with_reducible apply Ends.onUnit
    | with_reducible apply Ends.whenDue
    | with_reducible apply Ends.next
    | with_reducible apply State.noteMixed_onward
    | with_reducible apply State.onJob_onward
    | with_reducible refine onDispatched_onward (fun _ => ?_)
    | with_reducible refine Onward.foldl _ (fun _ _ _ => ?_) _ _ ?_
    | with_reducible refine Onward.ite ?_ ?_
    | fail_if_no_progress (with_reducible apply Onward.same; iterate 11 (focus with_reducible rfl))
    | dsimp only
    | split

theorem State.countSnapshot_onward {o : State} {s : State} {n : Nat} {j : Job} {f : Fmt} {v : Variant} (h0 : Onward o s) : Onward o (State.countSnapshot s n j f v) := by
  unfold State.countSnapshot
  try dsimp only
  repeat' first
    | with_reducible assumption
    | with_reducible exact Onward.refl _
    | with_reducible apply Joining.take_onward
    | with_reducible apply State.countCopy_onward
    | with_reducible refine Onward.foldl _ (fun _ _ _ => ?_) _ _ ?_
    | with_reducible refine Onward.ite ?_ ?_
    | fail_if_no_progress (with_reducible apply Onward.same; iterate 11 (focus with_reducible rfl))
    | dsimp only
    | split

theorem State.offer_onward {o : State} {s : State} {tjob : Nat} {obj : Nat} {step : Nat} (h0 : Onward o s) : Onward o (State.offer s tjob obj step) := by
  unfold State.offer
  try dsimp only
  repeat' first
    | with_reducible assumption
    | with_reducible exact Onward.refl _
    | with_reducible apply State.onJob_onward
    | with_reducible apply State.refer_onward
    | with_reducible refine Onward.foldl _ (fun _ _ _ => ?_) _ _ ?_
    | with_reducible refine Onward.ite ?_ ?_
    | fail_if_no_progress (with_reducible apply Onward.same; iterate 11 (focus with_reducible rfl))
    | dsimp only
    | split

theorem execSnapshot_onward {cmd : Nat} {s : State} : Ends s (execSnapshot cmd s) := by
  unfold execSnapshot
  try dsimp only
  repeat' first
    | with_reducible assumption
    | with_reducible exact Onward.refl _
    | with_reducible apply Ends.onUnit
    | with_reducible apply Ends.whenDue
    | with_reducible apply Ends.next
    | with_reducible apply State.countSnapshot_onward
    | with_reducible apply State.finish_onward
    | with_reducible apply State.offer_onward
    | with_reducible apply State.refuse_onward
    | with_reducible apply State.store_onward
    | with_reducible apply Store.settle_onward
    | with_reducible refine onDispatched_onward (fun _ => ?_)
    | with_reducible refine Onward.foldl _ (fun _ _ _ => ?_) _ _ ?_
    | with_reducible refine Onward.ite ?_ ?_
    | fail_if_no_progress (with_reducible apply Onward.same; iterate 11 (focus with_reducible rfl))
    | dsimp only
    | split

end Sys2Proof.Machine
end

