-- ==== Sys2Proof/Laws/OnParcels.lean ====
section
/-!
SUPPORT. That every operation of Machine/Parcels.lean leads onward (Safety.lean).
-/
namespace Sys2Proof.Machine

set_option linter.unusedTactic false
set_option linter.unreachableTactic false

theorem State.acceptSeq_onward {o : State} {s : State} {a : Nat} {b : Bytes} (h0 : Onward o s) : Onward o (State.acceptSeq s a b) := by
  unfold State.acceptSeq
  try dsimp only
  repeat' first
    | with_reducible assumption
    | with_reducible exact Onward.refl _
    | with_reducible apply State.accept_onward
    | with_reducible apply State.setLease_onward
    | with_reducible refine Onward.foldl _ (fun _ _ _ => ?_) _ _ ?_
    | with_reducible refine Onward.ite ?_ ?_
    | fail_if_no_progress (with_reducible apply Onward.same; iterate 11 (focus with_reducible rfl))
    | dsimp only
    | split

theorem State.noteParcel_onward {o : State} {s : State} {a : Nat} {ctx : Nat} {b : Bytes} (h0 : Onward o s) : Onward o (State.noteParcel s a ctx b) := by
  unfold State.noteParcel
  try dsimp only
  repeat' first
    | with_reducible assumption
    | with_reducible exact Onward.refl _
    | with_reducible apply State.log_onward
    | with_reducible refine Onward.foldl _ (fun _ _ _ => ?_) _ _ ?_
    | with_reducible refine Onward.ite ?_ ?_
    | fail_if_no_progress (with_reducible apply Onward.same; iterate 11 (focus with_reducible rfl))
    | dsimp only
    | split

end Sys2Proof.Machine
end

