-- ==== Sys2Proof/Laws/OnDma.lean ====
section
/-!
SUPPORT. That every operation of Machine/Dma.lean leads onward (Safety.lean).
-/
namespace Sys2Proof.Machine

set_option linter.unusedTactic false
set_option linter.unreachableTactic false

theorem execDmaCommand_onward {cmd : Nat} {s : State} : Ends s (execDmaCommand cmd s) := by
  unfold execDmaCommand
  try dsimp only
  repeat' first
    | with_reducible assumption
    | with_reducible exact Onward.refl _
    | with_reducible apply Ends.onUnit
    | with_reducible apply Ends.whenDue
    | with_reducible apply Ends.next
    | with_reducible apply State.onCmd_onward
    | with_reducible refine onCommand_onward (fun _ => ?_)
    | with_reducible refine Onward.foldl _ (fun _ _ _ => ?_) _ _ ?_
    | with_reducible refine Onward.ite ?_ ?_
    | fail_if_no_progress (with_reducible apply Onward.same; iterate 11 (focus with_reducible rfl))
    | dsimp only
    | split

theorem State.onDma_onward {o : State} {s : State} {n : Nat} {f : DmaRun → DmaRun} (h0 : Onward o s) : Onward o (State.onDma s n f) := by
  unfold State.onDma
  try dsimp only
  repeat' first
    | with_reducible assumption
    | with_reducible exact Onward.refl _
    | with_reducible refine Onward.foldl _ (fun _ _ _ => ?_) _ _ ?_
    | with_reducible refine Onward.ite ?_ ?_
    | fail_if_no_progress (with_reducible apply Onward.same; iterate 11 (focus with_reducible rfl))
    | dsimp only
    | split

theorem State.noteLine_onward {o : State} {s : State} {n : Nat} {line : Nat} (h0 : Onward o s) : Onward o (State.noteLine s n line) := by
  unfold State.noteLine
  try dsimp only
  repeat' first
    | with_reducible assumption
    | with_reducible exact Onward.refl _
    | with_reducible apply State.log_onward
    | with_reducible apply State.onDma_onward
    | with_reducible refine Onward.foldl _ (fun _ _ _ => ?_) _ _ ?_
    | with_reducible refine Onward.ite ?_ ?_
    | fail_if_no_progress (with_reducible apply Onward.same; iterate 11 (focus with_reducible rfl))
    | dsimp only
    | split

theorem State.sendBulk_onward {o : State} {s : State} {d : DmaRun} {g : Segment} {peer : Nat} (h0 : Onward o s) : Onward o (State.sendBulk s d g peer) := by
  unfold State.sendBulk
  try dsimp only
  repeat' first
    | with_reducible assumption
    | with_reducible exact Onward.refl _
    | with_reducible apply State.answerSegment_onward
    | with_reducible apply State.sendPacket_onward
    | with_reducible refine Onward.foldl _ (fun _ _ _ => ?_) _ _ ?_
    | with_reducible refine Onward.ite ?_ ?_
    | fail_if_no_progress (with_reducible apply Onward.same; iterate 11 (focus with_reducible rfl))
    | dsimp only
    | split

theorem State.giveUp_onward {o : State} {s : State} {n : Nat} {status : Nat} (h0 : Onward o s) : Onward o (State.giveUp s n status) := by
  unfold State.giveUp
  try dsimp only
  repeat' first
    | with_reducible assumption
    | with_reducible exact Onward.refl _
    | with_reducible apply State.onDma_onward
    | with_reducible refine Onward.foldl _ (fun _ _ _ => ?_) _ _ ?_
    | with_reducible refine Onward.ite ?_ ?_
    | fail_if_no_progress (with_reducible apply Onward.same; iterate 11 (focus with_reducible rfl))
    | dsimp only
    | split

theorem State.issueSegment_onward {o : State} {s : State} {d : DmaRun} {g : Segment} {tag : Nat} {engine : Nat} {host : Option Bytes} (h0 : Onward o s) : Onward o (State.issueSegment s d g tag engine host) := by
  unfold State.issueSegment
  try dsimp only
  repeat' first
    | with_reducible assumption
    | with_reducible exact Onward.refl _
    | with_reducible apply State.giveUp_onward
    | with_reducible apply State.noteLine_onward
    | with_reducible apply State.onDma_onward
    | with_reducible apply State.reachHost_onward
    | with_reducible apply State.sendBulk_onward
    | with_reducible apply State.takeTag_onward
    | with_reducible refine Onward.foldl _ (fun _ _ _ => ?_) _ _ ?_
    | with_reducible refine Onward.ite ?_ ?_
    | fail_if_no_progress (with_reducible apply Onward.same; iterate 11 (focus with_reducible rfl))
    | dsimp only
    | split

theorem State.takeSegment_onward {o : State} {s : State} {die : Nat} {d : DmaRun} {engine : Nat} {host : Option Bytes} (h0 : Onward o s) : Onward o (State.takeSegment s die d engine host) := by
  unfold State.takeSegment
  try dsimp only
  repeat' first
    | with_reducible assumption
    | with_reducible exact Onward.refl _
    | with_reducible apply State.issueSegment_onward
    | with_reducible apply State.onDma_onward
    | with_reducible refine Onward.foldl _ (fun _ _ _ => ?_) _ _ ?_
    | with_reducible refine Onward.ite ?_ ?_
    | fail_if_no_progress (with_reducible apply Onward.same; iterate 11 (focus with_reducible rfl))
    | dsimp only
    | split

theorem execDmaSegmentIssue_onward {die : Nat} {host : Option Bytes} {s : State} : Ends s (execDmaSegmentIssue die host s) := by
  unfold execDmaSegmentIssue
  try dsimp only
  repeat' first
    | with_reducible assumption
    | with_reducible exact Onward.refl _
    | with_reducible apply Ends.onUnit
    | with_reducible apply Ends.whenDue
    | with_reducible apply Ends.next
    | with_reducible apply State.halfRate_onward
    | with_reducible apply State.takeSegment_onward
    | with_reducible refine Onward.foldl _ (fun _ _ _ => ?_) _ _ ?_
    | with_reducible refine Onward.ite ?_ ?_
    | fail_if_no_progress (with_reducible apply Onward.same; iterate 11 (focus with_reducible rfl))
    | dsimp only
    | split

theorem execTransferTagGrant_onward {atelier : Nat} {host : Option Bytes} {s : State} : Ends s (execTransferTagGrant atelier host s) := by
  unfold execTransferTagGrant
  try dsimp only
  repeat' first
    | with_reducible assumption
    | with_reducible exact Onward.refl _
    | with_reducible apply Ends.onUnit
    | with_reducible apply Ends.whenDue
    | with_reducible apply Ends.next
    | with_reducible apply State.halfRate_onward
    | with_reducible apply State.issueSegment_onward
    | with_reducible refine Onward.foldl _ (fun _ _ _ => ?_) _ _ ?_
    | with_reducible refine Onward.ite ?_ ?_
    | fail_if_no_progress (with_reducible apply Onward.same; iterate 11 (focus with_reducible rfl))
    | dsimp only
    | split

theorem State.poisonAt_onward {o : State} {s : State} {ctx : Nat} {va : Nat} (h0 : Onward o s) : Onward o (State.poisonAt s ctx va) := by
  unfold State.poisonAt
  try dsimp only
  repeat' first
    | with_reducible assumption
    | with_reducible exact Onward.refl _
    | with_reducible apply State.poisonLine_onward
    | with_reducible apply State.setRoot_onward
    | with_reducible refine Onward.foldl _ (fun _ _ _ => ?_) _ _ ?_
    | with_reducible refine Onward.ite ?_ ?_
    | fail_if_no_progress (with_reducible apply Onward.same; iterate 11 (focus with_reducible rfl))
    | dsimp only
    | split

theorem State.dmaStore_onward {o : State} {s : State} {n : Nat} {ctx : Nat} {va : Nat} {bs : Bytes} (h0 : Onward o s) : Onward o (State.dmaStore s n ctx va bs) := by
  unfold State.dmaStore
  try dsimp only
  repeat' first
    | with_reducible assumption
    | with_reducible exact Onward.refl _
    | with_reducible apply State.noteLine_onward
    | with_reducible apply State.onDma_onward
    | with_reducible apply State.store_onward
    | with_reducible apply Store.settle_onward
    | with_reducible refine Onward.foldl _ (fun _ _ _ => ?_) _ _ ?_
    | with_reducible refine Onward.ite ?_ ?_
    | fail_if_no_progress (with_reducible apply Onward.same; iterate 11 (focus with_reducible rfl))
    | dsimp only
    | split

theorem State.landSegment_onward {o : State} {s : State} {d : DmaRun} {g : Segment} (h0 : Onward o s) : Onward o (State.landSegment s d g) := by
  unfold State.landSegment
  try dsimp only
  repeat' first
    | with_reducible assumption
    | with_reducible exact Onward.refl _
    | with_reducible apply State.dmaStore_onward
    | with_reducible apply State.poisonAt_onward
    | with_reducible refine Onward.foldl _ (fun _ _ _ => ?_) _ _ ?_
    | with_reducible refine Onward.ite ?_ ?_
    | fail_if_no_progress (with_reducible apply Onward.same; iterate 11 (focus with_reducible rfl))
    | dsimp only
    | split

theorem State.openNext_onward {o s : State} {n : Nat} {t : State} (h0 : Onward o s) (h : s.openNext n = some t) : Onward o t := by
  unfold State.openNext at h
  dsimp only at h
  split at h
  · cases h
  · split at h
    · cases h
    · split at h
      · cases h
      · split at h
        · cases h
        · split at h
          · cases h
            exact State.giveUp_onward (State.noteParcel_onward h0)
          · split at h
            · cases h
              exact State.giveUp_onward (State.noteParcel_onward (State.acceptSeq_onward h0))
            · cases h
              exact State.onDma_onward (State.dmaStore_onward (State.acceptSeq_onward h0))

theorem State.openParcels_onward {o : State} {n : Nat} : ∀ {fuel : Nat} {s : State}, Onward o s → Onward o (State.openParcels n fuel s)
  | 0, _, h => h
  | fuel + 1, s, h => by
    unfold State.openParcels
    split
    · rename_i t ht; exact State.openParcels_onward (State.openNext_onward h ht)
    · exact h

theorem State.releaseKept_onward {o : State} {s : State} {n : Nat} (h0 : Onward o s) : Onward o (State.releaseKept s n) := by
  unfold State.releaseKept
  try dsimp only
  repeat' first
    | with_reducible assumption
    | with_reducible exact Onward.refl _
    | with_reducible apply State.dropTag?_onward
    | with_reducible apply State.onDma_onward
    | with_reducible refine Onward.foldl _ (fun _ _ _ => ?_) _ _ ?_
    | with_reducible refine Onward.ite ?_ ?_
    | fail_if_no_progress (with_reducible apply Onward.same; iterate 11 (focus with_reducible rfl))
    | dsimp only
    | split

theorem State.settleDma_onward {o : State} {s : State} {n : Nat} (h0 : Onward o s) : Onward o (State.settleDma s n) := by
  unfold State.settleDma
  try dsimp only
  repeat' first
    | with_reducible assumption
    | with_reducible exact Onward.refl _
    | with_reducible apply State.finish_onward
    | with_reducible refine Onward.foldl _ (fun _ _ _ => ?_) _ _ ?_
    | with_reducible refine Onward.ite ?_ ?_
    | fail_if_no_progress (with_reducible apply Onward.same; iterate 11 (focus with_reducible rfl))
    | dsimp only
    | split

theorem State.keepSegment_onward {o : State} {s : State} {d : DmaRun} {g : Segment} (h0 : Onward o s) : Onward o (State.keepSegment s d g) := by
  unfold State.keepSegment
  try dsimp only
  repeat' first
    | with_reducible assumption
    | with_reducible exact Onward.refl _
    | with_reducible apply State.onDma_onward
    | with_reducible apply State.openParcels_onward
    | with_reducible refine Onward.foldl _ (fun _ _ _ => ?_) _ _ ?_
    | with_reducible refine Onward.ite ?_ ?_
    | fail_if_no_progress (with_reducible apply Onward.same; iterate 11 (focus with_reducible rfl))
    | dsimp only
    | split

theorem State.endSegment_onward {o : State} {s : State} {t : Tag} {tag : Nat} {d : DmaRun} {g : Segment} (h0 : Onward o s) : Onward o (State.endSegment s t tag d g) := by
  unfold State.endSegment
  try dsimp only
  repeat' first
    | with_reducible assumption
    | with_reducible exact Onward.refl _
    | with_reducible apply State.dropTag_onward
    | with_reducible apply State.keepSegment_onward
    | with_reducible apply State.landSegment_onward
    | with_reducible apply State.onDma_onward
    | with_reducible apply State.releaseKept_onward
    | with_reducible apply State.settleDma_onward
    | with_reducible apply State.settleDrain_onward
    | with_reducible refine Onward.foldl _ (fun _ _ _ => ?_) _ _ ?_
    | with_reducible refine Onward.ite ?_ ?_
    | fail_if_no_progress (with_reducible apply Onward.same; iterate 11 (focus with_reducible rfl))
    | dsimp only
    | split

theorem execDmaSegmentComplete_onward {tag : Nat} {s : State} : Ends s (execDmaSegmentComplete tag s) := by
  unfold execDmaSegmentComplete
  try dsimp only
  repeat' first
    | with_reducible assumption
    | with_reducible exact Onward.refl _
    | with_reducible apply Ends.onUnit
    | with_reducible apply Ends.whenDue
    | with_reducible apply Ends.next
    | with_reducible apply State.endSegment_onward
    | with_reducible refine Onward.foldl _ (fun _ _ _ => ?_) _ _ ?_
    | with_reducible refine Onward.ite ?_ ?_
    | fail_if_no_progress (with_reducible apply Onward.same; iterate 11 (focus with_reducible rfl))
    | dsimp only
    | split

theorem State.hearBulk_onward {o : State} {s : State} {p : Packet} (h0 : Onward o s) : Onward o (State.hearBulk s p) := by
  unfold State.hearBulk
  try dsimp only
  repeat' first
    | with_reducible assumption
    | with_reducible exact Onward.refl _
    | with_reducible apply State.noteOf_onward
    | with_reducible apply State.retireRun_onward
    | with_reducible apply State.sendPacket_onward
    | with_reducible apply State.store_onward
    | with_reducible apply Store.settle_onward
    | with_reducible refine Onward.foldl _ (fun _ _ _ => ?_) _ _ ?_
    | with_reducible refine Onward.ite ?_ ?_
    | fail_if_no_progress (with_reducible apply Onward.same; iterate 11 (focus with_reducible rfl))
    | dsimp only
    | split

theorem execBulkWrite_onward {port : Nat} {s : State} : Ends s (execBulkWrite port s) := by
  unfold execBulkWrite
  try dsimp only
  repeat' first
    | with_reducible assumption
    | with_reducible exact Onward.refl _
    | with_reducible apply Ends.onUnit
    | with_reducible apply Ends.whenDue
    | with_reducible apply Ends.next
    | with_reducible apply State.hearBulk_onward
    | with_reducible refine packetRow_onward (fun _ _ _ => ?_)
    | with_reducible refine Onward.foldl _ (fun _ _ _ => ?_) _ _ ?_
    | with_reducible refine Onward.ite ?_ ?_
    | fail_if_no_progress (with_reducible apply Onward.same; iterate 11 (focus with_reducible rfl))
    | dsimp only
    | split

theorem execBulkResponse_onward {port : Nat} {s : State} : Ends s (execBulkResponse port s) := by
  unfold execBulkResponse
  try dsimp only
  repeat' first
    | with_reducible assumption
    | with_reducible exact Onward.refl _
    | with_reducible apply Ends.onUnit
    | with_reducible apply Ends.whenDue
    | with_reducible apply Ends.next
    | with_reducible apply State.answerSegment_onward
    | with_reducible refine packetRow_onward (fun _ _ _ => ?_)
    | with_reducible refine Onward.foldl _ (fun _ _ _ => ?_) _ _ ?_
    | with_reducible refine Onward.ite ?_ ?_
    | fail_if_no_progress (with_reducible apply Onward.same; iterate 11 (focus with_reducible rfl))
    | dsimp only
    | split

end Sys2Proof.Machine
end

