-- ==== Sys2Proof/Laws/OnFetch.lean ====
section
/-!
SUPPORT. That every operation of Machine/Fetch.lean leads onward (Safety.lean).
-/
namespace Sys2Proof.Machine

set_option linter.unusedTactic false
set_option linter.unreachableTactic false

theorem State.reject_onward {o : State} {s : State} {n : Nat} {c : Cmd} {status : Nat} {result : Nat} (h0 : Onward o s) : Onward o (State.reject s n c status result) := by
  unfold State.reject
  try dsimp only
  repeat' first
    | with_reducible assumption
    | with_reducible exact Onward.refl _
    | with_reducible apply State.log_onward
    | with_reducible apply State.pushCompletion_onward
    | with_reducible refine Onward.foldl _ (fun _ _ _ => ?_) _ _ ?_
    | with_reducible refine Onward.ite ?_ ?_
    | fail_if_no_progress (with_reducible apply Onward.same; iterate 11 (focus with_reducible rfl))
    | dsimp only
    | split

theorem State.condemn_onward {o s : State} {serial : Nat} {x : ObjKind × Nat} (h0 : Onward o s) : Onward o (s.condemn serial x) := by
  unfold State.condemn
  split <;> first | exact h0 | (with_reducible apply Onward.same; iterate 11 (focus with_reducible rfl)) <;> exact h0

theorem State.accept_onward {o : State} {s : State} {c : Cmd} {list : Bytes} (h0 : Onward o s) : Onward o (State.accept s c list) := by
  unfold State.accept
  try dsimp only
  repeat' first
    | with_reducible assumption
    | with_reducible exact Onward.refl _
    | with_reducible apply State.condemn_onward
    | with_reducible apply State.latchNext_onward
    | with_reducible apply State.refer_onward
    | with_reducible refine Onward.foldl _ (fun _ _ _ => ?_) _ _ ?_
    | with_reducible refine Onward.ite ?_ ?_
    | fail_if_no_progress (with_reducible apply Onward.same; iterate 11 (focus with_reducible rfl))
    | dsimp only
    | split

theorem State.readBeside_onward {o : State} {s : State} {c : Cmd} {e : EntryRead} (h0 : Onward o s) : Onward o (State.readBeside s c e) := by
  unfold State.readBeside
  try dsimp only
  repeat' first
    | with_reducible assumption
    | with_reducible exact Onward.refl _
    | with_reducible apply State.readFor_onward
    | with_reducible refine Onward.foldl _ (fun _ _ _ => ?_) _ _ ?_
    | with_reducible refine Onward.ite ?_ ?_
    | fail_if_no_progress (with_reducible apply Onward.same; iterate 11 (focus with_reducible rfl))
    | dsimp only
    | split

theorem State.checkCommand_onward {o : State} {s : State} {n : Nat} {q : Queue} {c : Cmd} {e : EntryRead} (h0 : Onward o s) : Onward o (State.checkCommand s n q c e) := by
  unfold State.checkCommand
  try dsimp only
  repeat' first
    | with_reducible assumption
    | with_reducible exact Onward.refl _
    | with_reducible apply State.accept_onward
    | with_reducible apply State.readBeside_onward
    | with_reducible apply State.reject_onward
    | with_reducible refine Onward.foldl _ (fun _ _ _ => ?_) _ _ ?_
    | with_reducible refine Onward.ite ?_ ?_
    | fail_if_no_progress (with_reducible apply Onward.same; iterate 11 (focus with_reducible rfl))
    | dsimp only
    | split

theorem State.fetchCommand_onward {o : State} {s : State} {n : Nat} {q : Queue} {e : EntryRead} (h0 : Onward o s) : Onward o (State.fetchCommand s n q e) := by
  unfold State.fetchCommand
  try dsimp only
  repeat' first
    | with_reducible assumption
    | with_reducible exact Onward.refl _
    | with_reducible apply State.checkCommand_onward
    | with_reducible apply State.hostWrite_onward
    | with_reducible apply State.onQueue_onward
    | with_reducible apply State.pushCompletion_onward
    | with_reducible apply State.translated_onward
    | with_reducible refine Onward.foldl _ (fun _ _ _ => ?_) _ _ ?_
    | with_reducible refine Onward.ite ?_ ?_
    | fail_if_no_progress (with_reducible apply Onward.same; iterate 11 (focus with_reducible rfl))
    | dsimp only
    | split

theorem execCommandFetch_onward {queue : Nat} {entry : EntryRead} {s : State} : Ends s (execCommandFetch queue entry s) := by
  unfold execCommandFetch
  try dsimp only
  repeat' first
    | with_reducible assumption
    | with_reducible exact Onward.refl _
    | with_reducible apply Ends.onUnit
    | with_reducible apply Ends.whenDue
    | with_reducible apply Ends.next
    | with_reducible apply State.fetchCommand_onward
    | with_reducible refine Onward.foldl _ (fun _ _ _ => ?_) _ _ ?_
    | with_reducible refine Onward.ite ?_ ?_
    | fail_if_no_progress (with_reducible apply Onward.same; iterate 11 (focus with_reducible rfl))
    | dsimp only
    | split

end Sys2Proof.Machine
end

