-- ==== Sys2Proof/Laws/OnScheduler.lean ====
section
/-!
SUPPORT. That every operation of Machine/Scheduler.lean leads onward (Safety.lean).
-/
namespace Sys2Proof.Machine

set_option linter.unusedTactic false
set_option linter.unreachableTactic false

theorem State.shareCurbs_onward {o : State} {s : State} (h0 : Onward o s) : Onward o (State.shareCurbs s) := by
  unfold State.shareCurbs
  try dsimp only
  repeat' first
    | with_reducible assumption
    | with_reducible exact Onward.refl _
    | with_reducible apply State.setPanel_onward
    | with_reducible refine Onward.foldl _ (fun _ _ _ => ?_) _ _ ?_
    | with_reducible refine Onward.ite ?_ ?_
    | fail_if_no_progress (with_reducible apply Onward.same; iterate 11 (focus with_reducible rfl))
    | dsimp only
    | split

theorem State.switchOut_onward {o : State} {s : State} {n : Nat} (h0 : Onward o s) : Onward o (State.switchOut s n) := by
  unfold State.switchOut
  try dsimp only
  repeat' first
    | with_reducible assumption
    | with_reducible exact Onward.refl _
    | with_reducible apply State.beginStop_onward
    | with_reducible apply State.onJob_onward
    | with_reducible apply State.settleOver_onward
    | with_reducible refine Onward.foldl _ (fun _ _ _ => ?_) _ _ ?_
    | with_reducible refine Onward.ite ?_ ?_
    | fail_if_no_progress (with_reducible apply Onward.same; iterate 11 (focus with_reducible rfl))
    | dsimp only
    | split

theorem State.startSlice_onward {o : State} {s : State} {n : Nat} (h0 : Onward o s) : Onward o (State.startSlice s n) := by
  unfold State.startSlice
  try dsimp only
  repeat' first
    | with_reducible assumption
    | with_reducible exact Onward.refl _
    | with_reducible apply State.onJob_onward
    | with_reducible refine Onward.foldl _ (fun _ _ _ => ?_) _ _ ?_
    | with_reducible refine Onward.ite ?_ ?_
    | fail_if_no_progress (with_reducible apply Onward.same; iterate 11 (focus with_reducible rfl))
    | dsimp only
    | split

theorem State.takeCores_onward {o : State} {s : State} {n : Nat} (h0 : Onward o s) : Onward o (State.takeCores s n) := by
  unfold State.takeCores
  try dsimp only
  repeat' first
    | with_reducible assumption
    | with_reducible exact Onward.refl _
    | with_reducible apply State.assignCores_onward
    | with_reducible apply State.onJob_onward
    | with_reducible apply State.startSlice_onward
    | with_reducible refine Onward.foldl _ (fun _ _ _ => ?_) _ _ ?_
    | with_reducible refine Onward.ite ?_ ?_
    | fail_if_no_progress (with_reducible apply Onward.same; iterate 11 (focus with_reducible rfl))
    | dsimp only
    | split

theorem State.started_onward {o : State} {s : State} {n : Nat} (h0 : Onward o s) : Onward o (State.started s n) := by
  unfold State.started
  try dsimp only
  repeat' first
    | with_reducible assumption
    | with_reducible exact Onward.refl _
    | with_reducible apply State.onCmd_onward
    | with_reducible refine Onward.foldl _ (fun _ _ _ => ?_) _ _ ?_
    | with_reducible refine Onward.ite ?_ ?_
    | fail_if_no_progress (with_reducible apply Onward.same; iterate 11 (focus with_reducible rfl))
    | dsimp only
    | split

theorem State.tryStart_onward {o s : State} {n : Nat} {c : Cmd} {t : State} (h0 : Onward o s) (h : s.tryStart n c = some t) : Onward o t := by
  unfold State.tryStart at h
  dsimp only at h
  split at h
  · cases h
  · split at h
    · cases h
    · cases h
      have k : Onward o ((((s.holders (s.coresOf c) c.jobSlot).filter fun h => (SMap.find? s.jobs h).any fun j => !j.switching).foldl State.switchOut s)) :=
        Onward.foldl _ (fun _ _ h => State.switchOut_onward h) _ _ h0
      refine Onward.ite (State.takeCores_onward ?_) ?_ <;> exact State.markRan_onward (State.started_onward k)

theorem State.startFirst_onward {o s : State} (h0 : Onward o s) : ∀ {xs : List (Nat × Cmd)} {t : State}, s.startFirst xs = some t → Onward o t
  | [], _, h => by cases h
  | x :: xs, t, h => by
    unfold State.startFirst at h
    split at h
    · rename_i u hu; cases h; exact State.tryStart_onward h0 hu
    · exact State.startFirst_onward h0 h

theorem State.startAll_onward {o : State} : ∀ {fuel : Nat} {s : State}, Onward o s → Onward o (State.startAll fuel s)
  | 0, _, h => h
  | fuel + 1, s, h => by
    unfold State.startAll
    split
    · rename_i t ht; exact State.startAll_onward (State.startFirst_onward h ht)
    · exact h

theorem State.noteNoRoom_onward {o : State} {s : State} (h0 : Onward o s) : Onward o (State.noteNoRoom s) := by
  unfold State.noteNoRoom
  try dsimp only
  repeat' first
    | with_reducible assumption
    | with_reducible exact Onward.refl _
    | with_reducible apply State.log_onward
    | with_reducible refine Onward.foldl _ (fun _ _ _ => ?_) _ _ ?_
    | with_reducible refine Onward.ite ?_ ?_
    | fail_if_no_progress (with_reducible apply Onward.same; iterate 11 (focus with_reducible rfl))
    | dsimp only
    | split

theorem State.startPasses_onward {o : State} {s : State} (h0 : Onward o s) : Onward o (State.startPasses s) := by
  unfold State.startPasses
  try dsimp only
  repeat' first
    | with_reducible assumption
    | with_reducible exact Onward.refl _
    | with_reducible apply State.markRan_onward
    | with_reducible apply State.started_onward
    | with_reducible refine Onward.foldl _ (fun _ _ _ => ?_) _ _ ?_
    | with_reducible refine Onward.ite ?_ ?_
    | fail_if_no_progress (with_reducible apply Onward.same; iterate 11 (focus with_reducible rfl))
    | dsimp only
    | split

theorem State.claimCores_onward {o : State} {s : State} {n : Nat} {j : Job} (h0 : Onward o s) : Onward o (State.claimCores s n j) := by
  unfold State.claimCores
  try dsimp only
  repeat' first
    | with_reducible assumption
    | with_reducible exact Onward.refl _
    | with_reducible apply State.switchOut_onward
    | with_reducible apply State.takeCores_onward
    | with_reducible refine Onward.foldl _ (fun _ _ _ => ?_) _ _ ?_
    | with_reducible refine Onward.ite ?_ ?_
    | fail_if_no_progress (with_reducible apply Onward.same; iterate 11 (focus with_reducible rfl))
    | dsimp only
    | split

theorem State.claimPasses_onward {o : State} {s : State} (h0 : Onward o s) : Onward o (State.claimPasses s) := by
  unfold State.claimPasses
  try dsimp only
  repeat' first
    | with_reducible assumption
    | with_reducible exact Onward.refl _
    | with_reducible apply State.claimCores_onward
    | with_reducible apply State.started_onward
    | with_reducible refine Onward.foldl _ (fun _ _ _ => ?_) _ _ ?_
    | with_reducible refine Onward.ite ?_ ?_
    | fail_if_no_progress (with_reducible apply Onward.same; iterate 11 (focus with_reducible rfl))
    | dsimp only
    | split

theorem State.dispatch_onward {o : State} {s : State} (h0 : Onward o s) : Onward o (State.dispatch s) := by
  unfold State.dispatch
  try dsimp only
  repeat' first
    | with_reducible assumption
    | with_reducible exact Onward.refl _
    | with_reducible apply State.claimPasses_onward
    | with_reducible apply State.noteNoRoom_onward
    | with_reducible apply State.shareCurbs_onward
    | with_reducible apply State.startAll_onward
    | with_reducible apply State.startPasses_onward
    | with_reducible refine Onward.foldl _ (fun _ _ _ => ?_) _ _ ?_
    | with_reducible refine Onward.ite ?_ ?_
    | fail_if_no_progress (with_reducible apply Onward.same; iterate 11 (focus with_reducible rfl))
    | dsimp only
    | split

theorem execCoreCommandDispatch_onward {s : State} : Ends s (execCoreCommandDispatch s) := by
  unfold execCoreCommandDispatch
  try dsimp only
  repeat' first
    | with_reducible assumption
    | with_reducible exact Onward.refl _
    | with_reducible apply Ends.onUnit
    | with_reducible apply Ends.whenDue
    | with_reducible apply Ends.next
    | with_reducible apply State.dispatch_onward
    | with_reducible refine Onward.foldl _ (fun _ _ _ => ?_) _ _ ?_
    | with_reducible refine Onward.ite ?_ ?_
    | fail_if_no_progress (with_reducible apply Onward.same; iterate 11 (focus with_reducible rfl))
    | dsimp only
    | split

theorem State.renewRequests_onward {o : State} {s : State} (h0 : Onward o s) : Onward o (State.renewRequests s) := by
  unfold State.renewRequests
  try dsimp only
  repeat' first
    | with_reducible assumption
    | with_reducible exact Onward.refl _
    | with_reducible apply State.setPanel_onward
    | with_reducible refine Onward.foldl _ (fun _ _ _ => ?_) _ _ ?_
    | with_reducible refine Onward.ite ?_ ?_
    | fail_if_no_progress (with_reducible apply Onward.same; iterate 11 (focus with_reducible rfl))
    | dsimp only
    | split

theorem execReservation_onward {cmd : Nat} {s : State} : Ends s (execReservation cmd s) := by
  unfold execReservation
  try dsimp only
  repeat' first
    | with_reducible assumption
    | with_reducible exact Onward.refl _
    | with_reducible apply Ends.onUnit
    | with_reducible apply Ends.whenDue
    | with_reducible apply Ends.next
    | with_reducible apply State.onCmd_onward
    | with_reducible apply State.renewRequests_onward
    | with_reducible refine Onward.foldl _ (fun _ _ _ => ?_) _ _ ?_
    | with_reducible refine Onward.ite ?_ ?_
    | fail_if_no_progress (with_reducible apply Onward.same; iterate 11 (focus with_reducible rfl))
    | dsimp only
    | split

theorem State.endSlice_onward {o : State} {s : State} {n : Nat} {j : Job} (h0 : Onward o s) : Onward o (State.endSlice s n j) := by
  unfold State.endSlice
  try dsimp only
  repeat' first
    | with_reducible assumption
    | with_reducible exact Onward.refl _
    | with_reducible apply State.dispatch_onward
    | with_reducible apply State.log_onward
    | with_reducible apply State.onJob_onward
    | with_reducible apply State.switchOut_onward
    | with_reducible refine Onward.foldl _ (fun _ _ _ => ?_) _ _ ?_
    | with_reducible refine Onward.ite ?_ ?_
    | fail_if_no_progress (with_reducible apply Onward.same; iterate 11 (focus with_reducible rfl))
    | dsimp only
    | split

theorem execSliceEnd_onward {job : Nat} {s : State} : Ends s (execSliceEnd job s) := by
  unfold execSliceEnd
  try dsimp only
  repeat' first
    | with_reducible assumption
    | with_reducible exact Onward.refl _
    | with_reducible apply Ends.onUnit
    | with_reducible apply Ends.whenDue
    | with_reducible apply Ends.next
    | with_reducible apply State.endSlice_onward
    | with_reducible apply State.reach_onward
    | with_reducible refine Onward.foldl _ (fun _ _ _ => ?_) _ _ ?_
    | with_reducible refine Onward.ite ?_ ?_
    | fail_if_no_progress (with_reducible apply Onward.same; iterate 11 (focus with_reducible rfl))
    | dsimp only
    | split

theorem State.endServing_onward {o : State} {s : State} {n : Nat} (h0 : Onward o s) : Onward o (State.endServing s n) := by
  unfold State.endServing
  try dsimp only
  repeat' first
    | with_reducible assumption
    | with_reducible exact Onward.refl _
    | with_reducible apply State.finish_onward
    | with_reducible apply State.onJob_onward
    | with_reducible refine Onward.foldl _ (fun _ _ _ => ?_) _ _ ?_
    | with_reducible refine Onward.ite ?_ ?_
    | fail_if_no_progress (with_reducible apply Onward.same; iterate 11 (focus with_reducible rfl))
    | dsimp only
    | split

theorem State.endDropped_onward {o : State} {s : State} {p : Pass} (h0 : Onward o s) : Onward o (State.endDropped s p) := by
  unfold State.endDropped
  try dsimp only
  repeat' first
    | with_reducible assumption
    | with_reducible exact Onward.refl _
    | with_reducible apply State.endServing_onward
    | with_reducible apply State.endStop_onward
    | with_reducible apply State.raiseEpoch_onward
    | with_reducible apply State.setCore_onward
    | with_reducible refine Onward.foldl _ (fun _ _ _ => ?_) _ _ ?_
    | with_reducible refine Onward.ite ?_ ?_
    | fail_if_no_progress (with_reducible apply Onward.same; iterate 11 (focus with_reducible rfl))
    | decide
    | dsimp only
    | split

theorem State.standStill_onward {o : State} {s : State} {k : Nat} (h0 : Onward o s) : Onward o (State.standStill s k) := by
  unfold State.standStill
  try dsimp only
  repeat' first
    | with_reducible assumption
    | with_reducible exact Onward.refl _
    | with_reducible apply State.settleCore_onward
    | with_reducible apply State.stopped_onward
    | with_reducible refine Onward.foldl _ (fun _ _ _ => ?_) _ _ ?_
    | with_reducible refine Onward.ite ?_ ?_
    | fail_if_no_progress (with_reducible apply Onward.same; iterate 11 (focus with_reducible rfl))
    | decide
    | dsimp only
    | split

theorem State.stopCore_onward {o : State} {s : State} {k : Nat} (h0 : Onward o s) : Onward o (State.stopCore s k) := by
  unfold State.stopCore
  try dsimp only
  repeat' first
    | with_reducible assumption
    | with_reducible exact Onward.refl _
    | with_reducible apply State.endDropped_onward
    | with_reducible apply State.settleStop_onward
    | with_reducible apply State.standStill_onward
    | with_reducible refine Onward.foldl _ (fun _ _ _ => ?_) _ _ ?_
    | with_reducible refine Onward.ite ?_ ?_
    | fail_if_no_progress (with_reducible apply Onward.same; iterate 11 (focus with_reducible rfl))
    | dsimp only
    | split

theorem execStopAtTileBoundary_onward {core : Nat} {s : State} : Ends s (execStopAtTileBoundary core s) := by
  unfold execStopAtTileBoundary
  try dsimp only
  repeat' first
    | with_reducible assumption
    | with_reducible exact Onward.refl _
    | with_reducible apply Ends.onUnit
    | with_reducible apply Ends.whenDue
    | with_reducible apply Ends.next
    | with_reducible apply State.stopCore_onward
    | with_reducible refine Onward.foldl _ (fun _ _ _ => ?_) _ _ ?_
    | with_reducible refine Onward.ite ?_ ?_
    | fail_if_no_progress (with_reducible apply Onward.same; iterate 11 (focus with_reducible rfl))
    | dsimp only
    | split

theorem State.writeSet_onward {o : State} {s : State} {a : Nat} {i : Nat} {bs : Bytes} (h0 : Onward o s) : Onward o (State.writeSet s a i bs) := by
  unfold State.writeSet
  try dsimp only
  repeat' first
    | with_reducible assumption
    | with_reducible exact Onward.refl _
    | with_reducible apply State.writeLine_onward
    | with_reducible refine Onward.foldl _ (fun _ _ _ => ?_) _ _ ?_
    | with_reducible refine Onward.ite ?_ ?_
    | fail_if_no_progress (with_reducible apply Onward.same; iterate 11 (focus with_reducible rfl))
    | dsimp only
    | split

theorem State.keepRecord_onward {o : State} {s : State} {n : Nat} {k : Nat} {r : Core} (h0 : Onward o s) : Onward o (State.keepRecord s n k r) := by
  unfold State.keepRecord
  try dsimp only
  repeat' first
    | with_reducible assumption
    | with_reducible exact Onward.refl _
    | with_reducible refine Onward.foldl _ (fun _ _ _ => ?_) _ _ ?_
    | with_reducible refine Onward.ite ?_ ?_
    | fail_if_no_progress (with_reducible apply Onward.same; iterate 11 (focus with_reducible rfl))
    | dsimp only
    | split

theorem State.saveCore_onward {o : State} {s : State} {n : Nat} {j : Job} {k : Nat} (h0 : Onward o s) : Onward o (State.saveCore s n j k) := by
  unfold State.saveCore
  try dsimp only
  repeat' first
    | with_reducible assumption
    | with_reducible exact Onward.refl _
    | with_reducible apply State.keepRecord_onward
    | with_reducible apply State.onJob_onward
    | with_reducible apply State.writeSet_onward
    | with_reducible refine Onward.foldl _ (fun _ _ _ => ?_) _ _ ?_
    | with_reducible refine Onward.ite ?_ ?_
    | fail_if_no_progress (with_reducible apply Onward.same; iterate 11 (focus with_reducible rfl))
    | dsimp only
    | split

theorem State.keepCores_onward {o : State} {s : State} {n : Nat} (h0 : Onward o s) : Onward o (State.keepCores s n) := by
  unfold State.keepCores
  try dsimp only
  repeat' first
    | with_reducible assumption
    | with_reducible exact Onward.refl _
    | with_reducible apply State.log_onward
    | with_reducible apply State.onJob_onward
    | with_reducible apply State.setCore_onward
    | with_reducible apply State.stopped_onward
    | with_reducible refine Onward.foldl _ (fun _ _ _ => ?_) _ _ ?_
    | with_reducible refine Onward.ite ?_ ?_
    | fail_if_no_progress (with_reducible apply Onward.same; iterate 11 (focus with_reducible rfl))
    | decide
    | dsimp only
    | split

theorem State.saveJob_onward {o : State} {s : State} {n : Nat} (h0 : Onward o s) : Onward o (State.saveJob s n) := by
  unfold State.saveJob
  try dsimp only
  repeat' first
    | with_reducible assumption
    | with_reducible exact Onward.refl _
    | with_reducible apply State.endStop_onward
    | with_reducible apply State.keepCores_onward
    | with_reducible apply State.onCmd_onward
    | with_reducible apply State.onJob_onward
    | with_reducible apply State.saveCore_onward
    | with_reducible apply State.setCore_onward
    | with_reducible refine Onward.foldl _ (fun _ _ _ => ?_) _ _ ?_
    | with_reducible refine Onward.ite ?_ ?_
    | fail_if_no_progress (with_reducible apply Onward.same; iterate 11 (focus with_reducible rfl))
    | dsimp only
    | split

theorem State.restoreCore_onward {o : State} {s : State} {n : Nat} {k : Nat} (h0 : Onward o s) : Onward o (State.restoreCore s n k) := by
  unfold State.restoreCore
  try dsimp only
  repeat' first
    | with_reducible assumption
    | with_reducible exact Onward.refl _
    | with_reducible apply State.setCore_onward
    | with_reducible apply State.stopped_onward
    | with_reducible refine Onward.foldl _ (fun _ _ _ => ?_) _ _ ?_
    | with_reducible refine Onward.ite ?_ ?_
    | fail_if_no_progress (with_reducible apply Onward.same; iterate 11 (focus with_reducible rfl))
    | decide
    | dsimp only
    | split

theorem State.reroute_onward {o : State} {s : State} {n : Nat} {k : Nat} (h0 : Onward o s) : Onward o (State.reroute s n k) := by
  unfold State.reroute
  try dsimp only
  repeat' first
    | with_reducible assumption
    | with_reducible exact Onward.refl _
    | with_reducible apply State.setCore_onward
    | with_reducible refine Onward.foldl _ (fun _ _ _ => ?_) _ _ ?_
    | with_reducible refine Onward.ite ?_ ?_
    | fail_if_no_progress (with_reducible apply Onward.same; iterate 11 (focus with_reducible rfl))
    | dsimp only
    | split

theorem State.restoreJobCores_onward {o : State} {s : State} {n : Nat} (h0 : Onward o s) : Onward o (State.restoreJobCores s n) := by
  unfold State.restoreJobCores
  try dsimp only
  repeat' first
    | with_reducible assumption
    | with_reducible exact Onward.refl _
    | with_reducible apply State.onJob_onward
    | with_reducible apply State.reroute_onward
    | with_reducible apply State.restoreCore_onward
    | with_reducible apply State.startSlice_onward
    | with_reducible refine Onward.foldl _ (fun _ _ _ => ?_) _ _ ?_
    | with_reducible refine Onward.ite ?_ ?_
    | fail_if_no_progress (with_reducible apply Onward.same; iterate 11 (focus with_reducible rfl))
    | dsimp only
    | split

theorem State.bringIn_onward {o : State} {s : State} {n : Nat} (h0 : Onward o s) : Onward o (State.bringIn s n) := by
  unfold State.bringIn
  try dsimp only
  repeat' first
    | with_reducible assumption
    | with_reducible exact Onward.refl _
    | with_reducible apply State.restoreJobCores_onward
    | with_reducible apply State.shareCurbs_onward
    | with_reducible apply State.startPasses_onward
    | with_reducible apply State.takeCores_onward
    | with_reducible refine Onward.foldl _ (fun _ _ _ => ?_) _ _ ?_
    | with_reducible refine Onward.ite ?_ ?_
    | fail_if_no_progress (with_reducible apply Onward.same; iterate 11 (focus with_reducible rfl))
    | dsimp only
    | split

theorem execDecant_onward {outgoing : Nat} {incoming : Nat} {s : State} : Ends s (execDecant outgoing incoming s) := by
  unfold execDecant
  try dsimp only
  repeat' first
    | with_reducible assumption
    | with_reducible exact Onward.refl _
    | with_reducible apply Ends.onUnit
    | with_reducible apply Ends.whenDue
    | with_reducible apply Ends.next
    | with_reducible apply State.bringIn_onward
    | with_reducible apply State.saveJob_onward
    | with_reducible refine Onward.foldl _ (fun _ _ _ => ?_) _ _ ?_
    | with_reducible refine Onward.ite ?_ ?_
    | fail_if_no_progress (with_reducible apply Onward.same; iterate 11 (focus with_reducible rfl))
    | dsimp only
    | split

end Sys2Proof.Machine
end

