-- ==== Sys2Proof/Laws/OnLease.lean ====
section
/-!
SUPPORT. That every operation of Machine/Lease.lean leads onward (Safety.lean).
-/
namespace Sys2Proof.Machine

set_option linter.unusedTactic false
set_option linter.unreachableTactic false

theorem State.writeProvenance_onward {o : State} {s : State} {c : Cmd} {addr : Nat} {nonce : Bytes} (h0 : Onward o s) : Onward o (State.writeProvenance s c addr nonce) := by
  unfold State.writeProvenance
  try dsimp only
  repeat' first
    | with_reducible assumption
    | with_reducible exact Onward.refl _
    | with_reducible apply State.drew_onward
    | with_reducible apply State.hostWrite_onward
    | with_reducible refine Onward.foldl _ (fun _ _ _ => ?_) _ _ ?_
    | with_reducible refine Onward.ite ?_ ?_
    | fail_if_no_progress (with_reducible apply Onward.same; iterate 11 (focus with_reducible rfl))
    | dsimp only
    | split

theorem onLease_onward {s : State} {n act : Nat} {f : Cmd → State} (hf : ∀ c, Onward s (f c)) : Ends s (onLease s n act f) := by
  unfold onLease
  exact onCommand_onward fun c => Onward.ite (hf c) (Onward.refl _)

theorem State.propose_onward {o : State} {s : State} {c : Cmd} {b : Bytes} (h0 : Onward o s) : Onward o (State.propose s c b) := by
  unfold State.propose
  try dsimp only
  repeat' first
    | with_reducible assumption
    | with_reducible exact Onward.refl _
    | with_reducible apply State.drew_onward
    | with_reducible apply State.setLease_onward
    | with_reducible apply State.writeProvenance_onward
    | with_reducible refine Onward.foldl _ (fun _ _ _ => ?_) _ _ ?_
    | with_reducible refine Onward.ite ?_ ?_
    | fail_if_no_progress (with_reducible apply Onward.same; iterate 11 (focus with_reducible rfl))
    | dsimp only
    | split

theorem execLeasePropose_onward {cmd : Nat} {host : HostAnswer} {s : State} : Ends s (execLeasePropose cmd host s) := by
  unfold execLeasePropose
  try dsimp only
  repeat' first
    | with_reducible assumption
    | with_reducible exact Onward.refl _
    | with_reducible apply Ends.onUnit
    | with_reducible apply Ends.whenDue
    | with_reducible apply Ends.next
    | with_reducible apply State.finish_onward
    | with_reducible apply State.propose_onward
    | with_reducible apply State.readFor_onward
    | with_reducible apply State.refuse_onward
    | with_reducible refine onLease_onward (fun _ => ?_)
    | with_reducible refine Onward.foldl _ (fun _ _ _ => ?_) _ _ ?_
    | with_reducible refine Onward.ite ?_ ?_
    | fail_if_no_progress (with_reducible apply Onward.same; iterate 11 (focus with_reducible rfl))
    | dsimp only
    | split

theorem State.takeShare_onward {o : State} {s : State} {a : Nat} {p : Nat} {share : Bytes} (h0 : Onward o s) : Onward o (State.takeShare s a p share) := by
  unfold State.takeShare
  try dsimp only
  repeat' first
    | with_reducible assumption
    | with_reducible exact Onward.refl _
    | with_reducible apply State.setLease_onward
    | with_reducible refine Onward.foldl _ (fun _ _ _ => ?_) _ _ ?_
    | with_reducible refine Onward.ite ?_ ?_
    | fail_if_no_progress (with_reducible apply Onward.same; iterate 11 (focus with_reducible rfl))
    | dsimp only
    | split

theorem execLeaseShare_onward {cmd : Nat} {host : Option Bytes} {s : State} : Ends s (execLeaseShare cmd host s) := by
  unfold execLeaseShare
  try dsimp only
  repeat' first
    | with_reducible assumption
    | with_reducible exact Onward.refl _
    | with_reducible apply Ends.onUnit
    | with_reducible apply Ends.whenDue
    | with_reducible apply Ends.next
    | with_reducible apply State.finish_onward
    | with_reducible apply State.readFor_onward
    | with_reducible apply State.refuse_onward
    | with_reducible apply State.takeShare_onward
    | with_reducible refine onLease_onward (fun _ => ?_)
    | with_reducible refine Onward.foldl _ (fun _ _ _ => ?_) _ _ ?_
    | with_reducible refine Onward.ite ?_ ?_
    | fail_if_no_progress (with_reducible apply Onward.same; iterate 11 (focus with_reducible rfl))
    | dsimp only
    | split

theorem execLeaseReport_onward {cmd : HostWrite} {s : State} : Ends s (execLeaseReport cmd s) := by
  unfold execLeaseReport
  try dsimp only
  repeat' first
    | with_reducible assumption
    | with_reducible exact Onward.refl _
    | with_reducible apply Ends.onUnit
    | with_reducible apply Ends.whenDue
    | with_reducible apply Ends.next
    | with_reducible apply State.finish_onward
    | with_reducible apply State.refuse_onward
    | with_reducible apply State.writeProvenance_onward
    | with_reducible refine onLease_onward (fun _ => ?_)
    | with_reducible refine Onward.foldl _ (fun _ _ _ => ?_) _ _ ?_
    | with_reducible refine Onward.ite ?_ ?_
    | fail_if_no_progress (with_reducible apply Onward.same; iterate 11 (focus with_reducible rfl))
    | dsimp only
    | split

theorem State.stopCores_onward {o : State} {s : State} {a : Nat} (h0 : Onward o s) : Onward o (State.stopCores s a) := by
  unfold State.stopCores
  try dsimp only
  repeat' first
    | with_reducible assumption
    | with_reducible exact Onward.refl _
    | with_reducible apply State.onCores_onward
    | with_reducible apply State.raiseEpoch_onward
    | with_reducible refine Onward.foldl _ (fun _ _ _ => ?_) _ _ ?_
    | with_reducible refine Onward.ite ?_ ?_
    | fail_if_no_progress (with_reducible apply Onward.same; iterate 11 (focus with_reducible rfl))
    | dsimp only
    | split

theorem State.dropWork_onward {o : State} {s : State} {a : Nat} (h0 : Onward o s) : Onward o (State.dropWork s a) := by
  unfold State.dropWork
  try dsimp only
  repeat' first
    | with_reducible assumption
    | with_reducible exact Onward.refl _
    | with_reducible apply State.dropChunks_onward
    | with_reducible apply State.dropRequests_onward
    | with_reducible apply State.dropSegments_onward
    | with_reducible refine Onward.foldl _ (fun _ _ _ => ?_) _ _ ?_
    | with_reducible refine Onward.ite ?_ ?_
    | fail_if_no_progress (with_reducible apply Onward.same; iterate 11 (focus with_reducible rfl))
    | dsimp only
    | split

theorem State.beginEnd_onward {o : State} {s : State} {a : Nat} {cmd : Nat} (h0 : Onward o s) : Onward o (State.beginEnd s a cmd) := by
  unfold State.beginEnd
  try dsimp only
  repeat' first
    | with_reducible assumption
    | with_reducible exact Onward.refl _
    | with_reducible apply State.discardCommands_onward
    | with_reducible apply State.dropWork_onward
    | with_reducible apply State.forgetLease_onward
    | with_reducible apply State.onCmd_onward
    | with_reducible apply State.setAtelier_onward
    | with_reducible apply State.setLease_onward
    | with_reducible apply State.settleDrain_onward
    | with_reducible apply State.stopCores_onward
    | with_reducible refine Onward.foldl _ (fun _ _ _ => ?_) _ _ ?_
    | with_reducible refine Onward.ite ?_ ?_
    | fail_if_no_progress (with_reducible apply Onward.same; iterate 11 (focus with_reducible rfl))
    | dsimp only
    | split

theorem execLeaseEnd_onward {cmd : Nat} {s : State} : Ends s (execLeaseEnd cmd s) := by
  unfold execLeaseEnd
  try dsimp only
  repeat' first
    | with_reducible assumption
    | with_reducible exact Onward.refl _
    | with_reducible apply Ends.onUnit
    | with_reducible apply Ends.whenDue
    | with_reducible apply Ends.next
    | with_reducible apply State.beginEnd_onward
    | with_reducible apply State.refuse_onward
    | with_reducible refine onCommand_onward (fun _ => ?_)
    | with_reducible refine Onward.foldl _ (fun _ _ _ => ?_) _ _ ?_
    | with_reducible refine Onward.ite ?_ ?_
    | fail_if_no_progress (with_reducible apply Onward.same; iterate 11 (focus with_reducible rfl))
    | dsimp only
    | split

theorem State.stripTags_onward {o : State} {s : State} {mine : Nat → Bool} (h0 : Onward o s) : Onward o (State.stripTags s mine) := by
  unfold State.stripTags
  try dsimp only
  repeat' first
    | with_reducible assumption
    | with_reducible exact Onward.refl _
    | with_reducible refine Onward.foldl _ (fun _ _ _ => ?_) _ _ ?_
    | with_reducible refine Onward.ite ?_ ?_
    | fail_if_no_progress (with_reducible apply Onward.same; iterate 11 (focus with_reducible rfl))
    | dsimp only
    | split

theorem State.boundDrain_onward {o : State} {s : State} {a : Nat} (h0 : Onward o s) : Onward o (State.boundDrain s a) := by
  unfold State.boundDrain
  try dsimp only
  repeat' first
    | with_reducible assumption
    | with_reducible exact Onward.refl _
    | with_reducible apply State.noteIn_onward
    | with_reducible apply State.settleDrain_onward
    | with_reducible apply State.stripTags_onward
    | with_reducible refine Onward.foldl _ (fun _ _ _ => ?_) _ _ ?_
    | with_reducible refine Onward.ite ?_ ?_
    | fail_if_no_progress (with_reducible apply Onward.same; iterate 11 (focus with_reducible rfl))
    | dsimp only
    | split

theorem execTagDrainBound_onward {atelier : Nat} {s : State} : Ends s (execTagDrainBound atelier s) := by
  unfold execTagDrainBound
  try dsimp only
  repeat' first
    | with_reducible assumption
    | with_reducible exact Onward.refl _
    | with_reducible apply Ends.onUnit
    | with_reducible apply Ends.whenDue
    | with_reducible apply Ends.next
    | with_reducible apply State.boundDrain_onward
    | with_reducible apply State.reach_onward
    | with_reducible refine Onward.foldl _ (fun _ _ _ => ?_) _ _ ?_
    | with_reducible refine Onward.ite ?_ ?_
    | fail_if_no_progress (with_reducible apply Onward.same; iterate 11 (focus with_reducible rfl))
    | dsimp only
    | split

end Sys2Proof.Machine
end

