-- ==== Sys2Proof/Laws/OnPower.lean ====
section
/-!
SUPPORT. That every operation of Machine/Power.lean leads onward (Safety.lean).
-/
namespace Sys2Proof.Machine

set_option linter.unusedTactic false
set_option linter.unreachableTactic false

/-- A boot that begins leaves a legal mstate. -/
theorem State.beginning_mstate (s : State) (held : Bool) : (s.beginning held).1 ≤ 5 := by
  unfold State.beginning
  cases s.tamperFuse <;> cases held <;> decide

theorem poweredUp_onward {o s : State} {released : Bool} (h0 : Onward o s) : Onward o (poweredUp s released) := by
  have h := State.stopped_onward (State.beginning_mstate s !released) h0
  exact ⟨h.queue, h.drawn, h.fuse, h.tamper, h.testPort, fun hs => h.sound hs |> fun k => ⟨k.gddr, k.reservoir, k.flashA, k.flashB, k.blotter, k.tamper, k.testPort, k.mstate⟩⟩

theorem execPowerUp_onward {rise : PowerRise} {s : State} : Ends s (execPowerUp rise s) := by
  unfold execPowerUp
  try dsimp only
  repeat' first
    | with_reducible assumption
    | with_reducible exact Onward.refl _
    | with_reducible apply Ends.onUnit
    | with_reducible apply Ends.whenDue
    | with_reducible apply Ends.next
    | with_reducible apply poweredUp_onward
    | with_reducible refine Onward.foldl _ (fun _ _ _ => ?_) _ _ ?_
    | with_reducible refine Onward.ite ?_ ?_
    | fail_if_no_progress (with_reducible apply Onward.same; iterate 11 (focus with_reducible rfl))
    | dsimp only
    | split

theorem State.shutDown_onward {o s : State} {m : Nat} (hm : m ≤ 5) (h0 : Onward o s) : Onward o (s.shutDown m) :=
  State.stopped_onward hm (State.eraseKeys_onward (State.cutFlash_onward h0))

/-- What a shutdown leaves of the fuses. -/
theorem State.shutDown_fuses (s : State) (m : Nat) :
    (s.shutDown m).tamperCount = s.tamperCount ∧ (s.shutDown m).debugCount = s.debugCount ∧ (s.shutDown m).tamperFuse = s.tamperFuse := by
  unfold State.shutDown State.cutFlash State.setBroken State.setBank
  split
  · rename_i k _
    cases k.bank <;> exact ⟨rfl, rfl, rfl⟩
  · exact ⟨rfl, rfl, rfl⟩

theorem execPowerLossShutdown_onward {s : State} : Ends s (execPowerLossShutdown s) := by
  unfold execPowerLossShutdown
  try dsimp only
  repeat' first
    | with_reducible assumption
    | with_reducible exact Onward.refl _
    | with_reducible apply Ends.onUnit
    | with_reducible apply Ends.whenDue
    | with_reducible apply Ends.next
    | with_reducible apply State.shutDown_onward
    | with_reducible refine Onward.foldl _ (fun _ _ _ => ?_) _ _ ?_
    | with_reducible refine Onward.ite ?_ ?_
    | fail_if_no_progress (with_reducible apply Onward.same; iterate 11 (focus with_reducible rfl))
    | decide
    | dsimp only
    | split

theorem execResetNAssertion_onward {s : State} : Ends s (execResetNAssertion s) := by
  unfold execResetNAssertion
  try dsimp only
  repeat' first
    | with_reducible assumption
    | with_reducible exact Onward.refl _
    | with_reducible apply Ends.onUnit
    | with_reducible apply Ends.whenDue
    | with_reducible apply Ends.next
    | with_reducible apply State.shutDown_onward
    | with_reducible apply announce_onward
    | with_reducible refine Onward.foldl _ (fun _ _ _ => ?_) _ _ ?_
    | with_reducible refine Onward.ite ?_ ?_
    | fail_if_no_progress (with_reducible apply Onward.same; iterate 11 (focus with_reducible rfl))
    | decide
    | dsimp only
    | split

theorem execThermalTrip_onward {source : TripSource} {s : State} : Ends s (execThermalTrip source s) := by
  unfold execThermalTrip
  try dsimp only
  repeat' first
    | with_reducible assumption
    | with_reducible exact Onward.refl _
    | with_reducible apply Ends.onUnit
    | with_reducible apply Ends.whenDue
    | with_reducible apply Ends.next
    | with_reducible apply State.shutDown_onward
    | with_reducible refine Onward.foldl _ (fun _ _ _ => ?_) _ _ ?_
    | with_reducible refine Onward.ite ?_ ?_
    | fail_if_no_progress (with_reducible apply Onward.same; iterate 11 (focus with_reducible rfl))
    | decide
    | dsimp only
    | split

theorem execTripLatchRelease_onward {s : State} : Ends s (execTripLatchRelease s) := by
  unfold execTripLatchRelease
  try dsimp only
  repeat' first
    | with_reducible assumption
    | with_reducible exact Onward.refl _
    | with_reducible apply Ends.onUnit
    | with_reducible apply Ends.whenDue
    | with_reducible apply Ends.next
    | with_reducible refine Onward.foldl _ (fun _ _ _ => ?_) _ _ ?_
    | with_reducible refine Onward.ite ?_ ?_
    | fail_if_no_progress (with_reducible apply Onward.same; iterate 11 (focus with_reducible rfl))
    | dsimp only
    | split

theorem State.tampered_onward {o s : State} {order : Nat} (h0 : Onward o s) : Onward o (s.tampered order) := by
  have h := State.shutDown_onward (m := 5) (by decide) h0
  refine ⟨h.queue, h.drawn, fun _ => rfl, h.tamper, h.testPort, fun hs => ?_⟩
  have k := h.sound hs
  exact ⟨k.gddr, k.reservoir, k.flashA, k.flashB, k.blotter, k.tamper, k.testPort, k.mstate⟩

theorem execEnvironmentalTamperEvent_onward {s : State} : Ends s (execEnvironmentalTamperEvent s) := by
  unfold execEnvironmentalTamperEvent
  dsimp only
  refine Ends.whenDue (Onward.refl _) (announce_onward (Onward.refl _) ?_)
  have h := State.shutDown_onward (s := s) (m := (s.beginning s.power.held).1) (State.beginning_mstate s _) (Onward.refl s)
  refine ⟨h.queue, h.drawn, h.fuse, ?_, h.testPort, fun hs => ?_⟩
  · show s.tamperCount ≤ if s.tamperCount < 32 then s.tamperCount + 1 else s.tamperCount
    split <;> omega
  · have k := h.sound hs
    have := hs.tamper
    refine ⟨k.gddr, k.reservoir, k.flashA, k.flashB, k.blotter, ?_, k.testPort, k.mstate⟩
    show (if s.tamperCount < 32 then s.tamperCount + 1 else s.tamperCount) ≤ 32
    split <;> omega

theorem execMeshBreak_onward {s : State} : Ends s (execMeshBreak s) := by
  unfold execMeshBreak
  try dsimp only
  repeat' first
    | with_reducible assumption
    | with_reducible exact Onward.refl _
    | with_reducible apply Ends.onUnit
    | with_reducible apply Ends.whenDue
    | with_reducible apply Ends.next
    | with_reducible apply State.tampered_onward
    | with_reducible apply announce_onward
    | with_reducible refine Onward.foldl _ (fun _ _ _ => ?_) _ _ ?_
    | with_reducible refine Onward.ite ?_ ?_
    | fail_if_no_progress (with_reducible apply Onward.same; iterate 11 (focus with_reducible rfl))
    | dsimp only
    | split

theorem State.startPorts_onward {o : State} {s : State} (h0 : Onward o s) : Onward o (State.startPorts s) := by
  unfold State.startPorts
  try dsimp only
  repeat' first
    | with_reducible assumption
    | with_reducible exact Onward.refl _
    | with_reducible apply State.setPort_onward
    | with_reducible refine Onward.foldl _ (fun _ _ _ => ?_) _ _ ?_
    | with_reducible refine Onward.ite ?_ ?_
    | fail_if_no_progress (with_reducible apply Onward.same; iterate 11 (focus with_reducible rfl))
    | dsimp only
    | split

theorem State.answerPorts_onward {o : State} {s : State} (h0 : Onward o s) : Onward o (State.answerPorts s) := by
  unfold State.answerPorts
  try dsimp only
  repeat' first
    | with_reducible assumption
    | with_reducible exact Onward.refl _
    | with_reducible apply State.setPcie_onward
    | with_reducible refine Onward.foldl _ (fun _ _ _ => ?_) _ _ ?_
    | with_reducible refine Onward.ite ?_ ?_
    | fail_if_no_progress (with_reducible apply Onward.same; iterate 11 (focus with_reducible rfl))
    | dsimp only
    | split

theorem State.bootFrom_onward {o : State} {s : State} {b : Bool} {older : Bool} (h0 : Onward o s) : Onward o (State.bootFrom s b older) := by
  unfold State.bootFrom
  try dsimp only
  repeat' first
    | with_reducible assumption
    | with_reducible exact Onward.refl _
    | with_reducible apply State.answerPorts_onward
    | with_reducible apply State.drew_onward
    | with_reducible apply State.note_onward
    | with_reducible apply State.startPorts_onward
    | with_reducible apply State.stopped_onward
    | with_reducible refine Onward.foldl _ (fun _ _ _ => ?_) _ _ ?_
    | with_reducible refine Onward.ite ?_ ?_
    | fail_if_no_progress (with_reducible apply Onward.same; iterate 11 (focus with_reducible rfl))
    | decide
    | dsimp only
    | split

theorem State.recover_onward {o : State} {s : State} (h0 : Onward o s) : Onward o (State.recover s) := by
  unfold State.recover
  try dsimp only
  repeat' first
    | with_reducible assumption
    | with_reducible exact Onward.refl _
    | with_reducible apply State.answerPorts_onward
    | with_reducible apply State.drew_onward
    | with_reducible apply State.stopped_onward
    | with_reducible refine Onward.foldl _ (fun _ _ _ => ?_) _ _ ?_
    | with_reducible refine Onward.ite ?_ ?_
    | fail_if_no_progress (with_reducible apply Onward.same; iterate 11 (focus with_reducible rfl))
    | decide
    | dsimp only
    | split

theorem State.booted_onward {o : State} {s : State} {meshWhole : Bool} {failed : Option (Nat × Nat)} (h0 : Onward o s) : Onward o (State.booted s meshWhole failed) := by
  unfold State.booted
  try dsimp only
  repeat' first
    | with_reducible assumption
    | with_reducible exact Onward.refl _
    | with_reducible apply State.bootFrom_onward
    | with_reducible apply State.faultModule_onward
    | with_reducible apply State.recover_onward
    | with_reducible apply State.tampered_onward
    | with_reducible refine Onward.foldl _ (fun _ _ _ => ?_) _ _ ?_
    | with_reducible refine Onward.ite ?_ ?_
    | fail_if_no_progress (with_reducible apply Onward.same; iterate 11 (focus with_reducible rfl))
    | dsimp only
    | split

theorem execModuleBoot_onward {meshWhole : Bool} {failed : Option (Nat × Nat)} {s : State} : Ends s (execModuleBoot meshWhole failed s) := by
  unfold execModuleBoot
  try dsimp only
  repeat' first
    | with_reducible assumption
    | with_reducible exact Onward.refl _
    | with_reducible apply Ends.onUnit
    | with_reducible apply Ends.whenDue
    | with_reducible apply Ends.next
    | with_reducible apply State.booted_onward
    | with_reducible apply announce_onward
    | with_reducible refine Onward.foldl _ (fun _ _ _ => ?_) _ _ ?_
    | with_reducible refine Onward.ite ?_ ?_
    | fail_if_no_progress (with_reducible apply Onward.same; iterate 11 (focus with_reducible rfl))
    | dsimp only
    | split

theorem execGddr7TrainingComplete_onward {success : Bool} {s : State} : Ends s (execGddr7TrainingComplete success s) := by
  unfold execGddr7TrainingComplete
  refine Ends.whenDue (Onward.refl _) ⟨rfl, le_refl _, id, le_refl _, le_refl _, fun k => ?_⟩
  refine ⟨k.gddr, k.reservoir, k.flashA, k.flashB, ?_, k.tamper, k.testPort, k.mstate⟩
  have := k.blotter
  cases success
  · exact this
  · show s.blotter.entries.length ≤ 65536
    split at this <;> omega

theorem execFirmwareWatchdog_onward {die : Nat} {s : State} : Ends s (execFirmwareWatchdog die s) := by
  unfold execFirmwareWatchdog
  try dsimp only
  repeat' first
    | with_reducible assumption
    | with_reducible exact Onward.refl _
    | with_reducible apply Ends.onUnit
    | with_reducible apply Ends.whenDue
    | with_reducible apply Ends.next
    | with_reducible apply State.faultModule_onward
    | with_reducible refine Onward.foldl _ (fun _ _ _ => ?_) _ _ ?_
    | with_reducible refine Onward.ite ?_ ?_
    | fail_if_no_progress (with_reducible apply Onward.same; iterate 11 (focus with_reducible rfl))
    | dsimp only
    | split

theorem execLrefLock_onward {s : State} : Ends s (execLrefLock s) := by
  unfold execLrefLock
  try dsimp only
  repeat' first
    | with_reducible assumption
    | with_reducible exact Onward.refl _
    | with_reducible apply Ends.onUnit
    | with_reducible apply Ends.whenDue
    | with_reducible apply Ends.next
    | with_reducible apply State.setPort_onward
    | with_reducible refine Onward.foldl _ (fun _ _ _ => ?_) _ _ ?_
    | with_reducible refine Onward.ite ?_ ?_
    | fail_if_no_progress (with_reducible apply Onward.same; iterate 11 (focus with_reducible rfl))
    | dsimp only
    | split

theorem execLrefLoss_onward {s : State} : Ends s (execLrefLoss s) := by
  unfold execLrefLoss
  try dsimp only
  repeat' first
    | with_reducible assumption
    | with_reducible exact Onward.refl _
    | with_reducible apply Ends.onUnit
    | with_reducible apply Ends.whenDue
    | with_reducible apply Ends.next
    | with_reducible apply State.follow_onward
    | with_reducible apply State.setPort_onward
    | with_reducible refine Onward.foldl _ (fun _ _ _ => ?_) _ _ ?_
    | with_reducible refine Onward.ite ?_ ?_
    | fail_if_no_progress (with_reducible apply Onward.same; iterate 11 (focus with_reducible rfl))
    | dsimp only
    | split

theorem execDebugChallenge_onward {s : State} : Ends s (execDebugChallenge s) := by
  unfold execDebugChallenge
  try dsimp only
  repeat' first
    | with_reducible assumption
    | with_reducible exact Onward.refl _
    | with_reducible apply Ends.onUnit
    | with_reducible apply Ends.whenDue
    | with_reducible apply Ends.next
    | with_reducible apply State.drew_onward
    | with_reducible refine Onward.foldl _ (fun _ _ _ => ?_) _ _ ?_
    | with_reducible refine Onward.ite ?_ ?_
    | fail_if_no_progress (with_reducible apply Onward.same; iterate 11 (focus with_reducible rfl))
    | dsimp only
    | split

theorem execDebugToken_onward {token : Bytes} {s : State} : Ends s (execDebugToken token s) := by
  unfold execDebugToken
  dsimp only
  refine Ends.whenDue (Onward.refl _) ?_
  split
  · rename_i hg
    have hlt : s.debugCount < 64 := by
      unfold State.tokenGood at hg
      simp only [Bool.and_eq_true, decide_eq_true_eq] at hg
      exact hg.1.1.2
    refine announce_onward (Onward.refl _) ?_
    have h := State.shutDown_onward (s := s) (m := (s.beginning s.power.held).1) (State.beginning_mstate s _) (Onward.refl s)
    refine ⟨h.queue, h.drawn, h.fuse, h.tamper, Nat.le_succ _, fun hs => ?_⟩
    have k := h.sound hs
    exact ⟨k.gddr, k.reservoir, k.flashA, k.flashB, k.blotter, k.tamper, hlt, k.mstate⟩
  · with_reducible apply Onward.same
    iterate 11 (focus with_reducible rfl)
    exact Onward.refl _

theorem execCoreStateAccess_onward {core : Nat} {access : CoreAccess} {s : State} : Ends s (execCoreStateAccess core access s) := by
  unfold execCoreStateAccess
  try dsimp only
  repeat' first
    | with_reducible assumption
    | with_reducible exact Onward.refl _
    | with_reducible apply Ends.onUnit
    | with_reducible apply Ends.whenDue
    | with_reducible apply Ends.next
    | with_reducible apply State.setCore_onward
    | with_reducible refine Onward.foldl _ (fun _ _ _ => ?_) _ _ ?_
    | with_reducible refine Onward.ite ?_ ?_
    | fail_if_no_progress (with_reducible apply Onward.same; iterate 11 (focus with_reducible rfl))
    | dsimp only
    | split

end Sys2Proof.Machine
end

