-- ==== Sys2Proof/Laws/OnRecords.lean ====
section
/-!
SUPPORT. That every operation of Machine/Records.lean leads onward (Safety.lean).
-/
namespace Sys2Proof.Machine

set_option linter.unusedTactic false
set_option linter.unreachableTactic false

theorem State.sideRead_onward {o s : State} {n : Nat} (h0 : Onward o s) : Onward o (s.sideRead n).2 := by
  unfold State.sideRead
  split
  · exact h0
  · exact Onward.same rfl rfl rfl rfl rfl rfl rfl rfl rfl rfl rfl h0

theorem State.writeVector_onward {o : State} {s : State} {port : Nat} {fn : Nat} {n : Nat} {v : MsixVector} (h0 : Onward o s) : Onward o (State.writeVector s port fn n v) := by
  unfold State.writeVector
  try dsimp only
  repeat' first
    | with_reducible assumption
    | with_reducible exact Onward.refl _
    | with_reducible apply State.setFunction_onward
    | with_reducible refine Onward.foldl _ (fun _ _ _ => ?_) _ _ ?_
    | with_reducible refine Onward.ite ?_ ?_
    | fail_if_no_progress (with_reducible apply Onward.same; iterate 11 (focus with_reducible rfl))
    | dsimp only
    | split

end Sys2Proof.Machine
end

