-- ==== Sys2Proof/Laws/OnScalarWords.lean ====
section
/-!
SUPPORT. That every operation of Machine/ScalarWords.lean leads onward (Safety.lean).
-/
namespace Sys2Proof.Machine

set_option linter.unusedTactic false
set_option linter.unreachableTactic false

theorem execScalarNop_onward {core : Nat} {upset : Bool} {s : State} : Ends s (execScalarNop core upset s) := wordRow_onward

theorem execScalarAdd_onward {core : Nat} {upset : Bool} {s : State} : Ends s (execScalarAdd core upset s) := wordRow_onward

theorem execScalarSub_onward {core : Nat} {upset : Bool} {s : State} : Ends s (execScalarSub core upset s) := wordRow_onward

theorem execScalarAnd_onward {core : Nat} {upset : Bool} {s : State} : Ends s (execScalarAnd core upset s) := wordRow_onward

theorem execScalarOr_onward {core : Nat} {upset : Bool} {s : State} : Ends s (execScalarOr core upset s) := wordRow_onward

theorem execScalarXor_onward {core : Nat} {upset : Bool} {s : State} : Ends s (execScalarXor core upset s) := wordRow_onward

theorem execScalarShl_onward {core : Nat} {upset : Bool} {s : State} : Ends s (execScalarShl core upset s) := wordRow_onward

theorem execScalarShr_onward {core : Nat} {upset : Bool} {s : State} : Ends s (execScalarShr core upset s) := wordRow_onward

theorem execScalarAsr_onward {core : Nat} {upset : Bool} {s : State} : Ends s (execScalarAsr core upset s) := wordRow_onward

theorem execScalarCeq_onward {core : Nat} {upset : Bool} {s : State} : Ends s (execScalarCeq core upset s) := wordRow_onward

theorem execCltu_onward {core : Nat} {upset : Bool} {s : State} : Ends s (execCltu core upset s) := wordRow_onward

theorem execClts_onward {core : Nat} {upset : Bool} {s : State} : Ends s (execClts core upset s) := wordRow_onward

theorem execScalarMin_onward {core : Nat} {upset : Bool} {s : State} : Ends s (execScalarMin core upset s) := wordRow_onward

theorem execScalarMax_onward {core : Nat} {upset : Bool} {s : State} : Ends s (execScalarMax core upset s) := wordRow_onward

theorem execScalarSel_onward {core : Nat} {upset : Bool} {s : State} : Ends s (execScalarSel core upset s) := wordRow_onward

theorem execScalarMov_onward {core : Nat} {upset : Bool} {s : State} : Ends s (execScalarMov core upset s) := wordRow_onward

theorem execScalarMul_onward {core : Nat} {upset : Bool} {s : State} : Ends s (execScalarMul core upset s) := wordRow_onward

theorem execMulhu_onward {core : Nat} {upset : Bool} {s : State} : Ends s (execMulhu core upset s) := wordRow_onward

theorem execMulhs_onward {core : Nat} {upset : Bool} {s : State} : Ends s (execMulhs core upset s) := wordRow_onward

theorem execScalarLd_onward {core : Nat} {upset : Bool} {s : State} : Ends s (execScalarLd core upset s) := wordRow_onward

theorem execScalarSt_onward {core : Nat} {upset : Bool} {s : State} : Ends s (execScalarSt core upset s) := wordRow_onward

theorem execMvg_onward {core : Nat} {upset : Bool} {s : State} : Ends s (execMvg core upset s) := wordRow_onward

theorem execFadd_onward {core : Nat} {upset : Bool} {s : State} : Ends s (execFadd core upset s) := wordRow_onward

theorem execFsub_onward {core : Nat} {upset : Bool} {s : State} : Ends s (execFsub core upset s) := wordRow_onward

theorem execFmul_onward {core : Nat} {upset : Bool} {s : State} : Ends s (execFmul core upset s) := wordRow_onward

theorem execScalarFma_onward {core : Nat} {upset : Bool} {s : State} : Ends s (execScalarFma core upset s) := wordRow_onward

theorem execFmin_onward {core : Nat} {upset : Bool} {s : State} : Ends s (execFmin core upset s) := wordRow_onward

theorem execFmax_onward {core : Nat} {upset : Bool} {s : State} : Ends s (execFmax core upset s) := wordRow_onward

theorem execFclt_onward {core : Nat} {upset : Bool} {s : State} : Ends s (execFclt core upset s) := wordRow_onward

theorem execF64to32_onward {core : Nat} {upset : Bool} {s : State} : Ends s (execF64to32 core upset s) := wordRow_onward

theorem execF32to64_onward {core : Nat} {upset : Bool} {s : State} : Ends s (execF32to64 core upset s) := wordRow_onward

end Sys2Proof.Machine
end

