-- ==== Sys2Proof/Laws/OnServe.lean ====
section
/-!
SUPPORT. That every operation of Machine/Serve.lean leads onward (Safety.lean).
-/
namespace Sys2Proof.Machine

set_option linter.unusedTactic false
set_option linter.unreachableTactic false

theorem State.replyBulk_onward {o : State} {s : State} {q : Query} {period : Nat} {b : Bytes} (h0 : Onward o s) : Onward o (State.replyBulk s q period b) := by
  unfold State.replyBulk
  try dsimp only
  repeat' first
    | with_reducible assumption
    | with_reducible exact Onward.refl _
    | with_reducible apply State.answerSegment_onward
    | with_reducible apply State.sendPacket_onward
    | with_reducible refine Onward.foldl _ (fun _ _ _ => ?_) _ _ ?_
    | with_reducible refine Onward.ite ?_ ?_
    | fail_if_no_progress (with_reducible apply Onward.same; iterate 11 (focus with_reducible rfl))
    | dsimp only
    | split

theorem State.sendReply_onward {o : State} {s : State} {j : Job} {q : Query} {status : Nat} {slot : Nat} {period : Nat} {step : Option Nat} {body : Bytes} (h0 : Onward o s) : Onward o (State.sendReply s j q status slot period step body) := by
  unfold State.sendReply
  try dsimp only
  repeat' first
    | with_reducible assumption
    | with_reducible exact Onward.refl _
    | with_reducible apply State.ctxWrite_onward
    | with_reducible apply State.replyBulk_onward
    | with_reducible refine Onward.foldl _ (fun _ _ _ => ?_) _ _ ?_
    | with_reducible refine Onward.ite ?_ ?_
    | fail_if_no_progress (with_reducible apply Onward.same; iterate 11 (focus with_reducible rfl))
    | dsimp only
    | split

theorem State.endQuery_onward {o : State} {s : State} {q : Query} {result : Nat} (h0 : Onward o s) : Onward o (State.endQuery s q result) := by
  unfold State.endQuery
  try dsimp only
  repeat' first
    | with_reducible assumption
    | with_reducible exact Onward.refl _
    | with_reducible apply State.finish_onward
    | with_reducible refine Onward.foldl _ (fun _ _ _ => ?_) _ _ ?_
    | with_reducible refine Onward.ite ?_ ?_
    | fail_if_no_progress (with_reducible apply Onward.same; iterate 11 (focus with_reducible rfl))
    | dsimp only
    | split

theorem State.answerQuery_onward {o : State} {s : State} {j : Job} {q : Query} {status : Nat} {slot : Nat} {period : Nat} {step : Option Nat} {body : Bytes} (h0 : Onward o s) : Onward o (State.answerQuery s j q status slot period step body) := by
  unfold State.answerQuery
  try dsimp only
  repeat' first
    | with_reducible assumption
    | with_reducible exact Onward.refl _
    | with_reducible apply State.endQuery_onward
    | with_reducible apply State.sendReply_onward
    | with_reducible refine Onward.foldl _ (fun _ _ _ => ?_) _ _ ?_
    | with_reducible refine Onward.ite ?_ ?_
    | fail_if_no_progress (with_reducible apply Onward.same; iterate 11 (focus with_reducible rfl))
    | dsimp only
    | split

theorem State.discardQuery_onward {o : State} {s : State} {j : Job} {q : Query} {status : Nat} (h0 : Onward o s) : Onward o (State.discardQuery s j q status) := by
  unfold State.discardQuery
  try dsimp only
  repeat' first
    | with_reducible assumption
    | with_reducible exact Onward.refl _
    | with_reducible apply State.finish_onward
    | with_reducible apply State.onCmd_onward
    | with_reducible apply State.sendReply_onward
    | with_reducible refine Onward.foldl _ (fun _ _ _ => ?_) _ _ ?_
    | with_reducible refine Onward.ite ?_ ?_
    | fail_if_no_progress (with_reducible apply Onward.same; iterate 11 (focus with_reducible rfl))
    | dsimp only
    | split

theorem State.holdQuery_onward {o : State} {s : State} {j : Job} {q : Query} (h0 : Onward o s) : Onward o (State.holdQuery s j q) := by
  unfold State.holdQuery
  try dsimp only
  repeat' first
    | with_reducible assumption
    | with_reducible exact Onward.refl _
    | with_reducible apply State.discardQuery_onward
    | with_reducible refine Onward.foldl _ (fun _ _ _ => ?_) _ _ ?_
    | with_reducible refine Onward.ite ?_ ?_
    | fail_if_no_progress (with_reducible apply Onward.same; iterate 11 (focus with_reducible rfl))
    | dsimp only
    | split

theorem State.takeParcel_onward {o : State} {s : State} {n : Nat} {c : Cmd} {cls : Nat} {b : Bytes} (h0 : Onward o s) : Onward o (State.takeParcel s n c cls b) := by
  unfold State.takeParcel
  try dsimp only
  repeat' first
    | with_reducible assumption
    | with_reducible exact Onward.refl _
    | with_reducible apply State.acceptSeq_onward
    | with_reducible apply State.finish_onward
    | with_reducible apply State.holdQuery_onward
    | with_reducible apply State.noteParcel_onward
    | with_reducible apply State.refuse_onward
    | with_reducible refine Onward.foldl _ (fun _ _ _ => ?_) _ _ ?_
    | with_reducible refine Onward.ite ?_ ?_
    | fail_if_no_progress (with_reducible apply Onward.same; iterate 11 (focus with_reducible rfl))
    | dsimp only
    | split

theorem State.takeHostQuery_onward {o : State} {s : State} {n : Nat} {c : Cmd} {parcel : Option Bytes} (h0 : Onward o s) : Onward o (State.takeHostQuery s n c parcel) := by
  unfold State.takeHostQuery
  try dsimp only
  repeat' first
    | with_reducible assumption
    | with_reducible exact Onward.refl _
    | with_reducible apply State.finish_onward
    | with_reducible apply State.readFor_onward
    | with_reducible apply State.takeParcel_onward
    | with_reducible refine Onward.foldl _ (fun _ _ _ => ?_) _ _ ?_
    | with_reducible refine Onward.ite ?_ ?_
    | fail_if_no_progress (with_reducible apply Onward.same; iterate 11 (focus with_reducible rfl))
    | dsimp only
    | split

theorem State.takePeerQuery_onward {o : State} {s : State} (h0 : Onward o s) : Onward o (State.takePeerQuery s) := by
  unfold State.takePeerQuery
  try dsimp only
  repeat' first
    | with_reducible assumption
    | with_reducible exact Onward.refl _
    | with_reducible apply State.holdQuery_onward
    | with_reducible refine Onward.foldl _ (fun _ _ _ => ?_) _ _ ?_
    | with_reducible refine Onward.ite ?_ ?_
    | fail_if_no_progress (with_reducible apply Onward.same; iterate 11 (focus with_reducible rfl))
    | dsimp only
    | split

theorem execQueryArrival_onward {cmd : Nat} {parcel : Option Bytes} {s : State} : Ends s (execQueryArrival cmd parcel s) := by
  unfold execQueryArrival
  try dsimp only
  repeat' first
    | with_reducible assumption
    | with_reducible exact Onward.refl _
    | with_reducible apply Ends.onUnit
    | with_reducible apply Ends.whenDue
    | with_reducible apply Ends.next
    | with_reducible apply State.takeHostQuery_onward
    | with_reducible apply State.takePeerQuery_onward
    | with_reducible refine Onward.foldl _ (fun _ _ _ => ?_) _ _ ?_
    | with_reducible refine Onward.ite ?_ ?_
    | fail_if_no_progress (with_reducible apply Onward.same; iterate 11 (focus with_reducible rfl))
    | dsimp only
    | split

theorem State.hearQuery_onward {o : State} {s : State} {p : Packet} (h0 : Onward o s) : Onward o (State.hearQuery s p) := by
  unfold State.hearQuery
  try dsimp only
  repeat' first
    | with_reducible assumption
    | with_reducible exact Onward.refl _
    | with_reducible apply State.acceptSeq_onward
    | with_reducible apply State.noteIn_onward
    | with_reducible apply State.noteParcel_onward
    | with_reducible refine Onward.foldl _ (fun _ _ _ => ?_) _ _ ?_
    | with_reducible refine Onward.ite ?_ ?_
    | fail_if_no_progress (with_reducible apply Onward.same; iterate 11 (focus with_reducible rfl))
    | dsimp only
    | split

theorem execRealTimeParcel_onward {port : Nat} {s : State} : Ends s (execRealTimeParcel port s) := by
  unfold execRealTimeParcel
  try dsimp only
  repeat' first
    | with_reducible assumption
    | with_reducible exact Onward.refl _
    | with_reducible apply Ends.onUnit
    | with_reducible apply Ends.whenDue
    | with_reducible apply Ends.next
    | with_reducible apply State.hearQuery_onward
    | with_reducible refine packetRow_onward (fun _ _ _ => ?_)
    | with_reducible refine Onward.foldl _ (fun _ _ _ => ?_) _ _ ?_
    | with_reducible refine Onward.ite ?_ ?_
    | fail_if_no_progress (with_reducible apply Onward.same; iterate 11 (focus with_reducible rfl))
    | dsimp only
    | split

theorem State.putSequence_onward {o : State} {s : State} {j : Job} {i : Nat} {q : Sequence} (h0 : Onward o s) : Onward o (State.putSequence s j i q) := by
  unfold State.putSequence
  try dsimp only
  repeat' first
    | with_reducible assumption
    | with_reducible exact Onward.refl _
    | with_reducible apply State.store_onward
    | with_reducible apply Store.settle_onward
    | with_reducible refine Onward.foldl _ (fun _ _ _ => ?_) _ _ ?_
    | with_reducible refine Onward.ite ?_ ?_
    | fail_if_no_progress (with_reducible apply Onward.same; iterate 11 (focus with_reducible rfl))
    | dsimp only
    | split

theorem State.leaveUndefined_onward {o : State} {s : State} {ctx : Nat} {va : Nat} {n : Nat} (h0 : Onward o s) : Onward o (State.leaveUndefined s ctx va n) := by
  unfold State.leaveUndefined
  try dsimp only
  repeat' first
    | with_reducible assumption
    | with_reducible exact Onward.refl _
    | with_reducible apply State.store_onward
    | with_reducible refine Onward.foldl _ (fun _ _ _ => ?_) _ _ ?_
    | with_reducible refine Onward.ite ?_ ?_
    | fail_if_no_progress (with_reducible apply Onward.same; iterate 11 (focus with_reducible rfl))
    | dsimp only
    | split

theorem State.breakSequence_onward {o : State} {s : State} {j : Job} {i : Nat} (h0 : Onward o s) : Onward o (State.breakSequence s j i) := by
  unfold State.breakSequence
  try dsimp only
  repeat' first
    | with_reducible assumption
    | with_reducible exact Onward.refl _
    | with_reducible apply State.leaveUndefined_onward
    | with_reducible apply State.putSequence_onward
    | with_reducible refine Onward.foldl _ (fun _ _ _ => ?_) _ _ ?_
    | with_reducible refine Onward.ite ?_ ?_
    | fail_if_no_progress (with_reducible apply Onward.same; iterate 11 (focus with_reducible rfl))
    | dsimp only
    | split

theorem State.leave_onward {o : State} {s : State} {j : Job} {slot : Nat} {k : Nat} {q : Query} (h0 : Onward o s) : Onward o (State.leave s j slot k q) := by
  unfold State.leave
  try dsimp only
  repeat' first
    | with_reducible assumption
    | with_reducible exact Onward.refl _
    | with_reducible apply State.answerQuery_onward
    | with_reducible apply State.putSequence_onward
    | with_reducible refine Onward.foldl _ (fun _ _ _ => ?_) _ _ ?_
    | with_reducible refine Onward.ite ?_ ?_
    | fail_if_no_progress (with_reducible apply Onward.same; iterate 11 (focus with_reducible rfl))
    | dsimp only
    | split

theorem State.freeBroken_onward {o : State} {s : State} {j : Job} (h0 : Onward o s) : Onward o (State.freeBroken s j) := by
  unfold State.freeBroken
  try dsimp only
  repeat' first
    | with_reducible assumption
    | with_reducible exact Onward.refl _
    | with_reducible apply State.putSequence_onward
    | with_reducible refine Onward.foldl _ (fun _ _ _ => ?_) _ _ ?_
    | with_reducible refine Onward.ite ?_ ?_
    | fail_if_no_progress (with_reducible apply Onward.same; iterate 11 (focus with_reducible rfl))
    | dsimp only
    | split

theorem State.deferJoin_onward {o : State} {s : State} {n : Nat} {j : Job} {q : Query} (h0 : Onward o s) : Onward o (State.deferJoin s n j q) := by
  unfold State.deferJoin
  try dsimp only
  repeat' first
    | with_reducible assumption
    | with_reducible exact Onward.refl _
    | with_reducible apply State.discardQuery_onward
    | with_reducible apply State.log_onward
    | with_reducible refine Onward.foldl _ (fun _ _ _ => ?_) _ _ ?_
    | with_reducible refine Onward.ite ?_ ?_
    | fail_if_no_progress (with_reducible apply Onward.same; iterate 11 (focus with_reducible rfl))
    | dsimp only
    | split

theorem Joining.take_onward {o : State} {n : Nat} {j : Job} {slot k cap : Nat} {x : Joining} {q : Query} (h0 : Onward o x.state) :
    Onward o (Joining.take n j slot k cap x q).state := by
  unfold Joining.take
  dsimp only
  split
  · exact State.answerQuery_onward h0
  · split
    · exact State.putSequence_onward h0
    · exact State.deferJoin_onward h0

theorem State.checkStep_onward {o s : State} {j : Job} {slot k : Nat} {q : Query} (h0 : Onward o s) : Onward o (s.checkStep j slot k q).1 := by
  unfold State.checkStep
  split
  · exact h0
  · split
    · exact State.answerQuery_onward (State.putSequence_onward h0)
    · exact State.answerQuery_onward h0

theorem State.noteCrowded_onward {o : State} {s : State} {n : Nat} {j : Job} (h0 : Onward o s) : Onward o (State.noteCrowded s n j) := by
  unfold State.noteCrowded
  try dsimp only
  repeat' first
    | with_reducible assumption
    | with_reducible exact Onward.refl _
    | with_reducible apply State.log_onward
    | with_reducible refine Onward.foldl _ (fun _ _ _ => ?_) _ _ ?_
    | with_reducible refine Onward.ite ?_ ?_
    | fail_if_no_progress (with_reducible apply Onward.same; iterate 11 (focus with_reducible rfl))
    | dsimp only
    | split

theorem State.noteLate_onward {o : State} {s : State} {j : Job} {slot : Nat} (h0 : Onward o s) : Onward o (State.noteLate s j slot) := by
  unfold State.noteLate
  try dsimp only
  repeat' first
    | with_reducible assumption
    | with_reducible exact Onward.refl _
    | with_reducible apply State.log_onward
    | with_reducible refine Onward.foldl _ (fun _ _ _ => ?_) _ _ ?_
    | with_reducible refine Onward.ite ?_ ?_
    | fail_if_no_progress (with_reducible apply Onward.same; iterate 11 (focus with_reducible rfl))
    | dsimp only
    | split

theorem State.launchPass_onward {o : State} {s : State} {n : Nat} {j : Job} {slot : Nat} {k : Nat} {records : List (Query × Option Nat)} (h0 : Onward o s) : Onward o (State.launchPass s n j slot k records) := by
  unfold State.launchPass
  try dsimp only
  repeat' first
    | with_reducible assumption
    | with_reducible exact Onward.refl _
    | with_reducible apply State.claimCores_onward
    | with_reducible apply State.noteCrowded_onward
    | with_reducible apply State.noteLate_onward
    | with_reducible apply State.onJob_onward
    | with_reducible apply State.startPasses_onward
    | with_reducible apply State.store_onward
    | with_reducible apply Store.settle_onward
    | with_reducible refine Onward.foldl _ (fun _ _ _ => ?_) _ _ ?_
    | with_reducible refine Onward.ite ?_ ?_
    | fail_if_no_progress (with_reducible apply Onward.same; iterate 11 (focus with_reducible rfl))
    | dsimp only
    | split

theorem State.batch_onward {o s : State} {n : Nat} {j : Job} {slot k : Nat} {qs : List Query} (h0 : Onward o s) : Onward o (s.batch n j slot k qs) := by
  unfold State.batch
  dsimp only
  refine State.launchPass_onward ?_
  refine Onward.foldl_of (fun a : State × List (Query × Option Nat) => a.1) _ (fun a q ha => State.checkStep_onward ha) _ _ ?_
  refine Onward.foldl _ (fun _ _ h => State.answerQuery_onward h) _ _ ?_
  refine Onward.foldl_of (fun x : Joining => x.state) _ (fun x q hx => Joining.take_onward hx) _ _ ?_
  refine State.freeBroken_onward (Onward.foldl _ (fun _ _ h => State.leave_onward h) _ _ ?_)
  exact Onward.foldl _ (fun _ _ h => State.answerQuery_onward h) _ _ h0

theorem State.openSlot_onward {o : State} {s : State} {a : Nat} {i : Nat} {k : Nat} (h0 : Onward o s) : Onward o (State.openSlot s a i k) := by
  unfold State.openSlot
  try dsimp only
  repeat' first
    | with_reducible assumption
    | with_reducible exact Onward.refl _
    | with_reducible apply State.batch_onward
    | with_reducible refine Onward.foldl _ (fun _ _ _ => ?_) _ _ ?_
    | with_reducible refine Onward.ite ?_ ?_
    | fail_if_no_progress (with_reducible apply Onward.same; iterate 11 (focus with_reducible rfl))
    | dsimp only
    | split

theorem execOccurrenceOpening_onward {atelier : Nat} {slot : Nat} {s : State} : Ends s (execOccurrenceOpening atelier slot s) := by
  unfold execOccurrenceOpening
  try dsimp only
  repeat' first
    | with_reducible assumption
    | with_reducible exact Onward.refl _
    | with_reducible apply Ends.onUnit
    | with_reducible apply Ends.whenDue
    | with_reducible apply Ends.next
    | with_reducible apply State.openSlot_onward
    | with_reducible apply State.reach_onward
    | with_reducible refine Onward.foldl _ (fun _ _ _ => ?_) _ _ ?_
    | with_reducible refine Onward.ite ?_ ?_
    | fail_if_no_progress (with_reducible apply Onward.same; iterate 11 (focus with_reducible rfl))
    | dsimp only
    | split

theorem State.replyRecord_onward {o : State} {s : State} {j : Job} {p : Pass} {i : Nat} {x : Query × Option Nat} (h0 : Onward o s) : Onward o (State.replyRecord s j p i x) := by
  unfold State.replyRecord
  try dsimp only
  repeat' first
    | with_reducible assumption
    | with_reducible exact Onward.refl _
    | with_reducible apply State.answerQuery_onward
    | with_reducible apply State.putSequence_onward
    | with_reducible refine Onward.foldl _ (fun _ _ _ => ?_) _ _ ?_
    | with_reducible refine Onward.ite ?_ ?_
    | fail_if_no_progress (with_reducible apply Onward.same; iterate 11 (focus with_reducible rfl))
    | dsimp only
    | split

theorem State.clearPass_onward {o : State} {s : State} {p : Pass} (h0 : Onward o s) : Onward o (State.clearPass s p) := by
  unfold State.clearPass
  try dsimp only
  repeat' first
    | with_reducible assumption
    | with_reducible exact Onward.refl _
    | with_reducible apply State.setCore_onward
    | with_reducible refine Onward.foldl _ (fun _ _ _ => ?_) _ _ ?_
    | with_reducible refine Onward.ite ?_ ?_
    | fail_if_no_progress (with_reducible apply Onward.same; iterate 11 (focus with_reducible rfl))
    | dsimp only
    | split

theorem State.endPass_onward {o : State} {s : State} {p : Pass} (h0 : Onward o s) : Onward o (State.endPass s p) := by
  unfold State.endPass
  try dsimp only
  repeat' first
    | with_reducible assumption
    | with_reducible exact Onward.refl _
    | with_reducible apply State.clearPass_onward
    | with_reducible apply State.endServing_onward
    | with_reducible apply State.replyRecord_onward
    | with_reducible refine Onward.foldl _ (fun _ _ _ => ?_) _ _ ?_
    | with_reducible refine Onward.ite ?_ ?_
    | fail_if_no_progress (with_reducible apply Onward.same; iterate 11 (focus with_reducible rfl))
    | dsimp only
    | split

theorem execPassEnd_onward {atelier : Nat} {cls : Nat} {s : State} : Ends s (execPassEnd atelier cls s) := by
  unfold execPassEnd
  try dsimp only
  repeat' first
    | with_reducible assumption
    | with_reducible exact Onward.refl _
    | with_reducible apply Ends.onUnit
    | with_reducible apply Ends.whenDue
    | with_reducible apply Ends.next
    | with_reducible apply State.endPass_onward
    | with_reducible refine Onward.foldl _ (fun _ _ _ => ?_) _ _ ?_
    | with_reducible refine Onward.ite ?_ ?_
    | fail_if_no_progress (with_reducible apply Onward.same; iterate 11 (focus with_reducible rfl))
    | dsimp only
    | split

theorem State.dropPass_onward {o : State} {s : State} {p : Pass} (h0 : Onward o s) : Onward o (State.dropPass s p) := by
  unfold State.dropPass
  try dsimp only
  repeat' first
    | with_reducible assumption
    | with_reducible exact Onward.refl _
    | with_reducible apply State.beginStop_onward
    | with_reducible apply State.breakSequence_onward
    | with_reducible apply State.discardQuery_onward
    | with_reducible apply State.endDropped_onward
    | with_reducible apply State.log_onward
    | with_reducible apply State.onJob_onward
    | with_reducible refine Onward.foldl _ (fun _ _ _ => ?_) _ _ ?_
    | with_reducible refine Onward.ite ?_ ?_
    | fail_if_no_progress (with_reducible apply Onward.same; iterate 11 (focus with_reducible rfl))
    | dsimp only
    | split

theorem execSlotDeadline_onward {atelier : Nat} {cls : Nat} {s : State} : Ends s (execSlotDeadline atelier cls s) := by
  unfold execSlotDeadline
  try dsimp only
  repeat' first
    | with_reducible assumption
    | with_reducible exact Onward.refl _
    | with_reducible apply Ends.onUnit
    | with_reducible apply Ends.whenDue
    | with_reducible apply Ends.next
    | with_reducible apply State.dropPass_onward
    | with_reducible apply State.reach_onward
    | with_reducible refine Onward.foldl _ (fun _ _ _ => ?_) _ _ ?_
    | with_reducible refine Onward.ite ?_ ?_
    | fail_if_no_progress (with_reducible apply Onward.same; iterate 11 (focus with_reducible rfl))
    | dsimp only
    | split

theorem State.switchSnapshots_onward {o : State} {s : State} {a : Nat} (h0 : Onward o s) : Onward o (State.switchSnapshots s a) := by
  unfold State.switchSnapshots
  try dsimp only
  repeat' first
    | with_reducible assumption
    | with_reducible exact Onward.refl _
    | with_reducible apply State.onJob_onward
    | with_reducible apply State.refer_onward
    | with_reducible refine Onward.foldl _ (fun _ _ _ => ?_) _ _ ?_
    | with_reducible refine Onward.ite ?_ ?_
    | fail_if_no_progress (with_reducible apply Onward.same; iterate 11 (focus with_reducible rfl))
    | dsimp only
    | split

theorem State.cleanStart_onward {o : State} {s : State} {a : Nat} {k : Nat} (h0 : Onward o s) : Onward o (State.cleanStart s a k) := by
  unfold State.cleanStart
  try dsimp only
  repeat' first
    | with_reducible assumption
    | with_reducible exact Onward.refl _
    | with_reducible apply State.discardQuery_onward
    | with_reducible refine Onward.foldl _ (fun _ _ _ => ?_) _ _ ?_
    | with_reducible refine Onward.ite ?_ ?_
    | fail_if_no_progress (with_reducible apply Onward.same; iterate 11 (focus with_reducible rfl))
    | dsimp only
    | split

theorem execPeriodBoundary_onward {atelier : Nat} {s : State} : Ends s (execPeriodBoundary atelier s) := by
  unfold execPeriodBoundary
  try dsimp only
  repeat' first
    | with_reducible assumption
    | with_reducible exact Onward.refl _
    | with_reducible apply Ends.onUnit
    | with_reducible apply Ends.whenDue
    | with_reducible apply Ends.next
    | with_reducible apply State.cleanStart_onward
    | with_reducible apply State.reach_onward
    | with_reducible apply State.switchSnapshots_onward
    | with_reducible refine Onward.foldl _ (fun _ _ _ => ?_) _ _ ?_
    | with_reducible refine Onward.ite ?_ ?_
    | fail_if_no_progress (with_reducible apply Onward.same; iterate 11 (focus with_reducible rfl))
    | dsimp only
    | split

theorem State.stopTraining_onward {o : State} {s : State} {cmd : Nat} {n : Nat} {j : Job} (h0 : Onward o s) : Onward o (State.stopTraining s cmd n j) := by
  unfold State.stopTraining
  try dsimp only
  repeat' first
    | with_reducible assumption
    | with_reducible exact Onward.refl _
    | with_reducible apply State.beginStop_onward
    | with_reducible apply State.endRun_onward
    | with_reducible apply State.finish_onward
    | with_reducible apply State.onCmd_onward
    | with_reducible apply State.onJob_onward
    | with_reducible refine Onward.foldl _ (fun _ _ _ => ?_) _ _ ?_
    | with_reducible refine Onward.ite ?_ ?_
    | fail_if_no_progress (with_reducible apply Onward.same; iterate 11 (focus with_reducible rfl))
    | dsimp only
    | split

theorem State.stopServing_onward {o : State} {s : State} {cmd : Nat} {n : Nat} {j : Job} (h0 : Onward o s) : Onward o (State.stopServing s cmd n j) := by
  unfold State.stopServing
  try dsimp only
  repeat' first
    | with_reducible assumption
    | with_reducible exact Onward.refl _
    | with_reducible apply State.discardQuery_onward
    | with_reducible apply State.finish_onward
    | with_reducible apply State.onCmd_onward
    | with_reducible apply State.onJob_onward
    | with_reducible refine Onward.foldl _ (fun _ _ _ => ?_) _ _ ?_
    | with_reducible refine Onward.ite ?_ ?_
    | fail_if_no_progress (with_reducible apply Onward.same; iterate 11 (focus with_reducible rfl))
    | dsimp only
    | split

theorem execJobStop_onward {cmd : Nat} {s : State} : Ends s (execJobStop cmd s) := by
  unfold execJobStop
  try dsimp only
  repeat' first
    | with_reducible assumption
    | with_reducible exact Onward.refl _
    | with_reducible apply Ends.onUnit
    | with_reducible apply Ends.whenDue
    | with_reducible apply Ends.next
    | with_reducible apply State.refuse_onward
    | with_reducible apply State.stopServing_onward
    | with_reducible apply State.stopTraining_onward
    | with_reducible refine onCommand_onward (fun _ => ?_)
    | with_reducible refine Onward.foldl _ (fun _ _ _ => ?_) _ _ ?_
    | with_reducible refine Onward.ite ?_ ?_
    | fail_if_no_progress (with_reducible apply Onward.same; iterate 11 (focus with_reducible rfl))
    | dsimp only
    | split

end Sys2Proof.Machine
end

