-- ==== Sys2Proof/Laws/OnSillage.lean ====
section
/-!
SUPPORT. That every operation of Machine/Sillage.lean leads onward (Safety.lean).
-/
namespace Sys2Proof.Machine

set_option linter.unusedTactic false
set_option linter.unreachableTactic false

theorem State.sillage_onward {o : State} {s : State} {port : Nat} {fn : Nat} {addr : Nat} {len : Nat} (h0 : Onward o s) : Onward o (State.sillage s port fn addr len) := by
  unfold State.sillage
  try dsimp only
  repeat' first
    | with_reducible assumption
    | with_reducible exact Onward.refl _
    | with_reducible apply State.controlDone_onward
    | with_reducible apply State.hostWrite_onward
    | with_reducible refine Onward.foldl _ (fun _ _ _ => ?_) _ _ ?_
    | with_reducible refine Onward.ite ?_ ?_
    | fail_if_no_progress (with_reducible apply Onward.same; iterate 11 (focus with_reducible rfl))
    | dsimp only
    | split

theorem execSillage_onward {port : Nat} {w : CtrlWrite} {addr : Word64} {len : Word64} {s : State} : Ends s (execSillage port w addr len s) := by
  unfold execSillage
  try dsimp only
  repeat' first
    | with_reducible assumption
    | with_reducible exact Onward.refl _
    | with_reducible apply Ends.onUnit
    | with_reducible apply Ends.whenDue
    | with_reducible apply Ends.next
    | with_reducible refine State.control_onward (fun _ _ => ?_) ?_
    | with_reducible apply State.sillage_onward
    | with_reducible refine Onward.foldl _ (fun _ _ _ => ?_) _ _ ?_
    | with_reducible refine Onward.ite ?_ ?_
    | fail_if_no_progress (with_reducible apply Onward.same; iterate 11 (focus with_reducible rfl))
    | dsimp only
    | split

end Sys2Proof.Machine
end

