-- ==== Sys2Proof/Laws/OnStreams.lean ====
section
/-!
SUPPORT. That every operation of Machine/Streams.lean leads onward (Safety.lean).
-/
namespace Sys2Proof.Machine

set_option linter.unusedTactic false
set_option linter.unreachableTactic false

theorem State.sendHost_onward {o : State} {s : State} {c : Cmd} {addr : Nat} {bs : Bytes} (h0 : Onward o s) : Onward o (State.sendHost s c addr bs) := by
  unfold State.sendHost
  try dsimp only
  repeat' first
    | with_reducible assumption
    | with_reducible exact Onward.refl _
    | with_reducible apply State.hostWrite_onward
    | with_reducible refine Onward.foldl _ (fun _ _ _ => ?_) _ _ ?_
    | with_reducible refine Onward.ite ?_ ?_
    | fail_if_no_progress (with_reducible apply Onward.same; iterate 11 (focus with_reducible rfl))
    | dsimp only
    | split

theorem State.saveCheckpoint_onward {o : State} {s : State} {cmd : Nat} {c : Cmd} {n : Nat} {j : Job} {m : Commission} {k : LeaseKeys} {refused : Bool} (h0 : Onward o s) : Onward o (State.saveCheckpoint s cmd c n j m k refused) := by
  unfold State.saveCheckpoint
  try dsimp only
  repeat' first
    | with_reducible assumption
    | with_reducible exact Onward.refl _
    | with_reducible apply State.drew_onward
    | with_reducible apply State.finish_onward
    | with_reducible apply State.refuse_onward
    | with_reducible apply State.sendHost_onward
    | with_reducible refine Onward.foldl _ (fun _ _ _ => ?_) _ _ ?_
    | with_reducible refine Onward.ite ?_ ?_
    | fail_if_no_progress (with_reducible apply Onward.same; iterate 11 (focus with_reducible rfl))
    | dsimp only
    | split

theorem execCheckpointSave_onward {cmd : HostWrite} {s : State} : Ends s (execCheckpointSave cmd s) := by
  unfold execCheckpointSave
  try dsimp only
  repeat' first
    | with_reducible assumption
    | with_reducible exact Onward.refl _
    | with_reducible apply Ends.onUnit
    | with_reducible apply Ends.whenDue
    | with_reducible apply Ends.next
    | with_reducible apply State.refuse_onward
    | with_reducible apply State.saveCheckpoint_onward
    | with_reducible refine onCommand_onward (fun _ => ?_)
    | with_reducible refine Onward.foldl _ (fun _ _ _ => ?_) _ _ ?_
    | with_reducible refine Onward.ite ?_ ?_
    | fail_if_no_progress (with_reducible apply Onward.same; iterate 11 (focus with_reducible rfl))
    | dsimp only
    | split

theorem State.restoreChunk_onward {o : State} {s : State} {n : Nat} {j : Job} {d : Bytes} {text : Bytes} {c : Nat} (h0 : Onward o s) : Onward o (State.restoreChunk s n j d text c) := by
  unfold State.restoreChunk
  try dsimp only
  repeat' first
    | with_reducible assumption
    | with_reducible exact Onward.refl _
    | with_reducible apply State.storeWeights_onward
    | with_reducible refine Onward.foldl _ (fun _ _ _ => ?_) _ _ ?_
    | with_reducible refine Onward.ite ?_ ?_
    | fail_if_no_progress (with_reducible apply Onward.same; iterate 11 (focus with_reducible rfl))
    | dsimp only
    | split

theorem State.restorePart_onward {o : State} {s : State} {n : Nat} {j : Job} {text : Bytes} {p : LowRankRead} (h0 : Onward o s) : Onward o (State.restorePart s n j text p) := by
  unfold State.restorePart
  try dsimp only
  repeat' first
    | with_reducible assumption
    | with_reducible exact Onward.refl _
    | with_reducible apply State.jobStore_onward
    | with_reducible apply State.putSlot_onward
    | with_reducible refine Onward.foldl _ (fun _ _ _ => ?_) _ _ ?_
    | with_reducible refine Onward.ite ?_ ?_
    | fail_if_no_progress (with_reducible apply Onward.same; iterate 11 (focus with_reducible rfl))
    | dsimp only
    | split

theorem State.restoreJob_onward {o : State} {s : State} {n : Nat} {j : Job} {text : Bytes} {parts : List LowRankRead} (h0 : Onward o s) : Onward o (State.restoreJob s n j text parts) := by
  unfold State.restoreJob
  try dsimp only
  repeat' first
    | with_reducible assumption
    | with_reducible exact Onward.refl _
    | with_reducible apply State.jobStore_onward
    | with_reducible apply State.onJob_onward
    | with_reducible apply State.onJobCores_onward
    | with_reducible apply State.restoreChunk_onward
    | with_reducible apply State.restorePart_onward
    | with_reducible refine Onward.foldl _ (fun _ _ _ => ?_) _ _ ?_
    | with_reducible refine Onward.ite ?_ ?_
    | fail_if_no_progress (with_reducible apply Onward.same; iterate 11 (focus with_reducible rfl))
    | dsimp only
    | split

theorem State.takeCheckpoint_onward {o : State} {s : State} {cmd : Nat} {n : Nat} {j : Job} {text : Bytes} (h0 : Onward o s) : Onward o (State.takeCheckpoint s cmd n j text) := by
  unfold State.takeCheckpoint
  try dsimp only
  repeat' first
    | with_reducible assumption
    | with_reducible exact Onward.refl _
    | with_reducible apply State.finish_onward
    | with_reducible apply State.refuse_onward
    | with_reducible apply State.restoreJob_onward
    | with_reducible refine Onward.foldl _ (fun _ _ _ => ?_) _ _ ?_
    | with_reducible refine Onward.ite ?_ ?_
    | fail_if_no_progress (with_reducible apply Onward.same; iterate 11 (focus with_reducible rfl))
    | dsimp only
    | split

theorem execCheckpointRestore_onward {cmd : Nat} {host : Option Bytes} {s : State} : Ends s (execCheckpointRestore cmd host s) := by
  unfold execCheckpointRestore
  try dsimp only
  repeat' first
    | with_reducible assumption
    | with_reducible exact Onward.refl _
    | with_reducible apply Ends.onUnit
    | with_reducible apply Ends.whenDue
    | with_reducible apply Ends.next
    | with_reducible apply Joining.take_onward
    | with_reducible apply State.finish_onward
    | with_reducible apply State.readFor_onward
    | with_reducible apply State.refuse_onward
    | with_reducible apply State.takeCheckpoint_onward
    | with_reducible refine onCommand_onward (fun _ => ?_)
    | with_reducible refine Onward.foldl _ (fun _ _ _ => ?_) _ _ ?_
    | with_reducible refine Onward.ite ?_ ?_
    | fail_if_no_progress (with_reducible apply Onward.same; iterate 11 (focus with_reducible rfl))
    | dsimp only
    | split

theorem State.exhibit_onward {o : State} {s : State} {cmd : Nat} {c : Cmd} {j : Job} {m : Commission} {b : Bytes} {refused : Bool} (h0 : Onward o s) : Onward o (State.exhibit s cmd c j m b refused) := by
  unfold State.exhibit
  try dsimp only
  repeat' first
    | with_reducible assumption
    | with_reducible exact Onward.refl _
    | with_reducible apply State.drew_onward
    | with_reducible apply State.finish_onward
    | with_reducible apply State.refuse_onward
    | with_reducible apply State.sendHost_onward
    | with_reducible apply State.setLease_onward
    | with_reducible refine Onward.foldl _ (fun _ _ _ => ?_) _ _ ?_
    | with_reducible refine Onward.ite ?_ ?_
    | fail_if_no_progress (with_reducible apply Onward.same; iterate 11 (focus with_reducible rfl))
    | dsimp only
    | split

theorem execExhibitCommand_onward {cmd : Nat} {host : HostAnswer} {s : State} : Ends s (execExhibitCommand cmd host s) := by
  unfold execExhibitCommand
  try dsimp only
  repeat' first
    | with_reducible assumption
    | with_reducible exact Onward.refl _
    | with_reducible apply Ends.onUnit
    | with_reducible apply Ends.whenDue
    | with_reducible apply Ends.next
    | with_reducible apply Joining.take_onward
    | with_reducible apply State.exhibit_onward
    | with_reducible apply State.finish_onward
    | with_reducible apply State.readFor_onward
    | with_reducible apply State.refuse_onward
    | with_reducible refine onCommand_onward (fun _ => ?_)
    | with_reducible refine Onward.foldl _ (fun _ _ _ => ?_) _ _ ?_
    | with_reducible refine Onward.ite ?_ ?_
    | fail_if_no_progress (with_reducible apply Onward.same; iterate 11 (focus with_reducible rfl))
    | dsimp only
    | split

end Sys2Proof.Machine
end

