-- ==== Sys2Proof/Laws/OnVectorWords.lean ====
section
/-!
SUPPORT. That every operation of Machine/VectorWords.lean leads onward (Safety.lean).
-/
namespace Sys2Proof.Machine

set_option linter.unusedTactic false
set_option linter.unreachableTactic false

theorem execVectorNop_onward {core : Nat} {upset : Bool} {s : State} : Ends s (execVectorNop core upset s) := wordRow_onward

theorem execVectorLd_onward {core : Nat} {upset : Bool} {s : State} : Ends s (execVectorLd core upset s) := wordRow_onward

theorem execVectorSt_onward {core : Nat} {upset : Bool} {s : State} : Ends s (execVectorSt core upset s) := wordRow_onward

theorem execLdb_onward {core : Nat} {upset : Bool} {s : State} : Ends s (execLdb core upset s) := wordRow_onward

theorem execLds_onward {core : Nat} {upset : Bool} {s : State} : Ends s (execLds core upset s) := wordRow_onward

theorem execSts_onward {core : Nat} {upset : Bool} {s : State} : Ends s (execSts core upset s) := wordRow_onward

theorem execTreq_onward {core : Nat} {upset : Bool} {s : State} : Ends s (execTreq core upset s) := wordRow_onward

theorem execVectorAdd_onward {core : Nat} {upset : Bool} {s : State} : Ends s (execVectorAdd core upset s) := wordRow_onward

theorem execVectorSub_onward {core : Nat} {upset : Bool} {s : State} : Ends s (execVectorSub core upset s) := wordRow_onward

theorem execVectorMul_onward {core : Nat} {upset : Bool} {s : State} : Ends s (execVectorMul core upset s) := wordRow_onward

theorem execVectorFma_onward {core : Nat} {upset : Bool} {s : State} : Ends s (execVectorFma core upset s) := wordRow_onward

theorem execFnma_onward {core : Nat} {upset : Bool} {s : State} : Ends s (execFnma core upset s) := wordRow_onward

theorem execVectorMin_onward {core : Nat} {upset : Bool} {s : State} : Ends s (execVectorMin core upset s) := wordRow_onward

theorem execVectorMax_onward {core : Nat} {upset : Bool} {s : State} : Ends s (execVectorMax core upset s) := wordRow_onward

theorem execAbs_onward {core : Nat} {upset : Bool} {s : State} : Ends s (execAbs core upset s) := wordRow_onward

theorem execNeg_onward {core : Nat} {upset : Bool} {s : State} : Ends s (execNeg core upset s) := wordRow_onward

theorem execVectorMov_onward {core : Nat} {upset : Bool} {s : State} : Ends s (execVectorMov core upset s) := wordRow_onward

theorem execVectorCeq_onward {core : Nat} {upset : Bool} {s : State} : Ends s (execVectorCeq core upset s) := wordRow_onward

theorem execClt_onward {core : Nat} {upset : Bool} {s : State} : Ends s (execClt core upset s) := wordRow_onward

theorem execCle_onward {core : Nat} {upset : Bool} {s : State} : Ends s (execCle core upset s) := wordRow_onward

theorem execVectorSel_onward {core : Nat} {upset : Bool} {s : State} : Ends s (execVectorSel core upset s) := wordRow_onward

theorem execVectorAnd_onward {core : Nat} {upset : Bool} {s : State} : Ends s (execVectorAnd core upset s) := wordRow_onward

theorem execVectorOr_onward {core : Nat} {upset : Bool} {s : State} : Ends s (execVectorOr core upset s) := wordRow_onward

theorem execVectorXor_onward {core : Nat} {upset : Bool} {s : State} : Ends s (execVectorXor core upset s) := wordRow_onward

theorem execVectorShl_onward {core : Nat} {upset : Bool} {s : State} : Ends s (execVectorShl core upset s) := wordRow_onward

theorem execVectorShr_onward {core : Nat} {upset : Bool} {s : State} : Ends s (execVectorShr core upset s) := wordRow_onward

theorem execVectorAsr_onward {core : Nat} {upset : Bool} {s : State} : Ends s (execVectorAsr core upset s) := wordRow_onward

theorem execLdexp_onward {core : Nat} {upset : Bool} {s : State} : Ends s (execLdexp core upset s) := wordRow_onward

theorem execSgn_onward {core : Nat} {upset : Bool} {s : State} : Ends s (execSgn core upset s) := wordRow_onward

theorem execPadd_onward {core : Nat} {upset : Bool} {s : State} : Ends s (execPadd core upset s) := wordRow_onward

theorem execPsub_onward {core : Nat} {upset : Bool} {s : State} : Ends s (execPsub core upset s) := wordRow_onward

theorem execPmul_onward {core : Nat} {upset : Bool} {s : State} : Ends s (execPmul core upset s) := wordRow_onward

theorem execPfma_onward {core : Nat} {upset : Bool} {s : State} : Ends s (execPfma core upset s) := wordRow_onward

theorem execPmin_onward {core : Nat} {upset : Bool} {s : State} : Ends s (execPmin core upset s) := wordRow_onward

theorem execPmax_onward {core : Nat} {upset : Bool} {s : State} : Ends s (execPmax core upset s) := wordRow_onward

theorem execCvt_onward {core : Nat} {upset : Bool} {s : State} : Ends s (execCvt core upset s) := wordRow_onward

theorem execCvt32_onward {core : Nat} {upset : Bool} {s : State} : Ends s (execCvt32 core upset s) := wordRow_onward

theorem execCvt16_onward {core : Nat} {upset : Bool} {s : State} : Ends s (execCvt16 core upset s) := wordRow_onward

theorem execScl_onward {core : Nat} {upset : Bool} {s : State} : Ends s (execScl core upset s) := wordRow_onward

theorem execRsum_onward {core : Nat} {upset : Bool} {s : State} : Ends s (execRsum core upset s) := wordRow_onward

theorem execRmax_onward {core : Nat} {upset : Bool} {s : State} : Ends s (execRmax core upset s) := wordRow_onward

theorem execRmin_onward {core : Nat} {upset : Bool} {s : State} : Ends s (execRmin core upset s) := wordRow_onward

theorem execRamax_onward {core : Nat} {upset : Bool} {s : State} : Ends s (execRamax core upset s) := wordRow_onward

theorem execRssq_onward {core : Nat} {upset : Bool} {s : State} : Ends s (execRssq core upset s) := wordRow_onward

theorem execCsum_onward {core : Nat} {upset : Bool} {s : State} : Ends s (execCsum core upset s) := wordRow_onward

theorem execCmax_onward {core : Nat} {upset : Bool} {s : State} : Ends s (execCmax core upset s) := wordRow_onward

theorem execCmin_onward {core : Nat} {upset : Bool} {s : State} : Ends s (execCmin core upset s) := wordRow_onward

theorem execCamax_onward {core : Nat} {upset : Bool} {s : State} : Ends s (execCamax core upset s) := wordRow_onward

theorem execCssq_onward {core : Nat} {upset : Bool} {s : State} : Ends s (execCssq core upset s) := wordRow_onward

theorem execTrn_onward {core : Nat} {upset : Bool} {s : State} : Ends s (execTrn core upset s) := wordRow_onward

theorem execExp_onward {core : Nat} {upset : Bool} {s : State} : Ends s (execExp core upset s) := wordRow_onward

theorem execLog_onward {core : Nat} {upset : Bool} {s : State} : Ends s (execLog core upset s) := wordRow_onward

theorem execRsqrt_onward {core : Nat} {upset : Bool} {s : State} : Ends s (execRsqrt core upset s) := wordRow_onward

theorem execSin_onward {core : Nat} {upset : Bool} {s : State} : Ends s (execSin core upset s) := wordRow_onward

theorem execCos_onward {core : Nat} {upset : Bool} {s : State} : Ends s (execCos core upset s) := wordRow_onward

theorem execRcp_onward {core : Nat} {upset : Bool} {s : State} : Ends s (execRcp core upset s) := wordRow_onward

theorem execHad_onward {core : Nat} {upset : Bool} {s : State} : Ends s (execHad core upset s) := wordRow_onward

theorem execHadf_onward {core : Nat} {upset : Bool} {s : State} : Ends s (execHadf core upset s) := wordRow_onward

theorem execHadl_onward {core : Nat} {upset : Bool} {s : State} : Ends s (execHadl core upset s) := wordRow_onward

end Sys2Proof.Machine
end

