-- ==== Sys2Proof/Laws/State.lean ====
section
/-!
SUPPORT. What each named update of a state leaves alone, field by field, and what each accessor reads after each update.
-/
namespace Sys2Proof.Machine

/-! ### setCore -/

section
variable (s : State) (n : Nat) (c : Core)
@[simp] theorem State.setCore_pending : (s.setCore n c).pending = s.pending := rfl
@[simp] theorem State.setCore_time : (s.setCore n c).time = s.time := rfl
@[simp] theorem State.setCore_drawn : (s.setCore n c).drawn = s.drawn := rfl
@[simp] theorem State.setCore_freed : (s.setCore n c).freed = s.freed := rfl
@[simp] theorem State.setCore_power : (s.setCore n c).power = s.power := rfl
@[simp] theorem State.setCore_mstate : (s.setCore n c).mstate = s.mstate := rfl
@[simp] theorem State.setCore_phase : (s.setCore n c).phase = s.phase := rfl
@[simp] theorem State.setCore_training : (s.setCore n c).training = s.training := rfl
@[simp] theorem State.setCore_fcode : (s.setCore n c).fcode = s.fcode := rfl
@[simp] theorem State.setCore_tamperFuse : (s.setCore n c).tamperFuse = s.tamperFuse := rfl
@[simp] theorem State.setCore_tamperCount : (s.setCore n c).tamperCount = s.tamperCount := rfl
@[simp] theorem State.setCore_debugCount : (s.setCore n c).debugCount = s.debugCount := rfl
@[simp] theorem State.setCore_nonce : (s.setCore n c).nonce = s.nonce := rfl
@[simp] theorem State.setCore_unwrapped : (s.setCore n c).unwrapped = s.unwrapped := rfl
@[simp] theorem State.setCore_inForce : (s.setCore n c).inForce = s.inForce := rfl
@[simp] theorem State.setCore_installation : (s.setCore n c).installation = s.installation := rfl
@[simp] theorem State.setCore_bankFails : (s.setCore n c).bankFails = s.bankFails := rfl
@[simp] theorem State.setCore_flashA : (s.setCore n c).flashA = s.flashA := rfl
@[simp] theorem State.setCore_flashB : (s.setCore n c).flashB = s.flashB := rfl
@[simp] theorem State.setCore_flashBroken : (s.setCore n c).flashBroken = s.flashBroken := rfl
@[simp] theorem State.setCore_testPort : (s.setCore n c).testPort = s.testPort := rfl
@[simp] theorem State.setCore_sideband : (s.setCore n c).sideband = s.sideband := rfl
@[simp] theorem State.setCore_mesh : (s.setCore n c).mesh = s.mesh := rfl
@[simp] theorem State.setCore_outcomes : (s.setCore n c).outcomes = s.outcomes := rfl
@[simp] theorem State.setCore_gathers : (s.setCore n c).gathers = s.gathers := rfl
@[simp] theorem State.setCore_scatters : (s.setCore n c).scatters = s.scatters := rfl
@[simp] theorem State.setCore_reservoir : (s.setCore n c).reservoir = s.reservoir := rfl
@[simp] theorem State.setCore_poison : (s.setCore n c).poison = s.poison := rfl
@[simp] theorem State.setCore_gddr : (s.setCore n c).gddr = s.gddr := rfl
@[simp] theorem State.setCore_roots : (s.setCore n c).roots = s.roots := rfl
@[simp] theorem State.setCore_counters : (s.setCore n c).counters = s.counters := rfl
@[simp] theorem State.setCore_channels : (s.setCore n c).channels = s.channels := rfl
@[simp] theorem State.setCore_tags : (s.setCore n c).tags = s.tags := rfl
@[simp] theorem State.setCore_tagWaits : (s.setCore n c).tagWaits = s.tagWaits := rfl
@[simp] theorem State.setCore_dmaTurn : (s.setCore n c).dmaTurn = s.dmaTurn := rfl
@[simp] theorem State.setCore_dmaLast : (s.setCore n c).dmaLast = s.dmaLast := rfl
@[simp] theorem State.setCore_dmas : (s.setCore n c).dmas = s.dmas := rfl
@[simp] theorem State.setCore_pcie : (s.setCore n c).pcie = s.pcie := rfl
@[simp] theorem State.setCore_functions : (s.setCore n c).functions = s.functions := rfl
@[simp] theorem State.setCore_recovery : (s.setCore n c).recovery = s.recovery := rfl
@[simp] theorem State.setCore_translations : (s.setCore n c).translations = s.translations := rfl
@[simp] theorem State.setCore_hostOut : (s.setCore n c).hostOut = s.hostOut := rfl
@[simp] theorem State.setCore_ateliers : (s.setCore n c).ateliers = s.ateliers := rfl
@[simp] theorem State.setCore_leases : (s.setCore n c).leases = s.leases := rfl
@[simp] theorem State.setCore_leaseSerial : (s.setCore n c).leaseSerial = s.leaseSerial := rfl
@[simp] theorem State.setCore_contexts : (s.setCore n c).contexts = s.contexts := rfl
@[simp] theorem State.setCore_queues : (s.setCore n c).queues = s.queues := rfl
@[simp] theorem State.setCore_mobjs : (s.setCore n c).mobjs = s.mobjs := rfl
@[simp] theorem State.setCore_fences : (s.setCore n c).fences = s.fences := rfl
@[simp] theorem State.setCore_images : (s.setCore n c).images = s.images := rfl
@[simp] theorem State.setCore_colls : (s.setCore n c).colls = s.colls := rfl
@[simp] theorem State.setCore_jobs : (s.setCore n c).jobs = s.jobs := rfl
@[simp] theorem State.setCore_commands : (s.setCore n c).commands = s.commands := rfl
@[simp] theorem State.setCore_nextSerial : (s.setCore n c).nextSerial = s.nextSerial := rfl
@[simp] theorem State.setCore_signals : (s.setCore n c).signals = s.signals := rfl
@[simp] theorem State.setCore_collectives : (s.setCore n c).collectives = s.collectives := rfl
@[simp] theorem State.setCore_reductions : (s.setCore n c).reductions = s.reductions := rfl
@[simp] theorem State.setCore_decants : (s.setCore n c).decants = s.decants := rfl
@[simp] theorem State.setCore_reservations : (s.setCore n c).reservations = s.reservations := rfl
@[simp] theorem State.setCore_panels : (s.setCore n c).panels = s.panels := rfl
@[simp] theorem State.setCore_flacon : (s.setCore n c).flacon = s.flacon := rfl
@[simp] theorem State.setCore_serving : (s.setCore n c).serving = s.serving := rfl
@[simp] theorem State.setCore_opened : (s.setCore n c).opened = s.opened := rfl
@[simp] theorem State.setCore_ports : (s.setCore n c).ports = s.ports := rfl
@[simp] theorem State.setCore_sessions : (s.setCore n c).sessions = s.sessions := rfl
@[simp] theorem State.setCore_erasedLeases : (s.setCore n c).erasedLeases = s.erasedLeases := rfl
@[simp] theorem State.setCore_leaseDrops : (s.setCore n c).leaseDrops = s.leaseDrops := rfl
@[simp] theorem State.setCore_blotter : (s.setCore n c).blotter = s.blotter := rfl
@[simp] theorem State.setCore_atelier (m : Nat) : (s.setCore n c).atelier m = s.atelier m := rfl
@[simp] theorem State.setCore_lease (m : Nat) : (s.setCore n c).lease m = s.lease m := rfl
@[simp] theorem State.setCore_panel (m : Nat) : (s.setCore n c).panel m = s.panel m := rfl
@[simp] theorem State.setCore_channel (m : Nat) : (s.setCore n c).channel m = s.channel m := rfl
@[simp] theorem State.setCore_port (m : Nat) : (s.setCore n c).port m = s.port m := rfl
@[simp] theorem State.setCore_session (m : Nat) : (s.setCore n c).session m = s.session m := rfl
@[simp] theorem State.setCore_pciePort (m : Nat) : (s.setCore n c).pciePort m = s.pciePort m := rfl
@[simp] theorem State.setCore_root (m : Nat) : (s.setCore n c).root m = s.root m := rfl
@[simp] theorem State.setCore_reduction (m : Nat) : (s.setCore n c).reduction m = s.reduction m := rfl
@[simp] theorem State.setCore_function (m k : Nat) : (s.setCore n c).function m k = s.function m k := rfl
@[simp] theorem State.setCore_counter (m k : Nat) : (s.setCore n c).counter m k = s.counter m k := rfl
@[simp] theorem State.setCore_core (m : Nat) : (s.setCore n c).core m = if m = n then c else s.core m := by
  simp only [State.core, State.setCore, SMap.get_set]
end

/-! ### setAtelier -/

section
variable (s : State) (n : Nat) (c : AtelierState)
@[simp] theorem State.setAtelier_pending : (s.setAtelier n c).pending = s.pending := rfl
@[simp] theorem State.setAtelier_time : (s.setAtelier n c).time = s.time := rfl
@[simp] theorem State.setAtelier_drawn : (s.setAtelier n c).drawn = s.drawn := rfl
@[simp] theorem State.setAtelier_freed : (s.setAtelier n c).freed = s.freed := rfl
@[simp] theorem State.setAtelier_power : (s.setAtelier n c).power = s.power := rfl
@[simp] theorem State.setAtelier_mstate : (s.setAtelier n c).mstate = s.mstate := rfl
@[simp] theorem State.setAtelier_phase : (s.setAtelier n c).phase = s.phase := rfl
@[simp] theorem State.setAtelier_training : (s.setAtelier n c).training = s.training := rfl
@[simp] theorem State.setAtelier_fcode : (s.setAtelier n c).fcode = s.fcode := rfl
@[simp] theorem State.setAtelier_tamperFuse : (s.setAtelier n c).tamperFuse = s.tamperFuse := rfl
@[simp] theorem State.setAtelier_tamperCount : (s.setAtelier n c).tamperCount = s.tamperCount := rfl
@[simp] theorem State.setAtelier_debugCount : (s.setAtelier n c).debugCount = s.debugCount := rfl
@[simp] theorem State.setAtelier_nonce : (s.setAtelier n c).nonce = s.nonce := rfl
@[simp] theorem State.setAtelier_unwrapped : (s.setAtelier n c).unwrapped = s.unwrapped := rfl
@[simp] theorem State.setAtelier_inForce : (s.setAtelier n c).inForce = s.inForce := rfl
@[simp] theorem State.setAtelier_installation : (s.setAtelier n c).installation = s.installation := rfl
@[simp] theorem State.setAtelier_bankFails : (s.setAtelier n c).bankFails = s.bankFails := rfl
@[simp] theorem State.setAtelier_flashA : (s.setAtelier n c).flashA = s.flashA := rfl
@[simp] theorem State.setAtelier_flashB : (s.setAtelier n c).flashB = s.flashB := rfl
@[simp] theorem State.setAtelier_flashBroken : (s.setAtelier n c).flashBroken = s.flashBroken := rfl
@[simp] theorem State.setAtelier_testPort : (s.setAtelier n c).testPort = s.testPort := rfl
@[simp] theorem State.setAtelier_sideband : (s.setAtelier n c).sideband = s.sideband := rfl
@[simp] theorem State.setAtelier_cores : (s.setAtelier n c).cores = s.cores := rfl
@[simp] theorem State.setAtelier_mesh : (s.setAtelier n c).mesh = s.mesh := rfl
@[simp] theorem State.setAtelier_outcomes : (s.setAtelier n c).outcomes = s.outcomes := rfl
@[simp] theorem State.setAtelier_gathers : (s.setAtelier n c).gathers = s.gathers := rfl
@[simp] theorem State.setAtelier_scatters : (s.setAtelier n c).scatters = s.scatters := rfl
@[simp] theorem State.setAtelier_reservoir : (s.setAtelier n c).reservoir = s.reservoir := rfl
@[simp] theorem State.setAtelier_poison : (s.setAtelier n c).poison = s.poison := rfl
@[simp] theorem State.setAtelier_gddr : (s.setAtelier n c).gddr = s.gddr := rfl
@[simp] theorem State.setAtelier_roots : (s.setAtelier n c).roots = s.roots := rfl
@[simp] theorem State.setAtelier_counters : (s.setAtelier n c).counters = s.counters := rfl
@[simp] theorem State.setAtelier_channels : (s.setAtelier n c).channels = s.channels := rfl
@[simp] theorem State.setAtelier_tags : (s.setAtelier n c).tags = s.tags := rfl
@[simp] theorem State.setAtelier_tagWaits : (s.setAtelier n c).tagWaits = s.tagWaits := rfl
@[simp] theorem State.setAtelier_dmaTurn : (s.setAtelier n c).dmaTurn = s.dmaTurn := rfl
@[simp] theorem State.setAtelier_dmaLast : (s.setAtelier n c).dmaLast = s.dmaLast := rfl
@[simp] theorem State.setAtelier_dmas : (s.setAtelier n c).dmas = s.dmas := rfl
@[simp] theorem State.setAtelier_pcie : (s.setAtelier n c).pcie = s.pcie := rfl
@[simp] theorem State.setAtelier_functions : (s.setAtelier n c).functions = s.functions := rfl
@[simp] theorem State.setAtelier_recovery : (s.setAtelier n c).recovery = s.recovery := rfl
@[simp] theorem State.setAtelier_translations : (s.setAtelier n c).translations = s.translations := rfl
@[simp] theorem State.setAtelier_hostOut : (s.setAtelier n c).hostOut = s.hostOut := rfl
@[simp] theorem State.setAtelier_leases : (s.setAtelier n c).leases = s.leases := rfl
@[simp] theorem State.setAtelier_leaseSerial : (s.setAtelier n c).leaseSerial = s.leaseSerial := rfl
@[simp] theorem State.setAtelier_contexts : (s.setAtelier n c).contexts = s.contexts := rfl
@[simp] theorem State.setAtelier_queues : (s.setAtelier n c).queues = s.queues := rfl
@[simp] theorem State.setAtelier_mobjs : (s.setAtelier n c).mobjs = s.mobjs := rfl
@[simp] theorem State.setAtelier_fences : (s.setAtelier n c).fences = s.fences := rfl
@[simp] theorem State.setAtelier_images : (s.setAtelier n c).images = s.images := rfl
@[simp] theorem State.setAtelier_colls : (s.setAtelier n c).colls = s.colls := rfl
@[simp] theorem State.setAtelier_jobs : (s.setAtelier n c).jobs = s.jobs := rfl
@[simp] theorem State.setAtelier_commands : (s.setAtelier n c).commands = s.commands := rfl
@[simp] theorem State.setAtelier_nextSerial : (s.setAtelier n c).nextSerial = s.nextSerial := rfl
@[simp] theorem State.setAtelier_signals : (s.setAtelier n c).signals = s.signals := rfl
@[simp] theorem State.setAtelier_collectives : (s.setAtelier n c).collectives = s.collectives := rfl
@[simp] theorem State.setAtelier_reductions : (s.setAtelier n c).reductions = s.reductions := rfl
@[simp] theorem State.setAtelier_decants : (s.setAtelier n c).decants = s.decants := rfl
@[simp] theorem State.setAtelier_reservations : (s.setAtelier n c).reservations = s.reservations := rfl
@[simp] theorem State.setAtelier_panels : (s.setAtelier n c).panels = s.panels := rfl
@[simp] theorem State.setAtelier_flacon : (s.setAtelier n c).flacon = s.flacon := rfl
@[simp] theorem State.setAtelier_serving : (s.setAtelier n c).serving = s.serving := rfl
@[simp] theorem State.setAtelier_opened : (s.setAtelier n c).opened = s.opened := rfl
@[simp] theorem State.setAtelier_ports : (s.setAtelier n c).ports = s.ports := rfl
@[simp] theorem State.setAtelier_sessions : (s.setAtelier n c).sessions = s.sessions := rfl
@[simp] theorem State.setAtelier_erasedLeases : (s.setAtelier n c).erasedLeases = s.erasedLeases := rfl
@[simp] theorem State.setAtelier_leaseDrops : (s.setAtelier n c).leaseDrops = s.leaseDrops := rfl
@[simp] theorem State.setAtelier_blotter : (s.setAtelier n c).blotter = s.blotter := rfl
@[simp] theorem State.setAtelier_core (m : Nat) : (s.setAtelier n c).core m = s.core m := rfl
@[simp] theorem State.setAtelier_lease (m : Nat) : (s.setAtelier n c).lease m = s.lease m := rfl
@[simp] theorem State.setAtelier_panel (m : Nat) : (s.setAtelier n c).panel m = s.panel m := rfl
@[simp] theorem State.setAtelier_channel (m : Nat) : (s.setAtelier n c).channel m = s.channel m := rfl
@[simp] theorem State.setAtelier_port (m : Nat) : (s.setAtelier n c).port m = s.port m := rfl
@[simp] theorem State.setAtelier_session (m : Nat) : (s.setAtelier n c).session m = s.session m := rfl
@[simp] theorem State.setAtelier_pciePort (m : Nat) : (s.setAtelier n c).pciePort m = s.pciePort m := rfl
@[simp] theorem State.setAtelier_root (m : Nat) : (s.setAtelier n c).root m = s.root m := rfl
@[simp] theorem State.setAtelier_reduction (m : Nat) : (s.setAtelier n c).reduction m = s.reduction m := rfl
@[simp] theorem State.setAtelier_function (m k : Nat) : (s.setAtelier n c).function m k = s.function m k := rfl
@[simp] theorem State.setAtelier_counter (m k : Nat) : (s.setAtelier n c).counter m k = s.counter m k := rfl
@[simp] theorem State.setAtelier_atelier (m : Nat) : (s.setAtelier n c).atelier m = if m = n then c else s.atelier m := by
  simp only [State.atelier, State.setAtelier, SMap.get_set]
end

/-! ### setLease -/

section
variable (s : State) (n : Nat) (c : Lease)
@[simp] theorem State.setLease_pending : (s.setLease n c).pending = s.pending := rfl
@[simp] theorem State.setLease_time : (s.setLease n c).time = s.time := rfl
@[simp] theorem State.setLease_drawn : (s.setLease n c).drawn = s.drawn := rfl
@[simp] theorem State.setLease_freed : (s.setLease n c).freed = s.freed := rfl
@[simp] theorem State.setLease_power : (s.setLease n c).power = s.power := rfl
@[simp] theorem State.setLease_mstate : (s.setLease n c).mstate = s.mstate := rfl
@[simp] theorem State.setLease_phase : (s.setLease n c).phase = s.phase := rfl
@[simp] theorem State.setLease_training : (s.setLease n c).training = s.training := rfl
@[simp] theorem State.setLease_fcode : (s.setLease n c).fcode = s.fcode := rfl
@[simp] theorem State.setLease_tamperFuse : (s.setLease n c).tamperFuse = s.tamperFuse := rfl
@[simp] theorem State.setLease_tamperCount : (s.setLease n c).tamperCount = s.tamperCount := rfl
@[simp] theorem State.setLease_debugCount : (s.setLease n c).debugCount = s.debugCount := rfl
@[simp] theorem State.setLease_nonce : (s.setLease n c).nonce = s.nonce := rfl
@[simp] theorem State.setLease_unwrapped : (s.setLease n c).unwrapped = s.unwrapped := rfl
@[simp] theorem State.setLease_inForce : (s.setLease n c).inForce = s.inForce := rfl
@[simp] theorem State.setLease_installation : (s.setLease n c).installation = s.installation := rfl
@[simp] theorem State.setLease_bankFails : (s.setLease n c).bankFails = s.bankFails := rfl
@[simp] theorem State.setLease_flashA : (s.setLease n c).flashA = s.flashA := rfl
@[simp] theorem State.setLease_flashB : (s.setLease n c).flashB = s.flashB := rfl
@[simp] theorem State.setLease_flashBroken : (s.setLease n c).flashBroken = s.flashBroken := rfl
@[simp] theorem State.setLease_testPort : (s.setLease n c).testPort = s.testPort := rfl
@[simp] theorem State.setLease_sideband : (s.setLease n c).sideband = s.sideband := rfl
@[simp] theorem State.setLease_cores : (s.setLease n c).cores = s.cores := rfl
@[simp] theorem State.setLease_mesh : (s.setLease n c).mesh = s.mesh := rfl
@[simp] theorem State.setLease_outcomes : (s.setLease n c).outcomes = s.outcomes := rfl
@[simp] theorem State.setLease_gathers : (s.setLease n c).gathers = s.gathers := rfl
@[simp] theorem State.setLease_scatters : (s.setLease n c).scatters = s.scatters := rfl
@[simp] theorem State.setLease_reservoir : (s.setLease n c).reservoir = s.reservoir := rfl
@[simp] theorem State.setLease_poison : (s.setLease n c).poison = s.poison := rfl
@[simp] theorem State.setLease_gddr : (s.setLease n c).gddr = s.gddr := rfl
@[simp] theorem State.setLease_roots : (s.setLease n c).roots = s.roots := rfl
@[simp] theorem State.setLease_counters : (s.setLease n c).counters = s.counters := rfl
@[simp] theorem State.setLease_channels : (s.setLease n c).channels = s.channels := rfl
@[simp] theorem State.setLease_tags : (s.setLease n c).tags = s.tags := rfl
@[simp] theorem State.setLease_tagWaits : (s.setLease n c).tagWaits = s.tagWaits := rfl
@[simp] theorem State.setLease_dmaTurn : (s.setLease n c).dmaTurn = s.dmaTurn := rfl
@[simp] theorem State.setLease_dmaLast : (s.setLease n c).dmaLast = s.dmaLast := rfl
@[simp] theorem State.setLease_dmas : (s.setLease n c).dmas = s.dmas := rfl
@[simp] theorem State.setLease_pcie : (s.setLease n c).pcie = s.pcie := rfl
@[simp] theorem State.setLease_functions : (s.setLease n c).functions = s.functions := rfl
@[simp] theorem State.setLease_recovery : (s.setLease n c).recovery = s.recovery := rfl
@[simp] theorem State.setLease_translations : (s.setLease n c).translations = s.translations := rfl
@[simp] theorem State.setLease_hostOut : (s.setLease n c).hostOut = s.hostOut := rfl
@[simp] theorem State.setLease_ateliers : (s.setLease n c).ateliers = s.ateliers := rfl
@[simp] theorem State.setLease_leaseSerial : (s.setLease n c).leaseSerial = s.leaseSerial := rfl
@[simp] theorem State.setLease_contexts : (s.setLease n c).contexts = s.contexts := rfl
@[simp] theorem State.setLease_queues : (s.setLease n c).queues = s.queues := rfl
@[simp] theorem State.setLease_mobjs : (s.setLease n c).mobjs = s.mobjs := rfl
@[simp] theorem State.setLease_fences : (s.setLease n c).fences = s.fences := rfl
@[simp] theorem State.setLease_images : (s.setLease n c).images = s.images := rfl
@[simp] theorem State.setLease_colls : (s.setLease n c).colls = s.colls := rfl
@[simp] theorem State.setLease_jobs : (s.setLease n c).jobs = s.jobs := rfl
@[simp] theorem State.setLease_commands : (s.setLease n c).commands = s.commands := rfl
@[simp] theorem State.setLease_nextSerial : (s.setLease n c).nextSerial = s.nextSerial := rfl
@[simp] theorem State.setLease_signals : (s.setLease n c).signals = s.signals := rfl
@[simp] theorem State.setLease_collectives : (s.setLease n c).collectives = s.collectives := rfl
@[simp] theorem State.setLease_reductions : (s.setLease n c).reductions = s.reductions := rfl
@[simp] theorem State.setLease_decants : (s.setLease n c).decants = s.decants := rfl
@[simp] theorem State.setLease_reservations : (s.setLease n c).reservations = s.reservations := rfl
@[simp] theorem State.setLease_panels : (s.setLease n c).panels = s.panels := rfl
@[simp] theorem State.setLease_flacon : (s.setLease n c).flacon = s.flacon := rfl
@[simp] theorem State.setLease_serving : (s.setLease n c).serving = s.serving := rfl
@[simp] theorem State.setLease_opened : (s.setLease n c).opened = s.opened := rfl
@[simp] theorem State.setLease_ports : (s.setLease n c).ports = s.ports := rfl
@[simp] theorem State.setLease_sessions : (s.setLease n c).sessions = s.sessions := rfl
@[simp] theorem State.setLease_erasedLeases : (s.setLease n c).erasedLeases = s.erasedLeases := rfl
@[simp] theorem State.setLease_leaseDrops : (s.setLease n c).leaseDrops = s.leaseDrops := rfl
@[simp] theorem State.setLease_blotter : (s.setLease n c).blotter = s.blotter := rfl
@[simp] theorem State.setLease_core (m : Nat) : (s.setLease n c).core m = s.core m := rfl
@[simp] theorem State.setLease_atelier (m : Nat) : (s.setLease n c).atelier m = s.atelier m := rfl
@[simp] theorem State.setLease_panel (m : Nat) : (s.setLease n c).panel m = s.panel m := rfl
@[simp] theorem State.setLease_channel (m : Nat) : (s.setLease n c).channel m = s.channel m := rfl
@[simp] theorem State.setLease_port (m : Nat) : (s.setLease n c).port m = s.port m := rfl
@[simp] theorem State.setLease_session (m : Nat) : (s.setLease n c).session m = s.session m := rfl
@[simp] theorem State.setLease_pciePort (m : Nat) : (s.setLease n c).pciePort m = s.pciePort m := rfl
@[simp] theorem State.setLease_root (m : Nat) : (s.setLease n c).root m = s.root m := rfl
@[simp] theorem State.setLease_reduction (m : Nat) : (s.setLease n c).reduction m = s.reduction m := rfl
@[simp] theorem State.setLease_function (m k : Nat) : (s.setLease n c).function m k = s.function m k := rfl
@[simp] theorem State.setLease_counter (m k : Nat) : (s.setLease n c).counter m k = s.counter m k := rfl
@[simp] theorem State.setLease_lease (m : Nat) : (s.setLease n c).lease m = if m = n then c else s.lease m := by
  simp only [State.lease, State.setLease, SMap.get_set]
end

/-! ### setPanel -/

section
variable (s : State) (n : Nat) (c : Panel)
@[simp] theorem State.setPanel_pending : (s.setPanel n c).pending = s.pending := rfl
@[simp] theorem State.setPanel_time : (s.setPanel n c).time = s.time := rfl
@[simp] theorem State.setPanel_drawn : (s.setPanel n c).drawn = s.drawn := rfl
@[simp] theorem State.setPanel_freed : (s.setPanel n c).freed = s.freed := rfl
@[simp] theorem State.setPanel_power : (s.setPanel n c).power = s.power := rfl
@[simp] theorem State.setPanel_mstate : (s.setPanel n c).mstate = s.mstate := rfl
@[simp] theorem State.setPanel_phase : (s.setPanel n c).phase = s.phase := rfl
@[simp] theorem State.setPanel_training : (s.setPanel n c).training = s.training := rfl
@[simp] theorem State.setPanel_fcode : (s.setPanel n c).fcode = s.fcode := rfl
@[simp] theorem State.setPanel_tamperFuse : (s.setPanel n c).tamperFuse = s.tamperFuse := rfl
@[simp] theorem State.setPanel_tamperCount : (s.setPanel n c).tamperCount = s.tamperCount := rfl
@[simp] theorem State.setPanel_debugCount : (s.setPanel n c).debugCount = s.debugCount := rfl
@[simp] theorem State.setPanel_nonce : (s.setPanel n c).nonce = s.nonce := rfl
@[simp] theorem State.setPanel_unwrapped : (s.setPanel n c).unwrapped = s.unwrapped := rfl
@[simp] theorem State.setPanel_inForce : (s.setPanel n c).inForce = s.inForce := rfl
@[simp] theorem State.setPanel_installation : (s.setPanel n c).installation = s.installation := rfl
@[simp] theorem State.setPanel_bankFails : (s.setPanel n c).bankFails = s.bankFails := rfl
@[simp] theorem State.setPanel_flashA : (s.setPanel n c).flashA = s.flashA := rfl
@[simp] theorem State.setPanel_flashB : (s.setPanel n c).flashB = s.flashB := rfl
@[simp] theorem State.setPanel_flashBroken : (s.setPanel n c).flashBroken = s.flashBroken := rfl
@[simp] theorem State.setPanel_testPort : (s.setPanel n c).testPort = s.testPort := rfl
@[simp] theorem State.setPanel_sideband : (s.setPanel n c).sideband = s.sideband := rfl
@[simp] theorem State.setPanel_cores : (s.setPanel n c).cores = s.cores := rfl
@[simp] theorem State.setPanel_mesh : (s.setPanel n c).mesh = s.mesh := rfl
@[simp] theorem State.setPanel_outcomes : (s.setPanel n c).outcomes = s.outcomes := rfl
@[simp] theorem State.setPanel_gathers : (s.setPanel n c).gathers = s.gathers := rfl
@[simp] theorem State.setPanel_scatters : (s.setPanel n c).scatters = s.scatters := rfl
@[simp] theorem State.setPanel_reservoir : (s.setPanel n c).reservoir = s.reservoir := rfl
@[simp] theorem State.setPanel_poison : (s.setPanel n c).poison = s.poison := rfl
@[simp] theorem State.setPanel_gddr : (s.setPanel n c).gddr = s.gddr := rfl
@[simp] theorem State.setPanel_roots : (s.setPanel n c).roots = s.roots := rfl
@[simp] theorem State.setPanel_counters : (s.setPanel n c).counters = s.counters := rfl
@[simp] theorem State.setPanel_channels : (s.setPanel n c).channels = s.channels := rfl
@[simp] theorem State.setPanel_tags : (s.setPanel n c).tags = s.tags := rfl
@[simp] theorem State.setPanel_tagWaits : (s.setPanel n c).tagWaits = s.tagWaits := rfl
@[simp] theorem State.setPanel_dmaTurn : (s.setPanel n c).dmaTurn = s.dmaTurn := rfl
@[simp] theorem State.setPanel_dmaLast : (s.setPanel n c).dmaLast = s.dmaLast := rfl
@[simp] theorem State.setPanel_dmas : (s.setPanel n c).dmas = s.dmas := rfl
@[simp] theorem State.setPanel_pcie : (s.setPanel n c).pcie = s.pcie := rfl
@[simp] theorem State.setPanel_functions : (s.setPanel n c).functions = s.functions := rfl
@[simp] theorem State.setPanel_recovery : (s.setPanel n c).recovery = s.recovery := rfl
@[simp] theorem State.setPanel_translations : (s.setPanel n c).translations = s.translations := rfl
@[simp] theorem State.setPanel_hostOut : (s.setPanel n c).hostOut = s.hostOut := rfl
@[simp] theorem State.setPanel_ateliers : (s.setPanel n c).ateliers = s.ateliers := rfl
@[simp] theorem State.setPanel_leases : (s.setPanel n c).leases = s.leases := rfl
@[simp] theorem State.setPanel_leaseSerial : (s.setPanel n c).leaseSerial = s.leaseSerial := rfl
@[simp] theorem State.setPanel_contexts : (s.setPanel n c).contexts = s.contexts := rfl
@[simp] theorem State.setPanel_queues : (s.setPanel n c).queues = s.queues := rfl
@[simp] theorem State.setPanel_mobjs : (s.setPanel n c).mobjs = s.mobjs := rfl
@[simp] theorem State.setPanel_fences : (s.setPanel n c).fences = s.fences := rfl
@[simp] theorem State.setPanel_images : (s.setPanel n c).images = s.images := rfl
@[simp] theorem State.setPanel_colls : (s.setPanel n c).colls = s.colls := rfl
@[simp] theorem State.setPanel_jobs : (s.setPanel n c).jobs = s.jobs := rfl
@[simp] theorem State.setPanel_commands : (s.setPanel n c).commands = s.commands := rfl
@[simp] theorem State.setPanel_nextSerial : (s.setPanel n c).nextSerial = s.nextSerial := rfl
@[simp] theorem State.setPanel_signals : (s.setPanel n c).signals = s.signals := rfl
@[simp] theorem State.setPanel_collectives : (s.setPanel n c).collectives = s.collectives := rfl
@[simp] theorem State.setPanel_reductions : (s.setPanel n c).reductions = s.reductions := rfl
@[simp] theorem State.setPanel_decants : (s.setPanel n c).decants = s.decants := rfl
@[simp] theorem State.setPanel_reservations : (s.setPanel n c).reservations = s.reservations := rfl
@[simp] theorem State.setPanel_flacon : (s.setPanel n c).flacon = s.flacon := rfl
@[simp] theorem State.setPanel_serving : (s.setPanel n c).serving = s.serving := rfl
@[simp] theorem State.setPanel_opened : (s.setPanel n c).opened = s.opened := rfl
@[simp] theorem State.setPanel_ports : (s.setPanel n c).ports = s.ports := rfl
@[simp] theorem State.setPanel_sessions : (s.setPanel n c).sessions = s.sessions := rfl
@[simp] theorem State.setPanel_erasedLeases : (s.setPanel n c).erasedLeases = s.erasedLeases := rfl
@[simp] theorem State.setPanel_leaseDrops : (s.setPanel n c).leaseDrops = s.leaseDrops := rfl
@[simp] theorem State.setPanel_blotter : (s.setPanel n c).blotter = s.blotter := rfl
@[simp] theorem State.setPanel_core (m : Nat) : (s.setPanel n c).core m = s.core m := rfl
@[simp] theorem State.setPanel_atelier (m : Nat) : (s.setPanel n c).atelier m = s.atelier m := rfl
@[simp] theorem State.setPanel_lease (m : Nat) : (s.setPanel n c).lease m = s.lease m := rfl
@[simp] theorem State.setPanel_channel (m : Nat) : (s.setPanel n c).channel m = s.channel m := rfl
@[simp] theorem State.setPanel_port (m : Nat) : (s.setPanel n c).port m = s.port m := rfl
@[simp] theorem State.setPanel_session (m : Nat) : (s.setPanel n c).session m = s.session m := rfl
@[simp] theorem State.setPanel_pciePort (m : Nat) : (s.setPanel n c).pciePort m = s.pciePort m := rfl
@[simp] theorem State.setPanel_root (m : Nat) : (s.setPanel n c).root m = s.root m := rfl
@[simp] theorem State.setPanel_reduction (m : Nat) : (s.setPanel n c).reduction m = s.reduction m := rfl
@[simp] theorem State.setPanel_function (m k : Nat) : (s.setPanel n c).function m k = s.function m k := rfl
@[simp] theorem State.setPanel_counter (m k : Nat) : (s.setPanel n c).counter m k = s.counter m k := rfl
@[simp] theorem State.setPanel_panel (m : Nat) : (s.setPanel n c).panel m = if m = n then c else s.panel m := by
  simp only [State.panel, State.setPanel, SMap.get_set]
end

/-! ### setChannel -/

section
variable (s : State) (n : Nat) (c : Channel)
@[simp] theorem State.setChannel_pending : (s.setChannel n c).pending = s.pending := rfl
@[simp] theorem State.setChannel_time : (s.setChannel n c).time = s.time := rfl
@[simp] theorem State.setChannel_drawn : (s.setChannel n c).drawn = s.drawn := rfl
@[simp] theorem State.setChannel_freed : (s.setChannel n c).freed = s.freed := rfl
@[simp] theorem State.setChannel_power : (s.setChannel n c).power = s.power := rfl
@[simp] theorem State.setChannel_mstate : (s.setChannel n c).mstate = s.mstate := rfl
@[simp] theorem State.setChannel_phase : (s.setChannel n c).phase = s.phase := rfl
@[simp] theorem State.setChannel_training : (s.setChannel n c).training = s.training := rfl
@[simp] theorem State.setChannel_fcode : (s.setChannel n c).fcode = s.fcode := rfl
@[simp] theorem State.setChannel_tamperFuse : (s.setChannel n c).tamperFuse = s.tamperFuse := rfl
@[simp] theorem State.setChannel_tamperCount : (s.setChannel n c).tamperCount = s.tamperCount := rfl
@[simp] theorem State.setChannel_debugCount : (s.setChannel n c).debugCount = s.debugCount := rfl
@[simp] theorem State.setChannel_nonce : (s.setChannel n c).nonce = s.nonce := rfl
@[simp] theorem State.setChannel_unwrapped : (s.setChannel n c).unwrapped = s.unwrapped := rfl
@[simp] theorem State.setChannel_inForce : (s.setChannel n c).inForce = s.inForce := rfl
@[simp] theorem State.setChannel_installation : (s.setChannel n c).installation = s.installation := rfl
@[simp] theorem State.setChannel_bankFails : (s.setChannel n c).bankFails = s.bankFails := rfl
@[simp] theorem State.setChannel_flashA : (s.setChannel n c).flashA = s.flashA := rfl
@[simp] theorem State.setChannel_flashB : (s.setChannel n c).flashB = s.flashB := rfl
@[simp] theorem State.setChannel_flashBroken : (s.setChannel n c).flashBroken = s.flashBroken := rfl
@[simp] theorem State.setChannel_testPort : (s.setChannel n c).testPort = s.testPort := rfl
@[simp] theorem State.setChannel_sideband : (s.setChannel n c).sideband = s.sideband := rfl
@[simp] theorem State.setChannel_cores : (s.setChannel n c).cores = s.cores := rfl
@[simp] theorem State.setChannel_mesh : (s.setChannel n c).mesh = s.mesh := rfl
@[simp] theorem State.setChannel_outcomes : (s.setChannel n c).outcomes = s.outcomes := rfl
@[simp] theorem State.setChannel_gathers : (s.setChannel n c).gathers = s.gathers := rfl
@[simp] theorem State.setChannel_scatters : (s.setChannel n c).scatters = s.scatters := rfl
@[simp] theorem State.setChannel_reservoir : (s.setChannel n c).reservoir = s.reservoir := rfl
@[simp] theorem State.setChannel_poison : (s.setChannel n c).poison = s.poison := rfl
@[simp] theorem State.setChannel_gddr : (s.setChannel n c).gddr = s.gddr := rfl
@[simp] theorem State.setChannel_roots : (s.setChannel n c).roots = s.roots := rfl
@[simp] theorem State.setChannel_counters : (s.setChannel n c).counters = s.counters := rfl
@[simp] theorem State.setChannel_tags : (s.setChannel n c).tags = s.tags := rfl
@[simp] theorem State.setChannel_tagWaits : (s.setChannel n c).tagWaits = s.tagWaits := rfl
@[simp] theorem State.setChannel_dmaTurn : (s.setChannel n c).dmaTurn = s.dmaTurn := rfl
@[simp] theorem State.setChannel_dmaLast : (s.setChannel n c).dmaLast = s.dmaLast := rfl
@[simp] theorem State.setChannel_dmas : (s.setChannel n c).dmas = s.dmas := rfl
@[simp] theorem State.setChannel_pcie : (s.setChannel n c).pcie = s.pcie := rfl
@[simp] theorem State.setChannel_functions : (s.setChannel n c).functions = s.functions := rfl
@[simp] theorem State.setChannel_recovery : (s.setChannel n c).recovery = s.recovery := rfl
@[simp] theorem State.setChannel_translations : (s.setChannel n c).translations = s.translations := rfl
@[simp] theorem State.setChannel_hostOut : (s.setChannel n c).hostOut = s.hostOut := rfl
@[simp] theorem State.setChannel_ateliers : (s.setChannel n c).ateliers = s.ateliers := rfl
@[simp] theorem State.setChannel_leases : (s.setChannel n c).leases = s.leases := rfl
@[simp] theorem State.setChannel_leaseSerial : (s.setChannel n c).leaseSerial = s.leaseSerial := rfl
@[simp] theorem State.setChannel_contexts : (s.setChannel n c).contexts = s.contexts := rfl
@[simp] theorem State.setChannel_queues : (s.setChannel n c).queues = s.queues := rfl
@[simp] theorem State.setChannel_mobjs : (s.setChannel n c).mobjs = s.mobjs := rfl
@[simp] theorem State.setChannel_fences : (s.setChannel n c).fences = s.fences := rfl
@[simp] theorem State.setChannel_images : (s.setChannel n c).images = s.images := rfl
@[simp] theorem State.setChannel_colls : (s.setChannel n c).colls = s.colls := rfl
@[simp] theorem State.setChannel_jobs : (s.setChannel n c).jobs = s.jobs := rfl
@[simp] theorem State.setChannel_commands : (s.setChannel n c).commands = s.commands := rfl
@[simp] theorem State.setChannel_nextSerial : (s.setChannel n c).nextSerial = s.nextSerial := rfl
@[simp] theorem State.setChannel_signals : (s.setChannel n c).signals = s.signals := rfl
@[simp] theorem State.setChannel_collectives : (s.setChannel n c).collectives = s.collectives := rfl
@[simp] theorem State.setChannel_reductions : (s.setChannel n c).reductions = s.reductions := rfl
@[simp] theorem State.setChannel_decants : (s.setChannel n c).decants = s.decants := rfl
@[simp] theorem State.setChannel_reservations : (s.setChannel n c).reservations = s.reservations := rfl
@[simp] theorem State.setChannel_panels : (s.setChannel n c).panels = s.panels := rfl
@[simp] theorem State.setChannel_flacon : (s.setChannel n c).flacon = s.flacon := rfl
@[simp] theorem State.setChannel_serving : (s.setChannel n c).serving = s.serving := rfl
@[simp] theorem State.setChannel_opened : (s.setChannel n c).opened = s.opened := rfl
@[simp] theorem State.setChannel_ports : (s.setChannel n c).ports = s.ports := rfl
@[simp] theorem State.setChannel_sessions : (s.setChannel n c).sessions = s.sessions := rfl
@[simp] theorem State.setChannel_erasedLeases : (s.setChannel n c).erasedLeases = s.erasedLeases := rfl
@[simp] theorem State.setChannel_leaseDrops : (s.setChannel n c).leaseDrops = s.leaseDrops := rfl
@[simp] theorem State.setChannel_blotter : (s.setChannel n c).blotter = s.blotter := rfl
@[simp] theorem State.setChannel_core (m : Nat) : (s.setChannel n c).core m = s.core m := rfl
@[simp] theorem State.setChannel_atelier (m : Nat) : (s.setChannel n c).atelier m = s.atelier m := rfl
@[simp] theorem State.setChannel_lease (m : Nat) : (s.setChannel n c).lease m = s.lease m := rfl
@[simp] theorem State.setChannel_panel (m : Nat) : (s.setChannel n c).panel m = s.panel m := rfl
@[simp] theorem State.setChannel_port (m : Nat) : (s.setChannel n c).port m = s.port m := rfl
@[simp] theorem State.setChannel_session (m : Nat) : (s.setChannel n c).session m = s.session m := rfl
@[simp] theorem State.setChannel_pciePort (m : Nat) : (s.setChannel n c).pciePort m = s.pciePort m := rfl
@[simp] theorem State.setChannel_root (m : Nat) : (s.setChannel n c).root m = s.root m := rfl
@[simp] theorem State.setChannel_reduction (m : Nat) : (s.setChannel n c).reduction m = s.reduction m := rfl
@[simp] theorem State.setChannel_function (m k : Nat) : (s.setChannel n c).function m k = s.function m k := rfl
@[simp] theorem State.setChannel_counter (m k : Nat) : (s.setChannel n c).counter m k = s.counter m k := rfl
@[simp] theorem State.setChannel_channel (m : Nat) : (s.setChannel n c).channel m = if m = n then c else s.channel m := by
  simp only [State.channel, State.setChannel, SMap.get_set]
end

/-! ### setPort -/

section
variable (s : State) (n : Nat) (c : DarvalPort)
@[simp] theorem State.setPort_pending : (s.setPort n c).pending = s.pending := rfl
@[simp] theorem State.setPort_time : (s.setPort n c).time = s.time := rfl
@[simp] theorem State.setPort_drawn : (s.setPort n c).drawn = s.drawn := rfl
@[simp] theorem State.setPort_freed : (s.setPort n c).freed = s.freed := rfl
@[simp] theorem State.setPort_power : (s.setPort n c).power = s.power := rfl
@[simp] theorem State.setPort_mstate : (s.setPort n c).mstate = s.mstate := rfl
@[simp] theorem State.setPort_phase : (s.setPort n c).phase = s.phase := rfl
@[simp] theorem State.setPort_training : (s.setPort n c).training = s.training := rfl
@[simp] theorem State.setPort_fcode : (s.setPort n c).fcode = s.fcode := rfl
@[simp] theorem State.setPort_tamperFuse : (s.setPort n c).tamperFuse = s.tamperFuse := rfl
@[simp] theorem State.setPort_tamperCount : (s.setPort n c).tamperCount = s.tamperCount := rfl
@[simp] theorem State.setPort_debugCount : (s.setPort n c).debugCount = s.debugCount := rfl
@[simp] theorem State.setPort_nonce : (s.setPort n c).nonce = s.nonce := rfl
@[simp] theorem State.setPort_unwrapped : (s.setPort n c).unwrapped = s.unwrapped := rfl
@[simp] theorem State.setPort_inForce : (s.setPort n c).inForce = s.inForce := rfl
@[simp] theorem State.setPort_installation : (s.setPort n c).installation = s.installation := rfl
@[simp] theorem State.setPort_bankFails : (s.setPort n c).bankFails = s.bankFails := rfl
@[simp] theorem State.setPort_flashA : (s.setPort n c).flashA = s.flashA := rfl
@[simp] theorem State.setPort_flashB : (s.setPort n c).flashB = s.flashB := rfl
@[simp] theorem State.setPort_flashBroken : (s.setPort n c).flashBroken = s.flashBroken := rfl
@[simp] theorem State.setPort_testPort : (s.setPort n c).testPort = s.testPort := rfl
@[simp] theorem State.setPort_sideband : (s.setPort n c).sideband = s.sideband := rfl
@[simp] theorem State.setPort_cores : (s.setPort n c).cores = s.cores := rfl
@[simp] theorem State.setPort_mesh : (s.setPort n c).mesh = s.mesh := rfl
@[simp] theorem State.setPort_outcomes : (s.setPort n c).outcomes = s.outcomes := rfl
@[simp] theorem State.setPort_gathers : (s.setPort n c).gathers = s.gathers := rfl
@[simp] theorem State.setPort_scatters : (s.setPort n c).scatters = s.scatters := rfl
@[simp] theorem State.setPort_reservoir : (s.setPort n c).reservoir = s.reservoir := rfl
@[simp] theorem State.setPort_poison : (s.setPort n c).poison = s.poison := rfl
@[simp] theorem State.setPort_gddr : (s.setPort n c).gddr = s.gddr := rfl
@[simp] theorem State.setPort_roots : (s.setPort n c).roots = s.roots := rfl
@[simp] theorem State.setPort_counters : (s.setPort n c).counters = s.counters := rfl
@[simp] theorem State.setPort_channels : (s.setPort n c).channels = s.channels := rfl
@[simp] theorem State.setPort_tags : (s.setPort n c).tags = s.tags := rfl
@[simp] theorem State.setPort_tagWaits : (s.setPort n c).tagWaits = s.tagWaits := rfl
@[simp] theorem State.setPort_dmaTurn : (s.setPort n c).dmaTurn = s.dmaTurn := rfl
@[simp] theorem State.setPort_dmaLast : (s.setPort n c).dmaLast = s.dmaLast := rfl
@[simp] theorem State.setPort_dmas : (s.setPort n c).dmas = s.dmas := rfl
@[simp] theorem State.setPort_pcie : (s.setPort n c).pcie = s.pcie := rfl
@[simp] theorem State.setPort_functions : (s.setPort n c).functions = s.functions := rfl
@[simp] theorem State.setPort_recovery : (s.setPort n c).recovery = s.recovery := rfl
@[simp] theorem State.setPort_translations : (s.setPort n c).translations = s.translations := rfl
@[simp] theorem State.setPort_hostOut : (s.setPort n c).hostOut = s.hostOut := rfl
@[simp] theorem State.setPort_ateliers : (s.setPort n c).ateliers = s.ateliers := rfl
@[simp] theorem State.setPort_leases : (s.setPort n c).leases = s.leases := rfl
@[simp] theorem State.setPort_leaseSerial : (s.setPort n c).leaseSerial = s.leaseSerial := rfl
@[simp] theorem State.setPort_contexts : (s.setPort n c).contexts = s.contexts := rfl
@[simp] theorem State.setPort_queues : (s.setPort n c).queues = s.queues := rfl
@[simp] theorem State.setPort_mobjs : (s.setPort n c).mobjs = s.mobjs := rfl
@[simp] theorem State.setPort_fences : (s.setPort n c).fences = s.fences := rfl
@[simp] theorem State.setPort_images : (s.setPort n c).images = s.images := rfl
@[simp] theorem State.setPort_colls : (s.setPort n c).colls = s.colls := rfl
@[simp] theorem State.setPort_jobs : (s.setPort n c).jobs = s.jobs := rfl
@[simp] theorem State.setPort_commands : (s.setPort n c).commands = s.commands := rfl
@[simp] theorem State.setPort_nextSerial : (s.setPort n c).nextSerial = s.nextSerial := rfl
@[simp] theorem State.setPort_signals : (s.setPort n c).signals = s.signals := rfl
@[simp] theorem State.setPort_collectives : (s.setPort n c).collectives = s.collectives := rfl
@[simp] theorem State.setPort_reductions : (s.setPort n c).reductions = s.reductions := rfl
@[simp] theorem State.setPort_decants : (s.setPort n c).decants = s.decants := rfl
@[simp] theorem State.setPort_reservations : (s.setPort n c).reservations = s.reservations := rfl
@[simp] theorem State.setPort_panels : (s.setPort n c).panels = s.panels := rfl
@[simp] theorem State.setPort_flacon : (s.setPort n c).flacon = s.flacon := rfl
@[simp] theorem State.setPort_serving : (s.setPort n c).serving = s.serving := rfl
@[simp] theorem State.setPort_opened : (s.setPort n c).opened = s.opened := rfl
@[simp] theorem State.setPort_sessions : (s.setPort n c).sessions = s.sessions := rfl
@[simp] theorem State.setPort_erasedLeases : (s.setPort n c).erasedLeases = s.erasedLeases := rfl
@[simp] theorem State.setPort_leaseDrops : (s.setPort n c).leaseDrops = s.leaseDrops := rfl
@[simp] theorem State.setPort_blotter : (s.setPort n c).blotter = s.blotter := rfl
@[simp] theorem State.setPort_core (m : Nat) : (s.setPort n c).core m = s.core m := rfl
@[simp] theorem State.setPort_atelier (m : Nat) : (s.setPort n c).atelier m = s.atelier m := rfl
@[simp] theorem State.setPort_lease (m : Nat) : (s.setPort n c).lease m = s.lease m := rfl
@[simp] theorem State.setPort_panel (m : Nat) : (s.setPort n c).panel m = s.panel m := rfl
@[simp] theorem State.setPort_channel (m : Nat) : (s.setPort n c).channel m = s.channel m := rfl
@[simp] theorem State.setPort_session (m : Nat) : (s.setPort n c).session m = s.session m := rfl
@[simp] theorem State.setPort_pciePort (m : Nat) : (s.setPort n c).pciePort m = s.pciePort m := rfl
@[simp] theorem State.setPort_root (m : Nat) : (s.setPort n c).root m = s.root m := rfl
@[simp] theorem State.setPort_reduction (m : Nat) : (s.setPort n c).reduction m = s.reduction m := rfl
@[simp] theorem State.setPort_function (m k : Nat) : (s.setPort n c).function m k = s.function m k := rfl
@[simp] theorem State.setPort_counter (m k : Nat) : (s.setPort n c).counter m k = s.counter m k := rfl
@[simp] theorem State.setPort_port (m : Nat) : (s.setPort n c).port m = if m = n then c else s.port m := by
  simp only [State.port, State.setPort, SMap.get_set]
end

/-! ### setSession -/

section
variable (s : State) (n : Nat) (c : Session)
@[simp] theorem State.setSession_pending : (s.setSession n c).pending = s.pending := rfl
@[simp] theorem State.setSession_time : (s.setSession n c).time = s.time := rfl
@[simp] theorem State.setSession_drawn : (s.setSession n c).drawn = s.drawn := rfl
@[simp] theorem State.setSession_freed : (s.setSession n c).freed = s.freed := rfl
@[simp] theorem State.setSession_power : (s.setSession n c).power = s.power := rfl
@[simp] theorem State.setSession_mstate : (s.setSession n c).mstate = s.mstate := rfl
@[simp] theorem State.setSession_phase : (s.setSession n c).phase = s.phase := rfl
@[simp] theorem State.setSession_training : (s.setSession n c).training = s.training := rfl
@[simp] theorem State.setSession_fcode : (s.setSession n c).fcode = s.fcode := rfl
@[simp] theorem State.setSession_tamperFuse : (s.setSession n c).tamperFuse = s.tamperFuse := rfl
@[simp] theorem State.setSession_tamperCount : (s.setSession n c).tamperCount = s.tamperCount := rfl
@[simp] theorem State.setSession_debugCount : (s.setSession n c).debugCount = s.debugCount := rfl
@[simp] theorem State.setSession_nonce : (s.setSession n c).nonce = s.nonce := rfl
@[simp] theorem State.setSession_unwrapped : (s.setSession n c).unwrapped = s.unwrapped := rfl
@[simp] theorem State.setSession_inForce : (s.setSession n c).inForce = s.inForce := rfl
@[simp] theorem State.setSession_installation : (s.setSession n c).installation = s.installation := rfl
@[simp] theorem State.setSession_bankFails : (s.setSession n c).bankFails = s.bankFails := rfl
@[simp] theorem State.setSession_flashA : (s.setSession n c).flashA = s.flashA := rfl
@[simp] theorem State.setSession_flashB : (s.setSession n c).flashB = s.flashB := rfl
@[simp] theorem State.setSession_flashBroken : (s.setSession n c).flashBroken = s.flashBroken := rfl
@[simp] theorem State.setSession_testPort : (s.setSession n c).testPort = s.testPort := rfl
@[simp] theorem State.setSession_sideband : (s.setSession n c).sideband = s.sideband := rfl
@[simp] theorem State.setSession_cores : (s.setSession n c).cores = s.cores := rfl
@[simp] theorem State.setSession_mesh : (s.setSession n c).mesh = s.mesh := rfl
@[simp] theorem State.setSession_outcomes : (s.setSession n c).outcomes = s.outcomes := rfl
@[simp] theorem State.setSession_gathers : (s.setSession n c).gathers = s.gathers := rfl
@[simp] theorem State.setSession_scatters : (s.setSession n c).scatters = s.scatters := rfl
@[simp] theorem State.setSession_reservoir : (s.setSession n c).reservoir = s.reservoir := rfl
@[simp] theorem State.setSession_poison : (s.setSession n c).poison = s.poison := rfl
@[simp] theorem State.setSession_gddr : (s.setSession n c).gddr = s.gddr := rfl
@[simp] theorem State.setSession_roots : (s.setSession n c).roots = s.roots := rfl
@[simp] theorem State.setSession_counters : (s.setSession n c).counters = s.counters := rfl
@[simp] theorem State.setSession_channels : (s.setSession n c).channels = s.channels := rfl
@[simp] theorem State.setSession_tags : (s.setSession n c).tags = s.tags := rfl
@[simp] theorem State.setSession_tagWaits : (s.setSession n c).tagWaits = s.tagWaits := rfl
@[simp] theorem State.setSession_dmaTurn : (s.setSession n c).dmaTurn = s.dmaTurn := rfl
@[simp] theorem State.setSession_dmaLast : (s.setSession n c).dmaLast = s.dmaLast := rfl
@[simp] theorem State.setSession_dmas : (s.setSession n c).dmas = s.dmas := rfl
@[simp] theorem State.setSession_pcie : (s.setSession n c).pcie = s.pcie := rfl
@[simp] theorem State.setSession_functions : (s.setSession n c).functions = s.functions := rfl
@[simp] theorem State.setSession_recovery : (s.setSession n c).recovery = s.recovery := rfl
@[simp] theorem State.setSession_translations : (s.setSession n c).translations = s.translations := rfl
@[simp] theorem State.setSession_hostOut : (s.setSession n c).hostOut = s.hostOut := rfl
@[simp] theorem State.setSession_ateliers : (s.setSession n c).ateliers = s.ateliers := rfl
@[simp] theorem State.setSession_leases : (s.setSession n c).leases = s.leases := rfl
@[simp] theorem State.setSession_leaseSerial : (s.setSession n c).leaseSerial = s.leaseSerial := rfl
@[simp] theorem State.setSession_contexts : (s.setSession n c).contexts = s.contexts := rfl
@[simp] theorem State.setSession_queues : (s.setSession n c).queues = s.queues := rfl
@[simp] theorem State.setSession_mobjs : (s.setSession n c).mobjs = s.mobjs := rfl
@[simp] theorem State.setSession_fences : (s.setSession n c).fences = s.fences := rfl
@[simp] theorem State.setSession_images : (s.setSession n c).images = s.images := rfl
@[simp] theorem State.setSession_colls : (s.setSession n c).colls = s.colls := rfl
@[simp] theorem State.setSession_jobs : (s.setSession n c).jobs = s.jobs := rfl
@[simp] theorem State.setSession_commands : (s.setSession n c).commands = s.commands := rfl
@[simp] theorem State.setSession_nextSerial : (s.setSession n c).nextSerial = s.nextSerial := rfl
@[simp] theorem State.setSession_signals : (s.setSession n c).signals = s.signals := rfl
@[simp] theorem State.setSession_collectives : (s.setSession n c).collectives = s.collectives := rfl
@[simp] theorem State.setSession_reductions : (s.setSession n c).reductions = s.reductions := rfl
@[simp] theorem State.setSession_decants : (s.setSession n c).decants = s.decants := rfl
@[simp] theorem State.setSession_reservations : (s.setSession n c).reservations = s.reservations := rfl
@[simp] theorem State.setSession_panels : (s.setSession n c).panels = s.panels := rfl
@[simp] theorem State.setSession_flacon : (s.setSession n c).flacon = s.flacon := rfl
@[simp] theorem State.setSession_serving : (s.setSession n c).serving = s.serving := rfl
@[simp] theorem State.setSession_opened : (s.setSession n c).opened = s.opened := rfl
@[simp] theorem State.setSession_ports : (s.setSession n c).ports = s.ports := rfl
@[simp] theorem State.setSession_erasedLeases : (s.setSession n c).erasedLeases = s.erasedLeases := rfl
@[simp] theorem State.setSession_leaseDrops : (s.setSession n c).leaseDrops = s.leaseDrops := rfl
@[simp] theorem State.setSession_blotter : (s.setSession n c).blotter = s.blotter := rfl
@[simp] theorem State.setSession_core (m : Nat) : (s.setSession n c).core m = s.core m := rfl
@[simp] theorem State.setSession_atelier (m : Nat) : (s.setSession n c).atelier m = s.atelier m := rfl
@[simp] theorem State.setSession_lease (m : Nat) : (s.setSession n c).lease m = s.lease m := rfl
@[simp] theorem State.setSession_panel (m : Nat) : (s.setSession n c).panel m = s.panel m := rfl
@[simp] theorem State.setSession_channel (m : Nat) : (s.setSession n c).channel m = s.channel m := rfl
@[simp] theorem State.setSession_port (m : Nat) : (s.setSession n c).port m = s.port m := rfl
@[simp] theorem State.setSession_pciePort (m : Nat) : (s.setSession n c).pciePort m = s.pciePort m := rfl
@[simp] theorem State.setSession_root (m : Nat) : (s.setSession n c).root m = s.root m := rfl
@[simp] theorem State.setSession_reduction (m : Nat) : (s.setSession n c).reduction m = s.reduction m := rfl
@[simp] theorem State.setSession_function (m k : Nat) : (s.setSession n c).function m k = s.function m k := rfl
@[simp] theorem State.setSession_counter (m k : Nat) : (s.setSession n c).counter m k = s.counter m k := rfl
@[simp] theorem State.setSession_session (m : Nat) : (s.setSession n c).session m = if m = n then c else s.session m := by
  simp only [State.session, State.setSession, SMap.get_set]
end

/-! ### setPcie -/

section
variable (s : State) (n : Nat) (c : PciePort)
@[simp] theorem State.setPcie_pending : (s.setPcie n c).pending = s.pending := rfl
@[simp] theorem State.setPcie_time : (s.setPcie n c).time = s.time := rfl
@[simp] theorem State.setPcie_drawn : (s.setPcie n c).drawn = s.drawn := rfl
@[simp] theorem State.setPcie_freed : (s.setPcie n c).freed = s.freed := rfl
@[simp] theorem State.setPcie_power : (s.setPcie n c).power = s.power := rfl
@[simp] theorem State.setPcie_mstate : (s.setPcie n c).mstate = s.mstate := rfl
@[simp] theorem State.setPcie_phase : (s.setPcie n c).phase = s.phase := rfl
@[simp] theorem State.setPcie_training : (s.setPcie n c).training = s.training := rfl
@[simp] theorem State.setPcie_fcode : (s.setPcie n c).fcode = s.fcode := rfl
@[simp] theorem State.setPcie_tamperFuse : (s.setPcie n c).tamperFuse = s.tamperFuse := rfl
@[simp] theorem State.setPcie_tamperCount : (s.setPcie n c).tamperCount = s.tamperCount := rfl
@[simp] theorem State.setPcie_debugCount : (s.setPcie n c).debugCount = s.debugCount := rfl
@[simp] theorem State.setPcie_nonce : (s.setPcie n c).nonce = s.nonce := rfl
@[simp] theorem State.setPcie_unwrapped : (s.setPcie n c).unwrapped = s.unwrapped := rfl
@[simp] theorem State.setPcie_inForce : (s.setPcie n c).inForce = s.inForce := rfl
@[simp] theorem State.setPcie_installation : (s.setPcie n c).installation = s.installation := rfl
@[simp] theorem State.setPcie_bankFails : (s.setPcie n c).bankFails = s.bankFails := rfl
@[simp] theorem State.setPcie_flashA : (s.setPcie n c).flashA = s.flashA := rfl
@[simp] theorem State.setPcie_flashB : (s.setPcie n c).flashB = s.flashB := rfl
@[simp] theorem State.setPcie_flashBroken : (s.setPcie n c).flashBroken = s.flashBroken := rfl
@[simp] theorem State.setPcie_testPort : (s.setPcie n c).testPort = s.testPort := rfl
@[simp] theorem State.setPcie_sideband : (s.setPcie n c).sideband = s.sideband := rfl
@[simp] theorem State.setPcie_cores : (s.setPcie n c).cores = s.cores := rfl
@[simp] theorem State.setPcie_mesh : (s.setPcie n c).mesh = s.mesh := rfl
@[simp] theorem State.setPcie_outcomes : (s.setPcie n c).outcomes = s.outcomes := rfl
@[simp] theorem State.setPcie_gathers : (s.setPcie n c).gathers = s.gathers := rfl
@[simp] theorem State.setPcie_scatters : (s.setPcie n c).scatters = s.scatters := rfl
@[simp] theorem State.setPcie_reservoir : (s.setPcie n c).reservoir = s.reservoir := rfl
@[simp] theorem State.setPcie_poison : (s.setPcie n c).poison = s.poison := rfl
@[simp] theorem State.setPcie_gddr : (s.setPcie n c).gddr = s.gddr := rfl
@[simp] theorem State.setPcie_roots : (s.setPcie n c).roots = s.roots := rfl
@[simp] theorem State.setPcie_counters : (s.setPcie n c).counters = s.counters := rfl
@[simp] theorem State.setPcie_channels : (s.setPcie n c).channels = s.channels := rfl
@[simp] theorem State.setPcie_tags : (s.setPcie n c).tags = s.tags := rfl
@[simp] theorem State.setPcie_tagWaits : (s.setPcie n c).tagWaits = s.tagWaits := rfl
@[simp] theorem State.setPcie_dmaTurn : (s.setPcie n c).dmaTurn = s.dmaTurn := rfl
@[simp] theorem State.setPcie_dmaLast : (s.setPcie n c).dmaLast = s.dmaLast := rfl
@[simp] theorem State.setPcie_dmas : (s.setPcie n c).dmas = s.dmas := rfl
@[simp] theorem State.setPcie_functions : (s.setPcie n c).functions = s.functions := rfl
@[simp] theorem State.setPcie_recovery : (s.setPcie n c).recovery = s.recovery := rfl
@[simp] theorem State.setPcie_translations : (s.setPcie n c).translations = s.translations := rfl
@[simp] theorem State.setPcie_hostOut : (s.setPcie n c).hostOut = s.hostOut := rfl
@[simp] theorem State.setPcie_ateliers : (s.setPcie n c).ateliers = s.ateliers := rfl
@[simp] theorem State.setPcie_leases : (s.setPcie n c).leases = s.leases := rfl
@[simp] theorem State.setPcie_leaseSerial : (s.setPcie n c).leaseSerial = s.leaseSerial := rfl
@[simp] theorem State.setPcie_contexts : (s.setPcie n c).contexts = s.contexts := rfl
@[simp] theorem State.setPcie_queues : (s.setPcie n c).queues = s.queues := rfl
@[simp] theorem State.setPcie_mobjs : (s.setPcie n c).mobjs = s.mobjs := rfl
@[simp] theorem State.setPcie_fences : (s.setPcie n c).fences = s.fences := rfl
@[simp] theorem State.setPcie_images : (s.setPcie n c).images = s.images := rfl
@[simp] theorem State.setPcie_colls : (s.setPcie n c).colls = s.colls := rfl
@[simp] theorem State.setPcie_jobs : (s.setPcie n c).jobs = s.jobs := rfl
@[simp] theorem State.setPcie_commands : (s.setPcie n c).commands = s.commands := rfl
@[simp] theorem State.setPcie_nextSerial : (s.setPcie n c).nextSerial = s.nextSerial := rfl
@[simp] theorem State.setPcie_signals : (s.setPcie n c).signals = s.signals := rfl
@[simp] theorem State.setPcie_collectives : (s.setPcie n c).collectives = s.collectives := rfl
@[simp] theorem State.setPcie_reductions : (s.setPcie n c).reductions = s.reductions := rfl
@[simp] theorem State.setPcie_decants : (s.setPcie n c).decants = s.decants := rfl
@[simp] theorem State.setPcie_reservations : (s.setPcie n c).reservations = s.reservations := rfl
@[simp] theorem State.setPcie_panels : (s.setPcie n c).panels = s.panels := rfl
@[simp] theorem State.setPcie_flacon : (s.setPcie n c).flacon = s.flacon := rfl
@[simp] theorem State.setPcie_serving : (s.setPcie n c).serving = s.serving := rfl
@[simp] theorem State.setPcie_opened : (s.setPcie n c).opened = s.opened := rfl
@[simp] theorem State.setPcie_ports : (s.setPcie n c).ports = s.ports := rfl
@[simp] theorem State.setPcie_sessions : (s.setPcie n c).sessions = s.sessions := rfl
@[simp] theorem State.setPcie_erasedLeases : (s.setPcie n c).erasedLeases = s.erasedLeases := rfl
@[simp] theorem State.setPcie_leaseDrops : (s.setPcie n c).leaseDrops = s.leaseDrops := rfl
@[simp] theorem State.setPcie_blotter : (s.setPcie n c).blotter = s.blotter := rfl
@[simp] theorem State.setPcie_core (m : Nat) : (s.setPcie n c).core m = s.core m := rfl
@[simp] theorem State.setPcie_atelier (m : Nat) : (s.setPcie n c).atelier m = s.atelier m := rfl
@[simp] theorem State.setPcie_lease (m : Nat) : (s.setPcie n c).lease m = s.lease m := rfl
@[simp] theorem State.setPcie_panel (m : Nat) : (s.setPcie n c).panel m = s.panel m := rfl
@[simp] theorem State.setPcie_channel (m : Nat) : (s.setPcie n c).channel m = s.channel m := rfl
@[simp] theorem State.setPcie_port (m : Nat) : (s.setPcie n c).port m = s.port m := rfl
@[simp] theorem State.setPcie_session (m : Nat) : (s.setPcie n c).session m = s.session m := rfl
@[simp] theorem State.setPcie_root (m : Nat) : (s.setPcie n c).root m = s.root m := rfl
@[simp] theorem State.setPcie_reduction (m : Nat) : (s.setPcie n c).reduction m = s.reduction m := rfl
@[simp] theorem State.setPcie_function (m k : Nat) : (s.setPcie n c).function m k = s.function m k := rfl
@[simp] theorem State.setPcie_counter (m k : Nat) : (s.setPcie n c).counter m k = s.counter m k := rfl
@[simp] theorem State.setPcie_pciePort (m : Nat) : (s.setPcie n c).pciePort m = if m = n then c else s.pciePort m := by
  simp only [State.pciePort, State.setPcie, SMap.get_set]
end

/-! ### setRoot -/

section
variable (s : State) (n : Nat) (c : RootRecord)
@[simp] theorem State.setRoot_pending : (s.setRoot n c).pending = s.pending := rfl
@[simp] theorem State.setRoot_time : (s.setRoot n c).time = s.time := rfl
@[simp] theorem State.setRoot_drawn : (s.setRoot n c).drawn = s.drawn := rfl
@[simp] theorem State.setRoot_freed : (s.setRoot n c).freed = s.freed := rfl
@[simp] theorem State.setRoot_power : (s.setRoot n c).power = s.power := rfl
@[simp] theorem State.setRoot_mstate : (s.setRoot n c).mstate = s.mstate := rfl
@[simp] theorem State.setRoot_phase : (s.setRoot n c).phase = s.phase := rfl
@[simp] theorem State.setRoot_training : (s.setRoot n c).training = s.training := rfl
@[simp] theorem State.setRoot_fcode : (s.setRoot n c).fcode = s.fcode := rfl
@[simp] theorem State.setRoot_tamperFuse : (s.setRoot n c).tamperFuse = s.tamperFuse := rfl
@[simp] theorem State.setRoot_tamperCount : (s.setRoot n c).tamperCount = s.tamperCount := rfl
@[simp] theorem State.setRoot_debugCount : (s.setRoot n c).debugCount = s.debugCount := rfl
@[simp] theorem State.setRoot_nonce : (s.setRoot n c).nonce = s.nonce := rfl
@[simp] theorem State.setRoot_unwrapped : (s.setRoot n c).unwrapped = s.unwrapped := rfl
@[simp] theorem State.setRoot_inForce : (s.setRoot n c).inForce = s.inForce := rfl
@[simp] theorem State.setRoot_installation : (s.setRoot n c).installation = s.installation := rfl
@[simp] theorem State.setRoot_bankFails : (s.setRoot n c).bankFails = s.bankFails := rfl
@[simp] theorem State.setRoot_flashA : (s.setRoot n c).flashA = s.flashA := rfl
@[simp] theorem State.setRoot_flashB : (s.setRoot n c).flashB = s.flashB := rfl
@[simp] theorem State.setRoot_flashBroken : (s.setRoot n c).flashBroken = s.flashBroken := rfl
@[simp] theorem State.setRoot_testPort : (s.setRoot n c).testPort = s.testPort := rfl
@[simp] theorem State.setRoot_sideband : (s.setRoot n c).sideband = s.sideband := rfl
@[simp] theorem State.setRoot_cores : (s.setRoot n c).cores = s.cores := rfl
@[simp] theorem State.setRoot_mesh : (s.setRoot n c).mesh = s.mesh := rfl
@[simp] theorem State.setRoot_outcomes : (s.setRoot n c).outcomes = s.outcomes := rfl
@[simp] theorem State.setRoot_gathers : (s.setRoot n c).gathers = s.gathers := rfl
@[simp] theorem State.setRoot_scatters : (s.setRoot n c).scatters = s.scatters := rfl
@[simp] theorem State.setRoot_reservoir : (s.setRoot n c).reservoir = s.reservoir := rfl
@[simp] theorem State.setRoot_poison : (s.setRoot n c).poison = s.poison := rfl
@[simp] theorem State.setRoot_gddr : (s.setRoot n c).gddr = s.gddr := rfl
@[simp] theorem State.setRoot_counters : (s.setRoot n c).counters = s.counters := rfl
@[simp] theorem State.setRoot_channels : (s.setRoot n c).channels = s.channels := rfl
@[simp] theorem State.setRoot_tags : (s.setRoot n c).tags = s.tags := rfl
@[simp] theorem State.setRoot_tagWaits : (s.setRoot n c).tagWaits = s.tagWaits := rfl
@[simp] theorem State.setRoot_dmaTurn : (s.setRoot n c).dmaTurn = s.dmaTurn := rfl
@[simp] theorem State.setRoot_dmaLast : (s.setRoot n c).dmaLast = s.dmaLast := rfl
@[simp] theorem State.setRoot_dmas : (s.setRoot n c).dmas = s.dmas := rfl
@[simp] theorem State.setRoot_pcie : (s.setRoot n c).pcie = s.pcie := rfl
@[simp] theorem State.setRoot_functions : (s.setRoot n c).functions = s.functions := rfl
@[simp] theorem State.setRoot_recovery : (s.setRoot n c).recovery = s.recovery := rfl
@[simp] theorem State.setRoot_translations : (s.setRoot n c).translations = s.translations := rfl
@[simp] theorem State.setRoot_hostOut : (s.setRoot n c).hostOut = s.hostOut := rfl
@[simp] theorem State.setRoot_ateliers : (s.setRoot n c).ateliers = s.ateliers := rfl
@[simp] theorem State.setRoot_leases : (s.setRoot n c).leases = s.leases := rfl
@[simp] theorem State.setRoot_leaseSerial : (s.setRoot n c).leaseSerial = s.leaseSerial := rfl
@[simp] theorem State.setRoot_contexts : (s.setRoot n c).contexts = s.contexts := rfl
@[simp] theorem State.setRoot_queues : (s.setRoot n c).queues = s.queues := rfl
@[simp] theorem State.setRoot_mobjs : (s.setRoot n c).mobjs = s.mobjs := rfl
@[simp] theorem State.setRoot_fences : (s.setRoot n c).fences = s.fences := rfl
@[simp] theorem State.setRoot_images : (s.setRoot n c).images = s.images := rfl
@[simp] theorem State.setRoot_colls : (s.setRoot n c).colls = s.colls := rfl
@[simp] theorem State.setRoot_jobs : (s.setRoot n c).jobs = s.jobs := rfl
@[simp] theorem State.setRoot_commands : (s.setRoot n c).commands = s.commands := rfl
@[simp] theorem State.setRoot_nextSerial : (s.setRoot n c).nextSerial = s.nextSerial := rfl
@[simp] theorem State.setRoot_signals : (s.setRoot n c).signals = s.signals := rfl
@[simp] theorem State.setRoot_collectives : (s.setRoot n c).collectives = s.collectives := rfl
@[simp] theorem State.setRoot_reductions : (s.setRoot n c).reductions = s.reductions := rfl
@[simp] theorem State.setRoot_decants : (s.setRoot n c).decants = s.decants := rfl
@[simp] theorem State.setRoot_reservations : (s.setRoot n c).reservations = s.reservations := rfl
@[simp] theorem State.setRoot_panels : (s.setRoot n c).panels = s.panels := rfl
@[simp] theorem State.setRoot_flacon : (s.setRoot n c).flacon = s.flacon := rfl
@[simp] theorem State.setRoot_serving : (s.setRoot n c).serving = s.serving := rfl
@[simp] theorem State.setRoot_opened : (s.setRoot n c).opened = s.opened := rfl
@[simp] theorem State.setRoot_ports : (s.setRoot n c).ports = s.ports := rfl
@[simp] theorem State.setRoot_sessions : (s.setRoot n c).sessions = s.sessions := rfl
@[simp] theorem State.setRoot_erasedLeases : (s.setRoot n c).erasedLeases = s.erasedLeases := rfl
@[simp] theorem State.setRoot_leaseDrops : (s.setRoot n c).leaseDrops = s.leaseDrops := rfl
@[simp] theorem State.setRoot_blotter : (s.setRoot n c).blotter = s.blotter := rfl
@[simp] theorem State.setRoot_core (m : Nat) : (s.setRoot n c).core m = s.core m := rfl
@[simp] theorem State.setRoot_atelier (m : Nat) : (s.setRoot n c).atelier m = s.atelier m := rfl
@[simp] theorem State.setRoot_lease (m : Nat) : (s.setRoot n c).lease m = s.lease m := rfl
@[simp] theorem State.setRoot_panel (m : Nat) : (s.setRoot n c).panel m = s.panel m := rfl
@[simp] theorem State.setRoot_channel (m : Nat) : (s.setRoot n c).channel m = s.channel m := rfl
@[simp] theorem State.setRoot_port (m : Nat) : (s.setRoot n c).port m = s.port m := rfl
@[simp] theorem State.setRoot_session (m : Nat) : (s.setRoot n c).session m = s.session m := rfl
@[simp] theorem State.setRoot_pciePort (m : Nat) : (s.setRoot n c).pciePort m = s.pciePort m := rfl
@[simp] theorem State.setRoot_reduction (m : Nat) : (s.setRoot n c).reduction m = s.reduction m := rfl
@[simp] theorem State.setRoot_function (m k : Nat) : (s.setRoot n c).function m k = s.function m k := rfl
@[simp] theorem State.setRoot_counter (m k : Nat) : (s.setRoot n c).counter m k = s.counter m k := rfl
@[simp] theorem State.setRoot_root (m : Nat) : (s.setRoot n c).root m = if m = n then c else s.root m := by
  simp only [State.root, State.setRoot, SMap.get_set]
end

/-! ### setReduction -/

section
variable (s : State) (n : Nat) (c : Reduction)
@[simp] theorem State.setReduction_pending : (s.setReduction n c).pending = s.pending := rfl
@[simp] theorem State.setReduction_time : (s.setReduction n c).time = s.time := rfl
@[simp] theorem State.setReduction_drawn : (s.setReduction n c).drawn = s.drawn := rfl
@[simp] theorem State.setReduction_freed : (s.setReduction n c).freed = s.freed := rfl
@[simp] theorem State.setReduction_power : (s.setReduction n c).power = s.power := rfl
@[simp] theorem State.setReduction_mstate : (s.setReduction n c).mstate = s.mstate := rfl
@[simp] theorem State.setReduction_phase : (s.setReduction n c).phase = s.phase := rfl
@[simp] theorem State.setReduction_training : (s.setReduction n c).training = s.training := rfl
@[simp] theorem State.setReduction_fcode : (s.setReduction n c).fcode = s.fcode := rfl
@[simp] theorem State.setReduction_tamperFuse : (s.setReduction n c).tamperFuse = s.tamperFuse := rfl
@[simp] theorem State.setReduction_tamperCount : (s.setReduction n c).tamperCount = s.tamperCount := rfl
@[simp] theorem State.setReduction_debugCount : (s.setReduction n c).debugCount = s.debugCount := rfl
@[simp] theorem State.setReduction_nonce : (s.setReduction n c).nonce = s.nonce := rfl
@[simp] theorem State.setReduction_unwrapped : (s.setReduction n c).unwrapped = s.unwrapped := rfl
@[simp] theorem State.setReduction_inForce : (s.setReduction n c).inForce = s.inForce := rfl
@[simp] theorem State.setReduction_installation : (s.setReduction n c).installation = s.installation := rfl
@[simp] theorem State.setReduction_bankFails : (s.setReduction n c).bankFails = s.bankFails := rfl
@[simp] theorem State.setReduction_flashA : (s.setReduction n c).flashA = s.flashA := rfl
@[simp] theorem State.setReduction_flashB : (s.setReduction n c).flashB = s.flashB := rfl
@[simp] theorem State.setReduction_flashBroken : (s.setReduction n c).flashBroken = s.flashBroken := rfl
@[simp] theorem State.setReduction_testPort : (s.setReduction n c).testPort = s.testPort := rfl
@[simp] theorem State.setReduction_sideband : (s.setReduction n c).sideband = s.sideband := rfl
@[simp] theorem State.setReduction_cores : (s.setReduction n c).cores = s.cores := rfl
@[simp] theorem State.setReduction_mesh : (s.setReduction n c).mesh = s.mesh := rfl
@[simp] theorem State.setReduction_outcomes : (s.setReduction n c).outcomes = s.outcomes := rfl
@[simp] theorem State.setReduction_gathers : (s.setReduction n c).gathers = s.gathers := rfl
@[simp] theorem State.setReduction_scatters : (s.setReduction n c).scatters = s.scatters := rfl
@[simp] theorem State.setReduction_reservoir : (s.setReduction n c).reservoir = s.reservoir := rfl
@[simp] theorem State.setReduction_poison : (s.setReduction n c).poison = s.poison := rfl
@[simp] theorem State.setReduction_gddr : (s.setReduction n c).gddr = s.gddr := rfl
@[simp] theorem State.setReduction_roots : (s.setReduction n c).roots = s.roots := rfl
@[simp] theorem State.setReduction_counters : (s.setReduction n c).counters = s.counters := rfl
@[simp] theorem State.setReduction_channels : (s.setReduction n c).channels = s.channels := rfl
@[simp] theorem State.setReduction_tags : (s.setReduction n c).tags = s.tags := rfl
@[simp] theorem State.setReduction_tagWaits : (s.setReduction n c).tagWaits = s.tagWaits := rfl
@[simp] theorem State.setReduction_dmaTurn : (s.setReduction n c).dmaTurn = s.dmaTurn := rfl
@[simp] theorem State.setReduction_dmaLast : (s.setReduction n c).dmaLast = s.dmaLast := rfl
@[simp] theorem State.setReduction_dmas : (s.setReduction n c).dmas = s.dmas := rfl
@[simp] theorem State.setReduction_pcie : (s.setReduction n c).pcie = s.pcie := rfl
@[simp] theorem State.setReduction_functions : (s.setReduction n c).functions = s.functions := rfl
@[simp] theorem State.setReduction_recovery : (s.setReduction n c).recovery = s.recovery := rfl
@[simp] theorem State.setReduction_translations : (s.setReduction n c).translations = s.translations := rfl
@[simp] theorem State.setReduction_hostOut : (s.setReduction n c).hostOut = s.hostOut := rfl
@[simp] theorem State.setReduction_ateliers : (s.setReduction n c).ateliers = s.ateliers := rfl
@[simp] theorem State.setReduction_leases : (s.setReduction n c).leases = s.leases := rfl
@[simp] theorem State.setReduction_leaseSerial : (s.setReduction n c).leaseSerial = s.leaseSerial := rfl
@[simp] theorem State.setReduction_contexts : (s.setReduction n c).contexts = s.contexts := rfl
@[simp] theorem State.setReduction_queues : (s.setReduction n c).queues = s.queues := rfl
@[simp] theorem State.setReduction_mobjs : (s.setReduction n c).mobjs = s.mobjs := rfl
@[simp] theorem State.setReduction_fences : (s.setReduction n c).fences = s.fences := rfl
@[simp] theorem State.setReduction_images : (s.setReduction n c).images = s.images := rfl
@[simp] theorem State.setReduction_colls : (s.setReduction n c).colls = s.colls := rfl
@[simp] theorem State.setReduction_jobs : (s.setReduction n c).jobs = s.jobs := rfl
@[simp] theorem State.setReduction_commands : (s.setReduction n c).commands = s.commands := rfl
@[simp] theorem State.setReduction_nextSerial : (s.setReduction n c).nextSerial = s.nextSerial := rfl
@[simp] theorem State.setReduction_signals : (s.setReduction n c).signals = s.signals := rfl
@[simp] theorem State.setReduction_collectives : (s.setReduction n c).collectives = s.collectives := rfl
@[simp] theorem State.setReduction_decants : (s.setReduction n c).decants = s.decants := rfl
@[simp] theorem State.setReduction_reservations : (s.setReduction n c).reservations = s.reservations := rfl
@[simp] theorem State.setReduction_panels : (s.setReduction n c).panels = s.panels := rfl
@[simp] theorem State.setReduction_flacon : (s.setReduction n c).flacon = s.flacon := rfl
@[simp] theorem State.setReduction_serving : (s.setReduction n c).serving = s.serving := rfl
@[simp] theorem State.setReduction_opened : (s.setReduction n c).opened = s.opened := rfl
@[simp] theorem State.setReduction_ports : (s.setReduction n c).ports = s.ports := rfl
@[simp] theorem State.setReduction_sessions : (s.setReduction n c).sessions = s.sessions := rfl
@[simp] theorem State.setReduction_erasedLeases : (s.setReduction n c).erasedLeases = s.erasedLeases := rfl
@[simp] theorem State.setReduction_leaseDrops : (s.setReduction n c).leaseDrops = s.leaseDrops := rfl
@[simp] theorem State.setReduction_blotter : (s.setReduction n c).blotter = s.blotter := rfl
@[simp] theorem State.setReduction_core (m : Nat) : (s.setReduction n c).core m = s.core m := rfl
@[simp] theorem State.setReduction_atelier (m : Nat) : (s.setReduction n c).atelier m = s.atelier m := rfl
@[simp] theorem State.setReduction_lease (m : Nat) : (s.setReduction n c).lease m = s.lease m := rfl
@[simp] theorem State.setReduction_panel (m : Nat) : (s.setReduction n c).panel m = s.panel m := rfl
@[simp] theorem State.setReduction_channel (m : Nat) : (s.setReduction n c).channel m = s.channel m := rfl
@[simp] theorem State.setReduction_port (m : Nat) : (s.setReduction n c).port m = s.port m := rfl
@[simp] theorem State.setReduction_session (m : Nat) : (s.setReduction n c).session m = s.session m := rfl
@[simp] theorem State.setReduction_pciePort (m : Nat) : (s.setReduction n c).pciePort m = s.pciePort m := rfl
@[simp] theorem State.setReduction_root (m : Nat) : (s.setReduction n c).root m = s.root m := rfl
@[simp] theorem State.setReduction_function (m k : Nat) : (s.setReduction n c).function m k = s.function m k := rfl
@[simp] theorem State.setReduction_counter (m k : Nat) : (s.setReduction n c).counter m k = s.counter m k := rfl
@[simp] theorem State.setReduction_reduction (m : Nat) : (s.setReduction n c).reduction m = if m = n then c else s.reduction m := by
  simp only [State.reduction, State.setReduction, SMap.get_set]
end

/-! ### setFunction -/

section
variable (s : State) (n f : Nat) (c : HostFn)
@[simp] theorem State.setFunction_pending : (s.setFunction n f c).pending = s.pending := rfl
@[simp] theorem State.setFunction_time : (s.setFunction n f c).time = s.time := rfl
@[simp] theorem State.setFunction_drawn : (s.setFunction n f c).drawn = s.drawn := rfl
@[simp] theorem State.setFunction_freed : (s.setFunction n f c).freed = s.freed := rfl
@[simp] theorem State.setFunction_power : (s.setFunction n f c).power = s.power := rfl
@[simp] theorem State.setFunction_mstate : (s.setFunction n f c).mstate = s.mstate := rfl
@[simp] theorem State.setFunction_phase : (s.setFunction n f c).phase = s.phase := rfl
@[simp] theorem State.setFunction_training : (s.setFunction n f c).training = s.training := rfl
@[simp] theorem State.setFunction_fcode : (s.setFunction n f c).fcode = s.fcode := rfl
@[simp] theorem State.setFunction_tamperFuse : (s.setFunction n f c).tamperFuse = s.tamperFuse := rfl
@[simp] theorem State.setFunction_tamperCount : (s.setFunction n f c).tamperCount = s.tamperCount := rfl
@[simp] theorem State.setFunction_debugCount : (s.setFunction n f c).debugCount = s.debugCount := rfl
@[simp] theorem State.setFunction_nonce : (s.setFunction n f c).nonce = s.nonce := rfl
@[simp] theorem State.setFunction_unwrapped : (s.setFunction n f c).unwrapped = s.unwrapped := rfl
@[simp] theorem State.setFunction_inForce : (s.setFunction n f c).inForce = s.inForce := rfl
@[simp] theorem State.setFunction_installation : (s.setFunction n f c).installation = s.installation := rfl
@[simp] theorem State.setFunction_bankFails : (s.setFunction n f c).bankFails = s.bankFails := rfl
@[simp] theorem State.setFunction_flashA : (s.setFunction n f c).flashA = s.flashA := rfl
@[simp] theorem State.setFunction_flashB : (s.setFunction n f c).flashB = s.flashB := rfl
@[simp] theorem State.setFunction_flashBroken : (s.setFunction n f c).flashBroken = s.flashBroken := rfl
@[simp] theorem State.setFunction_testPort : (s.setFunction n f c).testPort = s.testPort := rfl
@[simp] theorem State.setFunction_sideband : (s.setFunction n f c).sideband = s.sideband := rfl
@[simp] theorem State.setFunction_cores : (s.setFunction n f c).cores = s.cores := rfl
@[simp] theorem State.setFunction_mesh : (s.setFunction n f c).mesh = s.mesh := rfl
@[simp] theorem State.setFunction_outcomes : (s.setFunction n f c).outcomes = s.outcomes := rfl
@[simp] theorem State.setFunction_gathers : (s.setFunction n f c).gathers = s.gathers := rfl
@[simp] theorem State.setFunction_scatters : (s.setFunction n f c).scatters = s.scatters := rfl
@[simp] theorem State.setFunction_reservoir : (s.setFunction n f c).reservoir = s.reservoir := rfl
@[simp] theorem State.setFunction_poison : (s.setFunction n f c).poison = s.poison := rfl
@[simp] theorem State.setFunction_gddr : (s.setFunction n f c).gddr = s.gddr := rfl
@[simp] theorem State.setFunction_roots : (s.setFunction n f c).roots = s.roots := rfl
@[simp] theorem State.setFunction_counters : (s.setFunction n f c).counters = s.counters := rfl
@[simp] theorem State.setFunction_channels : (s.setFunction n f c).channels = s.channels := rfl
@[simp] theorem State.setFunction_tags : (s.setFunction n f c).tags = s.tags := rfl
@[simp] theorem State.setFunction_tagWaits : (s.setFunction n f c).tagWaits = s.tagWaits := rfl
@[simp] theorem State.setFunction_dmaTurn : (s.setFunction n f c).dmaTurn = s.dmaTurn := rfl
@[simp] theorem State.setFunction_dmaLast : (s.setFunction n f c).dmaLast = s.dmaLast := rfl
@[simp] theorem State.setFunction_dmas : (s.setFunction n f c).dmas = s.dmas := rfl
@[simp] theorem State.setFunction_pcie : (s.setFunction n f c).pcie = s.pcie := rfl
@[simp] theorem State.setFunction_recovery : (s.setFunction n f c).recovery = s.recovery := rfl
@[simp] theorem State.setFunction_translations : (s.setFunction n f c).translations = s.translations := rfl
@[simp] theorem State.setFunction_hostOut : (s.setFunction n f c).hostOut = s.hostOut := rfl
@[simp] theorem State.setFunction_ateliers : (s.setFunction n f c).ateliers = s.ateliers := rfl
@[simp] theorem State.setFunction_leases : (s.setFunction n f c).leases = s.leases := rfl
@[simp] theorem State.setFunction_leaseSerial : (s.setFunction n f c).leaseSerial = s.leaseSerial := rfl
@[simp] theorem State.setFunction_contexts : (s.setFunction n f c).contexts = s.contexts := rfl
@[simp] theorem State.setFunction_queues : (s.setFunction n f c).queues = s.queues := rfl
@[simp] theorem State.setFunction_mobjs : (s.setFunction n f c).mobjs = s.mobjs := rfl
@[simp] theorem State.setFunction_fences : (s.setFunction n f c).fences = s.fences := rfl
@[simp] theorem State.setFunction_images : (s.setFunction n f c).images = s.images := rfl
@[simp] theorem State.setFunction_colls : (s.setFunction n f c).colls = s.colls := rfl
@[simp] theorem State.setFunction_jobs : (s.setFunction n f c).jobs = s.jobs := rfl
@[simp] theorem State.setFunction_commands : (s.setFunction n f c).commands = s.commands := rfl
@[simp] theorem State.setFunction_nextSerial : (s.setFunction n f c).nextSerial = s.nextSerial := rfl
@[simp] theorem State.setFunction_signals : (s.setFunction n f c).signals = s.signals := rfl
@[simp] theorem State.setFunction_collectives : (s.setFunction n f c).collectives = s.collectives := rfl
@[simp] theorem State.setFunction_reductions : (s.setFunction n f c).reductions = s.reductions := rfl
@[simp] theorem State.setFunction_decants : (s.setFunction n f c).decants = s.decants := rfl
@[simp] theorem State.setFunction_reservations : (s.setFunction n f c).reservations = s.reservations := rfl
@[simp] theorem State.setFunction_panels : (s.setFunction n f c).panels = s.panels := rfl
@[simp] theorem State.setFunction_flacon : (s.setFunction n f c).flacon = s.flacon := rfl
@[simp] theorem State.setFunction_serving : (s.setFunction n f c).serving = s.serving := rfl
@[simp] theorem State.setFunction_opened : (s.setFunction n f c).opened = s.opened := rfl
@[simp] theorem State.setFunction_ports : (s.setFunction n f c).ports = s.ports := rfl
@[simp] theorem State.setFunction_sessions : (s.setFunction n f c).sessions = s.sessions := rfl
@[simp] theorem State.setFunction_erasedLeases : (s.setFunction n f c).erasedLeases = s.erasedLeases := rfl
@[simp] theorem State.setFunction_leaseDrops : (s.setFunction n f c).leaseDrops = s.leaseDrops := rfl
@[simp] theorem State.setFunction_blotter : (s.setFunction n f c).blotter = s.blotter := rfl
@[simp] theorem State.setFunction_core (m : Nat) : (s.setFunction n f c).core m = s.core m := rfl
@[simp] theorem State.setFunction_atelier (m : Nat) : (s.setFunction n f c).atelier m = s.atelier m := rfl
@[simp] theorem State.setFunction_lease (m : Nat) : (s.setFunction n f c).lease m = s.lease m := rfl
@[simp] theorem State.setFunction_panel (m : Nat) : (s.setFunction n f c).panel m = s.panel m := rfl
@[simp] theorem State.setFunction_channel (m : Nat) : (s.setFunction n f c).channel m = s.channel m := rfl
@[simp] theorem State.setFunction_port (m : Nat) : (s.setFunction n f c).port m = s.port m := rfl
@[simp] theorem State.setFunction_session (m : Nat) : (s.setFunction n f c).session m = s.session m := rfl
@[simp] theorem State.setFunction_pciePort (m : Nat) : (s.setFunction n f c).pciePort m = s.pciePort m := rfl
@[simp] theorem State.setFunction_root (m : Nat) : (s.setFunction n f c).root m = s.root m := rfl
@[simp] theorem State.setFunction_reduction (m : Nat) : (s.setFunction n f c).reduction m = s.reduction m := rfl
@[simp] theorem State.setFunction_counter (m k : Nat) : (s.setFunction n f c).counter m k = s.counter m k := rfl
theorem State.setFunction_function (m g : Nat) (h : f < 32) (k : g < 32) : (s.setFunction n f c).function m g = if m = n ∧ g = f then c else s.function m g := by
  simp only [State.function, State.setFunction, SMap.get_set]
  have e : (32 * m + g = 32 * n + f) ↔ (m = n ∧ g = f) := by omega
  simp [e]
end

/-! ### setCounter -/

section
variable (s : State) (n f : Nat) (c : CounterBlock)
@[simp] theorem State.setCounter_pending : (s.setCounter n f c).pending = s.pending := rfl
@[simp] theorem State.setCounter_time : (s.setCounter n f c).time = s.time := rfl
@[simp] theorem State.setCounter_drawn : (s.setCounter n f c).drawn = s.drawn := rfl
@[simp] theorem State.setCounter_freed : (s.setCounter n f c).freed = s.freed := rfl
@[simp] theorem State.setCounter_power : (s.setCounter n f c).power = s.power := rfl
@[simp] theorem State.setCounter_mstate : (s.setCounter n f c).mstate = s.mstate := rfl
@[simp] theorem State.setCounter_phase : (s.setCounter n f c).phase = s.phase := rfl
@[simp] theorem State.setCounter_training : (s.setCounter n f c).training = s.training := rfl
@[simp] theorem State.setCounter_fcode : (s.setCounter n f c).fcode = s.fcode := rfl
@[simp] theorem State.setCounter_tamperFuse : (s.setCounter n f c).tamperFuse = s.tamperFuse := rfl
@[simp] theorem State.setCounter_tamperCount : (s.setCounter n f c).tamperCount = s.tamperCount := rfl
@[simp] theorem State.setCounter_debugCount : (s.setCounter n f c).debugCount = s.debugCount := rfl
@[simp] theorem State.setCounter_nonce : (s.setCounter n f c).nonce = s.nonce := rfl
@[simp] theorem State.setCounter_unwrapped : (s.setCounter n f c).unwrapped = s.unwrapped := rfl
@[simp] theorem State.setCounter_inForce : (s.setCounter n f c).inForce = s.inForce := rfl
@[simp] theorem State.setCounter_installation : (s.setCounter n f c).installation = s.installation := rfl
@[simp] theorem State.setCounter_bankFails : (s.setCounter n f c).bankFails = s.bankFails := rfl
@[simp] theorem State.setCounter_flashA : (s.setCounter n f c).flashA = s.flashA := rfl
@[simp] theorem State.setCounter_flashB : (s.setCounter n f c).flashB = s.flashB := rfl
@[simp] theorem State.setCounter_flashBroken : (s.setCounter n f c).flashBroken = s.flashBroken := rfl
@[simp] theorem State.setCounter_testPort : (s.setCounter n f c).testPort = s.testPort := rfl
@[simp] theorem State.setCounter_sideband : (s.setCounter n f c).sideband = s.sideband := rfl
@[simp] theorem State.setCounter_cores : (s.setCounter n f c).cores = s.cores := rfl
@[simp] theorem State.setCounter_mesh : (s.setCounter n f c).mesh = s.mesh := rfl
@[simp] theorem State.setCounter_outcomes : (s.setCounter n f c).outcomes = s.outcomes := rfl
@[simp] theorem State.setCounter_gathers : (s.setCounter n f c).gathers = s.gathers := rfl
@[simp] theorem State.setCounter_scatters : (s.setCounter n f c).scatters = s.scatters := rfl
@[simp] theorem State.setCounter_reservoir : (s.setCounter n f c).reservoir = s.reservoir := rfl
@[simp] theorem State.setCounter_poison : (s.setCounter n f c).poison = s.poison := rfl
@[simp] theorem State.setCounter_gddr : (s.setCounter n f c).gddr = s.gddr := rfl
@[simp] theorem State.setCounter_roots : (s.setCounter n f c).roots = s.roots := rfl
@[simp] theorem State.setCounter_channels : (s.setCounter n f c).channels = s.channels := rfl
@[simp] theorem State.setCounter_tags : (s.setCounter n f c).tags = s.tags := rfl
@[simp] theorem State.setCounter_tagWaits : (s.setCounter n f c).tagWaits = s.tagWaits := rfl
@[simp] theorem State.setCounter_dmaTurn : (s.setCounter n f c).dmaTurn = s.dmaTurn := rfl
@[simp] theorem State.setCounter_dmaLast : (s.setCounter n f c).dmaLast = s.dmaLast := rfl
@[simp] theorem State.setCounter_dmas : (s.setCounter n f c).dmas = s.dmas := rfl
@[simp] theorem State.setCounter_pcie : (s.setCounter n f c).pcie = s.pcie := rfl
@[simp] theorem State.setCounter_functions : (s.setCounter n f c).functions = s.functions := rfl
@[simp] theorem State.setCounter_recovery : (s.setCounter n f c).recovery = s.recovery := rfl
@[simp] theorem State.setCounter_translations : (s.setCounter n f c).translations = s.translations := rfl
@[simp] theorem State.setCounter_hostOut : (s.setCounter n f c).hostOut = s.hostOut := rfl
@[simp] theorem State.setCounter_ateliers : (s.setCounter n f c).ateliers = s.ateliers := rfl
@[simp] theorem State.setCounter_leases : (s.setCounter n f c).leases = s.leases := rfl
@[simp] theorem State.setCounter_leaseSerial : (s.setCounter n f c).leaseSerial = s.leaseSerial := rfl
@[simp] theorem State.setCounter_contexts : (s.setCounter n f c).contexts = s.contexts := rfl
@[simp] theorem State.setCounter_queues : (s.setCounter n f c).queues = s.queues := rfl
@[simp] theorem State.setCounter_mobjs : (s.setCounter n f c).mobjs = s.mobjs := rfl
@[simp] theorem State.setCounter_fences : (s.setCounter n f c).fences = s.fences := rfl
@[simp] theorem State.setCounter_images : (s.setCounter n f c).images = s.images := rfl
@[simp] theorem State.setCounter_colls : (s.setCounter n f c).colls = s.colls := rfl
@[simp] theorem State.setCounter_jobs : (s.setCounter n f c).jobs = s.jobs := rfl
@[simp] theorem State.setCounter_commands : (s.setCounter n f c).commands = s.commands := rfl
@[simp] theorem State.setCounter_nextSerial : (s.setCounter n f c).nextSerial = s.nextSerial := rfl
@[simp] theorem State.setCounter_signals : (s.setCounter n f c).signals = s.signals := rfl
@[simp] theorem State.setCounter_collectives : (s.setCounter n f c).collectives = s.collectives := rfl
@[simp] theorem State.setCounter_reductions : (s.setCounter n f c).reductions = s.reductions := rfl
@[simp] theorem State.setCounter_decants : (s.setCounter n f c).decants = s.decants := rfl
@[simp] theorem State.setCounter_reservations : (s.setCounter n f c).reservations = s.reservations := rfl
@[simp] theorem State.setCounter_panels : (s.setCounter n f c).panels = s.panels := rfl
@[simp] theorem State.setCounter_flacon : (s.setCounter n f c).flacon = s.flacon := rfl
@[simp] theorem State.setCounter_serving : (s.setCounter n f c).serving = s.serving := rfl
@[simp] theorem State.setCounter_opened : (s.setCounter n f c).opened = s.opened := rfl
@[simp] theorem State.setCounter_ports : (s.setCounter n f c).ports = s.ports := rfl
@[simp] theorem State.setCounter_sessions : (s.setCounter n f c).sessions = s.sessions := rfl
@[simp] theorem State.setCounter_erasedLeases : (s.setCounter n f c).erasedLeases = s.erasedLeases := rfl
@[simp] theorem State.setCounter_leaseDrops : (s.setCounter n f c).leaseDrops = s.leaseDrops := rfl
@[simp] theorem State.setCounter_blotter : (s.setCounter n f c).blotter = s.blotter := rfl
@[simp] theorem State.setCounter_core (m : Nat) : (s.setCounter n f c).core m = s.core m := rfl
@[simp] theorem State.setCounter_atelier (m : Nat) : (s.setCounter n f c).atelier m = s.atelier m := rfl
@[simp] theorem State.setCounter_lease (m : Nat) : (s.setCounter n f c).lease m = s.lease m := rfl
@[simp] theorem State.setCounter_panel (m : Nat) : (s.setCounter n f c).panel m = s.panel m := rfl
@[simp] theorem State.setCounter_channel (m : Nat) : (s.setCounter n f c).channel m = s.channel m := rfl
@[simp] theorem State.setCounter_port (m : Nat) : (s.setCounter n f c).port m = s.port m := rfl
@[simp] theorem State.setCounter_session (m : Nat) : (s.setCounter n f c).session m = s.session m := rfl
@[simp] theorem State.setCounter_pciePort (m : Nat) : (s.setCounter n f c).pciePort m = s.pciePort m := rfl
@[simp] theorem State.setCounter_root (m : Nat) : (s.setCounter n f c).root m = s.root m := rfl
@[simp] theorem State.setCounter_reduction (m : Nat) : (s.setCounter n f c).reduction m = s.reduction m := rfl
@[simp] theorem State.setCounter_function (m k : Nat) : (s.setCounter n f c).function m k = s.function m k := rfl
theorem State.setCounter_counter (m g : Nat) (h : f < 256) (k : g < 256) : (s.setCounter n f c).counter m g = if m = n ∧ g = f then c else s.counter m g := by
  simp only [State.counter, State.setCounter, SMap.get_set]
  have e : (256 * m + g = 256 * n + f) ↔ (m = n ∧ g = f) := by omega
  simp [e]
end

/-! ### onJob -/

section
variable (s : State) (n : Nat) (f : Job → Job)
@[simp] theorem State.onJob_pending : (s.onJob n f).pending = s.pending := rfl
@[simp] theorem State.onJob_time : (s.onJob n f).time = s.time := rfl
@[simp] theorem State.onJob_drawn : (s.onJob n f).drawn = s.drawn := rfl
@[simp] theorem State.onJob_freed : (s.onJob n f).freed = s.freed := rfl
@[simp] theorem State.onJob_power : (s.onJob n f).power = s.power := rfl
@[simp] theorem State.onJob_mstate : (s.onJob n f).mstate = s.mstate := rfl
@[simp] theorem State.onJob_phase : (s.onJob n f).phase = s.phase := rfl
@[simp] theorem State.onJob_training : (s.onJob n f).training = s.training := rfl
@[simp] theorem State.onJob_fcode : (s.onJob n f).fcode = s.fcode := rfl
@[simp] theorem State.onJob_tamperFuse : (s.onJob n f).tamperFuse = s.tamperFuse := rfl
@[simp] theorem State.onJob_tamperCount : (s.onJob n f).tamperCount = s.tamperCount := rfl
@[simp] theorem State.onJob_debugCount : (s.onJob n f).debugCount = s.debugCount := rfl
@[simp] theorem State.onJob_nonce : (s.onJob n f).nonce = s.nonce := rfl
@[simp] theorem State.onJob_unwrapped : (s.onJob n f).unwrapped = s.unwrapped := rfl
@[simp] theorem State.onJob_inForce : (s.onJob n f).inForce = s.inForce := rfl
@[simp] theorem State.onJob_installation : (s.onJob n f).installation = s.installation := rfl
@[simp] theorem State.onJob_bankFails : (s.onJob n f).bankFails = s.bankFails := rfl
@[simp] theorem State.onJob_flashA : (s.onJob n f).flashA = s.flashA := rfl
@[simp] theorem State.onJob_flashB : (s.onJob n f).flashB = s.flashB := rfl
@[simp] theorem State.onJob_flashBroken : (s.onJob n f).flashBroken = s.flashBroken := rfl
@[simp] theorem State.onJob_testPort : (s.onJob n f).testPort = s.testPort := rfl
@[simp] theorem State.onJob_sideband : (s.onJob n f).sideband = s.sideband := rfl
@[simp] theorem State.onJob_cores : (s.onJob n f).cores = s.cores := rfl
@[simp] theorem State.onJob_mesh : (s.onJob n f).mesh = s.mesh := rfl
@[simp] theorem State.onJob_outcomes : (s.onJob n f).outcomes = s.outcomes := rfl
@[simp] theorem State.onJob_gathers : (s.onJob n f).gathers = s.gathers := rfl
@[simp] theorem State.onJob_scatters : (s.onJob n f).scatters = s.scatters := rfl
@[simp] theorem State.onJob_reservoir : (s.onJob n f).reservoir = s.reservoir := rfl
@[simp] theorem State.onJob_poison : (s.onJob n f).poison = s.poison := rfl
@[simp] theorem State.onJob_gddr : (s.onJob n f).gddr = s.gddr := rfl
@[simp] theorem State.onJob_roots : (s.onJob n f).roots = s.roots := rfl
@[simp] theorem State.onJob_counters : (s.onJob n f).counters = s.counters := rfl
@[simp] theorem State.onJob_channels : (s.onJob n f).channels = s.channels := rfl
@[simp] theorem State.onJob_tags : (s.onJob n f).tags = s.tags := rfl
@[simp] theorem State.onJob_tagWaits : (s.onJob n f).tagWaits = s.tagWaits := rfl
@[simp] theorem State.onJob_dmaTurn : (s.onJob n f).dmaTurn = s.dmaTurn := rfl
@[simp] theorem State.onJob_dmaLast : (s.onJob n f).dmaLast = s.dmaLast := rfl
@[simp] theorem State.onJob_dmas : (s.onJob n f).dmas = s.dmas := rfl
@[simp] theorem State.onJob_pcie : (s.onJob n f).pcie = s.pcie := rfl
@[simp] theorem State.onJob_functions : (s.onJob n f).functions = s.functions := rfl
@[simp] theorem State.onJob_recovery : (s.onJob n f).recovery = s.recovery := rfl
@[simp] theorem State.onJob_translations : (s.onJob n f).translations = s.translations := rfl
@[simp] theorem State.onJob_hostOut : (s.onJob n f).hostOut = s.hostOut := rfl
@[simp] theorem State.onJob_ateliers : (s.onJob n f).ateliers = s.ateliers := rfl
@[simp] theorem State.onJob_leases : (s.onJob n f).leases = s.leases := rfl
@[simp] theorem State.onJob_leaseSerial : (s.onJob n f).leaseSerial = s.leaseSerial := rfl
@[simp] theorem State.onJob_contexts : (s.onJob n f).contexts = s.contexts := rfl
@[simp] theorem State.onJob_queues : (s.onJob n f).queues = s.queues := rfl
@[simp] theorem State.onJob_mobjs : (s.onJob n f).mobjs = s.mobjs := rfl
@[simp] theorem State.onJob_fences : (s.onJob n f).fences = s.fences := rfl
@[simp] theorem State.onJob_images : (s.onJob n f).images = s.images := rfl
@[simp] theorem State.onJob_colls : (s.onJob n f).colls = s.colls := rfl
@[simp] theorem State.onJob_commands : (s.onJob n f).commands = s.commands := rfl
@[simp] theorem State.onJob_nextSerial : (s.onJob n f).nextSerial = s.nextSerial := rfl
@[simp] theorem State.onJob_signals : (s.onJob n f).signals = s.signals := rfl
@[simp] theorem State.onJob_collectives : (s.onJob n f).collectives = s.collectives := rfl
@[simp] theorem State.onJob_reductions : (s.onJob n f).reductions = s.reductions := rfl
@[simp] theorem State.onJob_decants : (s.onJob n f).decants = s.decants := rfl
@[simp] theorem State.onJob_reservations : (s.onJob n f).reservations = s.reservations := rfl
@[simp] theorem State.onJob_panels : (s.onJob n f).panels = s.panels := rfl
@[simp] theorem State.onJob_flacon : (s.onJob n f).flacon = s.flacon := rfl
@[simp] theorem State.onJob_serving : (s.onJob n f).serving = s.serving := rfl
@[simp] theorem State.onJob_opened : (s.onJob n f).opened = s.opened := rfl
@[simp] theorem State.onJob_ports : (s.onJob n f).ports = s.ports := rfl
@[simp] theorem State.onJob_sessions : (s.onJob n f).sessions = s.sessions := rfl
@[simp] theorem State.onJob_erasedLeases : (s.onJob n f).erasedLeases = s.erasedLeases := rfl
@[simp] theorem State.onJob_leaseDrops : (s.onJob n f).leaseDrops = s.leaseDrops := rfl
@[simp] theorem State.onJob_blotter : (s.onJob n f).blotter = s.blotter := rfl
@[simp] theorem State.onJob_core (m : Nat) : (s.onJob n f).core m = s.core m := rfl
@[simp] theorem State.onJob_atelier (m : Nat) : (s.onJob n f).atelier m = s.atelier m := rfl
@[simp] theorem State.onJob_lease (m : Nat) : (s.onJob n f).lease m = s.lease m := rfl
@[simp] theorem State.onJob_panel (m : Nat) : (s.onJob n f).panel m = s.panel m := rfl
@[simp] theorem State.onJob_channel (m : Nat) : (s.onJob n f).channel m = s.channel m := rfl
@[simp] theorem State.onJob_port (m : Nat) : (s.onJob n f).port m = s.port m := rfl
@[simp] theorem State.onJob_session (m : Nat) : (s.onJob n f).session m = s.session m := rfl
@[simp] theorem State.onJob_pciePort (m : Nat) : (s.onJob n f).pciePort m = s.pciePort m := rfl
@[simp] theorem State.onJob_root (m : Nat) : (s.onJob n f).root m = s.root m := rfl
@[simp] theorem State.onJob_reduction (m : Nat) : (s.onJob n f).reduction m = s.reduction m := rfl
@[simp] theorem State.onJob_function (m k : Nat) : (s.onJob n f).function m k = s.function m k := rfl
@[simp] theorem State.onJob_counter (m k : Nat) : (s.onJob n f).counter m k = s.counter m k := rfl
end

/-! ### onQueue -/

section
variable (s : State) (n : Nat) (f : Queue → Queue)
@[simp] theorem State.onQueue_pending : (s.onQueue n f).pending = s.pending := rfl
@[simp] theorem State.onQueue_time : (s.onQueue n f).time = s.time := rfl
@[simp] theorem State.onQueue_drawn : (s.onQueue n f).drawn = s.drawn := rfl
@[simp] theorem State.onQueue_freed : (s.onQueue n f).freed = s.freed := rfl
@[simp] theorem State.onQueue_power : (s.onQueue n f).power = s.power := rfl
@[simp] theorem State.onQueue_mstate : (s.onQueue n f).mstate = s.mstate := rfl
@[simp] theorem State.onQueue_phase : (s.onQueue n f).phase = s.phase := rfl
@[simp] theorem State.onQueue_training : (s.onQueue n f).training = s.training := rfl
@[simp] theorem State.onQueue_fcode : (s.onQueue n f).fcode = s.fcode := rfl
@[simp] theorem State.onQueue_tamperFuse : (s.onQueue n f).tamperFuse = s.tamperFuse := rfl
@[simp] theorem State.onQueue_tamperCount : (s.onQueue n f).tamperCount = s.tamperCount := rfl
@[simp] theorem State.onQueue_debugCount : (s.onQueue n f).debugCount = s.debugCount := rfl
@[simp] theorem State.onQueue_nonce : (s.onQueue n f).nonce = s.nonce := rfl
@[simp] theorem State.onQueue_unwrapped : (s.onQueue n f).unwrapped = s.unwrapped := rfl
@[simp] theorem State.onQueue_inForce : (s.onQueue n f).inForce = s.inForce := rfl
@[simp] theorem State.onQueue_installation : (s.onQueue n f).installation = s.installation := rfl
@[simp] theorem State.onQueue_bankFails : (s.onQueue n f).bankFails = s.bankFails := rfl
@[simp] theorem State.onQueue_flashA : (s.onQueue n f).flashA = s.flashA := rfl
@[simp] theorem State.onQueue_flashB : (s.onQueue n f).flashB = s.flashB := rfl
@[simp] theorem State.onQueue_flashBroken : (s.onQueue n f).flashBroken = s.flashBroken := rfl
@[simp] theorem State.onQueue_testPort : (s.onQueue n f).testPort = s.testPort := rfl
@[simp] theorem State.onQueue_sideband : (s.onQueue n f).sideband = s.sideband := rfl
@[simp] theorem State.onQueue_cores : (s.onQueue n f).cores = s.cores := rfl
@[simp] theorem State.onQueue_mesh : (s.onQueue n f).mesh = s.mesh := rfl
@[simp] theorem State.onQueue_outcomes : (s.onQueue n f).outcomes = s.outcomes := rfl
@[simp] theorem State.onQueue_gathers : (s.onQueue n f).gathers = s.gathers := rfl
@[simp] theorem State.onQueue_scatters : (s.onQueue n f).scatters = s.scatters := rfl
@[simp] theorem State.onQueue_reservoir : (s.onQueue n f).reservoir = s.reservoir := rfl
@[simp] theorem State.onQueue_poison : (s.onQueue n f).poison = s.poison := rfl
@[simp] theorem State.onQueue_gddr : (s.onQueue n f).gddr = s.gddr := rfl
@[simp] theorem State.onQueue_roots : (s.onQueue n f).roots = s.roots := rfl
@[simp] theorem State.onQueue_counters : (s.onQueue n f).counters = s.counters := rfl
@[simp] theorem State.onQueue_channels : (s.onQueue n f).channels = s.channels := rfl
@[simp] theorem State.onQueue_tags : (s.onQueue n f).tags = s.tags := rfl
@[simp] theorem State.onQueue_tagWaits : (s.onQueue n f).tagWaits = s.tagWaits := rfl
@[simp] theorem State.onQueue_dmaTurn : (s.onQueue n f).dmaTurn = s.dmaTurn := rfl
@[simp] theorem State.onQueue_dmaLast : (s.onQueue n f).dmaLast = s.dmaLast := rfl
@[simp] theorem State.onQueue_dmas : (s.onQueue n f).dmas = s.dmas := rfl
@[simp] theorem State.onQueue_pcie : (s.onQueue n f).pcie = s.pcie := rfl
@[simp] theorem State.onQueue_functions : (s.onQueue n f).functions = s.functions := rfl
@[simp] theorem State.onQueue_recovery : (s.onQueue n f).recovery = s.recovery := rfl
@[simp] theorem State.onQueue_translations : (s.onQueue n f).translations = s.translations := rfl
@[simp] theorem State.onQueue_hostOut : (s.onQueue n f).hostOut = s.hostOut := rfl
@[simp] theorem State.onQueue_ateliers : (s.onQueue n f).ateliers = s.ateliers := rfl
@[simp] theorem State.onQueue_leases : (s.onQueue n f).leases = s.leases := rfl
@[simp] theorem State.onQueue_leaseSerial : (s.onQueue n f).leaseSerial = s.leaseSerial := rfl
@[simp] theorem State.onQueue_contexts : (s.onQueue n f).contexts = s.contexts := rfl
@[simp] theorem State.onQueue_mobjs : (s.onQueue n f).mobjs = s.mobjs := rfl
@[simp] theorem State.onQueue_fences : (s.onQueue n f).fences = s.fences := rfl
@[simp] theorem State.onQueue_images : (s.onQueue n f).images = s.images := rfl
@[simp] theorem State.onQueue_colls : (s.onQueue n f).colls = s.colls := rfl
@[simp] theorem State.onQueue_jobs : (s.onQueue n f).jobs = s.jobs := rfl
@[simp] theorem State.onQueue_commands : (s.onQueue n f).commands = s.commands := rfl
@[simp] theorem State.onQueue_nextSerial : (s.onQueue n f).nextSerial = s.nextSerial := rfl
@[simp] theorem State.onQueue_signals : (s.onQueue n f).signals = s.signals := rfl
@[simp] theorem State.onQueue_collectives : (s.onQueue n f).collectives = s.collectives := rfl
@[simp] theorem State.onQueue_reductions : (s.onQueue n f).reductions = s.reductions := rfl
@[simp] theorem State.onQueue_decants : (s.onQueue n f).decants = s.decants := rfl
@[simp] theorem State.onQueue_reservations : (s.onQueue n f).reservations = s.reservations := rfl
@[simp] theorem State.onQueue_panels : (s.onQueue n f).panels = s.panels := rfl
@[simp] theorem State.onQueue_flacon : (s.onQueue n f).flacon = s.flacon := rfl
@[simp] theorem State.onQueue_serving : (s.onQueue n f).serving = s.serving := rfl
@[simp] theorem State.onQueue_opened : (s.onQueue n f).opened = s.opened := rfl
@[simp] theorem State.onQueue_ports : (s.onQueue n f).ports = s.ports := rfl
@[simp] theorem State.onQueue_sessions : (s.onQueue n f).sessions = s.sessions := rfl
@[simp] theorem State.onQueue_erasedLeases : (s.onQueue n f).erasedLeases = s.erasedLeases := rfl
@[simp] theorem State.onQueue_leaseDrops : (s.onQueue n f).leaseDrops = s.leaseDrops := rfl
@[simp] theorem State.onQueue_blotter : (s.onQueue n f).blotter = s.blotter := rfl
@[simp] theorem State.onQueue_core (m : Nat) : (s.onQueue n f).core m = s.core m := rfl
@[simp] theorem State.onQueue_atelier (m : Nat) : (s.onQueue n f).atelier m = s.atelier m := rfl
@[simp] theorem State.onQueue_lease (m : Nat) : (s.onQueue n f).lease m = s.lease m := rfl
@[simp] theorem State.onQueue_panel (m : Nat) : (s.onQueue n f).panel m = s.panel m := rfl
@[simp] theorem State.onQueue_channel (m : Nat) : (s.onQueue n f).channel m = s.channel m := rfl
@[simp] theorem State.onQueue_port (m : Nat) : (s.onQueue n f).port m = s.port m := rfl
@[simp] theorem State.onQueue_session (m : Nat) : (s.onQueue n f).session m = s.session m := rfl
@[simp] theorem State.onQueue_pciePort (m : Nat) : (s.onQueue n f).pciePort m = s.pciePort m := rfl
@[simp] theorem State.onQueue_root (m : Nat) : (s.onQueue n f).root m = s.root m := rfl
@[simp] theorem State.onQueue_reduction (m : Nat) : (s.onQueue n f).reduction m = s.reduction m := rfl
@[simp] theorem State.onQueue_function (m k : Nat) : (s.onQueue n f).function m k = s.function m k := rfl
@[simp] theorem State.onQueue_counter (m k : Nat) : (s.onQueue n f).counter m k = s.counter m k := rfl
end

/-! ### onCmd -/

section
variable (s : State) (n : Nat) (f : Cmd → Cmd)
@[simp] theorem State.onCmd_pending : (s.onCmd n f).pending = s.pending := rfl
@[simp] theorem State.onCmd_time : (s.onCmd n f).time = s.time := rfl
@[simp] theorem State.onCmd_drawn : (s.onCmd n f).drawn = s.drawn := rfl
@[simp] theorem State.onCmd_freed : (s.onCmd n f).freed = s.freed := rfl
@[simp] theorem State.onCmd_power : (s.onCmd n f).power = s.power := rfl
@[simp] theorem State.onCmd_mstate : (s.onCmd n f).mstate = s.mstate := rfl
@[simp] theorem State.onCmd_phase : (s.onCmd n f).phase = s.phase := rfl
@[simp] theorem State.onCmd_training : (s.onCmd n f).training = s.training := rfl
@[simp] theorem State.onCmd_fcode : (s.onCmd n f).fcode = s.fcode := rfl
@[simp] theorem State.onCmd_tamperFuse : (s.onCmd n f).tamperFuse = s.tamperFuse := rfl
@[simp] theorem State.onCmd_tamperCount : (s.onCmd n f).tamperCount = s.tamperCount := rfl
@[simp] theorem State.onCmd_debugCount : (s.onCmd n f).debugCount = s.debugCount := rfl
@[simp] theorem State.onCmd_nonce : (s.onCmd n f).nonce = s.nonce := rfl
@[simp] theorem State.onCmd_unwrapped : (s.onCmd n f).unwrapped = s.unwrapped := rfl
@[simp] theorem State.onCmd_inForce : (s.onCmd n f).inForce = s.inForce := rfl
@[simp] theorem State.onCmd_installation : (s.onCmd n f).installation = s.installation := rfl
@[simp] theorem State.onCmd_bankFails : (s.onCmd n f).bankFails = s.bankFails := rfl
@[simp] theorem State.onCmd_flashA : (s.onCmd n f).flashA = s.flashA := rfl
@[simp] theorem State.onCmd_flashB : (s.onCmd n f).flashB = s.flashB := rfl
@[simp] theorem State.onCmd_flashBroken : (s.onCmd n f).flashBroken = s.flashBroken := rfl
@[simp] theorem State.onCmd_testPort : (s.onCmd n f).testPort = s.testPort := rfl
@[simp] theorem State.onCmd_sideband : (s.onCmd n f).sideband = s.sideband := rfl
@[simp] theorem State.onCmd_cores : (s.onCmd n f).cores = s.cores := rfl
@[simp] theorem State.onCmd_mesh : (s.onCmd n f).mesh = s.mesh := rfl
@[simp] theorem State.onCmd_outcomes : (s.onCmd n f).outcomes = s.outcomes := rfl
@[simp] theorem State.onCmd_gathers : (s.onCmd n f).gathers = s.gathers := rfl
@[simp] theorem State.onCmd_scatters : (s.onCmd n f).scatters = s.scatters := rfl
@[simp] theorem State.onCmd_reservoir : (s.onCmd n f).reservoir = s.reservoir := rfl
@[simp] theorem State.onCmd_poison : (s.onCmd n f).poison = s.poison := rfl
@[simp] theorem State.onCmd_gddr : (s.onCmd n f).gddr = s.gddr := rfl
@[simp] theorem State.onCmd_roots : (s.onCmd n f).roots = s.roots := rfl
@[simp] theorem State.onCmd_counters : (s.onCmd n f).counters = s.counters := rfl
@[simp] theorem State.onCmd_channels : (s.onCmd n f).channels = s.channels := rfl
@[simp] theorem State.onCmd_tags : (s.onCmd n f).tags = s.tags := rfl
@[simp] theorem State.onCmd_tagWaits : (s.onCmd n f).tagWaits = s.tagWaits := rfl
@[simp] theorem State.onCmd_dmaTurn : (s.onCmd n f).dmaTurn = s.dmaTurn := rfl
@[simp] theorem State.onCmd_dmaLast : (s.onCmd n f).dmaLast = s.dmaLast := rfl
@[simp] theorem State.onCmd_dmas : (s.onCmd n f).dmas = s.dmas := rfl
@[simp] theorem State.onCmd_pcie : (s.onCmd n f).pcie = s.pcie := rfl
@[simp] theorem State.onCmd_functions : (s.onCmd n f).functions = s.functions := rfl
@[simp] theorem State.onCmd_recovery : (s.onCmd n f).recovery = s.recovery := rfl
@[simp] theorem State.onCmd_translations : (s.onCmd n f).translations = s.translations := rfl
@[simp] theorem State.onCmd_hostOut : (s.onCmd n f).hostOut = s.hostOut := rfl
@[simp] theorem State.onCmd_ateliers : (s.onCmd n f).ateliers = s.ateliers := rfl
@[simp] theorem State.onCmd_leases : (s.onCmd n f).leases = s.leases := rfl
@[simp] theorem State.onCmd_leaseSerial : (s.onCmd n f).leaseSerial = s.leaseSerial := rfl
@[simp] theorem State.onCmd_contexts : (s.onCmd n f).contexts = s.contexts := rfl
@[simp] theorem State.onCmd_queues : (s.onCmd n f).queues = s.queues := rfl
@[simp] theorem State.onCmd_mobjs : (s.onCmd n f).mobjs = s.mobjs := rfl
@[simp] theorem State.onCmd_fences : (s.onCmd n f).fences = s.fences := rfl
@[simp] theorem State.onCmd_images : (s.onCmd n f).images = s.images := rfl
@[simp] theorem State.onCmd_colls : (s.onCmd n f).colls = s.colls := rfl
@[simp] theorem State.onCmd_jobs : (s.onCmd n f).jobs = s.jobs := rfl
@[simp] theorem State.onCmd_nextSerial : (s.onCmd n f).nextSerial = s.nextSerial := rfl
@[simp] theorem State.onCmd_signals : (s.onCmd n f).signals = s.signals := rfl
@[simp] theorem State.onCmd_collectives : (s.onCmd n f).collectives = s.collectives := rfl
@[simp] theorem State.onCmd_reductions : (s.onCmd n f).reductions = s.reductions := rfl
@[simp] theorem State.onCmd_decants : (s.onCmd n f).decants = s.decants := rfl
@[simp] theorem State.onCmd_reservations : (s.onCmd n f).reservations = s.reservations := rfl
@[simp] theorem State.onCmd_panels : (s.onCmd n f).panels = s.panels := rfl
@[simp] theorem State.onCmd_flacon : (s.onCmd n f).flacon = s.flacon := rfl
@[simp] theorem State.onCmd_serving : (s.onCmd n f).serving = s.serving := rfl
@[simp] theorem State.onCmd_opened : (s.onCmd n f).opened = s.opened := rfl
@[simp] theorem State.onCmd_ports : (s.onCmd n f).ports = s.ports := rfl
@[simp] theorem State.onCmd_sessions : (s.onCmd n f).sessions = s.sessions := rfl
@[simp] theorem State.onCmd_erasedLeases : (s.onCmd n f).erasedLeases = s.erasedLeases := rfl
@[simp] theorem State.onCmd_leaseDrops : (s.onCmd n f).leaseDrops = s.leaseDrops := rfl
@[simp] theorem State.onCmd_blotter : (s.onCmd n f).blotter = s.blotter := rfl
@[simp] theorem State.onCmd_core (m : Nat) : (s.onCmd n f).core m = s.core m := rfl
@[simp] theorem State.onCmd_atelier (m : Nat) : (s.onCmd n f).atelier m = s.atelier m := rfl
@[simp] theorem State.onCmd_lease (m : Nat) : (s.onCmd n f).lease m = s.lease m := rfl
@[simp] theorem State.onCmd_panel (m : Nat) : (s.onCmd n f).panel m = s.panel m := rfl
@[simp] theorem State.onCmd_channel (m : Nat) : (s.onCmd n f).channel m = s.channel m := rfl
@[simp] theorem State.onCmd_port (m : Nat) : (s.onCmd n f).port m = s.port m := rfl
@[simp] theorem State.onCmd_session (m : Nat) : (s.onCmd n f).session m = s.session m := rfl
@[simp] theorem State.onCmd_pciePort (m : Nat) : (s.onCmd n f).pciePort m = s.pciePort m := rfl
@[simp] theorem State.onCmd_root (m : Nat) : (s.onCmd n f).root m = s.root m := rfl
@[simp] theorem State.onCmd_reduction (m : Nat) : (s.onCmd n f).reduction m = s.reduction m := rfl
@[simp] theorem State.onCmd_function (m k : Nat) : (s.onCmd n f).function m k = s.function m k := rfl
@[simp] theorem State.onCmd_counter (m k : Nat) : (s.onCmd n f).counter m k = s.counter m k := rfl
end

/-! ### onRun -/

section
variable (s : State) (n : Nat) (f : StepRun → StepRun)
@[simp] theorem State.onRun_pending : (s.onRun n f).pending = s.pending := rfl
@[simp] theorem State.onRun_time : (s.onRun n f).time = s.time := rfl
@[simp] theorem State.onRun_drawn : (s.onRun n f).drawn = s.drawn := rfl
@[simp] theorem State.onRun_freed : (s.onRun n f).freed = s.freed := rfl
@[simp] theorem State.onRun_power : (s.onRun n f).power = s.power := rfl
@[simp] theorem State.onRun_mstate : (s.onRun n f).mstate = s.mstate := rfl
@[simp] theorem State.onRun_phase : (s.onRun n f).phase = s.phase := rfl
@[simp] theorem State.onRun_training : (s.onRun n f).training = s.training := rfl
@[simp] theorem State.onRun_fcode : (s.onRun n f).fcode = s.fcode := rfl
@[simp] theorem State.onRun_tamperFuse : (s.onRun n f).tamperFuse = s.tamperFuse := rfl
@[simp] theorem State.onRun_tamperCount : (s.onRun n f).tamperCount = s.tamperCount := rfl
@[simp] theorem State.onRun_debugCount : (s.onRun n f).debugCount = s.debugCount := rfl
@[simp] theorem State.onRun_nonce : (s.onRun n f).nonce = s.nonce := rfl
@[simp] theorem State.onRun_unwrapped : (s.onRun n f).unwrapped = s.unwrapped := rfl
@[simp] theorem State.onRun_inForce : (s.onRun n f).inForce = s.inForce := rfl
@[simp] theorem State.onRun_installation : (s.onRun n f).installation = s.installation := rfl
@[simp] theorem State.onRun_bankFails : (s.onRun n f).bankFails = s.bankFails := rfl
@[simp] theorem State.onRun_flashA : (s.onRun n f).flashA = s.flashA := rfl
@[simp] theorem State.onRun_flashB : (s.onRun n f).flashB = s.flashB := rfl
@[simp] theorem State.onRun_flashBroken : (s.onRun n f).flashBroken = s.flashBroken := rfl
@[simp] theorem State.onRun_testPort : (s.onRun n f).testPort = s.testPort := rfl
@[simp] theorem State.onRun_sideband : (s.onRun n f).sideband = s.sideband := rfl
@[simp] theorem State.onRun_cores : (s.onRun n f).cores = s.cores := rfl
@[simp] theorem State.onRun_mesh : (s.onRun n f).mesh = s.mesh := rfl
@[simp] theorem State.onRun_outcomes : (s.onRun n f).outcomes = s.outcomes := rfl
@[simp] theorem State.onRun_gathers : (s.onRun n f).gathers = s.gathers := rfl
@[simp] theorem State.onRun_scatters : (s.onRun n f).scatters = s.scatters := rfl
@[simp] theorem State.onRun_reservoir : (s.onRun n f).reservoir = s.reservoir := rfl
@[simp] theorem State.onRun_poison : (s.onRun n f).poison = s.poison := rfl
@[simp] theorem State.onRun_gddr : (s.onRun n f).gddr = s.gddr := rfl
@[simp] theorem State.onRun_roots : (s.onRun n f).roots = s.roots := rfl
@[simp] theorem State.onRun_counters : (s.onRun n f).counters = s.counters := rfl
@[simp] theorem State.onRun_channels : (s.onRun n f).channels = s.channels := rfl
@[simp] theorem State.onRun_tags : (s.onRun n f).tags = s.tags := rfl
@[simp] theorem State.onRun_tagWaits : (s.onRun n f).tagWaits = s.tagWaits := rfl
@[simp] theorem State.onRun_dmaTurn : (s.onRun n f).dmaTurn = s.dmaTurn := rfl
@[simp] theorem State.onRun_dmaLast : (s.onRun n f).dmaLast = s.dmaLast := rfl
@[simp] theorem State.onRun_dmas : (s.onRun n f).dmas = s.dmas := rfl
@[simp] theorem State.onRun_pcie : (s.onRun n f).pcie = s.pcie := rfl
@[simp] theorem State.onRun_functions : (s.onRun n f).functions = s.functions := rfl
@[simp] theorem State.onRun_recovery : (s.onRun n f).recovery = s.recovery := rfl
@[simp] theorem State.onRun_translations : (s.onRun n f).translations = s.translations := rfl
@[simp] theorem State.onRun_hostOut : (s.onRun n f).hostOut = s.hostOut := rfl
@[simp] theorem State.onRun_ateliers : (s.onRun n f).ateliers = s.ateliers := rfl
@[simp] theorem State.onRun_leases : (s.onRun n f).leases = s.leases := rfl
@[simp] theorem State.onRun_leaseSerial : (s.onRun n f).leaseSerial = s.leaseSerial := rfl
@[simp] theorem State.onRun_contexts : (s.onRun n f).contexts = s.contexts := rfl
@[simp] theorem State.onRun_queues : (s.onRun n f).queues = s.queues := rfl
@[simp] theorem State.onRun_mobjs : (s.onRun n f).mobjs = s.mobjs := rfl
@[simp] theorem State.onRun_fences : (s.onRun n f).fences = s.fences := rfl
@[simp] theorem State.onRun_images : (s.onRun n f).images = s.images := rfl
@[simp] theorem State.onRun_colls : (s.onRun n f).colls = s.colls := rfl
@[simp] theorem State.onRun_commands : (s.onRun n f).commands = s.commands := rfl
@[simp] theorem State.onRun_nextSerial : (s.onRun n f).nextSerial = s.nextSerial := rfl
@[simp] theorem State.onRun_signals : (s.onRun n f).signals = s.signals := rfl
@[simp] theorem State.onRun_collectives : (s.onRun n f).collectives = s.collectives := rfl
@[simp] theorem State.onRun_reductions : (s.onRun n f).reductions = s.reductions := rfl
@[simp] theorem State.onRun_decants : (s.onRun n f).decants = s.decants := rfl
@[simp] theorem State.onRun_reservations : (s.onRun n f).reservations = s.reservations := rfl
@[simp] theorem State.onRun_panels : (s.onRun n f).panels = s.panels := rfl
@[simp] theorem State.onRun_flacon : (s.onRun n f).flacon = s.flacon := rfl
@[simp] theorem State.onRun_serving : (s.onRun n f).serving = s.serving := rfl
@[simp] theorem State.onRun_opened : (s.onRun n f).opened = s.opened := rfl
@[simp] theorem State.onRun_ports : (s.onRun n f).ports = s.ports := rfl
@[simp] theorem State.onRun_sessions : (s.onRun n f).sessions = s.sessions := rfl
@[simp] theorem State.onRun_erasedLeases : (s.onRun n f).erasedLeases = s.erasedLeases := rfl
@[simp] theorem State.onRun_leaseDrops : (s.onRun n f).leaseDrops = s.leaseDrops := rfl
@[simp] theorem State.onRun_blotter : (s.onRun n f).blotter = s.blotter := rfl
@[simp] theorem State.onRun_core (m : Nat) : (s.onRun n f).core m = s.core m := rfl
@[simp] theorem State.onRun_atelier (m : Nat) : (s.onRun n f).atelier m = s.atelier m := rfl
@[simp] theorem State.onRun_lease (m : Nat) : (s.onRun n f).lease m = s.lease m := rfl
@[simp] theorem State.onRun_panel (m : Nat) : (s.onRun n f).panel m = s.panel m := rfl
@[simp] theorem State.onRun_channel (m : Nat) : (s.onRun n f).channel m = s.channel m := rfl
@[simp] theorem State.onRun_port (m : Nat) : (s.onRun n f).port m = s.port m := rfl
@[simp] theorem State.onRun_session (m : Nat) : (s.onRun n f).session m = s.session m := rfl
@[simp] theorem State.onRun_pciePort (m : Nat) : (s.onRun n f).pciePort m = s.pciePort m := rfl
@[simp] theorem State.onRun_root (m : Nat) : (s.onRun n f).root m = s.root m := rfl
@[simp] theorem State.onRun_reduction (m : Nat) : (s.onRun n f).reduction m = s.reduction m := rfl
@[simp] theorem State.onRun_function (m k : Nat) : (s.onRun n f).function m k = s.function m k := rfl
@[simp] theorem State.onRun_counter (m k : Nat) : (s.onRun n f).counter m k = s.counter m k := rfl
end

/-! ### log -/

section
variable (s : State) (code : Nat) (a st cx : Option Nat) (h : List Nat)
@[simp] theorem State.log_pending : (s.log code a st cx h).pending = s.pending := rfl
@[simp] theorem State.log_time : (s.log code a st cx h).time = s.time := rfl
@[simp] theorem State.log_drawn : (s.log code a st cx h).drawn = s.drawn := rfl
@[simp] theorem State.log_freed : (s.log code a st cx h).freed = s.freed := rfl
@[simp] theorem State.log_power : (s.log code a st cx h).power = s.power := rfl
@[simp] theorem State.log_mstate : (s.log code a st cx h).mstate = s.mstate := rfl
@[simp] theorem State.log_phase : (s.log code a st cx h).phase = s.phase := rfl
@[simp] theorem State.log_training : (s.log code a st cx h).training = s.training := rfl
@[simp] theorem State.log_fcode : (s.log code a st cx h).fcode = s.fcode := rfl
@[simp] theorem State.log_tamperFuse : (s.log code a st cx h).tamperFuse = s.tamperFuse := rfl
@[simp] theorem State.log_tamperCount : (s.log code a st cx h).tamperCount = s.tamperCount := rfl
@[simp] theorem State.log_debugCount : (s.log code a st cx h).debugCount = s.debugCount := rfl
@[simp] theorem State.log_nonce : (s.log code a st cx h).nonce = s.nonce := rfl
@[simp] theorem State.log_unwrapped : (s.log code a st cx h).unwrapped = s.unwrapped := rfl
@[simp] theorem State.log_inForce : (s.log code a st cx h).inForce = s.inForce := rfl
@[simp] theorem State.log_installation : (s.log code a st cx h).installation = s.installation := rfl
@[simp] theorem State.log_bankFails : (s.log code a st cx h).bankFails = s.bankFails := rfl
@[simp] theorem State.log_flashA : (s.log code a st cx h).flashA = s.flashA := rfl
@[simp] theorem State.log_flashB : (s.log code a st cx h).flashB = s.flashB := rfl
@[simp] theorem State.log_flashBroken : (s.log code a st cx h).flashBroken = s.flashBroken := rfl
@[simp] theorem State.log_testPort : (s.log code a st cx h).testPort = s.testPort := rfl
@[simp] theorem State.log_sideband : (s.log code a st cx h).sideband = s.sideband := rfl
@[simp] theorem State.log_cores : (s.log code a st cx h).cores = s.cores := rfl
@[simp] theorem State.log_mesh : (s.log code a st cx h).mesh = s.mesh := rfl
@[simp] theorem State.log_outcomes : (s.log code a st cx h).outcomes = s.outcomes := rfl
@[simp] theorem State.log_gathers : (s.log code a st cx h).gathers = s.gathers := rfl
@[simp] theorem State.log_scatters : (s.log code a st cx h).scatters = s.scatters := rfl
@[simp] theorem State.log_reservoir : (s.log code a st cx h).reservoir = s.reservoir := rfl
@[simp] theorem State.log_poison : (s.log code a st cx h).poison = s.poison := rfl
@[simp] theorem State.log_gddr : (s.log code a st cx h).gddr = s.gddr := rfl
@[simp] theorem State.log_roots : (s.log code a st cx h).roots = s.roots := rfl
@[simp] theorem State.log_counters : (s.log code a st cx h).counters = s.counters := rfl
@[simp] theorem State.log_channels : (s.log code a st cx h).channels = s.channels := rfl
@[simp] theorem State.log_tags : (s.log code a st cx h).tags = s.tags := rfl
@[simp] theorem State.log_tagWaits : (s.log code a st cx h).tagWaits = s.tagWaits := rfl
@[simp] theorem State.log_dmaTurn : (s.log code a st cx h).dmaTurn = s.dmaTurn := rfl
@[simp] theorem State.log_dmaLast : (s.log code a st cx h).dmaLast = s.dmaLast := rfl
@[simp] theorem State.log_dmas : (s.log code a st cx h).dmas = s.dmas := rfl
@[simp] theorem State.log_pcie : (s.log code a st cx h).pcie = s.pcie := rfl
@[simp] theorem State.log_functions : (s.log code a st cx h).functions = s.functions := rfl
@[simp] theorem State.log_recovery : (s.log code a st cx h).recovery = s.recovery := rfl
@[simp] theorem State.log_translations : (s.log code a st cx h).translations = s.translations := rfl
@[simp] theorem State.log_hostOut : (s.log code a st cx h).hostOut = s.hostOut := rfl
@[simp] theorem State.log_ateliers : (s.log code a st cx h).ateliers = s.ateliers := rfl
@[simp] theorem State.log_leases : (s.log code a st cx h).leases = s.leases := rfl
@[simp] theorem State.log_leaseSerial : (s.log code a st cx h).leaseSerial = s.leaseSerial := rfl
@[simp] theorem State.log_contexts : (s.log code a st cx h).contexts = s.contexts := rfl
@[simp] theorem State.log_queues : (s.log code a st cx h).queues = s.queues := rfl
@[simp] theorem State.log_mobjs : (s.log code a st cx h).mobjs = s.mobjs := rfl
@[simp] theorem State.log_fences : (s.log code a st cx h).fences = s.fences := rfl
@[simp] theorem State.log_images : (s.log code a st cx h).images = s.images := rfl
@[simp] theorem State.log_colls : (s.log code a st cx h).colls = s.colls := rfl
@[simp] theorem State.log_jobs : (s.log code a st cx h).jobs = s.jobs := rfl
@[simp] theorem State.log_commands : (s.log code a st cx h).commands = s.commands := rfl
@[simp] theorem State.log_nextSerial : (s.log code a st cx h).nextSerial = s.nextSerial := rfl
@[simp] theorem State.log_signals : (s.log code a st cx h).signals = s.signals := rfl
@[simp] theorem State.log_collectives : (s.log code a st cx h).collectives = s.collectives := rfl
@[simp] theorem State.log_reductions : (s.log code a st cx h).reductions = s.reductions := rfl
@[simp] theorem State.log_decants : (s.log code a st cx h).decants = s.decants := rfl
@[simp] theorem State.log_reservations : (s.log code a st cx h).reservations = s.reservations := rfl
@[simp] theorem State.log_panels : (s.log code a st cx h).panels = s.panels := rfl
@[simp] theorem State.log_flacon : (s.log code a st cx h).flacon = s.flacon := rfl
@[simp] theorem State.log_serving : (s.log code a st cx h).serving = s.serving := rfl
@[simp] theorem State.log_opened : (s.log code a st cx h).opened = s.opened := rfl
@[simp] theorem State.log_ports : (s.log code a st cx h).ports = s.ports := rfl
@[simp] theorem State.log_sessions : (s.log code a st cx h).sessions = s.sessions := rfl
@[simp] theorem State.log_erasedLeases : (s.log code a st cx h).erasedLeases = s.erasedLeases := rfl
@[simp] theorem State.log_leaseDrops : (s.log code a st cx h).leaseDrops = s.leaseDrops := rfl
@[simp] theorem State.log_core (m : Nat) : (s.log code a st cx h).core m = s.core m := rfl
@[simp] theorem State.log_atelier (m : Nat) : (s.log code a st cx h).atelier m = s.atelier m := rfl
@[simp] theorem State.log_lease (m : Nat) : (s.log code a st cx h).lease m = s.lease m := rfl
@[simp] theorem State.log_panel (m : Nat) : (s.log code a st cx h).panel m = s.panel m := rfl
@[simp] theorem State.log_channel (m : Nat) : (s.log code a st cx h).channel m = s.channel m := rfl
@[simp] theorem State.log_port (m : Nat) : (s.log code a st cx h).port m = s.port m := rfl
@[simp] theorem State.log_session (m : Nat) : (s.log code a st cx h).session m = s.session m := rfl
@[simp] theorem State.log_pciePort (m : Nat) : (s.log code a st cx h).pciePort m = s.pciePort m := rfl
@[simp] theorem State.log_root (m : Nat) : (s.log code a st cx h).root m = s.root m := rfl
@[simp] theorem State.log_reduction (m : Nat) : (s.log code a st cx h).reduction m = s.reduction m := rfl
@[simp] theorem State.log_function (m k : Nat) : (s.log code a st cx h).function m k = s.function m k := rfl
@[simp] theorem State.log_counter (m k : Nat) : (s.log code a st cx h).counter m k = s.counter m k := rfl
end

/-! ### note -/

section
variable (s : State) (code : Nat) (h : List Nat)
@[simp] theorem State.note_pending : (s.note code h).pending = s.pending := rfl
@[simp] theorem State.note_time : (s.note code h).time = s.time := rfl
@[simp] theorem State.note_drawn : (s.note code h).drawn = s.drawn := rfl
@[simp] theorem State.note_freed : (s.note code h).freed = s.freed := rfl
@[simp] theorem State.note_power : (s.note code h).power = s.power := rfl
@[simp] theorem State.note_mstate : (s.note code h).mstate = s.mstate := rfl
@[simp] theorem State.note_phase : (s.note code h).phase = s.phase := rfl
@[simp] theorem State.note_training : (s.note code h).training = s.training := rfl
@[simp] theorem State.note_fcode : (s.note code h).fcode = s.fcode := rfl
@[simp] theorem State.note_tamperFuse : (s.note code h).tamperFuse = s.tamperFuse := rfl
@[simp] theorem State.note_tamperCount : (s.note code h).tamperCount = s.tamperCount := rfl
@[simp] theorem State.note_debugCount : (s.note code h).debugCount = s.debugCount := rfl
@[simp] theorem State.note_nonce : (s.note code h).nonce = s.nonce := rfl
@[simp] theorem State.note_unwrapped : (s.note code h).unwrapped = s.unwrapped := rfl
@[simp] theorem State.note_inForce : (s.note code h).inForce = s.inForce := rfl
@[simp] theorem State.note_installation : (s.note code h).installation = s.installation := rfl
@[simp] theorem State.note_bankFails : (s.note code h).bankFails = s.bankFails := rfl
@[simp] theorem State.note_flashA : (s.note code h).flashA = s.flashA := rfl
@[simp] theorem State.note_flashB : (s.note code h).flashB = s.flashB := rfl
@[simp] theorem State.note_flashBroken : (s.note code h).flashBroken = s.flashBroken := rfl
@[simp] theorem State.note_testPort : (s.note code h).testPort = s.testPort := rfl
@[simp] theorem State.note_sideband : (s.note code h).sideband = s.sideband := rfl
@[simp] theorem State.note_cores : (s.note code h).cores = s.cores := rfl
@[simp] theorem State.note_mesh : (s.note code h).mesh = s.mesh := rfl
@[simp] theorem State.note_outcomes : (s.note code h).outcomes = s.outcomes := rfl
@[simp] theorem State.note_gathers : (s.note code h).gathers = s.gathers := rfl
@[simp] theorem State.note_scatters : (s.note code h).scatters = s.scatters := rfl
@[simp] theorem State.note_reservoir : (s.note code h).reservoir = s.reservoir := rfl
@[simp] theorem State.note_poison : (s.note code h).poison = s.poison := rfl
@[simp] theorem State.note_gddr : (s.note code h).gddr = s.gddr := rfl
@[simp] theorem State.note_roots : (s.note code h).roots = s.roots := rfl
@[simp] theorem State.note_counters : (s.note code h).counters = s.counters := rfl
@[simp] theorem State.note_channels : (s.note code h).channels = s.channels := rfl
@[simp] theorem State.note_tags : (s.note code h).tags = s.tags := rfl
@[simp] theorem State.note_tagWaits : (s.note code h).tagWaits = s.tagWaits := rfl
@[simp] theorem State.note_dmaTurn : (s.note code h).dmaTurn = s.dmaTurn := rfl
@[simp] theorem State.note_dmaLast : (s.note code h).dmaLast = s.dmaLast := rfl
@[simp] theorem State.note_dmas : (s.note code h).dmas = s.dmas := rfl
@[simp] theorem State.note_pcie : (s.note code h).pcie = s.pcie := rfl
@[simp] theorem State.note_functions : (s.note code h).functions = s.functions := rfl
@[simp] theorem State.note_recovery : (s.note code h).recovery = s.recovery := rfl
@[simp] theorem State.note_translations : (s.note code h).translations = s.translations := rfl
@[simp] theorem State.note_hostOut : (s.note code h).hostOut = s.hostOut := rfl
@[simp] theorem State.note_ateliers : (s.note code h).ateliers = s.ateliers := rfl
@[simp] theorem State.note_leases : (s.note code h).leases = s.leases := rfl
@[simp] theorem State.note_leaseSerial : (s.note code h).leaseSerial = s.leaseSerial := rfl
@[simp] theorem State.note_contexts : (s.note code h).contexts = s.contexts := rfl
@[simp] theorem State.note_queues : (s.note code h).queues = s.queues := rfl
@[simp] theorem State.note_mobjs : (s.note code h).mobjs = s.mobjs := rfl
@[simp] theorem State.note_fences : (s.note code h).fences = s.fences := rfl
@[simp] theorem State.note_images : (s.note code h).images = s.images := rfl
@[simp] theorem State.note_colls : (s.note code h).colls = s.colls := rfl
@[simp] theorem State.note_jobs : (s.note code h).jobs = s.jobs := rfl
@[simp] theorem State.note_commands : (s.note code h).commands = s.commands := rfl
@[simp] theorem State.note_nextSerial : (s.note code h).nextSerial = s.nextSerial := rfl
@[simp] theorem State.note_signals : (s.note code h).signals = s.signals := rfl
@[simp] theorem State.note_collectives : (s.note code h).collectives = s.collectives := rfl
@[simp] theorem State.note_reductions : (s.note code h).reductions = s.reductions := rfl
@[simp] theorem State.note_decants : (s.note code h).decants = s.decants := rfl
@[simp] theorem State.note_reservations : (s.note code h).reservations = s.reservations := rfl
@[simp] theorem State.note_panels : (s.note code h).panels = s.panels := rfl
@[simp] theorem State.note_flacon : (s.note code h).flacon = s.flacon := rfl
@[simp] theorem State.note_serving : (s.note code h).serving = s.serving := rfl
@[simp] theorem State.note_opened : (s.note code h).opened = s.opened := rfl
@[simp] theorem State.note_ports : (s.note code h).ports = s.ports := rfl
@[simp] theorem State.note_sessions : (s.note code h).sessions = s.sessions := rfl
@[simp] theorem State.note_erasedLeases : (s.note code h).erasedLeases = s.erasedLeases := rfl
@[simp] theorem State.note_leaseDrops : (s.note code h).leaseDrops = s.leaseDrops := rfl
@[simp] theorem State.note_core (m : Nat) : (s.note code h).core m = s.core m := rfl
@[simp] theorem State.note_atelier (m : Nat) : (s.note code h).atelier m = s.atelier m := rfl
@[simp] theorem State.note_lease (m : Nat) : (s.note code h).lease m = s.lease m := rfl
@[simp] theorem State.note_panel (m : Nat) : (s.note code h).panel m = s.panel m := rfl
@[simp] theorem State.note_channel (m : Nat) : (s.note code h).channel m = s.channel m := rfl
@[simp] theorem State.note_port (m : Nat) : (s.note code h).port m = s.port m := rfl
@[simp] theorem State.note_session (m : Nat) : (s.note code h).session m = s.session m := rfl
@[simp] theorem State.note_pciePort (m : Nat) : (s.note code h).pciePort m = s.pciePort m := rfl
@[simp] theorem State.note_root (m : Nat) : (s.note code h).root m = s.root m := rfl
@[simp] theorem State.note_reduction (m : Nat) : (s.note code h).reduction m = s.reduction m := rfl
@[simp] theorem State.note_function (m k : Nat) : (s.note code h).function m k = s.function m k := rfl
@[simp] theorem State.note_counter (m k : Nat) : (s.note code h).counter m k = s.counter m k := rfl
end

/-! ### noteIn -/

section
variable (s : State) (a code : Nat) (h : List Nat)
@[simp] theorem State.noteIn_pending : (s.noteIn a code h).pending = s.pending := rfl
@[simp] theorem State.noteIn_time : (s.noteIn a code h).time = s.time := rfl
@[simp] theorem State.noteIn_drawn : (s.noteIn a code h).drawn = s.drawn := rfl
@[simp] theorem State.noteIn_freed : (s.noteIn a code h).freed = s.freed := rfl
@[simp] theorem State.noteIn_power : (s.noteIn a code h).power = s.power := rfl
@[simp] theorem State.noteIn_mstate : (s.noteIn a code h).mstate = s.mstate := rfl
@[simp] theorem State.noteIn_phase : (s.noteIn a code h).phase = s.phase := rfl
@[simp] theorem State.noteIn_training : (s.noteIn a code h).training = s.training := rfl
@[simp] theorem State.noteIn_fcode : (s.noteIn a code h).fcode = s.fcode := rfl
@[simp] theorem State.noteIn_tamperFuse : (s.noteIn a code h).tamperFuse = s.tamperFuse := rfl
@[simp] theorem State.noteIn_tamperCount : (s.noteIn a code h).tamperCount = s.tamperCount := rfl
@[simp] theorem State.noteIn_debugCount : (s.noteIn a code h).debugCount = s.debugCount := rfl
@[simp] theorem State.noteIn_nonce : (s.noteIn a code h).nonce = s.nonce := rfl
@[simp] theorem State.noteIn_unwrapped : (s.noteIn a code h).unwrapped = s.unwrapped := rfl
@[simp] theorem State.noteIn_inForce : (s.noteIn a code h).inForce = s.inForce := rfl
@[simp] theorem State.noteIn_installation : (s.noteIn a code h).installation = s.installation := rfl
@[simp] theorem State.noteIn_bankFails : (s.noteIn a code h).bankFails = s.bankFails := rfl
@[simp] theorem State.noteIn_flashA : (s.noteIn a code h).flashA = s.flashA := rfl
@[simp] theorem State.noteIn_flashB : (s.noteIn a code h).flashB = s.flashB := rfl
@[simp] theorem State.noteIn_flashBroken : (s.noteIn a code h).flashBroken = s.flashBroken := rfl
@[simp] theorem State.noteIn_testPort : (s.noteIn a code h).testPort = s.testPort := rfl
@[simp] theorem State.noteIn_sideband : (s.noteIn a code h).sideband = s.sideband := rfl
@[simp] theorem State.noteIn_cores : (s.noteIn a code h).cores = s.cores := rfl
@[simp] theorem State.noteIn_mesh : (s.noteIn a code h).mesh = s.mesh := rfl
@[simp] theorem State.noteIn_outcomes : (s.noteIn a code h).outcomes = s.outcomes := rfl
@[simp] theorem State.noteIn_gathers : (s.noteIn a code h).gathers = s.gathers := rfl
@[simp] theorem State.noteIn_scatters : (s.noteIn a code h).scatters = s.scatters := rfl
@[simp] theorem State.noteIn_reservoir : (s.noteIn a code h).reservoir = s.reservoir := rfl
@[simp] theorem State.noteIn_poison : (s.noteIn a code h).poison = s.poison := rfl
@[simp] theorem State.noteIn_gddr : (s.noteIn a code h).gddr = s.gddr := rfl
@[simp] theorem State.noteIn_roots : (s.noteIn a code h).roots = s.roots := rfl
@[simp] theorem State.noteIn_counters : (s.noteIn a code h).counters = s.counters := rfl
@[simp] theorem State.noteIn_channels : (s.noteIn a code h).channels = s.channels := rfl
@[simp] theorem State.noteIn_tags : (s.noteIn a code h).tags = s.tags := rfl
@[simp] theorem State.noteIn_tagWaits : (s.noteIn a code h).tagWaits = s.tagWaits := rfl
@[simp] theorem State.noteIn_dmaTurn : (s.noteIn a code h).dmaTurn = s.dmaTurn := rfl
@[simp] theorem State.noteIn_dmaLast : (s.noteIn a code h).dmaLast = s.dmaLast := rfl
@[simp] theorem State.noteIn_dmas : (s.noteIn a code h).dmas = s.dmas := rfl
@[simp] theorem State.noteIn_pcie : (s.noteIn a code h).pcie = s.pcie := rfl
@[simp] theorem State.noteIn_functions : (s.noteIn a code h).functions = s.functions := rfl
@[simp] theorem State.noteIn_recovery : (s.noteIn a code h).recovery = s.recovery := rfl
@[simp] theorem State.noteIn_translations : (s.noteIn a code h).translations = s.translations := rfl
@[simp] theorem State.noteIn_hostOut : (s.noteIn a code h).hostOut = s.hostOut := rfl
@[simp] theorem State.noteIn_ateliers : (s.noteIn a code h).ateliers = s.ateliers := rfl
@[simp] theorem State.noteIn_leases : (s.noteIn a code h).leases = s.leases := rfl
@[simp] theorem State.noteIn_leaseSerial : (s.noteIn a code h).leaseSerial = s.leaseSerial := rfl
@[simp] theorem State.noteIn_contexts : (s.noteIn a code h).contexts = s.contexts := rfl
@[simp] theorem State.noteIn_queues : (s.noteIn a code h).queues = s.queues := rfl
@[simp] theorem State.noteIn_mobjs : (s.noteIn a code h).mobjs = s.mobjs := rfl
@[simp] theorem State.noteIn_fences : (s.noteIn a code h).fences = s.fences := rfl
@[simp] theorem State.noteIn_images : (s.noteIn a code h).images = s.images := rfl
@[simp] theorem State.noteIn_colls : (s.noteIn a code h).colls = s.colls := rfl
@[simp] theorem State.noteIn_jobs : (s.noteIn a code h).jobs = s.jobs := rfl
@[simp] theorem State.noteIn_commands : (s.noteIn a code h).commands = s.commands := rfl
@[simp] theorem State.noteIn_nextSerial : (s.noteIn a code h).nextSerial = s.nextSerial := rfl
@[simp] theorem State.noteIn_signals : (s.noteIn a code h).signals = s.signals := rfl
@[simp] theorem State.noteIn_collectives : (s.noteIn a code h).collectives = s.collectives := rfl
@[simp] theorem State.noteIn_reductions : (s.noteIn a code h).reductions = s.reductions := rfl
@[simp] theorem State.noteIn_decants : (s.noteIn a code h).decants = s.decants := rfl
@[simp] theorem State.noteIn_reservations : (s.noteIn a code h).reservations = s.reservations := rfl
@[simp] theorem State.noteIn_panels : (s.noteIn a code h).panels = s.panels := rfl
@[simp] theorem State.noteIn_flacon : (s.noteIn a code h).flacon = s.flacon := rfl
@[simp] theorem State.noteIn_serving : (s.noteIn a code h).serving = s.serving := rfl
@[simp] theorem State.noteIn_opened : (s.noteIn a code h).opened = s.opened := rfl
@[simp] theorem State.noteIn_ports : (s.noteIn a code h).ports = s.ports := rfl
@[simp] theorem State.noteIn_sessions : (s.noteIn a code h).sessions = s.sessions := rfl
@[simp] theorem State.noteIn_erasedLeases : (s.noteIn a code h).erasedLeases = s.erasedLeases := rfl
@[simp] theorem State.noteIn_leaseDrops : (s.noteIn a code h).leaseDrops = s.leaseDrops := rfl
@[simp] theorem State.noteIn_core (m : Nat) : (s.noteIn a code h).core m = s.core m := rfl
@[simp] theorem State.noteIn_atelier (m : Nat) : (s.noteIn a code h).atelier m = s.atelier m := rfl
@[simp] theorem State.noteIn_lease (m : Nat) : (s.noteIn a code h).lease m = s.lease m := rfl
@[simp] theorem State.noteIn_panel (m : Nat) : (s.noteIn a code h).panel m = s.panel m := rfl
@[simp] theorem State.noteIn_channel (m : Nat) : (s.noteIn a code h).channel m = s.channel m := rfl
@[simp] theorem State.noteIn_port (m : Nat) : (s.noteIn a code h).port m = s.port m := rfl
@[simp] theorem State.noteIn_session (m : Nat) : (s.noteIn a code h).session m = s.session m := rfl
@[simp] theorem State.noteIn_pciePort (m : Nat) : (s.noteIn a code h).pciePort m = s.pciePort m := rfl
@[simp] theorem State.noteIn_root (m : Nat) : (s.noteIn a code h).root m = s.root m := rfl
@[simp] theorem State.noteIn_reduction (m : Nat) : (s.noteIn a code h).reduction m = s.reduction m := rfl
@[simp] theorem State.noteIn_function (m k : Nat) : (s.noteIn a code h).function m k = s.function m k := rfl
@[simp] theorem State.noteIn_counter (m k : Nat) : (s.noteIn a code h).counter m k = s.counter m k := rfl
end

/-! ### reach -/

section
variable (s : State) (t : Word64)
@[simp] theorem State.reach_pending : (s.reach t).pending = s.pending := rfl
@[simp] theorem State.reach_drawn : (s.reach t).drawn = s.drawn := rfl
@[simp] theorem State.reach_freed : (s.reach t).freed = s.freed := rfl
@[simp] theorem State.reach_power : (s.reach t).power = s.power := rfl
@[simp] theorem State.reach_mstate : (s.reach t).mstate = s.mstate := rfl
@[simp] theorem State.reach_phase : (s.reach t).phase = s.phase := rfl
@[simp] theorem State.reach_training : (s.reach t).training = s.training := rfl
@[simp] theorem State.reach_fcode : (s.reach t).fcode = s.fcode := rfl
@[simp] theorem State.reach_tamperFuse : (s.reach t).tamperFuse = s.tamperFuse := rfl
@[simp] theorem State.reach_tamperCount : (s.reach t).tamperCount = s.tamperCount := rfl
@[simp] theorem State.reach_debugCount : (s.reach t).debugCount = s.debugCount := rfl
@[simp] theorem State.reach_nonce : (s.reach t).nonce = s.nonce := rfl
@[simp] theorem State.reach_unwrapped : (s.reach t).unwrapped = s.unwrapped := rfl
@[simp] theorem State.reach_inForce : (s.reach t).inForce = s.inForce := rfl
@[simp] theorem State.reach_installation : (s.reach t).installation = s.installation := rfl
@[simp] theorem State.reach_bankFails : (s.reach t).bankFails = s.bankFails := rfl
@[simp] theorem State.reach_flashA : (s.reach t).flashA = s.flashA := rfl
@[simp] theorem State.reach_flashB : (s.reach t).flashB = s.flashB := rfl
@[simp] theorem State.reach_flashBroken : (s.reach t).flashBroken = s.flashBroken := rfl
@[simp] theorem State.reach_testPort : (s.reach t).testPort = s.testPort := rfl
@[simp] theorem State.reach_sideband : (s.reach t).sideband = s.sideband := rfl
@[simp] theorem State.reach_cores : (s.reach t).cores = s.cores := rfl
@[simp] theorem State.reach_mesh : (s.reach t).mesh = s.mesh := rfl
@[simp] theorem State.reach_outcomes : (s.reach t).outcomes = s.outcomes := rfl
@[simp] theorem State.reach_gathers : (s.reach t).gathers = s.gathers := rfl
@[simp] theorem State.reach_scatters : (s.reach t).scatters = s.scatters := rfl
@[simp] theorem State.reach_reservoir : (s.reach t).reservoir = s.reservoir := rfl
@[simp] theorem State.reach_poison : (s.reach t).poison = s.poison := rfl
@[simp] theorem State.reach_gddr : (s.reach t).gddr = s.gddr := rfl
@[simp] theorem State.reach_roots : (s.reach t).roots = s.roots := rfl
@[simp] theorem State.reach_counters : (s.reach t).counters = s.counters := rfl
@[simp] theorem State.reach_channels : (s.reach t).channels = s.channels := rfl
@[simp] theorem State.reach_tags : (s.reach t).tags = s.tags := rfl
@[simp] theorem State.reach_tagWaits : (s.reach t).tagWaits = s.tagWaits := rfl
@[simp] theorem State.reach_dmaTurn : (s.reach t).dmaTurn = s.dmaTurn := rfl
@[simp] theorem State.reach_dmaLast : (s.reach t).dmaLast = s.dmaLast := rfl
@[simp] theorem State.reach_dmas : (s.reach t).dmas = s.dmas := rfl
@[simp] theorem State.reach_pcie : (s.reach t).pcie = s.pcie := rfl
@[simp] theorem State.reach_functions : (s.reach t).functions = s.functions := rfl
@[simp] theorem State.reach_recovery : (s.reach t).recovery = s.recovery := rfl
@[simp] theorem State.reach_translations : (s.reach t).translations = s.translations := rfl
@[simp] theorem State.reach_hostOut : (s.reach t).hostOut = s.hostOut := rfl
@[simp] theorem State.reach_ateliers : (s.reach t).ateliers = s.ateliers := rfl
@[simp] theorem State.reach_leases : (s.reach t).leases = s.leases := rfl
@[simp] theorem State.reach_leaseSerial : (s.reach t).leaseSerial = s.leaseSerial := rfl
@[simp] theorem State.reach_contexts : (s.reach t).contexts = s.contexts := rfl
@[simp] theorem State.reach_queues : (s.reach t).queues = s.queues := rfl
@[simp] theorem State.reach_mobjs : (s.reach t).mobjs = s.mobjs := rfl
@[simp] theorem State.reach_fences : (s.reach t).fences = s.fences := rfl
@[simp] theorem State.reach_images : (s.reach t).images = s.images := rfl
@[simp] theorem State.reach_colls : (s.reach t).colls = s.colls := rfl
@[simp] theorem State.reach_jobs : (s.reach t).jobs = s.jobs := rfl
@[simp] theorem State.reach_commands : (s.reach t).commands = s.commands := rfl
@[simp] theorem State.reach_nextSerial : (s.reach t).nextSerial = s.nextSerial := rfl
@[simp] theorem State.reach_signals : (s.reach t).signals = s.signals := rfl
@[simp] theorem State.reach_collectives : (s.reach t).collectives = s.collectives := rfl
@[simp] theorem State.reach_reductions : (s.reach t).reductions = s.reductions := rfl
@[simp] theorem State.reach_decants : (s.reach t).decants = s.decants := rfl
@[simp] theorem State.reach_reservations : (s.reach t).reservations = s.reservations := rfl
@[simp] theorem State.reach_panels : (s.reach t).panels = s.panels := rfl
@[simp] theorem State.reach_flacon : (s.reach t).flacon = s.flacon := rfl
@[simp] theorem State.reach_serving : (s.reach t).serving = s.serving := rfl
@[simp] theorem State.reach_opened : (s.reach t).opened = s.opened := rfl
@[simp] theorem State.reach_ports : (s.reach t).ports = s.ports := rfl
@[simp] theorem State.reach_sessions : (s.reach t).sessions = s.sessions := rfl
@[simp] theorem State.reach_erasedLeases : (s.reach t).erasedLeases = s.erasedLeases := rfl
@[simp] theorem State.reach_leaseDrops : (s.reach t).leaseDrops = s.leaseDrops := rfl
@[simp] theorem State.reach_blotter : (s.reach t).blotter = s.blotter := rfl
@[simp] theorem State.reach_core (m : Nat) : (s.reach t).core m = s.core m := rfl
@[simp] theorem State.reach_atelier (m : Nat) : (s.reach t).atelier m = s.atelier m := rfl
@[simp] theorem State.reach_lease (m : Nat) : (s.reach t).lease m = s.lease m := rfl
@[simp] theorem State.reach_panel (m : Nat) : (s.reach t).panel m = s.panel m := rfl
@[simp] theorem State.reach_channel (m : Nat) : (s.reach t).channel m = s.channel m := rfl
@[simp] theorem State.reach_port (m : Nat) : (s.reach t).port m = s.port m := rfl
@[simp] theorem State.reach_session (m : Nat) : (s.reach t).session m = s.session m := rfl
@[simp] theorem State.reach_pciePort (m : Nat) : (s.reach t).pciePort m = s.pciePort m := rfl
@[simp] theorem State.reach_root (m : Nat) : (s.reach t).root m = s.root m := rfl
@[simp] theorem State.reach_reduction (m : Nat) : (s.reach t).reduction m = s.reduction m := rfl
@[simp] theorem State.reach_function (m k : Nat) : (s.reach t).function m k = s.function m k := rfl
@[simp] theorem State.reach_counter (m k : Nat) : (s.reach t).counter m k = s.counter m k := rfl
end

/-! ### drew -/

section
variable (s : State) 
@[simp] theorem State.drew_pending : (s.drew).pending = s.pending := rfl
@[simp] theorem State.drew_time : (s.drew).time = s.time := rfl
@[simp] theorem State.drew_freed : (s.drew).freed = s.freed := rfl
@[simp] theorem State.drew_power : (s.drew).power = s.power := rfl
@[simp] theorem State.drew_mstate : (s.drew).mstate = s.mstate := rfl
@[simp] theorem State.drew_phase : (s.drew).phase = s.phase := rfl
@[simp] theorem State.drew_training : (s.drew).training = s.training := rfl
@[simp] theorem State.drew_fcode : (s.drew).fcode = s.fcode := rfl
@[simp] theorem State.drew_tamperFuse : (s.drew).tamperFuse = s.tamperFuse := rfl
@[simp] theorem State.drew_tamperCount : (s.drew).tamperCount = s.tamperCount := rfl
@[simp] theorem State.drew_debugCount : (s.drew).debugCount = s.debugCount := rfl
@[simp] theorem State.drew_nonce : (s.drew).nonce = s.nonce := rfl
@[simp] theorem State.drew_unwrapped : (s.drew).unwrapped = s.unwrapped := rfl
@[simp] theorem State.drew_inForce : (s.drew).inForce = s.inForce := rfl
@[simp] theorem State.drew_installation : (s.drew).installation = s.installation := rfl
@[simp] theorem State.drew_bankFails : (s.drew).bankFails = s.bankFails := rfl
@[simp] theorem State.drew_flashA : (s.drew).flashA = s.flashA := rfl
@[simp] theorem State.drew_flashB : (s.drew).flashB = s.flashB := rfl
@[simp] theorem State.drew_flashBroken : (s.drew).flashBroken = s.flashBroken := rfl
@[simp] theorem State.drew_testPort : (s.drew).testPort = s.testPort := rfl
@[simp] theorem State.drew_sideband : (s.drew).sideband = s.sideband := rfl
@[simp] theorem State.drew_cores : (s.drew).cores = s.cores := rfl
@[simp] theorem State.drew_mesh : (s.drew).mesh = s.mesh := rfl
@[simp] theorem State.drew_outcomes : (s.drew).outcomes = s.outcomes := rfl
@[simp] theorem State.drew_gathers : (s.drew).gathers = s.gathers := rfl
@[simp] theorem State.drew_scatters : (s.drew).scatters = s.scatters := rfl
@[simp] theorem State.drew_reservoir : (s.drew).reservoir = s.reservoir := rfl
@[simp] theorem State.drew_poison : (s.drew).poison = s.poison := rfl
@[simp] theorem State.drew_gddr : (s.drew).gddr = s.gddr := rfl
@[simp] theorem State.drew_roots : (s.drew).roots = s.roots := rfl
@[simp] theorem State.drew_counters : (s.drew).counters = s.counters := rfl
@[simp] theorem State.drew_channels : (s.drew).channels = s.channels := rfl
@[simp] theorem State.drew_tags : (s.drew).tags = s.tags := rfl
@[simp] theorem State.drew_tagWaits : (s.drew).tagWaits = s.tagWaits := rfl
@[simp] theorem State.drew_dmaTurn : (s.drew).dmaTurn = s.dmaTurn := rfl
@[simp] theorem State.drew_dmaLast : (s.drew).dmaLast = s.dmaLast := rfl
@[simp] theorem State.drew_dmas : (s.drew).dmas = s.dmas := rfl
@[simp] theorem State.drew_pcie : (s.drew).pcie = s.pcie := rfl
@[simp] theorem State.drew_functions : (s.drew).functions = s.functions := rfl
@[simp] theorem State.drew_recovery : (s.drew).recovery = s.recovery := rfl
@[simp] theorem State.drew_translations : (s.drew).translations = s.translations := rfl
@[simp] theorem State.drew_hostOut : (s.drew).hostOut = s.hostOut := rfl
@[simp] theorem State.drew_ateliers : (s.drew).ateliers = s.ateliers := rfl
@[simp] theorem State.drew_leases : (s.drew).leases = s.leases := rfl
@[simp] theorem State.drew_leaseSerial : (s.drew).leaseSerial = s.leaseSerial := rfl
@[simp] theorem State.drew_contexts : (s.drew).contexts = s.contexts := rfl
@[simp] theorem State.drew_queues : (s.drew).queues = s.queues := rfl
@[simp] theorem State.drew_mobjs : (s.drew).mobjs = s.mobjs := rfl
@[simp] theorem State.drew_fences : (s.drew).fences = s.fences := rfl
@[simp] theorem State.drew_images : (s.drew).images = s.images := rfl
@[simp] theorem State.drew_colls : (s.drew).colls = s.colls := rfl
@[simp] theorem State.drew_jobs : (s.drew).jobs = s.jobs := rfl
@[simp] theorem State.drew_commands : (s.drew).commands = s.commands := rfl
@[simp] theorem State.drew_nextSerial : (s.drew).nextSerial = s.nextSerial := rfl
@[simp] theorem State.drew_signals : (s.drew).signals = s.signals := rfl
@[simp] theorem State.drew_collectives : (s.drew).collectives = s.collectives := rfl
@[simp] theorem State.drew_reductions : (s.drew).reductions = s.reductions := rfl
@[simp] theorem State.drew_decants : (s.drew).decants = s.decants := rfl
@[simp] theorem State.drew_reservations : (s.drew).reservations = s.reservations := rfl
@[simp] theorem State.drew_panels : (s.drew).panels = s.panels := rfl
@[simp] theorem State.drew_flacon : (s.drew).flacon = s.flacon := rfl
@[simp] theorem State.drew_serving : (s.drew).serving = s.serving := rfl
@[simp] theorem State.drew_opened : (s.drew).opened = s.opened := rfl
@[simp] theorem State.drew_ports : (s.drew).ports = s.ports := rfl
@[simp] theorem State.drew_sessions : (s.drew).sessions = s.sessions := rfl
@[simp] theorem State.drew_erasedLeases : (s.drew).erasedLeases = s.erasedLeases := rfl
@[simp] theorem State.drew_leaseDrops : (s.drew).leaseDrops = s.leaseDrops := rfl
@[simp] theorem State.drew_blotter : (s.drew).blotter = s.blotter := rfl
@[simp] theorem State.drew_core (m : Nat) : (s.drew).core m = s.core m := rfl
@[simp] theorem State.drew_atelier (m : Nat) : (s.drew).atelier m = s.atelier m := rfl
@[simp] theorem State.drew_lease (m : Nat) : (s.drew).lease m = s.lease m := rfl
@[simp] theorem State.drew_panel (m : Nat) : (s.drew).panel m = s.panel m := rfl
@[simp] theorem State.drew_channel (m : Nat) : (s.drew).channel m = s.channel m := rfl
@[simp] theorem State.drew_port (m : Nat) : (s.drew).port m = s.port m := rfl
@[simp] theorem State.drew_session (m : Nat) : (s.drew).session m = s.session m := rfl
@[simp] theorem State.drew_pciePort (m : Nat) : (s.drew).pciePort m = s.pciePort m := rfl
@[simp] theorem State.drew_root (m : Nat) : (s.drew).root m = s.root m := rfl
@[simp] theorem State.drew_reduction (m : Nat) : (s.drew).reduction m = s.reduction m := rfl
@[simp] theorem State.drew_function (m k : Nat) : (s.drew).function m k = s.function m k := rfl
@[simp] theorem State.drew_counter (m k : Nat) : (s.drew).counter m k = s.counter m k := rfl
end

/-! ### takeTag -/

section
variable (s : State) (a n engine : Nat)
@[simp] theorem State.takeTag_pending : (s.takeTag a n engine).pending = s.pending := rfl
@[simp] theorem State.takeTag_time : (s.takeTag a n engine).time = s.time := rfl
@[simp] theorem State.takeTag_drawn : (s.takeTag a n engine).drawn = s.drawn := rfl
@[simp] theorem State.takeTag_freed : (s.takeTag a n engine).freed = s.freed := rfl
@[simp] theorem State.takeTag_power : (s.takeTag a n engine).power = s.power := rfl
@[simp] theorem State.takeTag_mstate : (s.takeTag a n engine).mstate = s.mstate := rfl
@[simp] theorem State.takeTag_phase : (s.takeTag a n engine).phase = s.phase := rfl
@[simp] theorem State.takeTag_training : (s.takeTag a n engine).training = s.training := rfl
@[simp] theorem State.takeTag_fcode : (s.takeTag a n engine).fcode = s.fcode := rfl
@[simp] theorem State.takeTag_tamperFuse : (s.takeTag a n engine).tamperFuse = s.tamperFuse := rfl
@[simp] theorem State.takeTag_tamperCount : (s.takeTag a n engine).tamperCount = s.tamperCount := rfl
@[simp] theorem State.takeTag_debugCount : (s.takeTag a n engine).debugCount = s.debugCount := rfl
@[simp] theorem State.takeTag_nonce : (s.takeTag a n engine).nonce = s.nonce := rfl
@[simp] theorem State.takeTag_unwrapped : (s.takeTag a n engine).unwrapped = s.unwrapped := rfl
@[simp] theorem State.takeTag_inForce : (s.takeTag a n engine).inForce = s.inForce := rfl
@[simp] theorem State.takeTag_installation : (s.takeTag a n engine).installation = s.installation := rfl
@[simp] theorem State.takeTag_bankFails : (s.takeTag a n engine).bankFails = s.bankFails := rfl
@[simp] theorem State.takeTag_flashA : (s.takeTag a n engine).flashA = s.flashA := rfl
@[simp] theorem State.takeTag_flashB : (s.takeTag a n engine).flashB = s.flashB := rfl
@[simp] theorem State.takeTag_flashBroken : (s.takeTag a n engine).flashBroken = s.flashBroken := rfl
@[simp] theorem State.takeTag_testPort : (s.takeTag a n engine).testPort = s.testPort := rfl
@[simp] theorem State.takeTag_sideband : (s.takeTag a n engine).sideband = s.sideband := rfl
@[simp] theorem State.takeTag_cores : (s.takeTag a n engine).cores = s.cores := rfl
@[simp] theorem State.takeTag_mesh : (s.takeTag a n engine).mesh = s.mesh := rfl
@[simp] theorem State.takeTag_outcomes : (s.takeTag a n engine).outcomes = s.outcomes := rfl
@[simp] theorem State.takeTag_gathers : (s.takeTag a n engine).gathers = s.gathers := rfl
@[simp] theorem State.takeTag_scatters : (s.takeTag a n engine).scatters = s.scatters := rfl
@[simp] theorem State.takeTag_reservoir : (s.takeTag a n engine).reservoir = s.reservoir := rfl
@[simp] theorem State.takeTag_poison : (s.takeTag a n engine).poison = s.poison := rfl
@[simp] theorem State.takeTag_gddr : (s.takeTag a n engine).gddr = s.gddr := rfl
@[simp] theorem State.takeTag_roots : (s.takeTag a n engine).roots = s.roots := rfl
@[simp] theorem State.takeTag_counters : (s.takeTag a n engine).counters = s.counters := rfl
@[simp] theorem State.takeTag_channels : (s.takeTag a n engine).channels = s.channels := rfl
@[simp] theorem State.takeTag_tagWaits : (s.takeTag a n engine).tagWaits = s.tagWaits := rfl
@[simp] theorem State.takeTag_dmaTurn : (s.takeTag a n engine).dmaTurn = s.dmaTurn := rfl
@[simp] theorem State.takeTag_dmaLast : (s.takeTag a n engine).dmaLast = s.dmaLast := rfl
@[simp] theorem State.takeTag_dmas : (s.takeTag a n engine).dmas = s.dmas := rfl
@[simp] theorem State.takeTag_pcie : (s.takeTag a n engine).pcie = s.pcie := rfl
@[simp] theorem State.takeTag_functions : (s.takeTag a n engine).functions = s.functions := rfl
@[simp] theorem State.takeTag_recovery : (s.takeTag a n engine).recovery = s.recovery := rfl
@[simp] theorem State.takeTag_translations : (s.takeTag a n engine).translations = s.translations := rfl
@[simp] theorem State.takeTag_hostOut : (s.takeTag a n engine).hostOut = s.hostOut := rfl
@[simp] theorem State.takeTag_ateliers : (s.takeTag a n engine).ateliers = s.ateliers := rfl
@[simp] theorem State.takeTag_leases : (s.takeTag a n engine).leases = s.leases := rfl
@[simp] theorem State.takeTag_leaseSerial : (s.takeTag a n engine).leaseSerial = s.leaseSerial := rfl
@[simp] theorem State.takeTag_contexts : (s.takeTag a n engine).contexts = s.contexts := rfl
@[simp] theorem State.takeTag_queues : (s.takeTag a n engine).queues = s.queues := rfl
@[simp] theorem State.takeTag_mobjs : (s.takeTag a n engine).mobjs = s.mobjs := rfl
@[simp] theorem State.takeTag_fences : (s.takeTag a n engine).fences = s.fences := rfl
@[simp] theorem State.takeTag_images : (s.takeTag a n engine).images = s.images := rfl
@[simp] theorem State.takeTag_colls : (s.takeTag a n engine).colls = s.colls := rfl
@[simp] theorem State.takeTag_jobs : (s.takeTag a n engine).jobs = s.jobs := rfl
@[simp] theorem State.takeTag_commands : (s.takeTag a n engine).commands = s.commands := rfl
@[simp] theorem State.takeTag_nextSerial : (s.takeTag a n engine).nextSerial = s.nextSerial := rfl
@[simp] theorem State.takeTag_signals : (s.takeTag a n engine).signals = s.signals := rfl
@[simp] theorem State.takeTag_collectives : (s.takeTag a n engine).collectives = s.collectives := rfl
@[simp] theorem State.takeTag_reductions : (s.takeTag a n engine).reductions = s.reductions := rfl
@[simp] theorem State.takeTag_decants : (s.takeTag a n engine).decants = s.decants := rfl
@[simp] theorem State.takeTag_reservations : (s.takeTag a n engine).reservations = s.reservations := rfl
@[simp] theorem State.takeTag_panels : (s.takeTag a n engine).panels = s.panels := rfl
@[simp] theorem State.takeTag_flacon : (s.takeTag a n engine).flacon = s.flacon := rfl
@[simp] theorem State.takeTag_serving : (s.takeTag a n engine).serving = s.serving := rfl
@[simp] theorem State.takeTag_opened : (s.takeTag a n engine).opened = s.opened := rfl
@[simp] theorem State.takeTag_ports : (s.takeTag a n engine).ports = s.ports := rfl
@[simp] theorem State.takeTag_sessions : (s.takeTag a n engine).sessions = s.sessions := rfl
@[simp] theorem State.takeTag_erasedLeases : (s.takeTag a n engine).erasedLeases = s.erasedLeases := rfl
@[simp] theorem State.takeTag_leaseDrops : (s.takeTag a n engine).leaseDrops = s.leaseDrops := rfl
@[simp] theorem State.takeTag_blotter : (s.takeTag a n engine).blotter = s.blotter := rfl
@[simp] theorem State.takeTag_core (m : Nat) : (s.takeTag a n engine).core m = s.core m := rfl
@[simp] theorem State.takeTag_atelier (m : Nat) : (s.takeTag a n engine).atelier m = s.atelier m := rfl
@[simp] theorem State.takeTag_lease (m : Nat) : (s.takeTag a n engine).lease m = s.lease m := rfl
@[simp] theorem State.takeTag_panel (m : Nat) : (s.takeTag a n engine).panel m = s.panel m := rfl
@[simp] theorem State.takeTag_channel (m : Nat) : (s.takeTag a n engine).channel m = s.channel m := rfl
@[simp] theorem State.takeTag_port (m : Nat) : (s.takeTag a n engine).port m = s.port m := rfl
@[simp] theorem State.takeTag_session (m : Nat) : (s.takeTag a n engine).session m = s.session m := rfl
@[simp] theorem State.takeTag_pciePort (m : Nat) : (s.takeTag a n engine).pciePort m = s.pciePort m := rfl
@[simp] theorem State.takeTag_root (m : Nat) : (s.takeTag a n engine).root m = s.root m := rfl
@[simp] theorem State.takeTag_reduction (m : Nat) : (s.takeTag a n engine).reduction m = s.reduction m := rfl
@[simp] theorem State.takeTag_function (m k : Nat) : (s.takeTag a n engine).function m k = s.function m k := rfl
@[simp] theorem State.takeTag_counter (m k : Nat) : (s.takeTag a n engine).counter m k = s.counter m k := rfl
end

/-! ### dropTag -/

section
variable (s : State) (n : Nat)
@[simp] theorem State.dropTag_pending : (s.dropTag n).pending = s.pending := rfl
@[simp] theorem State.dropTag_time : (s.dropTag n).time = s.time := rfl
@[simp] theorem State.dropTag_drawn : (s.dropTag n).drawn = s.drawn := rfl
@[simp] theorem State.dropTag_freed : (s.dropTag n).freed = s.freed := rfl
@[simp] theorem State.dropTag_power : (s.dropTag n).power = s.power := rfl
@[simp] theorem State.dropTag_mstate : (s.dropTag n).mstate = s.mstate := rfl
@[simp] theorem State.dropTag_phase : (s.dropTag n).phase = s.phase := rfl
@[simp] theorem State.dropTag_training : (s.dropTag n).training = s.training := rfl
@[simp] theorem State.dropTag_fcode : (s.dropTag n).fcode = s.fcode := rfl
@[simp] theorem State.dropTag_tamperFuse : (s.dropTag n).tamperFuse = s.tamperFuse := rfl
@[simp] theorem State.dropTag_tamperCount : (s.dropTag n).tamperCount = s.tamperCount := rfl
@[simp] theorem State.dropTag_debugCount : (s.dropTag n).debugCount = s.debugCount := rfl
@[simp] theorem State.dropTag_nonce : (s.dropTag n).nonce = s.nonce := rfl
@[simp] theorem State.dropTag_unwrapped : (s.dropTag n).unwrapped = s.unwrapped := rfl
@[simp] theorem State.dropTag_inForce : (s.dropTag n).inForce = s.inForce := rfl
@[simp] theorem State.dropTag_installation : (s.dropTag n).installation = s.installation := rfl
@[simp] theorem State.dropTag_bankFails : (s.dropTag n).bankFails = s.bankFails := rfl
@[simp] theorem State.dropTag_flashA : (s.dropTag n).flashA = s.flashA := rfl
@[simp] theorem State.dropTag_flashB : (s.dropTag n).flashB = s.flashB := rfl
@[simp] theorem State.dropTag_flashBroken : (s.dropTag n).flashBroken = s.flashBroken := rfl
@[simp] theorem State.dropTag_testPort : (s.dropTag n).testPort = s.testPort := rfl
@[simp] theorem State.dropTag_sideband : (s.dropTag n).sideband = s.sideband := rfl
@[simp] theorem State.dropTag_cores : (s.dropTag n).cores = s.cores := rfl
@[simp] theorem State.dropTag_mesh : (s.dropTag n).mesh = s.mesh := rfl
@[simp] theorem State.dropTag_outcomes : (s.dropTag n).outcomes = s.outcomes := rfl
@[simp] theorem State.dropTag_gathers : (s.dropTag n).gathers = s.gathers := rfl
@[simp] theorem State.dropTag_scatters : (s.dropTag n).scatters = s.scatters := rfl
@[simp] theorem State.dropTag_reservoir : (s.dropTag n).reservoir = s.reservoir := rfl
@[simp] theorem State.dropTag_poison : (s.dropTag n).poison = s.poison := rfl
@[simp] theorem State.dropTag_gddr : (s.dropTag n).gddr = s.gddr := rfl
@[simp] theorem State.dropTag_roots : (s.dropTag n).roots = s.roots := rfl
@[simp] theorem State.dropTag_counters : (s.dropTag n).counters = s.counters := rfl
@[simp] theorem State.dropTag_channels : (s.dropTag n).channels = s.channels := rfl
@[simp] theorem State.dropTag_tagWaits : (s.dropTag n).tagWaits = s.tagWaits := rfl
@[simp] theorem State.dropTag_dmaTurn : (s.dropTag n).dmaTurn = s.dmaTurn := rfl
@[simp] theorem State.dropTag_dmaLast : (s.dropTag n).dmaLast = s.dmaLast := rfl
@[simp] theorem State.dropTag_dmas : (s.dropTag n).dmas = s.dmas := rfl
@[simp] theorem State.dropTag_pcie : (s.dropTag n).pcie = s.pcie := rfl
@[simp] theorem State.dropTag_functions : (s.dropTag n).functions = s.functions := rfl
@[simp] theorem State.dropTag_recovery : (s.dropTag n).recovery = s.recovery := rfl
@[simp] theorem State.dropTag_translations : (s.dropTag n).translations = s.translations := rfl
@[simp] theorem State.dropTag_hostOut : (s.dropTag n).hostOut = s.hostOut := rfl
@[simp] theorem State.dropTag_ateliers : (s.dropTag n).ateliers = s.ateliers := rfl
@[simp] theorem State.dropTag_leases : (s.dropTag n).leases = s.leases := rfl
@[simp] theorem State.dropTag_leaseSerial : (s.dropTag n).leaseSerial = s.leaseSerial := rfl
@[simp] theorem State.dropTag_contexts : (s.dropTag n).contexts = s.contexts := rfl
@[simp] theorem State.dropTag_queues : (s.dropTag n).queues = s.queues := rfl
@[simp] theorem State.dropTag_mobjs : (s.dropTag n).mobjs = s.mobjs := rfl
@[simp] theorem State.dropTag_fences : (s.dropTag n).fences = s.fences := rfl
@[simp] theorem State.dropTag_images : (s.dropTag n).images = s.images := rfl
@[simp] theorem State.dropTag_colls : (s.dropTag n).colls = s.colls := rfl
@[simp] theorem State.dropTag_jobs : (s.dropTag n).jobs = s.jobs := rfl
@[simp] theorem State.dropTag_commands : (s.dropTag n).commands = s.commands := rfl
@[simp] theorem State.dropTag_nextSerial : (s.dropTag n).nextSerial = s.nextSerial := rfl
@[simp] theorem State.dropTag_signals : (s.dropTag n).signals = s.signals := rfl
@[simp] theorem State.dropTag_collectives : (s.dropTag n).collectives = s.collectives := rfl
@[simp] theorem State.dropTag_reductions : (s.dropTag n).reductions = s.reductions := rfl
@[simp] theorem State.dropTag_decants : (s.dropTag n).decants = s.decants := rfl
@[simp] theorem State.dropTag_reservations : (s.dropTag n).reservations = s.reservations := rfl
@[simp] theorem State.dropTag_panels : (s.dropTag n).panels = s.panels := rfl
@[simp] theorem State.dropTag_flacon : (s.dropTag n).flacon = s.flacon := rfl
@[simp] theorem State.dropTag_serving : (s.dropTag n).serving = s.serving := rfl
@[simp] theorem State.dropTag_opened : (s.dropTag n).opened = s.opened := rfl
@[simp] theorem State.dropTag_ports : (s.dropTag n).ports = s.ports := rfl
@[simp] theorem State.dropTag_sessions : (s.dropTag n).sessions = s.sessions := rfl
@[simp] theorem State.dropTag_erasedLeases : (s.dropTag n).erasedLeases = s.erasedLeases := rfl
@[simp] theorem State.dropTag_leaseDrops : (s.dropTag n).leaseDrops = s.leaseDrops := rfl
@[simp] theorem State.dropTag_blotter : (s.dropTag n).blotter = s.blotter := rfl
@[simp] theorem State.dropTag_core (m : Nat) : (s.dropTag n).core m = s.core m := rfl
@[simp] theorem State.dropTag_atelier (m : Nat) : (s.dropTag n).atelier m = s.atelier m := rfl
@[simp] theorem State.dropTag_lease (m : Nat) : (s.dropTag n).lease m = s.lease m := rfl
@[simp] theorem State.dropTag_panel (m : Nat) : (s.dropTag n).panel m = s.panel m := rfl
@[simp] theorem State.dropTag_channel (m : Nat) : (s.dropTag n).channel m = s.channel m := rfl
@[simp] theorem State.dropTag_port (m : Nat) : (s.dropTag n).port m = s.port m := rfl
@[simp] theorem State.dropTag_session (m : Nat) : (s.dropTag n).session m = s.session m := rfl
@[simp] theorem State.dropTag_pciePort (m : Nat) : (s.dropTag n).pciePort m = s.pciePort m := rfl
@[simp] theorem State.dropTag_root (m : Nat) : (s.dropTag n).root m = s.root m := rfl
@[simp] theorem State.dropTag_reduction (m : Nat) : (s.dropTag n).reduction m = s.reduction m := rfl
@[simp] theorem State.dropTag_function (m k : Nat) : (s.dropTag n).function m k = s.function m k := rfl
@[simp] theorem State.dropTag_counter (m k : Nat) : (s.dropTag n).counter m k = s.counter m k := rfl
end

/-! ### takeModuleTag -/

section
variable (s : State) (n engine : Nat)
@[simp] theorem State.takeModuleTag_pending : (s.takeModuleTag n engine).pending = s.pending := rfl
@[simp] theorem State.takeModuleTag_time : (s.takeModuleTag n engine).time = s.time := rfl
@[simp] theorem State.takeModuleTag_drawn : (s.takeModuleTag n engine).drawn = s.drawn := rfl
@[simp] theorem State.takeModuleTag_freed : (s.takeModuleTag n engine).freed = s.freed := rfl
@[simp] theorem State.takeModuleTag_power : (s.takeModuleTag n engine).power = s.power := rfl
@[simp] theorem State.takeModuleTag_mstate : (s.takeModuleTag n engine).mstate = s.mstate := rfl
@[simp] theorem State.takeModuleTag_phase : (s.takeModuleTag n engine).phase = s.phase := rfl
@[simp] theorem State.takeModuleTag_training : (s.takeModuleTag n engine).training = s.training := rfl
@[simp] theorem State.takeModuleTag_fcode : (s.takeModuleTag n engine).fcode = s.fcode := rfl
@[simp] theorem State.takeModuleTag_tamperFuse : (s.takeModuleTag n engine).tamperFuse = s.tamperFuse := rfl
@[simp] theorem State.takeModuleTag_tamperCount : (s.takeModuleTag n engine).tamperCount = s.tamperCount := rfl
@[simp] theorem State.takeModuleTag_debugCount : (s.takeModuleTag n engine).debugCount = s.debugCount := rfl
@[simp] theorem State.takeModuleTag_nonce : (s.takeModuleTag n engine).nonce = s.nonce := rfl
@[simp] theorem State.takeModuleTag_unwrapped : (s.takeModuleTag n engine).unwrapped = s.unwrapped := rfl
@[simp] theorem State.takeModuleTag_inForce : (s.takeModuleTag n engine).inForce = s.inForce := rfl
@[simp] theorem State.takeModuleTag_installation : (s.takeModuleTag n engine).installation = s.installation := rfl
@[simp] theorem State.takeModuleTag_bankFails : (s.takeModuleTag n engine).bankFails = s.bankFails := rfl
@[simp] theorem State.takeModuleTag_flashA : (s.takeModuleTag n engine).flashA = s.flashA := rfl
@[simp] theorem State.takeModuleTag_flashB : (s.takeModuleTag n engine).flashB = s.flashB := rfl
@[simp] theorem State.takeModuleTag_flashBroken : (s.takeModuleTag n engine).flashBroken = s.flashBroken := rfl
@[simp] theorem State.takeModuleTag_testPort : (s.takeModuleTag n engine).testPort = s.testPort := rfl
@[simp] theorem State.takeModuleTag_sideband : (s.takeModuleTag n engine).sideband = s.sideband := rfl
@[simp] theorem State.takeModuleTag_cores : (s.takeModuleTag n engine).cores = s.cores := rfl
@[simp] theorem State.takeModuleTag_mesh : (s.takeModuleTag n engine).mesh = s.mesh := rfl
@[simp] theorem State.takeModuleTag_outcomes : (s.takeModuleTag n engine).outcomes = s.outcomes := rfl
@[simp] theorem State.takeModuleTag_gathers : (s.takeModuleTag n engine).gathers = s.gathers := rfl
@[simp] theorem State.takeModuleTag_scatters : (s.takeModuleTag n engine).scatters = s.scatters := rfl
@[simp] theorem State.takeModuleTag_reservoir : (s.takeModuleTag n engine).reservoir = s.reservoir := rfl
@[simp] theorem State.takeModuleTag_poison : (s.takeModuleTag n engine).poison = s.poison := rfl
@[simp] theorem State.takeModuleTag_gddr : (s.takeModuleTag n engine).gddr = s.gddr := rfl
@[simp] theorem State.takeModuleTag_roots : (s.takeModuleTag n engine).roots = s.roots := rfl
@[simp] theorem State.takeModuleTag_counters : (s.takeModuleTag n engine).counters = s.counters := rfl
@[simp] theorem State.takeModuleTag_channels : (s.takeModuleTag n engine).channels = s.channels := rfl
@[simp] theorem State.takeModuleTag_tagWaits : (s.takeModuleTag n engine).tagWaits = s.tagWaits := rfl
@[simp] theorem State.takeModuleTag_dmaTurn : (s.takeModuleTag n engine).dmaTurn = s.dmaTurn := rfl
@[simp] theorem State.takeModuleTag_dmaLast : (s.takeModuleTag n engine).dmaLast = s.dmaLast := rfl
@[simp] theorem State.takeModuleTag_dmas : (s.takeModuleTag n engine).dmas = s.dmas := rfl
@[simp] theorem State.takeModuleTag_pcie : (s.takeModuleTag n engine).pcie = s.pcie := rfl
@[simp] theorem State.takeModuleTag_functions : (s.takeModuleTag n engine).functions = s.functions := rfl
@[simp] theorem State.takeModuleTag_recovery : (s.takeModuleTag n engine).recovery = s.recovery := rfl
@[simp] theorem State.takeModuleTag_translations : (s.takeModuleTag n engine).translations = s.translations := rfl
@[simp] theorem State.takeModuleTag_hostOut : (s.takeModuleTag n engine).hostOut = s.hostOut := rfl
@[simp] theorem State.takeModuleTag_ateliers : (s.takeModuleTag n engine).ateliers = s.ateliers := rfl
@[simp] theorem State.takeModuleTag_leases : (s.takeModuleTag n engine).leases = s.leases := rfl
@[simp] theorem State.takeModuleTag_leaseSerial : (s.takeModuleTag n engine).leaseSerial = s.leaseSerial := rfl
@[simp] theorem State.takeModuleTag_contexts : (s.takeModuleTag n engine).contexts = s.contexts := rfl
@[simp] theorem State.takeModuleTag_queues : (s.takeModuleTag n engine).queues = s.queues := rfl
@[simp] theorem State.takeModuleTag_mobjs : (s.takeModuleTag n engine).mobjs = s.mobjs := rfl
@[simp] theorem State.takeModuleTag_fences : (s.takeModuleTag n engine).fences = s.fences := rfl
@[simp] theorem State.takeModuleTag_images : (s.takeModuleTag n engine).images = s.images := rfl
@[simp] theorem State.takeModuleTag_colls : (s.takeModuleTag n engine).colls = s.colls := rfl
@[simp] theorem State.takeModuleTag_jobs : (s.takeModuleTag n engine).jobs = s.jobs := rfl
@[simp] theorem State.takeModuleTag_commands : (s.takeModuleTag n engine).commands = s.commands := rfl
@[simp] theorem State.takeModuleTag_nextSerial : (s.takeModuleTag n engine).nextSerial = s.nextSerial := rfl
@[simp] theorem State.takeModuleTag_signals : (s.takeModuleTag n engine).signals = s.signals := rfl
@[simp] theorem State.takeModuleTag_collectives : (s.takeModuleTag n engine).collectives = s.collectives := rfl
@[simp] theorem State.takeModuleTag_reductions : (s.takeModuleTag n engine).reductions = s.reductions := rfl
@[simp] theorem State.takeModuleTag_decants : (s.takeModuleTag n engine).decants = s.decants := rfl
@[simp] theorem State.takeModuleTag_reservations : (s.takeModuleTag n engine).reservations = s.reservations := rfl
@[simp] theorem State.takeModuleTag_panels : (s.takeModuleTag n engine).panels = s.panels := rfl
@[simp] theorem State.takeModuleTag_flacon : (s.takeModuleTag n engine).flacon = s.flacon := rfl
@[simp] theorem State.takeModuleTag_serving : (s.takeModuleTag n engine).serving = s.serving := rfl
@[simp] theorem State.takeModuleTag_opened : (s.takeModuleTag n engine).opened = s.opened := rfl
@[simp] theorem State.takeModuleTag_ports : (s.takeModuleTag n engine).ports = s.ports := rfl
@[simp] theorem State.takeModuleTag_sessions : (s.takeModuleTag n engine).sessions = s.sessions := rfl
@[simp] theorem State.takeModuleTag_erasedLeases : (s.takeModuleTag n engine).erasedLeases = s.erasedLeases := rfl
@[simp] theorem State.takeModuleTag_leaseDrops : (s.takeModuleTag n engine).leaseDrops = s.leaseDrops := rfl
@[simp] theorem State.takeModuleTag_blotter : (s.takeModuleTag n engine).blotter = s.blotter := rfl
@[simp] theorem State.takeModuleTag_core (m : Nat) : (s.takeModuleTag n engine).core m = s.core m := rfl
@[simp] theorem State.takeModuleTag_atelier (m : Nat) : (s.takeModuleTag n engine).atelier m = s.atelier m := rfl
@[simp] theorem State.takeModuleTag_lease (m : Nat) : (s.takeModuleTag n engine).lease m = s.lease m := rfl
@[simp] theorem State.takeModuleTag_panel (m : Nat) : (s.takeModuleTag n engine).panel m = s.panel m := rfl
@[simp] theorem State.takeModuleTag_channel (m : Nat) : (s.takeModuleTag n engine).channel m = s.channel m := rfl
@[simp] theorem State.takeModuleTag_port (m : Nat) : (s.takeModuleTag n engine).port m = s.port m := rfl
@[simp] theorem State.takeModuleTag_session (m : Nat) : (s.takeModuleTag n engine).session m = s.session m := rfl
@[simp] theorem State.takeModuleTag_pciePort (m : Nat) : (s.takeModuleTag n engine).pciePort m = s.pciePort m := rfl
@[simp] theorem State.takeModuleTag_root (m : Nat) : (s.takeModuleTag n engine).root m = s.root m := rfl
@[simp] theorem State.takeModuleTag_reduction (m : Nat) : (s.takeModuleTag n engine).reduction m = s.reduction m := rfl
@[simp] theorem State.takeModuleTag_function (m k : Nat) : (s.takeModuleTag n engine).function m k = s.function m k := rfl
@[simp] theorem State.takeModuleTag_counter (m k : Nat) : (s.takeModuleTag n engine).counter m k = s.counter m k := rfl
end

/-! ### What the updates of listed objects give -/

@[simp] theorem State.onJob_find (s : State) (n : Nat) (f : Job → Job) (k : Nat) :
    SMap.find? (s.onJob n f).jobs k = if k = n then (SMap.find? s.jobs k).map f else SMap.find? s.jobs k := SMap.find?_adjust n f k s.jobs
@[simp] theorem State.onQueue_find (s : State) (n : Nat) (f : Queue → Queue) (k : Nat) :
    SMap.find? (s.onQueue n f).queues k = if k = n then (SMap.find? s.queues k).map f else SMap.find? s.queues k := SMap.find?_adjust n f k s.queues
@[simp] theorem State.onCmd_find (s : State) (n : Nat) (f : Cmd → Cmd) (k : Nat) :
    SMap.find? (s.onCmd n f).commands k = if k = n then (SMap.find? s.commands k).map f else SMap.find? s.commands k := SMap.find?_adjust n f k s.commands
@[simp] theorem State.dropTag_find (s : State) (n k : Nat) : SMap.find? (s.dropTag n).tags k = if k = n then none else SMap.find? s.tags k := SMap.find?_del n k s.tags
@[simp] theorem State.takeTag_find (s : State) (a n e k : Nat) :
    SMap.find? (s.takeTag a n e).tags k = if k = n then some ⟨some a, (s.lease a).serial, e⟩ else SMap.find? s.tags k := SMap.find?_put n _ k s.tags
@[simp] theorem State.takeModuleTag_find (s : State) (n e k : Nat) :
    SMap.find? (s.takeModuleTag n e).tags k = if k = n then some ⟨none, 0, e⟩ else SMap.find? s.tags k := SMap.find?_put n _ k s.tags
@[simp] theorem State.drew_drawn (s : State) : s.drew.drawn = s.drawn + 1 := rfl

end Sys2Proof.Machine
end

