-- ==== Sys2Proof/Tests/Slice0.lean ====
section
/-!
SUPPORT. Tests of the model against values worked out from the spec by hand, the ill-formed commands that `wellFormed` refuses,
and, for the statements for the provers, states and operands that meet their hypotheses.
-/
namespace Sys2Proof.Tests
open Sys2Proof Sys2Proof.Machine Sys2Proof.Claims

set_option Elab.async false

/-! ### Ill-formed commands, one for each check -/

/-- Cores 0 to 10,367 (R18). -/
theorem test_ill_formed_core_words :
    ([.streamAccumulate 10368 false, .streamInitialise 10368 false, .wash 10368 false, .washTransposed 10368 false,
      .heldWeightRowWrite 10368, .tokenLanding 10368, .operationLanding 10368, .readout 10368 false, .collectiveTrigger 10368 false,
      .loopClose 10368 false, .conditionalExit 10368 false, .setLevel 10368 false, .setBase 10368 false, .setStrides 10368 false,
      .setStream 10368 false, .loadImm 10368 false, .sendMessage 10368 false, .postWindow 10368 false, .waitRecv 10368 false,
      .waitSend 10368 false, .collectiveBind 10368 false, .unbind 10368 false, .endProgram 10368 false, .breakPoint 10368 false,
      .checkRegister 10368 false, .illegalFormatWord 10368 false, .chunkPacker 10368] : List Instr).all (fun c => !c.wellFormed) = true := by decide +kernel

theorem test_ill_formed_vector_words :
    ([.vectorNop 10368 false, .vectorLd 10368 false, .vectorSt 10368 false, .ldb 10368 false, .lds 10368 false, .sts 10368 false,
      .treq 10368 false, .vectorAdd 10368 false, .vectorSub 10368 false, .vectorMul 10368 false, .vectorFma 10368 false,
      .fnma 10368 false, .vectorMin 10368 false, .vectorMax 10368 false, .abs 10368 false, .neg 10368 false, .vectorMov 10368 false,
      .vectorCeq 10368 false, .clt 10368 false, .cle 10368 false, .vectorSel 10368 false, .vectorAnd 10368 false, .vectorOr 10368 false,
      .vectorXor 10368 false, .vectorShl 10368 false, .vectorShr 10368 false, .vectorAsr 10368 false, .ldexp 10368 false,
      .sgn 10368 false, .padd 10368 false, .psub 10368 false, .pmul 10368 false, .pfma 10368 false, .pmin 10368 false,
      .pmax 10368 false] : List Instr).all (fun c => !c.wellFormed) = true := by decide +kernel

theorem test_ill_formed_tile_words :
    ([.cvt 10368 false, .cvt32 10368 false, .cvt16 10368 false, .scl 10368 false, .rsum 10368 false, .rmax 10368 false,
      .rmin 10368 false, .ramax 10368 false, .rssq 10368 false, .csum 10368 false, .cmax 10368 false, .cmin 10368 false,
      .camax 10368 false, .cssq 10368 false, .trn 10368 false, .exp 10368 false, .log 10368 false, .rsqrt 10368 false,
      .sin 10368 false, .cos 10368 false, .rcp 10368 false, .had 10368 false, .hadf 10368 false, .hadl 10368 false] : List Instr).all
      (fun c => !c.wellFormed) = true := by decide +kernel

theorem test_ill_formed_scalar_words :
    ([.scalarNop 10368 false, .scalarAdd 10368 false, .scalarSub 10368 false, .scalarAnd 10368 false, .scalarOr 10368 false,
      .scalarXor 10368 false, .scalarShl 10368 false, .scalarShr 10368 false, .scalarAsr 10368 false, .scalarCeq 10368 false,
      .cltu 10368 false, .clts 10368 false, .scalarMin 10368 false, .scalarMax 10368 false, .scalarSel 10368 false,
      .scalarMov 10368 false, .scalarMul 10368 false, .mulhu 10368 false, .mulhs 10368 false, .scalarLd 10368 false,
      .scalarSt 10368 false, .mvg 10368 false, .fadd 10368 false, .fsub 10368 false, .fmul 10368 false, .scalarFma 10368 false,
      .fmin 10368 false, .fmax 10368 false, .fclt 10368 false, .f64to32 10368 false, .f32to64 10368 false] : List Instr).all
      (fun c => !c.wellFormed) = true := by decide +kernel

/-- Cores, generators, quadrants, panels, channels, port dies and regions (R17 to R20, R71, R189, R192). -/
theorem test_ill_formed_units :
    ([.runAheadFetch 10368 0, .runAheadFetch 0 4, .stagedLineArrival 10368 0 false, .stagedLineArrival 0 4 false, .gatherToWindow 48,
      .gatherToFarMemory 48, .scatterAdd ⟨48, []⟩, .coreLaunch 10368 0, .coreLaunch 0 4096, .reservoirPatrolScrub 12 [] 0,
      .sramCorrectedErrorRate 12 0, .gddr7Refresh 32, .gddr7TemperatureReadout 32 0, .gddr7EccCountRead 32 0,
      .gddr7RetriesExhausted 32 0 0 false, .gddr7RetriesExhausted 0 (4 * 65536) 0 false, .gddr7RetriesExhausted 0 0 16384 false,
      .dmaSegmentIssue 4 none, .chunkReceive 4, .adder 4, .energyMetering 12 0 0, .classFallback 12, .clampRelease 12 0,
      .clampRelease 0 12, .stopAtTileBoundary 10368, .coreStateAccess 10368 .readPc, .firmwareWatchdog 5] : List Instr).all
      (fun c => !c.wellFormed) = true := by decide +kernel

/-- Protected lines (R399 to R408): lines of 128 B, 16,384 to a region; no level beyond the two nodes. -/
theorem test_ill_formed_lines :
    ([.protectedLineRead (4 * 65536) 0 none true true, .protectedLineRead 0 16384 none true true, .protectedLineRead 0 0 (some 3) true true,
      .protectedLineWrite (4 * 65536) 0 ⟨(List.replicate 128 0), []⟩, .protectedLineWrite 0 16384 ⟨(List.replicate 128 0), []⟩,
      .protectedLineWrite 0 0 ⟨(List.replicate 127 0), []⟩, .partialLineWrite (4 * 65536) 0 0 [0] none true, .partialLineWrite 0 16384 0 [0] none true,
      .partialLineWrite 0 0 0 [] none true, .partialLineWrite 0 0 128 [0] none true, .partialLineWrite 0 0 0 [0] (some 3) true,
      .regionRekey (4 * 65536) 0 [], .moduleAreaPatrol 4 [] [], .moduleAreaPatrol 0 [(80, 0)] [], .moduleAreaPatrol 0 [(0, 16384)] [],
      .moduleAreaPatrol 0 [] [(80, 0, 0)], .moduleAreaPatrol 0 [] [(0, 3, 0)], .moduleAreaPatrol 0 [] [(0, 0, 256)],
      .protectedLineWrite 0 0 ⟨(List.replicate 128 0), [16384]⟩] : List Instr).all (fun c => !c.wellFormed) = true := by decide +kernel

/-- Darval ports 0 to 19 and peers (R20, R281); a codeword holds ten flits of 64 B, its numbers 10 bits (R263). -/
theorem test_ill_formed_links :
    ([.portBringUp 20, .peerDetectTimeout 20, .equalisationAttempt 20 true, .bringUpRetry 20, .helloFlit 20, .retrain 20,
      .retrainRequest 20, .portLost 20, .portUpAgain 20, .ackAndCredit 20, .packetSend 20, .bulkWrite 20, .chunksPacket 20,
      .sparsePairs 20, .gatherPacket 20, .abortPacket 20, .endToEndAck 20, .sessionKind1 20, .sessionKind2 20, .sessionKind3 20,
      .realTimeParcel 20, .bulkResponse 20, .sessionRetry 1024, .sessionRekey 1024, .galleryRetransmission 1024, .endToEndAckTimer 1024,
      .railDestinationLost 1024, .codewordReceive 20 0 0 0 (List.replicate 10 (List.replicate 64 0)),
      .codewordReceive 0 545 0 0 (List.replicate 10 (List.replicate 64 0)), .codewordReceive 0 0 1024 0 (List.replicate 10 (List.replicate 64 0)), .codewordReceive 0 0 0 1024 (List.replicate 10 (List.replicate 64 0)),
      .codewordReceive 0 0 0 0 (List.replicate 9 (List.replicate 64 0)), .codewordReceive 0 0 0 0 (List.replicate 10 (List.replicate 63 0))]
      : List Instr).all (fun c => !c.wellFormed) = true := by decide +kernel

/-- Host ports, functions and queues (R300, R302, R314). -/
theorem test_ill_formed_host :
    ([.attach 2 ⟨0, true, none⟩ 2 2 false 0 0 0 0, .attach 0 ⟨17, true, none⟩ 2 2 false 0 0 0 0, .attach 0 ⟨0, true, some 2⟩ 2 2 false 0 0 0 0,
      .detach 2 ⟨⟨0, true, none⟩, false, 0, 0⟩, .detach 0 ⟨⟨17, true, none⟩, false, 0, 0⟩, .sillage 2 ⟨⟨0, true, none⟩, false, 0, 0⟩ 0 0,
      .sillage 0 ⟨⟨17, true, none⟩, false, 0, 0⟩ 0 0, .detach 0 ⟨⟨0, false, some 16⟩, false, 0, 0⟩,
      .atelierReset 2 ⟨⟨0, true, none⟩, false, 0, 0⟩ 0, .atelierReset 0 ⟨⟨17, true, none⟩, false, 0, 0⟩ 0, .sqTail 2 0 0 0, .sqTail 0 17 0 0, .sqTail 0 0 2048 0, .cqHead 2 0 0 0, .cqHead 0 17 0 0,
      .cqHead 0 0 2048 0, .perstAssert 2, .perstRelease ⟨2, true⟩, .hotReset 2, .pcieLinkLoss 2, .pcieLinkUp 2 640 16, .functionLevelReset 2 0,
      .functionLevelReset 0 17, .detachmentQueueDestroy 2048, .atsInvalidation 2 none 0, .commandFetch 2048 ⟨none, none, none, ⟨[], []⟩, none⟩, .commandStart 2048,
      .recoveryWrite 2 0 0 none true] : List Instr).all (fun c => !c.wellFormed) = true := by decide +kernel

/-- Jobs, descriptors, ateliers, classes, slots and object kinds (R287, R303, R317, R330, R370). -/
theorem test_ill_formed_objects :
    ([.transferTagGrant 16 none, .stepLaunch 4096, .layerCountGather 4096, .updateRoutineLaunch 4096 ⟨0, none⟩, .sealRecordBuild 4096,
      .sealDecision 4096, .sealActions ⟨4096, none⟩, .sealTimeout 4096, .collectiveLaunch 4096 0, .collectiveLaunch 0 16384, .collectiveTimeout 4096 0,
      .collectiveTimeout 0 16384, .collectiveCompletion 4096 0, .collectiveCompletion 0 16384, .objectRelease 5 0, .sliceEnd 4096, .decant 4096 0,
      .decant 0 4096, .periodBoundary 16, .occurrenceOpening 16 0, .occurrenceOpening 0 64, .passEnd 16 0, .passEnd 0 16, .slotDeadline 16 0,
      .slotDeadline 0 16, .tagDrainBound 16] : List Instr).all (fun c => !c.wellFormed) = true := by decide +kernel

/-- Sensor lists, tokens and sideband bytes (R352, R436, R482, R484). -/
theorem test_ill_formed_lengths :
    ([.windowBoundary [] default, .windowBoundary (List.replicate 12 ⟨[0], 0, 0, 0, 0, 0⟩) default, .debugToken (List.replicate 191 0),
      .i3cPrivateWrite [0], .i3cPrivateWrite (List.replicate 4099 0), .entdaa 128, .setdasa ⟨128, 1⟩, .setdasa ⟨0x70, 128⟩, .setnewda 128] : List Instr).all
      (fun c => !c.wellFormed) = true := by decide +kernel

/-- The commands at the top of those ranges are well formed. -/
theorem test_well_formed_bounds :
    ([.streamAccumulate 10367 false, .runAheadFetch 10367 3, .gatherToWindow 47, .coreLaunch 10367 4095, .gddr7Refresh 31,
      .protectedLineWrite (4 * 65536 - 1) 16383 ⟨(List.replicate 128 0), []⟩, .partialLineWrite 0 0 127 [0] (some 2) true, .adder 3,
      .codewordReceive 19 544 1023 1023 (List.replicate 10 (List.replicate 64 0)), .sessionRetry 1023, .attach 1 ⟨16, true, some 15⟩ 2 2 false 0 0 0 0, .sillage 1 ⟨⟨16, false, none⟩, true, 255, 255⟩ 0 0,
      .cqHead 1 16 2047 0, .objectRelease 4 0, .occurrenceOpening 15 63, .firmwareWatchdog 4, .i3cPrivateWrite [0, 0],
      .setdasa ⟨127, 127⟩] : List Instr).all (fun c => c.wellFormed) = true := by decide +kernel

/-- No word spells a command: the table gives no row any bits. -/
theorem test_decode_none : decodeTableWord 256 0 = none := by decide +kernel

/-! ### Words that issue and words that halt -/

/-- A control word from its fields, each as (lowest bit, value) (R75 to R87). -/
def wordOfFields (fs : List (Nat × Nat)) : Word256 := BitVec.ofNat 256 (fs.foldl (fun w f => w + f.2 * 2 ^ f.1) 0)

/-- A core that runs the one word `w` at its address 0. -/
def coreAt (w : Word256) : Core := { Core.reset with run := .running, loaded := true, words := [(0, w)] }

/-- The module after reset with one core as given. -/
def withCore (n : Nat) (c : Core) : State := { State.reset with cores := [(n, c)] }

/-- The conditions of `Issues`, as one Bool. -/
def issuing (s : State) (n : Nat) (up : Bool) : Bool :=
  decide (n < 10368) && s.tokened n && (startBeat (s.env n) (s.core n)).2.isNone && beatReady (s.env n) (found s n) up &&
    (reasons (s.env n) (found s n) up).isEmpty

/-- The conditions of `Halts`, as one Bool. -/
def halting (s : State) (n : Nat) (up : Bool) : Bool :=
  decide (n < 10368) && s.tokened n && (startBeat (s.env n) (s.core n)).2.isNone && beatReady (s.env n) (found s n) up &&
    !(reasons (s.env n) (found s n) up).isEmpty

theorem issues_of_issuing {s : State} {n : Nat} {up : Bool} (h : issuing s n up = true) : Issues s n up := by
  simp only [issuing, Bool.and_eq_true, decide_eq_true_eq, Option.isNone_iff_eq_none, List.isEmpty_iff] at h
  exact ⟨h.1.1.1.1, h.1.1.1.2, h.1.1.2, h.1.2, h.2⟩

theorem halts_of_halting {s : State} {n : Nat} {up : Bool} (h : halting s n up = true) : Halts s n up := by
  simp only [halting, Bool.and_eq_true, decide_eq_true_eq, Option.isNone_iff_eq_none, Bool.not_eq_true', List.isEmpty_eq_false_iff] at h
  exact ⟨h.1.1.1.1, h.1.1.1.2, h.1.1.2, h.1.2, h.2⟩

/-- For each key of a list, a word issues on the core it makes and is one of those named. -/
def allIssue (keys : List Nat) (core : Nat → Core) (names : Nat → Word256 → Bool) : Bool :=
  keys.all fun k => issuing (withCore 5 (core k)) 5 false && names k (wordAt (withCore 5 (core k)) 5)

theorem issues_of_all {keys : List Nat} {core : Nat → Core} {names : Nat → Word256 → Bool} (h : allIssue keys core names = true) :
    ∀ k ∈ keys, Issues (withCore 5 (core k)) 5 false ∧ names k (wordAt (withCore 5 (core k)) 5) = true := by
  intro k hk
  have := List.all_eq_true.mp h k hk
  rw [Bool.and_eq_true] at this
  exact ⟨issues_of_issuing this.1, this.2⟩

/-- The integer opcodes of the scalar lane, with sd 3, sa 1, sb 2 (R80, R163). -/
def intOps : List Nat := [0x01, 0x02, 0x03, 0x04, 0x05, 0x06, 0x07, 0x08, 0x09, 0x0A, 0x0B, 0x0C, 0x0D, 0x0E, 0x0F, 0x11, 0x12, 0x13]
def scalarCore (k : Nat) : Core :=
  { coreAt (wordOfFields [(120, k), (126, 3), (131, 1), (136, 2)]) with sregs := [(1, BitVec.ofInt 64 (-8)), (2, 65)] }

theorem witness_ScalarIntegerResults :
    ∀ k ∈ intOps, Issues (withCore 5 (scalarCore k)) 5 false ∧ isScalar k (wordAt (withCore 5 (scalarCore k)) 5) = true :=
  issues_of_all (by decide +kernel)

def floatOps : List Nat := [0x20, 0x21, 0x22, 0x23, 0x24, 0x25, 0x26, 0x27, 0x28]

theorem witness_ScalarFloatResults :
    ∀ k ∈ floatOps, Issues (withCore 5 (scalarCore k)) 5 false ∧ isScalar k (wordAt (withCore 5 (scalarCore k)) 5) = true :=
  issues_of_all (by decide +kernel)

/-- LD and ST at scratch address 64, MVG to generator 1's stride 0, and the word of zeros (R80, R163, R165). -/
def moveCore (k : Nat) : Core :=
  { coreAt (wordOfFields [(120, k), (126, if k = 0x1C then 9 else if k = 0 then 0 else 3), (131, if k = 0 then 0 else 1)]) with sregs := [(1, 64)] }

theorem witness_ScalarMemoryAndMoves :
    (∀ k ∈ [0x18, 0x19, 0x1C, 0x00], Issues (withCore 5 (moveCore k)) 5 false ∧ isScalar k (wordAt (withCore 5 (moveCore k)) 5) = true) ∧
    (let w := wordAt (withCore 5 (moveCore 0)) 5
     (arrayField w).aop = 0 ∧ (arrayField w).roEn = false ∧ (vectorField w).vop = 0 ∧ (loopField w).coll = false) :=
  ⟨issues_of_all (by decide +kernel), by decide +kernel⟩

/-- The element-wise opcodes (R155), with ta 1, tb 2, td 3; packed ones on BF16, shifts on INT32. -/
def elementOps : List Nat :=
  [0x10, 0x11, 0x12, 0x13, 0x14, 0x15, 0x16, 0x17, 0x18, 0x19, 0x1A, 0x1B, 0x1C, 0x1D, 0x1E, 0x1F, 0x20, 0x21, 0x22, 0x23, 0x24, 0x25,
   0x28, 0x29, 0x2A, 0x2B, 0x2C, 0x2D]
def vectorCore (k fmt var aux : Nat) : Core :=
  coreAt (wordOfFields [(56, k), (64, 1), (67, 2), (70, 3), (90, fmt), (94, var), (114, aux)])

theorem witness_VectorElementResults :
    ∀ k ∈ elementOps,
      let c := vectorCore k (if 0x28 ≤ k then 1 else if 0x21 ≤ k ∧ k ≤ 0x23 then 0xB else 0) 0 0
      Issues (withCore 5 c) 5 false ∧ isVector k (wordAt (withCore 5 c) 5) = true :=
  issues_of_all (core := fun k => vectorCore k (if 0x28 ≤ k then 1 else if 0x21 ≤ k ∧ k ≤ 0x23 then 0xB else 0) 0 0) (by decide +kernel)

/-- Conversions, foldings, TRN, special functions and Hadamard transforms (R155, R157, R159, R161, R162). -/
def tileOps : List Nat :=
  [0x30, 0x31, 0x32, 0x33, 0x38, 0x39, 0x3A, 0x3B, 0x3C, 0x40, 0x41, 0x42, 0x43, 0x44, 0x48, 0x50, 0x51, 0x52, 0x53, 0x54, 0x55,
   0x58, 0x59, 0x5A]
def tileCore (k : Nat) : Core :=
  if k = 0x33 then vectorCore k 7 1 0 else if k = 0x31 then vectorCore k 0 0 7 else if k = 0x32 then vectorCore k 0 0 7
  else if 0x58 ≤ k then vectorCore k 0 0 1 else vectorCore k 0 0 0

theorem witness_VectorTileResults :
    ∀ k ∈ tileOps, Issues (withCore 5 (tileCore k)) 5 false ∧ isVector k (wordAt (withCore 5 (tileCore k)) 5) = true :=
  issues_of_all (by decide +kernel)

/-- Line operations through generator 2 (R79, R81, R154, R160, R166): reads with ma 1, writes with md 1. -/
def lineCore (far : Bool) (k : Nat) : Core :=
  let write := k = 2 || k = 5
  { coreAt (wordOfFields [(56, k), (64, 1), (70, 3), (73, if write then 0 else 1), (77, if write then 1 else 0), (79, if write then 0 else 2),
      (83, if write then 2 else 0), (94, if k = 4 || k = 5 then 1 else 0), (192, 1)]) with
    gens := [(2, ⟨far, 128, 128, []⟩)] }

theorem witness_VectorLines :
    ∀ k ∈ [1, 2, 3, 4, 5, 6], Issues (withCore 5 (lineCore false k)) 5 false ∧ isVector k (wordAt (withCore 5 (lineCore false k)) 5) = true :=
  issues_of_all (by decide +kernel)

/-- A wash of shape 0 in format 1 through generator 0, on a core whose array has loaded as many accesses as said (R78, R124). -/
def washCore (aop : Nat) (h : Nat) : Core :=
  { coreAt (wordOfFields [(8, aop), (14, 1), (160, if aop = 4 then 6 else 1)]) with
    array := { ArrayState.empty with loading := some ⟨⟨0, 1, 0, decide (aop = 4)⟩, h⟩ } }

/-- A token of the same formats, with a block loaded and its row ending (R127, R129, R139). -/
def tokenCore (aop : Nat) (last : Bool) (token : Nat) : Core :=
  { coreAt (wordOfFields [(8, aop), (14, 1), (20, 1), (28, 1), (30, if last then 1 else 0), (160, 1), (176, 1)]) with
    gens := [(1, ⟨false, 0x40000, 0x40000, []⟩)]
    array := { ArrayState.empty with blocks := 1, kind0 := ⟨0, 1, 0, false⟩, token := token } }

/-- A collective trigger at a scalar operation, its slot 2 bound to descriptor 7, which the core contributes to (R83, R111). -/
def triggerCore : Core :=
  { coreAt (wordOfFields [(120, 1), (126, 3), (131, 1), (136, 2), (239, 1), (240, 2)]) with binds := [(2, ⟨7, false, 0⟩)], job := some 1 }
def triggerState : State :=
  { withCore 5 triggerCore with colls := [(7, ⟨0, [], [⟨5, 0, 1, 0⟩], 0, false, none⟩)] }

theorem witness_ArrayWordsIssue :
    (∀ k ∈ [0, 31], Issues (withCore 5 (washCore 3 k)) 5 false ∧ isArray 3 (wordAt (withCore 5 (washCore 3 k)) 5) = true) ∧
    (∀ k ∈ [0, 31], Issues (withCore 5 (washCore 4 k)) 5 false ∧ isArray 4 (wordAt (withCore 5 (washCore 4 k)) 5) = true) ∧
    (∀ k ∈ [1, 2], Issues (withCore 5 (tokenCore k false 0)) 5 false ∧ isArray k (wordAt (withCore 5 (tokenCore k false 0)) 5) = true) ∧
    (∀ k ∈ [1, 2], Issues (withCore 5 (tokenCore k true 0)) 5 false ∧ isArray k (wordAt (withCore 5 (tokenCore k true 0)) 5) = true) ∧
    (let a := arrayField (wordAt (withCore 5 (tokenCore 1 true 0)) 5)
     a.passLast = true ∧ fmtVar a.sfmt a.svar = some (.bf16, .none) ∧ fmtVar a.tfmt a.tvar = some (.bf16, .none)) ∧
    Issues triggerState 5 false ∧ isTrigger (wordAt triggerState 5) = true ∧
    SMap.find? (found triggerState 5).binds (loopField (wordAt triggerState 5)).cslot = some ⟨7, false, 0⟩ :=
  ⟨issues_of_all (by decide +kernel), issues_of_all (by decide +kernel), issues_of_all (core := fun k => tokenCore k false 0) (by decide +kernel),
    issues_of_all (core := fun k => tokenCore k true 0) (by decide +kernel), by decide +kernel, issues_of_issuing (by decide +kernel), by decide +kernel, by decide +kernel⟩

/-- A token of shape 2, whose row of BF16 takes two: the first moves on in its row, the second ends it (R127). -/
def tokenTwo (token : Nat) : Core :=
  { tokenCore 1 false token with
    words := [(0, wordOfFields [(8, 1), (11, 2), (14, 1), (20, 1), (28, 1), (160, 1), (176, 1)])], array := { ArrayState.empty with blocks := 1, kind0 := ⟨2, 1, 0, false⟩, token := token } }
theorem witness_ArrayWordsIssue_rows :
    (∀ k ∈ [0, 1], Issues (withCore 5 (tokenTwo k)) 5 false ∧ isArray 1 (wordAt (withCore 5 (tokenTwo k)) 5) = true) ∧
    (let plan := tokenPlan 2 false .bf16 .bf16
     0 + 1 ≠ plan.2.2 * plan.2.1 ∧ 1 + 1 = plan.2.2 * plan.2.1) ∧ (found (withCore 5 (tokenTwo 1)) 5).array.token = 1 ∧
    ∀ l ∈ (found (withCore 5 (tokenTwo 0)) 5).flight, l.effect.isToken = false :=
  ⟨issues_of_all (names := fun _ => isArray 1) (by decide +kernel), by decide +kernel, by decide +kernel, by decide +kernel⟩

/-- A readout of accumulator row 0 to scratch line 128 through generators 1 and 2 (R78): BF16, or block-scaled E2M1 with its strip local. -/
def readoutCore (scaled : Bool) : Core :=
  { coreAt (wordOfFields [(37, 1), (38, 1), (40, 2), (42, if scaled then 7 else 1), (46, if scaled then 1 else 0), (176, 1), (192, 1)]) with
    gens := [(1, ⟨false, 0x40000, 0x40000, []⟩), (2, ⟨false, 128, 128, []⟩)] }

/-- The same block-scaled readout to a far line, its strip far too. -/
def farReadout : State :=
  { withCore 5 { readoutCore true with atelier := 2, gens := [(1, ⟨false, 0x40000, 0x40000, []⟩), (2, ⟨true, 0x200000, 0x200000, []⟩)], farStrip := 0x188000 } with
    contexts := [(0, ⟨2, 0, false, 0⟩)], mobjs := [(0, ⟨0, false, false, false, false, 0, 0, 0x200000, [0], false, 0, false, none⟩)] }
theorem witness_ReadoutWrites_scales :
    (let s := withCore 5 (readoutCore true)
     (readoutCodes (s.env 5) (found s 5) (wordAt s 5)).isSome = true ∧ ((found s 5).access (wordAt s 5) (arrayField (wordAt s 5)).roDst).far = false) ∧
    Issues farReadout 5 false ∧ isReadout (wordAt farReadout 5) = true ∧ (readoutCodes (farReadout.env 5) (found farReadout 5) (wordAt farReadout 5)).isSome = true ∧
    ((found farReadout 5).access (wordAt farReadout 5) (arrayField (wordAt farReadout 5)).roDst).far = true :=
  ⟨by decide +kernel, issues_of_issuing (by decide +kernel), by decide +kernel, by decide +kernel, by decide +kernel⟩

theorem witness_ReadoutWrites :
    Issues (withCore 5 (readoutCore false)) 5 false ∧ isReadout (wordAt (withCore 5 (readoutCore false)) 5) = true ∧
    (let a := arrayField (wordAt (withCore 5 (readoutCore false)) 5); fmtVar a.roFmt a.roVar = some (.bf16, .none)) ∧
    Issues (withCore 5 (readoutCore true)) 5 false ∧
    (let a := arrayField (wordAt (withCore 5 (readoutCore true)) 5); fmtVar a.roFmt a.roVar = some (.e2m1, .b32)) :=
  ⟨issues_of_issuing (by decide +kernel), by decide +kernel, by decide +kernel, issues_of_issuing (by decide +kernel), by decide +kernel⟩

/-- Set-up words of kinds 0 to 4 (R84). -/
def setupCore (k : Nat) : Core := coreAt (wordOfFields [(0, 1), (8, k), (16, if k = 0 then 3 else 0)])

theorem witness_LoopSetup :
    ∀ k ∈ [0, 1, 2, 3, 4], Issues (withCore 5 (setupCore k)) 5 false ∧ isSetup k (wordAt (withCore 5 (setupCore k)) 5) = true :=
  issues_of_all (by decide +kernel)

/-- A compute word that closes level 0, or leaves it where register 1 is not zero (R83, R88). -/
def loopCore (exit : Bool) (remaining reg : Nat) : Core :=
  { coreAt (if exit then wordOfFields [(230, 1), (234, 1)] else wordOfFields [(224, 1)]) with
    levels := [(0, ⟨true, 3, remaining, 4, 9, []⟩)], sregs := [(1, BitVec.ofNat 64 reg)] }

theorem witness_LoopControl :
    (∀ k ∈ [0, 1], Issues (withCore 5 (loopCore true 2 k)) 5 false ∧ isExit (wordAt (withCore 5 (loopCore true 2 k)) 5) = true) ∧
    exitTaken (found (withCore 5 (loopCore true 2 1)) 5) (wordAt (withCore 5 (loopCore true 2 1)) 5) = true ∧
    exitTaken (found (withCore 5 (loopCore true 2 0)) 5) (wordAt (withCore 5 (loopCore true 2 0)) 5) = false ∧
    (∀ k ∈ [1, 2], Issues (withCore 5 (loopCore false k 0)) 5 false ∧ isClose (wordAt (withCore 5 (loopCore false k 0)) 5) = true) ∧
    repeats (found (withCore 5 (loopCore false 2 0)) 5) (wordAt (withCore 5 (loopCore false 2 0)) 5) 6 0 = some 0 ∧
    repeats (found (withCore 5 (loopCore false 1 0)) 5) (wordAt (withCore 5 (loopCore false 1 0)) 5) 6 0 = none ∧
    wordFormat (wordAt (withCore 5 (loopCore false 1 0)) 5) ≠ 1 ∧ isHalt 0 (wordAt (withCore 5 (loopCore false 1 0)) 5) = false :=
  ⟨issues_of_all (core := fun k => loopCore true 2 k) (names := fun _ => isExit) (by decide +kernel), by decide +kernel, by decide +kernel,
    issues_of_all (core := fun k => loopCore false k 0) (names := fun _ => isClose) (by decide +kernel), by decide +kernel, by decide +kernel, by decide +kernel, by decide +kernel⟩

/-- Message words on channel 3, register 1, generator 0 (R85, R105, R108); `n` is the count. -/
def messageCore (mop n : Nat) (held : Bool) : Core :=
  { coreAt (wordOfFields [(0, 2), (8, mop), (11, 3), (15, if mop = 1 then 0 else 1), (22, n), (160, if mop = 0 || mop = 1 then 1 else 0)]) with
    atelier := 2, sregs := [(1, 6)]
    holding := if held then [(3, ⟨6, 5, 3, 0, []⟩)] else []
    windows := if mop = 2 then [(3, ⟨0, 1, [6]⟩)] else [] }

/-- An installation whose one atelier, number 2, holds every quadrant. -/
def house : Installation :=
  ⟨0, 0, 400, 0, 0, 0, 0, 0, 0x70, false, [], [], [default, default, ⟨-1, 1, true, 0, false, 4, 4, 4, 4, 4, 4, 4, [(0, 8), (0, 8), (0, 8), (0, 8)], 8, 100, 0, []⟩]⟩
def housed (n : Nat) (c : Core) : State := { withCore n c with installation := some house }

theorem witness_MessageWords :
    (Issues (housed 5 (messageCore 0 0 false)) 5 false ∧ isMessage 0 (wordAt (housed 5 (messageCore 0 0 false)) 5) = true) ∧
    (Issues (withCore 5 (messageCore 1 64 false)) 5 false ∧ isMessage 1 (wordAt (withCore 5 (messageCore 1 64 false)) 5) = true ∧
      SMap.find? (found (withCore 5 (messageCore 1 64 false)) 5).holding 3 = none) ∧
    (Issues (withCore 5 (messageCore 1 1 true)) 5 false ∧ SMap.find? (found (withCore 5 (messageCore 1 1 true)) 5).holding 3 = some ⟨6, 5, 3, 0, []⟩) ∧
    (Issues (withCore 5 (messageCore 2 1 false)) 5 false ∧ isMessage 2 (wordAt (withCore 5 (messageCore 2 1 false)) 5) = true ∧
      SMap.find? (found (withCore 5 (messageCore 2 1 false)) 5).windows 3 = some ⟨0, 1, [6]⟩) ∧
    (Issues (withCore 5 (messageCore 3 0 false)) 5 false ∧ isMessage 3 (wordAt (withCore 5 (messageCore 3 0 false)) 5) = true) :=
  ⟨⟨issues_of_issuing (by decide +kernel), by decide +kernel⟩, ⟨issues_of_issuing (by decide +kernel), by decide +kernel, by decide +kernel⟩,
    ⟨issues_of_issuing (by decide +kernel), by decide +kernel⟩, ⟨issues_of_issuing (by decide +kernel), by decide +kernel, by decide +kernel⟩,
    ⟨issues_of_issuing (by decide +kernel), by decide +kernel⟩⟩

/-- A beat that waits for a message (R108), and one without a launch token (R73). -/
def stillState : State := withCore 5 { messageCore 2 2 false with windows := [(3, ⟨0, 2, [6]⟩)] }
theorem witness_BeatsCounted :
    (startBeat (stillState.env 5) (stillState.core 5)).2 = none ∧ beatReady (stillState.env 5) (found stillState 5) false = false ∧
    stillState.tokened 5 = true ∧ (withCore 5 Core.reset).tokened 5 = false ∧
    wordOf (.waitRecv 5 false) = some (5, false, isMessage 2) := ⟨by decide +kernel, by decide +kernel, by decide +kernel, by decide +kernel, rfl⟩

/-- Bind descriptor 7 to slot 2, and unbind slot 2 (R86). -/
def bindState : State := { withCore 5 (coreAt (wordOfFields [(0, 3), (8, 2), (12, 7)])) with colls := [(7, ⟨0, [], [], 0, false, none⟩)] }
def unbindState : State := withCore 5 { coreAt (wordOfFields [(0, 3), (8, 2), (26, 1)]) with binds := [(2, ⟨7, false, 0⟩)] }

theorem witness_MessageWords_bind :
    (Issues bindState 5 false ∧ isBind false (wordAt bindState 5) = true) ∧ Issues unbindState 5 false ∧ isBind true (wordAt unbindState 5) = true :=
  ⟨⟨issues_of_issuing (by decide +kernel), by decide +kernel⟩, issues_of_issuing (by decide +kernel), by decide +kernel⟩

/-- Halt/debug words (R87); register 1 holds `r`. -/
def haltState (h r : Nat) : State := withCore 5 { coreAt (wordOfFields [(0, 4), (8, h), (11, 1)]) with sregs := [(1, BitVec.ofNat 64 r)] }

theorem witness_HaltWords :
    (Issues (haltState 0 0) 5 false ∧ isHalt 0 (wordAt (haltState 0 0) 5) = true) ∧
    (Issues (haltState 1 0) 5 false ∧ isHalt 1 (wordAt (haltState 1 0) 5) = true) ∧
    (Issues (haltState 2 0) 5 false ∧ isHalt 2 (wordAt (haltState 2 0) 5) = true) ∧
    (found (haltState 2 0) 5).sreg (field (wordAt (haltState 2 0) 5) 11 5) = 0 ∧ (found (haltState 2 1) 5).sreg (field (wordAt (haltState 2 1) 5) 11 5) ≠ 0 ∧
    (found (haltState 2 1) 5).pendSreg (field (wordAt (haltState 2 1) 5) 11 5) = false ∧ isHalt 2 (wordAt (haltState 2 1) 5) = true ∧
    (Halts (haltState 2 1) 5 false ∧ reasons ((haltState 2 1).env 5) (found (haltState 2 1) 5) false = [0x0E]) ∧
    Halts (withCore 5 (coreAt 0x05)) 5 false ∧ isIllegal (wordAt (withCore 5 (coreAt 0x05)) 5) = true :=
  ⟨⟨issues_of_issuing (by decide +kernel), by decide +kernel⟩, ⟨issues_of_issuing (by decide +kernel), by decide +kernel⟩,
    ⟨issues_of_issuing (by decide +kernel), by decide +kernel⟩, by decide +kernel, by decide +kernel, by decide +kernel, by decide +kernel,
    ⟨halts_of_halting (by decide +kernel), by decide +kernel⟩,
    halts_of_halting (by decide +kernel), by decide +kernel⟩

/-- A word of zeros issues under the table's map of word commands, an illegal one halts under it. -/
theorem witness_WordIssues :
    ∃ names, wordOf (.scalarNop 5 false) = some (5, false, names) ∧ Issues (withCore 5 (moveCore 0)) 5 false ∧
      names (wordAt (withCore 5 (moveCore 0)) 5) = true ∧ isHalt 0 (wordAt (withCore 5 (moveCore 0)) 5) = false ∧
      wordFormat (wordAt (withCore 5 (moveCore 0)) 5) = 0 :=
  ⟨isScalar 0, rfl, issues_of_issuing (by decide +kernel), by decide +kernel, by decide +kernel, by decide +kernel⟩

theorem witness_WordHalts :
    ∃ names, wordOf (.illegalFormatWord 5 false) = some (5, false, names) ∧ Halts (withCore 5 (coreAt 0x05)) 5 false ∧
      names (wordAt (withCore 5 (coreAt 0x05)) 5) = true :=
  ⟨isIllegal, rfl, halts_of_halting (by decide +kernel), by decide +kernel⟩

/-- The frame's last clause: no readout, no ST, STS or TREQ. -/
theorem witness_WordFrame :
    ∃ names, wordOf (.scalarAdd 5 false) = some (5, false, names) ∧ Issues (withCore 5 (scalarCore 1)) 5 false ∧
      names (wordAt (withCore 5 (scalarCore 1)) 5) = true ∧ wordFormat (wordAt (withCore 5 (scalarCore 1)) 5) = 0 ∧
      (arrayField (wordAt (withCore 5 (scalarCore 1)) 5)).roEn = false ∧ (vectorField (wordAt (withCore 5 (scalarCore 1)) 5)).vop = 0 :=
  ⟨isScalar 1, rfl, issues_of_issuing (by decide +kernel), by decide +kernel, by decide +kernel, by decide +kernel, by decide +kernel⟩

/-- Operations due: a scalar result, a local write, an accumulator line, a held weight row (R94, R134, R141). -/
def dueCore (e : Effect) : Core := { Core.reset with beat := 4, run := .running, flight := [⟨4, e⟩], array := { ArrayState.empty with rows := [⟨0, 2, 4, []⟩] } }

theorem witness_Landings :
    takeDue (dueCore (.sreg 3 7)).landedBy (dueCore (.sreg 3 7)).flight = some (⟨4, .sreg 3 7⟩, []) ∧
    takeDue (dueCore (.locals [(64, [1])])).landedBy (dueCore (.locals [(64, [1])])).flight = some (⟨4, .locals [(64, [1])]⟩, []) ∧
    takeDue (dueCore (.acc 4096 true false [] none Events.zero)).landedBy (dueCore (.acc 4096 true false [] none Events.zero)).flight =
      some (⟨4, .acc 4096 true false [] none Events.zero⟩, []) ∧
    (dueCore (.sreg 3 7)).array.rows.find? (fun r => decide (r.due ≤ (dueCore (.sreg 3 7)).landedBy)) = some ⟨0, 2, 4, []⟩ := by decide +kernel

/-- A message from core 6 to core 5 on channel 3 (R105), whose window and holding register are as given. -/
def mail (epoch : BitVec 16) (w : Option Window) : State :=
  { withCore 5 { Core.reset with windows := (w.map fun v => (3, v)).toList } with mesh := [⟨6, 5, 3, epoch, [1]⟩], outcomes := [(6, 3, false)] }

theorem witness_MessagesArrive :
    (∃ m, (mail 1 none).nextMessage 0 = some m ∧ m.epoch ≠ ((mail 1 none).core m.dest).epoch) ∧
    (∃ m v, (mail 0 (some ⟨0, 1, []⟩)).nextMessage 0 = some m ∧ m.epoch = ((mail 0 (some ⟨0, 1, []⟩)).core m.dest).epoch ∧
      SMap.find? ((mail 0 (some ⟨0, 1, []⟩)).core m.dest).windows m.chan = some v ∧ v.senders.length < v.len) ∧
    (∃ m, (mail 0 none).nextMessage 0 = some m ∧ m.epoch = ((mail 0 none).core m.dest).epoch ∧
      SMap.find? ((mail 0 none).core m.dest).windows m.chan = none ∧ SMap.find? ((mail 0 none).core m.dest).holding m.chan = none) ∧
    (mail 0 none).outcomes[0]? = some (6, 3, false) :=
  ⟨⟨_, rfl, by decide +kernel⟩, ⟨_, _, rfl, rfl, rfl, by decide +kernel⟩, ⟨_, rfl, rfl, rfl, rfl⟩, rfl⟩

/-! ### Power, resets and start-up -/

/-- The module after reset in a state of SB_STATE, in a phase of its boot (R485). -/
def inState (m phase : Nat) : State := { State.reset with mstate := m, phase := phase }

theorem witness_SupplyAndResets :
    ({ State.reset with power := { Power.reset with rails := false } } : State).power.rails = false ∧
    ({ State.reset with power := { Power.reset with rails := false } } : State).power.trip = false ∧
    State.reset.power.rails = true ∧ State.reset.power.trip = false ∧ tripTaken (.junctions 11 1840 1840) = true ∧ tripTaken (.hubOrPort 1840) = true ∧
    tripTaken (.gddr 31 1680) = true ∧ tripTaken (.stage 2000) = true ∧
    ({ State.reset with power := { Power.reset with trip := true } } : State).power.trip = true ∧
    (let s : State := { State.reset with power := { Power.reset with rails := false, off := true } }
     s.power.rails = false ∧ s.power.trip = false ∧ s.power.off = true ∧ (PowerRise.mk true 99).low < 100 ∧ 100 ≤ (PowerRise.mk true 100).low) := by decide +kernel

/-- An open challenge and a token of zeros, which fails (R436); core scope open in a booting module. -/
theorem witness_TamperAndDebug :
    ({ State.reset with power := { Power.reset with watch := [.sensor (-641), .sensor 2241, .rail 2, .light] } } : State).power.rails = true ∧
    (TamperSource.rail 1 ∈ ({ State.reset with power := { Power.reset with watch := [.rail 1, .sensor (-640), .sensor 2240] } } : State).power.watch) ∧
    State.reset.power.rails = true ∧ State.reset.tamperCount < 32 ∧ (32 ≤ ({ State.reset with tamperCount := 32 } : State).tamperCount) ∧
    ({ State.reset with testPort := ⟨some [], false, false, false, []⟩ } : State).testPort.challenge.isSome = true ∧
    ({ State.reset with testPort := ⟨some [], false, false, false, []⟩ } : State).tokenGood (List.replicate 192 0) = false ∧
    ({ State.reset with testPort := ⟨none, true, false, true, []⟩ } : State).testPort.core = true ∧ State.reset.mstate = 1 := by decide +kernel

theorem witness_Boots :
    State.reset.bootDue = true ∧ State.reset.tamperFuse = false ∧ State.reset.selectBank = none ∧
    ({ State.reset with tamperFuse := true } : State).bootDue = true := by decide +kernel

theorem witness_StartUpEvents :
    (inState 1 5).mstate = 1 ∧ (inState 1 5).phase = 5 ∧ State.reset.power.lref = false ∧
    ({ State.reset with power := { Power.reset with lref := true } } : State).power.lref = true ∧ (inState 4 5).mstate = 4 ∧
    (inState 1 5).training = none ∧ ({ inState 1 5 with training := some false } : State).training.isSome = true ∧
    (SMap.get Recovery.reset (inState 4 5).recovery 1).go = false ∧ (inState 4 5).bankABusy = false ∧
    ({ inState 4 5 with sideband := { Sideband.reset with task := some ⟨1, false, 0, []⟩ } } : State).bankABusy = true ∧
    imageCheck (padTo 0 []) ≠ 0 ∧ (0x2000001 : Word64).toNat > 33554432 := by decide +kernel

theorem witness_SidebandCommands :
    State.reset.answers = true ∧ State.reset.sideband.address = none ∧
    ({ State.reset with sideband := { Sideband.reset with address := some 9 } } : State).sideband.address.isSome = true := by decide +kernel

/-- A byte to FW_CTRL's top byte, to FW_BUF and outside the window (R487), with an operation set and the boot's bank in force. -/
def window (m : Nat) (running selected : Bool) : State :=
  { State.reset with mstate := m, sideband := { Sideband.reset with address := some 9, op := 1, bank := selected, task := if running then some ⟨1, true, 0, []⟩ else none }
                     inForce := some ⟨1, 0, [], [], [], [], [], []⟩ }
theorem witness_SidebandCommands_private :
    (window 2 false false).answers = true ∧ (window 2 false false).sideband.address.isSome = true ∧ ([0x07, 0x02, 0x80] : Bytes) = leBytes 2 0x207 ++ [0x80] ∧ ([0xFF, 0x1F, 5] : Bytes) = leBytes 2 0x1FFF ++ [5] ∧
    ([0xFF, 0xFF, 5] : Bytes) = leBytes 2 0xFFFF ++ [5] ∧ (window 2 true false).sideband.running = true ∧ (window 1 false false).windowOpen = false ∧
    (window 2 false true).windowOpen = true ∧ (window 2 false true).sideband.op % 4 = 1 ∧ (window 2 false true).selected true = true ∧
    (window 2 false false).selected false = false := by decide +kernel

/-- An erased bank fails condition 1 of R442, so a verify has a failure to report. -/
theorem witness_FlashOperations :
    (∀ op ∈ [1, 2, 3], ({ State.reset with sideband := { Sideband.reset with task := some ⟨op, false, 4096, [1]⟩ } } : State).sideband.task = some ⟨op, false, 4096, [1]⟩) ∧
    (FlashTask.mk 2 false 4096 (List.replicate 4096 1)).data.length = 4096 ∧
    (∀ p ∈ [0, 1], (SMap.get Recovery.reset State.reset.recovery p).waiting = none) ∧
    (SMap.get Recovery.reset ({ State.reset with recovery := [(0, { Recovery.reset with waiting := some ⟨none, true⟩ })] } : State).recovery 0).waiting.isSome = true ∧
    State.reset.bankCheck false ≠ 0 :=
  ⟨by decide +kernel, List.length_replicate, by decide +kernel, by decide +kernel, by decide +kernel⟩

/-! ### The protected memories -/

/-- Region 65,456 of die 0, the module area's first, with its keys held: groups 0 and 1 written, line 0's minor counter as given. -/
def area (minor : BitVec 7) (major : BitVec 32) (r : RootRecord) : State :=
  { State.reset with mstate := 2, nonce := some [], roots := [(65456, r)], counters := [(256 * 65456, ⟨major, [(0, minor)]⟩)] }

theorem witness_LineReads :
    (area 5 0 { RootRecord.zero with written := 3 }).lineLive 65456 0 = true ∧ (area 5 0 { RootRecord.zero with written := 3 }).lineBad 65456 0 = false ∧
    (area 127 0 { RootRecord.zero with written := 3 }).lineLive 65456 0 = true ∧ (area 127 0 { RootRecord.zero with written := 3 }).lineBad 65456 0 = true := by
  decide +kernel

theorem witness_LineWrites :
    (area 5 0 RootRecord.zero).keyed 65456 = true ∧ ((area 125 0 RootRecord.zero).root 65456).lost.getLsbD 0 = false ∧
    ((area 5 0 RootRecord.zero).root 65456).retired = false ∧ (SMap.get 0 ((area 125 0 RootRecord.zero).counter 65456 0).minors 0).toNat ≤ 125 ∧
    125 < (SMap.get 0 ((area 126 7 RootRecord.zero).counter 65456 0).minors 0).toNat ∧ ((area 126 7 RootRecord.zero).counter 65456 0).major ≠ 0xFFFFFFFF ∧
    ((area 5 0 { RootRecord.zero with lost := 1 }).root 65456).lost.getLsbD 0 = true ∧ ((area 5 0 { RootRecord.zero with retired := true }).root 65456).retired = true ∧
    (area 5 0 RootRecord.zero).lineBad 65456 0 = false ∧ (area 5 0 RootRecord.zero).gddr.wf = true := by decide +kernel

theorem witness_MemoryUpkeep :
    State.reset.power.rails = true ∧ (area 5 0 { RootRecord.zero with written := 3 }).lineLive (65536 * 0 + 65456 + 0) 0 = true ∧
    (area 5 0 { RootRecord.zero with written := 3 }).lineBad 65456 0 = false ∧ (7 : Nat) / 8 = 65456 / 65536 ∧
    (((area 5 0 RootRecord.zero).channel 7).exhausted.filter fun t => decide (((area 5 0 RootRecord.zero).time - t).toNat < 100000000)).length < 15 ∧
    (area 126 0xFFFFFFFF RootRecord.zero).rekeyDue 65456 = true ∧ (area 126 0xFFFFFFFF RootRecord.zero).keyed 65456 = true ∧
    (area 5 0 { RootRecord.zero with rekey := true, boundary := 16000 }).rekeyDue 65456 = true ∧
    (({ RootRecord.zero with epoch := 65534 } : RootRecord).epoch.toNat + 1 = 65535) := by decide +kernel

theorem witness_AtelierFaults_again :
    (({ State.reset with ateliers := [(2, { AtelierState.idle with faulted := true })] } : State).atelier 2).faulted = true := by decide +kernel

theorem witness_AtelierFaults : (State.reset.atelier 2).faulted = false ∧ (State.reset.lease 2).state ≠ 3 ∧ State.reset.mstate ≠ 3 := by decide +kernel

/-! ### The table units and far lines -/

/-- A request line from its fields, each as (lowest bit, width, value) (R167), for core 5 of atelier 2. -/
def request (fs : List (Nat × Nat × Nat)) : TableReq := ⟨5, 0, 1, 3, 2, leBytes 64 (packFields fs)⟩

/-- Context 3 with a reservoir object at address 2 MiB, and one request at the units of quadrant 0. -/
def tableState (gather : Bool) (r : TableReq) : State :=
  { housed 5 Core.reset with
    mstate := 2, contexts := [(3, ⟨2, 0, false, 0⟩)]
    mobjs := [(0, ⟨3, false, false, false, false, 0, 0, 0x200000, [0], false, 0, false, none⟩)]
    gathers := if gather then [(0, [r])] else [], scatters := if gather then [] else [(0, [r])] }

/-- One row of 64 B: table and indices in the object; the second address too for operations 1 and 2. -/
def rowRequest (op : Nat) : TableReq :=
  request [(0, 48, 0x200000), (64, 48, 0x204000), (128, 32, 4), (176, 2, op), (192, 48, if op = 0 then 0 else 0x208000)]

theorem witness_TableRequests :
    (tableState true (rowRequest 0)).freeTag 2 = some 2048 ∧ reqOp (rowRequest 0).line = 0 ∧ reqOp (rowRequest 1).line = 1 ∧
    reqOp (request [(176, 2, 3)]).line = 3 ∧
    (∀ k ∈ [0, 1, 2], (tableState true (rowRequest k)).tableReject 3 (rowRequest k).line true = 0) ∧
    (tableState true (request [(176, 2, 3)])).tableReject 3 (request [(176, 2, 3)]).line true ≠ 0 ∧
    (tableState false (rowRequest 2)).indices 3 (rowRequest 2).line = [0] ∧ 0 < reqRows (rowRequest 2).line ∧
    ((tableState false (rowRequest 2)).fetch 3 0x200000 64).bad = [] ∧ (tableState false (rowRequest 2)).lostAt 3 0x200000 = none ∧
    ((tableState true (rowRequest 1)).store 3 0x208000 (List.replicate 64 1)).gddrBad = [] ∧
    ((tableState true (rowRequest 1)).store 3 0x208000 (List.replicate 64 1)).state.mayWrite 3 0x208000 64 = true ∧
    ((tableState false (rowRequest 2)).store 3 0x200000 (List.replicate 64 1)).state.mayWrite 3 0x200000 64 = true ∧
    (tableState false (rowRequest 2)).rowsOf 3 (rowRequest 2).line = [0] ∧
    (((tableState false (rowRequest 2)).updateRow 3 0x200000 64 [] .fp32 .fp32 (reqRtz (rowRequest 2).line) []).atelier 2).faulted = ((tableState false (rowRequest 2)).atelier 2).faulted := by decide +kernel

/-- A far line not yet asked for, one asked for, and a chunk packer with a whole chunk read (R101, R103, R237). -/
def farState : State :=
  { housed 5 (lineCore true 1) with
    contexts := [(0, ⟨2, 0, false, 0⟩)], mobjs := [(0, ⟨0, false, false, false, false, 0, 0, 0x200000, [0], false, 0, false, none⟩)] }
def onItsWay : Staged := ⟨2, 9, 0x200000, 64, 0, false, [], List.replicate 64 0, false, 0, [], 0⟩
def waiting : State := { farState with cores := [(5, { lineCore true 1 with staged := [onItsWay] })] }
def wholeChunk (count : Nat) : Packer := ⟨0, 7, 0, 0, count, 0, 4, List.replicate 128 0, 0, none, none⟩

theorem witness_FarLinesAndLaunch :
    (farState.core 5).run = .running ∧ (farState.core 5).flight = [] ∧ ((farState.core 5).fetches (farState.env 5) 2).isSome = true ∧ ((withCore 5 (lineCore false 1)).core 5).fetches ((withCore 5 (lineCore false 1)).env 5) 2 = none ∧
    (farState.core 5).moving 2 = none ∧ pauses 2 ((farState.core 5).word (farState.core 5).pc) = false ∧ 2 ∈ farReads (farState.core 5) ((farState.core 5).word (farState.core 5).pc) ∧
    (farState.core 5).stagedNow 2 = none ∧ (farState.core 5).holderFree 2 (fetchAhead (farState.env 5) (farState.core 5) 2) = true ∧
    (waiting.core 5).staged.find? (fun y => decide (y.gen = 2) && !y.arrived) = some onItsWay ∧
    (waiting.locate 0 0x200000).map (fun p => (p.gddr, p.addr)) = some (false, 0) ∧
    (∀ k ∈ [1, 2], ([wholeChunk k] : List Packer).find? (fun p => decide (128 * (p.encoded + 1) ≤ p.vals.length)) = some (wholeChunk k)) := by decide +kernel

/-- An image of one stage: core 5, one word, entry 0 (R327, R328). -/
def image : Bytes := leBytes 354 (packFields [(48, 16, 1), (2048, 32, 320), (2080, 14, 1), (2112, 32, 322), (2155, 12, 1), (2560, 16, 5)])
/-- A running step, its programs launched (R213). -/
def stepRun : StepRun :=
  ⟨7, 0, 0, false, 0, true, false, 0, [], false, 0, [], 0, [], false, [], [], [], [], 0, none, [], [], [], none, 0, 0, false, [], []⟩
/-- A training job of atelier 2 on that image. -/
def job : Job := { (default : Job) with atelier := 2, members := [0], resident := true, run := some stepRun }
def withJob (j : Job) : State := { housed 5 Core.reset with mstate := 2, images := [(1, ⟨0, image, 0, false, none⟩)], jobs := [(1, j)] }

theorem witness_FarLinesAndLaunch_launch :
    stageOf ((withJob job).imageOf 1) 5 = some 0 ∧ ((withJob job).core 5).run = .idle ∧ job.resident = true ∧ job.switching = false ∧
    job.serving = false ∧ (withJob job).launchStep 5 1 job = some 7 := by decide +kernel

/-! ### Host ports, queues and objects -/

/-- Port 0 up on a ready module whose atelier 2 answers on function 1, its atelier and queues as given (R300, R302, R446). -/
def hosted (a : AtelierState) (q : SMap Queue) : State :=
  { housed 5 Core.reset with mstate := 2, phase := 6, pcie := [(0, ⟨false, true, 640, 16, true, true⟩)], ateliers := [(2, a)], queues := q }
def here : AtelierState := { AtelierState.idle with attached := some (0, 1), admin := some 0 }
def ring : Queue := ⟨2, 1, 0, 0, 6, 0x1000, 0x2000, 0x3000, 0, false, 0, 0, 3, 0, 0, [], false⟩

theorem witness_AttachAndDetach :
    (hosted AtelierState.idle []).served 0 = true ∧ ((hosted AtelierState.idle []).function 0 1).go = false ∧
    (hosted AtelierState.idle []).atelierOfFn 0 1 = some 2 ∧ (hosted AtelierState.idle []).atelierOfFn 0 2 = none ∧
    ({ hosted AtelierState.idle [] with mstate := 3 } : State).served 0 = true ∧ ({ hosted AtelierState.idle [] with mstate := 1 } : State).served 0 = true ∧
    (({ hosted AtelierState.idle [] with functions := [(1, { HostFn.reset with go := true })] } : State).function 0 1).go = true ∧
    ((hosted here []).atelier 2).attached = some (0, 1) ∧ ((hosted { here with attached := some (1, 1) } []).atelier 2).attached = some (1, 1) ∧
    (let s := hosted AtelierState.idle []
     let u := s.setFunction 0 1 { s.function 0 1 with cmd := 1, vmin := 2, vmax := 2, arg0 := 0x1000, arg1 := 0x2000, arg2 := 0x3000, arg3 := 6, go := true, runs := some ⟨1, false, 2, 2, 0x1000, 0x2000, 0x3000, 6⟩ }
     let v := (u.detach 2).closeIdle 2
     v.freeQueue = some 0 ∧ (v.entry 2).map (·.qq) = some 4 ∧ v.queuesOf 2 = 0) ∧
    (field (6 : Word64) 0 5 = 6 ∧ field (16 : Word64) 0 5 = 16 ∧ field (17 : Word64) 0 5 = 17) := by decide +kernel

theorem witness_AtelierResets :
    (let s := hosted { AtelierState.idle with faulted := true } []
     s.served 0 = true ∧ s.mstate = 2 ∧ (s.function 0 1).go = false ∧ s.atelierOfFn 0 1 = some 2 ∧ s.nat = 3 ∧ s.nat ≤ (15 : Word64).toNat % 16 ∧ (inState 1 0).mstate = 1 ∧ (s.lease 2).state ≠ 3 ∧ (s.atelier 2).resetting = none ∧
       (s.atelier 2).faulted = true ∧ (s.atelier 2).draining = none) ∧
    ((hosted { AtelierState.idle with resetting := some (0, 0) } []).atelier 2).resetting.isSome = true ∧
    (({ hosted AtelierState.idle [] with leases := [(2, { Lease.none with state := 3 })] } : State).lease 2).state = 3 ∧ (2 : Word64).toNat % 16 = 2 := by
  decide +kernel

/-- A reset that runs before readiness, seen from the same port's physical function and for another atelier (R310, R439). -/
theorem witness_AtelierResets_twice :
    (let c : Control := ⟨4, false, 0, 0, 0, 0, 0, 0⟩
     let s : State := { hosted AtelierState.idle [] with mstate := 1, functions := [(1, { HostFn.reset with cmd := 4, go := true, runs := some c })] }
     (s.function 0 1).runs = some c ∧ c.cmd = 4 ∧ s.resetTarget 0 1 c.arg0 = some 2 ∧ s.resetTarget 0 0 2 = some 2 ∧ (s.function 0 0).go = false ∧
       s.resetTwice 0 0 2 = true ∧ s.resetTwice 0 0 1 = false) := by decide +kernel

theorem witness_PortResets :
    ((hosted here []).pciePort 0).up = true ∧ ((hosted here []).pciePort 0).perst = false ∧ (hosted here []).atelierOfFn 0 1 = some 2 ∧
    ((hosted here []).atelier 2).attached = some (0, 1) ∧ ((hosted here []).pciePort 1).up = false ∧ (hosted here []).tamperFuse = false ∧
    (({ hosted here [] with pcie := [(0, ⟨true, false, 0, 0, false, true⟩)] } : State).pciePort 0).perst = true ∧
    (({ hosted here [] with pcie := [(0, ⟨false, false, 0, 0, false, false⟩)] } : State).pciePort 0).refclk = false ∧
    (let x := (State.reset.pciePort 1); x.up = false ∧ x.refclk = true) ∧
    (∀ rate ∈ [640, 25], ∀ width ∈ [8, 1], [640, 320, 160, 80, 50, 25].contains rate = true ∧ [8, 4, 2, 1].contains width = true) := by decide +kernel

/-- A completion held for want of room. -/
def late : Completion := ⟨9, 0, false, false, 0, false⟩

theorem witness_Doorbells :
    (hosted here [(4, ring)]).ownsQueue 0 1 4 = true ∧ SMap.find? (hosted here [(4, ring)]).queues 4 = some ring ∧
    ((64 : BitVec 32) - ring.fetched).toNat ≤ 2 ^ ring.lsize ∧ 2 ^ ring.lsize < ((65 : BitVec 32) - ring.fetched).toNat ∧
    (hosted here [(4, { ring with written := 64, held := [late] })]).ownsQueue 0 1 4 = true ∧
    ((64 : BitVec 32) - 1).toNat < 2 ^ ring.lsize ∧ 2 ^ ring.lsize ≤ ((64 : BitVec 32) - 0).toNat ∧
    SMap.find? (hosted here [(4, { ring with closing := true })]).queues 4 = some { ring with closing := true } ∧
    (∀ c ∈ (hosted here [(4, { ring with closing := true })]).commands, c.2.queue ≠ 4) ∧ ((hosted here []).pciePort 0).up = true := by decide +kernel

/-- A command's 128 bytes from its fields, each as (lowest bit, width, value); payload fields from bit 512 (R311). -/
def entry (fs : List (Nat × Nat × Nat)) : Bytes := leBytes 128 (packFields fs)
/-- An accepted command of queue 4 of atelier 2. -/
def command (st : CmdState) (fs : List (Nat × Nat × Nat)) : Cmd := ⟨4, 2, entry fs, st, [], false, 0, false, false, false, false⟩
/-- Atelier 2 with queue 4, contexts 0 and 1, lease active, and one accepted command. -/
def commanded (st : CmdState) (fs : List (Nat × Nat × Nat)) : State :=
  { hosted here [(4, ring)] with
    contexts := [(0, ⟨2, 0, false, 0⟩), (1, ⟨2, 0, false, 0⟩)], leases := [(2, { Lease.none with state := 2, keys := some ⟨[], [], [], []⟩ })]
    commands := [(9, command st fs)], nextSerial := 10 }

/-- A NOP, and a FENCE_DESTROY of a fence that is not there; a waiting command whose wait is over, one whose is not. -/
theorem witness_AcceptanceAndStart :
    (let s := commanded .waiting [(0, 8, 0x13)]
     let bs := entry [(0, 8, 0x13)]
     let u := (s.onQueue 4 fun x => { x with fetched := ring.fetched + 1 }).hostWrite (s.queueTag ring).1 (s.queueTag ring).2 ring.shadow.toNat (leBytes 8 (ring.fetched + 1).toNat)
     SMap.find? s.queues 4 = some ring ∧ ring.tail ≠ ring.fetched ∧ (s.lease 2).state ≠ 3 ∧ (s.atelier 2).faulted = false ∧
       u.acceptStatus ring ⟨4, 2, padTo 128 bs, .waiting, [], false, 0, false, false, false, false⟩ = 0 ∧
       u.acceptStatus ring ⟨4, 2, padTo 128 (entry [(0, 8, 0x09), (512, 16, 3)]), .waiting, [], false, 0, false, false, false, false⟩ ≠ 0 ∧
       (s.nextToStart 4).map Prod.fst = some 9 ∧ s.waitDone (command .waiting [(0, 8, 0x13)]) = true ∧
       s.waitDone (command .waiting [(0, 8, 0x13), (9, 1, 1)]) = false) ∧
    ((hosted { here with faulted := true } [(4, ring)]).atelier 2).faulted = true := by decide +kernel

theorem witness_Completions :
    SMap.find? (commanded .running [(0, 8, 0x13), (10, 1, 1)]).commands 9 = some (command .running [(0, 8, 0x13), (10, 1, 1)]) ∧
    (ring.written - ring.head).toNat < 2 ^ ring.lsize ∧ 2 ^ ring.lsize ≤ (({ ring with written := 64 } : Queue).written - ring.head).toNat ∧
    (command .running [(0, 8, 0x13), (10, 1, 1)]).sigEn = true ∧ (command .running [(0, 8, 0x13)]).sigEn = false := by decide +kernel

/-- The conditions of `Running`, as one Bool. -/
def runningB (s : State) (n op : Nat) (c : Cmd) : Bool :=
  decide (SMap.find? s.commands n = some c) && decide (s.mstate = 2) && decide (c.opcode = op) && decide (c.state = .running)
theorem running_of {s : State} {n op : Nat} {c : Cmd} (h : runningB s n op c = true) : Running s n op c := by
  simp only [runningB, Bool.and_eq_true, decide_eq_true_eq] at h
  exact ⟨h.1.1.1, h.1.1.2, h.1.2, h.2⟩
/-- The conditions of `Dispatched`, as one Bool. -/
def dispatchedB (s : State) (n op : Nat) (c : Cmd) : Bool :=
  decide (SMap.find? s.commands n = some c) && decide (s.mstate = 2) && decide (c.opcode = op) && decide (c.state = .working)
theorem dispatched_of {s : State} {n op : Nat} {c : Cmd} (h : dispatchedB s n op c = true) : Dispatched s n op c := by
  simp only [dispatchedB, Bool.and_eq_true, decide_eq_true_eq] at h
  exact ⟨h.1.1.1, h.1.1.2, h.1.2, h.2⟩

/-- A command that has started stands as its row asks, whatever its opcode. -/
theorem witness_Running : ∀ op ∈ [0x01, 0x02, 0x03, 0x04, 0x05, 0x06, 0x07, 0x08, 0x09, 0x0A, 0x0B, 0x0C, 0x0D, 0x0E, 0x10, 0x11, 0x12, 0x13,
      0x20, 0x21, 0x22, 0x23, 0x24], Running (commanded .running [(0, 8, op)]) 9 op (command .running [(0, 8, op)]) := by
  intro op h
  exact running_of ((by decide +kernel : ∀ op ∈ [0x01, 0x02, 0x03, 0x04, 0x05, 0x06, 0x07, 0x08, 0x09, 0x0A, 0x0B, 0x0C, 0x0D, 0x0E, 0x10, 0x11,
    0x12, 0x13, 0x20, 0x21, 0x22, 0x23, 0x24], runningB (commanded .running [(0, 8, op)]) 9 op (command .running [(0, 8, op)]) = true) op h)

theorem witness_Dispatched : ∀ op ∈ [0x0F, 0x14], Dispatched (commanded .working [(0, 8, op)]) 9 op (command .working [(0, 8, op)]) := by
  intro op h
  exact dispatched_of ((by decide +kernel : ∀ op ∈ [0x0F, 0x14], dispatchedB (commanded .working [(0, 8, op)]) 9 op (command .working [(0, 8, op)]) = true) op h)

theorem witness_ObjectCommands :
    (let s := commanded .running [(0, 8, 0x01)]
     (s.entry 2).map (·.ctxq) = some 4 ∧ SMap.freeKey s.contexts 256 0 = 2 ∧ (s.contexts.filter fun x => decide (x.2.atelier = 2)).length < 4) ∧
    (256 ≤ SMap.freeKey ((List.range 256).map fun k => (k, (⟨2, 0, false, 0⟩ : Ctx))) 256 0) ∧
    (commanded .running [(0, 8, 0x03), (16, 8, 1)]).ctxBusy 1 = false ∧ (commanded .running [(0, 8, 0x03)]).ctxBusy 0 = true ∧
    (let c := command .running [(0, 8, 0x04), (16, 8, 1), (512, 2, 1), (520, 8, 1), (528, 5, 6), (544, 64, 0x1000), (608, 64, 0x2000), (672, 64, 8)]
     c.pay 8 8 = c.ctx ∧ c.pay 0 2 = 1 ∧ c.pay 16 5 = 6 ∧ c.pay 236 4 = 0 ∧ c.pay 32 64 % 4096 = 0 ∧ c.pay 96 64 % 4096 = 0 ∧ c.pay 160 64 % 8 = 0) ∧
    (commanded .running [(0, 8, 0x04)]).freeQueue = some 0 ∧ (commanded .running [(0, 8, 0x04)]).queuesOf 2 = 1 ∧
    (let c := command .running [(0, 8, 0x05), (512, 11, 4)]
     SMap.find? (commanded .running [(0, 8, 0x05), (512, 11, 4)]).queues (c.pay 0 11) = some ring ∧ c.queue = c.pay 0 11) ∧
    (∀ x ∈ (commanded .running [(0, 8, 0x05), (512, 11, 5)]).commands, x.2.queue ≠ 5) ∧
    (let c := command .running [(0, 8, 0x06), (592, 32, 1), (544, 48, 0x200000)]
     let s := { commanded .running [(0, 8, 0x06)] with installation := some { house with shares := [1] } }
     s.mobjStatus c = 0 ∧ s.takePages 0 1 = some [0] ∧ (s.mobjs.filter fun x => (SMap.find? s.contexts x.2.ctx).any fun y => decide (y.atelier = 2)).length < 4) ∧
    (commanded .running [(0, 8, 0x06)]).mobjStatus (command .running [(0, 8, 0x06)]) ≠ 0 ∧
    (let c := command .running [(0, 8, 0x08), (16, 8, 1), (656, 8, 1)]
     c.pay 144 8 = c.ctx ∧ c.pay 64 64 % 8 = 0 ∧ SMap.freeKey (commanded .running [(0, 8, 0x08)]).fences 65536 0 = 0) := by decide +kernel

theorem witness_ReleasesAndSignals :
    (let m : MObj := ⟨0, false, false, false, false, 0, 0, 0x200000, [0], false, 0, true, some 9⟩
     m.condemned = true ∧ m.refs = 0 ∧ m.gddr = false) ∧
    signalTakes 5 6 = true ∧ signalTakes 5 5 = false ∧ signalTakes 0 (BitVec.ofNat 64 (2 ^ 63)) = false ∧
    (commanded .running [(0, 8, 0x0A)]).imageGood 2 (padTo 0 []) = false := by decide +kernel

theorem witness_JobCommands :
    (let c := command .working [(0, 8, 0x0F), (512, 12, 1), (544, 32, 3)]
     let s : State := { commanded .working [(0, 8, 0x0F), (512, 12, 1), (544, 32, 3)] with jobs := [(1, job)] }
     SMap.find? s.jobs (c.pay 0 12) = some job ∧ job.command = none ∧ c.pay 32 32 = 3) ∧
    (let c := command .working [(0, 8, 0x14), (512, 12, 1), (524, 4, 1)]
     let j : Job := { job with committed := some 3 }
     let m : MObj := ⟨0, false, false, false, false, 0, 0, 0x200000, [0], false, 0, false, none⟩
     let s : State := { commanded .working [(0, 8, 0x14), (512, 12, 1), (524, 4, 1)] with jobs := [(1, j)], mobjs := [(0, m)] }
     SMap.find? s.mobjs (c.pay 20 20) = some m ∧ fmtVar (c.pay 12 4) (c.pay 16 2) = some (.bf16, .none) ∧ (s.snapshotBytes j .bf16 .none).length ≤ m.size ∧
       m.refuses s = false ∧ j.owners.all (s.committedReadable j false) = true ∧ s.mayCapture c = true) := by decide +kernel

/-- A job that no commission admits, one whose image does not exist (R331, R332). -/
theorem witness_JobCommands_refused :
    (commanded .running [(0, 8, 0x0E)]).commissioned job = false ∧
    (commanded .running [(0, 8, 0x0E)]).jobCheck job [] 0 (some []) (some []) [] [] ≠ 0 := by decide +kernel

/-! ### Links -/

/-- Module 0 of palette 0, with an expected peer on palette port 0 (module 1) and on rail port 15; port 0 as given (R258, R446). -/
def peered : Installation :=
  { house with w0 := 1, w1 := 1, w2 := 1, peers := (List.range 19).map fun p => if p = 0 then ⟨true, false, false, 1, 0, 0, []⟩ else if p = 15 then ⟨true, false, false, 16, 0, 0, []⟩ else default }
def linked (p : Nat) (x : DarvalPort) : State :=
  { State.reset with mstate := 2, installation := some peered, power := { Power.reset with lref := true }, ports := [(p, x)] }
def portIn (st : PortState) : DarvalPort := { DarvalPort.reset with state := st }
/-- A hello flit from the module at the far end of port 0 (R274). -/
def hello (ident : Nat) : Bytes := record 64 [(0, 4, 1), (16, 8, 3), (24, 8, 3), (32, 10, ident), (42, 6, 14)]
/-- A packet from a module to this one. -/
def packet (ptype src lease : Nat) (info : List (Nat × Nat × Nat)) (payload : Bytes) : Packet :=
  ⟨packetHeader 0 ptype (payload.length / 64) src 0 lease 0 7 info, payload⟩
/-- A packet of this module that waits for module `dst`. -/
def outgoing (ptype dst : Nat) : Waiting := ⟨⟨packetHeader 0 ptype 0 0 dst 0 0 0 [], []⟩, dst, 0, none, none⟩

theorem witness_LinkBringUp :
    ((linked 0 (portIn .absent)).peerEntry 0).isSome = true ∧ (linked 0 (portIn .lost)).blocksTaken 0 < 8 ∧
    8 ≤ ({ linked 0 (portIn .absent) with ports := [(1, { portIn .up with version := 2 }), (2, { portIn .up with version := 2 }), (3, { portIn .up with version := 2 }),
      (4, { portIn .up with version := 2 })] } : State).blocksTaken 0 ∧
    (∀ k ∈ [0, 2, 3, 5], ((linked 0 { portIn .training with stage := k }).port 0).stage = k) ∧
    ((linked 0 { portIn .training with stage := 5, control := [hello 1] }).peerEntry 0).map (fun e => helloGood 0 e (hello 1)) = some true ∧
    ((linked 0 { portIn .training with stage := 5, control := [hello 2] }).peerEntry 0).map (fun e => helloGood 0 e (hello 2)) = some false ∧
    bitsIn (hello 1) 0 4 = 1 ∧ min 3 (bitsIn (hello 1) 24 8) = 3 ∧ max 3 (bitsIn (hello 1) 16 8) = 3 ∧ (linked 0 (portIn .training)).blocksTaken 0 + 1 ≤ 8 ∧
    min 3 (bitsIn (record 64 [(0, 4, 1), (24, 8, 2)]) 24 8) < 3 ∧ bitsIn (record 64 [(0, 4, 2)]) 0 4 = 2 ∧
    16 < ({ portIn .up with failures := List.replicate 17 5 } : DarvalPort).failures.length ∧ (portIn .up).unacked.length < 512 ∧ (∀ g < 32, ((linked 15 (portIn .training)).session g).stored = []) ∧ ((linked 0 { portIn .retraining with since := 0 }).port 0).state = .retraining ∧
    (linked 0 (portIn .retraining)).collectives = [] ∧ (∀ a < 16, ((linked 0 (portIn .retraining)).atelier a).draining = none) := by decide +kernel

/-- A control flit that acknowledges codeword 2 and gives back credits (R265, R266). -/
def ackOf : Bytes := record 64 [(0, 4, 0), (4, 10, 2), (16, 16, 3)]
def sending : State :=
  { linked 15 { portIn .up with credits := [(0, 9)], queues := [(0, [outgoing 1 16])] } with sessions := [(16, { Session.closed with up := true, keys := some ⟨[], [], []⟩ })] }
def stored (n : Nat) : State :=
  { linked 15 (portIn .up) with sessions := [(16, { Session.closed with up := true, resends := n, unackedSince := 1, stored := [⟨7, ⟨[], []⟩, some 9, none⟩] })] }

theorem witness_LinkTraffic :
    ((linked 0 (portIn .up)).port 0).state = .up ∧ 0 % 1024 = (((linked 0 (portIn .up)).port 0).lastSeq + 1) % 1024 ∧ 1 % 1024 ≠ (((linked 0 (portIn .up)).port 0).lastSeq + 1) % 1024 ∧
    (∀ f ∈ List.replicate 10 ackOf, f.length = 64 ∧ bitsIn f 0 4 ≤ 2) ∧ (15 : Nat) < 16 ∧
    bitsIn ackOf 0 4 = 0 ∧ bitsIn (record 64 [(14, 1, 1)]) 14 1 = 1 ∧
    ((sending.choose 15).2 = some (outgoing 1 16)) ∧ (outgoing 1 16).packet.ptype ≠ 6 ∧ (outgoing 6 16).packet.ptype = 6 ∧ (outgoing 1 16).lease = 0 ∧ (sending.session 16).up = true ∧ (sending.session 16).lost = false ∧ ({ outgoing 6 16 with packet := packet 6 0 0 [(0, 4, 1)] [] } : Waiting).packet.info 0 4 ≠ 3 ∧
    (sending.session 16).promoted.keys.isSome = true ∧ isRailPort 15 = true ∧ isRailPort 0 = false ∧
    ([packet 5 16 0 [] []] : List Packet).find? (fun p => decide (p.ptype = 5)) = some (packet 5 16 0 [] []) ∧
    (BitVec.ofNat 32 (packet 5 16 0 [] []).ack - (7 : BitVec 32)).toNat < 2 ^ 31 ∧
    (stored 7).onRail 16 = true ∧ ((stored 7).session 16).up = true ∧ ((stored 7).session 16).stored ≠ [] ∧ ((stored 7).session 16).resends < 8 ∧
    ((stored 7).port ((stored 7).railPort (16 / 16))).state = .up ∧ 0 < ((stored 7).session 16).unackedSince ∧ 8 ≤ ((stored 8).session 16).resends := by decide +kernel

/-- Session messages that are too short to be good, from a higher and from a lower index (R282, R421). The checks that pass rest on
SM2 signatures under the identifier that Config leaves without a value and on X.509 checks, so no closed state shows them. -/
theorem witness_Sessions :
    (∀ k ∈ [1, 2, 3], (([packet 6 1 0 [(0, 4, k)] []] : List Packet).find? (fun p => decide (p.ptype = 6) && decide (p.info 0 4 = k))).isSome = true) ∧
    (linked 0 (portIn .up)).gidx < 1 ∧ (linked 0 (portIn .up)).certGood 1 [] = false ∧ ((linked 0 (portIn .up)).session 1).awaits ≠ 2 ∧
    (({ linked 0 (portIn .up) with sessions := [(1, { Session.closed with failedAt := some 5 })] } : State).session 1).failedAt = some 5 ∧
    (let y := ({ linked 0 (portIn .up) with sessions := [(1, { Session.closed with up := true })] } : State).session 1
     y.up = true ∧ y.lost = false ∧ y.coming = none ∧ y.awaits = 0) := by decide +kernel

/-! ### DMA and bulk writes -/

/-- A DMA from host address 4,090 to device address 2 MiB, 100 bytes (R333). -/
def dmaBytes : List (Nat × Nat × Nat) := [(0, 8, 0x11), (514, 2, 1), (576, 64, 4090), (640, 64, 0x200000), (704, 32, 100)]
def segment (i : Nat) : Segment := ⟨9, i, 0x200000, 0x201000, 64, none, [], []⟩
def dma (host : Bool) (todo out : List Segment) : DmaRun :=
  ⟨9, 0, 2, 0, 4, 0, host, none, 0, false, todo, out, false, [], false, 0, [], 0, [], 0, 0x210000, none, [], 0⟩
def moving (d : DmaRun) : State :=
  { commanded .working dmaBytes with
    dmas := [(9, d)], tags := d.out.filterMap fun g => g.tag.map fun t => (t, ⟨some 2, 0, 0⟩)
    mobjs := [(0, ⟨0, false, false, true, false, 0, 0, 0x200000, [0], false, 0, false, none⟩)] }

theorem witness_DmaTransfers :
    ((commanded .running dmaBytes).dmaOf 9 (command .running dmaBytes)).todo.map (·.len) = [6, 94] ∧
    (commanded .running dmaBytes).realTime 4 = false ∧
    ({ commanded .running dmaBytes with queues := [(4, { ring with kind := 2 })] } : State).realTime 4 = true ∧
    ((moving (dma false [segment 0] [])).nextDma 0 = some (dma false [segment 0] [])) ∧ ((moving (dma false [segment 0] [])).freeEngine 0).isSome = true ∧
    ((moving (dma false [segment 0] [])).freeTag 2 = some 2048) ∧ ((moving (dma false [segment 0] [])).fetch 0 0x200000 64).bad = [] ∧
    (({ moving (dma false [segment 0] []) with installation := none } : State).freeTag 2 = none) ∧
    (let s := { moving (dma true [] []) with tagWaits := [segment 0] }
     s.firstWait 2 = some (segment 0, dma true [] []) ∧ s.freeTag 2 = some 2048 ∧ (s.freeEngine 0).isSome = true) ∧
    (let g := { segment 0 with tag := some 2048 }
     let s := moving (dma false [] [g])
     SMap.find? s.tags 2048 = some ⟨some 2, 0, 0⟩ ∧
       s.dmas.findSome? (fun (p : Nat × DmaRun) => (p.2.out.find? fun g => decide (g.tag = some 2048)).map (p.2, ·)) = some (dma false [] [g], g) ∧
       (s.tagLive ⟨some 2, 0, 0⟩ = true) ∧ s.tagLive ⟨some 2, 1, 0⟩ = false) := by decide +kernel

/-- Bulk writes to object 0: lease 5 is atelier 2's (R268, R269, R283). -/
def lease5 : Lease := { Lease.none with state := 2, keys := some ⟨[], [], [], []⟩, commission := some ⟨[], 1, 1, 5, 0, false, true, true, false, false, [], [], []⟩ }
def bulk (lease obj off : Nat) (rest : DarvalPort → DarvalPort) : State :=
  let s := moving (dma false [] [])
  { s with installation := some peered, leases := [(2, lease5)]
           ports := [(0, rest { portIn .up with packets := [packet 0 1 lease [(0, 20, obj), (64, 48, off)] (List.replicate 64 1)] })] }

theorem witness_DmaTransfers_bulk :
    (let p := packet 0 1 5 [(0, 20, 0), (64, 48, 64)] (List.replicate 64 1)
     let s := bulk 5 0 64 id
     ((s.port 0).packets.find? (fun p => decide (p.ptype = 0)) = some p) ∧ (s.takePacket 0 p).bulkResult p = 0x00 ∧ s.route p.src = some 0 ∧
       SMap.find? s.mobjs (p.info 0 20) = some ⟨0, false, false, true, false, 0, 0, 0x200000, [0], false, 0, false, none⟩) ∧
    SMap.find? (bulk 5 1 0 id).mobjs ((packet 0 1 5 [(0, 20, 1)] []).info 0 20) = none ∧ (bulk 6 0 0 id).atelierOfLnum 6 = none ∧ (bulk 5 0 0 id).atelierOfLnum 5 = some 2 ∧
    (65536 < 65536 + 64) ∧ (packet 8 1 0 [] []).ptype = 8 := by decide +kernel

/-! ### Training -/

/-- A job ready for its next step, its training block in the reservoir object of context 0 (R228, R229). -/
def stepJob : Job := { job with running := true, run := none, block := leBytes 128 (packFields [(240, 48, 0x200000)]), layers := [List.replicate 64 0] }
def stepState (j : Job) (c : Core) : State :=
  { withJob j with cores := [(5, c)], contexts := [(0, ⟨2, 0, false, 0⟩)], mobjs := [(0, ⟨0, false, false, false, false, 0, 0, 0x200000, [0], false, 0, false, none⟩)] }
/-- The job's core at the end of its program of step 7. -/
def ended : Core := { Core.reset with job := some 1, step := some 7, atelier := 2 }
def running (r : StepRun) : State := stepState { stepJob with run := some r } ended

theorem steps_of {s : State} {n : Nat} {j : Job} {r : StepRun} (h : (decide (SMap.find? s.jobs n = some j) && decide (j.run = some r) && decide (s.mstate = 2)) = true) :
    Steps s n j r := by
  simp only [Bool.and_eq_true, decide_eq_true_eq] at h
  exact ⟨h.1.1, h.1.2, h.2⟩

theorem witness_TrainingSteps :
    (let s := stepState stepJob Core.reset
     SMap.find? s.jobs 1 = some stepJob ∧ stepJob.running = true ∧ stepJob.resident = true ∧ stepJob.lowrank = [] ∧ stepJob.nextStep = 0 ∧ stepJob.tb 240 48 = 0x200000 ∧
       (s.locate 0 0x200000).map s.retiredAt = some false ∧ (s.store 0 0x200000 (record 64 [(0, 64, 0), (64, 8, unsignedOf 8 (stepJob.kAt 0)), (72, 8, 0)])).gddrBad = []) ∧
    (let r := stepRun
     r.launched = true ∧ r.passes = 0 ∧ (running r).programsEnded 1 r = true ∧ (running r).recordDue 1 { stepJob with run := some r } r = false) ∧
    ({ stepJob with run := some stepRun } : Job).layerDesc 0 = some (List.replicate 64 0) ∧ stepRun.updates (List.replicate 64 0) = true ∧
    (((running stepRun).optimistic 1 { stepJob with run := some stepRun } (List.replicate 64 0) stepRun).atelier 2).faulted = false ∧
    (let r : StepRun := { stepRun with passes := 1, applied := [⟨0, true⟩] }
     (running r).recordDue 1 { stepJob with run := some r } r = true ∧ r.updates (List.replicate 64 0) = false) := by decide +kernel

theorem witness_TrainingSteps_running : Steps (running stepRun) 1 { stepJob with run := some stepRun } stepRun := steps_of (by decide +kernel)

/-- A record of step 7 with its pieces as given (R216): norm 0, k 0. -/
def sealRec (fs : List (Nat × Nat × Nat)) : Bytes := record 64 ((0, 64, 7) :: fs)
def sealing (r : StepRun) : State := running { r with built := some 0 }

theorem witness_Seals :
    (decideSeal [sealRec []] 1 0 0 (f32 one32)).outcome = .commit ∧ (decideSeal [sealRec [], sealRec [(208, 8, 1)]] 1 0 0 (f32 one32)).outcome = .fault ∧
    (decideSeal [sealRec [(217, 1, 1)]] 1 0 0 (f32 one32)).outcome = .skipResidue ∧ (decideSeal [sealRec [(224, 32, 1)]] 1 0 0 (f32 one32)).outcome = .rereduce ∧
    (decideSeal [sealRec [(224, 32, 1)]] 1 0 1 (f32 one32)).outcome = .skipResidue ∧ (decideSeal [sealRec [(216, 1, 1)]] 1 0 0 (f32 one32)).outcome = .skipNonfinite ∧
    (decideSeal [sealRec [(64, 64, 0x7FF0000000000000)]] 1 0 0 (f32 one32)).outcome = .skipNonfinite ∧
    (decideSeal [sealRec [(64, 64, 0x4059000000000000)]] 1 0 0 (f32 one32)).outcome = .clip := by decide +kernel

theorem witness_Seals_held :
    (let r : StepRun := { stepRun with records := [(0, sealRec [])], built := some 0 }
     let j : Job := { stepJob with run := some r }
     r.built.isSome = true ∧ r.outcome = none ∧ (running r).sealHeld j r = true ∧ (decideSeal ((running r).sealRecords j r) j.nmem r.k r.attempt j.clip).outcome ≠ .fault ∧
       (running { r with records := [] }).sealHeld j { r with records := [] } = false ∧ (running r).capturing 1 = false ∧ (running r).aheadStopped 1 j r = true ∧
       ((running r).atelier 2).faulted = false ∧ ((running r).lease 2).state ≠ 3) ∧
    (commanded .working [(0, 8, 0x14), (512, 12, 1)]).capturing 1 = true := by decide +kernel

/-- Every outcome's actions leave the atelier sound: the last clause of the statement meets its premise for each. -/
theorem witness_Seals_actions :
    ∀ o ∈ [Outcome.commit, .clip, .skipNonfinite, .skipResidue, .rereduce],
      (((running { stepRun with built := some 0, outcome := some o }).act 1 { stepJob with run := some { stepRun with built := some 0, outcome := some o } }
        { stepRun with built := some 0, outcome := some o } o).atelier 2).faulted = false := by decide +kernel

/-! ### Reduction and collectives -/

/-- A descriptor of one chunk, sequence number 40, with core 5 as its contributor (R287). -/
def collDesc (op : Nat) (notify : Nat) : Bytes := record 64 [(0, 4, op), (4, 4, if op ≤ 2 then 0xD else 0), (32, 32, 128), (64, 14, 1), (192, 32, 40), (253, 1, notify)]
def coll (op notify : Nat) : Coll := ⟨0, collDesc op notify, [⟨5, 0, 1, 0⟩], 0, false, none⟩
def handed (hop : ChunkHop) (rank attempt : Nat) : HandOver := ⟨1, 7, attempt, 0, rank, hop, 7, 0, List.replicate 260 0⟩
/-- Job 1 of modules 0 and 1 (or of 1 alone where `far`), with a chunk arrived at die 0. -/
def reducing (members : List Nat) (x : Reduction) : State :=
  { running stepRun with installation := some peered, colls := [(7, coll 0 0)], reductions := [(0, x)]
                         jobs := [(1, { stepJob with run := some stepRun, members := members, layers := [] })] }

theorem witness_Reductions :
    (let h := handed .contribution 0 0
     let s := reducing [0, 1] ⟨[h], [], []⟩
     (s.reduction 0).arrivals.find? (fun h => !s.early h) = some h ∧ h.key ∉ (s.reduction 0).accepted ∧ (coll 0 0).op ≠ 5 ∧
       s.paletteOwner { stepJob with members := [0, 1], layers := [] } 0 0 = s.gidx ∧ 2 ≤ s.mPos { stepJob with members := [0, 1] } ∧
       s.paletteOwner { stepJob with members := [0, 1], layers := [] } 0 1 = 1 ∧ s.route 1 = some 0) ∧
    (reducing [0, 1] ⟨[handed .contribution 0 1], [], []⟩).early (handed .contribution 0 1) = true ∧
    (let i : Held := ⟨handed .contribution 0 0, false⟩
     let k : Held := ⟨handed .contribution 1 0, false⟩
     let s := reducing [0, 1] ⟨[], [i, k], []⟩
     (s.reduction 0).inputs.find? (fun i => decide (i.input.rank < 2048) && decide (((s.reduction 0).group i).length = s.inputsDue i)) = some i) ∧
    1 < (reducing [0, 16] ⟨[], [], []⟩).nPal { stepJob with members := [0, 16] } := by decide +kernel

def reporting (op notify : Nat) (x : CollRun) : State :=
  { running stepRun with installation := some peered, colls := [(7, coll op notify)], collectives := [x], leases := [(2, lease5)]
                         jobs := [(1, { stepJob with run := some stepRun, members := [0, 1], layers := [], desc := leBytes 64 (packFields [(128, 14, 7), (142, 15, 1)]) })] }
def collRun : CollRun := CollRun.fresh 1 7 7 (coll 0 0)
/-- A chunk of that collective and step from module 1. -/
def chunkPacket (fprint : Nat) : Packet := packet 1 1 5 [(0, 32, 40), (64, 64, fprint), (128, 64, 7), (225, 4, 1)] (List.replicate 320 0)

theorem witness_Collectives :
    (let d := collDesc 0 0
     collGood d = true ∧ collGood (record 64 []) = false ∧ bitsIn d 80 48 % 8 = 0 ∧ bitsIn d 240 8 = 0) ∧
    (let s := reporting 0 0 collRun
     let p := chunkPacket 0
     p.info 0 32 = 40 ∧ (s.collOf p.lease p.src 40).map (fun x => (x.1, x.2.2.1)) = some (1, 7) ∧ s.collRun 1 7 7 = some collRun ∧ collRun.launched = none ∧
       s.collOf 6 1 40 = none ∧ s.unlaunched 1 7 = some collRun ∧ collRun.reported.has 5 = false ∧ s.atelierOfLnum 5 = some 2 ∧ s.atelierOfLnum 6 = none) ∧
    (let x := { collRun with reported := [5] }
     (∀ e ∈ (coll 0 0).contributors, x.reported.has e.core = true) ∧ (coll 0 0).op ≠ 1 ∧ (coll 0 0).op ≠ 3 ∧ (coll 0 0).op ≠ 4 ∧ x.held = []) ∧
    (let x := { collRun with launched := some 0 }
     let s := reporting 0 0 x
     s.uncompleted 1 7 = some x ∧ s.collDone x { stepJob with members := [0, 1] } (coll 0 0) = false ∧
       s.collDone { x with placed := [0] } { stepJob with members := [0, 1] } (coll 0 0) = true ∧ (coll 0 0).notify = false ∧ (coll 0 1).notify = true ∧
       s.collRun 1 7 7 = some x ∧ bitsIn (slice (chunkPacket x.fprint).header 16 32) 64 64 = x.fprint ∧ bitsIn (slice (chunkPacket 0).header 16 32) 64 64 ≠ x.fprint ∧
       bitsIn (slice (chunkPacket 0).header 16 32) 225 4 = 1) := by decide +kernel

/-- A collective of core 5 whose contributor table lies in the reservoir object of context 0 (R287, R321). -/
def collCreating : State :=
  let d := record 64 [(4, 4, 0xD), (32, 32, 128), (64, 14, 1), (80, 48, 0x200000), (192, 32, 40)]
  { commanded .running [(0, 8, 0x0C), (512, 512, ofLe d)] with
    mobjs := [(0, ⟨0, false, false, false, false, 0, 0, 0x200000, [0], false, 0, false, none⟩)]
    reservoir := Memory.writeBytes [] 0 (leBytes 8 (packFields [(0, 14, 5), (23, 8, 1)])) }

theorem witness_Collectives_create :
    (collCreating.objectAt 0 0x200000 8).isSome = true ∧ (collCreating.fetch 0 0x200000 8).bad = [] ∧
    collCreating.contributorGood 2 0 (contributorOf (collCreating.fetch 0 0x200000 8).bytes) = true ∧
    (collCreating.entry 2).map (·.collq) = some 4 ∧ SMap.freeKey collCreating.colls 16384 0 = 0 ∧ bitsIn (slice (command .running [(0, 8, 0x0C), (752, 8, 9)]).bytes 64 64) 240 8 = 9 := by
  decide +kernel

/-! ### Serving -/

/-- A canvas of one slot, of class 3, opening at 0 and due at 10, period 20 (R370). -/
def canvas : Bytes := leBytes 152 (packFields [(0, 20, 20), (20, 7, 1), (1152 + 20, 20, 10), (1152 + 40, 4, 3)])
def serveJob : Job := { job with serving := true, run := none, block := leBytes 128 (packFields [(60, 4, 3)]) }
def serveLease : Lease := { lease5 with keys := some ⟨[], [], [], [List.replicate 16 7]⟩ }
/-- Atelier 2 with that canvas and a serving job of class 3. -/
def serving (j : Job) : State :=
  { withJob j with
    installation := some { peered with ateliers := peered.ateliers.map fun e => { e with canvas := canvas } }, leases := [(2, serveLease)]
    pcie := [(0, ⟨false, true, 640, 16, true, true⟩)] }
/-- A single query of 64 bytes, sealed by patron 0 as its parcel 1 (R377, R378, R416). -/
def parcel : Bytes :=
  let h := record 32 [(0, 16, 0x5043), (16, 4, 1), (20, 4, 1), (32, 16, 5), (64, 32, 64), (128, 64, 1)]
  let x := gcmSeal (List.replicate 16 7) (parcelNonce 1 5 0 0) h (List.replicate 64 0)
  h ++ x.text ++ x.tag
def query : Query := ⟨2, 3, none, some 0, 0, 1, List.replicate 64 0, [], 0, 0, 0, false⟩
def pass : Pass := ⟨1, 2, 3, 7, 0, 1000, none, [(query, none)], true, false, 0, false⟩

theorem witness_Serving :
    (canvasSlots ((serving serveJob).canvasOf 2) = 1 ∧ (canvasSlot ((serving serveJob).canvasOf 2) 0).cls = 3 ∧ (serving serveJob).servingJob 2 3 = some (1, serveJob) ∧
      (serving serveJob).servingJob 2 4 = none) ∧
    ((serving serveJob).openParcel 2 1 [] = none) ∧ (serving serveJob).bindQuery query = some (0, 0) ∧ query.inLimits = true ∧ query.op = 0 ∧
    (serving { serveJob with pendingSnap := some (3, 4) }).jobs.map Prod.fst = [1] ∧
    ([query] : List Query).filter (fun y => decide (y.atelier = 2) && decide (y.cls = 3) && (y.deferred || (decide (y.at_ = 0) && decide (y.period ≤ 0)))) = [query] ∧
    (let s := { serving serveJob with serving := { State.reset.serving with passes := [pass] }, cores := [(5, ended)] }
     s.passOf 2 3 = some pass ∧ (∀ x ∈ pass.queries, x.2 = none) ∧ s.passEnded pass = true ∧ ({ s with cores := [] } : State).passEnded pass = false) ∧
    (let s := { commanded .working [(0, 8, 0x11)] with queues := [(4, { ring with kind := 2 })] }
     s.awaitsParcel 9 (command .working [(0, 8, 0x11)]) = true) ∧
    (command .running [(0, 8, 0x10), (512, 12, 1)]).jobSlot = 1 ∧ serveJob.stopping = none ∧ ({ stepJob with command := some 9, run := some stepRun } : Job).run.any (·.launched) = true := by
  decide +kernel

theorem witness_Serving_parcel : (serving serveJob).openParcel 2 1 parcel = some (List.replicate 64 0) := by decide +kernel

/-! ### Energy and scheduling -/

theorem witness_Flacon :
    (List.replicate 12 20).length = 12 ∧ (∀ p ∈ adjacentPairs, (List.replicate 12 20).getD p.1 0 ≤ (List.replicate 12 20).getD p.2 0 + 15) ∧
    (hosted here []).power.rails = true ∧ (hosted here []).power.held = false ∧ (hosted here []).installation.isSome = true ∧ (hosted here []).time.toNat + 1600 < 2 ^ 64 ∧
    (hosted here []).flacon.cold = true ∧
    (let s := { State.reset with panels := [(0, { Panel.reset with ran := true, loaded := 25000 })] }
     (s.panel 0).ran = true ∧ (∀ p < 12, (s.panel p).ran = true → 25000 ≤ (s.panel p).loaded)) ∧
    (let s := { State.reset with panels := [(0, { Panel.reset with ran := true, loaded := 24999 })] }
     (s.panel 0).ran = true ∧ (s.panel 0).loaded < 25000) ∧
    (let s := { State.reset with panels := [(0, { Panel.reset with coolSince := [(0, 5)], budget := 9 })], flacon := { Flacon.reset with energy := 1 } }
     (s.panel 0).cls ≠ 0 ∧ (s.panel 0).blind = false ∧ SMap.find? (s.panel 0).coolSince ((s.panel 0).cls - 1) = some 5 ∧ s.flacon.energy ≠ 0 ∧
       (s.panel 0).budget ≤ (s.panel 0).metered + 9 + 0 ∧ (s.panel 0).metered + 8 + 0 < (s.panel 0).budget) ∧
    (let y : Clamp := ⟨0, 1, some 5⟩
     ([y] : List Clamp).find? (fun y => (decide (y.low = 1) && decide (y.high = 0)) || (decide (y.low = 0) && decide (y.high = 1))) = some y) ∧
    State.reset.mstate = 1 ∧ State.reset.power.curb = false := by decide +kernel

/-- A JOB_RUN of job 1 that has been started by its queue, in a module whose panels have budget (R337, R359). -/
def runBytes : List (Nat × Nat × Nat) := [(0, 8, 0x0F), (512, 12, 1), (544, 32, 3)]
def dispatching (passed : Nat) (j : Job) : State :=
  { withJob j with
    commands := [(9, { command .running runBytes with passed := passed })], queues := [(4, ring)]
    panels := (List.range 12).map fun p => (p, { Panel.reset with budget := 100000 }) }

/-- Job 1 holds core 5; job 2, on the same core, waits with a JOB_RUN. -/
def contending (np : Nat) (j : Job) : State :=
  { withJob { j with slice := 5 } with
    images := [(1, ⟨0, image, 0, false, none⟩), (2, ⟨0, image, 0, false, none⟩)], jobs := [(1, { j with slice := 5 }), (2, { job with resident := false, run := none })]
    commands := [(8, { command .working ((8, 1, np) :: runBytes) with queue := 4 }), (9, command .running [(0, 8, 0x0F), (512, 12, 2)])], queues := [(4, ring)] }

theorem witness_Scheduling :
    (commanded .running [(0, 8, 0x13)]).readyList = [] ∧ (dispatching 0 stepJob).readyList = [(9, command .running runBytes)] ∧
    ((dispatching 0 { stepJob with resident := false }).tryStart 9 (command .running runBytes)).isSome = true ∧
    (dispatching 65 stepJob).ready 9 { command .running runBytes with passed := 65 } = true ∧ (64 < 65) ∧
    (let s := contending 0 stepJob
     let j := { stepJob with slice := 5 }
     j.resident = true ∧ j.serving = false ∧ j.switching = false ∧ s.decantSets j.atelier ≠ 0 ∧ (s.reach j.slice).contended 1 = true ∧ s.pinned 1 j = false ∧ s.decantRoom 1 j = true) ∧
    (let s := { contending 0 stepJob with decants := (List.range 44).map fun k => (16384 * 3 + k, Core.reset) }
     s.pinned 1 { stepJob with slice := 5 } = false ∧ s.decantRoom 1 { stepJob with slice := 5 } = false) ∧
    (let s := contending 1 { stepJob with command := some 8 }
     (s.reach 5).contended 1 = true ∧ (SMap.find? s.commands 8).map (·.np) = some true) := by decide +kernel

theorem witness_Scheduling_cores :
    (let s := stepState { stepJob with switching := true } { ended with run := .running, boundary := true }
     (s.core 5).run = .running ∧ s.mustStop 5 = true ∧ s.atBoundary 5 = true) ∧
    (let s := stepState stepJob { ended with run := .running, boundary := true }
     s.mustStop 5 = false) ∧
    (let s := stepState { stepJob with switching := true } { ended with run := .stopped }
     s.jobStopped 1 = true ∧ SMap.find? s.jobs 2 = none ∧ (imageCores (s.imageOf 1)).Nodup ∧ imageCores (s.imageOf 1) = [5] ∧ (s.core 5).job = some 1) ∧
    (let j : Job := { stepJob with resident := false, decanted := true, command := some 9 }
     let s := { stepState j Core.reset with commands := [(9, command .working runBytes)], decants := [(16384 * 1 + 5, ended)] }
     s.chosen 1 j = true ∧ s.holders (imageCores (s.imageOf 1)) 1 = [] ∧ (∀ k ∈ imageCores (s.imageOf 1), k < 16384) ∧ SMap.find? s.decants (16384 * 1 + 5) = some ended) := by
  decide +kernel

/-! ### Leases and sealed streams -/

/-- A commission of one patron whose limits hold (R410). That its patron has signed it, and that a share opens, rest on SM2
signatures under the identifier that Config leaves without a value. -/
def commission : Bytes :=
  leBytes 384 (packFields [(0, 32, 0x4D4D4F43), (32, 16, 1), (48, 8, 1), (56, 8, 1), (64, 16, 1), (80, 16, 5), (192, 32, commissionSize 1 1)])

theorem witness_Leases :
    commissionGood (padTo (commissionSize 1 1) commission) = true ∧ commissionGood [] = false ∧
    (({ commanded .running [(0, 8, 0x20)] with leases := [] } : State).lease 2).state = 0 ∧ ((commanded .running [(0, 8, 0x20)]).lease 2).state = 2 ∧
    (command .running [(0, 8, 0x20)]).pay 0 2 = 0 ∧ (command .running [(0, 8, 0x20), (512, 2, 1)]).pay 0 2 = 1 ∧ (command .running [(0, 8, 0x20), (512, 2, 2)]).pay 0 2 = 2 ∧
    (commanded .running [(0, 8, 0x20), (512, 2, 1)]).unwrapShare 2 0 [] = none ∧
    (commanded .running [(0, 8, 0x21)]).holds 2 5 = true ∧ (∀ p ∈ (commanded .running [(0, 8, 0x21)]).tags, p.2.atelier ≠ some 2) ∧
    ((hosted { here with draining := some 5 } []).atelier 2).draining = some 5 := by decide +kernel

theorem witness_StreamsOpen : (List.replicate 100 (5 : Byte)).length < 2 ^ 40 := by decide

/-- Atelier 2 under a commission that lets it save, its job at step 3 (R424, R425). -/
def saving (ckpt : Bool) (op : Nat) (fs : List (Nat × Nat × Nat)) : State :=
  { commanded .running ((0, 8, op) :: fs) with
    jobs := [(1, { job with run := none, committed := some 3 })]
    leases := [(2, { lease5 with commission := some ⟨[], 1, 0, 5, 0, true, ckpt, true, false, false, [], [], List.replicate 32 9⟩ })] }
def savedJob : Job := { job with run := none, committed := some 3 }

theorem witness_StreamsAndReports :
    (let s := saving true 0x23 [(512, 12, 1), (640, 64, 0x10000)]
     SMap.find? s.jobs 1 = some savedJob ∧ ((s.lease 2).commission.map (·.ckpt)) = some true ∧ (s.lease 2).keys = some ⟨[], [], [], []⟩ ∧
       streamSize (s.checkpointText savedJob).length ≤ (command .running [(640, 64, 0x10000)]).pay 128 64 ∧
       (command .running []).pay 128 64 < streamSize (s.checkpointText savedJob).length ∧ s.checkpointReadable savedJob = true) ∧
    ((saving false 0x23 []).lease 2).commission.map (·.ckpt) = some false ∧ slice ([] : Bytes) 24 32 ≠ List.replicate 32 9 ∧
    orderGood [] 0 = false ∧ SMap.find? (saving true 0x22 []).jobs (bitsIn ([] : Bytes) 48 12) = none ∧
    (hosted here []).served 0 = true ∧ (hosted here []).atelierOfFn 0 1 = some 2 := by decide +kernel

/-- An order that keeps its limits, for job 1 at step 3 under a quorum of none (R428), allowed and refused. -/
def order : Bytes :=
  leBytes 328 (packFields [(0, 32, 0x54584845), (32, 16, 1), (48, 12, 1), (60, 4, 1), (128, 64, 3), (192, 256, ofLe (List.replicate 32 (9 : Byte))), (448, 512, ofLe (pointBytes (sm2BaseX, sm2BaseY))), (1120, 8, 1)])

theorem witness_StreamsAndReports_order :
    (let m : Commission := ⟨[], 0, 0, 5, 0, true, true, true, false, false, [], [], List.replicate 32 9⟩
     orderGood order order.length = true ∧ bitsIn order 48 12 = 1 ∧ (sm2PointOf (ofBytes512 (slice order 56 64))).isSome = true ∧ sm2PointOf (ofBytes512 []) = none ∧ orderAllowed ((saving true 0x22 []).lease 2) m savedJob order = true ∧
       orderAllowed ((saving true 0x22 []).lease 2) m { savedJob with committed := some 2 } order = false ∧
       streamSize ((saving true 0x22 []).exhibitText savedJob (orderFmt order) (orderVar order)).length ≤ 0x10000 ∧
       savedJob.owners.all ((saving true 0x22 []).committedReadable savedJob (decide (orderFmt order = 0))) = true) := by decide +kernel

/-- A checkpoint of that job, under the commission's key, opens to its text (R423 to R425). -/
theorem witness_StreamsAndReports_restore :
    (let s := saving true 0x24 [(512, 12, 1)]
     let text := s.checkpointText savedJob
     let b := sealStream ⟨1, 1, 0, 0, 3, List.replicate 32 9, List.replicate 16 4, [], []⟩ (ckptKey [] (List.replicate 32 9) (List.replicate 16 4)) text
     slice b 24 32 = List.replicate 32 9 ∧ openStream (ckptKey [] (List.replicate 32 9) (slice b 56 16)) b = some text ∧
       (s.readParts savedJob text savedJob.lowrank savedJob.partsOff).map (·.2) = some text.length ∧ leAt text 32 8 = savedJob.npar) := by decide +kernel

/-! ### The whole module -/

theorem witness_WellFormedCommandsComplete : (Instr.coreStateAccess 10367 .goOn).wellFormed = true ∧ (Instr.windowBoundary (List.replicate 12 ⟨List.replicate 64 0, 0, 0, 0, 0, 0⟩) default).wellFormed = true := by
  decide +kernel
theorem witness_ModelChoices : State.reset.pending = [] ∧ (∃ names, wordOf (.vectorAdd 10368 false) = some (10368, false, names)) ∧ 10368 ≤ 10368 :=
  ⟨rfl, ⟨_, rfl⟩, by decide⟩
theorem witness_StepKeepsSound : State.reset.Sound ∧ step State.reset = .next (tick State.reset) := ⟨by constructor <;> decide, rfl⟩
theorem witness_FusesNeverMend : ∃ t, step { State.reset with pending := [.getmwl], tamperFuse := true } = .next t := ⟨_, rfl⟩

/-! ### The spec's worked cases -/

/-- 01: global core 5,000 lies in panel 5, at r = 18 and c = 32, quadrant 23. -/
theorem test_core_5000 : panelOf 5000 = 5 ∧ quadrantOf 5000 = 23 := by decide +kernel

/-- 02: 13.0, −2.6, 0.2 and 0.5 to E2M1 under B32E8 by the floor rule: X = 128; 13.0 saturates, 0.2 and 0.5 underflow. -/
def four : List XReal := [.fin false 13 0, .fin true (26 * 2 ^ 40 / 10) (-40), .fin false (2 * 2 ^ 40 / 10) (-40), .fin false 1 (-1)]
theorem test_block_floor :
    (let b := convertBlock .e2m1 .b32 .floor 0 0 ⟨0, 0, 0⟩ 0 four
     (b.scale, b.codes, b.ev)) = (128, [0b0111, 0b1011, 0, 0], ⟨1, 1, 1, 2, 0⟩) := by decide +kernel

/-- 02: under the cover rule X = 129 and 13.0 becomes code 0b0101, with no saturation. -/
theorem test_block_cover :
    (let b := convertBlock .e2m1 .b32 .cover 0 0 ⟨0, 0, 0⟩ 0 four
     (b.scale, b.codes.headD 0, b.ev.sat)) = (129, 0b0101, 0) := by decide +kernel

/-- 02: layer 0x2A31's rate is 393 when 12,884,902 of 2,147,483,648 blocks saturate. -/
theorem test_saturation_rate : rateOf [2147483648, 12884902] = 393 := by decide +kernel

/-- 02: at step 5,000 the layer, above its threshold 328, is set to the block mode from step 5,002. -/
theorem test_escalation :
    (Escalation.mk 0x2A31 328 4 0 0 none []).after 5000 [2147483648, 12884902] = (⟨0x2A31, 328, 4, 0, 0, some (5002, 1), []⟩, some 1) := by decide +kernel

/-- 03: the word of R83's worked case, written out in its four lanes. -/
def streamWord : Word256 :=
  BitVec.ofNat 256 (0x000000131175C100 + 2 ^ 128 * 0x0019000D00000000 + 2 ^ 192 * 0x0000000100000000)
theorem test_stream_word :
    arrayField streamWord = ⟨1, 0, 7, 1, 7, 1, 0, 1, false, 0, 3, true, false, 0, 0, 0, 0, 0, 0, 0, false, false⟩ ∧
    wordSelect streamWord 0 = ⟨1, true, true, 0, 0⟩ ∧ wordSelect streamWord 1 = ⟨1, false, true, 1, 0⟩ ∧
    closes streamWord 0 = true ∧ closes streamWord 1 = false ∧ wordFormat streamWord = 0 := by decide +kernel

/-- 06: a block at local address 0x0_8000 with local strip base 0x3_8000 has its strip area at 0x3_A000. -/
theorem test_strip_area : stripArea { Core.reset with localStrip := 0x38000 } ⟨false, 0x8000, 64, 0, 0, 0x8000⟩ = 0x3A000 := by decide +kernel

/-- 07: a sum of squares of 2^54 over 1,024 members with k = 16 and T = 1.0 gives gnorm 2.0 and the factor 0.5 (here as 16 records of 2^50). -/
theorem test_clip :
    (let v := decideSeal (List.replicate 16 (record 64 [(64, 64, (1023 + 50) * 2 ^ 52)])) 1024 16 0 (.fin false 1 0)
     (v.outcome, v.factor, v.gnorm)) = (.clip, 0x3F000000, 0x4000000000000000) := by decide +kernel

/-- 08: the three inputs of the tier-1 adder. -/
def inputChunk (scale residue : Nat) (a b c : Int) : Chunk := ⟨[a, b, c] ++ List.replicate 125 0, scale, residue, false, false, false, 0⟩
def inputs : List Chunk := [inputChunk 0x82 0x27 20000 (-3) 7, inputChunk 0x79 0x18 (-12345) 1000 (-32767), inputChunk 0x83 0xB8 9 16000 (-2)]
theorem test_adder_inputs : inputs.all Chunk.passes = true := by decide +kernel
theorem test_adder : addChunks inputs false = ⟨inputChunk 0x82 0x7A 19994 31999 (-61), true, true⟩ := by decide +kernel
theorem test_flipped_bit : (inputChunk 0x82 0x7A 19994 0x7CEF (-61)).passes = false := by decide +kernel

/-- 08: chunk 74,565 of a job on all 1,024 modules belongs to module 837. -/
theorem test_owner : State.reset.ownerOf { (default : Job) with members := List.range 1024 } 74565 = 837 := by decide +kernel

/-- 09: module 837 reaches 838 on L0 and 832 on L10; module 901 reaches 837 on L15. -/
def at' (palette : Nat) : State := { State.reset with installation := some { house with palette := palette, position := 5 } }
theorem test_routes : (at' 52).route 838 = some 0 ∧ (at' 52).route 832 = some 10 ∧ (at' 56).route 837 = some 15 := by decide +kernel

/-- 10: the fence of the worked case: the signals 0x5 accepted, then …FFFA and 0x5 stale; the waits. -/
theorem test_fence :
    signalTakes 0xFFFFFFFFFFFFFFF0 5 = true ∧ signalTakes 5 0xFFFFFFFFFFFFFFFA = false ∧ signalTakes 5 5 = false ∧
    waitOver 0xFFFFFFFFFFFFFFF0 0xFFFFFFFFFFFFFFF8 = false ∧ waitOver 5 0xFFFFFFFFFFFFFFF8 = true ∧ waitOver 5 3 = true := by decide +kernel

/-- 13: line 418 of region 5,000 on port die east, major 7 and minor 3. -/
theorem test_line_nonce : lineNonce 7 3 418 70536 = [7, 0, 0, 0, 3, 0, 0xA2, 1, 0x88, 0x13, 1, 0] := by decide +kernel

/-- R44: an infinity in a block of 32: 0xFF and zeros, whether the scale is computed or supplied. -/
theorem witness_CodesOfConversions :
    (let xs := XReal.inf true :: List.replicate 31 (XReal.fin false 1 0)
     (∃ x ∈ xs, x.nonfinite = true) ∧ (convertBlock .int8 .b32 .supplied 127 0 ⟨0, 0, 0⟩ 0 xs).scale = 0xFF ∧
       (convertBlock .int8 .b16 .floor 0 0 ⟨0, 0, 0⟩ 0 xs).scale = 0x7F) := by decide +kernel

/-! ### The standards' own examples -/

/-- GB/T 32905, example 1: SM3 of "abc". -/
theorem test_sm3 : ofBe (sm3 [0x61, 0x62, 0x63]) = 0x66c7f0f462eeedd9d1f2d46bdc10e4e24167c4875cf2f7a2297da02b8f4ba8e0 := by decide +kernel

/-- GB/T 32907, example 1. -/
theorem test_sm4 : (let k := beBytes 16 0x0123456789abcdeffedcba9876543210; ofBe (sm4Block (sm4Keys k) k)) = 0x681edf34d206965e86b3e94f536e4246 := by
  decide +kernel

/-- The example of GB/T 32918.5 (recommended curve): its key pair, and its signature of "message digest". -/
theorem test_sm2 :
    let key : BitVec 512 := 0x09F9DF311E5421A150DD7D161E4BC5C672179FAD1833FC076BB08FF356F35020CCEA490CE26775A52DC6EA718CC1AA600AED05FBF35E084A6632F6072DA9AD13#512
    sm2Public 0x3945208F7B2144B13F36E38AC6D39F95889393692860B51A42FB81EF4DF7C5B8#256 = key ∧
    sm2VerifyAs (beBytes 16 0x31323334353637383132333435363738) key
      0xF5A03B0648D2C4630EEAC513E1BB81A15944DA3827D5B74143AC7EACEEE720B3B1B6AA29DF212FD8763182BC0D421CA1BB9038FD1F7F42D4840B69C485BBC1AA#512
      (beBytes 14 0x6D65737361676520646967657374) = true := by decide +kernel

/-- RFC 8998, appendix A.1: SM4-GCM. -/
theorem test_gcm :
    (let x := gcmSeal (beBytes 16 0x0123456789ABCDEFFEDCBA9876543210) (beBytes 12 0x00001234567800000000ABCD)
      (beBytes 20 0xFEEDFACEDEADBEEFFEEDFACEDEADBEEFABADDAD2)
      (beBytes 64 (0xAAAAAAAAAAAAAAAABBBBBBBBBBBBBBBBCCCCCCCCCCCCCCCCDDDDDDDDDDDDDDDD * 2 ^ 256 +
        0xEEEEEEEEEEEEEEEEFFFFFFFFFFFFFFFFEEEEEEEEEEEEEEEEAAAAAAAAAAAAAAAA))
     (ofBe (slice x.text 0 16), ofBe x.tag)) = (0x17F399F08C67D5EE19D0DC9969C4BB7D, 0x83DE3541E4C2B58177E065A9BF7B62EC) := by decide +kernel

/-! ### Single steps -/

/-- What core 5 has in flight after a command. -/
def flown (c : Instr) (s : State) : List Landing := match exec c s with
  | .next t => (t.core 5).flight
  | _ => []

/-- A scalar word with sd 3, sa 1, sb 2 on registers s1 and s2 with s3 = 3 (R80). -/
def scalarOn (k : Nat) (a b : Word64) : State :=
  withCore 5 { coreAt (wordOfFields [(120, k), (126, 3), (131, 1), (136, 2)]) with sregs := [(1, a), (2, b), (3, 3)] }

/-- R163: −8 with 65, worked out by hand: wrapping sums, shifts by 65 mod 64, signed and unsigned comparisons, the products' two
halves; one beat, or three for a product (R94). -/
theorem test_scalar_integers :
    let a : Word64 := BitVec.ofInt 64 (-8)
    flown (.scalarAdd 5 false) (scalarOn 0x01 a 65) = [⟨1, .sreg 3 57⟩] ∧
    flown (.scalarSub 5 false) (scalarOn 0x02 a 65) = [⟨1, .sreg 3 0xFFFFFFFFFFFFFFB7⟩] ∧
    flown (.scalarAnd 5 false) (scalarOn 0x03 a 65) = [⟨1, .sreg 3 64⟩] ∧
    flown (.scalarOr 5 false) (scalarOn 0x04 a 65) = [⟨1, .sreg 3 0xFFFFFFFFFFFFFFF9⟩] ∧
    flown (.scalarXor 5 false) (scalarOn 0x05 a 65) = [⟨1, .sreg 3 0xFFFFFFFFFFFFFFB9⟩] ∧
    flown (.scalarShl 5 false) (scalarOn 0x06 a 65) = [⟨1, .sreg 3 0xFFFFFFFFFFFFFFF0⟩] ∧
    flown (.scalarShr 5 false) (scalarOn 0x07 a 65) = [⟨1, .sreg 3 0x7FFFFFFFFFFFFFFC⟩] ∧
    flown (.scalarAsr 5 false) (scalarOn 0x08 a 65) = [⟨1, .sreg 3 0xFFFFFFFFFFFFFFFC⟩] ∧
    flown (.scalarCeq 5 false) (scalarOn 0x09 a 65) = [⟨1, .sreg 3 0⟩] ∧
    flown (.cltu 5 false) (scalarOn 0x0A a 65) = [⟨1, .sreg 3 0⟩] ∧
    flown (.clts 5 false) (scalarOn 0x0B a 65) = [⟨1, .sreg 3 1⟩] ∧
    flown (.scalarMin 5 false) (scalarOn 0x0C a 65) = [⟨1, .sreg 3 a⟩] ∧
    flown (.scalarMax 5 false) (scalarOn 0x0D a 65) = [⟨1, .sreg 3 65⟩] ∧
    flown (.scalarSel 5 false) (scalarOn 0x0E a 65) = [⟨1, .sreg 3 a⟩] ∧
    flown (.scalarMov 5 false) (scalarOn 0x0F a 65) = [⟨1, .sreg 3 65⟩] ∧
    flown (.scalarMul 5 false) (scalarOn 0x11 a 65) = [⟨3, .sreg 3 0xFFFFFFFFFFFFFDF8⟩] ∧
    flown (.mulhu 5 false) (scalarOn 0x12 a 65) = [⟨3, .sreg 3 64⟩] ∧
    flown (.mulhs 5 false) (scalarOn 0x13 a 65) = [⟨3, .sreg 3 0xFFFFFFFFFFFFFFFF⟩] := by decide +kernel

/-- R163, R164: 1.5 with 2.25; FMA's third operand is the denormal in s3; F64TO32 of 1.5 and F32TO64 of 1.5. -/
theorem test_scalar_floats :
    let a : Word64 := 0x3FF8000000000000
    let b : Word64 := 0x4002000000000000
    flown (.fadd 5 false) (scalarOn 0x20 a b) = [⟨4, .sreg 3 0x400E000000000000⟩] ∧
    flown (.fsub 5 false) (scalarOn 0x21 a b) = [⟨4, .sreg 3 0xBFE8000000000000⟩] ∧
    flown (.fmul 5 false) (scalarOn 0x22 a b) = [⟨4, .sreg 3 0x400B000000000000⟩] ∧
    flown (.scalarFma 5 false) (scalarOn 0x23 a b) = [⟨4, .sreg 3 0x400B000000000000⟩] ∧
    flown (.fmin 5 false) (scalarOn 0x24 a b) = [⟨4, .sreg 3 a⟩] ∧
    flown (.fmax 5 false) (scalarOn 0x25 a b) = [⟨4, .sreg 3 b⟩] ∧
    flown (.fclt 5 false) (scalarOn 0x26 a b) = [⟨4, .sreg 3 1⟩] ∧
    flown (.f64to32 5 false) (scalarOn 0x27 a b) = [⟨4, .sreg 3 0x3FC00000⟩] ∧
    flown (.f32to64 5 false) (scalarOn 0x28 0x3FC00000 b) = [⟨4, .sreg 3 a⟩] := by decide +kernel

/-- R163: a NaN gives the canonical NaN in FMIN and 0 in FCLT; −0.0 lies below +0.0. -/
theorem test_scalar_nans :
    flown (.fmin 5 false) (scalarOn 0x24 0x7FF0000000000001 0) = [⟨4, .sreg 3 0x7FF8000000000000⟩] ∧
    flown (.fclt 5 false) (scalarOn 0x26 0x7FF0000000000001 0) = [⟨4, .sreg 3 0⟩] ∧
    flown (.fmin 5 false) (scalarOn 0x24 0 0x8000000000000000) = [⟨4, .sreg 3 0x8000000000000000⟩] := by decide +kernel

/-- The state of core 5 after a command. -/
def coreAfter (c : Instr) (s : State) : Core := match exec c s with
  | .next t => t.core 5
  | _ => default

/-- R164: a load from an address that is no multiple of 8 halts with reason 0x21, one above the local space with 0x20, one in the
accumulator buffer with 0x22. -/
def loading (a : Word64) : State :=
  withCore 5 { coreAt (wordOfFields [(120, 0x18), (126, 3), (131, 1)]) with sregs := [(1, a)] }
theorem test_load_halts :
    ([(0x44, 0x21), (0x100000, 0x20), (0x40000, 0x22)] : List (Nat × Nat)).all (fun p =>
      let c := coreAfter (.scalarLd 5 false) (loading (BitVec.ofNat 64 p.1))
      c.run = .idle && c.record = BitVec.ofNat 64 (65536 * p.2)) = true := by decide +kernel

/-- R84: SET_STREAM writes the stream register at once and the pc moves on. -/
theorem test_set_stream :
    (let c := coreAfter (.setStream 5 false) (withCore 5 (coreAt (wordOfFields [(0, 1), (8, 3), (12, 2), (16, 0xABCDE)])))
     (SMap.get 0 c.streams 2, c.pc)) = (0xABCDE, 1) := by decide +kernel

/-! ### States that meet the clauses which stand beside the main ones -/

/-- Core 5 with one packer of job 1 for descriptor 7, whose first chunk is whole (R237, R239). -/
def packing (js : SMap Job) : State :=
  { withCore 5 { Core.reset with packers := [⟨0, 7, 0, 0, 1, 0, 4, List.replicate 128 0, 0, some 1, some 7⟩] } with jobs := js, colls := [(7, coll 0 0)] }

theorem witness_FarLinesAndLaunch_packer :
    (let p : Packer := ⟨0, 7, 0, 0, 1, 0, 4, List.replicate 128 0, 0, some 1, some 7⟩
     ((packing [(1, job)]).core 5).packers.find? (fun p => decide (128 * (p.encoded + 1) ≤ p.vals.length)) = some p ∧ SMap.find? (packing [(1, job)]).jobs 1 = some job ∧
       SMap.find? (packing [(1, job)]).colls p.desc = some (coll 0 0) ∧ SMap.find? (packing []).jobs 1 = none) ∧
    ((withCore 5 Core.reset).core 5).packers.find? (fun p => decide (128 * (p.encoded + 1) ≤ p.vals.length)) = none ∧
    ((withCore 5 Core.reset).core 5).staged.find? (fun y => decide (y.gen = 2) && !y.arrived) = none ∧ (((withCore 5 Core.reset).core 5).fetches ((withCore 5 Core.reset).env 5) 2) = none := by
  decide +kernel

/-- A region of whose groups the first is written, its major counter at the end; at its last epoch, and with the first group half re-keyed. -/
def full : RootRecord := { RootRecord.zero with written := 1 }
theorem witness_LineWrites_spent :
    (area 126 0xFFFFFFFF full).spent 65456 0 = true ∧ ((area 126 0xFFFFFFFF full).root 65456).last = false ∧ ({ full with epoch := 65534 } : RootRecord).last = true ∧
    (area 126 7 full).spent 65456 0 = false ∧ (area 126 7 full).lineLive 65456 0 = true ∧ (area 126 7 full).leaseEnding 65456 = false ∧
    (let r : RootRecord := { full with rekey := true, boundary := 8 }
     (area 126 7 r).spent 65456 0 = false ∧ r.splits 0 = true ∧ r.below 0 = true ∧ r.below 8 = false) ∧
    ((area 126 0xFFFFFFFF full).counters.map Prod.fst).Nodup ∧ SMap.find? (area 126 0xFFFFFFFF full).counters (256 * 65456) = some ⟨0xFFFFFFFF, [(0, 126)]⟩ := by decide +kernel

/-- The memories' failures (R190, R494): a line on its own channel and on another, a patrolled node. -/
theorem witness_MemoryUpkeep_failures :
    (let s := area 5 0 { RootRecord.zero with written := 3 }
     (s.mstate = 1 ∨ s.mstate = 2) ∧ s.lineLive (65536 * 0 + 65456 + 0) (64 * 1) = true ∧ (0 : Nat) / 8 = 65456 / 65536 ∧ (0 : Nat) % 8 = 0 / 8 % 8 ∧ ¬((7 : Nat) / 8 = 65456 / 65536 ∧ 7 % 8 = 0 / 8 % 8)) := by
  decide +kernel

/-- A unit that waits under the curb, a row of GDDR7 that fails (R366, R170). -/
theorem witness_TableRequests_failures :
    (let s := { tableState true (rowRequest 0) with power := { Power.reset with curb := true }, flacon := { Flacon.reset with waits := [64] } }
     s.power.curb = true ∧ s.flacon.waits.has (64 + 0) = true ∧ (s.freeTag 2).isSome = true ∧ SMap.get [] s.gathers 0 = [rowRequest 0]) ∧
    (let s := { tableState false (rowRequest 2) with
                  mobjs := [(0, ⟨3, true, false, false, false, 0, 0, 0x200000, [0], false, 0, false, none⟩)], roots := [(0, { RootRecord.zero with written := 1 })]
                  leases := [(2, { Lease.none with state := 2, keys := some ⟨[], [], [], []⟩ })] }
     s.rowFails 3 0x200000 64 [0x200000] = some (0, 0) ∧ s.atelierOfRegion 0 = some 2 ∧ s.rowFails 3 0x200000 64 [] = none ∧ (s.fetch 3 0x200000 64).bad = []) := by decide +kernel

/-- Commands that free each kind of object (R319). -/
theorem witness_AcceptanceAndStart_frees :
    (∀ p ∈ [((0x07 : Nat), ObjKind.mobj), (0x09, .fence), (0x0B, .image), (0x0D, .coll)],
      ((command .waiting [(0, 8, p.1), (512, 20, 3)]).frees).map Prod.fst = some p.2) := by decide +kernel

/-- A JOB_CREATE's list, and a job of mixed generations (R317, R331, R429). -/
theorem witness_AcceptanceAndStart_lists :
    (let c := command .waiting [(0, 8, 0x0E), (512 + 320, 20, 1)]
     c.opcode = 0x0E ∧ c.pay 320 20 = 1 ∧ bitsIn (slice (leBytes 4 3) (4 * 0) 4) 0 20 = 3) ∧
    (let s : State := { commanded .working [(0, 8, 0x0F), (512, 12, 1)] with jobs := [(1, { job with forerunner := true })] }
     ∃ j, SMap.find? s.jobs 1 = some j ∧ j.command = none ∧ j.forerunner = true) := ⟨by decide +kernel, ⟨_, rfl, by decide +kernel, rfl⟩⟩

/-- A rail port that retrains while another is up, and while none is; a codeword to a port that has heard no hello (R278, R298). -/
theorem witness_LinkBringUp_lost :
    (let s := { linked 15 (portIn .retraining) with ports := [(15, portIn .retraining), (16, portIn .up)] }
     (s.port 15).state = .retraining ∧ (s.port 16).state = .up ∧ s.collectives = [] ∧ ∀ a < 16, (s.atelier a).draining = none) ∧
    (∀ q ∈ [16, 17, 18], ((linked 15 (portIn .retraining)).port q).state = .absent) ∧
    (let x := (linked 0 { portIn .training with stage := 5 }).port 0
     x.state = .training ∧ x.stage = 5 ∧ x.unacked.length < 512 ∧ (∀ f ∈ x.control, bitsIn f 0 4 ≠ 1) ∧ 15 < 16) ∧
    ((linked 0 (portIn .retraining)).power.lref = true ∧ (linked 0 (portIn .retraining)).time.toNat < ((linked 0 (portIn .retraining)).port 0).since.toNat + 5000000) ∧
    (64 < ({ portIn .up with replays := List.replicate 65 5 } : DarvalPort).replays.length) := by decide +kernel

/-- Engines under the curb, a transfer to a peer whose segment waits for its tag, a reply's last answer (R366, R268, R388). -/
def toPeer (reply : Option Nat) (todo out : List Segment) : DmaRun := { dma false todo out with toPeer := some 1, reply := reply }
theorem witness_DmaTransfers_peers :
    (let s := { moving (dma false [segment 0] []) with power := { Power.reset with curb := true }, flacon := { Flacon.reset with waits := [0] } }
     s.power.curb = true ∧ s.freeEngine 0 = some 0 ∧ s.flacon.waits.has 0 = true) ∧
    (let d := toPeer none [] []
     let s := { moving d with tagWaits := [segment 0], installation := some { peered with ateliers := house.ateliers } }
     s.firstWait 2 = some (segment 0, d) ∧ s.route 1 = some 0 ∧ (s.freeTag 2).isSome = true ∧ s.freeEngine d.die = some 0) ∧
    (let d := toPeer (some 64) [] [segment 0]
     let p := packet 8 1 0 [(0, 32, 9), (48, 48, 0x201000), (96, 8, 0)] []
     let s := { moving d with ports := [(0, { portIn .up with packets := [p] })] }
     (s.port 0).packets.find? (fun p => decide (p.ptype = 8)) = some p ∧ s.answered p = some (9, 0) ∧ d.reply.isSome = true ∧ ∀ g ∈ d.out, g.index = 0) := by decide +kernel

/-- A job that holds its cores, one that is being switched out, and the cores that hold its weights; actions that run the routine (R210, R217). -/
theorem witness_TrainingSteps_routines :
    stepJob.holdsCores = true ∧ ({ stepJob with switching := true } : Job).holdsCores = false ∧ Outcome.commit.runsRoutine stepJob stepRun = true ∧
    MayFault (running stepRun) 2 := ⟨by decide +kernel, by decide +kernel, by decide +kernel, by constructor <;> decide +kernel⟩

/-- A packet of a step that is over, one of no collective, a sparse exchange whose block cannot be read (R250, R295). -/
theorem witness_Collectives_dropped :
    stepJob.past 7 = false ∧ ({ stepJob with run := some { stepRun with step := 8 } } : Job).past 7 = true ∧ (reporting 0 0 collRun).collOf 5 1 41 = none ∧
    (reporting 0 0 collRun).atelierOfLnum 5 = some 2 ∧ (reporting 3 0 collRun).sparseGood stepJob (coll 3 0) = false := by decide +kernel

/-- A leave held for its slot's opening (R380), and a query held in a faulted atelier (R385). -/
theorem witness_Serving_leaves :
    (let q : Query := { query with header := record 64 [(32, 2, 3)] }
     q.op = 3 ∧ q.inLimits = true ∧ q.f 192 1 = 0) ∧
    (({ serving serveJob with ateliers := [(2, { AtelierState.idle with faulted := true })] } : State).atelier 2).faulted = true := by decide +kernel

/-- Panels that hold back, that the curb leaves no share and that run free (R366); a snapshot past its slice; stops that end and that
go on, a decant without room; a job that comes back, first in its order with nothing to contend with. -/
theorem witness_Flacon_tokens :
    (let c : Core := { Core.reset with run := .running }
     (({ withCore 5 c with panels := [(0, { Panel.reset with withheld := true })] } : State).panel 0).withheld = true ∧
     (({ withCore 5 c with power := { Power.reset with curb := true }, panels := [(0, { Panel.reset with curb := 0 })] } : State).panel (5 / 864)).curb = 0 ∧
     (let x := (withCore 5 c).panel 0; x.withheld = false ∧ x.slowed = false) ∧ ((withCore 5 c).core 5).run = .running) ∧
    (let j : Job := { stepJob with switching := true, stopSince := some 5 }
     let s := stepState j { ended with run := .stopped }
     s.stillStopping 1 = false ∧ (s.core 5).job = some 1 ∧ SMap.find? s.jobs 1 = some j ∧ s.serving.passes = [] ∧ s.freeModuleTag.isSome = true ∧ s.decantRoom 1 j = true ∧
       ({ s with decants := (List.range 44).map fun k => (16384 * 3 + k, Core.reset) } : State).decantRoom 1 j = false) ∧
    (stepState { stepJob with switching := true } { ended with run := .running }).stillStopping 1 = true ∧ stepJob.stopSince = none ∧
    (let j : Job := { stepJob with resident := false, decanted := true, command := some 9 }
     let s := { stepState j Core.reset with commands := [(9, command .working runBytes)], decants := [(16384 * 1 + 5, ended)] }
     s.firstIn 1 = true ∧ s.contending 1 j = [] ∧ s.snapshotClaims (imageCores (s.imageOf 1)) 1 = false ∧ s.freeModuleTag.isSome = true) := by decide +kernel

/-- Every tag of the module's own held: a decant waits (R194). -/
theorem witness_Scheduling_tags : ({ State.reset with tags := (List.range 2048).map fun k => (k, ⟨none, 0, 0⟩) } : State).freeModuleTag = none := by
  rw [State.freeModuleTag, SMap.freeKey_full _ 2048 0 fun k _ h => SMap.find_listed _ k _ (List.mem_range.mpr (by omega))]; rfl

/-- A lease that the host's report finds active; an order whose writes the host refuses; a queue that takes a record (R301). -/
theorem witness_Leases_reports :
    ((commanded .running [(0, 8, 0x20), (512, 2, 2)]).lease 2).state = 2 ∧ ring.closing = false ∧ SMap.find? (commanded .running []).queues 4 = some ring ∧
    ({ savedJob with serving := true } : Job).serving = true ∧ (hosted here []).atelierOfFn 0 2 = none ∧ ((hosted here []).function 0 0).go = false := by decide +kernel

/-! ### States that meet the clauses on steps, losses, parcels and exchanges -/

/-- A line load that closes level 0 and steps its generator 2; the level repeats, with an increment for that generator (R88, R90). -/
def steppingCore (remaining : Nat) : Core :=
  { coreAt (wordOfFields [(56, 1), (64, 1), (70, 3), (73, 1), (79, 2), (192, 1), (195, 1), (224, 1)]) with
    levels := [(0, ⟨true, 3, remaining, 4, 9, [(2, 128)]⟩)], gens := [(2, ⟨false, 128, 128, [(0, 64)]⟩)] }
theorem witness_LoopControl_steps :
    (∀ k ∈ [1, 2], Issues (withCore 5 (steppingCore k)) 5 false ∧ isClose (wordAt (withCore 5 (steppingCore k)) 5) = true) ∧
    wordOf (.loopClose 5 false) = some (5, false, isClose) ∧
    (let s := withCore 5 (steppingCore 2)
     let x := wordSelect (wordAt s 5) 2
     repeats (found s 5) (wordAt s 5) 6 0 = some 0 ∧ exitTaken (found s 5) (wordAt s 5) = false ∧ wordFormat (wordAt s 5) = 0 ∧ x.mode = 1 ∧ x.step = true ∧
       ((found s 5).gen 2).far = false ∧ ((found s 5).gen 2).cur.toNat < 2 ^ 20) :=
  ⟨issues_of_all (core := fun k => steppingCore k) (names := fun _ => isClose) (by decide +kernel), rfl, by decide +kernel⟩

/-- END on a core with nothing issued and no packer (R87). -/
theorem witness_HaltWords_end : (found (haltState 0 0) 5).packers = [] ∧ (found (haltState 0 0) 5).flight = [] := by decide +kernel

/-- A module with a rail destination; the window with a verify's op set, on a bank that is not in force and on the one that is. -/
theorem witness_StartUpEvents_rails : 16 ∈ (linked 15 (portIn .up)).railDestinations := by decide +kernel
theorem witness_SidebandCommands_ops :
    (∀ op ∈ [1, 2, 3], let s : State := { window 2 false false with sideband := { (window 2 false false).sideband with op := op, pageOffset := 4096 } }
      s.windowOpen = true ∧ s.sideband.running = false ∧ s.sideband.op % 4 = op ∧ s.selected s.sideband.bank = false ∧ pageErased (s.bank s.sideband.bank) 4096 = true) ∧
    (∀ op ∈ [1, 2, 3], let s : State := { window 2 false true with sideband := { (window 2 false true).sideband with op := op } }
      s.sideband.op % 4 = op ∧ s.selected s.sideband.bank = true) := by decide +kernel

/-- Region 0, atelier 2's, its line 0 as given (R402 to R405). -/
def regionOf (minor : BitVec 7) (r : RootRecord) : State :=
  { tableState false (rowRequest 2) with
    mobjs := [(0, ⟨3, true, false, false, false, 0, 0, 0x200000, [0], false, 0, false, none⟩)], roots := [(0, r)]
    leases := [(2, { Lease.none with state := 2, keys := some ⟨[], [], [], []⟩ })], counters := [(0, ⟨0, [(0, minor)]⟩)] }
theorem witness_LineReads_lost :
    inArea 65456 = true ∧ inArea 0 = false ∧
    (let s := regionOf 5 { RootRecord.zero with written := 3 }
     s.lineLive 0 0 = true ∧ s.atelierOfRegion 0 = some 2 ∧ (0 : Nat) < 262144) ∧
    (regionOf 5 { RootRecord.zero with lost := 1 }).lineBad 0 0 = true := by decide +kernel
theorem witness_LineWrites_failing :
    (let s := regionOf 127 { RootRecord.zero with written := 1 }
     s.keyed 0 = true ∧ s.lineLive 0 0 = true ∧ s.lineBad 0 0 = true ∧ s.atelierOfRegion 0 = some 2) ∧
    (let s := regionOf 5 { RootRecord.zero with written := 1 }
     s.lineLive 0 0 = true ∧ s.lineBad 0 0 = false) ∧
    (let s := regionOf 5 { RootRecord.zero with written := 1, lost := 1 }
     (s.root 0).lost.getLsbD 0 = true) ∧
    (area 127 0 { RootRecord.zero with written := 3 }).keyed 65456 = true ∧ (area 127 0 { RootRecord.zero with written := 3 }).atelierOfRegion 65456 = none := by decide +kernel

/-- A channel whose fifteen bursts of the last second have failed (R191). -/
theorem witness_MemoryUpkeep_sixteenth :
    (let s : State := { area 5 0 { RootRecord.zero with written := 3 } with channels := [(0, { Channel.reset with exhausted := List.replicate 15 5 })], time := 50 }
     ((s.channel 0).exhausted.filter fun t => decide ((s.time - t).toNat < 100000000)).length = 15) := by decide +kernel

/-- Writes of CTRL_CMD without go and with a cmd of no command; no queue left for an ATTACH, in its quota or in the module (R306, R314). -/
theorem witness_AttachAndDetach_refused :
    (∀ g ∈ ([⟨1, false, none⟩, ⟨1, true, some 0⟩, ⟨1, true, some 15⟩] : List CtrlGo), g.wellFormed = true ∧ (g.go = false ∨ g.idle.isSome = true)) ∧
    (let s := { hosted AtelierState.idle [] with installation := some { house with ateliers := house.ateliers.map fun (e : AtelierEntry) => { e with qq := 0 } } }
     (s.entry 2).map (·.qq) = some 0 ∧ s.queuesOf 2 = 0) := by decide +kernel

/-- An image that passes R329: one stage, core 5, one word, with its digest (R327). -/
def loadable : Bytes :=
  let b := leBytes 354 (packFields [(0, 32, 0x49505A41), (32, 16, 1), (48, 16, 1), (64, 32, 354), (2048, 32, 320), (2080, 14, 1), (2112, 32, 322), (2155, 12, 1), (2560, 16, 5)])
  slice b 0 32 ++ sm3 (slice b 0 32 ++ List.replicate 32 0 ++ b.drop 64) ++ b.drop 64
/-- What the checks of a command fetched from queue 4, of the kind that takes it, draw (R313). -/
def drawn (s : State) (kind : Nat) (fs : List (Nat × Nat × Nat)) (e : EntryRead) : Nat × Nat × Nat :=
  let q := { ring with kind := kind }
  let c : Cmd := ⟨4, 2, padTo 128 (entry fs), .waiting, [], false, 0, false, false, false, false⟩
  let u := (s.onQueue 4 fun x => { x with fetched := 1 }).hostWrite (s.queueTag q).1 (s.queueTag q).2 q.shadow.toNat (leBytes 8 1)
  let v := u.translated (s.queueTag q).1 (s.queueTag q).2 q.ring.toNat
  (v.acceptStatus q c, (v.readBeside c e).contentStatus c e)
/-- Atelier 2 with queue 4 of a kind, its lease active under a commission that lists no program. -/
def fetchState (kind : Nat) : State := { commanded .running [(0, 8, 0x13)] with queues := [(4, { ring with kind := kind })], leases := [(2, lease5)], commands := [] }


/-- What commands point to, checked at their fetch: an image that fails R329 and one that no commission lists, a contributor table outside every
object and one whose entry fails its check, a job without members, a snapshot without room, each of a command whose own fields pass. -/
theorem witness_AcceptanceAndStart_content :
    drawn (fetchState 0) 0 [(0, 8, 0x0A), (512, 64, 0x9000), (576, 32, 354)] ⟨some [], none, none, ⟨[], []⟩, some []⟩ = (0, 0x0A, 0) ∧
    (fetchState 0).imageGood 2 loadable = true ∧
    drawn (fetchState 0) 0 [(0, 8, 0x0A), (512, 64, 0x9000), (576, 32, 354)] ⟨some [], none, none, ⟨[], []⟩, some loadable⟩ = (0, 0x0C, 0) ∧
    (let d := ofLe (record 64 [(4, 4, 0xD), (32, 32, 128), (64, 14, 1), (80, 48, 0x200000), (192, 32, 40)])
     let e : EntryRead := ⟨some [], none, none, ⟨[], []⟩, none⟩
     drawn (fetchState 0) 0 [(0, 8, 0x0C), (512, 512, d)] e = (0, 0x09, 0) ∧
     drawn { fetchState 0 with mobjs := collCreating.mobjs, reservoir := collCreating.reservoir } 0 [(0, 8, 0x0C), (512, 512, d)] e = (0, 0, 0) ∧
     drawn { fetchState 0 with mobjs := collCreating.mobjs } 0 [(0, 8, 0x0C), (512, 512, d)] e = (0, 0x07, 0) ∧
     drawn { fetchState 0 with images := [(1, ⟨0, image, 0, false, none⟩)] } 0 [(0, 8, 0x0E), (512, 12, 1)] e = (0, 0x0B, 2) ∧
     drawn { fetchState 1 with
              mobjs := [(0, ⟨0, false, false, false, false, 0, 0, 0x200000, [], false, 0, false, none⟩)], images := [(1, ⟨0, image, 0, false, none⟩)]
              jobs := [(1, { job with committed := some 3, layers := [record 64 [(256, 32, 2)]] })] }
       1 [(0, 8, 0x14), (512, 12, 1), (524, 4, 3)] e = (0, 0x09, 0)) := by decide +kernel

/-- A running collective of job 1 of this module and a peer, behind the port of that peer (R298). -/
def beyond (peer port : Nat) (x : DarvalPort) : State :=
  { reporting 0 0 { collRun with launched := some 0 } with
    jobs := [(1, { stepJob with run := some stepRun, members := [0, peer], layers := [] })], ports := [(port, x)], power := { Power.reset with lref := true }
    sessions := [(16, { Session.closed with up := true, resends := 8, stored := [⟨7, ⟨[], []⟩, some 9, none⟩] })] }
theorem witness_LinkLosses :
    (let s := beyond 1 0 (portIn .retraining)
     let j : Job := { stepJob with run := some stepRun, members := [0, 1], layers := [] }
     (s.port 0).state = .retraining ∧ (∀ a < 16, (s.atelier a).draining = none) ∧ { collRun with launched := some 0 } ∈ s.collectives ∧ collRun.complete = false ∧ collRun.aborted = none ∧
       SMap.find? s.jobs collRun.job = some j ∧ (s.atelier 2).faulted = false ∧ (s.lease 2).state ≠ 3 ∧ s.mstate ≠ 3 ∧ (s.atelier 2).resetting = none ∧ s.scatters = [] ∧
       ((s.peerEntry 0).map (·.peer)) = some 1 ∧ 1 ∈ j.members ∧ 1 ≠ s.gidx) ∧
    (let s := beyond 16 15 (portIn .retraining)
     (s.port 15).state = .retraining ∧ (∀ q < 19, 15 ≤ q → q ≠ 15 → (s.port q).state ≠ .up ∧ (s.port q).state ≠ .retraining) ∧ 16 ≠ s.gidx ∧ s.onRail 16 = true) ∧
    (let s := beyond 16 15 (portIn .up)
     s.onRail 16 = true ∧ (s.session 16).up = true ∧ (s.session 16).stored ≠ [] ∧ 8 ≤ (s.session 16).resends ∧ s.scatters = []) := by decide +kernel

/-- A DMA parcel of 64 bytes, sealed by patron 0 as its parcel 1 (R416, R418). -/
def dmaParcel : Bytes :=
  let h := record 32 [(0, 16, 0x5043), (16, 4, 1), (20, 4, 0), (32, 16, 5), (64, 32, 64), (128, 64, 1)]
  let x := gcmSeal (List.replicate 16 7) (parcelNonce 1 5 0 0) h (List.replicate 64 0)
  h ++ x.text ++ x.tag
/-- A segment of such parcels that has arrived, under tag 2048, in a transfer with another yet to come. -/
def parcelSegment (bs : Bytes) : Segment := { segment 0 with len := bs.length, data := bs, tag := some 2048 }
def parcelDma (bs : Bytes) : DmaRun :=
  { dma true [segment 1] [parcelSegment bs] with parcels := true, dst := 0x200000, opened := 0x200000 }
def parcelState (d : DmaRun) : State := { moving d with leases := [(2, serveLease)] }

theorem witness_DmaTransfers_parcels :
    (∀ n ∈ [16, 48], let bs := slice dmaParcel 0 n
      let s := parcelState (parcelDma bs)
      SMap.find? s.tags 2048 = some ⟨some 2, 0, 0⟩ ∧ s.tagLive ⟨some 2, 0, 0⟩ = true ∧ (parcelDma bs).toPeer = none ∧ (parcelSegment bs).bad = [] ∧
        (parcelDma bs).opened < (parcelSegment bs).src + (parcelSegment bs).len ∧ (bs.length < 32 ∨ (parcelHeaderGood bs 0 = true ∧ bs.length < 48 + parcelLength bs))) ∧
    (let g := parcelSegment dmaParcel
     let s := parcelState { parcelDma dmaParcel with todo := [] }
     let u := (s.onDma 9 fun d => { d with out := d.out.erase g }).keepSegment { parcelDma dmaParcel with todo := [] } g
     (SMap.find? u.dmas 9).any (fun e => decide (g ∈ e.kept ∧ e.status = 0 ∧ (∀ h ∈ e.kept, h.src + h.len ≤ e.opened) ∧ e.todo = [] ∧ e.out = [])) = true ∧
       u.tagWaits = [] ∧ (u.dmas.map Prod.fst).Nodup) ∧
    (let d := { parcelDma [] with out := [], buffer := dmaParcel }
     let s := parcelState d
     32 ≤ d.buffer.length ∧ 48 + parcelLength d.buffer ≤ d.buffer.length ∧ s.openParcel 2 0 (slice d.buffer 0 112) = some (List.replicate 64 0) ∧ d.dst + 64 ≤ d.bound ∧
       s.openParcel 2 0 (slice d.buffer 0 111) = none) := by
  decide +kernel

/-- Job 1 with its reduced-gradient array in the reservoir object; a result, and a sum of two modules' chunks of a forerunner sum, at die 0 (R243,
R247, R280). -/
def landing (op : Nat) (x : Reduction) : State :=
  { reducing [0, 1] x with
    colls := [(7, coll op 0)], jobs := [(1, { stepJob with run := some stepRun, members := [0, 1], layers := [], block := leBytes 128 (packFields [(96, 48, 0x208000), (240, 48, 0x200000)]) })] }
theorem witness_Reductions_lands :
    (let h := handed .result 0 0
     let s := landing 0 ⟨[h], [], []⟩
     let j : Job := { stepJob with run := some stepRun, members := [0, 1], layers := [], block := leBytes 128 (packFields [(96, 48, 0x208000), (240, 48, 0x200000)]) }
     let place := j.reducedAt h.chunk
     let bs := resultBytes (coll 0 0) (j.within (coll 0 0) h.chunk) h.bytes
     let y := s.store j.ctx place bs
     (s.reduction 0).arrivals.find? (fun h => !s.early h) = some h ∧ SMap.find? s.jobs 1 = some j ∧ (s.atelier 2).faulted = false ∧ s.retiredIn j.ctx place bs.length = none ∧ y.gddrBad = [] ∧
       y.state.retiredIn j.ctx place bs.length = none ∧ h.attempt = 0 ∧ place = 0x208000 ∧
       s.ownerOf j (j.pathNumber (coll 0 0) h.chunk) = s.gidx ∧ s.paletteOwner j (s.ownPalette j) (j.pathNumber (coll 0 0) h.chunk) = s.gidx ∧ s.memberAt j 1 ≠ s.gidx) ∧
    (coll 5 0).op = 5 ∧
    (let own := handed .contribution 2048 0
     let theirs := handed .contribution 2049 0
     let s := landing 5 ⟨[own], [⟨theirs, false⟩], []⟩
     (s.reduction 0).arrivals.find? (fun h => !s.early h) = some own ∧
       ((s.reduction 0).inputs.find? fun i => i.input.mate own && decide (2048 ≤ i.input.rank) && decide (i.input.rank ≠ own.rank)) = some ⟨theirs, false⟩ ∧
       (([] : List Held).find? fun i => i.input.mate own && decide (2048 ≤ i.input.rank) && decide (i.input.rank ≠ own.rank)) = none) ∧
    (let i : Held := ⟨handed .partialSum 0 0, false⟩
     let s := landing 0 ⟨[], [i], []⟩
     (s.reduction 0).inputs.find? (fun i => decide (i.input.rank < 2048) && decide (((s.reduction 0).group i).length = s.inputsDue i)) = some i ∧ i.input.hop ≠ .contribution) := by decide +kernel

/-- A collective of an operation whose result lies at 0x204000 and whose extra block lies at 0x20C000, there a sparse exchange's of one pair (R168, R287,
R295), in the run given. -/
def exchangeDesc (op : Nat) : Coll :=
  ⟨0, record 64 [(0, 4, op), (4, 4, if op ≤ 2 then 0xD else 0), (32, 32, 128), (64, 14, 1), (128, 48, 0x204000), (192, 32, 40), (256, 48, 0x20C000)], [⟨5, 0, 1, 0⟩], 0, false, none⟩
def exchanging (op : Nat) (x : CollRun) : State :=
  { reporting 0 0 x with
    colls := [(7, exchangeDesc op)]
    reservoir := Memory.writeBytes [] 0xC000 (leBytes 64 (packFields [(0, 48, 0x200000), (64, 48, 0x204000), (128, 32, 4), (176, 2, 2), (192, 48, 0x208000), (480, 32, 1)])) }
def exchangeJob : Job := { stepJob with run := some stepRun, members := [0, 1], layers := [], desc := leBytes 64 (packFields [(128, 14, 7), (142, 15, 1)]) }

theorem witness_Collectives_launches :
    ∀ op ∈ [1, 3, 4],
      let x := { CollRun.fresh 1 7 7 (exchangeDesc op) with reported := [5] }
      let s := exchanging op x
      (exchangeDesc op).op = op ∧ SMap.find? s.jobs 1 = some exchangeJob ∧ s.unlaunched 1 7 = some x ∧ (∀ e ∈ (exchangeDesc op).contributors, x.reported.has e.core = true) ∧ x.held = [] ∧
        (s.atelier 2).faulted = false ∧ (op = 3 → s.sparseGood exchangeJob (exchangeDesc op) = true ∧ pairCount (s.sparseBlock exchangeJob (exchangeDesc op)) = 1) ∧
        1 ∈ s.palettePeers exchangeJob ∧ s.route 1 = some 0 ∧ s.carries 0 1 = true ∧ (s.fetch 0 ((exchangeDesc op).gatherAt 0) 128).bytes.length = 128 := by decide +kernel

/-- Pairs and gathered bytes of module 1 after the launch, a chunk of another fingerprint, and the last records and counts of a seal (R219, R291, R294, R295). -/
theorem witness_Collectives_arrivals :
    (∀ p ∈ [(2, 3), (3, 4)],
      let x := { CollRun.fresh 1 7 7 (exchangeDesc p.2) with launched := some 0 }
      let k := packet p.1 1 5 [(0, 32, 40), (64, 64, x.fprint), (128, 64, 7), (192, 32, 1), (224, 8, 1)] (List.replicate 128 1)
      let s := { exchanging p.2 x with ports := [(0, { portIn .up with packets := [k] })] }
      let y := (s.takePacket 0 k).store 0 ((exchangeDesc p.2).gatherAt 1) (slice k.payload 0 128)
      (s.port 0).packets.find? (fun q => decide (q.ptype = p.1)) = some k ∧ k.info 0 32 < 0xFFFFFFF0 ∧ s.collOf k.lease k.src (k.info 0 32) = some (1, exchangeJob, 7, exchangeDesc p.2) ∧
        s.overFor exchangeJob 7 = false ∧ s.collRun 1 7 7 = some x ∧ bitsIn (slice k.header 16 32) 64 64 = x.fprint ∧
        (s.takePacket 0 k).retiredIn 0 ((exchangeDesc p.2).gatherAt 1) 128 = none ∧ y.gddrBad = [] ∧ y.state.retiredIn 0 ((exchangeDesc p.2).gatherAt 1) 128 = none ∧
        ¬(∀ q ∈ upFrom (s.ownPalette exchangeJob * s.mPos exchangeJob) (s.mPos exchangeJob), (NatSet.addAll x.placed (upFrom 1 1)).has q = true)) ∧
    (let x := { collRun with launched := some 0 }
     let s := reporting 0 0 x
     (chunkPacket (x.fprint + 1)).info 64 64 ≠ x.fprint ∧ x.complete = false ∧ 1 ≠ s.gidx ∧ s.route 1 = some 0 ∧ s.carries 0 1 = true) ∧
    (∀ q ∈ [0xFFFFFFF0, 0xFFFFFFF1],
      let r : StepRun := { stepRun with records := [(0, List.replicate 192 0)] }
      let j : Job := { exchangeJob with run := some r, members := [0, 1, 16, 17] }
      let k := packet 3 1 5 [(0, 32, q), (128, 64, 7), (192, 32, 1), (224, 8, 1)] (List.replicate 192 0)
      let s := { exchanging 4 collRun with jobs := [(1, j)], collectives := [], ports := [(0, { portIn .up with packets := [k] })] }
      (s.port 0).packets.find? (fun p => decide (p.ptype = 3)) = some k ∧ 0xFFFFFFF0 ≤ k.info 0 32 ∧
        ((s.atelierOfLnum k.lease).bind fun a => List.find? (fun (y : Nat × Job) => decide (y.2.atelier = a) && !y.2.serving && y.2.members.contains k.src) s.jobs) = some (1, j) ∧
        r.step = bitsIn (slice k.header 16 32) 128 64 ∧ recordAttempt (slice k.payload 0 192) ≤ r.attempt ∧ r.bundled = false ∧ 16 ∈ s.railPeers j ∧ s.route 16 = some 16 ∧ s.carries 16 1 = true ∧
        (upFrom (s.ownPalette j * s.mPos j) (s.mPos j)).all (fun n => (SMap.find? (SMap.put r.records 1 (List.replicate 192 0)) n).isSome) = true) := by decide +kernel

/-- A serving job with a pass, in front of a JOB_STOP (R375); a job whose started JOB_RUN, non-preemptible, has not been carried out yet (R347). -/
theorem witness_Serving_stop :
    (let s : State := { commanded .running [(0, 8, 0x10), (512, 12, 1)] with jobs := [(1, serveJob)], serving := { State.reset.serving with passes := [pass] } }
     SMap.find? s.jobs (command .running [(0, 8, 0x10), (512, 12, 1)]).jobSlot = some serveJob ∧ serveJob.stopping = none ∧ pass.job = 1 ∧ s.serving.held = []) ∧
    (let c := command .working ((8, 1, 1) :: runBytes)
     let s := { contending 0 stepJob with commands := [(8, c), (9, command .running [(0, 8, 0x0F), (512, 12, 2)])] }
     s.startedRun 1 = some (8, c) ∧ c.np = true ∧ stepJob.command = none ∧ (s.reach 5).contended 1 = true) := by decide +kernel

end Sys2Proof.Tests
end

section
/-!
PROOF. That every well-formed command completes with the queue as it was (O2): what makes an answer a next state, said once for
each shared shape of a row; the rows that look up more than once; the dispatch over the opcode table.
-/
namespace Sys2Proof.Machine

open Sys2Proof.Claims

/-! ### Answers that are a next state -/

/-- The command is carried out: its answer is a next state. -/
def Completes (a : Answer) : Prop := ∃ t, a = .next t

theorem completes_next {t : State} : Completes (.next t) := ⟨t, rfl⟩

theorem completes_whenDue {due : Bool} {s t : State} : Completes (whenDue due s t) := completes_next

theorem completes_onUnit {kind : String} {n limit : Nat} {a : Answer} (hn : n < limit) (ha : Completes a) :
    Completes (onUnit kind n limit a) := by
  rw [onUnit, if_pos hn]
  exact ha

theorem completes_wordRow {n : Nat} {upset : Bool} {s : State} {names : Word256 → Bool} (hn : n < 10368) :
    Completes (wordRow n upset s names) :=
  completes_onUnit hn completes_whenDue

theorem completes_packetRow {port ptype : Nat} {s : State} {sub : Packet → Bool} {f : State → Packet → State} (hp : port < 20) :
    Completes (packetRow port ptype s sub f) := by
  refine completes_onUnit hp ?_
  split <;> exact completes_next

theorem completes_onCommand {s : State} {n opcode : Nat} {f : Cmd → State} : Completes (onCommand s n opcode f) := by
  unfold onCommand
  split
  · exact completes_whenDue
  · exact completes_next

theorem completes_onLease {s : State} {n act : Nat} {f : Cmd → State} : Completes (onLease s n act f) := completes_onCommand

theorem completes_onDispatched {s : State} {n opcode : Nat} {ok : Cmd → Bool} {f : Cmd → State} :
    Completes (onDispatched s n opcode ok f) := by
  unfold onDispatched
  split
  · exact completes_whenDue
  · exact completes_next

theorem completes_onFlash {s : State} {op : Nat} {f : FlashTask → State} : Completes (onFlash s op f) := by
  unfold onFlash
  split
  · exact completes_whenDue
  · exact completes_next

/-! ### Rows that look up more than once

Whatever such a row finds, it answers the state it gives or the state as it was. -/

theorem execMessageArrival_completes {index : Nat} {s : State} : Completes (execMessageArrival index s) := by
  unfold execMessageArrival
  split
  · exact completes_next
  · dsimp only
    split
    · exact completes_next
    · split
      · split
        · exact completes_next
        · split <;> exact completes_next
      · split <;> exact completes_next

theorem execTransferTagGrant_completes {atelier : Nat} {host : Option Bytes} {s : State} :
    Completes (execTransferTagGrant atelier host s) := by
  unfold execTransferTagGrant
  split
  · split <;> exact completes_next
  · exact completes_next

theorem execSealActions_completes {job : RoutineRun} {s : State} : Completes (execSealActions job s) := by
  unfold execSealActions
  split
  · exact completes_next
  · split
    · split <;> exact completes_next
    · exact completes_next

theorem execCoreLaunch_completes {core job : Nat} {s : State} (h : core < 10368) : Completes (execCoreLaunch core job s) := by
  refine completes_onUnit h ?_
  split
  · dsimp only
    split
    · split <;> exact completes_next
    · split <;> exact completes_next
  · exact completes_next

theorem execChunkPacker_completes {core : Nat} {s : State} (h : core < 10368) : Completes (execChunkPacker core s) := by
  refine completes_onUnit h ?_
  dsimp only
  split
  · exact completes_next
  · split <;> exact completes_next

theorem execTagDrainBound_completes {atelier : Nat} {s : State} (h : atelier < 16) : Completes (execTagDrainBound atelier s) := by
  unfold execTagDrainBound
  split <;> exact completes_onUnit h completes_next

/-! ### The opcode table -/

/-- The words are the rows that share `wordRow` (R76 to R87, R155, R163). -/
theorem exec_of_wordOf {c : Instr} {n : Nat} {upset : Bool} {names : Word256 → Bool} (hw : wordOf c = some (n, upset, names)) (s : State) :
    exec c s = wordRow n upset s names := by
  unfold wordOf at hw
  split at hw <;> cases hw <;> rfl

/-- A well-formed word names one of the module's cores (R16). -/
theorem core_of_wordOf {c : Instr} {n : Nat} {upset : Bool} {names : Word256 → Bool} (hw : wordOf c = some (n, upset, names))
    (hc : c.wellFormed = true) : n < 10368 := by
  unfold wordOf at hw
  split at hw <;> cases hw <;> exact of_decide_eq_true hc

/-- Every command leads onward: `wordRow_onward` for the words, for each other row its own lemma. -/
theorem exec_onward (c : Instr) (s : State) : Ends s (exec c s) := by
  rcases hw : wordOf c with _ | ⟨n, upset, names⟩
  · cases c <;> simp only [wordOf, reduceCtorEq] at hw
    case heldWeightRowWrite => exact execHeldWeightRowWrite_onward
    case tokenLanding => exact execTokenLanding_onward
    case operationLanding => exact execOperationLanding_onward
    case messageArrival => exact execMessageArrival_onward
    case sendCompletion => exact execSendCompletion_onward
    case runAheadFetch => exact execRunAheadFetch_onward
    case stagedLineArrival => exact execStagedLineArrival_onward
    case chunkPacker => exact execChunkPacker_onward
    case gatherToWindow => exact execGatherToWindow_onward
    case gatherToFarMemory => exact execGatherToFarMemory_onward
    case scatterAdd => exact execScatterAdd_onward
    case coreLaunch => exact execCoreLaunch_onward
    case reservoirPatrolScrub => exact execReservoirPatrolScrub_onward
    case sramCorrectedErrorRate => exact execSramCorrectedErrorRate_onward
    case gddr7Refresh => exact execGddr7Refresh_onward
    case gddr7TemperatureReadout => exact execGddr7TemperatureReadout_onward
    case gddr7EccCountRead => exact execGddr7EccCountRead_onward
    case gddr7RetriesExhausted => exact execGddr7RetriesExhausted_onward
    case protectedLineRead => exact execProtectedLineRead_onward
    case protectedLineWrite => exact execProtectedLineWrite_onward
    case partialLineWrite => exact execPartialLineWrite_onward
    case regionRekey => exact execRegionRekey_onward
    case moduleAreaPatrol => exact execModuleAreaPatrol_onward
    case dmaSegmentIssue => exact execDmaSegmentIssue_onward
    case transferTagGrant => exact execTransferTagGrant_onward
    case dmaSegmentComplete => exact execDmaSegmentComplete_onward
    case stepLaunch => exact execStepLaunch_onward
    case layerCountGather => exact execLayerCountGather_onward
    case updateRoutineLaunch => exact execUpdateRoutineLaunch_onward
    case sealRecordBuild => exact execSealRecordBuild_onward
    case sealDecision => exact execSealDecision_onward
    case sealActions => exact execSealActions_onward
    case sealTimeout => exact execSealTimeout_onward
    case chunkReceive => exact execChunkReceive_onward
    case adder => exact execAdder_onward
    case portBringUp => exact execPortBringUp_onward
    case peerDetectTimeout => exact execPeerDetectTimeout_onward
    case equalisationAttempt => exact execEqualisationAttempt_onward
    case bringUpRetry => exact execBringUpRetry_onward
    case helloFlit => exact execHelloFlit_onward
    case retrain => exact execRetrain_onward
    case retrainRequest => exact execRetrainRequest_onward
    case portLost => exact execPortLost_onward
    case codewordReceive => exact execCodewordReceive_onward
    case ackAndCredit => exact execAckAndCredit_onward
    case packetSend => exact execPacketSend_onward
    case bulkWrite => exact execBulkWrite_onward
    case chunksPacket => exact execChunksPacket_onward
    case sparsePairs => exact execSparsePairs_onward
    case gatherPacket => exact execGatherPacket_onward
    case abortPacket => exact execAbortPacket_onward
    case endToEndAck => exact execEndToEndAck_onward
    case sessionKind1 => exact execSessionKind1_onward
    case sessionKind2 => exact execSessionKind2_onward
    case sessionKind3 => exact execSessionKind3_onward
    case sessionRetry => exact execSessionRetry_onward
    case sessionRekey => exact execSessionRekey_onward
    case realTimeParcel => exact execRealTimeParcel_onward
    case bulkResponse => exact execBulkResponse_onward
    case galleryRetransmission => exact execGalleryRetransmission_onward
    case endToEndAckTimer => exact execEndToEndAckTimer_onward
    case railDestinationLost => exact execRailDestinationLost_onward
    case collectiveLaunch => exact execCollectiveLaunch_onward
    case collectiveTimeout => exact execCollectiveTimeout_onward
    case collectiveCompletion => exact execCollectiveCompletion_onward
    case attach => exact execAttach_onward
    case detach => exact execDetach_onward
    case sillage => exact execSillage_onward
    case atelierReset => exact execAtelierReset_onward
    case sqTail => exact execSqTail_onward
    case cqHead => exact execCqHead_onward
    case perstAssert => exact execPerstAssert_onward
    case hotReset => exact execHotReset_onward
    case pcieLinkLoss => exact execPcieLinkLoss_onward
    case functionLevelReset => exact execFunctionLevelReset_onward
    case detachmentQueueDestroy => exact execDetachmentQueueDestroy_onward
    case atsInvalidation => exact execAtsInvalidation_onward
    case commandFetch => exact execCommandFetch_onward
    case commandStart => exact execCommandStart_onward
    case ctxCreate => exact execCtxCreate_onward
    case ctxBind => exact execCtxBind_onward
    case ctxDestroy => exact execCtxDestroy_onward
    case queueCreate => exact execQueueCreate_onward
    case queueDestroy => exact execQueueDestroy_onward
    case mobjCreate => exact execMobjCreate_onward
    case mobjFree => exact execMobjFree_onward
    case fenceCreate => exact execFenceCreate_onward
    case fenceDestroy => exact execFenceDestroy_onward
    case imageLoad => exact execImageLoad_onward
    case imageFree => exact execImageFree_onward
    case collCreate => exact execCollCreate_onward
    case collFree => exact execCollFree_onward
    case jobCreate => exact execJobCreate_onward
    case jobRun => exact execJobRun_onward
    case jobStop => exact execJobStop_onward
    case dmaCommand => exact execDmaCommand_onward
    case signal => exact execSignal_onward
    case queueNop => exact execQueueNop_onward
    case snapshot => exact execSnapshot_onward
    case fenceSignal => exact execFenceSignal_onward
    case objectRelease => exact execObjectRelease_onward
    case recoveryWrite => exact execRecoveryWrite_onward
    case windowBoundary => exact execWindowBoundary_onward
    case energyMetering => exact execEnergyMetering_onward
    case coreCommandDispatch => exact execCoreCommandDispatch_onward
    case reservation => exact execReservation_onward
    case sliceEnd => exact execSliceEnd_onward
    case stopAtTileBoundary => exact execStopAtTileBoundary_onward
    case decant => exact execDecant_onward
    case coldStartEnd => exact execColdStartEnd_onward
    case classFallback => exact execClassFallback_onward
    case clampRelease => exact execClampRelease_onward
    case pwrCurbNAssert => exact execPwrCurbNAssert_onward
    case pwrCurbNRelease => exact execPwrCurbNRelease_onward
    case periodBoundary => exact execPeriodBoundary_onward
    case occurrenceOpening => exact execOccurrenceOpening_onward
    case queryArrival => exact execQueryArrival_onward
    case passEnd => exact execPassEnd_onward
    case slotDeadline => exact execSlotDeadline_onward
    case leasePropose => exact execLeasePropose_onward
    case leaseShare => exact execLeaseShare_onward
    case leaseReport => exact execLeaseReport_onward
    case leaseEnd => exact execLeaseEnd_onward
    case tagDrainBound => exact execTagDrainBound_onward
    case exhibitCommand => exact execExhibitCommand_onward
    case checkpointSave => exact execCheckpointSave_onward
    case checkpointRestore => exact execCheckpointRestore_onward
    case environmentalTamperEvent => exact execEnvironmentalTamperEvent_onward
    case meshBreak => exact execMeshBreak_onward
    case debugChallenge => exact execDebugChallenge_onward
    case debugToken => exact execDebugToken_onward
    case powerUp => exact execPowerUp_onward
    case moduleBoot => exact execModuleBoot_onward
    case gddr7TrainingComplete => exact execGddr7TrainingComplete_onward
    case moduleReady => exact execModuleReady_onward
    case resetNAssertion => exact execResetNAssertion_onward
    case powerLossShutdown => exact execPowerLossShutdown_onward
    case thermalTrip => exact execThermalTrip_onward
    case tripLatchRelease => exact execTripLatchRelease_onward
    case lrefLock => exact execLrefLock_onward
    case lrefLoss => exact execLrefLoss_onward
    case firmwareWatchdog => exact execFirmwareWatchdog_onward
    case eraseBank => exact execEraseBank_onward
    case programPage => exact execProgramPage_onward
    case verifyBank => exact execVerifyBank_onward
    case i3cPrivateWrite => exact execI3cPrivateWrite_onward
    case enec => exact execEnec_onward
    case disec => exact execDisec_onward
    case rstdaa => exact execRstdaa_onward
    case entdaa => exact execEntdaa_onward
    case setdasa => exact execSetdasa_onward
    case setnewda => exact execSetnewda_onward
    case getmwl => exact execGetmwl_onward
    case getmrl => exact execGetmrl_onward
    case getpid => exact execGetpid_onward
    case getbcr => exact execGetbcr_onward
    case getdcr => exact execGetdcr_onward
    case getstatus => exact execGetstatus_onward
    case getmxds => exact execGetmxds_onward
    case perstRelease => exact execPerstRelease_onward
    case pcieLinkUp => exact execPcieLinkUp_onward
    case portUpAgain => exact execPortUpAgain_onward
    case coreStateAccess => exact execCoreStateAccess_onward
  · rw [exec_of_wordOf hw]
    exact wordRow_onward

/-- A row that is no word's is carried out where the command is well formed: the units it names are all it checks before it
answers. The rows stand in groups of one shape. -/
theorem exec_completes_of_wordOf_none {c : Instr} (hw : wordOf c = none) (s : State) (hc : c.wellFormed = true) :
    Completes (exec c s) := by
  cases c <;> simp only [wordOf, reduceCtorEq] at hw <;>
    simp only [Instr.wellFormed, CtrlGo.wellFormed, Bool.and_eq_true, decide_eq_true_eq] at hc
  -- Events of the whole module.
  case windowBoundary | coreCommandDispatch | decant | coldStartEnd | pwrCurbNAssert | pwrCurbNRelease | environmentalTamperEvent |
    meshBreak | debugChallenge | debugToken | powerUp | moduleBoot | gddr7TrainingComplete | moduleReady | resetNAssertion |
    powerLossShutdown | thermalTrip | tripLatchRelease | lrefLock | lrefLoss | i3cPrivateWrite | enec | disec | rstdaa | entdaa |
    setdasa | setnewda | getmwl | getmrl | getpid | getbcr | getdcr | getstatus | getmxds =>
    exact completes_whenDue
  -- Events on one unit, on two (a unit of a unit), on three.
  case tokenLanding | operationLanding | stopAtTileBoundary =>
    exact completes_onUnit hc completes_next
  case reservoirPatrolScrub | sramCorrectedErrorRate | gddr7Refresh | gddr7TemperatureReadout | gddr7EccCountRead | regionRekey |
    moduleAreaPatrol | portBringUp | peerDetectTimeout | equalisationAttempt | bringUpRetry | retrain | portLost | codewordReceive |
    sessionRetry | sessionRekey | galleryRetransmission | endToEndAckTimer | railDestinationLost | perstAssert | hotReset | pcieLinkLoss
    | detachmentQueueDestroy | atsInvalidation | recoveryWrite | energyMetering | periodBoundary | occurrenceOpening | firmwareWatchdog
    | perstRelease | pcieLinkUp | portUpAgain | coreStateAccess =>
    exact completes_onUnit (by omega) completes_whenDue
  case protectedLineRead | protectedLineWrite | partialLineWrite | attach | detach | sillage | atelierReset | sqTail | cqHead |
    functionLevelReset =>
    exact completes_onUnit (by omega) (completes_onUnit (by omega) completes_whenDue)
  case gddr7RetriesExhausted =>
    exact completes_onUnit (by omega) (completes_onUnit (by omega) (completes_onUnit (by omega) completes_whenDue))
  -- Started commands, flash operations and packets received.
  case ctxCreate | ctxBind | ctxDestroy | queueCreate | queueDestroy | mobjCreate | mobjFree | fenceCreate | fenceDestroy | imageLoad |
    imageFree | collCreate | collFree | jobCreate | jobStop | dmaCommand | signal | queueNop | leaseEnd | exhibitCommand |
    checkpointSave | checkpointRestore =>
    exact completes_onCommand
  case leasePropose | leaseShare | leaseReport =>
    exact completes_onLease
  case jobRun | snapshot =>
    exact completes_onDispatched
  case eraseBank | programPage | verifyBank =>
    exact completes_onFlash
  case bulkWrite | chunksPacket | sparsePairs | gatherPacket | abortPacket | endToEndAck | sessionKind1 | sessionKind2 | sessionKind3 |
    realTimeParcel | bulkResponse =>
    simp only [exec, execBulkWrite, execChunksPacket, execSparsePairs, execGatherPacket, execAbortPacket, execEndToEndAck,
      execSessionKind1, execSessionKind2, execSessionKind3, execRealTimeParcel, execBulkResponse, completes_packetRow hc]
  -- Rows that look something up, once or twice.
  case sendCompletion | dmaSegmentComplete | stepLaunch | layerCountGather | collectiveLaunch | collectiveTimeout | collectiveCompletion
    | fenceSignal | objectRelease | reservation | sliceEnd | queryArrival | passEnd | slotDeadline =>
    dsimp only [exec, execSendCompletion, execDmaSegmentComplete, execStepLaunch, execLayerCountGather, execCollectiveLaunch,
      execCollectiveTimeout, execCollectiveCompletion, execFenceSignal, execObjectRelease, execReservation, execSliceEnd,
      execQueryArrival, execPassEnd, execSlotDeadline]
    split <;> exact completes_next
  case updateRoutineLaunch | sealRecordBuild | sealDecision | sealTimeout =>
    dsimp only [exec, execUpdateRoutineLaunch, execSealRecordBuild, execSealDecision, execSealTimeout]
    split
    · exact completes_next
    · split <;> exact completes_next
  case heldWeightRowWrite | gatherToWindow | gatherToFarMemory | scatterAdd | dmaSegmentIssue | chunkReceive | adder | helloFlit |
    retrainRequest | ackAndCredit | packetSend | commandFetch | commandStart | classFallback =>
    refine completes_onUnit hc ?_
    split <;> exact completes_next
  case runAheadFetch | stagedLineArrival | clampRelease =>
    refine completes_onUnit hc.1 (completes_onUnit hc.2 ?_)
    split <;> exact completes_next
  case messageArrival => exact execMessageArrival_completes
  case transferTagGrant => exact execTransferTagGrant_completes
  case sealActions => exact execSealActions_completes
  case coreLaunch => exact execCoreLaunch_completes hc.1
  case chunkPacker => exact execChunkPacker_completes hc
  case tagDrainBound => exact execTagDrainBound_completes hc

/-- Every well-formed command is carried out. -/
theorem exec_completes (c : Instr) (s : State) (hc : c.wellFormed = true) : Completes (exec c s) := by
  rcases hw : wordOf c with _ | ⟨n, upset, names⟩
  · exact exec_completes_of_wordOf_none hw s hc
  · rw [exec_of_wordOf hw]
    exact completes_wordRow (core_of_wordOf hw hc)

/-- Settles O2: a well-formed command completes (`exec_completes`), and what it gives is onward of the state it found, the queue
included (`exec_onward`). -/
theorem wellFormedCommandsComplete : Obligations.WellFormedCommandsComplete := by
  intro c s hc
  obtain ⟨t, ht⟩ := exec_completes c s hc
  exact ⟨t, ht, (exec_onward c s t ht).queue⟩

end Sys2Proof.Machine
end

section
/-!
PROOF. What the conversions can give (O10): two's complement of the integer formats, roundings that stay within the range of an integer
or ternary target, and the block with a NaN or an infinity.
-/
namespace Sys2Proof

/-! ### Two's complement -/

theorem signedOf_eq_toInt {w : Nat} (hw : 0 < w) (c : Nat) : signedOf w c = (BitVec.ofNat w c).toInt := by
  obtain ⟨k, rfl⟩ : ∃ k, w = k + 1 := ⟨w - 1, by omega⟩
  rw [signedOf, BitVec.toInt_eq_toNat_cond, BitVec.toNat_ofNat, Nat.add_sub_cancel, pow_succ]
  split <;> split <;> omega

theorem ofNat_unsignedOf (w : Nat) (x : Int) : BitVec.ofNat w (unsignedOf w x) = BitVec.ofInt w x := by
  apply BitVec.eq_of_toInt_eq
  rw [unsignedOf, BitVec.toInt_ofInt, BitVec.toInt_ofNat', Int.toNat_of_nonneg (Int.emod_nonneg _ (by positivity)),
    Int.emod_bmod]

/-- A number within the symmetric range comes back from its code. -/
theorem toInt_unsignedOf {w : Nat} {x : Int} (hl : -(2 ^ w : Nat) < 2 * x) (hu : 2 * x < (2 ^ w : Nat)) :
    (BitVec.ofNat w (unsignedOf w x)).toInt = x := by
  rw [ofNat_unsignedOf, BitVec.toInt_ofInt]
  exact Int.bmod_eq_of_le_mul_two (by omega) (by omega)

theorem unsignedOf_lt (w : Nat) (x : Int) : unsignedOf w x < 2 ^ w := by
  have := Int.emod_lt_of_pos x (b := ((2 ^ w : Nat) : Int)) (by positivity)
  have := Int.emod_nonneg x (b := ((2 ^ w : Nat) : Int)) (by positivity)
  unfold unsignedOf
  omega

/-! ### Roundings that never leave the range of their target -/

theorem randomValue_lt (key c : Nat) : randomValue key c < 2 ^ 64 := by
  have hlt (a : Nat) : a % 2 ^ 64 < 2 ^ 64 := Nat.mod_lt _ (by positivity)
  exact Nat.xor_lt_two_pow (hlt _) ((Nat.div_le_self _ _).trans_lt (hlt _))

/-- A rounding that leaves a whole number alone, as stochastic rounding does where its draw has no more than 24 bits (R57). -/
def Rnd.Exact (mode : Rnd) : Prop := ∀ fl den, 0 < den → roundNat mode fl 0 den = fl

theorem rndOf_exact (mode : Nat) (d : Draw) (i : Nat) : (rndOf mode d i).Exact := by
  have hbits : d.at i / 2 ^ 40 < 2 ^ 24 := Nat.div_lt_of_lt_mul (randomValue_lt d.key (streamCount d.stream d.base i))
  intro fl den hden
  unfold rndOf
  split
  · simp [roundNat, hden]
  · rfl
  · rw [roundNat, Nat.zero_mul, Nat.zero_div, if_neg (by omega)]

theorem roundNat_le_succ (mode : Rnd) (fl rem den : Nat) : roundNat mode fl rem den ≤ fl + 1 := by
  cases mode <;> unfold roundNat <;> (repeat' split) <;> omega

/-- A fraction up to `m` rounds to at most `m`: below `m` its floor leaves room for one, and `m` itself is whole. -/
theorem roundNat_le {mode : Rnd} (hm : mode.Exact) {a b m : Nat} (hb : 0 < b) (h : a ≤ m * b) :
    roundNat mode (a / b) (a % b) b ≤ m := by
  rcases Nat.lt_or_eq_of_le h with hlt | rfl
  · have := Nat.div_lt_of_lt_mul (by rwa [mul_comm] at hlt)
    exact (roundNat_le_succ ..).trans this
  · rw [Nat.mul_mod_left, Nat.mul_div_cancel _ hb, hm m b hb]

theorem Mag.over_le_of_le {x : Mag} {m : Nat} (h : x.le ⟨m, 1, 0⟩ = true) : (x.over 0).1 ≤ m * (x.over 0).2 := by
  rcases le_or_gt 0 x.e with he | he
  · simpa [Mag.le, Mag.over, he] using h
  · simpa [Mag.le, Mag.over, he.le, not_le.mpr he, mul_assoc, mul_comm, mul_left_comm] using h

theorem Mag.over_fst_pos {x : Mag} (hn : x.n ≠ 0) (q : Int) : 0 < (x.over q).1 := by
  unfold Mag.over
  split
  · exact Nat.mul_pos (Nat.pos_of_ne_zero hn) (by positivity)
  · exact Nat.pos_of_ne_zero hn

/-- A magnitude up to `m` rounds to at most `m`. -/
theorem Mag.roundAt_le {mode : Rnd} (hm : mode.Exact) {x : Mag} {m : Nat} (hn : x.n ≠ 0) (hx : x.le ⟨m, 1, 0⟩ = true) :
    x.roundAt mode 0 ≤ m := by
  have hover := Mag.over_le_of_le hx
  have hden : 0 < (x.over 0).2 := Nat.pos_of_ne_zero fun h0 => by
    have := Mag.over_fst_pos hn 0
    rw [h0] at hover
    omega
  exact roundNat_le hm hden hover

/-! ### Codes of the symmetric targets -/

/-- A target whose values are the integers from −m to m (R49, R50): INT8, INT4 and ternary. -/
structure Fmt.Symmetric (t : Fmt) (m : Nat) : Prop where
  isFloat : t.isFloat = false
  notInt32 : t ≠ .int32
  maxMag : t.maxMag = ⟨m, 1, 0⟩
  nanCode : t.nanCode = 0
  notE5m2 : t ≠ .e5m2

theorem Fmt.symmetric_int8 : Fmt.Symmetric .int8 127 := by constructor <;> decide
theorem Fmt.symmetric_int4 : Fmt.Symmetric .int4 7 := by constructor <;> decide
theorem Fmt.symmetric_ternary : Fmt.Symmetric .ternary 1 := by constructor <;> decide

/-- A code of an integer from −m to m. -/
def Fmt.CodeUpTo (t : Fmt) (m c : Nat) : Prop := ∃ neg k, k ≤ m ∧ c = t.intCode neg k

theorem Fmt.codeUpTo_zero (t : Fmt) (m : Nat) : t.CodeUpTo m 0 := ⟨false, 0, Nat.zero_le m, by simp [Fmt.intCode, unsignedOf]⟩

section
variable {t : Fmt} {m : Nat} (h : t.Symmetric m) {mode : Rnd} (hm : mode.Exact)
include h hm

/-- What lies above the range takes its end, and what lies within it rounds to no more. -/
theorem Fmt.Symmetric.packNarrow_code (neg : Bool) (x : Mag) : t.CodeUpTo m (t.packNarrow mode neg x).code := by
  simp only [Fmt.packNarrow, h.isFloat, h.notInt32, h.maxMag, Bool.false_eq_true, if_false, decide_false, Bool.false_and]
  split
  · exact t.codeUpTo_zero m
  · next hn =>
    split
    · exact ⟨neg, m, le_rfl, rfl⟩
    · next hle => exact ⟨neg, _, Mag.roundAt_le hm hn (by simpa [Mag.lt] using hle), rfl⟩

theorem Fmt.Symmetric.convert_code (x : XReal) : t.CodeUpTo m (t.convert mode x).code := by
  have hf := h.isFloat
  have hzero : t.CodeUpTo m t.nanCode := h.nanCode ▸ t.codeUpTo_zero m
  unfold Fmt.convert
  split
  case h_5 =>
    cases x with
    | nan => exact hzero
    | inf s => simpa [h.notE5m2] using hzero
    | fin s n e => exact h.packNarrow_code hm s ⟨n, 1, e⟩
  all_goals cases hf
end

/-- Where the codes of a block come from: a zero, an unscaled conversion, or a scaled one. -/
theorem convertBlock_code_cases {t : Fmt} (ht : t.isFloat = false) {v : Variant} {r : Rule} {supplied mode : Nat} {d : Draw} {i0 : Nat}
    {xs : List XReal} {c : Nat} (hc : c ∈ (convertBlock t v r supplied mode d i0 xs).codes) :
    c = 0 ∨ (∃ i x, c = (t.convert (rndOf mode d i) x).code) ∨ ∃ i neg q, c = (t.packNarrow (rndOf mode d i) neg q).code := by
  have hzero (h : c ∈ xs.map fun _ => 0) : c = 0 := (List.mem_map.mp h).elim fun _ hy => hy.2.symm
  simp only [convertBlock, ht, Bool.false_eq_true, if_false] at hc
  generalize (if r = Rule.supplied then _ else _) = scale at hc
  split at hc
  · simp only [List.map_map, List.mem_map, Function.comp] at hc
    obtain ⟨p, _, rfl⟩ := hc
    exact .inr (.inl ⟨p.1, p.2, rfl⟩)
  split at hc
  · exact .inl (hzero hc)
  split at hc
  · exact .inl (hzero hc)
  split at hc
  · exact .inl (hzero hc)
  · simp only [List.map_map, List.mem_map, Function.comp] at hc
    obtain ⟨p, _, rfl⟩ := hc
    exact .inr (.inr ⟨p.1, _, _, rfl⟩)

/-- Every code of a conversion into a symmetric target is a code of its range. -/
theorem Fmt.Symmetric.convertBlock_codes {t : Fmt} {m : Nat} (h : t.Symmetric m) (v : Variant) (r : Rule) (supplied mode : Nat) (d : Draw)
    (i0 : Nat) (xs : List XReal) : ∀ c ∈ (convertBlock t v r supplied mode d i0 xs).codes, t.CodeUpTo m c := by
  intro c hc
  obtain rfl | ⟨i, x, rfl⟩ | ⟨i, neg, q, rfl⟩ := convertBlock_code_cases h.isFloat hc
  · exact t.codeUpTo_zero m
  · exact h.convert_code (rndOf_exact mode d i) x
  · exact h.packNarrow_code (rndOf_exact mode d i) neg q

/-- The two's complement value of a code of the range lies in the range, where the width has room for it. -/
theorem Fmt.CodeUpTo.toInt_mem {t : Fmt} {m c : Nat} (h : t.CodeUpTo m c) (hw : 2 * m < 2 ^ t.width) :
    c < 2 ^ t.width ∧ -(m : Int) ≤ (BitVec.ofNat t.width c).toInt ∧ (BitVec.ofNat t.width c).toInt ≤ m := by
  obtain ⟨neg, k, hk, rfl⟩ := h
  refine ⟨unsignedOf_lt _ _, ?_⟩
  rw [Fmt.intCode, toInt_unsignedOf] <;> split <;> omega

theorem Fmt.CodeUpTo.ternary {c : Nat} (h : Fmt.CodeUpTo .ternary 1 c) : c = 0 ∨ c = 1 ∨ c = 3 := by
  obtain ⟨neg, k, hk, rfl⟩ := h
  interval_cases k <;> cases neg <;> decide

/-! ### Non-finite blocks -/

/-- A scaled block with a NaN or an infinity (R44), whatever the rule of its scale. -/
theorem convertBlock_nonfinite {v : Variant} (hv : v ≠ .none) {xs : List XReal} (hx : ∃ x ∈ xs, x.nonfinite = true) (t : Fmt) (r : Rule)
    (supplied mode : Nat) (d : Draw) (i0 : Nat) :
    convertBlock t v r supplied mode d i0 xs =
      ⟨nonfiniteScale v, List.replicate xs.length 0, ⟨1, 0, 0, 0, (xs.filter (·.nonfinite)).length⟩⟩ := by
  have hcount : 0 < (xs.filter (·.nonfinite)).length := List.length_filter_pos_iff.mpr hx
  simp [convertBlock, hv, hcount]

/-- Settles O10: the codes of INT8, INT4 and ternary by `convertBlock_codes`, the non-finite block by `convertBlock_nonfinite`. -/
theorem codesOfConversions : Obligations.CodesOfConversions := by
  unfold Obligations.CodesOfConversions
  refine ⟨fun c => ⟨?_, ?_, ?_⟩, rfl, rfl, rfl, rfl, rfl, rfl, fun v r supplied mode d i0 xs => ⟨?_, ?_, ?_, fun hv hx t => ?_⟩⟩
  · exact congrArg XReal.ofInt (signedOf_eq_toInt (by decide) c)
  · exact congrArg XReal.ofInt (signedOf_eq_toInt (by decide) c)
  · exact congrArg XReal.ofInt (signedOf_eq_toInt (by decide) c)
  · exact fun c hc => (Fmt.symmetric_int8.convertBlock_codes v r supplied mode d i0 xs c hc).toInt_mem (by decide)
  · exact fun c hc => (Fmt.symmetric_int4.convertBlock_codes v r supplied mode d i0 xs c hc).toInt_mem (by decide)
  · exact fun c hc => (Fmt.symmetric_ternary.convertBlock_codes v r supplied mode d i0 xs c hc).ternary
  · simp only [convertBlock_nonfinite hv hx]
    exact ⟨rfl, trivial, trivial⟩

end Sys2Proof
end

section
/-!
PROOF. What stores, packets, completions and faults leave of jobs and ateliers, and so what the update routine leaves: layer by layer of
the operations, `Aside` where neither changes, `Recounts` where a job changes in its references alone, `Spares` where an atelier's fault
may end its work.
-/
namespace Sys2Proof

theorem leBytes_length : ∀ n x : Nat, (leBytes n x).length = n
  | 0, _ => rfl
  | n + 1, x => congrArg (· + 1) (leBytes_length n (x / 256))

theorem record_length (n : Nat) (fs : List (Nat × Nat × Nat)) : (record n fs).length = n := leBytes_length n _

theorem SMap.find?_map_values {α : Type} (f : α → α) (n : Nat) :
    ∀ m : SMap α, SMap.find? (m.map fun p => (p.1, f p.2)) n = (SMap.find? m n).map f
  | [] => rfl
  | (k, v) :: m => by
    by_cases h : k = n
    · simp [SMap.find?, h]
    · simpa [SMap.find?, h] using SMap.find?_map_values f n m

end Sys2Proof

namespace Sys2Proof.Machine

open Sys2Proof.Claims

/-- What every step of a fold keeps between a state and the next, the fold keeps. -/
theorem foldl_related {σ α : Type} {R : σ → σ → Prop} (hrefl : ∀ s, R s s) (htrans : ∀ {s t u}, R s t → R t u → R s u) {f : σ → α → σ}
    (hf : ∀ s x, R s (f s x)) (l : List α) (s : σ) : R s (l.foldl f s) :=
  List.foldlRecOn l f (hrefl s) fun t h x _ => htrans h (hf t x)

/-! ### What leaves jobs and ateliers alone -/

/-- Between the two states no job and no atelier has changed. -/
structure Aside (s t : State) : Prop where
  jobs : t.jobs = s.jobs
  ateliers : t.ateliers = s.ateliers

theorem Aside.refl (s : State) : Aside s s := ⟨rfl, rfl⟩
theorem Aside.trans {s t u : State} (h : Aside s t) (k : Aside t u) : Aside s u := ⟨k.jobs.trans h.jobs, k.ateliers.trans h.ateliers⟩
theorem Aside.foldl {α : Type} {f : State → α → State} (hf : ∀ s x, Aside s (f s x)) (l : List α) (s : State) : Aside s (l.foldl f s) :=
  foldl_related Aside.refl Aside.trans hf l s
theorem Aside.ite {c : Prop} [Decidable c] {s t u : State} (ht : Aside s t) (hu : Aside s u) : Aside s (if c then t else u) := by
  split
  · exact ht
  · exact hu
theorem Aside.atelier {s t : State} (h : Aside s t) (a : Nat) : t.atelier a = s.atelier a := congrArg (SMap.get AtelierState.idle · a) h.ateliers

theorem State.log_aside (s : State) (code : Nat) (a step ctx : Option Nat) (handles : List Nat) : Aside s (s.log code a step ctx handles) := ⟨rfl, rfl⟩
theorem State.setCore_aside (s : State) (n : Nat) (c : Core) : Aside s (s.setCore n c) := ⟨rfl, rfl⟩

/-! The protected memory. -/

theorem State.endRekey_aside (s : State) (g : Nat) : Aside s (s.endRekey g) := by
  unfold State.endRekey
  dsimp only
  split <;> exact ⟨rfl, rfl⟩

theorem State.writeLine_aside (s : State) (g line : Nat) (data : Bytes) : Aside s (s.writeLine g line data) := by
  unfold State.writeLine
  dsimp only
  split
  · exact .refl s
  rcases hspent : s.spent g line
  · simp only [Bool.false_eq_true, if_false]
    split <;> exact ⟨rfl, rfl⟩
  · simp only [if_true]
    refine (s.endRekey_aside g).trans ?_
    split <;> exact ⟨rfl, rfl⟩

theorem Store.gddrPiece_aside (x : Store) (addr : Nat) (bs : Bytes) : Aside x.state (x.gddrPiece addr bs).state := by
  unfold Store.gddrPiece
  dsimp only
  split
  · exact State.writeLine_aside ..
  split
  · exact .refl _
  · exact State.writeLine_aside ..

theorem Store.resPiece_aside (x : Store) (addr : Nat) (bs : Bytes) : Aside x.state (x.resPiece addr bs).state := by
  unfold Store.resPiece
  split
  · exact ⟨rfl, rfl⟩
  split
  · exact ⟨rfl, rfl⟩
  · exact ⟨rfl, rfl⟩

theorem State.store_aside (s : State) (ctx va : Nat) (bs : Bytes) : Aside s (s.store ctx va bs).state := by
  unfold State.store
  refine foldl_related (R := fun x y : Store => Aside x.state y.state) (fun x => .refl _) .trans (fun x p => ?_) _ ⟨s, [], []⟩
  split
  · exact .refl _
  split
  · exact Store.gddrPiece_aside ..
  · exact foldl_related (R := fun x y : Store => Aside x.state y.state) (fun x => .refl _) .trans (fun y q => Store.resPiece_aside ..) _ x

theorem State.retireRun_aside (s : State) (ctx va n : Nat) : Aside s (s.retireRun ctx va n) := by
  refine Aside.foldl (fun t x => Aside.foldl (fun u p => ?_) _ t) _ s
  unfold State.retireAt
  split
  · exact u.endRekey_aside _
  · exact .refl u

theorem State.storeWhole_aside (s : State) (ctx va : Nat) (bs : Bytes) : Aside s (s.storeWhole ctx va bs).state := by
  unfold State.storeWhole
  dsimp only
  split
  · exact .refl s
  split
  · exact s.store_aside ctx va bs
  · exact s.retireRun_aside ctx va _

/-! Completions. -/

theorem State.reachHost_aside (s : State) (tag : Nat × Option Nat) (addr n : Nat) : Aside s (s.reachHost tag addr n) :=
  Aside.foldl (f := fun s i => s.translated tag.1 tag.2 (addr + 4096 * i)) (fun _ _ => ⟨rfl, rfl⟩) _ s

theorem State.hostWrite_aside (s : State) (port : Nat) (pasid : Option Nat) (addr : Nat) (bytes : Bytes) :
    Aside s (s.hostWrite port pasid addr bytes) :=
  (s.reachHost_aside (port, pasid) addr bytes.length).trans ⟨rfl, rfl⟩

theorem State.onQueue_aside (s : State) (q : Nat) (f : Queue → Queue) : Aside s (s.onQueue q f) := ⟨rfl, rfl⟩

theorem State.interrupt_aside (s : State) (a vector : Nat) : Aside s (s.interrupt a vector) := by
  unfold State.interrupt
  split
  · dsimp only
    split <;> exact ⟨rfl, rfl⟩
  · exact .refl s

theorem State.pushCompletion_aside (s : State) (n : Nat) (c : Completion) : Aside s (s.pushCompletion n c) := by
  unfold State.pushCompletion
  split
  · exact .refl s
  split
  · exact .refl s
  split
  · next q _ _ _ =>
    have hwritten := (s.hostWrite_aside (s.queueTag q).1 (s.queueTag q).2 (q.cq.toNat + 16 * (q.written.toNat % 2 ^ q.lsize))
      (c.bytes n q.written.toNat q.lsize)).trans (State.onQueue_aside _ n fun q => { q with written := q.written + 1 })
    dsimp only
    split
    · exact hwritten.trans (State.interrupt_aside ..)
    · exact hwritten
  · exact ⟨rfl, rfl⟩

theorem State.latchNext_aside (s : State) (queue : Nat) : Aside s (s.latchNext queue) := by
  unfold State.latchNext
  split
  · split <;> exact ⟨rfl, rfl⟩
  · exact .refl s

/-! Packets. -/

/-- Between the two states packets have been queued: nothing but the ports and the transfer tags differs. -/
def SendsOnly (s t : State) : Prop := t = { s with ports := t.ports, tags := t.tags }

theorem SendsOnly.refl (s : State) : SendsOnly s s := rfl
theorem SendsOnly.trans {s t u : State} (h : SendsOnly s t) (k : SendsOnly t u) : SendsOnly s u := Eq.trans k (by rw [h])
theorem SendsOnly.foldl {α : Type} {f : State → α → State} (hf : ∀ s x, SendsOnly s (f s x)) (l : List α) (s : State) :
    SendsOnly s (l.foldl f s) := foldl_related SendsOnly.refl SendsOnly.trans hf l s
theorem SendsOnly.aside {s t : State} (h : SendsOnly s t) : Aside s t := ⟨by rw [h], by rw [h]⟩

theorem State.takeLinkTag_sendsOnly (s : State) (lease : Nat) : SendsOnly s (s.takeLinkTag lease) := by
  unfold State.takeLinkTag
  split <;> rfl

theorem State.sendPacket_sendsOnly (s : State) (peer vc ptype lease : Nat) (info : List (Nat × Nat × Nat)) (payload : Bytes)
    (seg : Option (Nat × Nat)) : SendsOnly s (s.sendPacket peer vc ptype lease info payload seg) := by
  unfold State.sendPacket
  split
  · exact .refl s
  · exact (s.takeLinkTag_sendsOnly lease).trans rfl

theorem State.sendGather_sendsOnly (s : State) (j : Job) (dest seq fprint step r n : Nat) (bs : Bytes) :
    SendsOnly s (s.sendGather j dest seq fprint step r n bs) := SendsOnly.foldl (fun _ _ => State.sendPacket_sendsOnly ..) _ s

theorem State.abortMembers_sendsOnly (s : State) (j : Job) (seq reason fprint step : Nat) :
    SendsOnly s (s.abortMembers j seq reason fprint step) := SendsOnly.foldl (fun _ _ => State.sendPacket_sendsOnly ..) _ s

/-! ### What changes a job in its references alone -/

/-- A job of which nothing but what counts its references has changed (R319). -/
def Job.Recounted (j k : Job) : Prop := k = { j with refs := k.refs, holding := k.holding }

theorem Job.Recounted.refl (j : Job) : j.Recounted j := rfl
theorem Job.Recounted.trans {j k l : Job} (h : j.Recounted k) (h' : k.Recounted l) : j.Recounted l := Eq.trans h' (by rw [h])

theorem Job.Recounted.atelier {j k : Job} (h : j.Recounted k) : k.atelier = j.atelier := by rw [h]
theorem Job.Recounted.run {j k : Job} (h : j.Recounted k) : k.run = j.run := by rw [h]
theorem Job.Recounted.committed {j k : Job} (h : j.Recounted k) : k.committed = j.committed := by rw [h]

/-- Between the two states no atelier has changed, and every job is still there, its references apart. -/
structure Recounts (s t : State) : Prop where
  ateliers : t.ateliers = s.ateliers
  job : ∀ n j, SMap.find? s.jobs n = some j → ∃ k, SMap.find? t.jobs n = some k ∧ j.Recounted k

theorem Aside.recounts {s t : State} (h : Aside s t) : Recounts s t := ⟨h.ateliers, fun _ j hj => ⟨j, by rw [h.jobs, hj], rfl⟩⟩
theorem Recounts.refl (s : State) : Recounts s s := (Aside.refl s).recounts
theorem Recounts.trans {s t u : State} (h : Recounts s t) (k : Recounts t u) : Recounts s u := by
  refine ⟨k.ateliers.trans h.ateliers, fun n j hj => ?_⟩
  obtain ⟨j1, hj1, h1⟩ := h.job n j hj
  obtain ⟨j2, hj2, h2⟩ := k.job n j1 hj1
  exact ⟨j2, hj2, h1.trans h2⟩
theorem Recounts.foldl {α : Type} {f : State → α → State} (hf : ∀ s x, Recounts s (f s x)) (l : List α) (s : State) : Recounts s (l.foldl f s) :=
  foldl_related Recounts.refl Recounts.trans hf l s

theorem State.onJob_recounts (s : State) (n : Nat) {f : Job → Job} (hf : ∀ j : Job, j.Recounted (f j)) : Recounts s (s.onJob n f) := by
  refine ⟨rfl, fun k j hj => ?_⟩
  rw [State.onJob_find, hj]
  split
  · exact ⟨f j, rfl, hf j⟩
  · exact ⟨j, rfl, rfl⟩

theorem State.reference_recounts (s : State) (f : Nat → Nat) (x : ObjKind × Nat) : Recounts s (s.reference f x) := by
  unfold State.reference
  split
  case h_5 n => exact s.onJob_recounts n fun _ => rfl
  all_goals exact Aside.recounts ⟨rfl, rfl⟩

theorem State.refer_recounts (s : State) (f : Nat → Nat) (os : List (ObjKind × Nat)) : Recounts s (s.refer f os) :=
  Recounts.foldl (fun s x => s.reference_recounts f x) os s

theorem State.dropHold_recounts (s : State) (x : ObjKind × Nat) : Recounts s (s.dropHold x) := by
  unfold State.dropHold
  split
  · next n =>
    split
    · split
      · exact (s.onJob_recounts n (f := fun j => { j with holding := false }) fun _ => rfl).trans (State.refer_recounts ..)
      · exact .refl s
    · exact .refl s
  · exact .refl s

theorem State.endCommand_recounts (s : State) (n status result : Nat) (signals : Bool) : Recounts s (s.endCommand n status result signals) := by
  unfold State.endCommand
  split
  · exact .refl s
  · next c _ =>
    have hends := (Aside.recounts (s := s) (t := { s with commands := SMap.del s.commands n }) ⟨rfl, rfl⟩).trans
      ((State.refer_recounts _ (· - 1) c.refs).trans (Recounts.foldl State.dropHold_recounts c.refs _))
    have htold := hends.trans ((State.latchNext_aside _ c.queue).trans (State.pushCompletion_aside _ c.queue
      ⟨BitVec.ofNat 32 c.id, status, c.overrun, c.late, BitVec.ofNat 64 result, c.irq⟩)).recounts
    dsimp only
    split
    · exact htold.trans (Aside.recounts ⟨rfl, rfl⟩)
    · exact htold

/-! ### The discard rule (R450) -/

theorem State.onCores_aside (s : State) (a : Nat) (f : Core → Core) : Aside s (s.onCores a f) := by
  refine Aside.foldl (fun t n => ?_) _ s
  split
  · exact t.setCore_aside ..
  · exact .refl t

theorem State.discardCommands_recounts (s : State) (a : Nat) (keep : Option Nat) : Recounts s (s.discardCommands a keep) :=
  Recounts.foldl (fun _ _ => State.endCommand_recounts ..) _ s

theorem State.abortWork_aside (s : State) (a code : Nat) : Aside s (s.abortWork a code) := by
  unfold State.abortWork
  dsimp only
  refine Aside.trans (Aside.foldl (fun t c => ?_) _ s) (Aside.trans (Aside.foldl (fun t p => ?_) _ _) ⟨rfl, rfl⟩)
  · split
    · exact .ite (State.abortMembers_sendsOnly ..).aside (.refl t)
    · exact .refl t
  · split
    · exact .ite (State.abortMembers_sendsOnly ..).aside (.refl t)
    · exact .refl t

theorem State.dropTag?_aside (s : State) (x : Option Nat) : Aside s (s.dropTag? x) := by
  cases x <;> exact ⟨rfl, rfl⟩

theorem State.dropSegments_aside (s : State) (a : Nat) : Aside s (s.dropSegments a) :=
  (Aside.foldl (f := fun s (g : Segment) => s.dropTag? g.tag) (fun s g => s.dropTag?_aside g.tag) _ s).trans ⟨rfl, rfl⟩

theorem State.leaveRows_aside (s : State) (r : TableReq) : Aside s (s.leaveRows r) := by
  unfold State.leaveRows
  split
  · exact .refl s
  · refine Aside.foldl (fun t i => ?_) _ s
    dsimp only
    split
    · exact Aside.trans (t := { t with freed := t.freed + 1 }) ⟨rfl, rfl⟩ (State.storeWhole_aside ..)
    · exact ⟨rfl, rfl⟩

theorem State.dropRequests_aside (s : State) (a : Nat) : Aside s (s.dropRequests a) :=
  Aside.trans (t := { s with gathers := keepRequests a s.gathers, scatters := keepRequests a s.scatters }) ⟨rfl, rfl⟩
    (Aside.foldl State.leaveRows_aside _ _)

theorem State.breakAll_aside (s : State) (j : Job) : Aside s (s.breakAll j) := by
  unfold State.breakAll
  split
  · refine Aside.foldl (fun t i => ?_) _ s
    dsimp only
    split
    · exact t.store_aside ..
    · exact .refl t
  · exact .refl s

theorem State.discardServing_aside (s : State) (a : Nat) : Aside s (s.discardServing a) :=
  (Aside.foldl (f := fun s (p : Nat × Job) => s.breakAll p.2) (fun s p => s.breakAll_aside p.2) _ s).trans ⟨rfl, rfl⟩

/-- The discard rule up to what it does to the atelier's own jobs. -/
def State.discardWork (s : State) (a code : Nat) : State :=
  let s1 := ((s.onCores a Core.halted).discardCommands a none).abortWork a code
  (((s1.dropChunks a).dropSegments a).dropRequests a).discardServing a

/-- What the discard rule makes of a job. -/
def Job.discardedIn (a : Nat) (j : Job) : Job := if j.atelier = a then j.discarded else j

theorem State.discard_ateliers_eq (s : State) (a code : Nat) : (s.discard a code).ateliers = (s.discardWork a code).ateliers := by
  unfold State.discard State.discardWork
  dsimp only

theorem State.discard_jobs_eq (s : State) (a code : Nat) :
    (s.discard a code).jobs = (s.discardWork a code).jobs.map fun p => (p.1, p.2.discardedIn a) := by
  unfold State.discard State.discardWork
  dsimp only
  refine List.map_congr_left fun p _ => ?_
  unfold Job.discardedIn
  split <;> rfl

theorem State.discardWork_recounts (s : State) (a code : Nat) : Recounts s (s.discardWork a code) := by
  unfold State.discardWork
  dsimp only
  generalize hs1 : (s.onCores a Core.halted).discardCommands a none = s1
  have hs1 : Recounts s s1 := hs1 ▸ (s.onCores_aside a Core.halted).recounts.trans (State.discardCommands_recounts ..)
  have hdropped : Aside s1 ((s1.abortWork a code).dropChunks a) := (s1.abortWork_aside a code).trans ⟨rfl, rfl⟩
  exact hs1.trans (hdropped.trans ((State.dropSegments_aside ..).trans
    ((State.dropRequests_aside ..).trans (State.discardServing_aside ..)))).recounts

/-- The discard rule changes no atelier's own state. -/
theorem State.discard_ateliers (s : State) (a code : Nat) : (s.discard a code).ateliers = s.ateliers :=
  (s.discard_ateliers_eq a code).trans (s.discardWork_recounts a code).ateliers

/-- The discard rule changes another atelier's job in its references alone. -/
theorem State.discard_job (s : State) {a n : Nat} (code : Nat) {j : Job} (hj : SMap.find? s.jobs n = some j) (ha : j.atelier ≠ a) :
    ∃ k, SMap.find? (s.discard a code).jobs n = some k ∧ j.Recounted k := by
  obtain ⟨k, hk, hjk⟩ := (s.discardWork_recounts a code).job n j hj
  have hka : k.atelier ≠ a := hjk.atelier.trans_ne ha
  refine ⟨k, ?_, hjk⟩
  rw [State.discard_jobs_eq, SMap.find?_map_values, hk]
  simp [Job.discardedIn, hka]

/-! ### Faults of an atelier -/

/-- Whether a fault of an atelier is no more than an entry: the atelier is faulted, its lease is ending, or the module has failed (R448). -/
def State.faultHeld (s : State) (a : Nat) : Bool := (s.atelier a).faulted || (s.lease a).state = 3 || s.mstate = 3

theorem not_faultHeld_of_mayFault {s : State} {a : Nat} (h : MayFault s a) : s.faultHeld a = false := by
  simp [State.faultHeld, h.sound, h.held, h.alive]

theorem State.faultHeld_of_faulted {s : State} {a : Nat} (h : (s.atelier a).faulted = true) : s.faultHeld a = true := by
  simp [State.faultHeld, h]

theorem State.faultAtelier_of_held {s : State} {a : Nat} (h : s.faultHeld a = true)
    (code : Nat) (step ctx : Option Nat) (handles : List Nat) : s.faultAtelier a code step ctx handles = s.log code (some a) step ctx handles :=
  if_pos h

/-- An atelier's state as a fault leaves it (R451). -/
def AtelierState.faultedAt (x : AtelierState) (s : State) (code : Nat) : AtelierState :=
  { x with faulted := true, draining := some (s.time + BitVec.ofNat 64 (10 * ticksMs)), fcode := BitVec.ofNat 16 code, findex := s.blotter.next }

theorem State.faultAtelier_of_free {s : State} {a : Nat} (h : s.faultHeld a = false)
    (code : Nat) (step ctx : Option Nat) (handles : List Nat) : s.faultAtelier a code step ctx handles =
      ((s.log code (some a) step ctx handles).setAtelier a ((s.atelier a).faultedAt s code)).discard a code := by
  rw [State.faultHeld] at h
  rw [State.faultAtelier, if_neg (by simp [h])]
  rfl

/-- The state of any atelier after a fault of one that may fault. -/
theorem State.faultAtelier_atelier {s : State} {b : Nat} (h : s.faultHeld b = false)
    (code : Nat) (step ctx : Option Nat) (handles : List Nat) (a : Nat) : (s.faultAtelier b code step ctx handles).atelier a =
      if a = b then (s.atelier b).faultedAt s code else s.atelier a := by
  rw [State.faultAtelier_of_free h, State.atelier, State.discard_ateliers, ← State.atelier]
  simp

theorem State.faultAtelier_faults {s : State} {a : Nat} (h : MayFault s a) (code : Nat) (step ctx : Option Nat) (handles : List Nat) :
    ((s.faultAtelier a code step ctx handles).atelier a).faulted = true ∧
      ((s.faultAtelier a code step ctx handles).atelier a).fcode = BitVec.ofNat 16 code := by
  rw [State.faultAtelier_atelier (not_faultHeld_of_mayFault h), if_pos rfl]
  exact ⟨rfl, rfl⟩

/-- What the work of others leaves of an atelier and its jobs: once it is faulted it stays as it is, and unless it is faulted each of its
jobs has changed in its references alone. -/
structure Spares (a : Nat) (s t : State) : Prop where
  halted : (s.atelier a).faulted = true → t.atelier a = s.atelier a
  job : (t.atelier a).faulted = false → ∀ n j, SMap.find? s.jobs n = some j → j.atelier = a → ∃ k, SMap.find? t.jobs n = some k ∧ j.Recounted k

theorem Aside.spares {s t : State} (h : Aside s t) (a : Nat) : Spares a s t :=
  ⟨fun _ => h.atelier a, fun _ n j hj _ => h.recounts.job n j hj⟩

theorem Spares.refl {a : Nat} (s : State) : Spares a s s := (Aside.refl s).spares a

theorem Spares.trans {a : Nat} {s t u : State} (h : Spares a s t) (k : Spares a t u) : Spares a s u := by
  refine ⟨fun hs => ?_, fun hu n j hj ha => ?_⟩
  · have hst := h.halted hs
    exact (k.halted (by rw [hst, hs])).trans hst
  · have ht : (t.atelier a).faulted = false := Bool.eq_false_iff.mpr fun ht => by simp [k.halted ht, ht] at hu
    obtain ⟨j1, hj1, h1⟩ := h.job ht n j hj ha
    obtain ⟨j2, hj2, h2⟩ := k.job hu n j1 hj1 (h1.atelier.trans ha)
    exact ⟨j2, hj2, h1.trans h2⟩

theorem Spares.foldl {α : Type} {a : Nat} {f : State → α → State} (hf : ∀ s x, Spares a s (f s x)) (l : List α) (s : State) :
    Spares a s (l.foldl f s) := foldl_related Spares.refl Spares.trans hf l s

theorem Spares.ite {a : Nat} {c : Prop} [Decidable c] {s t u : State} (ht : Spares a s t) (hu : Spares a s u) : Spares a s (if c then t else u) := by
  split
  · exact ht
  · exact hu

/-- A fault of any atelier: of this one, it marks it, and of another, it discards none of this one's work. -/
theorem State.faultAtelier_spares (s : State) (b code : Nat) (step ctx : Option Nat) (handles : List Nat) (a : Nat) :
    Spares a s (s.faultAtelier b code step ctx handles) := by
  rcases hb : s.faultHeld b
  · have hat := State.faultAtelier_atelier hb code step ctx handles a
    by_cases hab : a = b
    · subst hab
      rw [if_pos rfl] at hat
      refine ⟨fun hs => ?_, fun ht => ?_⟩
      · rw [State.faultHeld_of_faulted hs] at hb
        cases hb
      · rw [hat] at ht
        cases ht
    · refine ⟨fun _ => by rw [hat, if_neg hab], fun _ n j hj hja => ?_⟩
      rw [State.faultAtelier_of_free hb]
      exact State.discard_job _ code hj (by rw [hja]; exact hab)
  · rw [State.faultAtelier_of_held hb]
    exact (s.log_aside ..).spares a

/-! ### The update routine -/

theorem State.poisonLine_aside (s : State) (g line : Nat) : Aside s (s.poisonLine g line) := ⟨rfl, rfl⟩

theorem Store.settle_spares (x : Store) (a : Nat) : Spares a x.state x.settle := by
  refine Spares.foldl (fun t p => ?_) _ _
  split
  · exact ((t.poisonLine_aside p.1 p.2).spares a).trans (State.faultAtelier_spares ..)
  · exact .refl t

section
variable (s : State) (n : Nat) (j : Job) (a : Nat)

theorem State.jobStore_spares (va : Nat) (bs : Bytes) : Spares a s (s.jobStore n j va bs) := by
  have hstored : Spares a s (s.store j.ctx va bs).settle := ((s.store_aside ..).spares a).trans (Store.settle_spares _ a)
  unfold State.jobStore
  dsimp only
  split
  · exact .refl s
  split
  · exact State.faultAtelier_spares ..
  split
  · exact hstored.trans (State.faultAtelier_spares ..)
  · exact hstored

theorem State.storeVector_spares (d : Bytes) (c u : Nat) (vals : List Nat) : Spares a s (s.storeVector n j d c u vals) := by
  have hstored := (s.jobStore_spares n j a (j.stateCodes c u) ((encodeS16 (u = 0) vals).codes.flatMap (leBytes 2))).trans
    (State.jobStore_spares _ n j a (j.stateScale c u) (leBytes 1 (encodeS16 (u = 0) vals).scale))
  exact .ite (hstored.trans ((State.log_aside ..).spares a)) hstored

theorem State.storeWeights_spares (d : Bytes) (c : Nat) (ws : List Nat) : Spares a s (s.storeWeights n j d c ws) :=
  (s.jobStore_spares n j a ..).trans (State.jobStore_spares ..)

theorem State.freed_setCore_aside (core : Nat) (c : Core) : Aside s ({ s with freed := s.freed + 1 }.setCore core c) := ⟨rfl, rfl⟩

theorem State.routineHalt_faults {s : State} {j : Job} (h : MayFault s j.atelier) (n core reason : Nat) :
    ((s.routineHalt n j core reason).atelier j.atelier).faulted = true ∧ ((s.routineHalt n j core reason).atelier j.atelier).fcode = 0x0410 := by
  unfold State.routineHalt
  dsimp only
  generalize hu : ({ s with freed := s.freed + 1 } : State).setCore core _ = u
  have hmay : MayFault u j.atelier := by
    rw [← hu]
    exact ⟨h.sound, h.held, h.alive⟩
  exact State.faultAtelier_faults hmay ..

theorem State.routineHalt_spares (core reason : Nat) : Spares a s (s.routineHalt n j core reason) := by
  unfold State.routineHalt
  exact ((s.freed_setCore_aside core _).spares a).trans (State.faultAtelier_spares ..)

theorem State.routine_spares (core : Nat) (reads writes : List (Nat × Nat)) {f : State → State} (hf : Spares a s (f s)) :
    Spares a s (s.routine n j core reads writes f) := by
  unfold State.routine
  split
  · exact .refl s
  split
  · refine Spares.trans (.ite ?_ (.refl s)) (State.routineHalt_spares ..)
    exact (Aside.foldl (f := fun s (p : Nat × Nat) => s.retireRun j.ctx p.1 p.2) (fun s p => s.retireRun_aside ..) writes s).spares a
  · exact hf

theorem State.writeCopyPart_spares (far : Bool) (core : Nat) (p : Nat × Bytes) : Spares a s (s.writeCopyPart n j far core p) := by
  unfold State.writeCopyPart
  split
  · exact s.routine_spares n j a core _ _ (s.jobStore_spares ..)
  split
  · exact .refl s
  split
  · exact s.routineHalt_spares ..
  · exact (s.setCore_aside ..).spares a

theorem State.countCopy_aside (core layer : Nat) (ev : Events) : Aside s (s.countCopy n core layer ev) := by
  unfold State.countCopy
  dsimp only
  split
  · exact s.setCore_aside ..
  · exact .refl s

theorem State.writeCopy_spares (d : Bytes) (key : Nat) (cores : List Nat) : Spares a s (s.writeCopy n j d key cores) := by
  refine Spares.foldl (fun t x => ?_) _ s
  exact Spares.trans (Spares.foldl (fun t p => t.writeCopyPart_spares n j a (copyFar d) x.1 p) _ t) ((State.countCopy_aside ..).spares a)

theorem State.writeCopies_spares (layer key : Nat) : Spares a s (s.writeCopies n j layer key) :=
  Spares.foldl (fun t d => t.writeCopy_spares n j a d key _) _ s

theorem State.updateAdmitted_spares (d : Bytes) (p : Scalars) (mode : Writes) (c : Nat) : Spares a s (s.updateAdmitted n j d p mode c) := by
  unfold State.updateAdmitted
  extract_lets g ws ms vs new s1 s2
  have h1 : Spares a s s1 := .ite (s.jobStore_spares ..) (.refl s)
  have h2 : Spares a s s2 := h1.trans (.ite (State.storeWeights_spares ..) (.refl s1))
  refine .ite ?_ h2
  have h3 := h2.trans (s2.storeVector_spares n j a d c 0 (new.map fun x => x.2.1))
  exact .ite (h3.trans (State.storeVector_spares ..)) h3

theorem State.updateChunk_spares (d : Bytes) (p : Scalars) (mode : Writes) (c : Nat) : Spares a s (s.updateChunk n j d p mode c) := by
  unfold State.updateChunk
  exact s.routine_spares n j a _ _ _ (s.updateAdmitted_spares ..)

theorem State.updateLayer_spares (d : Bytes) (step : Nat) (k : Int) (f : Nat) (mode : Writes) : Spares a s (s.updateLayer n j d step k f mode) := by
  unfold State.updateLayer
  refine .ite (.refl s) ?_
  have hchunks : Spares a s ((List.range (layerChunks d)).foldl (fun t i => t.updateChunk n j d (s.scalarsOf j d step k f) mode (layerChunk d + i)) s) :=
    Spares.foldl (fun t i => t.updateChunk_spares ..) _ s
  exact .ite (hchunks.trans (State.writeCopies_spares ..)) hchunks
end

end Sys2Proof.Machine
end

section
/-!
PROOF. The training step up to its seal's record (O50): launch, counts, the update of a layer and the record, each with what it leaves of
the job's run.
-/
namespace Sys2Proof.Machine

open Sys2Proof.Claims

theorem State.onRun_find {s : State} {n : Nat} {j : Job} {r : StepRun} (hj : SMap.find? s.jobs n = some j) (hr : j.run = some r)
    (f : StepRun → StepRun) : SMap.find? (s.onRun n f).jobs n = some { j with run := some (f r) } := by
  rw [State.onRun, State.onJob_find, if_pos rfl, hj, Option.map_some, hr, Option.map_some]

/-- A job whose run is written back as it was. -/
theorem Job.with_run {j : Job} {r : StepRun} (hr : j.run = some r) : { j with run := some r } = j := by rw [← hr]

/-! ### Counts gathered (R60, R61) -/

/-- A core whose counter slots have been gathered. -/
def Core.gathered (c : Core) : Core := { c with counters := [], copyCounts := [] }

theorem State.gatherCore_core (s : State) (n k m : Nat) : (State.gatherCore n s k).core m = if m = k then (s.core k).gathered else s.core m := by
  rw [State.gatherCore, State.onRun_core, State.setCore_core]
  rfl

theorem State.gatherCore_find {s : State} {n : Nat} {j : Job} {r : StepRun} (hj : SMap.find? s.jobs n = some j) (hr : j.run = some r) (k : Nat) :
    ∃ cs, SMap.find? (State.gatherCore n s k).jobs n = some { j with run := some { r with counts := cs } } :=
  ⟨_, State.onRun_find (s := s.setCore k _) hj hr _⟩

theorem State.gatherCores_core (n m : Nat) : ∀ (ks : List Nat) (s : State),
    (ks.foldl (State.gatherCore n) s).core m = if m ∈ ks then (s.core m).gathered else s.core m
  | [], s => by simp
  | k :: ks, s => by
    rw [List.foldl_cons, State.gatherCores_core n m ks, State.gatherCore_core]
    by_cases hm : m = k
    · subst hm
      simp [Core.gathered]
    · simp [hm]

/-- Between the two states nothing but the jobs and the cores differs. -/
def GathersOnly (s t : State) : Prop := t = { s with jobs := t.jobs, cores := t.cores }

theorem GathersOnly.refl (s : State) : GathersOnly s s := rfl
theorem GathersOnly.trans {s t u : State} (h : GathersOnly s t) (k : GathersOnly t u) : GathersOnly s u := Eq.trans k (by rw [h])

theorem State.gatherCores_gathersOnly (n : Nat) (ks : List Nat) (s : State) : GathersOnly s (ks.foldl (State.gatherCore n) s) :=
  foldl_related GathersOnly.refl GathersOnly.trans (f := State.gatherCore n) (fun _ _ => rfl) ks s

theorem State.gatherCores_find {n : Nat} : ∀ (ks : List Nat) {s : State} {j : Job} {r : StepRun}, SMap.find? s.jobs n = some j → j.run = some r →
    ∃ cs, SMap.find? (ks.foldl (State.gatherCore n) s).jobs n = some { j with run := some { r with counts := cs } } ∧ (ks = [] → cs = r.counts)
  | [], s, j, r, hj, hr => ⟨r.counts, by rw [List.foldl_nil, Job.with_run hr, hj], fun _ => rfl⟩
  | k :: ks, s, j, r, hj, hr => by
    obtain ⟨cs, hcs⟩ := State.gatherCore_find hj hr k
    obtain ⟨cs', hcs', _⟩ := State.gatherCores_find ks hcs rfl
    exact ⟨cs', hcs', fun h => nomatch h⟩

/-- At the end of the programs of a step each core of the job that ran it is gathered once. -/
theorem layerCountGather_gathers {s : State} {n : Nat} {j : Job} {r : StepRun} (h : Steps s n j r) (hl : r.launched = true) (hp : r.passes = 0)
    (he : s.programsEnded n r = true) : ∃ t, exec (.layerCountGather n) s = .next t ∧
      (JobNow t n fun k => ∃ q, k.run = some q ∧ q.passes = 1 ∧ q.step = r.step ∧ q.applied = r.applied ∧
        ((∀ m ∈ s.jobCores n, (s.core m).step ≠ some r.step) → q.counts = r.counts)) ∧
      (∀ m, t.core m = if m ∈ s.jobCores n ∧ (s.core m).step = some r.step then { s.core m with counters := [], copyCounts := [] } else s.core m) ∧
      t = { s with jobs := t.jobs, cores := t.cores } := by
  obtain ⟨hj, hr, hm⟩ := h
  let cores := (s.jobCores n).filter fun k => (s.core k).step = some r.step
  let u := cores.foldl (State.gatherCore n) s
  obtain ⟨cs, hu, hcs⟩ := State.gatherCores_find cores hj hr
  have hexec : exec (.layerCountGather n) s = .next (u.onRun n fun r => { r with passes := 1 }) := by
    rw [show exec (.layerCountGather n) s = execLayerCountGather n s from rfl, execLayerCountGather, hj, Option.bind_some, hr]
    simp [whenDue, hm, hl, hp, he, u, cores]
  refine ⟨_, hexec, ⟨_, State.onRun_find hu rfl _, _, rfl, rfl, rfl, rfl, fun hnone => hcs ?_⟩, fun m => ?_, ?_⟩
  · exact List.filter_eq_nil_iff.mpr fun m hmem => by simpa using hnone m hmem
  · rw [State.onRun_core, State.gatherCores_core]
    simp only [cores, List.mem_filter, decide_eq_true_eq]
    rfl
  · exact (State.gatherCores_gathersOnly n cores s).trans rfl

/-! ### Seal packets -/

/-- Between the two states nothing but the jobs and what is queued at the ports differs. -/
def SealsOnly (s t : State) : Prop := t = { s with jobs := t.jobs, ports := t.ports, tags := t.tags }

theorem SealsOnly.refl (s : State) : SealsOnly s s := rfl
theorem SealsOnly.trans {s t u : State} (h : SealsOnly s t) (k : SealsOnly t u) : SealsOnly s u := Eq.trans k (by rw [h])
theorem SendsOnly.sealsOnly {s t : State} (h : SendsOnly s t) : SealsOnly s t := Eq.trans h (by rw [h])
theorem State.onRun_sealsOnly (s : State) (n : Nat) (f : StepRun → StepRun) : SealsOnly s (s.onRun n f) := rfl

/-- A run that has taken seal data in: of its own work nothing has changed. -/
def StepRun.Heard (r q : StepRun) : Prop :=
  ∃ records vectors pieces bundled, q = { r with records := records, vectors := vectors, pieces := pieces, bundled := bundled }

theorem StepRun.Heard.refl (r : StepRun) : r.Heard r := ⟨_, _, _, _, rfl⟩
theorem StepRun.Heard.trans {r q p : StepRun} (h : r.Heard q) (k : q.Heard p) : r.Heard p := by
  obtain ⟨_, _, _, _, rfl⟩ := h
  obtain ⟨_, _, _, _, rfl⟩ := k
  exact ⟨_, _, _, _, rfl⟩

/-- The packets of a job's bundle (R294). -/
theorem State.bundles_sendsOnly (s : State) (j : Job) (gs : List Nat) (step at_ m : Nat) (recs sum : Bytes) :
    SendsOnly s (gs.foldl (fun s g => (s.sendGather j g 0xFFFFFFF0 0 step at_ m recs).sendGather j g 0xFFFFFFF1 0 step at_ m sum) s) :=
  SendsOnly.foldl (fun _ _ => (State.sendGather_sendsOnly ..).trans (State.sendGather_sendsOnly ..)) gs s

theorem State.bundleSeal_sealsOnly (s : State) (n : Nat) : SealsOnly s (s.bundleSeal n) := by
  unfold State.bundleSeal
  split
  · exact .refl s
  split
  · exact .refl s
  dsimp only
  split
  · exact .refl s
  · exact (State.bundles_sendsOnly ..).sealsOnly.trans (State.onRun_sealsOnly ..)

/-- A bundle sent says no more of the run than that it was sent. -/
theorem State.bundleSeal_find {s : State} {n : Nat} {j : Job} {r : StepRun} (hj : SMap.find? s.jobs n = some j) (hr : j.run = some r) :
    ∃ b, SMap.find? (s.bundleSeal n).jobs n = some { j with run := some { r with bundled := b } } := by
  unfold State.bundleSeal
  rw [hj]
  dsimp only
  rw [hr]
  dsimp only
  split
  · exact ⟨r.bundled, by rw [hj, ← Job.with_run hr]⟩
  · refine ⟨true, State.onRun_find ?_ hr _⟩
    rw [(State.bundles_sendsOnly ..).aside.jobs, hj]

theorem State.takeSeal_sealsOnly (s : State) (n : Nat) (j : Job) (p : CollPacket) : SealsOnly s (s.takeSeal n j p) := by
  unfold State.takeSeal
  dsimp only
  split <;> rfl

theorem State.takeSeal_find {s : State} {n : Nat} {j : Job} {r : StepRun} (hj : SMap.find? s.jobs n = some j) (hr : j.run = some r) (j' : Job)
    (p : CollPacket) : ∃ q, SMap.find? (s.takeSeal n j' p).jobs n = some { j with run := some q } ∧ r.Heard q := by
  unfold State.takeSeal
  dsimp only
  split
  · exact ⟨_, State.onRun_find hj hr _, _, _, _, _, rfl⟩
  · refine ⟨_, State.onRun_find hj hr _, ?_⟩
    split <;> exact ⟨_, _, _, _, rfl⟩

theorem State.takeSeals_find {n : Nat} (j' : Job) : ∀ (ps : List CollPacket) {s : State} {j : Job} {r : StepRun},
    SMap.find? s.jobs n = some j → j.run = some r →
    ∃ q, SMap.find? (ps.foldl (fun s p => s.takeSeal n j' p) s).jobs n = some { j with run := some q } ∧ r.Heard q
  | [], s, j, r, hj, hr => ⟨r, by rw [List.foldl_nil, Job.with_run hr, hj], .refl r⟩
  | p :: ps, s, j, r, hj, hr => by
    obtain ⟨q, hq, hrq⟩ := State.takeSeal_find hj hr j' p
    obtain ⟨q', hq', hqq'⟩ := State.takeSeals_find j' ps hq rfl
    exact ⟨q', hq', hrq.trans hqq'⟩

/-- What the seal packets released to a job leave: its run's own work, and the memories. -/
theorem State.releaseSeal_find {s : State} {n : Nat} {j : Job} {r : StepRun} (hj : SMap.find? s.jobs n = some j) (hr : j.run = some r) :
    (∃ q, SMap.find? (s.releaseSeal n).jobs n = some { j with run := some q } ∧ r.Heard q) ∧
      (s.releaseSeal n).gddr = s.gddr ∧ (s.releaseSeal n).reservoir = s.reservoir := by
  unfold State.releaseSeal
  rw [hj]
  dsimp only
  generalize hw : (s.heldSeal n).partition (sealEarly j.run) = held
  obtain ⟨wait, now⟩ := held
  dsimp only
  generalize hu : ({ s with collectives := _ } : State) = u
  have huj : SMap.find? u.jobs n = some j := by rw [← hu, ← hj]
  obtain ⟨q, hq, hrq⟩ := State.takeSeals_find j now huj hr
  obtain ⟨b, hb⟩ := State.bundleSeal_find hq rfl
  have hseals : SealsOnly u (State.bundleSeal (now.foldl (fun s p => s.takeSeal n j p) u) n) :=
    (foldl_related SealsOnly.refl SealsOnly.trans (fun s p => s.takeSeal_sealsOnly n j p) now u).trans (State.bundleSeal_sealsOnly ..)
  refine ⟨⟨_, hb, hrq.trans ⟨_, _, _, _, rfl⟩⟩, ?_, ?_⟩
  · rw [hseals, ← hu]
  · rw [hseals, ← hu]

/-! ### The launch of a step (R213, R229) -/

theorem Store.settle_of_good {x : Store} (h : x.gddrBad = []) : x.settle = x.state := by
  rw [Store.settle, h, List.foldl_nil]

theorem State.jobStore_of_faulted {s : State} {j : Job} (h : (s.atelier j.atelier).faulted = true) (n va : Nat) (bs : Bytes) :
    s.jobStore n j va bs = s := if_pos h

/-- A write that meets no retired region, before or after. -/
theorem State.jobStore_of_whole {s : State} {j : Job} {va : Nat} {bs : Bytes} (h : (s.atelier j.atelier).faulted = false)
    (hbefore : s.retiredIn j.ctx va bs.length = none) (hafter : (s.store j.ctx va bs).settle.retiredIn j.ctx va bs.length = none) (n : Nat) :
    s.jobStore n j va bs = (s.store j.ctx va bs).settle := by
  rw [State.jobStore, if_neg (by simp [h])]
  simp only [hbefore, hafter]

/-- A launch begins the job's next step under its k and its mode, and writes the step block. -/
theorem stepLaunch_begins {s : State} {n : Nat} {j : Job} (hj : SMap.find? s.jobs n = some j) (hm : s.mstate = 2) (hrun : j.running = true)
    (hres : j.resident = true) (hsw : j.switching = false) (hst : j.stopping = none) (hnone : j.run = none) (hlow : j.lowrank = []) {x : Store}
    (hx : x = s.store j.ctx (j.tb 240 48 + 64 * (j.nextStep % 2)) (Sys2Proof.record 64 [(0, 64, j.nextStep), (64, 8, unsignedOf 8 (j.kAt j.nextStep)), (72, 8, 0)]))
    (hbefore : s.retiredIn j.ctx (j.tb 240 48 + 64 * (j.nextStep % 2)) 64 = none)
    (hafter : x.settle.retiredIn j.ctx (j.tb 240 48 + 64 * (j.nextStep % 2)) 64 = none) (hgood : x.gddrBad = []) :
    ∃ t, exec (.stepLaunch n) s = .next t ∧
      ((s.atelier j.atelier).faulted = false → t.gddr = x.settle.gddr ∧ t.reservoir = x.settle.reservoir) ∧
      JobNow t n fun k => k.launched = some j.nextStep ∧ ∃ r, k.run = some r ∧ r.step = j.nextStep ∧ r.restart = 0 ∧ r.attempt = 0 ∧
        r.k = j.kAt j.nextStep ∧ r.late = j.lateNext ∧ r.launched = true ∧ r.applied = [] ∧ r.outcome = none ∧ k.committed = j.committed := by
  let r := StepRun.fresh j.nextStep 0 (j.kAt j.nextStep) j.lateNext true
  let u := s.writeStepBlock n j j.nextStep 0 (j.kAt j.nextStep)
  have hexec : exec (.stepLaunch n) s = .next ((u.onJob n fun j => { j with run := some r, launched := some r.step }).releaseSeal n) := by
    rw [show exec (.stepLaunch n) s = execStepLaunch n s from rfl, execStepLaunch, hj]
    simp only [whenDue, hm, hrun, hres, hsw, hst, State.launchNext, hnone, State.prepareStep, hlow, List.foldl_nil]
    rfl
  have hwritten (hf : (s.atelier j.atelier).faulted = false) : u = x.settle := by
    rw [hx] at hafter ⊢
    exact State.jobStore_of_whole hf (by rwa [record_length]) (by rwa [record_length]) n
  have hjobs : u.jobs = s.jobs := by
    rcases hf : (s.atelier j.atelier).faulted
    · rw [hwritten hf, Store.settle_of_good hgood, hx]
      exact (s.store_aside ..).jobs
    · exact congrArg State.jobs (State.jobStore_of_faulted hf ..)
  have hlaunched : SMap.find? (u.onJob n fun j => { j with run := some r, launched := some r.step }).jobs n =
      some { j with run := some r, launched := some r.step } := by
    rw [State.onJob_find, if_pos rfl, hjobs, hj, Option.map_some]
  obtain ⟨⟨q, hq, _, _, _, _, rfl⟩, hgddr, hres⟩ := State.releaseSeal_find hlaunched rfl
  refine ⟨_, hexec, fun hf => ⟨?_, ?_⟩, _, hq, rfl, _, rfl, rfl, rfl, rfl, rfl, rfl, rfl, rfl, rfl, rfl⟩
  · rw [hgddr, ← hwritten hf, State.onJob_gddr]
  · rw [hres, ← hwritten hf, State.onJob_reservoir]

/-! ### The update of a layer (R210 to R212) -/

/-- The update descriptor that a job finds for a layer is the layer's. -/
theorem Job.layerDesc_layer {j : Job} {layer : Nat} {d : Bytes} (h : j.layerDesc layer = some d) : layerId d = layer := by
  have := List.find?_some h
  simp only [Bool.and_eq_true, decide_eq_true_eq] at this
  exact this.1

theorem exec_updateRoutineLaunch {s : State} {n : Nat} {j : Job} {r : StepRun} (h : Steps s n j r) {x : RoutineRun} {d : Bytes}
    (hd : j.layerDesc x.of = some d) : exec (.updateRoutineLaunch n x) s = .next (if j.holdsCores && r.updates d then
      (s.upsetRoutine n j (layerCores (s.imageOf n) x.of) x.upset).optimistic n j d r else s) := by
  obtain ⟨hj, hr, hm⟩ := h
  rw [show exec (.updateRoutineLaunch n x) s = execUpdateRoutineLaunch n x s from rfl, execUpdateRoutineLaunch, hj]
  dsimp only
  rw [hr, hd]
  simp [whenDue, hm]

theorem State.optimistic_atelier (s : State) (n : Nat) (j : Job) (d : Bytes) (r : StepRun) (a : Nat) :
    (s.optimistic n j d r).atelier a = (s.updateLayer n j d r.step r.k one32 ⟨true, true, false⟩).atelier a := State.onRun_atelier ..

/-- A layer updated optimistically with no fault: the run has the layer applied. -/
theorem State.optimistic_find {s : State} {n : Nat} {j : Job} {d : Bytes} {r : StepRun} (hj : SMap.find? s.jobs n = some j) (hr : j.run = some r)
    (hf : ((s.optimistic n j d r).atelier j.atelier).faulted = false) :
    ∃ k odd, j.Recounted k ∧ SMap.find? (s.optimistic n j d r).jobs n =
      some { k with run := some { r with applied := r.applied ++ [⟨layerId d, true⟩], nonfinite := r.nonfinite || odd } } := by
  rw [State.optimistic_atelier] at hf
  obtain ⟨k, hk, hjk⟩ := (s.updateLayer_spares n j j.atelier d r.step r.k one32 ⟨true, true, false⟩).job hf n j hj rfl
  exact ⟨k, _, hjk, State.onRun_find hk (hjk.run.trans hr) _⟩

theorem updateRoutineLaunch_applies {s : State} {n : Nat} {j : Job} {r : StepRun} {d : Bytes} {layer : Nat} (h : Steps s n j r)
    (hd : j.layerDesc layer = some d) (hu : r.updates d = true) (hc : j.holdsCores = true)
    (hf : ((s.optimistic n j d r).atelier j.atelier).faulted = false) :
    ∃ t, exec (.updateRoutineLaunch n ⟨layer, none⟩) s = .next t ∧ JobNow t n fun k => k.committed = j.committed ∧ ∃ q, k.run = some q ∧
      q.applied = r.applied ++ [⟨layer, true⟩] ∧ q.step = r.step ∧ q.outcome = r.outcome := by
  obtain ⟨k, odd, hjk, hk⟩ := State.optimistic_find h.listed h.run hf
  refine ⟨_, exec_updateRoutineLaunch h hd, ?_⟩
  rw [if_pos (by simp [hc, hu])]
  exact ⟨_, hk, hjk.committed, _, rfl, by rw [Job.layerDesc_layer hd], rfl, rfl⟩

/-- An uncorrectable error that the routine meets on a core of the layer faults the job's atelier. -/
theorem State.upsetRoutine_faults {s : State} {j : Job} {cores : List Nat} {k : Nat} (hk : cores.contains k = true) (hmay : MayFault s j.atelier)
    (n : Nat) : ((s.upsetRoutine n j cores (some k)).atelier j.atelier).faulted = true ∧
      ((s.upsetRoutine n j cores (some k)).atelier j.atelier).fcode = 0x0410 := by
  rw [State.upsetRoutine, Option.filter_some, if_pos hk]
  dsimp only
  rw [if_neg (by simp [hmay.sound])]
  exact State.routineHalt_faults hmay n k 0x26

theorem updateRoutineLaunch_faults {s : State} {n : Nat} {j : Job} {r : StepRun} {d : Bytes} {layer k : Nat} (h : Steps s n j r)
    (hd : j.layerDesc layer = some d) (hu : r.updates d = true) (hc : j.holdsCores = true)
    (hk : (layerCores (s.imageOf n) layer).contains k = true) (hmay : MayFault s j.atelier) :
    ∃ t, exec (.updateRoutineLaunch n ⟨layer, some k⟩) s = .next t ∧ (t.atelier j.atelier).faulted = true ∧ (t.atelier j.atelier).fcode = 0x0410 := by
  obtain ⟨hfaulted, hcode⟩ := State.upsetRoutine_faults hk hmay n
  refine ⟨_, exec_updateRoutineLaunch h hd, ?_⟩
  rw [if_pos (by simp [hc, hu]), State.optimistic_atelier, (State.updateLayer_spares ..).halted hfaulted]
  exact ⟨hfaulted, hcode⟩

/-! ### The seal's record (R216, R217) -/

theorem exec_sealRecordBuild {s : State} {n : Nat} {j : Job} {r : StepRun} (h : Steps s n j r) :
    exec (.sealRecordBuild n) s = .next (if s.recordDue n j r then s.buildRecord n j r else s) := by
  obtain ⟨hj, hr, hm⟩ := h
  rw [show exec (.sealRecordBuild n) s = execSealRecordBuild n s from rfl, execSealRecordBuild, hj]
  dsimp only
  rw [hr]
  simp [whenDue, hm]

theorem State.buildRecord_keeps {s : State} {n : Nat} {j : Job} {r : StepRun} (h : Steps s n j r) :
    (JobNow (s.buildRecord n j r) n fun k => ∃ q, k.run = some q ∧ q.built = some s.time ∧
      SMap.find? q.records (s.rankOf j s.gidx) = some (r.record s.gidx (s.stepPrint n r.step)) ∧ q.applied = r.applied) ∧
    SealsOnly s (s.buildRecord n j r) := by
  unfold State.buildRecord
  extract_lets rank rec_ counts s1 s2
  have hsent : SendsOnly s s1 := SendsOnly.foldl (fun _ _ => (State.sendGather_sendsOnly ..).trans (State.sendGather_sendsOnly ..)) _ s
  have hj1 : SMap.find? s1.jobs n = some j := by rw [hsent.aside.jobs, h.listed]
  obtain ⟨b, hb⟩ := State.bundleSeal_find (State.onRun_find hj1 h.run _) rfl
  refine ⟨⟨_, hb, _, rfl, rfl, ?_, rfl⟩, ?_⟩
  · exact (SMap.find?_put ..).trans (if_pos rfl)
  · exact hsent.sealsOnly.trans ((State.onRun_sealsOnly ..).trans (State.bundleSeal_sealsOnly ..))

/-- Settles O50, clause by clause in the order of a step: launch, counts, update, record. -/
theorem trainingSteps : Obligations.TrainingSteps := by
  unfold Obligations.TrainingSteps
  intro s n j
  refine ⟨?_, fun r => layerCountGather_gathers, fun r d layer => updateRoutineLaunch_applies, fun r d layer k => updateRoutineLaunch_faults, ?_, ?_, ?_⟩
  · intro hj hm hrun hres hsw hst hnone hlow
    exact stepLaunch_begins hj hm hrun hres hsw hst hnone hlow rfl
  · intro r d layer upset h hd hwaits
    rw [exec_updateRoutineLaunch h hd, if_neg (by rcases hwaits with hw | hw <;> simp [hw])]
  · intro r h hdue
    rw [exec_sealRecordBuild h, if_pos hdue]
    exact ⟨_, rfl, State.buildRecord_keeps h⟩
  · intro r h hdue
    rw [exec_sealRecordBuild h, if_neg (by simp [hdue])]

end Sys2Proof.Machine
end

section
/-!
PROOF. What the issue of a word is to its core, said once: the answer of its row, what each engine of a compute word may do at issue
(`Puts`), and what the generators' steps, the loop unit and a set-up leave alone.
-/
namespace Sys2Proof

/-! ### Number sets -/

theorem NatSet.mem_add {k x : Nat} : ∀ {s : NatSet}, x ∈ s.add k ↔ x = k ∨ x ∈ s
  | [] => by simp [NatSet.add]
  | j :: s => by
    unfold NatSet.add
    split
    · next h => simp [h]
    · split
      · simp
      · simp only [List.mem_cons, NatSet.mem_add (s := s)]
        tauto

theorem NatSet.mem_addAll {x : Nat} : ∀ {ks : List Nat} {s : NatSet}, x ∈ s.addAll ks ↔ x ∈ ks ∨ x ∈ s
  | [], s => by simp [NatSet.addAll]
  | k :: ks, s => by
    have ih := NatSet.mem_addAll (x := x) (ks := ks) (s := s.add k)
    rw [NatSet.addAll, List.foldl_cons, ← NatSet.addAll, ih, NatSet.mem_add, List.mem_cons]
    tauto

end Sys2Proof

namespace Sys2Proof.Machine

open Sys2Proof.Claims

/-! ### The answer of a word's row -/

/-- What a core's word does at its issue. -/
def issueAt (s : State) (n : Nat) : Issued := issueWord (s.env n) n (found s n)

/-- What a core sends out in a beat whose word issues: the reports that land as the beat starts, then what the word itself sends. -/
def sentAt (s : State) (n : Nat) : List Out := (startBeat (s.env n) (s.core n)).1.outs ++ (issueAt s n).outs

section
variable {i : Instr} {s : State} {n : Nat} {up : Bool} {names : Word256 → Bool}

theorem exec_of_issues (hw : wordOf i = some (n, up, names)) (hi : Issues s n up) (hn : names (wordAt s n) = true) :
    exec i s = .next (s.settleCore n ⟨(issueAt s n).core, sentAt s n⟩) :=
  (exec_of_wordOf hw s).trans (wordRow_issues hi.unit hi.token hi.early hi.ready hi.halts hn)

/-- To say what a word that issues gives, it is enough to say it of `issueAt` and `sentAt`. -/
theorem gives_of_issues (hw : wordOf i = some (n, up, names)) (hi : Issues s n up) (hn : names (wordAt s n) = true)
    {P : Core → List Out → Prop} (h : P (issueAt s n).core (sentAt s n)) : Gives s i n P :=
  ⟨_, _, exec_of_issues hw hi hn, h⟩

theorem found_beat (s : State) (n : Nat) : (found s n).beat = (s.core n).beat := (startBeat_alike _ _).beat

theorem found_running (hi : Issues s n up) : (found s n).run = .running := by
  have h := hi.ready
  unfold beatReady at h
  simp only [Bool.and_eq_true, decide_eq_true_eq] at h
  exact h.1.1
end

/-- The core once its word's operations have issued and its beat has ended, debugging aside (R74, R340). -/
def endedBeat (env : Env) (self : Nat) (w : Word256) (c : Core) : Core :=
  { finishBeat w (issueFormat env self w c).core with boundary := bounds w }

/-- A word that is no END issues its operations, then its beat ends (R73, R87). -/
theorem issueAt_of_not_end {s : State} {n : Nat} (h : isHalt 0 (wordAt s n) = false) :
    issueAt s n =
      let c := endedBeat (s.env n) n (wordAt s n) (found s n)
      ⟨if isHalt 1 (wordAt s n) && (s.env n).debugging then { c with run := .broken } else c,
        (issueFormat (s.env n) n (wordAt s n) (found s n)).outs⟩ := by
  unfold issueAt issueWord
  rw [show (found s n).word (found s n).pc = wordAt s n from rfl]
  simp only [h, Bool.false_eq_true, if_false]
  rfl

theorem not_halt_of_format {w : Word256} {k : Nat} (h : wordFormat w = k) (hk : k ≠ 4) (j : Nat) : isHalt j w = false := by
  simp [isHalt, h, hk]

/-! ### What an engine may do -/

/-- A core without what the engines of a compute word write at its issue (R76, R149): landings, pending-write bits, counts, the array,
staged lines and when the vector engine accepts. -/
def Core.sansEngines (c : Core) : Core :=
  { c with counters := [], pendLines := [], pendRows := [], pendSregs := [], flight := [], vectorFree := 0, array := ArrayState.empty, staged := [] }

/-- What an engine may do to its core at issue: the landings `ls` join what is in flight, pending-write bits are set, and every field
that is not an engine's stands. -/
structure Puts (ls : List Landing) (c d : Core) : Prop where
  frame : d.sansEngines = c.sansEngines
  flight : d.flight = c.flight ++ ls
  lines : ∀ k ∈ c.pendLines, k ∈ d.pendLines
  rows : ∀ k ∈ c.pendRows, k ∈ d.pendRows
  sregs : ∀ k ∈ c.pendSregs, k ∈ d.pendSregs

theorem Puts.refl (c : Core) : Puts [] c c := ⟨rfl, (List.append_nil _).symm, fun _ h => h, fun _ h => h, fun _ h => h⟩

theorem Puts.trans {ls ms : List Landing} {c d e : Core} (h : Puts ls c d) (k : Puts ms d e) : Puts (ls ++ ms) c e :=
  ⟨k.frame.trans h.frame, by rw [k.flight, h.flight, List.append_assoc], fun x hx => k.lines x (h.lines x hx),
    fun x hx => k.rows x (h.rows x hx), fun x hx => k.sregs x (h.sregs x hx)⟩

/-- An engine that puts nothing in flight, after one that does. -/
theorem Puts.trans_nil {ls : List Landing} {c d e : Core} (h : Puts ls c d) (k : Puts [] d e) : Puts ls c e :=
  List.append_nil ls ▸ h.trans k

/-- An engine after one that puts nothing in flight. -/
theorem Puts.nil_trans {ls : List Landing} {c d e : Core} (h : Puts [] c d) (k : Puts ls d e) : Puts ls c e := h.trans k

theorem Core.addEvents_puts (c : Core) (b : Bool) (k : Nat) (e : Events) : Puts [] c (c.addEvents b k e) := by
  unfold Core.addEvents
  split
  · exact ⟨rfl, (List.append_nil _).symm, fun _ h => h, fun _ h => h, fun _ h => h⟩
  · exact .refl c

theorem Core.array_puts (c : Core) (a : ArrayState) : Puts [] c { c with array := a } :=
  ⟨rfl, (List.append_nil _).symm, fun _ h => h, fun _ h => h, fun _ h => h⟩

theorem Core.vectorFree_puts (c : Core) (t : Nat) : Puts [] c { c with vectorFree := t } :=
  ⟨rfl, (List.append_nil _).symm, fun _ h => h, fun _ h => h, fun _ h => h⟩

theorem farStore_puts (i : Issued) (ls : List (Nat × Bytes)) : Puts [] i.core (i.farStore ls).core :=
  ⟨rfl, (List.append_nil _).symm, fun _ h => h, fun _ h => h, fun _ h => h⟩

theorem Core.fly_puts (c : Core) (ls : List Landing) : Puts ls c (c.fly ls) := ⟨rfl, rfl, fun _ h => h, fun _ h => h, fun _ h => h⟩

theorem Core.mark_puts (c : Core) (lines rows sregs : List Nat) : Puts [] c (c.mark lines rows sregs) :=
  ⟨rfl, (List.append_nil _).symm, fun _ h => NatSet.mem_addAll.mpr (.inr h), fun _ h => NatSet.mem_addAll.mpr (.inr h),
    fun _ h => NatSet.mem_addAll.mpr (.inr h)⟩

theorem Core.fly_mark_puts (c : Core) (ls : List Landing) (lines rows sregs : List Nat) : Puts ls c ((c.fly ls).mark lines rows sregs) :=
  (c.fly_puts ls).trans_nil (Core.mark_puts ..)

theorem Core.flyRows_puts (c : Core) (td due : Nat) (grouped : Bool) (rs : List RowOut) :
    Puts (rowLandings td due grouped rs) c (c.flyRows td due grouped rs) :=
  Core.fly_mark_puts ..

/-! ### The array's engines -/

/-- The landings of a write of `data` through generator `a` (R78, R91, R94): one in local memory, none where the line is far. -/
def lineLandings (c : Core) (w : Word256) (a due : Nat) (data : Bytes) : List Landing :=
  let x := c.access w a
  if x.far then [] else [⟨due, .locals ((List.range (data.length / 2)).map fun k => (x.slot k, slotOf data k))⟩]

theorem lineOut_puts (env : Env) (c0 : Core) (w : Word256) (a due : Nat) (data : Bytes) (i : Issued) :
    Puts (lineLandings c0 w a due data) i.core (i.lineOut env c0 w a due data).core := by
  unfold Issued.lineOut lineLandings
  dsimp only
  split
  · exact farStore_puts ..
  · exact Core.fly_mark_puts ..

/-- The beat at which a readout lands (R94). -/
def readoutDue (c : Core) (v : Variant) : Nat := c.beat + (if v = .none then 3 else 4)

/-- The landing of a readout's own scale codes (R181). -/
def codeLandings (env : Env) (c : Core) (w : Word256) (due : Nat) : List Landing :=
  match readoutCodes env c w with
  | none => []
  | some codes => if (c.access w (arrayField w).roDst).far then [] else [⟨due, .locals [((readoutStrip c w).1 + (readoutStrip c w).2, codes)]⟩]

/-- The landings of a readout in format `t` and variant `v` (R78, R94, R181). -/
def readoutLandings (env : Env) (c : Core) (w : Word256) (t : Fmt) (v : Variant) : List Landing :=
  lineLandings c w (arrayField w).roDst (readoutDue c v) (packElems t.width (readoutRow env c w).codes) ++ codeLandings env c w (readoutDue c v)

/-- A readout in format `t` and variant `v`, without its scale codes. -/
def readoutLine (env : Env) (c0 : Core) (w : Word256) (t : Fmt) (v : Variant) (i : Issued) : Issued :=
  let a := arrayField w
  Issued.lineOut env c0 w a.roDst (readoutDue c0 v) (packElems t.width (readoutRow env c0 w).codes)
    { i with core := i.core.addEvents a.count a.slot (readoutRow env c0 w).ev }

/-- A readout's far strip line with its scale codes in their place (R181). -/
def stripLine (env : Env) (c : Core) (w : Word256) (codes : Bytes) : Bytes :=
  let line := (env.read (readoutStrip c w).1).bytes
  let off := (readoutStrip c w).2
  slice line 0 off ++ codes ++ slice line (off + codes.length) (64 - off - codes.length)

/-- A readout is its line's write, and its codes' where it has any of its own. -/
theorem issueReadout_eq {env : Env} {c0 : Core} {w : Word256} {t : Fmt} {v : Variant}
    (h : fmtVar (arrayField w).roFmt (arrayField w).roVar = some (t, v)) (i : Issued) :
    issueReadout env c0 w i =
      let i1 := readoutLine env c0 w t v i
      match readoutCodes env c0 w with
      | none => i1
      | some codes =>
        if (c0.access w (arrayField w).roDst).far then i1.farStore [((readoutStrip c0 w).1, stripLine env c0 w codes)]
        else
          let own : Landing := ⟨readoutDue c0 v, .locals [((readoutStrip c0 w).1 + (readoutStrip c0 w).2, codes)]⟩
          { i1 with core := (i1.core.fly [own]).mark [(readoutStrip c0 w).1 / 64] [] [] } := by
  unfold issueReadout
  simp only [h]
  rfl

theorem issueReadout_none {env : Env} {c0 : Core} {w : Word256} (h : fmtVar (arrayField w).roFmt (arrayField w).roVar = none) (i : Issued) :
    issueReadout env c0 w i = i := by
  unfold issueReadout
  simp only [h]

theorem readoutLine_puts (env : Env) (c0 : Core) (w : Word256) (t : Fmt) (v : Variant) (i : Issued) :
    Puts (lineLandings c0 w (arrayField w).roDst (readoutDue c0 v) (packElems t.width (readoutRow env c0 w).codes)) i.core
      (readoutLine env c0 w t v i).core :=
  (Core.addEvents_puts i.core _ _ _).nil_trans (lineOut_puts env c0 w _ _ _ { i with core := _ })

theorem issueReadout_puts {env : Env} {c0 : Core} {w : Word256} {t : Fmt} {v : Variant}
    (h : fmtVar (arrayField w).roFmt (arrayField w).roVar = some (t, v)) (i : Issued) :
    Puts (readoutLandings env c0 w t v) i.core (issueReadout env c0 w i).core := by
  have hline := readoutLine_puts env c0 w t v i
  rw [issueReadout_eq h]
  unfold readoutLandings codeLandings
  dsimp only
  split
  · exact hline.trans (.refl _)
  · split
    · exact hline.trans (farStore_puts ..)
    · exact hline.trans (Core.fly_mark_puts ..)

theorem issueWash_puts (c0 : Core) (w : Word256) (c : Core) : Puts [] c (issueWash c0 w c) := by
  unfold issueWash
  dsimp only
  split
  · exact .refl c
  · exact (Core.array_puts ..).nil_trans (Core.addEvents_puts ..)

/-- A token of pair (p, q) puts in flight a landing for each accumulator line that takes one of its values (R132 to R134). -/
theorem issueToken_eq {c0 : Core} {w : Word256} {p q : Fmt × Variant} (hp : fmtVar (arrayField w).sfmt (arrayField w).svar = some p)
    (hq : fmtVar (arrayField w).tfmt (arrayField w).tvar = some q) (c : Core) :
    ∃ (sums : List (Nat × Nat)) (rows : Nat) (ev : Events) (lines : List Nat) (arr : ArrayState),
      sums.map (·.1) = (tokenRun c0.array p q).values.map (·.1) ∧
      issueToken c0 w c = { (c.fly (tokenLandings c0 (arrayField w) ((c0.access w (arrayField w).accAg).cur / 64 * 64) (tokenRun c0.array p q)
        (outputs c0.array.kind.shape c0.array.kind.transposed p.1) rows sums ev)).mark lines [] [] with array := arr } := by
  unfold issueToken
  simp only [hp, hq]
  exact ⟨_, _, _, _, _, by simp only [List.map_map, Function.comp_def]; rfl, rfl⟩

theorem tokenLandings_effect {c : Core} {a : ArrayField} {base : Nat} {k : TokenRun} {o rows : Nat} {vals : List (Nat × Nat)} {ev : Events}
    {l : Landing} (hl : l ∈ tokenLandings c a base k o rows vals ev) :
    ∃ m ∈ vals.map (·.1), ∃ init int vs slot ev', l.effect = .acc (base / 64 + m / 16) init int vs slot ev' := by
  unfold tokenLandings at hl
  obtain ⟨n, hn, rfl⟩ := List.mem_map.mp hl
  obtain ⟨p, hp, rfl⟩ := List.mem_map.mp ((NatSet.mem_addAll.mp hn).resolve_right List.not_mem_nil)
  exact ⟨p.1, List.mem_map_of_mem hp, _, _, _, _, _, rfl⟩

/-- A token word puts in flight landings on the lines of its pair's values, or nothing where a format is reserved. -/
theorem issueToken_puts (c0 : Core) (w : Word256) (c : Core) : ∃ ls, Puts ls c (issueToken c0 w c) ∧
    ∀ l ∈ ls, ∃ p q, fmtVar (arrayField w).sfmt (arrayField w).svar = some p ∧ fmtVar (arrayField w).tfmt (arrayField w).tvar = some q ∧
      ∃ y ∈ (tokenRun c0.array p q).values, ∃ init int vs slot ev,
        l.effect = .acc ((c0.access w (arrayField w).accAg).cur / 64 + y.1 / 16) init int vs slot ev := by
  rcases hp : fmtVar (arrayField w).sfmt (arrayField w).svar with _ | p
  · exact ⟨[], by simp only [issueToken, hp]; exact .refl c, by simp⟩
  rcases hq : fmtVar (arrayField w).tfmt (arrayField w).tvar with _ | q
  · exact ⟨[], by simp only [issueToken, hp, hq]; exact .refl c, by simp⟩
  obtain ⟨sums, rows, ev, lines, arr, hsums, heq⟩ := issueToken_eq (c0 := c0) hp hq c
  refine ⟨_, heq ▸ (Core.fly_mark_puts ..).trans_nil (Core.array_puts ..), fun l hl => ⟨p, q, rfl, rfl, ?_⟩⟩
  obtain ⟨m, hm, rest⟩ := tokenLandings_effect hl
  obtain ⟨y, hy, rfl⟩ := List.mem_map.mp (hsums ▸ hm)
  rw [Nat.mul_div_cancel _ (by decide)] at rest
  exact ⟨y, hy, rest⟩

/-! ### The vector engine -/

/-- Where a vector operation's landing goes: rows of its tile register, each run within the register, or the line of an ST or STS. -/
def VectorLanding (c : Core) (w : Word256) (l : Landing) : Prop :=
  let v := vectorField w
  (∃ (due : Nat) (grouped : Bool) (rs : List RowOut), (∀ r ∈ rs, r.off < 128) ∧ l ∈ rowLandings v.td due grouped rs) ∨
  ((v.vop = 0x02 ∨ v.vop = 0x05) ∧ ∃ (due : Nat) (data : Bytes), data.length = 64 ∧ l ∈ lineLandings c w v.agD due data)

theorem slice_length (bs : Bytes) (off n : Nat) : (slice bs off n).length = n := by
  unfold slice
  simp only [List.length_append, List.length_replicate, List.length_take]
  omega

theorem padTo_length (n : Nat) (bs : Bytes) : (padTo n bs).length = n := slice_length bs 0 n

theorem rowsOf_off {w : Nat} {es : List Nat} {r : RowOut} (hr : r ∈ rowsOf w es) : r.off < 128 := by
  unfold rowsOf at hr
  obtain ⟨p, _, rfl⟩ := List.mem_map.mp hr
  exact Nat.zero_lt_succ _

theorem convertTile_off {env : Env} {c : Core} {v : VectorField} {scl : Bool} {r : RowOut} (hr : r ∈ (convertTile env c v scl).rows) :
    r.off < 128 := by
  unfold convertTile at hr
  split at hr
  · dsimp only at hr
    split at hr <;> obtain ⟨p, _, rfl⟩ := List.mem_map.mp hr <;> dsimp only <;> decide
  · cases hr

/-- Every run of a tile operation's result lies within its row. -/
theorem tileOp_off {env : Env} {c : Core} {v : VectorField} {cl : VClass} {r : RowOut} (hr : r ∈ (tileOp env c v cl).rows) : r.off < 128 := by
  have hfold {column : Bool} (hr : r ∈ (reduceTile c v column).rows) : r.off < 128 := by
    cases List.mem_singleton.mp hr
    exact Nat.zero_lt_succ _
  cases cl with
  | line => cases hr
  | e => exact rowsOf_off hr
  | c =>
    dsimp only [tileOp] at hr
    split at hr <;> exact convertTile_off hr
  | r => exact hfold hr
  | k => exact hfold hr
  | x => exact rowsOf_off hr
  | s => exact rowsOf_off hr
  | h =>
    dsimp only [tileOp] at hr
    split at hr <;> exact rowsOf_off hr

theorem issueVector_puts (env : Env) (c0 : Core) (w : Word256) (i : Issued) :
    ∃ ls, Puts ls i.core (issueVector env c0 w i).core ∧ ∀ l ∈ ls, VectorLanding c0 w l := by
  have hrows {due : Nat} {grouped : Bool} {rs : List RowOut} (h : ∀ r ∈ rs, r.off < 128) :
      ∀ l ∈ rowLandings (vectorField w).td due grouped rs, VectorLanding c0 w l := fun l hl => .inl ⟨due, grouped, rs, h, hl⟩
  have hhalf : 64 * (vectorField w).half < 128 := by
    have : (vectorField w).half < 2 ^ 1 := BitVec.isLt _
    omega
  unfold issueVector
  dsimp only
  split
  · exact ⟨[], .refl _, by simp⟩
  · split
    · exact ⟨_, Core.flyRows_puts .., hrows (by simp [hhalf])⟩
    · next h => exact ⟨_, lineOut_puts .., fun l hl => .inr ⟨.inl h, _, _, Memory.readBytes_length .., hl⟩⟩
    · exact ⟨_, Core.flyRows_puts .., hrows (by simp [hhalf])⟩
    · exact ⟨_, Core.flyRows_puts .., hrows (by simp)⟩
    · next h => exact ⟨_, lineOut_puts .., fun l hl => .inr ⟨.inr h, _, _, padTo_length .., hl⟩⟩
    · exact ⟨[], .refl _, by simp⟩
  · next cl _ _ =>
    exact ⟨_, ((Core.addEvents_puts i.core _ _ _).nil_trans (Core.flyRows_puts ..)).trans_nil (Core.vectorFree_puts ..),
      hrows fun r hr => tileOp_off hr⟩

/-! ### The scalar lane and triggers -/

/-- Where a scalar operation's landing goes: its register, the 8 bytes an ST addresses, or the generator an MVG names (R163 to R165). -/
def ScalarLanding (c : Core) (w : Word256) (l : Landing) : Prop :=
  let f := scalarField w
  (∃ v, l.effect = .sreg f.sd v) ∨ (f.sop = 0x19 ∧ l.effect = .locals [(c.scalarAddr f, leBytes 8 (c.sreg f.sd).toNat)]) ∨
  ∃ fld v, l.effect = .gen (f.sd % 4) fld v

theorem issueScalar_puts (c0 : Core) (w : Word256) (c : Core) :
    ∃ ls, Puts ls c (issueScalar c0 w c) ∧ ∀ l ∈ ls, ScalarLanding c0 w l := by
  unfold issueScalar
  dsimp only
  split
  · exact ⟨_, Core.fly_mark_puts .., by simp [ScalarLanding]⟩
  · split
    · exact ⟨_, Core.fly_mark_puts .., by simp [ScalarLanding]⟩
    · next h => exact ⟨_, Core.fly_mark_puts .., by simp [ScalarLanding, h]⟩
    · exact ⟨_, Core.fly_puts .., by simp [ScalarLanding]⟩
    · exact ⟨[], .refl c, by simp⟩

theorem issueTrigger_puts (c0 : Core) (w : Word256) (c : Core) : ∃ ls, Puts ls c (issueTrigger c0 w c) ∧
    ∀ l ∈ ls, ∃ desc keep since addr, l.effect = .report (loopField w).cslot desc keep since addr := by
  unfold issueTrigger
  dsimp only
  split
  · exact ⟨_, Core.fly_puts .., List.forall_mem_singleton.mpr ⟨_, _, _, _, rfl⟩⟩
  · exact ⟨[], .refl c, by simp⟩

/-! ### A compute word -/

/-- The core after a compute word's readout. -/
def afterReadout (env : Env) (w : Word256) (c : Core) : Issued :=
  if (arrayField w).roEn then issueReadout env c w ⟨c, []⟩ else ⟨c, []⟩

/-- The core after a compute word's readout, and its wash or token. -/
def afterArray (env : Env) (w : Word256) (c : Core) : Issued :=
  let a := arrayField w
  let i := afterReadout env w c
  { i with core := if a.aop = 3 || a.aop = 4 then issueWash c w i.core else if a.aop = 1 || a.aop = 2 then issueToken c w i.core else i.core }

/-- The core after a compute word's array and vector operations. -/
def afterVector (env : Env) (w : Word256) (c : Core) : Issued := issueVector env c w (afterArray env w c)

/-- A compute word's engines, one after the other (R76). -/
theorem issueCompute_eq (env : Env) (w : Word256) (c : Core) :
    issueCompute env w c =
      let i := afterVector env w c
      { i with core := if (loopField w).coll then issueTrigger c w (issueScalar c w i.core) else issueScalar c w i.core } := rfl

/-- Where a readout's landing goes. -/
def ReadoutLanding (env : Env) (c : Core) (w : Word256) (l : Landing) : Prop :=
  (arrayField w).roEn = true ∧ ∃ t v, fmtVar (arrayField w).roFmt (arrayField w).roVar = some (t, v) ∧ l ∈ readoutLandings env c w t v

/-- Where a token's landing goes. -/
def TokenLanding (c : Core) (w : Word256) (l : Landing) : Prop :=
  ((arrayField w).aop = 1 ∨ (arrayField w).aop = 2) ∧
    ∃ p q, fmtVar (arrayField w).sfmt (arrayField w).svar = some p ∧ fmtVar (arrayField w).tfmt (arrayField w).tvar = some q ∧
      ∃ y ∈ (tokenRun c.array p q).values, ∃ init int vs slot ev,
        l.effect = .acc ((c.access w (arrayField w).accAg).cur / 64 + y.1 / 16) init int vs slot ev

theorem afterReadout_puts (env : Env) (w : Word256) (c : Core) :
    ∃ ls, Puts ls c (afterReadout env w c).core ∧ ∀ l ∈ ls, ReadoutLanding env c w l := by
  unfold afterReadout
  split
  · next h =>
    rcases hf : fmtVar (arrayField w).roFmt (arrayField w).roVar with _ | ⟨t, v⟩
    · exact ⟨[], by rw [issueReadout_none hf]; exact .refl c, by simp⟩
    · exact ⟨_, issueReadout_puts hf ⟨c, []⟩, fun l hl => ⟨h, t, v, hf, hl⟩⟩
  · exact ⟨[], .refl c, by simp⟩

/-- A compute word's wash or token, whatever stands in flight before it. -/
theorem afterArray_puts (env : Env) (w : Word256) (c : Core) :
    ∃ ls, Puts ls (afterReadout env w c).core (afterArray env w c).core ∧ ∀ l ∈ ls, TokenLanding c w l := by
  unfold afterArray
  dsimp only
  split
  · exact ⟨[], issueWash_puts .., by simp⟩
  · split
    · next h =>
      obtain ⟨ls, hputs, hls⟩ := issueToken_puts c w (afterReadout env w c).core
      exact ⟨ls, hputs, fun l hl => ⟨by simpa using h, hls l hl⟩⟩
    · exact ⟨[], .refl _, by simp⟩

theorem afterVector_puts (env : Env) (w : Word256) (c : Core) :
    ∃ ls, Puts ls (afterArray env w c).core (afterVector env w c).core ∧ ∀ l ∈ ls, VectorLanding c w l := issueVector_puts ..

/-- Where a trigger's landing goes. -/
def TriggerLanding (w : Word256) (l : Landing) : Prop := ∃ desc keep since addr, l.effect = .report (loopField w).cslot desc keep since addr

/-- The last engines: the scalar lane, and the trigger. -/
theorem issueCompute_puts_last (env : Env) (w : Word256) (c : Core) : ∃ ls, Puts ls (afterVector env w c).core (issueCompute env w c).core ∧
    ∀ l ∈ ls, ScalarLanding c w l ∨ TriggerLanding w l := by
  obtain ⟨ls, hputs, hls⟩ := issueScalar_puts c w (afterVector env w c).core
  rw [issueCompute_eq]
  dsimp only
  split
  · obtain ⟨ms, hputs', hms⟩ := issueTrigger_puts c w (issueScalar c w (afterVector env w c).core)
    refine ⟨ls ++ ms, hputs.trans hputs', fun l hl => (List.mem_append.mp hl).imp (hls l) (hms l)⟩
  · exact ⟨ls, hputs, fun l hl => .inl (hls l hl)⟩

/-- Everything a compute word puts in flight is a landing of one of its operations (R76, R78, R149). -/
theorem issueCompute_puts (env : Env) (w : Word256) (c : Core) : ∃ ls, Puts ls c (issueCompute env w c).core ∧
    ∀ l ∈ ls, ReadoutLanding env c w l ∨ TokenLanding c w l ∨ VectorLanding c w l ∨ ScalarLanding c w l ∨ TriggerLanding w l := by
  obtain ⟨l1, h1, k1⟩ := afterReadout_puts env w c
  obtain ⟨l2, h2, k2⟩ := afterArray_puts env w c
  obtain ⟨l3, h3, k3⟩ := afterVector_puts env w c
  obtain ⟨l4, h4, k4⟩ := issueCompute_puts_last env w c
  refine ⟨_, h1.trans (h2.trans (h3.trans h4)), fun l hl => ?_⟩
  rcases List.mem_append.mp hl with hl | hl
  · exact .inl (k1 l hl)
  rcases List.mem_append.mp hl with hl | hl
  · exact .inr (.inl (k2 l hl))
  rcases List.mem_append.mp hl with hl | hl
  · exact .inr (.inr (.inl (k3 l hl)))
  · exact .inr (.inr (.inr (k4 l hl)))

theorem issueCompute_frame (env : Env) (w : Word256) (c : Core) : (issueCompute env w c).core.sansEngines = c.sansEngines := by
  obtain ⟨_, h, _⟩ := issueCompute_puts env w c
  exact h.frame

/-! ### The rest of a beat -/

/-- What every step of a fold over cores keeps, the fold keeps. -/
theorem Core.foldl_keeps {α β : Type} (p : Core → β) {f : Core → α → Core} (hf : ∀ c x, p (f c x) = p c) (l : List α) (c : Core) :
    p (l.foldl f c) = p c :=
  List.foldlRecOn (motive := fun d => p d = p c) l f rfl fun d h x _ => (hf d x).trans h

/-- A core without its generators. -/
def Core.sansGens (c : Core) : Core := { c with gens := [] }

/-- A core without what the loop unit writes (R88). -/
def Core.sansLoop (c : Core) : Core := { c with pc := 0, gens := [], levels := [], staged := [] }

/-- A core without what any word's operations write at its issue: the engines' fields, the generators, and what messages and bindings
write. -/
def Core.sansIssue (c : Core) : Core := { c.sansEngines with gens := [], mem := [], binds := [], windows := [], holding := [], sends := [] }

/-- A core without what the end of a beat writes: the loop unit's fields, a set-up's, the beat counter and the boundary mark. -/
def Core.sansEnd (c : Core) : Core := { c.sansLoop with beat := 0, streams := [], sregs := [], boundary := false }

theorem stepGens_frame (w : Word256) (c : Core) : (stepGens w c).sansGens = c.sansGens := by
  refine Core.foldl_keeps Core.sansGens (fun c a => ?_) _ c
  dsimp only
  split <;> rfl

theorem issueMessage_frame (self : Nat) (w : Word256) (c : Core) : (issueMessage self w c).core.sansIssue = c.sansIssue := by
  unfold issueMessage
  split
  · rfl
  · dsimp only [messagePost]
    split <;> rfl
  · dsimp only [messageWaitRecv]
    split <;> rfl
  · rfl

theorem issueMessage_gens (self : Nat) (w : Word256) (c : Core) : (issueMessage self w c).core.gens = c.gens := by
  unfold issueMessage
  split
  · rfl
  · dsimp only [messagePost]
    split <;> rfl
  · dsimp only [messageWaitRecv]
    split <;> rfl
  · rfl

theorem issueBind_frame (w : Word256) (c : Core) : (issueBind w c).sansIssue = c.sansIssue := by
  unfold issueBind
  split <;> rfl

theorem issueBind_gens (w : Word256) (c : Core) : (issueBind w c).gens = c.gens := by
  unfold issueBind
  split <;> rfl

/-- A word's operations leave the program counter, the beat, the levels and the registers as they are. -/
theorem issueFormat_frame (env : Env) (self : Nat) (w : Word256) (c : Core) : (issueFormat env self w c).core.sansIssue = c.sansIssue := by
  have hgens {d e : Core} (h : d.sansGens = e.sansGens) : d.sansIssue = e.sansIssue := (congrArg Core.sansIssue h :)
  have hengines {d e : Core} (h : d.sansEngines = e.sansEngines) : d.sansIssue = e.sansIssue := (congrArg Core.sansIssue h :)
  unfold issueFormat
  split
  · exact (hgens (stepGens_frame ..)).trans (hengines (issueCompute_frame ..))
  · exact (hgens (stepGens_frame ..)).trans (issueMessage_frame ..)
  · exact issueBind_frame ..
  · rfl

theorem takeExit_frame (w : Word256) (c : Core) : (takeExit w c).sansLoop = c.sansLoop :=
  Core.foldl_keeps Core.sansLoop (f := fun c k => c.setLevel k { c.level k with active := false }) (fun _ _ => rfl) _ c

theorem endLevels_frame (w : Word256) (below : Nat) (c : Core) : (endLevels w below c).sansLoop = c.sansLoop := by
  refine Core.foldl_keeps Core.sansLoop (fun c k => ?_) _ c
  split <;> rfl

theorem repeatLevel_frame (k : Nat) (c : Core) : (repeatLevel k c).sansLoop = c.sansLoop :=
  Core.foldl_keeps Core.sansLoop (f := fun d a => d.setGen a ((d.gen a).move (SMap.get 0 (c.level k).incs a))) (fun _ _ => rfl) _
    (c.setLevel k _)

theorem applyLoop_frame (w : Word256) (c : Core) : (applyLoop w c).sansLoop = c.sansLoop := by
  have hpc (d : Core) (h : d.sansLoop = c.sansLoop) : { d with pc := nextPc c w }.sansLoop = c.sansLoop := h
  refine hpc _ ?_
  split
  · exact takeExit_frame ..
  · split
    · exact (repeatLevel_frame ..).trans (endLevels_frame ..)
    · exact endLevels_frame ..

theorem applySetup_frame (w : Word256) (c : Core) :
    { applySetup w c with gens := [], levels := [], streams := [], sregs := [] } = { c with gens := [], levels := [], streams := [], sregs := [] } := by
  unfold applySetup
  split <;> rfl

theorem finishBeat_frame (w : Word256) (c : Core) : (finishBeat w c).sansEnd = c.sansEnd := by
  have hloop : (applyLoop w c).sansEnd = c.sansEnd := (congrArg Core.sansEnd (applyLoop_frame w c) :)
  unfold finishBeat
  dsimp only
  split
  · exact (congrArg Core.sansEnd (applySetup_frame w (applyLoop w c))).trans hloop
  · exact hloop

theorem finishBeat_pc (w : Word256) (c : Core) : (finishBeat w c).pc = nextPc c w := by
  unfold finishBeat
  dsimp only
  split
  · exact congrArg Core.pc (applySetup_frame w (applyLoop w c))
  · rfl

theorem repeats_congr {c d : Core} (h : d.levels = c.levels) (w : Word256) : ∀ n k, repeats d w n k = repeats c w n k
  | 0, _ => rfl
  | n + 1, k => by
    have hlevel : d.level k = c.level k := congrArg (SMap.get Level.zero · k) h
    rw [repeats, repeats, hlevel, repeats_congr h w n]

theorem exitTaken_congr {c d : Core} (h : d.sregs = c.sregs) (w : Word256) : exitTaken d w = exitTaken c w := by
  simp only [exitTaken, Core.sreg, h]

section
variable (env : Env) (self : Nat) (w : Word256) (c : Core)

/-! What stands of a core through the issue of a word's operations. -/

theorem issueFormat_levels : (issueFormat env self w c).core.levels = c.levels := (congrArg Core.levels (issueFormat_frame env self w c) :)
theorem issueFormat_sregs : (issueFormat env self w c).core.sregs = c.sregs := (congrArg Core.sregs (issueFormat_frame env self w c) :)
theorem issueFormat_beat : (issueFormat env self w c).core.beat = c.beat := (congrArg Core.beat (issueFormat_frame env self w c) :)
theorem issueFormat_pc : (issueFormat env self w c).core.pc = c.pc := (congrArg Core.pc (issueFormat_frame env self w c) :)
theorem issueFormat_level (k : Nat) : (issueFormat env self w c).core.level k = c.level k :=
  congrArg (SMap.get Level.zero · k) (issueFormat_levels ..)
theorem issueFormat_repeats (n k : Nat) : repeats (issueFormat env self w c).core w n k = repeats c w n k :=
  repeats_congr (issueFormat_levels ..) w n k
theorem issueFormat_exitTaken : exitTaken (issueFormat env self w c).core w = exitTaken c w := exitTaken_congr (issueFormat_sregs ..) w
theorem issueFormat_nextPc : nextPc (issueFormat env self w c).core w = nextPc c w := by
  simp only [nextPc, issueFormat_exitTaken, issueFormat_repeats, issueFormat_level, issueFormat_pc]

/-! What a core is at the end of its beat. -/

theorem endedBeat_pc : (endedBeat env self w c).pc = nextPc c w := (finishBeat_pc ..).trans (issueFormat_nextPc ..)
theorem endedBeat_beat : (endedBeat env self w c).beat = c.beat + 1 := congrArg (· + 1) (issueFormat_beat env self w c)

/-- The end of the beat leaves what the operations have made of the other fields. -/
theorem endedBeat_frame : (endedBeat env self w c).sansEnd = (issueFormat env self w c).core.sansEnd := finishBeat_frame ..

/-- Besides what operations and the beat's end write, a core stands. -/
theorem endedBeat_sansIssue : (endedBeat env self w c).sansIssue.sansEnd = c.sansIssue.sansEnd :=
  (congrArg Core.sansIssue (endedBeat_frame env self w c)).trans (congrArg Core.sansEnd (issueFormat_frame env self w c))
end

/-- A core without what the beat of a compute word writes. -/
def Core.sansCompute (c : Core) : Core := { c.sansEngines.sansLoop with beat := 0, boundary := false }

theorem issueFormat_compute {w : Word256} (h : wordFormat w = 0) (env : Env) (self : Nat) (c : Core) :
    issueFormat env self w c = { issueCompute env w c with core := stepGens w (issueCompute env w c).core } := by
  simp only [issueFormat, h]

theorem finishBeat_of_not_setup {w : Word256} (h : wordFormat w ≠ 1) (c : Core) :
    finishBeat w c = { applyLoop w c with staged := (applyLoop w c).staged.filter fun g => c.beat < g.beat, beat := c.beat + 1 } := by
  simp only [finishBeat, h, if_false]

/-- Through the beat of a compute word every field stands but the engines', the loop unit's, the beat and the boundary mark. -/
theorem endedBeat_compute {w : Word256} (h : wordFormat w = 0) (env : Env) (self : Nat) (c : Core) :
    (endedBeat env self w c).sansCompute = c.sansCompute := by
  have hissue : (issueFormat env self w c).core.sansCompute = c.sansCompute := by
    rw [issueFormat_compute h]
    exact (congrArg Core.sansCompute (stepGens_frame w (issueCompute env w c).core) :).trans
      (congrArg Core.sansCompute (issueCompute_frame env w c) :)
  refine Eq.trans ?_ hissue
  unfold endedBeat
  rw [finishBeat_of_not_setup (by rw [h]; decide)]
  exact (congrArg Core.sansCompute (applyLoop_frame w (issueFormat env self w c).core) :)

/-- What a word that is no END gives: a core as its beat has ended, whose run state BREAK may have changed, and what the word sends. -/
theorem gives_of_not_end {i : Instr} {s : State} {n : Nat} {up : Bool} {names : Word256 → Bool} (hw : wordOf i = some (n, up, names))
    (hi : Issues s n up) (hn : names (wordAt s n) = true) (hend : isHalt 0 (wordAt s n) = false) {P : Core → List Out → Prop}
    (h : ∀ r, P { endedBeat (s.env n) n (wordAt s n) (found s n) with run := r }
      ((startBeat (s.env n) (s.core n)).1.outs ++ (issueFormat (s.env n) n (wordAt s n) (found s n)).outs)) : Gives s i n P := by
  refine gives_of_issues hw hi hn ?_
  unfold sentAt
  rw [issueAt_of_not_end hend]
  dsimp only
  split
  · exact h .broken
  · exact h _

/-- What no word's operations write and no beat's end. -/
theorem Core.stands_of_frame {c d : Core} (h : d.sansIssue.sansEnd = c.sansIssue.sansEnd) :
    d.run = c.run ∧ d.epoch = c.epoch ∧ d.words = c.words :=
  ⟨(congrArg Core.run h :), (congrArg Core.epoch h :), (congrArg Core.words h :)⟩

/-- What no compute word's beat writes. -/
theorem Core.stands_of_compute {c d : Core} (h : d.sansCompute = c.sansCompute) :
    d.sregs = c.sregs ∧ d.tiles = c.tiles ∧ d.mem = c.mem :=
  ⟨(congrArg Core.sregs h :), (congrArg Core.tiles h :), (congrArg Core.mem h :)⟩

/-- Settles O7: the beat's end gives the next word and the beat (`endedBeat_pc`, `endedBeat_beat`), the frames the rest. -/
theorem wordIssues : Obligations.WordIssues := by
  intro i s n up names hw hi hn hend
  obtain ⟨-, hepoch, hwords⟩ := Core.stands_of_frame (endedBeat_sansIssue (s.env n) n (wordAt s n) (found s n))
  refine gives_of_not_end hw hi hn hend fun r => ?_
  dsimp only
  exact ⟨endedBeat_pc .., endedBeat_beat .., hepoch, hwords, fun h0 => Core.stands_of_compute (endedBeat_compute h0 ..)⟩

/-! ### Halts and beats that lengthen -/

theorem landUpTo_words (env : Env) (t fuel : Nat) (i : Issued) : (landUpTo env t fuel i).core.words = i.core.words :=
  (landUpTo_alike env t fuel i).words

theorem haltCore_words (env : Env) (addr reason beat : Nat) (i : Issued) : (haltCore env addr reason beat i).core.words = i.core.words :=
  landUpTo_words ..

theorem State.retireFor_of_other {s : State} {n : Nat} {up : Bool} (h : listMin 0 (reasons (s.env n) (found s n) up) ≠ 0x25) :
    s.retireFor n up = s := if_neg h

theorem State.retireFor_of_retired {s : State} {n : Nat} {up : Bool} (h : listMin 0 (reasons (s.env n) (found s n) up) = 0x25) :
    s.retireFor n up = (s.retiredBy n up).foldl State.endRekey s := if_pos h

theorem exec_of_halts {i : Instr} {s : State} {n : Nat} {up : Bool} {names : Word256 → Bool} (hw : wordOf i = some (n, up, names))
    (hh : Halts s n up) (hn : names (wordAt s n) = true) :
    exec i s = .next ((s.retireFor n up).settleCore n (haltCore (s.env n) (found s n).pc
      (listMin 0 (reasons (s.env n) (found s n) up)) (s.core n).beat (startBeat (s.env n) (s.core n)).1)) :=
  (exec_of_wordOf hw s).trans (wordRow_halts hh.unit hh.token hh.early hh.ready hh.halts hn)

/-- Settles O8: the row's answer is `exec_of_halts`; `haltCore` ends in the stop. -/
theorem wordHalts : Obligations.WordHalts := by
  intro i s n up names hw hh hn
  dsimp only
  refine ⟨s.retireFor n up, _, _, exec_of_halts hw hh hn, rfl, State.retireFor_of_other, State.retireFor_of_retired, rfl, rfl, ?_, ?_⟩
  · exact haltCore_words ..
  · exact List.getLast?_concat

/-- A beat without a launch token, or that waits, leaves everything as it is (R73). -/
theorem wordRow_of_no_beat {s : State} {n : Nat} {up : Bool} {names : Word256 → Bool} (hn : n < 10368)
    (h : s.tokened n = false ∨ s.beatOf n up = s) : wordRow n up s names = .next s := by
  unfold wordRow onUnit whenDue
  rw [if_pos hn]
  obtain h | h := h
  · simp [h]
  · rw [h, ite_self]

theorem beatOf_of_not_ready {s : State} {n : Nat} {up : Bool} (he : (startBeat (s.env n) (s.core n)).2 = none)
    (hr : beatReady (s.env n) (found s n) up = false) : s.beatOf n up = s := by
  have hbeat : beat (s.env n) n up (s.core n) = none := by
    unfold beat
    rw [show startBeat (s.env n) (s.core n) = ((startBeat (s.env n) (s.core n)).1, (startBeat (s.env n) (s.core n)).2) from rfl, he]
    dsimp only
    rw [show beatReady (s.env n) (startBeat (s.env n) (s.core n)).1.core up = false from hr]
    rfl
  rw [State.beatOf, hbeat]

end Sys2Proof.Machine
end

section
/-!
PROOF. Commands on one core that are no words (O3, O9, O23, O24, O36): the launch, what lands, messages on their way, run-ahead and the
lines it stages, the chunk packer; and what the model answers for a core the module does not have.
-/
namespace Sys2Proof

/-- A table after a run of writes, each of the value that `f` gives its key. -/
theorem SMap.get_foldl_set {α : Type} [DecidableEq α] (d : α) (f : Nat → α) (i : Nat) : ∀ (ks : List Nat) (m : SMap α),
    SMap.get d (ks.foldl (fun m k => SMap.set d m k (f k)) m) i = if i ∈ ks then f i else SMap.get d m i
  | [], m => by simp
  | k :: ks, m => by
    rw [List.foldl_cons, SMap.get_foldl_set d f i ks, SMap.get_set]
    by_cases hi : i = k
    · simp [hi]
    · simp [hi]

/-- A byte string written by one run of writes reads back. -/
theorem Memory.read_writeBytes_inside (m : Memory) (a : Nat) (bs : Bytes) {k : Nat} (hk : k < bs.length) :
    (m.writeBytes a bs).read (a + k) = bs.getD k 0 := by
  rw [Memory.read_writeBytes, if_pos (by omega), Nat.add_sub_cancel_left]
  rfl

theorem NatSet.not_mem_drop (s : NatSet) (k : Nat) : k ∉ s.drop k := by simp [NatSet.drop]

theorem NatSet.not_mem_dropAll {s : NatSet} {ks : List Nat} {k : Nat} (h : k ∈ ks) : k ∉ s.dropAll ks := by simp [NatSet.dropAll, h]

end Sys2Proof

namespace Sys2Proof.Machine

open Sys2Proof.Claims

/-! ### Units the module does not have, and the idle tick -/

theorem onUnit_of_lt {kind : String} {n limit : Nat} (h : n < limit) (a : Answer) : onUnit kind n limit a = a := if_pos h

theorem onUnit_of_le {kind : String} {n limit : Nat} (h : limit ≤ n) (a : Answer) : onUnit kind n limit a = .fault (.noSuchUnit kind n) :=
  if_neg (Nat.not_lt.mpr h)

theorem wordRow_of_no_core {n : Nat} (h : 10368 ≤ n) (up : Bool) (s : State) (names : Word256 → Bool) :
    wordRow n up s names = .fault (.noSuchUnit "core" n) := onUnit_of_le h _

/-- Settles O3: each of the rows asks for its core first (`onUnit`), and an empty queue is a tick. -/
theorem modelChoices : Obligations.ModelChoices := by
  refine ⟨fun s h => ?_, fun i s n up names hw h => (exec_of_wordOf hw s).trans (wordRow_of_no_core h up s names), fun s n h => ⟨?_, ?_, ?_, ?_, ?_⟩⟩
  · simp only [step, h, tick]
  · simp only [List.forall_mem_cons]
    exact ⟨onUnit_of_le h _, onUnit_of_le h _, onUnit_of_le h _, onUnit_of_le h _, onUnit_of_le h _, by simp⟩
  · exact fun gen => onUnit_of_le h _
  · exact fun gen bad => onUnit_of_le h _
  · exact fun job => onUnit_of_le h _
  · exact fun x => onUnit_of_le h _

/-! ### The launch of a core (R105, R106, R113, R114) -/

/-- What the gathering before run-ahead may leave of a core: the core itself, or the core with its counts gathered. -/
theorem State.beforeAhead_core (s : State) (n jn k : Nat) (j : Job) :
    (∀ m, m ≠ n → (s.beforeAhead n jn k j).core m = s.core m) ∧
      ((s.beforeAhead n jn k j).core n = s.core n ∨ (s.beforeAhead n jn k j).core n = (s.core n).gathered) := by
  unfold State.beforeAhead
  split
  · split
    · exact ⟨fun m hm => by rw [State.gatherCore_core, if_neg hm], .inr (by rw [State.gatherCore_core, if_pos rfl])⟩
    · exact ⟨fun _ _ => rfl, .inl rfl⟩
  · exact ⟨fun _ _ => rfl, .inl rfl⟩

theorem State.beforeAhead_imageOf (s : State) (n jn k : Nat) (j : Job) (i : Nat) : (s.beforeAhead n jn k j).imageOf i = s.imageOf i := by
  have himages : (s.beforeAhead n jn k j).images = s.images := by
    unfold State.beforeAhead
    split
    · split <;> rfl
    · rfl
  simp only [State.imageOf, himages]

theorem State.raiseEpoch_core (s : State) (n m : Nat) : (s.raiseEpoch n).core m = if m = n then (s.core n).newEpoch else s.core m := by
  unfold State.raiseEpoch
  dsimp only
  split
  · exact State.setCore_core ..
  · exact State.setCore_core ..

/-- The core a launch for job `jn` starts from: its epoch raised where it is new to the job (R106). -/
def State.assigned (s : State) (n jn : Nat) : State := if (s.core n).job = some jn then s else s.raiseEpoch n

theorem State.assigned_core (s : State) (n jn m : Nat) :
    (s.assigned n jn).core m = if m = n ∧ (s.core n).job ≠ some jn then (s.core n).newEpoch else s.core m := by
  unfold State.assigned
  split
  · next h => simp [h]
  · next h => simp [State.raiseEpoch_core, h]

/-- The core as launched for a job that serves no queries (R113, R114). -/
def State.freshCore (s : State) (n jn : Nat) (j : Job) (st k : Nat) : Core :=
  let b := s.imageOf jn
  { ((s.assigned n jn).core n).launched (j.words b k st) (stageEntry b st) ((s.assigned n jn).launchSregs b st) with
    job := some jn, stage := st, ctx := j.ctx, atelier := j.atelier, step := some k
    localStrip := BitVec.ofNat 20 (imageLstrip b), farStrip := BitVec.ofNat 48 (imageFstrip b) }

theorem State.launchCore_of_training (s : State) (n jn : Nat) {j : Job} (h : j.serving = false) (st k : Nat) :
    s.launchCore n jn j st (some k) = (s.assigned n jn).setCore n (s.freshCore n jn j st k) := by
  unfold State.launchCore
  simp only [h, Bool.false_and, Bool.false_eq_true, if_false]
  rfl

/-- A scalar register as a launch gives it (R105, R114). -/
theorem State.launchSregs_get (s : State) (b : Bytes) (st i : Nat) (hi : i < 32) :
    SMap.get 0 (s.launchSregs b st) i =
      let v := leAt b (stageField b st 160 32 + 8 * i) 8
      BitVec.ofNat 64 (if bitAt (stageField b st 192 32) i then v / 2 ^ 32 * 2 ^ 32 + (s.core (v % 2 ^ 14)).epoch.toNat * 65536 + v % 65536 else v) := by
  simp only [State.launchSregs, SMap.get_foldl_set, List.mem_range, hi, if_true]

/-- A launch of a core that is due (R113, R213). -/
theorem exec_coreLaunch {s : State} {n jn : Nat} {j : Job} {st k : Nat} (hn : n < 10368) (hj : SMap.find? s.jobs jn = some j)
    (hst : stageOf (s.imageOf jn) n = some st) (hrun : (s.core n).run = .idle) (hm : s.mstate = 2) (hres : j.resident = true)
    (hsw : j.switching = false) (hserv : j.serving = false) (hk : s.launchStep n jn j = some k) :
    exec (.coreLaunch n jn) s = .next (((s.beforeAhead n jn k j).assigned n jn).setCore n ((s.beforeAhead n jn k j).freshCore n jn j st k)) := by
  have hexec : exec (.coreLaunch n jn) s = .next ((s.beforeAhead n jn k j).launchCore n jn j st (some k)) := by
    show execCoreLaunch n jn s = _
    unfold execCoreLaunch
    rw [onUnit_of_lt hn]
    simp [hj, hst, hrun, hm, hres, hsw, hserv, hk, whenDue]
  rw [hexec, State.launchCore_of_training _ n jn hserv]

/-- Settles O9: a beat that issues ends with the count one up (`endedBeat_beat`), one that lengthens changes nothing, a launch starts at 0. -/
theorem beatsCounted : Obligations.BeatsCounted := by
  refine ⟨fun i s n up names hw hn => ⟨fun hi hnames hend => ?_, fun ht => ?_, fun he hr => ?_⟩, ?_⟩
  · refine gives_of_not_end hw hi hnames hend fun r => ?_
    have hbeat := endedBeat_beat (s.env n) n (wordAt s n) (found s n)
    simp only [Core.counter, hbeat, found_beat]
    omega
  · exact (exec_of_wordOf hw s).trans (wordRow_of_no_beat hn (.inl ht))
  · exact (exec_of_wordOf hw s).trans (wordRow_of_no_beat hn (.inr (beatOf_of_not_ready he hr)))
  · intro s n jn j st k hn hj hst hrun hm hres hsw hserv hk
    obtain ⟨k, hk, -⟩ := Option.bind_eq_some_iff.mp hk
    refine ⟨_, exec_coreLaunch hn hj hst hrun hm hres hsw hserv hk, ?_⟩
    rw [State.setCore_core, if_pos rfl]
    exact ⟨rfl, rfl⟩

/-! ### Landings -/

theorem State.settleCore_nil (s : State) (n : Nat) (c : Core) : s.settleCore n ⟨c, []⟩ = s.setCore n c := rfl

/-- The first operation due, where it is of the kind asked and no report, lands and nothing is sent out (R94). -/
theorem State.landNext_of_due {s : State} {n : Nat} {l : Landing} {rest : List Landing}
    (h : takeDue (s.core n).landedBy (s.core n).flight = some (l, rest)) (token : Bool) (ht : l.effect.isToken = token) {d : Core}
    (hd : land (s.env n) ⟨{ s.core n with flight := rest }, []⟩ l.due l.effect = ⟨d, []⟩) : s.landNext n token = s.setCore n d := by
  unfold State.landNext
  simp only [h, ht, if_true, hd, State.settleCore_nil]

theorem landAcc_pendLines (c : Core) (line : Nat) (init int : Bool) (vals : List (Nat × Nat)) (slot : Option Nat) (ev : Events) :
    (landAcc c line init int vals slot ev).pendLines = c.pendLines.drop line := by
  unfold landAcc
  dsimp only
  split
  · unfold Core.addEvents
    rw [if_pos rfl]
  · rfl

/-- Settles O23, an effect at a time. -/
theorem landings : Obligations.Landings := by
  intro s n hn
  refine ⟨fun due k v rest h => ?_, fun due a b rest h => ?_, fun due line init int vals slot ev rest h => ?_, fun r h => ?_⟩
  · refine ⟨_, (onUnit_of_lt hn _).trans (congrArg _ (State.landNext_of_due h false rfl rfl)), ?_⟩
    rw [State.setCore_core, if_pos rfl]
    exact ⟨by simp [Core.sreg, SMap.get_set], rfl, NatSet.not_mem_drop _ _⟩
  · refine ⟨_, (onUnit_of_lt hn _).trans (congrArg _ (State.landNext_of_due h false rfl rfl)), ?_⟩
    simp only [State.setCore_core, if_true, List.foldl_cons, List.foldl_nil, List.map_cons, List.map_nil]
    refine ⟨fun k hk => Memory.read_writeBytes_inside _ _ _ hk, fun x hx => ?_, NatSet.not_mem_dropAll (List.mem_singleton_self _)⟩
    rw [Memory.read_writeBytes, if_neg (by omega)]
  · refine ⟨_, (onUnit_of_lt hn _).trans (congrArg _ (State.landNext_of_due h true rfl rfl)), ?_⟩
    rw [State.setCore_core, if_pos rfl, landAcc_pendLines]
    exact ⟨rfl, NatSet.not_mem_drop _ _⟩
  · refine ⟨s.setCore n { s.core n with array := ({ (s.core n).array with rows := (s.core n).array.rows.erase r }).takeRow r }, ?_, ?_⟩
    · show execHeldWeightRowWrite n s = _
      unfold execHeldWeightRowWrite
      simp only [onUnit_of_lt hn, h]
    · rw [State.setCore_core, if_pos rfl]

/-! ### Messages on their way -/

/-- The end of a stop changes jobs and the blotter alone, the blotter by its own entry (R341). -/
theorem State.settleStop_only (s : State) (k : Nat) :
    s.settleStop k = { s with jobs := (s.settleStop k).jobs, blotter := (s.settleStop k).blotter } ∧
      ((s.settleStop k).blotter = s.blotter ∨ ∃ e : BlotterEntry, e.code = 0x0104 ∧ (s.settleStop k).blotter = s.blotter.write e) := by
  have hend (n : Nat) : s.endStop n k = { s with jobs := (s.endStop n k).jobs, blotter := (s.endStop n k).blotter } ∧
      ((s.endStop n k).blotter = s.blotter ∨ ∃ e : BlotterEntry, e.code = 0x0104 ∧ (s.endStop n k).blotter = s.blotter.write e) := by
    unfold State.endStop
    split
    · split
      · exact ⟨rfl, .inl rfl⟩
      · dsimp only
        split
        · exact ⟨rfl, .inr ⟨_, rfl, rfl⟩⟩
        · exact ⟨rfl, .inl rfl⟩
    · exact ⟨rfl, .inl rfl⟩
  unfold State.settleStop
  split
  · exact hend _
  · exact ⟨rfl, .inl rfl⟩

section
variable (s : State) (k : Nat)
@[simp] theorem State.settleStop_mesh : (s.settleStop k).mesh = s.mesh := by rw [(s.settleStop_only k).1]
@[simp] theorem State.settleStop_cores : (s.settleStop k).cores = s.cores := by rw [(s.settleStop_only k).1]
@[simp] theorem State.settleStop_outcomes : (s.settleStop k).outcomes = s.outcomes := by rw [(s.settleStop_only k).1]
@[simp] theorem State.settleStop_core (n : Nat) : (s.settleStop k).core n = s.core n := by simp only [State.core, State.settleStop_cores]
end

section
variable (s : State) (m : Msg) (b : Bool)

/-- An outcome joins those on their way back, where the sender is a core. -/
theorem State.outcome_only : s.outcome m b = { s with outcomes := (s.outcome m b).outcomes } := by
  unfold State.outcome
  split <;> rfl

theorem State.outcome_outcomes (h : m.sender < 10368) : (s.outcome m b).outcomes = s.outcomes ++ [(m.sender, m.chan, b)] := by
  rw [State.outcome, if_pos h]

@[simp] theorem State.outcome_mesh : (s.outcome m b).mesh = s.mesh := by rw [State.outcome_only]
@[simp] theorem State.outcome_cores : (s.outcome m b).cores = s.cores := by rw [State.outcome_only]
@[simp] theorem State.outcome_blotter : (s.outcome m b).blotter = s.blotter := by rw [State.outcome_only]
@[simp] theorem State.outcome_core (n : Nat) : (s.outcome m b).core n = s.core n := by simp only [State.core, State.outcome_cores]
end

/-- A message that arrives leaves the mesh, its destination is `c`, and its sender hears of it. -/
def State.delivered (s : State) (k : Nat) (m : Msg) (c : Core) : State :=
  ((({ s with mesh := s.mesh.eraseIdx k }).setCore m.dest c).outcome m true).settleStop m.dest

theorem State.delivered_spec (s : State) (k : Nat) (m : Msg) (c : Core) :
    (s.delivered k m c).mesh = s.mesh.eraseIdx k ∧ (s.delivered k m c).core m.dest = c ∧
      (m.sender < 10368 → (s.delivered k m c).outcomes = s.outcomes ++ [(m.sender, m.chan, true)]) := by
  unfold State.delivered
  refine ⟨by simp, by simp, fun h => ?_⟩
  rw [State.settleStop_outcomes, State.outcome_outcomes _ _ _ h]
  rfl

section
variable {s : State} {k : Nat} {m : Msg} (hm : s.nextMessage k = some m)
include hm

/-- A stale message (R107). -/
theorem exec_messageArrival_stale (he : m.epoch ≠ (s.core m.dest).epoch) : exec (.messageArrival k) s =
    .next (((({ s with mesh := s.mesh.eraseIdx k }).noteOf (s.atelierOfQuadrant (quadrantOf m.dest)) 0x0110
      [m.sender, m.dest, m.epoch.toNat, (s.core m.dest).epoch.toNat]).outcome m false).settleStop m.dest) := by
  show execMessageArrival k s = _
  unfold execMessageArrival
  simp only [hm, he, ne_eq, not_false_eq_true, if_true]

/-- A message whose window has room (R105). -/
theorem exec_messageArrival_window (he : m.epoch = (s.core m.dest).epoch) {v : Window}
    (hv : SMap.find? (s.core m.dest).windows m.chan = some v) (hroom : v.senders.length < v.len) :
    exec (.messageArrival k) s = .next (s.delivered k m ((s.core m.dest).fillWindow m.chan v m)) := by
  show execMessageArrival k s = _
  unfold execMessageArrival
  simp only [hm, he, ne_eq, not_true_eq_false, if_false, hv, hroom, if_true]
  rfl

/-- A message without a window, where the holding register is free (R105). -/
theorem exec_messageArrival_held (he : m.epoch = (s.core m.dest).epoch) (hv : SMap.find? (s.core m.dest).windows m.chan = none)
    (hh : SMap.find? (s.core m.dest).holding m.chan = none) : exec (.messageArrival k) s =
      .next (s.delivered k m { s.core m.dest with holding := SMap.put (s.core m.dest).holding m.chan m }) := by
  show execMessageArrival k s = _
  unfold execMessageArrival
  simp only [hm, he, ne_eq, not_true_eq_false, if_false, hv, hh, Option.isSome_none, Bool.false_eq_true]
  rfl
end

/-- Settles O24: each arrival is one of the three above, and an outcome changes its sender's counts alone. -/
theorem messagesArrive : Obligations.MessagesArrive := by
  intro s k
  refine ⟨fun m hm he => ?_, fun m v hm he hv hroom => ?_, fun m hm he hv hh => ?_, fun n chan ok ho => ?_⟩
  · refine ⟨_, exec_messageArrival_stale hm he, by simp [State.noteOf, State.log], by simp [State.noteOf, State.log], fun h => ?_, ?_⟩
    · rw [State.settleStop_outcomes, State.outcome_outcomes _ _ _ h]
      rfl
    · have hblotter := (State.settleStop_only ((({ s with mesh := s.mesh.eraseIdx k }).noteOf (s.atelierOfQuadrant (quadrantOf m.dest)) 0x0110
        [m.sender, m.dest, m.epoch.toNat, (s.core m.dest).epoch.toNat]).outcome m false) m.dest).2
      rw [State.outcome_blotter] at hblotter
      exact hblotter
  · obtain ⟨hmesh, hcore, hout⟩ := s.delivered_spec k m ((s.core m.dest).fillWindow m.chan v m)
    exact ⟨_, exec_messageArrival_window hm he hv hroom, hmesh, hcore, hout⟩
  · obtain ⟨hmesh, hcore, hout⟩ := s.delivered_spec k m { s.core m.dest with holding := SMap.put (s.core m.dest).holding m.chan m }
    refine ⟨_, exec_messageArrival_held hm he hv hh, hmesh, ?_, hout⟩
    rw [hcore]
    simp [SMap.find?_put]
  · refine ⟨_, by simp only [exec, execSendCompletion, ho]; rfl, ?_⟩
    cases ok <;> simp [SMap.get_set, bit]

/-! ### Run-ahead (R101, R104) -/

theorem Core.ahead_beat (c : Core) : c.ahead.beat = c.beat + 1 := by
  have hgens (w : Word256) : (stepGens w c).beat = c.beat := (congrArg Core.beat (stepGens_frame w c) :)
  have hloop (w : Word256) (d : Core) : (applyLoop w d).beat = d.beat := (congrArg Core.beat (applyLoop_frame w d) :)
  have hsetup (w : Word256) (d : Core) : (applySetup w d).beat = d.beat := (congrArg Core.beat (applySetup_frame w d) :)
  unfold Core.ahead
  dsimp only
  split <;> split <;> simp only [hgens, hloop, hsetup]

/-- Run-ahead looks no further than its fuel, a beat at a time. -/
theorem Core.nextFetch_beat {g : Nat} {d : Core} : ∀ {fuel : Nat} {limit : Option Nat} {c : Core}, c.nextFetch g fuel limit = some d →
    c.beat ≤ d.beat ∧ d.beat < c.beat + fuel
  | 0, _, _, h => nomatch h
  | fuel + 1, limit, c, h => by
    unfold Core.nextFetch at h
    dsimp only at h
    split at h
    · cases h
    · split at h
      · cases h
        omega
      · have ih := Core.nextFetch_beat h
        rw [Core.ahead_beat] at ih
        omega

theorem Core.nextFetch_here {g fuel : Nat} {c : Core} (hp : pauses g (c.word c.pc) = false) (hg : g ∈ farReads c (c.word c.pc))
    (hs : c.stagedNow g = none) : c.nextFetch g (fuel + 1) none = some c := by
  unfold Core.nextFetch
  simp [hp, hg, hs]

/-- What run-ahead fetches: the line its generator reads at a beat within 64 of the core's (R101). -/
theorem Core.fetches_spec {c : Core} {env : Env} {g : Nat} {x : Staged} (h : c.fetches env g = some x) :
    x.gen = g ∧ x.arrived = false ∧ c.beat ≤ x.beat ∧ x.beat < c.beat + 64 := by
  unfold Core.fetches at h
  split at h
  · obtain ⟨hx, -⟩ := Option.filter_eq_some_iff.mp h
    obtain ⟨d, hd, rfl⟩ := Option.map_eq_some_iff.mp hx
    exact ⟨rfl, rfl, Core.nextFetch_beat hd⟩
  · cases h

theorem Core.fetches_here {c : Core} {env : Env} {g : Nat} (hrun : c.run = .running) (hm : c.moving g = none)
    (hp : pauses g (c.word c.pc) = false) (hg : g ∈ farReads c (c.word c.pc)) (hs : c.stagedNow g = none)
    (hh : c.holderFree g (fetchAhead env c g) = true) : c.fetches env g = some (fetchAhead env c g) := by
  simp [Core.fetches, hrun, hm, Core.nextFetch_here hp hg hs, Option.filter, hh]

section
variable {s : State} {n : Nat} (hn : n < 10368)
include hn

theorem exec_runAheadFetch {g : Nat} (hg : g < 4) : exec (.runAheadFetch n g) s =
    match (s.core n).fetches (s.env n) g with
    | some x => .next (s.setCore n { s.core n with staged := (s.core n).staged ++ [x] })
    | none => .next s := by
  show execRunAheadFetch n g s = _
  exact (onUnit_of_lt hn _).trans (onUnit_of_lt hg _)

/-! ### Lines that arrive (R73, R183, R198) -/

theorem exec_stagedLineArrival_none {g : Nat} (hg : g < 4) (bad : Bool)
    (h : (s.core n).staged.find? (fun y => decide (y.gen = g) && !y.arrived) = none) : exec (.stagedLineArrival n g bad) s = .next s := by
  show execStagedLineArrival n g bad s = _
  unfold execStagedLineArrival
  rw [onUnit_of_lt hn, onUnit_of_lt hg]
  simp only [h]

/-- The oldest line on its way arrives as `y`. -/
def State.arrives (s : State) (n : Nat) (x y : Staged) : State :=
  s.setCore n { s.core n with staged := (s.core n).staged.map fun z => if z = x then y else z }

/-- A line in which no error is met, or whose place is not the reservoir's. -/
theorem exec_stagedLineArrival_good {g : Nat} (hg : g < 4) {bad : Bool} {x : Staged}
    (h : (s.core n).staged.find? (fun y => decide (y.gen = g) && !y.arrived) = some x)
    (hhit : (bad && (s.locate (s.core n).ctx x.addr).any fun p => !p.gddr) = false) :
    exec (.stagedLineArrival n g bad) s = .next (s.arrives n x { x with arrived := true }) := by
  show execStagedLineArrival n g bad s = _
  unfold execStagedLineArrival
  rw [onUnit_of_lt hn, onUnit_of_lt hg]
  simp only [h, hhit, Bool.false_eq_true, if_false]
  rfl

/-- A reservoir line in which an uncorrectable error is met. -/
theorem exec_stagedLineArrival_bad {g : Nat} (hg : g < 4) {x : Staged} {p : Place}
    (h : (s.core n).staged.find? (fun y => decide (y.gen = g) && !y.arrived) = some x)
    (hp : s.locate (s.core n).ctx x.addr = some p) (hr : p.gddr = false) : exec (.stagedLineArrival n g true) s =
      .next ((s.poisonReservoir (p.addr / 64)).setCore n { s.core n with
        staged := (s.core n).staged.map fun z => if z = x then { x with arrived := true, faults := x.faults ++ [(x.addr, 0x24)] } else z }) := by
  show execStagedLineArrival n g true s = _
  unfold execStagedLineArrival
  rw [onUnit_of_lt hn, onUnit_of_lt hg]
  simp only [h, hp, hr, Option.any_some, Bool.not_false, Bool.and_self, if_true, Option.map_some, Option.getD_some]

/-! ### The packer (R236 to R239) -/

theorem exec_chunkPacker_none (h : (s.core n).packers.find? (fun p => decide (128 * (p.encoded + 1) ≤ p.vals.length)) = none) :
    exec (.chunkPacker n) s = .next s := by
  show execChunkPacker n s = _
  unfold execChunkPacker
  rw [onUnit_of_lt hn]
  simp only [h]

/-- The core once packer `p` has encoded its next chunk. -/
def Core.encoded (c : Core) (p : Packer) : Core :=
  { c with packers := if p.encoded + 1 = p.count then c.packers.erase p else c.packers.map fun x => if x = p then { p with encoded := p.encoded + 1 } else x }

section
variable {p : Packer} (h : (s.core n).packers.find? (fun p => decide (128 * (p.encoded + 1) ≤ p.vals.length)) = some p)
include h

/-- A chunk of no job or of no descriptor goes nowhere. -/
theorem exec_chunkPacker_kept (hno : (∀ k, p.job = some k → SMap.find? s.jobs k = none) ∨ SMap.find? s.colls p.desc = none) :
    exec (.chunkPacker n) s = .next (s.setCore n ((s.core n).encoded p)) := by
  show execChunkPacker n s = _
  unfold execChunkPacker
  rw [onUnit_of_lt hn]
  simp only [h]
  split
  · next k j x hkj hx =>
    obtain ⟨k', hk, hj⟩ := Option.bind_eq_some_iff.mp hkj
    obtain hno | hno := hno
    · rw [hno k' hk] at hj
      cases hj
    · rw [hno] at hx
      cases hx
  · rfl

/-- A chunk of a job's is handed on for the job's step. -/
theorem exec_chunkPacker_packed {k : Nat} {j : Job} {x : Coll} (hk : p.job = some k) (hj : SMap.find? s.jobs k = some j)
    (hx : SMap.find? s.colls p.desc = some x) : exec (.chunkPacker n) s =
      .next ((s.setCore n ((s.core n).encoded p)).packed k j (p.step.getD 0) p.desc (p.first + p.encoded)
        (p.chunk x.op (j.within x (p.first + p.encoded)))) := by
  have hkj : (p.job.bind fun k => (SMap.find? s.jobs k).map (k, ·)) = some (k, j) := by simp [hk, hj]
  show execChunkPacker n s = _
  unfold execChunkPacker
  rw [onUnit_of_lt hn]
  simp only [h, hkj, hx]
  rfl
end
end

theorem State.poisonReservoir_poison (s : State) (line : Nat) : (s.poisonReservoir line).poison.has line = true :=
  List.contains_iff_mem.mpr (NatSet.mem_add.mpr (.inl rfl))

/-- A core's launch for a step, field by field (R105, R106, R113, R114), `u` being the state it is launched from. -/
theorem State.launched_spec (u : State) (n jn : Nat) (j : Job) (st k : Nat) :
    let t := (u.assigned n jn).setCore n (u.freshCore n jn j st k)
    let d := t.core n
    d = u.freshCore n jn j st k ∧
    (∀ i < 32, let v := leAt (u.imageOf jn) (stageField (u.imageOf jn) st 160 32 + 8 * i) 8
      d.sreg i = BitVec.ofNat 64 (if bitAt (stageField (u.imageOf jn) st 192 32) i then
        v / 2 ^ 32 * 2 ^ 32 + (t.core (v % 2 ^ 14)).epoch.toNat * 65536 + v % 65536 else v)) ∧
    d.mem = (u.core n).mem ∧ d.tiles = (u.core n).tiles ∧ ((u.core n).job = some jn → d.epoch = (u.core n).epoch) ∧
    ((u.core n).job ≠ some jn → d.epoch = (u.core n).epoch + 1 ∧ d.windows = [] ∧ d.holding = []) ∧
    ∀ m, m ≠ n → t.core m = u.core m := by
  have hcore : ((u.assigned n jn).setCore n (u.freshCore n jn j st k)).core n = u.freshCore n jn j st k := by
    rw [State.setCore_core, if_pos rfl]
  have hepoch (m : Nat) : (((u.assigned n jn).setCore n (u.freshCore n jn j st k)).core m).epoch = ((u.assigned n jn).core m).epoch := by
    rw [State.setCore_core]
    split
    · next h => rw [h]; rfl
    · rfl
  have hassigned := u.assigned_core n jn n
  dsimp only
  simp only [hcore, hepoch]
  refine ⟨trivial, fun i hi => (u.assigned n jn).launchSregs_get _ _ _ hi, ?_, ?_, fun h => ?_, fun h => ?_, fun m hm => ?_⟩
  · show ((u.assigned n jn).core n).mem = _
    rw [hassigned]
    split <;> rfl
  · show ((u.assigned n jn).core n).tiles = _
    rw [hassigned]
    split <;> rfl
  · show ((u.assigned n jn).core n).epoch = _
    rw [hassigned, if_neg (by simp [h])]
  · rw [if_pos ⟨rfl, h⟩] at hassigned
    exact ⟨congrArg Core.epoch hassigned, congrArg Core.windows hassigned, congrArg Core.holding hassigned⟩
  · rw [State.setCore_core, if_neg hm, State.assigned_core, if_neg (by simp [hm])]

/-- Settles O36: run-ahead, the lines that arrive, the packer, the launch. -/
theorem farLinesAndLaunch : Obligations.FarLinesAndLaunch := by
  intro s n hn
  dsimp only
  refine ⟨fun g hg => ⟨fun x hx => ?_, fun hx => ?_, fun hrun hm hp hf hs hh => ?_, fun x hx => Core.fetches_spec hx⟩,
    fun g hg => ⟨fun bad h => exec_stagedLineArrival_none hn hg bad h, fun x h => ⟨?_, fun hp => ?_, fun p hp hr => ?_⟩⟩,
    ⟨fun h => exec_chunkPacker_none hn h, fun p h => ⟨fun hno => ?_, fun k j x hk hj hx => ?_⟩⟩,
    fun jn j st k hj hst hrun hm hres hsw hserv hk => ?_⟩
  · rw [exec_runAheadFetch hn hg, hx]
  · rw [exec_runAheadFetch hn hg, hx]
  · rw [exec_runAheadFetch hn hg, Core.fetches_here hrun hm hp hf hs hh]
  · exact exec_stagedLineArrival_good hn hg h (Bool.false_and _)
  · rw [exec_stagedLineArrival_good hn hg h (Bool.false_and _)]
    refine exec_stagedLineArrival_good hn hg h ?_
    rcases hl : s.locate (s.core n).ctx x.addr with _ | p
    · rfl
    · simp [hp p hl]
  · refine ⟨_, exec_stagedLineArrival_bad hn hg h hp hr, ?_, ?_, fun m hm => ?_, rfl⟩
    · rw [State.setCore_core, if_pos rfl]
    · exact State.poisonReservoir_poison ..
    · rw [State.setCore_core, if_neg hm]
      rfl
  · exact exec_chunkPacker_kept hn h hno
  · exact exec_chunkPacker_packed hn h hk hj hx
  · have himage := s.beforeAhead_imageOf n jn k j jn
    obtain ⟨hothers, hown⟩ := s.beforeAhead_core n jn k j
    obtain ⟨hfresh, hsregs, hmem, htiles, hsame, hnew, hrest⟩ := (s.beforeAhead n jn k j).launched_spec n jn j st k
    refine ⟨_, exec_coreLaunch hn hj hst hrun hm hres hsw hserv hk, ?_⟩
    generalize s.beforeAhead n jn k j = u at *
    have hkept : (u.core n).mem = (s.core n).mem ∧ (u.core n).tiles = (s.core n).tiles ∧ (u.core n).job = (s.core n).job ∧
        (u.core n).epoch = (s.core n).epoch := by
      obtain h | h := hown <;> rw [h] <;> exact ⟨rfl, rfl, rfl, rfl⟩
    obtain ⟨hkmem, hktiles, hkjob, hkepoch⟩ := hkept
    rw [himage] at hsregs
    rw [hkjob, hkepoch] at hsame hnew
    have hpc : (u.freshCore n jn j st k).pc = stageEntry (s.imageOf jn) st := congrArg (stageEntry · st) himage
    have hwords : (u.freshCore n jn j st k).words = j.words (s.imageOf jn) k st := congrArg (j.words · k st) himage
    exact ⟨congrArg Core.run hfresh, (congrArg Core.pc hfresh).trans hpc, (congrArg Core.words hfresh).trans hwords, congrArg Core.beat hfresh,
      congrArg Core.pendLines hfresh, congrArg Core.pendRows hfresh, congrArg Core.pendSregs hfresh, congrArg Core.gens hfresh,
      congrArg Core.levels hfresh, hsregs, congrArg Core.streams hfresh, congrArg Core.counters hfresh, congrArg Core.binds hfresh,
      hmem.trans hkmem, htiles.trans hktiles, congrArg Core.step hfresh, congrArg Core.job hfresh, hsame, hnew,
      fun m hm => (hrest m hm).trans (hothers m hm)⟩

end Sys2Proof.Machine
end

section
/-!
PROOF. The loop unit, the loop set-up words, the messages and the bindings (O19, O20, O21): what a generator, a level and a register read
after each part of a beat.
-/
namespace Sys2Proof.Machine

open Sys2Proof.Claims

/-! ### Moves of a generator (R88, R90) -/

theorem toNat_signExtend_stride (d : BitVec 24) : ((d.signExtend 48).toNat : Int) = d.toInt % 2 ^ 48 := by
  have h : (d.signExtend 48).toInt = d.toInt := BitVec.toInt_signExtend_of_le (by decide)
  have hlt := d.toInt_lt
  have hle := d.le_toInt
  have hs := (d.signExtend 48).isLt
  rw [BitVec.toInt_eq_toNat_cond] at h
  split at h <;> omega

/-- An address moved by a stride wraps in its space. -/
theorem Gen.move_cur (g : Gen) (d : BitVec 24) :
    ((g.move d).cur.toNat : Int) = ((g.cur.toNat : Int) + d.toInt) % (if g.far then 2 ^ 48 else 2 ^ 20) := by
  have hd := toNat_signExtend_stride d
  unfold Gen.move Gen.wrap
  cases g.far
  · simp only [Bool.false_eq_true, if_false, BitVec.toNat_and, BitVec.toNat_add]
    rw [show (0xFFFFF#48).toNat = 2 ^ 20 - 1 from rfl, Nat.and_two_pow_sub_one_eq_mod]
    omega
  · simp only [if_true, BitVec.toNat_add]
    omega

/-! ### Reads after writes -/

theorem Core.setGen_gen (c : Core) (k : Nat) (g : Gen) (a : Nat) : (c.setGen k g).gen a = if a = k then g else c.gen a := SMap.get_set ..

theorem Core.setLevel_level (c : Core) (k : Nat) (l : Level) (a : Nat) : (c.setLevel k l).level a = if a = k then l else c.level a :=
  SMap.get_set ..

/-- A fold that changes one place of a core after the other: each place in the list is changed once, from what it was. -/
theorem Core.foldl_read {β : Type} (read : Core → Nat → β) {f : Core → Nat → Core} {F : Nat → β → β}
    (hf : ∀ c k b, read (f c k) b = if b = k then F k (read c k) else read c b) (b : Nat) :
    ∀ {ks : List Nat}, ks.Nodup → ∀ c, read (ks.foldl f c) b = if b ∈ ks then F b (read c b) else read c b
  | [], _, c => by simp
  | k :: ks, h, c => by
    obtain ⟨hk, hks⟩ := List.nodup_cons.mp h
    rw [List.foldl_cons, Core.foldl_read read hf b hks, hf]
    by_cases hb : b = k
    · subst hb
      simp [hk]
    · simp [hb]

/-- A generator once an access under the select `x` has stepped it (R90). -/
def Gen.stepUnder (x : Select) (g : Gen) : Gen := if (x.mode = 1 || x.mode = 2) && x.step then g.move (g.stride x.stride) else g

theorem stepGens_gen (w : Word256) (c : Core) {a : Nat} (ha : a < 4) : (stepGens w c).gen a = (c.gen a).stepUnder (wordSelect w a) := by
  refine (Core.foldl_read Core.gen (F := fun k g => g.stepUnder (wordSelect w k)) (fun c k b => ?_) a List.nodup_range c).trans
    (if_pos (List.mem_range.mpr ha))
  dsimp only [Gen.stepUnder]
  split
  · exact Core.setGen_gen ..
  · split
    · next h => rw [h]
    · rfl

theorem takeExit_level (w : Word256) (c : Core) (k : Nat) : (takeExit w c).level k =
    if k ≤ (loopField w).exitLvl then { c.level k with active := false } else c.level k := by
  have hread := Core.foldl_read Core.level (f := fun c k => c.setLevel k { c.level k with active := false })
    (F := fun _ l => { l with active := false }) (fun c k b => Core.setLevel_level ..) k (List.nodup_range (n := (loopField w).exitLvl + 1)) c
  simp only [List.mem_range, Nat.lt_succ_iff] at hread
  exact hread

/-- A level that the word closes, at its end. -/
def Level.endUnder (w : Word256) (k : Nat) (l : Level) : Level := if closes w k then { l with active := false, remaining := 0 } else l

theorem endLevels_level (w : Word256) (below : Nat) (c : Core) (k : Nat) :
    (endLevels w below c).level k = if k < below then (c.level k).endUnder w k else c.level k := by
  refine (Core.foldl_read Core.level (F := fun k l => l.endUnder w k) (fun c k b => ?_) k List.nodup_range c).trans ?_
  · dsimp only [Level.endUnder]
    split
    · exact Core.setLevel_level ..
    · split
      · next h => rw [h]
      · rfl
  · simp only [List.mem_range]

theorem takeExit_gens (w : Word256) (c : Core) : (takeExit w c).gens = c.gens :=
  Core.foldl_keeps Core.gens (f := fun c k => c.setLevel k { c.level k with active := false }) (fun _ _ => rfl) _ c

theorem endLevels_gens (w : Word256) (below : Nat) (c : Core) : (endLevels w below c).gens = c.gens := by
  refine Core.foldl_keeps Core.gens (fun c k => ?_) _ c
  split <;> rfl

theorem repeatLevel_gen (k : Nat) (c : Core) {a : Nat} (ha : a < 4) :
    (repeatLevel k c).gen a = (c.gen a).move (SMap.get 0 (c.level k).incs a) :=
  (Core.foldl_read Core.gen (F := fun a g => g.move (SMap.get 0 (c.level k).incs a)) (fun _ _ _ => Core.setGen_gen ..) a List.nodup_range _).trans
    (if_pos (List.mem_range.mpr ha))

theorem repeatLevel_level (k : Nat) (c : Core) (b : Nat) :
    (repeatLevel k c).level b = if b = k then { c.level k with remaining := (c.level k).remaining - 1 } else c.level b := by
  have hlevels : (repeatLevel k c).levels = (c.setLevel k { c.level k with remaining := (c.level k).remaining - 1 }).levels :=
    Core.foldl_keeps Core.levels (f := fun d a => d.setGen a ((d.gen a).move (SMap.get 0 (c.level k).incs a))) (fun _ _ => rfl) _ _
  exact (congrArg (SMap.get Level.zero · b) hlevels).trans (Core.setLevel_level ..)

/-! ### The loop unit, case by case (R88) -/

section
variable {w : Word256} {c : Core}

theorem applyLoop_of_exit (h : exitTaken c w = true) : applyLoop w c = { takeExit w c with pc := nextPc c w } := by
  unfold applyLoop
  simp only [h, if_true]

theorem applyLoop_of_repeat (h : exitTaken c w = false) {k : Nat} (hk : repeats c w 6 0 = some k) :
    applyLoop w c = { repeatLevel k (endLevels w k c) with pc := nextPc c w } := by
  unfold applyLoop
  simp only [h, Bool.false_eq_true, if_false, hk]

theorem applyLoop_of_end (h : exitTaken c w = false) (hk : repeats c w 6 0 = none) :
    applyLoop w c = { endLevels w 6 c with pc := nextPc c w } := by
  unfold applyLoop
  simp only [h, Bool.false_eq_true, if_false, hk]

theorem nextPc_of_exit (h : exitTaken c w = true) : nextPc c w = (c.level (loopField w).exitLvl).target := if_pos h

theorem nextPc_of_repeat (h : exitTaken c w = false) {k : Nat} (hk : repeats c w 6 0 = some k) : nextPc c w = (c.level k).start := by
  unfold nextPc
  simp only [h, Bool.false_eq_true, if_false, hk]

theorem nextPc_of_end (h : exitTaken c w = false) (hk : repeats c w 6 0 = none) : nextPc c w = c.pc + 1 := by
  unfold nextPc
  simp only [h, Bool.false_eq_true, if_false, hk]
end

/-- The level that repeats is not among those below it, which have ended. -/
theorem endLevels_below (w : Word256) (k : Nat) (c : Core) : (endLevels w k c).level k = c.level k := by
  rw [endLevels_level, if_neg (by omega)]

theorem Core.gen_of_gens {c d : Core} (h : d.gens = c.gens) (a : Nat) : d.gen a = c.gen a := congrArg (SMap.get Gen.zero · a) h

/-- A generator as the operations of its word leave it: stepped where the word is of a format with step selects (R81, R90). -/
def Core.accessed (c : Core) (w : Word256) (a : Nat) : Gen := 
  if wordFormat w = 0 ∨ wordFormat w = 2 then (c.gen a).stepUnder (wordSelect w a) else c.gen a

theorem issueFormat_gen (env : Env) (self : Nat) (w : Word256) (c : Core) {a : Nat} (ha : a < 4) :
    (issueFormat env self w c).core.gen a = c.accessed w a := by
  have hstep {d : Core} (h : d.gens = c.gens) : (stepGens w d).gen a = (c.gen a).stepUnder (wordSelect w a) := by
    rw [stepGens_gen w d ha, Core.gen_of_gens h]
  have hcompute : (issueCompute env w c).core.gens = c.gens := (congrArg Core.gens (issueCompute_frame env w c) :)
  unfold issueFormat Core.accessed
  split
  · next h => simpa [h] using hstep hcompute
  · next h => simpa [h] using hstep (issueMessage_gens self w c)
  · next h => simpa [h] using Core.gen_of_gens (issueBind_gens w c) a
  · next h0 h2 _ => rw [if_neg (not_or.mpr ⟨h0, h2⟩)]

section
variable {w : Word256} (env : Env) (self : Nat) (c : Core)

/-- Loop control's own lemmas speak of the core as the word's operations leave it, whose levels and registers are those found. -/
theorem endedBeat_of_not_setup (h : wordFormat w ≠ 1) : ∃ staged beat boundary,
    endedBeat env self w c = { applyLoop w (issueFormat env self w c).core with staged := staged, beat := beat, boundary := boundary } := by
  unfold endedBeat
  rw [finishBeat_of_not_setup h]
  exact ⟨_, _, _, rfl⟩

/-- A taken exit leaves the levels up to its own (R88). -/
theorem endedBeat_exit (h : wordFormat w ≠ 1) (hx : exitTaken c w = true) :
    (∀ a < 4, (endedBeat env self w c).gen a = c.accessed w a) ∧
      ∀ k ≤ (loopField w).exitLvl, ((endedBeat env self w c).level k).active = false := by
  obtain ⟨_, _, _, heq⟩ := endedBeat_of_not_setup env self c h
  rw [heq, applyLoop_of_exit ((issueFormat_exitTaken env self w c).trans hx)]
  refine ⟨fun a ha => ?_, fun k hk => ?_⟩
  · exact (Core.gen_of_gens (takeExit_gens ..) a).trans (issueFormat_gen env self w c ha)
  · refine (congrArg Level.active (takeExit_level w (issueFormat env self w c).core k)).trans ?_
    rw [if_pos hk]

/-- A level repeats: it has one iteration fewer, and its increments have moved the generators (R88). -/
theorem endedBeat_repeat (h : wordFormat w ≠ 1) (hx : exitTaken c w = false) {k : Nat} (hk : repeats c w 6 0 = some k) :
    (∀ a < 4, (endedBeat env self w c).gen a = (c.accessed w a).move (SMap.get 0 (c.level k).incs a)) ∧
      ((endedBeat env self w c).level k).remaining = (c.level k).remaining - 1 := by
  obtain ⟨_, _, _, heq⟩ := endedBeat_of_not_setup env self c h
  rw [heq, applyLoop_of_repeat ((issueFormat_exitTaken env self w c).trans hx) ((issueFormat_repeats env self w c 6 0).trans hk)]
  refine ⟨fun a ha => ?_, ?_⟩
  · refine (repeatLevel_gen k _ ha).trans ?_
    rw [endLevels_below, issueFormat_level, Core.gen_of_gens (endLevels_gens ..), issueFormat_gen env self w c ha]
  · refine (congrArg Level.remaining (repeatLevel_level k _ k)).trans ?_
    rw [if_pos rfl, endLevels_below, issueFormat_level]

/-- With no level that repeats every closed level has ended (R88). -/
theorem endedBeat_end (h : wordFormat w ≠ 1) (hx : exitTaken c w = false) (hk : repeats c w 6 0 = none) :
    (∀ a < 4, (endedBeat env self w c).gen a = c.accessed w a) ∧
      ∀ k < 6, closes w k = true → ((endedBeat env self w c).level k).active = false := by
  obtain ⟨_, _, _, heq⟩ := endedBeat_of_not_setup env self c h
  rw [heq, applyLoop_of_end ((issueFormat_exitTaken env self w c).trans hx) ((issueFormat_repeats env self w c 6 0).trans hk)]
  refine ⟨fun a ha => ?_, fun k hk6 hc => ?_⟩
  · exact (Core.gen_of_gens (endLevels_gens ..) a).trans (issueFormat_gen env self w c ha)
  · refine (congrArg Level.active (endLevels_level w 6 (issueFormat env self w c).core k)).trans ?_
    rw [if_pos hk6, Level.endUnder, if_pos hc]
end

/-- Settles O20: `Gen.move_cur`, and the three cases of the loop unit. -/
theorem loopControl : Obligations.LoopControl := by
  refine ⟨fun g d _ => ⟨rfl, g.move_cur d⟩, fun s n up hi => ?_⟩
  dsimp only
  intro hf hend
  have haccessed (a : Nat) : (if (wordFormat (wordAt s n) = 0 ∨ wordFormat (wordAt s n) = 2) ∧
      ((wordSelect (wordAt s n) a).mode = 1 ∨ (wordSelect (wordAt s n) a).mode = 2) ∧ (wordSelect (wordAt s n) a).step = true then
        ((found s n).gen a).move (((found s n).gen a).stride (wordSelect (wordAt s n) a).stride) else (found s n).gen a) =
      (found s n).accessed (wordAt s n) a := by
    simp only [Core.accessed, Gen.stepUnder, ite_and, Bool.and_eq_true, Bool.or_eq_true, decide_eq_true_eq]
  simp only [haccessed]
  have hpc := endedBeat_pc (s.env n) n (wordAt s n) (found s n)
  refine ⟨fun i names hw hn => ?_, fun h hx => ?_, fun h hx => ?_, fun h hx k hk => ?_, fun h hx hk => ?_⟩
  · refine gives_of_not_end hw hi hn hend fun r a ha => ⟨fun hx => ?_, fun hx hk => ?_, fun hx k hk => ?_⟩
    · exact (endedBeat_exit (s.env n) n (found s n) hf hx).1 a ha
    · exact (endedBeat_end (s.env n) n (found s n) hf hx hk).1 a ha
    · exact (endedBeat_repeat (s.env n) n (found s n) hf hx hk).1 a ha
  · exact gives_of_not_end rfl hi h hend fun r => ⟨hpc.trans (nextPc_of_exit hx), (endedBeat_exit (s.env n) n (found s n) hf hx).2⟩
  · exact gives_of_not_end rfl hi h hend fun r => hpc
  · exact gives_of_not_end rfl hi h hend fun r => ⟨hpc.trans (nextPc_of_repeat hx hk), (endedBeat_repeat (s.env n) n (found s n) hf hx hk).2⟩
  · exact gives_of_not_end rfl hi h hend fun r => ⟨hpc.trans (nextPc_of_end hx hk), (endedBeat_end (s.env n) n (found s n) hf hx hk).2⟩

/-! ### Loop set-up words (R84) -/

/-- A set-up word's beat: the loop unit, then the set-up, which the next word sees. -/
theorem endedBeat_setup {w : Word256} (h : wordFormat w = 1) (env : Env) (self : Nat) (c : Core) : ∃ staged beat boundary,
    endedBeat env self w c = { applySetup w (applyLoop w c) with staged := staged, beat := beat, boundary := boundary } := by
  unfold endedBeat finishBeat issueFormat
  simp only [h, if_true]
  exact ⟨_, _, _, rfl⟩

theorem isSetup_iff {k : Nat} {w : Word256} : isSetup k w = true ↔ wordFormat w = 1 ∧ field w 8 4 = k := by simp [isSetup]

/-- What a set-up word of kind `k` gives is what the set-up makes of the core as the loop unit leaves it. -/
theorem gives_of_setup {s : State} {i : Instr} {n : Nat} {up : Bool} {k : Nat} (hw : wordOf i = some (n, up, isSetup k)) (hi : Issues s n up)
    (hk : isSetup k (wordAt s n) = true) {P : Core → Prop}
    (h : ∀ staged beat boundary run, P { applySetup (wordAt s n) (applyLoop (wordAt s n) (found s n)) with
      staged := staged, beat := beat, boundary := boundary, run := run }) : Gives s i n fun t _ => P t := by
  have hf := (isSetup_iff.mp hk).1
  refine gives_of_not_end hw hi hk (not_halt_of_format hf (by decide) 0) fun r => ?_
  obtain ⟨_, _, _, heq⟩ := endedBeat_setup hf (s.env n) n (found s n)
  rw [heq]
  exact h _ _ _ r

theorem setupLevel_incs (w : Word256) {a : Nat} (ha : a < 4) :
    SMap.get 0 ((List.range 4).foldl (fun m a => SMap.set 0 m a (w.extractLsb' (64 + 24 * a) 24)) []) a = w.extractLsb' (64 + 24 * a) 24 := by
  rw [SMap.get_foldl_set 0 fun a => w.extractLsb' (64 + 24 * a) 24, if_pos (List.mem_range.mpr ha)]

theorem setupStrides_stride (w : Word256) {k : Nat} (hk : k < 4) :
    SMap.get 0 ((List.range 4).foldl (fun m k => SMap.set 0 m k (w.extractLsb' (16 + 24 * k) 24)) []) k = w.extractLsb' (16 + 24 * k) 24 := by
  rw [SMap.get_foldl_set 0 fun k => w.extractLsb' (16 + 24 * k) 24, if_pos (List.mem_range.mpr hk)]

theorem applyLoop_sregs (w : Word256) (c : Core) : (applyLoop w c).sregs = c.sregs := (congrArg Core.sregs (applyLoop_frame w c) :)

/-- SET_LEVEL: the level takes the word's values (R84). -/
theorem setupLevel_level (w : Word256) (c : Core) : let l := (setupLevel w c).level (field w 12 3)
    l.active = true ∧ l.count = field w 16 20 ∧ l.remaining = field w 16 20 ∧ l.start = field w 36 11 ∧ l.target = field w 47 11 ∧
      ∀ a < 4, SMap.get 0 l.incs a = w.extractLsb' (64 + 24 * a) 24 := by
  unfold setupLevel
  rw [Core.setLevel_level, if_pos rfl]
  exact ⟨rfl, rfl, rfl, rfl, rfl, fun a ha => setupLevel_incs w ha⟩

/-- SET_BASE: the base, wrapped to its space, is the current address too (R84). -/
theorem setupBase_gen (w : Word256) (c : Core) :
    ((setupBase w c).gen (field w 12 2)).far = flag w 14 ∧
    ((setupBase w c).gen (field w 12 2)).base = (if flag w 14 then w.extractLsb' 16 48 else w.extractLsb' 16 48 &&& 0xFFFFF#48) ∧
    ((setupBase w c).gen (field w 12 2)).cur = ((setupBase w c).gen (field w 12 2)).base := by
  unfold setupBase
  rw [Core.setGen_gen, if_pos rfl]
  exact ⟨rfl, rfl, rfl⟩

/-- LOAD_IMM writes its own register only (R84). -/
theorem setupImm_sreg (w : Word256) (c : Core) (k : Nat) :
    (setupImm w c).sreg k = if k = field w 12 5 then w.extractLsb' 20 64 else c.sreg k := SMap.get_set ..

/-- Settles O19, a kind at a time; a level and a generator read back as set (`setLevel_level`, `setGen_gen`). -/
theorem loopSetup : Obligations.LoopSetup := by
  intro s n up hi
  dsimp only
  refine ⟨fun h => ?_, fun h => ?_, fun h => ?_, fun h => ?_, fun h => ?_⟩ <;>
    refine gives_of_setup rfl hi h fun staged beat boundary run => ?_ <;>
    rw [applySetup, (isSetup_iff.mp h).2]
  · exact setupLevel_level (wordAt s n) (applyLoop (wordAt s n) (found s n))
  · exact setupBase_gen (wordAt s n) (applyLoop (wordAt s n) (found s n))
  · intro k hk
    change ((setupStrides (wordAt s n) (applyLoop (wordAt s n) (found s n))).gen (field (wordAt s n) 12 2)).stride k = _
    rw [setupStrides, Core.setGen_gen, if_pos rfl]
    exact setupStrides_stride _ hk
  · exact (SMap.get_set ..).trans (if_pos rfl)
  · have hread (k : Nat) := setupImm_sreg (wordAt s n) (applyLoop (wordAt s n) (found s n)) k
    refine ⟨(hread _).trans (if_pos rfl), fun k hk => (hread k).trans ((if_neg hk).trans ?_)⟩
    rw [Core.sreg, applyLoop_sregs]
    rfl

/-! ### Messages and bindings (R86, R98, R105, R108, R111) -/

theorem Core.mem_mark_lines {c : Core} {lines rows sregs : List Nat} {k : Nat} (h : k ∈ lines) : k ∈ (c.mark lines rows sregs).pendLines :=
  NatSet.mem_addAll.mpr (.inl h)

theorem Core.mem_mark_sregs {c : Core} {lines rows sregs : List Nat} {k : Nat} (h : k ∈ sregs) : k ∈ (c.mark lines rows sregs).pendSregs :=
  NatSet.mem_addAll.mpr (.inl h)

theorem mem_upFrom {lo n k : Nat} (h : k < n) : lo + k ∈ upFrom lo n := List.mem_map_of_mem (List.mem_range.mpr h)

/-- What a message or a binding writes stands alike in two cores. -/
structure SameMail (c d : Core) : Prop where
  sends : d.sends = c.sends
  windows : d.windows = c.windows
  binds : d.binds = c.binds
  flight : d.flight = c.flight
  lines : d.pendLines = c.pendLines
  sregs : d.pendSregs = c.pendSregs

theorem SameMail.of_sansGens {c d : Core} (h : d.sansGens = c.sansGens) : SameMail c d :=
  ⟨(congrArg Core.sends h :), (congrArg Core.windows h :), (congrArg Core.binds h :), (congrArg Core.flight h :),
    (congrArg Core.pendLines h :), (congrArg Core.pendSregs h :)⟩

theorem SameMail.of_sansEnd {c d : Core} (h : d.sansEnd = c.sansEnd) (r : RunState) : SameMail c { d with run := r } :=
  ⟨(congrArg Core.sends h :), (congrArg Core.windows h :), (congrArg Core.binds h :), (congrArg Core.flight h :),
    (congrArg Core.pendLines h :), (congrArg Core.pendSregs h :)⟩

theorem SameMail.trans {c d e : Core} (h : SameMail c d) (k : SameMail d e) : SameMail c e :=
  ⟨k.sends.trans h.sends, k.windows.trans h.windows, k.binds.trans h.binds, k.flight.trans h.flight, k.lines.trans h.lines,
    k.sregs.trans h.sregs⟩

section
variable {s : State} {i : Instr} {n : Nat} {up : Bool}

theorem isMessage_iff {k : Nat} {w : Word256} : isMessage k w = true ↔ wordFormat w = 2 ∧ field w 8 3 = k := by simp [isMessage]

theorem isBind_iff {b : Bool} {w : Word256} : isBind b w = true ↔ wordFormat w = 3 ∧ flag w 26 = b := by simp [isBind]

/-- What a message word gives is what its operation makes of the core it finds, the rest of the beat aside. -/
theorem gives_of_message {k : Nat} (hw : wordOf i = some (n, up, isMessage k)) (hi : Issues s n up) (hk : isMessage k (wordAt s n) = true)
    {m : Issued} (hm : issueMessage n (wordAt s n) (found s n) = m) {P : Core → List Out → Prop}
    (h : ∀ d outs, SameMail m.core d → (∀ o ∈ m.outs, o ∈ outs) → P d outs) : Gives s i n P := by
  subst hm
  have hf : wordFormat (wordAt s n) = 2 := (isMessage_iff.mp hk).1
  refine gives_of_not_end hw hi hk (not_halt_of_format hf (by decide) 0) fun r => h _ _ ?_ ?_
  · refine .trans ?_ (.of_sansEnd (endedBeat_frame (s.env n) n (wordAt s n) (found s n)) r)
    simp only [issueFormat, hf]
    exact .of_sansGens (stepGens_frame ..)
  · intro o ho
    simp only [issueFormat, hf]
    exact List.mem_append_right _ ho

/-- What a binding word gives is what it makes of the core it finds, the rest of the beat aside. -/
theorem gives_of_bind {b : Bool} (hw : wordOf i = some (n, up, isBind b)) (hi : Issues s n up) (hb : isBind b (wordAt s n) = true)
    {P : Core → Prop} (h : ∀ d, SameMail (issueBind (wordAt s n) (found s n)) d → P d) : Gives s i n fun t _ => P t := by
  have hf : wordFormat (wordAt s n) = 3 := (isBind_iff.mp hb).1
  refine gives_of_not_end hw hi hb (not_halt_of_format hf (by decide) 0) fun r => h _ ?_
  have hend := endedBeat_frame (s.env n) n (wordAt s n) (found s n)
  simp only [issueFormat, hf] at hend
  exact .of_sansEnd hend r
end

theorem messageSend_outstanding (self : Nat) (w : Word256) (c : Core) :
    (SMap.get ⟨0, 0⟩ (messageSend self w c).core.sends (field w 11 4)).outstanding =
      (SMap.get ⟨0, 0⟩ c.sends (field w 11 4)).outstanding + 1 := by
  unfold messageSend
  dsimp only
  rw [SMap.get_set, if_pos rfl]

theorem messageWaitSend_sends (w : Word256) (c : Core) : SMap.get ⟨0, 0⟩ (messageWaitSend w c).sends (field w 11 4) =
    { SMap.get ⟨0, 0⟩ c.sends (field w 11 4) with failed := 0 } :=
  (SMap.get_set ..).trans (if_pos rfl)

/-- POST's window holds the sender of the message that was held for it (R98, R105). -/
theorem messagePost_of_held {w : Word256} {c : Core} {m : Msg} (h : SMap.find? c.holding (field w 11 4) = some m) :
    ∃ v, SMap.find? (messagePost w c).windows (field w 11 4) = some v ∧ v.senders = [m.sender] := by
  unfold messagePost
  dsimp only
  rw [h]
  exact ⟨_, (SMap.find?_put ..).trans (if_pos rfl), rfl⟩

/-- POST without a held message opens an empty window and marks its lines (R98). -/
theorem messagePost_of_none_held {w : Word256} {c : Core} (h : SMap.find? c.holding (field w 11 4) = none) :
    SMap.find? (messagePost w c).windows (field w 11 4) = some ⟨(c.access w (field w 20 2)).addr / 64, field w 22 7, []⟩ ∧
    ∀ k < field w 22 7, (c.access w (field w 20 2)).addr / 64 + k ∈ (messagePost w c).pendLines := by
  unfold messagePost
  dsimp only
  rw [h]
  exact ⟨(SMap.find?_put ..).trans (if_pos rfl), fun k hk => Core.mem_mark_lines (mem_upFrom hk)⟩

theorem messageWaitRecv_of_window {w : Word256} {c : Core} {v : Window} (h : SMap.find? c.windows (field w 11 4) = some v) :
    messageWaitRecv w c = c.status w (v.senders.getD (field w 22 7 - 1) 0) := by
  unfold messageWaitRecv
  rw [h]

/-- A wait's status is in flight, its register's pending-write bit set. -/
theorem Core.status_flies (c : Core) (w : Word256) (v : Nat) :
    (⟨c.beat + 1, .sreg (field w 15 5) (BitVec.ofNat 64 v)⟩ : Landing) ∈ (c.status w v).flight ∧ field w 15 5 ∈ (c.status w v).pendSregs :=
  ⟨List.mem_append_right _ (List.mem_singleton.mpr rfl), Core.mem_mark_sregs (List.mem_singleton.mpr rfl)⟩

/-- Settles O21: `gives_of_message` and `gives_of_bind` reduce each clause to what the operation itself makes of the core. -/
theorem messageWords : Obligations.MessageWords := by
  intro s n up hi
  dsimp only
  have hop {k : Nat} (h : isMessage k (wordAt s n) = true) := (isMessage_iff.mp h).2
  refine ⟨fun h => ?_, fun h hnone => ?_, fun h m hheld => ?_, fun h v hv => ?_, fun h => ⟨?_, ?_⟩, fun h => ?_, fun h => ?_⟩
  · refine gives_of_message rfl hi h (m := messageSend n (wordAt s n) (found s n)) (by simp only [issueMessage, hop h]) fun d outs hd ho =>
      ⟨ho _ (List.mem_singleton.mpr rfl), ?_⟩
    rw [hd.sends]
    exact messageSend_outstanding ..
  · refine gives_of_message rfl hi h (m := ⟨messagePost (wordAt s n) (found s n), []⟩) (by simp only [issueMessage, hop h]) fun d outs hd _ => ?_
    obtain ⟨hwin, hlines⟩ := messagePost_of_none_held hnone
    exact ⟨_, (congrArg (SMap.find? · _) hd.windows).trans hwin, rfl, rfl, rfl, fun k hk => hd.lines ▸ hlines k hk⟩
  · refine gives_of_message rfl hi h (m := ⟨messagePost (wordAt s n) (found s n), []⟩) (by simp only [issueMessage, hop h]) fun d outs hd _ => ?_
    rw [hd.windows]
    exact messagePost_of_held hheld
  · refine gives_of_message rfl hi h (m := ⟨(found s n).status (wordAt s n) (v.senders.getD (field (wordAt s n) 22 7 - 1) 0), []⟩)
      (by simp only [issueMessage, hop h, messageWaitRecv_of_window hv]) fun d outs hd _ => ?_
    rw [hd.flight, hd.sregs]
    exact Core.status_flies ..
  · refine gives_of_message rfl hi h (m := ⟨messageWaitSend (wordAt s n) (found s n), []⟩) (by simp only [issueMessage, hop h]) fun d outs hd _ => ?_
    rw [hd.flight, hd.sregs]
    exact Core.status_flies ..
  · refine gives_of_message rfl hi h (m := ⟨messageWaitSend (wordAt s n) (found s n), []⟩) (by simp only [issueMessage, hop h]) fun d outs hd _ => ?_
    rw [hd.sends, messageWaitSend_sends]
    exact ⟨rfl, rfl⟩
  · refine gives_of_bind rfl hi h fun d hd => ?_
    rw [hd.binds, issueBind, (isBind_iff.mp h).2]
    exact (SMap.find?_put ..).trans (if_pos rfl)
  · refine gives_of_bind rfl hi h fun d hd => ?_
    rw [hd.binds, issueBind, (isBind_iff.mp h).2]
    rfl

end Sys2Proof.Machine
end

section
/-!
PROOF. The halt and debug words (O22): END's drain ends with everything landed and every packer row read within its fuel, or with an early
read.
-/
namespace Sys2Proof

theorem foldl_max_ge : ∀ (xs : List Nat) (m : Nat), m ≤ xs.foldl max m ∧ ∀ x ∈ xs, x ≤ xs.foldl max m
  | [], m => ⟨le_rfl, by simp⟩
  | y :: ys, m => by
    obtain ⟨hm, hys⟩ := foldl_max_ge ys (max m y)
    exact ⟨(le_max_left m y).trans hm, List.forall_mem_cons.mpr ⟨(le_max_right m y).trans hm, hys⟩⟩

theorem le_listMax {x : Nat} {xs : List Nat} (h : x ∈ xs) : x ≤ listMax xs := (foldl_max_ge xs 0).2 x h

theorem foldl_min_le : ∀ (xs : List Nat) (m : Nat), xs.foldl min m ≤ m ∧ ∀ x ∈ xs, xs.foldl min m ≤ x
  | [], m => ⟨le_rfl, by simp⟩
  | y :: ys, m => by
    obtain ⟨hm, hys⟩ := foldl_min_le ys (min m y)
    exact ⟨hm.trans (min_le_left m y), List.forall_mem_cons.mpr ⟨hm.trans (min_le_right m y), hys⟩⟩

theorem listMin_le {d x : Nat} : ∀ {xs : List Nat}, x ∈ xs → listMin d xs ≤ x
  | y :: ys, h => by
    rcases List.mem_cons.mp h with rfl | h
    · exact (foldl_min_le ys x).1
    · exact (foldl_min_le ys y).2 x h

end Sys2Proof

namespace Sys2Proof.Machine

open Sys2Proof.Claims

/-! ### What landings leave in flight (R94, R97) -/

theorem takeDue_some {t : Nat} {fs rest : List Landing} {l : Landing} (h : takeDue t fs = some (l, rest)) : l ∈ fs ∧ rest = fs.erase l := by
  unfold takeDue at h
  dsimp only at h
  split at h
  · cases h
  · next x xs hdue =>
    obtain ⟨rfl, rfl⟩ := Prod.mk.inj (Option.some.inj h)
    refine ⟨?_, rfl⟩
    have hsub (y : Landing) (hy : y ∈ x :: xs) : y ∈ fs := (List.mem_filter.mp (hdue ▸ hy)).1
    refine List.foldlRecOn (motive := (· ∈ fs)) xs _ (hsub x List.mem_cons_self) fun m hm y hy => ?_
    split
    · exact hsub y (List.mem_cons_of_mem x hy)
    · exact hm

theorem takeDue_none {t : Nat} {fs : List Landing} (h : takeDue t fs = none) : ∀ l ∈ fs, t < l.due := by
  unfold takeDue at h
  dsimp only at h
  split at h
  · next hdue => exact fun l hl => Nat.lt_of_not_le fun hle => List.not_mem_nil (hdue ▸ List.mem_filter.mpr ⟨hl, decide_eq_true hle⟩)
  · cases h

/-- A packer that the landing of a collective's report starts (R236). -/
def Landing.starts (env : Env) (l : Landing) (p : Packer) : Prop :=
  (∃ slot desc keep since addr, l.effect = .report slot desc keep since addr) ∧ p.start = l.due + 1 ∧ p.read = 0 ∧
    ∃ d e, env.entry d = some e ∧ p.count = e.count

/-- A landing leaves the others in flight and the array, and every packer but one that it starts. -/
theorem land_keeps (env : Env) (i : Issued) (l : Landing) :
    let j := land env i l.due l.effect
    j.core.flight = i.core.flight ∧ j.core.array = i.core.array ∧ ∀ p ∈ j.core.packers, p ∈ i.core.packers ∨ l.starts env p := by
  have hacc (c : Core) (b : Bool) (k : Nat) (e : Events) : (c.addEvents b k e).flight = c.flight ∧ (c.addEvents b k e).array = c.array ∧
      (c.addEvents b k e).packers = c.packers := by
    unfold Core.addEvents
    split <;> exact ⟨rfl, rfl, rfl⟩
  obtain ⟨due, effect⟩ := l
  dsimp only
  cases effect with
  | sreg | locals | rows | gen => exact ⟨rfl, rfl, fun p hp => .inl hp⟩
  | acc line init int vals slot ev =>
    cases slot with
    | none => exact ⟨rfl, rfl, fun p hp => .inl hp⟩
    | some k =>
      obtain ⟨hf, ha, hp⟩ := hacc { i.core with mem := _, pendLines := _ } true k (ev.add { Events.zero with sat := _ })
      exact ⟨hf, ha, fun p h => .inl (hp ▸ h)⟩
  | report slot desc keep since addr =>
    unfold land
    dsimp only
    generalize hc : (if (keep || !_) = true then i.core else _) = c1
    obtain ⟨hf, ha, hp⟩ : c1.flight = i.core.flight ∧ c1.array = i.core.array ∧ c1.packers = i.core.packers := by
      subst hc
      split <;> exact ⟨rfl, rfl, rfl⟩
    rw [← hf, ← ha, ← hp]
    split
    · next e he =>
      split
      · refine ⟨rfl, rfl, fun p h => (List.mem_append.mp h).imp_right fun h => ?_⟩
        cases List.mem_singleton.mp h
        exact ⟨⟨_, _, _, _, _, rfl⟩, rfl, rfl, desc, e, he, rfl⟩
      · exact ⟨rfl, rfl, fun p h => .inl h⟩
    · exact ⟨rfl, rfl, fun p h => .inl h⟩

/-- Landings up to a beat: nothing joins what is in flight, the array stands, and each new packer was started by a landing. -/
theorem landUpTo_keeps (env : Env) (t : Nat) : ∀ (fuel : Nat) (i : Issued), let j := landUpTo env t fuel i
    (∀ l ∈ j.core.flight, l ∈ i.core.flight) ∧ j.core.array = i.core.array ∧
      ∀ p ∈ j.core.packers, p ∈ i.core.packers ∨ ∃ l ∈ i.core.flight, l.starts env p
  | 0, i => ⟨fun _ h => h, rfl, fun _ h => .inl h⟩
  | fuel + 1, i => by
    dsimp only
    unfold landUpTo
    split
    · exact ⟨fun _ h => h, rfl, fun _ h => .inl h⟩
    · next l rest h =>
      obtain ⟨hl, rfl⟩ := takeDue_some h
      obtain ⟨hf, ha, hp⟩ := land_keeps env { i with core := { i.core with flight := i.core.flight.erase l } } l
      obtain ⟨kf, ka, kp⟩ := landUpTo_keeps env t fuel (land env { i with core := { i.core with flight := i.core.flight.erase l } } l.due l.effect)
      have hsub (m : Landing) (hm : m ∈ (land env { i with core := { i.core with flight := i.core.flight.erase l } } l.due l.effect).core.flight) :
          m ∈ i.core.flight := List.mem_of_mem_erase (hf ▸ hm)
      refine ⟨fun m hm => hsub m (kf m hm), ka.trans ha, fun p hmem => ?_⟩
      rcases kp p hmem with h | ⟨m, hm, hs⟩
      · exact (hp p h).imp_right fun hs => ⟨l, hl, hs⟩
      · exact .inr ⟨m, hsub m hm, hs⟩

/-- With a round for each operation in flight, nothing due is left. -/
theorem landUpTo_due (env : Env) (t : Nat) : ∀ (fuel : Nat) (i : Issued), i.core.flight.length ≤ fuel →
    ∀ l ∈ (landUpTo env t fuel i).core.flight, t < l.due
  | 0, i, hlen => by
    have : i.core.flight = [] := List.length_eq_zero_iff.mp (Nat.le_zero.mp hlen)
    simp [landUpTo, this]
  | fuel + 1, i, hlen => by
    unfold landUpTo
    split
    · next h => exact takeDue_none h
    · next l rest h =>
      obtain ⟨hl, rfl⟩ := takeDue_some h
      refine landUpTo_due env t fuel _ ?_
      rw [(land_keeps env { i with core := { i.core with flight := i.core.flight.erase l } } l).1, List.length_erase_of_mem hl]
      omega

/-- Weight rows due by a beat have left the rows held. -/
theorem landRows_rows (t : Nat) (x : ArrayState) : (landRows t x).rows = x.rows.filter fun r => !decide (r.due ≤ t) := by
  have htake (x : ArrayState) (r : WeightRow) : (x.takeRow r).rows = x.rows := by
    unfold ArrayState.takeRow
    dsimp only
    split <;> rfl
  exact List.foldlRecOn (motive := fun y => y.rows = x.rows.filter fun r => !decide (r.due ≤ t)) (x.rows.filter fun r => r.due ≤ t)
    ArrayState.takeRow (b := { x with rows := _ }) rfl fun y hy r _ => (htake y r).trans hy

/-! ### END's drain (R87, R237) -/

/-- A packer's rows that a core of the module has still to read: none, or few enough for `fuel` beats from `t` on. -/
def Packer.readsBy (fuel t : Nat) (p : Packer) : Prop :=
  4 * p.count ≤ p.read ∨ (4 * p.count ≤ p.read + fuel ∧ p.start + 4 * p.count ≤ t + fuel)

/-- Whether `fuel` beats from `t` on suffice for everything in flight to land and every packer to read its rows; a report that lands
leaves 513 beats for its packer, of 128 lines at most. -/
structure Core.DrainsBy (fuel t : Nat) (c : Core) : Prop where
  flight : ∀ l ∈ c.flight, l.due + 513 ≤ t + fuel ∧ 513 ≤ fuel
  rows : ∀ r ∈ c.array.rows, r.due < t + fuel ∧ 0 < fuel
  packers : ∀ p ∈ c.packers, p.readsBy fuel t

/-- One beat of a drain before the packers read: what is due has landed. -/
def Issued.landed (env : Env) (t : Nat) (i : Issued) : Issued :=
  let j := landUpTo env t i.core.flight.length i
  { j with core := { j.core with array := landRows t j.core.array } }

theorem packRows_early {t a : Nat} {c d : Core} (h : packRows t c = (d, some a)) : ∃ p ∈ c.packers, p.read < 4 * p.count := by
  unfold packRows at h
  dsimp only at h
  split at h
  · next p hp =>
    have := List.find?_some hp
    simp only [Bool.and_eq_true, decide_eq_true_eq] at this
    exact ⟨p, List.mem_of_find?_eq_some hp, this.1.1⟩
  · cases h

theorem packRows_none {t : Nat} {c d : Core} (h : packRows t c = (d, none)) : d.flight = c.flight ∧ d.array = c.array ∧
    ∀ q ∈ d.packers, ∃ p ∈ c.packers, q.start = p.start ∧ q.count = p.count ∧
      ((p.read < 4 * p.count ∧ p.start + p.read ≤ t ∧ q.read = p.read + 1) ∨
        ((4 * p.count ≤ p.read ∨ t < p.start + p.read) ∧ q.read = p.read)) := by
  unfold packRows at h
  dsimp only at h
  split at h
  · cases h
  · cases h
    refine ⟨rfl, rfl, fun q hq => ?_⟩
    obtain ⟨p, hp, rfl⟩ := List.mem_map.mp hq
    refine ⟨p, hp, ?_⟩
    split
    · next hcond =>
      simp only [Bool.and_eq_true, decide_eq_true_eq] at hcond
      exact ⟨rfl, rfl, .inl ⟨hcond.1, hcond.2, rfl⟩⟩
    · next hcond =>
      simp only [Bool.and_eq_true, decide_eq_true_eq] at hcond
      exact ⟨rfl, rfl, .inr ⟨by omega, rfl⟩⟩

/-- A round of a drain unrolled. -/
theorem drain_succ (env : Env) (fuel t : Nat) (i : Issued) : drain env (fuel + 1) t i =
    if i.core.busy then
      if h : (packRows t (i.landed env t).core).2.isSome then (haltCore env ((packRows t (i.landed env t).core).2.get h) 0x10 t (i.landed env t), true)
      else drain env fuel (t + 1) { i.landed env t with core := (packRows t (i.landed env t).core).1 }
    else (i, false) := by
  rw [drain]
  split
  · rcases hp : packRows t (i.landed env t).core with ⟨c, _ | a⟩
    · simp [Issued.landed] at hp ⊢
      simp [hp]
    · simp [Issued.landed] at hp ⊢
      simp [hp]
  · rfl

theorem Issued.landed_keeps (env : Env) (t : Nat) (i : Issued) :
    (∀ l ∈ (i.landed env t).core.flight, l ∈ i.core.flight ∧ t < l.due) ∧
    (∀ r ∈ (i.landed env t).core.array.rows, r ∈ i.core.array.rows ∧ t < r.due) ∧
    ∀ p ∈ (i.landed env t).core.packers, p ∈ i.core.packers ∨ ∃ l ∈ i.core.flight, l.starts env p := by
  obtain ⟨hf, ha, hp⟩ := landUpTo_keeps env t i.core.flight.length i
  refine ⟨fun l hl => ⟨hf l hl, landUpTo_due env t _ i le_rfl l hl⟩, fun r hr => ?_, hp⟩
  change r ∈ (landRows t (landUpTo env t i.core.flight.length i).core.array).rows at hr
  rw [landRows_rows, ha, List.mem_filter] at hr
  exact ⟨hr.1, by simpa using hr.2⟩

/-- A round of a drain keeps the fuel sufficient. -/
theorem Core.DrainsBy.next {env : Env} {fuel t : Nat} {i : Issued} {d : Core} (hcount : ∀ a e, env.entry a = some e → e.count ≤ 128)
    (h : i.core.DrainsBy (fuel + 1) t) (hd : packRows t (i.landed env t).core = (d, none)) : d.DrainsBy fuel (t + 1) := by
  obtain ⟨hf, ha, hp⟩ := packRows_none hd
  obtain ⟨kf, kr, kp⟩ := i.landed_keeps env t
  refine ⟨fun l hl => ?_, fun r hr => ?_, fun q hq => ?_⟩
  · obtain ⟨hl, hdue⟩ := kf l (hf ▸ hl)
    have := h.flight l hl
    omega
  · obtain ⟨hr, hdue⟩ := kr r (ha ▸ hr)
    have := h.rows r hr
    omega
  · obtain ⟨p, hmem, hstart, hcnt, hread⟩ := hp q hq
    unfold Packer.readsBy
    rcases kp p hmem with hold | ⟨l, hl, -, hs, h0, _, e, he, hc⟩
    · have := h.packers p hold
      unfold Packer.readsBy at this
      omega
    · have hle := hcount _ e he
      have := h.flight l hl
      omega

theorem Core.DrainsBy.done {t : Nat} {c : Core} (h : c.DrainsBy 0 t) : c.busy = false := by
  have hf : c.flight = [] := List.eq_nil_iff_forall_not_mem.mpr fun l hl => absurd (h.flight l hl).2 (by decide)
  have hr : c.array.rows = [] := List.eq_nil_iff_forall_not_mem.mpr fun r hr => absurd (h.rows r hr).2 (by decide)
  have hp : (c.packers.any fun p => p.read < 4 * p.count) = false := by
    simp only [List.any_eq_false, decide_eq_true_eq]
    intro p hp
    have := h.packers p hp
    unfold Packer.readsBy at this
    omega
  simp [Core.busy, hf, hr, hp]

/-- A drain with enough fuel that meets no early read ends with nothing left to land or to read. -/
theorem drain_done {env : Env} (hcount : ∀ a e, env.entry a = some e → e.count ≤ 128) : ∀ {fuel t : Nat} {i j : Issued},
    i.core.DrainsBy fuel t → drain env fuel t i = (j, false) → j.core.busy = false
  | 0, t, i, j, h, hj => by
    cases hj
    exact h.done
  | fuel + 1, t, i, j, h, hj => by
    rw [drain_succ] at hj
    split at hj
    · split at hj
      · cases hj
      · next hsome =>
        exact drain_done hcount (h.next hcount (Prod.ext rfl (Option.not_isSome_iff_eq_none.mp hsome))) hj
    · next hbusy =>
      cases hj
      exact Bool.eq_false_iff.mpr hbusy

/-- A drain that meets an early read ends in the halt 0x10 (R237). -/
theorem drain_early {env : Env} : ∀ {fuel t : Nat} {i j : Issued}, drain env fuel t i = (j, true) →
    ∃ (k : Issued) (addr beat : Nat), j = k.stop addr 0x10 beat
  | 0, t, i, j, h => by cases h
  | fuel + 1, t, i, j, h => by
    rw [drain_succ] at h
    split at h
    · split at h
      · cases h
        exact ⟨_, _, _, rfl⟩
      · exact drain_early h
    · cases h

/-- With every packer done and no report in flight, no row is read too early. -/
theorem drain_not_early {env : Env} : ∀ {fuel t : Nat} {i : Issued}, (∀ p ∈ i.core.packers, 4 * p.count ≤ p.read) →
    (∀ l ∈ i.core.flight, ∀ slot desc keep since addr, l.effect ≠ .report slot desc keep since addr) → (drain env fuel t i).2 = false
  | 0, t, i, _, _ => rfl
  | fuel + 1, t, i, hp, hf => by
    obtain ⟨kf, -, kp⟩ := i.landed_keeps env t
    have hold (p : Packer) (h : p ∈ (i.landed env t).core.packers) : 4 * p.count ≤ p.read := by
      rcases kp p h with h | ⟨l, hl, ⟨_, _, _, _, _, heff⟩, -⟩
      · exact hp p h
      · exact absurd heff (hf l hl _ _ _ _ _)
    rcases hpack : packRows t (i.landed env t).core with ⟨d, _ | a⟩
    · obtain ⟨df, -, dp⟩ := packRows_none hpack
      rw [drain_succ, hpack]
      split
      · refine drain_not_early (fun q hq => ?_) fun l hl => hf l (kf l (df ▸ hl)).1
        obtain ⟨p, hmem, -, hcnt, hread⟩ := dp q hq
        have := hold p hmem
        omega
      · rfl
    · obtain ⟨p, hmem, hlt⟩ := packRows_early hpack
      exact absurd (hold p hmem) (Nat.not_le.mpr hlt)

/-- The fuel of END's drain suffices (R87). -/
theorem drainsBy_drainFuel (c : Core) (t : Nat) : c.DrainsBy (drainFuel c) (t + 1) := by
  unfold drainFuel
  refine ⟨fun l hl => ?_, fun r hr => ?_, fun p hp => ?_⟩
  · have : l.due ≤ listMax (c.flight.map (·.due)) := le_listMax (List.mem_map_of_mem hl)
    omega
  · have : r.due ≤ listMax (c.array.rows.map (·.due)) := le_listMax (List.mem_map_of_mem hr)
    omega
  · have : p.start + 4 * p.count ≤ (c.packers.map fun p => p.start + 4 * p.count).sum := List.le_sum_of_mem (List.mem_map_of_mem hp)
    unfold Packer.readsBy
    omega

theorem Core.of_not_busy {c : Core} (h : c.busy = false) : c.flight = [] ∧ c.array.rows = [] ∧ ∀ p ∈ c.packers, 4 * p.count ≤ p.read := by
  simpa [Core.busy, and_assoc] using h

theorem Issued.stop_last (i : Issued) (outs : List Out) (addr reason beat : Nat) : (outs ++ (i.stop addr reason beat).outs).getLast? = some (.stop reason) := by
  simp [Issued.stop]

/-! ### END, BREAK, CHECK and illegal words (R76, R87) -/

theorem isHalt_iff {k : Nat} {w : Word256} : isHalt k w = true ↔ wordFormat w = 4 ∧ field w 8 3 = k := by simp [isHalt]

theorem isHalt_other {j k : Nat} {w : Word256} (h : isHalt k w = true) (hj : j ≠ k) : isHalt j w = false :=
  Bool.eq_false_iff.mpr fun h' => hj ((isHalt_iff.mp h').2.symm.trans (isHalt_iff.mp h).2)

/-- END's word ends in its drain (R87). -/
theorem issueAt_of_end {s : State} {n : Nat} (h : isHalt 0 (wordAt s n) = true) :
    issueAt s n = drainEnd (s.env n) (found s n).pc (found s n).beat (drainFuel (found s n)) ((found s n).beat + 1)
      ⟨{ found s n with boundary := true }, []⟩ := if_pos h

/-- How END's wait ends: with an early read and its halt, or with nothing left to land or to read, END's own stop. -/
theorem drainEnd_cases {env : Env} {addr beat : Nat} {c : Core} :
    (∃ (k : Issued) (a t : Nat), drainEnd env addr beat (drainFuel c) (beat + 1) ⟨{ c with boundary := true }, []⟩ = k.stop a 0x10 t ∧
      ¬ ((∀ p ∈ c.packers, 4 * p.count ≤ p.read) ∧
        ∀ l ∈ c.flight, ∀ slot desc keep since addr, l.effect ≠ .report slot desc keep since addr)) ∨
    ∃ k : Issued, drainEnd env addr beat (drainFuel c) (beat + 1) ⟨{ c with boundary := true }, []⟩ = k.stop addr 0 beat ∧
      ((∀ d e, env.entry d = some e → e.count ≤ 128) → k.core.busy = false) := by
  have hfuel : Core.DrainsBy (drainFuel c) (beat + 1) { c with boundary := true } := drainsBy_drainFuel { c with boundary := true } beat
  unfold drainEnd
  rcases h : drain env (drainFuel c) (beat + 1) ⟨{ c with boundary := true }, []⟩ with ⟨j, _ | _⟩
  · exact .inr ⟨j, rfl, fun hcount => drain_done hcount hfuel h⟩
  · obtain ⟨k, a, t, rfl⟩ := drain_early h
    refine .inl ⟨k, a, t, rfl, fun ⟨hp, hf⟩ => ?_⟩
    have hnot := drain_not_early (env := env) (fuel := drainFuel c) (t := beat + 1) (i := ⟨{ c with boundary := true }, []⟩) hp hf
    rw [h] at hnot
    cases hnot

/-- The lowest reason of a word is met where a reason below 0x25 is, and retires no region. -/
theorem retireFor_of_reason {s : State} {n : Nat} {up : Bool} {x : Nat} (h : x ∈ reasons (s.env n) (found s n) up) (hx : x < 0x25) :
    s.retireFor n up = s := by
  have := listMin_le (d := 0) h
  exact State.retireFor_of_other (by omega)

/-- A word that meets the reason `x` stops its core with a reason no higher. -/
theorem gives_of_reason {s : State} {i : Instr} {n : Nat} {up : Bool} {names : Word256 → Bool} (hw : wordOf i = some (n, up, names))
    (hh : Halts s n up) (hn : names (wordAt s n) = true) {x : Nat} (h : x ∈ reasons (s.env n) (found s n) up) (hx : x < 0x25)
    {P : Core → List Out → Prop} (hP : ∀ c outs, c.run = .idle → outs.getLast? = some (.stop (listMin 0 (reasons (s.env n) (found s n) up))) →
      P c outs) : Gives s i n P := by
  have hexec := exec_of_halts hw hh hn
  rw [retireFor_of_reason h hx] at hexec
  exact ⟨_, _, hexec, hP _ _ rfl List.getLast?_concat⟩

theorem mem_reasons_of_static {env : Env} {c : Core} {up : Bool} {x : Nat} (h : x ∈ staticReasons (c.word c.pc)) : x ∈ reasons env c up := by
  unfold reasons
  simp only [List.mem_append]
  exact .inl (.inl (.inr h))

/-- CHECK of a register that is not zero meets the reason 0x0E, or 0x10 while a write of the register is pending (R87, R99). -/
theorem mem_reasons_of_check {env : Env} {c : Core} {up : Bool} (h : isHalt 2 (c.word c.pc) = true)
    (hz : c.sreg (field (c.word c.pc) 11 5) ≠ 0) :
    (if c.pendSreg (field (c.word c.pc) 11 5) then 0x10 else 0x0E) ∈ reasons env c up := by
  obtain ⟨hf, hk⟩ := isHalt_iff.mp h
  have hmem : (if c.pendSreg (field (c.word c.pc) 11 5) then 0x10 else 0x0E) ∈ haltStateReasons c (c.word c.pc) := by
    simp only [haltStateReasons, hk, if_true]
    split
    · exact List.mem_singleton.mpr rfl
    · rw [show (c.sreg (field (c.word c.pc) 11 5) != 0) = true from bne_iff_ne.mpr hz]
      exact List.mem_singleton.mpr rfl
  unfold reasons
  simp only [hf, List.mem_append]
  exact .inr hmem

/-- Settles O22: END by `drainEnd_cases`, BREAK and CHECK by the end of their beat, a halt by its reasons. -/
theorem haltWords : Obligations.HaltWords := by
  intro s n up
  dsimp only
  refine ⟨fun hi h => ?_, fun hi h => ?_, fun hi h _ => ?_, fun h hz hi => ?_, fun hh h hz hpend => ?_, fun hh h => ?_⟩
  · refine gives_of_issues rfl hi h ?_
    unfold sentAt
    rw [issueAt_of_end h]
    rcases drainEnd_cases (env := s.env n) (addr := (found s n).pc) (beat := (found s n).beat) (c := found s n) with
      ⟨k, a, t, heq, hearly⟩ | ⟨k, heq, hdone⟩
    · rw [heq]
      exact ⟨rfl, 0x10, Issued.stop_last .., .inr rfl, fun h0 => absurd h0 (by decide), fun hp hf => absurd ⟨hp, hf⟩ hearly⟩
    · rw [heq]
      exact ⟨rfl, 0, Issued.stop_last .., .inl rfl, fun _ => ⟨rfl, fun hcount => Core.of_not_busy (hdone hcount)⟩, fun _ _ => rfl⟩
  · refine gives_of_issues rfl hi h ?_
    rw [issueAt_of_not_end (isHalt_other h (by decide)), h, show (s.env n).debugging = s.testPort.core from rfl]
    have hrun := (Core.stands_of_frame (endedBeat_sansIssue (s.env n) n (wordAt s n) (found s n))).1.trans (found_running hi)
    cases s.testPort.core
    · simp [hrun]
    · simp
  · refine gives_of_issues rfl hi h ?_
    rw [issueAt_of_not_end (isHalt_other h (by decide)), isHalt_other h (j := 1) (by decide)]
    exact ⟨(Core.stands_of_frame (endedBeat_sansIssue ..)).1.trans (found_running hi), endedBeat_pc ..⟩
  · have hmem := mem_reasons_of_check (env := s.env n) (up := up) h hz
    rw [hi.halts] at hmem
    exact List.not_mem_nil hmem
  · have hmem : 0x0E ∈ reasons (s.env n) (found s n) up := by
      have := mem_reasons_of_check (env := s.env n) (up := up) h hz
      rwa [show (found s n).pendSreg (field ((found s n).word (found s n).pc) 11 5) = false from hpend] at this
    refine gives_of_reason rfl hh h hmem (by decide) fun c outs hrun hlast => ⟨hrun, _, listMin_le hmem, hlast, hmem, fun hall => ?_⟩
    rw [hall]
    rfl
  · obtain ⟨x, hle, hx⟩ : ∃ x ≤ 2, x ∈ staticReasons (wordAt s n) := by
      simp only [isIllegal, Bool.or_eq_true, List.contains_iff_mem] at h
      exact h.elim (fun h => ⟨1, by decide, h⟩) fun h => ⟨2, le_rfl, h⟩
    have hmem := mem_reasons_of_static (env := s.env n) (up := up) hx
    exact gives_of_reason rfl hh h hmem (by omega) fun c outs hrun hlast => ⟨hrun, _, hlast, (listMin_le hmem).trans hle⟩

end Sys2Proof.Machine
end

section
/-!
PROOF. A readout's writes and the frame of a compute word (O18, O60).
-/
namespace Sys2Proof

theorem slice_getD {bs : Bytes} {off n k : Nat} (h : k < n) : (slice bs off n).getD k 0 = bs.getD (off + k) 0 := by
  unfold slice
  simp only [List.getD_eq_getElem?_getD, List.getElem?_append, List.getElem?_take, List.getElem?_drop, List.getElem?_replicate,
    List.length_take, List.length_drop]
  split
  · rfl
  · rw [if_pos (by omega), List.getElem?_eq_none (by omega : bs.length ≤ off + k)]
    rfl

/-- A run of bytes in a list that has it at the place `off`. -/
theorem slice_append_mid {as bs cs : Bytes} {off : Nat} (h : as.length = off) : slice (as ++ bs ++ cs) off bs.length = bs := by
  subst h
  unfold slice
  simp

end Sys2Proof

namespace Sys2Proof.Machine

open Sys2Proof.Claims

/-! ### What a compute word sends -/

/-- A line's write sends out its far lines, and nothing where the line is local. -/
theorem lineOut_outs (env : Env) (c0 : Core) (w : Word256) (a due : Nat) (data : Bytes) (i : Issued) :
    (i.lineOut env c0 w a due data).outs =
      i.outs ++ if (c0.access w a).far then (farLines env (c0.access w a) data).map fun p => .farWrite p.1 p.2 else [] := by
  unfold Issued.lineOut
  dsimp only
  split
  · rfl
  · exact (List.append_nil _).symm

theorem lineLdb_outs (c0 : Core) (w : Word256) (i : Issued) : (lineLdb c0 w i).outs = i.outs := by
  unfold lineLdb
  rfl

theorem lineLds_outs (c0 : Core) (w : Word256) (i : Issued) : (lineLds c0 w i).outs = i.outs := by
  unfold lineLds
  rfl

theorem lineSt_outs (env : Env) (c0 : Core) (w : Word256) (i : Issued) : ∃ os, (lineSt env c0 w i).outs = i.outs ++ os := by
  unfold lineSt
  exact ⟨_, lineOut_outs ..⟩

theorem lineSts_outs (env : Env) (c0 : Core) (w : Word256) (i : Issued) : ∃ os, (lineSts env c0 w i).outs = i.outs ++ os := by
  unfold lineSts
  exact ⟨_, lineOut_outs ..⟩

theorem vclass_line {v : Nat} (h : vclass v = some .line) : 1 ≤ v ∧ v ≤ 6 := by
  unfold vclass at h
  split at h
  · next hv => simpa using hv
  · repeat' split at h
    all_goals cases h

/-- The vector engine adds to what is sent out, and only for ST, STS and TREQ. -/
theorem issueVector_outs (env : Env) (c0 : Core) (w : Word256) (i : Issued) : ∃ os, (issueVector env c0 w i).outs = i.outs ++ os ∧
    ((vectorField w).vop ≠ 2 → (vectorField w).vop ≠ 5 → (vectorField w).vop ≠ 6 → os = []) := by
  unfold issueVector
  dsimp only
  split
  · exact ⟨[], (List.append_nil i.outs).symm, fun _ _ _ => rfl⟩
  · next hline =>
    split
    · exact ⟨[], (List.append_nil i.outs).symm, fun _ _ _ => rfl⟩
    · next h =>
      obtain ⟨os, hos⟩ := lineSt_outs env c0 w i
      exact ⟨os, hos, fun h2 _ _ => absurd h h2⟩
    · exact ⟨[], (lineLdb_outs ..).trans (List.append_nil i.outs).symm, fun _ _ _ => rfl⟩
    · exact ⟨[], (lineLds_outs ..).trans (List.append_nil i.outs).symm, fun _ _ _ => rfl⟩
    · next h =>
      obtain ⟨os, hos⟩ := lineSts_outs env c0 w i
      exact ⟨os, hos, fun _ h5 _ => absurd h h5⟩
    · next h1 h2 h3 h4 h5 =>
      obtain ⟨hlo, hhi⟩ := vclass_line hline
      simp only [imp_false] at h1 h2 h3 h4 h5
      exact ⟨_, rfl, fun _ _ h6 => absurd (by omega) h6⟩
  · exact ⟨[], (List.append_nil i.outs).symm, fun _ _ _ => rfl⟩

theorem issueCompute_outs (env : Env) (w : Word256) (c : Core) : ∃ os, (issueCompute env w c).outs = (afterReadout env w c).outs ++ os ∧
    ((vectorField w).vop ≠ 2 → (vectorField w).vop ≠ 5 → (vectorField w).vop ≠ 6 → os = []) :=
  issueVector_outs env c w (afterArray env w c)

/-! ### A readout (R78, R94, R181) -/

theorem readoutCodes_some {env : Env} {c : Core} {w : Word256} {codes : Bytes} (h : readoutCodes env c w = some codes) :
    codes = (readoutRow env c w).scales.map (BitVec.ofNat 8) := by
  unfold readoutCodes at h
  dsimp only at h
  split at h
  · cases h
  · exact (Option.some.inj h).symm

theorem isReadout_iff {w : Word256} : isReadout w = true ↔ wordFormat w = 0 ∧ (arrayField w).roEn = true := by simp [isReadout]

/-- A readout's engines before the wash or token. -/
theorem afterReadout_eq {env : Env} {w : Word256} {c : Core} (h : (arrayField w).roEn = true) : afterReadout env w c = issueReadout env c w ⟨c, []⟩ :=
  if_pos h

theorem issueCompute_puts_readout (env : Env) (w : Word256) (c : Core) : ∃ ls, Puts ls (afterReadout env w c).core (issueCompute env w c).core := by
  obtain ⟨_, h2, _⟩ := afterArray_puts env w c
  obtain ⟨_, h3, _⟩ := afterVector_puts env w c
  obtain ⟨_, h4, _⟩ := issueCompute_puts_last env w c
  exact ⟨_, h2.trans (h3.trans h4)⟩

/-- The end of a compute word's beat leaves what is in flight and the lines' pending-write bits. -/
theorem endedBeat_flight {w : Word256} (h : wordFormat w = 0) (env : Env) (self : Nat) (c : Core) :
    (endedBeat env self w c).flight = (issueCompute env w c).core.flight ∧
    (endedBeat env self w c).pendLines = (issueCompute env w c).core.pendLines := by
  have hend := endedBeat_frame env self w c
  have hgens := stepGens_frame w (issueCompute env w c).core
  rw [issueFormat_compute h] at hend
  exact ⟨(congrArg Core.flight hend :).trans (congrArg Core.flight hgens :), (congrArg Core.pendLines hend :).trans (congrArg Core.pendLines hgens :)⟩

theorem stripLine_codes {env : Env} {c : Core} {w : Word256} (codes : Bytes) :
    slice (stripLine env c w codes) (readoutStrip c w).2 codes.length = codes := slice_append_mid (slice_length ..)

/-- A strip line keeps its bytes beside the codes. -/
theorem stripLine_rest {env : Env} {c : Core} {w : Word256} {codes : Bytes} {k : Nat} (hk : k < 64)
    (h : k < (readoutStrip c w).2 ∨ (readoutStrip c w).2 + codes.length ≤ k) :
    (stripLine env c w codes).getD k 0 = ((env.read (readoutStrip c w).1).bytes).getD k 0 := by
  unfold stripLine
  dsimp only
  generalize (env.read (readoutStrip c w).1).bytes = line
  generalize (readoutStrip c w).2 = off at h ⊢
  rcases h with h | h
  · rw [List.append_assoc, List.getD_append _ _ _ _ (by rwa [slice_length]), slice_getD h, Nat.zero_add]
  · have hlen : (slice line 0 off ++ codes).length = off + codes.length := by rw [List.length_append, slice_length]
    rw [List.getD_append_right _ _ _ _ (by omega), hlen, slice_getD (by omega)]
    congr 1
    omega

/-- What a readout puts in flight stays in flight through its word's beat, and what it sends is sent. -/
theorem gives_of_readout {s : State} {n : Nat} {up : Bool} (hi : Issues s n up) (h : isReadout (wordAt s n) = true)
    {t : Fmt} {v : Variant} (hfmt : fmtVar (arrayField (wordAt s n)).roFmt (arrayField (wordAt s n)).roVar = some (t, v))
    {P : Core → List Out → Prop} (hP : ∀ d outs,
      (∀ l ∈ readoutLandings (s.env n) (found s n) (wordAt s n) t v, l ∈ d.flight) →
      (∀ k ∈ (issueReadout (s.env n) (found s n) (wordAt s n) ⟨found s n, []⟩).core.pendLines, k ∈ d.pendLines) →
      (∀ o ∈ (issueReadout (s.env n) (found s n) (wordAt s n) ⟨found s n, []⟩).outs, o ∈ outs) → P d outs) : Gives s (.readout n up) n P := by
  obtain ⟨hf, hen⟩ := isReadout_iff.mp h
  refine gives_of_not_end rfl hi h (not_halt_of_format hf (by decide) 0) fun r => hP _ _ ?_ ?_ ?_
  all_goals
    obtain ⟨hflight, hlines⟩ := endedBeat_flight hf (s.env n) n (found s n)
    obtain ⟨ls, hputs⟩ := issueCompute_puts_readout (s.env n) (wordAt s n) (found s n)
    rw [afterReadout_eq hen] at hputs
  · intro l hl
    have hro := (issueReadout_puts (env := s.env n) (c0 := found s n) hfmt ⟨found s n, []⟩).flight
    rw [hflight, hputs.flight, hro]
    exact List.mem_append_left _ (List.mem_append_right _ hl)
  · intro k hk
    rw [hlines]
    exact hputs.lines k hk
  · intro o ho
    obtain ⟨os, hos, -⟩ := issueCompute_outs (s.env n) (wordAt s n) (found s n)
    rw [issueFormat_compute hf, hos, afterReadout_eq hen]
    exact List.mem_append_right _ (List.mem_append_left _ ho)

/-- What a readout sends out: its line's far writes first. -/
theorem issueReadout_outs_line {env : Env} {c0 : Core} {w : Word256} {t : Fmt} {v : Variant}
    (h : fmtVar (arrayField w).roFmt (arrayField w).roVar = some (t, v)) {o : Out}
    (ho : o ∈ (readoutLine env c0 w t v ⟨c0, []⟩).outs) : o ∈ (issueReadout env c0 w ⟨c0, []⟩).outs := by
  rw [issueReadout_eq h]
  dsimp only
  split
  · exact ho
  · split
    · exact List.mem_append_left _ ho
    · exact ho

theorem issueReadout_far_codes {env : Env} {c0 : Core} {w : Word256} {t : Fmt} {v : Variant} {codes : Bytes}
    (h : fmtVar (arrayField w).roFmt (arrayField w).roVar = some (t, v)) (hc : readoutCodes env c0 w = some codes)
    (hfar : (c0.access w (arrayField w).roDst).far = true) :
    Out.farWrite (readoutStrip c0 w).1 (stripLine env c0 w codes) ∈ (issueReadout env c0 w ⟨c0, []⟩).outs := by
  rw [issueReadout_eq h]
  simp only [hc, hfar, if_true]
  exact List.mem_append_right _ (List.mem_singleton.mpr rfl)

theorem issueReadout_local_codes {env : Env} {c0 : Core} {w : Word256} {t : Fmt} {v : Variant} {codes : Bytes}
    (h : fmtVar (arrayField w).roFmt (arrayField w).roVar = some (t, v)) (hc : readoutCodes env c0 w = some codes)
    (hfar : (c0.access w (arrayField w).roDst).far = false) :
    (⟨readoutDue c0 v, .locals [((readoutStrip c0 w).1 + (readoutStrip c0 w).2, codes)]⟩ : Landing) ∈ readoutLandings env c0 w t v ∧
    (readoutStrip c0 w).1 / 64 ∈ (issueReadout env c0 w ⟨c0, []⟩).core.pendLines := by
  refine ⟨List.mem_append_right _ ?_, ?_⟩
  · simp [codeLandings, hc, hfar]
  · rw [issueReadout_eq h]
    simp only [hc, hfar, Bool.false_eq_true, if_false]
    exact Core.mem_mark_lines (List.mem_singleton.mpr rfl)

/-- Settles O18: the readout's own landings and far writes (`gives_of_readout`), and its strip line (`stripLine_codes`, `stripLine_rest`). -/
theorem readoutWrites : Obligations.ReadoutWrites := by
  intro s n up hi h
  dsimp only
  intro t v hfmt
  refine gives_of_readout hi h hfmt fun d outs hflight hlines houts => ⟨?_, fun codes hc => ⟨readoutCodes_some hc, fun hfar => ?_, fun hfar => ?_⟩⟩
  · unfold WritesLine
    dsimp only
    split
    · next hfar =>
      intro p hp
      refine houts _ (issueReadout_outs_line hfmt ?_)
      unfold readoutLine
      rw [lineOut_outs, if_pos hfar]
      exact List.mem_append_right _ (List.mem_map_of_mem hp)
    · next hfar =>
      refine hflight _ (List.mem_append_left _ ?_)
      simp only [lineLandings, hfar]
      exact List.mem_singleton.mpr rfl
  · obtain ⟨hl, hk⟩ := issueReadout_local_codes (env := s.env n) hfmt hc hfar
    exact ⟨hflight _ hl, hlines _ hk⟩
  · exact ⟨_, houts _ (issueReadout_far_codes hfmt hc hfar), stripLine_codes codes, fun k hk hrest => stripLine_rest hk hrest⟩

/-! ### How much of its line a readout writes (R44, R78) -/

theorem length_enumFrom' {α : Type} : ∀ (i : Nat) (xs : List α), (enumFrom' i xs).length = xs.length
  | _, [] => rfl
  | i, _ :: xs => congrArg (· + 1) (length_enumFrom' (i + 1) xs)

theorem convertBlock_codes_length (t : Fmt) (v : Variant) (r : Rule) (supplied mode : Nat) (d : Draw) (i0 : Nat) (xs : List XReal) :
    (convertBlock t v r supplied mode d i0 xs).codes.length = xs.length := by
  unfold convertBlock
  dsimp only
  repeat' split
  all_goals simp [length_enumFrom']

theorem chunksOf_flatten_length_le {α : Type} (n : Nat) : ∀ (fuel : Nat) (xs : List α), (chunksOf n fuel xs).flatten.length ≤ xs.length
  | 0, xs => Nat.zero_le _
  | _ + 1, [] => Nat.zero_le _
  | fuel + 1, x :: xs => by
    have ih := chunksOf_flatten_length_le n fuel ((x :: xs).drop n)
    rw [List.length_drop] at ih
    rw [chunksOf, List.flatten_cons, List.length_append, List.length_take]
    · omega
    · exact nofun

/-- Blocks converted one by one have as many codes as elements. -/
theorem convertBlocks_codes_length {f : Nat × List XReal → Block} (hf : ∀ p, (f p).codes.length = p.2.length) :
    ∀ (i : Nat) (cs : List (List XReal)), (((enumFrom' i cs).map f).flatMap (·.codes)).length = cs.flatten.length
  | _, [] => rfl
  | i, c :: cs => by
    simp only [enumFrom', List.map_cons, List.flatMap_cons, List.flatten_cons, List.length_append, hf, convertBlocks_codes_length hf (i + 1) cs]

theorem convertRun_codes_length_le (t : Fmt) (v : Variant) (r : Rule) (supplied : List Nat) (mode : Nat) (d : Draw) (i0 : Nat) (xs : List XReal) :
    (convertRun t v r supplied mode d i0 xs).codes.length ≤ xs.length :=
  (convertBlocks_codes_length (fun _ => convertBlock_codes_length ..) 0 _).trans_le (chunksOf_flatten_length_le ..)

theorem readoutRow_codes_length_le (env : Env) (c : Core) (w : Word256) : (readoutRow env c w).codes.length ≤ 32 := by
  unfold readoutRow
  dsimp only
  split
  · exact Nat.zero_le _
  · refine (convertRun_codes_length_le ..).trans (le_of_eq ?_)
    simp [unpackElems]

theorem ofCode_of_fmtVar {code var : Nat} {t : Fmt} {v : Variant} (h : fmtVar code var = some (t, v)) : Fmt.ofCode code = some t := by
  unfold fmtVar at h
  split at h
  · next f _ hf _ =>
    split at h
    · cases h
      exact hf
    · cases h
  · cases h

theorem Fmt.ofCode_none {code : Nat} (h : 14 ≤ code) : Fmt.ofCode code = none := by
  obtain ⟨k, rfl⟩ := Nat.exists_eq_add_of_le' h
  rfl

/-- A format the readout takes is at most 16 bits wide (R78). -/
theorem width_le_of_arrayFmt {code var : Nat} {t : Fmt} {v : Variant} (h : fmtVar code var = some (t, v)) (ha : arrayFmt code = true) :
    t.width ≤ 16 := by
  have hcode := ofCode_of_fmtVar h
  unfold arrayFmt at ha
  simp only [Bool.and_eq_true, decide_eq_true_eq] at ha
  obtain ⟨hlo, hhi⟩ := ha
  interval_cases code <;> cases hcode <;> decide

/-- A readout that issues has an element format of the array's (R77, R78). -/
theorem arrayFmt_of_readout {w : Word256} {t : Fmt} {v : Variant} (hf : wordFormat w = 0) (hs : staticReasons w = [])
    (hen : (arrayField w).roEn = true) (hfmt : fmtVar (arrayField w).roFmt (arrayField w).roVar = some (t, v)) :
    arrayFmt (arrayField w).roFmt = true := by
  have harr : arrayReasons w = [] := by
    simp only [staticReasons, hf, List.append_eq_nil_iff] at hs
    exact hs.1.1.2
  have hlt : (arrayField w).roFmt < 14 := by
    by_contra hge
    have hcode := ofCode_of_fmtVar hfmt
    rw [Fmt.ofCode_none (Nat.not_lt.mp hge)] at hcode
    cases hcode
  unfold arrayReasons at harr
  simp only [hen, if_true, List.append_eq_nil_iff] at harr
  have h35 := harr.2.1.1.2
  by_contra hbad
  simp [reasonIf, hlt, hbad] at h35

theorem staticReasons_of_issues {s : State} {n : Nat} {up : Bool} (hi : Issues s n up) : staticReasons (wordAt s n) = [] :=
  List.eq_nil_iff_forall_not_mem.mpr fun _ hx =>
    List.not_mem_nil (hi.halts ▸ mem_reasons_of_static (env := s.env n) (c := found s n) (up := up) hx)

/-! ### Where a landing of each engine goes (R78, R94, R149) -/

theorem lineLandings_effect {c : Core} {w : Word256} {a due : Nat} {data : Bytes} {l : Landing} (hlen : data.length ≤ 64)
    (hl : l ∈ lineLandings c w a due data) : (c.access w a).far = false ∧ ∃ ws, l.effect = .locals ws ∧
      ∀ p ∈ ws, p.2.length ≤ 2 ∧ ∃ k < 32, p.1 = (c.access w a).slot k := by
  unfold lineLandings at hl
  dsimp only at hl
  split at hl
  · cases hl
  · next hfar =>
    cases List.mem_singleton.mp hl
    refine ⟨Bool.eq_false_iff.mpr hfar, _, rfl, fun p hp => ?_⟩
    obtain ⟨k, hk, rfl⟩ := List.mem_map.mp hp
    have := List.mem_range.mp hk
    exact ⟨(slice_length ..).le, k, by omega, rfl⟩

theorem rowLandings_effect {td due : Nat} {grouped : Bool} {rs : List RowOut} {l : Landing} (hoff : ∀ r ∈ rs, r.off < 128)
    (hl : l ∈ rowLandings td due grouped rs) : ∃ rows ws, l.effect = .rows rows ws ∧ (∀ r ∈ rows, r / 32 = td) ∧ ∀ p ∈ ws, p.1 / 4096 = td := by
  unfold rowLandings at hl
  obtain ⟨g, hg, hl⟩ := List.mem_filterMap.mp hl
  have hg := List.mem_range.mp hg
  dsimp only at hl
  split at hl
  · cases hl
  · cases Option.some.inj hl
    have hrow (r : RowOut) (hr : r ∈ rs.filter fun r => r.row / 8 = g) : r.row < 32 ∧ r.off < 128 := by
      obtain ⟨hmem, hgrp⟩ := List.mem_filter.mp hr
      have hgrp : r.row / 8 = g := by simpa using hgrp
      exact ⟨by omega, hoff r hmem⟩
    refine ⟨_, _, rfl, fun k hk => ?_, fun p hp => ?_⟩
    · obtain ⟨r, hr, rfl⟩ := List.mem_map.mp hk
      have := hrow r hr
      omega
    · obtain ⟨r, hr, rfl⟩ := List.mem_map.mp hp
      have := hrow r hr
      dsimp only
      omega

theorem codeLandings_effect {env : Env} {c : Core} {w : Word256} {due : Nat} {l : Landing} (hl : l ∈ codeLandings env c w due) :
    (c.access w (arrayField w).roDst).far = false ∧ ∃ codes, readoutCodes env c w = some codes ∧
      l.effect = .locals [((readoutStrip c w).1 + (readoutStrip c w).2, codes)] := by
  unfold codeLandings at hl
  split at hl
  · cases hl
  · next codes hc =>
    split at hl
    · cases hl
    · next hfar =>
      cases List.mem_singleton.mp hl
      exact ⟨Bool.eq_false_iff.mpr hfar, codes, hc, rfl⟩

/-! ### What reports alone do (R109, R287) -/

/-- Only cores and collectives' runs may differ, of the cores only core `n`. -/
def OnlyCore (n : Nat) (s t : State) : Prop := (∀ m, m ≠ n → t.core m = s.core m) ∧ t = { s with cores := t.cores, collectives := t.collectives }

theorem OnlyCore.takeOut_report {n : Nat} {s t : State} (h : OnlyCore n s t) (desc : Nat) : OnlyCore n s (t.takeOut n (.report desc)) := by
  obtain ⟨hcore, heq⟩ := h
  have hput (x : CollRun) : OnlyCore n s (t.putRun x) := by
    refine ⟨hcore, ?_⟩
    rw [heq]
    rfl
  unfold State.takeOut
  dsimp only
  split
  · unfold State.onColl
    split
    · split
      · exact ⟨hcore, heq⟩
      · exact hput _
    · exact ⟨hcore, heq⟩
  · exact ⟨hcore, heq⟩

/-- A core that sends out only reports touches no other core and no memory. -/
theorem settleCore_reports {s : State} {n : Nat} {c : Core} {outs : List Out} (h : ∀ o ∈ outs, ∃ d, o = Out.report d) :
    OnlyCore n s (s.settleCore n ⟨c, outs⟩) := by
  unfold State.settleCore
  refine List.foldlRecOn (motive := OnlyCore n s) outs _ ⟨fun m hm => ?_, rfl⟩ fun t ht o ho => ?_
  · rw [State.setCore_core, if_neg hm]
  · obtain ⟨d, rfl⟩ := h o ho
    exact ht.takeOut_report d

theorem land_reports {env : Env} {i : Issued} {due : Nat} {e : Effect} (h : ∀ o ∈ i.outs, ∃ d, o = Out.report d) :
    ∀ o ∈ (land env i due e).outs, ∃ d, o = Out.report d := by
  cases e with
  | report slot desc keep since addr => exact fun o ho => (List.mem_append.mp ho).elim (h o) fun ho => ⟨desc, List.mem_singleton.mp ho⟩
  | _ => exact h

theorem landUpTo_reports {env : Env} {t : Nat} : ∀ {fuel : Nat} {i : Issued}, (∀ o ∈ i.outs, ∃ d, o = Out.report d) →
    ∀ o ∈ (landUpTo env t fuel i).outs, ∃ d, o = Out.report d
  | 0, _, h => h
  | fuel + 1, i, h => by
    unfold landUpTo
    split
    · exact h
    · exact landUpTo_reports (land_reports h)

/-- A beat's start sends out reports only (R94). -/
theorem startBeat_reports (env : Env) (c : Core) : ∀ o ∈ (startBeat env c).1.outs, ∃ d, o = Out.report d :=
  landUpTo_reports (t := c.beat) (fuel := c.flight.length) (i := ⟨c, []⟩) (by simp)

/-- A compute word without a readout, ST, STS and TREQ sends nothing out itself. -/
theorem issueCompute_outs_nil {env : Env} {w : Word256} {c : Core} (hen : (arrayField w).roEn = false) (h2 : (vectorField w).vop ≠ 2)
    (h5 : (vectorField w).vop ≠ 5) (h6 : (vectorField w).vop ≠ 6) : (issueCompute env w c).outs = [] := by
  obtain ⟨os, houts, hos⟩ := issueCompute_outs env w c
  have hro : (afterReadout env w c).outs = [] := by
    unfold afterReadout
    rw [hen]
    rfl
  rw [houts, hro, hos h2 h5 h6]
  rfl

/-- What a compute word's beat leaves of the messages' and bindings' fields. -/
theorem Core.mail_of_compute {c d : Core} (h : d.sansCompute = c.sansCompute) : d.windows = c.windows ∧ d.holding = c.holding ∧
    d.binds = c.binds ∧ d.sends = c.sends ∧ d.job = c.job ∧ d.stage = c.stage :=
  ⟨(congrArg Core.windows h :), (congrArg Core.holding h :), (congrArg Core.binds h :), (congrArg Core.sends h :), (congrArg Core.job h :),
    (congrArg Core.stage h :)⟩

/-- Settles O60: what joins the flight is classified by `issueCompute_puts`, an engine at a time; the rest is the beat's frame
(`endedBeat_compute`) and what reports alone do (`settleCore_reports`). -/
theorem wordFrame : Obligations.WordFrame := by
  intro i s n up names hw hi hn hf
  dsimp only
  have hcompute {b : Bool} (hb : b = true) : (decide (wordFormat (wordAt s n) = 0) && b) = true := by simp [hf, hb]
  refine gives_of_not_end hw hi hn (not_halt_of_format hf (by decide) 0) fun r => ⟨?_, ?_⟩
  · obtain ⟨new, hputs, hnew⟩ := issueCompute_puts (s.env n) (wordAt s n) (found s n)
    refine ⟨new, (endedBeat_flight hf ..).1.trans hputs.flight, fun l hl => ?_⟩
    rcases hnew l hl with ⟨hen, t, v, hfmt, hl⟩ | ⟨haop, p, q, hp, hq, y, hy, _, _, _, _, _, heff⟩ | hvec | hscalar | ⟨_, _, _, _, heff⟩
    · have hread : isReadout (wordAt s n) = true := isReadout_iff.mpr ⟨hf, hen⟩
      have hwidth := width_le_of_arrayFmt hfmt (arrayFmt_of_readout hf (staticReasons_of_issues hi) hen hfmt)
      have hcodes := readoutRow_codes_length_le (s.env n) (found s n) (wordAt s n)
      have hlen : (packElems t.width (readoutRow (s.env n) (found s n) (wordAt s n)).codes).length ≤ 64 := by
        have := Nat.mul_le_mul hwidth hcodes
        rw [packElems, leBytes_length]
        omega
      rcases List.mem_append.mp hl with hl | hl
      · obtain ⟨hfar, ws, heff, hws⟩ := lineLandings_effect hlen hl
        rw [heff]
        exact fun p hp => .inr (.inr (.inl ⟨hread, hfar, hws p hp⟩))
      · obtain ⟨hfar, codes, hc, heff⟩ := codeLandings_effect hl
        rw [heff]
        exact fun p hp => List.mem_singleton.mp hp ▸ .inr (.inr (.inr ⟨hread, hfar, rfl, hc⟩))
    · rw [heff]
      exact ⟨haop.imp (fun h => hcompute (decide_eq_true h)) fun h => hcompute (decide_eq_true h), p, q, hp, hq, y, hy, rfl⟩
    · rcases hvec with ⟨due, grouped, rs, hoff, hl⟩ | ⟨hop, due, data, hlen, hl⟩
      · obtain ⟨rows, ws, heff, hrows, hws⟩ := rowLandings_effect hoff hl
        rw [heff]
        exact ⟨hrows, hws⟩
      · obtain ⟨hfar, ws, heff, hws⟩ := lineLandings_effect hlen.le hl
        rw [heff]
        exact fun p hp => .inr (.inl ⟨hop.imp (fun h => hcompute (decide_eq_true h)) fun h => hcompute (decide_eq_true h), hfar, hws p hp⟩)
    · rcases hscalar with ⟨_, heff⟩ | ⟨hop, heff⟩ | ⟨_, _, heff⟩
      · rw [heff]
      · rw [heff]
        exact fun p hp => .inl ⟨hcompute (decide_eq_true hop), List.mem_singleton.mp hp⟩
      · rw [heff]
    · rw [heff]
  · obtain ⟨hwin, hhold, hbinds, hsends, hjob, hstage⟩ := Core.mail_of_compute (endedBeat_compute hf (s.env n) n (found s n))
    refine ⟨hwin, hhold, hbinds, hsends, hjob, hstage, fun hen h2 h5 h6 => ?_⟩
    have houts : (issueFormat (s.env n) n (wordAt s n) (found s n)).outs = [] := by
      rw [issueFormat_compute hf]
      exact issueCompute_outs_nil hen h2 h5 h6
    have hreports := startBeat_reports (s.env n) (s.core n)
    rw [houts, List.append_nil]
    refine ⟨hreports, fun t ht => ?_⟩
    have hsent : sentAt s n = (startBeat (s.env n) (s.core n)).1.outs := by
      unfold sentAt
      rw [issueAt_of_not_end (not_halt_of_format hf (by decide) 0), houts, List.append_nil]
    rw [exec_of_issues hw hi hn, hsent] at ht
    cases ht
    exact settleCore_reports hreports

end Sys2Proof.Machine
end

section
/-!
PROOF. Wash words, token words and collective triggers (O17): what each engine of a compute word makes of the array, a token's landings
line by line, and a trigger's report.
-/
namespace Sys2Proof

theorem foldl_max_mem : ∀ (xs : List Nat) (m : Nat), xs.foldl max m = m ∨ xs.foldl max m ∈ xs
  | [], _ => .inl rfl
  | y :: ys, m => by
    rw [List.foldl_cons]
    rcases foldl_max_mem ys (max m y) with h | h
    · rw [h]
      exact (max_choice m y).imp_right fun hy => List.mem_cons.mpr (.inl hy)
    · exact .inr (List.mem_cons_of_mem _ h)

/-- The greatest of some numbers is one of them. -/
theorem listMax_mem {x : Nat} {xs : List Nat} (h : x ∈ xs) : listMax xs ∈ xs := by
  rcases foldl_max_mem xs 0 with h0 | hmem
  · have hx : x = listMax xs := (Nat.le_zero.mp ((le_listMax h).trans_eq h0)).trans h0.symm
    exact hx ▸ h
  · exact hmem

end Sys2Proof

namespace Sys2Proof.Machine

open Sys2Proof.Claims

/-! ### The array through a compute word's engines -/

theorem Core.addEvents_array (c : Core) (b : Bool) (k : Nat) (e : Events) : (c.addEvents b k e).array = c.array := by
  unfold Core.addEvents
  split <;> rfl

theorem farStore_array (i : Issued) (ls : List (Nat × Bytes)) : (i.farStore ls).core.array = i.core.array := rfl

theorem Core.fly_mark_array (c : Core) (ls : List Landing) (lines rows sregs : List Nat) : ((c.fly ls).mark lines rows sregs).array = c.array := rfl

theorem Core.flyRows_array (c : Core) (td due : Nat) (grouped : Bool) (rs : List RowOut) : (c.flyRows td due grouped rs).array = c.array := rfl

theorem lineOut_array (env : Env) (c0 : Core) (w : Word256) (a due : Nat) (data : Bytes) (i : Issued) :
    (i.lineOut env c0 w a due data).core.array = i.core.array := by
  unfold Issued.lineOut
  dsimp only
  split <;> rfl

theorem readoutLine_array (env : Env) (c0 : Core) (w : Word256) (t : Fmt) (v : Variant) (i : Issued) :
    (readoutLine env c0 w t v i).core.array = i.core.array :=
  (lineOut_array ..).trans (Core.addEvents_array ..)

theorem issueReadout_array (env : Env) (c0 : Core) (w : Word256) (i : Issued) : (issueReadout env c0 w i).core.array = i.core.array := by
  rcases hf : fmtVar (arrayField w).roFmt (arrayField w).roVar with _ | ⟨t, v⟩
  · rw [issueReadout_none hf]
  · have hline := readoutLine_array env c0 w t v i
    rw [issueReadout_eq hf]
    dsimp only
    split
    · exact hline
    · split
      · exact (farStore_array ..).trans hline
      · exact (Core.fly_mark_array ..).trans hline

theorem afterReadout_array (env : Env) (w : Word256) (c : Core) : (afterReadout env w c).core.array = c.array := by
  unfold afterReadout
  split
  · exact issueReadout_array ..
  · rfl

theorem issueVector_array (env : Env) (c0 : Core) (w : Word256) (i : Issued) : (issueVector env c0 w i).core.array = i.core.array := by
  unfold issueVector
  dsimp only
  split
  · rfl
  · split
    · exact Core.flyRows_array ..
    · exact lineOut_array ..
    · exact Core.flyRows_array ..
    · exact Core.flyRows_array ..
    · exact lineOut_array ..
    · rfl
  · exact Core.addEvents_array ..

theorem issueScalar_array (c0 : Core) (w : Word256) (c : Core) : (issueScalar c0 w c).array = c.array := by
  unfold issueScalar
  dsimp only
  split
  · rfl
  · split <;> rfl

theorem issueTrigger_array (c0 : Core) (w : Word256) (c : Core) : (issueTrigger c0 w c).array = c.array := by
  unfold issueTrigger
  dsimp only
  split <;> rfl

/-- What the array becomes in a compute word is its wash's or token's doing alone. -/
theorem issueCompute_array (env : Env) (w : Word256) (c : Core) : (issueCompute env w c).core.array = (afterArray env w c).core.array := by
  have hscalar : (issueScalar c w (afterVector env w c).core).array = (afterArray env w c).core.array :=
    (issueScalar_array ..).trans (issueVector_array ..)
  rw [issueCompute_eq]
  dsimp only
  split
  · exact (issueTrigger_array ..).trans hscalar
  · exact hscalar

/-- What a compute word gives follows from its array, its landings and its lines' pending-write bits. -/
theorem gives_of_compute {i : Instr} {s : State} {n : Nat} {up : Bool} {names : Word256 → Bool} (hw : wordOf i = some (n, up, names))
    (hi : Issues s n up) (hn : names (wordAt s n) = true) (hf : wordFormat (wordAt s n) = 0) {P : Core → List Out → Prop}
    (hP : ∀ d outs, d.array = (issueCompute (s.env n) (wordAt s n) (found s n)).core.array →
      d.flight = (issueCompute (s.env n) (wordAt s n) (found s n)).core.flight →
      d.pendLines = (issueCompute (s.env n) (wordAt s n) (found s n)).core.pendLines → P d outs) : Gives s i n P := by
  obtain ⟨hflight, hlines⟩ := endedBeat_flight hf (s.env n) n (found s n)
  refine gives_of_not_end hw hi hn (not_halt_of_format hf (by decide) 0) fun r => hP _ _ ?_ hflight hlines
  have hend := endedBeat_frame (s.env n) n (wordAt s n) (found s n)
  rw [issueFormat_compute hf] at hend
  exact (congrArg Core.array hend :).trans (congrArg Core.array (stepGens_frame ..) :)

theorem isArray_iff {k : Nat} {w : Word256} : isArray k w = true ↔ wordFormat w = 0 ∧ (arrayField w).aop = k := by simp [isArray]

/-! ### The weight wash (R124, R139) -/

/-- The accesses that a block on its way into the array has had. -/
def ArrayState.accesses (x : ArrayState) : Nat := (x.loading.map (·.accesses)).getD 0

/-- An array with one access of a wash counted: the 32nd completes the block, and the next block fills the other register. -/
def Washed (x y : ArrayState) : Prop :=
  (x.accesses + 1 = 32 → y.blocks = x.blocks + 1 ∧ y.nextReg = 1 - x.nextReg ∧ y.loading = none) ∧
  (x.accesses + 1 ≠ 32 → y.blocks = x.blocks ∧ y.nextReg = x.nextReg ∧ y.loading.map (·.accesses) = some (x.accesses + 1)) ∧ y.parity = x.parity

theorem issueWash_washed {c0 : Core} {w : Word256} {p : Fmt × Variant} (hp : fmtVar (arrayField w).sfmt (arrayField w).svar = some p)
    {c : Core} (hc : c.array = c0.array) : Washed c0.array (issueWash c0 w c).array := by
  unfold issueWash Washed ArrayState.accesses
  simp only [hp, Core.addEvents_array, hc, and_true]
  rcases c0.array.loading with _ | l
  · exact ⟨fun h => absurd h (by decide), fun _ => ⟨rfl, rfl, rfl⟩⟩
  · exact ⟨fun h => ⟨if_pos h, if_pos h, if_pos h⟩, fun h => ⟨if_neg h, if_neg h, congrArg (Option.map Loading.accesses) (if_neg h)⟩⟩

theorem gives_of_wash {i : Instr} {s : State} {n : Nat} {up : Bool} {k : Nat} (hk : k = 3 ∨ k = 4) (hw : wordOf i = some (n, up, isArray k))
    (hi : Issues s n up) (hn : isArray k (wordAt s n) = true) {p : Fmt × Variant}
    (hp : fmtVar (arrayField (wordAt s n)).sfmt (arrayField (wordAt s n)).svar = some p) :
    Gives s i n fun t _ => Washed (found s n).array t.array := by
  obtain ⟨hf, haop⟩ := isArray_iff.mp hn
  refine gives_of_compute hw hi hn hf fun d _ harray _ _ => ?_
  have hwash : (afterArray (s.env n) (wordAt s n) (found s n)).core =
      issueWash (found s n) (wordAt s n) (afterReadout (s.env n) (wordAt s n) (found s n)).core := if_pos (by simpa [haop] using hk)
  rw [harray, issueCompute_array, hwash]
  exact issueWash_washed hp (afterReadout_array ..)

/-! ### Tokens (R127 to R134) -/

/-- An array with one token of pair (p, q) taken: it moves on in its row of P × n tokens and its row in the pass, and pass_last ends the
pass. -/
def MovesOn (a : ArrayField) (p q : Fmt × Variant) (x y : ArrayState) : Prop :=
  let plan := tokenPlan x.kind.shape x.kind.transposed p.1 q.1
  (a.passLast = true → y.parity = 1 - x.parity ∧ y.blocks = x.blocks - 1 ∧ y.token = 0 ∧ y.row = 0) ∧
  (a.passLast = false → y.parity = x.parity ∧ y.blocks = x.blocks ∧
    (x.token + 1 = plan.2.2 * plan.2.1 → y.token = 0 ∧ y.row = x.row + 1) ∧
    (x.token + 1 ≠ plan.2.2 * plan.2.1 → y.token = x.token + 1 ∧ y.row = x.row))

theorem issueToken_movesOn {c0 : Core} {w : Word256} {p q : Fmt × Variant} (hp : fmtVar (arrayField w).sfmt (arrayField w).svar = some p)
    (hq : fmtVar (arrayField w).tfmt (arrayField w).tvar = some q) {c : Core} (hc : c.array = c0.array) :
    MovesOn (arrayField w) p q c0.array (issueToken c0 w c).array := by
  unfold issueToken MovesOn
  simp only [hp, hq, Core.fly, Core.mark, hc]
  refine ⟨fun hlast => ?_, fun hlast => ⟨if_neg (by simp [hlast]), if_neg (by simp [hlast]), fun hrow => ?_, fun hrow => ?_⟩⟩
  · simp [hlast]
  · simp [hlast, hrow]
  · simp [hlast, hrow]

/-- The values of a token of pair (p, q), each with its number in the token's region. -/
def tokenSums (c : Core) (w : Word256) (p q : Fmt × Variant) : List (Nat × Nat) :=
  let x := c.array
  let k := tokenRun x p q
  k.values.map fun v => (v.1, (k.column x.weights (tokenElems c w x.kind x.row p.1 q.1 q.2) v.2.1 v.2.2).bits)

/-- The landings of a token of pair (p, q) with its events. -/
def tokenFlight (c : Core) (w : Word256) (p q : Fmt × Variant) (ev : Events) : List Landing :=
  let kind := c.array.kind
  tokenLandings c (arrayField w) ((c.access w (arrayField w).accAg).cur / 64 * 64) (tokenRun c.array p q)
    (outputs kind.shape kind.transposed p.1) (grid kind.shape).1 (tokenSums c w p q) ev

/-- A token's landings join the flight, and their lines are marked. -/
theorem issueToken_flight {c0 : Core} {w : Word256} {p q : Fmt × Variant} (hp : fmtVar (arrayField w).sfmt (arrayField w).svar = some p)
    (hq : fmtVar (arrayField w).tfmt (arrayField w).tvar = some q) (c : Core) :
    ∃ ev, (issueToken c0 w c).flight = c.flight ++ tokenFlight c0 w p q ev ∧
      ∀ due line init int vals slot ev', (⟨due, .acc line init int vals slot ev'⟩ : Landing) ∈ tokenFlight c0 w p q ev →
        line ∈ (issueToken c0 w c).pendLines := by
  have hsums : tokenSums c0 w p q = ((tokenRun c0.array p q).values.map fun v => (v.1, (tokenRun c0.array p q).column c0.array.weights
      (tokenElems c0 w c0.array.kind c0.array.row p.1 q.1 q.2) v.2.1 v.2.2)).map fun v => (v.1, v.2.bits) := by
    rw [List.map_map]
    rfl
  unfold issueToken tokenFlight
  rw [hsums]
  simp only [hp, hq]
  exact ⟨_, rfl, fun due line init int vals slot ev' hl => Core.mem_mark_lines (List.mem_filterMap.mpr ⟨_, hl, rfl⟩)⟩

/-- A token's value `p` is in a landing on its line, due when the line's farthest column is (R133), or later where an earlier token's
landing on the line is still in flight (R97). -/
theorem tokenLandings_of_val {c : Core} {a : ArrayField} {base : Nat} {k : TokenRun} {o rows : Nat} {vals : List (Nat × Nat)} {ev : Events}
    {p : Nat × Nat} (hp : p ∈ vals) : ∃ due ws ev',
      (⟨due, .acc (base / 64 + p.1 / 16) (decide (a.aop = 2)) k.int ws (if a.count then some a.slot else none) ev'⟩ : Landing) ∈
        tokenLandings c a base k o rows vals ev ∧
      (p.1 % 16, p.2) ∈ ws ∧ (∀ r ∈ vals, r.1 / 16 = p.1 / 16 → c.beat + rows + 3 + r.1 / o ≤ due) ∧
      ((∀ l ∈ c.flight, l.effect.isToken = false) → ∃ r ∈ vals, r.1 / 16 = p.1 / 16 ∧ due = c.beat + rows + 3 + r.1 / o) := by
  have hown {r : Nat × Nat} : r ∈ vals.filter (fun r => r.1 / 16 = p.1 / 16) ↔ r ∈ vals ∧ r.1 / 16 = p.1 / 16 := by simp
  have hpown := hown.mpr ⟨hp, rfl⟩
  have hline : p.1 / 16 ∈ (vals.map (·.1 / 16)).foldl NatSet.add [] := NatSet.mem_addAll.mpr (.inl (List.mem_map_of_mem hp))
  refine ⟨_, _, _, List.mem_map.mpr ⟨p.1 / 16, hline, rfl⟩, List.mem_map_of_mem hpown, fun r hr hrline => ?_, fun hnone => ?_⟩
  · have hmax : r.1 / o ≤ listMax _ := le_listMax (List.mem_map_of_mem (f := (·.1 / o)) (hown.mpr ⟨hr, hrline⟩))
    exact (Nat.add_le_add_left hmax _).trans (le_max_right ..)
  · obtain ⟨r, hr, hmax⟩ := List.mem_map.mp (listMax_mem (List.mem_map_of_mem (f := (·.1 / o)) hpown))
    obtain ⟨hrvals, hrline⟩ := hown.mp hr
    refine ⟨r, hrvals, hrline, ?_⟩
    rw [hmax]
    refine max_eq_right (le_of_eq_of_le ?_ (Nat.zero_le _))
    refine List.foldlRecOn (motive := (· = 0)) c.flight _ rfl fun m hm l hl => ?_
    have := hnone l hl
    split
    · next heff =>
      rw [heff] at this
      cases this
    · exact hm

theorem gives_of_token {i : Instr} {s : State} {n : Nat} {up : Bool} {k : Nat} (hk : k = 1 ∨ k = 2) (hw : wordOf i = some (n, up, isArray k))
    (hi : Issues s n up) (hn : isArray k (wordAt s n) = true) {p q : Fmt × Variant}
    (hp : fmtVar (arrayField (wordAt s n)).sfmt (arrayField (wordAt s n)).svar = some p)
    (hq : fmtVar (arrayField (wordAt s n)).tfmt (arrayField (wordAt s n)).tvar = some q) :
    Gives s i n fun t _ => MovesOn (arrayField (wordAt s n)) p q (found s n).array t.array ∧ FliesToken s n p q t := by
  obtain ⟨hf, haop⟩ := isArray_iff.mp hn
  have htoken : (afterArray (s.env n) (wordAt s n) (found s n)).core =
      issueToken (found s n) (wordAt s n) (afterReadout (s.env n) (wordAt s n) (found s n)).core := by
    unfold afterArray
    rcases hk with rfl | rfl <;> simp [haop]
  refine gives_of_compute hw hi hn hf fun d _ harray hflight hlines => ⟨?_, ?_⟩
  · rw [harray, issueCompute_array, htoken]
    exact issueToken_movesOn hp hq (afterReadout_array ..)
  · obtain ⟨ev, hfly, hmark⟩ := issueToken_flight (c0 := found s n) hp hq (afterReadout (s.env n) (wordAt s n) (found s n)).core
    obtain ⟨ls, hvector, -⟩ := afterVector_puts (s.env n) (wordAt s n) (found s n)
    obtain ⟨ms, hlast, -⟩ := issueCompute_puts_last (s.env n) (wordAt s n) (found s n)
    have hafter := hvector.trans hlast
    rw [htoken] at hafter
    unfold FliesToken
    dsimp only
    intro v hv
    obtain ⟨due, vals, ev', hl, hval, hleast, hexact⟩ := tokenLandings_of_val (c := found s n) (a := arrayField (wordAt s n))
      (base := ((found s n).access (wordAt s n) (arrayField (wordAt s n)).accAg).cur / 64 * 64) (k := tokenRun (found s n).array p q)
      (o := outputs (found s n).array.kind.shape (found s n).array.kind.transposed p.1) (rows := (grid (found s n).array.kind.shape).1) (ev := ev)
      (List.mem_map_of_mem hv : _ ∈ tokenSums (found s n) (wordAt s n) p q)
    rw [Nat.mul_div_cancel _ (by decide)] at hl
    refine ⟨due, vals, ev', ?_, hval, ?_, fun u hu => hleast _ (List.mem_map_of_mem hu), fun hnone => ?_⟩
    · rw [hflight, hafter.flight, hfly]
      exact List.mem_append_left _ (List.mem_append_right _ hl)
    · rw [hlines]
      exact hafter.lines _ (hmark _ _ _ _ _ _ _ hl)
    · obtain ⟨_, hr, hline, hdue⟩ := hexact hnone
      obtain ⟨u, hu, rfl⟩ := List.mem_map.mp hr
      exact ⟨u, hu, hline, hdue⟩

/-! ### Collective triggers (R111) -/

/-- Of the core with its operations in flight, a word's last write depends on the array alone. -/
theorem lastWrite_congr {c0 c d : Core} (h : d.array = c.array) (w : Word256) : lastWrite c0 d w = lastWrite c0 c w := by
  simp only [lastWrite, h]

/-- A bound trigger's report flies to the landing of its word's last write. -/
theorem issueCompute_report {env : Env} {w : Word256} {c : Core} (hcoll : (loopField w).coll = true) {b : Bind}
    (hb : SMap.find? c.binds (loopField w).cslot = some b) :
    (⟨lastWrite c (issueCompute env w c).core w, .report (loopField w).cslot b.desc b.keep b.since c.pc⟩ : Landing) ∈
      (issueCompute env w c).core.flight := by
  have hcore : (issueCompute env w c).core = issueTrigger c w (issueScalar c w (afterVector env w c).core) := if_pos hcoll
  rw [hcore, lastWrite_congr (issueTrigger_array ..)]
  unfold issueTrigger
  simp only [hb]
  exact List.mem_append_right _ (List.mem_singleton.mpr rfl)

theorem isTrigger_iff {w : Word256} : isTrigger w = true ↔ wordFormat w = 0 ∧ (loopField w).coll = true := by simp [isTrigger]

/-- Settles O17: the wash (`gives_of_wash`), the tokens (`gives_of_token`) and the trigger's report (`issueCompute_report`). -/
theorem arrayWordsIssue : Obligations.ArrayWordsIssue := by
  intro s n up hi
  dsimp only
  refine ⟨fun h p hp => ?_, fun h p hp => ?_, fun h p q hp hq => ?_, fun h p q hp hq => ?_, fun h b hb => ?_⟩
  · exact gives_of_wash (.inl rfl) rfl hi h hp
  · exact gives_of_wash (.inr rfl) rfl hi h hp
  · exact gives_of_token (.inl rfl) rfl hi h hp hq
  · exact gives_of_token (.inr rfl) rfl hi h hp hq
  · obtain ⟨hf, hcoll⟩ := isTrigger_iff.mp h
    refine gives_of_compute rfl hi h hf fun d _ _ hflight _ => ?_
    rw [hflight]
    exact issueCompute_report hcoll hb

end Sys2Proof.Machine
end

section
/-!
PROOF. What the vector engine and the scalar lane put in flight and send (O11 to O16): an opcode's own landings, through the engines after
it and the end of its word's beat.
-/
namespace Sys2Proof.Machine

open Sys2Proof.Claims

/-! ### The end of a compute word's beat -/

/-- What is in flight, and the pending-write bits, are in two cores alike. -/
structure SameFlight (c d : Core) : Prop where
  flight : d.flight = c.flight
  lines : d.pendLines = c.pendLines
  rows : d.pendRows = c.pendRows
  sregs : d.pendSregs = c.pendSregs

theorem SameFlight.trans {c d e : Core} (h : SameFlight c d) (k : SameFlight d e) : SameFlight c e :=
  ⟨k.flight.trans h.flight, k.lines.trans h.lines, k.rows.trans h.rows, k.sregs.trans h.sregs⟩

/-- Once a compute word has issued, the end of its beat leaves what its engines have put in flight. -/
theorem endedBeat_sameFlight {w : Word256} (h : wordFormat w = 0) (env : Env) (self : Nat) (c : Core) :
    SameFlight (issueCompute env w c).core (endedBeat env self w c) := by
  have hend := endedBeat_frame env self w c
  have hgens := stepGens_frame w (issueCompute env w c).core
  rw [issueFormat_compute h] at hend
  have hstep : SameFlight (issueCompute env w c).core (stepGens w (issueCompute env w c).core) :=
    ⟨(congrArg Core.flight hgens :), (congrArg Core.pendLines hgens :), (congrArg Core.pendRows hgens :), (congrArg Core.pendSregs hgens :)⟩
  exact hstep.trans ⟨(congrArg Core.flight hend :), (congrArg Core.pendLines hend :), (congrArg Core.pendRows hend :), (congrArg Core.pendSregs hend :)⟩

section
variable {i : Instr} {s : State} {n : Nat} {up : Bool} {names : Word256 → Bool}

/-- What a compute word gives follows from what its engines put in flight and send. -/
theorem gives_of_engines (hw : wordOf i = some (n, up, names)) (hi : Issues s n up) (hn : names (wordAt s n) = true)
    (hf : wordFormat (wordAt s n) = 0) {P : Core → List Out → Prop}
    (hP : ∀ d outs, SameFlight (issueCompute (s.env n) (wordAt s n) (found s n)).core d →
      (∀ o ∈ (issueCompute (s.env n) (wordAt s n) (found s n)).outs, o ∈ outs) → P d outs) : Gives s i n P := by
  refine gives_of_not_end hw hi hn (not_halt_of_format hf (by decide) 0) fun r => hP _ _ ?_ ?_
  · obtain ⟨hflight, hlines, hrows, hsregs⟩ := endedBeat_sameFlight hf (s.env n) n (found s n)
    exact ⟨hflight, hlines, hrows, hsregs⟩
  · intro o ho
    rw [issueFormat_compute hf]
    exact List.mem_append_right _ ho

/-! ### The scalar lane (R163 to R165) -/

theorem isScalar_iff {k : Nat} {w : Word256} : isScalar k w = true ↔ wordFormat w = 0 ∧ (scalarField w).sop = k := by simp [isScalar]

/-! What each kind of scalar operation issues. -/

theorem issueScalar_op {c0 c : Core} {w : Word256} {op : ScalarIn → Word64} {l : Nat} (h : scalarOp (scalarField w).sop = some (op, l)) :
    issueScalar c0 w c = c.flySreg (c0.beat + l) (scalarField w).sd
      (op ⟨c0.sreg (scalarField w).sa, c0.scalarB (scalarField w), c0.sreg (scalarField w).sb, c0.sreg (scalarField w).sd⟩) := by
  simp only [issueScalar, h]

theorem issueScalar_ld {c0 c : Core} {w : Word256} (h : (scalarField w).sop = 0x18) : issueScalar c0 w c = scalarLd c0 (scalarField w) c := by
  simp only [issueScalar, h]
  rfl

theorem issueScalar_st {c0 c : Core} {w : Word256} (h : (scalarField w).sop = 0x19) : issueScalar c0 w c = scalarSt c0 (scalarField w) c := by
  simp only [issueScalar, h]
  rfl

theorem issueScalar_mvg {c0 c : Core} {w : Word256} (h : (scalarField w).sop = 0x1C) : issueScalar c0 w c = scalarMvg c0 (scalarField w) c := by
  simp only [issueScalar, h]
  rfl

theorem issueScalar_nop {c0 c : Core} {w : Word256} (h : (scalarField w).sop = 0) : issueScalar c0 w c = c := by
  simp only [issueScalar, h]
  rfl

/-- What the scalar lane makes of the core that the engines before it leave. -/
def scalarIssued (s : State) (n : Nat) : Core :=
  issueScalar (found s n) (wordAt s n) (afterVector (s.env n) (wordAt s n) (found s n)).core

/-- What the scalar lane puts in flight stays there through its word's trigger and the end of the beat. -/
theorem gives_of_scalar {k : Nat} (hw : wordOf i = some (n, up, isScalar k)) (hi : Issues s n up) (hn : isScalar k (wordAt s n) = true)
    {P : Core → List Out → Prop}
    (hP : ∀ d outs, (∀ l ∈ (scalarIssued s n).flight, l ∈ d.flight) → (∀ x ∈ (scalarIssued s n).pendLines, x ∈ d.pendLines) →
      (∀ x ∈ (scalarIssued s n).pendSregs, x ∈ d.pendSregs) → P d outs) : Gives s i n P := by
  refine gives_of_engines hw hi hn (isScalar_iff.mp hn).1 fun d outs hsame _ => ?_
  have htrigger : ∃ ls, Puts ls (scalarIssued s n) (issueCompute (s.env n) (wordAt s n) (found s n)).core := by
    rw [issueCompute_eq]
    dsimp only
    split
    · obtain ⟨ls, hputs, -⟩ := issueTrigger_puts (found s n) (wordAt s n) (scalarIssued s n)
      exact ⟨ls, hputs⟩
    · exact ⟨[], .refl _⟩
  obtain ⟨ls, hputs⟩ := htrigger
  refine hP d outs (fun l hl => ?_) (fun x hx => ?_) fun x hx => ?_
  · rw [hsame.flight, hputs.flight]
    exact List.mem_append_left _ hl
  · rw [hsame.lines]
    exact hputs.lines x hx
  · rw [hsame.sregs]
    exact hputs.sregs x hx

/-- The operands of the scalar operation that issues. -/
def scalarIn (s : State) (n : Nat) : ScalarIn :=
  let c := found s n
  let f := scalarField (wordAt s n)
  ⟨c.sreg f.sa, c.scalarB f, c.sreg f.sb, c.sreg f.sd⟩

/-- A scalar operation that writes its register: its result lands at its latency. -/
theorem flies_of_scalarOp (hi : Issues s n up) {k l : Nat} {op : ScalarIn → Word64} {v : Word64} (hw : wordOf i = some (n, up, isScalar k))
    (hk : scalarOp k = some (op, l)) (hv : op (scalarIn s n) = v) (hn : isScalar k (wordAt s n) = true) :
    Flies s i n ((found s n).beat + l) (scalarField (wordAt s n)).sd v := by
  subst hv
  refine gives_of_scalar hw hi hn fun d outs hflight _ hsregs => ?_
  rw [scalarIssued, issueScalar_op (by rw [(isScalar_iff.mp hn).2, hk])] at hflight hsregs
  exact ⟨hflight _ (List.mem_append_right _ (List.mem_singleton_self _)), hsregs _ (Core.mem_mark_sregs (List.mem_singleton_self _))⟩

/-- A compute word without any operation puts nothing in flight. -/
theorem issueCompute_idle {env : Env} {w : Word256} {c : Core} (haop : (arrayField w).aop = 0) (hro : (arrayField w).roEn = false)
    (hvop : (vectorField w).vop = 0) (hsop : (scalarField w).sop = 0) (hcoll : (loopField w).coll = false) : issueCompute env w c = ⟨c, []⟩ := by
  have hclass : vclass 0 = none := rfl
  simp [issueCompute, issueVector, issueScalar_nop, haop, hro, hvop, hsop, hcoll, hclass]

end

/-- Settles O11, an opcode at a time: `flies_of_scalarOp` with the opcode's own function and latency. -/
theorem scalarIntegerResults : Obligations.ScalarIntegerResults := by
  intro s n up hi
  have put {i : Instr} {k l : Nat} {op : ScalarIn → Word64} {v : Word64} (hw : wordOf i = some (n, up, isScalar k))
      (hk : scalarOp k = some (op, l)) (hv : op (scalarIn s n) = v) := flies_of_scalarOp hi hw hk hv
  exact ⟨
    -- ADD, SUB, AND, OR, XOR, SHL, SHR, ASR
    put rfl rfl rfl, put rfl rfl rfl, put rfl rfl rfl, put rfl rfl rfl, put rfl rfl rfl, put rfl rfl rfl, put rfl rfl rfl, put rfl rfl rfl,
    -- CEQ, CLTU, CLTS
    put rfl rfl (if_congr beq_iff_eq rfl rfl), put rfl rfl (if_congr BitVec.ult_iff_toNat_lt rfl rfl),
    put rfl rfl (if_congr BitVec.slt_iff_toInt_lt rfl rfl),
    -- MIN, MAX, SEL, MOV
    put rfl rfl (if_congr BitVec.slt_iff_toInt_lt rfl rfl), put rfl rfl (if_congr BitVec.slt_iff_toInt_lt rfl rfl),
    put rfl rfl (ite_not ..).symm, put rfl rfl rfl,
    -- MUL, MULHU, MULHS
    put rfl rfl rfl, put rfl rfl rfl, put rfl rfl rfl⟩

/-- Settles O12, an opcode at a time: `flies_of_scalarOp` with the opcode's own function and its latency of 4. -/
theorem scalarFloatResults : Obligations.ScalarFloatResults := by
  intro s n up hi
  have put {i : Instr} {k l : Nat} {op : ScalarIn → Word64} {v : Word64} (hw : wordOf i = some (n, up, isScalar k))
      (hk : scalarOp k = some (op, l)) (hv : op (scalarIn s n) = v) := flies_of_scalarOp hi hw hk hv
  exact ⟨put rfl rfl rfl, put rfl rfl rfl, put rfl rfl rfl, put rfl rfl rfl, put rfl rfl rfl, put rfl rfl rfl, put rfl rfl rfl,
    put rfl rfl rfl, put rfl rfl rfl⟩

/-- Settles O13: LD, ST and MVG by their landing in the scalar lane, a NOP by `issueCompute_idle`. -/
theorem scalarMemoryAndMoves : Obligations.ScalarMemoryAndMoves := by
  intro s n up hi
  refine ⟨fun h => ?_, fun h => ?_, fun h => ?_, fun h haop hro hvop hcoll => ?_⟩
  · refine gives_of_scalar rfl hi h fun d outs hflight _ hsregs => ?_
    rw [scalarIssued, issueScalar_ld (isScalar_iff.mp h).2] at hflight hsregs
    exact ⟨hflight _ (List.mem_append_right _ (List.mem_singleton_self _)), hsregs _ (Core.mem_mark_sregs (List.mem_singleton_self _))⟩
  · refine gives_of_scalar rfl hi h fun d outs hflight hlines _ => ?_
    rw [scalarIssued, issueScalar_st (isScalar_iff.mp h).2] at hflight hlines
    exact ⟨hflight _ (List.mem_append_right _ (List.mem_singleton_self _)), hlines _ (Core.mem_mark_lines (List.mem_singleton_self _))⟩
  · refine gives_of_scalar rfl hi h fun d outs hflight _ _ => ?_
    rw [scalarIssued, issueScalar_mvg (isScalar_iff.mp h).2] at hflight
    exact hflight _ (List.mem_append_right _ (List.mem_singleton_self _))
  · obtain ⟨hf, hsop⟩ := isScalar_iff.mp h
    have idle {i : Instr} {names : Word256 → Bool} (hw : wordOf i = some (n, up, names)) (hn : names (wordAt s n) = true) :
        Gives s i n fun t _ => t.flight = (found s n).flight ∧ t.pendSregs = (found s n).pendSregs ∧ t.pendRows = (found s n).pendRows ∧
          t.pendLines = (found s n).pendLines := by
      refine gives_of_engines hw hi hn hf fun d _ hsame _ => ?_
      rw [issueCompute_idle haop hro hvop hsop hcoll] at hsame
      exact ⟨hsame.flight, hsame.sregs, hsame.rows, hsame.lines⟩
    exact ⟨idle rfl h, idle rfl (by simp [isVector, hf, hvop])⟩

/-! ### The vector engine (R148 to R162) -/

section
variable {i : Instr} {s : State} {n : Nat} {up : Bool}

theorem isVector_iff {k : Nat} {w : Word256} : isVector k w = true ↔ wordFormat w = 0 ∧ (vectorField w).vop = k := by simp [isVector]

/-- What the vector engine puts in flight stays there through its word's beat, and what it sends is sent. -/
theorem gives_of_vector {k : Nat} (hi : Issues s n up) (hw : wordOf i = some (n, up, isVector k)) (hn : isVector k (wordAt s n) = true)
    {P : Core → List Out → Prop}
    (hP : ∀ d outs, (∀ l ∈ (afterVector (s.env n) (wordAt s n) (found s n)).core.flight, l ∈ d.flight) →
      (∀ o ∈ (afterVector (s.env n) (wordAt s n) (found s n)).outs, o ∈ outs) → P d outs) : Gives s i n P := by
  refine gives_of_engines hw hi hn (isVector_iff.mp hn).1 fun d outs hsame houts => hP d outs (fun l hl => ?_) houts
  obtain ⟨ls, hputs, -⟩ := issueCompute_puts_last (s.env n) (wordAt s n) (found s n)
  rw [hsame.flight, hputs.flight]
  exact List.mem_append_left _ hl

theorem Core.addEvents_flight (c : Core) (b : Bool) (k : Nat) (e : Events) : (c.addEvents b k e).flight = c.flight :=
  (Core.addEvents_puts c b k e).flight.trans (List.append_nil _)

/-- A tile operation's rows go in flight at its class's latency (R94). -/
theorem issueVector_tile {env : Env} {c0 : Core} {w : Word256} {i : Issued} {cl : VClass} (h : vclass (vectorField w).vop = some cl)
    (hcl : cl ≠ .line) : (issueVector env c0 w i).core.flight = i.core.flight ++
      rowLandings (vectorField w).td (c0.beat + classLatency cl (vectorField w).aux) (classGrouped cl) (tileOp env c0 (vectorField w) cl).rows := by
  unfold issueVector
  simp only [h]
  cases cl with
  | line => exact absurd rfl hcl
  | _ => exact congrArg (· ++ _) (Core.addEvents_flight ..)

theorem fliesRows_of_tile (hi : Issues s n up) {k : Nat} {cl : VClass} {rs : List RowOut} (hw : wordOf i = some (n, up, isVector k))
    (hk : vclass k = some cl) (hcl : cl ≠ .line)
    (hrs : (vectorField (wordAt s n)).vop = k → (tileOp (s.env n) (found s n) (vectorField (wordAt s n)) cl).rows = rs)
    (hn : isVector k (wordAt s n) = true) :
    FliesRows s i n (vectorField (wordAt s n)).td ((found s n).beat + classLatency cl (vectorField (wordAt s n)).aux) (classGrouped cl) rs := by
  obtain ⟨-, hvop⟩ := isVector_iff.mp hn
  refine gives_of_vector hi hw hn fun d outs hflight _ l hl => hflight l ?_
  rw [afterVector, issueVector_tile (by rw [hvop, hk]) hcl, hrs hvop]
  exact List.mem_append_right _ hl

/-! ### Element-wise operations (R155, R156) -/

theorem elementwise_rows {env : Env} {c : Core} {v : VectorField} {f : Operand → ElemOut} (h : elemOp v.vop = f) :
    (elementwise env c v).rows = elementRows f env c v := by
  subst h
  unfold elementwise elementRows
  cases Fmt.ofCode v.fmt <;> simp only [List.map_map] <;> rfl

/-- A class E operation lands its element function's results by row groups. -/
theorem fliesRows_of_element (hi : Issues s n up) {k : Nat} {f : Operand → ElemOut} (hw : wordOf i = some (n, up, isVector k))
    (hk : vclass k = some .e) (hf : elemOp k = f) (hn : isVector k (wordAt s n) = true) :
    FliesRows s i n (vectorField (wordAt s n)).td ((found s n).beat + 3) true (elementRows f (s.env n) (found s n) (vectorField (wordAt s n))) :=
  fliesRows_of_tile hi hw hk (by decide) (fun hvop => elementwise_rows (by rw [hvop, hf])) hn

end

theorem clampInt_eq {lo hi : Int} (h : lo ≤ hi) (x : Int) : clampInt lo hi x = max lo (min x hi) := by
  unfold clampInt
  split
  · omega
  · split <;> omega

theorem satInt_bits (x : Int) : (satInt x).bits = unsignedOf 32 (max (-(2 ^ 31 : Int)) (min x (2 ^ 31 - 1))) :=
  congrArg (unsignedOf 32) (clampInt_eq (by decide) x)

theorem satInt_sat (x : Int) : (satInt x).sat = true ↔ x < -(2 ^ 31 : Int) ∨ (2 ^ 31 - 1 : Int) < x := by
  simp only [satInt, clampInt_eq (by decide : -(2 ^ 31 : Int) ≤ 2 ^ 31 - 1), decide_eq_true_eq]
  omega

/-- Settles O14: each opcode of class E by `fliesRows_of_element` with its element function, the saturation by `satInt_bits` and `satInt_sat`. -/
theorem vectorElementResults : Obligations.VectorElementResults := by
  refine ⟨fun s n up hi => ?_, fun r a b d => ⟨satInt_bits _, satInt_bits _, satInt_bits _, satInt_bits _, satInt_bits _, satInt_sat _⟩⟩
  have put {i : Instr} {k : Nat} {f : Operand → ElemOut} (hw : wordOf i = some (n, up, isVector k)) (hk : vclass k = some .e)
      (hf : elemOp k = f) := fliesRows_of_element hi hw hk hf
  dsimp only
  and_intros <;> exact put rfl rfl rfl

/-! ### Operations on a whole tile (R157 to R162) -/

theorem reduceTile_rows {c : Core} {v : VectorField} {r : Folding} (h : reductionOp v.vop = r) (column : Bool) :
    (reduceTile c v column).rows = foldRows r c v column := by
  subst h
  simp only [reduceTile, foldRows, List.map_map]

theorem specialTile_rows {c : Core} {v : VectorField} {f : Nat → Nat} (h : specialOp v.vop = f) : (specialTile c v).rows = specialRows f c v := by
  subst h
  rfl

/-- Settles O15, a class at a time: `fliesRows_of_tile` with the class's latency and the opcode's own function. -/
theorem vectorTileResults : Obligations.VectorTileResults := by
  intro s n up hi
  dsimp only
  have conversion {i : Instr} {k : Nat} {r : TileOut} (hw : wordOf i = some (n, up, isVector k)) (hk : vclass k = some .c)
      (hr : (vectorField (wordAt s n)).vop = k → tileOp (s.env n) (found s n) (vectorField (wordAt s n)) .c = r) :=
    fliesRows_of_tile hi hw hk (by decide) fun hvop => congrArg TileOut.rows (hr hvop)
  have rowFold {i : Instr} {k : Nat} {r : Folding} (hw : wordOf i = some (n, up, isVector k)) (hk : vclass k = some .r)
      (hr : reductionOp k = r) := fliesRows_of_tile hi hw hk (by decide) fun hvop => reduceTile_rows (by rw [hvop, hr]) false
  have colFold {i : Instr} {k : Nat} {r : Folding} (hw : wordOf i = some (n, up, isVector k)) (hk : vclass k = some .k)
      (hr : reductionOp k = r) := fliesRows_of_tile hi hw hk (by decide) fun hvop => reduceTile_rows (by rw [hvop, hr]) true
  have spec {i : Instr} {k : Nat} {f : Nat → Nat} (hw : wordOf i = some (n, up, isVector k)) (hk : vclass k = some .s)
      (hf : specialOp k = f) := fliesRows_of_tile hi hw hk (by decide) fun hvop => specialTile_rows (by rw [hvop, hf])
  have had {i : Instr} {k : Nat} {r : TileOut} (hw : wordOf i = some (n, up, isVector k)) (hk : vclass k = some .h)
      (hr : (vectorField (wordAt s n)).vop = k → tileOp (s.env n) (found s n) (vectorField (wordAt s n)) .h = r)
      (hn : isVector k (wordAt s n) = true) : FliesRows s i n (vectorField (wordAt s n)).td
        ((found s n).beat + 6 + (vectorField (wordAt s n)).aux) false r.rows := by
    rw [Nat.add_assoc]
    exact fliesRows_of_tile hi hw hk (by decide) (fun hvop => congrArg TileOut.rows (hr hvop)) hn
  exact ⟨
    -- CVT, CVT32, CVT16, SCL
    conversion rfl rfl fun hvop => by simp only [tileOp, hvop, convertCvt],
    conversion rfl rfl fun hvop => by simp only [tileOp, hvop, convertCvt32],
    conversion rfl rfl fun hvop => by simp only [tileOp, hvop, convertCvt16],
    conversion rfl rfl fun hvop => by simp only [tileOp, hvop, convertScl],
    -- the reductions of rows, and of columns
    rowFold rfl rfl rfl, rowFold rfl rfl rfl, rowFold rfl rfl rfl, rowFold rfl rfl rfl, rowFold rfl rfl rfl,
    colFold rfl rfl rfl, colFold rfl rfl rfl, colFold rfl rfl rfl, colFold rfl rfl rfl, colFold rfl rfl rfl,
    -- TRN
    fliesRows_of_tile (cl := .x) hi rfl rfl (by decide) fun _ => rfl,
    -- EXP, LOG, RSQRT, SIN, COS, RCP
    spec rfl rfl (rfl : specialExp = exp32), spec rfl rfl (rfl : specialLog = log32), spec rfl rfl (rfl : specialRsqrt = rsqrt32),
    spec rfl rfl (rfl : specialSin = sin32), spec rfl rfl (rfl : specialCos = cos32), spec rfl rfl (rfl : specialRcp = rcp32),
    -- HAD, HADF, HADL
    had rfl rfl fun hvop => by simp only [tileOp, hvop], had rfl rfl fun hvop => by simp only [tileOp, hvop],
    had rfl rfl fun hvop => by simp only [tileOp, hvop]⟩

/-! ### Lines (R154, R160, R166) -/

/-- The line operation of opcode `k` (R154). -/
def lineOp (env : Env) (c0 : Core) (w : Word256) (k : Nat) (i : Issued) : Issued :=
  match k with
  | 0x01 => lineLd c0 w i
  | 0x02 => lineSt env c0 w i
  | 0x03 => lineLdb c0 w i
  | 0x04 => lineLds c0 w i
  | 0x05 => lineSts env c0 w i
  | _ => lineTreq c0 w i

theorem issueVector_line {env : Env} {c0 : Core} {w : Word256} (h : vclass (vectorField w).vop = some .line) (i : Issued) :
    issueVector env c0 w i = lineOp env c0 w (vectorField w).vop i := by
  unfold issueVector
  simp only [h] <;> rfl

section
variable {i : Instr} {s : State} {n : Nat} {up : Bool}

/-- A line operation does what `lineOp` does to the core that the array's engines leave. -/
theorem gives_of_line (hi : Issues s n up) {k : Nat} (hw : wordOf i = some (n, up, isVector k)) (hk : vclass k = some .line)
    (hn : isVector k (wordAt s n) = true) {P : Core → List Out → Prop}
    (hP : ∀ (x : Issued) (d : Core) (outs : List Out), (∀ l ∈ (lineOp (s.env n) (found s n) (wordAt s n) k x).core.flight, l ∈ d.flight) →
      (∀ o ∈ (lineOp (s.env n) (found s n) (wordAt s n) k x).outs, o ∈ outs) → P d outs) : Gives s i n P := by
  obtain ⟨-, hvop⟩ := isVector_iff.mp hn
  refine gives_of_vector hi hw hn fun d outs hflight houts => hP (afterArray (s.env n) (wordAt s n) (found s n)) d outs ?_ ?_
  all_goals
    rw [← hvop, ← issueVector_line (by rw [hvop, hk])]
    assumption

/-- A line's write, once issued, is in flight or sent. -/
theorem writesLine_of_lineOut {a due : Nat} {data : Bytes} {x : Issued} {d : Core} {outs : List Out}
    (hflight : ∀ l ∈ (x.lineOut (s.env n) (found s n) (wordAt s n) a due data).core.flight, l ∈ d.flight)
    (houts : ∀ o ∈ (x.lineOut (s.env n) (found s n) (wordAt s n) a due data).outs, o ∈ outs) :
    WritesLine s n (wordAt s n) a due data d outs := by
  unfold WritesLine
  dsimp only
  split
  · next hfar =>
    intro p hp
    refine houts _ ?_
    rw [lineOut_outs, if_pos hfar]
    exact List.mem_append_right _ (List.mem_map_of_mem hp)
  · next hfar =>
    refine hflight _ ?_
    rw [(lineOut_puts ..).flight, lineLandings, if_neg hfar]
    exact List.mem_append_right _ (List.mem_singleton_self _)

end

/-- LD's line goes to the half row it addresses (R154). -/
theorem lineLd_flight (c0 : Core) (w : Word256) (i : Issued) :
    let v := vectorField w
    (lineLd c0 w i).core.flight = i.core.flight ++
      rowLandings v.td (c0.beat + 2) false [⟨(c0.lineRow v).getD v.row, 64 * v.half, lineIn c0 w v.agA⟩] := by
  dsimp only [lineLd]
  cases c0.lineRow (vectorField w) <;> rfl

/-- ST writes the half row it addresses (R154). -/
theorem lineSt_eq (env : Env) (c0 : Core) (w : Word256) (i : Issued) :
    let v := vectorField w
    lineSt env c0 w i = i.lineOut env c0 w v.agD (c0.beat + 2)
      (c0.tiles.readBytes (4096 * v.ta + 128 * (c0.lineRow v).getD v.row + 64 * v.half) 64) := by
  dsimp only [lineSt]
  cases c0.lineRow (vectorField w) <;> rfl

/-- Settles O16: LD, LDB and LDS by the rows they put in flight, ST and STS by `writesLine_of_lineOut`, TREQ by what it sends. -/
theorem vectorLines : Obligations.VectorLines := by
  intro s n up hi
  have hrows {td due : Nat} {rs : List RowOut} {x d : Core} (h : ∀ l ∈ (x.flyRows td due false rs).flight, l ∈ d.flight) :
      ∀ l ∈ rowLandings td due false rs, l ∈ d.flight := fun l hl => h l (List.mem_append_right _ hl)
  refine ⟨fun h => ?_, fun h => ?_, fun h => ?_, fun h => ?_, fun h => ?_, fun h => ?_⟩
  · refine gives_of_line hi rfl rfl h fun x d outs hflight _ l hl => hflight l ?_
    exact lineLd_flight (found s n) (wordAt s n) x ▸ List.mem_append_right _ hl
  · refine gives_of_line hi rfl rfl h fun x d outs hflight houts => ?_
    dsimp only [lineOp] at hflight houts
    rw [lineSt_eq] at hflight houts
    exact writesLine_of_lineOut hflight houts
  · exact gives_of_line hi rfl rfl h fun x d outs hflight _ => hrows hflight
  · exact gives_of_line hi rfl rfl h fun x d outs hflight _ => hrows hflight
  · exact gives_of_line hi rfl rfl h fun x d outs => writesLine_of_lineOut
  · exact gives_of_line hi rfl rfl h fun x d outs _ houts => houts _ (List.mem_append_right _ (List.mem_singleton_self _))

end Sys2Proof.Machine
end

section
/-!
PROOF. What a store leaves alone (O35): it reads nothing of what waits at the table units, and changes only the memories, their protection
and the blotter.
-/
namespace Sys2Proof.Machine

open Sys2Proof.Claims

/-! ### Stores and the table units' queues (R184, R404, R408) -/

/-- A state with other requests waiting at its table units. -/
def State.withRequests (s : State) (gs ss : SMap (List TableReq)) : State := { s with gathers := gs, scatters := ss }

section
variable (s : State) (gs ss : SMap (List TableReq))

/-! What a store reads of a state is not what waits at the table units. -/

@[simp] theorem State.withRequests_root (g : Nat) : (s.withRequests gs ss).root g = s.root g := rfl
@[simp] theorem State.withRequests_spent (g line : Nat) : (s.withRequests gs ss).spent g line = s.spent g line := rfl
@[simp] theorem State.withRequests_lineBad (g line : Nat) : (s.withRequests gs ss).lineBad g line = s.lineBad g line := rfl
@[simp] theorem State.withRequests_locate (ctx va : Nat) : (s.withRequests gs ss).locate ctx va = s.locate ctx va := rfl
@[simp] theorem State.withRequests_mayWrite (ctx va n : Nat) : (s.withRequests gs ss).mayWrite ctx va n = s.mayWrite ctx va n := rfl
@[simp] theorem State.withRequests_gddr : (s.withRequests gs ss).gddr = s.gddr := rfl
@[simp] theorem State.withRequests_poison : (s.withRequests gs ss).poison = s.poison := rfl

theorem State.withRequests_endRekey (g : Nat) : (s.withRequests gs ss).endRekey g = (s.endRekey g).withRequests gs ss := by
  unfold State.endRekey
  rw [apply_ite (fun t : State => t.withRequests gs ss)]
  rfl

theorem State.withRequests_writeLine (g line : Nat) (data : Bytes) :
    (s.withRequests gs ss).writeLine g line data = (s.writeLine g line data).withRequests gs ss := by
  unfold State.writeLine
  dsimp only
  rw [State.withRequests_root, State.withRequests_spent, State.withRequests_endRekey]
  rcases s.spent g line <;> simp only [Bool.false_eq_true, if_false, if_true, State.withRequests_root] <;> split_ifs <;> rfl
end

/-- A store with other requests waiting at the table units. -/
def Store.withRequests (x : Store) (gs ss : SMap (List TableReq)) : Store := { x with state := x.state.withRequests gs ss }

theorem Store.withRequests_state (x : Store) (gs ss : SMap (List TableReq)) : (x.withRequests gs ss).state = x.state.withRequests gs ss := rfl
theorem Store.withRequests_gddrBad (x : Store) (gs ss : SMap (List TableReq)) : (x.withRequests gs ss).gddrBad = x.gddrBad := rfl

theorem Store.withRequests_gddrPiece (x : Store) (gs ss : SMap (List TableReq)) (addr : Nat) (bs : Bytes) :
    (x.withRequests gs ss).gddrPiece addr bs = (x.gddrPiece addr bs).withRequests gs ss := by
  unfold Store.gddrPiece Store.withRequests
  dsimp only
  rw [State.withRequests_lineBad, State.withRequests_writeLine, State.withRequests_writeLine]
  split_ifs <;> rfl

theorem Store.withRequests_resPiece (x : Store) (gs ss : SMap (List TableReq)) (addr : Nat) (bs : Bytes) :
    (x.withRequests gs ss).resPiece addr bs = (x.resPiece addr bs).withRequests gs ss := by
  unfold Store.resPiece Store.withRequests
  dsimp only
  rw [State.withRequests_poison]
  split_ifs <;> rfl

/-- A store does not depend on what waits at the table units. -/
theorem State.withRequests_store (s : State) (gs ss : SMap (List TableReq)) (ctx va : Nat) (bs : Bytes) :
    (s.withRequests gs ss).store ctx va bs = (s.store ctx va bs).withRequests gs ss := by
  unfold State.store
  refine List.foldl_hom (fun x => Store.withRequests x gs ss) (init := ⟨s, [], []⟩) fun x p => ?_
  rw [show (x.withRequests gs ss).state.locate ctx p.1 = x.state.locate ctx p.1 from rfl]
  split
  · rfl
  split
  · exact Store.withRequests_gddrPiece ..
  · exact List.foldl_hom (fun x => Store.withRequests x gs ss) fun y q => Store.withRequests_resPiece ..

/-- Between the two states only the memories have changed, their protection and the blotter; a retired region stays retired. -/
structure StoresOnly (s t : State) : Prop where
  frame : t = { s with gddr := t.gddr, counters := t.counters, roots := t.roots, reservoir := t.reservoir, poison := t.poison, blotter := t.blotter }
  retired : ∀ g, (s.root g).retired = true → (t.root g).retired = true

theorem StoresOnly.refl (s : State) : StoresOnly s s := ⟨rfl, fun _ h => h⟩
theorem StoresOnly.trans {s t u : State} (h : StoresOnly s t) (k : StoresOnly t u) : StoresOnly s u :=
  ⟨k.frame.trans (by rw [h.frame]), fun g hg => k.retired g (h.retired g hg)⟩

/-- A root record is set, and keeps its region retired where it was. -/
theorem StoresOnly.setRoot {s t : State} (h : StoresOnly s t) {g : Nat} {r : RootRecord} (hr : (t.root g).retired = true → r.retired = true) :
    StoresOnly s (t.setRoot g r) := by
  refine h.trans ⟨rfl, fun k hk => ?_⟩
  rw [State.setRoot_root]
  split
  · next hg => exact hr (hg ▸ hk)
  · exact hk

theorem State.passLines_storesOnly (s : State) (g dest : Nat) : StoresOnly s (s.passLines g dest) := by
  unfold State.passLines
  refine StoresOnly.setRoot ?_ fun h => h
  exact ⟨rfl, fun _ h => h⟩

theorem State.endRekey_storesOnly (s : State) (g : Nat) : StoresOnly s (s.endRekey g) := by
  unfold State.endRekey
  dsimp only
  split
  · exact ((StoresOnly.refl s).setRoot fun _ => rfl).trans ⟨rfl, fun _ h => h⟩
  · exact (s.passLines_storesOnly g 16384).setRoot fun h => h

theorem State.bumpLine_storesOnly (s : State) (g line : Nat) : StoresOnly s (s.bumpLine g line) := by
  unfold State.bumpLine
  refine StoresOnly.setRoot ?_ fun h => h
  exact ⟨rfl, fun _ h => h⟩

theorem State.writeLine_storesOnly (s : State) (g line : Nat) (data : Bytes) : StoresOnly s (s.writeLine g line data) := by
  have hwrite {t : State} (h : StoresOnly s t) (m : Memory) : StoresOnly s { t with gddr := m } := h.trans ⟨rfl, fun _ h => h⟩
  unfold State.writeLine
  dsimp only
  split
  · exact .refl s
  rcases hspent : s.spent g line
  · simp only [Bool.false_eq_true, if_false]
    split
    · exact .refl s
    · exact hwrite (s.bumpLine_storesOnly g line) _
  · simp only [if_true]
    split
    · exact s.endRekey_storesOnly g
    · exact hwrite (t := (s.endRekey g).firstWrite g line) ((s.endRekey_storesOnly g).trans ⟨rfl, fun _ h => h⟩) _

theorem Store.gddrPiece_storesOnly (x : Store) (addr : Nat) (bs : Bytes) : StoresOnly x.state (x.gddrPiece addr bs).state := by
  unfold Store.gddrPiece
  dsimp only
  split
  · exact State.writeLine_storesOnly ..
  split
  · exact .refl _
  · exact State.writeLine_storesOnly ..

theorem Store.resPiece_storesOnly (x : Store) (addr : Nat) (bs : Bytes) : StoresOnly x.state (x.resPiece addr bs).state := by
  unfold Store.resPiece
  split
  · exact ⟨rfl, fun _ h => h⟩
  split <;> exact ⟨rfl, fun _ h => h⟩

theorem State.store_storesOnly (s : State) (ctx va : Nat) (bs : Bytes) : StoresOnly s (s.store ctx va bs).state := by
  unfold State.store
  refine foldl_related (R := fun x y : Store => StoresOnly x.state y.state) (fun x => .refl _) .trans (fun x p => ?_) _ ⟨s, [], []⟩
  split
  · exact .refl _
  split
  · exact Store.gddrPiece_storesOnly ..
  · exact foldl_related (R := fun x y : Store => StoresOnly x.state y.state) (fun x => .refl _) .trans (fun y q => Store.resPiece_storesOnly ..) _ x

/-- What may be written after a store could be written before it (R408). -/
theorem StoresOnly.mayWrite {s t : State} (h : StoresOnly s t) {ctx va n : Nat} (ht : t.mayWrite ctx va n = true) : s.mayWrite ctx va n = true := by
  have hobj : t.objectAt ctx va n = s.objectAt ctx va n := by
    rw [h.frame]
    rfl
  unfold State.mayWrite at ht ⊢
  rw [hobj] at ht
  split at ht
  · next m _ =>
    simp only [Bool.and_eq_true, Bool.not_eq_true', Bool.and_eq_false_iff] at ht ⊢
    refine ⟨ht.1, ht.2.imp_right fun hany => ?_⟩
    rw [List.any_eq_false] at hany ⊢
    intro k hk hs
    simp only [Bool.and_eq_true] at hs
    refine hany k hk ?_
    simp only [Bool.and_eq_true]
    exact ⟨hs.1, h.retired _ hs.2⟩
  · exact absurd ht Bool.false_ne_true

end Sys2Proof.Machine
end

section
/-!
PROOF. Table requests (O35): the lengths of what is read and written, answers and rejections, gathers and scatter-adds up to their one
completion, and the table units' commands.
-/
namespace Sys2Proof.Machine

open Sys2Proof.Claims

/-! ### Lengths of what is read and written (R168 to R170) -/

theorem unreadable_length (va n : Nat) : (unreadable va n).length = n := slice_length ..

theorem State.fetchPiece_length (s : State) (ctx va n : Nat) : (s.fetchPiece ctx va n).bytes.length = n := by
  unfold State.fetchPiece
  split
  · exact unreadable_length ..
  · split
    · exact unreadable_length ..
    · exact Memory.readBytes_length ..

/-- The pieces of a run make up its length, given fuel for its lines. -/
theorem spans_sum : ∀ (fuel a n : Nat), (n ≠ 0 → n + a % 64 ≤ 64 * fuel) → ((spans fuel a n).map (·.2)).sum = n
  | 0, a, n, h => by
    have hn : n = 0 := by omega
    simp [spans, hn]
  | fuel + 1, a, n, h => by
    unfold spans
    split
    · next hn => simp [hn]
    · rw [List.map_cons, List.sum_cons, spans_sum fuel _ _ (by omega)]
      omega

theorem State.fetch_length (s : State) (ctx va n : Nat) : (s.fetch ctx va n).bytes.length = n := by
  have hsum := spans_sum (n / 64 + 2) va n (by omega)
  simpa [State.fetch, List.length_flatMap, Function.comp_def, State.fetchPiece_length] using hsum

theorem packElems_length {w n : Nat} {codes : List Nat} (h : w * codes.length = 8 * n) : (packElems w codes).length = n := by
  rw [packElems, leBytes_length, h]
  omega

theorem State.indices_length (s : State) (ctx : Nat) (l : Bytes) : (s.indices ctx l).length = reqCount l := by
  rw [State.indices, List.length_map, List.length_range]

theorem State.gatherRow_length (s : State) (ctx : Nat) (l : Bytes) (i : Nat) : (s.gatherRow ctx l i).1.length = reqLines l := by
  unfold State.gatherRow
  split
  · exact List.length_replicate
  · simp

theorem reqField_lt (l : Bytes) (lo len : Nat) : reqField l lo len < 2 ^ len := Nat.mod_lt _ (Nat.two_pow_pos len)

theorem of_ite_eq_zero {c : Prop} [Decidable c] {k x : Nat} (hk : k ≠ 0) (h : (if c then k else x) = 0) : ¬c ∧ x = 0 := by
  split at h
  · exact absurd h hk
  · next hc => exact ⟨hc, h⟩

/-- A request that is not rejected is no reserved one, and a gather's format is 0 (R168). -/
theorem form_of_accepted {s : State} {ctx : Nat} {l : Bytes} (h : s.tableReject ctx l true = 0) :
    reqOp l ≠ 3 ∧ (reqOp l = 0 ∨ reqOp l = 1 → reqFmt l = 0) := by
  obtain ⟨hform, -⟩ := of_ite_eq_zero (by decide) h
  simp only [Bool.or_eq_true, Bool.and_eq_true, decide_eq_true_eq, not_or, not_and] at hform
  obtain ⟨⟨⟨⟨⟨-, hop⟩, -⟩, hgather⟩, -⟩, -⟩ := hform
  exact ⟨hop, fun h => not_not.mp (hgather h).1.1⟩

/-- A request that is not rejected names FP32, BF16, FP16 or INT32 (R168). -/
theorem scatterFmt_of_accepted {s : State} {ctx : Nat} {l : Bytes} (h : s.tableReject ctx l true = 0) : scatterFmt (reqFmt l) = true := by
  obtain ⟨hop, hgather⟩ := form_of_accepted h
  have hlt : reqOp l < 4 := reqField_lt ..
  by_cases h2 : reqOp l = 2
  · obtain ⟨-, h⟩ := of_ite_eq_zero (by decide) h
    obtain ⟨-, h⟩ := of_ite_eq_zero (by decide) h
    obtain ⟨-, h⟩ := of_ite_eq_zero (by decide) h
    obtain ⟨-, h⟩ := of_ite_eq_zero (by decide) h
    obtain ⟨-, h⟩ := of_ite_eq_zero (by decide) h
    obtain ⟨hfmt, -⟩ := of_ite_eq_zero (by decide) h
    simpa [h2] using hfmt
  · rw [hgather (by omega)]
    rfl

/-- The format of a request's rows (R167). -/
def rowFmt (l : Bytes) : Fmt := (Fmt.ofCode (reqFmt l)).getD .fp32

theorem rowFmt_width {l : Bytes} (h : scatterFmt (reqFmt l) = true) : (rowFmt l).width = 32 ∨ (rowFmt l).width = 16 := by
  simp only [scatterFmt, Bool.or_eq_true, decide_eq_true_eq] at h
  unfold rowFmt
  rcases h with ((h | h) | h) | h <;> rw [h] <;> decide

/-- A scatter-add's row keeps its length. -/
theorem scatterRow_length {l : Bytes} (h : scatterFmt (reqFmt l) = true) (g : Fmt) (rtz : Bool) {bytes : Bytes} {lines : Nat}
    (hlen : bytes.length = 64 * lines) (adds : List (List Nat)) : (scatterRow (rowFmt l) g rtz bytes adds).length = bytes.length := by
  unfold scatterRow
  refine packElems_length ?_
  rw [List.length_map, List.length_range]
  rcases rowFmt_width h with hw | hw <;> rw [hw] <;> omega

/-! ### Answers (R172, R173) -/

/-- The message from quadrant `q`'s unit that answers a request with one line. -/
def answerTo (q : Nat) (r : TableReq) (line : Bytes) : Msg := ⟨10368 + q, r.core, reqChan r.line, r.epoch, line⟩

/-- Between the two states a unit has answered a request with `lines`, and has touched no memory, no core and no waiting request. -/
structure Answered (q : Nat) (r : TableReq) (lines : List Bytes) (s t : State) : Prop where
  mesh : t.mesh = s.mesh ++ lines.map (answerTo q r)
  reservoir : t.reservoir = s.reservoir
  gddr : t.gddr = s.gddr
  poison : t.poison = s.poison
  cores : t.cores = s.cores
  gathers : t.gathers = s.gathers
  scatters : t.scatters = s.scatters

section
variable {q : Nat} {r : TableReq} {lines : List Bytes} {s t : State}

theorem Answered.data (h : Answered q r lines s t) : (t.mesh.drop s.mesh.length).map (·.data) = lines := by
  rw [h.mesh, List.drop_left, List.map_map]
  exact List.map_id lines

/-- Every message of an answer carries the request's epoch and its unit's number. -/
theorem Answered.messages (h : Answered q r lines s t) : ∃ ms : List Msg, t.mesh = s.mesh ++ ms ∧ ms.length = lines.length ∧
    ∀ m ∈ ms, m.sender = 10368 + q ∧ m.dest = r.core ∧ m.epoch = r.epoch ∧ m.chan = reqChan r.line := by
  refine ⟨_, h.mesh, List.length_map _, fun m hm => ?_⟩
  obtain ⟨line, -, rfl⟩ := List.mem_map.mp hm
  exact ⟨rfl, rfl, rfl, rfl⟩

theorem State.reply_answered (s : State) (q : Nat) (r : TableReq) (line : Bytes) : Answered q r [line] s (s.reply q r line) :=
  ⟨rfl, rfl, rfl, rfl, rfl, rfl, rfl⟩

theorem State.rejectTable_answered (s : State) (q : Nat) (r : TableReq) (code : Nat) :
    Answered q r [completionLine r.line code 0 ⟨0, 0, none⟩] s (s.rejectTable q r code) :=
  ⟨rfl, rfl, rfl, rfl, rfl, rfl, rfl⟩

/-- A start that is not withheld under the curb is marked as its unit's, no more (R366). -/
theorem State.halfRate_starts {s0 : State} {u : Nat} (h : (s0.power.curb && s0.flacon.waits.has u) = false) (t : State) :
    ∃ fl, s0.halfRate u t = { t with flacon := fl } := by
  unfold State.halfRate
  split
  · exact ⟨t.flacon, rfl⟩
  · next hcurb =>
    have hon : s0.power.curb = true := by simpa using hcurb
    have hwaits : s0.flacon.waits.has u = false := by simpa [hon] using h
    rw [hwaits]
    exact ⟨_, rfl⟩

theorem State.halfRate_answered {s0 : State} {u : Nat} (hstart : (s0.power.curb && s0.flacon.waits.has u) = false)
    (h : Answered q r lines s t) : Answered q r lines s (s0.halfRate u t) := by
  obtain ⟨fl, heq⟩ := State.halfRate_starts hstart t
  rw [heq]
  exact ⟨h.mesh, h.reservoir, h.gddr, h.poison, h.cores, h.gathers, h.scatters⟩
end

/-- A start that is withheld changes nothing else (R366). -/
theorem State.halfRate_withheld {s : State} {u : Nat} (hc : s.power.curb = true) (hw : s.flacon.waits.has u = true) (t : State) :
    s.halfRate u t = { s with flacon := { s.flacon with waits := s.flacon.waits.drop u } } := by
  simp [State.halfRate, hc, hw]

/-- Answers line by line add up to one answer. -/
theorem foldl_reply (q : Nat) (r : TableReq) : ∀ (lines : List Bytes) (s : State),
    lines.foldl (fun s x => s.reply q r x) s = { s with mesh := s.mesh ++ lines.map (answerTo q r) }
  | [], s => by simp
  | x :: lines, s => by
    rw [List.foldl_cons, foldl_reply q r lines]
    simp [State.reply, answerTo]

/-! ### Gathers (R169) -/

/-- A gather's rows, each with whether it met a poisoned line. -/
def State.gathered (s : State) (r : TableReq) : List (List Bytes × Bool) := (s.indices r.ctx r.line).map (s.gatherRow r.ctx r.line)

/-- A gather's completion (R172). -/
def State.gatherDone (s : State) (r : TableReq) : Bytes :=
  let idx := s.indices r.ctx r.line
  completionLine r.line 0 (distinctCount idx) (gatherTally r.line idx (s.gathered r))

theorem State.withRequests_gathered (s : State) (gs ss : SMap (List TableReq)) (r : TableReq) : (s.withRequests gs ss).gathered r = s.gathered r := rfl
theorem State.withRequests_gatherDone (s : State) (gs ss : SMap (List TableReq)) (r : TableReq) : (s.withRequests gs ss).gatherDone r = s.gatherDone r := rfl

theorem State.gathered_lines (s : State) (r : TableReq) : ((s.gathered r).flatMap (·.1)).length = reqCount r.line * reqLines r.line := by
  simp [State.gathered, List.length_flatMap, Function.comp_def, State.gatherRow_length, State.indices_length]

/-- A gather into a window answers with its rows, line by line, and its completion. -/
theorem State.gather_window (s : State) {q : Nat} {r : TableReq} (hop : reqOp r.line = 0) :
    Answered q r ((s.gathered r).flatMap (·.1) ++ [s.gatherDone r]) s (s.gather q r) := by
  have heq : s.gather q r = State.reply { s with mesh := s.mesh ++ ((s.gathered r).flatMap (·.1)).map (answerTo q r) } q r (s.gatherDone r) := by
    unfold State.gather
    simp only [hop, if_true, foldl_reply, ne_eq, not_true_eq_false, decide_false, Bool.false_and, Bool.false_eq_true, if_false]
    exact if_neg (by simp [State.atelier])
  rw [heq]
  refine ⟨?_, rfl, rfl, rfl, rfl, rfl, rfl⟩
  simp [State.reply, answerTo]

/-- A gather into far memory writes its rows, and answers with its completion, or with code 0x05 where the write retires a region (R408). -/
theorem State.gather_far (s : State) {q : Nat} {r : TableReq} (hop : reqOp r.line ≠ 0)
    (hgood : (s.store r.ctx (reqAddr2 r.line) ((s.gathered r).flatMap fun y => y.1.flatten)).gddrBad = []) :
    let u := (s.store r.ctx (reqAddr2 r.line) ((s.gathered r).flatMap fun y => y.1.flatten)).state
    (∃ line, Answered q r [line] u (s.gather q r)) ∧
    (u.mayWrite r.ctx (reqAddr2 r.line) (64 * reqCount r.line * reqLines r.line) = true → Answered q r [s.gatherDone r] u (s.gather q r)) := by
  have hbytes : ((s.gathered r).flatMap (·.1)).flatMap id = (s.gathered r).flatMap fun y => y.1.flatten := by
    rw [List.flatMap_assoc]
    simp
  dsimp only
  generalize hx : s.store r.ctx (reqAddr2 r.line) ((s.gathered r).flatMap fun y => y.1.flatten) = x at hgood ⊢
  have hsound : (x.state.atelier r.atelier).faulted = (s.atelier r.atelier).faulted := by
    rw [← hx, (State.store_aside ..).atelier]
  have heq : s.gather q r =
      if !x.state.mayWrite r.ctx (reqAddr2 r.line) (64 * reqCount r.line * reqLines r.line) then x.state.rejectTable q r 0x05
      else x.state.reply q r (s.gatherDone r) := by
    unfold State.gather
    simp only [hop, if_false]
    rw [show s.store r.ctx (reqAddr2 r.line) (((s.indices r.ctx r.line).map (s.gatherRow r.ctx r.line)).flatMap (·.1) |>.flatMap id) = x from
      (congrArg _ hbytes).trans hx, Store.settle_of_good hgood, hsound, Bool.and_not_self]
    simp [hop, State.gatherDone, State.gathered]
  rw [heq]
  refine ⟨?_, fun hmay => ?_⟩
  · split
    · exact ⟨_, State.rejectTable_answered ..⟩
    · exact ⟨_, State.reply_answered ..⟩
  · rw [hmay]
    exact State.reply_answered ..

/-! ### Scatter-adds (R170, R171) -/

/-- The format of a request's contributions (R167). -/
def contribFmt (l : Bytes) : Fmt := if reqWide l then .fp32 else rowFmt l

/-- The contributions to row `i` of a scatter-add. -/
def State.addsTo (s : State) (r : TableReq) (i : Nat) : List (List Nat) :=
  ((List.range (reqCount r.line)).filter fun j => (s.indices r.ctx r.line).getD j 0 = i).map (s.contributionCodes r.ctx r.line (contribFmt r.line))

/-- Row `i` of a scatter-add of contributions `adds` updated. -/
def State.addRow (r : TableReq) (fails : List Nat) (adds : Nat → List (List Nat)) (s : State) (i : Nat) : State :=
  s.updateRow r.ctx (reqTable r.line + 64 * reqLines r.line * i) (64 * reqLines r.line) fails (rowFmt r.line) (contribFmt r.line) (reqRtz r.line) (adds i)

theorem State.lineFailed_aside (s : State) (g line : Nat) : Aside s (s.lineFailed g line) := ⟨rfl, rfl⟩

theorem State.partialFailed_spares (s : State) (g line a : Nat) : Spares a s (s.partialFailed g line) := by
  have hpoison := (s.poisonLine_aside g line).spares a
  unfold State.partialFailed
  split
  · exact hpoison.trans (State.faultAtelier_spares ..)
  · exact hpoison

theorem State.updateRow_spares (s : State) (ctx va n : Nat) (fails : List Nat) (f g : Fmt) (rtz : Bool) (adds : List (List Nat)) (a : Nat) :
    Spares a s (s.updateRow ctx va n fails f g rtz adds) := by
  unfold State.updateRow
  dsimp only
  split
  · exact .refl s
  split
  · exact ((s.lineFailed_aside ..).spares a).trans (State.partialFailed_spares ..)
  · exact ((s.storeWhole_aside ..).spares a).trans (Store.settle_spares _ a)

section
variable (r : TableReq) (fails : List Nat) (adds : Nat → List (List Nat))

/-- Where no row's own read faults the request's atelier, a scatter-add updates every row. -/
theorem State.scatterRows_of_sound : ∀ (rows : List Nat) (s : State),
    ((rows.foldl (State.addRow r fails adds) s).atelier r.atelier).faulted = (s.atelier r.atelier).faulted →
      State.scatterRows r fails (rowFmt r.line) (contribFmt r.line) adds rows s = (rows.foldl (State.addRow r fails adds) s, false)
  | [], s, _ => rfl
  | i :: rows, s, h => by
    have hrow : Spares r.atelier s (State.addRow r fails adds s i) := State.updateRow_spares ..
    have hrest : Spares r.atelier (State.addRow r fails adds s i) (rows.foldl (State.addRow r fails adds) (State.addRow r fails adds s i)) :=
      Spares.foldl (fun _ _ => State.updateRow_spares ..) ..
    rw [List.foldl_cons] at h ⊢
    have hsame : ((State.addRow r fails adds s i).atelier r.atelier).faulted = (s.atelier r.atelier).faulted := by
      rcases hs : (s.atelier r.atelier).faulted
      · by_contra ht
        have := hrest.halted (by simpa using ht)
        rw [this, hs] at h
        exact ht h
      · rw [hrow.halted hs, hs]
    unfold State.scatterRows
    dsimp only
    rw [if_neg (by rw [← State.addRow, hsame]; simp)]
    exact State.scatterRows_of_sound rows _ (h.trans hsame.symm)

variable (s : State) (q : Nat)

/-- A scatter-add is its rows, then its completion, or code 0x05 where a write has retired a region of the table (R408); nothing more once a
row has faulted the request's atelier. -/
theorem State.scatter_eq : ∃ done, s.scatter q r fails =
    let x := State.scatterRows r fails (rowFmt r.line) (contribFmt r.line) (s.addsTo r) (s.rowsOf r.ctx r.line) s
    if x.2 then x.1
    else if !x.1.mayWrite r.ctx (reqTable r.line) (64 * reqRows r.line * reqLines r.line) then x.1.rejectTable q r 0x05
    else x.1.reply q r done := by
  unfold State.scatter State.addsTo
  simp only [State.indices_length]
  exact ⟨_, rfl⟩

/-- A scatter-add that faults its atelier at no row answers once, when its rows are updated. -/
theorem State.scatter_answered {u : State}
    (h : State.scatterRows r fails (rowFmt r.line) (contribFmt r.line) (s.addsTo r) (s.rowsOf r.ctx r.line) s = (u, false)) :
    ∃ line, Answered q r [line] u (s.scatter q r fails) := by
  obtain ⟨done, heq⟩ := s.scatter_eq r fails q
  rw [heq, h]
  simp only [Bool.false_eq_true, if_false]
  split
  · exact ⟨_, State.rejectTable_answered ..⟩
  · exact ⟨_, State.reply_answered ..⟩

/-- A scatter-add of which a row faults its atelier ends there. -/
theorem State.scatter_faulted {u : State}
    (h : State.scatterRows r fails (rowFmt r.line) (contribFmt r.line) (s.addsTo r) (s.rowsOf r.ctx r.line) s = (u, true)) :
    s.scatter q r fails = u := by
  obtain ⟨done, heq⟩ := s.scatter_eq r fails q
  rw [heq, h]
  rfl

end

theorem rowsOf_nil {s : State} {r : TableReq} (h : ∀ i ∈ s.indices r.ctx r.line, reqRows r.line ≤ i) : s.rowsOf r.ctx r.line = [] := by
  unfold State.rowsOf
  rw [List.filter_eq_nil_iff]
  intro i hi
  have := h i (List.mem_eraseDups.mp hi)
  simpa using this

section
variable {s : State} {r : TableReq} {i : Nat}

theorem rowsOf_single (hidx : s.indices r.ctx r.line = [i]) (hi : i < reqRows r.line) : s.rowsOf r.ctx r.line = [i] := by
  simp [State.rowsOf, hidx, hi, List.eraseDups_cons]

theorem addsTo_single (hidx : s.indices r.ctx r.line = [i]) :
    s.addsTo r i = [s.contributionCodes r.ctx r.line (contribFmt r.line) 0] := by
  have hcount : reqCount r.line = 1 := by
    rw [← s.indices_length r.ctx r.line, hidx]
    rfl
  simp [State.addsTo, hidx, hcount]
end

section
variable {s : State} {ctx va n : Nat} {fails : List Nat} (f g : Fmt) (rtz : Bool) (adds : List (List Nat))

/-- A row that no poisoned and no failing line hinders, and whose write retires no region, is stored. -/
theorem State.updateRow_of_whole {bs : Bytes} (hbad : (s.fetch ctx va n).bad = []) (hfails : s.rowFails ctx va n fails = none)
    (hbs : scatterRow f g rtz (s.fetch ctx va n).bytes adds = bs) (hlen : bs.length = n) (hgood : (s.store ctx va bs).gddrBad = [])
    (hmay : (s.store ctx va bs).state.mayWrite ctx va n = true) : s.updateRow ctx va n fails f g rtz adds = (s.store ctx va bs).state := by
  have hbefore := (s.store_storesOnly ctx va bs).mayWrite hmay
  unfold State.updateRow State.storeWhole
  simp only [hbad, hfails, hbs, hlen, hbefore, hmay, List.isEmpty_nil, Bool.not_true, Bool.false_eq_true, if_false, if_true]
  exact Store.settle_of_good hgood

/-- A row with a line that fails verification on its read faults the atelier of the line's region (R405). -/
theorem State.updateRow_of_fails {a reg line : Nat} (hbad : (s.fetch ctx va n).bad = []) (hfails : s.rowFails ctx va n fails = some (reg, line))
    (hreg : s.atelierOfRegion reg = some a) (hmay : MayFault s a) :
    ((s.updateRow ctx va n fails f g rtz adds).atelier a).faulted = true ∧ ((s.updateRow ctx va n fails f g rtz adds).atelier a).fcode = 0x0421 := by
  have hfaults : s.updateRow ctx va n fails f g rtz adds =
      ((s.lineFailed reg line).poisonLine reg line).faultAtelier a 0x0421 none none [reg, line] := by
    have hreg' : (s.lineFailed reg line).atelierOfRegion reg = some a := hreg
    unfold State.updateRow State.partialFailed
    simp only [hbad, hfails, hreg', List.isEmpty_nil, Bool.not_true, Bool.false_eq_true, if_false]
  have hmay' : MayFault ((s.lineFailed reg line).poisonLine reg line) a := by
    refine ⟨?_, ?_, ?_⟩ <;> simp only [State.poisonLine, State.lineFailed, State.noteOf, State.setCounter_atelier, State.setCounter_lease,
      State.setCounter_mstate, State.log_atelier, State.log_lease, State.log_mstate]
    exacts [hmay.sound, hmay.held, hmay.alive]
  rw [hfaults]
  exact State.faultAtelier_faults hmay' 0x0421 none none [reg, line]
end

/-- Where row `i` of a request's table lies. -/
def rowAddr (l : Bytes) (i : Nat) : Nat := reqTable l + 64 * reqLines l * i

/-- Row `i` as a scatter-add of one index leaves it. -/
def State.rowAfter (s : State) (r : TableReq) (i : Nat) : Bytes :=
  scatterRow (rowFmt r.line) (contribFmt r.line) (reqRtz r.line) (s.fetch r.ctx (rowAddr r.line i) (64 * reqLines r.line)).bytes
    [s.contributionCodes r.ctx r.line (contribFmt r.line) 0]

section
variable {s : State} {r : TableReq} {i : Nat} {fails : List Nat} (gs ss : SMap (List TableReq))

theorem State.withRequests_fetch (s : State) (gs ss : SMap (List TableReq)) (ctx va n : Nat) : (s.withRequests gs ss).fetch ctx va n = s.fetch ctx va n := rfl

theorem State.withRequests_rowFails (s : State) (gs ss : SMap (List TableReq)) (ctx va n : Nat) (fails : List Nat) :
    (s.withRequests gs ss).rowFails ctx va n fails = s.rowFails ctx va n fails := rfl

/-- The one row of a scatter-add stored, whatever waits at the table units. -/
theorem State.addRow_of_whole (hcode : s.tableReject r.ctx r.line true = 0) (hidx : s.indices r.ctx r.line = [i])
    (hbad : (s.fetch r.ctx (rowAddr r.line i) (64 * reqLines r.line)).bad = [])
    (hfails : s.rowFails r.ctx (rowAddr r.line i) (64 * reqLines r.line) fails = none)
    (hgood : (s.store r.ctx (rowAddr r.line i) (s.rowAfter r i)).gddrBad = [])
    (hmay : (s.store r.ctx (rowAddr r.line i) (s.rowAfter r i)).state.mayWrite r.ctx (rowAddr r.line i) (64 * reqLines r.line) = true) :
    State.addRow r fails (s.addsTo r) (s.withRequests gs ss) i = (s.store r.ctx (rowAddr r.line i) (s.rowAfter r i)).state.withRequests gs ss := by
  have hlen : (s.rowAfter r i).length = 64 * reqLines r.line := by
    rw [State.rowAfter, scatterRow_length (scatterFmt_of_accepted hcode) _ _ (s.fetch_length ..), s.fetch_length]
  unfold State.addRow
  rw [addsTo_single hidx, ← rowAddr, State.updateRow_of_whole (s := s.withRequests gs ss) _ _ _ _ (bs := s.rowAfter r i), State.withRequests_store]
  · rfl
  · rw [State.withRequests_fetch, hbad]
  · rw [State.withRequests_rowFails, hfails]
  · rw [State.withRequests_fetch, State.rowAfter]
  · exact hlen
  · rw [State.withRequests_store]
    exact hgood
  · rw [State.withRequests_store]
    exact hmay

/-- The one row of a scatter-add stored leaves its atelier as it was, and with it the scatter-add is over. -/
theorem State.scatterRows_of_whole (hcode : s.tableReject r.ctx r.line true = 0) (hidx : s.indices r.ctx r.line = [i])
    (hbad : (s.fetch r.ctx (rowAddr r.line i) (64 * reqLines r.line)).bad = [])
    (hfails : s.rowFails r.ctx (rowAddr r.line i) (64 * reqLines r.line) fails = none)
    (hgood : (s.store r.ctx (rowAddr r.line i) (s.rowAfter r i)).gddrBad = [])
    (hmay : (s.store r.ctx (rowAddr r.line i) (s.rowAfter r i)).state.mayWrite r.ctx (rowAddr r.line i) (64 * reqLines r.line) = true) :
    State.scatterRows r fails (rowFmt r.line) (contribFmt r.line) (s.addsTo r) [i] (s.withRequests gs ss) =
      ((s.store r.ctx (rowAddr r.line i) (s.rowAfter r i)).state.withRequests gs ss, false) := by
  have hrow := State.addRow_of_whole gs ss hcode hidx hbad hfails hgood hmay
  have hat := (s.store_aside r.ctx (rowAddr r.line i) (s.rowAfter r i)).atelier r.atelier
  rw [State.scatterRows_of_sound, List.foldl_cons, List.foldl_nil, hrow]
  rw [List.foldl_cons, List.foldl_nil, hrow]
  exact congrArg AtelierState.faulted hat

/-- The one row of a scatter-add that fails verification faults its atelier, and ends the scatter-add. -/
theorem State.scatterRows_of_fails {reg line : Nat} (hbad : (s.fetch r.ctx (rowAddr r.line i) (64 * reqLines r.line)).bad = [])
    (hfails : s.rowFails r.ctx (rowAddr r.line i) (64 * reqLines r.line) fails = some (reg, line))
    (hreg : s.atelierOfRegion reg = some r.atelier) (hmay : MayFault s r.atelier) (adds : Nat → List (List Nat)) :
    ∃ u, State.scatterRows r fails (rowFmt r.line) (contribFmt r.line) adds [i] (s.withRequests gs ss) = (u, true) ∧
      (u.atelier r.atelier).faulted = true ∧ (u.atelier r.atelier).fcode = 0x0421 := by
  have hmay' : MayFault (s.withRequests gs ss) r.atelier := ⟨hmay.sound, hmay.held, hmay.alive⟩
  have hfault : ((State.addRow r fails adds (s.withRequests gs ss) i).atelier r.atelier).faulted = true ∧
      ((State.addRow r fails adds (s.withRequests gs ss) i).atelier r.atelier).fcode = 0x0421 :=
    State.updateRow_of_fails (s := s.withRequests gs ss) _ _ _ _ (by rw [State.withRequests_fetch, ← hbad, rowAddr])
      (by rw [State.withRequests_rowFails, ← hfails, rowAddr]) hreg hmay'
  refine ⟨State.addRow r fails adds (s.withRequests gs ss) i, ?_, hfault⟩
  unfold State.scatterRows
  dsimp only
  rw [← State.addRow, hfault.1, hmay'.sound]
  rfl
end

/-! ### The table units' commands -/

/-- The requests that wait once quadrant `q`'s gather unit has taken its front one. -/
def State.gatherTaken (s : State) (q : Nat) (rest : List TableReq) : State := s.withRequests (SMap.set [] s.gathers q rest) s.scatters

/-- The requests that wait once quadrant `q`'s scatter-add unit has taken its front one. -/
def State.scatterTaken (s : State) (q : Nat) (rest : List TableReq) : State := s.withRequests s.gathers (SMap.set [] s.scatters q rest)

theorem State.gatherTaken_get (s : State) (q : Nat) (rest : List TableReq) : SMap.get [] (s.gatherTaken q rest).gathers q = rest :=
  (SMap.get_set ..).trans (if_pos rfl)

theorem State.scatterTaken_get (s : State) (q : Nat) (rest : List TableReq) : SMap.get [] (s.scatterTaken q rest).scatters q = rest :=
  (SMap.get_set ..).trans (if_pos rfl)

section
variable {s : State} {q : Nat} {r : TableReq} {rest : List TableReq}

theorem State.runGather_eq (hr : SMap.get [] s.gathers q = r :: rest) :
    s.runGather q r = (s.gatherTaken q rest).runTable q r fun s => s.gather q r := by
  unfold State.runGather
  rw [hr]
  rfl

theorem exec_gatherToWindow (hq : q < 48) (hr : SMap.get [] s.gathers q = r :: rest) (htag : (s.freeTag r.atelier).isSome = true)
    (hop : reqOp r.line = 0 ∨ reqOp r.line = 3) : exec (.gatherToWindow q) s =
      .next (s.halfRate (64 + q) ((s.gatherTaken q rest).runTable q r fun s => s.gather q r)) := by
  have hfront : s.gatherFront q [0, 3] = some r := by
    rcases hop with hop | hop <;> simp [State.gatherFront, hr, hop, htag]
  rw [show exec (.gatherToWindow q) s = execGatherToWindow q s from rfl, execGatherToWindow, onUnit_of_lt hq, hfront, ← State.runGather_eq hr]

theorem exec_gatherToFarMemory (hq : q < 48) (hr : SMap.get [] s.gathers q = r :: rest) (htag : (s.freeTag r.atelier).isSome = true)
    (hop : reqOp r.line = 1) : exec (.gatherToFarMemory q) s =
      .next (s.halfRate (64 + q) ((s.gatherTaken q rest).runTable q r fun s => s.gather q r)) := by
  have hfront : s.gatherFront q [1] = some r := by
    simp [State.gatherFront, hr, hop, htag]
  rw [show exec (.gatherToFarMemory q) s = execGatherToFarMemory q s from rfl, execGatherToFarMemory, onUnit_of_lt hq, hfront, ← State.runGather_eq hr]

theorem exec_scatterAdd (hq : q < 48) (hr : SMap.get [] s.scatters q = r :: rest) (htag : (s.freeTag r.atelier).isSome = true)
    (fails : List Nat) : exec (.scatterAdd ⟨q, fails⟩) s =
      .next (s.halfRate (128 + q) ((s.scatterTaken q rest).runTable q r fun s => s.scatter q r fails)) := by
  have hfront : ((SMap.get [] s.scatters q).head?).filter (fun r => (s.freeTag r.atelier).isSome) = some r := by
    simp [hr, htag]
  rw [show exec (.scatterAdd ⟨q, fails⟩) s = execScatterAdd ⟨q, fails⟩ s from rfl, execScatterAdd, onUnit_of_lt hq, hfront, hr]
  rfl
end

section
variable {s : State} {q : Nat} {r : TableReq} {rest : List TableReq} {gs ss : SMap (List TableReq)} {run : State → State}

/-- A rejected request is answered with its code, and touches no memory (R168). -/
theorem State.runTable_of_rejected (h : s.tableReject r.ctx r.line true ≠ 0) :
    Answered q r [completionLine r.line (s.tableReject r.ctx r.line true) 0 ⟨0, 0, none⟩] (s.withRequests gs ss)
      ((s.withRequests gs ss).runTable q r run) := by
  have heq : (s.withRequests gs ss).runTable q r run = (s.withRequests gs ss).rejectTable q r (s.tableReject r.ctx r.line true) := if_pos h
  rw [heq]
  exact State.rejectTable_answered ..

theorem State.runTable_of_accepted (h : s.tableReject r.ctx r.line true = 0) :
    (s.withRequests gs ss).runTable q r run = run (s.withRequests gs ss) := if_neg (not_not.mpr h)

/-- A rejection as the statement has it. -/
theorem Answered.refused {code : Nat} {t : State} (h : Answered q r [completionLine r.line code 0 ⟨0, 0, none⟩] (s.withRequests gs ss) t) :
    t.mesh = s.mesh ++ [⟨10368 + q, r.core, reqChan r.line, r.epoch, completionLine r.line code 0 ⟨0, 0, none⟩⟩] ∧
      t.reservoir = s.reservoir ∧ t.gddr = s.gddr ∧ t.poison = s.poison ∧ t.cores = s.cores :=
  ⟨h.mesh, h.reservoir, h.gddr, h.poison, h.cores⟩

/-- A gather into a window takes its request and answers with its code, or with its rows and its completion. -/
theorem exec_gatherToWindow_answers (hq : q < 48) (hr : SMap.get [] s.gathers q = r :: rest) (htag : (s.freeTag r.atelier).isSome = true)
    (hstart : (s.power.curb && s.flacon.waits.has (64 + q)) = false) (hop : reqOp r.line = 0 ∨ reqOp r.line = 3) :
    ∃ t, exec (.gatherToWindow q) s = .next t ∧ ∃ lines, Answered q r lines (s.gatherTaken q rest) t ∧
      (s.tableReject r.ctx r.line true ≠ 0 → lines = [completionLine r.line (s.tableReject r.ctx r.line true) 0 ⟨0, 0, none⟩]) ∧
      (s.tableReject r.ctx r.line true = 0 → lines = (s.gathered r).flatMap (·.1) ++ [s.gatherDone r]) := by
  refine ⟨_, exec_gatherToWindow hq hr htag hop, ?_⟩
  by_cases hcode : s.tableReject r.ctx r.line true = 0
  · have hop0 : reqOp r.line = 0 := hop.resolve_right (form_of_accepted hcode).1
    have hrun : (s.gatherTaken q rest).runTable q r (fun s => s.gather q r) = (s.gatherTaken q rest).gather q r := State.runTable_of_accepted hcode
    rw [hrun]
    exact ⟨_, State.halfRate_answered hstart (State.gather_window _ hop0), fun hne => absurd hcode hne, fun _ => rfl⟩
  · exact ⟨_, State.halfRate_answered hstart (State.runTable_of_rejected hcode), fun _ => rfl, fun h0 => absurd h0 hcode⟩

/-- A gather into far memory takes its request; it answers with its code, or it writes its rows and answers with its completion. -/
theorem exec_gatherToFarMemory_answers (hq : q < 48) (hr : SMap.get [] s.gathers q = r :: rest) (htag : (s.freeTag r.atelier).isSome = true)
    (hstart : (s.power.curb && s.flacon.waits.has (64 + q)) = false) (hop : reqOp r.line = 1) :
    ∃ t, exec (.gatherToFarMemory q) s = .next t ∧
      (s.tableReject r.ctx r.line true ≠ 0 →
        Answered q r [completionLine r.line (s.tableReject r.ctx r.line true) 0 ⟨0, 0, none⟩] (s.gatherTaken q rest) t) ∧
      (s.tableReject r.ctx r.line true = 0 →
        let x := s.store r.ctx (reqAddr2 r.line) ((s.gathered r).flatMap fun y => y.1.flatten)
        let u := x.state.withRequests (SMap.set [] s.gathers q rest) s.scatters
        x.gddrBad = [] → (∃ line, Answered q r [line] u t) ∧
          (x.state.mayWrite r.ctx (reqAddr2 r.line) (64 * reqCount r.line * reqLines r.line) = true → Answered q r [s.gatherDone r] u t)) := by
  refine ⟨_, exec_gatherToFarMemory hq hr htag hop, fun hcode => State.halfRate_answered hstart (State.runTable_of_rejected hcode), fun hcode => ?_⟩
  dsimp only
  intro hgood
  have hfar := (s.gatherTaken q rest).gather_far (q := q) (r := r) (by rw [hop]; decide)
  dsimp only at hfar
  rw [State.gatherTaken, State.withRequests_gathered, State.withRequests_gatherDone, State.withRequests_store, Store.withRequests_gddrBad,
    Store.withRequests_state, State.withRequests_mayWrite] at hfar
  obtain ⟨⟨line, honce⟩, hdone⟩ := hfar hgood
  rw [State.gatherTaken, State.runTable_of_accepted hcode]
  exact ⟨⟨line, State.halfRate_answered hstart honce⟩, fun hmay => State.halfRate_answered hstart (hdone hmay)⟩

/-- A scatter-add takes its request; it answers with its code, or once when its rows are updated, or ends with the row that faults its
atelier. -/
theorem exec_scatterAdd_answers (hq : q < 48) (hr : SMap.get [] s.scatters q = r :: rest) (htag : (s.freeTag r.atelier).isSome = true)
    (hstart : (s.power.curb && s.flacon.waits.has (128 + q)) = false) (fails : List Nat) :
    ∃ t, exec (.scatterAdd ⟨q, fails⟩) s = .next t ∧
      (s.tableReject r.ctx r.line true ≠ 0 →
        Answered q r [completionLine r.line (s.tableReject r.ctx r.line true) 0 ⟨0, 0, none⟩] (s.scatterTaken q rest) t) ∧
      (s.tableReject r.ctx r.line true = 0 →
        let rows := State.scatterRows r fails (rowFmt r.line) (contribFmt r.line) (s.addsTo r) (s.rowsOf r.ctx r.line) (s.scatterTaken q rest)
        (∀ u, rows = (u, false) → ∃ line, Answered q r [line] u t) ∧ ∀ u, rows = (u, true) → t.ateliers = u.ateliers) := by
  refine ⟨_, exec_scatterAdd hq hr htag fails, fun hcode => State.halfRate_answered hstart (State.runTable_of_rejected hcode), fun hcode => ?_⟩
  have hrun : (s.scatterTaken q rest).runTable q r (fun s => s.scatter q r fails) = (s.scatterTaken q rest).scatter q r fails :=
    State.runTable_of_accepted hcode
  rw [hrun]
  refine ⟨fun u hu => ?_, fun u hu => ?_⟩
  · obtain ⟨line, h⟩ := State.scatter_answered r fails (s.scatterTaken q rest) q hu
    exact ⟨line, State.halfRate_answered hstart h⟩
  · have hend := State.scatter_faulted r fails (s.scatterTaken q rest) q hu
    obtain ⟨fl, hfl⟩ := State.halfRate_starts hstart ((s.scatterTaken q rest).scatter q r fails)
    rw [hfl, hend]
end

/-- A store leaves what is on its way between cores. -/
theorem State.store_mesh (s : State) (ctx va : Nat) (bs : Bytes) : (s.store ctx va bs).state.mesh = s.mesh := by
  rw [(s.store_storesOnly ctx va bs).frame]

/-- Settles O35, a clause at a time: what is withheld, the gather into a window, the gather into far memory, the scatter-add. -/
theorem tableRequests : Obligations.TableRequests := by
  intro s q hq
  dsimp only
  refine ⟨fun r rest hr htag hc hw => ⟨fun hop => ?_, fun hop => ?_⟩, fun r rest fails hr htag hc hw => ?_, fun r rest hr htag hstart hop => ?_,
    fun r rest hr htag hstart hop => ?_, fun r rest fails hr htag hstart => ?_⟩
  · rw [exec_gatherToWindow hq hr htag hop, State.halfRate_withheld hc hw]
  · rw [exec_gatherToFarMemory hq hr htag hop, State.halfRate_withheld hc hw]
  · rw [exec_scatterAdd hq hr htag, State.halfRate_withheld hc hw]
  · obtain ⟨t, ht, lines, h, hbad, hgood⟩ := exec_gatherToWindow_answers hq hr htag hstart hop
    refine ⟨t, ht, (congrArg (SMap.get [] · q) h.gathers).trans (s.gatherTaken_get q rest), fun hcode => ?_, fun hcode => ?_⟩
    · exact Answered.refused (hbad hcode ▸ h)
    · obtain ⟨ms, hms, hlen, hall⟩ := h.messages
      refine ⟨⟨ms, hms, ?_, hall⟩, h.reservoir, h.gddr, h.data.trans (hgood hcode)⟩
      rw [hlen, hgood hcode, List.length_append, State.gathered_lines]
      rfl
  · obtain ⟨t, ht, hbad, hgood⟩ := exec_gatherToFarMemory_answers hq hr htag hstart hop
    refine ⟨t, ht, fun hcode => ⟨(hbad hcode).refused, (congrArg (SMap.get [] · q) (hbad hcode).gathers).trans (s.gatherTaken_get q rest)⟩,
      fun hcode => ?_⟩
    have hmesh := s.store_mesh r.ctx (reqAddr2 r.line) ((s.gathered r).flatMap fun y => y.1.flatten)
    have hdone := hgood hcode
    rw [← State.gathered]
    dsimp only at hdone
    generalize s.store r.ctx (reqAddr2 r.line) ((s.gathered r).flatMap fun y => y.1.flatten) = x at hmesh hdone ⊢
    intro hstored
    obtain ⟨⟨line, h⟩, hmay⟩ := hdone hstored
    obtain ⟨ms, hms, hlen, hall⟩ := h.messages
    exact ⟨⟨ms, hms.trans (congrArg (· ++ ms) hmesh), hlen, hall⟩, (congrArg (SMap.get [] · q) h.gathers).trans (s.gatherTaken_get q rest),
      h.reservoir, h.gddr, fun hw => hmesh ▸ (hmay hw).data⟩
  · obtain ⟨t, ht, hbad, hgood⟩ := exec_scatterAdd_answers hq hr htag hstart fails
    refine ⟨t, ht, fun hcode => ⟨(hbad hcode).refused, (congrArg (SMap.get [] · q) (hbad hcode).scatters).trans (s.scatterTaken_get q rest)⟩,
      fun hcode hout => ?_, fun hcode i hidx hi => ?_, fun hcode hsound => ?_⟩
    · obtain ⟨hrows, -⟩ := hgood hcode
      rw [rowsOf_nil hout] at hrows
      obtain ⟨line, h⟩ := hrows _ rfl
      obtain ⟨ms, hms, hlen, hall⟩ := h.messages
      exact ⟨⟨ms, hms, hlen, hall⟩, h.reservoir, h.gddr⟩
    · obtain ⟨hrows, hfaulted⟩ := hgood hcode
      rw [rowsOf_single hidx hi] at hrows hfaulted
      intro hread
      refine ⟨fun hfails hstored hmay => ?_, fun reg line hfails hreg hmay => ?_⟩
      · obtain ⟨line, h⟩ := hrows _ (State.scatterRows_of_whole _ _ hcode hidx hread hfails hstored hmay)
        obtain ⟨ms, hms, hlen, hall⟩ := h.messages
        exact ⟨⟨ms, hms.trans (congrArg (· ++ ms) (s.store_mesh ..)), hlen, hall⟩, h.reservoir, h.gddr⟩
      · obtain ⟨u, hu, hflag, hwhy⟩ := State.scatterRows_of_fails s.gathers (SMap.set [] s.scatters q rest) hread hfails hreg hmay (s.addsTo r)
        have hat : t.atelier r.atelier = u.atelier r.atelier := congrArg (SMap.get AtelierState.idle · r.atelier) (hfaulted u hu)
        rw [hat]
        exact ⟨hflag, hwhy⟩
    · obtain ⟨hrows, -⟩ := hgood hcode
      obtain ⟨line, h⟩ := hrows _ (State.scatterRows_of_sound r fails (s.addsTo r) (s.rowsOf r.ctx r.line) (s.scatterTaken q rest) hsound)
      exact ⟨h.reservoir, h.gddr, answerTo q r line, h.mesh, rfl, rfl, rfl, rfl⟩

end Sys2Proof.Machine
end

section
/-!
PROOF. What the ends of commands, packets, stores and the discard rule leave of the protected memory's state and of the DMA engines' (O33,
O49), and that the state after reset is sound (O5).
-/
namespace Sys2Proof

/-- Reading a key whose first value a filter keeps. -/
theorem SMap.get_filter_of_kept {α : Type} (d : α) (f : Nat × α → Bool) {k : Nat} {v : α} (hv : v ≠ d) (hf : f (k, v) = true) :
    ∀ m : SMap α, SMap.get d m k = v → SMap.get d (m.filter f) k = v
  | [], h => absurd h.symm hv
  | (j, w) :: m, h => by
    by_cases hj : j = k
    · subst hj
      have hw : w = v := by simpa [SMap.get] using h
      simp [SMap.get, hw, hf]
    · have hm : SMap.get d m k = v := by simpa [SMap.get, hj] using h
      have ih := SMap.get_filter_of_kept d f hv hf m hm
      rcases hfj : f (j, w) <;> simpa [SMap.get, List.filter_cons, hfj, hj] using ih

theorem SMap.find?_eq_none_of_keys {α : Type} {k : Nat} : ∀ {m : SMap α}, k ∉ m.map Prod.fst → SMap.find? m k = none
  | [], _ => rfl
  | (j, w) :: m, h => by
    simp only [List.map_cons, List.mem_cons, not_or] at h
    rw [SMap.find?, if_neg (Ne.symm h.1)]
    exact SMap.find?_eq_none_of_keys h.2

theorem SMap.mem_of_find? {α : Type} {k : Nat} {v : α} : ∀ {m : SMap α}, SMap.find? m k = some v → (k, v) ∈ m
  | (j, w) :: m, h => by
    rw [SMap.find?] at h
    split at h
    · next hj =>
      subst hj
      cases h
      exact List.mem_cons_self
    · exact List.mem_cons_of_mem _ (SMap.mem_of_find? h)

/-- Where no key is listed twice, a filter keeps an entry or leaves nothing at its key. -/
theorem SMap.find?_filter {α : Type} (f : Nat × α → Bool) (k : Nat) :
    ∀ m : SMap α, (m.map Prod.fst).Nodup → SMap.find? (m.filter f) k = (SMap.find? m k).filter fun v => f (k, v)
  | [], _ => rfl
  | (j, w) :: m, h => by
    rw [List.map_cons, List.nodup_cons] at h
    have ih := SMap.find?_filter f k m h.2
    by_cases hj : j = k
    · subst hj
      have hnone : SMap.find? m j = none := SMap.find?_eq_none_of_keys h.1
      rcases hf : f (j, w) <;> simp [SMap.find?, hf, ih, hnone, Option.filter]
    · rcases hf : f (j, w) <;> simp [SMap.find?, hf, hj, ih]

theorem SMap.find?_map_keyed {α : Type} (f : Nat → α → α) (k : Nat) :
    ∀ m : SMap α, SMap.find? (m.map fun p => (p.1, f p.1 p.2)) k = (SMap.find? m k).map (f k)
  | [] => rfl
  | (j, v) :: m => by
    by_cases h : j = k
    · simp [SMap.find?, h]
    · simpa [SMap.find?, h] using SMap.find?_map_keyed f k m

theorem SMap.get_eq_find? {α : Type} (d : α) (k : Nat) : ∀ m : SMap α, SMap.get d m k = (SMap.find? m k).getD d
  | [] => rfl
  | (j, v) :: m => by
    by_cases h : j = k
    · simp [SMap.get, SMap.find?, h]
    · simpa [SMap.get, SMap.find?, h] using SMap.get_eq_find? d k m

theorem SMap.adjust_keys {α : Type} (m : SMap α) (k : Nat) (f : α → α) : (SMap.adjust m k f).map Prod.fst = m.map Prod.fst := by
  rw [SMap.adjust, List.map_map]
  refine List.map_congr_left fun p _ => ?_
  dsimp only [Function.comp]
  split <;> rfl

end Sys2Proof

namespace Sys2Proof.Machine

open Sys2Proof.Claims

/-- Settles O5: the memories are empty, the counters and the blotter too. -/
theorem resetIsSound : Obligations.ResetIsSound := by
  unfold Obligations.ResetIsSound
  constructor <;> decide

/-! ### Ends of commands (R313 to R326) -/

/-- Between the two states commands have ended or been told of, no new one has come, and each stays its atelier's. -/
structure EndsOnly (s t : State) : Prop where
  frame : t = { s with mobjs := t.mobjs, fences := t.fences, images := t.images, colls := t.colls, jobs := t.jobs, commands := t.commands
                       queues := t.queues, translations := t.translations, hostOut := t.hostOut, functions := t.functions, signals := t.signals }
  commands : ∀ n c, SMap.find? t.commands n = some c → ∃ b, SMap.find? s.commands n = some b ∧ b.atelier = c.atelier

theorem EndsOnly.refl (s : State) : EndsOnly s s := ⟨rfl, fun _ c h => ⟨c, h, rfl⟩⟩
theorem EndsOnly.trans {s t u : State} (h : EndsOnly s t) (k : EndsOnly t u) : EndsOnly s u := by
  refine ⟨k.frame.trans (by rw [h.frame]), fun n c hc => ?_⟩
  obtain ⟨b, hb, hbc⟩ := k.commands n c hc
  obtain ⟨a, ha, hab⟩ := h.commands n b hb
  exact ⟨a, ha, hab.trans hbc⟩
theorem EndsOnly.foldl {α : Type} {f : State → α → State} (hf : ∀ s x, EndsOnly s (f s x)) (l : List α) (s : State) : EndsOnly s (l.foldl f s) :=
  foldl_related EndsOnly.refl EndsOnly.trans hf l s

theorem EndsOnly.gone {s t : State} (h : EndsOnly s t) {n : Nat} (hn : SMap.find? s.commands n = none) : SMap.find? t.commands n = none := by
  rcases hc : SMap.find? t.commands n with _ | c
  · rfl
  · obtain ⟨b, hb, -⟩ := h.commands n c hc
    rw [hn] at hb
    cases hb

theorem State.refer_endsOnly (s : State) (f : Nat → Nat) (os : List (ObjKind × Nat)) : EndsOnly s (s.refer f os) := by
  refine EndsOnly.foldl (f := fun s o => s.reference f o) (fun s o => ?_) os s
  unfold State.reference
  split <;> exact ⟨rfl, fun _ c h => ⟨c, h, rfl⟩⟩

theorem State.dropHold_endsOnly (s : State) (x : ObjKind × Nat) : EndsOnly s (s.dropHold x) := by
  unfold State.dropHold
  split
  · next n =>
    split
    · split
      · exact EndsOnly.trans (t := { s with jobs := SMap.adjust s.jobs n fun x => { x with holding := false } })
          ⟨rfl, fun _ c h => ⟨c, h, rfl⟩⟩ (State.refer_endsOnly ..)
      · exact .refl s
    · exact .refl s
  · exact .refl s

theorem State.onCmd_endsOnly (s : State) (n : Nat) {f : Cmd → Cmd} (hf : ∀ c, (f c).atelier = c.atelier) : EndsOnly s (s.onCmd n f) := by
  refine ⟨rfl, fun k c hc => ?_⟩
  rw [State.onCmd_find] at hc
  split at hc
  · obtain ⟨b, hb, hbc⟩ := Option.map_eq_some_iff.mp hc
    exact ⟨b, hb, by rw [← hbc, hf]⟩
  · exact ⟨c, hc, rfl⟩

theorem State.latchNext_endsOnly (s : State) (queue : Nat) : EndsOnly s (s.latchNext queue) := by
  unfold State.latchNext
  split
  · split
    · exact s.onCmd_endsOnly _ fun _ => rfl
    · exact .refl s
  · exact .refl s

theorem State.reachHost_frame (s : State) (tag : Nat × Option Nat) (addr n : Nat) :
    s.reachHost tag addr n = { s with translations := (s.reachHost tag addr n).translations } :=
  foldl_related (R := fun s t : State => t = { s with translations := t.translations }) (fun _ => rfl) (fun h k => k.trans (by rw [h]))
    (f := fun s i => s.translated tag.1 tag.2 (addr + 4096 * i)) (fun _ _ => rfl) _ s

theorem State.hostWrite_endsOnly (s : State) (port : Nat) (pasid : Option Nat) (addr : Nat) (bytes : Bytes) :
    EndsOnly s (s.hostWrite port pasid addr bytes) := by
  unfold State.hostWrite
  rw [s.reachHost_frame]
  exact ⟨rfl, fun _ c h => ⟨c, h, rfl⟩⟩

theorem State.interrupt_endsOnly (s : State) (a vector : Nat) : EndsOnly s (s.interrupt a vector) := by
  unfold State.interrupt
  split
  · dsimp only
    split <;> exact ⟨rfl, fun _ c h => ⟨c, h, rfl⟩⟩
  · exact .refl s

theorem State.onQueue_endsOnly (s : State) (q : Nat) (f : Queue → Queue) : EndsOnly s (s.onQueue q f) := ⟨rfl, fun _ c h => ⟨c, h, rfl⟩⟩

theorem State.pushCompletion_endsOnly (s : State) (n : Nat) (c : Completion) : EndsOnly s (s.pushCompletion n c) := by
  unfold State.pushCompletion
  split
  · exact .refl s
  split
  · exact .refl s
  split
  · next q _ _ _ =>
    have hwritten := (s.hostWrite_endsOnly (s.queueTag q).1 (s.queueTag q).2 (q.cq.toNat + 16 * (q.written.toNat % 2 ^ q.lsize))
      (c.bytes n q.written.toNat q.lsize)).trans (State.onQueue_endsOnly _ n fun q => { q with written := q.written + 1 })
    dsimp only
    split
    · exact hwritten.trans (State.interrupt_endsOnly ..)
    · exact hwritten
  · exact s.onQueue_endsOnly ..

/-- A command that ends is taken from the table; the rest of its end is told to others. -/
theorem State.endCommand_of_listed {s : State} {n : Nat} {c : Cmd} (hc : SMap.find? s.commands n = some c) (status result : Nat) (signals : Bool) :
    EndsOnly { s with commands := SMap.del s.commands n } (s.endCommand n status result signals) := by
  unfold State.endCommand
  rw [hc]
  have htold := ((State.refer_endsOnly { s with commands := SMap.del s.commands n } (· - 1) c.refs).trans
    (EndsOnly.foldl State.dropHold_endsOnly c.refs _)).trans ((State.latchNext_endsOnly _ c.queue).trans
      (State.pushCompletion_endsOnly _ c.queue ⟨BitVec.ofNat 32 c.id, status, c.overrun, c.late, BitVec.ofNat 64 result, c.irq⟩))
  dsimp only
  split
  · exact htold.trans ⟨rfl, fun _ c h => ⟨c, h, rfl⟩⟩
  · exact htold

theorem State.finish_endsOnly (s : State) (n status result : Nat) : EndsOnly s (s.finish n status result) := by
  rcases hc : SMap.find? s.commands n with _ | c
  · have hsame : s.finish n status result = s := by simp only [State.finish, State.endCommand, hc]
    rw [hsame]
    exact .refl s
  · refine EndsOnly.trans ⟨rfl, fun k b hb => ⟨b, ?_, rfl⟩⟩ (State.endCommand_of_listed hc ..)
    rw [SMap.find?_del] at hb
    split at hb
    · cases hb
    · exact hb

/-- A command that has ended is no longer listed. -/
theorem State.finish_commands (s : State) (n status result : Nat) : SMap.find? (s.finish n status result).commands n = none := by
  rcases hc : SMap.find? s.commands n with _ | c
  · exact (s.finish_endsOnly ..).gone hc
  · refine (State.endCommand_of_listed hc ..).gone ?_
    rw [SMap.find?_del, if_pos rfl]

/-! ### Stores (R184, R404 to R408) -/

theorem State.retireRun_storesOnly (s : State) (ctx va n : Nat) : StoresOnly s (s.retireRun ctx va n) := by
  refine foldl_related .refl .trans (fun t x => foldl_related .refl .trans (fun u p => ?_) _ t) _ s
  unfold State.retireAt
  split
  · exact u.endRekey_storesOnly _
  · exact .refl u

theorem State.storeWhole_storesOnly (s : State) (ctx va : Nat) (bs : Bytes) : StoresOnly s (s.storeWhole ctx va bs).state := by
  unfold State.storeWhole
  dsimp only
  split
  · exact .refl s
  split
  · exact s.store_storesOnly ctx va bs
  · exact s.retireRun_storesOnly ctx va _

/-- Between the two states every group that was lost still is and no other, and every written one is written. -/
structure GroupsStand (s t : State) : Prop where
  lost : ∀ g, (t.root g).lost = (s.root g).lost
  written : ∀ g k, (s.root g).written.getLsbD k = true → (t.root g).written.getLsbD k = true

theorem GroupsStand.refl (s : State) : GroupsStand s s := ⟨fun _ => rfl, fun _ _ h => h⟩
theorem GroupsStand.trans {s t u : State} (h : GroupsStand s t) (k : GroupsStand t u) : GroupsStand s u :=
  ⟨fun g => (k.lost g).trans (h.lost g), fun g i hi => k.written g i (h.written g i hi)⟩
theorem GroupsStand.of_roots {s t : State} (h : t.roots = s.roots) : GroupsStand s t := by
  have hroot (g : Nat) : t.root g = s.root g := congrArg (SMap.get RootRecord.zero · g) h
  exact ⟨fun g => by rw [hroot], fun g _ hk => by rwa [hroot]⟩

theorem GroupsStand.setRoot {s t : State} (h : GroupsStand s t) {g : Nat} {r : RootRecord} (hlost : r.lost = (t.root g).lost)
    (hwritten : ∀ k, (t.root g).written.getLsbD k = true → r.written.getLsbD k = true) : GroupsStand s (t.setRoot g r) := by
  refine h.trans ⟨fun k => ?_, fun k i hi => ?_⟩
  · rw [State.setRoot_root]
    split
    · next hk => rw [hk, hlost]
    · rfl
  · rw [State.setRoot_root]
    split
    · next hk => exact hwritten i (hk ▸ hi)
    · exact hi

theorem State.passLines_groupsStand (s : State) (g dest : Nat) : GroupsStand s (s.passLines g dest) := by
  unfold State.passLines
  dsimp only
  refine GroupsStand.setRoot ?_ ?_ fun _ h => h
  · exact .of_roots rfl
  · rfl

theorem State.endRekey_groupsStand (s : State) (g : Nat) : GroupsStand s (s.endRekey g) := by
  unfold State.endRekey
  dsimp only
  split
  · exact ((GroupsStand.refl s).setRoot (g := g) (r := { s.root g with retired := true, rekey := false, boundary := 0, fresh := 0 }) rfl
      fun _ h => h).trans (.of_roots rfl)
  · exact (s.passLines_groupsStand g 16384).setRoot rfl fun _ h => h

theorem State.bumpLine_groupsStand (s : State) (g line : Nat) : GroupsStand s (s.bumpLine g line) := by
  unfold State.bumpLine
  dsimp only
  refine GroupsStand.setRoot ?_ ?_ fun k hk => ?_
  · exact .of_roots rfl
  · rfl
  · rw [State.setCounter_root] at hk
    rw [BitVec.getLsbD_or, hk, Bool.true_or]

/-- The state in which the line's own write is made: after the re-key that stands in place of its group's re-encryption, where one does. -/
def State.beforeWrite (s : State) (g line : Nat) : State := if s.spent g line then s.endRekey g else s

/-- The state in which the line's write has been counted. -/
def State.writeCounted (s : State) (g line : Nat) : State :=
  if s.spent g line then (s.beforeWrite g line).firstWrite g line else (s.beforeWrite g line).bumpLine g line

/-- What a whole-line write does: nothing, the re-key that retires the region, or the write counted and made. -/
theorem State.writeLine_cases (s : State) (g line : Nat) (data : Bytes) :
    s.writeLine g line data = s ∨ s.writeLine g line data = s.beforeWrite g line ∨
      s.writeLine g line data = { s.writeCounted g line with gddr := (s.writeCounted g line).gddr.writeBytes (2 ^ 21 * g + 128 * line) (padTo 128 data) } := by
  unfold State.writeLine
  dsimp only
  split
  · exact .inl rfl
  rw [← State.beforeWrite]
  split
  · exact .inr (.inl rfl)
  · exact .inr (.inr rfl)

theorem State.beforeWrite_groupsStand (s : State) (g line : Nat) : GroupsStand s (s.beforeWrite g line) := by
  unfold State.beforeWrite
  split
  · exact s.endRekey_groupsStand g
  · exact .refl s

theorem State.writeCounted_groupsStand (s : State) (g line : Nat) : GroupsStand s (s.writeCounted g line) := by
  unfold State.writeCounted
  split
  · exact (s.beforeWrite_groupsStand g line).trans (.of_roots rfl)
  · exact (s.beforeWrite_groupsStand g line).trans (State.bumpLine_groupsStand ..)

theorem State.writeLine_groupsStand (s : State) (g line : Nat) (data : Bytes) : GroupsStand s (s.writeLine g line data) := by
  rcases s.writeLine_cases g line data with h | h | h <;> rw [h]
  · exact .refl s
  · exact s.beforeWrite_groupsStand g line
  · exact (s.writeCounted_groupsStand g line).trans (.of_roots rfl)

theorem Store.gddrPiece_groupsStand (x : Store) (addr : Nat) (bs : Bytes) : GroupsStand x.state (x.gddrPiece addr bs).state := by
  unfold Store.gddrPiece
  dsimp only
  split
  · exact State.writeLine_groupsStand ..
  split
  · exact .refl _
  · exact State.writeLine_groupsStand ..

theorem Store.resPiece_frame (x : Store) (addr : Nat) (bs : Bytes) :
    (x.resPiece addr bs).state = { x.state with reservoir := (x.resPiece addr bs).state.reservoir, poison := (x.resPiece addr bs).state.poison } := by
  unfold Store.resPiece
  split
  · rfl
  split <;> rfl

/-- What every line that a store writes keeps of the state, the store keeps: pieces of GDDR7 lines, pieces of reservoir lines. -/
theorem State.store_related {R : State → State → Prop} (hrefl : ∀ s, R s s) (htrans : ∀ {s t u}, R s t → R t u → R s u) {ctx va : Nat} {bs : Bytes}
    (hgddr : ∀ p ∈ cutAt 128 (bs.length / 128 + 2) va bs, ∀ (x : Store) addr, R x.state (x.gddrPiece addr p.2).state)
    (hres : ∀ s (m : Memory) p, R s { s with reservoir := m, poison := p }) (s : State) : R s (s.store ctx va bs).state := by
  unfold State.store
  refine List.foldlRecOn (motive := fun x : Store => R s x.state) _ _ (hrefl s) fun x hx p hp => ?_
  split
  · exact hx
  split
  · exact htrans hx (hgddr p hp x _)
  · refine htrans hx (foldl_related (R := fun x y : Store => R x.state y.state) (fun x => hrefl _) htrans (fun y q => ?_) _ x)
    rw [y.resPiece_frame]
    exact hres ..

theorem State.store_groupsStand (s : State) (ctx va : Nat) (bs : Bytes) : GroupsStand s (s.store ctx va bs).state :=
  State.store_related .refl .trans (fun _ _ x _ => x.gddrPiece_groupsStand ..) (fun _ _ _ => .of_roots rfl) s

theorem State.retireRun_groupsStand (s : State) (ctx va n : Nat) : GroupsStand s (s.retireRun ctx va n) := by
  refine foldl_related .refl .trans (fun t x => foldl_related .refl .trans (fun u p => ?_) _ t) _ s
  unfold State.retireAt
  split
  · exact u.endRekey_groupsStand _
  · exact .refl u

theorem State.storeWhole_groupsStand (s : State) (ctx va : Nat) (bs : Bytes) : GroupsStand s (s.storeWhole ctx va bs).state := by
  unfold State.storeWhole
  dsimp only
  split
  · exact .refl s
  split
  · exact s.store_groupsStand ctx va bs
  · exact s.retireRun_groupsStand ctx va _

theorem State.leaveRows_related {R : State → State → Prop} (hrefl : ∀ s, R s s) (htrans : ∀ {s t u}, R s t → R t u → R s u)
    (hfreed : ∀ s n, R s { s with freed := n }) (hstore : ∀ (s : State) ctx va bs, R s (s.storeWhole ctx va bs).state) (s : State) (r : TableReq) :
    R s (s.leaveRows r) := by
  unfold State.leaveRows
  split
  · exact hrefl s
  · refine foldl_related hrefl htrans (fun t i => ?_) _ s
    dsimp only
    split
    · exact htrans (hfreed t _) (hstore ..)
    · exact hfreed t _

/-- Rows that a discarded scatter-add leaves are stores, and take free values (R173). -/
def LeavesOnly (s t : State) : Prop :=
  t = { s with gddr := t.gddr, counters := t.counters, roots := t.roots, reservoir := t.reservoir, poison := t.poison, blotter := t.blotter, freed := t.freed }

theorem LeavesOnly.refl (s : State) : LeavesOnly s s := rfl
theorem LeavesOnly.trans {s t u : State} (h : LeavesOnly s t) (k : LeavesOnly t u) : LeavesOnly s u := Eq.trans k (by rw [h])
theorem StoresOnly.leavesOnly {s t : State} (h : StoresOnly s t) : LeavesOnly s t := Eq.trans h.frame (by rw [h.frame])

theorem State.leaveRows_leavesOnly (s : State) (r : TableReq) : LeavesOnly s (s.leaveRows r) :=
  State.leaveRows_related .refl .trans (fun _ _ => rfl) (fun s ctx va bs => (s.storeWhole_storesOnly ctx va bs).leavesOnly) s r

end Sys2Proof.Machine
end

section
/-!
PROOF. The memories' upkeep (O33): entries, lines that stay bad through partial writes and through the discard rule, module faults, re-keys,
and the memories' own events.
-/
namespace Sys2Proof.Machine

open Sys2Proof.Claims

/-! ### Entries (R455, R456) -/

/-- An entry that is not informational joins the ring as its newest. -/
theorem Blotter.write_last (b : Blotter) {e : BlotterEntry} (h : e.code.toNat / 256 ≠ 1) :
    (b.write e).entries.getLast? = some { e with index := b.next } := by
  have hroom : 1 ≤ b.room := by
    unfold Blotter.room
    split <;> decide
  have hadd : b.write e = b.add e := by
    rw [Blotter.write, if_neg h]
  rw [hadd, Blotter.add]
  dsimp only
  rw [List.getLast?_drop, if_neg, List.getLast?_concat]
  rw [List.length_append, List.length_singleton]
  omega

theorem State.log_last (s : State) {code : Nat} (h : (BitVec.ofNat 16 code).toNat / 256 ≠ 1) (a step ctx : Option Nat) (handles : List Nat) :
    ∃ e, (s.log code a step ctx handles).blotter.entries.getLast? = some e ∧ e.code = BitVec.ofNat 16 code ∧ e.handles = handles :=
  ⟨_, Blotter.write_last _ h, rfl, rfl⟩

/-! ### Lines that stay bad (R402 to R407) -/

/-- Every line that reads as poisoned in the first state does so in the second. -/
def LinesStayBad (s t : State) : Prop := ∀ g l, l < 16384 → s.lineBad g l = true → t.lineBad g l = true

theorem LinesStayBad.refl (s : State) : LinesStayBad s s := fun _ _ _ h => h
theorem LinesStayBad.trans {s t u : State} (h : LinesStayBad s t) (k : LinesStayBad t u) : LinesStayBad s u :=
  fun g l hl hs => k g l hl (h g l hl hs)

/-- The mark of a poisoned line: its minor counter is 127 (R402). -/
def State.marked (s : State) (g line : Nat) : Prop := SMap.get 0 (s.counter g (line / 64)).minors (line % 64) = 127

theorem State.lineBad_iff {s : State} {g line : Nat} : s.lineBad g line = true ↔
    s.leaseEnding g = true ∨ (s.root g).lost.getLsbD (line / 64) = true ∨
      ((s.root g).written.getLsbD (line / 64) = true ∧ (s.marked g line ∨ s.keyed g = false)) := by
  simp [State.lineBad, State.marked, or_assoc]

/-- A bad line stays bad through what stores do, where it keeps its mark. -/
theorem StoresOnly.lineBad {s t : State} (h : StoresOnly s t) (k : GroupsStand s t) {g l : Nat} (hmark : s.marked g l → t.marked g l)
    (hbad : s.lineBad g l = true) : t.lineBad g l = true := by
  have hending : t.leaseEnding g = s.leaseEnding g := by
    rw [h.frame]
    rfl
  have hkeyed : t.keyed g = s.keyed g := by
    rw [h.frame]
    rfl
  rw [State.lineBad_iff] at hbad ⊢
  rw [hending, hkeyed, k.lost g]
  exact hbad.imp_right (Or.imp_right (And.imp (k.written g _) (Or.imp_left hmark)))

theorem CounterBlock.passed_mark {c : CounterBlock} {i : Nat} (h : SMap.get 0 c.minors i = 127) (k from_ dest : Nat) (fresh : BitVec 32) :
    SMap.get 0 (c.passed k from_ dest fresh).minors i = 127 :=
  SMap.get_filter_of_kept 0 _ (by decide) (by simp) c.minors h

theorem CounterBlock.bump_mark {c : CounterBlock} {i line : Nat} (hi : i ≠ line) (h : SMap.get 0 c.minors i = 127) (mine : Nat → Bool) (own : Bool) :
    SMap.get 0 (c.bump line mine own).minors i = 127 := by
  unfold CounterBlock.bump
  dsimp only
  split
  · rw [SMap.get_set, if_neg hi, h]
  · rw [SMap.get_set, if_neg hi]
    exact SMap.get_filter_of_kept 0 _ (by decide) (by simp) c.minors h

theorem State.counter_eq_find? (s : State) (g k : Nat) : s.counter g k = (SMap.find? s.counters (256 * g + k)).getD CounterBlock.zero :=
  SMap.get_eq_find? ..

/-- What a re-key's progress makes of the counter block listed under a key. -/
def State.rekeyedBlock (s : State) (g dest key : Nat) (c : CounterBlock) : CounterBlock :=
  if key / 256 = g then c.passed (key % 256) (s.root g).reached dest (s.root g).fresh else c

theorem State.passLines_counters (s : State) (g dest : Nat) : (s.passLines g dest).counters =
    (s.counters.map fun p => (p.1, s.rekeyedBlock g dest p.1 p.2)).filter fun p => p.2 ≠ CounterBlock.zero := by
  unfold State.passLines
  dsimp only [State.setRoot_counters]
  refine congrArg _ (List.map_congr_left fun p _ => ?_)
  unfold State.rekeyedBlock
  split <;> rfl

theorem State.passLines_marked {s : State} {g l : Nat} (h : s.marked g l) (g' dest : Nat) : (s.passLines g' dest).marked g l := by
  unfold State.marked at h ⊢
  rw [State.counter_eq_find?] at h
  rcases hc : SMap.find? s.counters (256 * g + l / 64) with _ | c
  · rw [hc] at h
    exact absurd h (by simp [CounterBlock.zero, SMap.get])
  rw [hc, Option.getD_some] at h
  have hpassed : SMap.get 0 (s.rekeyedBlock g' dest (256 * g + l / 64) c).minors (l % 64) = 127 := by
    unfold State.rekeyedBlock
    split
    · exact CounterBlock.passed_mark h ..
    · exact h
  have hne : s.rekeyedBlock g' dest (256 * g + l / 64) c ≠ CounterBlock.zero := fun hzero => by
    rw [hzero] at hpassed
    exact absurd hpassed (by simp [CounterBlock.zero, SMap.get])
  have hkept : (s.passLines g' dest).counter g (l / 64) = s.rekeyedBlock g' dest (256 * g + l / 64) c := by
    rw [State.counter, State.passLines_counters]
    refine SMap.get_filter_of_kept _ _ hne (by simpa using hne) _ ?_
    rw [SMap.get_eq_find?, SMap.find?_map_keyed, hc]
    rfl
  rw [hkept]
  exact hpassed

theorem State.endRekey_marked {s : State} {g l : Nat} (h : s.marked g l) (g' : Nat) : (s.endRekey g').marked g l := by
  unfold State.endRekey
  dsimp only
  split
  · exact h
  · exact State.passLines_marked h g' 16384

theorem State.beforeWrite_marked {s : State} {g l : Nat} (h : s.marked g l) (g' line : Nat) : (s.beforeWrite g' line).marked g l := by
  unfold State.beforeWrite
  split
  · exact State.endRekey_marked h g'
  · exact h

section
variable {s : State} {g g' l line : Nat} (hl : l < 16384) (hline : line < 16384) (hne : ¬(g = g' ∧ l = line))
include hl hline hne

/-- A line keeps its mark where another's counter is set. -/
theorem State.setCounter_marked (h : s.marked g l) {c : CounterBlock}
    (hc : ∀ i, i ≠ line % 64 → SMap.get 0 (s.counter g' (line / 64)).minors i = 127 → SMap.get 0 c.minors i = 127) :
    (s.setCounter g' (line / 64) c).marked g l := by
  unfold State.marked at h ⊢
  rw [State.setCounter_counter _ _ _ _ _ _ (by omega) (by omega)]
  split
  · next hsame =>
    rw [hsame.1, hsame.2] at h
    exact hc _ (fun hi => hne ⟨hsame.1, by omega⟩) h
  · exact h

theorem State.writeCounted_marked (h : s.marked g l) : (s.writeCounted g' line).marked g l := by
  have hbefore := State.beforeWrite_marked h g' line
  unfold State.writeCounted
  split
  · exact State.setCounter_marked hl hline hne hbefore fun i hi hmark => by rw [SMap.get_set, if_neg hi, hmark]
  · exact State.setCounter_marked hl hline hne hbefore fun i hi hmark => CounterBlock.bump_mark hi hmark ..

/-- A bad line stays bad where another is written. -/
theorem State.writeLine_lineBad (data : Bytes) (hbad : s.lineBad g l = true) : (s.writeLine g' line data).lineBad g l = true := by
  refine (s.writeLine_storesOnly g' line data).lineBad (s.writeLine_groupsStand g' line data) (fun h => ?_) hbad
  rcases s.writeLine_cases g' line data with hw | hw | hw <;> rw [hw]
  · exact h
  · exact State.beforeWrite_marked h g' line
  · exact State.writeCounted_marked hl hline hne h
end

/-- A partial write leaves every bad line bad (R405). -/
theorem Store.gddrPiece_linesStayBad (x : Store) (addr : Nat) {bs : Bytes} (hbs : bs.length ≠ 128) :
    LinesStayBad x.state (x.gddrPiece addr bs).state := by
  intro g l hl hbad
  unfold Store.gddrPiece
  dsimp only
  rw [if_neg hbs]
  split
  · exact hbad
  · next hgood =>
    refine State.writeLine_lineBad hl (by omega) (fun hsame => ?_) _ hbad
    rw [← hsame.1, ← hsame.2] at hgood
    exact hgood hbad

theorem length_of_mem_cutAt {n : Nat} {p : Nat × Bytes} : ∀ {fuel a : Nat} {bs : Bytes}, p ∈ cutAt n fuel a bs → p.2.length ≤ bs.length
  | 0, _, _, h => by simp [cutAt] at h
  | _ + 1, _, [], h => by simp [cutAt] at h
  | fuel + 1, a, b :: bs, h => by
    rw [cutAt, List.mem_cons] at h
    rcases h with rfl | h
    · exact List.length_take_le' ..
    · exact (length_of_mem_cutAt h).trans (by simp)
    · exact fun hnil => by cases hnil

/-- A store of less than a line leaves every bad line bad. -/
theorem State.store_linesStayBad (s : State) (ctx va : Nat) {bs : Bytes} (hbs : bs.length < 128) : LinesStayBad s (s.store ctx va bs).state :=
  State.store_related .refl .trans
    (fun _ hp x addr => x.gddrPiece_linesStayBad addr (Nat.ne_of_lt (Nat.lt_of_le_of_lt (length_of_mem_cutAt hp) hbs)))
    (fun _ _ _ _ _ _ h => h) s

/-! ### What a module fault leaves of the protected memory (R454) -/

/-- Between the two states no lost group has been found again, no scatter-add has come to wait, and unless one was waiting every bad line is
still bad; no lease has changed its state. -/
structure Harms (s t : State) : Prop where
  leases : ∀ a, (t.lease a).state = (s.lease a).state
  lost : ∀ g, (t.root g).lost = (s.root g).lost
  scatters : s.scatters = [] → t.scatters = []
  bad : s.scatters = [] → LinesStayBad s t

theorem Harms.refl (s : State) : Harms s s := ⟨fun _ => rfl, fun _ => rfl, id, fun _ => .refl s⟩
theorem Harms.trans {s t u : State} (h : Harms s t) (k : Harms t u) : Harms s u :=
  ⟨fun a => (k.leases a).trans (h.leases a), fun g => (k.lost g).trans (h.lost g), fun hs => k.scatters (h.scatters hs), fun hs => (h.bad hs).trans (k.bad (h.scatters hs))⟩
theorem Harms.foldl {α : Type} {f : State → α → State} (hf : ∀ s x, Harms s (f s x)) (l : List α) (s : State) : Harms s (l.foldl f s) :=
  foldl_related Harms.refl Harms.trans hf l s
theorem Harms.ite {c : Prop} [Decidable c] {s t u : State} (ht : Harms s t) (hu : Harms s u) : Harms s (if c then t else u) := by
  split
  · exact ht
  · exact hu

/-- What a line's reading depends on has not changed. -/
structure MemoryAside (s t : State) : Prop where
  roots : t.roots = s.roots
  counters : t.counters = s.counters
  leases : t.leases = s.leases
  installation : t.installation = s.installation
  nonce : t.nonce = s.nonce
  scatters : t.scatters = s.scatters

theorem MemoryAside.harms {s t : State} (h : MemoryAside s t) : Harms s t := by
  obtain ⟨hroots, hcounters, hleases, hinstallation, hnonce, hscatters⟩ := h
  have hroot (g : Nat) : t.root g = s.root g := by rw [State.root, hroots, ← State.root]
  have hlease (a : Nat) : t.lease a = s.lease a := by rw [State.lease, hleases, ← State.lease]
  have hregion (g : Nat) : t.atelierOfRegion g = s.atelierOfRegion g := by rw [State.atelierOfRegion, hinstallation, ← State.atelierOfRegion]
  have hending (g : Nat) : t.leaseEnding g = s.leaseEnding g := by simp only [State.leaseEnding, hregion, hlease]
  have hkeyed (g : Nat) : t.keyed g = s.keyed g := by simp only [State.keyed, hregion, hlease, hnonce]
  refine ⟨fun a => by rw [hlease], fun g => by rw [hroot], fun hs => hscatters.trans hs, fun _ g l _ hbad => ?_⟩
  rw [State.lineBad_iff, State.marked, State.counter] at hbad ⊢
  rw [hending, hkeyed, hroot, hcounters]
  exact hbad

theorem EndsOnly.harms {s t : State} (h : EndsOnly s t) : Harms s t := by
  refine MemoryAside.harms ?_
  rw [h.frame]
  exact ⟨rfl, rfl, rfl, rfl, rfl, rfl⟩

theorem SendsOnly.harms {s t : State} (h : SendsOnly s t) : Harms s t := by
  refine MemoryAside.harms ?_
  rw [show t = _ from h]
  exact ⟨rfl, rfl, rfl, rfl, rfl, rfl⟩

theorem State.store_harms (s : State) (ctx va : Nat) {bs : Bytes} (hbs : bs.length < 128) : Harms s (s.store ctx va bs).state := by
  refine ⟨fun a => ?_, (s.store_groupsStand ctx va bs).lost, fun hs => ?_, fun _ => s.store_linesStayBad ctx va hbs⟩
  · rw [(s.store_storesOnly ctx va bs).frame]
    rfl
  · rw [(s.store_storesOnly ctx va bs).frame]
    exact hs

theorem State.onCores_harms (s : State) (a : Nat) (f : Core → Core) : Harms s (s.onCores a f) :=
  Harms.foldl (f := fun s n => if s.holds a n then s.setCore n (f (s.core n)) else s)
    (fun s _ => .ite (MemoryAside.harms ⟨rfl, rfl, rfl, rfl, rfl, rfl⟩) (.refl s)) _ s

theorem State.abortWork_harms (s : State) (a code : Nat) : Harms s (s.abortWork a code) := by
  unfold State.abortWork
  dsimp only
  refine Harms.trans (Harms.foldl (fun t c => ?_) _ s) (Harms.trans (Harms.foldl (fun t p => ?_) _ _) (MemoryAside.harms ⟨rfl, rfl, rfl, rfl, rfl, rfl⟩))
  · split
    · exact .ite (State.abortMembers_sendsOnly ..).harms (.refl t)
    · exact .refl t
  · split
    · exact .ite (State.abortMembers_sendsOnly ..).harms (.refl t)
    · exact .refl t

theorem State.dropTag?_harms (s : State) (x : Option Nat) : Harms s (s.dropTag? x) := by
  cases x <;> exact MemoryAside.harms ⟨rfl, rfl, rfl, rfl, rfl, rfl⟩

theorem State.dropSegments_harms (s : State) (a : Nat) : Harms s (s.dropSegments a) :=
  (Harms.foldl (f := fun s (g : Segment) => s.dropTag? g.tag) (fun s g => s.dropTag?_harms g.tag) _ s).trans
    (MemoryAside.harms ⟨rfl, rfl, rfl, rfl, rfl, rfl⟩)

theorem State.leaveRows_groupsStand (s : State) (r : TableReq) : GroupsStand s (s.leaveRows r) :=
  State.leaveRows_related .refl .trans (fun _ _ => .of_roots rfl) State.storeWhole_groupsStand s r

theorem State.dropRequests_harms (s : State) (b : Nat) : Harms s (s.dropRequests b) := by
  have hnone (hs : s.scatters = []) : s.dropRequests b = { s with gathers := keepRequests b s.gathers, scatters := [] } := by
    rw [State.dropRequests, hs]
    rfl
  refine ⟨fun a => ?_, fun g => ?_, fun hs => by rw [hnone hs], fun hs g l _ hbad => by rw [hnone hs]; exact hbad⟩
  · have hleaves : LeavesOnly { s with gathers := keepRequests b s.gathers, scatters := keepRequests b s.scatters } (s.dropRequests b) :=
      foldl_related LeavesOnly.refl LeavesOnly.trans State.leaveRows_leavesOnly _ _
    rw [show s.dropRequests b = _ from hleaves]
    rfl
  exact (foldl_related GroupsStand.refl GroupsStand.trans State.leaveRows_groupsStand _ _).lost g

theorem State.breakAll_harms (s : State) (j : Job) : Harms s (s.breakAll j) := by
  unfold State.breakAll
  refine .ite (Harms.foldl (fun t i => ?_) _ s) (.refl s)
  refine .ite (t.store_harms _ _ ?_) (.refl t)
  rw [List.length_append, leBytes_length, slice_length]
  decide

theorem State.discardServing_harms (s : State) (a : Nat) : Harms s (s.discardServing a) :=
  (Harms.foldl (f := fun s (p : Nat × Job) => s.breakAll p.2) (fun s p => s.breakAll_harms p.2) _ s).trans
    (MemoryAside.harms ⟨rfl, rfl, rfl, rfl, rfl, rfl⟩)

theorem State.discardCommands_endsOnly (s : State) (a : Nat) (keep : Option Nat) : EndsOnly s (s.discardCommands a keep) :=
  EndsOnly.foldl (fun _ _ => State.finish_endsOnly ..) _ s

theorem State.discard_harms (s : State) (a code : Nat) : Harms s (s.discard a code) := by
  unfold State.discard
  extract_lets s1 s2 s3 s4
  have h1 : Harms s s1 := (s.onCores_harms a Core.halted).trans (State.discardCommands_endsOnly _ a none).harms
  have hchunks : Harms (s1.abortWork a code) ((s1.abortWork a code).dropChunks a) := MemoryAside.harms ⟨rfl, rfl, rfl, rfl, rfl, rfl⟩
  have h2 : Harms s1 s2 := (((s1.abortWork_harms a code).trans hchunks).trans (State.dropSegments_harms _ a)).trans (State.dropRequests_harms _ a)
  have h3 : Harms s s3 := (h1.trans h2).trans (s2.discardServing_harms a)
  clear_value s3
  have h4 : MemoryAside s3 s4 := ⟨rfl, rfl, rfl, rfl, rfl, rfl⟩
  exact (h3.trans h4.harms).trans (MemoryAside.harms ⟨rfl, rfl, rfl, rfl, rfl, rfl⟩)

theorem State.settleReply_harms (s : State) (n : Nat) : Harms s (s.settleReply n) := by
  unfold State.settleReply
  split
  · split
    · refine .ite ?_ (.refl s)
      exact Harms.trans (t := { s with dmas := SMap.del s.dmas n }) (MemoryAside.harms ⟨rfl, rfl, rfl, rfl, rfl, rfl⟩) (State.finish_endsOnly ..).harms
    · exact .refl s
  · exact .refl s

theorem State.answerSegment_harms (s : State) (seg : Option (Nat × Nat)) (result : Nat) : Harms s (s.answerSegment seg result) := by
  rcases seg with _ | ⟨cmd, i⟩
  · exact .refl s
  · exact Harms.trans (t := { s with dmas := SMap.adjust s.dmas cmd fun d => { d with peer := SMap.put d.peer i result } })
      (MemoryAside.harms ⟨rfl, rfl, rfl, rfl, rfl, rfl⟩) (State.settleReply_harms _ cmd)

theorem State.discardAt_harms (s : State) (p vc : Nat) (pick : Waiting → Bool) : Harms s (s.discardAt p vc pick) := by
  have hfold : Harms s (((SMap.get [] (s.port p).queues vc).filter pick).foldl State.discardWaiting s) :=
    Harms.foldl (f := State.discardWaiting) (fun t w => (t.dropTag?_harms w.tag).trans (State.answerSegment_harms ..)) _ s
  exact .ite (hfold.trans (MemoryAside.harms ⟨rfl, rfl, rfl, rfl, rfl, rfl⟩)) hfold

theorem State.dropLeasePackets_harms (s : State) (lease : Nat) : Harms s (s.dropLeasePackets lease) :=
  Harms.foldl (fun _ p => Harms.foldl (fun t vc => t.discardAt_harms p vc _) _ _) _ s

/-- The keys of a lease erased: what was bad is bad (R431). -/
theorem State.setLease_harms (s : State) (a : Nat) {x : Lease} (hx : x.state = (s.lease a).state) (hkeys : x.keys = none) :
    Harms s (s.setLease a x) := by
  have hstate (b : Nat) : ((s.setLease a x).lease b).state = (s.lease b).state := by
    rw [State.setLease_lease]
    split
    · next h => rw [h, hx]
    · rfl
  have hunkeyed (b : Nat) (h : (s.lease b).keys.isSome = false) : ((s.setLease a x).lease b).keys.isSome = false := by
    rw [State.setLease_lease]
    split
    · rw [hkeys, Option.isSome_none]
    · exact h
  have hkeyed {g : Nat} : s.keyed g = false → (s.setLease a x).keyed g = false := by
    unfold State.keyed
    split
    · exact id
    · rw [show (s.setLease a x).atelierOfRegion g = s.atelierOfRegion g from rfl]
      split
      · exact hunkeyed _
      · exact id
  have hending (g : Nat) : (s.setLease a x).leaseEnding g = s.leaseEnding g := by
    unfold State.leaseEnding
    simp only [hstate]
    rfl
  refine ⟨hstate, fun _ => rfl, id, fun _ g l _ hbad => ?_⟩
  rw [State.lineBad_iff] at hbad ⊢
  rw [hending]
  exact hbad.imp_right (Or.imp_right (And.imp_right (Or.imp_right hkeyed)))

theorem State.forgetLease_harms (s : State) (l : Lease) (lnum : Nat) : Harms s (s.forgetLease l lnum) :=
  .ite (Harms.trans (t := { s with erasedLeases := s.erasedLeases.add lnum }) (MemoryAside.harms ⟨rfl, rfl, rfl, rfl, rfl, rfl⟩)
    (State.dropLeasePackets_harms ..)) (.refl s)

theorem State.beginDrain_harms (s : State) (a : Nat) : Harms s (s.beginDrain a) :=
  .ite (.refl s) (MemoryAside.harms ⟨rfl, rfl, rfl, rfl, rfl, rfl⟩)

theorem State.faultWith_harms (s : State) (code a : Nat) : Harms s (s.faultWith code a) := by
  have hdrain : Harms s ((s.discard a code).beginDrain a) := (s.discard_harms a code).trans (State.beginDrain_harms ..)
  unfold State.faultWith
  dsimp only
  generalize (s.discard a code).beginDrain a = s1 at hdrain ⊢
  have hforgets := s1.forgetLease_harms (s1.lease a) (s1.lnum a)
  refine ((hdrain.trans hforgets).trans (State.setLease_harms _ a ?_ rfl)).trans (MemoryAside.harms ⟨rfl, rfl, rfl, rfl, rfl, rfl⟩)
  exact (hforgets.leases a).symm

/-- A module fault as SB_STATE and the pins show it (R454, R485). -/
structure ModuleFailed (code : Nat) (t : State) : Prop where
  mstate : t.mstate = 3
  fcode : t.fcode = BitVec.ofNat 16 code
  faultN : t.power.faultN = true

theorem announce_frame (old new : State) : announce old new = { new with sideband := (announce old new).sideband } := by
  unfold announce
  split <;> rfl

theorem State.faultModule_failed (s : State) (code : Nat) (handles : List Nat) : ModuleFailed code (s.faultModule code handles) := by
  unfold State.faultModule
  rw [announce_frame]
  exact ⟨rfl, rfl, rfl⟩

theorem State.faultModule_harms (s : State) (code : Nat) (handles : List Nat) : Harms s (s.faultModule code handles) := by
  unfold State.faultModule
  rw [announce_frame]
  have hateliers := Harms.foldl (f := fun s a => s.faultWith code a) (fun t a => t.faultWith_harms code a) (List.range (s.note code handles).nat)
    (s.note code handles)
  refine Harms.trans (t := s.note code handles) (MemoryAside.harms ⟨rfl, rfl, rfl, rfl, rfl, rfl⟩) (hateliers.trans ?_)
  dsimp only
  generalize (List.range (s.note code handles).nat).foldl (fun s a => s.faultWith code a) (s.note code handles) = s2
  exact MemoryAside.harms ⟨rfl, rfl, rfl, rfl, rfl, rfl⟩

/-! ### Groups and lines that fail (R191, R402, R403, R494) -/

theorem State.loseGroup_lost (s : State) {g group k : Nat} (hk : k < 256) (h : (s.root g).lost.getLsbD k = true ∨ k = group) :
    ((s.loseGroup g group).root g).lost.getLsbD k = true := by
  rw [State.loseGroup, State.setRoot_root, if_pos rfl]
  rcases h with h | rfl <;> simp [*]

theorem State.loseGroups_lost {g k : Nat} (hk : k < 256) : ∀ (ks : List Nat) (s : State), (s.root g).lost.getLsbD k = true ∨ k ∈ ks →
    ((ks.foldl (fun s k => s.loseGroup g k) s).root g).lost.getLsbD k = true
  | [], s, h => h.resolve_right List.not_mem_nil
  | j :: ks, s, h => by
    refine State.loseGroups_lost hk ks _ ?_
    rw [List.mem_cons] at h
    rcases h with h | rfl | h
    · exact .inl (s.loseGroup_lost hk (.inl h))
    · exact .inl (s.loseGroup_lost hk (.inr rfl))
    · exact .inr h

theorem mem_groupsBeneath {level group k : Nat} (h : k / 8 ^ level = group / 8 ^ level) : k ∈ groupsBeneath level group := by
  have hpos : 0 < 8 ^ level := Nat.pow_pos (by decide)
  have hmem := mem_upFrom (lo := k / 8 ^ level * 8 ^ level) (Nat.mod_lt k hpos)
  rwa [Nat.div_add_mod', h] at hmem

/-- A node of the module area that fails loses every group beneath it and faults the module (R403). -/
theorem State.groupLost_of_area (s : State) {g group level : Nat} (harea : inArea g = true) (hgroup : group < 256) (hlevel : level < 3) :
    ModuleFailed 0x0821 (s.groupLost g group level) ∧
      ∀ k, k / 8 ^ level = group / 8 ^ level → ((s.groupLost g group level).root g).lost.getLsbD k = true := by
  rw [State.groupLost, if_pos harea]
  refine ⟨State.faultModule_failed .., fun k hk => ?_⟩
  have hlt : k < 256 := by
    have hcases : level = 0 ∨ level = 1 ∨ level = 2 := by omega
    rcases hcases with rfl | rfl | rfl <;> omega
  rw [(State.faultModule_harms ..).lost]
  exact State.loseGroups_lost hlt _ s (.inr (mem_groupsBeneath hk))

/-- A live line that fails reads as poisoned (R402). -/
theorem State.lineFailed_lineBad {s : State} {g l : Nat} (hl : l < 16384) (h : s.lineLive g l = true) : (s.lineFailed g l).lineBad g l = true := by
  have hwritten : (s.root g).written.getLsbD (l / 64) = true := by
    simp only [State.lineLive, Bool.and_eq_true] at h
    exact h.1.1
  rw [State.lineBad_iff]
  refine .inr (.inr ⟨hwritten, .inl ?_⟩)
  rw [show (s.lineFailed g l).marked g l = (s.poisonLine g l).marked g l from rfl, State.marked, State.poisonLine,
    State.setCounter_counter _ _ _ _ _ _ (by omega) (by omega), if_pos ⟨rfl, rfl⟩, SMap.get_set, if_pos rfl]

/-! ### The memories' own events: what each row does where the rails are good (R190, R191, R197, R198, R494) -/

theorem whenDue_of_due {due : Bool} (h : due = true) (s t : State) : whenDue due s t = .next t := by rw [whenDue, if_pos h]

theorem whenDue_of_not_due {due : Bool} (h : due = false) (s t : State) : whenDue due s t = .next s := by rw [whenDue, h, if_neg Bool.false_ne_true]

section
variable {s : State} (hrails : s.power.rails = true)
include hrails

theorem exec_gddr7Refresh {c : Nat} (hc : c < 32) : exec (.gddr7Refresh c) s =
    .next (s.setChannel c { s.channel c with refreshes := (s.channel c).refreshes + 1 }) :=
  (onUnit_of_lt hc _).trans (whenDue_of_due hrails ..)

theorem exec_gddr7TemperatureReadout {c : Nat} (hc : c < 32) (temp : Int) : exec (.gddr7TemperatureReadout c temp) s =
    .next (if 95 * 16 < temp then (s.setChannel c { s.channel c with temp := temp, doubled := decide (85 * 16 < temp) }).note 0x0220 [c]
      else s.setChannel c { s.channel c with temp := temp, doubled := decide (85 * 16 < temp) }) :=
  (onUnit_of_lt hc _).trans (whenDue_of_due hrails ..)

theorem exec_gddr7EccCountRead {c : Nat} (hc : c < 32) (n : Nat) : exec (.gddr7EccCountRead c n) s =
    .next (if n = 0 then s else s.note 0x0120 [c, n]) :=
  (onUnit_of_lt hc _).trans (whenDue_of_due hrails ..)

theorem exec_sramCorrectedErrorRate {p : Nat} (hp : p < 12) (n : Nat) : exec (.sramCorrectedErrorRate p n) s = .next (s.correctErrors p n) :=
  (onUnit_of_lt hp _).trans (whenDue_of_due hrails ..)

theorem exec_reservoirPatrolScrub {p : Nat} (hp : p < 12) (bad : List Nat) (n : Nat) : exec (.reservoirPatrolScrub p bad n) s =
    .next ((bad.foldl (fun s n => s.poisonReservoir (s.panelLine p n)) s).correctErrors p n) :=
  (onUnit_of_lt hp _).trans (whenDue_of_due hrails ..)
end

theorem exec_gddr7RetriesExhausted_elsewhere (s : State) {c g l : Nat} (hc : c < 32) (hg : g < 262144) (hl : l < 16384)
    (h : ¬(c / 8 = g / 65536 ∧ c % 8 = l / 8 % 8)) (w : Bool) : exec (.gddr7RetriesExhausted c g l w) s = .next s := by
  rw [show exec (.gddr7RetriesExhausted c g l w) s = execGddr7RetriesExhausted c g l w s from rfl, execGddr7RetriesExhausted, onUnit_of_lt hc,
    onUnit_of_lt hg, onUnit_of_lt hl]
  exact whenDue_of_not_due (by simpa [and_assoc] using fun _ => not_and.mp h) ..

/-- A patrol of the module area of a die: the lines that fail, then the nodes (R494). -/
theorem exec_moduleAreaPatrol {s : State} {die : Nat} (hdie : die < 4) (hm : s.mstate = 1 ∨ s.mstate = 2 ∨ s.mstate = 3)
    (lines : List (Nat × Nat)) (nodes : List (Nat × Nat × Nat)) :
    let g := fun (r : Nat) => 65536 * die + 65456 + r
    exec (.moduleAreaPatrol die lines nodes) s = .next ((nodes.filter fun p => s.lineLive (g p.1) (64 * p.2.2)).foldl
      (fun s p => s.groupLost (g p.1) p.2.2 p.2.1)
      ((lines.filter fun p => s.lineLive (g p.1) p.2 && !s.lineBad (g p.1) p.2).foldl (fun s p => s.lineFailed (g p.1) p.2) s)) :=
  (onUnit_of_lt hdie _).trans (whenDue_of_due (by simpa [or_assoc] using hm) ..)

/-- A panel's corrected errors of the last second (R197). -/
def State.recentErrors (s : State) (p : Nat) : List (Word64 × Nat) := (s.panel p).corrected.filter fun e => decide ((s.time - e.1).toNat < 100000000)

/-- How many they are. -/
def State.errorsBefore (s : State) (p : Nat) : Nat := ((s.recentErrors p).map Prod.snd).sum

/-- The panel's list with the new errors in it. -/
def State.errorsCounted (s : State) (p n : Nat) : State :=
  s.setPanel p { s.panel p with corrected := if n = 0 then s.recentErrors p else s.recentErrors p ++ [(s.time, n)] }

theorem State.correctErrors_of_passed {s : State} {p n : Nat} (h : s.errorsBefore p ≤ 1000 ∧ 1000 < s.errorsBefore p + n) :
    s.correctErrors p n = (s.errorsCounted p n).note 0x0221 [p, s.errorsBefore p + n] :=
  if_pos (by rwa [Bool.and_eq_true, decide_eq_true_eq, decide_eq_true_eq])

theorem State.correctErrors_of_not_passed {s : State} {p n : Nat} (h : ¬(s.errorsBefore p ≤ 1000 ∧ 1000 < s.errorsBefore p + n)) :
    s.correctErrors p n = s.errorsCounted p n :=
  if_neg (by rwa [Bool.and_eq_true, decide_eq_true_eq, decide_eq_true_eq])

theorem State.errorsCounted_panel (s : State) (p n k : Nat) : (s.errorsCounted p n).panel k =
    if k = p then { s.panel p with corrected := if n = 0 then s.recentErrors p else s.recentErrors p ++ [(s.time, n)] } else s.panel k :=
  s.setPanel_panel ..

/-- Errors counted, with or without their entry, change a panel and the blotter alone. -/
theorem State.correctErrors_frame (s : State) (p n : Nat) : s.correctErrors p n =
    { s with panels := (s.errorsCounted p n).panels, blotter := (s.correctErrors p n).blotter } := by
  by_cases h : s.errorsBefore p ≤ 1000 ∧ 1000 < s.errorsBefore p + n
  · rw [State.correctErrors_of_passed h]
    rfl
  · rw [State.correctErrors_of_not_passed h]
    rfl

theorem State.correctErrors_panel (s : State) (p n k : Nat) : (s.correctErrors p n).panel k = (s.errorsCounted p n).panel k := by
  rw [s.correctErrors_frame]
  rfl

theorem State.correctErrors_sum (s : State) (p n : Nat) : (((s.correctErrors p n).panel p).corrected.map Prod.snd).sum = s.errorsBefore p + n := by
  rw [State.correctErrors_panel, State.errorsCounted_panel, if_pos rfl]
  dsimp only
  split
  · next h => rw [h]; rfl
  · simp [State.errorsBefore]

/-! Exhausted retries (R191). -/

/-- A channel's bursts of the last second that have failed. -/
def State.recentBursts (s : State) (c : Nat) : List Word64 := (s.channel c).exhausted.filter fun t => decide ((s.time - t).toNat < 100000000)

/-- One more burst on a channel counted. -/
def State.burstCounted (s : State) (c : Nat) : State := s.setChannel c { s.channel c with exhausted := s.recentBursts c ++ [s.time] }

theorem State.countRetries_of_few {s : State} {c : Nat} (h : (s.recentBursts c).length < 15) : s.countRetries c = s.burstCounted c :=
  if_neg (by rw [List.length_append, List.length_singleton]; exact (Nat.succ_lt_succ h).ne)

theorem State.countRetries_of_full {s : State} {c : Nat} (h : (s.recentBursts c).length = 15) :
    s.countRetries c = (s.burstCounted c).faultModule 0x0820 [c] :=
  if_pos (by rw [List.length_append, List.length_singleton]; exact congrArg (· + 1) h)

/-- The line of a burst that exhausts its retries: marked where it is live, a read of one that is poisoned already apart. -/
def State.burstFailed (s : State) (g l : Nat) (w : Bool) : State := if s.lineLive g l && (w || !s.lineBad g l) then s.lineFailed g l else s

theorem State.burstFailed_lineBad {s : State} {g l : Nat} (hl : l < 16384) (h : s.lineLive g l = true) (w : Bool) :
    (s.burstFailed g l w).lineBad g l = true := by
  unfold State.burstFailed
  split
  · exact s.lineFailed_lineBad hl h
  · next hno =>
    simp only [h, Bool.true_and, Bool.or_eq_true, Bool.not_eq_true', not_or, Bool.not_eq_false] at hno
    exact hno.2

/-- Marking a line changes counter blocks and the blotter alone. -/
theorem State.burstFailed_frame (s : State) (g l : Nat) (w : Bool) : s.burstFailed g l w =
    { s with counters := (s.burstFailed g l w).counters, blotter := (s.burstFailed g l w).blotter } := by
  unfold State.burstFailed
  split <;> rfl

theorem State.burstFailed_recentBursts (s : State) (g l : Nat) (w : Bool) (c : Nat) : (s.burstFailed g l w).recentBursts c = s.recentBursts c := by
  rw [s.burstFailed_frame]
  rfl

/-- A burst of a line on its own channel marks the line, where it is live, and is counted (R191). -/
theorem exec_gddr7RetriesExhausted {s : State} (hrails : s.power.rails = true) {c g l : Nat} (hc : c < 32) (hg : g < 262144) (hl : l < 16384)
    (hdie : c / 8 = g / 65536) (hunit : c % 8 = l / 8 % 8) (w : Bool) : exec (.gddr7RetriesExhausted c g l w) s = .next
      ((s.burstFailed g l w).countRetries c) := by
  rw [show exec (.gddr7RetriesExhausted c g l w) s = execGddr7RetriesExhausted c g l w s from rfl, execGddr7RetriesExhausted, onUnit_of_lt hc,
    onUnit_of_lt hg, onUnit_of_lt hl]
  exact whenDue_of_due (by simp [hrails, hdie, hunit]) ..

/-! ### Corrected errors, patrols, re-keys (R197, R198, R407, R408) -/

theorem State.poisonReservoirs_poison (l : Nat) : ∀ (ns : List Nat) (p : Nat) (s : State),
    (ns.foldl (fun s n => s.poisonReservoir (s.panelLine p n)) s).poison.has l = (s.poison.has l || (ns.map (s.panelLine p)).contains l) ∧
      (ns.foldl (fun s n => s.poisonReservoir (s.panelLine p n)) s).reservoir = s.reservoir
  | [], _, _ => by simp
  | n :: ns, p, s => by
    obtain ⟨hpoison, hreservoir⟩ := State.poisonReservoirs_poison l ns p (s.poisonReservoir (s.panelLine p n))
    have hadd : (s.poisonReservoir (s.panelLine p n)).poison.has l = (decide (l = s.panelLine p n) || s.poison.has l) := by
      rw [Bool.eq_iff_iff, Bool.or_eq_true, decide_eq_true_eq, NatSet.has, NatSet.has, List.contains_iff_mem, List.contains_iff_mem]
      exact NatSet.mem_add
    rw [List.foldl_cons, hpoison, hreservoir, hadd]
    refine ⟨?_, rfl⟩
    rw [show (s.poisonReservoir (s.panelLine p n)).panelLine p = s.panelLine p from rfl, List.map_cons, List.contains_cons]
    rw [Bool.eq_iff_iff]
    simp only [Bool.or_eq_true, decide_eq_true_eq, beq_iff_eq]
    tauto

/-- What a re-key's progress leaves at each counter block of a region, where no block is listed twice (R407). -/
theorem State.passLines_counter {s : State} (hnodup : (s.counters.map Prod.fst).Nodup) {g k : Nat} (hk : k < 256) (dest : Nat) :
    (s.passLines g dest).counter g k =
      (SMap.find? s.counters (256 * g + k)).elim CounterBlock.zero fun c => c.passed k (s.root g).reached dest (s.root g).fresh := by
  have hkeys : ((s.counters.map fun p => (p.1, s.rekeyedBlock g dest p.1 p.2)).map Prod.fst).Nodup := by
    rw [List.map_map]
    exact hnodup
  rw [State.counter, SMap.get_eq_find?, State.passLines_counters, SMap.find?_filter _ _ _ hkeys, SMap.find?_map_keyed]
  rcases SMap.find? s.counters (256 * g + k) with _ | c
  · rfl
  · have hblock : s.rekeyedBlock g dest (256 * g + k) c = c.passed k (s.root g).reached dest (s.root g).fresh := by
      rw [State.rekeyedBlock, if_pos (by omega), show (256 * g + k) % 256 = k by omega]
    rw [Option.map_some, hblock, Option.filter]
    split
    · rfl
    · next hzero => exact (show c.passed k (s.root g).reached dest (s.root g).fresh = CounterBlock.zero by simpa using hzero).symm

/-- Lines that have passed to the new epoch do not pass again. -/
theorem CounterBlock.passed_of_none_left (c : CounterBlock) {k : Nat} (hk : k < 256) (fresh : BitVec 32) : c.passed k 16384 16384 fresh = c := by
  have hmajor : ¬(16384 < 64 * k + 64) := by omega
  have hminors : c.minors.filter (fun m => m.2 = 127 || !(decide (16384 ≤ 64 * k + m.1) && decide (64 * k + m.1 < 16384))) = c.minors := by
    refine List.filter_eq_self.mpr fun m _ => ?_
    simp only [Bool.or_eq_true, Bool.not_eq_true', Bool.and_eq_false_iff, decide_eq_false_iff_not]
    omega
  rw [CounterBlock.passed, hminors, if_neg (by simp [hmajor])]

theorem exec_regionRekey {s : State} {g : Nat} (hg : g < 262144) (hkeyed : s.keyed g = true) (hretired : (s.root g).retired = false)
    (hdue : s.rekeyDue g = true) (htag : s.freeModuleTag.isSome = true) (lines : Nat) :
    exec (.regionRekey g lines []) s = .next (s.rekeyLines g lines []) := by
  rw [show exec (.regionRekey g lines []) s = execRegionRekey g lines [] s from rfl, execRegionRekey, onUnit_of_lt hg]
  simp [whenDue, hkeyed, hretired, hdue, htag]

theorem State.rekeyLines_last {s : State} {g : Nat} (h : (s.root g).last = true) (lines : Nat) : s.rekeyLines g lines [] =
    (s.setRoot g { s.root g with retired := true, rekey := false, boundary := 0, fresh := 0 }).noteOf (s.atelierOfRegion g) 0x0224 [g] := by
  rw [State.rekeyLines, if_pos h, State.endRekey, if_pos h]

theorem State.rekeyLines_within {s : State} {g lines : Nat} (h : (s.root g).last = false) (hdest : (s.root g).reached + lines < 16384) :
    s.rekeyLines g lines [] = s.passLines g ((s.root g).reached + lines) := by
  rw [State.rekeyLines, if_neg (by simp [h])]
  dsimp only
  rw [Nat.min_eq_right hdest.le, if_neg hdest.ne]
  rfl

theorem State.rekeyLines_ends {s : State} {g lines : Nat} (h : (s.root g).last = false) (hdest : 16384 ≤ (s.root g).reached + lines) :
    s.rekeyLines g lines [] = (s.passLines g 16384).endRekey g := by
  rw [State.rekeyLines, if_neg (by simp [h])]
  dsimp only
  rw [Nat.min_eq_left hdest, if_pos rfl]
  rfl

theorem State.passLines_root (s : State) (g dest : Nat) : (s.passLines g dest).root g =
    { s.root g with rekey := true, boundary := dest
                    fresh := if dest % 64 ≠ 0 && dest / 64 = (s.root g).reached / 64 then (s.root g).fresh else 0 } := by
  rw [State.passLines, State.setRoot_root, if_pos rfl]

/-- A re-key's progress, and its end, change counters and root records alone. -/
def RekeysOnly (s t : State) : Prop := t = { s with roots := t.roots, counters := t.counters }

theorem RekeysOnly.trans {s t u : State} (h : RekeysOnly s t) (k : RekeysOnly t u) : RekeysOnly s u := Eq.trans k (by rw [h])

theorem State.passLines_rekeysOnly (s : State) (g dest : Nat) : RekeysOnly s (s.passLines g dest) := rfl

theorem State.endRekey_of_not_last {s : State} {g : Nat} (h : (s.root g).last = false) : s.endRekey g =
    (s.passLines g 16384).setRoot g { (s.passLines g 16384).root g with epoch := (s.root g).epoch + 1, rekey := false, boundary := 0, fresh := 0 } := by
  rw [State.endRekey, if_neg (by simp [h])]

theorem State.endRekey_rekeysOnly {s : State} {g : Nat} (h : (s.root g).last = false) : RekeysOnly s (s.endRekey g) := by
  rw [State.endRekey_of_not_last h]
  exact (s.passLines_rekeysOnly g 16384).trans rfl

/-- The end of a re-key whose lines have all passed leaves every counter block as it is. -/
theorem State.endRekey_counter {s : State} {g k : Nat} (h : (s.root g).last = false) (hreached : (s.root g).reached = 16384)
    (hnodup : (s.counters.map Prod.fst).Nodup) (hk : k < 256) : (s.endRekey g).counter g k = s.counter g k := by
  rw [State.endRekey_of_not_last h, State.setRoot_counter, State.passLines_counter hnodup hk, hreached, State.counter_eq_find? s]
  rcases SMap.find? s.counters (256 * g + k) with _ | c
  · rfl
  · exact CounterBlock.passed_of_none_left c hk _

theorem State.passLines_keys {s : State} (h : (s.counters.map Prod.fst).Nodup) (g dest : Nat) : ((s.passLines g dest).counters.map Prod.fst).Nodup := by
  rw [State.passLines_counters]
  refine (List.filter_sublist.map _).nodup ?_
  rw [List.map_map]
  exact h

/-- A re-key at its last line: the next epoch, with the counters as its lines have passed (R407). -/
theorem State.endRekey_passed {s : State} {g : Nat} (h : (s.root g).last = false) :
    let t := (s.passLines g 16384).endRekey g
    (t.root g).rekey = false ∧ (t.root g).epoch = (s.root g).epoch + 1 ∧ RekeysOnly s t ∧
      ((s.counters.map Prod.fst).Nodup → ∀ k < 256, t.counter g k = (s.passLines g 16384).counter g k) := by
  have hroot := s.passLines_root g 16384
  have honly := s.passLines_rekeysOnly g 16384
  have hlast : ((s.passLines g 16384).root g).last = false := by
    rw [hroot]
    exact h
  have hreached : ((s.passLines g 16384).root g).reached = 16384 := by rw [hroot, RootRecord.reached, if_pos rfl]
  have hend : (((s.passLines g 16384).endRekey g).root g).rekey = false ∧
      (((s.passLines g 16384).endRekey g).root g).epoch = ((s.passLines g 16384).root g).epoch + 1 := by
    rw [State.endRekey_of_not_last hlast, State.setRoot_root, if_pos rfl]
    exact ⟨rfl, rfl⟩
  refine ⟨hend.1, hend.2.trans (by rw [hroot]), honly.trans (State.endRekey_rekeysOnly hlast), fun hnodup k hk => ?_⟩
  exact State.endRekey_counter hlast hreached (State.passLines_keys hnodup g 16384) hk

/-- Settles O33, a memory at a time: the channels, the SRAM, the module area, the retries, the re-keys. -/
theorem memoryUpkeep : Obligations.MemoryUpkeep := by
  unfold Obligations.MemoryUpkeep
  refine ⟨fun s hrails => ?_, fun s g lines hg hkeyed hretired hdue htag => ?_⟩
  · dsimp only
    refine ⟨fun c hc => ?_, fun c hc temp => ?_, fun c hc => ⟨?_, fun n hn => ?_⟩, fun p hp n => ?_, fun p hp bad n => ?_,
      fun die hdie hm => ⟨?_, fun r l hlive hgood => ?_⟩, fun die hdie hm r level group hr hlevel hgroup hlive => ?_,
      fun c g l w hc hg hl hother => exec_gddr7RetriesExhausted_elsewhere s hc hg hl hother w,
      fun c g l hc hg hl hdie hunit hlive hgood hfew w => ?_, fun c g l hc hg hl hdie hunit hfull w => ?_⟩
    · exact ⟨_, exec_gddr7Refresh hrails hc, by simp, by simp, rfl⟩
    · refine ⟨_, exec_gddr7TemperatureReadout hrails hc temp, ?_⟩
      by_cases h : 95 * 16 < temp
      · rw [if_pos h]
        exact ⟨by simp, by simp, fun hle => absurd h (Int.not_lt.mpr hle), fun _ => State.log_last _ (by decide) ..⟩
      · rw [if_neg h]
        exact ⟨by simp, by simp, fun _ => rfl, fun hgt => absurd hgt h⟩
    · rw [exec_gddr7EccCountRead hrails hc, if_pos rfl]
    · rw [exec_gddr7EccCountRead hrails hc, if_neg (Nat.ne_of_gt hn)]
    · refine ⟨_, exec_sramCorrectedErrorRate hrails hp n, s.correctErrors_sum p n, fun h => ?_, fun h => ?_, fun k hk => ?_⟩
      · rw [State.correctErrors_of_passed h]
        exact State.log_last _ (by decide) ..
      · rw [State.correctErrors_of_not_passed h]
        rfl
      · rw [State.correctErrors_panel, State.errorsCounted_panel, if_neg hk]
    · refine ⟨_, exec_reservoirPatrolScrub hrails hp bad n, ?_⟩
      rw [State.correctErrors_frame]
      exact ⟨(State.poisonReservoirs_poison 0 bad p s).2, fun l => (State.poisonReservoirs_poison l bad p s).1⟩
    · exact exec_moduleAreaPatrol hdie hm [] []
    · rw [exec_moduleAreaPatrol hdie hm]
      simp [hlive, hgood]
    · have harea : inArea (65536 * die + 65456 + r) = true := by
        simp only [inArea, decide_eq_true_eq]
        omega
      obtain ⟨hfailed, hlost⟩ := s.groupLost_of_area harea hgroup hlevel
      refine ⟨s.groupLost (65536 * die + 65456 + r) group level, ?_, hfailed.mstate, hfailed.fcode, hlost⟩
      rw [exec_moduleAreaPatrol hdie (by omega)]
      simp [hlive]
    · have hfew' : ((s.burstFailed g l w).recentBursts c).length < 15 := by rwa [State.burstFailed_recentBursts]
      refine ⟨(s.burstFailed g l w).burstCounted c, ?_, s.burstFailed_lineBad hl hlive w, ?_, ?_⟩
      · rw [exec_gddr7RetriesExhausted hrails hc hg hl hdie hunit, State.countRetries_of_few hfew']
      · rw [State.burstCounted, State.setChannel_channel, if_pos rfl, s.burstFailed_frame]
        exact List.getLast?_concat
      · rw [State.burstCounted, State.setChannel_mstate, s.burstFailed_frame]
    · have hfull' : ((s.burstFailed g l w).recentBursts c).length = 15 := by rwa [State.burstFailed_recentBursts]
      have hfailed := ((s.burstFailed g l w).burstCounted c).faultModule_failed 0x0820 [c]
      refine ⟨((s.burstFailed g l w).burstCounted c).faultModule 0x0820 [c], ?_, hfailed.mstate, hfailed.fcode, hfailed.faultN, fun hlive hnone => ?_⟩
      · rw [exec_gddr7RetriesExhausted hrails hc hg hl hdie hunit, State.countRetries_of_full hfull']
      · refine (State.faultModule_harms ..).bad ?_ g l hl (s.burstFailed_lineBad hl hlive w)
        rw [State.burstCounted, State.setChannel_scatters, s.burstFailed_frame]
        exact hnone
  · have hexec := exec_regionRekey hg hkeyed hretired hdue htag lines
    dsimp only
    refine ⟨fun hlast => ?_, fun hlast hdest => ?_, fun hlast hdest => ?_⟩
    · refine ⟨_, hexec.trans (congrArg _ (State.rekeyLines_last (by simpa [RootRecord.last] using hlast) lines)), ?_, rfl, State.log_last _ (by decide) ..⟩
      rw [State.noteOf, State.log_root, State.setRoot_root, if_pos rfl]
    · have hnot : (s.root g).last = false := by simpa [RootRecord.last] using hlast
      have hroot := s.passLines_root g ((s.root g).reached + lines)
      refine ⟨_, hexec.trans (congrArg _ (State.rekeyLines_within hnot hdest)), by rw [hroot], by rw [hroot]; rfl, by rw [hroot], fun l _ => ?_,
        fun hnodup k c hk hc => ?_, s.passLines_rekeysOnly g _⟩
      · rw [hroot, RootRecord.epochOf, RootRecord.below]
        simp only [Bool.true_and, decide_eq_true_eq]
        rfl
      · rw [State.passLines_counter hnodup hk, hc]
        rfl
    · have hnot : (s.root g).last = false := by simpa [RootRecord.last] using hlast
      obtain ⟨hrekey, hepoch, honly, hcounter⟩ := State.endRekey_passed hnot
      refine ⟨_, hexec.trans (congrArg _ (State.rekeyLines_ends hnot hdest)), hrekey, hepoch, fun hnodup k c hk hc => ?_, honly⟩
      rw [hcounter hnodup k hk, State.passLines_counter hnodup hk, hc]
      rfl

end Sys2Proof.Machine
end

section
/-!
PROOF. DMA up to a segment's issue (O49): how a command is cut into segments, what a packet's sender leaves, and what the issue of a segment
makes of its tag, its command and its peer's queue.
-/
namespace Sys2Proof.Machine

open Sys2Proof.Claims

/-! ### Segments of a command (R193, R333) -/

/-- The 4 KiB pieces that a run's source and destination lie in, counted together: each segment but the last ends one. -/
def segmentsDue (src dst n : Nat) : Nat := (src % 4096 + n + 4095) / 4096 + (dst % 4096 + n + 4095) / 4096

section
variable (cmd : Nat)

theorem cutSegments_sum : ∀ (fuel i src dst n : Nat), (n ≠ 0 → segmentsDue src dst n ≤ fuel) →
    ((cutSegments cmd fuel i src dst n).map (·.len)).sum = n
  | 0, _, src, dst, n, h => by
    have hn : n = 0 := by
      by_contra hn
      have := h hn
      rw [segmentsDue] at this
      omega
    rw [hn, cutSegments]
    rfl
  | fuel + 1, i, src, dst, n, h => by
    unfold cutSegments
    split
    · next hn => rw [hn]; rfl
    · next hn =>
      dsimp only
      have hdue := h hn
      rw [segmentsDue] at hdue
      rw [List.map_cons, List.sum_cons, cutSegments_sum fuel _ _ _ _ fun _ => by rw [segmentsDue]; omega]
      exact Nat.add_sub_of_le (Nat.min_le_left ..)

theorem cutSegments_within {g : Segment} : ∀ (fuel i src dst n : Nat), g ∈ cutSegments cmd fuel i src dst n →
    1 ≤ g.len ∧ g.src % 4096 + g.len ≤ 4096 ∧ g.dst % 4096 + g.len ≤ 4096
  | 0, _, _, _, _, h => by cases h
  | fuel + 1, i, src, dst, n, h => by
    unfold cutSegments at h
    split at h
    · cases h
    · next hn =>
      rw [List.mem_cons] at h
      rcases h with rfl | h
      · dsimp only
        omega
      · exact cutSegments_within fuel _ _ _ _ h

theorem cutSegments_head {g : Segment} {fuel i src dst n : Nat} (h : (cutSegments cmd fuel i src dst n)[0]? = some g) : g.src = src ∧ g.dst = dst := by
  rcases fuel with _ | fuel
  · cases h
  · unfold cutSegments at h
    split at h
    · cases h
    · cases h
      exact ⟨rfl, rfl⟩

theorem cutSegments_next {g h : Segment} : ∀ (k fuel i src dst n : Nat), (cutSegments cmd fuel i src dst n)[k]? = some g →
    (cutSegments cmd fuel i src dst n)[k + 1]? = some h → h.src = g.src + g.len ∧ h.dst = g.dst + g.len
  | _, 0, _, _, _, _, hg, _ => by cases hg
  | k, fuel + 1, i, src, dst, n, hg, hh => by
    unfold cutSegments at hg hh
    split at hg
    · cases hg
    · next hn =>
      rw [if_neg hn, List.getElem?_cons_succ] at hh
      rcases k with _ | k
      · cases hg
        exact cutSegments_head cmd hh
      · exact cutSegments_next k fuel _ _ _ _ hg hh
end

theorem segmentsDue_le (src dst n : Nat) : segmentsDue src dst n ≤ 2 * (n / 4096) + 4 := by
  rw [segmentsDue]
  omega

/-! ### Commands that start (R193, R313) -/

theorem onCommand_of_running {s : State} {n op : Nat} {c : Cmd} (h : Running s n op c) (f : Cmd → State) : onCommand s n op f = .next (f c) := by
  obtain ⟨hlisted, hready, hop, hstate⟩ := h
  rw [onCommand, hlisted]
  dsimp only
  rw [whenDue, if_pos (by simp [hready, hop, hstate])]

/-- The command in its port die's engine queue. -/
def State.dmaQueued (s : State) (n : Nat) (c : Cmd) : State :=
  { s.onCmd n fun x => { x with state := .working } with
    dmas := SMap.put s.dmas n (s.dmaOf n c), dmaTurn := if s.dmaTurned c then (s.dmaTurn + 1) % 4 else s.dmaTurn }

theorem exec_dmaCommand {s : State} {n : Nat} {c : Cmd} (h : Running s n 0x11 c) : exec (.dmaCommand n) s =
    .next (if s.realTime c.queue then s.onCmd n fun x => { x with state := .working } else s.dmaQueued n c) :=
  (onCommand_of_running h _).trans rfl

/-! ### Packets and their tags (R194, R272, R283) -/

theorem SMap.freeKey_free {α : Type} (m : SMap α) : ∀ fuel n : Nat, SMap.freeKey m fuel n < n + fuel → SMap.find? m (SMap.freeKey m fuel n) = none
  | 0, n, h => absurd h (Nat.lt_irrefl n)
  | fuel + 1, n, h => by
    unfold SMap.freeKey at h ⊢
    split
    · next hlisted =>
      rw [if_pos hlisted] at h
      exact SMap.freeKey_free m fuel (n + 1) (by omega)
    · next hfree => simpa using hfree

theorem State.freeTag_free {s : State} {a t : Nat} (h : s.freeTag a = some t) : SMap.find? s.tags t = none := by
  unfold State.freeTag at h
  split at h
  · obtain ⟨ht, hlt⟩ := Option.filter_eq_some_iff.mp h
    cases ht
    exact SMap.freeKey_free _ _ _ (by simpa using hlt)
  · cases h

theorem State.freeModuleTag_free {s : State} {t : Nat} (h : s.freeModuleTag = some t) : SMap.find? s.tags t = none := by
  obtain ⟨ht, hlt⟩ := Option.filter_eq_some_iff.mp h
  cases ht
  exact SMap.freeKey_free _ _ _ (by simpa using hlt)

theorem State.linkTag_free {s : State} {lease t : Nat} (h : s.linkTag lease = some t) : SMap.find? s.tags t = none := by
  unfold State.linkTag at h
  split at h
  · exact State.freeModuleTag_free h
  · obtain ⟨a, -, ha⟩ := Option.bind_eq_some_iff.mp h
    exact State.freeTag_free ha

/-- A packet's own tag takes no other's place. -/
theorem State.takeLinkTag_find {s : State} {k : Nat} {T : Tag} (h : SMap.find? s.tags k = some T) (lease : Nat) :
    SMap.find? (s.takeLinkTag lease).tags k = some T := by
  have hother {t : Nat} (ht : s.linkTag lease = some t) : k ≠ t := fun hk => by
    rw [hk, State.linkTag_free ht] at h
    cases h
  unfold State.takeLinkTag
  split
  · next t a ht _ => rw [State.takeTag_find, if_neg (hother ht), h]
  · next t ht _ => rw [State.takeModuleTag_find, if_neg (hother ht), h]
  · exact h

section
variable {s : State} {peer vc ptype lease : Nat} {info : List (Nat × Nat × Nat)} {payload : Bytes} {seg : Option (Nat × Nat)}

theorem State.sendPacket_tag {k : Nat} {T : Tag} (h : SMap.find? s.tags k = some T) :
    SMap.find? (s.sendPacket peer vc ptype lease info payload seg).tags k = some T := by
  unfold State.sendPacket
  split
  · exact h
  · exact State.takeLinkTag_find h lease

/-- The packet that waits at a port of the route (R267, R272). -/
def State.waiting (s : State) (peer vc ptype lease : Nat) (info : List (Nat × Nat × Nat)) (payload : Bytes) (seg : Option (Nat × Nat)) : Waiting :=
  let body := padTo (roundUp payload.length 64) payload
  ⟨⟨packetHeader vc ptype (body.length / 64) s.gidx peer lease 0 0 info, body⟩, peer, lease, s.linkTag lease, seg⟩

/-- A packet is queued last on its channel at the port that leads to its peer. -/
theorem State.sendPacket_queued {r : Nat} (hr : s.route peer = some r) (hc : s.carries r vc = true) :
    (SMap.get [] ((s.sendPacket peer vc ptype lease info payload seg).port r).queues vc).getLast? = some (s.waiting peer vc ptype lease info payload seg) := by
  have hfound : (s.route peer).filter (fun p => s.carries p vc) = some r := by rw [hr, Option.filter_some, if_pos hc]
  unfold State.sendPacket
  rw [hfound]
  dsimp only
  rw [State.setPort_port, if_pos rfl]
  dsimp only
  rw [SMap.get_set, if_pos rfl]
  exact List.getLast?_concat
end

/-- Every port carries VC0 and VC2 (R261, R279). -/
theorem State.carries_even (s : State) (p : Nat) {vc : Nat} (h : vc % 2 = 0) : s.carries p vc = true := by
  have hvc : vc ≠ 1 := fun h1 => by
    rw [h1] at h
    cases h
  simp [State.carries, h, hvc]

/-! ### Results of bulk writes (R269, R388) -/

theorem State.settleReply_only (s : State) (n : Nat) : (s.settleReply n).tags = s.tags ∧ (s.settleReply n).tagWaits = s.tagWaits := by
  unfold State.settleReply
  split
  · split
    · split
      · rw [(State.finish_endsOnly { s with dmas := SMap.del s.dmas n } ..).frame]
        exact ⟨rfl, rfl⟩
      · exact ⟨rfl, rfl⟩
    · exact ⟨rfl, rfl⟩
  · exact ⟨rfl, rfl⟩

theorem State.answerSegment_only (s : State) (seg : Option (Nat × Nat)) (result : Nat) :
    (s.answerSegment seg result).tags = s.tags ∧ (s.answerSegment seg result).tagWaits = s.tagWaits := by
  rcases seg with _ | ⟨cmd, i⟩
  · exact ⟨rfl, rfl⟩
  · exact State.settleReply_only { s with dmas := SMap.adjust s.dmas cmd fun d => { d with peer := SMap.put d.peer i result } } cmd

/-- A result for a command that is no query's reply is noted, no more. -/
theorem State.answerSegment_of_no_reply {s : State} {n : Nat} {d : DmaRun} (hd : SMap.find? s.dmas n = some d) (hreply : d.reply = none) (i result : Nat) :
    s.answerSegment (some (n, i)) result = s.onDma n fun d => { d with peer := SMap.put d.peer i result } := by
  have hnoted : SMap.find? (s.onDma n fun d => { d with peer := SMap.put d.peer i result }).dmas n = some { d with peer := SMap.put d.peer i result } := by
    rw [State.onDma, SMap.find?_adjust, if_pos rfl, hd]
    rfl
  rw [show s.answerSegment (some (n, i)) result = (s.onDma n fun d => { d with peer := SMap.put d.peer i result }).settleReply n from rfl,
    State.settleReply, hnoted]
  dsimp only
  rw [hreply]

/-! ### The issue of a segment (R193 to R196, R268, R301) -/

theorem State.onDma_find (s : State) (n : Nat) (f : DmaRun → DmaRun) (k : Nat) :
    SMap.find? (s.onDma n f).dmas k = if k = n then (SMap.find? s.dmas k).map f else SMap.find? s.dmas k := SMap.find?_adjust n f k s.dmas

/-- A segment under way with its tag. -/
def State.segmentOut (s : State) (d : DmaRun) (g : Segment) (tag engine : Nat) : State :=
  (s.takeTag d.atelier tag engine).onDma d.cmd fun x => { x with out := x.out ++ [g] }

/-- A segment as its source in device memory gives it (R195, R196). -/
def State.readSegment (s : State) (d : DmaRun) (g : Segment) (tag : Nat) : Segment :=
  let pieces := (spans (g.len / 64 + 2) g.src g.len).map fun p => (p.1 - g.src, p.2, s.fetchPiece d.ctx p.1 p.2)
  { g with tag := some tag, data := pieces.flatMap fun p => p.2.2.bytes, bad := (pieces.filter fun p => !p.2.2.bad.isEmpty).map fun p => (p.1, p.2.1) }

/-- The first unreadable byte of a segment reported. -/
def State.noteSegment (s : State) (n : Nat) (g : Segment) : State := match g.bad.head? with
  | some b => s.noteLine n ((g.src + b.1) / 64 * 64)
  | none => s

/-- A segment's bytes sent on, where its command's destination is a peer's. -/
def State.sendOn (s : State) (d : DmaRun) (g : Segment) : State := match d.toPeer with
  | some p => s.sendBulk d g p
  | none => s

section
variable {s : State} {d : DmaRun} {g : Segment} {tag engine : Nat} {host : Option Bytes}

theorem State.issueSegment_of_host (hfrom : d.fromHost = true) (bs : Bytes) : s.issueSegment d g tag engine (some bs) =
    let g1 : Segment := { g with tag := some tag, data := padTo g.len bs }
    ((s.segmentOut d g1 tag engine).reachHost ((s.takeTag d.atelier tag engine).ctxTag d.ctx) g.src g.len).sendOn d g1 := by
  rw [State.issueSegment, if_pos hfrom]
  rfl

theorem State.issueSegment_of_device (hfrom : d.fromHost = false) : s.issueSegment d g tag engine host =
    ((s.segmentOut d (s.readSegment d g tag) tag engine).noteSegment d.cmd (s.readSegment d g tag)).sendOn d (s.readSegment d g tag) := by
  unfold State.issueSegment
  rw [if_neg (by rw [hfrom]; exact Bool.false_ne_true)]
  rfl

theorem State.issueSegment_of_refused (hfrom : d.fromHost = true) : s.issueSegment d g tag engine none =
    ((s.takeTag d.atelier tag engine).onDma d.cmd fun x =>
      { x with error := true, out := x.out ++ [{ g with tag := some tag, bad := [(0, g.len)] }] }).giveUp d.cmd 0x0E := by
  rw [State.issueSegment, if_pos hfrom]

/-- A segment none of whose source is bad is its bytes (R195). -/
theorem State.readSegment_of_good (h : (s.fetch d.ctx g.src g.len).bad = []) :
    s.readSegment d g tag = { g with tag := some tag, data := (s.fetch d.ctx g.src g.len).bytes, bad := [] } := by
  have hgood : ∀ p ∈ spans (g.len / 64 + 2) g.src g.len, (s.fetchPiece d.ctx p.1 p.2).bad = [] := fun p hp =>
    List.flatMap_eq_nil_iff.mp h _ (List.mem_map_of_mem hp)
  have hbad : (((spans (g.len / 64 + 2) g.src g.len).map fun p => (p.1 - g.src, p.2, s.fetchPiece d.ctx p.1 p.2)).filter
      fun p => !p.2.2.bad.isEmpty) = [] := by
    rw [List.filter_eq_nil_iff]
    intro x hx
    obtain ⟨p, hp, rfl⟩ := List.mem_map.mp hx
    simp [hgood p hp]
  unfold State.readSegment
  dsimp only
  rw [hbad, List.flatMap_map]
  simp [State.fetch, List.flatMap_map]

/-- Between the two states a segment has been read: tags, DMA commands, translations and the blotter alone differ. -/
def ReadsOnly (s t : State) : Prop := t = { s with dmas := t.dmas, tags := t.tags, translations := t.translations, blotter := t.blotter }

theorem ReadsOnly.trans {s t u : State} (h : ReadsOnly s t) (k : ReadsOnly t u) : ReadsOnly s u := Eq.trans k (by rw [h])

theorem State.segmentOut_readsOnly (s : State) (d : DmaRun) (g : Segment) (tag engine : Nat) : ReadsOnly s (s.segmentOut d g tag engine) := rfl

theorem State.noteSegment_readsOnly (s : State) (n : Nat) (g : Segment) : ReadsOnly s (s.noteSegment n g) ∧ (s.noteSegment n g).tags = s.tags := by
  unfold State.noteSegment
  split
  · unfold State.noteLine
    split
    · exact ⟨rfl, rfl⟩
    · dsimp only
      split <;> exact ⟨rfl, rfl⟩
  · exact ⟨rfl, rfl⟩

theorem State.reachHost_readsOnly (s : State) (x : Nat × Option Nat) (addr n : Nat) :
    ReadsOnly s (s.reachHost x addr n) ∧ (s.reachHost x addr n).tags = s.tags ∧ (s.reachHost x addr n).dmas = s.dmas := by
  rw [s.reachHost_frame]
  exact ⟨rfl, rfl, rfl⟩

/-- A segment whose source is given is out under its tag, and is sent on where its destination is a peer's. -/
theorem State.issueSegment_sends (s : State) (d : DmaRun) (g : Segment) (tag engine : Nat) (h : d.fromHost = false ∨ host.isSome = true) :
    ∃ v g1, s.issueSegment d g tag engine host = v.sendOn d g1 ∧ g1.index = g.index ∧ ReadsOnly s v ∧ v.tags = (s.takeTag d.atelier tag engine).tags := by
  rcases hfrom : d.fromHost
  · obtain ⟨honly, htags⟩ := (s.segmentOut d (s.readSegment d g tag) tag engine).noteSegment_readsOnly d.cmd (s.readSegment d g tag)
    exact ⟨_, _, State.issueSegment_of_device hfrom, rfl, (s.segmentOut_readsOnly ..).trans honly, htags⟩
  · obtain ⟨bs, rfl⟩ := Option.isSome_iff_exists.mp (h.resolve_left (by rw [hfrom]; decide))
    obtain ⟨honly, htags, -⟩ := (s.segmentOut d { g with tag := some tag, data := padTo g.len bs } tag engine).reachHost_readsOnly
      ((s.takeTag d.atelier tag engine).ctxTag d.ctx) g.src g.len
    exact ⟨_, _, State.issueSegment_of_host hfrom bs, rfl, (s.segmentOut_readsOnly ..).trans honly, htags⟩

theorem State.sendOn_tag {k : Nat} {T : Tag} (h : SMap.find? s.tags k = some T) : SMap.find? (s.sendOn d g).tags k = some T := by
  unfold State.sendOn State.sendBulk
  split
  · split
    · rw [(s.answerSegment_only ..).1]
      exact h
    · exact State.sendPacket_tag h
  · exact h

theorem State.sendOn_tagWaits (s : State) (d : DmaRun) (g : Segment) : (s.sendOn d g).tagWaits = s.tagWaits := by
  unfold State.sendOn State.sendBulk
  split
  · split
    · exact (s.answerSegment_only ..).2
    · rw [show s.sendPacket _ _ _ _ _ _ _ = _ from s.sendPacket_sendsOnly ..]
  · rfl

/-- The issued segment holds its tag under its lease's serial (R194). -/
theorem State.issueSegment_tag (s : State) (d : DmaRun) (g : Segment) (tag engine : Nat) (host : Option Bytes) :
    SMap.find? (s.issueSegment d g tag engine host).tags tag = some ⟨some d.atelier, (s.lease d.atelier).serial, engine⟩ := by
  have htaken : SMap.find? (s.takeTag d.atelier tag engine).tags tag = some ⟨some d.atelier, (s.lease d.atelier).serial, engine⟩ := by
    rw [State.takeTag_find, if_pos rfl]
  by_cases h : d.fromHost = false ∨ host.isSome = true
  · obtain ⟨v, g1, heq, -, -, htags⟩ := State.issueSegment_sends s d g tag engine h
    rw [heq]
    refine State.sendOn_tag ?_
    rw [htags, htaken]
  · have hfrom : d.fromHost = true := by simpa using fun hf => h (.inl hf)
    obtain rfl : host = none := by simpa using fun hh => h (.inr hh)
    rw [State.issueSegment_of_refused hfrom]
    exact htaken

/-- The result of a segment whose peer no port leads to (R269, notes/assumptions/31.md). -/
def DmaRun.told (d : DmaRun) (s : State) (g : Segment) (x : DmaRun) : DmaRun :=
  if (d.toPeer.any fun p => (s.route p).isNone) = true then { x with peer := SMap.put d.peer g.index 0x05 } else x

/-- What sending on makes of its command: nothing, or the result that no port leads to the peer. -/
theorem State.sendOn_find {y : DmaRun} (hy : SMap.find? s.dmas d.cmd = some y) (hreply : y.reply = none) (hpeer : y.peer = d.peer) :
    SMap.find? (s.sendOn d g).dmas d.cmd = some (d.told s g y) := by
  unfold State.sendOn DmaRun.told
  rcases hto : d.toPeer with _ | p
  · exact hy
  · dsimp only [Option.any_some]
    unfold State.sendBulk
    split
    · rw [State.answerSegment_of_no_reply hy hreply, State.onDma_find, if_pos rfl, hy, ← hpeer]
      rfl
    · rw [show s.sendPacket _ _ _ _ _ _ _ = _ from s.sendPacket_sendsOnly ..]
      exact hy

/-- A segment sent on waits last in its peer's queue of VC2 (R268). -/
theorem State.sendOn_queued {p r : Nat} (hto : d.toPeer = some p) (hr : s.route p = some r) :
    ∃ w, (SMap.get [] ((s.sendOn d g).port r).queues 2).getLast? = some w ∧ w.dst = p ∧ w.seg = some (d.cmd, g.index) ∧ w.lease = s.lnum d.atelier := by
  unfold State.sendOn State.sendBulk
  rw [hto]
  dsimp only
  rw [hr, if_neg (by simp)]
  exact ⟨_, State.sendPacket_queued hr (s.carries_even r (by decide)), rfl, rfl, rfl⟩
end

/-! ### The command of an issued segment -/

section
variable {s : State} {d : DmaRun} {g : Segment} {tag engine : Nat} {host : Option Bytes}

theorem ReadsOnly.route {t : State} (h : ReadsOnly s t) (p : Nat) : t.route p = s.route p := by
  rw [show t = _ from h]
  rfl

theorem State.segmentOut_find {y : DmaRun} (hy : SMap.find? s.dmas d.cmd = some y) (g1 : Segment) (tag engine : Nat) :
    SMap.find? (s.segmentOut d g1 tag engine).dmas d.cmd = some { y with out := y.out ++ [g1] } := by
  rw [State.segmentOut, State.onDma_find, if_pos rfl, State.takeTag_dmas, hy]
  rfl

/-- What the sending on of a segment makes of its command, said of the state its issue began in. -/
theorem ReadsOnly.sendOn_find {v : State} (h : ReadsOnly s v) {y : DmaRun} {g1 : Segment} (hy : SMap.find? v.dmas d.cmd = some y) (hreply : y.reply = none)
    (hpeer : y.peer = d.peer) (hindex : g1.index = g.index) : SMap.find? (v.sendOn d g1).dmas d.cmd = some (d.told s g y) := by
  rw [State.sendOn_find hy hreply hpeer, DmaRun.told, DmaRun.told, hindex]
  simp only [h.route]

theorem State.issueSegment_host_find (hfrom : d.fromHost = true) {y : DmaRun} (hy : SMap.find? s.dmas d.cmd = some y) (hreply : y.reply = none)
    (hpeer : y.peer = d.peer) (bs : Bytes) : SMap.find? (s.issueSegment d g tag engine (some bs)).dmas d.cmd =
      some (d.told s g { y with out := y.out ++ [{ g with tag := some tag, data := padTo g.len bs }] }) := by
  rw [State.issueSegment_of_host hfrom]
  dsimp only
  obtain ⟨honly, -, hdmas⟩ := (s.segmentOut d { g with tag := some tag, data := padTo g.len bs } tag engine).reachHost_readsOnly
    ((s.takeTag d.atelier tag engine).ctxTag d.ctx) g.src g.len
  refine ((s.segmentOut_readsOnly ..).trans honly).sendOn_find (y := { y with out := _ }) ?_ hreply hpeer rfl
  rw [hdmas, State.segmentOut_find hy]

theorem State.issueSegment_device_find (hfrom : d.fromHost = false) (hgood : (s.fetch d.ctx g.src g.len).bad = []) {y : DmaRun}
    (hy : SMap.find? s.dmas d.cmd = some y) (hreply : y.reply = none) (hpeer : y.peer = d.peer) :
    SMap.find? (s.issueSegment d g tag engine host).dmas d.cmd =
      some (d.told s g { y with out := y.out ++ [{ g with tag := some tag, data := (s.fetch d.ctx g.src g.len).bytes, bad := [] }] }) := by
  rw [State.issueSegment_of_device hfrom, State.readSegment_of_good hgood]
  exact (s.segmentOut_readsOnly ..).sendOn_find (y := { y with out := _ }) (State.segmentOut_find hy ..) hreply hpeer rfl

/-- A command whose read the host refuses is given up (R301, R320). -/
theorem State.issueSegment_refused_find (hfrom : d.fromHost = true) {y : DmaRun} (hy : SMap.find? s.dmas d.cmd = some y) :
    ∃ z, SMap.find? (s.issueSegment d g tag engine none).dmas d.cmd = some z ∧ z.error = true ∧ z.todo = [] ∧ (y.status = 0 → z.status = 0x0E) := by
  rw [State.issueSegment_of_refused hfrom, State.giveUp]
  dsimp only
  rw [State.onDma_find, if_pos rfl, State.onDma_find, if_pos rfl, State.takeTag_dmas, hy]
  exact ⟨_, rfl, rfl, rfl, fun h => if_pos h⟩

theorem State.issueSegment_queued {p r : Nat} (h : d.fromHost = false ∨ host.isSome = true) (hto : d.toPeer = some p) (hr : s.route p = some r) :
    ∃ w, (SMap.get [] ((s.issueSegment d g tag engine host).port r).queues 2).getLast? = some w ∧ w.dst = p ∧ w.seg = some (d.cmd, g.index) ∧
      w.lease = s.lnum d.atelier := by
  obtain ⟨v, g1, heq, hindex, honly, -⟩ := s.issueSegment_sends d g tag engine h
  obtain ⟨w, hw, hdst, hseg, hlease⟩ := State.sendOn_queued (s := v) (g := g1) hto ((honly.route p).trans hr)
  rw [heq]
  refine ⟨w, hw, hdst, by rw [hseg, hindex], ?_⟩
  rw [hlease, show v = _ from honly]
  rfl

theorem State.issueSegment_tagWaits (s : State) (d : DmaRun) (g : Segment) (tag engine : Nat) (h : d.fromHost = false ∨ host.isSome = true) :
    (s.issueSegment d g tag engine host).tagWaits = s.tagWaits := by
  obtain ⟨v, g1, heq, -, honly, -⟩ := s.issueSegment_sends d g tag engine h
  rw [heq, State.sendOn_tagWaits, show v = _ from honly]

theorem State.issueSegment_local_eq (hfrom : d.fromHost = true) (hto : d.toPeer = none) (bs : Bytes) : s.issueSegment d g tag engine (some bs) =
    (s.segmentOut d { g with tag := some tag, data := padTo g.len bs } tag engine).reachHost ((s.takeTag d.atelier tag engine).ctxTag d.ctx) g.src g.len := by
  rw [State.issueSegment_of_host hfrom]
  dsimp only
  rw [State.sendOn, hto]

/-- A segment between the host and this device: what its issue changes. -/
theorem State.issueSegment_of_local (hfrom : d.fromHost = true) (hto : d.toPeer = none) (bs : Bytes) :
    let t := s.issueSegment d g tag engine (some bs)
    t = { s with dmas := t.dmas, tags := t.tags, translations := t.translations } := by
  rw [State.issueSegment_local_eq hfrom hto, State.reachHost_frame]
  rfl

theorem State.issueSegment_local_find (hfrom : d.fromHost = true) (hto : d.toPeer = none) {y : DmaRun} (hy : SMap.find? s.dmas d.cmd = some y) (bs : Bytes) :
    SMap.find? (s.issueSegment d g tag engine (some bs)).dmas d.cmd =
      some { y with out := y.out ++ [{ g with tag := some tag, data := padTo g.len bs }] } := by
  rw [State.issueSegment_local_eq hfrom hto, State.reachHost_frame]
  exact State.segmentOut_find hy ..
end

/-! ### The segments of a port die, and those that waited (R193, R195, R336, R366) -/

/-- A start that is not withheld: without the curb, nothing more than itself. -/
theorem State.halfRate_issued {s : State} {u : Nat} (h : (s.power.curb && s.flacon.waits.has u) = false) (t : State) :
    ∃ fl, s.halfRate u t = { t with flacon := fl } ∧ (s.power.curb = false → fl = t.flacon) := by
  rcases hcurb : s.power.curb
  · exact ⟨t.flacon, if_pos (by rw [hcurb]; rfl), fun _ => rfl⟩
  · obtain ⟨fl, hfl⟩ := State.halfRate_starts h t
    exact ⟨fl, hfl, fun hoff => by cases hoff⟩

section
variable {s : State} {die : Nat} {d : DmaRun} {e : Nat} {g : Segment} {rest : List Segment}

theorem exec_dmaSegmentIssue (hdie : die < 4) (hm : s.mstate = 2) (hd : s.nextDma die = some d) (he : s.freeEngine die = some e) (host : Option Bytes) :
    exec (.dmaSegmentIssue die host) s = .next (s.halfRate e (s.takeSegment die d e host)) := by
  rw [show exec (.dmaSegmentIssue die host) s = execDmaSegmentIssue die host s from rfl, execDmaSegmentIssue, onUnit_of_lt hdie, hd, he]
  exact whenDue_of_due (by rw [hm]; rfl) ..

/-- The port die's turn taken: the segment is the command's no more. -/
def State.segmentTaken (s : State) (die : Nat) (d : DmaRun) (rest : List Segment) : State :=
  { s.onDma d.cmd fun x => { x with todo := rest } with dmaLast := SMap.put s.dmaLast die d.cmd }

theorem State.segmentTaken_find (hd : SMap.find? s.dmas d.cmd = some d) :
    SMap.find? (s.segmentTaken die d rest).dmas d.cmd = some { d with todo := rest } := by
  rw [State.segmentTaken, State.onDma_find, if_pos rfl, hd]
  rfl

theorem State.segmentTaken_fetch (ctx va n : Nat) : (s.segmentTaken die d rest).fetch ctx va n = s.fetch ctx va n := rfl
theorem DmaRun.told_taken (x : DmaRun) : d.told (s.segmentTaken die d rest) g x = d.told s g x := rfl

theorem State.takeSegment_waits (htodo : d.todo = g :: rest)
    (h : s.freeTag d.atelier = none ∨ ∃ w ∈ s.tagWaits, ∃ y, SMap.find? s.dmas w.cmd = some y ∧ y.atelier = d.atelier) (host : Option Bytes) :
    s.takeSegment die d e host = { s.segmentTaken die d rest with tagWaits := s.tagWaits ++ [g] } := by
  have hnone : (if s.tagWaits.any (fun w => (SMap.find? s.dmas w.cmd).any fun x => x.atelier = d.atelier) then none else s.freeTag d.atelier) = none := by
    split
    · rfl
    · next hno =>
      refine h.resolve_right fun ⟨w, hw, y, hy, ha⟩ => hno ?_
      exact List.any_eq_true.mpr ⟨w, hw, by simp [hy, ha]⟩
  unfold State.takeSegment
  rw [htodo]
  dsimp only
  rw [hnone]
  rfl

theorem State.takeSegment_issues {tg : Nat} (htodo : d.todo = g :: rest) (htag : s.freeTag d.atelier = some tg)
    (hnone : ∀ w ∈ s.tagWaits, ∀ y, SMap.find? s.dmas w.cmd = some y → y.atelier ≠ d.atelier) (host : Option Bytes) :
    s.takeSegment die d e host = (s.segmentTaken die d rest).issueSegment d g tg e host := by
  have hfirst : s.tagWaits.any (fun w => (SMap.find? s.dmas w.cmd).any fun x => x.atelier = d.atelier) = false := by
    rw [List.any_eq_false]
    intro w hw
    rcases hy : SMap.find? s.dmas w.cmd with _ | y
    · simp
    · simpa using hnone w hw y hy
  unfold State.takeSegment
  rw [htodo]
  dsimp only
  rw [hfirst, if_neg Bool.false_ne_true, htag]
  rfl

/-- A segment that waits for a tag no longer (R195). -/
def State.waitOver (s : State) (g : Segment) : State := { s with tagWaits := s.tagWaits.erase g }

theorem exec_transferTagGrant {a tg : Nat} (hw : s.firstWait a = some (g, d)) (htag : s.freeTag a = some tg) (he : s.freeEngine d.die = some e)
    (host : Option Bytes) : exec (.transferTagGrant a host) s =
      .next (s.halfRate e ((s.waitOver g).issueSegment d g tg e host)) := by
  rw [show exec (.transferTagGrant a host) s = execTransferTagGrant a host s from rfl, execTransferTagGrant, hw, htag]
  dsimp only
  rw [he]
  rfl
end

/-! ### Packets that arrive: bulk writes and their responses (R268, R269) -/

theorem exec_packetRow {s : State} {port ptype : Nat} {p : Packet} (hport : port < 20)
    (hp : (s.port port).packets.find? (fun p => decide (p.ptype = ptype)) = some p) (f : State → Packet → State) :
    packetRow port ptype s (fun _ => true) f = .next (f (s.takePacket port p) p) := by
  rw [packetRow, onUnit_of_lt hport]
  simp only [Bool.and_true, hp]

/-- Taking a packet up leaves every port's link as it is. -/
theorem State.takePacket_route (s : State) (port : Nat) (p : Packet) (peer : Nat) : (s.takePacket port p).route peer = s.route peer := by
  have hstate (q : Nat) : ((s.takePacket port p).port q).state = (s.port q).state := by
    rw [State.takePacket, State.setPort_port]
    split
    · next h => rw [h]
    · rfl
  have hrail (pd : Nat) : (s.takePacket port p).railPort pd = s.railPort pd := by
    simp only [State.railPort, hstate]
  simp only [State.route, hrail]
  rfl

section
variable {s : State} {p : Packet}

/-- The object a bulk write names, where it may be written in the atelier of the packet's lease (R269). -/
theorem State.bulkResult_of_absent (h : SMap.find? s.mobjs (p.info 0 20) = none) : s.bulkResult p = 0x01 := by
  rw [State.bulkResult, h]

theorem State.bulkResult_of_closed {m : MObj} (h : SMap.find? s.mobjs (p.info 0 20) = some m) (hm : m.condemned = true ∨ m.peerWr = false) :
    s.bulkResult p = 0x01 := by
  rw [State.bulkResult, h]
  exact if_pos (by rcases hm with h | h <;> simp [h])

theorem State.bulkResult_of_stranger {m : MObj} (h : SMap.find? s.mobjs (p.info 0 20) = some m) (hc : m.condemned = false) (hw : m.peerWr = true)
    (hnone : s.atelierOfLnum p.lease = none) : s.bulkResult p = 0x02 := by
  rw [State.bulkResult, h]
  dsimp only
  rw [if_neg (by simp [hc, hw]), if_pos (by simp [hnone])]

theorem State.bulkResult_of_outside {m : MObj} {a : Nat} (h : SMap.find? s.mobjs (p.info 0 20) = some m) (hc : m.condemned = false)
    (hw : m.peerWr = true) (ha : s.atelierOfLnum p.lease = some a) (hctx : (SMap.find? s.contexts m.ctx).map (·.atelier) = some a)
    (hsize : m.size < p.info 64 48 + p.payload.length) : s.bulkResult p = 0x03 := by
  rw [State.bulkResult, h]
  dsimp only
  rw [if_neg (by simp [hc, hw]), if_neg (by simp [ha, hctx]), if_pos hsize]

/-- A bulk write that is answered 0x00 has met no poisoned line (R269). -/
theorem State.gddrBad_of_bulkResult {m : MObj} (h : SMap.find? s.mobjs (p.info 0 20) = some m) (hr : s.bulkResult p = 0x00) :
    (s.store m.ctx (m.va + p.info 64 48) p.payload).gddrBad = [] := by
  rw [State.bulkResult, h] at hr
  dsimp only at hr
  obtain ⟨-, hr⟩ := of_ite_eq_zero (by decide) hr
  obtain ⟨-, hr⟩ := of_ite_eq_zero (by decide) hr
  obtain ⟨-, hr⟩ := of_ite_eq_zero (by decide) hr
  obtain ⟨hgood, -⟩ := of_ite_eq_zero (by decide) hr
  simp only [Bool.or_eq_true, not_or] at hgood
  simpa using hgood.1.2

/-- What a bulk write has done when it is answered: its bytes stored, the regions that it would have retired retired, or nothing; then the
entry of one that is refused. -/
def State.bulkDone (s : State) (p : Packet) : State :=
  let r := s.bulkResult p
  let s1 := match SMap.find? s.mobjs (p.info 0 20) with
    | some m => if r = 0 then (s.store m.ctx (m.va + p.info 64 48) p.payload).settle
      else if r = 4 && !m.ro then s.retireRun m.ctx (m.va + p.info 64 48) p.payload.length else s
    | none => s
  if r = 0 then s1 else s1.noteOf (s.atelierOfLnum p.lease) 0x0102 [p.src, p.info 0 20]

/-- The fields of a bulk write's response (R269). -/
def responseInfo (p : Packet) (r : Nat) : List (Nat × Nat × Nat) := [(0, 32, p.info 112 32), (32, 16, p.lease), (48, 48, p.info 64 48), (96, 8, r)]

theorem State.hearBulk_eq (s : State) (p : Packet) : s.hearBulk p =
    (s.bulkDone p).sendPacket p.src 0 0x8 0 (responseInfo p (s.bulkResult p)) [] none := rfl

theorem State.bulkDone_of_written {m : MObj} (h : SMap.find? s.mobjs (p.info 0 20) = some m) (hr : s.bulkResult p = 0x00) :
    s.bulkDone p = (s.store m.ctx (m.va + p.info 64 48) p.payload).state := by
  unfold State.bulkDone
  rw [h]
  dsimp only
  rw [if_pos hr, if_pos hr, Store.settle_of_good (State.gddrBad_of_bulkResult h hr)]

theorem State.endRekey_data (s : State) (g : Nat) : (s.endRekey g).gddr = s.gddr ∧ (s.endRekey g).reservoir = s.reservoir ∧ (s.endRekey g).poison = s.poison := by
  unfold State.endRekey
  dsimp only
  split <;> exact ⟨rfl, rfl, rfl⟩

/-- The retirement of regions changes no byte of the memories. -/
theorem State.retireRun_data (s : State) (ctx va n : Nat) :
    (s.retireRun ctx va n).gddr = s.gddr ∧ (s.retireRun ctx va n).reservoir = s.reservoir ∧ (s.retireRun ctx va n).poison = s.poison := by
  have htrans {s t u : State} (h : t.gddr = s.gddr ∧ t.reservoir = s.reservoir ∧ t.poison = s.poison)
      (k : u.gddr = t.gddr ∧ u.reservoir = t.reservoir ∧ u.poison = t.poison) : u.gddr = s.gddr ∧ u.reservoir = s.reservoir ∧ u.poison = s.poison :=
    ⟨k.1.trans h.1, k.2.1.trans h.2.1, k.2.2.trans h.2.2⟩
  refine foldl_related (R := fun s t : State => t.gddr = s.gddr ∧ t.reservoir = s.reservoir ∧ t.poison = s.poison) (fun _ => ⟨rfl, rfl, rfl⟩) htrans
    (fun t x => foldl_related (R := fun s t : State => t.gddr = s.gddr ∧ t.reservoir = s.reservoir ∧ t.poison = s.poison) (fun _ => ⟨rfl, rfl, rfl⟩) htrans
      (fun u p => ?_) _ t) _ s
  unfold State.retireAt
  split
  · exact u.endRekey_data _
  · exact ⟨rfl, rfl, rfl⟩

/-- A bulk write that is refused changes no byte of the memories (R269). -/
theorem State.bulkDone_of_refused (hr : s.bulkResult p ≠ 0x00) :
    (s.bulkDone p).gddr = s.gddr ∧ (s.bulkDone p).reservoir = s.reservoir ∧ (s.bulkDone p).poison = s.poison := by
  unfold State.bulkDone
  dsimp only
  rw [if_neg hr]
  split
  · rw [if_neg hr]
    split
    · exact s.retireRun_data ..
    · exact ⟨rfl, rfl, rfl⟩
  · exact ⟨rfl, rfl, rfl⟩

/-- What a bulk write does stays within the memories, their protection and the blotter. -/
theorem State.bulkDone_storesOnly (s : State) (p : Packet) : StoresOnly s (s.bulkDone p) := by
  by_cases hr : s.bulkResult p = 0x00
  · rcases hm : SMap.find? s.mobjs (p.info 0 20) with _ | m
    · rw [State.bulkResult_of_absent hm] at hr
      cases hr
    · rw [State.bulkDone_of_written hm hr]
      exact s.store_storesOnly ..
  · unfold State.bulkDone
    dsimp only
    rw [if_neg hr]
    split
    · rw [if_neg hr]
      split
      · exact (s.retireRun_storesOnly ..).trans ⟨rfl, fun _ h => h⟩
      · exact ⟨rfl, fun _ h => h⟩
    · exact ⟨rfl, fun _ h => h⟩
end

end Sys2Proof.Machine
end

section
/-!
PROOF. The completion of a DMA segment (O49): what it frees, what a fault on its way leaves of its command, and when the command completes.
-/
namespace Sys2Proof.Machine

open Sys2Proof.Claims

/-! ### What the end of a drain leaves of the transfers (R431, R450, R452) -/

/-- Between the two states the tags and the DMA commands stand, and commands of the queues have at most ended. -/
structure TransfersStand (s t : State) : Prop where
  tags : t.tags = s.tags
  dmas : t.dmas = s.dmas
  gone : ∀ n, SMap.find? s.commands n = none → SMap.find? t.commands n = none

theorem TransfersStand.refl (s : State) : TransfersStand s s := ⟨rfl, rfl, fun _ h => h⟩
theorem TransfersStand.trans {s t u : State} (h : TransfersStand s t) (k : TransfersStand t u) : TransfersStand s u :=
  ⟨k.tags.trans h.tags, k.dmas.trans h.dmas, fun n hn => k.gone n (h.gone n hn)⟩
theorem TransfersStand.of_eq {s t : State} (htags : t.tags = s.tags) (hdmas : t.dmas = s.dmas) (hcommands : t.commands = s.commands) : TransfersStand s t :=
  ⟨htags, hdmas, fun n hn => by rw [hcommands, hn]⟩
theorem EndsOnly.transfersStand {s t : State} (h : EndsOnly s t) : TransfersStand s t := by
  refine ⟨?_, ?_, fun n => h.gone⟩
  · rw [h.frame]
  · rw [h.frame]

theorem State.onCores_transfersStand (s : State) (a : Nat) (f : Core → Core) : TransfersStand s (s.onCores a f) := by
  refine foldl_related TransfersStand.refl TransfersStand.trans (fun t n => ?_) _ s
  split
  · exact .of_eq rfl rfl rfl
  · exact .refl t

theorem State.clearMemory_transfersStand (s : State) (a : Nat) : TransfersStand s (s.clearMemory a) := by
  unfold State.clearMemory
  extract_lets region quad s1
  exact TransfersStand.trans (t := s1) (.of_eq rfl rfl rfl) (s1.onCores_transfersStand a _)

theorem State.closeLease_transfersStand (s : State) (a : Nat) : TransfersStand s (s.closeLease a) := by
  unfold State.closeLease
  split
  · have hcleared : TransfersStand s (((s.clearMemory a).destroyObjects a).setLease a Lease.none) :=
      (s.clearMemory_transfersStand a).trans (.of_eq rfl rfl rfl)
    dsimp only
    split
    · exact hcleared.trans (State.finish_endsOnly ..).transfersStand
    · exact hcleared
  · exact .refl s

theorem State.endReset_transfersStand (s : State) (a : Nat) : TransfersStand s (s.endReset a) := by
  unfold State.endReset
  split
  · exact .refl s
  · exact (s.onCores_transfersStand a _).trans (.of_eq rfl rfl rfl)

theorem State.settleDrain_transfersStand (s : State) (a : Nat) : TransfersStand s (s.settleDrain a) := by
  unfold State.settleDrain
  split
  · refine TransfersStand.trans (t := s.setAtelier a { s.atelier a with draining := none }) (.of_eq rfl rfl rfl) ?_
    exact (State.closeLease_transfersStand _ a).trans (State.endReset_transfersStand _ a)
  · exact .refl s

theorem State.settleDrain_of_not_draining {s : State} {a : Nat} (h : (s.atelier a).draining = none) : s.settleDrain a = s := by
  rw [State.settleDrain, h]
  rfl

/-- A tag that the atelier still holds keeps its drain waiting (R431 step 3). -/
theorem State.settleDrain_of_tag {s : State} {a k : Nat} {T : Tag} (hT : SMap.find? s.tags k = some T) (ha : T.atelier = some a) : s.settleDrain a = s := by
  have hpos : s.tagsOf a ≠ 0 := by
    have hmem : (k, T) ∈ s.tags.filter fun p => p.2.atelier = some a := List.mem_filter.mpr ⟨SMap.mem_of_find? hT, decide_eq_true ha⟩
    exact (List.length_pos_of_mem hmem).ne'
  rw [State.settleDrain, if_neg]
  simp [hpos]

/-! ### Held segments (R195, R418) -/

/-- Whether a held segment's tag is kept: the command is not given up, and the segment's bytes are not all opened. -/
def DmaRun.holds (d : DmaRun) (g : Segment) : Bool := !(d.status ≠ 0 || decide (g.src + g.len ≤ d.opened))

/-- Between the two states tags are freed and commands' held segments are let go. -/
def ReleasesOnly (s t : State) : Prop := t = { s with dmas := t.dmas, tags := t.tags }

theorem ReleasesOnly.trans {s t u : State} (h : ReleasesOnly s t) (k : ReleasesOnly t u) : ReleasesOnly s u := Eq.trans k (by rw [h])

section
variable {s : State} {n : Nat}

theorem State.dropTag?_releasesOnly (s : State) (x : Option Nat) : ReleasesOnly s (s.dropTag? x) ∧ (s.dropTag? x).dmas = s.dmas := by
  cases x <;> exact ⟨rfl, rfl⟩

theorem State.dropTags_releasesOnly (gs : List Segment) (s : State) :
    ReleasesOnly s (gs.foldl (fun s g => s.dropTag? g.tag) s) ∧ (gs.foldl (fun s g => s.dropTag? g.tag) s).dmas = s.dmas :=
  foldl_related (R := fun s t : State => ReleasesOnly s t ∧ t.dmas = s.dmas) (fun _ => ⟨rfl, rfl⟩) (fun h k => ⟨h.1.trans k.1, k.2.trans h.2⟩)
    (fun s g => s.dropTag?_releasesOnly g.tag) gs s

theorem State.dropTag?_free {tag : Nat} (h : SMap.find? s.tags tag = none) (x : Option Nat) : SMap.find? (s.dropTag? x).tags tag = none := by
  cases x with
  | none => exact h
  | some m =>
    rw [State.dropTag?, State.dropTag, SMap.find?_del]
    split
    · rfl
    · exact h

theorem State.dropTags_free {tag : Nat} (gs : List Segment) (s : State) (h : SMap.find? s.tags tag = none) :
    SMap.find? (gs.foldl (fun s g => s.dropTag? g.tag) s).tags tag = none :=
  foldl_related (R := fun s t : State => SMap.find? s.tags tag = none → SMap.find? t.tags tag = none) (fun _ => id) (fun h k => k ∘ h)
    (fun _ g hs => State.dropTag?_free hs g.tag) gs s h

theorem State.dropTag?_frees (s : State) {g : Segment} {tag : Nat} (hg : g.tag = some tag) : SMap.find? (s.dropTag? g.tag).tags tag = none := by
  rw [hg, State.dropTag?, State.dropTag, SMap.find?_del, if_pos rfl]

theorem State.dropTags_frees {g : Segment} {tag : Nat} (hg : g.tag = some tag) (gs : List Segment) (s : State) (h : g ∈ gs) :
    SMap.find? (gs.foldl (fun s g => s.dropTag? g.tag) s).tags tag = none := by
  induction gs generalizing s with
  | nil => cases h
  | cons x gs ih =>
    rw [List.foldl_cons]
    rcases List.mem_cons.mp h with hx | h
    · exact State.dropTags_free gs _ (hx ▸ s.dropTag?_frees hg)
    · exact ih _ h

theorem State.releaseKept_of_listed {d : DmaRun} (hd : SMap.find? s.dmas n = some d) : s.releaseKept n =
    (d.kept.filter fun g => !d.holds g).foldl (fun s g => s.dropTag? g.tag) (s.onDma n fun x => { x with kept := x.kept.filter d.holds }) := by
  unfold State.releaseKept
  rw [hd]
  dsimp only [DmaRun.holds]
  simp only [Bool.not_not]
  rfl

theorem State.releaseKept_releasesOnly (s : State) (n : Nat) : ReleasesOnly s (s.releaseKept n) := by
  rcases hd : SMap.find? s.dmas n with _ | d
  · unfold State.releaseKept
    rw [hd]
    rfl
  · rw [State.releaseKept_of_listed hd]
    exact ReleasesOnly.trans (t := s.onDma n fun x => { x with kept := x.kept.filter d.holds }) rfl (State.dropTags_releasesOnly ..).1

theorem State.releaseKept_free {tag : Nat} (h : SMap.find? s.tags tag = none) : SMap.find? (s.releaseKept n).tags tag = none := by
  rcases hd : SMap.find? s.dmas n with _ | d
  · unfold State.releaseKept
    rw [hd]
    exact h
  · rw [State.releaseKept_of_listed hd]
    exact State.dropTags_free _ _ h

theorem State.releaseKept_dmas {d : DmaRun} (hd : SMap.find? s.dmas n = some d) (k : Nat) : SMap.find? (s.releaseKept n).dmas k =
    if k = n then (SMap.find? s.dmas k).map fun x => { x with kept := x.kept.filter d.holds } else SMap.find? s.dmas k := by
  rw [State.releaseKept_of_listed hd, (State.dropTags_releasesOnly ..).2]
  exact s.onDma_find ..

theorem State.releaseKept_find {d : DmaRun} (hd : SMap.find? s.dmas n = some d) :
    SMap.find? (s.releaseKept n).dmas n = some { d with kept := d.kept.filter d.holds } := by
  rw [State.releaseKept_dmas hd, if_pos rfl, hd]
  rfl

/-- The tag of a held segment that ends is freed (R195). -/
theorem State.releaseKept_frees {d : DmaRun} {g : Segment} {tag : Nat} (hd : SMap.find? s.dmas n = some d) (hg : g ∈ d.kept) (htag : g.tag = some tag)
    (hends : d.holds g = false) : SMap.find? (s.releaseKept n).tags tag = none := by
  rw [State.releaseKept_of_listed hd]
  exact State.dropTags_frees htag _ _ (List.mem_filter.mpr ⟨hg, by rw [hends]; rfl⟩)

/-! ### The end of a command (R195, R196) -/

theorem State.settleDma_endsOnly (s : State) (n : Nat) : ∃ m, EndsOnly { s with dmas := m } (s.settleDma n) := by
  unfold State.settleDma
  split
  · exact ⟨s.dmas, .refl s⟩
  · dsimp only
    split
    · exact ⟨_, State.finish_endsOnly ..⟩
    · exact ⟨s.dmas, .refl s⟩

theorem State.settleDma_of_gone (h : SMap.find? s.dmas n = none) : s.settleDma n = s := by
  unfold State.settleDma
  rw [h]

theorem State.settleDma_of_todo {d : DmaRun} (hd : SMap.find? s.dmas n = some d) (htodo : d.todo ≠ []) : s.settleDma n = s := by
  unfold State.settleDma
  rw [hd]
  dsimp only
  rw [if_neg]
  simp [htodo]

theorem State.settleDma_completes {d : DmaRun} (hd : SMap.find? s.dmas n = some d) (htodo : d.todo = []) (hout : d.out = []) (hkept : d.kept = [])
    (hwaits : ∀ w ∈ s.tagWaits, w.cmd ≠ n) : SMap.find? (s.settleDma n).dmas n = none ∧ SMap.find? (s.settleDma n).commands n = none := by
  unfold State.settleDma
  rw [hd]
  dsimp only
  rw [if_pos]
  · refine ⟨?_, State.finish_commands ..⟩
    rw [(State.finish_endsOnly ..).frame]
    exact (SMap.find?_del ..).trans (if_pos rfl)
  · simp only [htodo, hout, hkept, List.isEmpty_nil, Bool.true_and, List.all_eq_true, decide_eq_true_eq]
    exact hwaits
end

/-! ### A command whose last segment lands (R195, R450) -/

/-- A DMA command of an atelier that has nothing left to issue, to receive or to open; where a fault has discarded it, it has ended. -/
structure Concluding (n a : Nat) (s : State) : Prop where
  keys : (s.dmas.map Prod.fst).Nodup
  waits : ∀ w ∈ s.tagWaits, w.cmd ≠ n
  own : ∀ c, SMap.find? s.commands n = some c → c.atelier = a
  run : ∀ y, SMap.find? s.dmas n = some y → y.atelier = a ∧ y.todo = [] ∧ y.out = [] ∧ y.kept = []
  gone : SMap.find? s.dmas n = none → SMap.find? s.commands n = none

/-- Between the two states the command stays concluding. -/
def Concludes (n a : Nat) (s t : State) : Prop := Concluding n a s → Concluding n a t

/-- Between the two states the DMA commands, the waits for tags and the commands of the queues stand. -/
structure DmaAside (s t : State) : Prop where
  dmas : t.dmas = s.dmas
  tagWaits : t.tagWaits = s.tagWaits
  commands : t.commands = s.commands

theorem LeavesOnly.dmaAside {s t : State} (h : LeavesOnly s t) : DmaAside s t := by
  rw [show t = _ from h]
  exact ⟨rfl, rfl, rfl⟩
theorem SendsOnly.dmaAside {s t : State} (h : SendsOnly s t) : DmaAside s t := by
  rw [show t = _ from h]
  exact ⟨rfl, rfl, rfl⟩

section
variable {n a : Nat}

theorem Concludes.refl (s : State) : Concludes n a s s := id
theorem Concludes.trans {s t u : State} (h : Concludes n a s t) (k : Concludes n a t u) : Concludes n a s u := k ∘ h
theorem Concludes.foldl {α : Type} {f : State → α → State} (hf : ∀ s x, Concludes n a s (f s x)) (l : List α) (s : State) : Concludes n a s (l.foldl f s) :=
  foldl_related .refl .trans hf l s
theorem Concludes.ite {c : Prop} [Decidable c] {s t u : State} (ht : Concludes n a s t) (hu : Concludes n a s u) : Concludes n a s (if c then t else u) := by
  split
  · exact ht
  · exact hu

theorem DmaAside.concludes {s t : State} (h : DmaAside s t) : Concludes n a s t := by
  obtain ⟨hdmas, hwaits, hcommands⟩ := h
  rintro ⟨keys, waits, own, run, gone⟩
  exact ⟨by rwa [hdmas], by rwa [hwaits], by rwa [hcommands], by rwa [hdmas], by rwa [hdmas, hcommands]⟩

theorem EndsOnly.concludes {s t : State} (h : EndsOnly s t) : Concludes n a s t := by
  have hdmas : t.dmas = s.dmas := by rw [h.frame]
  have hwaits : t.tagWaits = s.tagWaits := by rw [h.frame]
  rintro ⟨keys, waits, own, run, gone⟩
  refine ⟨by rwa [hdmas], by rwa [hwaits], fun c hc => ?_, by rwa [hdmas], fun hn => h.gone (gone (by rwa [hdmas] at hn))⟩
  obtain ⟨b, hb, hbc⟩ := h.commands n c hc
  exact hbc.symm.trans (own b hb)

theorem State.onDma_keys (s : State) (k : Nat) (f : DmaRun → DmaRun) : (s.onDma k f).dmas.map Prod.fst = s.dmas.map Prod.fst := SMap.adjust_keys s.dmas k f

theorem State.onDma_concludes (s : State) (k : Nat) {f : DmaRun → DmaRun}
    (hf : ∀ y, (f y).atelier = y.atelier ∧ (f y).todo = y.todo ∧ (f y).out = y.out ∧ (f y).kept = y.kept) : Concludes n a s (s.onDma k f) := by
  rintro ⟨keys, waits, own, run, gone⟩
  refine ⟨?_, waits, own, fun y hy => ?_, fun hn => gone ?_⟩
  · exact (s.onDma_keys k f).symm ▸ keys
  · rw [State.onDma_find] at hy
    split at hy
    · obtain ⟨x, hx, rfl⟩ := Option.map_eq_some_iff.mp hy
      obtain ⟨hatelier, htodo, hout, hkept⟩ := hf x
      rw [hatelier, htodo, hout, hkept]
      exact run x hx
    · exact run y hy
  · rw [State.onDma_find] at hn
    split at hn
    · exact Option.map_eq_none_iff.mp hn
    · exact hn

/-! The discard rule in an atelier. -/

theorem State.onCores_concludes (s : State) (b : Nat) (f : Core → Core) : Concludes n a s (s.onCores b f) := by
  refine Concludes.foldl (fun t k => ?_) _ s
  split
  · exact DmaAside.concludes ⟨rfl, rfl, rfl⟩
  · exact .refl t

/-- Commands finished one after another have all ended. -/
theorem State.finishAll_commands (status : Nat) (f : State → Nat → Nat) {k : Nat} (l : List Nat) (s : State) (h : k ∈ l) :
    SMap.find? (l.foldl (fun s n => s.finish n status (f s n)) s).commands k = none := by
  induction l generalizing s with
  | nil => cases h
  | cons x l ih =>
    rw [List.foldl_cons]
    rcases List.mem_cons.mp h with rfl | h
    · exact (EndsOnly.foldl (fun _ _ => State.finish_endsOnly ..) l _).gone (State.finish_commands ..)
    · exact ih _ h

/-- The discard rule ends every command of its atelier (R450). -/
theorem State.discardCommands_atelier {s : State} {b k : Nat} {c : Cmd} (h : SMap.find? (s.discardCommands b none).commands k = some c) : c.atelier ≠ b := by
  intro hb
  obtain ⟨x, hx, hxc⟩ := (s.discardCommands_endsOnly b none).commands k c h
  have hmem : k ∈ (s.commands.filter fun p => p.2.atelier = b && some p.1 ≠ none).map Prod.fst :=
    List.mem_map.mpr ⟨(k, x), List.mem_filter.mpr ⟨SMap.mem_of_find? hx, by simp [hxc, hb]⟩, rfl⟩
  rw [State.discardCommands, State.finishAll_commands 0x0D State.stepsDone _ s hmem] at h
  cases h

/-- A DMA command as the discard rule leaves it (R450). -/
def DmaRun.droppedIn (b : Nat) (d : DmaRun) : DmaRun := if d.atelier = b then { d with todo := [], kept := [] } else d

theorem DmaRun.droppedIn_of_done {d : DmaRun} (htodo : d.todo = []) (hkept : d.kept = []) (b : Nat) : d.droppedIn b = d := by
  unfold DmaRun.droppedIn
  split
  · rw [← htodo]
    nth_rewrite 2 [htodo]
    rw [← hkept]
  · rfl

theorem State.dropSegments_dmas (s : State) (b : Nat) : (s.dropSegments b).dmas =
    (s.dmas.map fun p => (p.1, p.2.droppedIn b)).filter fun p => !(p.2.atelier = b && p.2.out.all (·.tag.isNone)) := by
  unfold State.dropSegments
  dsimp only
  congr 1
  refine List.map_congr_left fun p _ => ?_
  unfold DmaRun.droppedIn
  split <;> rfl

theorem State.dropSegments_commands (s : State) (b : Nat) : (s.dropSegments b).commands = s.commands := by
  have h := (State.dropTags_releasesOnly (s.dmas.flatMap fun p => if p.2.atelier = b then p.2.kept else []) s).1
  unfold State.dropSegments
  dsimp only
  rw [show _ = _ from h]

/-- A concluding command of the discarded atelier goes, and its entry in the queue has gone before it; another's stays. -/
theorem State.dropSegments_concludes {s : State} {b : Nat} (hgone : a = b → SMap.find? s.commands n = none) : Concludes n a s (s.dropSegments b) := by
  rintro ⟨keys, waits, own, run, gone⟩
  have hkeys : ((s.dmas.map fun p => (p.1, p.2.droppedIn b)).map Prod.fst) = s.dmas.map Prod.fst := by
    rw [List.map_map]
    rfl
  have hfind : SMap.find? (s.dropSegments b).dmas n =
      ((SMap.find? s.dmas n).map (DmaRun.droppedIn b)).filter fun y => !(y.atelier = b && y.out.all (·.tag.isNone)) := by
    rw [State.dropSegments_dmas, SMap.find?_filter _ _ _ (hkeys ▸ keys), SMap.find?_map_values]
  refine ⟨?_, fun w hw => waits w (List.mem_of_mem_filter hw), ?_, fun y hy => ?_, fun hn => ?_⟩
  · rw [State.dropSegments_dmas]
    exact ((List.filter_sublist).map Prod.fst).nodup (hkeys ▸ keys)
  · rw [State.dropSegments_commands]
    exact own
  · rw [hfind] at hy
    obtain ⟨x, hx, hxy⟩ := Option.map_eq_some_iff.mp (Option.filter_eq_some_iff.mp hy).1
    obtain ⟨hatelier, htodo, hout, hkept⟩ := run x hx
    rw [DmaRun.droppedIn_of_done htodo hkept] at hxy
    exact hxy ▸ ⟨hatelier, htodo, hout, hkept⟩
  · rw [State.dropSegments_commands]
    rw [hfind] at hn
    rcases hx : SMap.find? s.dmas n with _ | x
    · exact gone hx
    · obtain ⟨hatelier, htodo, hout, hkept⟩ := run x hx
      rw [hx, Option.map_some, DmaRun.droppedIn_of_done htodo hkept] at hn
      refine hgone (hatelier ▸ ?_)
      by_contra hne
      simp [hne] at hn
theorem State.abortWork_dmaAside (s : State) (b code : Nat) : DmaAside s (s.abortWork b code) := by
  have hsends {t : State} : SendsOnly t t := .refl t
  unfold State.abortWork
  extract_lets s1 s2
  have h1 : SendsOnly s s1 := by
    refine SendsOnly.foldl (fun t c => ?_) _ s
    split
    · split
      · exact State.abortMembers_sendsOnly ..
      · exact hsends
    · exact hsends
  have h2 : SendsOnly s1 s2 := by
    refine SendsOnly.foldl (fun t p => ?_) _ s1
    split
    · split
      · exact State.abortMembers_sendsOnly ..
      · exact hsends
    · exact hsends
  obtain ⟨hdmas, hwaits, hcommands⟩ := (h1.trans h2).dmaAside
  exact ⟨hdmas, hwaits, hcommands⟩

theorem State.dropRequests_dmaAside (s : State) (b : Nat) : DmaAside s (s.dropRequests b) := by
  have h : LeavesOnly { s with gathers := keepRequests b s.gathers, scatters := keepRequests b s.scatters } (s.dropRequests b) :=
    foldl_related LeavesOnly.refl LeavesOnly.trans State.leaveRows_leavesOnly _ _
  obtain ⟨hdmas, hwaits, hcommands⟩ := h.dmaAside
  exact ⟨hdmas, hwaits, hcommands⟩

theorem State.breakAll_leavesOnly (s : State) (j : Job) : LeavesOnly s (s.breakAll j) := by
  unfold State.breakAll
  split
  · refine foldl_related LeavesOnly.refl LeavesOnly.trans (fun t i => ?_) _ s
    dsimp only
    split
    · exact (t.store_storesOnly ..).leavesOnly
    · exact .refl t
  · exact .refl s

theorem State.discardServing_dmaAside (s : State) (b : Nat) : DmaAside s (s.discardServing b) := by
  unfold State.discardServing
  extract_lets s1
  have h : LeavesOnly s s1 := foldl_related (f := fun s (p : Nat × Job) => s.breakAll p.2) LeavesOnly.refl LeavesOnly.trans (fun s p => s.breakAll_leavesOnly p.2) _ s
  obtain ⟨hdmas, hwaits, hcommands⟩ := h.dmaAside
  exact ⟨hdmas, hwaits, hcommands⟩

theorem State.discard_concludes (s : State) (b code : Nat) : Concludes n a s (s.discard b code) := by
  intro h
  unfold State.discard
  extract_lets s1 s2 s3 s4
  have h1 : Concluding n a s1 := (State.discardCommands_endsOnly _ b none).concludes (s.onCores_concludes b Core.halted h)
  have hgone : a = b → SMap.find? s1.commands n = none := fun hab => by
    rcases hc : SMap.find? s1.commands n with _ | c
    · rfl
    · exact absurd ((h1.own c hc).trans hab) (State.discardCommands_atelier hc)
  clear_value s1
  have habort := s1.abortWork_dmaAside b code
  have hchunks : DmaAside (s1.abortWork b code) ((s1.abortWork b code).dropChunks b) := ⟨rfl, rfl, rfl⟩
  have hdropped := State.dropSegments_concludes (fun hab => by rw [hchunks.commands, habort.commands]; exact hgone hab)
    (hchunks.concludes (habort.concludes h1))
  have h2 : Concluding n a s2 := (State.dropRequests_dmaAside _ b).concludes hdropped
  clear_value s2
  have h3 : Concluding n a s3 := (s2.discardServing_dmaAside b).concludes h2
  clear_value s3
  have h4 : Concluding n a s4 := DmaAside.concludes (s := s3) ⟨rfl, rfl, rfl⟩ h3
  clear_value s4
  exact DmaAside.concludes (s := s4) ⟨rfl, rfl, rfl⟩ h4

theorem State.faultAtelier_concludes (s : State) (b code : Nat) (step ctx : Option Nat) (handles : List Nat) :
    Concludes n a s (s.faultAtelier b code step ctx handles) := by
  rcases hb : s.faultHeld b
  · rw [State.faultAtelier_of_free hb]
    exact Concludes.trans (t := (s.log code (some b) step ctx handles).setAtelier b ((s.atelier b).faultedAt s code))
      (DmaAside.concludes ⟨rfl, rfl, rfl⟩) (State.discard_concludes _ b code)
  · rw [State.faultAtelier_of_held hb]
    exact DmaAside.concludes ⟨rfl, rfl, rfl⟩

/-! The landing of a segment. -/

theorem Store.settle_concludes (x : Store) : Concludes n a x.state x.settle := by
  refine Concludes.foldl (fun t p => ?_) _ x.state
  split
  · exact Concludes.trans (t := t.poisonLine p.1 p.2) (DmaAside.concludes ⟨rfl, rfl, rfl⟩) (State.faultAtelier_concludes _ _ _ _ _ _)
  · exact .refl t

theorem State.noteLine_concludes (s : State) (k line : Nat) : Concludes n a s (s.noteLine k line) := by
  unfold State.noteLine
  split
  · exact .refl s
  · have hnoted : Concludes n a s (s.onDma k fun d => { d with error := true, noted := true }) := s.onDma_concludes k fun _ => ⟨rfl, rfl, rfl, rfl⟩
    dsimp only
    split
    · exact hnoted
    · exact hnoted.trans (DmaAside.concludes ⟨rfl, rfl, rfl⟩)

theorem State.dmaStore_concludes (s : State) (k ctx va : Nat) (bs : Bytes) : Concludes n a s (s.dmaStore k ctx va bs) := by
  unfold State.dmaStore
  split
  · exact .refl s
  · extract_lets x s1
    have hx : Concludes n a s x.settle := (s.store_storesOnly ctx va bs).leavesOnly.dmaAside.concludes.trans x.settle_concludes
    have h1 : Concludes n a s s1 := .ite (hx.trans (State.onDma_concludes _ k fun _ => ⟨rfl, rfl, rfl, rfl⟩)) hx
    split
    · exact h1
    · exact h1.trans (State.noteLine_concludes _ _ _)

theorem State.poisonAt_dmaAside (s : State) (ctx va : Nat) : DmaAside s (s.poisonAt ctx va) := by
  unfold State.poisonAt
  split
  · exact ⟨rfl, rfl, rfl⟩
  · dsimp only
    split
    · split <;> exact ⟨rfl, rfl, rfl⟩
    · exact ⟨rfl, rfl, rfl⟩

theorem State.landSegment_concludes (s : State) (d : DmaRun) (g : Segment) : Concludes n a s (s.landSegment d g) := by
  have hstores : Concludes n a s ((goodRuns g.len 0 g.bad).foldl (fun s r => s.dmaStore d.cmd d.ctx (g.dst + r.1) (slice g.data r.1 r.2)) s) :=
    Concludes.foldl (fun t _ => t.dmaStore_concludes _ _ _ _) _ s
  exact hstores.trans (Concludes.foldl (fun t _ => Concludes.foldl (fun t _ => (t.poisonAt_dmaAside ..).concludes) _ t) _ _)

/-- A concluding command completes with its last segment (R195). -/
theorem Concluding.completes {s : State} (h : Concluding n a s) : SMap.find? ((s.releaseKept n).settleDma n).dmas n = none ∧
    SMap.find? ((s.releaseKept n).settleDma n).commands n = none := by
  have hcommands : (s.releaseKept n).commands = s.commands := by rw [show s.releaseKept n = _ from s.releaseKept_releasesOnly n]
  have hwaits : (s.releaseKept n).tagWaits = s.tagWaits := by rw [show s.releaseKept n = _ from s.releaseKept_releasesOnly n]
  rcases hd : SMap.find? s.dmas n with _ | d
  · have hsame : s.releaseKept n = s := by
      unfold State.releaseKept
      rw [hd]
    rw [hsame, State.settleDma_of_gone hd]
    exact ⟨hd, h.gone hd⟩
  · obtain ⟨-, htodo, hout, hkept⟩ := h.run d hd
    exact State.settleDma_completes (State.releaseKept_find hd) htodo hout (by rw [hkept]; rfl) (hwaits ▸ h.waits)

end

end Sys2Proof.Machine
end

section
/-!
PROOF. The DMA clauses (O49): the end of a segment with its tag and its command, the parcels of a command, bulk writes and their responses, and the obligation.
-/
namespace Sys2Proof.Machine

open Sys2Proof.Claims

/-! ### The end of a segment (R195, R418, R431) -/

/-- The command of a segment that is out no longer. -/
def State.segmentIn (s : State) (d : DmaRun) (g : Segment) : State := s.onDma d.cmd fun x => { x with out := x.out.erase g }

/-- What every end of a segment closes with: held segments, the command and a drain that waited for its tag. -/
def State.settleSegment (s : State) (d : DmaRun) : State := ((s.releaseKept d.cmd).settleDma d.cmd).settleDrain d.atelier

section
variable {s : State} {d : DmaRun} {g : Segment} {T : Tag} {tag : Nat}

theorem State.segmentIn_find (hd : SMap.find? s.dmas d.cmd = some d) : SMap.find? (s.segmentIn d g).dmas d.cmd = some { d with out := d.out.erase g } := by
  rw [State.segmentIn, State.onDma_find, if_pos rfl, hd]
  rfl

/-- A segment of parcels under a lease that is held (R195, R418, R431). -/
def State.ofParcel (s : State) (T : Tag) (d : DmaRun) (g : Segment) : Prop := s.tagLive T = true ∧ d.toPeer = none ∧ d.parcels = true ∧ g.bad = []

theorem State.endSegment_of_parcel (h : s.ofParcel T d g) : s.endSegment T tag d g = ((s.segmentIn d g).keepSegment d g).settleSegment d := by
  obtain ⟨hlive, hto, hparcels, hgood⟩ := h
  unfold State.endSegment
  dsimp only
  rw [if_neg (by simp [hlive, hto]), if_pos hparcels, if_pos (by rw [hgood]; rfl)]
  rfl

theorem State.endSegment_of_not_parcel (h : ¬s.ofParcel T d g) : ∃ v, (v = s.segmentIn d g ∨ v = (s.segmentIn d g).landSegment d g) ∧
    s.endSegment T tag d g = (v.dropTag tag).settleSegment d := by
  unfold State.endSegment
  dsimp only
  split
  · exact ⟨_, .inl rfl, rfl⟩
  · next hlive =>
    simp only [Bool.or_eq_true, Bool.not_eq_true', not_or, Bool.not_eq_false, Bool.not_eq_true, Option.isSome_eq_false_iff, Option.isNone_iff_eq_none] at hlive
    split
    · next hparcels =>
      rw [if_neg fun hgood => h ⟨hlive.1, hlive.2, hparcels, List.isEmpty_iff.mp hgood⟩]
      exact ⟨_, .inl rfl, rfl⟩
    · exact ⟨_, .inr rfl, rfl⟩

/-- A segment whose lease is gone ends with its tag alone (R431). -/
theorem State.endSegment_of_dead (h : s.tagLive T = false) : s.endSegment T tag d g = ((s.segmentIn d g).dropTag tag).settleSegment d := by
  unfold State.endSegment
  dsimp only
  rw [if_pos (by rw [h]; rfl)]
  rfl

theorem State.settleDma_tags (s : State) (n : Nat) : (s.settleDma n).tags = s.tags := by
  obtain ⟨m, h⟩ := s.settleDma_endsOnly n
  rw [h.frame]

theorem State.settleSegment_free (h : SMap.find? (s.releaseKept d.cmd).tags tag = none) : SMap.find? (s.settleSegment d).tags tag = none := by
  rw [State.settleSegment, (State.settleDrain_transfersStand ..).tags, State.settleDma_tags, h]

theorem State.settleSegment_done (h : SMap.find? ((s.releaseKept d.cmd).settleDma d.cmd).dmas d.cmd = none ∧
      SMap.find? ((s.releaseKept d.cmd).settleDma d.cmd).commands d.cmd = none) :
    SMap.find? (s.settleSegment d).dmas d.cmd = none ∧ SMap.find? (s.settleSegment d).commands d.cmd = none := by
  have hdrain := State.settleDrain_transfersStand ((s.releaseKept d.cmd).settleDma d.cmd) d.atelier
  exact ⟨by rw [State.settleSegment, hdrain.dmas, h.1], hdrain.gone _ h.2⟩

/-- Where no drain waits, the end of a segment moves no byte. -/
theorem State.settleSegment_data (h : (s.atelier d.atelier).draining = none) :
    (s.settleSegment d).gddr = s.gddr ∧ (s.settleSegment d).reservoir = s.reservoir := by
  obtain ⟨m, hends⟩ := (s.releaseKept d.cmd).settleDma_endsOnly d.cmd
  have hreleased := s.releaseKept_releasesOnly d.cmd
  have hgddr : ((s.releaseKept d.cmd).settleDma d.cmd).gddr = s.gddr := by
    rw [hends.frame, show s.releaseKept d.cmd = _ from hreleased]
  have hreservoir : ((s.releaseKept d.cmd).settleDma d.cmd).reservoir = s.reservoir := by
    rw [hends.frame, show s.releaseKept d.cmd = _ from hreleased]
  have hatelier : ((s.releaseKept d.cmd).settleDma d.cmd).ateliers = s.ateliers := by
    rw [hends.frame, show s.releaseKept d.cmd = _ from hreleased]
  rw [State.settleSegment, State.settleDrain_of_not_draining (by rw [State.atelier, hatelier]; exact h)]
  exact ⟨hgddr, hreservoir⟩

/-! ### Parcels of a command (R195, R418) -/

theorem State.openNext_waits {n : Nat} (hd : SMap.find? s.dmas n = some d) (htodo : d.todo ≠ [])
    (hshort : d.buffer.length < 32 ∨ (parcelHeaderGood d.buffer 0 = true ∧ d.buffer.length < 48 + parcelLength d.buffer)) : s.openNext n = none := by
  have hlast : d.todo.isEmpty = false := by simpa using htodo
  unfold State.openNext
  rw [hd]
  dsimp only
  rw [hlast]
  simp only [Bool.false_and, Bool.not_false, Bool.and_true]
  split
  · rfl
  · rcases hshort with h | ⟨hgood, h⟩
    · rw [if_pos (decide_eq_true h)]
    · split
      · rfl
      · rw [if_pos (by simp [hgood, h])]

theorem State.openParcels_of_none {n : Nat} (h : s.openNext n = none) : ∀ fuel, State.openParcels n fuel s = s
  | 0 => rfl
  | fuel + 1 => by rw [State.openParcels, h]

/-- The segment that comes next in order joins the bytes not yet opened, and none after it has arrived. -/
theorem DmaRun.join_next {y : DmaRun} (harrived : y.arrived = []) (bs : Bytes) (gs : List Segment) :
    DmaRun.join (y.arrived.length + 1) { y with arrived := SMap.put y.arrived y.next bs, kept := gs } =
      { y with next := y.next + 1, buffer := y.buffer ++ bs, kept := gs } := by
  rw [harrived]
  simp [DmaRun.join, SMap.put, SMap.find?, SMap.del]

/-- A segment of parcels is held where its parcel is not whole (R195, R418). -/
theorem State.keepSegment_waits {y : DmaRun} (hy : SMap.find? s.dmas d.cmd = some y) (harrived : y.arrived = []) (hindex : g.index = y.next)
    (htodo : y.todo ≠ []) (hshort : (y.buffer ++ g.data).length < 32 ∨
      (parcelHeaderGood (y.buffer ++ g.data) 0 = true ∧ (y.buffer ++ g.data).length < 48 + parcelLength (y.buffer ++ g.data))) :
    (s.keepSegment d g).tags = s.tags ∧
      SMap.find? (s.keepSegment d g).dmas d.cmd = some { y with next := y.next + 1, buffer := y.buffer ++ g.data, kept := y.kept ++ [g] } := by
  have hfind : SMap.find? (s.onDma d.cmd fun x => DmaRun.join (x.arrived.length + 1)
      { x with arrived := SMap.put x.arrived g.index g.data, kept := x.kept ++ [g] }).dmas d.cmd =
      some { y with next := y.next + 1, buffer := y.buffer ++ g.data, kept := y.kept ++ [g] } := by
    rw [State.onDma_find, if_pos rfl, hy, Option.map_some, hindex, DmaRun.join_next harrived]
  unfold State.keepSegment
  dsimp only
  rw [State.openParcels_of_none (State.openNext_waits hfind htodo hshort)]
  exact ⟨rfl, hfind⟩

/-- A command with held segments and more to issue keeps its tags (R195). -/
theorem State.settleSegment_waits {y : DmaRun} (hy : SMap.find? s.dmas d.cmd = some y) (hkept : y.kept.filter y.holds = y.kept) (htodo : y.todo ≠ [])
    (hT : SMap.find? s.tags tag = some T) (ha : T.atelier = some d.atelier) :
    SMap.find? (s.settleSegment d).tags tag = some T ∧ SMap.find? (s.settleSegment d).dmas d.cmd = some y := by
  have hnone : y.kept.filter (fun g => !y.holds g) = [] := by
    rw [List.filter_eq_nil_iff]
    intro x hx
    rw [List.filter_eq_self.mp hkept x hx]
    exact Bool.false_ne_true
  have hreleased : s.releaseKept d.cmd = s.onDma d.cmd fun x => { x with kept := x.kept.filter y.holds } := by
    rw [State.releaseKept_of_listed hy, hnone]
    rfl
  have hfind := State.releaseKept_find hy
  rw [hkept] at hfind
  have htag : SMap.find? (s.releaseKept d.cmd).tags tag = some T := by
    rw [hreleased]
    exact hT
  rw [State.settleSegment, State.settleDma_of_todo hfind htodo, State.settleDrain_of_tag htag ha]
  exact ⟨htag, hfind⟩

/-- A parcel that is whole is opened at once (R418). -/
theorem State.openNext_whole {n : Nat} (hd : SMap.find? s.dmas n = some d) (hstatus : d.status = 0) (h32 : 32 ≤ d.buffer.length)
    (hwhole : 48 + parcelLength d.buffer ≤ d.buffer.length) : s.openNext n =
      (s.openParcel d.atelier 0 (slice d.buffer 0 (48 + parcelLength d.buffer))).elim (some ((s.noteParcel d.atelier d.ctx d.buffer).giveUp n 0x0C)) fun text =>
        if d.bound < d.dst + text.length then some (((s.acceptSeq d.atelier d.buffer).noteParcel d.atelier d.ctx d.buffer).giveUp n 0x09)
        else some (((s.acceptSeq d.atelier d.buffer).dmaStore n d.ctx d.dst text).onDma n fun y =>
          { y with buffer := d.buffer.drop (48 + parcelLength d.buffer), dst := y.dst + text.length, opened := y.opened + (48 + parcelLength d.buffer) }) := by
  have hempty : d.buffer.isEmpty = false := by
    rw [List.isEmpty_eq_false_iff, ← List.length_pos_iff]
    omega
  unfold State.openNext
  rw [hd]
  dsimp only
  rw [if_neg (by simp [hstatus, hempty]), if_neg (by simp [Nat.not_lt.mpr h32]), if_neg (by simp [Nat.not_lt.mpr hwhole]), Nat.min_eq_left hwhole]
  rcases s.openParcel d.atelier 0 (slice d.buffer 0 (48 + parcelLength d.buffer)) with _ | text <;> rfl

/-! ### The row that ends a segment -/

theorem exec_dmaSegmentComplete (hT : SMap.find? s.tags tag = some T)
    (hfound : s.dmas.findSome? (fun (p : Nat × DmaRun) => (p.2.out.find? fun g => decide (g.tag = some tag)).map (p.2, ·)) = some (d, g))
    (hanswered : d.toPeer = none ∨ (SMap.find? d.peer g.index).isSome = true) :
    exec (.dmaSegmentComplete tag) s = .next (s.endSegment T tag d g) := by
  rw [show exec (.dmaSegmentComplete tag) s = execDmaSegmentComplete tag s from rfl]
  unfold execDmaSegmentComplete
  dsimp only
  rw [hT, hfound]
  exact whenDue_of_due (by rcases hanswered with h | h <;> simp [h]) ..

theorem tag_of_found (hfound : s.dmas.findSome? (fun (p : Nat × DmaRun) => (p.2.out.find? fun g => decide (g.tag = some tag)).map (p.2, ·)) = some (d, g)) :
    g.tag = some tag := by
  obtain ⟨p, -, hp⟩ := List.exists_of_findSome?_eq_some hfound
  obtain ⟨x, hx, hpair⟩ := Option.map_eq_some_iff.mp hp
  cases hpair
  simpa using List.find?_some hx

/-- The end of a segment that is no parcel's frees its tag (R195). -/
theorem State.endSegment_frees (h : ¬s.ofParcel T d g) : SMap.find? (s.endSegment T tag d g).tags tag = none := by
  obtain ⟨v, -, heq⟩ := State.endSegment_of_not_parcel (tag := tag) h
  rw [heq]
  exact State.settleSegment_free (State.releaseKept_free ((SMap.find?_del ..).trans (if_pos rfl)))

/-- A segment of a parcel that is not whole yet is held with its tag (R195, R418). -/
theorem State.endSegment_holds (hT : SMap.find? s.tags tag = some T) (hd : SMap.find? s.dmas d.cmd = some d) (h : s.ofParcel T d g)
    (ha : T.atelier = some d.atelier) (hstatus : d.status = 0) (harrived : d.arrived = []) (hindex : g.index = d.next) (htodo : d.todo ≠ [])
    (hkept : d.kept = []) (hopened : d.opened < g.src + g.len) (hshort : (d.buffer ++ g.data).length < 32 ∨
      (parcelHeaderGood (d.buffer ++ g.data) 0 = true ∧ (d.buffer ++ g.data).length < 48 + parcelLength (d.buffer ++ g.data))) :
    SMap.find? (s.endSegment T tag d g).tags tag = some T ∧ SMap.find? (s.endSegment T tag d g).dmas d.cmd =
      some { d with out := d.out.erase g, next := d.next + 1, buffer := d.buffer ++ g.data, kept := [g] } := by
  obtain ⟨htags, hfind⟩ := State.keepSegment_waits (State.segmentIn_find (g := g) hd) harrived hindex htodo hshort
  dsimp only at hfind
  rw [hkept, List.nil_append] at hfind
  rw [State.endSegment_of_parcel h]
  refine State.settleSegment_waits hfind ?_ htodo (by rw [htags]; exact hT) ha
  have hholds : DmaRun.holds { d with out := d.out.erase g, next := d.next + 1, buffer := d.buffer ++ g.data, kept := [g] } g = true := by
    simp [DmaRun.holds, hstatus, hopened]
  exact List.filter_cons_of_pos hholds

/-- Held segments whose parcel is written, or whose command is given up, end with their tags, and their command with the last (R195, R418). -/
theorem State.endSegment_lets_go (hg : g.tag = some tag) (h : s.ofParcel T d g) {y : DmaRun}
    (hy : SMap.find? ((s.segmentIn d g).keepSegment d g).dmas d.cmd = some y) (hkept : g ∈ y.kept) (hends : y.status ≠ 0 ∨ ∀ x ∈ y.kept, x.src + x.len ≤ y.opened) :
    SMap.find? (s.endSegment T tag d g).tags tag = none ∧
      (y.todo = [] → y.out = [] → (∀ w ∈ ((s.segmentIn d g).keepSegment d g).tagWaits, w.cmd ≠ d.cmd) →
        SMap.find? (s.endSegment T tag d g).dmas d.cmd = none ∧ SMap.find? (s.endSegment T tag d g).commands d.cmd = none) := by
  have hnone (x : Segment) (hx : x ∈ y.kept) : y.holds x = false := by
    rcases hends with hs | hopened
    · simp [DmaRun.holds, hs]
    · simp [DmaRun.holds, hopened x hx]
  rw [State.endSegment_of_parcel h]
  generalize (s.segmentIn d g).keepSegment d g = u at hy
  refine ⟨State.settleSegment_free (State.releaseKept_frees hy hkept hg (hnone g hkept)), fun htodo hout hwaits => State.settleSegment_done ?_⟩
  refine State.settleDma_completes (State.releaseKept_find hy) htodo hout ?_ ?_
  · exact List.filter_eq_nil_iff.mpr fun x hx => by rw [hnone x hx]; exact Bool.false_ne_true
  · rw [show u.releaseKept d.cmd = _ from u.releaseKept_releasesOnly d.cmd]
    exact hwaits

/-- The last segment of a command ends it (R195, R450). -/
theorem State.endSegment_completes (hd : SMap.find? s.dmas d.cmd = some d) (h : ¬s.ofParcel T d g) (hkept : d.kept = []) (htodo : d.todo = [])
    (hout : d.out = [g]) (hwaits : ∀ w ∈ s.tagWaits, w.cmd ≠ d.cmd) (hkeys : (s.dmas.map Prod.fst).Nodup)
    (hown : ∀ c, SMap.find? s.commands d.cmd = some c → c.atelier = d.atelier) :
    SMap.find? (s.endSegment T tag d g).dmas d.cmd = none ∧ SMap.find? (s.endSegment T tag d g).commands d.cmd = none := by
  have hin : Concluding d.cmd d.atelier (s.segmentIn d g) := by
    refine ⟨by rw [State.segmentIn, State.onDma_keys]; exact hkeys, hwaits, hown, fun y hy => ?_, fun hn => ?_⟩
    · rw [State.segmentIn_find hd] at hy
      cases hy
      exact ⟨rfl, htodo, by simp [hout], hkept⟩
    · rw [State.segmentIn_find hd] at hn
      cases hn
  obtain ⟨v, hv, heq⟩ := State.endSegment_of_not_parcel (tag := tag) h
  have hconcluding : Concluding d.cmd d.atelier v := by
    rcases hv with rfl | rfl
    · exact hin
    · exact State.landSegment_concludes _ d g hin
  rw [heq]
  exact State.settleSegment_done (Concluding.completes (DmaAside.concludes (s := v) ⟨rfl, rfl, rfl⟩ hconcluding))

/-! ### Bulk writes and responses (R268, R269, R388) -/

theorem exec_bulkWrite {port : Nat} {p : Packet} (hport : port < 20) (hp : (s.port port).packets.find? (fun p => decide (p.ptype = 0)) = some p) :
    exec (.bulkWrite port) s = .next ((s.takePacket port p).hearBulk p) := exec_packetRow hport hp _

theorem exec_bulkResponse {port : Nat} {p : Packet} (hport : port < 20) (hp : (s.port port).packets.find? (fun p => decide (p.ptype = 8)) = some p) :
    exec (.bulkResponse port) s = .next ((s.takePacket port p).answerSegment (s.answered p) (p.info 96 8)) :=
  exec_packetRow hport hp fun s p => s.answerSegment (s.answered p) (p.info 96 8)

/-- A bulk write's answer moves no byte. -/
theorem State.hearBulk_data (s : State) (p : Packet) : (s.hearBulk p).gddr = (s.bulkDone p).gddr ∧ (s.hearBulk p).reservoir = (s.bulkDone p).reservoir ∧
    (s.hearBulk p).poison = (s.bulkDone p).poison := by
  rw [State.hearBulk_eq, show (s.bulkDone p).sendPacket _ _ _ _ _ _ _ = _ from State.sendPacket_sendsOnly ..]
  exact ⟨rfl, rfl, rfl⟩

/-- A bulk write is answered with its result on VC0 (R269). -/
theorem State.hearBulk_answers {p : Packet} {q : Nat} (hq : s.route p.src = some q) :
    ∃ w, (SMap.get [] ((s.hearBulk p).port q).queues 0).getLast? = some w ∧ w.dst = p.src ∧
      w.packet = ⟨packetHeader 0 8 0 s.gidx p.src 0 0 0 (responseInfo p (s.bulkResult p)), []⟩ := by
  have hroute : (s.bulkDone p).route p.src = some q := by
    rw [(s.bulkDone_storesOnly p).frame]
    exact hq
  have hgidx : (s.bulkDone p).gidx = s.gidx := by
    rw [(s.bulkDone_storesOnly p).frame]
    rfl
  refine ⟨_, State.sendPacket_queued hroute ((s.bulkDone p).carries_even q rfl), rfl, ?_⟩
  rw [← hgidx]
  rfl

/-- The last response of a query's reply ends the query's command (R388). -/
theorem State.answerSegment_ends {n i result : Nat} (hd : SMap.find? s.dmas n = some d) (hreply : d.reply.isSome = true)
    (hall : ∀ x ∈ d.out, x.index = i ∨ (SMap.find? d.peer x.index).isSome = true) :
    SMap.find? (s.answerSegment (some (n, i)) result).dmas n = none ∧ SMap.find? (s.answerSegment (some (n, i)) result).commands n = none := by
  obtain ⟨k, hk⟩ := Option.isSome_iff_exists.mp hreply
  have hnoted : SMap.find? (s.onDma n fun x => { x with peer := SMap.put x.peer i result }).dmas n = some { d with peer := SMap.put d.peer i result } := by
    rw [State.onDma_find, if_pos rfl, hd]
    rfl
  have hanswered : (d.out.all fun x => (SMap.find? (SMap.put d.peer i result) x.index).isSome) = true := by
    refine List.all_eq_true.mpr fun x hx => ?_
    rw [SMap.find?_put]
    split
    · rfl
    · next hne => exact (hall x hx).resolve_left hne
  rw [show s.answerSegment (some (n, i)) result = (s.onDma n fun x => { x with peer := SMap.put x.peer i result }).settleReply n from rfl,
    State.settleReply, hnoted]
  dsimp only
  rw [hk]
  dsimp only
  rw [if_pos hanswered]
  refine ⟨?_, State.finish_commands ..⟩
  rw [(State.finish_endsOnly ..).frame]
  exact (SMap.find?_del ..).trans (if_pos rfl)

end

/-! ### The obligation -/

section
variable {s : State} {die : Nat} {d : DmaRun} {g : Segment} {rest : List Segment} {tg e : Nat}

/-- The command of a segment issued from host memory, as the row leaves it (R193, R301). -/
theorem State.issueTaken_host_find (hd : SMap.find? s.dmas d.cmd = some d) (hfrom : d.fromHost = true) (hreply : d.reply = none) (bs : Bytes) :
    SMap.find? ((s.segmentTaken die d rest).issueSegment d g tg e (some bs)).dmas d.cmd =
      some (d.told s g { d with todo := rest, out := d.out ++ [{ g with tag := some tg, data := padTo g.len bs }] }) := by
  have hfind := State.issueSegment_host_find (g := g) (tag := tg) (engine := e) hfrom (State.segmentTaken_find (die := die) (rest := rest) hd) hreply rfl bs
  rw [DmaRun.told_taken] at hfind
  exact hfind

/-- The same for a segment issued from device memory (R195). -/
theorem State.issueTaken_device_find (hd : SMap.find? s.dmas d.cmd = some d) (hfrom : d.fromHost = false) (hreply : d.reply = none)
    (hgood : (s.fetch d.ctx g.src g.len).bad = []) (host : Option Bytes) :
    SMap.find? ((s.segmentTaken die d rest).issueSegment d g tg e host).dmas d.cmd =
      some (d.told s g { d with todo := rest, out := d.out ++ [{ g with tag := some tg, data := (s.fetch d.ctx g.src g.len).bytes, bad := [] }] }) := by
  rw [← State.segmentTaken_fetch (die := die) (d := d) (rest := rest)] at hgood
  have hfind := State.issueSegment_device_find (g := g) (tag := tg) (engine := e) (host := host) hfrom hgood (State.segmentTaken_find hd) hreply rfl
  rw [DmaRun.told_taken, State.segmentTaken_fetch] at hfind
  exact hfind

/-- A segment between the host and this device that waited for its tag (R195). -/
theorem State.waitOver_issues (hd : SMap.find? s.dmas d.cmd = some d) (hfrom : d.fromHost = true) (hto : d.toPeer = none) (bs : Bytes) (fl : Flacon) :
    let t := { (s.waitOver g).issueSegment d g tg e (some bs) with flacon := fl }
    t.tagWaits = s.tagWaits.erase g ∧ SMap.find? t.tags tg = some ⟨some d.atelier, (s.lease d.atelier).serial, e⟩ ∧
      SMap.find? t.dmas d.cmd = some { d with out := d.out ++ [{ g with tag := some tg, data := padTo g.len bs }] } ∧
      t = { s with dmas := t.dmas, tags := t.tags, tagWaits := t.tagWaits, flacon := t.flacon, translations := t.translations } := by
  have hlocal := State.issueSegment_of_local (s := s.waitOver g) (g := g) (tag := tg) (engine := e) hfrom hto bs
  have htaken := State.issueSegment_tag (s.waitOver g) d g tg e (some bs)
  have hfind := State.issueSegment_local_find (s := s.waitOver g) (g := g) (tag := tg) (engine := e) hfrom hto hd bs
  generalize (s.waitOver g).issueSegment d g tg e (some bs) = v at *
  dsimp only at hlocal
  refine ⟨congrArg State.tagWaits hlocal, htaken, hfind, ?_⟩
  rw [hlocal]
  rfl
end

theorem cutSegments_covers (n src dst len : Nat) :
    ((cutSegments n (2 * (len / 4096) + 4) 0 src dst len).map (·.len)).sum = len :=
  cutSegments_sum n _ 0 src dst len fun _ => segmentsDue_le src dst len

/-- Settles O49: each row of the engines is its equation, and a segment that lands ends its command even where a fault on its way discards it. -/
theorem dmaTransfers : Obligations.DmaTransfers := by
  unfold Obligations.DmaTransfers
  refine ⟨fun s n c => ⟨cutSegments_covers n _ _ _, fun g => cutSegments_within n _ 0 _ _ _, fun k g h => cutSegments_next n k _ 0 _ _ _⟩, fun s => ⟨?_, ?_, ?_, ?_, ?_, ?_, ?_⟩⟩
  · intro n c hrun
    rw [exec_dmaCommand hrun]
    refine ⟨fun hreal => by rw [hreal]; rfl, fun hreal => ⟨s.dmaQueued n c, by rw [hreal]; rfl, ?_, ?_, rfl⟩⟩
    · exact (SMap.find?_put ..).trans (if_pos rfl)
    · rw [State.dmaQueued, State.onCmd_find, if_pos rfl, hrun.listed]
      rfl
  · intro die d e g rest host hdie hm hnext he hd htodo
    rw [exec_dmaSegmentIssue hdie hm hnext he]
    refine ⟨fun hcurb hwait => by rw [State.halfRate_withheld hcurb hwait], fun hstart hwaits => ?_, fun tg hstart htag hfirst => ?_⟩
    · rw [State.takeSegment_waits htodo hwaits]
      obtain ⟨fl, heq, hfl⟩ := State.halfRate_issued hstart { s.segmentTaken die d rest with tagWaits := s.tagWaits ++ [g] }
      rw [heq]
      exact ⟨_, rfl, rfl, State.segmentTaken_find (die := die) (rest := rest) hd, hfl, rfl⟩
    · rw [State.takeSegment_issues htodo htag hfirst]
      obtain ⟨fl, heq, -⟩ := State.halfRate_issued hstart ((s.segmentTaken die d rest).issueSegment d g tg e host)
      rw [heq]
      refine ⟨_, rfl, (s.segmentTaken die d rest).issueSegment_tag d g tg e host, ?_, ?_, ?_, ?_⟩
      · rintro hfrom hreply bs rfl
        exact State.issueTaken_host_find hd hfrom hreply bs
      · rintro hfrom rfl
        have hy := State.segmentTaken_find (die := die) (rest := rest) hd
        obtain ⟨z, hz, herror, hnone, hstatus⟩ := State.issueSegment_refused_find (g := g) (tag := tg) (engine := e) hfrom hy
        exact ⟨z, hz, herror, hnone, hstatus⟩
      · exact fun hfrom hreply hgood => State.issueTaken_device_find hd hfrom hreply hgood host
      · intro hreads p r hto hr
        obtain ⟨w, hw, hdst, hseg, hlease⟩ := State.issueSegment_queued (s := s.segmentTaken die d rest) (g := g) (tag := tg) (engine := e) hreads hto hr
        exact ⟨w, hw, hdst, hseg, hlease⟩
  · intro a g d tg e bs hwait htag he hd
    rw [exec_transferTagGrant hwait htag he]
    refine ⟨fun hcurb hheld => by rw [State.halfRate_withheld hcurb hheld], fun hstart hfrom hto => ?_, fun hstart p r hto hr => ?_⟩
    · obtain ⟨fl, heq, hfl⟩ := State.halfRate_issued hstart ((s.waitOver g).issueSegment d g tg e (some bs))
      obtain ⟨hwaits, htaken, hfind, hframe⟩ := State.waitOver_issues (g := g) (tg := tg) (e := e) hd hfrom hto bs fl
      have hflacon : ((s.waitOver g).issueSegment d g tg e (some bs)).flacon = s.flacon := by
        rw [State.issueSegment_of_local hfrom hto bs]
        rfl
      rw [heq]
      exact ⟨_, rfl, hwaits, htaken, hfind, fun hoff => (hfl hoff).trans hflacon, hframe⟩
    · obtain ⟨fl, heq, -⟩ := State.halfRate_issued hstart ((s.waitOver g).issueSegment d g tg e (some bs))
      obtain ⟨w, hw, hdst, hseg, -⟩ := State.issueSegment_queued (s := s.waitOver g) (g := g) (tag := tg) (engine := e)
        (host := some bs) (.inr rfl) hto hr
      rw [heq]
      exact ⟨_, w, rfl, State.issueSegment_tagWaits (s.waitOver g) d g tg e (.inr rfl), hw, hdst, hseg⟩
  · intro tag T d g hT hfound hd hanswered
    rw [exec_dmaSegmentComplete hT hfound hanswered]
    refine ⟨_, rfl, State.endSegment_frees, ?_, ?_, ?_, ?_⟩
    · exact fun hparcel ha hstatus harrived hindex htodo hkept hopened hshort =>
        State.endSegment_holds hT hd hparcel ha hstatus harrived hindex htodo hkept hopened hshort
    · intro hparcel y hy hkept hends
      obtain ⟨hfreed, hdone⟩ := State.endSegment_lets_go (tag_of_found hfound) hparcel hy hkept hends
      exact ⟨hfreed, fun htodo hout hwaits _ _ => hdone htodo hout hwaits⟩
    · intro hdead hdrain
      rw [State.endSegment_of_dead hdead]
      exact State.settleSegment_data hdrain
    · exact fun hparcel hkept htodo hout hwaits hkeys hown => State.endSegment_completes hd hparcel hkept htodo hout hwaits hkeys hown
  · intro n d hd hstatus h32 hwhole
    have hnext := State.openNext_whole hd hstatus h32 hwhole
    refine ⟨fun hnone => by rw [hnext, hnone]; rfl, fun text hopen hbound => ?_⟩
    rw [hnext, hopen, slice_length]
    exact if_neg (Nat.not_lt.mpr hbound)
  · intro port p hport hp
    refine ⟨State.bulkResult_of_absent (s := s.takePacket port p), fun m => State.bulkResult_of_closed (s := s.takePacket port p),
      fun m => State.bulkResult_of_stranger (s := s.takePacket port p), fun m a => State.bulkResult_of_outside (s := s.takePacket port p), ?_⟩
    obtain ⟨hgddr, hreservoir, hpoison⟩ := (s.takePacket port p).hearBulk_data p
    rw [exec_bulkWrite hport hp]
    refine ⟨_, rfl, fun hr => ?_, fun hr m hm => ?_, fun q hq => ?_⟩
    · rw [hgddr, hreservoir, hpoison]
      exact State.bulkDone_of_refused hr
    · rw [hgddr, hreservoir, hpoison, State.bulkDone_of_written (s := s.takePacket port p) hm hr]
      exact ⟨rfl, rfl, rfl⟩
    · exact State.hearBulk_answers ((s.takePacket_route port p p.src).trans hq)
  · intro port p n i d hport hp hanswered hd
    rw [exec_bulkResponse hport hp, hanswered]
    refine ⟨fun hreply => ?_, fun hreply hall => ⟨_, rfl, State.answerSegment_ends (s := s.takePacket port p) hd hreply hall⟩⟩
    rw [State.answerSegment_of_no_reply (s := s.takePacket port p) hd hreply]
    refine ⟨_, rfl, ?_, ?_, rfl⟩
    · rw [State.onDma_find, if_pos rfl]
      exact congrArg (Option.map _) hd
    · exact congrArg DarvalPort.packets ((State.setPort_port ..).trans (if_pos rfl))

end Sys2Proof.Machine
end

section
/-!
PROOF. The decision of the seal and its actions (O51): R220's chain over the records, what the actions of an outcome leave of the job up
to the end of its step, and that end.
-/
namespace Sys2Proof.Machine

open Sys2Proof.Claims

/-! ### The chain of R220 -/

/-- No record differs from the first in a field where all agree in it. -/
theorem differs_iff (rs : List Bytes) (f : Bytes → Nat) : (rs.any fun x => decide (f x ≠ f (rs.headD []))) = false ↔ ∀ x ∈ rs, ∀ y ∈ rs, f x = f y := by
  cases rs with
  | nil => simp
  | cons z rs =>
    have hfirst : (List.any (z :: rs) fun x => decide (f x ≠ f z)) = false ↔ ∀ x ∈ z :: rs, f x = f z := by simp
    exact hfirst.trans ⟨fun h x hx y hy => (h x hx).trans (h y hy).symm, fun h x hx => h x hx z List.mem_cons_self⟩

/-- Whether the records differ in step, fingerprint or k, as the decision asks it. -/
def recordsDiffer (rs : List Bytes) : Bool :=
  let differ := fun lo len => rs.any fun x => decide (bitsIn x lo len ≠ bitsIn (rs.headD []) lo len)
  differ 0 64 || differ 128 64 || differ 208 8

theorem recordsDiffer_iff (rs : List Bytes) : recordsDiffer rs = false ↔
    ∀ x ∈ rs, ∀ y ∈ rs, bitsIn x 0 64 = bitsIn y 0 64 ∧ bitsIn x 128 64 = bitsIn y 128 64 ∧ bitsIn x 208 8 = bitsIn y 208 8 := by
  simp only [recordsDiffer, Bool.or_eq_false_iff, differs_iff rs (bitsIn · 0 64), differs_iff rs (bitsIn · 128 64), differs_iff rs (bitsIn · 208 8)]
  exact ⟨fun ⟨⟨hstep, hprint⟩, hk⟩ x hx y hy => ⟨hstep x hx y hy, hprint x hx y hy, hk x hx y hy⟩,
    fun h => ⟨⟨fun x hx y hy => (h x hx y hy).1, fun x hx y hy => (h x hx y hy).2.1⟩, fun x hx y hy => (h x hx y hy).2.2⟩⟩

/-- gnorm (R220). -/
def sealNorm (rs : List Bytes) (members : Nat) (k : Int) : Nat :=
  mul64 (sqrt64 (rs.foldl (fun a x => add64 a (bitsIn x 64 64)) 0)) (scale64 members k)

/-- The outcome of a decision, one question after the other. -/
theorem decideSeal_outcome (rs : List Bytes) (members : Nat) (k : Int) (attempt : Nat) (t : XReal) :
    (decideSeal rs members k attempt t).outcome =
      if recordsDiffer rs then .fault
      else if rs.any fun x => decide (bitsIn x 217 1 = 1) then .skipResidue
      else if rs.any fun x => decide (bitsIn x 224 32 ≠ 0) then if decide (attempt = 0) then .rereduce else .skipResidue
      else if rs.any fun x => decide (bitsIn x 216 1 = 1) then .skipNonfinite
      else if (f64 (sealNorm rs members k)).nonfinite then .skipNonfinite
      else if t.lt (f64 (sealNorm rs members k)) then .clip else .commit := by
  simp only [decideSeal, recordsDiffer, sealNorm, apply_ite Verdict.outcome]
  cases rs.any fun x => decide (bitsIn x 217 1 = 1) with
  | false =>
    simp only [Bool.not_false, Bool.and_true]
    rfl
  | true =>
    simp only [Bool.not_true, Bool.and_false]
    rfl

/-- R220, outcome by outcome. -/
theorem decideSeal_table (rs : List Bytes) (members : Nat) (k : Int) (attempt : Nat) (t : XReal) :
    let v := (decideSeal rs members k attempt t).outcome
    let agree := ∀ x ∈ rs, ∀ y ∈ rs, bitsIn x 0 64 = bitsIn y 0 64 ∧ bitsIn x 128 64 = bitsIn y 128 64 ∧ bitsIn x 208 8 = bitsIn y 208 8
    let beyond := ∃ x ∈ rs, bitsIn x 217 1 = 1
    let failed := ∃ x ∈ rs, bitsIn x 224 32 ≠ 0
    let odd := ∃ x ∈ rs, bitsIn x 216 1 = 1
    let g := f64 (sealNorm rs members k)
    (¬agree → v = .fault) ∧ (agree → beyond → v = .skipResidue) ∧ (agree → ¬beyond → failed → attempt = 0 → v = .rereduce) ∧
    (agree → ¬beyond → failed → attempt ≠ 0 → v = .skipResidue) ∧ (agree → ¬beyond → ¬failed → odd → v = .skipNonfinite) ∧
    (agree → ¬beyond → ¬failed → ¬odd → g.nonfinite = true → v = .skipNonfinite) ∧
    (agree → ¬beyond → ¬failed → ¬odd → g.nonfinite = false → (t.lt g = true → v = .clip) ∧ (t.lt g = false → v = .commit)) := by
  dsimp only
  rw [decideSeal_outcome]
  refine ⟨fun ha => if_pos ?_, fun ha => ?_, fun ha => ?_, fun ha => ?_, fun ha => ?_, fun ha => ?_, fun ha => ?_⟩
  · rwa [← recordsDiffer_iff, Bool.not_eq_false] at ha
  all_goals rw [(recordsDiffer_iff rs).mpr ha, if_neg Bool.false_ne_true]
  · exact fun hb => if_pos (by simpa using hb)
  all_goals
    intro hb
    rw [if_neg (by simpa using hb)]
  · exact fun hf h0 => by rw [if_pos (by simpa using hf), if_pos (by simpa using h0)]
  · exact fun hf h0 => by rw [if_pos (by simpa using hf), if_neg (by simpa using h0)]
  all_goals
    intro hf
    rw [if_neg (by simpa using hf)]
  · exact fun ho => if_pos (by simpa using ho)
  all_goals
    intro ho hg
    rw [if_neg (by simpa using ho)]
  · exact if_pos hg
  · rw [if_neg (by simp [hg])]
    exact ⟨fun hlt => if_pos hlt, fun hlt => if_neg (by simp [hlt])⟩

/-! ### The decision taken -/

theorem exec_sealDecision {s : State} {n : Nat} {j : Job} {r : StepRun} (h : Steps s n j r) :
    exec (.sealDecision n) s = .next (if r.built.isSome && r.outcome = none && s.sealHeld j r then s.decideStep n j r else s) := by
  obtain ⟨hj, hr, hm⟩ := h
  rw [show exec (.sealDecision n) s = execSealDecision n s from rfl, execSealDecision, hj]
  dsimp only
  rw [hr]
  simp [whenDue, hm]

theorem exec_sealTimeout {s : State} {n : Nat} {j : Job} {r : StepRun} (h : Steps s n j r) :
    exec (.sealTimeout n) s = .next (if r.built.isSome && r.outcome = none && !s.sealHeld j r then
      (s.reach (r.built.getD 0 + BitVec.ofNat 64 (500 * ticksMs))).faultAtelier j.atelier 0x0402 (some r.step) (some j.ctx) [0xFFFFFFF0, n] else s) := by
  obtain ⟨hj, hr, hm⟩ := h
  rw [show exec (.sealTimeout n) s = execSealTimeout n s from rfl, execSealTimeout, hj]
  dsimp only
  rw [hr]
  simp [whenDue, hm]

/-- Time alone decides nothing of an atelier's fault. -/
theorem State.reach_mayFault {s : State} {a : Nat} (h : MayFault s a) (t : Word64) : MayFault (s.reach t) a := ⟨h.sound, h.held, h.alive⟩

theorem SealsOnly.mayFault {s t : State} (h : SealsOnly s t) {a : Nat} (hmay : MayFault s a) : MayFault t a := by
  rw [h]
  exact ⟨hmay.sound, hmay.held, hmay.alive⟩

theorem State.tellPartner_sendsOnly (s : State) (j : Job) (r : StepRun) : SendsOnly s (s.tellPartner j r) :=
  SendsOnly.foldl (fun _ _ => SendsOnly.foldl (fun _ _ => State.sendPacket_sendsOnly ..) _ _) _ s

theorem State.beginStop_sealsOnly (s : State) (n : Nat) : SealsOnly s (s.beginStop n) := by
  unfold State.beginStop
  split <;> rfl

/-- The begin of a stop says no more of a job than since when it stops. -/
theorem State.beginStop_find {s : State} {n : Nat} {j : Job} (hj : SMap.find? s.jobs n = some j) :
    ∃ x, SMap.find? (s.beginStop n).jobs n = some { j with stopSince := x } := by
  unfold State.beginStop
  split
  · exact ⟨_, by rw [State.onJob_find, if_pos rfl, hj, Option.map_some]⟩
  · exact ⟨_, hj⟩

/-- A run as its decision leaves it (R220, R221). -/
def StepRun.decided (r : StepRun) (v : Verdict) (fails : Nat) : StepRun :=
  { r with outcome := some v.outcome, factor := v.factor, gnorm := v.gnorm, rfail0 := if r.attempt = 0 then fails else r.rfail0 }

/-- The state with the decision told and written. -/
def State.sealTold (s : State) (n : Nat) (j : Job) (r : StepRun) : State :=
  (s.tellPartner j r).onRun n fun q =>
    q.decided (decideSeal (s.sealRecords j r) j.nmem r.k r.attempt j.clip) ((s.sealRecords j r).map fun x => bitsIn x 224 32).sum

theorem State.decideStep_eq (s : State) (n : Nat) (j : Job) (r : StepRun) : s.decideStep n j r =
    if (decideSeal (s.sealRecords j r) j.nmem r.k r.attempt j.clip).outcome = .fault then
      (s.sealTold n j r).faultAtelier j.atelier 0x0430 (some r.step) (some j.ctx) [n] else (s.sealTold n j r).beginStop n := rfl

theorem State.sealTold_sealsOnly (s : State) (n : Nat) (j : Job) (r : StepRun) : SealsOnly s (s.sealTold n j r) :=
  (s.tellPartner_sendsOnly j r).sealsOnly.trans (State.onRun_sealsOnly ..)

section
variable {s : State} {n : Nat} {j : Job} {r : StepRun}

theorem sealDecision_settles (h : Steps s n j r) (hbuilt : r.built.isSome = true) (hnone : r.outcome = none) (hheld : s.sealHeld j r = true) :
    let v := decideSeal (s.sealRecords j r) j.nmem r.k r.attempt j.clip
    v.outcome ≠ .fault → ∃ t, exec (.sealDecision n) s = .next t ∧
      (JobNow t n fun k => k.committed = j.committed ∧ ∃ q, k.run = some q ∧ q.outcome = some v.outcome ∧ q.factor = v.factor ∧ q.gnorm = v.gnorm ∧ q.step = r.step) ∧
      t = { s with jobs := t.jobs, ports := t.ports, tags := t.tags } := by
  intro v hv
  have htold : SMap.find? (s.sealTold n j r).jobs n = some { j with run := some (r.decided v _) } :=
    State.onRun_find (by rw [(s.tellPartner_sendsOnly j r).aside.jobs, h.listed]) h.run _
  obtain ⟨x, hx⟩ := State.beginStop_find htold
  refine ⟨_, exec_sealDecision h, ?_⟩
  rw [if_pos (by simp [hbuilt, hnone, hheld]), State.decideStep_eq, if_neg hv]
  exact ⟨⟨_, hx, rfl, _, rfl, rfl, rfl, rfl, rfl⟩, (s.sealTold_sealsOnly n j r).trans (State.beginStop_sealsOnly ..)⟩

theorem sealDecision_faults (h : Steps s n j r) (hbuilt : r.built.isSome = true) (hnone : r.outcome = none) (hheld : s.sealHeld j r = true)
    (hv : (decideSeal (s.sealRecords j r) j.nmem r.k r.attempt j.clip).outcome = .fault) (hmay : MayFault s j.atelier) :
    ∃ t, exec (.sealDecision n) s = .next t ∧ (t.atelier j.atelier).faulted = true ∧ (t.atelier j.atelier).fcode = BitVec.ofNat 16 0x0430 := by
  refine ⟨_, exec_sealDecision h, ?_⟩
  rw [if_pos (by simp [hbuilt, hnone, hheld]), State.decideStep_eq, if_pos hv]
  exact State.faultAtelier_faults ((s.sealTold_sealsOnly n j r).mayFault hmay) ..

theorem sealTimeout_faults (h : Steps s n j r) (hbuilt : r.built.isSome = true) (hnone : r.outcome = none) (hheld : s.sealHeld j r = false)
    (hmay : MayFault s j.atelier) :
    ∃ t, exec (.sealTimeout n) s = .next t ∧ (t.atelier j.atelier).faulted = true ∧ (t.atelier j.atelier).fcode = BitVec.ofNat 16 0x0402 := by
  refine ⟨_, exec_sealTimeout h, ?_⟩
  rw [if_pos (by simp [hbuilt, hnone, hheld])]
  exact State.faultAtelier_faults (State.reach_mayFault hmay _) ..

end

/-! ### The actions up to the step's end -/

theorem exec_sealActions {s : State} {n : Nat} {j : Job} {r : StepRun} (h : Steps s n j r) (upset : Option Nat) :
    exec (.sealActions ⟨n, upset⟩) s = .next (r.outcome.elim s fun o => if j.holdsCores && !s.capturing n && s.aheadStopped n j r then
      (if o.runsRoutine j r then s.upsetRoutine n j (weightCores (s.imageOf n)) upset else s).act n j r o else s) := by
  obtain ⟨hj, hr, hm⟩ := h
  rw [show exec (.sealActions ⟨n, upset⟩) s = execSealActions ⟨n, upset⟩ s from rfl, execSealActions, hj]
  dsimp only
  rw [hr]
  cases ho : r.outcome with
  | none => simp [ho]
  | some o => simp [ho, whenDue, hm]

theorem sealActions_wait {s : State} {n : Nat} {j : Job} {r : StepRun} (h : Steps s n j r) (upset : Option Nat)
    (hwaits : s.capturing n = true ∨ j.holdsCores = false) : exec (.sealActions ⟨n, upset⟩) s = .next s := by
  have hnotDue : ¬(j.holdsCores && !s.capturing n && s.aheadStopped n j r) = true := by rcases hwaits with hw | hw <;> simp [hw]
  rw [exec_sealActions h]
  cases r.outcome with
  | none => rfl
  | some o => exact congrArg _ (if_neg hnotDue)

theorem State.raiseEpoch_aside (s : State) (k : Nat) : Aside s (s.raiseEpoch k) := by
  unfold State.raiseEpoch
  dsimp only
  exact .ite (State.setCore_aside ..) ((State.setCore_aside ..).trans (State.log_aside ..))

/-- Between the two states no atelier has changed, and the job no more than in since when it stops. -/
structure Stops (n : Nat) (s t : State) : Prop where
  ateliers : t.ateliers = s.ateliers
  job : ∀ j, SMap.find? s.jobs n = some j → ∃ x, SMap.find? t.jobs n = some { j with stopSince := x }

theorem Stops.refl {n : Nat} (s : State) : Stops n s s := ⟨rfl, fun j hj => ⟨j.stopSince, hj⟩⟩

theorem Stops.of_aside {n : Nat} {s t u : State} (h : Stops n s t) (k : Aside t u) : Stops n s u := by
  refine ⟨k.ateliers.trans h.ateliers, ?_⟩
  rw [k.jobs]
  exact h.job

theorem State.endStop_stops (s : State) (n k : Nat) : Stops n s (s.endStop n k) := by
  have hends : Stops n s (s.onJob n fun j => { j with stopSince := none }) :=
    ⟨rfl, fun j hj => ⟨none, by rw [State.onJob_find, if_pos rfl, hj, Option.map_some]⟩⟩
  unfold State.endStop
  split
  · split
    · exact .refl s
    dsimp only
    split
    · exact hends.of_aside (State.log_aside ..)
    · exact hends
  · exact .refl s

theorem State.discardAhead_stops (s : State) (n : Nat) (j : Job) (r : StepRun) : Stops n s (s.discardAhead n j r) := by
  unfold State.discardAhead
  split
  · refine (s.endStop_stops n _).of_aside (Aside.foldl (fun t k => ?_) _ _)
    dsimp only
    exact .ite ((t.raiseEpoch_aside k).trans (State.setCore_aside ..)) (.refl t)
  · exact .refl s

section
variable (s : State) (n : Nat) (j : Job) (r : StepRun) (a : Nat)

theorem State.restoreLayer_spares (d : Bytes) (step : Nat) : Spares a s (s.restoreLayer n j d step) := by
  unfold State.restoreLayer
  exact Spares.trans (Spares.foldl (fun t i => t.routine_spares n j a _ _ _ (t.storeWeights_spares ..)) _ s) (State.writeCopies_spares ..)

theorem State.restoreAll_spares : Spares a s (s.restoreAll n j r) :=
  Spares.foldl (fun t d => t.restoreLayer_spares n j a d r.step) _ s

theorem State.applyLayer_spares (f : Nat) (d : Bytes) : Spares a s (s.applyLayer n j r f d) := by
  have hupdated := s.updateLayer_spares n j a d r.step r.k f ⟨false, true, true⟩
  exact .ite (hupdated.trans ((State.log_aside ..).spares a)) hupdated

theorem State.applyAll_spares (f : Nat) (keep : Bool) : Spares a s (s.applyAll n j r f keep) :=
  Spares.foldl (fun t _ => .ite (t.updateLayer_spares ..) (t.applyLayer_spares ..)) _ s

theorem State.turnSlots_spares : Spares a s (s.turnSlots n j) :=
  .ite (.refl s) (Spares.foldl (fun t _ => t.jobStore_spares ..) _ s)

theorem State.resetFactors_spares (x : Nat × Bytes) : Spares a s (s.resetFactors n j x) :=
  (s.jobStore_spares n j a ..).trans (State.jobStore_spares ..)

/-- The low-rank layers that are reduced again (R255). -/
def State.lowAgain : List (Nat × Bytes) :=
  j.lowrank.filter fun x => j.layers.any fun d => layerKind d ≠ 3 && layerId d = lrLayer x.2 && (s.failedChunks j r).contains (layerChunk d)

/-- The actions of an outcome after the run-ahead is discarded, up to the end of the step, or up to the begin of its second attempt (R221). -/
def State.actWork (u : State) (o : Outcome) : State := match o with
  | .fault => u
  | .rereduce =>
    let t := u.restoreAll n j r
    if (t.atelier j.atelier).faulted then t else (s.lowAgain j r).foldl (fun t x => t.resetFactors n j x) t
  | .commit => (u.applyAll n j r one32 true).turnSlots n j
  | .clip => ((u.restoreAll n j r).applyAll n j r r.factor false).turnSlots n j
  | .skipNonfinite => (u.restoreAll n j r).log 0x0134 (some j.atelier) (some r.step) (some j.ctx) [n]
  | .skipResidue => (u.restoreAll n j r).log 0x0230 (some j.atelier) (some r.step) (some j.ctx) [n, (s.failedChunks j r).headD 0]

theorem State.actWork_spares (u : State) (o : Outcome) : Spares a u (s.actWork n j r u o) := by
  have hrestored := u.restoreAll_spares n j r a
  cases o with
  | fault => exact .refl u
  | rereduce => exact hrestored.trans (.ite (.refl _) (Spares.foldl (fun t x => t.resetFactors_spares n j a x) _ _))
  | commit => exact (u.applyAll_spares n j r a one32 true).trans (State.turnSlots_spares ..)
  | clip => exact hrestored.trans ((State.applyAll_spares ..).trans (State.turnSlots_spares ..))
  | skipNonfinite => exact hrestored.trans ((State.log_aside _ 0x0134 (some j.atelier) (some r.step) (some j.ctx) [n]).spares a)
  | skipResidue => exact hrestored.trans ((State.log_aside _ 0x0230 (some j.atelier) (some r.step) (some j.ctx) [n, (s.failedChunks j r).headD 0]).spares a)

/-- A run at the begin of its second attempt (R221, R251). -/
def StepRun.secondAttempt (again : NatSet) : StepRun :=
  { r with attempt := 1, late := true, ahead := false, applied := [], rfail := 0, counted := [], fails := [], overflow := false, built := none,
           records := [], bundled := false, outcome := none, again := again }

/-- What the engines hold of a step's first attempt, dropped (R251). -/
def State.dropAttempt (s : State) (step : Nat) : State :=
  { s with reductions := s.reductions.map fun (p : Nat × Reduction) =>
      (p.1, ({ p.2 with inputs := p.2.inputs.filter fun h => !(h.input.job = n && h.input.step = step && h.input.attempt = 0) } : Reduction)) }

/-- The second attempt begun: the failed chunks are sent again (R221, R251). -/
def State.reduceAgain (s : State) (again : NatSet) : State :=
  (again.foldl (fun (s : State) c => s.resend n j r.step c) ((s.onRun n fun q => q.secondAttempt again).dropAttempt n r.step)).releaseSeal n

theorem State.act_rereduce : s.act n j r .rereduce = (s.actWork n j r (s.discardAhead n j r) .rereduce).reduceAgain n j r (s.failedChunks j r) := rfl

theorem State.act_ends {o : Outcome} (hfault : o ≠ .fault) (hagain : o ≠ .rereduce) : s.act n j r o =
    if ((s.actWork n j r (s.discardAhead n j r) o).atelier j.atelier).faulted then s.actWork n j r (s.discardAhead n j r) o
    else (s.actWork n j r (s.discardAhead n j r) o).endStep n r o := by
  cases o with
  | fault => exact absurd rfl hfault
  | rereduce => exact absurd rfl hagain
  | commit | clip | skipNonfinite | skipResidue => rfl

/-- What the actions find of the job where nothing has faulted its atelier. -/
theorem State.actWork_find {s : State} {n : Nat} {j : Job} {r : StepRun} {o : Outcome} (hj : SMap.find? s.jobs n = some j)
    (hf : ((s.actWork n j r (s.discardAhead n j r) o).atelier j.atelier).faulted = false) :
    ∃ x k, SMap.find? (s.actWork n j r (s.discardAhead n j r) o).jobs n = some k ∧ Job.Recounted { j with stopSince := x } k := by
  obtain ⟨x, hx⟩ := (s.discardAhead_stops n j r).job j hj
  obtain ⟨k, hk, hjk⟩ := (s.actWork_spares n j r j.atelier _ o).job hf n _ hx rfl
  exact ⟨x, k, hk, hjk⟩

theorem State.actWork_halted {s : State} {n : Nat} {j : Job} {r : StepRun} {o : Outcome} (h : (s.atelier j.atelier).faulted = true) :
    (s.actWork n j r (s.discardAhead n j r) o).atelier j.atelier = s.atelier j.atelier := by
  have hstopped : (s.discardAhead n j r).atelier j.atelier = s.atelier j.atelier :=
    congrArg (SMap.get AtelierState.idle · j.atelier) (s.discardAhead_stops n j r).ateliers
  rw [(s.actWork_spares n j r j.atelier _ o).halted (by rw [hstopped, h]), hstopped]

end

/-! ### Seal packets released -/

theorem State.takeSeals_sealsOnly (n : Nat) (j : Job) (ps : List CollPacket) (s : State) : SealsOnly s (ps.foldl (fun s p => s.takeSeal n j p) s) :=
  foldl_related SealsOnly.refl SealsOnly.trans (fun s p => s.takeSeal_sealsOnly n j p) ps s

theorem State.releaseSeal_ateliers (s : State) (n : Nat) : (s.releaseSeal n).ateliers = s.ateliers := by
  unfold State.releaseSeal
  split
  · rfl
  dsimp only
  rw [(State.takeSeals_sealsOnly ..).trans (State.bundleSeal_sealsOnly _ n)]

/-- Of a job that runs no step, seal packets change nothing. -/
theorem State.releaseSeal_jobs_of_idle {s : State} {n : Nat} {j : Job} (hj : SMap.find? s.jobs n = some j) (hr : j.run = none) :
    (s.releaseSeal n).jobs = s.jobs := by
  have hnow (l : List CollPacket) : (l.partition (sealEarly none)).2 = [] := by simp [List.partition_eq_filter_filter, sealEarly]
  unfold State.releaseSeal
  rw [hj]
  dsimp only
  rw [hr, hnow, List.foldl_nil, State.bundleSeal]
  dsimp only
  rw [hj]
  dsimp only
  rw [hr]

/-- Of a job, seal packets change no more than its run. -/
theorem State.releaseSeal_run {s : State} {n : Nat} {j : Job} (hj : SMap.find? s.jobs n = some j) :
    ∃ x, SMap.find? (s.releaseSeal n).jobs n = some { j with run := x } := by
  rcases hr : j.run with _ | r
  · exact ⟨none, by rw [State.releaseSeal_jobs_of_idle hj hr, hj, ← hr]⟩
  · obtain ⟨⟨q, hq, -⟩, -⟩ := State.releaseSeal_find hj hr
    exact ⟨_, hq⟩

/-! ### The second reduction -/

theorem State.resend_aside (s : State) (n : Nat) (j : Job) (step chunk : Nat) : Aside s (s.resend n j step chunk) := by
  unfold State.resend
  dsimp only
  split <;> exact ⟨rfl, rfl⟩

section
variable (s : State) (n : Nat) (j : Job) (r : StepRun) (again : NatSet)

theorem State.reduceAgain_ateliers : (s.reduceAgain n j r again).ateliers = s.ateliers :=
  (State.releaseSeal_ateliers ..).trans (Aside.foldl (fun t c => t.resend_aside n j r.step c) again _).ateliers

theorem State.reduceAgain_find {s : State} {n : Nat} {k : Job} {q : StepRun} (hk : SMap.find? s.jobs n = some k) (hq : k.run = some q) :
    ∃ p, SMap.find? (s.reduceAgain n j r again).jobs n = some { k with run := some p } ∧ (q.secondAttempt again).Heard p := by
  have hsent : SMap.find? (again.foldl (fun (s : State) c => s.resend n j r.step c)
      ((s.onRun n fun q => q.secondAttempt again).dropAttempt n r.step)).jobs n = some { k with run := some (q.secondAttempt again) } := by
    rw [(Aside.foldl (fun t c => t.resend_aside n j r.step c) again _).jobs]
    exact State.onRun_find hk hq _
  exact (State.releaseSeal_find hsent rfl).1
end

/-! ### The end of a step (R221, R230) -/

/-- What a job counts of its steps: the last committed, the last with an outcome, t, k, the clean steps, the steps done. -/
def Job.tally (j : Job) : Option Nat × Option Nat × Nat × Int × Nat × Nat := (j.committed, j.sealed, j.t, j.k, j.clean, j.done)

theorem Job.Recounted.tally {j k : Job} (h : j.Recounted k) : k.tally = j.tally := by
  rw [h]
  rfl

/-- Between the two states no atelier has changed, and the job counts what it counted. -/
structure Tallies (n : Nat) (s t : State) : Prop where
  ateliers : t.ateliers = s.ateliers
  job : ∀ j, SMap.find? s.jobs n = some j → ∃ k, SMap.find? t.jobs n = some k ∧ k.tally = j.tally

theorem Tallies.trans {n : Nat} {s t u : State} (h : Tallies n s t) (k : Tallies n t u) : Tallies n s u := by
  refine ⟨k.ateliers.trans h.ateliers, fun j hj => ?_⟩
  obtain ⟨j1, hj1, h1⟩ := h.job j hj
  obtain ⟨j2, hj2, h2⟩ := k.job j1 hj1
  exact ⟨j2, hj2, h2.trans h1⟩

theorem Recounts.tallies {s t : State} (h : Recounts s t) (n : Nat) : Tallies n s t := by
  refine ⟨h.ateliers, fun j hj => ?_⟩
  obtain ⟨k, hk, hjk⟩ := h.job n j hj
  exact ⟨k, hk, hjk.tally⟩

theorem Tallies.refl {n : Nat} (s : State) : Tallies n s s := (Recounts.refl s).tallies n

theorem State.onJob_tallies (s : State) (n : Nat) {f : Job → Job} (hf : ∀ j : Job, (f j).tally = j.tally) : Tallies n s (s.onJob n f) :=
  ⟨rfl, fun j hj => ⟨f j, by rw [State.onJob_find, if_pos rfl, hj, Option.map_some], hf j⟩⟩

theorem State.settleOver_tallies (s : State) (n : Nat) : Tallies n s (s.settleOver n) := by
  unfold State.settleOver
  split
  · split
    · refine Tallies.trans (s.onJob_tallies n ?_) ((State.log_aside ..).recounts.tallies n)
      exact fun _ => rfl
    · exact .refl s
  · exact .refl s

theorem State.finish_tallies (s : State) (n c status result : Nat) : Tallies n s (s.finish c status result) :=
  (State.endCommand_recounts ..).tallies n

theorem State.endRun_tallies (s : State) (n : Nat) : Tallies n s (s.endRun n) := by
  unfold State.endRun
  split
  · exact .refl s
  extract_lets s0 s1 s2
  have h0 : Aside s s0 := .ite ⟨rfl, rfl⟩ (.refl s)
  have h1 : Tallies n s s1 := (h0.recounts.tallies n).trans ((s0.settleOver_tallies n).trans (State.onJob_tallies _ n fun _ => rfl))
  have h2 : Tallies n s s2 := by
    unfold s2
    split
    · exact h1.trans (State.finish_tallies ..)
    · exact h1
  split
  · exact h2.trans (State.finish_tallies ..)
  · exact h2

theorem State.releaseSeal_tallies (s : State) (n : Nat) : Tallies n s (s.releaseSeal n) := by
  refine ⟨s.releaseSeal_ateliers n, fun j hj => ?_⟩
  obtain ⟨x, hx⟩ := State.releaseSeal_run hj
  exact ⟨_, hx, rfl⟩

theorem State.dropStep_aside (s : State) (n step : Nat) : Aside s (s.dropStep n step) := ⟨rfl, rfl⟩

/-- A job's counters after an outcome (R207, R226, R227, R230). -/
def Job.stepped (j : Job) (r : StepRun) (o : Outcome) : Job :=
  { (if o = .commit || o = .clip then j.committedStep r else j.skippedStep r (o = .skipNonfinite)) with sealed := some r.step, done := j.done + 1 }

theorem Job.stepped_of_good (j : Job) (r : StepRun) {o : Outcome} (h : o = .commit ∨ o = .clip) :
    j.stepped r o = { j.committedStep r with sealed := some r.step, done := j.done + 1 } := by
  rcases h with rfl | rfl <;> rfl

theorem Job.stepped_of_skip (j : Job) (r : StepRun) {o : Outcome} (h : o ≠ .commit ∧ o ≠ .clip) :
    j.stepped r o = { j.skippedStep r (o = .skipNonfinite) with sealed := some r.step, done := j.done + 1 } := by
  rw [Job.stepped, if_neg (by simp [h.1, h.2])]

/-- Neither the references of a job nor a stop of its cores count among its steps. -/
theorem Job.stepped_tally {j k : Job} {x : Option Word64} (h : Job.Recounted { j with stopSince := x } k) (r : StepRun) (o : Outcome) :
    (k.stepped r o).tally = (j.stepped r o).tally := by
  rw [h]
  cases o with
  | skipNonfinite | skipResidue | rereduce | fault | commit | clip => rfl

/-- The end of a step that faults nothing: what the job counts after the outcome. -/
theorem State.endStep_find {s : State} {n : Nat} {k : Job} {r : StepRun} {o : Outcome} (hk : SMap.find? s.jobs n = some k)
    (hf : ((s.endStep n r o).atelier k.atelier).faulted = false) :
    ∃ q, SMap.find? (s.endStep n r o).jobs n = some q ∧ q.tally = (k.stepped r o).tally := by
  revert hf
  unfold State.endStep
  rw [hk]
  dsimp -zeta only
  extract_lets good total counts news raised s1 j1 limit s2 records s3 s4 s5
  intro hf
  have h1 : Aside s s1 := Aside.foldl (fun _ _ => State.log_aside ..) raised s
  have h2 : Aside s s2 := h1.trans (.ite (State.log_aside ..) (.refl s1))
  have h3 : Spares k.atelier s s3 := (h2.spares _).trans (State.jobStore_spares ..)
  have h5 : Tallies n s4 s5 := ((s4.dropStep_aside n r.step).recounts.tallies n).trans (State.releaseSeal_tallies ..)
  have hend : Tallies n s4 (if (k.stopping.isSome || decide (k.asked ≤ k.done + 1)) = true then s5.endRun n else s5) := by
    split
    · exact h5.trans (s5.endRun_tallies n)
    · exact h5
  have hf3 : (s3.atelier k.atelier).faulted = false := by
    rw [← hf]
    exact (congrArg (fun x => (SMap.get AtelierState.idle x k.atelier).faulted) hend.ateliers).symm
  obtain ⟨m, hm, hkm⟩ := h3.job hf3 n k hk rfl
  obtain ⟨q, hq, hqt⟩ := hend.job _ (by rw [State.onJob_find, if_pos rfl, hm, Option.map_some])
  have hdone : m.done = k.done := by rw [hkm]
  refine ⟨q, hq, hqt.trans ?_⟩
  simp only [Job.tally, hdone]
  rfl

/-! ### What follows each outcome -/

section
variable {s : State} {n : Nat} {j : Job} {r : StepRun}

/-- After an outcome that ends the step, the job counts it (R221, R227). -/
theorem State.act_tally (h : Steps s n j r) {o : Outcome} (hfault : o ≠ .fault) (hagain : o ≠ .rereduce)
    (hf : ((s.act n j r o).atelier j.atelier).faulted = false) : JobNow (s.act n j r o) n fun k => k.tally = (j.stepped r o).tally := by
  rcases hw : ((s.actWork n j r (s.discardAhead n j r) o).atelier j.atelier).faulted
  · obtain ⟨x, k, hk, hjk⟩ := State.actWork_find h.listed hw
    rw [State.act_ends s n j r hfault hagain, hw, if_neg Bool.false_ne_true] at hf ⊢
    obtain ⟨q, hq, hqt⟩ := State.endStep_find hk (by rwa [hjk.atelier])
    exact ⟨q, hq, hqt.trans (Job.stepped_tally hjk r o)⟩
  · rw [State.act_ends s n j r hfault hagain, hw, if_pos rfl, hw] at hf
    cases hf

/-- A committed or clipped step is counted (R221, R227). -/
theorem State.act_commits (h : Steps s n j r) {o : Outcome} (hgood : o = .commit ∨ o = .clip)
    (hf : ((s.act n j r o).atelier j.atelier).faulted = false) :
    JobNow (s.act n j r o) n fun k => k.committed = some r.step ∧ k.sealed = some r.step ∧ k.t = j.t + 1 ∧ k.done = j.done + 1 := by
  obtain ⟨k, hk, htally⟩ := State.act_tally h (by rcases hgood with rfl | rfl <;> decide) (by rcases hgood with rfl | rfl <;> decide) hf
  rw [Job.stepped_of_good j r hgood] at htally
  simp only [Job.tally, Job.committedStep, Prod.mk.injEq] at htally
  obtain ⟨hcommitted, hsealed, ht, -, -, hdone⟩ := htally
  exact ⟨k, hk, hcommitted, hsealed, ht, hdone⟩

/-- A step skipped for a non-finite value lowers k and begins the clean steps anew (R221, R227). -/
theorem State.act_skips_nonfinite (h : Steps s n j r) (hf : ((s.act n j r .skipNonfinite).atelier j.atelier).faulted = false) :
    JobNow (s.act n j r .skipNonfinite) n fun k =>
      k.committed = j.committed ∧ k.sealed = some r.step ∧ k.t = j.t ∧ k.k = max (r.k - 1) (-32) ∧ k.clean = 0 ∧ k.done = j.done + 1 := by
  obtain ⟨k, hk, htally⟩ := State.act_tally h (by decide) (by decide) hf
  rw [Job.stepped_of_skip j r (by decide)] at htally
  simpa [Job.tally, Job.skippedStep, JobNow, hk] using htally

/-- A step skipped for its residues leaves the clean steps as they are (R221, R227). -/
theorem State.act_skips_residue (h : Steps s n j r) (hf : ((s.act n j r .skipResidue).atelier j.atelier).faulted = false) :
    JobNow (s.act n j r .skipResidue) n fun k =>
      k.committed = j.committed ∧ k.sealed = some r.step ∧ k.t = j.t ∧ k.k = j.kAt (r.step + 1) ∧ k.clean = j.clean ∧ k.done = j.done + 1 := by
  obtain ⟨k, hk, htally⟩ := State.act_tally h (by decide) (by decide) hf
  rw [Job.stepped_of_skip j r (by decide)] at htally
  simpa [Job.tally, Job.skippedStep, JobNow, hk] using htally

/-- A second reduction begins late, with nothing applied and nothing decided (R221, R251). -/
theorem State.act_reduces_again (h : Steps s n j r) (hf : ((s.act n j r .rereduce).atelier j.atelier).faulted = false) :
    JobNow (s.act n j r .rereduce) n fun k => k.committed = j.committed ∧ ∃ q, k.run = some q ∧ q.step = r.step ∧ q.attempt = 1 ∧ q.late = true ∧
      q.applied = [] ∧ q.outcome = none ∧ q.rfail = 0 ∧ q.fails = [] := by
  rw [State.act_rereduce] at hf ⊢
  rw [State.atelier, State.reduceAgain_ateliers] at hf
  obtain ⟨x, k, hk, hjk⟩ := State.actWork_find h.listed hf
  obtain ⟨p, hp, _, _, _, _, rfl⟩ := State.reduceAgain_find j r (s.failedChunks j r) hk (hjk.run.trans h.run)
  exact ⟨_, hp, hjk.committed, _, rfl, rfl, rfl, rfl, rfl, rfl, rfl, rfl⟩

/-- Once the atelier is faulted, the actions leave its state as it is. -/
theorem State.act_halted {o : Outcome} (h : (s.atelier j.atelier).faulted = true) : (s.act n j r o).atelier j.atelier = s.atelier j.atelier := by
  have hw := State.actWork_halted (n := n) (r := r) (o := o) h
  by_cases hfault : o = .fault
  · rw [hfault]
    rfl
  by_cases hagain : o = .rereduce
  · rw [hagain, State.act_rereduce, State.atelier, State.reduceAgain_ateliers, ← State.atelier, ← hagain, hw]
  · rw [State.act_ends s n j r hfault hagain, hw, h, if_pos rfl, hw]

theorem sealActions_carriesOut (h : Steps s n j r) (hc : j.holdsCores = true) (hcap : s.capturing n = false) (hstop : s.aheadStopped n j r = true)
    {o : Outcome} (ho : r.outcome = some o) : exec (.sealActions ⟨n, none⟩) s = .next (s.act n j r o) := by
  rw [exec_sealActions h, ho, Option.elim_some, if_pos (by simp [hc, hcap, hstop]), State.upsetRoutine, Option.filter_none, ite_self]

theorem sealActions_faults (h : Steps s n j r) {o : Outcome} {k : Nat} (hc : j.holdsCores = true) (hcap : s.capturing n = false)
    (hstop : s.aheadStopped n j r = true) (ho : r.outcome = some o) (hruns : o.runsRoutine j r = true)
    (hk : (weightCores (s.imageOf n)).contains k = true) (hmay : MayFault s j.atelier) :
    ∃ t, exec (.sealActions ⟨n, some k⟩) s = .next t ∧ (t.atelier j.atelier).faulted = true ∧ (t.atelier j.atelier).fcode = BitVec.ofNat 16 0x0410 := by
  obtain ⟨hfaulted, hcode⟩ := State.upsetRoutine_faults hk hmay n
  refine ⟨_, exec_sealActions h _, ?_⟩
  rw [ho, Option.elim_some, if_pos (by simp [hc, hcap, hstop]), if_pos hruns, State.act_halted hfaulted]
  exact ⟨hfaulted, hcode⟩

end

/-- Settles O51: the chain of R220, then decision, timeout and the actions of each outcome. -/
theorem seals : Obligations.Seals := by
  unfold Obligations.Seals
  refine ⟨decideSeal_table, fun s n j r h => ?_⟩
  refine ⟨fun hbuilt hnone hheld => sealDecision_settles h hbuilt hnone hheld, fun hbuilt hnone hheld => sealDecision_faults h hbuilt hnone hheld,
    fun hbuilt hnone hheld => sealTimeout_faults h hbuilt hnone hheld, ?_,
    fun o k hc hcap hstop ho => sealActions_faults h hc hcap hstop ho, fun upset => sealActions_wait h upset⟩
  intro hc hcap hstop o ho hf
  refine ⟨_, sealActions_carriesOut h hc hcap hstop ho, ?_, ?_, ?_, ?_⟩
  · exact fun hgood => State.act_commits h hgood hf
  · rintro rfl
    exact State.act_skips_nonfinite h hf
  · rintro rfl
    exact State.act_skips_residue h hf
  · rintro rfl
    exact State.act_reduces_again h hf

end Sys2Proof.Machine
end

section
/-!
PROOF. What the reduction engines and collectives share (O52, O53): what endures while packets are queued, memories written and work discarded,
and what a fold of sends has queued.
-/
namespace Sys2Proof

theorem SMap.get_map_values {α : Type} (d : α) (f : α → α) (hd : f d = d) (k : Nat) (m : SMap α) :
    SMap.get d (m.map fun p => (p.1, f p.2)) k = f (SMap.get d m k) := by
  rw [SMap.get_eq_find?, SMap.get_eq_find?, SMap.find?_map_values]
  rcases SMap.find? m k with _ | v
  · exact hd.symm
  · rfl

end Sys2Proof

namespace Sys2Proof.Machine

open Sys2Proof.Claims

/-! ### What endures -/

/-- Between the two states what was queued for peers still waits, the ways to the peers are the same, no time has passed and no engine has
taken an input. -/
structure Endures (s t : State) : Prop where
  installation : t.installation = s.installation
  leases : t.leases = s.leases
  time : t.time = s.time
  link : ∀ p, (t.port p).state = (s.port p).state ∧ (t.port p).version = (s.port p).version
  queued : ∀ p vc w, w ∈ SMap.get [] (s.port p).queues vc → w ∈ SMap.get [] (t.port p).queues vc
  inputs : ∀ d, ∀ k ∈ (t.reduction d).inputs, k ∈ (s.reduction d).inputs

theorem Endures.refl (s : State) : Endures s s := ⟨rfl, rfl, rfl, fun _ => ⟨rfl, rfl⟩, fun _ _ _ h => h, fun _ _ h => h⟩

theorem Endures.trans {s t u : State} (h : Endures s t) (k : Endures t u) : Endures s u where
  installation := k.installation.trans h.installation
  leases := k.leases.trans h.leases
  time := k.time.trans h.time
  link p := ⟨(k.link p).1.trans (h.link p).1, (k.link p).2.trans (h.link p).2⟩
  queued p vc w hw := k.queued p vc w (h.queued p vc w hw)
  inputs d i hi := h.inputs d i (k.inputs d i hi)

theorem Endures.foldl {α : Type} {f : State → α → State} (hf : ∀ s x, Endures s (f s x)) (l : List α) (s : State) : Endures s (l.foldl f s) :=
  foldl_related Endures.refl Endures.trans hf l s

theorem Endures.ite {c : Prop} [Decidable c] {s t u : State} (ht : Endures s t) (hu : Endures s u) : Endures s (if c then t else u) := by
  split
  · exact ht
  · exact hu

theorem Endures.of_eq {s t : State} (installation : t.installation = s.installation) (leases : t.leases = s.leases) (time : t.time = s.time)
    (ports : t.ports = s.ports) (reductions : t.reductions = s.reductions) : Endures s t where
  installation := installation
  leases := leases
  time := time
  link p := by rw [State.port, ports]; exact ⟨rfl, rfl⟩
  queued p vc w hw := by rw [State.port, ports]; exact hw
  inputs d i hi := by rw [State.reduction, reductions] at hi; exact hi

section
variable {s t : State} (h : Endures s t)
include h

theorem Endures.gidx : t.gidx = s.gidx := by rw [State.gidx, h.installation, ← State.gidx]

theorem Endures.route (g : Nat) : t.route g = s.route g := by
  have hrail (pd : Nat) : t.railPort pd = s.railPort pd := by simp only [State.railPort, h.link]
  have hentry (p : Nat) : t.peerEntry p = s.peerEntry p := by rw [State.peerEntry, h.installation, ← State.peerEntry]
  simp only [State.route, State.onRail, hrail, hentry, h.gidx]
  rfl

theorem Endures.carries (p vc : Nat) : t.carries p vc = s.carries p vc := by rw [State.carries, (h.link p).2, ← State.carries]

theorem Endures.lnum (a : Nat) : t.lnum a = s.lnum a := by rw [State.lnum, State.lease, h.leases, ← State.lease, ← State.lnum]

theorem Endures.isPartner (j : Job) (g : Nat) : t.isPartner j g = s.isPartner j g := by rw [State.isPartner, h.installation, ← State.isPartner]
end

/-- What holds once a fold has come to one of its items holds at its end, where what each item does keeps it. -/
theorem foldl_of_mem {σ α : Type} {R : σ → σ → Prop} (hrefl : ∀ s, R s s) (htrans : ∀ {s t u}, R s t → R t u → R s u) {f : σ → α → σ}
    (hf : ∀ s x, R s (f s x)) {P : σ → Prop} (hP : ∀ t u, R t u → P t → P u) {x : α} :
    ∀ {l : List α}, x ∈ l → ∀ {s : σ}, (∀ t, R s t → P (f t x)) → P (l.foldl f s)
  | y :: l, hx, s, h => by
    rw [List.foldl_cons]
    rcases List.mem_cons.mp hx with rfl | hx
    · exact hP _ _ (foldl_related hrefl htrans hf l _) (h s (hrefl s))
    · exact foldl_of_mem hrefl htrans hf hP hx fun t ht => h t (htrans (hf s y) ht)

theorem Endures.foldl_of_mem {α : Type} {f : State → α → State} (hf : ∀ s x, Endures s (f s x)) {P : State → Prop}
    (hP : ∀ t u, Endures t u → P t → P u) {x : α} {l : List α} (hx : x ∈ l) {s : State} (h : ∀ t, Endures s t → P (f t x)) : P (l.foldl f s) :=
  Machine.foldl_of_mem Endures.refl Endures.trans hf hP hx h

/-! ### Packets queued -/

/-- A packet waits for a peer on a channel of a port, under a lease. -/
def State.Queued (t : State) (p vc peer lease : Nat) (k : Packet) : Prop :=
  ∃ w ∈ SMap.get [] (t.port p).queues vc, w.dst = peer ∧ w.lease = lease ∧ w.packet = k

theorem Endures.keeps {s t : State} (h : Endures s t) {p vc peer lease : Nat} {k : Packet} (hq : s.Queued p vc peer lease k) :
    t.Queued p vc peer lease k := by
  obtain ⟨w, hw, hk⟩ := hq
  exact ⟨w, h.queued p vc w hw, hk⟩

theorem State.Queued.waits {t : State} {p vc peer lease : Nat} {k : Packet} (h : t.Queued p vc peer lease k) :
    ∃ w ∈ SMap.get [] (t.port p).queues vc, w.dst = peer ∧ w.packet = k := by
  obtain ⟨w, hw, hdst, -, hk⟩ := h
  exact ⟨w, hw, hdst, hk⟩

theorem State.takeLinkTag_frame (s : State) (lease : Nat) : s.takeLinkTag lease = { s with tags := (s.takeLinkTag lease).tags } := by
  unfold State.takeLinkTag
  split <;> rfl

theorem State.sendPacket_endures (s : State) (peer vc ptype lease : Nat) (info : List (Nat × Nat × Nat)) (payload : Bytes) (seg : Option (Nat × Nat)) :
    Endures s (s.sendPacket peer vc ptype lease info payload seg) := by
  unfold State.sendPacket
  split
  · exact .refl s
  · next p _ =>
    dsimp only
    rw [s.takeLinkTag_frame]
    refine ⟨rfl, rfl, rfl, fun q => ?_, fun q c w hw => ?_, fun _ _ h => h⟩
    · rw [State.setPort_port]
      split
      · next h => rw [h]; exact ⟨rfl, rfl⟩
      · exact ⟨rfl, rfl⟩
    · rw [State.setPort_port]
      split
      · next h =>
        subst h
        rw [SMap.get_set]
        split
        · next h => exact List.mem_append_left _ (h ▸ hw)
        · exact hw
      · exact hw

/-- A packet sent waits for its peer, under the header and with the padding that R267 gives it. -/
theorem State.sendPacket_queues {s : State} {peer p vc : Nat} (hr : s.route peer = some p) (hc : s.carries p vc = true) (ptype lease : Nat)
    (info : List (Nat × Nat × Nat)) (payload : Bytes) (seg : Option (Nat × Nat)) : (s.sendPacket peer vc ptype lease info payload seg).Queued p vc peer lease
      ⟨packetHeader vc ptype (roundUp payload.length 64 / 64) s.gidx peer lease 0 0 info, padTo (roundUp payload.length 64) payload⟩ := by
  refine ⟨_, List.mem_of_getLast? (State.sendPacket_queued hr hc), rfl, rfl, ?_⟩
  rw [State.waiting, padTo_length]

/-! ### What discarded work leaves -/

theorem EndsOnly.endures {s t : State} (h : EndsOnly s t) : Endures s t := by
  rw [h.frame]
  exact .of_eq rfl rfl rfl rfl rfl

theorem LeavesOnly.endures {s t : State} (h : LeavesOnly s t) : Endures s t := by
  rw [show t = _ from h]
  exact .of_eq rfl rfl rfl rfl rfl

theorem State.store_endures (s : State) (ctx va : Nat) (bs : Bytes) : Endures s (s.store ctx va bs).state :=
  (s.store_storesOnly ctx va bs).leavesOnly.endures

theorem State.onCores_endures (s : State) (a : Nat) (f : Core → Core) : Endures s (s.onCores a f) :=
  Endures.foldl (f := fun s n => if s.holds a n then s.setCore n (f (s.core n)) else s) (fun s _ => .ite (.of_eq rfl rfl rfl rfl rfl) (.refl s)) _ s

theorem State.abortMembers_endures (s : State) (j : Job) (seq reason fprint step : Nat) : Endures s (s.abortMembers j seq reason fprint step) :=
  Endures.foldl (fun _ _ => State.sendPacket_endures ..) _ s

/-- An engine without what two tests pick out: the chunks it holds, and the keys of those it has taken in. -/
def Reduction.without (x : Reduction) (mine : HandOver → Bool) (ofJob : List Nat → Bool) : Reduction :=
  { arrivals := x.arrivals.filter (!mine ·), inputs := x.inputs.filter (fun h => !mine h.input), accepted := x.accepted.filter (!ofJob ·) }

theorem State.dropChunks_endures (s : State) (a : Nat) : Endures s (s.dropChunks a) := by
  refine ⟨rfl, rfl, rfl, fun _ => ⟨rfl, rfl⟩, fun _ _ _ h => h, fun d i hi => ?_⟩
  obtain ⟨mine, ofJob, hdrop⟩ : ∃ mine ofJob, (s.dropChunks a).reductions = s.reductions.map fun p => (p.1, p.2.without mine ofJob) := ⟨_, _, rfl⟩
  rw [State.reduction, hdrop, SMap.get_map_values _ (Reduction.without · mine ofJob) rfl] at hi
  exact (List.mem_filter.mp hi).1

theorem State.dropTag?_endures (s : State) (x : Option Nat) : Endures s (s.dropTag? x) := by
  cases x <;> exact .of_eq rfl rfl rfl rfl rfl

theorem State.dropSegments_endures (s : State) (a : Nat) : Endures s (s.dropSegments a) :=
  (Endures.foldl (f := fun s (g : Segment) => s.dropTag? g.tag) (fun s g => s.dropTag?_endures g.tag) _ s).trans (.of_eq rfl rfl rfl rfl rfl)

theorem State.dropRequests_endures (s : State) (a : Nat) : Endures s (s.dropRequests a) :=
  Endures.trans (t := { s with gathers := keepRequests a s.gathers, scatters := keepRequests a s.scatters }) (.of_eq rfl rfl rfl rfl rfl)
    (.foldl (fun s r => (s.leaveRows_leavesOnly r).endures) _ _)

theorem State.discardServing_endures (s : State) (a : Nat) : Endures s (s.discardServing a) :=
  (Endures.foldl (f := fun s (p : Nat × Job) => s.breakAll p.2) (fun s p => (s.breakAll_leavesOnly p.2).endures) _ s).trans (.of_eq rfl rfl rfl rfl rfl)

theorem State.abortWork_endures (s : State) (a code : Nat) : Endures s (s.abortWork a code) := by
  unfold State.abortWork
  dsimp only
  refine .trans (.foldl (fun t c => ?_) _ s) (.trans (.foldl (fun t p => ?_) _ _) (.of_eq rfl rfl rfl rfl rfl))
  · split
    · exact .ite (State.abortMembers_endures ..) (.refl t)
    · exact .refl t
  · split
    · exact .ite (State.abortMembers_endures ..) (.refl t)
    · exact .refl t

/-- What the discard rule leaves once the aborts are sent. -/
theorem State.discard_endures_abortWork (s : State) (a code : Nat) :
    Endures (((s.onCores a Core.halted).discardCommands a none).abortWork a code) (s.discard a code) := by
  unfold State.discard
  extract_lets s1 s2 s3 s4
  have h3 : Endures (s1.abortWork a code) s3 := ((State.dropChunks_endures ..).trans (State.dropSegments_endures ..)).trans
    ((State.dropRequests_endures ..).trans (State.discardServing_endures ..))
  clear_value s3
  have h4 : Endures s3 s4 := .of_eq rfl rfl rfl rfl rfl
  exact (h3.trans h4).trans (.of_eq rfl rfl rfl rfl rfl)

theorem State.discard_endures (s : State) (a code : Nat) : Endures s (s.discard a code) :=
  ((s.onCores_endures a _).trans (State.discardCommands_endsOnly ..).endures).trans ((State.abortWork_endures ..).trans (s.discard_endures_abortWork a code))

theorem State.faultAtelier_endures (s : State) (a code : Nat) (step ctx : Option Nat) (handles : List Nat) :
    Endures s (s.faultAtelier a code step ctx handles) := by
  rcases ha : s.faultHeld a
  · rw [State.faultAtelier_of_free ha]
    refine Endures.trans ?_ (State.discard_endures ..)
    exact .of_eq rfl rfl rfl rfl rfl
  · rw [State.faultAtelier_of_held ha]
    exact .of_eq rfl rfl rfl rfl rfl

theorem Store.settle_endures (x : Store) : Endures x.state x.settle := by
  refine Endures.foldl (fun t p => ?_) _ _
  split
  · exact Endures.trans (t := t.poisonLine p.1 p.2) (.of_eq rfl rfl rfl rfl rfl) (State.faultAtelier_endures ..)
  · exact .refl t

theorem State.jobStore_endures (s : State) (n : Nat) (j : Job) (va : Nat) (bs : Bytes) : Endures s (s.jobStore n j va bs) := by
  have hstored : Endures s (s.store j.ctx va bs).settle := (s.store_endures j.ctx va bs).trans (Store.settle_endures _)
  unfold State.jobStore
  dsimp only
  split
  · exact .refl s
  split
  · exact State.faultAtelier_endures ..
  split
  · exact hstored.trans (State.faultAtelier_endures ..)
  · exact hstored

/-! ### Runs of collectives -/

theorem CollRun.isOf_iff {x : CollRun} {n d step : Nat} : x.isOf n d step = true ↔ x.job = n ∧ x.desc = d ∧ x.step = step := by
  simp [CollRun.isOf, and_assoc]

theorem CollRun.isOf_self (x : CollRun) : x.isOf x.job x.desc x.step = true := CollRun.isOf_iff.mpr ⟨rfl, rfl, rfl⟩

/-- A run read back after one is written: the one written where it is of the key asked, else the one there before. -/
theorem State.putRun_find (s : State) (x : CollRun) (n d step : Nat) : (s.putRun x).collectives.find? (·.isOf n d step) =
    if x.isOf n d step then some x else s.collectives.find? (·.isOf n d step) := by
  unfold State.putRun
  dsimp only
  by_cases hx : x.isOf n d step = true
  · rw [if_pos hx]
    obtain ⟨rfl, rfl, rfl⟩ := CollRun.isOf_iff.mp hx
    split
    · next hany =>
      obtain ⟨y, hy, hkey⟩ := List.any_eq_true.mp hany
      rw [List.find?_map, show (fun y : CollRun => y.isOf x.job x.desc x.step) ∘ (fun y => if y.isOf x.job x.desc x.step = true then x else y) =
        fun y => y.isOf x.job x.desc x.step from funext fun y => by by_cases h : y.isOf x.job x.desc x.step = true <;> simp [h, hx]]
      rcases hf : s.collectives.find? (fun y => y.isOf x.job x.desc x.step) with _ | z
      · exact absurd hkey (List.find?_eq_none.mp hf y hy)
      · rw [hf, Option.map_some, if_pos (List.find?_some (p := fun y : CollRun => y.isOf x.job x.desc x.step) hf)]
    · next hany =>
      rw [List.find?_append, List.find?_eq_none.mpr fun y hy => fun h => hany (List.any_eq_true.mpr ⟨y, hy, h⟩)]
      simp [hx]
  · rw [if_neg hx]
    have hother {y : CollRun} (hy : y.isOf n d step = true) : ¬y.isOf x.job x.desc x.step = true := fun h => by
      obtain ⟨rfl, rfl, rfl⟩ := CollRun.isOf_iff.mp hy
      obtain ⟨h1, h2, h3⟩ := CollRun.isOf_iff.mp h
      exact hx (CollRun.isOf_iff.mpr ⟨h1.symm, h2.symm, h3.symm⟩)
    split
    · rw [List.find?_map, show (fun y : CollRun => y.isOf n d step) ∘ (fun y => if y.isOf x.job x.desc x.step = true then x else y) =
        fun y => y.isOf n d step from funext fun y => by
          by_cases h : y.isOf x.job x.desc x.step = true
          · have hy : ¬y.isOf n d step = true := fun hy => hother hy h
            simp [h, hx, hy]
          · simp [h]]
      rcases hf : s.collectives.find? (fun y => y.isOf n d step) with _ | z
      · rw [hf, Option.map_none]
      · rw [hf, Option.map_some, if_neg (hother (List.find?_some (p := fun y : CollRun => y.isOf n d step) hf))]
    · rw [List.find?_append, List.find?_cons_of_neg (p := fun y : CollRun => y.isOf n d step) hx, List.find?_nil, Option.or_none]

theorem State.collRun_isOf {s : State} {n d step : Nat} {x : CollRun} (h : s.collRun n d step = some x) : x.isOf n d step = true := by
  unfold State.collRun at h
  split at h
  · next hx =>
    cases h
    exact List.find?_some (p := fun y : CollRun => y.isOf n d step) hx
  · obtain ⟨c, -, rfl⟩ := Option.map_eq_some_iff.mp h
    exact CollRun.isOf_iff.mpr ⟨rfl, rfl, rfl⟩

theorem State.putRun_collRun (s : State) (x : CollRun) (n d step : Nat) : (s.putRun x).collRun n d step =
    if x.isOf n d step then some x else s.collRun n d step := by
  rw [State.collRun, State.putRun_find]
  by_cases hx : x.isOf n d step = true
  · simp only [if_pos hx]
  · simp only [if_neg hx]
    rfl

/-- A run changes in an atelier that is not faulted (R450). -/
theorem State.onColl_of_sound {s : State} {n d step : Nat} {x : CollRun} (hx : s.collRun n d step = some x)
    (hf : ∀ j, SMap.find? s.jobs n = some j → (s.atelier j.atelier).faulted = false) (f : CollRun → CollRun) : s.onColl n d step f = s.putRun (f x) := by
  have hany : ¬((SMap.find? s.jobs n).any fun j => (s.atelier j.atelier).faulted) = true := by
    rcases hj : SMap.find? s.jobs n with _ | j
    · exact Bool.false_ne_true
    · rw [Option.any_some, hf j hj]
      exact Bool.false_ne_true
  rw [State.onColl, hx]
  exact if_neg hany

theorem State.onColl_frame (s : State) (n d step : Nat) (f : CollRun → CollRun) :
    s.onColl n d step f = { s with collectives := (s.onColl n d step f).collectives } := by
  unfold State.onColl
  split
  · split <;> rfl
  · rfl

theorem State.onColl_endures (s : State) (n d step : Nat) (f : CollRun → CollRun) : Endures s (s.onColl n d step f) := by
  rw [s.onColl_frame]
  exact .of_eq rfl rfl rfl rfl rfl

end Sys2Proof.Machine
end

section
/-!
PROOF. The reduction engines (O52): what an engine's work is beside the memories, a result that lands, and the rows CHUNK_RECEIVE and ADDER.
-/
namespace Sys2Proof.Machine

open Sys2Proof.Claims

/-! ### Engines, runs and entries beside the memories -/

/-- A state with other engines, jobs and entries: what a chunk's receipt and its checks change. -/
def State.withEngines (s : State) (rs : SMap Reduction) (js : SMap Job) (b : Blotter) : State := { s with reductions := rs, jobs := js, blotter := b }

/-- A store with them. -/
def Store.withEngines (x : Store) (rs : SMap Reduction) (js : SMap Job) (b : Blotter) : Store := { x with state := x.state.withEngines rs js b }

section
variable (s : State) (rs : SMap Reduction) (js : SMap Job) (b : Blotter)

/-! What a store writes depends on none of the three; the entries it makes join those there are. -/

theorem State.withEngines_endRekey (g : Nat) : ∃ b', (s.withEngines rs js b).endRekey g = (s.endRekey g).withEngines rs js b' := by
  have hroot : (s.withEngines rs js b).root g = s.root g := rfl
  unfold State.endRekey
  rw [hroot]
  dsimp only
  split <;> exact ⟨_, rfl⟩

theorem State.withEngines_writeLine (g line : Nat) (data : Bytes) :
    ∃ b', (s.withEngines rs js b).writeLine g line data = (s.writeLine g line data).withEngines rs js b' := by
  have hroot (t : State) (c : Blotter) : (t.withEngines rs js c).root g = t.root g := rfl
  have hspent : (s.withEngines rs js b).spent g line = s.spent g line := rfl
  obtain ⟨b', hrekey⟩ := s.withEngines_endRekey rs js b g
  unfold State.writeLine
  dsimp only
  rw [hspent, hroot, hrekey]
  split
  · exact ⟨b, rfl⟩
  rcases s.spent g line <;> simp only [Bool.false_eq_true, if_false, if_true, hroot] <;> split <;> exact ⟨_, rfl⟩
end

section
variable (x : Store) (rs : SMap Reduction) (js : SMap Job) (b : Blotter)

theorem Store.withEngines_gddrPiece (addr : Nat) (bs : Bytes) :
    ∃ b', (x.withEngines rs js b).gddrPiece addr bs = (x.gddrPiece addr bs).withEngines rs js b' := by
  have hbad (g line : Nat) : (x.state.withEngines rs js b).lineBad g line = x.state.lineBad g line := rfl
  have hwrite (g line : Nat) (data : Bytes) : ∃ b', (⟨(x.state.withEngines rs js b).writeLine g line data, x.gddrBad, x.resBad⟩ : Store) =
      (⟨x.state.writeLine g line data, x.gddrBad, x.resBad⟩ : Store).withEngines rs js b' := by
    obtain ⟨b', hb'⟩ := x.state.withEngines_writeLine rs js b g line data
    exact ⟨b', by rw [hb']; rfl⟩
  unfold Store.gddrPiece Store.withEngines
  dsimp only
  rw [hbad]
  split
  · exact hwrite ..
  split
  · exact ⟨b, rfl⟩
  · exact hwrite ..

theorem Store.withEngines_resPiece (addr : Nat) (bs : Bytes) : (x.withEngines rs js b).resPiece addr bs = (x.resPiece addr bs).withEngines rs js b := by
  have hpoison : (x.state.withEngines rs js b).poison = x.state.poison := rfl
  unfold Store.resPiece Store.withEngines
  dsimp only
  rw [hpoison]
  split_ifs <;> rfl
end

/-- A store's memories and what it could not write depend on no engine, job or entry. -/
theorem State.withEngines_store (s : State) (rs : SMap Reduction) (js : SMap Job) (b : Blotter) (ctx va : Nat) (bs : Bytes) :
    ∃ b', (s.withEngines rs js b).store ctx va bs = (s.store ctx va bs).withEngines rs js b' := by
  unfold State.store
  refine List.foldl_rel (r := fun x y : Store => ∃ b', x = y.withEngines rs js b') ⟨b, rfl⟩ fun p _ x y hxy => ?_
  obtain ⟨b1, rfl⟩ := hxy
  rw [show (y.withEngines rs js b1).state.locate ctx p.1 = y.state.locate ctx p.1 from rfl]
  split
  · exact ⟨b1, rfl⟩
  split
  · exact Store.withEngines_gddrPiece ..
  · exact ⟨b1, List.foldl_hom (fun x => Store.withEngines x rs js b1) fun y q => Store.withEngines_resPiece ..⟩

theorem State.withEngines_reduction (s : State) (js : SMap Job) (b : Blotter) (d : Nat) :
    (s.withEngines s.reductions js b).reduction d = s.reduction d := rfl

theorem State.setReduction_withEngines (s : State) (d : Nat) (x : Reduction) (rs : SMap Reduction) (js : SMap Job) (b : Blotter) :
    (s.setReduction d x).withEngines rs js b = s.withEngines rs js b := rfl

theorem State.setReduction_frame (s : State) (d : Nat) (x : Reduction) : s.setReduction d x = s.withEngines (s.setReduction d x).reductions s.jobs s.blotter := rfl

theorem State.setReduction_endures (s : State) {d : Nat} {x : Reduction} (hx : ∀ k ∈ x.inputs, k ∈ (s.reduction d).inputs) : Endures s (s.setReduction d x) := by
  refine ⟨rfl, rfl, rfl, fun _ => ⟨rfl, rfl⟩, fun _ _ _ hw => hw, fun d' k hk => ?_⟩
  rw [State.setReduction_reduction] at hk
  split at hk
  · next hd => rw [hd]; exact hx k hk
  · exact hk

/-! ### Failed checks (R216, R248) -/

/-- A run that has counted a chunk's failed check, once. -/
def StepRun.countFail (r : StepRun) (h : HandOver) (n : Nat) : StepRun :=
  if r.counted.contains (h.coll, h.chunk) then r
  else
    { r with counted := r.counted ++ [(h.coll, h.chunk)], rfail := r.rfail + 1, fails := if r.fails.length = 16 then r.fails else r.fails.add n, overflow := r.overflow || decide (16 ≤ r.rfail) }

theorem StepRun.countFail_rfail (r : StepRun) (h : HandOver) (n : Nat) :
    (r.countFail h n).rfail = r.rfail + bit (!r.counted.contains (h.coll, h.chunk)) := by
  unfold StepRun.countFail
  split
  · next hc => rw [hc]; rfl
  · next hc => rw [Bool.eq_false_iff.mpr hc]; rfl

theorem State.failCheck_eq (s : State) (h : HandOver) (j : Job) (c : Coll) (check place tier : Nat) : s.failCheck h j c check place tier =
    (s.log 0x0132 (some j.atelier) (some h.step) (some j.ctx) [h.chunk, h.attempt, check, place, tier]).onRun h.job (·.countFail h (j.failNumber c h.chunk)) := rfl

theorem State.failCheck_find {s : State} {h : HandOver} {k : Job} {r : StepRun} (hk : SMap.find? s.jobs h.job = some k) (hr : k.run = some r) (j : Job) (c : Coll)
    (check place tier : Nat) : SMap.find? (s.failCheck h j c check place tier).jobs h.job = some { k with run := some (r.countFail h (j.failNumber c h.chunk)) } := by
  rw [State.failCheck_eq]
  exact State.onRun_find (s := s.log ..) hk hr _

theorem StepRun.countFail_passed (r : StepRun) (h : HandOver) (n : Nat) : (r.countFail h n).passed = r.passed := by
  unfold StepRun.countFail
  split <;> rfl

/-- A job that stands in its atelier with the chunks passed that it had (R249). -/
def Job.Stands (j k : Job) : Prop := k.atelier = j.atelier ∧ k.run.map (·.passed) = j.run.map (·.passed)

theorem Job.Stands.refl (j : Job) : j.Stands j := ⟨rfl, rfl⟩
theorem Job.Stands.trans {j k l : Job} (h : j.Stands k) (h' : k.Stands l) : j.Stands l := ⟨h'.1.trans h.1, h'.2.trans h.2⟩

/-- Between the two states nothing but jobs and entries differs, and one job stands. -/
def ChecksOnly (n : Nat) (s t : State) : Prop :=
  ∃ js b, t = s.withEngines s.reductions js b ∧ ∀ k, SMap.find? s.jobs n = some k → ∃ k', SMap.find? js n = some k' ∧ k.Stands k'

theorem ChecksOnly.refl (n : Nat) (s : State) : ChecksOnly n s s := ⟨s.jobs, s.blotter, rfl, fun k hk => ⟨k, hk, .refl k⟩⟩

theorem ChecksOnly.trans {n : Nat} {s t u : State} (h : ChecksOnly n s t) (k : ChecksOnly n t u) : ChecksOnly n s u := by
  obtain ⟨js, b, rfl, hjs⟩ := h
  obtain ⟨js', b', rfl, hjs'⟩ := k
  refine ⟨js', b', rfl, fun k hk => ?_⟩
  obtain ⟨k1, hk1, h1⟩ := hjs k hk
  obtain ⟨k2, hk2, h2⟩ := hjs' k1 hk1
  exact ⟨k2, hk2, h1.trans h2⟩

theorem ChecksOnly.ite {n : Nat} {c : Prop} [Decidable c] {s t u : State} (ht : ChecksOnly n s t) (hu : ChecksOnly n s u) : ChecksOnly n s (if c then t else u) := by
  split
  · exact ht
  · exact hu

theorem State.log_checksOnly (s : State) (n code : Nat) (a step ctx : Option Nat) (handles : List Nat) : ChecksOnly n s (s.log code a step ctx handles) :=
  ⟨s.jobs, _, rfl, fun k hk => ⟨k, hk, .refl k⟩⟩

theorem State.onRun_checksOnly (s : State) (n : Nat) {f : StepRun → StepRun} (hf : ∀ r, (f r).passed = r.passed) : ChecksOnly n s (s.onRun n f) := by
  refine ⟨(s.onRun n f).jobs, s.blotter, rfl, fun k hk => ⟨{ k with run := k.run.map f }, ?_, rfl, ?_⟩⟩
  · rw [State.onRun, State.onJob_find, if_pos rfl, hk, Option.map_some]
  · dsimp only
    rw [Option.map_map, show (fun r : StepRun => r.passed) ∘ f = fun r => r.passed from funext hf]

theorem State.failCheck_checksOnly (s : State) (h : HandOver) (j : Job) (c : Coll) (check place tier : Nat) :
    ChecksOnly h.job s (s.failCheck h j c check place tier) := by
  rw [State.failCheck_eq]
  exact (State.log_checksOnly ..).trans (State.onRun_checksOnly _ _ fun r => r.countFail_passed h _)

theorem ChecksOnly.endures {n : Nat} {s t : State} (h : ChecksOnly n s t) : Endures s t := by
  obtain ⟨js, b, rfl, -⟩ := h
  exact .of_eq rfl rfl rfl rfl rfl

/-! ### A result written (R239, R242, R249) -/

/-- Where a result goes (R239, R253). -/
def State.placeOf (s : State) (h : HandOver) (j : Job) (c : Coll) : Nat :=
  if c.op = 1 then s.factorAt ((s.collRun h.job h.coll h.step).getD (CollRun.fresh h.job h.coll h.step c)) c j.ctx h.chunk else j.reducedAt h.chunk

/-- The chunk that stands there then. -/
def HandOver.resultIn (h : HandOver) (j : Job) (c : Coll) : Bytes := resultBytes c (j.within c h.chunk) h.bytes

/-- Its write. -/
def State.landing (s : State) (h : HandOver) (j : Job) (c : Coll) : Store := s.store j.ctx (s.placeOf h j c) (h.resultIn j c)

/-- A write that meets no fault: the atelier is sound, no region is retired before or after, and every line could be written. -/
structure State.LandsWhole (s : State) (h : HandOver) (j : Job) (c : Coll) : Prop where
  sound : (s.atelier j.atelier).faulted = false
  before : s.retiredIn j.ctx (s.placeOf h j c) (h.resultIn j c).length = none
  good : (s.landing h j c).gddrBad = []
  after : (s.landing h j c).state.retiredIn j.ctx (s.placeOf h j c) (h.resultIn j c).length = none

/-- What a step keeps of a result of which it is the owner or not (R216, R217, R249). -/
def StepRun.takes (r : StepRun) (c : Coll) (chunk : Nat) (ch : Chunk) (mine : Prop) [Decidable mine] : StepRun :=
  let r1 := { r with nonfinite := r.nonfinite || ch.nonfinite }
  let good := ch.passes && !ch.suspect
  if c.op = 1 then r1
  else { r1 with passed := if good then r.passed.add chunk else r.passed.drop chunk
                 unpassed := if good then r.unpassed.drop chunk else r.unpassed.add chunk
                 owned := if mine then SMap.put r.owned chunk ch.ssq else r.owned }

theorem StepRun.takes_passed (r : StepRun) {c : Coll} (hop : c.op ≠ 1) (chunk : Nat) (ch : Chunk) (mine : Prop) [Decidable mine] :
    (r.takes c chunk ch mine).passed.has chunk = (ch.passes && !ch.suspect) := by
  unfold StepRun.takes
  dsimp only
  rw [if_neg hop]
  dsimp only
  rcases ch.passes && !ch.suspect with _ | _
  · simp [NatSet.has, NatSet.drop]
  · simp [NatSet.has, NatSet.mem_add]

section
variable {s : State} {h : HandOver} {j : Job} {c : Coll} (rs : SMap Reduction) {js : SMap Job} (b : Blotter)

/-- What a written result is to the state that it lands in: the memories, the run of its collective, the run of its job. -/
structure Landed (s : State) (h : HandOver) (j : Job) (c : Coll) (t : State) : Prop where
  gddr : t.gddr = (s.landing h j c).state.gddr
  reservoir : t.reservoir = (s.landing h j c).state.reservoir
  poison : t.poison = (s.landing h j c).state.poison
  placed : h.attempt = 0 → ∃ z, t.collRun h.job h.coll h.step = some z ∧ z.placed.has h.chunk = true
  passed : c.op ≠ 1 → j.run.isSome = true →
    JobNow t h.job fun k => ∃ q, k.run = some q ∧ q.passed.has h.chunk = ((Chunk.ofBytes (h.resultIn j c)).passes && !(Chunk.ofBytes (h.resultIn j c)).suspect)

theorem State.landing_jobStore (hw : s.LandsWhole h j c) : ∃ b', (s.withEngines rs js b).jobStore h.job j (s.placeOf h j c) (h.resultIn j c) =
    (s.landing h j c).state.withEngines rs js b' := by
  have hretired (t : State) (b : Blotter) (va n : Nat) : (t.withEngines rs js b).retiredIn j.ctx va n = t.retiredIn j.ctx va n := rfl
  have hsound : ((s.withEngines rs js b).atelier j.atelier).faulted = false := hw.sound
  obtain ⟨b', hstore⟩ := s.withEngines_store rs js b j.ctx (s.placeOf h j c) (h.resultIn j c)
  rw [← State.landing] at hstore
  have hsettled : ((s.withEngines rs js b).store j.ctx (s.placeOf h j c) (h.resultIn j c)).settle = (s.landing h j c).state.withEngines rs js b' := by
    rw [hstore]
    exact Store.settle_of_good (x := (s.landing h j c).withEngines rs js b') hw.good
  refine ⟨b', ?_⟩
  rw [State.jobStore_of_whole hsound, hsettled]
  · rw [hretired]
    exact hw.before
  · rw [hsettled, hretired]
    exact hw.after

/-- What keeps count of the results that have come: in the first attempt the collective's run, in the second the job's (R251). -/
def State.noteResult (s : State) (h : HandOver) : State :=
  if h.attempt = 0 then s.onColl h.job h.coll h.step fun x => { x with placed := x.placed.add h.chunk }
  else s.onRun h.job fun r => { r with again := r.again.drop h.chunk }

theorem State.noteResult_frame (s : State) (h : HandOver) :
    s.noteResult h = { s with jobs := (s.noteResult h).jobs, collectives := (s.noteResult h).collectives } := by
  unfold State.noteResult
  split
  · rw [s.onColl_frame]
  · rfl

theorem State.noteResult_find {s : State} {h : HandOver} {k : Job} (hk : SMap.find? s.jobs h.job = some k) :
    ∃ k', SMap.find? (s.noteResult h).jobs h.job = some k' ∧ k.Stands k' := by
  unfold State.noteResult
  split
  · rw [s.onColl_frame]
    exact ⟨k, hk, .refl k⟩
  · obtain ⟨js, b, ht, hjs⟩ := s.onRun_checksOnly h.job (f := fun r => { r with again := r.again.drop h.chunk }) fun _ => rfl
    rw [ht]
    exact hjs k hk

theorem State.noteResult_placed {s : State} {h : HandOver} {k : Job} {c : Coll} (hk : SMap.find? s.jobs h.job = some k)
    (hsound : (s.atelier k.atelier).faulted = false) (hc : SMap.find? s.colls h.coll = some c) (h0 : h.attempt = 0) :
    ∃ z, (s.noteResult h).collRun h.job h.coll h.step = some z ∧ z.placed.has h.chunk = true := by
  obtain ⟨x, hx⟩ : ∃ x, s.collRun h.job h.coll h.step = some x := by
    unfold State.collRun
    split
    · exact ⟨_, rfl⟩
    · exact ⟨_, by rw [hc]; rfl⟩
  have hkey : x.isOf h.job h.coll h.step = true := State.collRun_isOf hx
  rw [State.noteResult, if_pos h0, State.onColl_of_sound hx (fun j hj => by rw [hk] at hj; cases hj; exact hsound), State.putRun_collRun,
    if_pos (show ({ x with placed := x.placed.add h.chunk } : CollRun).isOf h.job h.coll h.step = true from hkey)]
  exact ⟨_, rfl, by simp [NatSet.has, NatSet.mem_add]⟩

theorem State.onRun_withEngines (s : State) (rs : SMap Reduction) (js js' : SMap Job) (b b' : Blotter) (n : Nat) (f : StepRun → StepRun) :
    ((s.withEngines rs js b).onRun n f).withEngines ((s.withEngines rs js b).onRun n f).reductions js' b' = s.withEngines rs js' b' := rfl

/-- A job whose run has taken a result keeps what the step keeps of it. -/
theorem JobNow.of_takes {t : State} {n : Nat} {j k k' k2 : Job} {c : Coll} (hop : c.op ≠ 1) (hrun : j.run.isSome = true) (hjk : j.Stands k)
    (chunk : Nat) (ch : Chunk) (mine : Prop) [Decidable mine] (hk2 : k2.run = k.run.map (·.takes c chunk ch mine)) (hk : SMap.find? t.jobs n = some k')
    (hstands : k2.Stands k') : JobNow t n fun k => ∃ q, k.run = some q ∧ q.passed.has chunk = (ch.passes && !ch.suspect) := by
  obtain ⟨r, hr⟩ : ∃ r, k.run = some r := by
    rw [← Option.isSome_iff_exists, ← Option.isSome_map (f := fun r : StepRun => r.passed), hjk.2, Option.isSome_map, hrun]
  have hpassed := hstands.2
  rw [hk2, hr] at hpassed
  obtain ⟨q, hq, hqp⟩ := Option.map_eq_some_iff.mp hpassed
  exact ⟨k', hk, q, hq, by rw [hqp, StepRun.takes_passed r hop]⟩

theorem State.writeResult_lands (hw : s.LandsWhole h j c) (hc : SMap.find? s.colls h.coll = some c)
    {k : Job} (hk : SMap.find? js h.job = some k) (hjk : j.Stands k) :
    Landed s h j c ((s.withEngines rs js b).writeResult h j c) ∧ ((s.withEngines rs js b).writeResult h j c).reductions = rs := by
  obtain ⟨b1, hstore⟩ := State.landing_jobStore rs (js := js) b hw
  have hstores := (s.store_storesOnly j.ctx (s.placeOf h j c) (h.resultIn j c)).frame
  rw [← State.landing] at hstores
  unfold State.writeResult
  extract_lets bs ch good x mine s1 s2 first s3
  rw [← State.noteResult]
  have hs1 : s1 = (s.landing h j c).state.withEngines rs js b1 := hstore
  have hs2 : s2 = s1.onRun h.job (·.takes c h.chunk ch mine) := rfl
  obtain ⟨js3, b3, hs3, hjobs⟩ : ChecksOnly h.job s2 s3 :=
    .ite ((State.log_checksOnly ..).trans (State.onRun_checksOnly _ _ fun _ => rfl)) (.refl ..)
  have hv : s3 = (s.landing h j c).state.withEngines rs js3 b3 := by rw [hs3, hs2, hs1, State.onRun_withEngines]
  have hk2 : SMap.find? s2.jobs h.job = some { k with run := k.run.map (·.takes c h.chunk ch mine) } := by
    have hk1 : SMap.find? s1.jobs h.job = some k := by rw [hs1]; exact hk
    rw [hs2, State.onRun, State.onJob_find, if_pos rfl, hk1, Option.map_some]
  obtain ⟨k3, hk3, h3⟩ := hjobs _ hk2
  clear_value s3
  subst hv
  have hk3' : SMap.find? ((s.landing h j c).state.withEngines rs js3 b3).jobs h.job = some k3 := hk3
  obtain ⟨k4, hk4, h4⟩ := State.noteResult_find hk3'
  have hnotes := ((s.landing h j c).state.withEngines rs js3 b3).noteResult_frame h
  refine ⟨⟨?_, ?_, ?_, fun h0 => ?_, fun hop hrun => ?_⟩, ?_⟩
  · rw [hnotes]; rfl
  · rw [hnotes]; rfl
  · rw [hnotes]; rfl
  · refine State.noteResult_placed (c := c) hk3' ?_ ?_ h0
    · rw [h3.1, show k.atelier = _ from hjk.1, hstores]
      exact hw.sound
    · rw [hstores]
      exact hc
  · exact JobNow.of_takes hop hrun hjk h.chunk ch mine rfl hk4 (h3.trans h4)
  · rw [hnotes]; rfl

end

theorem State.writeResult_endures (s : State) (h : HandOver) (j : Job) (c : Coll) : Endures s (s.writeResult h j c) := by
  unfold State.writeResult
  extract_lets bs ch good x mine s1 s2 first s3
  rw [← State.noteResult]
  have h2 : Endures s s2 := (s.jobStore_endures ..).trans (.of_eq rfl rfl rfl rfl rfl)
  have h3 : ChecksOnly h.job s2 s3 := .ite ((State.log_checksOnly ..).trans (State.onRun_checksOnly _ _ fun _ => rfl)) (.refl ..)
  refine (h2.trans h3.endures).trans ?_
  rw [s3.noteResult_frame]
  exact .of_eq rfl rfl rfl rfl rfl

/-! ### Chunks sent on (R242, R289, R293) -/

/-- The packet that takes a chunk to another Phipithal member. -/
def State.chunkPacket (s : State) (h : HandOver) (j : Job) (c : Coll) (hop g : Nat) : Packet :=
  ⟨packetHeader 1 1 (roundUp h.bytes.length 64 / 64) s.gidx g (s.lnum j.atelier) 0 0
    [(0, 32, c.seq), (32, 4, c.op), (36, 1, h.attempt), (37, 2, hop), (64, 64, c.fprint h.step), (128, 64, h.step), (192, 33, h.chunk), (225, 4, 1)],
   padTo (roundUp h.bytes.length 64) h.bytes⟩

/-- A chunk waits for another member where a port leads there (R260, R261). -/
def State.Hopped (s t : State) (h : HandOver) (j : Job) (c : Coll) (hop g : Nat) : Prop :=
  ∀ p, s.route g = some p → s.carries p 1 = true → s.isPartner j g = false → t.Queued p 1 g (s.lnum j.atelier) (s.chunkPacket h j c hop g)

section
variable {s t u : State} {h : HandOver} {j : Job} {c : Coll} {hop g : Nat}

theorem State.Hopped.endures (hh : s.Hopped t h j c hop g) (hu : Endures t u) : s.Hopped u h j c hop g :=
  fun p hr hc hp => hu.keeps (hh p hr hc hp)

theorem Endures.hopped (hs : Endures s t) (hh : t.Hopped u h j c hop g) : s.Hopped u h j c hop g := fun p hr hc hp => by
  have hq := hh p ((hs.route g).trans hr) ((hs.carries p 1).trans hc) ((hs.isPartner j g).trans hp)
  rw [State.chunkPacket, hs.gidx, hs.lnum] at hq
  exact hq

theorem State.sendChunk_endures (s : State) (h : HandOver) (j : Job) (c : Coll) (hop g : Nat) : Endures s (s.sendChunk h j c hop g) :=
  State.sendPacket_endures ..

theorem State.sendChunk_sendsOnly (s : State) (h : HandOver) (j : Job) (c : Coll) (hop g : Nat) : SendsOnly s (s.sendChunk h j c hop g) :=
  State.sendPacket_sendsOnly ..

theorem State.sendChunk_hops (s : State) (h : HandOver) (j : Job) (c : Coll) (hop g : Nat) : s.Hopped (s.sendChunk h j c hop g) h j c hop g := fun p hr hc hp => by
  rw [State.sendChunk, if_neg (by simp [hp])]
  exact State.sendPacket_queues hr hc ..

theorem State.sendChunks_hop {gs : List Nat} (hg : g ∈ gs) (s : State) : s.Hopped (gs.foldl (fun s g => s.sendChunk h j c hop g) s) h j c hop g :=
  Endures.foldl_of_mem (P := fun t => s.Hopped t h j c hop g) (fun _ _ => State.sendChunk_endures ..) (fun _ _ ht hh => hh.endures ht) hg
    fun t ht => ht.hopped (t.sendChunk_hops h j c hop g)

theorem State.spreadResult_related {R : State → State → Prop} (hrefl : ∀ s, R s s) (htrans : ∀ {s t u}, R s t → R t u → R s u)
    (hsend : ∀ (s : State) hop g, R s (s.sendChunk h j c hop g)) (s : State) : R s (s.spreadResult h j c) := by
  unfold State.spreadResult
  extract_lets path lam m others near s1 s2
  have h2 : R s s2 := htrans (foldl_related hrefl htrans (fun s g => hsend s 2 g) others s) (foldl_related hrefl htrans (fun s g => hsend s 3 g) near s1)
  split
  · exact htrans h2 (foldl_related hrefl htrans (fun s g => hsend s 3 g) _ s2)
  · exact h2

theorem State.spreadResult_endures (s : State) (h : HandOver) (j : Job) (c : Coll) : Endures s (s.spreadResult h j c) :=
  State.spreadResult_related .refl .trans (fun s => s.sendChunk_endures h j c) s

theorem State.spreadResult_sendsOnly (s : State) (h : HandOver) (j : Job) (c : Coll) : SendsOnly s (s.spreadResult h j c) :=
  State.spreadResult_related .refl .trans (fun s => s.sendChunk_sendsOnly h j c) s

/-- The owner sends a result to the other palette owners, a palette owner to its palette (R242, orders 5 and 6). -/
structure State.Spread (s : State) (h : HandOver) (j : Job) (c : Coll) (t : State) : Prop where
  owners : s.ownerOf j (j.pathNumber c h.chunk) = s.gidx → ∀ b < s.nPal j, s.paletteOwner j b (j.pathNumber c h.chunk) ≠ s.gidx →
    s.Hopped t h j c 2 (s.paletteOwner j b (j.pathNumber c h.chunk))
  palette : s.paletteOwner j (s.ownPalette j) (j.pathNumber c h.chunk) = s.gidx → ∀ i < s.mPos j, s.memberAt j (s.ownPalette j * s.mPos j + i) ≠ s.gidx →
    s.Hopped t h j c 3 (s.memberAt j (s.ownPalette j * s.mPos j + i))

theorem Endures.memberAt (hs : Endures s t) (j : Job) (r : Nat) : t.memberAt j r = s.memberAt j r := by
  rw [State.memberAt, hs.gidx]
  rfl

theorem Endures.ownPalette (hs : Endures s t) (j : Job) : t.ownPalette j = s.ownPalette j := by
  rw [State.ownPalette, hs.gidx]
  rfl

theorem Endures.paletteOwner (hs : Endures s t) (j : Job) (lam n : Nat) : t.paletteOwner j lam n = s.paletteOwner j lam n := hs.memberAt j _

theorem Endures.spread (hs : Endures s t) (ht : t.Spread h j c u) : s.Spread h j c u := by
  have hpal : t.nPal j = s.nPal j := rfl
  have hpos : t.mPos j = s.mPos j := rfl
  have howner (n : Nat) : t.ownerOf j n = s.ownerOf j n := hs.paletteOwner j _ n
  obtain ⟨howners, hpalette⟩ := ht
  simp only [hpal, hpos, howner, hs.gidx, hs.paletteOwner, hs.memberAt, hs.ownPalette] at howners hpalette
  exact ⟨fun hown b hb hne => hs.hopped (howners hown b hb hne), fun hown i hi hne => hs.hopped (hpalette hown i hi hne)⟩

theorem State.spreadResult_spreads (s : State) (h : HandOver) (j : Job) (c : Coll) : s.Spread h j c (s.spreadResult h j c) := by
  unfold State.spreadResult
  extract_lets path lam m others near s1 s2
  have h1 : Endures s s1 := .foldl (fun _ _ => State.sendChunk_endures ..) others s
  have h2 : Endures s1 s2 := .foldl (fun _ _ => State.sendChunk_endures ..) near s1
  have h3 : Endures s2 (if c.op = 5 then (j.members.filter (s.isPartner j)).foldl (fun s g => s.sendChunk h j c 3 g) s2 else s2) :=
    .ite (.foldl (fun _ _ => State.sendChunk_endures ..) _ s2) (.refl s2)
  refine ⟨fun hown b hb hne => ?_, fun hown i hi hne => ?_⟩
  · refine (State.sendChunks_hop (gs := others) ?_ s).endures (h2.trans h3)
    rw [show others = _ from if_pos hown, List.mem_filter]
    exact ⟨List.mem_map.mpr ⟨b, List.mem_range.mpr hb, rfl⟩, by simpa using hne⟩
  · refine State.Hopped.endures (h1.hopped (State.sendChunks_hop (gs := near) ?_ s1)) h3
    rw [show near = _ from if_pos hown, List.mem_filter]
    exact ⟨List.mem_map.mpr ⟨i, List.mem_range.mpr hi, rfl⟩, by simpa using hne⟩
end

/-! ### A result taken (R239, R242, R247, R248) -/

/-- The checks of a result: where it came in and, over a link, at its write (R247, R248). -/
def State.checkResult (s : State) (h : HandOver) (j : Job) (c : Coll) : State :=
  let s1 := if c.op ≠ 5 && !(Chunk.ofBytes h.bytes).passes then s.failCheck h j c 0 h.place 0 else s
  if c.op ≠ 5 && c.op ≠ 1 && decide (h.place < 0x100) && !(Chunk.ofBytes h.bytes).passes then s1.failCheck h j c 0 (0x100 + h.chunk % 4) 0 else s1

theorem State.takeResult_eq (s : State) (h : HandOver) (j : Job) (c : Coll) : s.takeResult h j c =
    if c.op = 2 && h.attempt = 0 then (s.checkResult h j c).writeResult h j c
    else ((s.checkResult h j c).writeResult h j c).spreadResult h j c := rfl

theorem State.checkResult_checksOnly (s : State) (h : HandOver) (j : Job) (c : Coll) : ChecksOnly h.job s (s.checkResult h j c) :=
  .ite ((ChecksOnly.ite (State.failCheck_checksOnly ..) (.refl ..)).trans (State.failCheck_checksOnly ..))
    (.ite (State.failCheck_checksOnly ..) (.refl ..))

theorem State.takeResult_endures (s : State) (h : HandOver) (j : Job) (c : Coll) : Endures s (s.takeResult h j c) := by
  have hwritten := (s.checkResult_checksOnly h j c).endures.trans (State.writeResult_endures _ h j c)
  rw [State.takeResult_eq]
  exact .ite hwritten (hwritten.trans (State.spreadResult_endures ..))

theorem Landed.sends {s t u : State} {h : HandOver} {j : Job} {c : Coll} (hl : Landed s h j c t) (hs : SendsOnly t u) : Landed s h j c u := by
  rw [show u = _ from hs]
  exact ⟨hl.gddr, hl.reservoir, hl.poison, hl.placed, hl.passed⟩

section
variable {s : State} {h : HandOver} {j : Job} {c : Coll} (rs : SMap Reduction) {js : SMap Job} (b : Blotter)

theorem State.takeResult_lands (hw : s.LandsWhole h j c) (hc : SMap.find? s.colls h.coll = some c)
    {k : Job} (hk : SMap.find? js h.job = some k) (hjk : j.Stands k) :
    Landed s h j c ((s.withEngines rs js b).takeResult h j c) ∧ ((s.withEngines rs js b).takeResult h j c).reductions = rs ∧
      (¬(c.op = 2 ∧ h.attempt = 0) → s.Spread h j c ((s.withEngines rs js b).takeResult h j c)) := by
  obtain ⟨js1, b1, hcheck, hjobs⟩ := (s.withEngines rs js b).checkResult_checksOnly h j c
  obtain ⟨k1, hk1, h1⟩ := hjobs k hk
  obtain ⟨hlanded, hrs⟩ := State.writeResult_lands rs b1 hw hc hk1 (hjk.trans h1)
  have hwritten : Endures (s.withEngines rs js1 b1) ((s.withEngines rs js1 b1).writeResult h j c) := State.writeResult_endures ..
  have hsent : SendsOnly ((s.withEngines rs js1 b1).writeResult h j c) (((s.withEngines rs js1 b1).writeResult h j c).spreadResult h j c) :=
    State.spreadResult_sendsOnly ..
  rw [State.takeResult_eq, show (s.withEngines rs js b).checkResult h j c = s.withEngines rs js1 b1 from hcheck]
  split
  · next hkept =>
    refine ⟨hlanded, hrs, fun hgoes => absurd ?_ hgoes⟩
    simpa using hkept
  · refine ⟨hlanded.sends hsent, ?_, fun _ => ?_⟩
    · rw [show _ = _ from hsent]
      exact hrs
    · obtain ⟨howners, hpalette⟩ := hwritten.spread (State.spreadResult_spreads _ h j c)
      exact ⟨howners, hpalette⟩
end

/-! ### CHUNK_RECEIVE (R247, R250) -/

/-- A chunk gone from a die's arrivals, and no more: it is dropped. -/
def State.chunkOut (s : State) (die : Nat) (h : HandOver) : State := s.setReduction die { s.reduction die with arrivals := (s.reduction die).arrivals.erase h }

/-- The engine that has taken a chunk in. -/
def State.takenIn (s : State) (die : Nat) (h : HandOver) : Reduction :=
  { s.reduction die with arrivals := (s.reduction die).arrivals.erase h, accepted := (s.reduction die).accepted ++ [h.key] }

/-- A chunk taken in by a die's engine. -/
def State.chunkIn (s : State) (die : Nat) (h : HandOver) : State := (s.chunkOut die h).setReduction die (s.takenIn die h)

/-- A chunk's receive check (R247); the FP32 values of a forerunner sum have none (R280). -/
def State.checkReceipt (s : State) (h : HandOver) (j : Job) (c : Coll) : State :=
  if c.op ≠ 5 && !(Chunk.ofBytes h.bytes).passes then s.failCheck h j c 0 h.place 0 else s

section
variable {s : State} {die : Nat} {h : HandOver} {j : Job} {c : Coll}

theorem State.chunkIn_reduction : (s.chunkIn die h).reduction die = s.takenIn die h := by
  rw [State.chunkIn, State.setReduction_reduction, if_pos rfl]

theorem State.chunkIn_withEngines (s : State) (die : Nat) (h : HandOver) (rs : SMap Reduction) (js : SMap Job) (b : Blotter) :
    (s.chunkIn die h).withEngines rs js b = s.withEngines rs js b := by
  rw [State.chunkIn, State.setReduction_withEngines, State.chunkOut, State.setReduction_withEngines]

theorem State.chunkIn_engines : s.chunkIn die h = s.withEngines (s.chunkIn die h).reductions s.jobs s.blotter := by
  rw [← s.chunkIn_withEngines die h]
  rfl

theorem State.chunkIn_endures : Endures s (s.chunkIn die h) := by
  refine Endures.trans (t := s.chunkOut die h) (s.setReduction_endures fun _ hk => hk) (State.setReduction_endures _ fun k hk => ?_)
  rw [State.chunkOut, State.setReduction_reduction, if_pos rfl]
  exact hk

/-- A chunk that an engine takes in (R250): of the running step, of this attempt or a later one, and new. -/
structure State.Accepts (s : State) (die : Nat) (h : HandOver) (j : Job) (c : Coll) (r : StepRun) : Prop where
  job : SMap.find? s.jobs h.job = some j
  coll : SMap.find? s.colls h.coll = some c
  run : j.run = some r
  step : r.step = h.step
  attempt : r.attempt ≤ h.attempt
  fresh : h.key ∉ (s.reduction die).accepted

theorem exec_chunkReceive (hdie : die < 4) (hh : (s.reduction die).arrivals.find? (fun h => !s.early h) = some h) :
    exec (.chunkReceive die) s = .next ((s.chunkOut die h).receiveChunk die h) := by
  rw [show exec (.chunkReceive die) s = execChunkReceive die s from rfl, execChunkReceive, onUnit_of_lt hdie]
  dsimp only
  rw [hh]
  rfl

theorem exec_chunkReceive_idle (hdie : die < 4) (hh : ∀ h ∈ (s.reduction die).arrivals, s.early h = true) : exec (.chunkReceive die) s = .next s := by
  rw [show exec (.chunkReceive die) s = execChunkReceive die s from rfl, execChunkReceive, onUnit_of_lt hdie]
  dsimp only
  rw [List.find?_eq_none.mpr fun h hmem => by simp [hh h hmem]]

theorem State.dropChunk_frame (s : State) (h : HandOver) : s.dropChunk h = { s with blotter := (s.dropChunk h).blotter } := by
  unfold State.dropChunk
  split <;> rfl

theorem State.receiveChunk_drops {s : State} (hstale : SMap.find? s.jobs h.job = none ∨ SMap.find? s.colls h.coll = none ∨ h.key ∈ (s.reduction die).accepted ∨
    ∃ j, SMap.find? s.jobs h.job = some j ∧ ∀ r, j.run = some r → (r.step ≠ h.step ∨ h.attempt < r.attempt)) : s.receiveChunk die h = s.dropChunk h := by
  unfold State.receiveChunk
  split
  · next j c hj hc =>
    rw [hj, hc] at hstale
    split
    · rfl
    · next r hr =>
      refine if_pos ?_
      rcases hstale with h1 | h1 | h1 | ⟨k, hk, h1⟩
      · cases h1
      · cases h1
      · simp [h1]
      · cases hk
        rcases h1 r hr with h1 | h1 <;> simp [h1]
  · rfl

theorem State.receiveChunk_takes {r : StepRun} (h1 : s.Accepts die h j c r) : (s.chunkOut die h).receiveChunk die h =
    match h.hop with
    | .result => (s.chunkIn die h).takeResult h j c
    | .contribution =>
      if c.op = 5 && 2048 ≤ h.rank then ((s.chunkIn die h).checkReceipt h j c).meetPartner die h j c
      else ((s.chunkIn die h).checkReceipt h j c).takeContribution die h j c (c.op ≠ 5 && !(Chunk.ofBytes h.bytes).passes)
    | .partialSum => ((s.chunkIn die h).checkReceipt h j c).holdInput die h (c.op ≠ 5 && !(Chunk.ofBytes h.bytes).passes) := by
  obtain ⟨hj, hc, hr, hstep, hattempt, hfresh⟩ := h1
  have hred : (s.chunkOut die h).reduction die = { s.reduction die with arrivals := (s.reduction die).arrivals.erase h } := by
    rw [State.chunkOut, State.setReduction_reduction, if_pos rfl]
  have hj' : SMap.find? (s.chunkOut die h).jobs h.job = some j := hj
  have hc' : SMap.find? (s.chunkOut die h).colls h.coll = some c := hc
  unfold State.receiveChunk
  rw [hj', hc']
  dsimp only
  rw [hr]
  dsimp only
  rw [hred, if_neg (by simp [hstep, hattempt, hfresh])]
  rfl

/-! What becomes of a chunk taken in. -/

theorem State.holdInput_reduction (s : State) (die : Nat) (h : HandOver) (failed : Bool) :
    (s.holdInput die h failed).reduction die = { s.reduction die with inputs := (s.reduction die).inputs ++ [⟨h, failed⟩] } := by
  rw [State.holdInput, State.setReduction_reduction, if_pos rfl]

theorem State.takeContribution_holds (howner : s.paletteOwner j (s.ownPalette j) (j.pathNumber c h.chunk) = s.gidx) (hm : 2 ≤ s.mPos j) (failed : Bool) :
    s.takeContribution die h j c failed = s.holdInput die h failed := by
  rw [State.takeContribution, if_neg (not_not_intro howner), if_neg (by omega)]

theorem State.takeContribution_sends (howner : s.paletteOwner j (s.ownPalette j) (j.pathNumber c h.chunk) ≠ s.gidx) (failed : Bool) :
    s.takeContribution die h j c failed = s.sendChunk h j c 0 (s.paletteOwner j (s.ownPalette j) (j.pathNumber c h.chunk)) := if_pos howner

theorem State.checkReceipt_checksOnly : ChecksOnly h.job s (s.checkReceipt h j c) := .ite (State.failCheck_checksOnly ..) (.refl ..)

theorem State.checkReceipt_of_sum (h5 : c.op = 5) : s.checkReceipt h j c = s := if_neg (by simp [h5])

/-- A failed receive check is counted (R216, R247). -/
theorem State.checkReceipt_counts {r : StepRun} (hj : SMap.find? s.jobs h.job = some j) (hr : j.run = some r) (h5 : c.op ≠ 5) :
    JobNow (s.checkReceipt h j c) h.job fun k =>
      ∃ q, k.run = some q ∧ q.rfail = r.rfail + bit (!(Chunk.ofBytes h.bytes).passes && !r.counted.contains (h.coll, h.chunk)) := by
  unfold State.checkReceipt
  rcases hp : (Chunk.ofBytes h.bytes).passes
  · rw [if_pos (by simp [h5])]
    exact ⟨_, State.failCheck_find hj hr .., _, rfl, StepRun.countFail_rfail ..⟩
  · rw [if_neg (by simp)]
    exact ⟨j, hj, r, hr, rfl⟩
end

end Sys2Proof.Machine
end

section
/-!
PROOF. What becomes of a chunk received and of an adder's sum, and the reduction engines' obligation (O52).
-/
namespace Sys2Proof.Machine

open Sys2Proof.Claims

section
variable {s : State} {die : Nat} {h : HandOver} {j : Job} {c : Coll} {r : StepRun}

/-- A result that an engine takes in lands (R239, R242). -/
theorem chunkReceive_result (h1 : s.Accepts die h j c r) (hhop : h.hop = .result) : ∃ t, (s.chunkOut die h).receiveChunk die h = t ∧
    (s.LandsWhole h j c → h.key ∈ (t.reduction die).accepted ∧ Landed s h j c t ∧ (¬(c.op = 2 ∧ h.attempt = 0) → s.Spread h j c t)) := by
  refine ⟨_, rfl, fun hw => ?_⟩
  obtain ⟨hlanded, hrs, hspread⟩ := State.takeResult_lands (s.chunkIn die h).reductions s.blotter hw h1.coll h1.job (.refl j)
  rw [← State.chunkIn_engines] at hlanded hrs hspread
  rw [State.receiveChunk_takes h1, hhop]
  dsimp only
  refine ⟨?_, hlanded, hspread⟩
  rw [State.reduction, hrs, ← State.reduction, State.chunkIn_reduction]
  exact List.mem_append_right _ (List.mem_singleton.mpr rfl)

theorem State.holdInput_frame (s : State) (die : Nat) (h : HandOver) (f : Bool) :
    s.holdInput die h f = s.withEngines (s.holdInput die h f).reductions s.jobs s.blotter :=
  State.setReduction_frame ..

/-- A chunk whose checks are done, held as an adder's input. -/
theorem State.held_after_checks {u : State} {f : Bool} (hu : ChecksOnly h.job (s.chunkIn die h) u) : (u.holdInput die h f).reduction die =
    { s.takenIn die h with inputs := (s.reduction die).inputs ++ [⟨h, f⟩] } ∧
    ∃ rs, u.holdInput die h f = s.withEngines rs u.jobs u.blotter := by
  obtain ⟨js, b, rfl, -⟩ := hu
  refine ⟨?_, ?_⟩
  · rw [State.holdInput_reduction, State.withEngines_reduction, State.chunkIn_reduction]
    rfl
  · rw [State.chunkIn_withEngines]
    exact ⟨_, State.holdInput_frame ..⟩

/-- A contribution of a packed sum (R242): held for the first tier by the palette owner, sent on to it by any other member. -/
theorem chunkReceive_contribution (h1 : s.Accepts die h j c r) (hhop : h.hop = .contribution) (h5 : c.op ≠ 5) :
    (s.chunkOut die h).receiveChunk die h = ((s.chunkIn die h).checkReceipt h j c).takeContribution die h j c (!(Chunk.ofBytes h.bytes).passes) := by
  rw [State.receiveChunk_takes h1, hhop]
  dsimp only
  rw [if_neg (by simp [h5])]
  simp [h5]

theorem chunkReceive_partialSum (h1 : s.Accepts die h j c r) (hhop : h.hop = .partialSum) : (s.chunkOut die h).receiveChunk die h =
    ((s.chunkIn die h).checkReceipt h j c).holdInput die h (c.op ≠ 5 && !(Chunk.ofBytes h.bytes).passes) := by
  rw [State.receiveChunk_takes h1, hhop]

/-- A contribution of a forerunner sum: a host member's own meets its partner's (R280), any other is held or sent on. -/
theorem chunkReceive_forerunner (h1 : s.Accepts die h j c r) (hhop : h.hop = .contribution) (h5 : c.op = 5) : (s.chunkOut die h).receiveChunk die h =
    if 2048 ≤ h.rank then (s.chunkIn die h).meetPartner die h j c else (s.chunkIn die h).takeContribution die h j c false := by
  rw [State.receiveChunk_takes h1, hhop]
  dsimp only
  rw [State.checkReceipt_of_sum h5]
  simp [h5]

/-- The held part that a host member's own chunk or its partner's waits for (R280). -/
def Reduction.otherPart (x : Reduction) (h : HandOver) : Option Held :=
  x.inputs.find? fun i => i.input.mate h && decide (2048 ≤ i.input.rank) && decide (i.input.rank ≠ h.rank)

/-- The contribution that both parts make (R280). -/
def State.bothParts (s : State) (h : HandOver) (o : Held) (j : Job) : HandOver :=
  let own := if h.rank = ownRank then h else o.input
  { own with rank := s.rankOf j s.gidx, bytes := fr32Bytes (List.zipWith add32 (fr32 own.bytes) (fr32 (if h.rank = ownRank then o.input else h).bytes)) }

theorem State.meetPartner_waits (ho : (s.reduction die).otherPart h = none) : s.meetPartner die h j c = s.holdInput die h false := by
  rw [Reduction.otherPart] at ho
  unfold State.meetPartner
  dsimp only
  rw [ho]

theorem State.meetPartner_meets {o : Held} (ho : (s.reduction die).otherPart h = some o) : s.meetPartner die h j c =
    (s.setReduction die { s.reduction die with inputs := (s.reduction die).inputs.filter fun i => decide (i ≠ o) }).takeContribution die (s.bothParts h o j) j c false := by
  rw [Reduction.otherPart] at ho
  unfold State.meetPartner
  dsimp only
  rw [ho]
  rfl

end

/-! ### ADDER (R242 to R245, R248, R280) -/

section
variable {s : State} {die : Nat} {i : Held} {j : Job} {c : Coll}

/-- An adder's inputs taken from its engine. -/
def State.adderOut (s : State) (die : Nat) (i : Held) : State :=
  s.setReduction die { s.reduction die with inputs := (s.reduction die).inputs.filter fun k => !((s.reduction die).group i).contains k }

/-- The chunks that an adder sums (R244, R245). -/
def Reduction.added (x : Reduction) (i : Held) : Added := addChunks ((x.group i).map fun k => Chunk.ofBytes k.input.bytes) ((x.group i).any (·.failed))

/-- An adder's sum (R244, R280). -/
def Reduction.sum (x : Reduction) (die : Nat) (i : Held) (c : Coll) : HandOver :=
  { i.input with
    bytes := if c.op = 5 then fr32Bytes (fr32Sum ((x.group i).map fun k => fr32 k.input.bytes)) else (x.added i).chunk.bytes
    place := 0x100 + die }

/-- An adder counts its own failed checks, and hands its sum on. -/
theorem State.addUp_sums (hj : SMap.find? s.jobs i.input.job = some j) (hc : SMap.find? s.colls i.input.coll = some c) :
    ∃ u, ChecksOnly i.input.job (s.adderOut die i) u ∧ s.addUp die i ((s.reduction die).group i) =
      if i.input.hop = .contribution then u.passPartial die ((s.reduction die).sum die i c) j c else u.passResult die ((s.reduction die).sum die i c) j c := by
  unfold State.addUp
  split
  · next j' c' hj' hc' =>
    obtain rfl : j' = j := Option.some.inj (hj'.symm.trans hj)
    obtain rfl : c' = c := Option.some.inj (hc'.symm.trans hc)
    extract_lets x s1 tier out bytes input h s2 s3
    have h2 : ChecksOnly i.input.job s1 s2 := .ite (State.failCheck_checksOnly s1 h ..) (.refl ..)
    have h3 : ChecksOnly i.input.job s2 s3 := .ite (State.failCheck_checksOnly s2 h ..) (.refl ..)
    refine ⟨s3, h2.trans h3, ?_⟩
    by_cases hhop : i.input.hop = .contribution
    · rw [if_pos hhop, show tier = 1 from if_pos hhop, if_pos rfl]
      rfl
    · rw [if_neg hhop, show tier = 2 from if_neg hhop, if_neg (by decide)]
      rfl
  · next hnone => exact absurd hc (hnone j c hj)

theorem exec_adder (hdie : die < 4)
    (hi : (s.reduction die).inputs.find? (fun i => decide (i.input.rank < 2048) && decide (((s.reduction die).group i).length = s.inputsDue i)) = some i) :
    exec (.adder die) s = .next (s.addUp die i ((s.reduction die).group i)) := by
  rw [show exec (.adder die) s = execAdder die s from rfl, execAdder, onUnit_of_lt hdie]
  dsimp only
  rw [hi]

/-- What leaves the first tier for the owner's second (R242). -/
def State.partialOf (s : State) (die : Nat) (h : HandOver) (j : Job) : HandOver := { h with hop := .partialSum, rank := s.rankOf j s.gidx, place := 0x100 + die }

theorem State.passPartial_eq (s : State) (die : Nat) (h : HandOver) (j : Job) (c : Coll) : s.passPartial die h j c =
    if s.nPal j ≤ 1 then s.passResult die h j c
    else if s.ownerOf j (j.pathNumber c h.chunk) = s.gidx then s.arrive die (s.partialOf die h j)
    else s.sendChunk (s.partialOf die h j) j c 1 (s.ownerOf j (j.pathNumber c h.chunk)) := rfl

theorem State.arrive_reduction (s : State) (die : Nat) (h : HandOver) :
    (s.arrive die h).reduction die = { s.reduction die with arrivals := (s.reduction die).arrivals ++ [h] } := by
  rw [State.arrive, State.setReduction_reduction, if_pos rfl]

theorem State.passPartial_endures (s : State) (die : Nat) (h : HandOver) (j : Job) (c : Coll) : Endures s (s.passPartial die h j c) := by
  rw [State.passPartial_eq]
  exact .ite (State.takeResult_endures ..) (.ite (s.setReduction_endures fun _ hk => hk) (State.sendChunk_endures ..))

theorem State.adderOut_endures : Endures s (s.adderOut die i) := s.setReduction_endures fun _ hk => (List.mem_filter.mp hk).1

theorem State.adderOut_reduction : (s.adderOut die i).reduction die =
    { s.reduction die with inputs := (s.reduction die).inputs.filter fun k => !((s.reduction die).group i).contains k } := by
  rw [State.adderOut, State.setReduction_reduction, if_pos rfl]

/-- What an adder makes of its inputs: it keeps none, and its sum goes to the second tier or, from the last tier, is the result. -/
theorem State.addUp_hands (hj : SMap.find? s.jobs i.input.job = some j) (hc : SMap.find? s.colls i.input.coll = some c) {t : State} {h : HandOver}
    (ht : t = s.addUp die i ((s.reduction die).group i)) (hh : h = (s.reduction die).sum die i c) :
    (∀ k ∈ (t.reduction die).inputs, k ∈ (s.reduction die).inputs ∧ k ∉ (s.reduction die).group i) ∧
    (i.input.hop = .contribution → 1 < s.nPal j →
      (s.ownerOf j (j.pathNumber c i.input.chunk) = s.gidx → (t.reduction die).arrivals = (s.reduction die).arrivals ++ [s.partialOf die h j]) ∧
      (s.ownerOf j (j.pathNumber c i.input.chunk) ≠ s.gidx → s.Hopped t (s.partialOf die h j) j c 1 (s.ownerOf j (j.pathNumber c i.input.chunk)))) ∧
    (i.input.hop ≠ .contribution ∨ s.nPal j ≤ 1 → s.LandsWhole { h with hop := .result } j c →
      Landed s { h with hop := .result } j c t ∧ (¬(c.op = 2 ∧ h.attempt = 0) → s.Spread { h with hop := .result } j c t)) := by
  obtain ⟨u, hu, hadd⟩ := State.addUp_sums (die := die) hj hc
  rw [hadd, ← hh] at ht
  have hsu : Endures s u := State.adderOut_endures.trans hu.endures
  have hpal : u.nPal j = s.nPal j := rfl
  have howner (n : Nat) : u.ownerOf j n = s.ownerOf j n := hsu.paletteOwner j _ n
  have hpart : u.partialOf die h j = s.partialOf die h j := by
    rw [State.partialOf, hsu.gidx]
    rfl
  have hchunk : h.chunk = i.input.chunk := by rw [hh]; rfl
  refine ⟨fun k hk => ?_, fun hhop hpal => ?_, fun hlast hw => ?_⟩
  · have hut : Endures u t := by
      rw [ht]
      exact .ite (State.passPartial_endures ..) (State.takeResult_endures ..)
    have hk' := hu.endures.inputs die k (hut.inputs die k hk)
    rw [State.adderOut_reduction, List.mem_filter] at hk'
    simpa using hk'
  · rw [if_pos hhop, State.passPartial_eq, if_neg (by omega), hpart, hchunk, howner, hsu.gidx] at ht
    refine ⟨fun hown => ?_, fun hown => ?_⟩
    · obtain ⟨js, b, rfl, -⟩ := hu
      rw [ht, if_pos hown, State.arrive_reduction, State.withEngines_reduction, State.adderOut_reduction]
    · rw [ht, if_neg hown]
      exact hsu.hopped (u.sendChunk_hops _ _ _ _ _)
  · obtain ⟨js, b, rfl, hjobs⟩ := hu
    obtain ⟨k, hk, hjk⟩ := hjobs j hj
    subst hh
    have htake : t = (s.withEngines (s.adderOut die i).reductions js b).takeResult { (s.reduction die).sum die i c with hop := .result } j c := by
      have hresult : t = ((s.adderOut die i).withEngines (s.adderOut die i).reductions js b).passResult die ((s.reduction die).sum die i c) j c := by
        rw [ht]
        split
        · next hhop => rw [State.passPartial_eq, hpal, if_pos (hlast.resolve_left fun hne => hne hhop)]
        · rfl
      rw [hresult, State.adderOut, State.setReduction_withEngines]
      rfl
    rw [htake]
    obtain ⟨hlanded, -, hspread⟩ := State.takeResult_lands (s.adderOut die i).reductions b hw hc hk hjk
    exact ⟨hlanded, hspread⟩

end

/-! ### The obligation -/

section
variable {s : State} {die : Nat} {h : HandOver} {j : Job} {c : Coll} {r : StepRun}

theorem State.chunkOut_reduction : (s.chunkOut die h).reduction die = { s.reduction die with arrivals := (s.reduction die).arrivals.erase h } := by
  rw [State.chunkOut, State.setReduction_reduction, if_pos rfl]

/-- A chunk dropped (R250): gone from its die's arrivals, and an entry made. -/
theorem State.chunkOut_dropped (hstale : SMap.find? s.jobs h.job = none ∨ SMap.find? s.colls h.coll = none ∨ h.key ∈ (s.reduction die).accepted ∨
    ∃ j, SMap.find? s.jobs h.job = some j ∧ ∀ r, j.run = some r → (r.step ≠ h.step ∨ h.attempt < r.attempt)) :
    ∃ t, (s.chunkOut die h).receiveChunk die h = t ∧ t.reduction die = { s.reduction die with arrivals := (s.reduction die).arrivals.erase h } ∧
      t = { s with reductions := t.reductions, blotter := t.blotter } := by
  have hdrop := State.receiveChunk_drops (s := s.chunkOut die h) (die := die) (h := h) (by rw [State.chunkOut_reduction]; exact hstale)
  refine ⟨_, rfl, ?_, ?_⟩
  · rw [hdrop, State.dropChunk_frame]
    exact State.chunkOut_reduction
  · rw [hdrop, State.dropChunk_frame]
    rfl

/-- An input held after its check, which is counted where it failed (R247, R248). -/
theorem State.held_counts (h1 : s.Accepts die h j c r) (h5 : c.op ≠ 5) (f : Bool) : ∃ t, ((s.chunkIn die h).checkReceipt h j c).holdInput die h f = t ∧
    (JobNow t h.job fun k => ∃ q, k.run = some q ∧ q.rfail = r.rfail + bit (!(Chunk.ofBytes h.bytes).passes && !r.counted.contains (h.coll, h.chunk))) ∧
    t.reduction die = { s.takenIn die h with inputs := (s.reduction die).inputs ++ [⟨h, f⟩] } ∧
    t = { s with reductions := t.reductions, jobs := t.jobs, blotter := t.blotter } := by
  obtain ⟨hred, rs, hframe⟩ := State.held_after_checks (f := f) (State.checkReceipt_checksOnly (s := s.chunkIn die h) (j := j) (c := c))
  refine ⟨_, rfl, ?_, hred, by rw [hframe]; rfl⟩
  rw [hframe]
  exact State.checkReceipt_counts (s := s.chunkIn die h) h1.job h1.run h5

/-- A chunk sent waits last on its channel at the port that leads to its peer. -/
theorem State.sendChunk_last (u : State) (h : HandOver) (j : Job) (c : Coll) (hop : Nat) {g p : Nat} (hr : u.route g = some p) (hc : u.carries p 1 = true)
    (hp : u.isPartner j g = false) : ∃ w, (SMap.get [] ((u.sendChunk h j c hop g).port p).queues 1).getLast? = some w ∧ w.dst = g ∧
      w.lease = u.lnum j.atelier ∧ w.packet.payload = padTo (roundUp h.bytes.length 64) h.bytes := by
  rw [State.sendChunk, if_neg (by simp [hp])]
  exact ⟨_, State.sendPacket_queued hr hc, rfl, rfl, rfl⟩

theorem State.sendChunk_reduction (u : State) (h : HandOver) (j : Job) (c : Coll) (hop g die : Nat) :
    (u.sendChunk h j c hop g).reduction die = u.reduction die := by
  rw [show u.sendChunk h j c hop g = _ from u.sendChunk_sendsOnly h j c hop g]
  rfl

theorem State.sendChunk_frame (s : State) (rs : SMap Reduction) (js : SMap Job) (b : Blotter) (h : HandOver) (j : Job) (c : Coll) (hop g : Nat) :
    ∃ ps ts, (s.withEngines rs js b).sendChunk h j c hop g = { s with reductions := rs, jobs := js, blotter := b, ports := ps, tags := ts } :=
  ⟨_, _, (s.withEngines rs js b).sendChunk_sendsOnly h j c hop g⟩

/-- What a contribution that does not stay is sent on from: the engine has it in, and its check is counted. -/
theorem State.sent_counts (h1 : s.Accepts die h j c r) (h5 : c.op ≠ 5) (g : Nat) : ∃ t, ((s.chunkIn die h).checkReceipt h j c).sendChunk h j c 0 g = t ∧
    (JobNow t h.job fun k => ∃ q, k.run = some q ∧ q.rfail = r.rfail + bit (!(Chunk.ofBytes h.bytes).passes && !r.counted.contains (h.coll, h.chunk))) ∧
    t.reduction die = s.takenIn die h ∧
    (∀ p, s.route g = some p → s.carries p 1 = true → s.isPartner j g = false → ∃ w, (SMap.get [] (t.port p).queues 1).getLast? = some w ∧ w.dst = g ∧
      w.lease = s.lnum j.atelier ∧ w.packet.payload = padTo (roundUp h.bytes.length 64) h.bytes) ∧
    t = { s with reductions := t.reductions, jobs := t.jobs, blotter := t.blotter, ports := t.ports, tags := t.tags } := by
  have hcounts := State.checkReceipt_counts (s := s.chunkIn die h) h1.job h1.run h5
  obtain ⟨js, b, hchecked, -⟩ := State.checkReceipt_checksOnly (s := s.chunkIn die h) (h := h) (j := j) (c := c)
  have hengines : ((s.chunkIn die h).checkReceipt h j c).reduction die = s.takenIn die h := by
    rw [hchecked, State.withEngines_reduction, State.chunkIn_reduction]
  have hmoved : Endures s ((s.chunkIn die h).checkReceipt h j c) := State.chunkIn_endures.trans State.checkReceipt_checksOnly.endures
  refine ⟨_, rfl, ?_, by rw [State.sendChunk_reduction, hengines], fun p hr hc hp => ?_, ?_⟩
  · rw [show State.sendChunk .. = _ from State.sendChunk_sendsOnly ..]
    exact hcounts
  · rw [← hmoved.lnum]
    exact State.sendChunk_last _ h j c 0 ((hmoved.route g).trans hr) ((hmoved.carries p 1).trans hc) ((hmoved.isPartner j g).trans hp)
  · rw [hchecked, State.chunkIn_withEngines]
    obtain ⟨ps, ts, hsent⟩ := s.sendChunk_frame (s.chunkIn die h).reductions js b h j c 0 g
    rw [hsent]

/-! A forerunner sum's contribution (R280). -/

/-- What a forerunner chunk that is held leaves, its mate gone from the inputs or not. -/
theorem State.forerunner_holds {u : State} (hu : ∃ rs, u = s.withEngines rs s.jobs s.blotter) {l : List Held}
    (hred : u.reduction die = { s.takenIn die h with inputs := l }) (k : HandOver) : ∃ t, u.holdInput die k false = t ∧
      t.reduction die = { s.takenIn die h with inputs := l ++ [⟨k, false⟩] } ∧ t = { s with reductions := t.reductions } := by
  obtain ⟨rs, rfl⟩ := hu
  refine ⟨_, rfl, by rw [State.holdInput_reduction, hred], ?_⟩
  rw [State.holdInput_frame]
  rfl

/-- The engine once a forerunner chunk is in and its mate is out. -/
def State.mateOut (s : State) (die : Nat) (h : HandOver) (o : Held) : State :=
  (s.chunkIn die h).setReduction die { s.takenIn die h with inputs := (s.reduction die).inputs.filter fun i => decide (i ≠ o) }

theorem State.mateOut_engines (o : Held) : ∃ rs, s.mateOut die h o = s.withEngines rs s.jobs s.blotter := by
  rw [State.mateOut, State.setReduction_frame, State.chunkIn_withEngines]
  exact ⟨_, rfl⟩

theorem State.mateOut_reduction (o : Held) :
    (s.mateOut die h o).reduction die = { s.takenIn die h with inputs := (s.reduction die).inputs.filter fun i => decide (i ≠ o) } := by
  rw [State.mateOut, State.setReduction_reduction, if_pos rfl]

theorem State.mateOut_endures (o : Held) : Endures s (s.mateOut die h o) := by
  refine State.chunkIn_endures.trans (State.setReduction_endures _ fun k hk => ?_)
  rw [State.chunkIn_reduction]
  exact (List.mem_filter.mp hk).1

/-- The mate that a chunk finds is of its own number. -/
theorem Reduction.otherPart_chunk {x : Reduction} {o : Held} (ho : x.otherPart h = some o) : o.input.chunk = h.chunk := by
  have hmate := List.find?_some ho
  simp only [HandOver.mate, Bool.and_eq_true, decide_eq_true_eq] at hmate
  exact hmate.1.1.1.1.2

theorem State.bothParts_chunk {o : Held} (ho : o.input.chunk = h.chunk) : (s.bothParts h o j).chunk = h.chunk := by
  unfold State.bothParts
  dsimp only
  split
  · rfl
  · exact ho

/-- A host member's chunk that finds no mate is held, one that finds it makes their contribution (R280). -/
theorem chunkReceive_hostPart (h1 : s.Accepts die h j c r) (hhop : h.hop = .contribution) (h5 : c.op = 5) (hrank : 2048 ≤ h.rank) :
    ((s.reduction die).otherPart h = none → (s.chunkOut die h).receiveChunk die h = (s.chunkIn die h).holdInput die h false) ∧
    ∀ o, (s.reduction die).otherPart h = some o → (s.chunkOut die h).receiveChunk die h = (s.mateOut die h o).takeContribution die (s.bothParts h o j) j c false := by
  have hpart : ((s.chunkIn die h).reduction die).otherPart h = (s.reduction die).otherPart h := by
    rw [State.chunkIn_reduction]
    rfl
  rw [chunkReceive_forerunner h1 hhop h5, if_pos hrank]
  refine ⟨fun ho => State.meetPartner_waits (hpart.trans ho), fun o ho => ?_⟩
  have hboth : (s.chunkIn die h).bothParts h o j = s.bothParts h o j := by
    rw [State.bothParts, State.chunkIn_endures.gidx]
    rfl
  rw [State.meetPartner_meets (hpart.trans ho), hboth, State.chunkIn_reduction]
  rfl

end

/-- Settles O52: a chunk received is dropped or taken in (`receiveChunk_drops`, `receiveChunk_takes`), a result lands (`takeResult_lands`), and
an adder hands its sum on (`addUp_hands`). -/
theorem reductions : Obligations.Reductions := by
  unfold Obligations.Reductions
  intro s die hdie x hopped lands
  have hlands {t : State} {h : HandOver} {j : Job} {c : Coll} {also : Prop}
      (hl : s.LandsWhole h j c → also ∧ Landed s h j c t ∧ (¬(c.op = 2 ∧ h.attempt = 0) → s.Spread h j c t)) : lands t h j c also := by
    intro hsound hbefore hgood hafter
    obtain ⟨halso, hlanded, hspread⟩ := hl ⟨hsound, hbefore, hgood, hafter⟩
    exact ⟨halso, hlanded.gddr, hlanded.reservoir, hlanded.poison, hlanded.placed, fun hop hrun _ => hlanded.passed hop hrun,
      fun hgoes => ⟨(hspread hgoes).owners, (hspread hgoes).palette⟩⟩
  refine ⟨fun h hh => ⟨fun hstale => ?_, fun j c r hj hc hr hstep hattempt hfresh h5 => ?_, fun j c r hj hc hr hstep hattempt hfresh h5 => ?_⟩,
    fun i hi j c hj hc => ?_, fun hearly => exec_chunkReceive_idle hdie hearly⟩
  · obtain ⟨t, ht, hred, hframe⟩ := State.chunkOut_dropped hstale
    exact ⟨t, (exec_chunkReceive hdie hh).trans (congrArg _ ht), hred, hframe⟩
  · have h1 : s.Accepts die h j c r := ⟨hj, hc, hr, hstep, hattempt, hfresh⟩
    have hmoved : Endures s ((s.chunkIn die h).checkReceipt h j c) := State.chunkIn_endures.trans State.checkReceipt_checksOnly.endures
    intro passes owner taken counted
    refine ⟨fun hhop hown hm => ?_, fun hhop hown => ?_, fun hhop => ?_, fun hhop => ?_⟩
    · obtain ⟨t, ht, hcount, hred, hframe⟩ := State.held_counts h1 h5 (!passes)
      refine ⟨t, (exec_chunkReceive hdie hh).trans (congrArg _ ?_), hcount, hred, hframe⟩
      rw [chunkReceive_contribution h1 hhop h5, State.takeContribution_holds ?_ (show 2 ≤ ((s.chunkIn die h).checkReceipt h j c).mPos j from hm), ht]
      rw [hmoved.ownPalette, hmoved.paletteOwner, hmoved.gidx]
      exact hown
    · obtain ⟨t, ht, hcount, hred, hqueued, hframe⟩ := State.sent_counts h1 h5 owner
      refine ⟨t, (exec_chunkReceive hdie hh).trans (congrArg _ ?_), hcount, hred, hqueued, hframe⟩
      rw [chunkReceive_contribution h1 hhop h5, State.takeContribution_sends ?_, hmoved.ownPalette, hmoved.paletteOwner]
      · exact ht
      · rw [hmoved.ownPalette, hmoved.paletteOwner, hmoved.gidx]
        exact hown
    · obtain ⟨t, ht, hcount, hred, hframe⟩ := State.held_counts h1 h5 (!passes)
      refine ⟨t, (exec_chunkReceive hdie hh).trans (congrArg _ ?_), hcount, hred, hframe⟩
      rw [chunkReceive_partialSum h1 hhop, decide_eq_true h5, Bool.true_and]
      exact ht
    · obtain ⟨t, ht, hl⟩ := chunkReceive_result h1 hhop
      exact ⟨t, (exec_chunkReceive hdie hh).trans (congrArg _ ht), hlands hl⟩
  · have h1 : s.Accepts die h j c r := ⟨hj, hc, hr, hstep, hattempt, hfresh⟩
    have hin : Endures s (s.chunkIn die h) := State.chunkIn_endures
    have hengines : ∃ rs, s.chunkIn die h = s.withEngines rs s.jobs s.blotter := ⟨_, State.chunkIn_engines⟩
    intro owner taken other held
    have hheld {u : State} (hu : ∃ rs, u = s.withEngines rs s.jobs s.blotter) {l : List Held} (hred : u.reduction die = { s.takenIn die h with inputs := l })
        {k : HandOver} (hk : (s.chunkOut die h).receiveChunk die h = u.holdInput die k false) : held k l := by
      obtain ⟨t, ht, hleft⟩ := State.forerunner_holds hu hred k
      exact ⟨t, (exec_chunkReceive hdie hh).trans (congrArg _ (hk.trans ht)), hleft⟩
    refine ⟨fun hhop => hheld hengines State.chunkIn_reduction ?_, fun hhop => ?_, fun hhop hrank hown hm => hheld hengines State.chunkIn_reduction ?_,
      fun hhop hrank ho => hheld hengines State.chunkIn_reduction ((chunkReceive_hostPart h1 hhop h5 hrank).1 ho), fun hhop hrank o ho => ?_⟩
    · rw [chunkReceive_partialSum h1 hhop, State.checkReceipt_of_sum h5, h5]
      rfl
    · obtain ⟨t, ht, hl⟩ := chunkReceive_result h1 hhop
      exact ⟨t, (exec_chunkReceive hdie hh).trans (congrArg _ ht), hlands hl⟩
    · rw [chunkReceive_forerunner h1 hhop h5, if_neg (by omega)]
      refine State.takeContribution_holds ?_ (show 2 ≤ (s.chunkIn die h).mPos j from hm) false
      rw [hin.ownPalette, hin.paletteOwner, hin.gidx]
      exact hown
    · have hout := State.mateOut_endures (s := s) (die := die) (h := h) o
      have hchunk : (s.bothParts h o j).chunk = h.chunk := State.bothParts_chunk (Reduction.otherPart_chunk ho)
      have howner : (s.mateOut die h o).paletteOwner j ((s.mateOut die h o).ownPalette j) (j.pathNumber c (s.bothParts h o j).chunk) = owner := by
        rw [hout.ownPalette, hout.paletteOwner, hchunk]
      have htaken := (chunkReceive_hostPart h1 hhop h5 hrank).2 o ho
      intro own both
      refine ⟨fun hown hm => hheld (State.mateOut_engines o) (State.mateOut_reduction o) (htaken.trans ?_), fun hown => ?_⟩
      · exact State.takeContribution_holds (howner.trans (hown.trans hout.gidx.symm)) (show 2 ≤ (s.mateOut die h o).mPos j from hm) false
      · have hsends := State.takeContribution_sends (s := s.mateOut die h o) (die := die) (h := s.bothParts h o j) (j := j) (c := c)
          (fun he => hown (howner.symm.trans (he.trans hout.gidx))) false
        rw [howner] at hsends
        refine ⟨_, (exec_chunkReceive hdie hh).trans (congrArg _ (htaken.trans hsends)), hout.hopped ((s.mateOut die h o).sendChunk_hops _ _ _ _ _), ?_⟩
        rw [State.sendChunk_reduction, State.mateOut_reduction]
        rfl
  · intro out total h partSum owner
    obtain ⟨hinputs, hpartial, hresult⟩ := State.addUp_hands (die := die) hj hc rfl rfl
    refine ⟨_, exec_adder hdie hi, hinputs, fun hhop hpal hown => (hpartial hhop hpal).1 hown, fun hhop hpal hown => (hpartial hhop hpal).2 hown, fun hlast => ?_⟩
    exact hlands fun hw => ⟨trivial, hresult hlast hw⟩

end Sys2Proof.Machine
end

section
/-!
PROOF. The creation of a collective (O53): what the end of a command leaves of the descriptors, and what COLL_CREATE answers.
-/
namespace Sys2Proof.Machine

open Sys2Proof.Claims

/-! ### What the end of a command leaves of a collective -/

/-- A descriptor of which nothing but what counts its references has changed (R319). -/
def Coll.Recounted (c d : Coll) : Prop := d = { c with refs := d.refs }

/-- Between the two states every collective is still there, its references apart. -/
def CollsStand (s t : State) : Prop := ∀ n c, SMap.find? s.colls n = some c → ∃ d, SMap.find? t.colls n = some d ∧ c.Recounted d

theorem CollsStand.refl (s : State) : CollsStand s s := fun _ c h => ⟨c, h, rfl⟩
theorem CollsStand.trans {s t u : State} (h : CollsStand s t) (k : CollsStand t u) : CollsStand s u := fun n c hc => by
  obtain ⟨d, hd, hcd⟩ := h n c hc
  obtain ⟨e, he, hde⟩ := k n d hd
  exact ⟨e, he, hde.trans (by rw [hcd])⟩
theorem CollsStand.of_eq {s t : State} (h : t.colls = s.colls) : CollsStand s t := fun _ c hc => ⟨c, by rw [h, hc], rfl⟩
theorem CollsStand.foldl {α : Type} {f : State → α → State} (hf : ∀ s x, CollsStand s (f s x)) (l : List α) (s : State) : CollsStand s (l.foldl f s) :=
  foldl_related .refl .trans hf l s

theorem State.reference_collsStand (s : State) (f : Nat → Nat) (x : ObjKind × Nat) : CollsStand s (s.reference f x) := by
  unfold State.reference
  split
  case h_4 k =>
    intro n c hc
    dsimp only
    rw [SMap.find?_adjust, hc]
    split
    · exact ⟨_, rfl, rfl⟩
    · exact ⟨c, rfl, rfl⟩
  all_goals exact .of_eq rfl

theorem State.refer_collsStand (s : State) (f : Nat → Nat) (os : List (ObjKind × Nat)) : CollsStand s (s.refer f os) :=
  CollsStand.foldl (fun s x => s.reference_collsStand f x) os s

theorem State.dropHold_collsStand (s : State) (x : ObjKind × Nat) : CollsStand s (s.dropHold x) := by
  unfold State.dropHold
  split
  · next n =>
    split
    · split
      · exact CollsStand.trans (t := { s with jobs := SMap.adjust s.jobs n fun x => { x with holding := false } }) (.of_eq rfl) (State.refer_collsStand _ _ _)
      · exact .refl s
    · exact .refl s
  · exact .refl s

theorem State.latchNext_colls (s : State) (queue : Nat) : (s.latchNext queue).colls = s.colls := by
  unfold State.latchNext
  split
  · split <;> rfl
  · rfl

theorem State.hostWrite_colls (s : State) (port : Nat) (pasid : Option Nat) (addr : Nat) (bytes : Bytes) :
    (s.hostWrite port pasid addr bytes).colls = s.colls := by
  unfold State.hostWrite
  rw [s.reachHost_frame]

theorem State.interrupt_colls (s : State) (a vector : Nat) : (s.interrupt a vector).colls = s.colls := by
  unfold State.interrupt
  split
  · dsimp only
    split <;> rfl
  · rfl

theorem State.pushCompletion_colls (s : State) (n : Nat) (c : Completion) : (s.pushCompletion n c).colls = s.colls := by
  unfold State.pushCompletion
  split
  · rfl
  split
  · rfl
  split
  · dsimp only
    split
    · rw [State.interrupt_colls, State.onQueue_colls, State.hostWrite_colls]
    · rw [State.onQueue_colls, State.hostWrite_colls]
  · rw [State.onQueue_colls]

theorem State.finish_collsStand (s : State) (n status result : Nat) : CollsStand s (s.finish n status result) := by
  unfold State.finish State.endCommand
  split
  · exact .refl s
  · next c _ =>
    have hends := (CollsStand.of_eq (s := s) (t := { s with commands := SMap.del s.commands n }) rfl).trans
      ((State.refer_collsStand _ (· - 1) c.refs).trans (CollsStand.foldl State.dropHold_collsStand c.refs _))
    have htold := hends.trans (.of_eq (State.latchNext_colls _ c.queue))
    dsimp only
    split
    · exact htold.trans (.of_eq (State.pushCompletion_colls ..))
    · exact htold.trans (.of_eq (State.pushCompletion_colls ..))

/-! ### COLL_CREATE (R287, R288, R321, R495) -/

section
variable {s : State} {n : Nat} {c : Cmd}

theorem exec_collCreate (h : Running s n 0x0C c) : exec (.collCreate n) s = .next
    (if c.collStatus ≠ 0 then s.refuse n c.collStatus 0
     else if !s.hasRoom c then s.refuse n 0x06 0
     else if s.tableStatus c = 0x0E then s.finish n 0x0E 0
     else if s.tableStatus c ≠ 0 then s.refuse n (s.tableStatus c) 0
     else { s with colls := SMap.put s.colls (SMap.freeKey s.colls 16384 0) (s.drafted c) }.finish n 0x00 (SMap.freeKey s.colls 16384 0)) :=
  (onCommand_of_running h _).trans rfl

theorem exec_collCreate_refused (h : Running s n 0x0C c) {status : Nat} (hstatus : c.collStatus = status) (hbad : status ≠ 0) :
    exec (.collCreate n) s = .next (s.refuse n status 0) := by
  rw [exec_collCreate h, hstatus, if_pos hbad]

theorem exec_collCreate_made (h : Running s n 0x0C c) (hstatus : c.collStatus = 0) (hroom : s.hasRoom c = true) (htable : s.tableStatus c = 0) :
    exec (.collCreate n) s = .next ({ s with colls := SMap.put s.colls (SMap.freeKey s.colls 16384 0) (s.drafted c) }.finish n 0x00 (SMap.freeKey s.colls 16384 0)) := by
  rw [exec_collCreate h, hstatus, hroom, htable]
  rfl

theorem Cmd.collStatus_of_other (hctx : bitsIn (slice c.bytes 64 64) 240 8 ≠ c.ctx) : c.collStatus = 0x05 := if_pos hctx

theorem Cmd.collStatus_of_bad (hctx : bitsIn (slice c.bytes 64 64) 240 8 = c.ctx) (hgood : collGood (slice c.bytes 64 64) = false) : c.collStatus = 0x07 := by
  rw [Cmd.collStatus, if_neg (not_not_intro hctx), hgood, if_pos (by decide)]

theorem Cmd.collStatus_of_good (hctx : bitsIn (slice c.bytes 64 64) 240 8 = c.ctx) (hgood : collGood (slice c.bytes 64 64) = true) :
    c.collStatus = if bitsIn (slice c.bytes 64 64) 80 48 % 8 ≠ 0 then 0x09 else 0 := by
  rw [Cmd.collStatus, if_neg (not_not_intro hctx), hgood, if_neg (by simp)]

/-- Its room (R321): a number that is free, and fewer collectives than the atelier's quota. -/
theorem State.hasRoom_coll (hop : c.opcode = 0x0C) (hslot : SMap.freeKey s.colls 16384 0 < 16384) {e : AtelierEntry} (he : s.entry c.atelier = some e)
    (hquota : (s.colls.filter fun x => (SMap.find? s.contexts x.2.ctx).any fun y => decide (y.atelier = c.atelier)).length < e.collq) : s.hasRoom c = true := by
  have hcount : s.ofAtelier c.atelier (s.colls.map fun x => x.2.ctx) =
      (s.colls.filter fun x => (SMap.find? s.contexts x.2.ctx).any fun y => decide (y.atelier = c.atelier)).length := by
    rw [State.ofAtelier, List.filter_map, List.length_map]
    rfl
  unfold State.hasRoom
  rw [hop, he, hcount]
  simp [hslot, hquota]

/-- Its contributor table is good (R495). -/
theorem State.tableStatus_good {es : List Contributor} (hes : (s.drafted c).contributors = es)
    (hin : (s.objectAt c.ctx ((s.drafted c).field 80 48) (8 * (s.drafted c).field 64 14)).isSome = true)
    (hread : (s.fetch c.ctx ((s.drafted c).field 80 48) (8 * (s.drafted c).field 64 14)).bad = [])
    (hgood : ∀ x ∈ es, s.contributorGood c.atelier (s.drafted c).op x = true) : s.tableStatus c = 0 := by
  have hall : (s.drafted c).contributors.all (s.contributorGood c.atelier (s.drafted c).op) = true := by
    rw [hes]
    exact List.all_eq_true.mpr hgood
  unfold State.tableStatus
  dsimp only
  rw [hread, hall, if_neg (by simpa using Option.isSome_iff_ne_none.mp hin)]
  rfl

/-- A collective as its creation lists it, its command ended. -/
theorem State.created_stands {t : State}
    (ht : t = { s with colls := SMap.put s.colls (SMap.freeKey s.colls 16384 0) (s.drafted c) }.finish n 0x00 (SMap.freeKey s.colls 16384 0)) :
    ∃ x, SMap.find? t.colls (SMap.freeKey s.colls 16384 0) = some x ∧ (s.drafted c).Recounted x ∧ SMap.find? t.commands n = none := by
  subst ht
  obtain ⟨x, hx, hdraft⟩ := State.finish_collsStand { s with colls := SMap.put s.colls (SMap.freeKey s.colls 16384 0) (s.drafted c) } n 0x00
    (SMap.freeKey s.colls 16384 0) (SMap.freeKey s.colls 16384 0) (s.drafted c) (by rw [SMap.find?_put, if_pos rfl])
  exact ⟨x, hx, hdraft, State.finish_commands ..⟩

end

end Sys2Proof.Machine
end

section
/-!
PROOF. Collectives that end in an abort (O53, R291, R450): what marks a run, what faults the atelier, and the abort packets that go to the
other members.
-/
namespace Sys2Proof.Machine

open Sys2Proof.Claims

/-! ### Runs marked aborted -/

/-- A run of which nothing has changed but that it was aborted or that its cores were told. -/
def CollRun.Marked (x y : CollRun) : Prop := y = { x with aborted := y.aborted, told := y.told }

theorem CollRun.Marked.refl (x : CollRun) : x.Marked x := rfl
theorem CollRun.Marked.trans {x y z : CollRun} (h : x.Marked y) (k : y.Marked z) : x.Marked z := Eq.trans k (by rw [h])
theorem CollRun.Marked.isOf {x y : CollRun} (h : x.Marked y) (n d step : Nat) : y.isOf n d step = x.isOf n d step := by
  rw [h]
  rfl

/-- Between the two states runs have been marked and cores told, and no more. -/
structure Marks (s t : State) : Prop where
  frame : t = { s with collectives := t.collectives, mesh := t.mesh }
  run : ∀ n d step x, s.collectives.find? (·.isOf n d step) = some x → ∃ y, t.collectives.find? (·.isOf n d step) = some y ∧ x.Marked y

theorem Marks.refl (s : State) : Marks s s := ⟨rfl, fun _ _ _ x hx => ⟨x, hx, .refl x⟩⟩
theorem Marks.trans {s t u : State} (h : Marks s t) (k : Marks t u) : Marks s u := by
  refine ⟨k.frame.trans (by rw [h.frame]), fun n d step x hx => ?_⟩
  obtain ⟨y, hy, hxy⟩ := h.run n d step x hx
  obtain ⟨z, hz, hyz⟩ := k.run n d step y hy
  exact ⟨z, hz, hxy.trans hyz⟩

theorem Marks.endures {s t : State} (h : Marks s t) : Endures s t := by
  rw [h.frame]
  exact .of_eq rfl rfl rfl rfl rfl

theorem Marks.mayFault {s t : State} (h : Marks s t) {a : Nat} (hmay : MayFault s a) : MayFault t a := by
  rw [h.frame]
  exact ⟨hmay.sound, hmay.held, hmay.alive⟩

theorem State.onColl_marks (s : State) (n d step : Nat) {f : CollRun → CollRun} (hf : ∀ x : CollRun, x.Marked (f x)) : Marks s (s.onColl n d step f) := by
  refine ⟨by rw [s.onColl_frame n d step f], fun n' d' step' x hx => ?_⟩
  unfold State.onColl
  split
  · next z hz =>
    split
    · exact ⟨x, hx, .refl x⟩
    · rw [State.putRun_find, (hf z).isOf]
      split
      · next hkey =>
        obtain ⟨rfl, rfl, rfl⟩ := CollRun.isOf_iff.mp hkey
        obtain ⟨rfl, rfl, rfl⟩ := CollRun.isOf_iff.mp (State.collRun_isOf hz)
        rw [State.collRun, hx] at hz
        cases hz
        exact ⟨f x, rfl, hf x⟩
      · exact ⟨x, hx, .refl x⟩
  · exact ⟨x, hx, .refl x⟩

theorem State.tellCores_marks (s : State) (x : CollRun) (c : Coll) (aborted : Option Nat) : Marks s (s.tellCores x c aborted) := by
  unfold State.tellCores
  split
  · obtain ⟨hframe, hrun⟩ := s.onColl_marks x.job x.desc x.step (f := fun y => { y with told := true }) fun _ => rfl
    exact ⟨by rw [hframe], hrun⟩
  · exact .refl s

theorem State.markAborted_marks (reason : Nat) (s : State) (y : CollRun) : Marks s (s.markAborted reason y) := by
  have hmarked := s.onColl_marks y.job y.desc y.step (f := fun y => { y with aborted := some reason }) fun _ => rfl
  unfold State.markAborted
  dsimp only
  split
  · exact hmarked.trans (State.tellCores_marks ..)
  · exact hmarked

theorem State.markAborted_fold_marks (reason : Nat) (l : List CollRun) (s : State) : Marks s (l.foldl (State.markAborted reason) s) :=
  foldl_related .refl .trans (State.markAborted_marks reason) l s

/-! ### An abort faults its atelier (R291) -/

section
variable {s : State} {x : CollRun} {j : Job}

/-- The runs that an abort takes with it, marked. -/
def State.markLater (s : State) (x : CollRun) (code : Nat) : State :=
  (s.collectives.filter fun y => y.job = x.job && y.step = x.step && decide (x.seq ≤ y.seq) && !y.complete).foldl (State.markAborted code) s

theorem State.markLater_marks (s : State) (x : CollRun) (code : Nat) : Marks s (s.markLater x code) := State.markAborted_fold_marks ..

theorem State.abortColl_eq (hj : SMap.find? s.jobs x.job = some j) (code : Nat) :
    s.abortColl x code = (s.markLater x code).faultAtelier j.atelier code (some x.step) (some j.ctx) [x.seq, x.job] := by
  have hjobs : SMap.find? (s.markLater x code).jobs x.job = some j := by rw [(s.markLater_marks x code).frame, ← hj]
  rw [show s.abortColl x code = match SMap.find? (s.markLater x code).jobs x.job with
    | some j => (s.markLater x code).faultAtelier j.atelier code (some x.step) (some j.ctx) [x.seq, x.job]
    | none => s.markLater x code from rfl, hjobs]

theorem State.abortColl_faults (hj : SMap.find? s.jobs x.job = some j) (hmay : MayFault s j.atelier) (code : Nat) :
    ((s.abortColl x code).atelier j.atelier).faulted = true ∧ ((s.abortColl x code).atelier j.atelier).fcode = BitVec.ofNat 16 code := by
  rw [State.abortColl_eq hj]
  exact State.faultAtelier_faults ((s.markLater_marks x code).mayFault hmay) ..

theorem State.abortColl_endures (hj : SMap.find? s.jobs x.job = some j) (code : Nat) : Endures s (s.abortColl x code) := by
  rw [State.abortColl_eq hj]
  exact (s.markLater_marks x code).endures.trans (State.faultAtelier_endures ..)

/-! ### Its abort packets (R291, R450) -/

/-- The packet that tells another member of an abort. -/
def State.abortPacket (s : State) (x : CollRun) (j : Job) (code g : Nat) : Packet :=
  ⟨packetHeader 1 4 0 s.gidx g (s.lnum j.atelier) 0 0 [(0, 32, x.seq), (32, 16, code), (64, 64, x.fprint), (128, 64, x.step)], []⟩

/-- An abort packet waits for another member where a port leads there. -/
def State.AbortSent (s t : State) (x : CollRun) (j : Job) (code g : Nat) : Prop :=
  ∀ q, s.route g = some q → s.carries q 1 = true → t.Queued q 1 g (s.lnum j.atelier) (s.abortPacket x j code g)

theorem Endures.abortSent {t u : State} {code g : Nat} (h : Endures s t) (ht : t.AbortSent u x j code g) : s.AbortSent u x j code g := fun q hr hc => by
  have hq := ht q ((h.route g).trans hr) ((h.carries q 1).trans hc)
  rw [State.abortPacket, h.gidx, h.lnum] at hq
  exact hq

theorem State.AbortSent.endures {t u : State} {code g : Nat} (h : s.AbortSent t x j code g) (ht : Endures t u) : s.AbortSent u x j code g :=
  fun q hr hc => ht.keeps (h q hr hc)

theorem State.sendAbort_sent (s : State) (x : CollRun) (j : Job) (code g : Nat) :
    s.AbortSent (s.sendAbort g (s.lnum j.atelier) x.seq code x.fprint x.step) x j code g := fun _ hr hc => State.sendPacket_queues hr hc ..

theorem State.abortMembers_sends (s : State) (x : CollRun) {j : Job} {g : Nat} (hg : g ∈ j.members) (hne : g ≠ s.gidx) (code : Nat) :
    s.AbortSent (s.abortMembers j x.seq code x.fprint x.step) x j code g :=
  Endures.foldl_of_mem (P := fun t => s.AbortSent t x j code g) (fun _ _ => State.sendPacket_endures ..) (fun _ _ ht h => h.endures ht)
    (List.mem_filter.mpr ⟨hg, by simpa using hne⟩) fun t ht => ht.abortSent (t.sendAbort_sent x j code g)

/-- A run that an abort of its atelier tells the other members of. -/
structure State.Unfinished (s : State) (x : CollRun) (j : Job) : Prop where
  listed : s.collectives.find? (·.isOf x.job x.desc x.step) = some x
  job : SMap.find? s.jobs x.job = some j
  launched : x.launched.isSome = true
  open_ : x.complete = false

theorem State.abortMembers_endures_sendsOnly (s : State) (j : Job) (seq code fprint step : Nat) :
    Endures s (s.abortMembers j seq code fprint step) ∧ SendsOnly s (s.abortMembers j seq code fprint step) :=
  ⟨State.abortMembers_endures .., State.abortMembers_sendsOnly ..⟩

theorem State.abortWork_sends (h : s.Unfinished x j) {g : Nat} (hg : g ∈ j.members) (hne : g ≠ s.gidx) (code : Nat) :
    s.AbortSent (s.abortWork j.atelier code) x j code g := by
  unfold State.abortWork
  extract_lets s1 s2
  have h1 : s.AbortSent s1 x j code g := by
    refine foldl_of_mem (R := fun s t => Endures s t ∧ SendsOnly s t) (P := fun t => s.AbortSent t x j code g) (fun t => ⟨.refl t, .refl t⟩)
      (fun h k => ⟨h.1.trans k.1, h.2.trans k.2⟩) (fun t c => ?_) (fun _ _ ht h => h.endures ht.1) (List.mem_of_find?_eq_some h.listed) fun t ht => ?_
    · split
      · split
        · exact State.abortMembers_endures_sendsOnly ..
        · exact ⟨.refl t, .refl t⟩
      · exact ⟨.refl t, .refl t⟩
    · rw [ht.2.aside.jobs, h.job]
      dsimp only
      rw [if_pos (by simp [h.launched, h.open_])]
      exact ht.1.abortSent (t.abortMembers_sends x hg (ht.1.gidx.symm ▸ hne) code)
  have h2 : Endures s1 s2 := by
    refine .foldl (fun t p => ?_) _ s1
    split
    · exact .ite (State.abortMembers_endures ..) (.refl t)
    · exact .refl t
  exact h1.endures (h2.trans (.of_eq rfl rfl rfl rfl rfl))

theorem State.onCores_collectives (s : State) (a : Nat) (f : Core → Core) : (s.onCores a f).collectives = s.collectives := by
  refine foldl_related (R := fun s t : State => t.collectives = s.collectives) (fun _ => rfl) (fun h k => k.trans h) (fun t n => ?_) _ s
  split <;> rfl

/-- A fault of a running collective's atelier tells the other members (R291, R450). -/
theorem State.faultAtelier_sends (h : s.Unfinished x j) (hmay : MayFault s j.atelier) {g : Nat} (hg : g ∈ j.members) (hne : g ≠ s.gidx) (code : Nat)
    (step ctx : Option Nat) (handles : List Nat) : s.AbortSent (s.faultAtelier j.atelier code step ctx handles) x j code g := by
  rw [State.faultAtelier_of_free (not_faultHeld_of_mayFault hmay)]
  generalize hs1 : (s.log code (some j.atelier) step ctx handles).setAtelier j.atelier ((s.atelier j.atelier).faultedAt s code) = s1
  have h1 : Endures s s1 := by
    rw [← hs1]
    exact .of_eq rfl rfl rfl rfl rfl
  have hjob1 : SMap.find? s1.jobs x.job = some j := by
    rw [← hs1]
    exact h.job
  have hlisted1 : s1.collectives = s.collectives := by
    rw [← hs1]
    rfl
  have hends := State.discardCommands_endsOnly (s1.onCores j.atelier Core.halted) j.atelier none
  have h2 : Endures s1 ((s1.onCores j.atelier Core.halted).discardCommands j.atelier none) := (s1.onCores_endures ..).trans hends.endures
  obtain ⟨k, hk, hjk⟩ := ((s1.onCores_aside j.atelier Core.halted).recounts.trans (State.discardCommands_recounts ..)).job x.job j hjob1
  generalize hs2 : (s1.onCores j.atelier Core.halted).discardCommands j.atelier none = s2 at hends h2 hk
  have hrunning : s2.Unfinished x k := by
    refine ⟨?_, hk, h.launched, h.open_⟩
    rw [hends.frame, ← h.listed, ← hlisted1, ← s1.onCores_collectives j.atelier Core.halted]
  have hsent := State.abortWork_sends hrunning (g := g) (by rw [hjk]; exact hg) ((h1.trans h2).gidx.symm ▸ hne) code
  rw [hjk.atelier] at hsent
  have hsame : s2.AbortSent (s2.abortWork j.atelier code) x j code g := by
    unfold State.AbortSent State.abortPacket at hsent ⊢
    rw [hjk.atelier] at hsent
    exact hsent
  refine ((h1.trans h2).abortSent hsame).endures ?_
  rw [← hs2]
  exact s1.discard_endures_abortWork j.atelier code

/-- What an abort of a running collective leaves: the atelier faulted, and an abort packet on its way to every other member (R291). -/
theorem State.abortColl_sends (h : s.Unfinished x j) (hmay : MayFault s j.atelier) {g : Nat} (hg : g ∈ j.members) (hne : g ≠ s.gidx) (code : Nat) :
    s.AbortSent (s.abortColl x code) x j code g := by
  have hmarks := s.markLater_marks x code
  obtain ⟨y, hy, hxy⟩ := hmarks.run _ _ _ _ h.listed
  have hrunning : (s.markLater x code).Unfinished y j := by
    refine ⟨?_, ?_, ?_, ?_⟩
    · rw [← hy, hxy]
    · rw [hxy, hmarks.frame]
      exact h.job
    · rw [hxy]
      exact h.launched
    · rw [hxy]
      exact h.open_
  have hsent := State.faultAtelier_sends hrunning (hmarks.mayFault hmay) hg (hmarks.endures.gidx.symm ▸ hne) code (some x.step) (some j.ctx) [x.seq, x.job]
  rw [State.abortColl_eq h.job]
  have hsame := hmarks.endures.abortSent hsent
  rw [hxy] at hsame
  exact hsame

end

end Sys2Proof.Machine
end

section
/-!
PROOF. The packets of a collective (O53, R289 to R295): which are dropped and which are held, and what one of a launched collective brings.
-/
namespace Sys2Proof.Machine

open Sys2Proof.Claims

/-- A packet as the collective it belongs to takes it up. -/
def Packet.carried (p : Packet) (port : Nat) : CollPacket := ⟨p.ptype, p.src, port, slice p.header 16 32, p.payload⟩

section
variable {s : State} {port ptype : Nat} {p : Packet}

/-- Taking a packet up leaves the links and what is queued at them. -/
theorem State.takePacket_endures (s : State) (port : Nat) (p : Packet) : Endures s (s.takePacket port p) := by
  have hport (q : Nat) : ((s.takePacket port p).port q).state = (s.port q).state ∧ ((s.takePacket port p).port q).version = (s.port q).version ∧
      ((s.takePacket port p).port q).queues = (s.port q).queues := by
    rw [State.takePacket, State.setPort_port]
    split
    · next h => rw [h]; exact ⟨rfl, rfl, rfl⟩
    · exact ⟨rfl, rfl, rfl⟩
  refine ⟨rfl, rfl, rfl, fun q => ⟨(hport q).1, (hport q).2.1⟩, fun q vc w hw => ?_, fun _ _ h => h⟩
  rw [(hport q).2.2]
  exact hw

/-- A row that takes up a packet of a collective hears it. -/
theorem exec_collPacket {i : Instr} (hport : port < 20)
    (hi : (i = Instr.chunksPacket port ∧ ptype = 1) ∨ (i = Instr.sparsePairs port ∧ ptype = 2) ∨ (i = Instr.gatherPacket port ∧ ptype = 3))
    (hp : (s.port port).packets.find? (fun p => decide (p.ptype = ptype)) = some p) (hseq : p.info 0 32 < 0xFFFFFFF0) :
    exec i s = .next ((s.takePacket port p).hearColl port p) := by
  rcases hi with ⟨rfl, rfl⟩ | ⟨rfl, rfl⟩ | ⟨rfl, rfl⟩
  · exact exec_packetRow hport hp fun s p => s.hearColl port p
  · exact exec_packetRow hport hp fun s p => s.hearColl port p
  · refine (exec_packetRow hport hp fun s p => if 0xFFFFFFF0 ≤ p.info 0 32 then s.hearSeal port p else s.hearColl port p).trans ?_
    rw [if_neg (by omega)]

theorem exec_gatherPacket_seal (hport : port < 20) (hp : (s.port port).packets.find? (fun p => decide (p.ptype = 3)) = some p)
    (hseq : 0xFFFFFFF0 ≤ p.info 0 32) : exec (.gatherPacket port) s = .next ((s.takePacket port p).hearSeal port p) := by
  refine (exec_packetRow hport hp fun s p => if 0xFFFFFFF0 ≤ p.info 0 32 then s.hearSeal port p else s.hearColl port p).trans ?_
  rw [if_pos hseq]
end

/-! ### Packets dropped and held (R250, R291) -/

section
variable {u : State} {port : Nat} {p : Packet} {n : Nat} {j : Job} {d : Nat} {c : Coll}

theorem State.hearColl_of_none (h : u.collOf p.lease p.src ((p.carried port).field 0 32) = none) :
    u.hearColl port p = u.dropChunkPacket (u.atelierOfLnum p.lease) p.src (p.carried port) := by
  unfold State.hearColl
  dsimp only
  rw [Packet.carried] at h
  rw [h]
  rfl

theorem State.hearColl_of_over (h : u.collOf p.lease p.src ((p.carried port).field 0 32) = some (n, j, d, c))
    (hover : u.overFor j ((p.carried port).field 128 64) = true) :
    u.hearColl port p = u.dropChunkPacket (some j.atelier) (u.rankOf j p.src) (p.carried port) := by
  rw [Packet.carried] at h hover
  unfold State.hearColl
  dsimp only
  rw [h]
  dsimp only
  rw [if_pos hover]
  rfl

/-- A packet of a step that is not over waits for its collective's launch, or is brought to it. -/
theorem State.hearColl_of_run (h : u.collOf p.lease p.src ((p.carried port).field 0 32) = some (n, j, d, c))
    (hover : u.overFor j ((p.carried port).field 128 64) = false) {x : CollRun} (hx : u.collRun n d ((p.carried port).field 128 64) = some x) :
    (x.launched = none → u.hearColl port p = u.putRun { x with held := x.held ++ [p.carried port] }) ∧
    (x.launched.isSome = true → u.hearColl port p = u.bring x j c (p.carried port)) := by
  have heard : u.hearColl port p = if x.launched.isNone then u.putRun { x with held := x.held ++ [p.carried port] } else u.bring x j c (p.carried port) := by
    rw [Packet.carried] at h hover hx
    unfold State.hearColl
    dsimp only
    rw [h]
    dsimp only
    rw [hover, hx]
    rfl
  rw [heard]
  refine ⟨fun hl => if_pos (by rw [hl]; rfl), fun hl => if_neg ?_⟩
  simpa using Option.isSome_iff_ne_none.mp hl

theorem State.sound_of_not_over {s : State} {j : Job} {step : Nat} (h : s.overFor j step = false) : (s.atelier j.atelier).faulted = false := by
  simp only [State.overFor, Bool.or_eq_false_iff] at h
  exact h.2

/-- A launched run is listed. -/
theorem State.collRun_listed {s : State} {n d step : Nat} {x : CollRun} (hx : s.collRun n d step = some x) (hl : x.launched.isSome = true) :
    s.collectives.find? (·.isOf n d step) = some x := by
  unfold State.collRun at hx
  split at hx
  · next hfound => rw [hfound, hx]
  · obtain ⟨c, -, rfl⟩ := Option.map_eq_some_iff.mp hx
    cases hl

theorem State.dropChunkPacket_of_other {k : CollPacket} (hk : k.ptype ≠ 1) (a : Option Nat) (src : Nat) : u.dropChunkPacket a src k = u := if_neg hk

theorem State.dropChunkPacket_of_one {k : CollPacket} (hk : k.ptype = 1) (hone : k.field 225 4 = 1) (a src : Nat) :
    u.dropChunkPacket (some a) src k = u.log 0x0103 (some a) (some (k.field 128 64)) none [k.field 192 33, src, k.field 36 1] := by
  unfold State.dropChunkPacket
  rw [if_pos hk, hone]
  rfl

theorem State.dropChunkPacket_frame (k : CollPacket) (a : Option Nat) (src : Nat) :
    u.dropChunkPacket a src k = { u with blotter := (u.dropChunkPacket a src k).blotter } := by
  unfold State.dropChunkPacket
  split
  · refine foldl_related (R := fun s t : State => t = { s with blotter := t.blotter }) (fun _ => rfl) (fun h k => k.trans (by rw [h])) (fun s i => ?_) _ u
    cases a <;> rfl
  · rfl

/-- A packet dropped: chunk by chunk, with an entry for each (R250). -/
theorem State.dropChunkPacket_drops (k : CollPacket) (a src : Nat) :
    ∃ t, u.dropChunkPacket (some a) src k = t ∧ (k.ptype ≠ 1 → t = u) ∧
      (k.ptype = 1 → k.field 225 4 = 1 → t = u.log 0x0103 (some a) (some (k.field 128 64)) none [k.field 192 33, src, k.field 36 1]) ∧
      t = { u with blotter := t.blotter } :=
  ⟨_, rfl, fun hk => State.dropChunkPacket_of_other hk .., fun hk hone => State.dropChunkPacket_of_one hk hone .., State.dropChunkPacket_frame ..⟩
end

/-! ### What a packet brings (R289, R291, R294, R295) -/

section
variable {u : State} {x : CollRun} {j : Job} {c : Coll} {k : CollPacket}

theorem State.bring_other (h : k.field 64 64 ≠ x.fprint) : u.bring x j c k = u.abortColl x 0x0403 := if_pos h

theorem State.bring_chunks (h : k.field 64 64 = x.fprint) (hk : k.ptype = 1) : u.bring x j c k = u.bringChunks x j c k := by
  unfold State.bring
  rw [if_neg (not_not_intro h), hk]
  rfl

theorem State.bring_pairs (h : k.field 64 64 = x.fprint) (hk : k.ptype = 2) : u.bring x j c k = u.bringPairs x j k := by
  unfold State.bring
  rw [if_neg (not_not_intro h), hk]
  rfl

theorem State.bring_gather (h : k.field 64 64 = x.fprint) (hk : k.ptype = 3) : u.bring x j c k = u.bringGather x j c k := by
  unfold State.bring
  rw [if_neg (not_not_intro h), hk]
  rfl

/-- A single chunk handed to its die's engine (R241, R289). -/
theorem State.bringChunks_one (hone : k.field 225 4 = 1) : ∃ h, u.bringChunks x j c k = u.arrive (k.field 192 33 % 4) h ∧ h.job = x.job ∧ h.step = x.step ∧
    h.chunk = k.field 192 33 ∧ h.attempt = k.field 36 1 ∧ h.place = k.port ∧ h.bytes = slice k.payload 0 (if c.op = 5 then 512 else 260) := by
  unfold State.bringChunks
  rw [hone]
  exact ⟨_, rfl, rfl, rfl, rfl, rfl, rfl, rfl⟩

theorem State.arrive_frame (u : State) (die : Nat) (h : HandOver) : u.arrive die h = { u with reductions := (u.arrive die h).reductions } := rfl

/-- Pairs of another member are kept (R295). -/
theorem State.bringPairs_keeps (hx : u.collRun x.job x.desc x.step = some x) (hj : SMap.find? u.jobs x.job = some j)
    (hsound : (u.atelier j.atelier).faulted = false) :
    u.bringPairs x j k = u.putRun { x with pairs := x.pairs ++ pairsOf x.block (u.rankOf j k.src) (k.field 224 16) k.payload } :=
  State.onColl_of_sound hx (fun j' hj' => by rw [hj] at hj'; cases hj'; exact hsound) _

/-- Where a gather packet's bytes are to come to (R294): what is here already of what its sender sends from its first rank on, and how many more fit. -/
def CollRun.gathered (x : CollRun) (k : CollPacket) : Nat := SMap.get 0 x.awaited (1024 * k.src + k.field 192 32)
def CollRun.gathers (x : CollRun) (c : Coll) (k : CollPacket) : Nat := min k.payload.length (c.count * k.field 224 8 - x.gathered k)

/-- Whether they are the last of them. -/
def CollRun.gatherDone (x : CollRun) (c : Coll) (k : CollPacket) : Bool := decide (c.count * k.field 224 8 ≤ x.gathered k + x.gathers c k)

/-- A run once they are written. -/
def CollRun.gather (x : CollRun) (c : Coll) (k : CollPacket) (y : CollRun) : CollRun :=
  { y with
    awaited := SMap.set 0 y.awaited (1024 * k.src + k.field 192 32) (if x.gatherDone c k then 0 else x.gathered k + x.gathers c k)
    placed := if x.gatherDone c k then NatSet.addAll y.placed (upFrom (k.field 192 32) (k.field 224 8)) else y.placed }

theorem State.bringGather_eq (hx : u.collRun x.job x.desc x.step = some x) : u.bringGather x j c k =
    ((u.jobStore x.job j (c.gatherAt (k.field 192 32) + x.gathered k) (slice k.payload 0 (x.gathers c k))).onColl x.job x.desc x.step (x.gather c k)).bundleGather x j c := by
  have hgather : x.gather c k = fun y => { y with
      awaited := SMap.set 0 y.awaited (1024 * k.src + k.field 192 32)
        (if c.count * k.field 224 8 ≤ x.gathered k + x.gathers c k then 0 else x.gathered k + x.gathers c k)
      placed := if c.count * k.field 224 8 ≤ x.gathered k + x.gathers c k then NatSet.addAll y.placed (upFrom (k.field 192 32) (k.field 224 8)) else y.placed } := by
    funext y
    simp only [CollRun.gather, CollRun.gatherDone, decide_eq_true_eq]
  rw [hgather]
  unfold State.bringGather
  rw [hx]
  rfl

/-- A palette's bundle that is sent already or not whole is not sent (R294). -/
theorem State.bundleGather_idle {y : CollRun} (hy : u.collRun x.job x.desc x.step = some y)
    (hidle : ¬(y.slot = 0 ∧ ∀ q ∈ upFrom (u.ownPalette j * u.mPos j) (u.mPos j), y.placed.has q = true)) : u.bundleGather x j c = u := by
  unfold State.bundleGather
  rw [hy]
  dsimp only
  rw [if_neg (by simpa using hidle)]

/-- Gathered bytes are written at their rank's place, and counted (R294). -/
theorem State.bringGather_writes (hx : u.collRun x.job x.desc x.step = some x) (hj : SMap.find? u.jobs x.job = some j) (hsound : (u.atelier j.atelier).faulted = false)
    {y : Store} (hy : y = u.store j.ctx (c.gatherAt (k.field 192 32) + x.gathered k) (slice k.payload 0 (x.gathers c k)))
    (hbefore : u.retiredIn j.ctx (c.gatherAt (k.field 192 32) + x.gathered k) (x.gathers c k) = none) (hgood : y.gddrBad = [])
    (hafter : y.state.retiredIn j.ctx (c.gatherAt (k.field 192 32) + x.gathered k) (x.gathers c k) = none)
    (hidle : ¬(x.slot = 0 ∧ ∀ q ∈ upFrom (u.ownPalette j * u.mPos j) (u.mPos j), (x.gather c k x).placed.has q = true)) :
    u.bringGather x j c k = y.state.putRun (x.gather c k x) := by
  have hstores := (u.store_storesOnly j.ctx (c.gatherAt (k.field 192 32) + x.gathered k) (slice k.payload 0 (x.gathers c k))).frame
  rw [← hy] at hstores
  have hstore : u.jobStore x.job j (c.gatherAt (k.field 192 32) + x.gathered k) (slice k.payload 0 (x.gathers c k)) = y.state := by
    have hsettled := Store.settle_of_good hgood
    rw [hy] at hsettled hafter
    rw [State.jobStore_of_whole hsound (by rw [slice_length]; exact hbefore) (by rw [slice_length, hsettled]; exact hafter), hsettled, hy]
  have hrun : y.state.collRun x.job x.desc x.step = some x := by
    rw [hstores]
    exact hx
  have hput : y.state.onColl x.job x.desc x.step (x.gather c k) = y.state.putRun (x.gather c k x) := by
    refine State.onColl_of_sound hrun (fun j' hj' => ?_) _
    rw [hstores] at hj' ⊢
    rw [show j' = j from Option.some.inj (hj'.symm.trans hj)]
    exact hsound
  rw [State.bringGather_eq hx, hstore, hput]
  refine State.bundleGather_idle (y := x.gather c k x) ?_ ?_
  · rw [State.putRun_collRun, if_pos (show (x.gather c k x).isOf x.job x.desc x.step = true from x.isOf_self)]
  · rw [hstores]
    exact hidle

end
end Sys2Proof.Machine
end

section
/-!
PROOF. Gather packets (O53, R219, R294): what is sent in pieces of 64 flits, and the seal's records and count vectors.
-/
namespace Sys2Proof.Machine

open Sys2Proof.Claims

/-! ### Bytes sent in pieces (R294) -/

theorem drop_take_mem_chunksOf {α : Type} {n : Nat} : ∀ {i fuel : Nat} {xs : List α}, n * i < xs.length → i < fuel → (xs.drop (n * i)).take n ∈ chunksOf n fuel xs
  | 0, fuel + 1, x :: xs, _, _ => List.mem_cons_self
  | i + 1, fuel + 1, x :: xs, hi, hf => by
    refine List.mem_cons_of_mem _ ?_
    have hdrop : (x :: xs).drop (n * (i + 1)) = ((x :: xs).drop n).drop (n * i) := by
      rw [List.drop_drop, Nat.mul_add, Nat.mul_one, Nat.add_comm]
    rw [hdrop]
    refine drop_take_mem_chunksOf ?_ (by omega)
    rw [List.length_drop]
    rw [Nat.mul_add] at hi
    omega
  | i, _, [], hi, _ => by simp at hi

theorem slice_eq_take {bs : Bytes} {off n : Nat} : slice bs off (min n (bs.length - off)) = (bs.drop off).take n := by
  unfold slice
  simp only [List.length_take, List.length_drop]
  rw [show min n (bs.length - off) - min (min n (bs.length - off)) (bs.length - off) = 0 by omega, List.replicate_zero, List.append_nil,
    ← List.length_drop, ← List.take_take, List.take_length]

/-- The i-th piece of bytes sent in pieces of 64 flits. -/
def pieceOf (bs : Bytes) (i : Nat) : Bytes := slice bs (4096 * i) (min 4096 (bs.length - 4096 * i))

theorem pieceOf_mem {bs : Bytes} {i : Nat} (hi : 4096 * i < bs.length) : pieceOf bs i ∈ chunksOf 4096 (bs.length / 4096 + 1) bs := by
  rw [pieceOf, slice_eq_take]
  exact drop_take_mem_chunksOf hi (by omega)

theorem pieceOf_zero {bs : Bytes} (hlen : bs.length < 4096) : pieceOf bs 0 = bs := by
  rw [pieceOf, slice_eq_take, Nat.mul_zero, List.drop_zero, List.take_of_length_le (by omega)]

/-- A gather packet of `n` members from rank `r` on. -/
def State.gatherPacket (s : State) (j : Job) (g seq fprint step r n : Nat) (b : Bytes) : Packet :=
  ⟨packetHeader 1 3 (roundUp b.length 64 / 64) s.gidx g (s.lnum j.atelier) 0 0 [(0, 32, seq), (64, 64, fprint), (128, 64, step), (192, 32, r), (224, 8, n)],
   padTo (roundUp b.length 64) b⟩

/-- Every piece of the bytes waits for a member where a port leads there. -/
def State.GatherSent (s t : State) (j : Job) (g seq fprint step r n : Nat) (bs : Bytes) : Prop :=
  ∀ q, s.route g = some q → s.carries q 1 = true → ∀ i, 4096 * i < bs.length →
    t.Queued q 1 g (s.lnum j.atelier) (s.gatherPacket j g seq fprint step r n (pieceOf bs i))

section
variable {s t u : State} {j : Job} {g seq fprint step r n : Nat} {bs : Bytes}

theorem Endures.gatherSent (h : Endures s t) (ht : t.GatherSent u j g seq fprint step r n bs) : s.GatherSent u j g seq fprint step r n bs := fun q hr hc i hi => by
  have hq := ht q ((h.route g).trans hr) ((h.carries q 1).trans hc) i hi
  rw [State.gatherPacket, h.gidx, h.lnum] at hq
  exact hq

theorem State.GatherSent.endures (h : s.GatherSent t j g seq fprint step r n bs) (ht : Endures t u) : s.GatherSent u j g seq fprint step r n bs :=
  fun q hr hc i hi => ht.keeps (h q hr hc i hi)

theorem State.sendGather_endures (s : State) (j : Job) (g seq fprint step r n : Nat) (bs : Bytes) : Endures s (s.sendGather j g seq fprint step r n bs) :=
  .foldl (fun _ _ => State.sendPacket_endures ..) _ s

theorem State.sendGather_sent (s : State) (j : Job) (g seq fprint step r n : Nat) (bs : Bytes) :
    s.GatherSent (s.sendGather j g seq fprint step r n bs) j g seq fprint step r n bs := fun q hr hc i hi => by
  refine Endures.foldl_of_mem (P := fun t => t.Queued q 1 g (s.lnum j.atelier) (s.gatherPacket j g seq fprint step r n (pieceOf bs i)))
    (fun _ _ => State.sendPacket_endures ..) (fun _ _ ht h => ht.keeps h) (pieceOf_mem hi) fun t ht => ?_
  have hq := State.sendPacket_queues ((ht.route g).trans hr) ((ht.carries q 1).trans hc) 3 (t.lnum j.atelier)
    [(0, 32, seq), (64, 64, fprint), (128, 64, step), (192, 32, r), (224, 8, n)] (pieceOf bs i) none
  rw [ht.lnum, ht.gidx] at hq
  rw [ht.lnum]
  exact hq

/-- What one short packet carries (R294). -/
theorem State.GatherSent.one (h : s.GatherSent t j g seq fprint step r n bs) (hne : bs ≠ []) (hlen : bs.length < 4096) {q : Nat}
    (hr : s.route g = some q) (hc : s.carries q 1 = true) : t.Queued q 1 g (s.lnum j.atelier) (s.gatherPacket j g seq fprint step r n bs) := by
  have hq := h q hr hc 0 (List.length_pos_iff.mpr hne)
  rw [pieceOf_zero hlen] at hq
  exact hq
end

/-! ### Seal packets taken (R216, R219, R294) -/

/-- A running step that has taken seal data in: its records, or its sender's count vectors once they are whole. -/
def State.sealTaken (s : State) (j : Job) (k : CollPacket) (r : StepRun) : StepRun :=
  if k.field 0 32 = 0xFFFFFFF0 then { r with records := (recordsOf k).foldl (fun m x => SMap.put m x.1 x.2) r.records }
  else
    let layers := j.escalations.map (·.layer)
    let bs := SMap.get [] r.pieces k.src ++ k.payload
    if 40 * layers.length ≤ bs.length then
      { r with pieces := SMap.del r.pieces k.src
               vectors := SMap.put r.vectors (if s.rankOf j k.src / max 1 (s.mPos j) = s.ownPalette j then k.field 192 32 else 1024 + k.field 192 32 / max 1 (s.mPos j)) (countsOf layers bs) }
    else { r with pieces := SMap.put r.pieces k.src bs }

section
variable {s : State} {n : Nat} {j : Job} {r : StepRun} {k : CollPacket}

theorem vectorKey_eq (a b q m : Nat) : vectorKey (a ≠ b) q m = if a = b then q else 1024 + q / max 1 m := by
  unfold vectorKey
  by_cases h : a = b <;> simp [h]

theorem State.takeSeal_eq : s.takeSeal n j k = s.onRun n (s.sealTaken j k) := by
  unfold State.takeSeal
  split
  · next h =>
    refine congrArg (s.onRun n) (funext fun r => ?_)
    rw [State.sealTaken, if_pos h]
  · next h =>
    refine congrArg (s.onRun n) (funext fun r => ?_)
    rw [State.sealTaken, if_neg h, vectorKey_eq]

/-- The ranks of the own palette, and whether their seal data is here (R294). -/
def State.paletteRanks (s : State) (j : Job) : List Nat := upFrom (s.ownPalette j * s.mPos j) (s.mPos j)
def State.sealHere (s : State) (j : Job) (r : StepRun) : Bool :=
  (s.paletteRanks j).all fun q => (SMap.find? r.records q).isSome && ((j.escalations.map (·.layer)).isEmpty || (SMap.find? r.vectors q).isSome)

/-- What a bundle carries: the records of the palette's ranks, and the sum of their count vectors. -/
def State.bundleRecords (s : State) (j : Job) (r : StepRun) : Bytes := (s.paletteRanks j).flatMap fun q => SMap.get [] r.records q
def State.bundleCounts (s : State) (j : Job) (r : StepRun) : Bytes :=
  countBytes (sumCounts (j.escalations.map (·.layer)) ((s.paletteRanks j).map fun q => SMap.get [] r.vectors q))

theorem State.bundleSeal_idle (hj : SMap.find? s.jobs n = some j) (hr : j.run = some r) (hidle : r.bundled = true ∨ s.sealHere j r = false) : s.bundleSeal n = s := by
  unfold State.bundleSeal
  rw [hj]
  dsimp only
  rw [hr]
  refine if_pos (show (r.bundled || !s.sealHere j r) = true from ?_)
  rcases hidle with h | h <;> simp [h]

/-- A bundle sent to one rail peer: the records, then the sum of the count vectors. -/
def State.sendBundle (s t : State) (j : Job) (r : StepRun) (g : Nat) : State :=
  (t.sendGather j g 0xFFFFFFF0 0 r.step (s.ownPalette j * s.mPos j) (s.mPos j) (s.bundleRecords j r)).sendGather j g 0xFFFFFFF1 0 r.step
    (s.ownPalette j * s.mPos j) (s.mPos j) (s.bundleCounts j r)

/-- A bundle on its way to a rail peer. -/
structure State.BundleSent (s t : State) (j : Job) (r : StepRun) (g : Nat) : Prop where
  records : s.GatherSent t j g 0xFFFFFFF0 0 r.step (s.ownPalette j * s.mPos j) (s.mPos j) (s.bundleRecords j r)
  counts : s.GatherSent t j g 0xFFFFFFF1 0 r.step (s.ownPalette j * s.mPos j) (s.mPos j) (s.bundleCounts j r)

theorem State.sendBundle_endures (s t : State) (j : Job) (r : StepRun) (g : Nat) : Endures t (s.sendBundle t j r g) :=
  (t.sendGather_endures ..).trans (State.sendGather_endures ..)

theorem State.BundleSent.endures {t u : State} {g : Nat} (h : s.BundleSent t j r g) (ht : Endures t u) : s.BundleSent u j r g :=
  ⟨h.records.endures ht, h.counts.endures ht⟩

theorem State.sendBundle_sent {t : State} (ht : Endures s t) (j : Job) (r : StepRun) (g : Nat) : s.BundleSent (s.sendBundle t j r g) j r g :=
  ⟨(ht.gatherSent (t.sendGather_sent _ _ _ _ _ _ _ _)).endures (State.sendGather_endures ..),
   (ht.trans (State.sendGather_endures ..)).gatherSent (State.sendGather_sent _ _ _ _ _ _ _ _ _)⟩

/-- The bundle of a palette whose seal data is whole (R294). -/
theorem State.bundleSeal_whole (hj : SMap.find? s.jobs n = some j) (hr : j.run = some r) (hopen : r.bundled = false) (hhere : s.sealHere j r = true) :
    s.bundleSeal n = ((s.railPeers j).foldl (fun t g => s.sendBundle t j r g) s).onRun n fun r => { r with bundled := true } := by
  unfold State.bundleSeal
  rw [hj]
  dsimp only
  rw [hr]
  exact if_neg (show ¬(r.bundled || !s.sealHere j r) = true by simp [hopen, hhere])

theorem State.bundleSeal_sends (hj : SMap.find? s.jobs n = some j) (hr : j.run = some r) (hopen : r.bundled = false) (hhere : s.sealHere j r = true) :
    JobNow (s.bundleSeal n) n (fun y => y.run = some { r with bundled := true }) ∧ ∀ g ∈ s.railPeers j, s.BundleSent (s.bundleSeal n) j r g := by
  rw [State.bundleSeal_whole hj hr hopen hhere]
  have hsent (g : Nat) (hg : g ∈ s.railPeers j) : s.BundleSent ((s.railPeers j).foldl (fun t g => s.sendBundle t j r g) s) j r g :=
    Endures.foldl_of_mem (P := fun t => s.BundleSent t j r g) (fun t g => s.sendBundle_endures t j r g) (fun _ _ ht h => h.endures ht) hg
      fun t ht => State.sendBundle_sent ht j r g
  have hjobs : ((s.railPeers j).foldl (fun t g => s.sendBundle t j r g) s).jobs = s.jobs := (State.bundles_sendsOnly ..).aside.jobs
  generalize (s.railPeers j).foldl (fun t g => s.sendBundle t j r g) s = t at hsent hjobs
  exact ⟨⟨_, State.onRun_find (by rw [hjobs, hj]) hr _, rfl⟩, fun g hg => (hsent g hg).endures (.of_eq rfl rfl rfl rfl rfl)⟩

/-- A run changed beside the seal data asked for says the same of a bundle's way. -/
theorem State.BundleSent.of_onRun {t : State} {g : Nat} {f : StepRun → StepRun} {a : Option StepRun} (h : (s.onRun n f).BundleSent t { j with run := a } r g) :
    s.BundleSent t j r g := ⟨h.records, h.counts⟩

/-- Where the seal packets that wait for a job's step are held. -/
def sealRun (n : Nat) (ks : List CollPacket) : CollRun := ⟨n, sealDesc, 0, 0xFFFFFFF0, [], none, 0, 0, ks, [], [], [], 0, [], false, none, false⟩

/-- A seal packet joined to those that wait, none of which is its job's. -/
def State.holdSeal (s : State) (n : Nat) (k : CollPacket) : State := { s with collectives := s.collectives ++ [sealRun n [k]] }

theorem State.holdSeal_alone (hnone : ∀ y ∈ s.collectives, ¬(y.job = n ∧ y.desc = sealDesc)) :
    (s.holdSeal n k).heldSeal n = [k] ∧ (s.holdSeal n k).collectives.filter (fun x => !(x.job = n && x.desc = sealDesc)) = s.collectives := by
  have hothers : s.collectives.filter (fun x => x.job = n && x.desc = sealDesc) = [] :=
    List.filter_eq_nil_iff.mpr fun y hy => by simpa [imp_iff_not_or] using hnone y hy
  have hall : s.collectives.filter (fun x => !(x.job = n && x.desc = sealDesc)) = s.collectives :=
    List.filter_eq_self.mpr fun y hy => by simpa [imp_iff_not_or] using hnone y hy
  refine ⟨?_, ?_⟩
  · unfold State.heldSeal State.holdSeal
    rw [List.filter_append, hothers]
    simp [sealRun]
  · unfold State.holdSeal
    rw [List.filter_append, hall]
    simp [sealRun]

/-- The only seal packet held for a job is taken where it waits for nothing. -/
theorem State.releaseSeal_takes (hj : SMap.find? s.jobs n = some j) (hr : j.run = some r) (hnone : ∀ y ∈ s.collectives, ¬(y.job = n ∧ y.desc = sealDesc))
    (hnow : sealEarly (some r) k = false) : (s.holdSeal n k).releaseSeal n = (s.onRun n (s.sealTaken j k)).bundleSeal n := by
  obtain ⟨hheld, hrest⟩ := State.holdSeal_alone (k := k) hnone
  have hj' : SMap.find? (s.holdSeal n k).jobs n = some j := hj
  unfold State.releaseSeal
  rw [hj']
  dsimp only
  rw [hheld, hrest, hr]
  simp only [List.partition_eq_filter_filter, List.filter_cons, List.filter_nil, hnow, Function.comp, Bool.not_false, if_true, Bool.false_eq_true, if_false,
    List.isEmpty_nil, List.foldl_cons, List.foldl_nil]
  rw [← State.takeSeal_eq]
  rfl

/-- Seal data that waits for nothing is taken into the running step, and the bundle sent where it completes it. -/
theorem State.hearSeal_takes {u : State} {port : Nat} {p : Packet}
    (hfind : ((u.atelierOfLnum p.lease).bind fun a => List.find? (fun (y : Nat × Job) => decide (y.2.atelier = a) && !y.2.serving && y.2.members.contains p.src) u.jobs) = some (n, j))
    (hj : SMap.find? u.jobs n = some j) (hr : j.run = some r) (hnone : ∀ y ∈ u.collectives, ¬(y.job = n ∧ y.desc = sealDesc))
    (hnow : sealEarly (some r) (p.carried port) = false) : u.hearSeal port p = (u.onRun n (u.sealTaken j (p.carried port))).bundleSeal n := by
  rw [← State.releaseSeal_takes hj hr hnone hnow]
  unfold State.hearSeal
  rw [hfind]
  rfl

/-- A packet of the running step, of its attempt or an earlier one, waits for nothing. -/
theorem sealEarly_of_now (hstep : r.step = k.field 128 64) (hrecord : k.field 0 32 = 0xFFFFFFF0 → recordAttempt (slice k.payload 0 192) ≤ r.attempt) :
    sealEarly (some r) k = false := by
  by_cases hk : k.field 0 32 = 0xFFFFFFF0
  · simp [sealEarly, hstep, hk, hrecord hk]
  · simp [sealEarly, hstep, hk]

theorem State.sealTaken_keeps (s : State) (j : Job) (k : CollPacket) (r : StepRun) :
    (s.sealTaken j k r).bundled = r.bundled ∧ (s.sealTaken j k r).step = r.step := by
  unfold State.sealTaken
  split
  · exact ⟨rfl, rfl⟩
  · dsimp only
    split <;> exact ⟨rfl, rfl⟩

/-- What the running step is once seal data is taken into it, and what is sent where that makes its palette's whole. -/
theorem State.takeSeal_bundles (hj : SMap.find? s.jobs n = some j) (f : StepRun → StepRun) (hr : j.run = some r) :
    ((f r).bundled = true ∨ s.sealHere j (f r) = false → (s.onRun n f).bundleSeal n = s.onRun n f) ∧
    ((f r).bundled = false → s.sealHere j (f r) = true → JobNow ((s.onRun n f).bundleSeal n) n (fun y => y.run = some { f r with bundled := true }) ∧
      ∀ g ∈ s.railPeers j, s.BundleSent ((s.onRun n f).bundleSeal n) j (f r) g) := by
  have hjob : SMap.find? (s.onRun n f).jobs n = some { j with run := some (f r) } := State.onRun_find hj hr f
  refine ⟨fun hidle => State.bundleSeal_idle hjob rfl hidle, fun hopen hhere => ?_⟩
  obtain ⟨hnow, hsent⟩ := State.bundleSeal_sends hjob rfl hopen hhere
  exact ⟨hnow, fun g hg => (hsent g hg).of_onRun⟩
end

end Sys2Proof.Machine
end

section
/-!
PROOF. The launch of a collective, its timeout and its completion, and aborts that come from other members (O53, R290 to R296).
-/
namespace Sys2Proof.Machine

open Sys2Proof.Claims

/-! ### What a launch sends (R294, R295) -/

/-- Between the two states packets have been queued and runs written, and no more. -/
structure Launches (s t : State) : Prop where
  frame : t = { s with ports := t.ports, tags := t.tags, collectives := t.collectives }
  endures : Endures s t

theorem Launches.refl (s : State) : Launches s s := ⟨rfl, .refl s⟩
theorem Launches.trans {s t u : State} (h : Launches s t) (k : Launches t u) : Launches s u := ⟨k.frame.trans (by rw [h.frame]), h.endures.trans k.endures⟩
theorem Launches.foldl {α : Type} {f : State → α → State} (hf : ∀ s x, Launches s (f s x)) (l : List α) (s : State) : Launches s (l.foldl f s) :=
  foldl_related .refl .trans hf l s

theorem SendsOnly.launches {s t : State} (h : SendsOnly s t) (he : Endures s t) : Launches s t := ⟨Eq.trans h (by rw [h]), he⟩

theorem State.sendPacket_launches (s : State) (peer vc ptype lease : Nat) (info : List (Nat × Nat × Nat)) (payload : Bytes) (seg : Option (Nat × Nat)) :
    Launches s (s.sendPacket peer vc ptype lease info payload seg) :=
  (State.sendPacket_sendsOnly ..).launches (State.sendPacket_endures ..)

theorem State.onColl_launches (s : State) (n d step : Nat) (f : CollRun → CollRun) : Launches s (s.onColl n d step f) :=
  ⟨by rw [s.onColl_frame n d step f], State.onColl_endures ..⟩

theorem State.sendGather_launches (s : State) (j : Job) (g seq fprint step r n : Nat) (bs : Bytes) : Launches s (s.sendGather j g seq fprint step r n bs) :=
  .foldl (fun _ _ => State.sendPacket_launches ..) _ s

section
variable {s t : State} (h : Launches s t)
include h

theorem Launches.fetch (ctx va n : Nat) : t.fetch ctx va n = s.fetch ctx va n := by
  rw [h.frame]
  rfl

theorem Launches.rankOf (j : Job) (g : Nat) : t.rankOf j g = s.rankOf j g := by
  rw [h.frame]
  rfl

theorem Launches.faulted (n : Nat) (j : Job) (hj : SMap.find? s.jobs n = some j) (hsound : (s.atelier j.atelier).faulted = false) :
    ∀ k, SMap.find? t.jobs n = some k → (t.atelier k.atelier).faulted = false := fun k hk => by
  rw [h.frame] at hk ⊢
  rw [show k = j from Option.some.inj (hk.symm.trans hj)]
  exact hsound
end

/-! Pairs of a sparse exchange. -/

/-- How many pairs a packet carries at most, and how many its i-th carries. -/
def pairsPer (l : Bytes) : Nat := min 16 (63 / contribLines l)
def pairsIn (l : Bytes) (i : Nat) : Nat := min (pairsPer l) (pairCount l - pairsPer l * i)

/-- What the i-th packet of pairs carries: the indices, then the rows. -/
def State.pairBody (s : State) (j : Job) (l : Bytes) (i : Nat) : Bytes :=
  padTo 64 (s.fetch j.ctx (reqIndex l + 4 * pairsPer l * i) (4 * pairsIn l i)).bytes ++
    (s.fetch j.ctx (reqAddr2 l + 64 * contribLines l * pairsPer l * i) (64 * contribLines l * pairsIn l i)).bytes

/-- The i-th packet of pairs sent to a member. -/
def State.sendPairsTo (s : State) (x : CollRun) (j : Job) (c : Coll) (i : Nat) (body : Bytes) (g : Nat) : State :=
  s.sendPacket g 1 0x2 (s.lnum j.atelier) [(0, 32, c.seq), (64, 64, x.fprint), (128, 64, x.step), (192, 32, pairsPer x.block * i), (224, 16, pairsIn x.block i)] body none

/-- The i-th packet of pairs sent to every other member. -/
def State.sendPairsOut (s : State) (x : CollRun) (j : Job) (c : Coll) (i : Nat) : State :=
  (j.members.filter (· ≠ s.gidx)).foldl (fun t g => t.sendPairsTo x j c i (s.pairBody j x.block i) g) s

/-- A run that has kept the member's own pairs of the i-th packet. -/
def State.keepOwnPairs (s : State) (j : Job) (l : Bytes) (i : Nat) (y : CollRun) : CollRun :=
  { y with pairs := y.pairs ++ pairsOf l (s.rankOf j s.gidx) (pairsIn l i) (s.pairBody j l i) }

def State.sendPairsAt (s : State) (x : CollRun) (j : Job) (c : Coll) (i : Nat) : State :=
  (s.sendPairsOut x j c i).onColl x.job x.desc x.step (s.keepOwnPairs j x.block i)

theorem State.sendPairs_eq (s : State) (x : CollRun) (j : Job) (c : Coll) :
    s.sendPairs x j c = (List.range ((pairCount x.block + pairsPer x.block - 1) / pairsPer x.block)).foldl (fun t i => t.sendPairsAt x j c i) s := by
  unfold State.sendPairs State.sendPairsAt State.sendPairsOut State.sendPairsTo State.keepOwnPairs State.pairBody pairsIn pairsPer
  rfl

/-- The packet that takes the i-th pairs to a member. -/
def State.pairsPacket (s : State) (x : CollRun) (j : Job) (c : Coll) (i g : Nat) : Packet :=
  ⟨packetHeader 1 2 (roundUp (s.pairBody j x.block i).length 64 / 64) s.gidx g (s.lnum j.atelier) 0 0
    [(0, 32, c.seq), (64, 64, x.fprint), (128, 64, x.step), (192, 32, pairsPer x.block * i), (224, 16, pairsIn x.block i)],
   padTo (roundUp (s.pairBody j x.block i).length 64) (s.pairBody j x.block i)⟩

/-- It waits for the member where a port leads there. -/
def State.PairsSent (s t : State) (x : CollRun) (j : Job) (c : Coll) (i g : Nat) : Prop :=
  ∀ q, s.route g = some q → s.carries q 1 = true → t.Queued q 1 g (s.lnum j.atelier) (s.pairsPacket x j c i g)

section
variable {s t u : State} {x : CollRun} {j : Job} {c : Coll} {i g : Nat}

theorem Launches.pairBody (h : Launches s t) (j : Job) (l : Bytes) (i : Nat) : t.pairBody j l i = s.pairBody j l i := by
  rw [State.pairBody, h.fetch, h.fetch, ← State.pairBody]

theorem Launches.keepOwnPairs (h : Launches s t) (j : Job) (l : Bytes) (i : Nat) : t.keepOwnPairs j l i = s.keepOwnPairs j l i := by
  funext y
  rw [State.keepOwnPairs, h.pairBody, h.rankOf, h.endures.gidx, ← State.keepOwnPairs]

theorem Launches.pairsSent (h : Launches s t) (ht : t.PairsSent u x j c i g) : s.PairsSent u x j c i g := fun q hr hc => by
  have hq := ht q ((h.endures.route g).trans hr) ((h.endures.carries q 1).trans hc)
  rw [State.pairsPacket, h.endures.gidx, h.endures.lnum, h.pairBody] at hq
  exact hq

theorem State.PairsSent.endures (h : s.PairsSent t x j c i g) (ht : Endures t u) : s.PairsSent u x j c i g := fun q hr hc => ht.keeps (h q hr hc)

theorem State.sendPairsOut_launches (s : State) (x : CollRun) (j : Job) (c : Coll) (i : Nat) : Launches s (s.sendPairsOut x j c i) :=
  .foldl (fun _ _ => State.sendPacket_launches ..) _ s

theorem State.sendPairsAt_launches (s : State) (x : CollRun) (j : Job) (c : Coll) (i : Nat) : Launches s (s.sendPairsAt x j c i) :=
  (s.sendPairsOut_launches x j c i).trans (State.onColl_launches ..)

theorem State.sendPairsTo_sent (h : Launches s t) (x : CollRun) (j : Job) (c : Coll) (i g : Nat) :
    s.PairsSent (t.sendPairsTo x j c i (s.pairBody j x.block i) g) x j c i g := h.pairsSent fun q hr hc => by
  rw [← h.pairBody]
  exact State.sendPacket_queues hr hc ..

theorem State.sendPairsAt_sent (s : State) (x : CollRun) {j : Job} (c : Coll) (i : Nat) (hg : g ∈ j.members) (hne : g ≠ s.gidx) :
    s.PairsSent (s.sendPairsAt x j c i) x j c i g := by
  have hout : s.PairsSent (s.sendPairsOut x j c i) x j c i g :=
    foldl_of_mem (R := Launches) (P := fun t => s.PairsSent t x j c i g) .refl .trans (fun _ _ => State.sendPacket_launches ..)
      (fun _ _ ht h => h.endures ht.endures) (List.mem_filter.mpr ⟨hg, by simpa using hne⟩) fun t ht => State.sendPairsTo_sent ht x j c i g
  exact hout.endures (State.onColl_endures ..)

theorem State.sendPairs_launches (s : State) (x : CollRun) (j : Job) (c : Coll) : Launches s (s.sendPairs x j c) := by
  rw [State.sendPairs_eq]
  exact .foldl (fun t i => t.sendPairsAt_launches x j c i) _ s

/-- Every packet of pairs goes to every other member (R295). -/
theorem State.sendPairs_sends (s : State) (x : CollRun) {j : Job} (c : Coll) (hg : g ∈ j.members) (hne : g ≠ s.gidx)
    (hi : i < (pairCount x.block + pairsPer x.block - 1) / pairsPer x.block) : s.PairsSent (s.sendPairs x j c) x j c i g := by
  rw [State.sendPairs_eq]
  exact foldl_of_mem (R := Launches) (P := fun t => s.PairsSent t x j c i g) .refl .trans (fun t i => t.sendPairsAt_launches x j c i)
    (fun _ _ ht h => h.endures ht.endures) (List.mem_range.mpr hi) fun t ht =>
      ht.pairsSent (t.sendPairsAt_sent x c i hg (ht.endures.gidx.symm ▸ hne))

/-! What becomes of the run itself. -/

/-- A launched run changed by its own collective in an atelier that is not faulted. -/
theorem Launches.onColl_run (h : Launches s t) (hj : SMap.find? s.jobs x.job = some j) (hsound : (s.atelier j.atelier).faulted = false) {y : CollRun}
    (hy : t.collRun x.job x.desc x.step = some y) {f : CollRun → CollRun} (hf : (f y).isOf x.job x.desc x.step = true) :
    (t.onColl x.job x.desc x.step f).collRun x.job x.desc x.step = some (f y) := by
  rw [State.onColl_of_sound hy (h.faulted x.job j hj hsound), State.putRun_collRun, if_pos hf]

theorem SendsOnly.collRun (h : SendsOnly s t) (n d step : Nat) : t.collRun n d step = s.collRun n d step := by
  rw [show t = _ from h]
  rfl

theorem State.sendPairsAt_run (h : Launches s t) (hj : SMap.find? s.jobs x.job = some j) (hsound : (s.atelier j.atelier).faulted = false) {y : CollRun}
    (hy : t.collRun x.job x.desc x.step = some y) : (t.sendPairsAt x j c i).collRun x.job x.desc x.step = some (s.keepOwnPairs j x.block i y) := by
  have hsent : SendsOnly t (t.sendPairsOut x j c i) := SendsOnly.foldl (fun _ _ => State.sendPacket_sendsOnly ..) _ t
  rw [State.sendPairsAt, h.keepOwnPairs]
  exact (h.trans (t.sendPairsOut_launches x j c i)).onColl_run hj hsound ((hsent.collRun ..).trans hy) (State.collRun_isOf (x := y) hy)

/-- A member's own pairs are kept, packet by packet (R295). -/
theorem State.sendPairsAt_fold_run (hj : SMap.find? s.jobs x.job = some j) (hsound : (s.atelier j.atelier).faulted = false) :
    ∀ (is : List Nat) {t : State} {y : CollRun}, Launches s t → t.collRun x.job x.desc x.step = some y →
      (is.foldl (fun t i => t.sendPairsAt x j c i) t).collRun x.job x.desc x.step =
        some { y with pairs := y.pairs ++ is.flatMap fun i => pairsOf x.block (s.rankOf j s.gidx) (pairsIn x.block i) (s.pairBody j x.block i) }
  | [], t, y, _, hy => by simpa using hy
  | i :: is, t, y, h, hy => by
    rw [List.foldl_cons, State.sendPairsAt_fold_run hj hsound is (h.trans (t.sendPairsAt_launches x j c i)) (State.sendPairsAt_run h hj hsound hy),
      List.flatMap_cons, State.keepOwnPairs, List.append_assoc]

/-- An all-gather's bundle marks its run, and no more of it (R294). -/
theorem State.bundleGather_run (h : Launches s t) (hj : SMap.find? s.jobs x.job = some j) (hsound : (s.atelier j.atelier).faulted = false) {y : CollRun}
    (hy : t.collRun x.job x.desc x.step = some y) : ∃ a, (t.bundleGather x j c).collRun x.job x.desc x.step = some { y with slot := a } := by
  unfold State.bundleGather
  rw [hy]
  dsimp only
  split
  · have hsent : SendsOnly t ((t.railPeers j).foldl (fun u g => u.sendGather j g c.seq (c.fprint x.step) x.step (t.ownPalette j * t.mPos j) (t.mPos j)
        (t.fetch j.ctx (c.gatherAt (t.ownPalette j * t.mPos j)) (c.count * t.mPos j)).bytes) t) := SendsOnly.foldl (fun _ _ => State.sendGather_sendsOnly ..) _ t
    have hsends := hsent.launches (.foldl (fun _ _ => State.sendGather_endures ..) _ t)
    exact ⟨1, (h.trans hsends).onColl_run (f := fun y => { y with slot := 1 }) hj hsound ((hsent.collRun ..).trans hy) (State.collRun_isOf (x := y) hy)⟩
  · exact ⟨y.slot, hy⟩

theorem State.bundleGather_endures (s : State) (x : CollRun) (j : Job) (c : Coll) : Endures s (s.bundleGather x j c) := by
  unfold State.bundleGather
  split
  · exact .refl s
  · dsimp only
    split
    · exact .trans (.foldl (fun _ _ => State.sendGather_endures ..) _ s) (State.onColl_endures ..)
    · exact .refl s
end

end Sys2Proof.Machine
end

section
/-!
PROOF. The rows of a collective's launch, timeout and completion and of an abort that comes in, and the obligation about collectives (O53).
-/
namespace Sys2Proof.Machine

open Sys2Proof.Claims

/-! ### COLLECTIVE_LAUNCH (R253, R290, R291, R294, R295) -/

section
variable {s : State} {n d : Nat} {j : Job} {c : Coll} {x : CollRun}

/-- A run as its launch leaves it. -/
def CollRun.launchedAt (x : CollRun) (t : Word64) (slot : Nat) (block : Bytes) : CollRun :=
  { x with launched := some t, slot := slot, held := [], block := block }

theorem State.unlaunched_key (hx : s.unlaunched n d = some x) : x.job = n ∧ x.desc = d := by
  have h := List.find?_some hx
  simp only [Bool.and_eq_true, decide_eq_true_eq] at h
  exact h.1.1

theorem State.uncompleted_key (hx : s.uncompleted n d = some x) : x.job = n ∧ x.desc = d := by
  have h := List.find?_some hx
  simp only [Bool.and_eq_true, decide_eq_true_eq] at h
  exact h.1.1.1

theorem exec_collectiveLaunch_waits (hj : SMap.find? s.jobs n = some j) (hc : SMap.find? s.colls d = some c) (hx : s.unlaunched n d = some x)
    (hwait : ∃ e ∈ c.contributors, x.reported.has e.core = false) : exec (.collectiveLaunch n d) s = .next s := by
  rw [show exec (.collectiveLaunch n d) s = execCollectiveLaunch n d s from rfl, execCollectiveLaunch, hj, hc, hx]
  obtain ⟨e, he, hout⟩ := hwait
  exact whenDue_of_not_due (List.all_eq_false.mpr ⟨e, he, by simp [hout]⟩) ..

theorem exec_collectiveLaunch (hj : SMap.find? s.jobs n = some j) (hc : SMap.find? s.colls d = some c) (hx : s.unlaunched n d = some x)
    (hall : ∀ e ∈ c.contributors, x.reported.has e.core = true) : exec (.collectiveLaunch n d) s = .next (s.launchColl x j c) := by
  rw [show exec (.collectiveLaunch n d) s = execCollectiveLaunch n d s from rfl, execCollectiveLaunch, hj, hc, hx]
  exact whenDue_of_due (List.all_eq_true.mpr hall) ..

/-- A launch of a collective for which no packet has come: what it sends, after the run is marked. -/
theorem State.launchColl_eq (hheld : x.held = []) (hgood : c.op = 3 → s.sparseGood j c = true) :
    s.launchColl x j c =
      (s.putRun (x.launchedAt s.time (if c.op = 1 then bitsIn (s.fetch j.ctx c.aux 32).bytes 224 1 else 0) (if c.op = 3 then s.sparseBlock j c else []))).startColl
        (x.launchedAt s.time (if c.op = 1 then bitsIn (s.fetch j.ctx c.aux 32).bytes 224 1 else 0) (if c.op = 3 then s.sparseBlock j c else [])) j c := by
  unfold State.launchColl
  dsimp only
  rw [hheld, if_neg (by simpa using hgood)]
  rfl

/-- One that sends nothing. -/
theorem State.launchColl_quiet (hheld : x.held = []) (h3 : c.op ≠ 3) (h4 : c.op ≠ 4) :
    s.launchColl x j c = s.putRun (x.launchedAt s.time (if c.op = 1 then bitsIn (s.fetch j.ctx c.aux 32).bytes 224 1 else 0) []) := by
  rw [State.launchColl_eq hheld (fun h => absurd h h3), if_neg h3, State.startColl, if_neg h3, if_neg h4]

theorem State.launchColl_sparse (hheld : x.held = []) (h3 : c.op = 3) (hgood : s.sparseGood j c = true) :
    s.launchColl x j c = (s.putRun (x.launchedAt s.time 0 (s.sparseBlock j c))).sendPairs (x.launchedAt s.time 0 (s.sparseBlock j c)) j c := by
  rw [State.launchColl_eq hheld (fun _ => hgood), if_pos h3, if_neg (by omega), State.startColl, if_pos h3]

theorem State.launchColl_bad (h3 : c.op = 3) (hbad : s.sparseGood j c = false) :
    s.launchColl x j c = (s.putRun (x.launchedAt s.time 0 (s.sparseBlock j c))).abortColl x 0x0407 := by
  unfold State.launchColl
  dsimp only
  rw [hbad, h3]
  rfl

/-- An all-gather's launch sends the member's own bytes to its palette. -/
theorem State.startColl_gather (h4 : c.op = 4) : s.startColl x j c =
    (((s.palettePeers j).foldl (fun t g => t.sendGather j g c.seq x.fprint x.step (s.rankOf j s.gidx) 1 (s.fetch j.ctx (c.gatherAt (s.rankOf j s.gidx)) c.count).bytes) s).onColl
      x.job x.desc x.step fun y => { y with placed := y.placed.add (s.rankOf j s.gidx) }).bundleGather x j c := by
  rw [State.startColl, if_neg (by omega), if_pos h4]

theorem State.putRun_launches (s : State) (y : CollRun) : Launches s (s.putRun y) := ⟨rfl, .of_eq rfl rfl rfl rfl rfl⟩

theorem State.putRun_self (s : State) (y : CollRun) : (s.putRun y).collRun y.job y.desc y.step = some y := by
  rw [State.putRun_collRun, if_pos y.isOf_self]

/-- The run that a gather's launch leaves, and the bytes on their way to the palette (R294). -/
theorem State.startColl_gathers (h4 : c.op = 4) (hx : s.collRun x.job x.desc x.step = some x) (hj : SMap.find? s.jobs x.job = some j)
    (hsound : (s.atelier j.atelier).faulted = false) :
    (∃ a, (s.startColl x j c).collRun x.job x.desc x.step = some { x with placed := x.placed.add (s.rankOf j s.gidx), slot := a }) ∧
    ∀ g ∈ s.palettePeers j, s.GatherSent (s.startColl x j c) j g c.seq x.fprint x.step (s.rankOf j s.gidx) 1 (s.fetch j.ctx (c.gatherAt (s.rankOf j s.gidx)) c.count).bytes := by
  rw [State.startColl_gather h4]
  have hsent (g : Nat) (hg : g ∈ s.palettePeers j) : s.GatherSent ((s.palettePeers j).foldl (fun t g => t.sendGather j g c.seq x.fprint x.step (s.rankOf j s.gidx) 1
      (s.fetch j.ctx (c.gatherAt (s.rankOf j s.gidx)) c.count).bytes) s) j g c.seq x.fprint x.step (s.rankOf j s.gidx) 1
      (s.fetch j.ctx (c.gatherAt (s.rankOf j s.gidx)) c.count).bytes :=
    Endures.foldl_of_mem (P := fun t => s.GatherSent t j g c.seq x.fprint x.step (s.rankOf j s.gidx) 1 (s.fetch j.ctx (c.gatherAt (s.rankOf j s.gidx)) c.count).bytes)
      (fun _ _ => State.sendGather_endures ..) (fun _ _ ht h => h.endures ht) hg fun t ht => ht.gatherSent (t.sendGather_sent _ _ _ _ _ _ _ _)
  have hsends : SendsOnly s ((s.palettePeers j).foldl (fun t g => t.sendGather j g c.seq x.fprint x.step (s.rankOf j s.gidx) 1
      (s.fetch j.ctx (c.gatherAt (s.rankOf j s.gidx)) c.count).bytes) s) := SendsOnly.foldl (fun _ _ => State.sendGather_sendsOnly ..) _ s
  have hends : Endures s ((s.palettePeers j).foldl (fun t g => t.sendGather j g c.seq x.fprint x.step (s.rankOf j s.gidx) 1
      (s.fetch j.ctx (c.gatherAt (s.rankOf j s.gidx)) c.count).bytes) s) := .foldl (fun _ _ => State.sendGather_endures ..) _ s
  generalize (s.palettePeers j).foldl (fun t g => t.sendGather j g c.seq x.fprint x.step (s.rankOf j s.gidx) 1
      (s.fetch j.ctx (c.gatherAt (s.rankOf j s.gidx)) c.count).bytes) s = t at hsent hsends hends
  have ht : Launches s t := hsends.launches hends
  have hplaced : (t.onColl x.job x.desc x.step fun y => { y with placed := y.placed.add (s.rankOf j s.gidx) }).collRun x.job x.desc x.step = _ :=
    ht.onColl_run hj hsound ((hsends.collRun ..).trans hx) (State.collRun_isOf (x := x) hx)
  exact ⟨State.bundleGather_run (ht.trans (State.onColl_launches ..)) hj hsound hplaced,
    fun g hg => (hsent g hg).endures ((State.onColl_endures ..).trans (State.bundleGather_endures ..))⟩

/-- A member's own pairs of a sparse exchange, packet by packet. -/
def State.ownPairs (s : State) (j : Job) (l : Bytes) : List (Nat × Nat × List Nat) :=
  (List.range ((pairCount l + pairsPer l - 1) / pairsPer l)).flatMap fun i => pairsOf l (s.rankOf j s.gidx) (pairsIn l i) (s.pairBody j l i)

/-- The run that a sparse exchange's launch leaves, its own pairs in it, and the packets that take them to the other members (R295). -/
theorem State.launchColl_exchanges (hheld : x.held = []) (h3 : c.op = 3) (hgood : s.sparseGood j c = true) (hj : SMap.find? s.jobs x.job = some j)
    (hsound : (s.atelier j.atelier).faulted = false) {l : Bytes} (hl : l = s.sparseBlock j c) :
    (s.launchColl x j c).collRun x.job x.desc x.step = some { x.launchedAt s.time 0 l with pairs := x.pairs ++ s.ownPairs j l } ∧
    ∀ g ∈ j.members, g ≠ s.gidx → ∀ i < (pairCount l + pairsPer l - 1) / pairsPer l, s.PairsSent (s.launchColl x j c) (x.launchedAt s.time 0 l) j c i g := by
  have hput := s.putRun_launches (x.launchedAt s.time 0 l)
  have hrun := State.sendPairsAt_fold_run (s := s) (x := x.launchedAt s.time 0 l) (c := c) hj hsound
    (List.range ((pairCount l + pairsPer l - 1) / pairsPer l)) hput (s.putRun_self _)
  rw [State.launchColl_sparse hheld h3 hgood, ← hl]
  refine ⟨?_, fun g hg hne i hi => hput.pairsSent (State.sendPairs_sends _ _ c hg hne hi)⟩
  rw [State.sendPairs_eq]
  exact hrun

/-- The run that an all-gather's launch leaves, and the member's bytes on their way to its palette (R294). -/
theorem State.launchColl_gathers (hheld : x.held = []) (h4 : c.op = 4) (hj : SMap.find? s.jobs x.job = some j) (hsound : (s.atelier j.atelier).faulted = false) :
    (∃ a, (s.launchColl x j c).collRun x.job x.desc x.step = some { x.launchedAt s.time 0 [] with placed := x.placed.add (s.rankOf j s.gidx), slot := a }) ∧
    ∀ g ∈ s.palettePeers j, s.GatherSent (s.launchColl x j c) j g c.seq x.fprint x.step (s.rankOf j s.gidx) 1 (s.fetch j.ctx (c.gatherAt (s.rankOf j s.gidx)) c.count).bytes := by
  have hput := s.putRun_launches (x.launchedAt s.time 0 [])
  rw [State.launchColl_eq hheld (fun h3 => absurd h3 (by omega)), if_neg (by omega), if_neg (by omega)]
  obtain ⟨hrun, hsent⟩ := State.startColl_gathers (s := s.putRun (x.launchedAt s.time 0 [])) (x := x.launchedAt s.time 0 []) h4 (s.putRun_self _) hj hsound
  exact ⟨hrun, fun g hg => hput.endures.gatherSent (hsent g hg)⟩
end

/-! ### COLLECTIVE_TIMEOUT (R296), COLLECTIVE_COMPLETION (R292, R295) and ABORT (R291) -/

section
variable {s : State} {n d : Nat} {j : Job} {c : Coll} {x : CollRun}

theorem exec_collectiveTimeout {b : Word64} (hc : SMap.find? s.colls d = some c) (hx : s.uncompleted n d = some x) (hb : x.launched = some b) :
    exec (.collectiveTimeout n d) s = .next ((s.reach (b + BitVec.ofNat 64 (ticksMs * c.timeout))).abortColl x 0x0401) := by
  rw [show exec (.collectiveTimeout n d) s = execCollectiveTimeout n d s from rfl, execCollectiveTimeout, hc, hx]
  dsimp only
  rw [hb]
  rfl

theorem State.reach_time_le (s : State) (t : Word64) : t.toNat ≤ (s.reach t).time.toNat ∧ s.time.toNat ≤ (s.reach t).time.toNat := by
  unfold State.reach
  dsimp only
  split <;> omega

theorem exec_collectiveCompletion (hj : SMap.find? s.jobs n = some j) (hc : SMap.find? s.colls d = some c) (hx : s.uncompleted n d = some x)
    (hdone : s.collDone x j c = true) : exec (.collectiveCompletion n d) s =
      .next ((if c.op = 3 then s.settleSparse x j else s.putRun { x with complete := true }).tellCores x c none) := by
  rw [show exec (.collectiveCompletion n d) s = execCollectiveCompletion n d s from rfl, execCollectiveCompletion, hj, hc, hx]
  exact whenDue_of_due hdone ..

theorem exec_collectiveCompletion_waits (hj : SMap.find? s.jobs n = some j) (hc : SMap.find? s.colls d = some c) (hx : s.uncompleted n d = some x)
    (hopen : s.collDone x j c = false) : exec (.collectiveCompletion n d) s = .next s := by
  rw [show exec (.collectiveCompletion n d) s = execCollectiveCompletion n d s from rfl, execCollectiveCompletion, hj, hc, hx]
  exact whenDue_of_not_due hopen ..

theorem State.tellCores_silent (h : c.notify = false) (s : State) (aborted : Option Nat) : s.tellCores x c aborted = s := if_neg (by simp [h])

/-- The messages that tell a collective's contributing cores that it is complete (R292). -/
theorem State.tellCores_tells (h : c.notify = true) (s : State) : ∃ t, s.tellCores x c none = t ∧
    t.mesh = s.mesh ++ c.contributors.map (fun e => ⟨10416, e.core, c.chan, (s.core e.core).epoch, record 64 [(0, 32, c.seq), (32, 1, 0), (48, 16, 0)]⟩) ∧
    t = { s with mesh := t.mesh, collectives := t.collectives } := by
  refine ⟨_, rfl, ?_, ?_⟩
  · rw [State.tellCores, if_pos h]
    dsimp only
    rw [s.onColl_frame]
    rfl
  · exact (s.tellCores_marks x c none).frame

/-- The runs that an abort packet takes with it, marked. -/
def State.markHeard (s : State) (p : Packet) : State := match s.collOf p.lease p.src (p.info 0 32) with
  | some (n, _, _, _) =>
    (s.collectives.filter fun (y : CollRun) => y.job = n && y.step = p.info 128 64 && decide (p.info 0 32 ≤ y.seq) && !y.complete).foldl (State.markAborted (p.info 32 16)) s
  | none => s

theorem State.markHeard_marks (s : State) (p : Packet) : Marks s (s.markHeard p) := by
  unfold State.markHeard
  split
  · exact State.markAborted_fold_marks ..
  · exact .refl s

theorem exec_abortPacket {port : Nat} {p : Packet} (hport : port < 20) (hp : (s.port port).packets.find? (fun p => decide (p.ptype = 4)) = some p) :
    exec (.abortPacket port) s = .next (match s.atelierOfLnum p.lease with
      | none => s.takePacket port p
      | some a => ((s.takePacket port p).markHeard p).faultAtelier a 0x0406 (some (p.info 128 64)) none [p.info 32 16, p.info 0 32, p.src]) :=
  (exec_packetRow hport hp fun s p => match s.atelierOfLnum p.lease with
    | none => s
    | some a => (s.markHeard p).faultAtelier a 0x0406 (some (p.info 128 64)) none [p.info 32 16, p.info 0 32, p.src]).trans rfl

theorem State.takePacket_mayFault {a port : Nat} {p : Packet} (h : MayFault s a) : MayFault (s.takePacket port p) a := ⟨h.sound, h.held, h.alive⟩
end

/-! ### The obligation -/

/-- Settles O53: a creation answers with its descriptor's status or lists it (`exec_collCreate_made`); a packet is dropped, held or brought
(`hearColl_of_run`), and an abort tells the other members (`abortColl_sends`); seal data is taken and bundled (`takeSeal_bundles`); a launch
sends what its operation sends (`launchColl_exchanges`, `launchColl_gathers`). -/
theorem collectives : Obligations.Collectives := by
  unfold Obligations.Collectives
  intro s faulted
  refine ⟨fun n c h => ?_, fun port i ptype p hport hi hp hseq => ?_, fun port p n j r hport hp hseq hfind hj hr hnone => ?_, fun port p hport hp => ⟨fun ha => ?_, fun a ha hmay => ?_⟩,
    fun n d j c x hj hc hx => ?_, fun n d j c x b hj hc hx hb hmay => ?_, fun n d j c x hj hc hx => ?_⟩
  · refine ⟨fun hctx => exec_collCreate_refused h (Cmd.collStatus_of_other hctx) (by decide),
      fun hctx hgood => exec_collCreate_refused h (Cmd.collStatus_of_bad hctx hgood) (by decide),
      fun hctx hgood halign => exec_collCreate_refused h ((Cmd.collStatus_of_good hctx hgood).trans (if_pos halign)) (by decide),
      fun e hctx hgood halign hslot he hquota hin hread hall => ?_⟩
    have hmade := exec_collCreate_made h ((Cmd.collStatus_of_good hctx hgood).trans (if_neg (not_not_intro halign)))
      (State.hasRoom_coll h.opcode hslot he hquota) (State.tableStatus_good rfl hin hread hall)
    obtain ⟨x, hx, hdraft, hgone⟩ := State.created_stands rfl
    refine ⟨_, x, hmade, hx, ?_, ?_, ?_, ?_, hgone⟩ <;> rw [hdraft] <;> rfl
  · have hexec := exec_collPacket hport hi hp hseq
    have htype : p.ptype = ptype := by simpa using List.find?_some hp
    intro k u dropped
    have hdrop {a sender : Nat} (hu : u.hearColl port p = u.dropChunkPacket (some a) sender k) : dropped a sender := by
      obtain ⟨t, ht, hother, hone, hframe⟩ := State.dropChunkPacket_drops (u := u) k a sender
      subst htype
      exact ⟨t, hexec.trans (congrArg _ (hu.trans ht)), hother, hone, hframe⟩
    refine ⟨fun a hcoll ha => hdrop ?_, fun n j d c hcoll hover => hdrop (State.hearColl_of_over hcoll hover), fun n j d c x hcoll hover hx => ?_⟩
    · exact (State.hearColl_of_none (u := u) hcoll).trans (congrArg (u.dropChunkPacket · p.src k) ha)
    · obtain ⟨rfl, rfl, hstep⟩ := CollRun.isOf_iff.mp (State.collRun_isOf hx)
      have hself : u.collRun x.job x.desc x.step = some x := by rw [hstep]; exact hx
      have hsound : (u.atelier j.atelier).faulted = false := State.sound_of_not_over hover
      obtain ⟨hholds, hbrings⟩ := State.hearColl_of_run (u := u) hcoll hover hx
      have hbring (hl : x.launched.isSome = true) {t : State} (ht : u.bring x j c k = t) : exec i s = .next t :=
        hexec.trans (congrArg _ ((hbrings hl).trans ht))
      refine ⟨fun hl => hexec.trans (congrArg _ (hholds hl)), fun hl hother _ hj hmay => ⟨?_, fun hopen g hg hne q hr hc => ?_⟩, fun hl hsame h2 hj => ?_, fun hl hsame h3 hj => ?_, fun hl hsame h1 hone => ?_⟩
      · exact ⟨_, hbring hl (State.bring_other hother), State.abortColl_faults (s := u) hj (State.takePacket_mayFault hmay) _⟩
      · have hrunning : u.Unfinished x j := ⟨State.collRun_listed hself hl, hj, hl, hopen⟩
        have hsent := (s.takePacket_endures port p).abortSent (State.abortColl_sends hrunning (State.takePacket_mayFault hmay) hg hne 0x0403)
        exact ⟨_, hbring hl (State.bring_other hother), (hsent q hr hc).waits⟩
      · exact hbring hl ((State.bring_pairs hsame (htype.trans h2)).trans (State.bringPairs_keeps hself hj hsound))
      · intro r m key off len done place y placed hbefore hgood hafter hidle
        have hwrites := State.bringGather_writes hself hj hsound rfl hbefore hgood hafter hidle
        refine ⟨_, hbring hl ((State.bring_gather hsame (htype.trans h3)).trans hwrites), rfl, rfl, rfl, ?_⟩
        rw [State.putRun_collRun, if_pos (show (x.gather c k x).isOf x.job x.desc x.step = true from x.isOf_self)]
        rfl
      · obtain ⟨h, hchunk, hjob, hst, hnumber, hattempt, hplace, hbytes⟩ := State.bringChunks_one (u := u) (x := x) (j := j) (c := c) hone
        refine ⟨_, h, hbring hl ((State.bring_chunks hsame (htype.trans h1)).trans hchunk), ⟨?_, hjob, hst, hnumber, hattempt, hplace, hbytes⟩, rfl⟩
        rw [State.arrive_reduction]
        rfl
  · intro k u layers took at_ ranks here hstep hrecord
    have hexec : exec (.gatherPacket port) s = .next ((u.onRun n took).bundleSeal n) :=
      (exec_gatherPacket_seal hport hp hseq).trans (congrArg _ (State.hearSeal_takes (u := u) hfind hj hr hnone (sealEarly_of_now hstep hrecord)))
    obtain ⟨hopened, hstands⟩ := u.sealTaken_keeps j k r
    have hbundles := State.takeSeal_bundles (s := u) hj took hr
    have hhere : u.sealHere j (took r) = here := rfl
    have hbundled : (took r).bundled = r.bundled := hopened
    have hran : (took r).step = r.step := hstands
    clear_value took
    rw [hhere, hbundled] at hbundles
    obtain ⟨hidle, hwhole⟩ := hbundles
    have hmoved : Endures s u := s.takePacket_endures port p
    clear_value here
    refine ⟨fun h => hexec.trans (congrArg _ (hidle h)), fun hb hh => ⟨_, hexec, (hwhole hb hh).1, ?_⟩, fun hb hh => ⟨_, hexec, ?_⟩⟩
    · intro recs hne hlen g hg q hroute hcarries
      have hqueued := (hmoved.gatherSent ((hwhole hb hh).2 g hg).records).one hne hlen hroute hcarries
      rw [hran] at hqueued
      exact hqueued.waits
    · intro sum hne hlen g hg q hroute hcarries
      have hqueued := (hmoved.gatherSent ((hwhole hb hh).2 g hg).counts).one hne hlen hroute hcarries
      rw [hran] at hqueued
      exact hqueued.waits
  · rw [exec_abortPacket hport hp, ha]
  · refine ⟨_, by rw [exec_abortPacket hport hp, ha], ?_⟩
    exact State.faultAtelier_faults (((s.takePacket port p).markHeard_marks p).mayFault (State.takePacket_mayFault hmay)) ..
  · obtain ⟨rfl, rfl⟩ := State.unlaunched_key hx
    refine ⟨exec_collectiveLaunch_waits hj hc hx, fun hall h1 h3 h4 hheld => ?_, fun hall h1 hheld => ?_, fun hall h3 hgood hheld hsound hjob => ?_,
      fun hall h4 hheld hsound hjob => ?_, fun hall h3 hbad hmay => ?_⟩
    · rw [exec_collectiveLaunch hj hc hx hall, State.launchColl_quiet hheld h3 h4, if_neg h1]
      rfl
    · rw [exec_collectiveLaunch hj hc hx hall, State.launchColl_quiet hheld (by omega) (by omega), if_pos h1]
      rfl
    · intro l size per m body packets
      obtain ⟨hrun, hsent⟩ := State.launchColl_exchanges hheld h3 hgood hjob hsound rfl
      refine ⟨_, _, exec_collectiveLaunch hj hc hx hall, hrun, rfl, rfl, rfl, fun g hg hne q hr hcar i hi => ?_⟩
      exact (hsent g hg hne i hi q hr hcar).waits
    · intro r bs
      obtain ⟨⟨a, hrun⟩, hsent⟩ := State.launchColl_gathers hheld h4 hjob hsound
      refine ⟨_, _, exec_collectiveLaunch hj hc hx hall, hrun, rfl, rfl, fun g hg q hr hcar i hi => ?_⟩
      exact (hsent g hg q hr hcar i hi).waits
    · refine ⟨_, (exec_collectiveLaunch hj hc hx hall).trans (congrArg _ (State.launchColl_bad h3 hbad)), ?_⟩
      exact State.abortColl_faults (s := s.putRun _) hj ⟨hmay.sound, hmay.held, hmay.alive⟩ _
  · obtain ⟨rfl, rfl⟩ := State.uncompleted_key hx
    have hlater := (State.abortColl_endures (s := s.reach (b + BitVec.ofNat 64 (ticksMs * c.timeout))) hj 0x0401).time
    obtain ⟨hfault, hcode⟩ := State.abortColl_faults (s := s.reach (b + BitVec.ofNat 64 (ticksMs * c.timeout))) hj (State.reach_mayFault hmay _) 0x0401
    obtain ⟨hexpiry, hnow⟩ := s.reach_time_le (b + BitVec.ofNat 64 (ticksMs * c.timeout))
    exact ⟨_, exec_collectiveTimeout hc hx hb, hfault, hcode, hlater ▸ hexpiry, hlater ▸ hnow⟩
  · refine ⟨exec_collectiveCompletion_waits hj hc hx, fun hdone h3 hsilent => ?_, fun h3 => ?_, fun hdone h3 hnotify => ?_⟩
    · rw [exec_collectiveCompletion hj hc hx hdone, if_neg h3, State.tellCores_silent hsilent]
    · rw [exec_collectiveCompletion hj hc hx (if_pos h3), if_pos h3]
    · obtain ⟨t, ht, hmesh, hframe⟩ := State.tellCores_tells (x := x) hnotify (s.putRun { x with complete := true })
      exact ⟨t, by rw [exec_collectiveCompletion hj hc hx hdone, if_neg h3, ht], hmesh, hframe⟩

end Sys2Proof.Machine
end

section
/-!
PROOF. Link sessions (O48): what a handshake's failure, its messages and a session's opening leave, and the rows that read the messages.
-/
namespace Sys2Proof.Machine

open Sys2Proof.Claims

/-! ### Handshakes (R282, R421) -/

/-- A row that takes up the first packet of a kind. -/
theorem packetRow_of_found {s : State} {port ptype : Nat} {sub : Packet → Bool} {p : Packet} (hport : port < 20)
    (hp : (s.port port).packets.find? (fun p => decide (p.ptype = ptype) && sub p) = some p) (f : State → Packet → State) :
    packetRow port ptype s sub f = .next (f (s.takePacket port p) p) := by
  rw [packetRow, onUnit_of_lt hport]
  simp only [hp]

/-- A state that has taken more draws (R394). -/
def State.draws (s : State) (n : Nat) : State := { s with drawn := s.drawn + n }

/-- A session whose handshake has failed (R282). -/
def Session.failed (x : Session) (now : Word64) : Session := { x with awaits := 0, failedAt := some now }

/-- A failed handshake: its session, the others and the entry. -/
theorem State.failHandshake_failed (s : State) (g : Nat) : ∃ e, (s.failHandshake g).session g = (s.session g).failed s.time ∧
    (∀ h, h ≠ g → (s.failHandshake g).session h = s.session h) ∧ (s.failHandshake g).blotter.entries.getLast? = some e ∧ e.code = 0x0203 ∧ e.handles = [g] := by
  obtain ⟨e, hlast, hcode, hhandles⟩ := (s.setSession g ((s.session g).failed s.time)).log_last (code := 0x0203) (by decide) none none none [g]
  refine ⟨e, ?_, fun h hh => ?_, hlast, hcode, hhandles⟩
  · exact (s.setSession_session ..).trans (if_pos rfl)
  · exact (s.setSession_session ..).trans (if_neg hh)

section
variable (s : State) (peer kind : Nat) (payload : Bytes)

/-- A session packet changes neither the sessions nor the draws. -/
theorem State.sendSession_session (g : Nat) : (s.sendSession peer kind payload).session g = s.session g := by
  rw [State.session, show s.sendSession peer kind payload = _ from s.sendPacket_sendsOnly ..]
  rfl

theorem State.sendSession_drawn : (s.sendSession peer kind payload).drawn = s.drawn := by
  rw [show s.sendSession peer kind payload = _ from s.sendPacket_sendsOnly ..]
end

/-- A session packet waits last on VC0 of the port that leads to its peer. -/
theorem State.sendSession_queued {s : State} {peer r : Nat} (hr : s.route peer = some r) (kind : Nat) (payload : Bytes) :
    ∃ w, (SMap.get [] ((s.sendSession peer kind payload).port r).queues 0).getLast? = some w ∧ w.dst = peer ∧
      w.packet.payload = padTo (roundUp payload.length 64) payload :=
  ⟨_, State.sendPacket_queued hr (s.carries_even r rfl), rfl, rfl⟩

/-- The lower index has opened a handshake and awaits message 2. -/
theorem State.openHandshake_session (s : State) (peer : Nat) : ∃ p1, (s.openHandshake peer).session peer =
    { s.session peer with ephemeral := Config.entropy s.drawn, p1 := p1, p2 := [], awaits := 2, failedAt := none } :=
  ⟨_, (State.sendSession_session ..).trans ((State.setSession_session ..).trans (if_pos rfl))⟩

theorem State.openHandshake_drawn (s : State) (peer : Nat) : (s.openHandshake peer).drawn = s.drawn + 3 := State.sendSession_drawn ..

/-- What a session becomes where an exchange gives it keys (R281, R284, R422): they open one that was closed or lost, and wait for their use
in one that is open. -/
structure Session.OpenedBy (x y : Session) (k : SessionKeys) : Prop where
  up : y.up = true
  awaits : y.awaits = 0
  fresh : x.up = false ∨ x.lost = true → y.keys = some k ∧ y.coming = none ∧ y.old = none ∧ y.ctrSent = 0 ∧ y.ctrHeard = 0
  rekeyed : x.up = true → x.lost = false → y.keys = x.keys ∧ y.coming = some k ∧ y.ctrSent = x.ctrSent

theorem State.openSession_opened (s : State) (peer : Nat) (k : SessionKeys) (peerKey : BitVec 512) :
    (s.session peer).OpenedBy ((s.openSession peer k peerKey).session peer) k := by
  unfold State.openSession
  dsimp only
  split
  · next hopen =>
    simp only [Bool.and_eq_true, Bool.not_eq_true'] at hopen
    obtain ⟨hup, hlost⟩ := hopen
    rw [State.setSession_session, if_pos rfl]
    exact ⟨hup, rfl, fun h => by simp [hup, hlost] at h, fun _ _ => ⟨rfl, rfl, rfl⟩⟩
  · next hclosed =>
    rw [State.setSession_session, if_pos rfl]
    exact ⟨rfl, rfl, fun _ => ⟨rfl, rfl, rfl, rfl, rfl⟩, fun hup hlost => absurd (by simp [hup, hlost]) hclosed⟩

/-! ### The messages (R282, R421) -/

section
variable {s : State} {p : Packet}

theorem State.hearFirst_of_bad (h : s.gidx < p.src ∨ s.certGood p.src p.payload = false) : s.hearFirst p = s.failHandshake p.src :=
  if_pos (by simpa using h)

/-- Message 1 answered: what the session keeps of the exchange, the draws it took, and message 2 on its way. -/
theorem State.hearFirst_of_good (hidx : p.src ≤ s.gidx) (hcert : s.certGood p.src p.payload = true) : ∃ p2,
    (s.hearFirst p).session p.src = { s.session p.src with
      ephemeral := Config.entropy s.drawn, p1 := slice p.payload 0 (helloLength p.payload), p2 := p2, awaits := 3, failedAt := none } ∧
    (s.hearFirst p).drawn = s.drawn + 4 ∧
    ∀ r, s.route p.src = some r → ∃ w, (SMap.get [] ((s.hearFirst p).port r).queues 0).getLast? = some w ∧ w.dst = p.src ∧
      w.packet.payload = padTo (roundUp p2.length 64) p2 := by
  obtain ⟨p2, hanswer⟩ : ∃ p2, s.hearFirst p = ((s.draws 4).setSession p.src { s.session p.src with
      ephemeral := Config.entropy s.drawn, p1 := slice p.payload 0 (helloLength p.payload), p2 := p2, awaits := 3, failedAt := none }).sendSession p.src 2 p2 :=
    ⟨_, if_neg (by simp [hidx, hcert])⟩
  rw [hanswer]
  refine ⟨p2, ?_, State.sendSession_drawn .., fun r hr => State.sendSession_queued ?_ 2 p2⟩
  · rw [State.sendSession_session, State.setSession_session, if_pos rfl]
  · exact hr

/-- Whether message 2 is signed by its sender. -/
def State.signedSecond (s : State) (p : Packet) : Bool :=
  let n := helloLength p.payload
  sm2Verify (peerStatic (slice p.payload 0 (n + 64))) (ofBytes512 (slice p.payload n 64)) (sm3 ((s.session p.src).p1 ++ slice p.payload 0 n))

/-- The keys that message 2 and this end's exchange give. -/
def State.agreeSecond (s : State) (p : Packet) : Option SessionKeys :=
  s.agree p.src (s.session p.src).ephemeral (s.session p.src).p1 (slice p.payload 0 (helloLength p.payload + 64))

theorem State.hearSecond_of_bad (h : (s.session p.src).awaits ≠ 2 ∨ s.certGood p.src p.payload = false ∨ s.signedSecond p = false) :
    s.hearSecond p = s.failHandshake p.src :=
  if_pos (by simpa [or_assoc, State.signedSecond] using h)

section
variable (hawaits : (s.session p.src).awaits = 2) (hcert : s.certGood p.src p.payload = true) (hsigned : s.signedSecond p = true)
include hawaits hcert hsigned

theorem State.hearSecond_of_good : ∃ sig, s.hearSecond p = match s.agreeSecond p with
    | none => s.failHandshake p.src
    | some k => ((s.draws 1).openSession p.src k (peerStatic (slice p.payload 0 (helloLength p.payload + 64)))).sendSession p.src 3 sig :=
  ⟨_, if_neg (by simpa [hawaits, hcert, State.signedSecond] using hsigned)⟩

theorem State.hearSecond_of_no_keys (hnone : s.agreeSecond p = none) : s.hearSecond p = s.failHandshake p.src := by
  obtain ⟨sig, h⟩ := State.hearSecond_of_good hawaits hcert hsigned
  rw [h, hnone]

theorem State.hearSecond_opened {k : SessionKeys} (hk : s.agreeSecond p = some k) : (s.session p.src).OpenedBy ((s.hearSecond p).session p.src) k := by
  obtain ⟨sig, h⟩ := State.hearSecond_of_good hawaits hcert hsigned
  rw [h, hk]
  dsimp only
  rw [State.sendSession_session]
  exact (s.draws 1).openSession_opened ..
end

/-- The keys that message 3 closes the exchange with. -/
def State.agreeThird (s : State) (p : Packet) : Option SessionKeys :=
  s.agree p.src (s.session p.src).ephemeral (s.session p.src).p1 (s.session p.src).p2

/-- Whether message 3 is signed by its sender. -/
def State.signedThird (s : State) (p : Packet) : Bool :=
  let y := s.session p.src
  sm2Verify (peerStatic y.p1) (ofBytes512 (slice p.payload 0 64)) (sm3 (y.p1 ++ y.p2))

theorem State.hearThird_of_bad (h : (s.session p.src).awaits ≠ 3 ∨ s.signedThird p = false) : s.hearThird p = s.failHandshake p.src :=
  if_pos (by simpa [State.signedThird] using h)

theorem State.hearThird_of_good (hawaits : (s.session p.src).awaits = 3) (hsigned : s.signedThird p = true) :
    s.hearThird p = match s.agreeThird p with
      | none => s.failHandshake p.src
      | some k => s.openSession p.src k (peerStatic (s.session p.src).p1) :=
  if_neg (by simpa [hawaits, State.signedThird] using hsigned)

section
variable (hawaits : (s.session p.src).awaits = 3) (hsigned : s.signedThird p = true)
include hawaits hsigned

theorem State.hearThird_of_no_keys (hnone : s.agreeThird p = none) : s.hearThird p = s.failHandshake p.src := by
  rw [State.hearThird_of_good hawaits hsigned, hnone]

theorem State.hearThird_opened {k : SessionKeys} (hk : s.agreeThird p = some k) : (s.session p.src).OpenedBy ((s.hearThird p).session p.src) k := by
  rw [State.hearThird_of_good hawaits hsigned, hk]
  exact s.openSession_opened ..
end
end

/-! ### The timers of a handshake (R281, R282) -/

section
variable {s : State} {peer : Nat}

/-- A timer's expiry reached, and a session written then. -/
theorem State.reach_setSession (s : State) (expiry : Word64) (g : Nat) (x : Session) :
    let u := (s.reach expiry).setSession g x
    u.session g = x ∧ u.drawn = s.drawn ∧ expiry.toNat ≤ u.time.toNat ∧ u = { s with sessions := u.sessions, time := u.time } :=
  ⟨((s.reach expiry).setSession_session ..).trans (if_pos rfl), rfl, (s.reach_time_le expiry).1, rfl⟩

theorem exec_sessionRetry (hpeer : peer < 1024) {f : Word64} (hf : (s.session peer).failedAt = some f) : ∃ u, exec (.sessionRetry peer) s =
    .next (if s.gidx < peer then u.openHandshake peer else u) ∧ u.session peer = { s.session peer with failedAt := none } ∧ u.drawn = s.drawn ∧
      (f + 100000000).toNat ≤ u.time.toNat ∧ u = { s with sessions := u.sessions, time := u.time } := by
  refine ⟨_, ?_, s.reach_setSession ..⟩
  rw [show exec (.sessionRetry peer) s = execSessionRetry peer s from rfl, execSessionRetry, onUnit_of_lt hpeer, hf]
  exact whenDue_of_due rfl ..

theorem State.openHandshake_time (s : State) (peer : Nat) : (s.openHandshake peer).time = s.time := by
  rw [State.openHandshake, State.sendSession, show State.sendPacket _ _ _ _ _ _ _ _ = _ from State.sendPacket_sendsOnly ..]
  rfl

theorem exec_sessionRekey (hpeer : peer < 1024) (hup : (s.session peer).up = true) (hcoming : (s.session peer).coming = none)
    (hawaits : (s.session peer).awaits = 0) (hidx : s.gidx < peer) : exec (.sessionRekey peer) s = .next (s.openHandshake peer) := by
  rw [show exec (.sessionRekey peer) s = execSessionRekey peer s from rfl, execSessionRekey, onUnit_of_lt hpeer]
  exact whenDue_of_due (by simp [hup, hcoming, hawaits, hidx]) ..
end

/-! ### The obligation -/

/-- Settles O48: a message that fails its checks ends the handshake (`failHandshake_failed`), a good one is answered or opens the session
(`hearFirst_of_good`, `hearSecond_opened`, `openSession_opened`), and a retry or a rekey is a new handshake (`openHandshake_session`). -/
theorem sessions : Obligations.Sessions := by
  unfold Obligations.Sessions
  intro s fails opens
  have hfails {i : Instr} {port : Nat} {p : Packet} (h : exec i s = .next ((s.takePacket port p).failHandshake p.src)) : fails i p.src := by
    obtain ⟨e, hfailed⟩ := (s.takePacket port p).failHandshake_failed p.src
    exact ⟨_, e, h, hfailed⟩
  have hopens {i : Instr} {g : Nat} {t : State} {k : SessionKeys} (h : exec i s = .next t) (ho : (s.session g).OpenedBy (t.session g) k) : opens i g k :=
    ⟨t, h, ho.up, ho.awaits, ho.fresh, ho.rekeyed⟩
  refine ⟨fun port p hport hp => ?_, fun port p hport hp => ?_, fun port p hport hp => ?_, fun peer hpeer f hf => ?_, fun peer hpeer hup hcoming hawaits hidx => ?_⟩
  · have hexec : exec (.sessionKind1 port) s = .next ((s.takePacket port p).hearFirst p) := packetRow_of_found hport hp _
    refine ⟨fun hbad => hfails (hexec.trans (congrArg _ (State.hearFirst_of_bad hbad))), fun hidx hcert => ?_⟩
    obtain ⟨p2, hsession, hdrawn, hqueued⟩ := State.hearFirst_of_good (s := s.takePacket port p) hidx hcert
    refine ⟨_, hexec, congrArg Session.awaits hsession, congrArg (·.up) hsession, congrArg (·.keys) hsession, congrArg Session.p1 hsession,
      congrArg Session.ephemeral hsession, hdrawn, fun r hr => ?_⟩
    rw [hsession]
    exact hqueued r ((s.takePacket_route ..).trans hr)
  · intro y n p2 signed
    have hexec : exec (.sessionKind2 port) s = .next ((s.takePacket port p).hearSecond p) := packetRow_of_found hport hp _
    refine ⟨fun hbad => hfails (hexec.trans (congrArg _ (State.hearSecond_of_bad hbad))), fun hawaits hcert hsigned => ⟨fun hnone => ?_, fun k hk => ?_⟩⟩
    · exact hfails (hexec.trans (congrArg _ (State.hearSecond_of_no_keys hawaits hcert hsigned hnone)))
    · exact hopens hexec (State.hearSecond_opened (s := s.takePacket port p) hawaits hcert hsigned hk)
  · intro y signed
    have hexec : exec (.sessionKind3 port) s = .next ((s.takePacket port p).hearThird p) := packetRow_of_found hport hp _
    refine ⟨fun hbad => hfails (hexec.trans (congrArg _ (State.hearThird_of_bad hbad))), fun hawaits hsigned => ⟨fun hnone => ?_, fun k hk => ?_⟩⟩
    · exact hfails (hexec.trans (congrArg _ (State.hearThird_of_no_keys hawaits hsigned hnone)))
    · exact hopens hexec (State.hearThird_opened (s := s.takePacket port p) hawaits hsigned hk)
  · obtain ⟨u, hexec, hfailed, hdrawn, htime, hframe⟩ := exec_sessionRetry hpeer hf
    by_cases hidx : s.gidx < peer
    · rw [if_pos hidx] at hexec
      obtain ⟨p1, hsession⟩ := u.openHandshake_session peer
      rw [hdrawn] at hsession
      exact ⟨_, hexec, (u.openHandshake_time peer).symm ▸ htime, congrArg Session.failedAt hsession,
        fun _ => ⟨congrArg Session.awaits hsession, congrArg Session.ephemeral hsession, by rw [State.openHandshake_drawn, hdrawn]⟩,
        fun h => absurd hidx (Nat.not_lt.mpr h)⟩
    · rw [if_neg hidx] at hexec
      exact ⟨u, hexec, htime, by rw [hfailed], fun h => absurd h hidx, fun _ => ⟨hfailed, hframe⟩⟩
  · obtain ⟨p1, hsession⟩ := s.openHandshake_session peer
    exact ⟨_, exec_sessionRekey hpeer hup hcoming hawaits hidx, congrArg Session.awaits hsession, (congrArg Session.up hsession).trans hup,
      congrArg (·.keys) hsession, congrArg Session.ephemeral hsession, State.openHandshake_drawn ..⟩

end Sys2Proof.Machine
end

section
/-!
PROOF. What the Darval ports' shared operations leave (O46, O47): tables written twice, codewords sent, packets queued, and what follows its
rail destination to another port.
-/
namespace Sys2Proof

/-! ### Tables written twice -/

section
variable {α : Type} (k : Nat) (v w : α)

theorem SMap.put_put : ∀ m : SMap α, SMap.put (SMap.put m k v) k w = SMap.put m k w
  | [] => by simp [SMap.put]
  | (j, x) :: m => by
    by_cases hj : j = k
    · simp [SMap.put, hj]
    · by_cases hk : k < j
      · simp [SMap.put, hj, hk]
      · simp [SMap.put, hj, hk, SMap.put_put m]

theorem SMap.del_put : ∀ m : SMap α, SMap.del (SMap.put m k v) k = SMap.del m k
  | [] => by simp [SMap.put, SMap.del]
  | (j, x) :: m => by
    have ih := SMap.del_put m
    unfold SMap.del at ih ⊢
    by_cases hj : j = k
    · simp [SMap.put, hj]
    · by_cases hk : k < j
      · simp [SMap.put, hj, hk]
      · simp [SMap.put, hj, hk, ih]
end

/-- A value written over one that is not the default leaves no trace of it. -/
theorem SMap.set_set {α : Type} [DecidableEq α] (d : α) (m : SMap α) (k : Nat) {v : α} (hv : v ≠ d) (w : α) :
    SMap.set d (SMap.set d m k v) k w = SMap.set d m k w := by
  by_cases hw : w = d
  · simp only [SMap.set, hv, hw, if_true, if_false, SMap.del_put]
  · simp only [SMap.set, hv, hw, if_false, SMap.put_put]

end Sys2Proof

namespace Sys2Proof.Machine

open Sys2Proof.Claims

theorem State.setPort_setPort {x : DarvalPort} (hx : x.state ≠ .absent) (s : State) (p : Nat) (y : DarvalPort) :
    (s.setPort p x).setPort p y = s.setPort p y := by
  have hset := SMap.set_set DarvalPort.reset s.ports p (v := x) (fun h => hx (by rw [h]; rfl)) y
  unfold State.setPort
  rw [hset]

theorem State.setPort_port_self (s : State) (p : Nat) (x : DarvalPort) : (s.setPort p x).port p = x := (s.setPort_port ..).trans (if_pos rfl)

theorem State.setSession_session_self (s : State) (g : Nat) (x : Session) : (s.setSession g x).session g = x := (s.setSession_session ..).trans (if_pos rfl)

/-! ### Codewords sent (R263 to R266) -/

/-- A port that has at most sent codewords: its link and its queues are as they were, and it owes no credit that it did not owe. -/
structure DarvalPort.Emits (x y : DarvalPort) : Prop where
  frame : y = { x with sendSeq := y.sendSeq, unacked := y.unacked, sent := y.sent, owed := y.owed, nak := y.nak, sinceAck := y.sinceAck }
  owed : x.owed = [] → y.owed = []

theorem DarvalPort.Emits.refl (x : DarvalPort) : x.Emits x := ⟨rfl, id⟩
theorem DarvalPort.Emits.trans {x y z : DarvalPort} (h : x.Emits y) (k : y.Emits z) : x.Emits z :=
  ⟨k.frame.trans (by rw [h.frame]), k.owed ∘ h.owed⟩

theorem DarvalPort.emit_emits : ∀ (fuel : Nat) (x : DarvalPort) (flits : List Bytes) (tags : List Nat) (dst : Nat) (seg : Option (Nat × Nat)),
    x.Emits (DarvalPort.emit fuel x flits tags dst seg)
  | 0, x, _, _, _, _ => .refl x
  | fuel + 1, x, flits, tags, dst, seg => by
    unfold DarvalPort.emit
    extract_lets now rest ack again fill map cw p1
    have h1 : x.Emits p1 := by
      refine ⟨rfl, fun h => ?_⟩
      dsimp only [p1]
      rw [h, ite_self]
    split
    · exact h1
    · exact h1.trans (DarvalPort.emit_emits fuel p1 ..)

theorem DarvalPort.not_full {x : DarvalPort} (h : x.unacked.length < 512) : ¬x.full = true := by
  simp [DarvalPort.full, h]

section
variable (x : DarvalPort) (f : Bytes)

theorem DarvalPort.emitControl_emits : x.Emits (x.emitControl f) := by
  unfold DarvalPort.emitControl
  dsimp only
  split
  · exact .refl x
  · exact ⟨rfl, fun _ => rfl⟩

theorem DarvalPort.sendAck_emits : x.Emits x.sendAck := by
  unfold DarvalPort.sendAck
  split
  · exact .refl x
  · exact x.emit_emits ..

/-- A port that is not full sends a codeword of control flits. -/
theorem DarvalPort.emitControl_sent {x : DarvalPort} (h : x.unacked.length < 512) (f : Bytes) : ∃ cw, (x.emitControl f).sent = x.sent ++ [cw] ∧
    (x.emitControl f).unacked = x.unacked ++ [cw] ∧ cw.cseq = x.sendSeq ∧ cw.flits.length = 10 ∧ cw.flits.head? = some f := by
  unfold DarvalPort.emitControl
  dsimp only
  rw [if_neg (DarvalPort.not_full h)]
  exact ⟨_, rfl, rfl, rfl, rfl, rfl⟩

/-- A port that is not full sends a codeword that acknowledges. -/
theorem DarvalPort.sendAck_sent {x : DarvalPort} (h : x.unacked.length < 512) : ∃ cw, x.sendAck.sent = x.sent ++ [cw] ∧ cw.flits.head? = some (ackFlit x) := by
  rw [DarvalPort.sendAck, if_neg (DarvalPort.not_full h)]
  exact ⟨_, rfl, rfl⟩

/-- What a port has sent stays sent. -/
theorem DarvalPort.sendAck_sent_append : ∃ rest, x.sendAck.sent = x.sent ++ rest := by
  rcases Nat.lt_or_ge x.unacked.length 512 with h | h
  · obtain ⟨cw, hsent, -⟩ := DarvalPort.sendAck_sent h
    exact ⟨[cw], hsent⟩
  · exact ⟨[], by simp [DarvalPort.sendAck, DarvalPort.full, h]⟩
end

/-! ### Queues -/

/-- Between the two states no port differs but in what waits at it. -/
structure QueuesOnly (s t : State) : Prop where
  port : ∀ q, t.port q = { s.port q with queues := (t.port q).queues }

theorem QueuesOnly.of_ports {s t : State} (h : t.ports = s.ports) : QueuesOnly s t :=
  ⟨fun q => by rw [show t.port q = s.port q from congrArg (SMap.get DarvalPort.reset · q) h]⟩
theorem QueuesOnly.refl (s : State) : QueuesOnly s s := .of_ports rfl
theorem QueuesOnly.trans {s t u : State} (h : QueuesOnly s t) (k : QueuesOnly t u) : QueuesOnly s u := ⟨fun q => (k.port q).trans (by rw [h.port q])⟩

/-- The packets that wait on a channel of a port replaced. -/
def State.queueUp (s : State) (p vc : Nat) (l : List Waiting) : State := s.setPort p { s.port p with queues := SMap.set [] (s.port p).queues vc l }

section
variable (s : State) (p vc : Nat) (l : List Waiting)

theorem State.queueUp_port (q : Nat) : (s.queueUp p vc l).port q = { s.port q with queues := ((s.queueUp p vc l).port q).queues } := by
  unfold State.queueUp
  rw [State.setPort_port]
  split
  · next h => rw [h]
  · rfl

theorem State.queueUp_queuesOnly : QueuesOnly s (s.queueUp p vc l) := ⟨s.queueUp_port p vc l⟩

theorem State.queueUp_queue (q v : Nat) : SMap.get [] ((s.queueUp p vc l).port q).queues v = if q = p ∧ v = vc then l else SMap.get [] (s.port q).queues v := by
  unfold State.queueUp
  rw [State.setPort_port]
  by_cases hq : q = p
  · rw [if_pos hq, SMap.get_set]
    simp [hq]
  · rw [if_neg hq, if_neg fun h => hq h.1]
end

theorem State.sendPacket_queuesOnly (s : State) (peer vc ptype lease : Nat) (info : List (Nat × Nat × Nat)) (payload : Bytes) (seg : Option (Nat × Nat)) :
    QueuesOnly s (s.sendPacket peer vc ptype lease info payload seg) := by
  unfold State.sendPacket
  split
  · exact .refl s
  · next p _ =>
    refine ⟨fun q => ?_⟩
    dsimp only
    rw [s.takeLinkTag_frame, State.setPort_port]
    split
    · next h => rw [h]
    · rfl

theorem State.openHandshake_queuesOnly (s : State) (peer : Nat) : QueuesOnly s (s.openHandshake peer) :=
  QueuesOnly.trans (t := (s.draws 3).setSession peer _) (.of_ports rfl) (State.sendPacket_queuesOnly ..)

/-! ### What depends on the ports' states alone -/

theorem State.railPort_congr {s t : State} (h : ∀ q, (t.port q).state = (s.port q).state) (pd : Nat) : t.railPort pd = s.railPort pd := by
  simp only [State.railPort, h]

theorem State.gidx_congr {s t : State} (h : t.installation = s.installation) : t.gidx = s.gidx := by rw [State.gidx, h, ← State.gidx]

theorem State.onRail_congr {s t : State} (h : t.installation = s.installation) (g : Nat) : t.onRail g = s.onRail g := by
  rw [State.onRail, State.gidx_congr h, ← State.onRail]

theorem State.route_of_onRail {s : State} {peer : Nat} (h : s.onRail peer = true) : s.route peer = some (s.railPort (peer / 16)) := by
  have hpalette : ¬peer / 16 = s.gidx / 16 := by
    intro heq
    simp [State.onRail, heq] at h
  rw [State.route, if_neg hpalette, if_pos h]

/-! ### Rail destinations that change port (R260, R284) -/

/-- A port that has at most sent stored packets again: codewords, the credits they took, and what waits. -/
structure DarvalPort.Resent (x y : DarvalPort) : Prop where
  frame : y = { x with sendSeq := y.sendSeq, unacked := y.unacked, sent := y.sent, owed := y.owed, nak := y.nak, sinceAck := y.sinceAck
                       credits := y.credits, queues := y.queues }
  owed : x.owed = [] → y.owed = []

theorem DarvalPort.Resent.of_queues {x y : DarvalPort} (h : y = { x with queues := y.queues }) : x.Resent y := by
  rw [h]
  exact ⟨rfl, id⟩
theorem DarvalPort.Resent.trans {x y z : DarvalPort} (h : x.Resent y) (k : y.Resent z) : x.Resent z :=
  ⟨k.frame.trans (by rw [h.frame]), k.owed ∘ h.owed⟩
theorem DarvalPort.Resent.state {x y : DarvalPort} (h : x.Resent y) : y.state = x.state := by rw [h.frame]

theorem DarvalPort.resend_resent (dst : Nat) : ∀ (l : List Stored) (x : DarvalPort),
    x.Resent (DarvalPort.resend dst l x) ∧ (DarvalPort.resend dst l x).queues = x.queues
  | [], x => ⟨.of_queues rfl, rfl⟩
  | m :: l, x => by
    unfold DarvalPort.resend
    dsimp only
    split
    · have hemit := x.emit_emits 7 (m.packet.header :: chunksOf 64 (m.packet.nflits + 1) m.packet.payload) [] dst none
      generalize DarvalPort.emit 7 x (m.packet.header :: chunksOf 64 (m.packet.nflits + 1) m.packet.payload) [] dst none = y at hemit ⊢
      generalize SMap.set 0 x.credits m.packet.vc (SMap.get 0 x.credits m.packet.vc - (m.packet.nflits + 1)) = credits
      have hstep : x.Resent { y with credits := credits } := ⟨by rw [hemit.frame], hemit.owed⟩
      obtain ⟨hresent, hqueues⟩ := DarvalPort.resend_resent dst l { y with credits := credits }
      exact ⟨hstep.trans hresent, hqueues.trans (by rw [hemit.frame])⟩
    · exact ⟨.of_queues rfl, rfl⟩

/-- Between the two states rail destinations may have moved to other ports: what waits for one has gone to its port alone, a port that is up
may have sent stored packets again, and no session differs but in where its stored packets left. -/
structure Follows (s t : State) : Prop where
  frame : t = { s with ports := t.ports, sessions := t.sessions }
  port : ∀ q, (s.port q).Resent (t.port q)
  queued : ∀ q vc w, w ∈ SMap.get [] (t.port q).queues vc → w ∈ SMap.get [] (s.port q).queues vc ∨ q = s.railPort (w.dst / 16)
  session : ∀ g, t.session g = { s.session g with leftOn := (t.session g).leftOn }
  quiet : ∀ q, (s.port q).state ≠ .up ∨ (∀ g, (s.session g).stored = []) → t.port q = { s.port q with queues := (t.port q).queues }

theorem Follows.refl (s : State) : Follows s s := ⟨rfl, fun _ => .of_queues rfl, fun _ _ _ h => .inl h, fun _ => rfl, fun _ _ => rfl⟩

theorem Follows.railPort {s t : State} (h : Follows s t) (pd : Nat) : t.railPort pd = s.railPort pd := State.railPort_congr (fun q => (h.port q).state) pd

theorem Follows.trans {s t u : State} (h : Follows s t) (k : Follows t u) : Follows s u where
  frame := k.frame.trans (by rw [h.frame])
  port q := (h.port q).trans (k.port q)
  queued q vc w hw := (k.queued q vc w hw).elim (h.queued q vc w) fun hq => .inr (hq.trans (h.railPort _))
  session g := (k.session g).trans (by rw [h.session g])
  quiet q hq := by
    refine (k.quiet q (hq.imp (fun hup => (h.port q).state.trans_ne hup) fun hnone g => ?_)).trans (by rw [h.quiet q hq])
    rw [h.session g]
    exact hnone g

theorem Follows.foldl {α : Type} {f : State → α → State} (hf : ∀ s x, Follows s (f s x)) (l : List α) (s : State) : Follows s (l.foldl f s) :=
  foldl_related Follows.refl Follows.trans hf l s

/-- A channel's packets replaced by some that waited there already or wait at their destination's own port. -/
theorem State.queueUp_follows {s : State} {p vc : Nat} {l : List Waiting}
    (h : ∀ w ∈ l, w ∈ SMap.get [] (s.port p).queues vc ∨ p = s.railPort (w.dst / 16)) : Follows s (s.queueUp p vc l) where
  frame := rfl
  port q := .of_queues (s.queueUp_port p vc l q)
  queued q v w hw := by
    rw [State.queueUp_queue] at hw
    split at hw
    · next hq =>
      obtain ⟨rfl, rfl⟩ := hq
      exact h w hw
    · exact .inl hw
  session _ := rfl
  quiet q _ := s.queueUp_port p vc l q

/-- What waits for a rail destination on a channel of one port put at the end of its own port's. -/
def State.moveQueue (s : State) (peer p r vc : Nat) : State :=
  let q := SMap.get [] (s.port r).queues vc
  let s1 := s.queueUp r vc (q.filter fun w => w.dst ≠ peer)
  if q.any fun w => w.dst = peer then s1.queueUp p vc (SMap.get [] (s1.port p).queues vc ++ q.filter fun w => w.dst = peer) else s

theorem State.moveQueue_follows {s : State} {peer p : Nat} (hp : p = s.railPort (peer / 16)) (r vc : Nat) : Follows s (s.moveQueue peer p r vc) := by
  unfold State.moveQueue
  extract_lets q s1
  have h1 : Follows s s1 := State.queueUp_follows fun w hw => .inl (List.mem_filter.mp hw).1
  split
  · refine h1.trans (State.queueUp_follows fun w hw => ?_)
    rcases List.mem_append.mp hw with hw | hw
    · exact .inl hw
    · have hdst : w.dst = peer := by simpa using (List.mem_filter.mp hw).2
      exact .inr (by rw [h1.railPort, hdst, hp])
  · exact .refl s

/-- Nothing waits any longer for the destination on the channel that was moved. -/
theorem State.moveQueue_empties {s : State} {peer p r vc : Nat} (hr : r ≠ p) :
    ∀ w ∈ SMap.get [] ((s.moveQueue peer p r vc).port r).queues vc, w.dst ≠ peer := by
  intro w hw
  unfold State.moveQueue at hw
  dsimp only at hw
  split at hw
  · rw [State.queueUp_queue, if_neg fun h => hr h.1, State.queueUp_queue, if_pos ⟨rfl, rfl⟩] at hw
    simpa using (List.mem_filter.mp hw).2
  · next hnone => exact fun hdst => hnone (List.any_eq_true.mpr ⟨w, hw, by simpa using hdst⟩)

/-- Where the destination's port is `p`, no more than its following there lies between the two states. -/
def FollowsTo (peer p : Nat) (s t : State) : Prop := s.railPort (peer / 16) = p → Follows s t

theorem FollowsTo.refl {peer p : Nat} (s : State) : FollowsTo peer p s s := fun _ => .refl s
theorem FollowsTo.trans {peer p : Nat} {s t u : State} (h : FollowsTo peer p s t) (k : FollowsTo peer p t u) : FollowsTo peer p s u :=
  fun hp => (h hp).trans (k (((h hp).railPort _).trans hp))

/-- What waits for a rail destination on the channels of one port put at the end of its own port's. -/
def State.movePort (s : State) (peer p r : Nat) : State := (List.range 4).foldl (fun t vc => t.moveQueue peer p r vc) s

theorem State.moveWaiting_eq (s : State) (peer : Nat) : s.moveWaiting peer =
    (((List.range 4).map (15 + ·)).filter (· ≠ s.railPort (peer / 16))).foldl (fun t r => t.movePort peer (s.railPort (peer / 16)) r) s := rfl

section
variable (s : State) (peer p r : Nat)

theorem State.moveQueue_followsTo (vc : Nat) : FollowsTo peer p s (s.moveQueue peer p r vc) := fun hp => State.moveQueue_follows hp.symm r vc

theorem State.movePort_followsTo : FollowsTo peer p s (s.movePort peer p r) :=
  foldl_related .refl .trans (fun t vc => t.moveQueue_followsTo peer p r vc) _ s

theorem State.moveWaiting_follows : Follows s (s.moveWaiting peer) :=
  foldl_related (R := FollowsTo peer (s.railPort (peer / 16))) .refl .trans (fun t r => t.movePort_followsTo peer _ r) _ s rfl
end

/-- No packet for a destination waits on a channel of a port. -/
def State.NoneWaits (s : State) (r v g : Nat) : Prop := ∀ w ∈ SMap.get [] (s.port r).queues v, w.dst ≠ g

/-- None comes to wait at a port that is not the destination's. -/
theorem Follows.noneWaits {s t : State} (h : Follows s t) {r v g : Nat} (hr : r ≠ s.railPort (g / 16)) (hs : s.NoneWaits r v g) : t.NoneWaits r v g :=
  fun w hw hdst => (h.queued r v w hw).elim (fun hw => hs w hw hdst) fun hq => hr (by rw [hq, hdst])

/-- What waits for a rail destination waits at its own port alone. -/
def State.Gathered (s : State) (g : Nat) : Prop :=
  ∀ r, 15 ≤ r → r < 19 → r ≠ s.railPort (g / 16) → ∀ v < 4, s.NoneWaits r v g

theorem Follows.gathered {s t : State} (h : Follows s t) {g : Nat} (hs : s.Gathered g) : t.Gathered g := by
  intro r h15 h19 hr v hv
  rw [h.railPort] at hr
  exact h.noneWaits hr (hs r h15 h19 hr v hv)

theorem State.moveWaiting_gathered (s : State) (g : Nat) : (s.moveWaiting g).Gathered g := by
  intro r h15 h19 hr v hv
  rw [(s.moveWaiting_follows g).railPort] at hr
  generalize hp : s.railPort (g / 16) = p at hr
  have hkeeps (t u : State) (h : FollowsTo g p t u) (ht : t.railPort (g / 16) = p ∧ t.NoneWaits r v g) : u.railPort (g / 16) = p ∧ u.NoneWaits r v g :=
    ⟨((h ht.1).railPort _).trans ht.1, (h ht.1).noneWaits (by rw [ht.1]; exact hr) ht.2⟩
  have hport : r ∈ ((List.range 4).map (15 + ·)).filter (· ≠ p) :=
    List.mem_filter.mpr ⟨List.mem_map.mpr ⟨r - 15, List.mem_range.mpr (by omega), by omega⟩, by simpa using hr⟩
  rw [State.moveWaiting_eq, hp]
  refine (foldl_of_mem FollowsTo.refl FollowsTo.trans (fun t r => t.movePort_followsTo g p r) hkeeps hport fun t ht => ?_).2
  refine foldl_of_mem FollowsTo.refl FollowsTo.trans (fun u vc => u.moveQueue_followsTo g p r vc) hkeeps (List.mem_range.mpr hv) fun u hu => ?_
  have hst := (ht.trans hu) hp
  exact ⟨(((hst.trans (u.moveQueue_followsTo g p r v ((hst.railPort _).trans hp)))).railPort _).trans hp, State.moveQueue_empties hr⟩

/-- The transport to a destination resumed: what it has not acknowledged sent again on a port that is up. -/
theorem State.sendAgain_follows (s : State) (peer : Nat) : Follows s (s.sendAgain peer) := by
  unfold State.sendAgain
  extract_lets p x
  split
  · next hup =>
    obtain ⟨hresent, hqueues⟩ := DarvalPort.resend_resent peer x.stored (s.port p)
    have hsession : s.session peer = x := rfl
    refine ⟨rfl, fun q => ?_, fun q vc w hw => ?_, fun g => ?_, fun q hq => ?_⟩
    · rw [State.setSession_port, State.setPort_port]
      split
      · next h => rw [h]; exact hresent
      · exact .of_queues rfl
    · rw [State.setSession_port, State.setPort_port] at hw
      split at hw
      · next h => exact .inl (by rwa [hqueues, ← h] at hw)
      · exact .inl hw
    · rw [State.setSession_session]
      split
      · next h => rw [h]
      · rfl
    · rw [State.setSession_port, State.setPort_port]
      split
      · next h =>
        subst h
        have hnone : x.stored = [] := hq.resolve_left (fun h => h hup) peer
        rw [hnone]
        rfl
      · rfl
  · exact .refl s

theorem State.resume_follows (s : State) (peer : Nat) : Follows s (s.resume peer) := by
  unfold State.resume
  split
  · exact .refl s
  · exact s.sendAgain_follows peer

theorem State.follow_follows (s : State) (port : Nat) : Follows s (s.follow port) := by
  unfold State.follow
  split
  · exact .foldl (fun t g => (t.moveWaiting_follows g).trans (State.resume_follows ..)) _ s
  · exact .refl s

theorem State.mem_railDestinations {s : State} {g : Nat} (hg : g < 1024) (hrail : s.onRail g = true) : g ∈ s.railDestinations := by
  refine List.mem_filter.mpr ⟨List.mem_map.mpr ⟨g / 16, List.mem_range.mpr (by omega), ?_⟩, hrail⟩
  have hposition : g % 16 = s.gidx % 16 := by
    simp only [State.onRail, Bool.and_eq_true, decide_eq_true_eq] at hrail
    exact hrail.2
  omega

/-- After a rail port's change every rail destination is waited for at its own port. -/
theorem State.follow_gathered {s : State} {port g : Nat} (hport : isRailPort port = true) (hg : g < 1024) (hrail : s.onRail g = true) :
    (s.follow port).Gathered g := by
  rw [State.follow, if_pos hport]
  refine foldl_of_mem Follows.refl Follows.trans (fun t g => (t.moveWaiting_follows g).trans (State.resume_follows ..)) (fun _ _ h => h.gathered)
    (State.mem_railDestinations hg hrail) fun t _ => ?_
  exact (State.resume_follows ..).gathered (t.moveWaiting_gathered g)

theorem State.follow_of_not_rail {port : Nat} (h : isRailPort port = false) (s : State) : s.follow port = s := if_neg (by simp [h])

end Sys2Proof.Machine
end

section
/-!
PROOF. Packets given up and peers lost (O46, O47): what the discarding of packets leaves, the abort of every collective with a lost member,
and drains that end.
-/
namespace Sys2Proof.Machine

open Sys2Proof.Claims

/-! ### Packets given up (R269, R283, R298) -/

/-- Between the two states packets were given up: their tags are freed, their segments answered, and a command whose reply they were may have
ended. -/
structure GivesUp (s t : State) : Prop where
  frame : t = { s with tags := t.tags, dmas := t.dmas, mobjs := t.mobjs, fences := t.fences, images := t.images, colls := t.colls, jobs := t.jobs
                       commands := t.commands, queues := t.queues, translations := t.translations, hostOut := t.hostOut, functions := t.functions
                       signals := t.signals }
  free : ∀ g, SMap.find? s.tags g = none → SMap.find? t.tags g = none
  recounts : Recounts s t

theorem GivesUp.refl (s : State) : GivesUp s s := ⟨rfl, fun _ => id, .refl s⟩
theorem GivesUp.trans {s t u : State} (h : GivesUp s t) (k : GivesUp t u) : GivesUp s u :=
  ⟨k.frame.trans (by rw [h.frame]), fun g => k.free g ∘ h.free g, h.recounts.trans k.recounts⟩
theorem GivesUp.foldl {α : Type} {f : State → α → State} (hf : ∀ s x, GivesUp s (f s x)) (l : List α) (s : State) : GivesUp s (l.foldl f s) :=
  foldl_related GivesUp.refl GivesUp.trans hf l s

theorem State.dropTag_givesUp (s : State) (n : Nat) : GivesUp s (s.dropTag n) := by
  refine ⟨rfl, fun g hg => ?_, Aside.recounts ⟨rfl, rfl⟩⟩
  rw [State.dropTag_find, hg, ite_self]

theorem State.dropTag?_givesUp (s : State) (x : Option Nat) : GivesUp s (s.dropTag? x) := by
  cases x
  · exact .refl s
  · exact s.dropTag_givesUp _

theorem State.finish_givesUp (s : State) (n status result : Nat) : GivesUp s (s.finish n status result) := by
  have hends := s.finish_endsOnly n status result
  refine ⟨?_, fun g hg => ?_, State.endCommand_recounts ..⟩
  · rw [hends.frame]
  · rw [hends.frame]
    exact hg

theorem State.settleReply_givesUp (s : State) (n : Nat) : GivesUp s (s.settleReply n) := by
  unfold State.settleReply
  split
  · split
    · split
      · exact GivesUp.trans (t := { s with dmas := SMap.del s.dmas n }) ⟨rfl, fun _ => id, Aside.recounts ⟨rfl, rfl⟩⟩ (State.finish_givesUp ..)
      · exact .refl s
    · exact .refl s
  · exact .refl s

theorem State.answerSegment_givesUp (s : State) (seg : Option (Nat × Nat)) (result : Nat) : GivesUp s (s.answerSegment seg result) := by
  rcases seg with _ | ⟨cmd, i⟩
  · exact .refl s
  · exact GivesUp.trans (t := { s with dmas := SMap.adjust s.dmas cmd fun d => { d with peer := SMap.put d.peer i result } })
      ⟨rfl, fun _ => id, Aside.recounts ⟨rfl, rfl⟩⟩ (State.settleReply_givesUp ..)

theorem State.discardWaiting_givesUp (s : State) (w : Waiting) : GivesUp s (s.discardWaiting w) :=
  (s.dropTag?_givesUp w.tag).trans (State.answerSegment_givesUp ..)

/-- A tag is free once every tag of a list has been dropped. -/
theorem State.dropTag_fold_frees {g : Nat} {l : List Nat} (hg : g ∈ l) (s : State) : SMap.find? (l.foldl State.dropTag s).tags g = none :=
  foldl_of_mem (P := fun t : State => SMap.find? t.tags g = none) GivesUp.refl GivesUp.trans State.dropTag_givesUp (fun _ _ h => h.free g) hg fun t _ => by
    rw [State.dropTag_find, if_pos rfl]

/-! ### Queued packets discarded -/

/-- Between the two states packets that waited were given up: no port differs but in its queues, and none waits that did not. -/
structure Discards (s t : State) : Prop where
  frame : t = { s with ports := t.ports, tags := t.tags, dmas := t.dmas, mobjs := t.mobjs, fences := t.fences, images := t.images, colls := t.colls
                       jobs := t.jobs, commands := t.commands, queues := t.queues, translations := t.translations, hostOut := t.hostOut
                       functions := t.functions, signals := t.signals }
  port : QueuesOnly s t
  queued : ∀ q v w, w ∈ SMap.get [] (t.port q).queues v → w ∈ SMap.get [] (s.port q).queues v
  free : ∀ g, SMap.find? s.tags g = none → SMap.find? t.tags g = none
  recounts : Recounts s t

theorem Discards.refl (s : State) : Discards s s := ⟨rfl, .refl s, fun _ _ _ => id, fun _ => id, .refl s⟩
theorem Discards.trans {s t u : State} (h : Discards s t) (k : Discards t u) : Discards s u :=
  ⟨k.frame.trans (by rw [h.frame]), h.port.trans k.port, fun q v w => h.queued q v w ∘ k.queued q v w, fun g => k.free g ∘ h.free g, h.recounts.trans k.recounts⟩

theorem GivesUp.ports {s t : State} (h : GivesUp s t) : t.ports = s.ports := by rw [h.frame]

theorem GivesUp.discards {s t : State} (h : GivesUp s t) : Discards s t := by
  have hport (q : Nat) : t.port q = s.port q := congrArg (SMap.get DarvalPort.reset · q) h.ports
  exact ⟨by rw [h.frame], .of_ports h.ports, fun q v w hw => by rwa [hport] at hw, h.free, h.recounts⟩

theorem State.queueUp_discards {s : State} {p vc : Nat} {l : List Waiting} (h : ∀ w ∈ l, w ∈ SMap.get [] (s.port p).queues vc) : Discards s (s.queueUp p vc l) := by
  refine ⟨rfl, s.queueUp_queuesOnly p vc l, fun q v w hw => ?_, fun _ => id, Aside.recounts ⟨rfl, rfl⟩⟩
  rw [State.queueUp_queue] at hw
  split at hw
  · next hq =>
    obtain ⟨rfl, rfl⟩ := hq
    exact h w hw
  · exact hw

section
variable (s : State) (p vc : Nat) (pick : Waiting → Bool)

/-- A channel's packets that a test picks out given up, and the rest left waiting. -/
theorem State.discardAt_eq : ∃ u, GivesUp s u ∧ s.discardAt p vc pick =
    if (SMap.get [] (s.port p).queues vc).any pick then u.queueUp p vc ((SMap.get [] (s.port p).queues vc).filter (!pick ·)) else u := by
  have hgives : GivesUp s (((SMap.get [] (s.port p).queues vc).filter pick).foldl State.discardWaiting s) :=
    .foldl (fun t w => t.discardWaiting_givesUp w) _ s
  refine ⟨_, hgives, ?_⟩
  unfold State.discardAt State.queueUp
  rw [show State.port (((SMap.get [] (s.port p).queues vc).filter pick).foldl State.discardWaiting s) p = s.port p from
    congrArg (SMap.get DarvalPort.reset · p) hgives.ports]

theorem State.discardAt_discards : Discards s (s.discardAt p vc pick) := by
  obtain ⟨u, hgives, heq⟩ := s.discardAt_eq p vc pick
  rw [heq]
  split
  · refine hgives.discards.trans (State.queueUp_discards fun w hw => ?_)
    rw [show u.port p = s.port p from congrArg (SMap.get DarvalPort.reset · p) hgives.ports]
    exact (List.mem_filter.mp hw).1
  · exact hgives.discards

/-- None of the channel's packets that are left is one that the test picks out. -/
theorem State.discardAt_left : ∀ w ∈ SMap.get [] ((s.discardAt p vc pick).port p).queues vc, pick w = false := by
  intro w hw
  obtain ⟨u, hgives, heq⟩ := s.discardAt_eq p vc pick
  rw [heq] at hw
  split at hw
  · rw [State.queueUp_queue, if_pos ⟨rfl, rfl⟩] at hw
    simpa using (List.mem_filter.mp hw).2
  · next hnone =>
    rw [show u.port p = s.port p from congrArg (SMap.get DarvalPort.reset · p) hgives.ports] at hw
    exact Bool.eq_false_iff.mpr fun hpick => hnone (List.any_eq_true.mpr ⟨w, hw, hpick⟩)

theorem State.discardQueued_discards : Discards s (s.discardQueued pick) :=
  foldl_related .refl .trans (fun t q => foldl_related .refl .trans (fun u v => u.discardAt_discards q v pick) _ t) _ s

theorem State.discardQueued_left {q v : Nat} (hq : q < 20) (hv : v < 4) : ∀ w ∈ SMap.get [] ((s.discardQueued pick).port q).queues v, pick w = false := by
  have hkeeps (t u : State) (h : Discards t u) (ht : ∀ w ∈ SMap.get [] (t.port q).queues v, pick w = false) :
      ∀ w ∈ SMap.get [] (u.port q).queues v, pick w = false := fun w hw => ht w (h.queued q v w hw)
  refine foldl_of_mem .refl .trans (fun t q => foldl_related .refl .trans (fun u v => u.discardAt_discards q v pick) _ t) hkeeps (List.mem_range.mpr hq) fun t _ => ?_
  exact foldl_of_mem .refl .trans (fun u v => u.discardAt_discards q v pick) hkeeps (List.mem_range.mpr hv) fun u _ => u.discardAt_left q v pick

theorem State.discardBarred_discards : Discards s (s.discardBarred p) :=
  foldl_related .refl .trans (fun t vc => t.discardAt_discards p vc _) _ s
end

/-! ### Drains (R431, R450) -/

/-- Where no atelier's tags are being drained, no drain ends. -/
theorem State.settleDrains_of_calm {s : State} (h : Calm s) : s.settleDrains = s :=
  List.foldlRecOn (motive := fun t => t = s) _ _ rfl fun t ht a ha => by
    rw [ht, State.settleDrain_of_not_draining (h a (List.mem_range.mp ha))]

theorem Calm.of_ateliers {s t : State} (h : Calm s) (heq : t.ateliers = s.ateliers) : Calm t := fun a ha => by
  rw [show t.atelier a = s.atelier a from congrArg (SMap.get AtelierState.idle · a) heq, h a ha]

/-- A fault has stopped an atelier whose lease is not ending, and no reset of it waits. -/
structure State.Struck (s : State) (a code : Nat) : Prop where
  faulted : (s.atelier a).faulted = true
  fcode : (s.atelier a).fcode = BitVec.ofNat 16 code
  resetting : (s.atelier a).resetting = none
  held : (s.lease a).state ≠ 3

theorem State.Struck.of_eq {s t : State} {a code : Nat} (h : s.Struck a code) (hatelier : t.atelier a = s.atelier a) (hlease : t.lease a = s.lease a) :
    t.Struck a code :=
  ⟨by rw [hatelier, h.faulted], by rw [hatelier, h.fcode], by rw [hatelier, h.resetting], by rw [hlease]; exact h.held⟩

theorem Discards.struck {s t : State} (h : Discards s t) {a code : Nat} (hs : s.Struck a code) : t.Struck a code := by
  rw [h.frame]
  exact hs.of_eq rfl rfl

theorem State.clearMemory_ateliers (s : State) (a : Nat) : (s.clearMemory a).ateliers = s.ateliers ∧ (s.clearMemory a).leases = s.leases := by
  unfold State.clearMemory
  extract_lets region quad s1
  exact ⟨(s1.onCores_aside a _).ateliers, (s1.onCores_endures a _).leases⟩

theorem State.closeLease_of_held {s : State} {a : Nat} (h : (s.lease a).state ≠ 3) : s.closeLease a = s := if_neg (by simp [h])

theorem State.closeLease_other (s : State) {a b : Nat} (hab : a ≠ b) : (s.closeLease b).atelier a = s.atelier a ∧ (s.closeLease b).lease a = s.lease a := by
  obtain ⟨hateliers, hleases⟩ := s.clearMemory_ateliers b
  have hcleared : (((s.clearMemory b).destroyObjects b).setLease b Lease.none).atelier a = s.atelier a ∧
      (((s.clearMemory b).destroyObjects b).setLease b Lease.none).lease a = s.lease a := by
    refine ⟨congrArg (SMap.get AtelierState.idle · a) hateliers, ?_⟩
    rw [State.setLease_lease, if_neg hab]
    exact congrArg (SMap.get Lease.none · a) hleases
  unfold State.closeLease
  split
  · dsimp only
    split
    · next n _ =>
      rw [(State.finish_endsOnly _ n 0x00 0).frame]
      exact hcleared
    · exact hcleared
  · exact ⟨rfl, rfl⟩

theorem State.endReset_of_none {s : State} {a : Nat} (h : (s.atelier a).resetting = none) : s.endReset a = s := by rw [State.endReset, h]

theorem State.endReset_other (s : State) {a b : Nat} (hab : a ≠ b) : (s.endReset b).atelier a = s.atelier a ∧ (s.endReset b).lease a = s.lease a := by
  unfold State.endReset
  split
  · exact ⟨rfl, rfl⟩
  · next p f _ =>
    extract_lets s1 s2
    have hatelier : s2.atelier a = s.atelier a := (s.onCores_aside b _).atelier a
    have hlease : s2.lease a = s.lease a := congrArg (SMap.get Lease.none · a) (s.onCores_endures b _).leases
    clear_value s2
    exact ⟨((s2.setAtelier_atelier ..).trans (if_neg hab)).trans hatelier, hlease⟩

theorem State.Struck.drained {s : State} {a code : Nat} (h : s.Struck a code) (b : Nat) :
    (s.setAtelier b { s.atelier b with draining := none }).Struck a code := by
  by_cases hab : a = b
  · subst hab
    have hdone := (s.setAtelier_atelier a { s.atelier a with draining := none } a).trans (if_pos rfl)
    exact ⟨(congrArg AtelierState.faulted hdone).trans h.faulted, (congrArg AtelierState.fcode hdone).trans h.fcode,
      (congrArg AtelierState.resetting hdone).trans h.resetting, h.held⟩
  · exact h.of_eq ((s.setAtelier_atelier ..).trans (if_neg hab)) rfl

theorem State.settleDrain_struck {s : State} {a code : Nat} (h : s.Struck a code) (b : Nat) : (s.settleDrain b).Struck a code := by
  unfold State.settleDrain
  split
  · have hdone := h.drained b
    generalize s.setAtelier b { s.atelier b with draining := none } = t at hdone
    by_cases hab : a = b
    · subst hab
      rw [State.closeLease_of_held hdone.held, State.endReset_of_none hdone.resetting]
      exact hdone
    · obtain ⟨hatelier, hlease⟩ := t.closeLease_other hab
      obtain ⟨hatelier', hlease'⟩ := (t.closeLease b).endReset_other hab
      exact hdone.of_eq (hatelier'.trans hatelier) (hlease'.trans hlease)
  · exact h

theorem State.settleDrains_struck {s : State} {a code : Nat} (h : s.Struck a code) : s.settleDrains.Struck a code :=
  List.foldlRecOn (motive := fun t : State => t.Struck a code) _ _ h fun _ ht b _ => State.settleDrain_struck ht b

/-! ### Collectives with a lost member (R291, R298) -/

theorem State.abortBeyond_of_none {s : State} (h : s.collectives = []) (lost : Nat → Bool) (code : Nat) : s.abortBeyond lost code = s := by
  rw [State.abortBeyond, h]
  rfl

/-- Between the two states the runs of collectives and the module's state are the same. -/
structure RunsStand (s t : State) : Prop where
  collectives : t.collectives = s.collectives
  mstate : t.mstate = s.mstate

theorem RunsStand.refl (s : State) : RunsStand s s := ⟨rfl, rfl⟩
theorem RunsStand.trans {s t u : State} (h : RunsStand s t) (k : RunsStand t u) : RunsStand s u :=
  ⟨k.collectives.trans h.collectives, k.mstate.trans h.mstate⟩

theorem EndsOnly.runsStand {s t : State} (h : EndsOnly s t) : RunsStand s t := by
  rw [h.frame]
  exact ⟨rfl, rfl⟩

theorem LeavesOnly.runsStand {s t : State} (h : LeavesOnly s t) : RunsStand s t := by
  rw [show t = _ from h]
  exact ⟨rfl, rfl⟩

theorem SendsOnly.runsStand {s t : State} (h : SendsOnly s t) : RunsStand s t := by
  rw [show t = _ from h]
  exact ⟨rfl, rfl⟩

theorem State.onCores_runsStand (s : State) (a : Nat) (f : Core → Core) : RunsStand s (s.onCores a f) :=
  foldl_related .refl .trans (fun t n => by split <;> exact ⟨rfl, rfl⟩) _ s

theorem State.dropSegments_runsStand (s : State) (a : Nat) : RunsStand s (s.dropSegments a) := by
  unfold State.dropSegments
  extract_lets mine held s1
  have h1 : RunsStand s s1 := by
    rw [show s1 = _ from (State.dropTags_releasesOnly held s).1]
    exact ⟨rfl, rfl⟩
  exact h1.trans ⟨rfl, rfl⟩

theorem State.dropRequests_runsStand (s : State) (a : Nat) : RunsStand s (s.dropRequests a) :=
  RunsStand.trans (t := { s with gathers := keepRequests a s.gathers, scatters := keepRequests a s.scatters }) ⟨rfl, rfl⟩
    (foldl_related .refl .trans (fun t r => (t.leaveRows_leavesOnly r).runsStand) _ _)

theorem State.discardServing_runsStand (s : State) (a : Nat) : RunsStand s (s.discardServing a) := by
  have hbroken : RunsStand s ((s.jobs.filter fun p => p.2.atelier = a).foldl (fun s p => s.breakAll p.2) s) :=
    foldl_related .refl .trans (fun t (p : Nat × Job) => (t.breakAll_leavesOnly p.2).runsStand) _ s
  exact hbroken.trans ⟨rfl, rfl⟩

/-- The discard rule takes away the runs of its atelier's jobs alone. -/
theorem State.abortWork_collectives (s : State) (a code : Nat) : (s.abortWork a code).mstate = s.mstate ∧
    (s.abortWork a code).collectives = s.collectives.filter fun c => (SMap.find? s.jobs c.job).all fun j => j.atelier ≠ a := by
  unfold State.abortWork
  extract_lets s1 s2
  have h1 : SendsOnly s s1 := SendsOnly.foldl (fun t c => by
    split
    · split
      · exact State.abortMembers_sendsOnly ..
      · exact .refl t
    · exact .refl t) _ s
  have h2 : SendsOnly s1 s2 := SendsOnly.foldl (fun t p => by
    split
    · split
      · exact State.abortMembers_sendsOnly ..
      · exact .refl t
    · exact .refl t) _ s1
  have h12 := h1.trans h2
  clear_value s2
  refine ⟨h12.runsStand.mstate, ?_⟩
  dsimp only
  rw [h12.runsStand.collectives, h12.aside.jobs]

theorem State.discard_runs (s : State) (a code : Nat) : ∃ u, RunsStand s u ∧ Recounts s u ∧ RunsStand (u.abortWork a code) (s.discard a code) := by
  have hcores := s.onCores_runsStand a Core.halted
  have hends := (s.onCores a Core.halted).discardCommands_endsOnly a none
  refine ⟨_, hcores.trans hends.runsStand, (s.onCores_aside a Core.halted).recounts.trans (State.discardCommands_recounts ..), ?_⟩
  unfold State.discard
  extract_lets s1 s2 s3 s4
  have hchunks : RunsStand (s1.abortWork a code) ((s1.abortWork a code).dropChunks a) := ⟨rfl, rfl⟩
  have h3 : RunsStand (s1.abortWork a code) s3 :=
    (hchunks.trans ((State.dropSegments_runsStand ..).trans (State.dropRequests_runsStand ..))).trans (State.discardServing_runsStand ..)
  clear_value s3
  exact h3.trans ⟨rfl, rfl⟩

/-- A run of a collective is listed under its key. -/
def State.lists (s : State) (y : CollRun) : Prop := ∃ x, s.collectives.find? (·.isOf y.job y.desc y.step) = some x

/-- The discard rule leaves the runs of other ateliers' jobs. -/
theorem State.discard_lists {s : State} {a : Nat} {y : CollRun} {j : Job} (hj : SMap.find? s.jobs y.job = some j) (ha : j.atelier ≠ a) (h : s.lists y)
    (code : Nat) : (s.discard a code).lists y := by
  obtain ⟨x, hx⟩ := h
  obtain ⟨u, hruns, hcounts, hdiscard⟩ := s.discard_runs a code
  obtain ⟨k, hk, hjk⟩ := hcounts.job y.job j hj
  refine ⟨x, ?_⟩
  rw [hdiscard.collectives, (u.abortWork_collectives a code).2, hruns.collectives, List.find?_filter, ← hx]
  congr 1
  funext z
  rcases hz : z.isOf y.job y.desc y.step
  · simp
  · obtain ⟨hjob, -, -⟩ := CollRun.isOf_iff.mp hz
    simp [hjob, hk, hjk.atelier, ha]

/-- A collective of an atelier's job runs, and a fault would stop the atelier. -/
structure State.Runs (s : State) (a : Nat) (y : CollRun) : Prop where
  job : ∃ j, SMap.find? s.jobs y.job = some j ∧ j.atelier = a
  listed : s.lists y
  mayFault : MayFault s a
  resetting : (s.atelier a).resetting = none

theorem State.faultAtelier_strikes {s : State} {a : Nat} (hmay : MayFault s a) (hreset : (s.atelier a).resetting = none) (code : Nat) (step ctx : Option Nat)
    (handles : List Nat) : (s.faultAtelier a code step ctx handles).Struck a code := by
  have hat := State.faultAtelier_atelier (not_faultHeld_of_mayFault hmay) code step ctx handles a
  rw [if_pos rfl] at hat
  refine ⟨by rw [hat]; rfl, by rw [hat]; rfl, by rw [hat]; exact hreset, ?_⟩
  rw [State.lease, (s.faultAtelier_endures a code step ctx handles).leases]
  exact hmay.held

/-- A fault leaves a stopped atelier stopped. -/
theorem State.faultAtelier_struck {s : State} {a c : Nat} (h : s.Struck a c) (b code : Nat) (step ctx : Option Nat) (handles : List Nat) :
    (s.faultAtelier b code step ctx handles).Struck a c :=
  h.of_eq ((s.faultAtelier_spares b code step ctx handles a).halted h.faulted) (congrArg (SMap.get Lease.none · a) (s.faultAtelier_endures b code step ctx handles).leases)

/-- A fault of another atelier leaves a collective running. -/
theorem State.faultAtelier_runs {s : State} {a b : Nat} {y : CollRun} (h : s.Runs a y) (hab : a ≠ b) (code : Nat) (step ctx : Option Nat) (handles : List Nat) :
    (s.faultAtelier b code step ctx handles).Runs a y := by
  obtain ⟨⟨j, hj, hja⟩, hlisted, hmay, hreset⟩ := h
  rcases hb : s.faultHeld b
  · have hat := State.faultAtelier_atelier hb code step ctx handles a
    rw [if_neg hab] at hat
    have hlease : (s.faultAtelier b code step ctx handles).lease a = s.lease a :=
      congrArg (SMap.get Lease.none · a) (s.faultAtelier_endures b code step ctx handles).leases
    obtain ⟨k, hk, hjk⟩ := (s.faultAtelier_spares b code step ctx handles a).job (by rw [hat]; exact hmay.sound) y.job j hj hja
    rw [State.faultAtelier_of_free hb] at hat hlease hk ⊢
    generalize hu : (s.log code (some b) step ctx handles).setAtelier b ((s.atelier b).faultedAt s code) = u at hat hlease hk ⊢
    have hstand : u.jobs = s.jobs ∧ u.collectives = s.collectives ∧ u.mstate = s.mstate := by
      rw [← hu]
      exact ⟨rfl, rfl, rfl⟩
    obtain ⟨v, hruns, -, hdiscard⟩ := u.discard_runs b code
    refine ⟨⟨k, hk, hjk.atelier.trans hja⟩, State.discard_lists (by rw [hstand.1, hj]) (by rw [hja]; exact hab) ?_ code, ⟨?_, ?_, ?_⟩, ?_⟩
    · rw [State.lists, hstand.2.1]
      exact hlisted
    · rw [hat]
      exact hmay.sound
    · rw [hlease]
      exact hmay.held
    · rw [hdiscard.mstate, (v.abortWork_collectives b code).1, hruns.mstate, hstand.2.2]
      exact hmay.alive
    · rw [hat]
      exact hreset
  · rw [State.faultAtelier_of_held hb]
    exact ⟨⟨j, hj, hja⟩, hlisted, ⟨hmay.sound, hmay.held, hmay.alive⟩, hreset⟩

theorem Marks.runs {s t : State} (h : Marks s t) {a : Nat} {y : CollRun} (hs : s.Runs a y) : t.Runs a y := by
  obtain ⟨⟨j, hj, hja⟩, ⟨x, hx⟩, hmay, hreset⟩ := hs
  obtain ⟨z, hz, -⟩ := h.run _ _ _ x hx
  refine ⟨⟨j, ?_, hja⟩, ⟨z, hz⟩, h.mayFault hmay, ?_⟩
  · rw [h.frame, hj]
  · rw [h.frame]
    exact hreset

theorem Marks.struck {s t : State} (h : Marks s t) {a code : Nat} (hs : s.Struck a code) : t.Struck a code := by
  rw [h.frame]
  exact hs.of_eq rfl rfl

theorem State.abortColl_of_no_job {s : State} {x : CollRun} (h : SMap.find? s.jobs x.job = none) (code : Nat) : s.abortColl x code = s.markLater x code := by
  have hjobs : SMap.find? (s.markLater x code).jobs x.job = none := by rw [(s.markLater_marks x code).frame, ← h]
  rw [show s.abortColl x code = match SMap.find? (s.markLater x code).jobs x.job with
    | some j => (s.markLater x code).faultAtelier j.atelier code (some x.step) (some j.ctx) [x.seq, x.job]
    | none => s.markLater x code from rfl, hjobs]

theorem State.abortColl_struck {s : State} {a c : Nat} (h : s.Struck a c) (x : CollRun) (code : Nat) : (s.abortColl x code).Struck a c := by
  have hmarked := (s.markLater_marks x code).struck h
  rcases hj : SMap.find? s.jobs x.job with _ | j
  · rw [State.abortColl_of_no_job hj]
    exact hmarked
  · rw [State.abortColl_eq hj]
    exact State.faultAtelier_struck hmarked ..

/-- The abort of a collective of the atelier stops it. -/
theorem State.abortColl_strikes {s : State} {a : Nat} {y : CollRun} (h : s.Runs a y) (code : Nat) : (s.abortColl y code).Struck a code := by
  have hmarked := (s.markLater_marks y code).runs h
  obtain ⟨⟨j, hj, rfl⟩, -, -, -⟩ := h
  rw [State.abortColl_eq hj]
  exact State.faultAtelier_strikes hmarked.mayFault hmarked.resetting ..

/-- The abort of any collective stops the atelier or leaves its collectives running. -/
theorem State.abortColl_runs {s : State} {a : Nat} {y : CollRun} (h : s.Runs a y) (x : CollRun) (code : Nat) :
    (s.abortColl x code).Runs a y ∨ (s.abortColl x code).Struck a code := by
  have hmarked := (s.markLater_marks x code).runs h
  rcases hj : SMap.find? s.jobs x.job with _ | j
  · rw [State.abortColl_of_no_job hj]
    exact .inl hmarked
  · rw [State.abortColl_eq hj]
    by_cases hja : a = j.atelier
    · subst hja
      exact .inr (State.faultAtelier_strikes hmarked.mayFault hmarked.resetting ..)
    · exact .inl (State.faultAtelier_runs hmarked hja ..)

/-- What the aborts of lost collectives keep between two states, of an atelier: it is stopped, or a collective of its jobs runs. -/
structure Aborts (a code : Nat) (y : CollRun) (s t : State) : Prop where
  runs : s.Runs a y → t.Runs a y ∨ t.Struck a code
  struck : s.Struck a code → t.Struck a code

theorem Aborts.refl {a code : Nat} {y : CollRun} (s : State) : Aborts a code y s s := ⟨.inl, id⟩
theorem Aborts.trans {a code : Nat} {y : CollRun} {s t u : State} (h : Aborts a code y s t) (k : Aborts a code y t u) : Aborts a code y s u :=
  ⟨fun hs => (h.runs hs).elim k.runs fun ht => .inr (k.struck ht), k.struck ∘ h.struck⟩

/-- One of the aborts: of a run that is still listed. -/
def State.abortListed (code : Nat) (s : State) (x : CollRun) : State := if s.collectives.any fun y => y.isOf x.job x.desc x.step then s.abortColl x code else s

theorem State.abortListed_aborts (a code : Nat) (y : CollRun) (s : State) (x : CollRun) : Aborts a code y s (s.abortListed code x) := by
  unfold State.abortListed
  split
  · exact ⟨fun h => State.abortColl_runs h x code, fun h => State.abortColl_struck h x code⟩
  · exact .refl s

theorem State.abortListed_strikes {s : State} {a : Nat} {y : CollRun} (h : s.Runs a y) (code : Nat) : (s.abortListed code y).Struck a code := by
  have hlisted : (s.collectives.any fun z => z.isOf y.job y.desc y.step) = true := by
    obtain ⟨x, hx⟩ := h.listed
    exact List.any_eq_true.mpr ⟨x, List.mem_of_find?_eq_some hx, List.find?_some (p := fun z : CollRun => z.isOf y.job y.desc y.step) hx⟩
  rw [State.abortListed, if_pos hlisted]
  exact State.abortColl_strikes h code

theorem State.abortBeyond_eq (s : State) (lost : Nat → Bool) (code : Nat) : s.abortBeyond lost code =
    (s.collectives.filter fun x => x.launched.isSome && !x.complete && x.aborted.isNone && (SMap.find? s.jobs x.job).any fun j => j.members.any fun g => g ≠ s.gidx && lost g).foldl
      (State.abortListed code) s := rfl

/-- A running collective with a lost member stops its atelier (R298). -/
theorem State.abortBeyond_strikes {s : State} {y : CollRun} {j : Job} (hy : y ∈ s.collectives) (hlaunched : y.launched.isSome = true) (hopen : y.complete = false)
    (haborted : y.aborted = none) (hj : SMap.find? s.jobs y.job = some j) (hmay : MayFault s j.atelier) (hreset : (s.atelier j.atelier).resetting = none)
    {lost : Nat → Bool} {g : Nat} (hg : g ∈ j.members) (hne : g ≠ s.gidx) (hlost : lost g = true) (code : Nat) :
    (s.abortBeyond lost code).Struck j.atelier code := by
  have hlisted : s.lists y := Option.isSome_iff_exists.mp (List.find?_isSome.mpr ⟨y, hy, y.isOf_self⟩)
  have hruns : s.Runs j.atelier y := ⟨⟨j, hj, rfl⟩, hlisted, hmay, hreset⟩
  have hpicked : y ∈ s.collectives.filter fun x => x.launched.isSome && !x.complete && x.aborted.isNone &&
      (SMap.find? s.jobs x.job).any fun j => j.members.any fun g => g ≠ s.gidx && lost g := by
    refine List.mem_filter.mpr ⟨hy, ?_⟩
    have hmember : (j.members.any fun g => g ≠ s.gidx && lost g) = true := List.any_eq_true.mpr ⟨g, hg, by simp [hne, hlost]⟩
    simp only [hlaunched, hopen, haborted, hj, Option.any_some, hmember]
    rfl
  rw [State.abortBeyond_eq]
  refine foldl_of_mem Aborts.refl Aborts.trans (State.abortListed_aborts j.atelier code y) (fun _ _ h => h.struck) hpicked fun t ht => ?_
  rcases ht.runs hruns with hruns | hstruck
  · exact State.abortListed_strikes hruns code
  · exact (State.abortListed_aborts j.atelier code y t y).struck hstruck

/-! ### Peers lost (R298) -/

section
variable (s : State) (lost : Nat → Bool) (code port : Nat)

/-- The entry of a lost peer. -/
theorem State.loseBeyond_last : ∃ e, (s.loseBeyond lost code port).blotter.entries.getLast? = some e ∧ e.code = 0x0205 ∧ e.handles = [port] :=
  State.log_last _ (code := 0x0205) (by decide) none none none [port]

/-- Nothing waits for a lost peer. -/
theorem State.loseBeyond_left {q v : Nat} (hq : q < 20) (hv : v < 4) : ∀ w ∈ SMap.get [] ((s.loseBeyond lost code port).port q).queues v, lost w.dst = false := by
  rw [State.loseBeyond, State.note_port]
  exact State.discardQueued_left _ (fun w => lost w.dst) hq hv
end

/-- Where no collective runs, the loss of peers is no more than packets given up and an entry. -/
theorem State.loseBeyond_of_none {s : State} (h : s.collectives = []) (lost : Nat → Bool) (code port : Nat) :
    ∃ u, Discards s u ∧ s.loseBeyond lost code port = u.note 0x0205 [port] :=
  ⟨_, s.discardQueued_discards _, by rw [State.loseBeyond, State.abortBeyond_of_none h]⟩

theorem State.loseBeyond_struck {s : State} {lost : Nat → Bool} {a code : Nat} (h : (s.abortBeyond lost code).Struck a code) (port : Nat) :
    (s.loseBeyond lost code port).Struck a code :=
  ((State.discardQueued_discards _ fun w => lost w.dst).struck h).of_eq (State.note_atelier ..) (State.note_lease ..)

end Sys2Proof.Machine
end

section
/-!
PROOF. Bring-up, hello, retraining and loss of a link (O46).
-/
namespace Sys2Proof.Machine

open Sys2Proof.Claims

/-! ### Bring-up (R275, R276) -/

/-- A timer's expiry reached, and a port written then. -/
theorem State.reach_setPort (s : State) (expiry : Word64) (p : Nat) (f : Word64 → DarvalPort) : ∃ t,
    (s.reach expiry).setPort p (f (s.reach expiry).time) = t ∧ t.port p = f t.time ∧ expiry.toNat ≤ t.time.toNat ∧ s.time.toNat ≤ t.time.toNat ∧
      t = { s with ports := t.ports, time := t.time } :=
  ⟨_, rfl, State.setPort_port_self .., (s.reach_time_le expiry).1, (s.reach_time_le expiry).2, rfl⟩

section
variable {s : State} {port : Nat} (hport : port < 20)
include hport

theorem exec_portBringUp (hrails : s.power.rails = true) (hlref : s.power.lref = true) (hentry : (s.peerEntry port).isSome = true)
    (hdown : (s.port port).state = .absent ∨ (s.port port).state = .lost) : exec (.portBringUp port) s = .next (if 8 < s.blocksTaken port + 1 then
      (s.setPort port { s.port port with state := .heldDown }).note 0x0204 [port]
    else s.setPort port { s.port port with state := .training, stage := 2, preset := 0, since := s.time, version := 0 }) := by
  rw [show exec (.portBringUp port) s = execPortBringUp port s from rfl, execPortBringUp, onUnit_of_lt hport]
  exact whenDue_of_due (by rcases hdown with h | h <;> simp [hrails, hlref, hentry, h]) ..

section
variable (hstate : (s.port port).state = .training)
include hstate

theorem exec_peerDetectTimeout (hstage : (s.port port).stage = 2) : ∃ t, exec (.peerDetectTimeout port) s = .next t ∧
    t.port port = { s.port port with stage := 0, since := t.time } ∧ ((s.port port).since + 500000).toNat ≤ t.time.toNat ∧ s.time.toNat ≤ t.time.toNat ∧
      t = { s with ports := t.ports, time := t.time } := by
  obtain ⟨t, ht, hframe⟩ := s.reach_setPort ((s.port port).since + 500000) port fun now => { s.port port with stage := 0, since := now }
  refine ⟨t, ?_, hframe⟩
  rw [show exec (.peerDetectTimeout port) s = execPeerDetectTimeout port s from rfl, execPeerDetectTimeout, onUnit_of_lt hport, ← ht]
  exact whenDue_of_due (by simp [hstate, hstage]) ..

theorem exec_bringUpRetry (hstage : (s.port port).stage = 0) : ∃ t, exec (.bringUpRetry port) s = .next t ∧
    t.port port = { s.port port with stage := 2, preset := 0, since := t.time } ∧ ((s.port port).since + 100000000).toNat ≤ t.time.toNat ∧
      s.time.toNat ≤ t.time.toNat ∧ t = { s with ports := t.ports, time := t.time } := by
  obtain ⟨t, ht, hframe⟩ := s.reach_setPort ((s.port port).since + 100000000) port fun now => { s.port port with stage := 2, preset := 0, since := now }
  refine ⟨t, ?_, hframe⟩
  rw [show exec (.bringUpRetry port) s = execBringUpRetry port s from rfl, execBringUpRetry, onUnit_of_lt hport, ← ht]
  exact whenDue_of_due (by simp [hstate, hstage]) ..

theorem exec_equalisationAttempt (hstage : (s.port port).stage = 2 ∨ (s.port port).stage = 3) (success : Bool) :
    exec (.equalisationAttempt port success) s = .next (
      if success then s.setPort port ({ s.port port with stage := 5, since := s.time }.emitControl (s.ownHello port))
      else if (s.port port).preset < 3 then s.setPort port { s.port port with stage := 3, preset := (s.port port).preset + 1, since := s.time }
      else (s.setPort port { s.port port with stage := 0, since := s.time }).note 0x0202 [port]) := by
  rw [show exec (.equalisationAttempt port success) s = execEqualisationAttempt port success s from rfl, execEqualisationAttempt, onUnit_of_lt hport]
  exact whenDue_of_due (by rcases hstage with h | h <;> simp [hstate, h]) ..

/-- After a successful attempt the module's hello goes out. -/
theorem exec_equalisationAttempt_sends (hstage : (s.port port).stage = 2 ∨ (s.port port).stage = 3) (hroom : (s.port port).unacked.length < 512) :
    ∃ t cw, exec (.equalisationAttempt port true) s = .next t ∧ (t.port port).state = .training ∧ (t.port port).stage = 5 ∧
      (t.port port).sent = (s.port port).sent ++ [cw] ∧ (t.port port).unacked = (s.port port).unacked ++ [cw] ∧ cw.cseq = (s.port port).sendSeq ∧
      cw.flits.length = 10 ∧ cw.flits.head? = some (s.ownHello port) ∧ t = { s with ports := t.ports } := by
  have hexec := exec_equalisationAttempt hport hstate hstage true
  rw [if_pos rfl] at hexec
  have hemits := DarvalPort.emitControl_emits { s.port port with stage := 5, since := s.time } (s.ownHello port)
  obtain ⟨cw, hcw⟩ := DarvalPort.emitControl_sent (x := { s.port port with stage := 5, since := s.time }) hroom (s.ownHello port)
  obtain ⟨hsent, hunacked, hcseq, hlength, hhead⟩ := hcw
  refine ⟨_, cw, hexec, ?_, ?_, ?_, ?_, hcseq, hlength, hhead, rfl⟩
  · rw [State.setPort_port_self, hemits.frame]
    exact hstate
  · rw [State.setPort_port_self, hemits.frame]
  · rw [State.setPort_port_self, hsent]
  · rw [State.setPort_port_self, hunacked]
end
end

/-! ### Hello (R259, R274, R278) -/

section
variable {s : State} {port : Nat} {e : PeerEntry} {h : Bytes} {rest : List Bytes}

theorem exec_helloFlit (hport : port < 20) (he : s.peerEntry port = some e) (hcontrol : (s.port port).control = h :: rest) (hkind : bitsIn h 0 4 = 1)
    (hstate : (s.port port).state = .training) (hstage : (s.port port).stage = 5) :
    exec (.helloFlit port) s = .next ((s.setPort port { s.port port with control := rest }).hearHello port e h) := by
  rw [show exec (.helloFlit port) s = execHelloFlit port s from rfl, execHelloFlit, onUnit_of_lt hport, he, hcontrol]
  refine (whenDue_of_due (by simpa using hkind) ..).trans (congrArg _ (if_pos ?_))
  simp [hstate, hstage]

/-- A hello that is not the expected peer's holds the port down. -/
theorem State.hearHello_of_stranger (hbad : helloGood port e h = false) : ∃ hs, s.hearHello port e h =
    (s.setPort port { s.port port with state := .heldDown }).note 0x0201 hs :=
  ⟨_, if_pos (by simp [hbad])⟩

/-- The highest version both ends have, and the lowest that both take (R278). -/
def helloTop (h : Bytes) : Nat := min 3 (bitsIn h 24 8)
def helloLow (port : Nat) (e : PeerEntry) (h : Bytes) : Nat := max (if e.v2 && !isRailPort port then 2 else 3) (bitsIn h 16 8)

section
variable (hgood : helloGood port e h = true)
include hgood

theorem State.hearHello_of_no_version (hlow : helloTop h < helloLow port e h) : s.hearHello port e h = s.setPort port { s.port port with state := .heldDown } := by
  exact (if_neg (by simp [hgood])).trans (if_pos hlow)

/-- The port as a good hello brings it up. -/
def DarvalPort.cameUp (x : DarvalPort) (top : Nat) (now : Word64) : DarvalPort :=
  { x with state := .up, version := top, stage := 7, credits := grants top, owed := [], failures := [], replays := [], filled := now }

/-- The state in which the sessions behind a port that has come up are opened. -/
def State.greeted (s : State) (port : Nat) (e : PeerEntry) (h : Bytes) : State :=
  let t := s.setPort port ((s.port port).cameUp (helloTop h) s.time)
  if isRailPort port then t else (t.discardBarred port).setSession e.peer { t.session e.peer with ident := slice h 32 32 }

theorem State.hearHello_of_good (hlow : helloLow port e h ≤ helloTop h) (hblocks : s.blocksTaken port + (if helloTop h = 2 then 2 else 1) ≤ 8) :
    s.hearHello port e h = ((s.greeted port e h).openSessions port).follow port :=
  (if_neg (by simp [hgood])).trans ((if_neg (Nat.not_lt.mpr hlow)).trans (if_neg (Nat.not_lt.mpr hblocks)))
end

theorem Discards.session {s t : State} (h : Discards s t) (g : Nat) : t.session g = s.session g := by
  rw [h.frame]
  rfl

/-- At a palette port or the bridge port the hello's identity is kept for its peer's session. -/
theorem State.greeted_peer (hrail : isRailPort port = false) : (s.greeted port e h).session e.peer = { s.session e.peer with ident := slice h 32 32 } ∧
    (s.greeted port e h).drawn = s.drawn ∧ (s.greeted port e h).installation = s.installation := by
  have hdiscards := (s.setPort port ((s.port port).cameUp (helloTop h) s.time)).discardBarred_discards port
  unfold State.greeted
  dsimp only
  rw [if_neg (by simp [hrail]), hdiscards.frame]
  exact ⟨State.setSession_session_self .., rfl, rfl⟩

theorem State.greeted_port (s : State) (port : Nat) (e : PeerEntry) (h : Bytes) : (s.greeted port e h).port port =
    { (s.port port).cameUp (helloTop h) s.time with queues := ((s.greeted port e h).port port).queues } := by
  have hport : (s.setPort port ((s.port port).cameUp (helloTop h) s.time)).port port = (s.port port).cameUp (helloTop h) s.time := State.setPort_port_self ..
  unfold State.greeted
  dsimp only
  split
  · rw [hport]
  · rw [State.setSession_port]
    exact ((State.discardBarred_discards ..).port.port port).trans (by rw [hport])

theorem State.greeted_stored (s : State) (port : Nat) (e : PeerEntry) (h : Bytes) (g : Nat) : ((s.greeted port e h).session g).stored = (s.session g).stored := by
  unfold State.greeted
  dsimp only
  split
  · rfl
  · rw [State.setSession_session]
    split
    · next hg => rw [hg]; rfl
    · rw [(State.discardBarred_discards ..).session]
      rfl

/-! ### Sessions that a port opens (R275, R281) -/

/-- Between the two states handshakes were opened: messages wait, and what sessions have stored is the same. -/
structure Opens (s t : State) : Prop where
  port : QueuesOnly s t
  stored : ∀ g, (t.session g).stored = (s.session g).stored

theorem Opens.refl (s : State) : Opens s s := ⟨.refl s, fun _ => rfl⟩
theorem Opens.trans {s t u : State} (h : Opens s t) (k : Opens t u) : Opens s u := ⟨h.port.trans k.port, fun g => (k.stored g).trans (h.stored g)⟩

theorem State.openHandshake_opens (s : State) (peer : Nat) : Opens s (s.openHandshake peer) := by
  refine ⟨s.openHandshake_queuesOnly peer, fun g => ?_⟩
  unfold State.openHandshake
  dsimp only
  rw [State.sendSession_session, State.setSession_session]
  split
  · next hg => rw [hg]
  · rfl

theorem State.openSessions_opens (s : State) (port : Nat) : Opens s (s.openSessions port) :=
  foldl_related .refl .trans (fun t g => by
    split
    · exact t.openHandshake_opens g
    · exact .refl t) _ s

theorem State.openSessions_of_peer (hrail : isRailPort port = false) (he : s.peerEntry port = some e) : s.openSessions port =
    if s.gidx < e.peer && !(s.session e.peer).up && (s.session e.peer).awaits = 0 then s.openHandshake e.peer else s := by
  rw [State.openSessions, State.peersBehind, if_neg (by simp [hrail]), he]
  rfl

/-- The link as a good hello leaves it: up with the granted credits, and the lower index opens the session. -/
theorem State.hearHello_up (he : s.peerEntry port = some e) (hgood : helloGood port e h = true) (hlow : helloLow port e h ≤ helloTop h)
    (hblocks : s.blocksTaken port + (if helloTop h = 2 then 2 else 1) ≤ 8) : let t := s.hearHello port e h
    (t.port port).state = .up ∧ (t.port port).version = helloTop h ∧
      ((isRailPort port = false ∨ ∀ g, (s.session g).stored = []) → (t.port port).credits = grants (helloTop h)) ∧ (t.port port).owed = [] ∧
      (t.port port).control = (s.port port).control ∧ (isRailPort port = false → (t.session e.peer).ident = slice h 32 32 ∧
        (s.gidx < e.peer → (s.session e.peer).up = false → (s.session e.peer).awaits = 0 → (t.session e.peer).awaits = 2 ∧ t.drawn = s.drawn + 3)) := by
  intro t
  have ht : t = ((s.greeted port e h).openSessions port).follow port := State.hearHello_of_good hgood hlow hblocks
  have hgreeted := s.greeted_port port e h
  have hopens := (s.greeted port e h).openSessions_opens port
  have hfollows := ((s.greeted port e h).openSessions port).follow_follows port
  rw [← ht] at hfollows
  have hopened : ((s.greeted port e h).openSessions port).port port = { (s.port port).cameUp (helloTop h) s.time with
      queues := (((s.greeted port e h).openSessions port).port port).queues } := (hopens.port.port port).trans (by rw [hgreeted])
  have hresent := hfollows.port port
  rw [hopened] at hresent
  have hframe := hresent.frame
  refine ⟨by rw [hframe]; rfl, by rw [hframe]; rfl, fun hquiet => ?_, hresent.owed rfl, by rw [hframe]; rfl, fun hrail => ?_⟩
  · have hstill : t.port port = { ((s.greeted port e h).openSessions port).port port with queues := (t.port port).queues } := by
      rcases hquiet with hrail | hnone
      · rw [ht, State.follow_of_not_rail hrail]
      · refine hfollows.quiet port (.inr fun g => ?_)
        rw [hopens.stored, State.greeted_stored, hnone g]
    rw [hstill, hopened]
    rfl
  · rw [State.follow_of_not_rail hrail] at ht
    obtain ⟨hsession, hdrawn, hinstallation⟩ := State.greeted_peer (s := s) (e := e) (h := h) hrail
    rw [State.openSessions_of_peer hrail (by rw [State.peerEntry, hinstallation, ← State.peerEntry, he]), State.gidx_congr hinstallation, hsession] at ht
    have hhandshake := (s.greeted port e h).openHandshake_session e.peer
    rw [hsession] at hhandshake
    obtain ⟨p1, hhandshake⟩ := hhandshake
    refine ⟨?_, fun hidx hup hawaits => ?_⟩
    · rw [ht]
      split
      · rw [hhandshake]
      · rw [hsession]
    · rw [ht, if_pos (by simp [hidx, hup, hawaits])]
      exact ⟨by rw [hhandshake], by rw [State.openHandshake_drawn, hdrawn]⟩
end

theorem State.blocksTaken_setPort (s : State) (port : Nat) (x : DarvalPort) : (s.setPort port x).blocksTaken port = s.blocksTaken port := by
  refine List.foldl_ext _ _ _ fun n q hq => ?_
  rw [State.setPort_port, if_neg (by simpa using (List.mem_filter.mp hq).2)]

section
variable {s : State} {port : Nat} {e : PeerEntry} {h : Bytes} {rest : List Bytes} (hport : port < 20) (he : s.peerEntry port = some e)
  (hcontrol : (s.port port).control = h :: rest) (hkind : bitsIn h 0 4 = 1) (hstate : (s.port port).state = .training) (hstage : (s.port port).stage = 5)
include hport he hcontrol hkind hstate hstage

theorem exec_helloFlit_stranger (hbad : helloGood port e h = false) : ∃ t en, exec (.helloFlit port) s = .next t ∧
    t.port port = { s.port port with control := rest, state := .heldDown } ∧ t.blotter.entries.getLast? = some en ∧ en.code = 0x0201 ∧
      t = { s with ports := t.ports, blotter := t.blotter } := by
  obtain ⟨hs, hhear⟩ := (s.setPort port { s.port port with control := rest }).hearHello_of_stranger hbad
  rw [State.setPort_port_self, State.setPort_setPort (by simp [hstate])] at hhear
  obtain ⟨en, hlast, hcode, _⟩ := State.log_last (s.setPort port { s.port port with control := rest, state := .heldDown }) (code := 0x0201) (by decide)
    none none none hs
  refine ⟨_, en, (exec_helloFlit hport he hcontrol hkind hstate hstage).trans (congrArg _ hhear), ?_, hlast, hcode, rfl⟩
  rw [State.note_port, State.setPort_port_self]

theorem exec_helloFlit_no_version (hgood : helloGood port e h = true) (hlow : helloTop h < helloLow port e h) :
    exec (.helloFlit port) s = .next (s.setPort port { s.port port with control := rest, state := .heldDown }) := by
  rw [exec_helloFlit hport he hcontrol hkind hstate hstage, State.hearHello_of_no_version hgood hlow, State.setPort_port_self,
    State.setPort_setPort (by simp [hstate])]

theorem exec_helloFlit_up (hgood : helloGood port e h = true) (hlow : helloLow port e h ≤ helloTop h)
    (hblocks : s.blocksTaken port + (if helloTop h = 2 then 2 else 1) ≤ 8) : ∃ t, exec (.helloFlit port) s = .next t ∧
    (t.port port).state = .up ∧ (t.port port).version = helloTop h ∧
      ((isRailPort port = false ∨ ∀ g, (s.session g).stored = []) → (t.port port).credits = grants (helloTop h)) ∧ (t.port port).owed = [] ∧
      (t.port port).control = rest ∧ (isRailPort port = false → (t.session e.peer).ident = slice h 32 32 ∧
        (s.gidx < e.peer → (s.session e.peer).up = false → (s.session e.peer).awaits = 0 → (t.session e.peer).awaits = 2 ∧ t.drawn = s.drawn + 3)) := by
  have hup := State.hearHello_up (s := s.setPort port { s.port port with control := rest }) he hgood hlow (by rwa [State.blocksTaken_setPort])
  rw [State.setPort_port_self] at hup
  exact ⟨_, exec_helloFlit hport he hcontrol hkind hstate hstage, hup⟩
end

/-! ### Retraining (R265, R277) -/

/-- What waits at a port that is not up follows its destinations, and no more of the port changes. -/
theorem State.setPort_follow_quiet (s : State) {port : Nat} {x : DarvalPort} (hx : x.state ≠ .up) :
    ((s.setPort port x).follow port).port port = { x with queues := (((s.setPort port x).follow port).port port).queues } := by
  have hself : (s.setPort port x).port port = x := State.setPort_port_self ..
  exact (((s.setPort port x).follow_follows port).quiet port (.inl (by rw [hself]; exact hx))).trans (by rw [hself])

section
variable {s : State} {port : Nat} (hport : port < 20)
include hport

theorem exec_retrain (hstate : (s.port port).state = .up) (hmany : 16 < (s.port port).failures.length ∨ 64 < (s.port port).replays.length) :
    exec (.retrain port) s = .next ((s.setPort port (((s.port port).emitControl retrainFlit).retrain s.time)).follow port) := by
  rw [show exec (.retrain port) s = execRetrain port s from rfl, execRetrain, onUnit_of_lt hport]
  exact whenDue_of_due (by simpa [hstate] using hmany) ..

/-- A port that begins to retrain asks the other end to, and keeps what it has. -/
theorem exec_retrain_keeps (hstate : (s.port port).state = .up) (hmany : 16 < (s.port port).failures.length ∨ 64 < (s.port port).replays.length)
    (hroom : (s.port port).unacked.length < 512) : ∃ t cw, exec (.retrain port) s = .next t ∧ (t.port port).state = .retraining ∧
      (t.port port).since = s.time ∧ (t.port port).retrains = (s.port port).retrains + 1 ∧ (t.port port).failures = [] ∧ (t.port port).replays = [] ∧
      (t.port port).sent = (s.port port).sent ++ [cw] ∧ cw.flits.head? = some retrainFlit ∧
      (isRailPort port = false → (t.port port).queues = (s.port port).queues) ∧ (t.port port).credits = (s.port port).credits ∧
      (t.port port).packets = (s.port port).packets ∧ (isRailPort port = false → t.sessions = s.sessions) ∧
      t = { s with ports := t.ports, sessions := t.sessions } := by
  have hemits := (s.port port).emitControl_emits retrainFlit
  obtain ⟨cw, hsent, -, -, -, hhead⟩ := DarvalPort.emitControl_sent hroom retrainFlit
  have hquiet := s.setPort_follow_quiet (port := port) (x := ((s.port port).emitControl retrainFlit).retrain s.time) (by simp [DarvalPort.retrain])
  have hframe := ((s.setPort port (((s.port port).emitControl retrainFlit).retrain s.time)).follow_follows port).frame
  refine ⟨_, cw, exec_retrain hport hstate hmany, congrArg (·.state) hquiet, congrArg (·.since) hquiet, ?_, congrArg (·.failures) hquiet,
    congrArg (·.replays) hquiet, (congrArg (·.sent) hquiet).trans hsent, hhead, fun hrail => ?_, ?_, ?_, fun hrail => ?_, hframe⟩
  · rw [hquiet, DarvalPort.retrain, hemits.frame]
  · rw [State.follow_of_not_rail hrail, State.setPort_port_self, DarvalPort.retrain, hemits.frame]
  · rw [hquiet, DarvalPort.retrain, hemits.frame]
  · rw [hquiet, DarvalPort.retrain, hemits.frame]
  · rw [State.follow_of_not_rail hrail]
    rfl

theorem exec_retrainRequest {h : Bytes} {rest : List Bytes} (hstate : (s.port port).state = .up) (hcontrol : (s.port port).control = h :: rest)
    (hkind : bitsIn h 0 4 = 2) : exec (.retrainRequest port) s =
      .next ((s.setPort port ({ s.port port with control := rest }.retrain s.time)).follow port) := by
  rw [show exec (.retrainRequest port) s = execRetrainRequest port s from rfl, execRetrainRequest, onUnit_of_lt hport, hcontrol]
  dsimp only
  rw [hstate, if_pos rfl]
  exact whenDue_of_due (by simpa using hkind) ..

theorem exec_portUpAgain (hstate : (s.port port).state = .retraining) (hlref : s.power.lref = true) (htime : s.time.toNat < (s.port port).since.toNat + 5000000) :
    exec (.portUpAgain port) s = .next ((s.setPort port { s.port port with state := .up }).follow port) := by
  rw [show exec (.portUpAgain port) s = execPortUpAgain port s from rfl, execPortUpAgain, onUnit_of_lt hport]
  exact whenDue_of_due (by simp only [hstate, hlref, htime]; rfl) ..
end
/-! ### A port that does not come back (R277, R297, R298) -/

/-- A port with nothing left of its link: no codeword is unacknowledged, and no credit is held. -/
def DarvalPort.emptied (x : DarvalPort) : DarvalPort :=
  { x with unacked := [], sendSeq := 0, lastSeq := 1023, sinceAck := 0, nak := false, arriving := [], control := [], owed := [], credits := [] }

section
variable (s : State) (port : Nat)

theorem State.dropUnacked_givesUp : GivesUp (s.setPort port (s.port port).emptied) (s.dropUnacked port) :=
  (GivesUp.foldl State.dropTag_givesUp ..).trans (GivesUp.foldl (fun t g => t.answerSegment_givesUp g 0x05) ..)

theorem State.dropUnacked_frees {c : Codeword} (hc : c ∈ (s.port port).unacked) {g : Nat} (hg : g ∈ c.tags) :
    SMap.find? (s.dropUnacked port).tags g = none :=
  (GivesUp.foldl (fun t g => t.answerSegment_givesUp g 0x05) ..).free g (State.dropTag_fold_frees (List.mem_flatMap.mpr ⟨c, hc, hg⟩) _)

/-- A port lost at a time: what it held for its link is given up. -/
def State.portDown (expiry : Word64) : State :=
  let t := (s.reach expiry).dropUnacked port
  t.setPort port { t.port port with state := .lost }

/-- Whether a rail port is up or held up by retraining. -/
def State.railLeft : Bool := (List.range 4).any fun i => (s.port (15 + i)).state = .up || (s.port (15 + i)).state = .retraining

/-- The peers behind a lost port: a rail port's destinations move while another is left, and are lost with the last; any other port's peer is lost. -/
def State.peersDown (entry : Option PeerEntry) : State :=
  if isRailPort port then
    if s.railLeft then s.follow port else s.loseBeyond (s.onRail ·) 0x0404 port
  else match entry with
    | some e => (s.loseBeyond (· = e.peer) 0x0404 port).setSession e.peer Session.closed
    | none => s.note 0x0205 [port]
end

theorem exec_portLost {s : State} {port : Nat} (hport : port < 20) (hstate : (s.port port).state = .retraining) :
    exec (.portLost port) s = .next ((s.portDown port ((s.port port).since + 5000000)).peersDown port (s.peerEntry port)).settleDrains := by
  rw [show exec (.portLost port) s = execPortLost port s from rfl, execPortLost, onUnit_of_lt hport]
  exact whenDue_of_due (by simp [hstate]) ..

/-- A port is lost: what it has accepted stays, and the tags of what was unacknowledged are free. -/
structure Down (s : State) (port : Nat) (expiry : Word64) (t : State) : Prop where
  self : t.port port = { (s.port port).emptied with state := .lost, queues := (t.port port).queues }
  expiry : expiry.toNat ≤ t.time.toNat
  freed : ∀ c ∈ (s.port port).unacked, ∀ g ∈ c.tags, SMap.find? t.tags g = none
  ateliers : t.ateliers = s.ateliers

/-- What a lost port leaves of the rest of the module. -/
structure Apart (s : State) (port : Nat) (t : State) : Prop where
  other : ∀ q, q ≠ port → t.port q = s.port q
  installation : t.installation = s.installation
  collectives : t.collectives = s.collectives
  blotter : t.blotter = s.blotter
  leases : t.leases = s.leases
  mstate : t.mstate = s.mstate
  recounts : Recounts s t

section
variable (s : State) (port : Nat) (expiry : Word64)

theorem State.portDown_down : Down s port expiry (s.portDown port expiry) := by
  have hgives := (s.reach expiry).dropUnacked_givesUp port
  have hself : ((s.reach expiry).dropUnacked port).port port = (s.port port).emptied :=
    (congrArg (SMap.get DarvalPort.reset · port) hgives.ports).trans (State.setPort_port_self ..)
  have hfreed (c : Codeword) (hc : c ∈ (s.port port).unacked) (g : Nat) (hg : g ∈ c.tags) := (s.reach expiry).dropUnacked_frees port hc hg
  unfold State.portDown
  dsimp only
  rw [hself]
  refine ⟨?_, ?_, hfreed, ?_⟩
  · rw [State.setPort_port_self]
  · rw [State.setPort_time, hgives.frame]
    exact (s.reach_time_le expiry).1
  · rw [State.setPort_ateliers, hgives.frame]
    rfl

theorem State.portDown_apart : Apart s port (s.portDown port expiry) := by
  have hgives := (s.reach expiry).dropUnacked_givesUp port
  unfold State.portDown
  dsimp only
  generalize (s.reach expiry).dropUnacked port = t at hgives
  refine ⟨fun q hq => ?_, ?_, ?_, ?_, ?_, ?_, ?_⟩
  · rw [State.setPort_port, if_neg hq, show t.port q = _ from congrArg (SMap.get DarvalPort.reset · q) hgives.ports]
    exact (State.setPort_port ..).trans (if_neg hq)
  · exact (congrArg State.installation hgives.frame).trans rfl
  · exact (congrArg State.collectives hgives.frame).trans rfl
  · exact (congrArg State.blotter hgives.frame).trans rfl
  · exact (congrArg State.leases hgives.frame).trans rfl
  · exact (congrArg State.mstate hgives.frame).trans rfl
  · have hbefore : Aside s ((s.reach expiry).setPort port ((s.reach expiry).port port).emptied) := ⟨rfl, rfl⟩
    have hafter : Aside t (t.setPort port { t.port port with state := .lost }) := ⟨rfl, rfl⟩
    exact hbefore.recounts.trans (hgives.recounts.trans hafter.recounts)
end

section
variable {s t u : State} {port : Nat} {expiry : Word64} (h : Down s port expiry t)
include h

theorem Down.state : (t.port port).state = .lost := by rw [h.self]

theorem Down.follows (k : Follows t u) : Down s port expiry u := by
  refine ⟨?_, ?_, ?_, ?_⟩
  · rw [k.quiet port (.inl (by rw [h.state]; simp)), h.self]
  · rw [k.frame]
    exact h.expiry
  · rw [k.frame]
    exact h.freed
  · rw [k.frame]
    exact h.ateliers

theorem Down.discards (k : Discards t u) : Down s port expiry u := by
  refine ⟨?_, ?_, fun c hc g hg => k.free g (h.freed c hc g hg), ?_⟩
  · rw [k.port.port port, h.self]
  · rw [k.frame]
    exact h.expiry
  · rw [k.frame]
    exact h.ateliers

theorem Down.note (code : Nat) (handles : List Nat) : Down s port expiry (t.note code handles) := ⟨h.self, h.expiry, h.freed, h.ateliers⟩

theorem Down.setSession (g : Nat) (x : Session) : Down s port expiry (t.setSession g x) := ⟨h.self, h.expiry, h.freed, h.ateliers⟩
end

/-- Another rail port is up or held up by retraining. -/
def State.OtherRail (s : State) (port : Nat) : Prop := ∃ q, 15 ≤ q ∧ q < 19 ∧ q ≠ port ∧ ((s.port q).state = .up ∨ (s.port q).state = .retraining)

section
variable {s u : State} {port : Nat} {expiry : Word64} (hdown : Down s port expiry u) (hapart : Apart s port u)
include hdown hapart

theorem railLeft_iff : u.railLeft = true ↔ s.OtherRail port := by
  unfold State.railLeft State.OtherRail
  simp only [List.any_eq_true, List.mem_range, Bool.or_eq_true, decide_eq_true_eq]
  constructor
  · rintro ⟨i, hi, hup⟩
    have hne : 15 + i ≠ port := by
      rintro rfl
      rw [hdown.state] at hup
      simp at hup
    rw [hapart.other _ hne] at hup
    exact ⟨15 + i, by omega, by omega, hne, hup⟩
  · rintro ⟨q, h15, h19, hne, hup⟩
    rw [← hapart.other q hne] at hup
    exact ⟨q - 15, by omega, by rwa [show 15 + (q - 15) = q by omega]⟩

/-- While another rail port is left, the destinations of a lost one move. -/
theorem peersDown_moves (hrail : isRailPort port = true) (hother : s.OtherRail port) (entry : Option PeerEntry) : u.peersDown port entry = u.follow port := by
  exact (if_pos hrail).trans (if_pos ((railLeft_iff hdown hapart).mpr hother))

/-- With the last rail port every rail destination is lost. -/
theorem peersDown_last (hrail : isRailPort port = true) (hnone : ¬s.OtherRail port) (entry : Option PeerEntry) :
    u.peersDown port entry = u.loseBeyond (u.onRail ·) 0x0404 port := by
  exact (if_pos hrail).trans (if_neg fun h => hnone ((railLeft_iff hdown hapart).mp h))

/-- Where no collective runs a lost port is down, whatever becomes of its peers. -/
theorem peersDown_down (hcalm : s.collectives = []) (entry : Option PeerEntry) : Down s port expiry (u.peersDown port entry) := by
  have hlose (lost : Nat → Bool) : Down s port expiry (u.loseBeyond lost 0x0404 port) := by
    obtain ⟨v, hv, heq⟩ := State.loseBeyond_of_none (hapart.collectives.trans hcalm) lost 0x0404 port
    rw [heq]
    exact (hdown.discards hv).note ..
  unfold State.peersDown
  split
  · split
    · exact hdown.follows (u.follow_follows port)
    · exact hlose _
  · split
    · exact (hlose _).setSession ..
    · exact hdown.note ..
end

/-- Any other port's peer is lost. -/
theorem peersDown_peer {port : Nat} (hrail : isRailPort port = false) (u : State) (e : PeerEntry) :
    u.peersDown port (some e) = (u.loseBeyond (· = e.peer) 0x0404 port).setSession e.peer Session.closed :=
  if_neg (by simp [hrail])

/-- The loss of a port takes a job's member with it: its peer's, or, with the last rail port, a rail destination's. -/
def State.MemberBeyond (s : State) (port : Nat) (j : Job) : Prop :=
  if isRailPort port = true then ¬s.OtherRail port ∧ ∃ g ∈ j.members, g ≠ s.gidx ∧ s.onRail g = true
  else ∃ e, s.peerEntry port = some e ∧ e.peer ∈ j.members ∧ e.peer ≠ s.gidx

/-- What a running collective stands on is the same in both states. -/
structure RunsOn (s u : State) : Prop where
  installation : u.installation = s.installation
  collectives : u.collectives = s.collectives
  ateliers : u.ateliers = s.ateliers
  leases : u.leases = s.leases
  mstate : u.mstate = s.mstate
  recounts : Recounts s u

/-- A running collective with a member among lost peers stops its atelier (R298). -/
theorem RunsOn.strikes {s u : State} (h : RunsOn s u) {y : CollRun} {j : Job} (hy : y ∈ s.collectives) (hlaunched : y.launched.isSome = true)
    (hopen : y.complete = false) (haborted : y.aborted = none) (hj : SMap.find? s.jobs y.job = some j) (hmay : MayFault s j.atelier)
    (hreset : (s.atelier j.atelier).resetting = none) {lost : Nat → Bool} {g : Nat} (hg : g ∈ j.members) (hne : g ≠ s.gidx) (hlost : lost g = true)
    (code port : Nat) : (u.loseBeyond lost code port).Struck j.atelier code := by
  obtain ⟨k, hk, hjk⟩ := h.recounts.job y.job j hj
  have hatelier : u.atelier j.atelier = s.atelier j.atelier := congrArg (SMap.get AtelierState.idle · _) h.ateliers
  have hmay' : MayFault u k.atelier := by
    rw [hjk.atelier]
    refine ⟨by rw [hatelier]; exact hmay.sound, ?_, by rw [h.mstate]; exact hmay.alive⟩
    rw [show u.lease j.atelier = s.lease j.atelier from congrArg (SMap.get Lease.none · _) h.leases]
    exact hmay.held
  have hgone := State.abortBeyond_strikes (s := u) (lost := lost) (by rw [h.collectives]; exact hy) hlaunched hopen haborted hk hmay'
    (by rw [hjk.atelier, hatelier, hreset]) (g := g) (by rw [hjk]; exact hg) (by rw [State.gidx_congr h.installation]; exact hne) hlost code
  rw [hjk.atelier] at hgone
  exact State.loseBeyond_struck hgone port

/-- The entry of a lost peer, or of the last rail port. -/
def State.SaysLost (s : State) (port : Nat) : Prop := ∃ en, s.blotter.entries.getLast? = some en ∧ en.code = 0x0205 ∧ en.handles = [port]

section
variable {s u : State} {port : Nat} {expiry : Word64} (hdown : Down s port expiry u) (hapart : Apart s port u)
include hdown hapart

/-- What waits at a lost rail port is for a destination that no port takes now. -/
theorem peersDown_waits (hrail : isRailPort port = true) (hother : s.OtherRail port) (entry : Option PeerEntry) : let t := u.peersDown port entry
    t.blotter = s.blotter ∧ ∀ v < 4, ∀ w ∈ SMap.get [] (t.port port).queues v, w.dst < 1024 → t.onRail w.dst = true →
      (t.port (t.railPort (w.dst / 16))).state ≠ .up := by
  dsimp only
  have hfollows := u.follow_follows port
  have hlost := (hdown.follows hfollows).state
  rw [peersDown_moves hdown hapart hrail hother]
  refine ⟨?_, fun v hv w hw hdst honrail => ?_⟩
  · rw [hfollows.frame]
    exact hapart.blotter
  · rw [State.onRail_congr (s := u) (by rw [hfollows.frame])] at honrail
    have hrange : 15 ≤ port ∧ port < 19 := by simpa [isRailPort] using hrail
    by_cases hat : port = (u.follow port).railPort (w.dst / 16)
    · rw [← hat, hlost]
      simp
    · exact absurd rfl (State.follow_gathered hrail hdst honrail port hrange.1 hrange.2 hat v hv w hw)

theorem peersDown_last_left (hrail : isRailPort port = true) (hother : ¬s.OtherRail port) (hnone : s.collectives = []) (entry : Option PeerEntry) :
    let t := u.peersDown port entry
    t.SaysLost port ∧ ∀ q < 20, ∀ v < 4, ∀ w ∈ SMap.get [] (t.port q).queues v, t.onRail w.dst = false := by
  dsimp only
  rw [peersDown_last hdown hapart hrail hother]
  refine ⟨State.loseBeyond_last .., fun q hq v hv w hw => ?_⟩
  obtain ⟨z, hz, heq⟩ := State.loseBeyond_of_none (hapart.collectives.trans hnone) (u.onRail ·) 0x0404 port
  rw [State.onRail_congr (s := u) (by rw [heq]; exact (congrArg State.installation hz.frame).trans rfl)]
  exact State.loseBeyond_left _ _ _ _ hq hv w hw
end

theorem peersDown_peer_left {port : Nat} (hrail : isRailPort port = false) (u : State) (e : PeerEntry) : let t := u.peersDown port (some e)
    t.SaysLost port ∧ t.session e.peer = Session.closed ∧ ∀ q < 20, ∀ v < 4, ∀ w ∈ SMap.get [] (t.port q).queues v, w.dst ≠ e.peer := by
  dsimp only
  rw [peersDown_peer hrail]
  generalize heq : u.loseBeyond (· = e.peer) 0x0404 port = t
  have hlast : t.SaysLost port := heq ▸ State.loseBeyond_last ..
  refine ⟨by rwa [State.SaysLost, State.setSession_blotter], State.setSession_session_self .., fun q hq v hv w hw => ?_⟩
  rw [State.setSession_port, ← heq] at hw
  exact of_decide_eq_false (State.loseBeyond_left _ _ _ _ hq hv w hw)

/-! ### The obligation -/

section
variable {s : State} {port : Nat} (hport : port < 20) (hstate : (s.port port).state = .retraining)
include hport hstate

/-- What the loss of a port leaves where no collective runs. -/
theorem exec_portLost_calm (hnone : s.collectives = []) (hcalm : Calm s) : ∃ u, exec (.portLost port) s = .next (u.peersDown port (s.peerEntry port)) ∧
    Down s port ((s.port port).since + 5000000) u ∧ Apart s port u ∧ Down s port ((s.port port).since + 5000000) (u.peersDown port (s.peerEntry port)) := by
  have hexec := exec_portLost hport hstate
  generalize (s.port port).since + 5000000 = expiry at hexec ⊢
  have hdown := s.portDown_down port expiry
  have hapart := s.portDown_apart port expiry
  have hleft := peersDown_down hdown hapart hnone (s.peerEntry port)
  rw [State.settleDrains_of_calm (Calm.of_ateliers hcalm hleft.ateliers)] at hexec
  exact ⟨_, hexec, hdown, hapart, hleft⟩

/-- A running collective with a member beyond a lost port stops its atelier (R298). -/
theorem exec_portLost_strikes {y : CollRun} {j : Job} (hy : y ∈ s.collectives) (hlaunched : y.launched.isSome = true) (hopen : y.complete = false)
    (haborted : y.aborted = none) (hj : SMap.find? s.jobs y.job = some j) (hmay : MayFault s j.atelier) (hreset : (s.atelier j.atelier).resetting = none)
    (hlost : s.MemberBeyond port j) :
    ∃ t, exec (.portLost port) s = .next t ∧ t.Struck j.atelier 0x0404 := by
  have hexec := exec_portLost hport hstate
  generalize (s.port port).since + 5000000 = expiry at hexec
  have hdown := s.portDown_down port expiry
  have hapart := s.portDown_apart port expiry
  generalize s.portDown port expiry = u at hexec hdown hapart
  refine ⟨_, hexec, State.settleDrains_struck ?_⟩
  have hruns : RunsOn s u := ⟨hapart.installation, hapart.collectives, hdown.ateliers, hapart.leases, hapart.mstate, hapart.recounts⟩
  have hstrikes {lost : Nat → Bool} {g : Nat} (hg : g ∈ j.members) (hne : g ≠ s.gidx) (hlost : lost g = true) :
      (u.loseBeyond lost 0x0404 port).Struck j.atelier 0x0404 :=
    hruns.strikes hy hlaunched hopen haborted hj hmay hreset hg hne hlost 0x0404 port
  unfold State.MemberBeyond at hlost
  split at hlost
  · next hrail =>
    obtain ⟨hother, g, hg, hne, honrail⟩ := hlost
    rw [peersDown_last hdown hapart hrail hother]
    exact hstrikes hg hne (by rw [State.onRail_congr hapart.installation]; exact honrail)
  · next hrail =>
    obtain ⟨e, he, hg, hne⟩ := hlost
    rw [he, peersDown_peer (by simpa using hrail)]
    exact (hstrikes hg hne (lost := (· = e.peer)) (decide_eq_true rfl)).of_eq (State.setSession_atelier ..) (State.setSession_lease ..)
end

/-- Settles O46: a port trains and comes up (`exec_equalisationAttempt_sends`, `hearHello_up`), retrains with what it has kept
(`exec_retrain_keeps`), and a lost one's destinations move (`follow_gathered`) or its peers are lost (`loseBeyond_left`,
`exec_portLost_strikes`). -/
theorem linkBringUp : Obligations.LinkBringUp := by
  unfold Obligations.LinkBringUp
  intro s port hport x put follow
  refine ⟨fun hrails hlref hentry hdown => ⟨fun hblocks => ?_, fun hblocks => ?_⟩, exec_peerDetectTimeout hport, exec_bringUpRetry hport,
    fun hstate hstage => ⟨exec_equalisationAttempt_sends hport hstate hstage, fun hpreset => ?_, fun hpreset => ?_⟩,
    fun e h rest he hcontrol hkind hstate hstage => ?_, exec_retrain_keeps hport, fun h rest hstate hcontrol hkind => exec_retrainRequest hport hstate hcontrol hkind,
    exec_portUpAgain hport, fun hrail y => congrArg _ (State.follow_of_not_rail hrail _), fun hstate hnone hcalm => ?_,
    fun hstate hcalm y hy j hlaunched hopen haborted hj hmay hreset hscatters hlost => ?_⟩
  · exact (exec_portBringUp hport hrails hlref hentry hdown).trans (congrArg _ (if_neg (by omega)))
  · exact (exec_portBringUp hport hrails hlref hentry hdown).trans (congrArg _ (if_pos (by omega)))
  · exact (exec_equalisationAttempt hport hstate hstage false).trans (congrArg _ ((if_neg Bool.false_ne_true).trans (if_pos hpreset)))
  · exact (exec_equalisationAttempt hport hstate hstage false).trans (congrArg _ ((if_neg Bool.false_ne_true).trans (if_neg (Nat.not_lt.mpr hpreset))))
  · intro top low
    exact ⟨exec_helloFlit_stranger hport he hcontrol hkind hstate hstage, exec_helloFlit_no_version hport he hcontrol hkind hstate hstage,
      exec_helloFlit_up hport he hcontrol hkind hstate hstage⟩
  · obtain ⟨u, hexec, hdown, hapart, hleft⟩ := exec_portLost_calm hport hstate hnone hcalm
    refine ⟨_, hexec, hleft.state, congrArg (·.unacked) hleft.self, congrArg (·.packets) hleft.self, hleft.expiry, hleft.freed, fun hrail hother =>
      peersDown_waits hdown hapart hrail hother _, fun hrail hother => peersDown_last_left hdown hapart hrail hother hnone _, fun e hrail he => ?_⟩
    rw [he]
    exact peersDown_peer_left hrail u e
  · have hbeyond : s.MemberBeyond port j := by
      unfold State.MemberBeyond
      split at hlost
      · next hrail =>
        rw [if_pos hrail]
        refine hlost.imp_left fun hquiet => ?_
        rintro ⟨q, h15, h19, hne, hup⟩
        exact hup.elim (hquiet q h15 h19 hne).1 (hquiet q h15 h19 hne).2
      · next hrail =>
        rwa [if_neg hrail]
    obtain ⟨t, hexec, hstruck⟩ := exec_portLost_strikes hport hstate hy hlaunched hopen haborted hj hmay hreset hbeyond
    exact ⟨t, hexec, hstruck.faulted, hstruck.fcode⟩

end Sys2Proof.Machine
end

section
/-!
PROOF. Codewords, credits and the gallery transport (O47).
-/
namespace Sys2Proof.Machine

open Sys2Proof.Claims

/-! ### Codewords (R263, R265, R266, R278) -/

theorem State.helloAgain_of_up {s : State} {port : Nat} (h : (s.port port).state = .up) : s.helloAgain port = s := if_neg (by simp [h])

section
variable {s : State} {port : Nat} (hport : port < 20) {errors cseq : Nat}
include hport

/-- A codeword out of order, or with more errors than the code corrects, is discarded. -/
theorem exec_codewordReceive_discards (hdue : (s.port port).state = .up ∨ (s.port port).state = .training ∧ (s.port port).stage = 5)
    (hbad : 15 < errors ∨ cseq % 1024 ≠ (((s.helloAgain port).port port).lastSeq + 1) % 1024) (map : Nat) (flits : List Bytes) :
    exec (.codewordReceive port errors cseq map flits) s = .next ((s.helloAgain port).discardCodeword port (!rsCorrects errors)) := by
  rw [show exec (.codewordReceive port errors cseq map flits) s = execCodewordReceive port errors cseq map flits s from rfl, execCodewordReceive,
    onUnit_of_lt hport]
  refine (whenDue_of_due (by simpa using hdue) ..).trans (congrArg _ (if_neg ?_))
  rcases hbad with h | h <;> simp [rsCorrects, h]

/-- A discarded codeword takes nothing in and is answered with a nak. -/
theorem exec_codewordReceive_naks (hstate : (s.port port).state = .up) (hroom : (s.port port).unacked.length < 512)
    (hbad : 15 < errors ∨ cseq % 1024 ≠ ((s.port port).lastSeq + 1) % 1024) (map : Nat) (flits : List Bytes) : ∃ t cw,
    exec (.codewordReceive port errors cseq map flits) s = .next t ∧ (t.port port).lastSeq = (s.port port).lastSeq ∧ (t.port port).packets = (s.port port).packets ∧
      (t.port port).control = (s.port port).control ∧ (t.port port).arriving = (s.port port).arriving ∧ (t.port port).sent = (s.port port).sent ++ [cw] ∧
      cw.flits.head? = some (ackFlit { s.port port with nak := true }) ∧ (errors ≤ 15 → (t.port port).failures = (s.port port).failures) ∧
      (15 < errors → (t.port port).failures = recent 16 s.time (s.port port).failures) ∧ t = { s with ports := t.ports } := by
  have hexec := exec_codewordReceive_discards hport (.inl hstate) (by rwa [State.helloAgain_of_up hstate]) map flits
  rw [State.helloAgain_of_up hstate] at hexec
  generalize hy : { s.port port with
    nak := true, failures := if (!rsCorrects errors) = true then recent 16 s.time (s.port port).failures else (s.port port).failures } = y
  obtain ⟨cw, hsent, hhead⟩ := DarvalPort.sendAck_sent (x := y) (by rw [← hy]; exact hroom)
  refine ⟨s.setPort port y.sendAck, cw, ?_, ?_⟩
  · rw [hexec, ← hy]
    rfl
  · rw [State.setPort_port_self, hsent]
    have hframe := y.sendAck_emits.frame
    subst hy
    rw [hframe]
    refine ⟨rfl, rfl, rfl, rfl, rfl, hhead, fun h => if_neg (by simpa [rsCorrects] using h), fun h => if_pos (by simpa [rsCorrects] using h), rfl⟩

/-- A port that has heard no hello yet sends its own again. -/
theorem exec_codewordReceive_hello (hstate : (s.port port).state = .training) (hstage : (s.port port).stage = 5) (hroom : (s.port port).unacked.length < 512)
    (hunheard : ∀ f ∈ (s.port port).control, bitsIn f 0 4 ≠ 1) (hbad : 15 < errors) (map : Nat) (flits : List Bytes) : ∃ t cw rest,
    exec (.codewordReceive port errors cseq map flits) s = .next t ∧ (t.port port).sent = (s.port port).sent ++ cw :: rest ∧
      cw.flits.head? = some (s.ownHello port) ∧ t = { s with ports := t.ports } := by
  have hhello : s.helloAgain port = s.setPort port ((s.port port).emitControl (s.ownHello port)) := if_pos (by simpa [hstate] using hunheard)
  have hexec := exec_codewordReceive_discards (cseq := cseq) hport (.inr ⟨hstate, hstage⟩) (.inl hbad) map flits
  obtain ⟨cw, hsent, _, _, _, hhead⟩ := DarvalPort.emitControl_sent hroom (s.ownHello port)
  rw [hhello] at hexec
  generalize (s.port port).emitControl (s.ownHello port) = y at hexec hsent
  rw [State.discardCodeword, State.setPort_port_self] at hexec
  obtain ⟨rest, hrest⟩ := DarvalPort.sendAck_sent_append (x := { y with nak := true, failures := if (!rsCorrects errors) = true then recent 16 s.time y.failures else y.failures })
  refine ⟨_, cw, rest, hexec, ?_, hhead, rfl⟩
  rw [State.setPort_port_self]
  exact hrest.trans (by simp [hsent])
end

/-- Control flits in order are kept for their rows. -/
theorem State.takeFlit_control {s : State} {port : Nat} {y : DarvalPort} (hy : y.state ≠ .absent) {f : Bytes} (hf : bitsIn f 0 4 ≤ 2) :
    (s.setPort port y).takeFlit port true f = s.setPort port { y with control := y.control ++ [f] } := by
  rw [State.takeFlit, if_pos rfl, if_pos hf, State.setPort_port_self, State.setPort_setPort hy]

theorem State.takeFlit_fold {s : State} {port : Nat} (map : Nat) (flits : List Bytes) : ∀ (l : List Nat) (y : DarvalPort), y.state ≠ .absent →
    (∀ i ∈ l, map.testBit i = true ∧ bitsIn (flits.getD i []) 0 4 ≤ 2) →
    l.foldl (fun s i => s.takeFlit port (map.testBit i) (flits.getD i [])) (s.setPort port y) =
      s.setPort port { y with control := y.control ++ l.map (flits.getD · []) }
  | [], y, _, _ => by simp
  | i :: l, y, hy, hl => by
    obtain ⟨hbit, hf⟩ := hl i (by simp)
    rw [List.foldl_cons, hbit, State.takeFlit_control hy hf]
    refine (State.takeFlit_fold map flits l { y with control := y.control ++ [flits.getD i []] } hy fun j hj => hl j (by simp [hj])).trans ?_
    simp

theorem map_getD_range {α : Type} (d : α) (l : List α) : (List.range l.length).map (l.getD · d) = l :=
  List.ext_getElem (by simp) fun i h1 h2 => by simp [List.getD_eq_getElem?_getD, h2]

theorem padTo_of_length {n : Nat} {f : Bytes} (h : f.length = n) : padTo n f = f := by
  simp [padTo, slice, ← h]

theorem exec_codewordReceive_control {s : State} {port errors cseq : Nat} {flits : List Bytes} (hport : port < 20) (hgood : errors ≤ 15)
    (hstate : (s.port port).state = .up) (hseq : cseq % 1024 = ((s.port port).lastSeq + 1) % 1024) (hsince : (s.port port).sinceAck + 1 < 16)
    (hlength : flits.length = 10) (hflits : ∀ f ∈ flits, f.length = 64 ∧ bitsIn f 0 4 ≤ 2) : exec (.codewordReceive port errors cseq 1023 flits) s =
      .next (s.setPort port { s.port port with
        lastSeq := cseq % 1024, sinceAck := (s.port port).sinceAck + 1, control := (s.port port).control ++ flits }) := by
  have hpadded : ((List.range 10).map fun i => padTo 64 (flits.getD i [])) = flits := by
    rw [← hlength]
    refine (List.map_congr_left fun i hi => ?_).trans (map_getD_range [] flits)
    have hi := List.mem_range.mp hi
    rw [List.getD_eq_getElem _ _ hi]
    exact padTo_of_length (hflits _ (List.getElem_mem hi)).1
  rw [show exec (.codewordReceive port errors cseq 1023 flits) s = execCodewordReceive port errors cseq 1023 flits s from rfl, execCodewordReceive,
    onUnit_of_lt hport]
  dsimp only
  have hfold := State.takeFlit_fold (s := s) (port := port) 1023 flits (List.range 10)
    { s.port port with lastSeq := cseq % 1024, sinceAck := (s.port port).sinceAck + 1 } (by simp [hstate]) fun i hi => by
      have hi := List.mem_range.mp hi
      rw [List.getD_eq_getElem _ _ (by omega)]
      exact ⟨(Nat.testBit_two_pow_sub_one 10 i).trans (decide_eq_true hi), (hflits _ (List.getElem_mem (by omega))).2⟩
  rw [show (List.range 10).map (flits.getD · []) = flits by rw [← hlength, map_getD_range]] at hfold
  rw [State.helloAgain_of_up hstate, hpadded, hfold, State.setPort_port_self, if_neg (Nat.not_le.mpr hsince)]
  refine (whenDue_of_due (by simp [hstate]) ..).trans (congrArg _ (if_pos ?_))
  simp [rsCorrects, hgood, hseq]

/-! ### Acks and credits (R265, R266) -/

section
variable {s : State} {port : Nat} {f : Bytes} {rest : List Bytes}

/-- An ack covers a codeword: its number is at most 511 below the ack's. -/
def Codeword.covered (f : Bytes) (c : Codeword) : Bool := decide ((bitsIn f 4 10 + 1024 - c.cseq) % 1024 < 512)

/-- A port as an ack-and-credit flit leaves it. -/
def DarvalPort.acked (x : DarvalPort) (now : Word64) (f : Bytes) : DarvalPort :=
  { x with unacked := x.unacked.filter (!·.covered f)
           credits := (List.range 4).foldl (fun m v => SMap.set 0 m v (SMap.get 0 m v + bitsIn f (16 + 16 * v) 16)) x.credits
           sent := if bitsIn f 14 1 = 1 then x.sent ++ x.unacked.filter (!·.covered f) else x.sent
           replays := if bitsIn f 14 1 = 1 && !(x.unacked.filter (!·.covered f)).isEmpty then recent 64 now x.replays else x.replays }

theorem State.hearAckFlit_eq (s : State) (port : Nat) (f : Bytes) : s.hearAckFlit port f =
    ((((s.port port).unacked.filter (·.covered f)).flatMap (·.tags)).foldl State.dropTag (s.setPort port ((s.port port).acked s.time f))).settleDrains := rfl

/-- The two states differ in no more than ports and tags. -/
def PortTags (s t : State) : Prop := t = { s with ports := t.ports, tags := t.tags }

theorem PortTags.trans {s t u : State} (h : PortTags s t) (k : PortTags t u) : PortTags s u := Eq.trans k (by rw [h])

theorem State.setPort_setPort_portTags (s : State) (p : Nat) (x y : DarvalPort) : PortTags s ((s.setPort p x).setPort p y) := rfl

theorem State.dropTag_fold_portTags (l : List Nat) (s : State) : PortTags s (l.foldl State.dropTag s) :=
  foldl_related (R := PortTags) (f := State.dropTag) (fun _ => rfl) PortTags.trans (fun _ _ => rfl) l s

theorem State.dropTag_fold_ports (l : List Nat) (s : State) : (l.foldl State.dropTag s).ports = s.ports :=
  foldl_related (R := fun s t : State => t.ports = s.ports) (f := State.dropTag) (fun _ => rfl) (fun h k => k.trans h) (fun _ _ => rfl) l s

theorem DarvalPort.acked_credits (x : DarvalPort) (now : Word64) (f : Bytes) {v : Nat} (hv : v < 4) :
    SMap.get 0 (x.acked now f).credits v = SMap.get 0 x.credits v + bitsIn f (16 + 16 * v) 16 := by
  rw [DarvalPort.acked, show List.range 4 = [0, 1, 2, 3] from rfl]
  simp only [List.foldl_cons, List.foldl_nil, SMap.get_set]
  interval_cases v <;> simp

/-- An ack frees the codewords up to it with their tags and returns credits, and a nak sends the others again. -/
theorem exec_ackAndCredit (hport : port < 20) (hcontrol : (s.port port).control = f :: rest) (hkind : bitsIn f 0 4 = 0) (hcalm : Calm s) :
    ∃ t, exec (.ackAndCredit port) s = .next t ∧ (t.port port).control = rest ∧
      (t.port port).unacked = (s.port port).unacked.filter (fun c => decide (512 ≤ (bitsIn f 4 10 + 1024 - c.cseq) % 1024)) ∧
      (∀ v < 4, SMap.get 0 (t.port port).credits v = SMap.get 0 (s.port port).credits v + bitsIn f (16 + 16 * v) 16) ∧
      (bitsIn f 14 1 = 1 → (t.port port).sent = (s.port port).sent ++ (t.port port).unacked) ∧ (bitsIn f 14 1 ≠ 1 → (t.port port).sent = (s.port port).sent) ∧
      (∀ c ∈ (s.port port).unacked, (bitsIn f 4 10 + 1024 - c.cseq) % 1024 < 512 → ∀ g ∈ c.tags, SMap.find? t.tags g = none) ∧
      t = { s with ports := t.ports, tags := t.tags } := by
  have hexec : exec (.ackAndCredit port) s = .next ((s.setPort port { s.port port with control := rest }).hearAckFlit port f) := by
    rw [show exec (.ackAndCredit port) s = execAckAndCredit port s from rfl, execAckAndCredit, onUnit_of_lt hport, hcontrol]
    exact whenDue_of_due (decide_eq_true hkind) ..
  rw [State.hearAckFlit_eq, State.setPort_port_self, State.setPort_time] at hexec
  generalize hl : ((s.port port).unacked.filter (·.covered f)).flatMap (·.tags) = l at hexec
  generalize hu : (s.setPort port { s.port port with control := rest }).setPort port ({ s.port port with control := rest }.acked s.time f) = u at hexec
  have hself : (l.foldl State.dropTag u).port port = { s.port port with control := rest }.acked s.time f := by
    rw [← hu]
    exact (congrArg (SMap.get DarvalPort.reset · port) (State.dropTag_fold_ports ..)).trans (State.setPort_port_self ..)
  rw [State.settleDrains_of_calm (Calm.of_ateliers hcalm (by rw [State.dropTag_fold_portTags l u, ← hu]; rfl))] at hexec
  refine ⟨_, hexec, congrArg (·.control) hself, ?_, fun v hv => ?_, fun hnak => ?_, fun hnak => ?_, fun c hc hcovered g hg => ?_, ?_⟩
  · rw [hself]
    refine List.filter_congr fun c _ => ?_
    rw [Codeword.covered, ← decide_not]
    exact decide_eq_decide.mpr Nat.not_lt
  · rw [hself, DarvalPort.acked_credits _ _ _ hv]
  · rw [hself]
    exact if_pos hnak
  · rw [hself]
    exact if_neg hnak
  · refine State.dropTag_fold_frees ?_ u
    rw [← hl]
    exact List.mem_flatMap.mpr ⟨c, List.mem_filter.mpr ⟨hc, decide_eq_true hcovered⟩, hg⟩
  · exact (PortTags.trans (hu ▸ State.setPort_setPort_portTags ..) (State.dropTag_fold_portTags l u))
end

end Sys2Proof.Machine
end

section
/-!
PROOF. Packets a Darval port sends (O47).
-/
namespace Sys2Proof.Machine

open Sys2Proof.Claims

/-! ### The packet chosen (R266, R272, R273, R279) -/

section
variable {s : State} {port : Nat} {w : Waiting}

theorem State.maySend_carries (h : s.maySend port w = true) : s.carries port w.packet.vc = true ∧ s.paceOpen port = true := by
  simp only [State.maySend, Bool.and_eq_true] at h
  obtain ⟨⟨⟨⟨⟨⟨hcarries, hpace⟩, -⟩, -⟩, -⟩, -⟩, -⟩ := h
  exact ⟨hcarries, hpace⟩

theorem State.firstSendable_may {vc : Nat} (h : s.firstSendable port vc = some w) : s.maySend port w = true := by
  have hfound := List.find?_some h
  simp only [Bool.and_eq_true] at hfound
  exact hfound.1

/-- The choice of a packet changes the counts of the round robin and of the bucket alone. -/
def DarvalPort.Turns (x y : DarvalPort) : Prop := y = { x with deficits := y.deficits, turn := y.turn, bucket := y.bucket, filled := y.filled }

theorem State.pick_may : ∀ (fuel : Nat) (x : DarvalPort) {y : DarvalPort}, s.pick port fuel x = (y, some w) → s.maySend port w = true ∧ x.Turns y
  | 0, x, y, h => by cases h
  | fuel + 1, x, y, h => by
    unfold State.pick at h
    dsimp only at h
    split at h
    · next v hv =>
      split at h
      · cases h
        exact ⟨State.firstSendable_may hv, rfl⟩
      · obtain ⟨hmay, hturns⟩ := State.pick_may fuel _ h
        exact ⟨hmay, hturns⟩
    · obtain ⟨hmay, hturns⟩ := State.pick_may fuel _ h
      exact ⟨hmay, hturns⟩

theorem State.choose_may {y : DarvalPort} (h : s.choose port = (y, some w)) : s.maySend port w = true ∧ (s.port port).Turns y := by
  unfold State.choose at h
  dsimp only at h
  split at h
  · next v hv =>
    split at h
    · cases h
      exact ⟨State.firstSendable_may hv, rfl⟩
    · exact State.pick_may _ _ h
  · exact State.pick_may _ _ h
end

/-! ### Headers that keep their channel and length (R267) -/

theorem leAt_byte (bs : Bytes) (k : Nat) : leAt bs k 1 = (bs.getD k 0).toNat := by
  have hgetD := slice_getD (bs := bs) (off := k) (n := 1) (k := 0) (by decide)
  obtain ⟨b, hb⟩ := List.length_eq_one_iff.mp (slice_length bs k 1)
  rw [hb] at hgetD
  rw [leAt, hb, ← Nat.add_zero k, ← hgetD]
  rfl

/-- A packet's channel and length stand in the first two bytes of its header. -/
theorem Packet.vc_eq (p : Packet) : p.vc = (p.header.getD 0 0).toNat % 4 := by
  have hbyte : p.vc = leAt p.header 0 1 / 1 % 4 := rfl
  rw [hbyte, leAt_byte, Nat.div_one]

theorem Packet.nflits_eq (p : Packet) : p.nflits = (p.header.getD 1 0).toNat % 128 := by
  have hbyte : p.nflits = leAt p.header 1 1 / 1 % 128 := rfl
  rw [hbyte, leAt_byte, Nat.div_one]

/-- The same channel and length. -/
structure Packet.Shaped (p q : Packet) : Prop where
  vc : q.vc = p.vc
  nflits : q.nflits = p.nflits

theorem Packet.Shaped.refl (p : Packet) : p.Shaped p := ⟨rfl, rfl⟩

section
variable (p : Packet) (ctr seq ack : Nat) (ce : Bool) (tag : Bytes)

theorem finishHeader_bytes : ((finishHeader p.header ctr seq ack ce tag).getD 0 0).toNat % 4 = p.vc ∧
    ((finishHeader p.header ctr seq ack ce tag).getD 1 0).toNat % 128 = p.nflits := by
  rw [p.vc_eq, p.nflits_eq]
  refine ⟨?_, ?_⟩
  · have hhead : (finishHeader p.header ctr seq ack ce tag).getD 0 0 = BitVec.ofNat 8 ((p.header.getD 0 0).toNat % 128 + 128 * bit ce) := rfl
    rw [hhead, BitVec.toNat_ofNat]
    omega
  · have hrest := slice_getD (bs := p.header) (off := 1) (n := 7) (k := 0) (by decide)
    have hlong : 0 < (slice p.header 1 7).length := by simp [slice_length]
    rw [finishHeader]
    simp only [List.cons_append, List.append_assoc, List.getD_cons_succ]
    rw [List.getD_append _ _ _ _ hlong, hrest]

theorem finishHeader_shaped (body : Bytes) : p.Shaped ⟨finishHeader p.header ctr seq ack ce tag, body⟩ := by
  obtain ⟨hvc, hnflits⟩ := finishHeader_bytes p ctr seq ack ce tag
  exact ⟨(Packet.vc_eq _).trans hvc, (Packet.nflits_eq _).trans hnflits⟩

theorem sealedHeader_shaped (auth body : Bytes) : p.Shaped ⟨slice (finishHeader p.header ctr seq ack ce tag) 0 56 ++ auth, body⟩ := by
  obtain ⟨hvc, hnflits⟩ := finishHeader_bytes p ctr seq ack ce tag
  have hkeeps {k : Nat} (hk : k < 56) : (slice (finishHeader p.header ctr seq ack ce tag) 0 56 ++ auth).getD k 0 =
      (finishHeader p.header ctr seq ack ce tag).getD k 0 := by
    rw [List.getD_append _ _ _ _ (by rwa [slice_length]), slice_getD hk, Nat.zero_add]
  refine ⟨(Packet.vc_eq _).trans ?_, (Packet.nflits_eq _).trans ?_⟩
  · rw [hkeeps (by decide), hvc]
  · rw [hkeeps (by decide), hnflits]
end

/-! ### A packet placed in codewords (R273, R283, R284) -/

theorem DarvalPort.place_eq (x : DarvalPort) (now : Word64) (q : Packet) (tags : List Nat) (dst : Nat) (seg : Option (Nat × Nat)) :
    SMap.get 0 (x.place now q tags dst seg).credits q.vc = SMap.get 0 x.credits q.vc - (q.nflits + 1) ∧ (x.place now q tags dst seg).queues = x.queues := by
  have hframe := (x.emit_emits 7 (q.header :: chunksOf 64 (q.nflits + 1) q.payload) tags dst seg).frame
  refine ⟨?_, ?_⟩
  · rw [DarvalPort.place, SMap.get_set, if_pos rfl]
  · rw [DarvalPort.place, hframe]

section
variable (s : State) (w : Waiting)

theorem State.tagged_frame : s.tagged w = { s with tags := (s.tagged w).tags } := by
  unfold State.tagged
  split
  · rfl
  · exact s.takeLinkTag_frame w.lease

theorem State.takeLinkTag_taken {s : State} {lease g : Nat} (h : s.linkTag lease = some g) : (SMap.find? (s.takeLinkTag lease).tags g).isSome = true := by
  unfold State.takeLinkTag
  rw [h]
  split
  · next ht _ =>
    cases ht
    rw [State.takeTag_find, if_pos rfl, Option.isSome_some]
  · next ht _ =>
    cases ht
    rw [State.takeModuleTag_find, if_pos rfl, Option.isSome_some]
  · next ht => cases ht
end

/-- A waiting packet is sent on a port: its credits are taken, it waits no more, and it has its transfer tag. -/
structure SentOn (s : State) (port : Nat) (w : Waiting) (t : State) : Prop where
  credits : SMap.get 0 (t.port port).credits w.packet.vc = SMap.get 0 (s.port port).credits w.packet.vc - (w.packet.nflits + 1)
  queue : SMap.get [] (t.port port).queues w.packet.vc = (SMap.get [] (s.port port).queues w.packet.vc).erase w
  tagged : w.tag.isSome = true → t.tags = s.tags
  takes : w.tag = none → ∀ g, s.linkTag w.lease = some g → (SMap.find? t.tags g).isSome = true

/-- A port's queue without a packet. -/
def DarvalPort.without (y : DarvalPort) (w : Waiting) : DarvalPort :=
  { y with queues := SMap.set [] y.queues w.packet.vc ((SMap.get [] y.queues w.packet.vc).erase w) }

theorem sentOn_place {s : State} {port : Nat} {w : Waiting} {y : DarvalPort} (hturns : (s.port port).Turns y) {q : Packet} (hshaped : w.packet.Shaped q)
    (now : Word64) (tags : List Nat) (dst : Nat) (seg : Option (Nat × Nat)) :
    SentOn s port w (((s.setPort port (y.without w)).tagged w).setPort port ((y.without w).place now q tags dst seg)) := by
  obtain ⟨hcredits, hqueues⟩ := (y.without w).place_eq now q tags dst seg
  rw [hshaped.vc, hshaped.nflits] at hcredits
  refine ⟨?_, ?_, fun htag => ?_, fun htag g hg => ?_⟩
  · rw [State.setPort_port_self, hcredits, hturns]
    rfl
  · rw [State.setPort_port_self, hqueues, DarvalPort.without, SMap.get_set, if_pos rfl, hturns]
  · rw [State.setPort_tags, State.tagged, if_pos htag, State.setPort_tags]
  · rw [State.setPort_tags, State.tagged, if_neg (by simp [htag])]
    exact State.takeLinkTag_taken hg

theorem SentOn.setSession {s t : State} {port : Nat} {w : Waiting} (h : SentOn s port w t) (g : Nat) (z : Session) : SentOn s port w (t.setSession g z) :=
  ⟨h.credits, h.queue, h.tagged, h.takes⟩

/-- A session keeps a packet under its next seq, with the transfer tag it has or takes. -/
def Session.Keeps (y z : Session) (w : Waiting) (tag : Option Nat) : Prop := z.seqSent = y.seqSent + 1 ∧
  ∃ q, z.stored = y.stored ++ [q] ∧ q.seq = y.seqSent + 1 ∧ (w.tag.isSome = true → q.tag = w.tag) ∧ (w.tag = none → q.tag = tag)

theorem Session.keep_keeps (y : Session) (now : Word64) (port : Nat) (q : Packet) (w : Waiting) (tag : Option Nat) (seg : Option (Nat × Nat)) :
    y.Keeps (y.keep now port q (w.tag <|> tag) seg) w tag := by
  refine ⟨rfl, _, rfl, rfl, fun htag => ?_, fun htag => ?_⟩
  · obtain ⟨g, hg⟩ := Option.isSome_iff_exists.mp htag
    simp [hg]
  · simp [htag]

theorem Session.Keeps.of_eq {x y z : Session} {w : Waiting} {tag : Option Nat} (h : x.Keeps z w tag) (hseq : x.seqSent = y.seqSent)
    (hstored : x.stored = y.stored) : y.Keeps z w tag := by
  rwa [Session.Keeps, hseq, hstored] at h

/-- New keys leave the count and the store of the gallery transport as they are. -/
theorem Session.promoted_keeps (y : Session) : y.promoted.seqSent = y.seqSent ∧ y.promoted.stored = y.stored := by
  unfold Session.promoted
  split
  · split <;> exact ⟨rfl, rfl⟩
  · exact ⟨rfl, rfl⟩

section
variable {s : State} {port : Nat} {w : Waiting}

theorem State.transmit_uncounted (hsession : w.packet.ptype = 6) (hcount : s.counted port w = false) : ∃ tags,
    s.transmit port w = (s.tagged w).setPort port ((s.port port).place s.time w.packet tags w.dst none) := by
  refine ⟨(w.tag <|> s.linkTag w.lease).toList, (if_pos hsession).trans ?_⟩
  rw [hcount]
  rfl

/-- A session packet of a rekey as it leaves: under its session's next seq, with the ack (R284). -/
def State.numbered (s : State) (w : Waiting) : Packet :=
  ⟨finishHeader w.packet.header 0 ((s.session w.dst).seqSent + 1).toNat (s.session w.dst).seqHeard.toNat (s.session w.dst).echo [], w.packet.payload⟩

theorem State.transmit_counted (hsession : w.packet.ptype = 6) (hcount : s.counted port w = true) : ∃ q, w.packet.Shaped q ∧
    s.transmit port w = ((s.tagged w).setPort port ((s.port port).place s.time q [] w.dst none)).setSession w.dst
      ((s.session w.dst).keep s.time port q (w.tag <|> s.linkTag w.lease) none) := by
  refine ⟨s.numbered w, finishHeader_shaped .., (if_pos hsession).trans ?_⟩
  rw [hcount]
  rfl

/-- A session with its next ctr taken. -/
def Session.counts (z : Session) : Session := { z with ctrSent := BitVec.ofNat 64 (z.ctrSent.toNat + 1) }

theorem Session.counts_ctrSent (z : Session) : z.counts.ctrSent = z.ctrSent + 1 := by
  simp [Session.counts, BitVec.ofNat_add]

/-- A packet as it leaves under a key: its header finished, its flits enciphered (R271). -/
def State.sealed (s : State) (port : Nat) (w : Waiting) (key : Bytes) : Packet :=
  let y := (s.session w.dst).promoted
  let rail := isRailPort port
  let h := finishHeader w.packet.header (y.ctrSent.toNat + 1) (if rail then (y.seqSent + 1).toNat else 0) (if rail then y.seqHeard.toNat else 0) (rail && y.echo) []
  let z := gcmSeal key (packetNonce (y.ctrSent.toNat + 1) w.lease s.gidx) (packetAad h) w.packet.payload
  ⟨slice h 0 56 ++ padTo 8 z.tag, z.text⟩

theorem State.transmit_sealed (hsealed : w.packet.ptype ≠ 6) (hlease : w.lease = 0) (hkeys : (s.session w.dst).promoted.keys.isSome = true) : ∃ q tags seg,
    w.packet.Shaped q ∧ s.transmit port w = ((s.tagged w).setPort port ((s.port port).place s.time q tags w.dst seg)).setSession w.dst
      (if isRailPort port then (s.session w.dst).promoted.counts.keep s.time port q (w.tag <|> s.linkTag w.lease) w.seg
        else (s.session w.dst).promoted.counts) := by
  obtain ⟨k, hk⟩ := Option.isSome_iff_exists.mp hkeys
  have hkey : ((s.session w.dst).promoted.keys.bind fun k => s.packetKey k w.lease s.gidx w.dst) = some (k.key (dirOf s.gidx w.dst)) := by
    rw [hk, Option.bind_some, State.packetKey, if_pos hlease]
  refine ⟨s.sealed port w (k.key (dirOf s.gidx w.dst)), if isRailPort port then [] else (w.tag <|> s.linkTag w.lease).toList,
    if isRailPort port then none else w.seg, sealedHeader_shaped .., (if_neg hsealed).trans ?_⟩
  rw [hkey]
  rfl
end

/-! ### PACKET_SEND (R271 to R273, R281 to R284) -/

section
variable {s : State} {port : Nat} {w : Waiting}

theorem State.counted_of_opening (hsession : w.packet.ptype = 6) (h : isRailPort port = false ∨ (s.session w.dst).up = false) : s.counted port w = false := by
  rcases h with h | h <;> simp [State.counted, hsession, h]

theorem State.counted_of_rekey (hrail : isRailPort port = true) (hup : (s.session w.dst).up = true) (hlost : (s.session w.dst).lost = false)
    (hkind : w.packet.info 0 4 ≠ 3) : s.counted port w = true := by
  simp [State.counted, hrail, hup, hlost, hkind]

theorem State.placed_portTags (s : State) (port : Nat) (w : Waiting) (x z : DarvalPort) : PortTags s (((s.setPort port x).tagged w).setPort port z) :=
  PortTags.trans (t := s.setPort port x) rfl (PortTags.trans (t := (s.setPort port x).tagged w) (by rw [PortTags, State.tagged_frame]) rfl)

theorem PortTags.setSession {t : State} (h : PortTags s t) (g : Nat) (z : Session) :
    t.setSession g z = { s with ports := t.ports, sessions := (t.setSession g z).sessions, tags := t.tags } := by
  rw [h]
  rfl

variable {y : DarvalPort} (hport : port < 20) (hchoose : s.choose port = (y, some w)) (hup : (s.port port).state = .up)
include hport hchoose hup

theorem exec_packetSend : exec (.packetSend port) s = .next ((s.setPort port (y.without w)).transmit port w) := by
  rw [show exec (.packetSend port) s = execPacketSend port s from rfl, execPacketSend, onUnit_of_lt hport, hchoose]
  exact whenDue_of_due (decide_eq_true hup) ..

/-- A session packet that opens its session is sent outside the counts of the session. -/
theorem exec_packetSend_uncounted (hsession : w.packet.ptype = 6) (hopens : isRailPort port = false ∨ (s.session w.dst).up = false) :
    ∃ t, exec (.packetSend port) s = .next t ∧ SentOn s port w t ∧ t = { s with ports := t.ports, tags := t.tags } := by
  have hexec := exec_packetSend hport hchoose hup
  obtain ⟨tags, htransmit⟩ := State.transmit_uncounted (s := s.setPort port (y.without w)) hsession (State.counted_of_opening hsession hopens)
  rw [htransmit, State.setPort_port_self] at hexec
  exact ⟨_, hexec, sentOn_place (State.choose_may hchoose).2 (.refl _) .., s.placed_portTags ..⟩

/-- A session packet of a rekey is kept on a rail, and takes no ctr. -/
theorem exec_packetSend_counted (hsession : w.packet.ptype = 6) (hcount : s.counted port w = true) : ∃ t, exec (.packetSend port) s = .next t ∧
    SentOn s port w t ∧ t = { s with ports := t.ports, sessions := t.sessions, tags := t.tags } ∧
      (s.session w.dst).Keeps (t.session w.dst) w (s.linkTag w.lease) ∧ (t.session w.dst).ctrSent = (s.session w.dst).ctrSent := by
  have hexec := exec_packetSend hport hchoose hup
  obtain ⟨q, hshaped, htransmit⟩ := State.transmit_counted (s := s.setPort port (y.without w)) hsession hcount
  rw [htransmit, State.setPort_port_self] at hexec
  refine ⟨_, hexec, (sentOn_place (State.choose_may hchoose).2 hshaped ..).setSession .., (s.placed_portTags ..).setSession .., ?_, ?_⟩
  · rw [State.setSession_session_self]
    exact Session.keep_keeps ..
  · rw [State.setSession_session_self]
    rfl

/-- Any other packet takes its session's next ctr, and is kept on a rail. -/
theorem exec_packetSend_sealed (hsealed : w.packet.ptype ≠ 6) (hlease : w.lease = 0) (hkeys : (s.session w.dst).promoted.keys.isSome = true) :
    ∃ t, exec (.packetSend port) s = .next t ∧ SentOn s port w t ∧ t = { s with ports := t.ports, sessions := t.sessions, tags := t.tags } ∧
      (t.session w.dst).ctrSent = (s.session w.dst).promoted.ctrSent + 1 ∧ (isRailPort port = false → (t.session w.dst).stored = (s.session w.dst).stored) ∧
      (isRailPort port = true → (s.session w.dst).Keeps (t.session w.dst) w (s.linkTag w.lease) ∧
        ∃ q, (t.session w.dst).stored.getLast? = some q ∧ q.seg = w.seg) := by
  have hexec := exec_packetSend hport hchoose hup
  obtain ⟨q, tags, seg, hshaped, htransmit⟩ := State.transmit_sealed (s := s.setPort port (y.without w)) (port := port) hsealed hlease hkeys
  rw [htransmit, State.setPort_port_self] at hexec
  obtain ⟨hseq, hstored⟩ := (s.session w.dst).promoted_keeps
  refine ⟨_, hexec, (sentOn_place (State.choose_may hchoose).2 hshaped ..).setSession .., (s.placed_portTags ..).setSession .., ?_, fun hrail => ?_, fun hrail => ?_⟩
  · rw [State.setSession_session_self, ← Session.counts_ctrSent]
    split <;> rfl
  · rw [State.setSession_session_self, if_neg (by simp [hrail])]
    exact hstored
  · rw [State.setSession_session_self, if_pos hrail]
    exact ⟨(Session.keep_keeps ..).of_eq hseq hstored, _, List.getLast?_concat .., rfl⟩
end

end Sys2Proof.Machine
end

section
/-!
PROOF. The gallery transport, and the traffic of the links (O47).
-/
namespace Sys2Proof.Machine

open Sys2Proof.Claims

/-! ### End-to-end acks (R284, R285) -/

/-- An end-to-end ack covers a stored packet: its seq is at most 2^31 - 1 below the ack's. -/
def Stored.covered (ack : Nat) (m : Stored) : Bool := decide ((BitVec.ofNat 32 ack - m.seq).toNat < 2 ^ 31)

/-- A session as an end-to-end ack leaves it. -/
def Session.acked (x : Session) (now : Word64) (ack : Nat) (echo : Bool) : Session :=
  let done := x.stored.filter (·.covered ack)
  let cut := echo && x.cutAt.all fun t => decide (1600 ≤ (now - t).toNat)
  { x with stored := x.stored.filter (!·.covered ack)
           window := if cut then max 2 (x.window / 2) else if !echo && x.window ≤ x.growth + done.length then min 64 (x.window + 1) else x.window
           growth := if echo then 0 else if x.window ≤ x.growth + done.length then x.growth + done.length - x.window else x.growth + done.length
           cutAt := if cut then some now else x.cutAt
           progressAt := if done.isEmpty then x.progressAt else now, resends := if done.isEmpty then x.resends else 0, lost := x.lost && done.isEmpty }

theorem State.hearAck_eq (s : State) (peer ack : Nat) (echo : Bool) : s.hearAck peer ack echo =
    (((s.session peer).stored.filter (·.covered ack)).foldl (fun s m => s.dropTag? m.tag)
      (s.setSession peer ((s.session peer).acked s.time ack echo))).settleDrains := rfl

theorem Session.acked_stored (x : Session) (now : Word64) (ack : Nat) (echo : Bool) :
    (x.acked now ack echo).stored = x.stored.filter fun m => decide (2 ^ 31 ≤ (BitVec.ofNat 32 ack - m.seq).toNat) := by
  refine List.filter_congr fun m _ => ?_
  rw [Stored.covered, ← decide_not]
  exact decide_eq_decide.mpr Nat.not_lt

/-- A congestion mark that comes back halves the window. -/
theorem Session.acked_window (x : Session) (now : Word64) (ack : Nat) (hcut : x.cutAt = none) : (x.acked now ack true).window = max 2 (x.window / 2) :=
  if_pos (by rw [hcut]; rfl)

section
variable {s t : State} (h : GivesUp s t)
include h

theorem GivesUp.session (g : Nat) : t.session g = s.session g := by
  rw [h.frame]
  rfl

theorem GivesUp.port (q : Nat) : t.port q = s.port q := congrArg (SMap.get DarvalPort.reset · q) h.ports

theorem GivesUp.calm (hs : Calm s) : Calm t := Calm.of_ateliers hs (by rw [h.frame])
end

/-- A tag of a list of stored packets is free once each has dropped its own. -/
theorem State.dropTag?_fold_frees {l : List Stored} {m : Stored} (hm : m ∈ l) {g : Nat} (hg : m.tag = some g) {f : State → Stored → State}
    (hf : ∀ s m, GivesUp (s.dropTag? m.tag) (f s m)) (s : State) : SMap.find? (l.foldl f s).tags g = none := by
  refine foldl_of_mem (P := fun t : State => SMap.find? t.tags g = none) GivesUp.refl GivesUp.trans (fun t m => (t.dropTag?_givesUp m.tag).trans (hf t m))
    (fun _ _ h => h.free g) hm fun t _ => (hf t m).free g ?_
  rw [hg]
  exact (t.dropTag_find ..).trans (if_pos rfl)

theorem exec_endToEndAck {s : State} {port : Nat} {p : Packet} (hport : port < 20)
    (hp : (s.port port).packets.find? (fun p => decide (p.ptype = 5)) = some p) (hcalm : Calm s) : ∃ t, exec (.endToEndAck port) s = .next t ∧
      (t.session p.src).stored = (s.session p.src).stored.filter (fun m => decide (2 ^ 31 ≤ (BitVec.ofNat 32 p.ack - m.seq).toNat)) ∧
      (∀ m ∈ (s.session p.src).stored, (BitVec.ofNat 32 p.ack - m.seq).toNat < 2 ^ 31 → ∀ g, m.tag = some g → SMap.find? t.tags g = none) ∧
      (p.ce = true → (s.session p.src).cutAt = none → (t.session p.src).window = max 2 ((s.session p.src).window / 2)) ∧
      (t.port port).packets = (s.port port).packets.erase p := by
  have hexec : exec (.endToEndAck port) s = .next ((s.takePacket port p).hearAck p.src p.ack p.ce) := by
    rw [show exec (.endToEndAck port) s = packetRow port 5 s (fun _ => true) fun s p => s.hearAck p.src p.ack p.ce from rfl]
    exact exec_packetRow hport hp fun s p => s.hearAck p.src p.ack p.ce
  rw [State.hearAck_eq, show (s.takePacket port p).session p.src = s.session p.src from rfl] at hexec
  generalize hl : (s.session p.src).stored.filter (·.covered p.ack) = l at hexec
  generalize hu : (s.takePacket port p).setSession p.src ((s.session p.src).acked (s.takePacket port p).time p.ack p.ce) = u at hexec
  have hgives : GivesUp u (l.foldl (fun s m => s.dropTag? m.tag) u) := GivesUp.foldl (fun t m => t.dropTag?_givesUp m.tag) l u
  have hsession : (l.foldl (fun s m => s.dropTag? m.tag) u).session p.src = (s.session p.src).acked (s.takePacket port p).time p.ack p.ce := by
    rw [hgives.session, ← hu, State.setSession_session_self]
  rw [State.settleDrains_of_calm (hgives.calm (Calm.of_ateliers hcalm (by rw [← hu]; rfl)))] at hexec
  refine ⟨_, hexec, ?_, fun m hm hcovered g hg => ?_, fun hce hcut => ?_, ?_⟩
  · rw [hsession, Session.acked_stored]
  · refine State.dropTag?_fold_frees ?_ hg (fun t m => .refl _) u
    rw [← hl]
    exact List.mem_filter.mpr ⟨hm, decide_eq_true hcovered⟩
  · rw [hsession, hce, Session.acked_window _ _ _ hcut]
  · rw [hgives.port, ← hu, State.setSession_port, State.takePacket, State.setPort_port_self]

/-! ### The transport's timers (R284) -/

theorem State.takeLinkTag_port (s : State) (lease q : Nat) : (s.takeLinkTag lease).port q = s.port q := by
  rw [State.takeLinkTag_frame]
  rfl

/-- A packet waits last on its channel at the port that leads to its peer. -/
theorem State.sendPacket_of_route {s : State} {peer vc r : Nat} (hroute : s.route peer = some r) (hcarries : s.carries r vc = true) (ptype lease : Nat)
    (info : List (Nat × Nat × Nat)) (payload : Bytes) (seg : Option (Nat × Nat)) : s.sendPacket peer vc ptype lease info payload seg =
      (s.takeLinkTag lease).queueUp r vc (SMap.get [] (s.port r).queues vc ++ [s.waiting peer vc ptype lease info payload seg]) := by
  have hfound : (s.route peer).filter (fun p => s.carries p vc) = some r := by rw [hroute, Option.filter_some, if_pos hcarries]
  rw [State.sendPacket, hfound, State.queueUp, State.takeLinkTag_port]
  rfl

section
variable {s : State} {peer : Nat} (hpeer : peer < 1024) (hrail : s.onRail peer = true) (hup : (s.session peer).up = true)
include hpeer hrail hup

/-- Without progress everything unacknowledged is sent again. -/
theorem exec_galleryRetransmission (hstored : (s.session peer).stored ≠ []) (hresends : (s.session peer).resends < 8)
    (hstate : (s.port (s.railPort (peer / 16))).state = .up) : ∃ t, exec (.galleryRetransmission peer) s = .next t ∧
      t.port (s.railPort (peer / 16)) = DarvalPort.resend peer (s.session peer).stored (s.port (s.railPort (peer / 16))) ∧
      t.session peer = { s.session peer with resends := (s.session peer).resends + 1, progressAt := t.time, leftOn := s.railPort (peer / 16) } ∧
      ((s.session peer).progressAt + 1600).toNat ≤ t.time.toNat ∧ t = { s with ports := t.ports, sessions := t.sessions, time := t.time } := by
  have hexec : exec (.galleryRetransmission peer) s = execGalleryRetransmission peer s := rfl
  rw [execGalleryRetransmission, onUnit_of_lt hpeer] at hexec
  generalize (s.session peer).progressAt + 1600 = expiry at hexec ⊢
  have hport : (s.reach expiry).railPort (peer / 16) = s.railPort (peer / 16) := rfl
  have hagain : (s.reach expiry).sendAgain peer = ((s.reach expiry).setPort (s.railPort (peer / 16))
      (DarvalPort.resend peer (s.session peer).stored (s.port (s.railPort (peer / 16))))).setSession peer
        { s.session peer with leftOn := s.railPort (peer / 16) } := if_pos hstate
  dsimp only at hexec
  rw [hagain, State.setSession_session_self] at hexec
  refine ⟨_, hexec.trans (whenDue_of_due ?_ ..), ?_, ?_, (s.reach_time_le expiry).1, ?_⟩
  · simp [hrail, hup, hstored, hresends, hport, hstate]
  · rw [State.setSession_port, State.setSession_port, State.setPort_port_self]
  · rw [State.setSession_session_self]
    rfl
  · rfl

theorem exec_endToEndAckTimer (hsince : 0 < (s.session peer).unackedSince) : ∃ t, exec (.endToEndAckTimer peer) s = .next t ∧
    t.session peer = { s.session peer with unackedSince := 0 } ∧ SMap.get [] (t.port (s.railPort (peer / 16))).queues 0 =
      SMap.get [] (s.port (s.railPort (peer / 16))).queues 0 ++ [⟨⟨packetHeader 0 5 0 s.gidx peer 0 0 0 [], []⟩, peer, 0, s.linkTag 0, none⟩] ∧
      (∀ g, s.linkTag 0 = some g → (SMap.find? t.tags g).isSome = true) ∧ t = { s with ports := t.ports, sessions := t.sessions, tags := t.tags } := by
  have hexec : exec (.endToEndAckTimer peer) s = .next (s.sendEndAck peer) := by
    rw [show exec (.endToEndAckTimer peer) s = execEndToEndAckTimer peer s from rfl, execEndToEndAckTimer, onUnit_of_lt hpeer]
    exact whenDue_of_due (by simp [hrail, hup, hsince]) ..
  have hroute : (s.setSession peer { s.session peer with unackedSince := 0 }).route peer = some (s.railPort (peer / 16)) :=
    State.route_of_onRail (s := s.setSession peer { s.session peer with unackedSince := 0 }) hrail
  rw [State.sendEndAck, State.sendPacket_of_route hroute (State.carries_even _ _ rfl)] at hexec
  refine ⟨_, hexec, ?_, ?_, fun g hg => State.takeLinkTag_taken (s := s.setSession peer { s.session peer with unackedSince := 0 }) hg, ?_⟩
  · rw [State.queueUp, State.setPort_session, State.takeLinkTag_frame]
    exact State.setSession_session_self ..
  · rw [State.queueUp_queue, if_pos ⟨rfl, rfl⟩]
    rfl
  · rw [State.queueUp, State.takeLinkTag_frame]
    rfl
end

/-! ### A rail destination lost (R284, R298) -/

section
variable {s : State} {peer : Nat}

/-- What the gallery store keeps for a destination given up. -/
def State.dropStored (s : State) (l : List Stored) : State := l.foldl (fun s p => (s.dropTag? p.tag).answerSegment p.seg 0x05) s

theorem State.dropStored_givesUp (s : State) (l : List Stored) : GivesUp s (s.dropStored l) :=
  GivesUp.foldl (f := fun s (p : Stored) => (s.dropTag? p.tag).answerSegment p.seg 0x05)
    (fun t m => (t.dropTag?_givesUp m.tag).trans (State.answerSegment_givesUp ..)) l s

/-- The state in which a destination's peers are told of its loss. -/
def State.storeLost (s : State) (peer : Nat) : State :=
  (s.dropStored (s.session peer).stored).setSession peer { s.session peer with stored := [], lost := true, resends := 0 }

theorem State.storeLost_runsOn (s : State) (peer : Nat) : RunsOn s (s.storeLost peer) := by
  have hgives := s.dropStored_givesUp (s.session peer).stored
  unfold State.storeLost
  generalize s.dropStored (s.session peer).stored = t at hgives
  refine ⟨?_, ?_, ?_, ?_, ?_, hgives.recounts.trans (Aside.recounts ⟨rfl, rfl⟩)⟩
  · exact (congrArg State.installation hgives.frame).trans rfl
  · exact (congrArg State.collectives hgives.frame).trans rfl
  · exact (congrArg State.ateliers hgives.frame).trans rfl
  · exact (congrArg State.leases hgives.frame).trans rfl
  · exact (congrArg State.mstate hgives.frame).trans rfl

theorem exec_railDestinationLost (hpeer : peer < 1024) (hrail : s.onRail peer = true) (hstored : (s.session peer).stored ≠ [])
    (hresends : 8 ≤ (s.session peer).resends) : exec (.railDestinationLost peer) s =
      .next ((s.storeLost peer).loseBeyond (· = peer) 0x0405 (s.railPort (peer / 16))).settleDrains := by
  have hport : (s.dropStored (s.session peer).stored).railPort (peer / 16) = s.railPort (peer / 16) :=
    State.railPort_congr (fun q => by rw [(s.dropStored_givesUp _).port]) _
  rw [← hport, show exec (.railDestinationLost peer) s = execRailDestinationLost peer s from rfl, execRailDestinationLost, onUnit_of_lt hpeer]
  exact whenDue_of_due (by simp [hrail, hstored, hresends]) ..

theorem exec_railDestinationLost_calm (hpeer : peer < 1024) (hrail : s.onRail peer = true) (hstored : (s.session peer).stored ≠ [])
    (hresends : 8 ≤ (s.session peer).resends) (hnone : s.collectives = []) (hcalm : Calm s) : ∃ t, exec (.railDestinationLost peer) s = .next t ∧
      t.session peer = { s.session peer with stored := [], lost := true, resends := 0 } ∧
      (∃ en, t.blotter.entries.getLast? = some en ∧ en.code = 0x0205 ∧ en.handles = [s.railPort (peer / 16)]) ∧
      (∀ m ∈ (s.session peer).stored, ∀ g, m.tag = some g → SMap.find? t.tags g = none) ∧
      ∀ q < 20, ∀ v < 4, ∀ w ∈ SMap.get [] (t.port q).queues v, w.dst ≠ peer := by
  have hexec := exec_railDestinationLost hpeer hrail hstored hresends
  have hruns := s.storeLost_runsOn peer
  have hcollectives : (s.storeLost peer).collectives = [] := hruns.collectives.trans hnone
  obtain ⟨u, hu, heq⟩ := State.loseBeyond_of_none hcollectives (· = peer) 0x0405 (s.railPort (peer / 16))
  have hateliers : (u.note 0x0205 [s.railPort (peer / 16)]).ateliers = s.ateliers := by
    rw [State.note_ateliers, hu.frame]
    exact hruns.ateliers
  have hlast := (s.storeLost peer).loseBeyond_last (· = peer) 0x0405 (s.railPort (peer / 16))
  have hleft {q v : Nat} (hq : q < 20) (hv : v < 4) := (s.storeLost peer).loseBeyond_left (· = peer) 0x0405 (s.railPort (peer / 16)) hq hv
  rw [heq] at hexec hlast hleft
  rw [State.settleDrains_of_calm (Calm.of_ateliers hcalm hateliers)] at hexec
  refine ⟨_, hexec, ?_, hlast, fun m hm g hg => ?_, fun q hq v hv w hw => of_decide_eq_false (hleft hq hv w hw)⟩
  · rw [State.note_session, hu.session, State.storeLost, State.setSession_session_self]
  · rw [State.note_tags]
    exact hu.free g (State.dropTag?_fold_frees hm hg (fun t m => State.answerSegment_givesUp ..) s)

theorem exec_railDestinationLost_strikes (hpeer : peer < 1024) (hrail : s.onRail peer = true) (hstored : (s.session peer).stored ≠ [])
    (hresends : 8 ≤ (s.session peer).resends) {y : CollRun} {j : Job} (hy : y ∈ s.collectives) (hlaunched : y.launched.isSome = true)
    (hopen : y.complete = false) (haborted : y.aborted = none) (hj : SMap.find? s.jobs y.job = some j) (hmay : MayFault s j.atelier)
    (hreset : (s.atelier j.atelier).resetting = none) (hmember : peer ∈ j.members) (hne : peer ≠ s.gidx) :
    ∃ t, exec (.railDestinationLost peer) s = .next t ∧ t.Struck j.atelier 0x0405 := by
  have hstrikes := s.storeLost_runsOn peer |>.strikes hy hlaunched hopen haborted hj hmay hreset hmember hne (lost := (· = peer)) (decide_eq_true rfl)
    0x0405 (s.railPort (peer / 16))
  exact ⟨_, exec_railDestinationLost hpeer hrail hstored hresends, State.settleDrains_struck hstrikes⟩
end

/-! ### The obligation -/

/-- Settles O47: codewords are taken or answered (`exec_codewordReceive_naks`, `exec_ackAndCredit`), a packet sent is one that may go out
(`State.choose_may`) and leaves as its kind does (`exec_packetSend_sealed`), and what is kept of it is acknowledged, sent again or given up
(`exec_endToEndAck`, `exec_galleryRetransmission`, `exec_railDestinationLost_strikes`). -/
theorem linkTraffic : Obligations.LinkTraffic := by
  unfold Obligations.LinkTraffic
  intro s port hport x
  refine ⟨fun errors cseq map flits hstate hroom hbad => exec_codewordReceive_naks hport hstate hroom hbad map flits,
    fun errors cseq map flits hstate hstage hroom hunheard hbad => exec_codewordReceive_hello hport hstate hstage hroom hunheard hbad map flits,
    fun errors cseq flits hgood hstate hseq hsince hlength hflits => exec_codewordReceive_control hport hgood hstate hseq hsince hlength hflits,
    fun f rest hcontrol hkind hcalm => exec_ackAndCredit hport hcontrol hkind hcalm,
    fun y w hchoose => State.maySend_carries (State.choose_may hchoose).1, fun y w hchoose hup => ?_,
    fun p hp hcalm => exec_endToEndAck hport hp hcalm, fun peer hpeer hrail hup => ?_⟩
  · intro z sent kept
    have hsent {t : State} (h : SentOn s port w t) : sent t := ⟨h.credits, h.queue, h.tagged, h.takes⟩
    refine ⟨fun hsession hopens => ?_, fun hsession hrail hopen hlost hkind => ?_, fun hsealed hlease hkeys => ?_⟩
    · obtain ⟨t, hexec, hs, hframe⟩ := exec_packetSend_uncounted hport hchoose hup hsession hopens
      exact ⟨t, hexec, hsent hs, hframe⟩
    · obtain ⟨t, hexec, hs, hframe, hkeeps, hctr⟩ := exec_packetSend_counted hport hchoose hup hsession (State.counted_of_rekey hrail hopen hlost hkind)
      exact ⟨t, hexec, hsent hs, hframe, hkeeps, hctr⟩
    · obtain ⟨t, hexec, hs, hframe, hctr, hstored, hkept⟩ := exec_packetSend_sealed hport hchoose hup hsealed hlease hkeys
      exact ⟨t, hexec, hsent hs, hframe, hctr, hstored, hkept⟩
  · refine ⟨exec_galleryRetransmission hpeer hrail hup, exec_endToEndAckTimer hpeer hrail hup,
      fun hstored hresends hnone hcalm => exec_railDestinationLost_calm hpeer hrail hstored hresends hnone hcalm,
      fun hstored hresends hcalm y hy j hlaunched hopen haborted hj hmay hreset hscatters hmember hne => ?_⟩
    obtain ⟨t, hexec, hstruck⟩ := exec_railDestinationLost_strikes hpeer hrail hstored hresends hy hlaunched hopen haborted hj hmay hreset hmember hne
    exact ⟨t, hexec, hstruck.faulted, hstruck.fcode⟩

end Sys2Proof.Machine
end
